-- ==== Sys2Proof/Word.lean ====
section
/-! DEFINITION. The word types and index types of the TY2048-A, and the plainest arithmetic on them (R5, R6). -/

namespace Sys2Proof

/-- A register word: software reads and writes registers only as aligned 64-bit words (R8). -/
abbrev Word := BitVec 64

/-- One byte of memory. -/
abbrev Byte := BitVec 8

/-- Station index S0 to S7 (R5). -/
abbrev Stn := Fin 8

/-- Griddle quadrant index Q0 to Q3 (R5). -/
abbrev Quad := Fin 4

/-- Compute die index C0 to C3; also the index of its Tongs, Mortar and Crock slice group (R5). -/
abbrev Die := Fin 4

/-- Memory stack index s; also of its memory controller and its Whisk (R5). -/
abbrev Stack := Fin 20

/-- Keyring port index KP00 to KP63 (R5). -/
abbrev Port := Fin 64

/-- Control core index c; 16 is the trusted core and 17 the service core (R5, R201). -/
abbrev Core := Fin 18

/-- Bits [hi:lo] of a natural number, both ends included (R6). -/
def bitsOf (v hi lo : Nat) : Nat := (v >>> lo) % 2 ^ (hi + 1 - lo)

/-- Bit k of a natural number. -/
def bitOf (v k : Nat) : Bool := v.testBit k

/-- The two's complement reading of the low w bits of v. -/
def signedOf (v w : Nat) : Int :=
  let u := v % 2 ^ w
  if 2 ^ w ≤ 2 * u then (u : Int) - 2 ^ w else u

/-- The low w bits of an integer, in two's complement. -/
def wrapInt (i : Int) (w : Nat) : Nat := (i % (2 ^ w : Int)).toNat

/-- 1 for true and 0 for false. -/
def b2n (b : Bool) : Nat := if b then 1 else 0

/-- A saturating increment of a counter of w bits. -/
def satAdd (v k w : Nat) : Nat := min (v + k) (2 ^ w - 1)

end Sys2Proof
end

