-- ==== Sys2Proof/Syntax.lean ====
section
/-! DEFINITION. The commands of the block: one constructor per row of the table of operations and events
(spec/opcode_table.json), with the operands this model gives the row. The table gives no operand fields, so the
operands are the unit a step belongs to, the word that is written, and what the state of the module cannot
determine (a sensor's reading, the outcome of an ECC decode, a received flit, the verdict of a signature check).
A constructor's docstring names the row's rule. -/

namespace Sys2Proof

/-- Who makes a register access (R201, R325). -/
inductive Master where
  | host
  | jtag
  | smbus
  | core (c : Core)
  | port (p : Port)
  deriving DecidableEq, Repr

/-- Outcome of an ECC decode at a memory controller (R227 to R229). -/
inductive Ecc where
  | clean
  | onDie           -- the stack reports a single-bit correction (CE1)
  | symbol          -- the controller corrects one symbol (CE2)
  | uncorrectable   -- detected and not correctable
  deriving DecidableEq, Repr

/-- Why a received flit fails (R246). -/
inductive FlitFail where
  | fec
  | lcrc
  | gcm
  deriving DecidableEq, Repr

/-- What a cell or an island of the array sees wrong in a wave (R74, R75). -/
structure Mis where
  /-- true for an island-entry slip (R75), false for a cell slip (R74) -/
  entry : Bool
  island : Fin 64
  exp : Nat
  got : Nat
  deriving DecidableEq, Repr

/-- The link header of R241 but for FULL, VC and LCRC, which follow from the rest of the flit. -/
structure LinkHdr where
  typ : Nat
  enc : Bool
  key : Nat
  seq : Nat
  ack : Nat
  crd : Nat
  crdVc : Nat
  deriving DecidableEq, Repr

/-- The header of a flit that no port has sent yet. -/
def LinkHdr.zero : LinkHdr := ⟨0, false, 0, 0, 0, 0, 0⟩

/-- A Keyring flit's transaction header and payload (R242), with the link header (R241). -/
structure Flit where
  op : Nat
  vc : Nat
  src : Nat
  dst : Nat
  sstn : Nat
  hops : Nat
  flow : Nat
  tag : Nat
  psn : Nat
  len : Nat
  addr : Nat
  payload : List Byte
  lh : LinkHdr := LinkHdr.zero
  /-- the port in whose receive buffer a flit on its way through still stands, and its cells there (R244) -/
  inp : Option (Nat × Nat) := none
  deriving DecidableEq, Repr

/-- KV lane width code W in field [14:12] (R208). -/
abbrev KvW := BitVec 3

/-- What an operation's boundary counts: acyc from its first wave or held load to its boundary (R79) and, by quadrant, acyc
since the last boundary with a wave in flight there (R81). -/
structure Span where
  acyc : Nat
  busy : List Nat := []
  deriving DecidableEq, Repr

/-- An outstanding request: its tag and the node it went to (R261). -/
structure ReqKey where
  node : Nat
  tag : Nat
  deriving DecidableEq, Repr

/-- The commands, one per row of the table. -/
inductive Instr where
  -- recipes and the command stream
  /-- NOP (R137) at station n's sequencer of quadrant q. -/
  | nop (n : Stn) (q : Quad)
  /-- LDT (R98); upset: the recipe word's read met a double error (R232). -/
  | ldt (n : Stn) (q : Quad) (upset : Bool)
  /-- STT (R98). -/
  | stt (n : Stn) (q : Quad) (upset : Bool)
  /-- LDT_COMPLETE (R98) of transfer i; glitch: the first read of a tag check was corrupt (R303). -/
  | ldtComplete (i : Nat) (glitch : Bool)
  /-- STT_COMPLETE (R98) of transfer i. -/
  | sttComplete (i : Nat)
  /-- AGL (R95). -/
  | agl (n : Stn) (q : Quad)
  /-- AGH (R95). -/
  | agh (n : Stn) (q : Quad)
  /-- GOP (R102) of station n's launch. -/
  | gop (n : Stn)
  /-- LPG (R103). -/
  | lpg (n : Stn) (q : Quad)
  /-- SPK OPEN (R127). -/
  | spkOpen (n : Stn) (q : Quad)
  /-- SPK COMMIT (R131). -/
  | spkCommit (n : Stn) (q : Quad)
  /-- SPK DISCARD (R132). -/
  | spkDiscard (n : Stn) (q : Quad)
  /-- SPK_DONE: outstanding SPK OPEN or DISCARD i finishes. -/
  | spkDone (i : Nat)
  /-- COMMIT_GATE: outstanding COMMIT i passes its gate (R131). -/
  | commitGate (i : Nat)
  /-- COMMIT_DONE: outstanding COMMIT i's write acks are in (R131). -/
  | commitDone (i : Nat)
  /-- TSG (R105, R278). -/
  | tsg (n : Stn) (q : Quad)
  /-- TWT (R105, R281). -/
  | twt (n : Stn) (q : Quad)
  /-- TBA (R105, R284). -/
  | tba (n : Stn)
  /-- DWK (R106). -/
  | dwk (n : Stn) (q : Quad)
  /-- DTG (R106). -/
  | dtg (n : Stn) (q : Quad)
  /-- DMT (R106). -/
  | dmt (n : Stn) (q : Quad)
  /-- FEN (R107). -/
  | fen (n : Stn) (q : Quad)
  /-- SETP (R108). -/
  | setp (n : Stn)
  /-- END (R109). -/
  | endR (n : Stn)
  /-- UNASSIGNED_OPCODE (R92). -/
  | unassignedOpcode (n : Stn) (q : Quad)
  /-- GANG_ISSUE (R84). -/
  | gangIssue (n : Stn) (upset : Bool)
  /-- RECIPE_BOUNDARY (R109). -/
  | recipeBoundary (n : Stn)
  /-- SEQ_LAUNCH (R82): the word written to station n's SEQ_LAUNCH. -/
  | seqLaunch (m : Master) (n : Stn) (v : Word)
  /-- BANK_SWAP (R90): the word written to SEQ_BANK of station n on quadrant q. -/
  | bankSwap (m : Master) (n : Stn) (q : Quad) (v : Word)
  /-- RECIPE_MEMORY_WRITE (R89): 64 bits at a recipe-memory address. -/
  | recipeMemoryWrite (m : Master) (addr : Nat) (v : Word)
  /-- PARAM_WRITE (R94): parameter register i of station n. -/
  | paramWrite (m : Master) (n : Stn) (i : Fin 256) (v : Word)
  -- the Griddle and the Ladle
  /-- GOP_GRANT (R79). -/
  | gopGrant
  /-- WAVE_INJECT (R74): the next wave; mis: what cells and islands see wrong in one acyc; upset: a Tray read double
  error. -/
  | waveInject (mis : List Mis) (upset : Bool)
  /-- COLUMN_RESULT (R112): the next column result, in delivery order. -/
  | columnResult (upset : Bool) (laneDiff : Bool)
  /-- TILE_RELEASE (R153). -/
  | tileRelease
  /-- OPERATION_BOUNDARY (R73). -/
  | operationBoundary (t : Span)
  /-- SIEVE_VERDICT (R307) of the oldest queued tile. -/
  | sieveVerdict
  /-- RFLUSH (R147). -/
  | rflush (m : Master) (n : Stn) (v : Word)
  /-- RFLUSH_DONE (R147). -/
  | rflushDone (n : Stn)
  /-- STOCKPOT_SCAN (R148). -/
  | stockpotScan (m : Master) (q : Quad) (n : Stn) (v : Word)
  /-- STOCKPOT_SCAN_DONE (R148). -/
  | stockpotScanDone (q : Quad) (n : Stn)
  -- Whisk
  /-- WSK_DOORBELL (R180). -/
  | wskDoorbell (m : Master) (w : Stack) (n : Stn) (v : Word)
  /-- CHAIN_START (R167). -/
  | chainStart (w : Stack)
  /-- GEMV (R163); glitch as in LDT_COMPLETE. -/
  | gemv (w : Stack) (glitch : Bool)
  /-- BSRMV (R163). -/
  | bsrmv (w : Stack)
  /-- AXPBY (R163). -/
  | axpby (w : Stack)
  /-- DOT (R163). -/
  | dot (w : Stack)
  /-- ADAMW (R165). -/
  | adamw (w : Stack)
  /-- CHAIN_END (R164). -/
  | chainEnd (w : Stack)
  -- Tongs
  /-- TNG_DOORBELL (R181). -/
  | tngDoorbell (m : Master) (d : Die) (n : Stn) (v : Word)
  /-- GATHER (R172). -/
  | gather (d : Die)
  /-- SCATTER (R173). -/
  | scatter (d : Die)
  /-- HASH_FWD (R174). -/
  | hashFwd (d : Die)
  /-- HASH_BWD (R174). -/
  | hashBwd (d : Die)
  /-- TRANSPOSE (R172). -/
  | transpose (d : Die)
  /-- PARK_TMO (R178): parked descriptor i of Tongs d. -/
  | parkTmo (d : Die) (i : Nat)
  /-- TONGS_DONE (R168): finished descriptor i of Tongs d. -/
  | tongsDone (d : Die) (i : Nat)
  /-- TABLE_BUILD (R177). -/
  | tableBuild (m : Master) (n : Stn) (t : Fin 16)
  /-- TABLE_DONE (R177). -/
  | tableDone (m : Master) (n : Stn) (t : Fin 16)
  /-- TABLE_SWAP (R177). -/
  | tableSwap (m : Master) (n : Stn) (t : Fin 16)
  /-- TABLE_ABANDON (R177). -/
  | tableAbandon (m : Master) (n : Stn) (t : Fin 16)
  -- Mortar
  /-- MTR_DOORBELL (R200). -/
  | mtrDoorbell (m : Master) (d : Die) (n : Stn) (v : Word)
  /-- SOLVE (R184, R186). -/
  | solve (d : Die)
  /-- ADJOINT (R196). -/
  | adjoint (d : Die)
  /-- LINEAR_PHASE_END (R188, R191). -/
  | linearPhaseEnd (d : Die)
  /-- DEADLINE_CHECK (R192). -/
  | deadlineCheck (d : Die)
  /-- SOLVE_END (R198). -/
  | solveEnd (d : Die)
  /-- KEEP_FACTORISATION (R196). -/
  | keepFactorisation (d : Die)
  /-- LOCAL_MEMORY_CLEAR (R183). -/
  | localMemoryClear (d : Die)
  -- Tumbler
  /-- CNT_ADD (R262). -/
  | cntAdd (p : Port) (f : Flit)
  /-- VALUE_WRITE (R278): absolute counter i. -/
  | valueWrite (m : Master) (i : Fin 4096) (v : BitVec 32)
  /-- LIMIT_WRITE (R278). -/
  | limitWrite (m : Master) (i : Fin 4096) (v : BitVec 32)
  /-- WREG_GO (R281): the word written to 0x208 + n·0x10. -/
  | wregGo (m : Master) (n : Stn) (v : Word)
  /-- NOTIFICATION (R281): the oldest notification in flight. -/
  | notification
  /-- TWT_TMO (R281). -/
  | twtTmo (n : Stn) (q : Quad)
  /-- WATCH_TMO (R281): core watch w. -/
  | watchTmo (w : Fin 1024)
  /-- ENTER (R284): barrier b. -/
  | enter (m : Master) (b : Fin 256)
  /-- ARRIVE (R283). -/
  | arrive (p : Port) (f : Flit)
  /-- RELEASE (R283). -/
  | release (p : Port) (f : Flit)
  /-- BARRIER_ENABLE (R286): the word written to 0x3000 + b·0x10. -/
  | barrierEnable (m : Master) (b : Fin 256) (v : Word)
  /-- BARRIER_DISABLE (R289). -/
  | barrierDisable (m : Master) (b : Fin 256) (v : Word)
  /-- BTMO (R287). -/
  | btmo (b : Fin 256)
  -- Keyring links
  /-- FLIT_TRANSMIT (R244). -/
  | flitTransmit (p : Port)
  /-- CREDIT (R241, R244): ACK, CRD and CRD_VC of a received flit. -/
  | credit (p : Port) (ack : Nat) (crd : Nat) (vc : Fin 4)
  /-- NAK (R246). -/
  | nak (p : Port) (seq : Nat)
  /-- FAILED_FLIT (R246). -/
  | failedFlit (p : Port) (seq : Nat) (why : FlitFail)
  /-- BAD_OP (R243). -/
  | badOp (p : Port) (f : Flit)
  /-- REPLAY_TMO (R247). -/
  | replayTmo (p : Port)
  /-- FEC_LOCK (R248). -/
  | fecLock (p : Port)
  /-- HELLO_TIMER (R256). -/
  | helloTimer (p : Port)
  /-- HELLO (R256). -/
  | hello (p : Port) (f : Flit)
  /-- KEYX (R363); ok: the signature and allow-list check; key, salt: what HKDF derives. -/
  | keyx (p : Port) (f : Flit) (ok : Bool) (key : BitVec 256) (salt : BitVec 32)
  /-- KEYX_TMO (R363). -/
  | keyxTmo (p : Port)
  /-- KSWITCH (R254). -/
  | kswitch (m : Master) (p : Port)
  -- Keyring transactions
  /-- WR (R261). -/
  | wr (p : Port) (f : Flit)
  /-- RD (R261). -/
  | rd (p : Port) (f : Flit)
  /-- RD_RSP (R261). -/
  | rdRsp (p : Port) (f : Flit)
  /-- WR_ACK (R261). -/
  | wrAck (p : Port) (f : Flit)
  /-- ERR_RSP (R263). -/
  | errRsp (p : Port) (f : Flit)
  /-- TAGW (R243, R303). -/
  | tagw (p : Port) (f : Flit) (glitch : Bool)
  /-- FORWARD (R259). -/
  | forward (p : Port) (f : Flit)
  /-- FWD_TMO (R260). -/
  | fwdTmo (p : Port)
  /-- REQ_TMO (R263). -/
  | reqTmo (t : ReqKey)
  /-- MGMT_RD (R257). -/
  | mgmtRd (p : Port) (f : Flit)
  /-- MGMT_WR (R257); relayed: the request came by relay from a neighbour. -/
  | mgmtWr (p : Port) (f : Flit)
  /-- MGMT_RSP (R257). -/
  | mgmtRsp (p : Port) (f : Flit)
  /-- MGMT_RELAY (R257). -/
  | mgmtRelay (p : Port) (f : Flit)
  -- time
  /-- PTP (R272, R273): a received 1588 message. -/
  | ptp (p : Port) (f : Flit)
  /-- SYNC_LOSS (R273). -/
  | syncLoss
  /-- PPS_IN (R399): the global time stamped at the edge. -/
  | ppsIn (stamp : Nat)
  /-- PPS_LOSS (R399). -/
  | ppsLoss
  -- port and node configuration
  /-- PORT_ENABLE (R248): the word written to KP_CTL. -/
  | portEnable (m : Master) (p : Port) (v : Word)
  /-- PORT_DISABLE (R248). -/
  | portDisable (m : Master) (p : Port) (v : Word)
  /-- METRO_WRITE (R249). -/
  | metroWrite (m : Master) (p : Port) (v : Word)
  /-- NODEID_WRITE (R255). -/
  | nodeidWrite (m : Master) (v : Word)
  -- collectives
  /-- COLL_DOORBELL (R265). -/
  | collDoorbell (m : Master) (n : Stn) (v : Word)
  /-- ALLREDUCE (R268). -/
  | allreduce (n : Stn)
  /-- ORDERED_REDUCE (R267). -/
  | orderedReduce (n : Stn)
  /-- REDUCE_SCATTER (R268). -/
  | reduceScatter (n : Stn)
  /-- ALLGATHER (R268, R338). -/
  | allgather (n : Stn)
  /-- SUMSQ (R269). -/
  | sumsq (n : Stn)
  /-- PERMUTE (R270). -/
  | permute (n : Stn)
  /-- COLL_DATA (R243, R267). -/
  | collData (p : Port) (f : Flit)
  /-- COLL_CTL (R243, R270). -/
  | collCtl (p : Port) (f : Flit)
  /-- COLLECTIVE_DONE (R265). -/
  | collectiveDone (n : Stn)
  /-- COLL_TMO (R271). -/
  | collTmo (n : Stn)
  /-- DIGEST_SCAN (R341). -/
  | digestScan (m : Master) (n : Stn) (v : Word)
  /-- DIGEST_SCAN_DONE (R341). -/
  | digestScanDone (n : Stn)
  -- memory
  /-- HBM_READ (R229): the 64-byte access that holds addr. -/
  | hbmRead (addr : Nat) (ecc : Ecc)
  /-- HBM_WRITE (R230): bytes at addr inside one 64-byte access, psn: they are poisoned. -/
  | hbmWrite (addr : Nat) (bytes : List Byte) (psn : Bool) (ecc : Ecc)
  /-- SCRUB_READ (R231): the 64-byte access at addr. -/
  | scrubRead (addr : Nat) (ecc : Ecc)
  /-- MC_LOCAL_WRITE (R218): hi selects LOCAL_HI. -/
  | mcLocalWrite (m : Master) (hi : Bool) (v : Word)
  /-- GROUP_ZEROING_DONE (R218). -/
  | groupZeroingDone
  /-- CRK_MODE (R224): slice 12d + i. -/
  | crkMode (m : Master) (k : Fin 48) (v : Word)
  /-- CRK_FLUSH (R224). -/
  | crkFlush (m : Master) (k : Fin 48) (v : Word)
  /-- CROCK_FLUSH_DONE (R224). -/
  | crockFlushDone (n : Stn)
  -- stations and reset
  /-- STATION_ENABLE (R23): the word written to SYS 0x100 + n·0x40. -/
  | stationEnable (m : Master) (n : Stn) (v : Word)
  /-- STATION_LOCK (R21). -/
  | stationLock (m : Master) (n : Stn) (v : Word)
  /-- STATION_RESTART (R365). -/
  | stationRestart (m : Master) (n : Stn)
  /-- STATION_RELEASE (R23, R365). -/
  | stationRelease (m : Master) (n : Stn) (v : Word)
  /-- STATION_RESET_FINISH (R366). -/
  | stationResetFinish (n : Stn)
  /-- ENGINE_RESET (R368): the word written to SYS_ERST. -/
  | engineReset (m : Master) (v : Word)
  /-- ENGINE_READY (R369): page of the engine. -/
  | engineReady (page : Fin 155)
  /-- CORE_RESET (R365). -/
  | coreReset (m : Master) (c : Core)
  /-- HALT (R214): the word written to CC 0x108. -/
  | halt (m : Master) (c : Core) (v : Word)
  /-- LEDGER_CONFIG (R370). -/
  | ledgerConfig (m : Master) (n : Stn) (v : Word)
  /-- MRST (R365): the word written to SYS_RST. -/
  | mrst (m : Master) (v : Word)
  /-- MOD_RST_N held low (R395). -/
  | modRstN
  /-- PERST_N low (R394). -/
  | perstN
  -- power
  /-- STANDBY_POWER_GOOD (R391). -/
  | standbyPowerGood
  /-- COMPUTE_ON (R392). -/
  | computeOn (m : Master) (v : Word)
  /-- COMPUTE_GOOD (R392); failed: stacks that failed training. -/
  | computeGood (failed : List Stack)
  /-- COMPUTE_OFF (R393). -/
  | computeOff (m : Master) (v : Word)
  /-- POWER_SAMPLE (R390): a 10 µs sample, the 1 ms mean and the 10 ms condition's input, in W; current in mA; voltage in 0.1 V. -/
  | powerSample (watts : Nat) (mean1ms : Nat) (milliamps : Nat) (decivolts : Nat)
  /-- THERMAL_SAMPLE (R386): hottest reading per die and per stack, °C. -/
  | thermalSample (tj : List Nat) (thbm : List Nat)
  /-- CLOCK_LIMIT_RAISE (R386). -/
  | clockLimitRaise
  /-- COOL_OK_LOW (R386). -/
  | coolOkLow
  /-- OVERCURRENT (R330): stage ST0 to ST7. -/
  | overcurrent (k : Fin 8)
  /-- INPUT_EXCURSION (R388): input voltage in 0.1 V. -/
  | inputExcursion (decivolts : Nat)
  /-- ARRAY_REQ (R17, R400): the word written to PWR 0x120. -/
  | arrayReq (m : Master) (v : Word)
  -- the Bolt and the common header
  /-- BOLT_EVENT (R323): the oldest event of the lowest source that waits. -/
  | boltEvent
  /-- ALERT_MIN_TIME (R331). -/
  | alertMinTime
  /-- PEND_CLEAR (R331). -/
  | pendClear (m : Master)
  /-- SEVERE_CLEAR (R326): the word written to SEVERE word j. -/
  | severeClear (m : Master) (j : Fin 3) (v : Word)
  /-- INJ_ARM (R332, R405): the word written to BLK_INJ of a page. -/
  | injArm (m : Master) (page : Fin 155) (v : Word)
  /-- ECNT_CLR (R402). -/
  | ecntClr (m : Master) (page : Fin 155)
  /-- FERR_CLEAR (R404). -/
  | ferrClear (m : Master) (page : Fin 155)
  /-- CLAMP_CLEAR (R382). -/
  | clampClear (m : Master) (page : Fin 155)
  -- snapshots
  /-- SNAP_ARM (R376): the word written to TIME 0x148. -/
  | snapArm (m : Master) (v : Word)
  /-- SNAPSHOT_LATCH (R375). -/
  | snapshotLatch
  /-- SNAP_TRIG falling edge (R376). -/
  | snapTrig
  -- integrity
  /-- SVE_STEP (R321). -/
  | sveStep (m : Master) (n : Stn) (v : Word)
  /-- DRAIN (R321). -/
  | drain (m : Master) (n : Stn)
  -- self-test
  /-- SELF_TEST_SLICE (R378): unit's page, and whether the signatures match. -/
  | selfTestSlice (page : Fin 155) (pass : Bool)
  /-- MARGIN_TEST (R380): the word written to SYS_MARGIN. -/
  | marginTest (m : Master) (v : Word)
  /-- MARGIN_TEST_END (R380). -/
  | marginTestEnd
  -- configuration locks
  /-- CFGLOCK_CORE (R407). -/
  | cfglockCore (m : Master)
  /-- CFGLOCK_NODE (R407). -/
  | cfglockNode (m : Master)
  /-- CFGLOCK_PORT (R407). -/
  | cfglockPort (m : Master)
  /-- CFGLOCK_PLAT (R407). -/
  | cfglockPlat (m : Master)
  -- register access
  /-- REGISTER_WRITE (R406): an aligned 64-bit write at a BAR0 offset. -/
  | registerWrite (m : Master) (off : Nat) (v : Word)
  /-- NARROW_ACCESS (R8): an access of size bytes at a BAR0 offset, narrow or unaligned. -/
  | narrowAccess (m : Master) (off : Nat) (size : Nat) (isWrite : Bool)
  /-- RESERVED_PAGE_ACCESS (R33). -/
  | reservedPageAccess (m : Master) (off : Nat) (isWrite : Bool)
  /-- BAR2_ACCESS (R396): a host read of len bytes, or a write of bytes, at a BAR2 offset. -/
  | bar2Access (off : Nat) (len : Nat) (data : Option (List Byte))
  -- firmware
  /-- QUOTE (R362) in mailbox m; sig: the 96 signature bytes. -/
  | quote (m : Master) (mb : Fin 9) (sig : List Byte)
  /-- EXTEND (R362). -/
  | extend (m : Master)
  /-- STAGE_LOAD (R356): the recovery image's manifest check, or the image loaded into staging. -/
  | stageLoad (m : Master) (ok : Bool)
  /-- HANDOVER (R361). -/
  | handover (m : Master)
  /-- HO_READY (R361). -/
  | hoReady
  /-- SVC_READY (R361). -/
  | svcReady
  /-- HO_TMO (R361). -/
  | hoTmo
  /-- TRAP_LIMIT (R361). -/
  | trapLimit
  /-- ACTIVATE_T (R360). -/
  | activateT (m : Master)
  /-- SET_SUCC (R358). -/
  | setSucc (m : Master)
  /-- START_CHAIN (R358). -/
  | startChain (m : Master)
  /-- SVN_COMMIT (R360). -/
  | svnCommit (m : Master)
  /-- FW_MANIFEST (R358); ok: SIG verifies (R354). -/
  | fwManifest (p : Port) (f : Flit) (sigOk : Bool)
  /-- FW_CHUNK (R358). -/
  | fwChunk (p : Port) (f : Flit)
  /-- FW_NAK (R358). -/
  | fwNak (p : Port) (f : Flit)
  /-- FW_DONE (R358). -/
  | fwDone (p : Port) (f : Flit)
  /-- CHUNK_MISSING (R358). -/
  | chunkMissing
  /-- FLASH_VERIFY (R358); progOk: programming and erase succeeded. -/
  | flashVerify (progOk : Bool)
  /-- UPD_TMO (R358). -/
  | updTmo
  -- SMBus and JTAG
  /-- SMBus command 0x10 (R397); pec: the PEC is good. -/
  | smbusSetOffset (off : BitVec 32) (pec : Bool)
  /-- SMBus command 0x11. -/
  | smbusRead (pec : Bool)
  /-- SMBus command 0x12. -/
  | smbusWrite (off : BitVec 32) (v : Word) (pec : Bool)
  /-- JTAG BYPASS (R398). -/
  | bypass
  /-- JTAG IDCODE. -/
  | idcode
  /-- JTAG SAMPLE: the pin levels sampled. -/
  | sample
  /-- JTAG EXTEST. -/
  | extest
  /-- JTAG INTEST. -/
  | intest
  /-- JTAG core debug of core c: halt or resume it. -/
  | coreDebug (c : Core) (haltIt : Bool)
  /-- JTAG module reset. -/
  | jtagReset
  -- the KV extension (c: the core that executes)
  /-- KLD kd, imm(rs1) (R207). -/
  | kld (c : Core) (kd rs1 : Fin 32) (imm : BitVec 12)
  /-- KST ks2, imm(rs1). -/
  | kst (c : Core) (ks2 rs1 : Fin 32) (imm : BitVec 12)
  /-- KLDH kd, imm(rs1). -/
  | kldh (c : Core) (kd rs1 : Fin 32) (imm : BitVec 12)
  /-- KSTH ks2, imm(rs1). -/
  | ksth (c : Core) (ks2 rs1 : Fin 32) (imm : BitVec 12)
  /-- KADD (R208). -/
  | kadd (c : Core) (kd ks1 ks2 : Fin 32) (w : KvW)
  /-- KSUB. -/
  | ksub (c : Core) (kd ks1 ks2 : Fin 32) (w : KvW)
  /-- KMUL. -/
  | kmul (c : Core) (kd ks1 ks2 : Fin 32) (w : KvW)
  /-- KAND. -/
  | kand (c : Core) (kd ks1 ks2 : Fin 32) (w : KvW)
  /-- KOR. -/
  | kor (c : Core) (kd ks1 ks2 : Fin 32) (w : KvW)
  /-- KXOR. -/
  | kxor (c : Core) (kd ks1 ks2 : Fin 32) (w : KvW)
  /-- KMIN. -/
  | kmin (c : Core) (kd ks1 ks2 : Fin 32) (w : KvW)
  /-- KMAX. -/
  | kmax (c : Core) (kd ks1 ks2 : Fin 32) (w : KvW)
  /-- KADDS. -/
  | kadds (c : Core) (kd ks1 ks2 : Fin 32) (w : KvW)
  /-- KSUBS. -/
  | ksubs (c : Core) (kd ks1 ks2 : Fin 32) (w : KvW)
  /-- KSRA. -/
  | ksra (c : Core) (kd ks1 : Fin 32) (imm : Fin 32) (w : KvW)
  /-- KSLL. -/
  | ksll (c : Core) (kd ks1 : Fin 32) (imm : Fin 32) (w : KvW)
  /-- KWMUL.LO (R209). -/
  | kwmulLo (c : Core) (kd ks1 ks2 : Fin 32) (w : KvW)
  /-- KWMUL.HI. -/
  | kwmulHi (c : Core) (kd ks1 ks2 : Fin 32) (w : KvW)
  /-- KWMULU.LO. -/
  | kwmuluLo (c : Core) (kd ks1 ks2 : Fin 32) (w : KvW)
  /-- KWMULU.HI. -/
  | kwmuluHi (c : Core) (kd ks1 ks2 : Fin 32) (w : KvW)
  /-- KWMUL4.Q0. -/
  | kwmul4Q0 (c : Core) (kd ks1 ks2 : Fin 32) (w : KvW)
  /-- KWMUL4.Q1. -/
  | kwmul4Q1 (c : Core) (kd ks1 ks2 : Fin 32) (w : KvW)
  /-- KWMUL4.Q2. -/
  | kwmul4Q2 (c : Core) (kd ks1 ks2 : Fin 32) (w : KvW)
  /-- KWMUL4.Q3. -/
  | kwmul4Q3 (c : Core) (kd ks1 ks2 : Fin 32) (w : KvW)
  /-- KDOT (R210). -/
  | kdot (c : Core) (kd ks1 ks2 : Fin 32) (w : KvW)
  /-- KDOTU. -/
  | kdotu (c : Core) (kd ks1 ks2 : Fin 32) (w : KvW)
  /-- KDOTUS. -/
  | kdotus (c : Core) (kd ks1 ks2 : Fin 32) (w : KvW)
  /-- KRSUM. -/
  | krsum (c : Core) (kd ks1 : Fin 32) (w : KvW)
  /-- KSPLAT. -/
  | ksplat (c : Core) (kd rs1 : Fin 32) (w : KvW)
  /-- KMVXK. -/
  | kmvxk (c : Core) (kd rs1 lane : Fin 32) (w : KvW)
  /-- KMVKX. -/
  | kmvkx (c : Core) (rd ks1 lane : Fin 32) (w : KvW)
  /-- ILLEGAL_INSTRUCTION (R205, R211): the 32 instruction bits. -/
  | illegalInstruction (c : Core) (bits : BitVec 32)
  -- remaining timed events and pin releases
  /-- SYNC_INTERVAL (R272). -/
  | syncInterval
  /-- ALERT_RELEASE_MIN_TIME (R331). -/
  | alertReleaseMinTime
  /-- STANDBY_CONVERTER_STOP (R387). -/
  | standbyConverterStop
  /-- COOL_OK_FALLS (R394). -/
  | coolOkFalls
  /-- MOD_RST_N_RELEASE (R395). -/
  | modRstNRelease
  /-- PERST_N_RELEASE (R396). -/
  | perstNRelease
  deriving DecidableEq, Repr

end Sys2Proof
end

