-- ==== Sys2Proof/Config.lean ====
section
/-! DEFINITION. What one part fixes, and the free values: constants without a body, of which nothing can be proved
but that they are some value. Each is named in the assumption log. -/

namespace Sys2Proof

/-- A byte the spec calls undefined (a discarded Stockpot block's contents, R132), drawn at a fresh index. -/
opaque Config.freeByte : Nat → Byte

/-- A 64-bit value the spec leaves open, drawn at a fresh index. -/
opaque Config.freeWord : Nat → Word

/-- Where in the ulp bound of R121 stage 5's fixed mapping lies for GELU, SiLU, tanh, sigmoid, the softmax numerator and
the derivatives: the spec bounds the result within 2 ulp (4 ulp for a derivative) of the exact function and does not give
its bits. Arguments: ACT code, DERIV, v, s and r[m] as FP32 bits. -/
opaque Config.actUlp : Nat → Bool → BitVec 32 → BitVec 32 → BitVec 32 → Nat

/-- The same mapping at an infinite argument where the exact function has no limit to round: bits [31:0] are the result,
bit 32 OF and bit 33 UF. -/
opaque Config.actInf : Nat → Bool → BitVec 32 → BitVec 32 → BitVec 32 → BitVec 34

/-- The side-stream value that ACT 7 takes with SMODE 0, which R112 does not define: quadrant, output row and output column
of the element. FP32 bits. -/
opaque Config.noSide : Nat → Nat → Nat → BitVec 32

/-- The scale byte an MX block is written with, which R45 bounds and does not give: FMT code and the block's values as FP64
bits. -/
opaque Config.mxScale : Nat → List Nat → Nat

/-- SHA-384 (R354, R362), a published function that the spec names and does not restate. -/
opaque Config.sha384 : List Byte → BitVec 384

/-- ECDSA P-384 verification under a ROM key (R354), a published function the spec names and does not restate: key index,
signed bytes, signature. -/
opaque Config.sigOk : Nat → List Byte → List Byte → Bool

/-- AES-256-GCM (R253), a published function that the spec names and does not restate: key, IV, additional authenticated
data and plaintext; byte i of the ciphertext with its 16-byte tag behind it. -/
opaque Config.gcm : BitVec 256 → BitVec 96 → List Byte → List Byte → Nat → Byte

/-- The module's serial number (R256, R362). -/
opaque Config.serial : Word

/-- The conversion of a result into TB2 or TB1 (R34 codes 0xC, 0xD), which the spec neither refuses nor gives: code and
the value's FP64 bits (an exact integer converts to FP64). -/
opaque Config.toTb : Nat → Nat → Nat

/-- What the scale byte of a block of an MX stream whose scale plane R116 does not place reads as before a Ladle has
written it, by the block's first bit. -/
opaque Config.sideScale : Nat → Byte

/-- The device revision: 1 for every part the manual describes (R398, R402). -/
def Config.revision : Nat := 1

/-- IDCODE (R398). -/
def Config.idcode : BitVec 32 := 0x12048967#32

end Sys2Proof
end

