-- ==== Sys2Proof/Machine/Fp.lean ====
section
/-! DEFINITION. Floating-point arithmetic as the number-format chapter fixes it (R34 to R36, R38, R42 to R45, R123):
values are exact dyadic numbers, every rounding is one explicit narrowing, and the flags come from comparing the two. -/

namespace Sys2Proof.Machine

/-- How a format spends its all-ones exponent field (R34): infinity and NaN as IEEE 754, one NaN and no infinity
(OCP E4M3), or no special value (the MX element formats of 6 and 4 bits). -/
inductive FpKind where
  | ieee
  | fnuz
  | plain
  deriving DecidableEq, Repr

/-- A floating-point format: exponent bits, fraction bits, bias. -/
structure Fmt where
  eb : Nat
  fb : Nat
  bias : Nat
  kind : FpKind
  deriving DecidableEq, Repr

def Fmt.fp64 : Fmt := ⟨11, 52, 1023, .ieee⟩
def Fmt.fp32 : Fmt := ⟨8, 23, 127, .ieee⟩
def Fmt.bf16 : Fmt := ⟨8, 7, 127, .ieee⟩
def Fmt.fp16 : Fmt := ⟨5, 10, 15, .ieee⟩
def Fmt.e4m3 : Fmt := ⟨4, 3, 7, .fnuz⟩
def Fmt.e5m2 : Fmt := ⟨5, 2, 15, .ieee⟩
def Fmt.e3m2 : Fmt := ⟨3, 2, 3, .plain⟩
def Fmt.e2m3 : Fmt := ⟨2, 3, 1, .plain⟩
def Fmt.e2m1 : Fmt := ⟨2, 1, 1, .plain⟩

/-- Total width of an element. -/
def Fmt.width (f : Fmt) : Nat := 1 + f.eb + f.fb

/-- Exponent of the smallest normal number. -/
def Fmt.emin (f : Fmt) : Int := 1 - (f.bias : Int)

/-- Exponent of the largest finite number. -/
def Fmt.emax (f : Fmt) : Int :=
  match f.kind with
  | .ieee => (2 ^ f.eb - 2 : Int) - f.bias
  | _ => (2 ^ f.eb - 1 : Int) - f.bias

/-- Integer significand of the largest finite number, over 2^fb. -/
def Fmt.maxSig (f : Fmt) : Nat :=
  match f.kind with
  | .fnuz => 2 ^ (f.fb + 1) - 2
  | _ => 2 ^ (f.fb + 1) - 1

/-- Canonical NaN (R34); 0 for a format that has none. -/
def Fmt.nan (f : Fmt) : Nat :=
  match f.kind with
  | .ieee => ((2 ^ f.eb - 1) <<< f.fb) + 2 ^ (f.fb - 1)
  | .fnuz => 2 ^ (f.eb + f.fb) - 1
  | .plain => 0

/-- A decoded value: NaN, an infinity, or (−1)^neg · m · 2^e exactly. -/
inductive Num where
  | nan
  | inf (neg : Bool)
  | fin (neg : Bool) (m : Nat) (e : Int)
  deriving DecidableEq, Repr

/-- Decode an element (R34, R35: subnormals at their exact value, the sign of zero kept). -/
def Fmt.decode (f : Fmt) (v : Nat) : Num :=
  let neg := v.testBit (f.eb + f.fb)
  let ex := bitsOf v (f.eb + f.fb - 1) f.fb
  let fr := v % 2 ^ f.fb
  let ones := 2 ^ f.eb - 1
  if f.kind = .ieee ∧ ex = ones then (if fr = 0 then .inf neg else .nan)
  else if f.kind = .fnuz ∧ ex = ones ∧ fr = 2 ^ f.fb - 1 then .nan
  else if ex = 0 then .fin neg fr (f.emin - f.fb)
  else .fin neg (2 ^ f.fb + fr) ((ex : Int) - f.bias - f.fb)

/-- The sticky per-element flags of R43 and R50. -/
structure Flags where
  nv : Bool := false
  of : Bool := false
  uf : Bool := false
  ra : Bool := false
  deriving DecidableEq, Repr

def Flags.none : Flags := {}

def Flags.or (a b : Flags) : Flags := ⟨a.nv || b.nv, a.of || b.of, a.uf || b.uf, a.ra || b.ra⟩

/-- Rounding directions of RND (R116): nearest even, toward zero, up, down, stochastic with its Mill word. -/
inductive Rnd where
  | ne
  | tz
  | up
  | down
  | sto (w : Nat)
  deriving DecidableEq, Repr

/-- Whether the magnitude q0 + rem/2^d is rounded away from zero (R123 for stochastic). -/
def roundsUp (r : Rnd) (neg : Bool) (q0 rem d : Nat) : Bool :=
  match r with
  | .ne => decide (2 ^ d < 2 * rem) || (decide (2 * rem = 2 ^ d) && decide (q0 % 2 = 1))
  | .tz => false
  | .up => !neg && decide (rem ≠ 0)
  | .down => neg && decide (rem ≠ 0)
  | .sto w => decide (w < (rem <<< 32) >>> d)

/-- m · 2^e rounded to a multiple of 2^qe: the multiple, and whether anything was lost. -/
def quantize (r : Rnd) (neg : Bool) (m : Nat) (e qe : Int) : Nat × Bool :=
  if qe ≤ e then (m <<< (e - qe).toNat, false)
  else
    let d := (qe - e).toNat
    let q0 := m >>> d
    let rem := m % 2 ^ d
    (if roundsUp r neg q0 rem d then q0 + 1 else q0, decide (rem ≠ 0))

/-- Exponent of m · 2^e, for m > 0. -/
def expOf (m : Nat) (e : Int) : Int := (Nat.log2 m : Int) + e

/-- Compare q · 2^qe with c · 2^ce (magnitudes). -/
def leMag (q : Nat) (qe : Int) (c : Nat) (ce : Int) : Bool :=
  if qe ≤ ce then decide (q ≤ c <<< (ce - qe).toNat) else decide (q <<< (qe - ce).toNat ≤ c)

/-- Encode q · 2^qe, a value of the format, as element bits. -/
def Fmt.encodeFin (f : Fmt) (neg : Bool) (q : Nat) (qe : Int) : Nat :=
  let s := b2n neg <<< (f.eb + f.fb)
  if q = 0 then s
  else
    let ex := expOf q qe
    if ex < f.emin then s + (q <<< (qe - (f.emin - f.fb)).toNat) >>> ((f.emin - f.fb) - qe).toNat
    else
      let sig := if qe ≤ ex - f.fb then q >>> ((ex - f.fb) - qe).toNat else q <<< (qe - (ex - f.fb)).toNat
      s + ((ex + f.bias).toNat <<< f.fb) + (sig - 2 ^ f.fb)

/-- An infinity of the format, where it has one. -/
def Fmt.infBits (f : Fmt) (neg : Bool) : Nat := (b2n neg <<< (f.eb + f.fb)) + ((2 ^ f.eb - 1) <<< f.fb)

/-- The largest finite value of a sign. -/
def Fmt.maxBits (f : Fmt) (neg : Bool) : Nat :=
  f.encodeFin neg f.maxSig (f.emax - f.fb)

/-- Whether the value of an element format, rounded with unbounded exponent, exceeds the largest finite value. -/
def Fmt.overflows (f : Fmt) (r : Rnd) (neg : Bool) (m : Nat) (e : Int) : Bool :=
  if m = 0 then false
  else
    let qe := max (expOf m e - f.fb) (f.emin - f.fb)
    let q := (quantize r neg m e qe).1
    !leMag q qe f.maxSig (f.emax - f.fb)

/-- Underflow's tininess: the value, rounded with unbounded exponent, lies below the smallest normal number. R42 and R45
state their limits on the value rounded with unbounded exponent, so tininess is detected after rounding (DESIGN CHOICE, log 85). -/
def Fmt.tiny (f : Fmt) (r : Rnd) (neg : Bool) (m : Nat) (e : Int) : Bool :=
  let qe := expOf m e - f.fb
  decide (m ≠ 0 ∧ expOf (quantize r neg m e qe).1 qe < f.emin)

/-- R42: one rounding to FP32 in the SHORT path; overflow to infinity with OF, a result below 2^-126 flushed with UF. -/
def rnd32 (neg : Bool) (m : Nat) (e : Int) : Nat × Flags :=
  if m = 0 then (Fmt.fp32.encodeFin neg 0 0, .none)
  else
    let qe := expOf m e - 23
    let q := (quantize .ne neg m e qe).1
    if 128 ≤ expOf q qe then (Fmt.fp32.infBits neg, { of := true })
    else if expOf q qe < -126 then (Fmt.fp32.encodeFin neg 0 0, { uf := true })
    else (Fmt.fp32.encodeFin neg q qe, .none)

/-- One rounding to an IEEE format with gradual underflow; UF when a tiny result is inexact (R10, R48, R168). -/
def Fmt.rnd (f : Fmt) (r : Rnd) (neg : Bool) (m : Nat) (e : Int) : Nat × Flags :=
  if m = 0 then (f.encodeFin neg 0 0, .none)
  else
    let qe := max (expOf m e - f.fb) (f.emin - f.fb)
    let (q, inexact) := quantize r neg m e qe
    if f.overflows r neg m e then
      let toMax := match r with
        | .tz => true
        | .up => neg
        | .down => !neg
        | _ => false
      (if toMax then f.maxBits neg else f.infBits neg, { of := true })
    else
      (f.encodeFin neg q qe, { uf := inexact && f.tiny r neg m e })

/-- Exact product of two finite values. -/
def Num.mulFin (na : Bool) (ma : Nat) (ea : Int) (nb : Bool) (mb : Nat) (eb : Int) : Bool × Nat × Int :=
  (na != nb, ma * mb, ea + eb)

/-- Exact sum of two finite values; an exact zero sum of non-zero terms is +0 (R42), and zeros keep a common sign. -/
def Num.addFin (na : Bool) (ma : Nat) (ea : Int) (nb : Bool) (mb : Nat) (eb : Int) : Bool × Nat × Int :=
  let e := min ea eb
  let a : Int := (if na then -1 else 1) * ((ma <<< (ea - e).toNat : Nat) : Int)
  let b : Int := (if nb then -1 else 1) * ((mb <<< (eb - e).toNat : Nat) : Int)
  let s := a + b
  if s = 0 then (na && nb && decide (ma = 0 ∧ mb = 0), 0, e) else (decide (s < 0), s.natAbs, e)

/-- An arithmetic's last rounding: the format it rounds to, and the rounding it makes of an exact finite result. -/
structure Arith where
  fmt : Fmt
  flush : Bool

/-- Native FP64 with gradual underflow (R128, R163, R187). -/
def Arith.f64 : Arith := ⟨.fp64, false⟩
/-- Native FP32 with gradual underflow (R128, R163). -/
def Arith.f32 : Arith := ⟨.fp32, false⟩
/-- The SHORT path's FP32 accumulator (R42). -/
def Arith.acc : Arith := ⟨.fp32, true⟩

def Arith.round (a : Arith) (neg : Bool) (m : Nat) (e : Int) : Nat × Flags :=
  if a.flush then rnd32 neg m e else a.fmt.rnd .ne neg m e

def Arith.nan (a : Arith) : Nat × Flags := (a.fmt.nan, { nv := true })

/-- A product under R44, from decoded factors. -/
def Arith.mulNum (a : Arith) (x y : Num) : Nat × Flags :=
  match x, y with
  | .nan, _ => a.nan
  | _, .nan => a.nan
  | .inf s, .inf t => (a.fmt.infBits (s != t), .none)
  | .inf s, .fin t m _ => if m = 0 then a.nan else (a.fmt.infBits (s != t), .none)
  | .fin s m _, .inf t => if m = 0 then a.nan else (a.fmt.infBits (s != t), .none)
  | .fin s m e, .fin t n g =>
    let (r, p, h) := Num.mulFin s m e t n g
    a.round r p h

/-- A sum under R44. -/
def Arith.addNum (a : Arith) (x y : Num) : Nat × Flags :=
  match x, y with
  | .nan, _ => a.nan
  | _, .nan => a.nan
  | .inf s, .inf t => if s = t then (a.fmt.infBits s, .none) else a.nan
  | .inf s, .fin _ _ _ => (a.fmt.infBits s, .none)
  | .fin _ _ _, .inf t => (a.fmt.infBits t, .none)
  | .fin s m e, .fin t n g =>
    let (r, p, h) := Num.addFin s m e t n g
    a.round r p h

def Arith.mul (a : Arith) (x y : Nat) : Nat × Flags := a.mulNum (a.fmt.decode x) (a.fmt.decode y)

def Arith.add (a : Arith) (x y : Nat) : Nat × Flags := a.addNum (a.fmt.decode x) (a.fmt.decode y)

/-- Sign flipped. -/
def Arith.neg (a : Arith) (x : Nat) : Nat := x ^^^ 2 ^ (a.fmt.eb + a.fmt.fb)

def Arith.sub (a : Arith) (x y : Nat) : Nat × Flags := a.add x (a.neg y)

/-- x · y + z with one rounding. -/
def Arith.fma (a : Arith) (x y z : Nat) : Nat × Flags :=
  match a.fmt.decode x, a.fmt.decode y, a.fmt.decode z with
  | .fin s m e, .fin t n g, .fin u p h =>
    let (r, q, k) := Num.mulFin s m e t n g
    let (r', q', k') := Num.addFin r q k u p h
    a.round r' q' k'
  | .fin _ _ _, .fin _ _ _, zz => a.addNum (.fin false 0 0) zz
  | xx, yy, zz =>
    let p := a.mulNum xx yy
    let s := a.addNum (a.fmt.decode p.1) zz
    (s.1, p.2.or s.2)

/-- x ÷ y, rounded once; the quotient carries a sticky bit below the rounding position. -/
def Arith.div (a : Arith) (x y : Nat) : Nat × Flags :=
  match a.fmt.decode x, a.fmt.decode y with
  | .nan, _ => a.nan
  | _, .nan => a.nan
  | .inf _, .inf _ => a.nan
  | .inf s, .fin t _ _ => (a.fmt.infBits (s != t), .none)
  | .fin s _ _, .inf t => (a.fmt.encodeFin (s != t) 0 0, .none)
  | .fin s m e, .fin t n g =>
    if n = 0 then (if m = 0 then a.nan else (a.fmt.infBits (s != t), .none))
    else
      let k := a.fmt.fb + 4 + Nat.log2 n
      let q := (m <<< k) / n
      let sticky := if (m <<< k) % n = 0 then 0 else 1
      a.round (s != t) (2 * q + sticky) (e - g - k - 1)

/-- √x, rounded once. -/
def Arith.sqrt (a : Arith) (x : Nat) : Nat × Flags :=
  match a.fmt.decode x with
  | .nan => a.nan
  | .inf s => if s then a.nan else (a.fmt.infBits false, .none)
  | .fin s m e =>
    if m = 0 then (a.fmt.encodeFin s 0 0, .none)
    else if s then a.nan
    else
      let k := 2 * (a.fmt.fb + 4) + (if (e % 2 : Int) = 0 then 0 else 1)
      let w := m <<< k
      let q := Nat.sqrt w
      let sticky := if q * q = w then 0 else 1
      a.round false (2 * q + sticky) ((e - k) / 2 - 1)

/-- Whether element bits are finite. -/
def Fmt.isFinite (f : Fmt) (v : Nat) : Bool :=
  match f.decode v with
  | .fin _ _ _ => true
  | _ => false

/-- x < y, false when either is NaN. -/
def Num.lt (x y : Num) : Bool :=
  match x, y with
  | .nan, _ => false
  | _, .nan => false
  | .inf s, .inf t => s && !t
  | .inf s, .fin _ _ _ => s
  | .fin _ _ _, .inf t => !t
  | .fin s m e, .fin t n g =>
    let b := min e g
    let p : Int := (if s then -1 else 1) * ((m <<< (e - b).toNat : Nat) : Int)
    let q : Int := (if t then -1 else 1) * ((n <<< (g - b).toNat : Nat) : Int)
    decide (p < q)

/-- x = y as numbers (zeros of either sign are equal), false when either is NaN. -/
def Num.beq (x y : Num) : Bool :=
  match x, y with
  | .nan, _ => false
  | _, .nan => false
  | _, _ => !Num.lt x y && !Num.lt y x

def Fmt.lt (f : Fmt) (x y : Nat) : Bool := Num.lt (f.decode x) (f.decode y)
def Fmt.le (f : Fmt) (x y : Nat) : Bool := Num.lt (f.decode x) (f.decode y) || Num.beq (f.decode x) (f.decode y)

/-- R45: conversion of a decoded value to an output format with one value per element. R45 names no flag of an inexact tiny
result; UF is set there as R10's underflow, in the formats that are not IEEE 754's as well (DESIGN CHOICE, log 85). -/
def Fmt.convert (f : Fmt) (r : Rnd) (sat : Bool) (x : Num) : Nat × Flags :=
  let noInf (neg : Bool) (fl : Flags) : Nat × Flags :=
    if f.kind = .ieee then (f.infBits neg, fl) else (f.nan, { fl with nv := true })
  match x with
  | .nan => (f.nan, .none)
  | .inf neg => if sat then (f.maxBits neg, { of := true }) else noInf neg .none
  | .fin neg m e =>
    if f.overflows r neg m e then
      if sat then (f.maxBits neg, { of := true })
      else
        let toMax := match r with
          | .tz => true
          | .up => neg
          | .down => !neg
          | _ => false
        if toMax then (f.maxBits neg, { of := true }) else noInf neg { of := true }
    else
      let qe := max (expOf m e - f.fb) (f.emin - f.fb)
      let q := if m = 0 then (0, false) else quantize r neg m e qe
      (f.encodeFin neg q.1 qe, { uf := q.2 && f.tiny r neg m e })

/-- Multiplication by 2^k, exact on a decoded value. -/
def Num.scale (x : Num) (k : Int) : Num :=
  match x with
  | .fin s m e => .fin s m (e + k)
  | y => y

/-- Magnitude. -/
def Num.abs (x : Num) : Num :=
  match x with
  | .fin _ m e => .fin false m e
  | .inf _ => .inf false
  | .nan => .nan

/-- An integer as a value. -/
def Num.ofInt (i : Int) : Num := .fin (decide (i < 0)) i.natAbs 0

/-- A finite value rounded to an integer under RND (R113); q0 is counted in ulps of 1. -/
def Num.toIntR (r : Rnd) (neg : Bool) (m : Nat) (e : Int) : Int :=
  let q := (quantize r neg m e 0).1
  if neg then -(q : Int) else q

/-- R34: the formats of one floating value per element by code, MX codes giving their element format. -/
def fmtOfCode (c : Nat) : Option Fmt :=
  match c with
  | 0 => some .fp64
  | 1 => some .fp32
  | 2 => some .bf16
  | 3 => some .fp16
  | 4 => some .e4m3
  | 5 => some .e5m2
  | 6 => some .e4m3
  | 7 => some .e5m2
  | 8 => some .e3m2
  | 9 => some .e2m3
  | 10 => some .e2m1
  | _ => none

/-- R34: bits per element, without the scale. -/
def bitsOfCode (c : Nat) : Nat :=
  match c with
  | 0 => 64
  | 1 => 32
  | 2 => 16
  | 3 => 16
  | 4 => 8
  | 5 => 8
  | 6 => 8
  | 7 => 8
  | 8 => 6
  | 9 => 6
  | 10 => 4
  | 11 => 8
  | 12 => 2
  | 13 => 1
  | 14 => 32
  | _ => 0

/-- R34: codes 6 to 10 carry a scale plane. -/
def isMx (c : Nat) : Bool := decide (6 ≤ c ∧ c ≤ 10)

/-- Integer formats' values (R34). -/
def intOfCode (c v : Nat) : Int :=
  match c with
  | 11 => signedOf v 8
  | 12 => signedOf v 2
  | 13 => if v % 2 = 0 then 1 else -1
  | 14 => signedOf v 32
  | _ => 0

end Sys2Proof.Machine
end

