-- ==== Sys2Proof/Machine/Crc.lean ====
section
/-! DEFINITION. Check codes and the Mill: CRC-32C and the block tag (R299, R300), the 64-bit CRC of R194, and
Philox4x32-10 (R140). -/

namespace Sys2Proof.Machine

/-- k shift steps of a reflected CRC with the polynomial p (reflected). -/
def crcSteps (p : Nat) : Nat → Nat → Nat
  | 0, c => c
  | k + 1, c => crcSteps p k (if c % 2 = 1 then (c >>> 1) ^^^ p else c >>> 1)

/-- A reflected CRC over bytes in address order, from a running value. -/
def crcFold (p : Nat) (bytes : List Byte) (c : Nat) : Nat :=
  bytes.foldl (fun c b => crcSteps p 8 (c ^^^ b.toNat)) c

/-- CRC-32C (R299): polynomial 0x1EDC6F41 reflected, initial value and final XOR all ones. -/
def crc32c (bytes : List Byte) : Nat := crcFold 0x82F63B78 bytes 0xFFFFFFFF ^^^ 0xFFFFFFFF

/-- The CRC of R194: polynomial 0x42F0E1EBA9EA3693 reflected, initial value and final XOR all ones. -/
def crc64 (bytes : List Byte) : Nat :=
  crcFold 0xC96C5795D7870F42 bytes 0xFFFFFFFFFFFFFFFF ^^^ 0xFFFFFFFFFFFFFFFF

/-- The n bytes of v, least significant first. -/
def leBytes (v n : Nat) : List Byte := (List.range n).map (fun i => BitVec.ofNat 8 (v >>> (8 * i)))

/-- The number whose little-endian bytes these are. -/
def leNat : List Byte → Nat
  | [] => 0
  | b :: t => b.toNat + 256 * leNat t

/-- Element i of width w in packed little-endian data (R36). -/
def elemAt (v w i : Nat) : Nat := (v >>> (w * i)) % 2 ^ w

/-- SUM over a block of n elements of a floating format (R300): an FP64 sum in increasing index, rounded once to FP32. -/
def sumFloat (f : Fmt) (v n : Nat) : Nat :=
  let es := (List.range n).map (fun i => f.decode (elemAt v f.width i))
  if es.all (fun e => match e with | .fin _ _ _ => true | _ => false) then
    let tot := es.foldl (fun acc e => (Arith.f64.addNum (Fmt.fp64.decode acc) e).1) 0
    match Fmt.fp64.decode tot with
    | .fin s m e => (Fmt.fp32.rnd .ne s m e).1
    | .inf s => Fmt.fp32.infBits s
    | .nan => 0x7FC00000
  else 0x7FC00000

/-- SUM of a block by the writer's format code; none for raw bytes (R300). -/
def sumOf (code : Option Nat) (bytes : List Byte) : Nat :=
  let v := leNat bytes
  let raw := ((List.range (bytes.length / 4)).map (fun i => elemAt v 32 i)).sum % 2 ^ 32
  match code with
  | none => raw
  | some c =>
    let n := bytes.length * 8 / max 1 (bitsOfCode c)
    match fmtOfCode c with
    | some f => sumFloat f v n
    | none => wrapInt ((List.range n).map (fun i => intOfCode c (elemAt v (bitsOfCode c) i))).sum 32

/-- The tag of a 4 KiB block (R299). -/
def tagOf (code : Option Nat) (bytes : List Byte) : Nat := crc32c bytes + sumOf code bytes <<< 32

/-- One Philox4x32 round. -/
def philoxRound (k0 k1 : Nat) (c : Nat × Nat × Nat × Nat) : Nat × Nat × Nat × Nat :=
  let p0 := 0xD2511F53 * c.1
  let p1 := 0xCD9E8D57 * c.2.2.1
  ((p1 / 2 ^ 32) ^^^ c.2.1 ^^^ k0, p1 % 2 ^ 32, (p0 / 2 ^ 32) ^^^ c.2.2.2 ^^^ k1, p0 % 2 ^ 32)

/-- Rounds with the key schedule. -/
def philoxRounds : Nat → Nat → Nat → Nat × Nat × Nat × Nat → Nat × Nat × Nat × Nat
  | 0, _, _, c => c
  | n + 1, k0, k1, c =>
    philoxRounds n ((k0 + 0x9E3779B9) % 2 ^ 32) ((k1 + 0xBB67AE85) % 2 ^ 32) (philoxRound k0 k1 c)

/-- Word 0 of the Mill's output for output element (m, n) (R140). -/
def millWord (key step tid m n : Nat) : Nat :=
  let e := m * 2 ^ 24 + n
  (philoxRounds 10 (key % 2 ^ 32) (key / 2 ^ 32 % 2 ^ 32)
    (e % 2 ^ 32, e / 2 ^ 32 % 2 ^ 16, step % 2 ^ 32, tid % 2 ^ 32)).1

end Sys2Proof.Machine
end

