-- ==== Sys2Proof/Machine/Sparse.lean ====
section
/-! DEFINITION. Sparse tables by key: a list of (key, value) pairs in one canonical form (keys strictly rising, no
entry equal to what an unlisted key reads as). Memory, poison, registers and every indexed unit of the module are
held this way, so that equal tables are equal lists. -/

namespace Sys2Proof.Machine

/-- A sparse table. -/
abbrev SMap (α : Type) := List (Nat × α)

/-- What key k reads as; d k is what an unlisted key reads as. -/
def SMap.get {α : Type} (d : Nat → α) (m : SMap α) (k : Nat) : α :=
  match m with
  | [] => d k
  | (j, v) :: t => if j = k then v else SMap.get d t k

/-- Every entry of m with a key outside [a, b) . -/
def SMap.below {α : Type} (m : SMap α) (a : Nat) : SMap α := m.filter (fun e => decide (e.1 < a))

/-- Every entry of m with a key of at least b. -/
def SMap.above {α : Type} (m : SMap α) (b : Nat) : SMap α := m.filter (fun e => decide (b ≤ e.1))

/-- The entries of m with keys in [a, a + n), each key counted from a. -/
def SMap.slice {α : Type} (m : SMap α) (a n : Nat) : SMap α :=
  (m.filter (fun e => decide (a ≤ e.1 ∧ e.1 < a + n))).map (fun e => (e.1 - a, e.2))

/-- m with the keys of [a, a + n) replaced by the entries of c, whose keys count from a. -/
def SMap.splice {α : Type} (m : SMap α) (a n : Nat) (c : SMap α) : SMap α :=
  m.below a ++ (c.filter (fun e => decide (e.1 < n))).map (fun e => (e.1 + a, e.2)) ++ m.above (a + n)

/-- m with the keys of [a, a + n) unlisted. -/
def SMap.clear {α : Type} (m : SMap α) (a n : Nat) : SMap α := m.splice a n []

/-- m with v at key k; writing what an unlisted key reads as removes the entry. -/
def SMap.set {α : Type} [DecidableEq α] (d : Nat → α) (m : SMap α) (k : Nat) (v : α) : SMap α :=
  m.splice k 1 (if v = d k then [] else [(0, v)])

/-- The canonical form. -/
def SMap.wf {α : Type} [DecidableEq α] (d : Nat → α) (m : SMap α) : Bool :=
  decide (m.Pairwise (fun a b => a.1 < b.1)) && m.all (fun e => decide (e.2 ≠ d e.1))

/-- The canonical entries of a list of values at keys 0, 1, … , those equal to z left out. -/
def SMap.ofList {α : Type} [DecidableEq α] (z : α) (l : List α) : SMap α :=
  (l.zipIdx.map (fun e => (e.2, e.1))).filter (fun e => decide (e.2 ≠ z))

/-- The values at keys a to a + n − 1. -/
def SMap.read {α : Type} (d : Nat → α) (m : SMap α) (a n : Nat) : List α :=
  (List.range n).map (fun i => m.get d (a + i))

end Sys2Proof.Machine
end

