-- ==== Sys2Proof/Machine/State.lean ====
section
/-! DEFINITION. The state of the module, as plain data. Every register of the register pages has its one home in
`regs` (keyed by BAR0 offset, an unlisted offset reading as its reset word); what the spec names beside the register
pages (memories, recipe state, operations in flight, queues, watches, links, cores, firmware) has a field of its own. -/

namespace Sys2Proof.Machine

/-- Reasons a step could stop with a fault. No meaning of this model ends in one: every command of the table has an
effect in the spec, and a command whose step is not due leaves the state as it is. -/
inductive Fault where
  /-- Raised by no meaning; kept so that the type of outcomes has a fault to name. Safe: it never occurs. -/
  | unreachable
  deriving DecidableEq, Repr

/-- Reasons a command is refused. -/
inductive Refusal where
  /-- An arm of the dispatch that has no meaning yet. Safe. -/
  | notModelled (mnemonic : String)
  deriving DecidableEq, Repr

/-- One level of an affine generator (R95): COUNT and signed STRIDE in bytes. -/
structure Level where
  count : Nat
  stride : Int
  deriving DecidableEq, Repr

/-- A generator slot: six levels, level 0 innermost. -/
abbrev GenSlot := List Level

/-- After reset every level holds COUNT 1 and STRIDE 0. -/
def GenSlot.reset : GenSlot := List.replicate 6 ⟨1, 0⟩

/-- An event a block holds for the Bolt (R322 to R325): at most four per page (R323). -/
structure Event where
  page : Nat
  code : Nat
  stn : Option Nat
  inj : Bool
  loss : Bool
  master : Nat
  acc : Nat
  detail : Nat
  addr : Nat
  time : Nat
  deriving DecidableEq, Repr

/-- A running launch (R82 to R84). -/
structure Launch where
  entry : Nat
  qmask : Nat
  /-- the substituted gang word that GANG_ISSUE found alike on every sequencer, not yet issued -/
  gang : Option (BitVec 256)
  /-- the gang END has issued -/
  ended : Bool
  /-- a FEN has issued since the last GOP (R73, R107) -/
  fenced : Bool
  /-- identities of this launch's items are at least this -/
  first : Nat
  deriving DecidableEq, Repr

/-- Why a sequencer holds issue (R85). -/
inductive Hold where
  /-- a TWT's watch, by absolute index -/
  | watch (w : Nat)
  /-- a TWT that found no free watch; its command word -/
  | noWatch (word : BitVec 256)
  /-- a TBA held until barrier b releases; next: counted in the next phase, nowait: proceeds at that release -/
  | barrier (b : Nat) (next : Bool) (nowait : Bool)
  deriving DecidableEq, Repr

/-- An outstanding LDT or STT (R98). -/
structure Xfer where
  id : Nat
  stn : Nat
  q : Nat
  pc : Nat
  load : Bool
  src : Nat
  dst : Nat
  sgen : GenSlot
  dgen : GenSlot
  run : Nat
  ch : Nat
  ctr : Nat
  cen : Bool
  /-- bytes of the transfer whose remote requests are sent -/
  sent : Nat
  /-- tags of remote requests not answered yet -/
  tags : List Nat
  /-- some remote read ended in an error: its data is poisoned zeros -/
  bad : Bool
  /-- data of answered remote reads, by byte of the transfer -/
  data : SMap Byte
  /-- 32-byte pieces of that data that carry poison -/
  psn : SMap Byte
  deriving DecidableEq, Repr

/-- One operand element in the array: its code, MX scale byte (127 without one) and poison. -/
structure Elem where
  code : Nat
  scale : Nat
  psn : Bool
  deriving DecidableEq, Repr

/-- A wave in flight (R74): its number, held tile, pass, row, and the elements it carries per region position. -/
structure Wave where
  num : Nat
  tile : Nat
  pass : Nat
  row : Nat
  /-- tag as the injector wrote it, inverted by an injection -/
  tag : Nat
  /-- row operand by position (region row · L + lane); RS: the run of R101 -/
  elems : List Elem
  /-- OS: operand B by column · L + lane -/
  belems : List Elem
  deriving DecidableEq, Repr

/-- A term of the slice combiner (R48): chunk, pass, exact column sum, and the chunk exponents. -/
structure Term where
  chunk : Nat
  i : Nat
  j : Nat
  sum : Int
  ea : Int
  eb : Int
  /-- elements in the chunk (R49) -/
  n : Nat
  deriving DecidableEq, Repr

/-- A partial-buffer entry (R114): the finished or running cross-chunk value of one output element. -/
structure Part where
  /-- FP32 bits of the running sum in the SHORT floating path -/
  f : Nat
  /-- exact sum in the integer path -/
  i : Int
  /-- terms of the slice modes -/
  terms : List Term
  /-- a product was NaN or infinity × zero; +∞; −∞ (R51) -/
  cNan : Bool
  cPos : Bool
  cNeg : Bool
  flags : Flags
  psn : Bool
  /-- chunks entered so far -/
  chunks : Nat
  deriving DecidableEq, Repr

/-- A row value of stage 7 within one Ladle and column tile (R122). -/
structure RowPart where
  m : Nat
  tile : Nat
  quad : Nat
  val : Nat
  psn : Bool
  deriving DecidableEq, Repr

/-- An element of an MX output that waits until its block of 32 is whole (R45). -/
structure MxElem where
  quad : Nat
  /-- an element of the side stream (R112 stage 4), else of the keep -/
  side : Bool
  /-- word 0 of the Mill for the element (R140) -/
  mill : Nat
  /-- first bit of the block, and of the element -/
  key : Nat
  bit : Nat
  val : Num
  flags : Flags
  psn : Bool
  deriving DecidableEq, Repr

/-- A finished element staged under OVF 1 (R153) until its tile is released: its row within the tile, the tile, the
column of the operation, and whether stage 1 set OF. -/
structure Staged where
  row : Nat
  tile : Nat
  col : Nat
  part : Part
  deriving DecidableEq, Repr

/-- The slip a Griddle operation met first (R77, R81). -/
structure Slip where
  kind : Nat
  loc : Nat
  exp : Nat
  got : Nat
  quad : Nat
  deriving DecidableEq, Repr

/-- A drain program as copied at GOP issue for one Ladle (R116, R117). -/
structure Drain where
  quad : Nat
  word : BitVec 192
  dag : GenSlot
  deriving DecidableEq, Repr

/-- Running sums of one check group of a tile (R304, R305). -/
structure Check where
  quad : Nat
  grp : Nat
  tile : Nat
  pass : Nat
  /-- SHORT floating: FP64 bits of P, Q and O; exact paths: integers modulo 2^64 -/
  p : Int
  qmag : Nat
  o : Int
  bad : Bool
  n : Nat
  deriving DecidableEq, Repr

/-- A Griddle operation, from issue to its boundary (R99 to R102, R73). -/
structure Gop where
  id : Nat
  stn : Nat
  pc : Nat
  qmask : Nat
  word : BitVec 256
  agA : GenSlot
  agB : GenSlot
  drains : List Drain
  /-- a fence lies between this operation and the station's GOP before it (R73) -/
  fenced : Bool
  granted : Bool
  chained : Bool
  /-- waves injected -/
  injected : Nat
  inflight : List Wave
  /-- the active registers of the region's cells (R53): by tile, in the order the waves made them active, the held columns
  with their elements by region row · L + lane. A cell's active register belongs to the last tile whose first wave has
  passed it, so several tiles are listed while their waves are in flight. -/
  held : List (Nat × List (List Elem))
  /-- the tile loaded and not yet active, in the shadow registers (R61, R62); INT8 × TB1 takes both registers for it -/
  shadow : Option (Nat × List (List Elem))
  /-- column results entered, of the wave (WS, RS) or chunk (OS) at the head -/
  col : Nat
  /-- waves or chunks whose results have all entered -/
  done : Nat
  parts : SMap Part
  rows : List RowPart
  /-- bits written to each output block, by 4 KiB block of the global address, and the blocks a poisoned input reached -/
  blocks : SMap Nat
  psnBlocks : List Nat
  /-- runs delivered, by Ladle -/
  runs : SMap Nat
  staged : List Staged
  /-- tiles released, and whether the tile in the array is the re-issue (R153) -/
  released : Nat
  reissue : Bool
  checks : List Check
  /-- the Sieve's taps of the row operand in the tile and pass at the head, by position: sum and magnitude sum (R304) -/
  taps : List (Int × Int)
  mxbuf : List MxElem
  /-- bytes kept for a remote destination, by global address: 256 + the byte -/
  wbuf : SMap Nat
  slip : Option Slip
  poison : Bool
  deriving DecidableEq, Repr

/-- Remote data read ahead for an item: bytes and poisoned 32-byte pieces by global address, and the 256-byte pieces
asked for and not answered yet, and those that have arrived (R261). -/
structure RBuf where
  data : SMap Byte
  psn : SMap Byte
  ask : List Nat
  got : List Nat
  deriving DecidableEq, Repr

def RBuf.empty : RBuf := ⟨[], [], [], []⟩

/-- An outstanding SPK command (R127 to R133). -/
structure Spk where
  id : Nat
  stn : Nat
  q : Nat
  pc : Nat
  op : Nat
  blk : Nat
  nblk : Nat
  /-- COMMIT: the 64 bytes of its descriptor, as read at issue -/
  desc : Nat
  ctr : Nat
  cen : Bool
  /-- COMMIT: 0 waiting at its gate, 1 writing -/
  phase : Nat
  /-- COMMIT: source blocks written -/
  sent : Nat
  deriving DecidableEq, Repr

/-- A waiting norm scan (R148) or ratio flush (R147). -/
structure NormJob where
  id : Nat
  flush : Bool
  q : Nat
  stn : Nat
  /-- SCAN: first block, blocks, accumulator, spill source, spill blocks, spill format. Flush: layer and pair. -/
  a : Nat
  b : Nat
  c : Nat
  src : Nat
  spn : Nat
  fp64 : Bool
  deriving DecidableEq, Repr

/-- A queued engine descriptor (R167, R184, R265). -/
structure QDesc where
  stn : Nat
  addr : Nat
  ctr : Nat
  cen : Bool
  /-- dispatched by the Mortar of this die for its conjugate gradients (R197) -/
  mortar : Option Nat
  /-- identity of the sequencer command that dispatched it; none for a doorbell (R107) -/
  disp : Option Nat
  deriving DecidableEq, Repr

/-- A running Whisk chain (R164). -/
structure Chain where
  q : QDesc
  cur : Nat
  links : Nat
  /-- 0 while running, else the CODE of R168 -/
  code : Nat
  /-- the vector buffer: y as FP64 bits, with poison -/
  buf : List (Nat × Bool)
  /-- the buffer holds a y kept under YBUF by the link before -/
  bufValid : Bool
  /-- identity of the chain, for what it reads ahead from other nodes -/
  id : Nat
  /-- STATUS of the link that ends the chain, and whether that link's descriptor can be written -/
  status : Nat
  writes : Bool
  /-- the current link's 160 bytes as read when it was checked -/
  d : Nat
  deriving DecidableEq, Repr

/-- A Whisk (R159 to R169). -/
structure Whisk where
  queue : List QDesc
  run : Option Chain
  last : Nat
  deriving DecidableEq, Repr

/-- A Tongs descriptor in flight (R170 to R178). -/
structure TDesc where
  q : QDesc
  kind : Nat
  bg : Bool
  slot : Nat
  epoch : Nat
  /-- bound buffer: none for TRANSPOSE, else false A, true B -/
  bound : Option Bool
  /-- 0 while not finished, else CODE -/
  code : Nat
  flags : Flags
  psn : Bool
  done : Nat
  /-- identity, which rises in acceptance order -/
  seq : Nat
  /-- the descriptor's 64 bytes as read at acceptance -/
  d : Nat
  deriving DecidableEq, Repr

/-- A Tongs: descriptors dispatched and not accepted, accepted, and parked. -/
structure Tongs where
  queue : List QDesc
  run : List TDesc
  parked : List TDesc
  deriving DecidableEq, Repr

/-- Phases of a Mortar (R200). -/
inductive MPhase where
  | idle | clearing | evalWait | linear | trial | writing | keep
  deriving DecidableEq, Repr

/-- A linear system made ready to solve (R188, R196), FP64 values as bits: the order of its parameters where PERM gives one;
a Cholesky factor, or Rᵀ of DENSE_QR, by rows; for SCHUR the inverse of each eliminated block and H_cp beside it; for PCG the
factors of the diagonal blocks, in inv. -/
structure Factor where
  ord : List Nat
  /-- SPARSE_CHOL: blocks of the factor after fill -/
  pat : List (Nat × Nat)
  l : List (List Nat)
  inv : List (List (List Nat))
  cp : List (List (List Nat))
  deriving DecidableEq, Repr

/-- Conjugate gradients in progress (R188, R197); FP64 values as bits. -/
structure Cg where
  /-- right side, preconditioner and D of the system -/
  b : List Nat
  fac : Factor
  diag : List Nat
  r : List Nat
  p : List Nat
  sol : List Nat
  rz : Nat
  /-- iterations done -/
  k : Nat
  /-- parts whose chains are still to be dispatched, and Whisk chains not ended -/
  todo : List Nat
  left : Nat
  ended : Bool
  /-- the residual met the tolerance -/
  met : Bool
  /-- a preconditioner block broke down -/
  broke : Bool
  deriving DecidableEq, Repr

/-- A solve or adjoint in progress (R189 to R198); FP64 values as bits. -/
structure Solve where
  q : QDesc
  id : Nat
  /-- the descriptor's 256 bytes as read at acceptance -/
  d : Nat
  phase : MPhase
  x : List Nat
  lam : Nat
  /-- best complete iterate and its cost -/
  best : Option (List Nat × Nat)
  /-- the point and the step of the trial under evaluation -/
  trial : List Nat
  dx : List Nat
  /-- line-search halvings of GN -/
  half : Nat
  pred : Nat
  it : Nat
  evals : Nat
  /-- EV_DONE at acceptance -/
  base : Nat
  /-- the evaluation is the keep phase's re-evaluation (R196) -/
  reeval : Bool
  /-- words of J and r (or H and g) as last read -/
  ev : List Nat
  /-- point of the last evaluation -/
  evalAt : List Nat
  sig : Nat
  warmRej : Bool
  nv : Bool
  dxnorm : Nat
  cgit : Nat
  cg : Option Cg
  /-- what an adjoint has solved: z and w -/
  z : List Nat
  w : List Nat
  code : Nat
  wcode : Nat
  adjWhy : Nat
  /-- the result is written and its acknowledgements are awaited -/
  written : Bool
  deriving DecidableEq, Repr

/-- The kept factorisation (R196): the solve's descriptor, λ, the factor (under PCG the preconditioner) and D. -/
structure Kept where
  d : Nat
  lam : Nat
  fac : Factor
  diag : List Nat
  deriving DecidableEq, Repr

/-- A Mortar (R182 to R198). -/
structure Mortar where
  queue : List QDesc
  last : Nat
  run : Option Solve
  kept : Option Kept
  /-- a solve has used local memory since it was last cleared -/
  used : Bool
  /-- FSTN owns the contents -/
  owned : Bool
  /-- the model's own: where the free bytes begin that the window shows of a working set, whose places the spec leaves open -/
  fill : Nat
  deriving DecidableEq, Repr

/-- Where a watch's notification goes (R281). -/
inductive Target where
  /-- a sequencer that holds at watch w, or at barrier w − 1024 -/
  | seq (n q w : Nat)
  | tongs (d : Nat) (seq : Nat)
  | mortar (d : Nat)
  | core (n c : Nat) (cookie : Nat)
  deriving DecidableEq, Repr

/-- A watch (R280). -/
structure Watch where
  stn : Nat
  ctr : Nat
  cmp : Nat
  val : Nat
  target : Target
  /-- its limit as written, 0 for none -/
  tmo : Nat
  deriving DecidableEq, Repr

/-- A notification in flight (R281); result 1 condition met, 2 timeout, 3 barrier released. -/
structure Note where
  target : Target
  result : Nat
  deriving DecidableEq, Repr

/-- A local barrier entrant that is told of the release (R284). -/
structure Entrant where
  bar : Nat
  next : Bool
  /-- none: an entry made by the host -/
  core : Option Nat
  deriving DecidableEq, Repr

/-- A sent flit kept until it is acknowledged (R245). -/
structure Sent where
  seq : Nat
  /-- the flit with the link header it left with -/
  flit : Flit
  cells : Nat
  key : Nat
  /-- the IV it is encrypted under (R253), none for a flit that is not -/
  iv : Option (BitVec 96)
  /-- how often it has been resent (R247) -/
  replays : Nat
  deriving DecidableEq, Repr

/-- Link-level state of a Keyring port (R244 to R256). -/
structure Link where
  txq : List Flit
  seq : Nat
  window : List Sent
  /-- SEQs the sender is to resend first -/
  resend : List Nat
  /-- cells in use of each VC's reservation and, by VC, of the shared window -/
  resv : List Nat
  shared : List Nat
  /-- next SEQ to deliver -/
  rxNext : Nat
  /-- go-back-N: discarding until rxNext arrives -/
  discard : Bool
  /-- metro: flits kept in the receive ring until those before them have arrived (R246, R250) -/
  held : List Flit
  /-- cells ever put into the metro transmit and receive rings (R250) -/
  txPos : Nat
  rxPos : Nat
  /-- link header of the link-only flit sent last: a credit and ACK flit or a NAK (R240, R241) -/
  only : LinkHdr
  /-- path delay to the peer in ns, the Pdelay_Req that waits for its answer (sequence number and time sent), and the next
  sequence number of this port's 1588 messages (R272) -/
  pdelay : Int
  pdReq : Option (Nat × Nat)
  ptpSeq : Nat
  nakFor : List Nat
  helloSent : Bool
  peerHello : Bool
  peerMatch : Bool
  /-- the peer's last T1 -/
  peerT1 : Nat
  /-- by key slot: flits sent under its key, and how often SEQ has wrapped under it (R253, R254); and a switch waiting for
  the next flit -/
  keyUse : List Nat
  keyWraps : List Nat
  switchPend : Bool
  /-- times of GCM failures within the last second -/
  authTimes : List Nat
  /-- METRO and MSLOT written while the link was not DOWN -/
  reachPend : Option (Bool × Nat)
  /-- cells received and not yet returned to the peer, by VC -/
  owed : List (Nat × Nat)
  deriving DecidableEq, Repr

/-- A write of at most 256 bytes, or a tag, that waits for a request tag toward its node (R261). -/
structure WReq where
  /-- the item whose write it is, and the station and page of the requesting block -/
  item : Nat
  stn : Nat
  page : Nat
  /-- global address -/
  addr : Nat
  bytes : List Byte
  psn : Nat
  /-- a TAGW that follows its block's writes -/
  tagw : Bool
  deriving DecidableEq, Repr

/-- An outstanding request of this module (R261, R263). -/
structure Req where
  tag : Nat
  port : Nat
  stn : Nat
  node : Nat
  write : Bool
  /-- page of the requesting block, and the address asked for -/
  page : Nat
  addr : Nat
  /-- the transfer that waits for it, with the byte of the transfer it starts at -/
  xfer : Option (Nat × Nat)
  len : Nat
  deriving DecidableEq, Repr

/-- A move of PERMUTE's table (R270): source block, new owner's rank and new place, the addresses global. -/
structure Move where
  src : Nat
  owner : Nat
  dst : Nat
  deriving DecidableEq, Repr

/-- A collective, queued or running (R264 to R271). -/
structure Coll where
  q : QDesc
  id : Nat
  started : Bool
  /-- the descriptor's 128 bytes as read at its start -/
  d : Nat
  p : Nat
  rank : Nat
  /-- member nodes in rank order -/
  nodes : List Nat
  /-- number of the collective in its group, which its flits carry as CSEQ (R243) -/
  cseq : Nat
  /-- flits received, by stream: 64·phase + flow, and for PERMUTE 32·source node + flow -/
  got : SMap Nat
  /-- PERMUTE: the moves of PTAB as read at its start (R270) -/
  moves : List Move
  /-- SUMSQ: this member's value and its NV and POISON bits -/
  val : Nat
  /-- PERMUTE: its journal's STATE and round, pieces staged, and members arrived at the round's barrier -/
  jstate : Nat
  round : Nat
  staged : Nat
  arr : Nat
  /-- 0 until it has ended, else CODE -/
  code : Nat
  flags : Flags
  psn : Bool
  done : Nat
  deriving DecidableEq, Repr

/-- A queued or delivered comparison of the Sieve (R307). -/
structure Verdict where
  stn : Nat
  gop : Nat
  quad : Nat
  grp : Nat
  tile : Nat
  pass : Nat
  kind : Nat
  p : Int
  o : Int
  tol : Nat
  skip : Bool
  ok : Bool
  deriving DecidableEq, Repr

/-- The Sieve's account of a station's open step (R307, R311, R321). -/
structure Step where
  /-- GOPs granted in the open step whose last verdict is not in -/
  open_ : List Nat
  /-- a written STEP that waits (R321) -/
  pend : Option Nat
  drainReq : Bool
  /-- work dispatched to a Whisk, Tongs or Mortar in the step (R311) -/
  dispatched : Bool
  severe : Bool
  deriving DecidableEq, Repr

/-- One ledger entry (R371), without its number, time and station. -/
structure LedgerEntry where
  kind : Nat
  master : Nat
  reason : Nat
  ident : Nat
  done : Nat
  /-- none where the module does not know the number of units: an open value -/
  total : Option Nat
  aux1 : Nat := 0
  aux2 : Nat := 0
  deriving DecidableEq, Repr

/-- A station reset in progress (R366, R367), with the ledger entries of its step 4. -/
structure StnReset where
  stn : Nat
  release : Bool
  led : List LedgerEntry
  deriving DecidableEq, Repr

/-- A Crock flush of a station in progress, with the MODE and FLUSH writes that wait for it (R224). -/
structure Flush where
  stn : Nat
  /-- new mode of slices that change in this flush -/
  modes : List (Nat × Bool)
  waiting : List (Nat × Bool)
  /-- slices that entered or left the station, zeroed when the flush ends -/
  zero : List Nat
  deriving DecidableEq, Repr

/-- A line of a station's memory-side cache (R222, R223), most recently used first in the list. -/
structure CLine where
  stn : Nat
  slice : Nat
  set : Nat
  line : Nat
  dirty : Bool
  keep : Bool
  deriving DecidableEq, Repr

/-- A control core's state (R202, R205): integer and KV registers, KV CSRs, and the trap CSRs of the base ISA. -/
structure CoreSt where
  x : SMap Word
  k : SMap (BitVec 128)
  kven : Bool
  kvu : Bool
  sat : Bool
  dirty : Bool
  pc : Nat
  /-- true in U-mode -/
  user : Bool
  mie : Bool
  mpie : Bool
  mppUser : Bool
  mtvec : Nat
  mepc : Nat
  mcause : Nat
  mtval : Word
  /-- physical memory protection: entry i's configuration byte and address register -/
  pmpcfg : SMap Byte
  pmpaddr : SMap Word
  deriving DecidableEq, Repr

/-- A firmware update session (R358). -/
structure Session where
  kind : Nat
  session : Nat
  pred : Nat
  /-- the port its MANIFEST arrived on -/
  port : Nat
  /-- successors whose DONE is not in -/
  succs : List Nat
  size : Nat
  hash : BitVec 384
  got : List Nat
  fwd : Nat
  worst : Nat
  /-- status of this module's own copy, 0 until known -/
  own : Nat
  origin : Bool
  deriving DecidableEq, Repr

/-- A management request relayed out of a port and not answered yet: the port, the tag of the inner request, and the
request as it came (R257). -/
structure Relay where
  port : Nat
  tag : Nat
  from_ : Nat
  flit : Flit
  deriving DecidableEq, Repr

/-- Power and clock control that the PWR page does not show (R386, R390, R392). -/
structure Power where
  /-- 0 off, 1 sequencing, 2 on -/
  phase : Nat
  thermLim : Nat
  powerLim : Nat
  /-- a warning holds until every reading is 5 °C below its threshold, and some reading is now at its threshold -/
  thermActive : Bool
  thermAbove : Bool
  lastDrop : Nat
  /-- 10 µs samples in a row with h above 0, and with the mean below PCAP − 100 -/
  hotSamples : Nat
  coolSamples : Nat
  powerDrop : Bool
  /-- input energy below one mJ, in 10 µJ -/
  energyRem : Nat
  /-- time since which the input has been in range -/
  vinSince : Option Nat
  /-- failed stacks of the last power-up -/
  failed : List Nat
  deriving DecidableEq, Repr

/-- Levels of the board's pins (R395). -/
structure Pins where
  modRstN : Bool
  perstN : Bool
  coolOk : Bool
  stbyPg : Bool
  errAlertN : Bool
  deriving DecidableEq, Repr

/-- The Bolt's alert timers (R331). -/
structure Alert where
  /-- the 10 µs minimum low time runs; a clear written meanwhile waits for its end -/
  lowMin : Bool
  clearPend : Bool
  /-- the 1 µs minimum released time runs -/
  highMin : Bool
  deriving DecidableEq, Repr

/-- JTAG instruction register contents (R398). -/
inductive JtagIr where
  | idcode | bypass | sample | extest | intest | debug
  deriving DecidableEq, Repr

/-- What a read of memory or a register over a bus returned: bytes in address order, whether they are poisoned, and
whether the access was served. -/
structure BusOut where
  data : List Byte
  psn : Bool
  ok : Bool
  deriving DecidableEq, Repr

/-- The fuses and the flash's selectors: kept through every reset (R353, R360, R365). -/
structure Fuses where
  tsvnMin : Nat
  ssvnMin : Nat
  krev : Nat
  activeT : Bool
  activeS : Bool
  /-- a copy is marked invalid: trusted A, B, service A, B -/
  invalid : List Nat
  deriving DecidableEq, Repr

/-- A byte of a station core's store that may not have reached memory yet: what it replaced, and whether that was poisoned
(R203, R226). -/
structure CoreByte where
  core : Nat
  addr : Nat
  old : Byte
  psn : Bool
  deriving DecidableEq, Repr

/-- The module. -/
structure State where
  /-- every register of the register pages, by BAR0 offset (R32) -/
  regs : SMap Word
  /-- latched values of the last snapshot, by BAR0 offset (R375) -/
  snap : SMap Word
  /-- HBM, Crock scratchpads, Trays, Stockpots, recipe memory, Mortar local memory (R25), firmware memory (R352):
  the bytes an access sees, caches looked through; each entry is a Host.Cell -/
  mem : SMap Byte
  /-- poison by 32-byte granule number (R233): 1 is poisoned -/
  poison : SMap Byte
  /-- HBM's own bytes and poison under dirty cache lines (R222, R225) -/
  stale : SMap Byte
  stalePsn : SMap Byte
  /-- the stations' memory-side cache lines (R223), most recently used first -/
  cache : List CLine
  /-- tags of the Trays' 4 KiB blocks, by block number in 0x810_0000_0000 (R301) -/
  trayTags : SMap Word
  /-- stores that may stand in a core's cache alone, newest first (R203, R226) -/
  coreBytes : List CoreByte
  /-- scale bytes of MX streams whose plane R116 does not place, by the first bit of the block -/
  mxScale : SMap Byte
  /-- staged parameter values (R94), by 256·station + register -/
  pstage : SMap Word
  /-- generator slots, by 512·quadrant + 64·station + slot (R95) -/
  gens : SMap GenSlot
  /-- Ladle program slots 0 to 15, by 128·quadrant + 16·station + slot; none is an empty slot (R103) -/
  lslots : SMap (Option (BitVec 192))
  /-- the queued launch of a station: ENTRY, QMASK and SWAP as written (R83) -/
  queued : SMap (Option (Nat × Nat × Bool))
  /-- running launches by station -/
  launches : SMap (Option Launch)
  /-- by station: items with an identity from here on belong to its last launch, which counts them in CMD_DONE although it
  has stopped (R87) -/
  lastFirst : SMap Nat
  /-- sequencers, by 4·station + quadrant, whose next command lies one past window word 8,191: the PC field shows 0 -/
  pcOver : List Nat
  /-- held sequencers, by 4·station + quadrant -/
  holds : SMap (Option Hold)
  xfers : List Xfer
  gops : List Gop
  spks : List Spk
  norms : List NormJob
  /-- engine dispatches not complete, by dispatching sequencer 4·station + quadrant (R107 ENG) -/
  dispatches : List (Nat × QDesc)
  /-- the arbiter's virtual time by station, and its just_ready marks (R79) -/
  vt : SMap Nat
  justReady : List Nat
  whisks : SMap Whisk
  tongs : SMap Tongs
  mortars : SMap Mortar
  /-- a DONE that waits for the BG descriptors accepted before it (R177): 16·station + slot, and the next identity then -/
  tdones : List (Nat × Nat)
  /-- watches in use, by absolute index (R277) -/
  watches : SMap (Option Watch)
  notes : List Note
  entrants : List Entrant
  links : SMap Link
  reqs : List Req
  /-- writes to other nodes that wait for a tag, oldest first -/
  outq : List WReq
  /-- remote data read ahead, by the identity of the item that needs it -/
  rbufs : SMap RBuf
  /-- route tables: node entries at n, site entries at 65,536 + s (R258) -/
  routes : SMap Word
  /-- group entries, by 4·entry + word (R275) -/
  groups : SMap Word
  /-- EPOCH + 1 at which an entry's rank map was last checked, 0 for never (R264) -/
  grpSeen : SMap Nat
  /-- collectives a group entry has begun since its EPOCH was written (R243) -/
  grpSeq : SMap Nat
  colls : List Coll
  verdicts : List Verdict
  steps : SMap Step
  /-- events that wait in the blocks' buffers, oldest first (R323) -/
  events : List Event
  /-- pages that dropped an event since the last one they buffered (R323) -/
  lossPages : List Nat
  /-- times of each source's last 32 events, newest first (R326) -/
  hist : SMap (List Nat)
  alert : Alert
  /-- MSI-X vectors that wait, and cores with a machine external interrupt pending (R327, R396) -/
  msix : List Nat
  coreIrq : List Nat
  /-- memory-controller token buckets in bytes, by 8·stack + station (R221) -/
  buckets : SMap Nat
  /-- bytes of reserve and scrub traffic at each stack since the last idle step (R221) -/
  rsvBytes : SMap Nat
  /-- 32-byte granules that the command in progress has read poisoned by an injection, while what is stored is not (R229,
  R232) -/
  flight : List Nat
  /-- the data of the last HBM access, as delivered to the requester (R229) -/
  hbmOut : BusOut
  resets : List StnReset
  /-- doorbell writes that wait for a margin test's end: master ID, BAR0 offset, value (R380) -/
  bells : List (Nat × Nat × Nat)
  /-- pages under engine reset (R368) -/
  engResets : List Nat
  flushes : List Flush
  /-- groups being zeroed (R218) -/
  zeroing : List Nat
  power : Power
  pins : Pins
  /-- the module is powered: false after the standby converter stops (R387) -/
  alive : Bool
  cores : SMap CoreSt
  fuses : Fuses
  /-- the 64 MiB serial flash (R353) -/
  flash : SMap Byte
  session : Option Session
  /-- service copy a handover loads: false A, true B (R361) -/
  hoCopy : Bool
  /-- a handover is open -/
  hoOpen : Bool
  /-- the handover area as saved in staging, and whether the area's header is valid (R361) -/
  hoSave : SMap Byte
  hoValid : Bool
  /-- the service copy that runs, none without service firmware; the SVNs of the running images -/
  svcRun : Option Bool
  tSvn : Nat
  sSvn : Nat
  /-- the copies last staged: false A, true B (R358) -/
  stagedT : Bool
  stagedS : Bool
  /-- mailbox served last (R364) -/
  mbLast : Nat
  /-- NODEID has been set since reset (R257) -/
  nodeSet : Bool
  relays : List Relay
  /-- the last management response that was for this module -/
  mgmtRsp : Option Flit
  smbOff : BitVec 32
  /-- what the last SMBus transaction answered: none is a NACK (R397) -/
  smbOut : Option (List Byte)
  jtagIr : JtagIr
  /-- the JTAG data register as last captured -/
  jtagDr : BitVec 64
  /-- what the last bus read returned -/
  busOut : BusOut
  /-- last snapshot's latch time in ns, none before the first (R376) -/
  lastLatch : Option Nat
  /-- time correction still to be applied, in units of 1/128,000 ns, and whether global time runs at 1/1,024 of its rate
  until it is absorbed (R273) -/
  slew : Int
  slow : Bool
  /-- the part of the global time below 1 ns, in the same units -/
  frac : Nat
  /-- the supply and clock settings a margin test returns to are its own (R380): voltage shift now applied -/
  marginOn : Bool
  nextId : Nat
  /-- the model's own: index of the next free value -/
  free : Nat
  /-- the commands that wait, first in, first out -/
  pending : List Instr
  deriving DecidableEq, Repr

def Whisk.idle : Whisk := ⟨[], none, 7⟩
def Tongs.idle : Tongs := ⟨[], [], []⟩
def Mortar.idle : Mortar := ⟨[], 7, none, none, false, false, 0⟩
def Link.idle : Link :=
  { txq := [], seq := 0, window := [], resend := [], resv := [0, 0, 0, 0], shared := [0, 0, 0, 0], rxNext := 0,
    discard := false, held := [], txPos := 0, rxPos := 0, only := LinkHdr.zero, pdelay := 0, pdReq := none, ptpSeq := 0,
    nakFor := [], helloSent := false, peerHello := false, peerMatch := false, peerT1 := 0, keyUse := [0, 0], keyWraps := [0, 0],
    switchPend := false, authTimes := [], reachPend := none, owed := [] }
def Step.idle : Step := ⟨[], none, false, false, false⟩
def CoreSt.reset : CoreSt :=
  { x := [], k := [], kven := false, kvu := false, sat := false, dirty := false, pc := 0, user := false,
    mie := false, mpie := false, mppUser := false, mtvec := 0, mepc := 0, mcause := 0, mtval := 0, pmpcfg := [],
    pmpaddr := [] }
def BusOut.none : BusOut := ⟨[], false, false⟩
def Fuses.blank : Fuses := ⟨0, 0, 0, false, false, []⟩
def Power.off : Power :=
  { phase := 0, thermLim := 1350, powerLim := 1350, thermActive := false, thermAbove := false, lastDrop := 0,
    hotSamples := 0, coolSamples := 0, powerDrop := false, energyRem := 0, vinSince := none, failed := [] }

/-- The module right after a module reset with its fuses and flash as given (R365: flash and fuses are all it keeps). -/
def State.resetWith (fu : Fuses) (fl : SMap Byte) : State :=
  { regs := [], snap := [], mem := [], poison := [], stale := [], stalePsn := [], cache := [], trayTags := [], coreBytes := [],
    mxScale := [], pstage := [], gens := [], lslots := [], queued := [], launches := [], lastFirst := [], pcOver := [], holds := [], xfers := [], gops := [],
    spks := [], norms := [], dispatches := [], vt := [], justReady := [], whisks := [], tongs := [], mortars := [], tdones := [],
    watches := [], notes := [], entrants := [], links := [], reqs := [], outq := [], grpSeen := [], grpSeq := [], rbufs := [], routes := [], groups := [], colls := [],
    verdicts := [], steps := [], events := [], lossPages := [], hist := [], alert := ⟨true, false, false⟩,
    msix := [], coreIrq := [], buckets := [], rsvBytes := [], flight := [], hbmOut := .none, resets := [], bells := [], engResets := [], flushes := [],
    zeroing := [], power := .off, pins := ⟨true, true, true, true, false⟩, alive := true, cores := [], fuses := fu,
    flash := fl, session := none, hoCopy := false, hoOpen := false, hoSave := [], hoValid := false, svcRun := none,
    tSvn := 0, sSvn := 0, stagedT := false, stagedS := false, mbLast := 8, nodeSet := false, relays := [],
    mgmtRsp := none, smbOff := 0, smbOut := none, jtagIr := .idcode,
    jtagDr := 0, busOut := .none, lastLatch := none, slew := 0, slow := false, frac := 0, marginOn := false, nextId := 0, free := 0, pending := [] }

/-- The module right after reset. -/
def State.reset : State := State.resetWith .blank []

end Sys2Proof.Machine
end

