-- ==== Sys2Proof/Machine/RegMap.lean ====
section
/-! DEFINITION. The register map: the rows of every register table of the spec (R21, R81, R110, R111, R141, R158,
R180, R181, R200, R214, R235, R236, R274 to R277, R289, R321, R336, R351, R364, R377, R383, R400 to R402, R407), each
field with its place, its access code (R406), its reset value (R409), who may write it, its range (R381) and the row
it belongs to (R408); and one name for each field. -/

namespace Sys2Proof.Machine

/-- Access codes (R406). -/
inductive Acc where
  | rw | ro | wo | w1c | w1s | rwl
  deriving DecidableEq, Repr

/-- Who may write a field: nobody; the trusted core; host and trusted core; the host and the row's station's cores;
every master; the request fields of R400; BOLT TAIL (R336); a mailbox's owner (R364); a group entry's station (R275). -/
inductive Writer where
  | none | tc | hostTc | stn | any | request | boltTail | mbox | grp
  deriving DecidableEq, Repr

/-- What a row is indexed by (R408). -/
inductive RowOf where
  | none | stn | core | page | slice | ctr | ctrWord | bar | spBlk | mbox
  deriving DecidableEq, Repr

/-- A field row: page offset of index 0, (stride, count) of each index with the largest stride first, bits, access,
reset value, writers, stated range, whether it is a latchable counter, whether only page 0 of its block has it. -/
structure FieldRow where
  base : Nat
  dims : List (Nat × Nat)
  hi : Nat
  lo : Nat
  acc : Acc
  rst : Nat
  wr : Writer
  rng : Option (Nat × Nat)
  ctr : Bool
  only0 : Bool
  own : RowOf
  deriving DecidableEq, Repr

/-- Blocks by the block code of R402. -/
inductive Blk where
  | sys | pwr | bolt | tmb | grd | ldl | seq | wsk | tng | mtr | crk | mc | kp | krt | time | fw | cc | sve | hst
  deriving DecidableEq, Repr

/-- A named field: BAR0 offset and bits. -/
structure Fld where
  off : Nat
  hi : Nat
  lo : Nat
  deriving DecidableEq, Repr

/-- Rows of the common header of every page. -/
def hdrRows : List FieldRow :=
  [⟨0x0, [], 15, 0, .ro, 8264, .none, none, false, false, .none⟩,
   ⟨0x0, [], 23, 16, .ro, 0, .none, none, false, false, .none⟩,
   ⟨0x0, [], 31, 24, .ro, 0, .none, none, false, false, .none⟩,
   ⟨0x0, [], 35, 32, .ro, 0, .none, none, false, false, .none⟩,
   ⟨0x0, [], 47, 40, .ro, 0, .none, none, false, false, .none⟩,
   ⟨0x8, [], 0, 0, .ro, 0, .none, none, false, false, .none⟩,
   ⟨0x8, [], 1, 1, .ro, 0, .none, none, false, false, .none⟩,
   ⟨0x8, [], 2, 2, .ro, 0, .none, none, false, false, .none⟩,
   ⟨0x8, [], 3, 3, .ro, 0, .none, none, false, false, .none⟩,
   ⟨0x8, [], 15, 8, .ro, 0, .none, none, false, false, .none⟩,
   ⟨0x8, [], 19, 16, .ro, 0, .none, none, false, false, .none⟩,
   ⟨0x10, [], 0, 0, .w1s, 0, .hostTc, none, false, false, .none⟩,
   ⟨0x18, [], 0, 0, .ro, 0, .none, none, false, false, .none⟩,
   ⟨0x18, [], 1, 1, .ro, 0, .none, none, false, false, .none⟩,
   ⟨0x18, [], 2, 2, .ro, 0, .none, none, false, false, .none⟩,
   ⟨0x18, [], 5, 3, .ro, 0, .none, none, false, false, .none⟩,
   ⟨0x20, [], 15, 0, .ro, 0, .none, none, false, false, .none⟩,
   ⟨0x20, [], 47, 32, .ro, 0, .none, none, false, false, .none⟩,
   ⟨0x20, [], 63, 63, .w1c, 0, .hostTc, none, false, false, .none⟩,
   ⟨0x28, [], 63, 0, .ro, 0, .none, none, false, false, .none⟩,
   ⟨0x30, [], 7, 0, .ro, 0, .none, none, false, false, .none⟩,
   ⟨0x30, [], 10, 8, .ro, 0, .none, none, false, false, .none⟩,
   ⟨0x30, [], 11, 11, .ro, 0, .none, none, false, false, .none⟩,
   ⟨0x38, [], 2, 0, .ro, 0, .none, none, false, false, .none⟩] ++
  [⟨0x38, [], 15, 8, .ro, 0, .none, none, false, false, .none⟩,
   ⟨0x38, [], 16, 16, .ro, 0, .none, none, false, false, .none⟩,
   ⟨0x38, [], 63, 63, .w1c, 0, .hostTc, none, false, false, .none⟩,
   ⟨0x40, [], 63, 0, .ro, 0, .none, none, false, false, .none⟩,
   ⟨0x48, [], 31, 0, .ro, 0, .none, none, false, false, .none⟩,
   ⟨0x48, [], 63, 32, .ro, 0, .none, none, false, false, .none⟩,
   ⟨0x50, [], 15, 3, .rw, 0, .hostTc, none, false, false, .none⟩,
   ⟨0x50, [], 47, 32, .ro, 0, .none, none, false, false, .none⟩,
   ⟨0x50, [], 48, 48, .ro, 0, .none, none, false, false, .none⟩,
   ⟨0x58, [], 63, 0, .ro, 0, .none, none, false, false, .none⟩,
   ⟨0x60, [], 3, 0, .rw, 0, .hostTc, none, false, false, .none⟩,
   ⟨0x60, [], 11, 4, .rw, 0, .hostTc, none, false, false, .none⟩,
   ⟨0x60, [], 62, 62, .ro, 0, .none, none, false, false, .none⟩,
   ⟨0x60, [], 63, 63, .w1s, 0, .hostTc, none, false, false, .none⟩]

/-- Rows of the SYS page. -/
def sysRows : List FieldRow :=
  [⟨0x100, [(0x40, 8)], 0, 0, .rw, 0, .tc, none, false, false, .stn⟩,
   ⟨0x100, [(0x40, 8)], 1, 1, .w1s, 0, .tc, none, false, false, .stn⟩,
   ⟨0x100, [(0x40, 8)], 2, 2, .ro, 0, .none, none, false, false, .stn⟩,
   ⟨0x100, [(0x40, 8)], 5, 4, .rwl, 0, .tc, some (0, 2), false, false, .stn⟩,
   ⟨0x100, [(0x40, 8)], 31, 16, .rwl, 0, .tc, none, false, false, .stn⟩,
   ⟨0x108, [(0x40, 8)], 47, 0, .rwl, 0, .tc, none, false, false, .stn⟩,
   ⟨0x110, [(0x40, 8)], 7, 0, .rwl, 0, .tc, none, false, false, .stn⟩,
   ⟨0x110, [(0x40, 8)], 15, 8, .rwl, 0, .tc, none, false, false, .stn⟩,
   ⟨0x118, [(0x40, 8)], 5, 0, .rwl, 0, .tc, none, false, false, .stn⟩,
   ⟨0x118, [(0x40, 8)], 14, 8, .rwl, 0, .tc, some (0, 64), false, false, .stn⟩,
   ⟨0x118, [(0x40, 8)], 21, 16, .rwl, 0, .tc, none, false, false, .stn⟩,
   ⟨0x118, [(0x40, 8)], 30, 24, .rwl, 0, .tc, some (0, 64), false, false, .stn⟩,
   ⟨0x118, [(0x40, 8)], 37, 32, .rwl, 0, .tc, none, false, false, .stn⟩,
   ⟨0x118, [(0x40, 8)], 46, 40, .rwl, 0, .tc, some (0, 64), false, false, .stn⟩,
   ⟨0x120, [(0x40, 8), (0x8, 4)], 11, 0, .rwl, 0, .tc, some (0, 2555), false, false, .stn⟩,
   ⟨0x120, [(0x40, 8), (0x8, 4)], 27, 16, .rwl, 0, .tc, some (0, 2555), false, false, .stn⟩,
   ⟨0x120, [(0x40, 8), (0x8, 4)], 63, 63, .rwl, 0, .tc, none, false, false, .stn⟩,
   ⟨0x400, [], 0, 0, .w1s, 0, .hostTc, none, false, false, .none⟩,
   ⟨0x400, [], 15, 8, .w1s, 0, .tc, none, false, false, .none⟩,
   ⟨0x400, [], 23, 16, .ro, 0, .none, none, false, false, .none⟩,
   ⟨0x408, [], 7, 0, .wo, 0, .hostTc, none, false, false, .none⟩,
   ⟨0x408, [], 62, 62, .ro, 0, .none, none, false, false, .none⟩,
   ⟨0x408, [], 63, 63, .w1s, 0, .hostTc, none, false, false, .none⟩,
   ⟨0x410, [(0x10, 8)], 43, 12, .rw, 0, .stn, none, false, false, .stn⟩] ++
  [⟨0x410, [(0x10, 8)], 55, 48, .rw, 0, .stn, none, false, false, .stn⟩,
   ⟨0x418, [(0x10, 8)], 31, 0, .ro, 0, .none, none, false, false, .stn⟩,
   ⟨0x500, [], 0, 0, .rw, 1, .any, none, false, false, .none⟩,
   ⟨0x500, [], 7, 1, .rw, 20, .any, some (1, 100), false, false, .none⟩,
   ⟨0x500, [], 23, 8, .rw, 500, .any, some (10, 500), false, false, .none⟩,
   ⟨0x508, [], 31, 0, .ro, 0, .none, none, true, false, .none⟩,
   ⟨0x508, [], 47, 32, .ro, 0, .none, none, true, false, .none⟩,
   ⟨0x508, [], 55, 48, .ro, 0, .none, none, false, false, .none⟩,
   ⟨0x508, [], 63, 63, .w1c, 0, .any, none, false, false, .none⟩,
   ⟨0x510, [], 3, 0, .rw, 0, .hostTc, none, false, false, .none⟩,
   ⟨0x510, [], 11, 4, .rw, 0, .hostTc, none, false, false, .none⟩,
   ⟨0x510, [], 19, 12, .rw, 0, .hostTc, none, false, false, .none⟩,
   ⟨0x510, [], 27, 20, .rw, 0, .hostTc, none, false, false, .none⟩,
   ⟨0x510, [], 35, 28, .rw, 1, .hostTc, some (1, 10), false, false, .none⟩,
   ⟨0x510, [], 62, 62, .ro, 0, .none, none, false, false, .none⟩,
   ⟨0x510, [], 63, 63, .w1s, 0, .hostTc, none, false, false, .none⟩,
   ⟨0x518, [], 2, 0, .ro, 0, .none, none, false, false, .none⟩,
   ⟨0x518, [], 10, 3, .ro, 0, .none, none, false, false, .none⟩,
   ⟨0x518, [], 31, 16, .ro, 0, .none, none, false, false, .none⟩,
   ⟨0x600, [], 0, 0, .w1s, 0, .tc, none, false, false, .none⟩,
   ⟨0x600, [], 1, 1, .w1s, 0, .tc, none, false, false, .none⟩,
   ⟨0x600, [], 2, 2, .w1s, 0, .tc, none, false, false, .none⟩,
   ⟨0x600, [], 3, 3, .w1s, 0, .tc, none, false, false, .none⟩]

/-- Rows of the PWR page. -/
def pwrRows : List FieldRow :=
  [⟨0x100, [], 15, 0, .ro, 0, .none, none, false, false, .none⟩,
   ⟨0x100, [], 31, 16, .ro, 0, .none, none, false, false, .none⟩,
   ⟨0x100, [], 47, 32, .ro, 0, .none, none, false, false, .none⟩,
   ⟨0x100, [], 63, 48, .ro, 0, .none, none, false, false, .none⟩,
   ⟨0x108, [], 15, 0, .rw, 0, .any, none, false, false, .none⟩,
   ⟨0x110, [], 0, 0, .rw, 0, .tc, none, false, false, .none⟩,
   ⟨0x118, [], 0, 0, .ro, 1, .none, none, false, false, .none⟩,
   ⟨0x118, [], 1, 1, .ro, 0, .none, none, false, false, .none⟩,
   ⟨0x118, [], 2, 2, .ro, 0, .none, none, false, false, .none⟩,
   ⟨0x118, [], 3, 3, .ro, 0, .none, none, false, false, .none⟩,
   ⟨0x118, [], 15, 8, .ro, 0, .none, none, false, false, .none⟩,
   ⟨0x120, [], 10, 0, .rw, 1200, .request, some (800, 1350), false, false, .none⟩,
   ⟨0x120, [], 26, 16, .ro, 0, .none, none, false, false, .none⟩,
   ⟨0x120, [], 42, 32, .ro, 1350, .none, none, false, false, .none⟩,
   ⟨0x120, [], 45, 43, .ro, 0, .none, none, false, false, .none⟩,
   ⟨0x128, [], 12, 0, .rw, 4400, .request, some (2000, 4400), false, false, .none⟩,
   ⟨0x128, [], 28, 16, .rwl, 4400, .tc, some (2000, 4400), false, false, .none⟩,
   ⟨0x128, [], 35, 32, .ro, 0, .none, none, false, false, .none⟩,
   ⟨0x130, [(0x8, 18)], 10, 0, .rw, 2000, .tc, some (500, 2000), false, false, .core⟩,
   ⟨0x1C0, [(0x8, 4)], 7, 0, .ro, 0, .none, none, false, false, .none⟩,
   ⟨0x1C0, [(0x8, 4)], 15, 8, .rw, 0, .any, none, false, false, .none⟩,
   ⟨0x1E0, [(0x8, 20)], 7, 0, .ro, 0, .none, none, false, false, .none⟩,
   ⟨0x280, [], 7, 0, .rw, 95, .tc, some (70, 95), false, false, .none⟩,
   ⟨0x280, [], 15, 8, .rw, 90, .tc, some (70, 90), false, false, .none⟩] ++
  [⟨0x280, [], 23, 16, .ro, 110, .none, none, false, false, .none⟩,
   ⟨0x280, [], 31, 24, .ro, 100, .none, none, false, false, .none⟩,
   ⟨0x288, [], 63, 0, .ro, 0, .none, none, true, false, .none⟩,
   ⟨0x290, [], 63, 0, .ro, 0, .none, none, true, false, .none⟩]

/-- Rows of the BOLT page. -/
def boltRows : List FieldRow :=
  [⟨0x100, [], 0, 0, .rw, 0, .tc, none, false, false, .none⟩,
   ⟨0x100, [], 15, 8, .ro, 0, .none, none, false, false, .none⟩,
   ⟨0x108, [], 0, 0, .w1c, 1, .hostTc, none, false, false, .none⟩,
   ⟨0x108, [], 1, 1, .ro, 1, .none, none, false, false, .none⟩,
   ⟨0x108, [], 63, 32, .ro, 0, .none, none, true, false, .none⟩,
   ⟨0x110, [], 5, 0, .ro, 0, .none, none, false, false, .none⟩,
   ⟨0x110, [], 13, 8, .rw, 0, .boltTail, none, false, false, .none⟩,
   ⟨0x110, [], 63, 32, .ro, 0, .none, none, true, false, .none⟩,
   ⟨0x118, [], 63, 0, .ro, 0, .none, none, true, false, .none⟩,
   ⟨0x140, [(0x8, 3)], 63, 0, .w1c, 0, .hostTc, none, false, false, .none⟩,
   ⟨0x180, [(0x8, 8)], 31, 0, .ro, 0, .none, none, true, false, .stn⟩,
   ⟨0x400, [(0x8, 155)], 5, 0, .rw, 8, .tc, some (1, 32), false, false, .none⟩,
   ⟨0x400, [(0x8, 155)], 17, 6, .rw, 60, .tc, some (1, 3600), false, false, .none⟩,
   ⟨0x400, [(0x8, 155)], 31, 24, .rw, 0, .tc, none, false, false, .none⟩,
   ⟨0x400, [(0x8, 155)], 39, 32, .rw, 0, .tc, none, false, false, .none⟩,
   ⟨0x400, [(0x8, 155)], 63, 40, .ro, 0, .none, none, true, false, .none⟩,
   ⟨0x1000, [(0x20, 64)], 63, 0, .ro, 0, .none, none, false, false, .none⟩,
   ⟨0x1008, [(0x20, 64)], 7, 0, .ro, 0, .none, none, false, false, .none⟩,
   ⟨0x1008, [(0x20, 64)], 15, 8, .ro, 0, .none, none, false, false, .none⟩,
   ⟨0x1008, [(0x20, 64)], 18, 16, .ro, 0, .none, none, false, false, .none⟩,
   ⟨0x1008, [(0x20, 64)], 19, 19, .ro, 0, .none, none, false, false, .none⟩,
   ⟨0x1008, [(0x20, 64)], 20, 20, .ro, 0, .none, none, false, false, .none⟩,
   ⟨0x1008, [(0x20, 64)], 21, 21, .ro, 0, .none, none, false, false, .none⟩,
   ⟨0x1008, [(0x20, 64)], 22, 22, .ro, 0, .none, none, false, false, .none⟩] ++
  [⟨0x1008, [(0x20, 64)], 23, 23, .ro, 0, .none, none, false, false, .none⟩,
   ⟨0x1008, [(0x20, 64)], 31, 24, .ro, 0, .none, none, false, false, .none⟩,
   ⟨0x1008, [(0x20, 64)], 34, 32, .ro, 0, .none, none, false, false, .none⟩,
   ⟨0x1008, [(0x20, 64)], 63, 35, .ro, 0, .none, none, false, false, .none⟩,
   ⟨0x1010, [(0x20, 64)], 63, 0, .ro, 0, .none, none, false, false, .none⟩]

/-- Rows of the TMB page. -/
def tmbRows : List FieldRow :=
  [⟨0x100, [], 10, 0, .ro, 0, .none, none, false, false, .none⟩,
   ⟨0x100, [], 24, 16, .ro, 0, .none, none, false, false, .none⟩,
   ⟨0x108, [], 63, 0, .ro, 0, .none, none, true, false, .none⟩,
   ⟨0x110, [], 31, 0, .ro, 0, .none, none, true, false, .none⟩,
   ⟨0x110, [], 63, 32, .ro, 0, .none, none, true, false, .none⟩,
   ⟨0x200, [(0x10, 8)], 11, 0, .rw, 0, .stn, none, false, false, .stn⟩,
   ⟨0x200, [(0x10, 8)], 13, 12, .rw, 0, .stn, none, false, false, .stn⟩,
   ⟨0x200, [(0x10, 8)], 63, 32, .rw, 0, .stn, none, false, false, .stn⟩,
   ⟨0x208, [(0x10, 8)], 31, 0, .rw, 0, .stn, none, false, false, .stn⟩,
   ⟨0x208, [(0x10, 8)], 35, 32, .rw, 0, .stn, none, false, false, .stn⟩,
   ⟨0x208, [(0x10, 8)], 51, 36, .rw, 0, .stn, none, false, false, .stn⟩,
   ⟨0x208, [(0x10, 8)], 62, 62, .w1c, 0, .stn, none, false, false, .stn⟩,
   ⟨0x208, [(0x10, 8)], 63, 63, .w1s, 0, .stn, none, false, false, .stn⟩,
   ⟨0x300, [(0x8, 8)], 4, 0, .ro, 0, .none, none, false, false, .stn⟩,
   ⟨0x300, [(0x8, 8)], 12, 8, .rw, 0, .stn, none, false, false, .stn⟩,
   ⟨0x300, [(0x8, 8)], 16, 16, .w1c, 0, .stn, none, false, false, .stn⟩,
   ⟨0x1000, [(0x8, 64)], 63, 0, .w1c, 0, .stn, none, false, false, .ctrWord⟩,
   ⟨0x1200, [(0x8, 64)], 63, 0, .w1c, 0, .stn, none, false, false, .ctrWord⟩,
   ⟨0x2000, [(0x100, 8), (0x8, 32)], 31, 0, .ro, 0, .none, none, false, false, .stn⟩,
   ⟨0x2000, [(0x100, 8), (0x8, 32)], 33, 32, .ro, 0, .none, none, false, false, .stn⟩,
   ⟨0x3000, [(0x10, 256)], 11, 0, .rwl, 0, .stn, none, false, false, .bar⟩,
   ⟨0x3000, [(0x10, 256)], 17, 12, .rwl, 1, .stn, some (1, 63), false, false, .bar⟩,
   ⟨0x3000, [(0x10, 256)], 31, 16, .rwl, 0, .stn, none, false, false, .bar⟩,
   ⟨0x3000, [(0x10, 256)], 47, 32, .rw, 0, .stn, none, false, false, .bar⟩] ++
  [⟨0x3000, [(0x10, 256)], 63, 63, .rw, 0, .stn, none, false, false, .bar⟩,
   ⟨0x3008, [(0x10, 256)], 0, 0, .ro, 0, .none, none, false, false, .bar⟩,
   ⟨0x3008, [(0x10, 256)], 6, 1, .ro, 0, .none, none, false, false, .bar⟩,
   ⟨0x3008, [(0x10, 256)], 12, 7, .ro, 0, .none, none, false, false, .bar⟩,
   ⟨0x3008, [(0x10, 256)], 17, 13, .ro, 0, .none, none, false, false, .bar⟩,
   ⟨0x3008, [(0x10, 256)], 18, 18, .ro, 0, .none, none, false, false, .bar⟩,
   ⟨0x3008, [(0x10, 256)], 19, 19, .w1c, 0, .stn, none, false, false, .bar⟩,
   ⟨0x3008, [(0x10, 256)], 20, 20, .w1c, 0, .stn, none, false, false, .bar⟩,
   ⟨0x3008, [(0x10, 256)], 47, 32, .ro, 0, .none, none, false, false, .bar⟩,
   ⟨0x3008, [(0x10, 256)], 63, 63, .w1s, 0, .stn, none, false, false, .bar⟩,
   ⟨0x8000, [(0x8, 4096)], 31, 0, .rw, 0, .stn, none, false, false, .ctr⟩,
   ⟨0x8000, [(0x8, 4096)], 63, 32, .rw, 4294967295, .stn, none, false, false, .ctr⟩]

/-- Rows of the GRD page. -/
def grdRows : List FieldRow :=
  [⟨0x100, [], 0, 0, .ro, 0, .none, none, false, false, .none⟩,
   ⟨0x100, [], 3, 1, .ro, 0, .none, none, false, false, .none⟩,
   ⟨0x100, [], 5, 4, .ro, 0, .none, none, false, false, .none⟩,
   ⟨0x100, [], 8, 6, .ro, 0, .none, none, false, false, .none⟩,
   ⟨0x100, [], 9, 9, .ro, 0, .none, none, false, false, .none⟩,
   ⟨0x100, [], 10, 10, .ro, 0, .none, none, false, false, .none⟩,
   ⟨0x108, [], 23, 0, .ro, 0, .none, none, false, false, .none⟩,
   ⟨0x108, [], 47, 24, .ro, 0, .none, none, false, false, .none⟩,
   ⟨0x108, [], 53, 48, .ro, 0, .none, none, false, false, .none⟩,
   ⟨0x108, [], 55, 54, .ro, 0, .none, none, false, false, .none⟩,
   ⟨0x108, [], 58, 56, .ro, 0, .none, none, false, false, .none⟩,
   ⟨0x108, [], 63, 63, .w1c, 0, .tc, none, false, false, .none⟩,
   ⟨0x110, [], 31, 0, .ro, 0, .none, none, true, false, .none⟩,
   ⟨0x118, [], 63, 0, .ro, 0, .none, none, true, false, .none⟩,
   ⟨0x120, [], 63, 0, .ro, 0, .none, none, true, false, .none⟩,
   ⟨0x128, [], 63, 0, .ro, 0, .none, none, true, false, .none⟩,
   ⟨0x180, [], 31, 0, .rw, 262144, .tc, some (4096, 16777216), false, true, .none⟩,
   ⟨0x188, [], 24, 0, .rw, 4194304, .tc, some (4096, 16777216), false, true, .none⟩,
   ⟨0x190, [], 2, 0, .ro, 0, .none, none, false, true, .none⟩,
   ⟨0x190, [], 63, 32, .ro, 0, .none, none, false, true, .none⟩,
   ⟨0x1C0, [(0x8, 8)], 63, 0, .ro, 0, .none, none, true, true, .stn⟩]

/-- Rows of the LDL page. -/
def ldlRows : List FieldRow :=
  [⟨0x100, [], 0, 0, .ro, 0, .none, none, false, false, .none⟩,
   ⟨0x100, [], 4, 1, .ro, 0, .none, none, false, false, .none⟩,
   ⟨0x100, [], 7, 5, .ro, 0, .none, none, false, false, .none⟩,
   ⟨0x108, [], 31, 0, .ro, 0, .none, none, true, false, .none⟩,
   ⟨0x108, [], 63, 32, .ro, 0, .none, none, true, false, .none⟩,
   ⟨0x110, [], 31, 0, .ro, 0, .none, none, true, false, .none⟩,
   ⟨0x110, [], 63, 32, .ro, 0, .none, none, true, false, .none⟩,
   ⟨0x118, [], 31, 0, .ro, 0, .none, none, true, false, .none⟩,
   ⟨0x120, [(0x8, 8)], 63, 0, .rw, 0, .any, none, false, false, .stn⟩,
   ⟨0x160, [(0x8, 8)], 7, 0, .rw, 7, .any, none, false, false, .stn⟩,
   ⟨0x160, [(0x8, 8)], 15, 8, .rw, 8, .any, none, false, false, .stn⟩,
   ⟨0x1A0, [(0x8, 8)], 3, 0, .ro, 0, .none, none, false, false, .stn⟩,
   ⟨0x1A0, [(0x8, 8)], 4, 4, .ro, 0, .none, none, false, false, .stn⟩,
   ⟨0x1A0, [(0x8, 8)], 63, 32, .ro, 0, .none, none, false, false, .stn⟩,
   ⟨0xA00, [(0x8, 8)], 0, 0, .w1c, 0, .any, none, false, false, .stn⟩,
   ⟨0xA00, [(0x8, 8)], 1, 1, .w1c, 0, .any, none, false, false, .stn⟩,
   ⟨0x200, [(0x80, 8), (0x8, 16)], 63, 0, .rw, 0, .any, none, false, false, .stn⟩,
   ⟨0x600, [(0x80, 8), (0x8, 16)], 0, 0, .w1c, 0, .any, none, false, false, .stn⟩,
   ⟨0x600, [(0x80, 8), (0x8, 16)], 1, 1, .w1c, 0, .any, none, false, false, .stn⟩,
   ⟨0x8000, [(0x8, 2048)], 63, 0, .ro, 0, .none, none, false, false, .spBlk⟩,
   ⟨0x1000, [(0x40, 8)], 7, 0, .rw, 0, .any, none, false, false, .stn⟩,
   ⟨0x1008, [(0x40, 8)], 43, 12, .rw, 0, .any, none, false, true, .stn⟩,
   ⟨0x1008, [(0x40, 8)], 55, 48, .rw, 0, .any, none, false, true, .stn⟩,
   ⟨0x1010, [(0x40, 8)], 31, 0, .ro, 0, .none, none, false, true, .stn⟩] ++
  [⟨0x1018, [(0x40, 8)], 15, 0, .wo, 0, .any, none, false, true, .stn⟩,
   ⟨0x1018, [(0x40, 8)], 18, 16, .wo, 0, .any, none, false, true, .stn⟩,
   ⟨0x1018, [(0x40, 8)], 62, 62, .ro, 0, .none, none, false, true, .stn⟩,
   ⟨0x1018, [(0x40, 8)], 63, 63, .w1s, 0, .any, none, false, true, .stn⟩,
   ⟨0x1020, [(0x40, 8)], 13, 0, .rw, 0, .any, none, false, false, .stn⟩,
   ⟨0x1020, [(0x40, 8)], 28, 14, .rw, 0, .any, some (0, 16384), false, false, .stn⟩,
   ⟨0x1020, [(0x40, 8)], 32, 29, .rw, 0, .any, none, false, false, .stn⟩,
   ⟨0x1020, [(0x40, 8)], 62, 62, .ro, 0, .none, none, false, false, .stn⟩,
   ⟨0x1020, [(0x40, 8)], 63, 63, .w1s, 0, .any, none, false, false, .stn⟩,
   ⟨0x1028, [(0x40, 8)], 63, 0, .rw, 0, .any, none, false, false, .stn⟩,
   ⟨0x1030, [(0x40, 8)], 23, 0, .rw, 0, .any, none, false, false, .stn⟩,
   ⟨0x1030, [(0x40, 8)], 24, 24, .rw, 0, .any, none, false, false, .stn⟩]

/-- Rows of the SEQ page. -/
def seqRows : List FieldRow :=
  [⟨0x100, [(0x20, 8)], 12, 0, .rwl, 0, .tc, none, false, false, .stn⟩,
   ⟨0x100, [(0x20, 8)], 29, 16, .rwl, 0, .tc, some (0, 8192), false, false, .stn⟩,
   ⟨0x108, [(0x20, 8)], 5, 0, .rwl, 0, .tc, none, false, false, .stn⟩,
   ⟨0x108, [(0x20, 8)], 22, 16, .rwl, 0, .tc, some (0, 64), false, false, .stn⟩,
   ⟨0x108, [(0x20, 8)], 37, 32, .rwl, 0, .tc, none, false, false, .stn⟩,
   ⟨0x108, [(0x20, 8)], 54, 48, .rwl, 0, .tc, some (0, 64), false, false, .stn⟩,
   ⟨0x110, [(0x20, 8)], 0, 0, .ro, 0, .none, none, false, false, .stn⟩,
   ⟨0x110, [(0x20, 8)], 1, 1, .w1s, 0, .any, none, false, false, .stn⟩,
   ⟨0x110, [(0x20, 8)], 2, 2, .ro, 0, .none, none, false, false, .stn⟩,
   ⟨0x110, [(0x20, 8)], 3, 3, .w1c, 0, .any, none, false, false, .stn⟩,
   ⟨0x118, [(0x20, 8)], 0, 0, .ro, 0, .none, none, false, false, .stn⟩,
   ⟨0x118, [(0x20, 8)], 1, 1, .ro, 0, .none, none, false, false, .stn⟩,
   ⟨0x118, [(0x20, 8)], 7, 4, .ro, 0, .none, none, false, false, .stn⟩,
   ⟨0x118, [(0x20, 8)], 20, 8, .ro, 0, .none, none, false, false, .stn⟩,
   ⟨0x118, [(0x20, 8)], 63, 32, .ro, 0, .none, none, false, false, .stn⟩,
   ⟨0x200, [(0x10, 8)], 12, 0, .rw, 0, .any, none, false, true, .stn⟩,
   ⟨0x200, [(0x10, 8)], 19, 16, .rw, 0, .any, none, false, true, .stn⟩,
   ⟨0x200, [(0x10, 8)], 20, 20, .rw, 0, .any, none, false, true, .stn⟩,
   ⟨0x200, [(0x10, 8)], 21, 21, .ro, 0, .none, none, false, true, .stn⟩,
   ⟨0x200, [(0x10, 8)], 22, 22, .w1c, 0, .any, none, false, true, .stn⟩,
   ⟨0x200, [(0x10, 8)], 63, 63, .w1s, 0, .any, none, false, true, .stn⟩,
   ⟨0x300, [(0x20, 8), (0x8, 4)], 63, 0, .ro, 0, .none, none, false, true, .stn⟩,
   ⟨0x1000, [(0x800, 8), (0x8, 256)], 63, 0, .rw, 0, .any, none, false, true, .stn⟩]

/-- Rows of the WSK page. -/
def wskRows : List FieldRow :=
  [⟨0x100, [], 0, 0, .ro, 0, .none, none, false, false, .none⟩,
   ⟨0x100, [], 3, 1, .ro, 0, .none, none, false, false, .none⟩,
   ⟨0x100, [], 11, 4, .ro, 0, .none, none, false, false, .none⟩,
   ⟨0x108, [(0x8, 8)], 3, 0, .ro, 0, .none, none, false, false, .stn⟩,
   ⟨0x148, [], 31, 0, .ro, 0, .none, none, true, false, .none⟩,
   ⟨0x148, [], 63, 32, .ro, 0, .none, none, true, false, .none⟩,
   ⟨0x150, [], 63, 0, .ro, 0, .none, none, true, false, .none⟩,
   ⟨0x158, [], 63, 0, .ro, 0, .none, none, true, false, .none⟩,
   ⟨0x180, [(0x8, 8)], 43, 0, .wo, 0, .stn, none, false, false, .stn⟩,
   ⟨0x180, [(0x8, 8)], 55, 44, .wo, 0, .stn, none, false, false, .stn⟩,
   ⟨0x180, [(0x8, 8)], 56, 56, .wo, 0, .stn, none, false, false, .stn⟩,
   ⟨0x180, [(0x8, 8)], 63, 63, .w1s, 0, .stn, none, false, false, .stn⟩]

/-- Rows of the TNG page. -/
def tngRows : List FieldRow :=
  [⟨0x100, [], 6, 0, .ro, 0, .none, none, false, false, .none⟩,
   ⟨0x100, [], 20, 8, .ro, 0, .none, none, false, false, .none⟩,
   ⟨0x100, [], 27, 21, .ro, 0, .none, none, false, false, .none⟩,
   ⟨0x108, [], 63, 0, .ro, 0, .none, none, true, false, .none⟩,
   ⟨0x110, [], 63, 0, .ro, 0, .none, none, true, false, .none⟩,
   ⟨0x118, [], 31, 0, .ro, 0, .none, none, true, false, .none⟩,
   ⟨0x120, [], 6, 0, .rw, 20, .tc, some (1, 100), false, false, .none⟩,
   ⟨0x180, [(0x8, 8)], 43, 0, .wo, 0, .stn, none, false, false, .stn⟩,
   ⟨0x180, [(0x8, 8)], 55, 44, .wo, 0, .stn, none, false, false, .stn⟩,
   ⟨0x180, [(0x8, 8)], 56, 56, .wo, 0, .stn, none, false, false, .stn⟩,
   ⟨0x180, [(0x8, 8)], 63, 63, .w1s, 0, .stn, none, false, false, .stn⟩,
   ⟨0x1000, [(0x400, 8), (0x40, 16)], 43, 0, .rw, 0, .stn, none, false, true, .stn⟩,
   ⟨0x1000, [(0x400, 8), (0x40, 16)], 63, 63, .rw, 0, .stn, none, false, true, .stn⟩,
   ⟨0x1008, [(0x400, 8), (0x40, 16)], 43, 0, .rw, 0, .stn, none, false, true, .stn⟩,
   ⟨0x1010, [(0x400, 8), (0x40, 16)], 39, 0, .rw, 0, .stn, none, false, true, .stn⟩,
   ⟨0x1010, [(0x400, 8), (0x40, 16)], 56, 44, .rw, 0, .stn, some (4, 4096), false, true, .stn⟩,
   ⟨0x1018, [(0x400, 8), (0x40, 16)], 31, 0, .ro, 0, .none, none, false, true, .stn⟩,
   ⟨0x1018, [(0x400, 8), (0x40, 16)], 32, 32, .ro, 0, .none, none, false, true, .stn⟩,
   ⟨0x1018, [(0x400, 8), (0x40, 16)], 35, 33, .ro, 0, .none, none, false, true, .stn⟩,
   ⟨0x1018, [(0x400, 8), (0x40, 16)], 36, 36, .ro, 0, .none, none, false, true, .stn⟩,
   ⟨0x1020, [(0x400, 8), (0x40, 16)], 0, 0, .w1s, 0, .stn, none, false, true, .stn⟩,
   ⟨0x1020, [(0x400, 8), (0x40, 16)], 1, 1, .w1s, 0, .stn, none, false, true, .stn⟩,
   ⟨0x1020, [(0x400, 8), (0x40, 16)], 2, 2, .w1s, 0, .stn, none, false, true, .stn⟩,
   ⟨0x1020, [(0x400, 8), (0x40, 16)], 3, 3, .w1s, 0, .stn, none, false, true, .stn⟩] ++
  [⟨0x1020, [(0x400, 8), (0x40, 16)], 27, 16, .rw, 0, .stn, none, false, true, .stn⟩]

/-- Rows of the MTR page. -/
def mtrRows : List FieldRow :=
  [⟨0x100, [], 0, 0, .ro, 0, .none, none, false, false, .none⟩,
   ⟨0x100, [], 3, 1, .ro, 0, .none, none, false, false, .none⟩,
   ⟨0x100, [], 6, 4, .ro, 0, .none, none, false, false, .none⟩,
   ⟨0x100, [], 22, 7, .ro, 0, .none, none, false, false, .none⟩,
   ⟨0x108, [(0x8, 8)], 2, 0, .ro, 0, .none, none, false, false, .stn⟩,
   ⟨0x148, [], 31, 0, .ro, 0, .none, none, false, false, .none⟩,
   ⟨0x148, [], 34, 32, .ro, 0, .none, none, false, false, .none⟩,
   ⟨0x148, [], 35, 35, .ro, 0, .none, none, false, false, .none⟩,
   ⟨0x150, [], 31, 0, .ro, 0, .none, none, true, false, .none⟩,
   ⟨0x150, [], 63, 32, .ro, 0, .none, none, true, false, .none⟩,
   ⟨0x158, [], 31, 0, .ro, 0, .none, none, true, false, .none⟩,
   ⟨0x158, [], 63, 32, .ro, 0, .none, none, true, false, .none⟩,
   ⟨0x160, [], 63, 0, .ro, 0, .none, none, true, false, .none⟩,
   ⟨0x168, [], 63, 0, .ro, 0, .none, none, true, false, .none⟩,
   ⟨0x180, [(0x8, 8)], 43, 0, .wo, 0, .stn, none, false, false, .stn⟩,
   ⟨0x180, [(0x8, 8)], 55, 44, .wo, 0, .stn, none, false, false, .stn⟩,
   ⟨0x180, [(0x8, 8)], 56, 56, .wo, 0, .stn, none, false, false, .stn⟩,
   ⟨0x180, [(0x8, 8)], 63, 63, .w1s, 0, .stn, none, false, false, .stn⟩]

/-- Rows of the CRK page. -/
def crkRows : List FieldRow :=
  [⟨0x100, [(0x8, 12)], 0, 0, .rw, 1, .stn, none, false, false, .slice⟩,
   ⟨0x100, [(0x8, 12)], 1, 1, .w1s, 0, .stn, none, false, false, .slice⟩,
   ⟨0x100, [(0x8, 12)], 2, 2, .ro, 0, .none, none, false, false, .slice⟩,
   ⟨0x100, [(0x8, 12)], 3, 3, .ro, 0, .none, none, false, false, .slice⟩,
   ⟨0x100, [(0x8, 12)], 6, 4, .ro, 0, .none, none, false, false, .slice⟩,
   ⟨0x180, [(0x10, 12)], 63, 0, .ro, 0, .none, none, true, false, .slice⟩,
   ⟨0x188, [(0x10, 12)], 63, 0, .ro, 0, .none, none, true, false, .slice⟩,
   ⟨0x240, [(0x8, 12)], 63, 0, .ro, 0, .none, none, true, false, .slice⟩]

/-- Rows of the MC page. -/
def mcRows : List FieldRow :=
  [⟨0x100, [], 31, 0, .ro, 0, .none, none, true, false, .none⟩,
   ⟨0x100, [], 63, 32, .ro, 0, .none, none, true, false, .none⟩,
   ⟨0x108, [], 31, 0, .ro, 0, .none, none, true, false, .none⟩,
   ⟨0x108, [], 63, 32, .ro, 0, .none, none, true, false, .none⟩,
   ⟨0x110, [], 31, 0, .ro, 0, .none, none, true, false, .none⟩,
   ⟨0x110, [], 63, 32, .ro, 0, .none, none, true, false, .none⟩,
   ⟨0x118, [], 0, 0, .rw, 1, .any, none, false, false, .none⟩,
   ⟨0x118, [], 15, 8, .rw, 24, .any, some (1, 168), false, false, .none⟩,
   ⟨0x118, [], 63, 32, .ro, 0, .none, none, false, false, .none⟩,
   ⟨0x140, [(0x8, 8)], 10, 0, .rw, 64, .stn, some (4, 1024), false, false, .stn⟩,
   ⟨0x140, [(0x8, 8)], 16, 16, .rw, 0, .stn, none, false, false, .stn⟩,
   ⟨0x180, [(0x8, 8)], 63, 0, .ro, 0, .none, none, true, false, .stn⟩,
   ⟨0x1C0, [], 63, 0, .ro, 0, .none, none, true, false, .none⟩,
   ⟨0x200, [], 63, 0, .rw, 0, .tc, none, false, true, .none⟩,
   ⟨0x208, [], 62, 0, .rw, 0, .tc, none, false, true, .none⟩,
   ⟨0x210, [], 0, 0, .ro, 0, .none, none, false, true, .none⟩]

/-- Rows of the KP page. -/
def kpRows : List FieldRow :=
  [⟨0x100, [], 0, 0, .rw, 0, .any, none, false, false, .none⟩,
   ⟨0x100, [], 2, 1, .rw, 0, .any, none, false, false, .none⟩,
   ⟨0x100, [], 3, 3, .rwl, 0, .tc, none, false, false, .none⟩,
   ⟨0x100, [], 7, 4, .rwl, 0, .tc, none, false, false, .none⟩,
   ⟨0x100, [], 8, 8, .rw, 0, .any, none, false, false, .none⟩,
   ⟨0x108, [], 2, 0, .ro, 0, .none, none, false, false, .none⟩,
   ⟨0x108, [], 3, 3, .ro, 0, .none, none, false, false, .none⟩,
   ⟨0x108, [], 23, 4, .ro, 0, .none, none, false, false, .none⟩,
   ⟨0x108, [], 29, 24, .ro, 0, .none, none, false, false, .none⟩,
   ⟨0x110, [], 63, 0, .ro, 0, .none, none, false, false, .none⟩,
   ⟨0x118, [], 31, 0, .ro, 0, .none, none, false, false, .none⟩,
   ⟨0x118, [], 63, 32, .rw, 100, .any, some (10, 100000), false, false, .none⟩,
   ⟨0x120, [], 63, 0, .ro, 0, .none, none, true, false, .none⟩,
   ⟨0x128, [], 63, 0, .ro, 0, .none, none, true, false, .none⟩,
   ⟨0x130, [], 31, 0, .ro, 0, .none, none, true, false, .none⟩,
   ⟨0x130, [], 63, 32, .ro, 0, .none, none, true, false, .none⟩,
   ⟨0x138, [], 31, 0, .ro, 0, .none, none, true, false, .none⟩,
   ⟨0x138, [], 63, 32, .ro, 0, .none, none, true, false, .none⟩,
   ⟨0x140, [], 31, 0, .ro, 0, .none, none, true, false, .none⟩,
   ⟨0x140, [], 63, 32, .ro, 0, .none, none, true, false, .none⟩,
   ⟨0x148, [], 31, 0, .rw, 0, .any, none, false, false, .none⟩,
   ⟨0x180, [(0x8, 4)], 63, 0, .wo, 0, .tc, none, false, false, .none⟩,
   ⟨0x1A0, [(0x8, 4)], 63, 0, .wo, 0, .tc, none, false, false, .none⟩,
   ⟨0x1C0, [], 31, 0, .wo, 0, .tc, none, false, false, .none⟩] ++
  [⟨0x1C0, [], 63, 32, .wo, 0, .tc, none, false, false, .none⟩,
   ⟨0x1C8, [], 0, 0, .ro, 0, .none, none, false, false, .none⟩,
   ⟨0x1C8, [], 1, 1, .w1s, 0, .any, none, false, false, .none⟩,
   ⟨0x1C8, [], 3, 2, .ro, 0, .none, none, false, false, .none⟩]

/-- Rows of the KRT page. -/
def krtRows : List FieldRow :=
  [⟨0x100, [], 19, 0, .rwl, 0, .tc, none, false, false, .none⟩,
   ⟨0x100, [], 63, 63, .rwl, 0, .tc, none, false, false, .none⟩,
   ⟨0x108, [(0x8, 4)], 19, 0, .rw, 0, .tc, none, false, false, .none⟩,
   ⟨0x108, [(0x8, 4)], 63, 63, .rw, 0, .tc, none, false, false, .none⟩,
   ⟨0x128, [], 31, 0, .rw, 20000, .any, some (1000, 10000000), false, false, .none⟩,
   ⟨0x128, [], 63, 32, .rw, 10000, .any, some (100, 1000000), false, false, .none⟩,
   ⟨0x130, [], 15, 0, .rw, 0, .any, none, false, false, .none⟩,
   ⟨0x130, [], 16, 16, .rw, 0, .any, none, false, false, .none⟩,
   ⟨0x138, [], 31, 0, .rw, 0, .any, none, false, false, .none⟩,
   ⟨0x140, [], 11, 0, .rw, 0, .any, none, false, false, .none⟩,
   ⟨0x148, [(0x8, 4)], 63, 0, .rw, 0, .grp, none, false, false, .none⟩,
   ⟨0x180, [(0x8, 8)], 43, 0, .wo, 0, .stn, none, false, false, .stn⟩,
   ⟨0x180, [(0x8, 8)], 55, 44, .wo, 0, .stn, none, false, false, .stn⟩,
   ⟨0x180, [(0x8, 8)], 56, 56, .wo, 0, .stn, none, false, false, .stn⟩,
   ⟨0x180, [(0x8, 8)], 63, 63, .w1s, 0, .stn, none, false, false, .stn⟩,
   ⟨0x1C0, [], 63, 0, .ro, 0, .none, none, false, false, .none⟩,
   ⟨0x1C8, [], 31, 0, .ro, 0, .none, none, false, false, .none⟩,
   ⟨0x1C8, [], 63, 32, .ro, 0, .none, none, false, false, .none⟩,
   ⟨0x200, [(0x8, 8)], 11, 0, .rwl, 0, .tc, none, false, false, .stn⟩,
   ⟨0x200, [(0x8, 8)], 24, 12, .rwl, 0, .tc, some (0, 4096), false, false, .stn⟩,
   ⟨0x200, [(0x8, 8)], 63, 32, .rw, 100, .any, some (1, 60000), false, false, .stn⟩,
   ⟨0x300, [(0x20, 8)], 43, 12, .rw, 0, .stn, none, false, false, .stn⟩,
   ⟨0x308, [(0x20, 8)], 31, 0, .rw, 0, .stn, none, false, false, .stn⟩,
   ⟨0x308, [(0x20, 8)], 32, 32, .rw, 0, .stn, none, false, false, .stn⟩] ++
  [⟨0x308, [(0x20, 8)], 62, 62, .ro, 0, .none, none, false, false, .stn⟩,
   ⟨0x308, [(0x20, 8)], 63, 63, .w1s, 0, .stn, none, false, false, .stn⟩,
   ⟨0x310, [(0x20, 8)], 63, 0, .ro, 0, .none, none, false, false, .stn⟩,
   ⟨0x318, [(0x20, 8)], 31, 0, .ro, 0, .none, none, false, false, .stn⟩,
   ⟨0x318, [(0x20, 8)], 63, 32, .ro, 0, .none, none, false, false, .stn⟩]

/-- Rows of the TIME page. -/
def timeRows : List FieldRow :=
  [⟨0x100, [], 63, 0, .ro, 0, .none, none, false, false, .none⟩,
   ⟨0x108, [], 1, 0, .rw, 0, .any, none, false, false, .none⟩,
   ⟨0x108, [], 2, 2, .rw, 0, .any, none, false, false, .none⟩,
   ⟨0x108, [], 8, 3, .rw, 0, .any, none, false, false, .none⟩,
   ⟨0x108, [], 15, 9, .rw, 0, .any, none, false, false, .none⟩,
   ⟨0x110, [], 63, 0, .ro, 0, .none, none, false, false, .none⟩,
   ⟨0x118, [], 63, 0, .rw, 0, .any, none, false, false, .none⟩,
   ⟨0x120, [], 0, 0, .ro, 0, .none, none, false, false, .none⟩,
   ⟨0x120, [], 31, 16, .ro, 0, .none, none, false, false, .none⟩,
   ⟨0x140, [], 63, 0, .rw, 0, .any, none, false, false, .none⟩,
   ⟨0x148, [], 0, 0, .w1s, 0, .any, none, false, false, .none⟩,
   ⟨0x148, [], 1, 1, .rw, 0, .any, none, false, false, .none⟩,
   ⟨0x148, [], 2, 2, .w1c, 0, .any, none, false, false, .none⟩,
   ⟨0x148, [], 3, 3, .w1c, 0, .any, none, false, false, .none⟩,
   ⟨0x148, [], 31, 16, .ro, 0, .none, none, false, false, .none⟩,
   ⟨0x150, [], 63, 0, .ro, 0, .none, none, false, false, .none⟩]

/-- Rows of the FW page. -/
def fwRows : List FieldRow :=
  [⟨0x100, [], 2, 0, .ro, 0, .none, none, false, false, .none⟩,
   ⟨0x100, [], 3, 3, .ro, 0, .none, none, false, false, .none⟩,
   ⟨0x100, [], 4, 4, .ro, 0, .none, none, false, false, .none⟩,
   ⟨0x100, [], 5, 5, .ro, 0, .none, none, false, false, .none⟩,
   ⟨0x100, [], 6, 6, .ro, 0, .none, none, false, false, .none⟩,
   ⟨0x108, [], 63, 0, .ro, 0, .none, none, false, false, .none⟩,
   ⟨0x110, [], 63, 0, .ro, 0, .none, none, false, false, .none⟩,
   ⟨0x118, [], 31, 0, .ro, 0, .none, none, false, false, .none⟩,
   ⟨0x118, [], 63, 32, .ro, 0, .none, none, false, false, .none⟩,
   ⟨0x120, [], 1, 0, .ro, 0, .none, none, false, false, .none⟩,
   ⟨0x120, [], 3, 2, .ro, 0, .none, none, false, false, .none⟩,
   ⟨0x120, [], 19, 4, .ro, 0, .none, none, false, false, .none⟩,
   ⟨0x120, [], 23, 20, .ro, 0, .none, none, false, false, .none⟩,
   ⟨0x120, [], 63, 32, .rw, 60000, .tc, some (1000, 3600000), false, false, .none⟩,
   ⟨0x128, [], 31, 0, .ro, 0, .none, none, false, false, .none⟩,
   ⟨0x130, [(0x8, 4)], 19, 0, .rw, 0, .tc, none, false, false, .none⟩,
   ⟨0x130, [(0x8, 4)], 63, 63, .rw, 0, .tc, none, false, false, .none⟩,
   ⟨0x150, [], 2, 0, .ro, 0, .none, none, false, false, .none⟩,
   ⟨0x150, [], 31, 16, .ro, 0, .none, none, false, false, .none⟩,
   ⟨0x150, [], 63, 32, .rw, 2000, .tc, some (100, 60000), false, false, .none⟩,
   ⟨0x800, [(0x40, 8), (0x8, 6)], 63, 0, .ro, 0, .none, none, false, false, .none⟩,
   ⟨0x1000, [(0x800, 9), (0x8, 32)], 63, 0, .wo, 0, .mbox, none, false, false, .mbox⟩,
   ⟨0x1100, [(0x800, 9), (0x8, 96)], 63, 0, .ro, 0, .none, none, false, false, .mbox⟩,
   ⟨0x1400, [(0x800, 9)], 7, 0, .rw, 0, .mbox, none, false, false, .mbox⟩] ++
  [⟨0x1400, [(0x800, 9)], 62, 62, .ro, 0, .none, none, false, false, .mbox⟩,
   ⟨0x1400, [(0x800, 9)], 63, 63, .w1s, 0, .mbox, none, false, false, .mbox⟩,
   ⟨0x1408, [(0x800, 9)], 7, 0, .ro, 0, .none, none, false, false, .mbox⟩]

/-- Rows of the CC page. -/
def ccRows : List FieldRow :=
  [⟨0x100, [], 0, 0, .ro, 0, .none, none, false, false, .page⟩,
   ⟨0x100, [], 1, 1, .ro, 0, .none, none, false, false, .page⟩,
   ⟨0x100, [], 2, 2, .ro, 0, .none, none, false, false, .page⟩,
   ⟨0x100, [], 3, 3, .ro, 0, .none, none, false, false, .page⟩,
   ⟨0x100, [], 6, 4, .ro, 0, .none, none, false, false, .page⟩,
   ⟨0x108, [], 0, 0, .rw, 0, .tc, none, false, false, .page⟩,
   ⟨0x108, [], 1, 1, .w1s, 0, .tc, none, false, false, .page⟩,
   ⟨0x110, [], 43, 2, .rwl, 0, .tc, none, false, false, .page⟩,
   ⟨0x118, [], 63, 0, .ro, 0, .none, none, true, false, .page⟩,
   ⟨0x120, [], 63, 0, .ro, 0, .none, none, true, false, .page⟩,
   ⟨0x128, [], 31, 0, .ro, 0, .none, none, true, false, .page⟩,
   ⟨0x128, [], 47, 32, .ro, 0, .none, none, true, false, .page⟩,
   ⟨0x130, [], 7, 0, .ro, 0, .none, none, false, false, .page⟩]

/-- Rows of the SVE page. -/
def sveRows : List FieldRow :=
  [⟨0x100, [], 0, 0, .ro, 0, .none, none, false, false, .none⟩,
   ⟨0x100, [], 7, 1, .ro, 0, .none, none, false, false, .none⟩,
   ⟨0x108, [], 63, 0, .ro, 0, .none, none, true, false, .none⟩,
   ⟨0x110, [], 63, 0, .ro, 0, .none, none, true, false, .none⟩,
   ⟨0x118, [], 31, 0, .ro, 0, .none, none, true, false, .none⟩,
   ⟨0x118, [], 63, 32, .ro, 0, .none, none, true, false, .none⟩,
   ⟨0x120, [], 31, 0, .ro, 0, .none, none, true, false, .none⟩,
   ⟨0x120, [], 63, 32, .ro, 0, .none, none, true, false, .none⟩,
   ⟨0x200, [(0x40, 8)], 63, 0, .rw, 0, .stn, none, false, false, .stn⟩,
   ⟨0x208, [(0x40, 8)], 15, 0, .ro, 0, .none, none, false, false, .stn⟩,
   ⟨0x208, [(0x40, 8)], 31, 16, .ro, 0, .none, none, false, false, .stn⟩,
   ⟨0x208, [(0x40, 8)], 47, 32, .ro, 0, .none, none, false, false, .stn⟩,
   ⟨0x208, [(0x40, 8)], 48, 48, .ro, 0, .none, none, false, false, .stn⟩,
   ⟨0x208, [(0x40, 8)], 49, 49, .ro, 0, .none, none, false, false, .stn⟩,
   ⟨0x208, [(0x40, 8)], 62, 62, .ro, 0, .none, none, false, false, .stn⟩,
   ⟨0x208, [(0x40, 8)], 63, 63, .w1s, 0, .stn, none, false, false, .stn⟩,
   ⟨0x210, [(0x40, 8)], 63, 0, .ro, 0, .none, none, false, false, .stn⟩,
   ⟨0x218, [(0x40, 8)], 7, 0, .rw, 64, .tc, some (0, 255), false, false, .stn⟩,
   ⟨0x218, [(0x40, 8)], 15, 8, .rw, 0, .tc, none, false, false, .stn⟩,
   ⟨0x220, [(0x40, 8)], 1, 0, .ro, 0, .none, none, false, false, .stn⟩,
   ⟨0x220, [(0x40, 8)], 4, 2, .ro, 0, .none, none, false, false, .stn⟩,
   ⟨0x220, [(0x40, 8)], 8, 5, .ro, 0, .none, none, false, false, .stn⟩,
   ⟨0x220, [(0x40, 8)], 10, 9, .ro, 0, .none, none, false, false, .stn⟩,
   ⟨0x220, [(0x40, 8)], 47, 16, .ro, 0, .none, none, false, false, .stn⟩] ++
  [⟨0x220, [(0x40, 8)], 63, 63, .w1c, 0, .stn, none, false, false, .stn⟩,
   ⟨0x228, [(0x40, 8)], 63, 0, .ro, 0, .none, none, false, false, .stn⟩,
   ⟨0x230, [(0x40, 8)], 63, 0, .ro, 0, .none, none, false, false, .stn⟩,
   ⟨0x238, [(0x40, 8)], 63, 0, .ro, 0, .none, none, false, false, .stn⟩]

/-- Rows of the HST page. -/
def hstRows : List FieldRow :=
  [⟨0x100, [], 2, 0, .ro, 0, .none, none, false, false, .none⟩,
   ⟨0x100, [], 7, 3, .ro, 0, .none, none, false, false, .none⟩,
   ⟨0x100, [], 8, 8, .ro, 0, .none, none, false, false, .none⟩,
   ⟨0x108, [], 11, 0, .rw, 0, .hostTc, some (0, 2552), false, false, .none⟩,
   ⟨0x108, [], 14, 12, .rw, 0, .tc, none, false, false, .none⟩,
   ⟨0x108, [], 15, 15, .rw, 0, .tc, none, false, false, .none⟩,
   ⟨0x110, [], 0, 0, .rwl, 0, .tc, none, false, false, .none⟩,
   ⟨0x118, [], 63, 0, .ro, 0, .none, none, true, false, .none⟩,
   ⟨0x120, [], 63, 0, .ro, 0, .none, none, true, false, .none⟩]

namespace Reg

def hdr_PART (page : Nat) : Fld := ⟨0x10000 * page + 0x0, 15, 0⟩
def hdr_BLK (page : Nat) : Fld := ⟨0x10000 * page + 0x0, 23, 16⟩
def hdr_INDEX (page : Nat) : Fld := ⟨0x10000 * page + 0x0, 31, 24⟩
def hdr_REV (page : Nat) : Fld := ⟨0x10000 * page + 0x0, 35, 32⟩
def hdr_PAGE (page : Nat) : Fld := ⟨0x10000 * page + 0x0, 47, 40⟩
def hdr_SNAP (page : Nat) : Fld := ⟨0x10000 * page + 0x8, 0, 0⟩
def hdr_INJ (page : Nat) : Fld := ⟨0x10000 * page + 0x8, 1, 1⟩
def hdr_CLAMP (page : Nat) : Fld := ⟨0x10000 * page + 0x8, 2, 2⟩
def hdr_STN_ROWS (page : Nat) : Fld := ⟨0x10000 * page + 0x8, 3, 3⟩
def hdr_NLATCH (page : Nat) : Fld := ⟨0x10000 * page + 0x8, 15, 8⟩
def hdr_INJ_KINDS (page : Nat) : Fld := ⟨0x10000 * page + 0x8, 19, 16⟩
def hdr_ECNT_CLR (page : Nat) : Fld := ⟨0x10000 * page + 0x10, 0, 0⟩
def hdr_READY (page : Nat) : Fld := ⟨0x10000 * page + 0x18, 0, 0⟩
def hdr_ERST (page : Nat) : Fld := ⟨0x10000 * page + 0x18, 1, 1⟩
def hdr_SAFE (page : Nat) : Fld := ⟨0x10000 * page + 0x18, 2, 2⟩
def hdr_EVQ (page : Nat) : Fld := ⟨0x10000 * page + 0x18, 5, 3⟩
def hdr_OFFSET (page : Nat) : Fld := ⟨0x10000 * page + 0x20, 15, 0⟩
def hdr_COUNT (page : Nat) : Fld := ⟨0x10000 * page + 0x20, 47, 32⟩
def hdr_VALID (page : Nat) : Fld := ⟨0x10000 * page + 0x20, 63, 63⟩
def hdr_ADDR (page : Nat) : Fld := ⟨0x10000 * page + 0x28, 63, 0⟩
def hdr_MASTER (page : Nat) : Fld := ⟨0x10000 * page + 0x30, 7, 0⟩
def hdr_STN (page : Nat) : Fld := ⟨0x10000 * page + 0x30, 10, 8⟩
def hdr_STN_VALID (page : Nat) : Fld := ⟨0x10000 * page + 0x30, 11, 11⟩
def hdr_ACC (page : Nat) : Fld := ⟨0x10000 * page + 0x38, 2, 0⟩
def hdr_CODE (page : Nat) : Fld := ⟨0x10000 * page + 0x38, 15, 8⟩
def hdr_INJ_38 (page : Nat) : Fld := ⟨0x10000 * page + 0x38, 16, 16⟩
def hdr_VALID_38 (page : Nat) : Fld := ⟨0x10000 * page + 0x38, 63, 63⟩
def hdr_TIME (page : Nat) : Fld := ⟨0x10000 * page + 0x40, 63, 0⟩
def hdr_EVENTS (page : Nat) : Fld := ⟨0x10000 * page + 0x48, 31, 0⟩
def hdr_UNDELIVERED (page : Nat) : Fld := ⟨0x10000 * page + 0x48, 63, 32⟩
def hdr_SEL (page : Nat) : Fld := ⟨0x10000 * page + 0x50, 15, 3⟩
def hdr_SEQ (page : Nat) : Fld := ⟨0x10000 * page + 0x50, 47, 32⟩
def hdr_LVALID (page : Nat) : Fld := ⟨0x10000 * page + 0x50, 48, 48⟩
def hdr_DATA (page : Nat) : Fld := ⟨0x10000 * page + 0x58, 63, 0⟩
def hdr_KIND (page : Nat) : Fld := ⟨0x10000 * page + 0x60, 3, 0⟩
def hdr_UNIT (page : Nat) : Fld := ⟨0x10000 * page + 0x60, 11, 4⟩
def hdr_ARMED (page : Nat) : Fld := ⟨0x10000 * page + 0x60, 62, 62⟩
def hdr_ARM (page : Nat) : Fld := ⟨0x10000 * page + 0x60, 63, 63⟩
def sys_EN (i : Nat) : Fld := ⟨0x100 + 0x40 * i, 0, 0⟩
def sys_LOCK (i : Nat) : Fld := ⟨0x100 + 0x40 * i, 1, 1⟩
def sys_OVL (i : Nat) : Fld := ⟨0x100 + 0x40 * i, 2, 2⟩
def sys_INTEG (i : Nat) : Fld := ⟨0x100 + 0x40 * i, 5, 4⟩
def sys_CORE_MASK (i : Nat) : Fld := ⟨0x100 + 0x40 * i, 31, 16⟩
def sys_CRK_MASK (i : Nat) : Fld := ⟨0x108 + 0x40 * i, 47, 0⟩
def sys_GRD_WEIGHT (i : Nat) : Fld := ⟨0x110 + 0x40 * i, 7, 0⟩
def sys_BW_SHARE (i : Nat) : Fld := ⟨0x110 + 0x40 * i, 15, 8⟩
def sys_CNT_BASE (i : Nat) : Fld := ⟨0x118 + 0x40 * i, 5, 0⟩
def sys_CNT_NUM (i : Nat) : Fld := ⟨0x118 + 0x40 * i, 14, 8⟩
def sys_WCH_BASE (i : Nat) : Fld := ⟨0x118 + 0x40 * i, 21, 16⟩
def sys_WCH_NUM (i : Nat) : Fld := ⟨0x118 + 0x40 * i, 30, 24⟩
def sys_BAR_BASE (i : Nat) : Fld := ⟨0x118 + 0x40 * i, 37, 32⟩
def sys_BAR_NUM (i : Nat) : Fld := ⟨0x118 + 0x40 * i, 46, 40⟩
def sys_BASE_GIB (i j : Nat) : Fld := ⟨0x120 + 0x40 * i + 0x8 * j, 11, 0⟩
def sys_LAST_GIB (i j : Nat) : Fld := ⟨0x120 + 0x40 * i + 0x8 * j, 27, 16⟩
def sys_VALID (i j : Nat) : Fld := ⟨0x120 + 0x40 * i + 0x8 * j, 63, 63⟩
def sys_MRST : Fld := ⟨0x400, 0, 0⟩
def sys_SRST : Fld := ⟨0x400, 15, 8⟩
def sys_STN_RBUSY : Fld := ⟨0x400, 23, 16⟩
def sys_PAGE : Fld := ⟨0x408, 7, 0⟩
def sys_BUSY : Fld := ⟨0x408, 62, 62⟩
def sys_GO : Fld := ⟨0x408, 63, 63⟩
def sys_BASE (i : Nat) : Fld := ⟨0x410 + 0x10 * i, 43, 12⟩
def sys_LEN (i : Nat) : Fld := ⟨0x410 + 0x10 * i, 55, 48⟩
def sys_HEAD (i : Nat) : Fld := ⟨0x418 + 0x10 * i, 31, 0⟩
def sys_EN_500 : Fld := ⟨0x500, 0, 0⟩
def sys_DUTY : Fld := ⟨0x500, 7, 1⟩
def sys_SLICE_US : Fld := ⟨0x500, 23, 8⟩
def sys_PASSES : Fld := ⟨0x508, 31, 0⟩
def sys_FAILS : Fld := ⟨0x508, 47, 32⟩
def sys_FAIL_UNIT : Fld := ⟨0x508, 55, 48⟩
def sys_FAIL : Fld := ⟨0x508, 63, 63⟩
def sys_DIE : Fld := ⟨0x510, 3, 0⟩
def sys_VSHIFT : Fld := ⟨0x510, 11, 4⟩
def sys_FSHIFT : Fld := ⟨0x510, 19, 12⟩
def sys_TEMP : Fld := ⟨0x510, 27, 20⟩
def sys_DUR : Fld := ⟨0x510, 35, 28⟩
def sys_BUSY_510 : Fld := ⟨0x510, 62, 62⟩
def sys_GO_510 : Fld := ⟨0x510, 63, 63⟩
def sys_RESULT : Fld := ⟨0x518, 2, 0⟩
def sys_BLOCKER : Fld := ⟨0x518, 10, 3⟩
def sys_ERRORS : Fld := ⟨0x518, 31, 16⟩
def sys_CORE : Fld := ⟨0x600, 0, 0⟩
def sys_NODE : Fld := ⟨0x600, 1, 1⟩
def sys_PORT : Fld := ⟨0x600, 2, 2⟩
def sys_PLAT : Fld := ⟨0x600, 3, 3⟩
def pwr_VIN : Fld := ⟨0x10100, 15, 0⟩
def pwr_IIN : Fld := ⟨0x10100, 31, 16⟩
def pwr_PIN : Fld := ⟨0x10100, 47, 32⟩
def pwr_PIN_1MS : Fld := ⟨0x10100, 63, 48⟩
def pwr_PEAK : Fld := ⟨0x10108, 15, 0⟩
def pwr_COMPUTE_ON : Fld := ⟨0x10110, 0, 0⟩
def pwr_STBY_GOOD : Fld := ⟨0x10118, 0, 0⟩
def pwr_VIN_OK : Fld := ⟨0x10118, 1, 1⟩
def pwr_COOL_OK : Fld := ⟨0x10118, 2, 2⟩
def pwr_COMPUTE_GOOD : Fld := ⟨0x10118, 3, 3⟩
def pwr_STAGE_OC : Fld := ⟨0x10118, 15, 8⟩
def pwr_ARRAY_REQ : Fld := ⟨0x10120, 10, 0⟩
def pwr_ARRAY_CUR : Fld := ⟨0x10120, 26, 16⟩
def pwr_ARRAY_LIM : Fld := ⟨0x10120, 42, 32⟩
def pwr_LIM_WHY : Fld := ⟨0x10120, 45, 43⟩
def pwr_PCAP_REQ : Fld := ⟨0x10128, 12, 0⟩
def pwr_PCAP_MAX : Fld := ⟨0x10128, 28, 16⟩
def pwr_THROT : Fld := ⟨0x10128, 35, 32⟩
def pwr_CORE_MHZ (i : Nat) : Fld := ⟨0x10130 + 0x8 * i, 10, 0⟩
def pwr_TJ (i : Nat) : Fld := ⟨0x101C0 + 0x8 * i, 7, 0⟩
def pwr_TJ_MAX (i : Nat) : Fld := ⟨0x101C0 + 0x8 * i, 15, 8⟩
def pwr_THBM (i : Nat) : Fld := ⟨0x101E0 + 0x8 * i, 7, 0⟩
def pwr_WARN_C : Fld := ⟨0x10280, 7, 0⟩
def pwr_HBM_WARN_C : Fld := ⟨0x10280, 15, 8⟩
def pwr_TRIP_C : Fld := ⟨0x10280, 23, 16⟩
def pwr_HBM_TRIP_C : Fld := ⟨0x10280, 31, 24⟩
def pwr_THROT_SAMPLES : Fld := ⟨0x10288, 63, 0⟩
def pwr_ENERGY : Fld := ⟨0x10290, 63, 0⟩
def bolt_INJ_CNT : Fld := ⟨0x20100, 0, 0⟩
def bolt_SAFE_WHY : Fld := ⟨0x20100, 15, 8⟩
def bolt_PEND : Fld := ⟨0x20108, 0, 0⟩
def bolt_PIN : Fld := ⟨0x20108, 1, 1⟩
def bolt_ALERTS : Fld := ⟨0x20108, 63, 32⟩
def bolt_HEAD : Fld := ⟨0x20110, 5, 0⟩
def bolt_TAIL : Fld := ⟨0x20110, 13, 8⟩
def bolt_LOG_LOST : Fld := ⟨0x20110, 63, 32⟩
def bolt_EVENTS : Fld := ⟨0x20118, 63, 0⟩
def bolt_SEVERE (i : Nat) : Fld := ⟨0x20140 + 0x8 * i, 63, 0⟩
def bolt_STN_EVT (i : Nat) : Fld := ⟨0x20180 + 0x8 * i, 31, 0⟩
def bolt_N (i : Nat) : Fld := ⟨0x20400 + 0x8 * i, 5, 0⟩
def bolt_WIN (i : Nat) : Fld := ⟨0x20400 + 0x8 * i, 17, 6⟩
def bolt_REACT_N (i : Nat) : Fld := ⟨0x20400 + 0x8 * i, 31, 24⟩
def bolt_REACT_S (i : Nat) : Fld := ⟨0x20400 + 0x8 * i, 39, 32⟩
def bolt_CNT (i : Nat) : Fld := ⟨0x20400 + 0x8 * i, 63, 40⟩
def bolt_TIME (i : Nat) : Fld := ⟨0x21000 + 0x20 * i, 63, 0⟩
def bolt_SRC (i : Nat) : Fld := ⟨0x21008 + 0x20 * i, 7, 0⟩
def bolt_CODE (i : Nat) : Fld := ⟨0x21008 + 0x20 * i, 15, 8⟩
def bolt_STN (i : Nat) : Fld := ⟨0x21008 + 0x20 * i, 18, 16⟩
def bolt_STN_VALID (i : Nat) : Fld := ⟨0x21008 + 0x20 * i, 19, 19⟩
def bolt_INJ (i : Nat) : Fld := ⟨0x21008 + 0x20 * i, 20, 20⟩
def bolt_SEV (i : Nat) : Fld := ⟨0x21008 + 0x20 * i, 21, 21⟩
def bolt_LOSS (i : Nat) : Fld := ⟨0x21008 + 0x20 * i, 22, 22⟩
def bolt_UNLOCK (i : Nat) : Fld := ⟨0x21008 + 0x20 * i, 23, 23⟩
def bolt_MASTER (i : Nat) : Fld := ⟨0x21008 + 0x20 * i, 31, 24⟩
def bolt_ACC (i : Nat) : Fld := ⟨0x21008 + 0x20 * i, 34, 32⟩
def bolt_DETAIL (i : Nat) : Fld := ⟨0x21008 + 0x20 * i, 63, 35⟩
def bolt_ADDR (i : Nat) : Fld := ⟨0x21010 + 0x20 * i, 63, 0⟩
def tmb_WCH_USED : Fld := ⟨0x30100, 10, 0⟩
def tmb_BAR_EN : Fld := ⟨0x30100, 24, 16⟩
def tmb_OPS : Fld := ⟨0x30108, 63, 0⟩
def tmb_NOTIFY : Fld := ⟨0x30110, 31, 0⟩
def tmb_PROTO_CNT : Fld := ⟨0x30110, 63, 32⟩
def tmb_CTR (i : Nat) : Fld := ⟨0x30200 + 0x10 * i, 11, 0⟩
def tmb_CMP (i : Nat) : Fld := ⟨0x30200 + 0x10 * i, 13, 12⟩
def tmb_VAL (i : Nat) : Fld := ⟨0x30200 + 0x10 * i, 63, 32⟩
def tmb_COOKIE (i : Nat) : Fld := ⟨0x30208 + 0x10 * i, 31, 0⟩
def tmb_CORE (i : Nat) : Fld := ⟨0x30208 + 0x10 * i, 35, 32⟩
def tmb_TMO (i : Nat) : Fld := ⟨0x30208 + 0x10 * i, 51, 36⟩
def tmb_WFULL (i : Nat) : Fld := ⟨0x30208 + 0x10 * i, 62, 62⟩
def tmb_GO (i : Nat) : Fld := ⟨0x30208 + 0x10 * i, 63, 63⟩
def tmb_HEAD (i : Nat) : Fld := ⟨0x30300 + 0x8 * i, 4, 0⟩
def tmb_TAIL (i : Nat) : Fld := ⟨0x30300 + 0x8 * i, 12, 8⟩
def tmb_LOST (i : Nat) : Fld := ⟨0x30300 + 0x8 * i, 16, 16⟩
def tmb_OVF (i : Nat) : Fld := ⟨0x31000 + 0x8 * i, 63, 0⟩
def tmb_UNF (i : Nat) : Fld := ⟨0x31200 + 0x8 * i, 63, 0⟩
def tmb_COOKIE_2000 (i j : Nat) : Fld := ⟨0x32000 + 0x100 * i + 0x8 * j, 31, 0⟩
def tmb_RESULT (i j : Nat) : Fld := ⟨0x32000 + 0x100 * i + 0x8 * j, 33, 32⟩
def tmb_GROUP (i : Nat) : Fld := ⟨0x33000 + 0x10 * i, 11, 0⟩
def tmb_NLOCAL (i : Nat) : Fld := ⟨0x33000 + 0x10 * i, 17, 12⟩
def tmb_BTAG (i : Nat) : Fld := ⟨0x33000 + 0x10 * i, 31, 16⟩
def tmb_BTMO (i : Nat) : Fld := ⟨0x33000 + 0x10 * i, 47, 32⟩
def tmb_EN (i : Nat) : Fld := ⟨0x33000 + 0x10 * i, 63, 63⟩
def tmb_SENSE (i : Nat) : Fld := ⟨0x33008 + 0x10 * i, 0, 0⟩
def tmb_ARR (i : Nat) : Fld := ⟨0x33008 + 0x10 * i, 6, 1⟩
def tmb_ADV (i : Nat) : Fld := ⟨0x33008 + 0x10 * i, 12, 7⟩
def tmb_KIDS (i : Nat) : Fld := ⟨0x33008 + 0x10 * i, 17, 13⟩
def tmb_UP (i : Nat) : Fld := ⟨0x33008 + 0x10 * i, 18, 18⟩
def tmb_OVERRUN (i : Nat) : Fld := ⟨0x33008 + 0x10 * i, 19, 19⟩
def tmb_STALL (i : Nat) : Fld := ⟨0x33008 + 0x10 * i, 20, 20⟩
def tmb_PHASES (i : Nat) : Fld := ⟨0x33008 + 0x10 * i, 47, 32⟩
def tmb_ENTER (i : Nat) : Fld := ⟨0x33008 + 0x10 * i, 63, 63⟩
def tmb_VALUE (i : Nat) : Fld := ⟨0x38000 + 0x8 * i, 31, 0⟩
def tmb_LIMIT (i : Nat) : Fld := ⟨0x38000 + 0x8 * i, 63, 32⟩
def grd_BUSY (u : Nat) : Fld := ⟨0x40000 + 0x10000 * u + 0x100, 0, 0⟩
def grd_STN (u : Nat) : Fld := ⟨0x40000 + 0x10000 * u + 0x100, 3, 1⟩
def grd_FLOW (u : Nat) : Fld := ⟨0x40000 + 0x10000 * u + 0x100, 5, 4⟩
def grd_MODE (u : Nat) : Fld := ⟨0x40000 + 0x10000 * u + 0x100, 8, 6⟩
def grd_SPLIT (u : Nat) : Fld := ⟨0x40000 + 0x10000 * u + 0x100, 9, 9⟩
def grd_PRELOAD (u : Nat) : Fld := ⟨0x40000 + 0x10000 * u + 0x100, 10, 10⟩
def grd_WAVE_EXP (u : Nat) : Fld := ⟨0x40000 + 0x10000 * u + 0x108, 23, 0⟩
def grd_WAVE_GOT (u : Nat) : Fld := ⟨0x40000 + 0x10000 * u + 0x108, 47, 24⟩
def grd_ISLAND (u : Nat) : Fld := ⟨0x40000 + 0x10000 * u + 0x108, 53, 48⟩
def grd_KIND (u : Nat) : Fld := ⟨0x40000 + 0x10000 * u + 0x108, 55, 54⟩
def grd_SLIP_STN (u : Nat) : Fld := ⟨0x40000 + 0x10000 * u + 0x108, 58, 56⟩
def grd_VALID (u : Nat) : Fld := ⟨0x40000 + 0x10000 * u + 0x108, 63, 63⟩
def grd_SLIP_CNT (u : Nat) : Fld := ⟨0x40000 + 0x10000 * u + 0x110, 31, 0⟩
def grd_BUSY_ACYC (u : Nat) : Fld := ⟨0x40000 + 0x10000 * u + 0x118, 63, 0⟩
def grd_HOLD_ACYC (u : Nat) : Fld := ⟨0x40000 + 0x10000 * u + 0x120, 63, 0⟩
def grd_PROD (u : Nat) : Fld := ⟨0x40000 + 0x10000 * u + 0x128, 63, 0⟩
def grd_GRD_ARB_QUANTUM (u : Nat) : Fld := ⟨0x40000 + 0x10000 * u + 0x180, 31, 0⟩
def grd_GRD_OP_MAX (u : Nat) : Fld := ⟨0x40000 + 0x10000 * u + 0x188, 24, 0⟩
def grd_ARB_CUR (u : Nat) : Fld := ⟨0x40000 + 0x10000 * u + 0x190, 2, 0⟩
def grd_RUN_ACYC (u : Nat) : Fld := ⟨0x40000 + 0x10000 * u + 0x190, 63, 32⟩
def grd_STN_ACYC (u i : Nat) : Fld := ⟨0x40000 + 0x10000 * u + 0x1C0 + 0x8 * i, 63, 0⟩
def ldl_BUSY (u : Nat) : Fld := ⟨0x80000 + 0x10000 * u + 0x100, 0, 0⟩
def ldl_SLOT (u : Nat) : Fld := ⟨0x80000 + 0x10000 * u + 0x100, 4, 1⟩
def ldl_STN (u : Nat) : Fld := ⟨0x80000 + 0x10000 * u + 0x100, 7, 5⟩
def ldl_RA_CNT (u : Nat) : Fld := ⟨0x80000 + 0x10000 * u + 0x108, 31, 0⟩
def ldl_NV_CNT (u : Nat) : Fld := ⟨0x80000 + 0x10000 * u + 0x108, 63, 32⟩
def ldl_OF_CNT (u : Nat) : Fld := ⟨0x80000 + 0x10000 * u + 0x110, 31, 0⟩
def ldl_UF_CNT (u : Nat) : Fld := ⟨0x80000 + 0x10000 * u + 0x110, 63, 32⟩
def ldl_OVT_CNT (u : Nat) : Fld := ⟨0x80000 + 0x10000 * u + 0x118, 31, 0⟩
def ldl_MILL_KEY (u i : Nat) : Fld := ⟨0x80000 + 0x10000 * u + 0x120 + 0x8 * i, 63, 0⟩
def ldl_PSTEP (u i : Nat) : Fld := ⟨0x80000 + 0x10000 * u + 0x160 + 0x8 * i, 7, 0⟩
def ldl_PTID (u i : Nat) : Fld := ⟨0x80000 + 0x10000 * u + 0x160 + 0x8 * i, 15, 8⟩
def ldl_STATUS (u i : Nat) : Fld := ⟨0x80000 + 0x10000 * u + 0x1A0 + 0x8 * i, 3, 0⟩
def ldl_CBUSY (u i : Nat) : Fld := ⟨0x80000 + 0x10000 * u + 0x1A0 + 0x8 * i, 4, 4⟩
def ldl_STEP (u i : Nat) : Fld := ⟨0x80000 + 0x10000 * u + 0x1A0 + 0x8 * i, 63, 32⟩
def ldl_SP_NV (u i : Nat) : Fld := ⟨0x80000 + 0x10000 * u + 0xA00 + 0x8 * i, 0, 0⟩
def ldl_SP_OF (u i : Nat) : Fld := ⟨0x80000 + 0x10000 * u + 0xA00 + 0x8 * i, 1, 1⟩
def ldl_NORM (u i j : Nat) : Fld := ⟨0x80000 + 0x10000 * u + 0x200 + 0x80 * i + 0x8 * j, 63, 0⟩
def ldl_NORM_NV (u i j : Nat) : Fld := ⟨0x80000 + 0x10000 * u + 0x600 + 0x80 * i + 0x8 * j, 0, 0⟩
def ldl_NORM_PSN (u i j : Nat) : Fld := ⟨0x80000 + 0x10000 * u + 0x600 + 0x80 * i + 0x8 * j, 1, 1⟩
def ldl_SP_BLK (u i : Nat) : Fld := ⟨0x80000 + 0x10000 * u + 0x8000 + 0x8 * i, 63, 0⟩
def ldl_RPAIR (u i : Nat) : Fld := ⟨0x80000 + 0x10000 * u + 0x1000 + 0x40 * i, 7, 0⟩
def ldl_RLOG_BASE (u i : Nat) : Fld := ⟨0x80000 + 0x10000 * u + 0x1008 + 0x40 * i, 43, 12⟩
def ldl_RLOG_LEN (u i : Nat) : Fld := ⟨0x80000 + 0x10000 * u + 0x1008 + 0x40 * i, 55, 48⟩
def ldl_RLOG_HEAD (u i : Nat) : Fld := ⟨0x80000 + 0x10000 * u + 0x1010 + 0x40 * i, 31, 0⟩
def ldl_LAYER (u i : Nat) : Fld := ⟨0x80000 + 0x10000 * u + 0x1018 + 0x40 * i, 15, 0⟩
def ldl_PAIR (u i : Nat) : Fld := ⟨0x80000 + 0x10000 * u + 0x1018 + 0x40 * i, 18, 16⟩
def ldl_BUSY_1018 (u i : Nat) : Fld := ⟨0x80000 + 0x10000 * u + 0x1018 + 0x40 * i, 62, 62⟩
def ldl_GO (u i : Nat) : Fld := ⟨0x80000 + 0x10000 * u + 0x1018 + 0x40 * i, 63, 63⟩
def ldl_SPBLK (u i : Nat) : Fld := ⟨0x80000 + 0x10000 * u + 0x1020 + 0x40 * i, 13, 0⟩
def ldl_NBLK (u i : Nat) : Fld := ⟨0x80000 + 0x10000 * u + 0x1020 + 0x40 * i, 28, 14⟩
def ldl_NREG (u i : Nat) : Fld := ⟨0x80000 + 0x10000 * u + 0x1020 + 0x40 * i, 32, 29⟩
def ldl_BUSY_1020 (u i : Nat) : Fld := ⟨0x80000 + 0x10000 * u + 0x1020 + 0x40 * i, 62, 62⟩
def ldl_GO_1020 (u i : Nat) : Fld := ⟨0x80000 + 0x10000 * u + 0x1020 + 0x40 * i, 63, 63⟩
def ldl_SCAN_SRC (u i : Nat) : Fld := ⟨0x80000 + 0x10000 * u + 0x1028 + 0x40 * i, 63, 0⟩
def ldl_SCAN_SPN (u i : Nat) : Fld := ⟨0x80000 + 0x10000 * u + 0x1030 + 0x40 * i, 23, 0⟩
def ldl_SP_FP64 (u i : Nat) : Fld := ⟨0x80000 + 0x10000 * u + 0x1030 + 0x40 * i, 24, 24⟩
def seq_RBASE (u i : Nat) : Fld := ⟨0xC0000 + 0x10000 * u + 0x100 + 0x20 * i, 12, 0⟩
def seq_RLEN (u i : Nat) : Fld := ⟨0xC0000 + 0x10000 * u + 0x100 + 0x20 * i, 29, 16⟩
def seq_TBASE (u i : Nat) : Fld := ⟨0xC0000 + 0x10000 * u + 0x108 + 0x20 * i, 5, 0⟩
def seq_TLEN (u i : Nat) : Fld := ⟨0xC0000 + 0x10000 * u + 0x108 + 0x20 * i, 22, 16⟩
def seq_SBASE (u i : Nat) : Fld := ⟨0xC0000 + 0x10000 * u + 0x108 + 0x20 * i, 37, 32⟩
def seq_SLEN (u i : Nat) : Fld := ⟨0xC0000 + 0x10000 * u + 0x108 + 0x20 * i, 54, 48⟩
def seq_ACTIVE (u i : Nat) : Fld := ⟨0xC0000 + 0x10000 * u + 0x110 + 0x20 * i, 0, 0⟩
def seq_SWAP (u i : Nat) : Fld := ⟨0xC0000 + 0x10000 * u + 0x110 + 0x20 * i, 1, 1⟩
def seq_SWAP_PEND (u i : Nat) : Fld := ⟨0xC0000 + 0x10000 * u + 0x110 + 0x20 * i, 2, 2⟩
def seq_WREF (u i : Nat) : Fld := ⟨0xC0000 + 0x10000 * u + 0x110 + 0x20 * i, 3, 3⟩
def seq_RUN (u i : Nat) : Fld := ⟨0xC0000 + 0x10000 * u + 0x118 + 0x20 * i, 0, 0⟩
def seq_STOP (u i : Nat) : Fld := ⟨0xC0000 + 0x10000 * u + 0x118 + 0x20 * i, 1, 1⟩
def seq_STOP_WHY (u i : Nat) : Fld := ⟨0xC0000 + 0x10000 * u + 0x118 + 0x20 * i, 7, 4⟩
def seq_PC (u i : Nat) : Fld := ⟨0xC0000 + 0x10000 * u + 0x118 + 0x20 * i, 20, 8⟩
def seq_CMD_DONE (u i : Nat) : Fld := ⟨0xC0000 + 0x10000 * u + 0x118 + 0x20 * i, 63, 32⟩
def seq_ENTRY (u i : Nat) : Fld := ⟨0xC0000 + 0x10000 * u + 0x200 + 0x10 * i, 12, 0⟩
def seq_QMASK (u i : Nat) : Fld := ⟨0xC0000 + 0x10000 * u + 0x200 + 0x10 * i, 19, 16⟩
def seq_SWAP_200 (u i : Nat) : Fld := ⟨0xC0000 + 0x10000 * u + 0x200 + 0x10 * i, 20, 20⟩
def seq_QUEUED (u i : Nat) : Fld := ⟨0xC0000 + 0x10000 * u + 0x200 + 0x10 * i, 21, 21⟩
def seq_LOVR (u i : Nat) : Fld := ⟨0xC0000 + 0x10000 * u + 0x200 + 0x10 * i, 22, 22⟩
def seq_GO (u i : Nat) : Fld := ⟨0xC0000 + 0x10000 * u + 0x200 + 0x10 * i, 63, 63⟩
def seq_PEND (u i j : Nat) : Fld := ⟨0xC0000 + 0x10000 * u + 0x300 + 0x20 * i + 0x8 * j, 63, 0⟩
def seq_P (u i j : Nat) : Fld := ⟨0xC0000 + 0x10000 * u + 0x1000 + 0x800 * i + 0x8 * j, 63, 0⟩
def wsk_BUSY (u : Nat) : Fld := ⟨0x100000 + 0x10000 * u + 0x100, 0, 0⟩
def wsk_STN (u : Nat) : Fld := ⟨0x100000 + 0x10000 * u + 0x100, 3, 1⟩
def wsk_LINKS (u : Nat) : Fld := ⟨0x100000 + 0x10000 * u + 0x100, 11, 4⟩
def wsk_QDEPTH (u i : Nat) : Fld := ⟨0x100000 + 0x10000 * u + 0x108 + 0x8 * i, 3, 0⟩
def wsk_DONE_CNT (u : Nat) : Fld := ⟨0x100000 + 0x10000 * u + 0x148, 31, 0⟩
def wsk_FAULT_CNT (u : Nat) : Fld := ⟨0x100000 + 0x10000 * u + 0x148, 63, 32⟩
def wsk_A_BYTES (u : Nat) : Fld := ⟨0x100000 + 0x10000 * u + 0x150, 63, 0⟩
def wsk_BUSY_WCYC (u : Nat) : Fld := ⟨0x100000 + 0x10000 * u + 0x158, 63, 0⟩
def wsk_DESC (u i : Nat) : Fld := ⟨0x100000 + 0x10000 * u + 0x180 + 0x8 * i, 43, 0⟩
def wsk_CTR (u i : Nat) : Fld := ⟨0x100000 + 0x10000 * u + 0x180 + 0x8 * i, 55, 44⟩
def wsk_CEN (u i : Nat) : Fld := ⟨0x100000 + 0x10000 * u + 0x180 + 0x8 * i, 56, 56⟩
def wsk_GO (u i : Nat) : Fld := ⟨0x100000 + 0x10000 * u + 0x180 + 0x8 * i, 63, 63⟩
def tng_STREAMS (u : Nat) : Fld := ⟨0x240000 + 0x10000 * u + 0x100, 6, 0⟩
def tng_OUTST (u : Nat) : Fld := ⟨0x240000 + 0x10000 * u + 0x100, 20, 8⟩
def tng_PARKED (u : Nat) : Fld := ⟨0x240000 + 0x10000 * u + 0x100, 27, 21⟩
def tng_LOOKUPS (u : Nat) : Fld := ⟨0x240000 + 0x10000 * u + 0x108, 63, 0⟩
def tng_BG_LOOKUPS (u : Nat) : Fld := ⟨0x240000 + 0x10000 * u + 0x110, 63, 0⟩
def tng_CLAMP_CNT (u : Nat) : Fld := ⟨0x240000 + 0x10000 * u + 0x118, 31, 0⟩
def tng_REB_PCT (u : Nat) : Fld := ⟨0x240000 + 0x10000 * u + 0x120, 6, 0⟩
def tng_DB_DESC (u i : Nat) : Fld := ⟨0x240000 + 0x10000 * u + 0x180 + 0x8 * i, 43, 0⟩
def tng_DB_CTR (u i : Nat) : Fld := ⟨0x240000 + 0x10000 * u + 0x180 + 0x8 * i, 55, 44⟩
def tng_DB_CEN (u i : Nat) : Fld := ⟨0x240000 + 0x10000 * u + 0x180 + 0x8 * i, 56, 56⟩
def tng_DB_GO (u i : Nat) : Fld := ⟨0x240000 + 0x10000 * u + 0x180 + 0x8 * i, 63, 63⟩
def tng_BASE_A (u i j : Nat) : Fld := ⟨0x240000 + 0x10000 * u + 0x1000 + 0x400 * i + 0x40 * j, 43, 0⟩
def tng_VALID (u i j : Nat) : Fld := ⟨0x240000 + 0x10000 * u + 0x1000 + 0x400 * i + 0x40 * j, 63, 63⟩
def tng_BASE_B (u i j : Nat) : Fld := ⟨0x240000 + 0x10000 * u + 0x1008 + 0x400 * i + 0x40 * j, 43, 0⟩
def tng_NROWS (u i j : Nat) : Fld := ⟨0x240000 + 0x10000 * u + 0x1010 + 0x400 * i + 0x40 * j, 39, 0⟩
def tng_ROWB (u i j : Nat) : Fld := ⟨0x240000 + 0x10000 * u + 0x1010 + 0x400 * i + 0x40 * j, 56, 44⟩
def tng_EPOCH (u i j : Nat) : Fld := ⟨0x240000 + 0x10000 * u + 0x1018 + 0x400 * i + 0x40 * j, 31, 0⟩
def tng_CUR (u i j : Nat) : Fld := ⟨0x240000 + 0x10000 * u + 0x1018 + 0x400 * i + 0x40 * j, 32, 32⟩
def tng_STATE (u i j : Nat) : Fld := ⟨0x240000 + 0x10000 * u + 0x1018 + 0x400 * i + 0x40 * j, 35, 33⟩
def tng_SWAP_PEND (u i j : Nat) : Fld := ⟨0x240000 + 0x10000 * u + 0x1018 + 0x400 * i + 0x40 * j, 36, 36⟩
def tng_BUILD (u i j : Nat) : Fld := ⟨0x240000 + 0x10000 * u + 0x1020 + 0x400 * i + 0x40 * j, 0, 0⟩
def tng_DONE (u i j : Nat) : Fld := ⟨0x240000 + 0x10000 * u + 0x1020 + 0x400 * i + 0x40 * j, 1, 1⟩
def tng_SWAP (u i j : Nat) : Fld := ⟨0x240000 + 0x10000 * u + 0x1020 + 0x400 * i + 0x40 * j, 2, 2⟩
def tng_ABANDON (u i j : Nat) : Fld := ⟨0x240000 + 0x10000 * u + 0x1020 + 0x400 * i + 0x40 * j, 3, 3⟩
def tng_ECTR (u i j : Nat) : Fld := ⟨0x240000 + 0x10000 * u + 0x1020 + 0x400 * i + 0x40 * j, 27, 16⟩
def mtr_BUSY (u : Nat) : Fld := ⟨0x280000 + 0x10000 * u + 0x100, 0, 0⟩
def mtr_STN (u : Nat) : Fld := ⟨0x280000 + 0x10000 * u + 0x100, 3, 1⟩
def mtr_PHASE (u : Nat) : Fld := ⟨0x280000 + 0x10000 * u + 0x100, 6, 4⟩
def mtr_ITER (u : Nat) : Fld := ⟨0x280000 + 0x10000 * u + 0x100, 22, 7⟩
def mtr_QDEPTH (u i : Nat) : Fld := ⟨0x280000 + 0x10000 * u + 0x108 + 0x8 * i, 2, 0⟩
def mtr_GEN (u : Nat) : Fld := ⟨0x280000 + 0x10000 * u + 0x148, 31, 0⟩
def mtr_FSTN (u : Nat) : Fld := ⟨0x280000 + 0x10000 * u + 0x148, 34, 32⟩
def mtr_FVALID (u : Nat) : Fld := ⟨0x280000 + 0x10000 * u + 0x148, 35, 35⟩
def mtr_SOLVES (u : Nat) : Fld := ⟨0x280000 + 0x10000 * u + 0x150, 31, 0⟩
def mtr_DL_CNT (u : Nat) : Fld := ⟨0x280000 + 0x10000 * u + 0x150, 63, 32⟩
def mtr_WREJ_CNT (u : Nat) : Fld := ⟨0x280000 + 0x10000 * u + 0x158, 31, 0⟩
def mtr_FAULT_CNT (u : Nat) : Fld := ⟨0x280000 + 0x10000 * u + 0x158, 63, 32⟩
def mtr_BUSY_MCYC (u : Nat) : Fld := ⟨0x280000 + 0x10000 * u + 0x160, 63, 0⟩
def mtr_FMA (u : Nat) : Fld := ⟨0x280000 + 0x10000 * u + 0x168, 63, 0⟩
def mtr_DB_DESC (u i : Nat) : Fld := ⟨0x280000 + 0x10000 * u + 0x180 + 0x8 * i, 43, 0⟩
def mtr_DB_CTR (u i : Nat) : Fld := ⟨0x280000 + 0x10000 * u + 0x180 + 0x8 * i, 55, 44⟩
def mtr_DB_CEN (u i : Nat) : Fld := ⟨0x280000 + 0x10000 * u + 0x180 + 0x8 * i, 56, 56⟩
def mtr_DB_GO (u i : Nat) : Fld := ⟨0x280000 + 0x10000 * u + 0x180 + 0x8 * i, 63, 63⟩
def crk_MODE (u i : Nat) : Fld := ⟨0x2C0000 + 0x10000 * u + 0x100 + 0x8 * i, 0, 0⟩
def crk_FLUSH (u i : Nat) : Fld := ⟨0x2C0000 + 0x10000 * u + 0x100 + 0x8 * i, 1, 1⟩
def crk_BUSY (u i : Nat) : Fld := ⟨0x2C0000 + 0x10000 * u + 0x100 + 0x8 * i, 2, 2⟩
def crk_OWNED (u i : Nat) : Fld := ⟨0x2C0000 + 0x10000 * u + 0x100 + 0x8 * i, 3, 3⟩
def crk_STN (u i : Nat) : Fld := ⟨0x2C0000 + 0x10000 * u + 0x100 + 0x8 * i, 6, 4⟩
def crk_HITS (u i : Nat) : Fld := ⟨0x2C0000 + 0x10000 * u + 0x180 + 0x10 * i, 63, 0⟩
def crk_MISSES (u i : Nat) : Fld := ⟨0x2C0000 + 0x10000 * u + 0x188 + 0x10 * i, 63, 0⟩
def crk_WB_LINES (u i : Nat) : Fld := ⟨0x2C0000 + 0x10000 * u + 0x240 + 0x8 * i, 63, 0⟩
def mc_CE1_CNT (u : Nat) : Fld := ⟨0x300000 + 0x10000 * u + 0x100, 31, 0⟩
def mc_CE2_CNT (u : Nat) : Fld := ⟨0x300000 + 0x10000 * u + 0x100, 63, 32⟩
def mc_UE_CNT (u : Nat) : Fld := ⟨0x300000 + 0x10000 * u + 0x108, 31, 0⟩
def mc_PSN_RD (u : Nat) : Fld := ⟨0x300000 + 0x10000 * u + 0x108, 63, 32⟩
def mc_SCRUB_UE (u : Nat) : Fld := ⟨0x300000 + 0x10000 * u + 0x110, 31, 0⟩
def mc_RMW_CNT (u : Nat) : Fld := ⟨0x300000 + 0x10000 * u + 0x110, 63, 32⟩
def mc_EN (u : Nat) : Fld := ⟨0x300000 + 0x10000 * u + 0x118, 0, 0⟩
def mc_HOURS (u : Nat) : Fld := ⟨0x300000 + 0x10000 * u + 0x118, 15, 8⟩
def mc_SCRUB_POS (u : Nat) : Fld := ⟨0x300000 + 0x10000 * u + 0x118, 63, 32⟩
def mc_BURST_KIB (u i : Nat) : Fld := ⟨0x300000 + 0x10000 * u + 0x140 + 0x8 * i, 10, 0⟩
def mc_CAP (u i : Nat) : Fld := ⟨0x300000 + 0x10000 * u + 0x140 + 0x8 * i, 16, 16⟩
def mc_STN_BEATS (u i : Nat) : Fld := ⟨0x300000 + 0x10000 * u + 0x180 + 0x8 * i, 63, 0⟩
def mc_RSV_BEATS (u : Nat) : Fld := ⟨0x300000 + 0x10000 * u + 0x1C0, 63, 0⟩
def mc_LOCAL_LO (u : Nat) : Fld := ⟨0x300000 + 0x10000 * u + 0x200, 63, 0⟩
def mc_LOCAL_HI (u : Nat) : Fld := ⟨0x300000 + 0x10000 * u + 0x208, 62, 0⟩
def mc_LBUSY (u : Nat) : Fld := ⟨0x300000 + 0x10000 * u + 0x210, 0, 0⟩
def kp_EN (u : Nat) : Fld := ⟨0x440000 + 0x10000 * u + 0x100, 0, 0⟩
def kp_WIDTH (u : Nat) : Fld := ⟨0x440000 + 0x10000 * u + 0x100, 2, 1⟩
def kp_METRO (u : Nat) : Fld := ⟨0x440000 + 0x10000 * u + 0x100, 3, 3⟩
def kp_MSLOT (u : Nat) : Fld := ⟨0x440000 + 0x10000 * u + 0x100, 7, 4⟩
def kp_LOOP (u : Nat) : Fld := ⟨0x440000 + 0x10000 * u + 0x100, 8, 8⟩
def kp_LSTATE (u : Nat) : Fld := ⟨0x440000 + 0x10000 * u + 0x108, 2, 0⟩
def kp_FAR (u : Nat) : Fld := ⟨0x440000 + 0x10000 * u + 0x108, 3, 3⟩
def kp_PEER_NODE (u : Nat) : Fld := ⟨0x440000 + 0x10000 * u + 0x108, 23, 4⟩
def kp_PEER_PORT (u : Nat) : Fld := ⟨0x440000 + 0x10000 * u + 0x108, 29, 24⟩
def kp_PEER_SERIAL (u : Nat) : Fld := ⟨0x440000 + 0x10000 * u + 0x110, 63, 0⟩
def kp_RTT (u : Nat) : Fld := ⟨0x440000 + 0x10000 * u + 0x118, 31, 0⟩
def kp_REPLAY_TMO (u : Nat) : Fld := ⟨0x440000 + 0x10000 * u + 0x118, 63, 32⟩
def kp_TX_FLITS (u : Nat) : Fld := ⟨0x440000 + 0x10000 * u + 0x120, 63, 0⟩
def kp_RX_FLITS (u : Nat) : Fld := ⟨0x440000 + 0x10000 * u + 0x128, 63, 0⟩
def kp_NAK_CNT (u : Nat) : Fld := ⟨0x440000 + 0x10000 * u + 0x130, 31, 0⟩
def kp_REPLAY_CNT (u : Nat) : Fld := ⟨0x440000 + 0x10000 * u + 0x130, 63, 32⟩
def kp_LCRC_ERR (u : Nat) : Fld := ⟨0x440000 + 0x10000 * u + 0x138, 31, 0⟩
def kp_AUTH_FAIL (u : Nat) : Fld := ⟨0x440000 + 0x10000 * u + 0x138, 63, 32⟩
def kp_FEC_UNC (u : Nat) : Fld := ⟨0x440000 + 0x10000 * u + 0x140, 31, 0⟩
def kp_BAD_OP (u : Nat) : Fld := ⟨0x440000 + 0x10000 * u + 0x140, 63, 32⟩
def kp_ASYM (u : Nat) : Fld := ⟨0x440000 + 0x10000 * u + 0x148, 31, 0⟩
def kp_KEY0 (u i : Nat) : Fld := ⟨0x440000 + 0x10000 * u + 0x180 + 0x8 * i, 63, 0⟩
def kp_KEY1 (u i : Nat) : Fld := ⟨0x440000 + 0x10000 * u + 0x1A0 + 0x8 * i, 63, 0⟩
def kp_SALT0 (u : Nat) : Fld := ⟨0x440000 + 0x10000 * u + 0x1C0, 31, 0⟩
def kp_SALT1 (u : Nat) : Fld := ⟨0x440000 + 0x10000 * u + 0x1C0, 63, 32⟩
def kp_KACT (u : Nat) : Fld := ⟨0x440000 + 0x10000 * u + 0x1C8, 0, 0⟩
def kp_KSWITCH (u : Nat) : Fld := ⟨0x440000 + 0x10000 * u + 0x1C8, 1, 1⟩
def kp_KLOADED (u : Nat) : Fld := ⟨0x440000 + 0x10000 * u + 0x1C8, 3, 2⟩
def krt_NODEID : Fld := ⟨0x840100, 19, 0⟩
def krt_VALID : Fld := ⟨0x840100, 63, 63⟩
def krt_MGR (i : Nat) : Fld := ⟨0x840108 + 0x8 * i, 19, 0⟩
def krt_VALID_108 (i : Nat) : Fld := ⟨0x840108 + 0x8 * i, 63, 63⟩
def krt_REQ_TMO : Fld := ⟨0x840128, 31, 0⟩
def krt_FWD_TMO : Fld := ⟨0x840128, 63, 32⟩
def krt_RT_IDX : Fld := ⟨0x840130, 15, 0⟩
def krt_RT_SITE : Fld := ⟨0x840130, 16, 16⟩
def krt_RT_DATA : Fld := ⟨0x840138, 31, 0⟩
def krt_GRP_IDX : Fld := ⟨0x840140, 11, 0⟩
def krt_GRP_DATA (i : Nat) : Fld := ⟨0x840148 + 0x8 * i, 63, 0⟩
def krt_DB_DESC (i : Nat) : Fld := ⟨0x840180 + 0x8 * i, 43, 0⟩
def krt_DB_CTR (i : Nat) : Fld := ⟨0x840180 + 0x8 * i, 55, 44⟩
def krt_DB_CEN (i : Nat) : Fld := ⟨0x840180 + 0x8 * i, 56, 56⟩
def krt_DB_GO (i : Nat) : Fld := ⟨0x840180 + 0x8 * i, 63, 63⟩
def krt_FWD_FLITS : Fld := ⟨0x8401C0, 63, 0⟩
def krt_FWD_DROP : Fld := ⟨0x8401C8, 31, 0⟩
def krt_NOROUTE : Fld := ⟨0x8401C8, 63, 32⟩
def krt_GBASE (i : Nat) : Fld := ⟨0x840200 + 0x8 * i, 11, 0⟩
def krt_GNUM (i : Nat) : Fld := ⟨0x840200 + 0x8 * i, 24, 12⟩
def krt_COLL_TMO (i : Nat) : Fld := ⟨0x840200 + 0x8 * i, 63, 32⟩
def krt_BASE (i : Nat) : Fld := ⟨0x840300 + 0x20 * i, 43, 12⟩
def krt_NBLK (i : Nat) : Fld := ⟨0x840308 + 0x20 * i, 31, 0⟩
def krt_CHK (i : Nat) : Fld := ⟨0x840308 + 0x20 * i, 32, 32⟩
def krt_BUSY (i : Nat) : Fld := ⟨0x840308 + 0x20 * i, 62, 62⟩
def krt_GO (i : Nat) : Fld := ⟨0x840308 + 0x20 * i, 63, 63⟩
def krt_RDIG (i : Nat) : Fld := ⟨0x840310 + 0x20 * i, 63, 0⟩
def krt_UNTAG (i : Nat) : Fld := ⟨0x840318 + 0x20 * i, 31, 0⟩
def krt_CRCBAD (i : Nat) : Fld := ⟨0x840318 + 0x20 * i, 63, 32⟩
def time_NOW : Fld := ⟨0x850100, 63, 0⟩
def time_SRC : Fld := ⟨0x850108, 1, 0⟩
def time_GM : Fld := ⟨0x850108, 2, 2⟩
def time_SPORT : Fld := ⟨0x850108, 8, 3⟩
def time_DOMAIN : Fld := ⟨0x850108, 15, 9⟩
def time_OFFSET : Fld := ⟨0x850110, 63, 0⟩
def time_NEXT_PPS : Fld := ⟨0x850118, 63, 0⟩
def time_LOCK : Fld := ⟨0x850120, 0, 0⟩
def time_STEPS : Fld := ⟨0x850120, 31, 16⟩
def time_SNAP_AT : Fld := ⟨0x850140, 63, 0⟩
def time_ARM : Fld := ⟨0x850148, 0, 0⟩
def time_PIN_EN : Fld := ⟨0x850148, 1, 1⟩
def time_LATE : Fld := ⟨0x850148, 2, 2⟩
def time_DROP : Fld := ⟨0x850148, 3, 3⟩
def time_SEQ : Fld := ⟨0x850148, 31, 16⟩
def time_LAST_AT : Fld := ⟨0x850150, 63, 0⟩
def fw_STAGE : Fld := ⟨0x860100, 2, 0⟩
def fw_T_FALLBACK : Fld := ⟨0x860100, 3, 3⟩
def fw_S_FALLBACK : Fld := ⟨0x860100, 4, 4⟩
def fw_RECOVERY : Fld := ⟨0x860100, 5, 5⟩
def fw_SVC_NONE : Fld := ⟨0x860100, 6, 6⟩
def fw_T_VERSION : Fld := ⟨0x860108, 63, 0⟩
def fw_S_VERSION : Fld := ⟨0x860110, 63, 0⟩
def fw_TSVN_MIN : Fld := ⟨0x860118, 31, 0⟩
def fw_SSVN_MIN : Fld := ⟨0x860118, 63, 32⟩
def fw_T_STATE : Fld := ⟨0x860120, 1, 0⟩
def fw_S_STATE : Fld := ⟨0x860120, 3, 2⟩
def fw_SESSION : Fld := ⟨0x860120, 19, 4⟩
def fw_LAST_STATUS : Fld := ⟨0x860120, 23, 20⟩
def fw_UPD_TMO : Fld := ⟨0x860120, 63, 32⟩
def fw_CHUNKS : Fld := ⟨0x860128, 31, 0⟩
def fw_SUCC (i : Nat) : Fld := ⟨0x860130 + 0x8 * i, 19, 0⟩
def fw_VALID (i : Nat) : Fld := ⟨0x860130 + 0x8 * i, 63, 63⟩
def fw_HO_STAT : Fld := ⟨0x860150, 2, 0⟩
def fw_HO_CNT : Fld := ⟨0x860150, 31, 16⟩
def fw_HO_TMO : Fld := ⟨0x860150, 63, 32⟩
def fw_MS (i j : Nat) : Fld := ⟨0x860800 + 0x40 * i + 0x8 * j, 63, 0⟩
def fw_REQ (i j : Nat) : Fld := ⟨0x861000 + 0x800 * i + 0x8 * j, 63, 0⟩
def fw_RSP (i j : Nat) : Fld := ⟨0x861100 + 0x800 * i + 0x8 * j, 63, 0⟩
def fw_CMD (i : Nat) : Fld := ⟨0x861400 + 0x800 * i, 7, 0⟩
def fw_BUSY (i : Nat) : Fld := ⟨0x861400 + 0x800 * i, 62, 62⟩
def fw_GO (i : Nat) : Fld := ⟨0x861400 + 0x800 * i, 63, 63⟩
def fw_STATUS (i : Nat) : Fld := ⟨0x861408 + 0x800 * i, 7, 0⟩
def cc_RUN (u : Nat) : Fld := ⟨0x870000 + 0x10000 * u + 0x100, 0, 0⟩
def cc_WFI (u : Nat) : Fld := ⟨0x870000 + 0x10000 * u + 0x100, 1, 1⟩
def cc_HALTED (u : Nat) : Fld := ⟨0x870000 + 0x10000 * u + 0x100, 2, 2⟩
def cc_BOUND (u : Nat) : Fld := ⟨0x870000 + 0x10000 * u + 0x100, 3, 3⟩
def cc_STN (u : Nat) : Fld := ⟨0x870000 + 0x10000 * u + 0x100, 6, 4⟩
def cc_HALT (u : Nat) : Fld := ⟨0x870000 + 0x10000 * u + 0x108, 0, 0⟩
def cc_RST (u : Nat) : Fld := ⟨0x870000 + 0x10000 * u + 0x108, 1, 1⟩
def cc_RVEC (u : Nat) : Fld := ⟨0x870000 + 0x10000 * u + 0x110, 43, 2⟩
def cc_INSTRET (u : Nat) : Fld := ⟨0x870000 + 0x10000 * u + 0x118, 63, 0⟩
def cc_KV_RET (u : Nat) : Fld := ⟨0x870000 + 0x10000 * u + 0x120, 63, 0⟩
def cc_TRAP_CNT (u : Nat) : Fld := ⟨0x870000 + 0x10000 * u + 0x128, 31, 0⟩
def cc_POIS_CNT (u : Nat) : Fld := ⟨0x870000 + 0x10000 * u + 0x128, 47, 32⟩
def cc_LAST_CAUSE (u : Nat) : Fld := ⟨0x870000 + 0x10000 * u + 0x130, 7, 0⟩
def sve_BUSY : Fld := ⟨0x990100, 0, 0⟩
def sve_PEND : Fld := ⟨0x990100, 7, 1⟩
def sve_CHECKED : Fld := ⟨0x990108, 63, 0⟩
def sve_SKIPS : Fld := ⟨0x990110, 63, 0⟩
def sve_MISMATCH_CNT : Fld := ⟨0x990118, 31, 0⟩
def sve_CRC_CNT : Fld := ⟨0x990118, 63, 32⟩
def sve_TRANSIENT_CNT : Fld := ⟨0x990120, 31, 0⟩
def sve_SIEVE_FAULT_CNT : Fld := ⟨0x990120, 63, 32⟩
def sve_STEP (i : Nat) : Fld := ⟨0x990200 + 0x40 * i, 63, 0⟩
def sve_MISM (i : Nat) : Fld := ⟨0x990208 + 0x40 * i, 15, 0⟩
def sve_SKIP (i : Nat) : Fld := ⟨0x990208 + 0x40 * i, 31, 16⟩
def sve_CRC (i : Nat) : Fld := ⟨0x990208 + 0x40 * i, 47, 32⟩
def sve_SUSPECT (i : Nat) : Fld := ⟨0x990208 + 0x40 * i, 48, 48⟩
def sve_AUDIT (i : Nat) : Fld := ⟨0x990208 + 0x40 * i, 49, 49⟩
def sve_DRAINED (i : Nat) : Fld := ⟨0x990208 + 0x40 * i, 62, 62⟩
def sve_DRAIN (i : Nat) : Fld := ⟨0x990208 + 0x40 * i, 63, 63⟩
def sve_DIGEST (i : Nat) : Fld := ⟨0x990210 + 0x40 * i, 63, 0⟩
def sve_AUDIT_N (i : Nat) : Fld := ⟨0x990218 + 0x40 * i, 7, 0⟩
def sve_AOFF (i : Nat) : Fld := ⟨0x990218 + 0x40 * i, 15, 8⟩
def sve_MQ (i : Nat) : Fld := ⟨0x990220 + 0x40 * i, 1, 0⟩
def sve_MGRP (i : Nat) : Fld := ⟨0x990220 + 0x40 * i, 4, 2⟩
def sve_MPASS (i : Nat) : Fld := ⟨0x990220 + 0x40 * i, 8, 5⟩
def sve_MKIND (i : Nat) : Fld := ⟨0x990220 + 0x40 * i, 10, 9⟩
def sve_MTILE (i : Nat) : Fld := ⟨0x990220 + 0x40 * i, 47, 16⟩
def sve_VALID (i : Nat) : Fld := ⟨0x990220 + 0x40 * i, 63, 63⟩
def sve_PRED (i : Nat) : Fld := ⟨0x990228 + 0x40 * i, 63, 0⟩
def sve_OBS (i : Nat) : Fld := ⟨0x990230 + 0x40 * i, 63, 0⟩
def sve_TOL (i : Nat) : Fld := ⟨0x990238 + 0x40 * i, 63, 0⟩
def hst_SPEED : Fld := ⟨0x9A0100, 2, 0⟩
def hst_WIDTH : Fld := ⟨0x9A0100, 7, 3⟩
def hst_UP : Fld := ⟨0x9A0100, 8, 8⟩
def hst_WIN_BASE : Fld := ⟨0x9A0108, 11, 0⟩
def hst_WIN_STN : Fld := ⟨0x9A0108, 14, 12⟩
def hst_WIN_EN : Fld := ⟨0x9A0108, 15, 15⟩
def hst_DBG_EN : Fld := ⟨0x9A0110, 0, 0⟩
def hst_BAR2_RD : Fld := ⟨0x9A0118, 63, 0⟩
def hst_BAR2_WR : Fld := ⟨0x9A0120, 63, 0⟩

end Reg

end Sys2Proof.Machine
end

