-- ==== Sys2Proof/Machine/Ops.lean ====
section
/-! DEFINITION. The named operations every command is built from: registers and counters, events and first-error
captures (R322 to R325), the station's grants and windows (R19 to R31, R88), memory with its poison, tags and the
Crock cache (R217 to R233, R299 to R303). -/

namespace Sys2Proof.Machine

/-! ## Registers -/

/-- Indices at which a row's strides reach distance x from its base. -/
def rowIndex : List (Nat × Nat) → Nat → Option (List Nat)
  | [], x => if x = 0 then some [] else none
  | (s, c) :: t, x =>
    let i := x / s
    if i < c then (rowIndex t (x - i * s)).map (fun l => i :: l) else none

/-- Block and index of a page (R32). -/
def blkOf (page : Nat) : Option (Blk × Nat) :=
  if page = 0 then some (.sys, 0)
  else if page = 1 then some (.pwr, 0)
  else if page = 2 then some (.bolt, 0)
  else if page = 3 then some (.tmb, 0)
  else if page < 0x08 then some (.grd, page - 0x04)
  else if page < 0x0C then some (.ldl, page - 0x08)
  else if page < 0x10 then some (.seq, page - 0x0C)
  else if page < 0x24 then some (.wsk, page - 0x10)
  else if page < 0x28 then some (.tng, page - 0x24)
  else if page < 0x2C then some (.mtr, page - 0x28)
  else if page < 0x30 then some (.crk, page - 0x2C)
  else if page < 0x44 then some (.mc, page - 0x30)
  else if page < 0x84 then some (.kp, page - 0x44)
  else if page = 0x84 then some (.krt, 0)
  else if page = 0x85 then some (.time, 0)
  else if page = 0x86 then some (.fw, 0)
  else if page < 0x99 then some (.cc, page - 0x87)
  else if page = 0x99 then some (.sve, 0)
  else if page = 0x9A then some (.hst, 0)
  else none

/-- The register rows of a block. -/
def blkRows : Blk → List FieldRow
  | .sys => sysRows | .pwr => pwrRows | .bolt => boltRows | .tmb => tmbRows | .grd => grdRows | .ldl => ldlRows
  | .seq => seqRows | .wsk => wskRows | .tng => tngRows | .mtr => mtrRows | .crk => crkRows | .mc => mcRows
  | .kp => kpRows | .krt => krtRows | .time => timeRows | .fw => fwRows | .cc => ccRows | .sve => sveRows
  | .hst => hstRows

/-- Block codes of BLK_ID (R402). -/
def blkCode : Blk → Nat
  | .sys => 0x01 | .pwr => 0x02 | .bolt => 0x03 | .tmb => 0x04 | .grd => 0x05 | .ldl => 0x06 | .seq => 0x07
  | .wsk => 0x08 | .tng => 0x09 | .mtr => 0x0A | .crk => 0x0B | .mc => 0x0C | .kp => 0x0D | .krt => 0x0E
  | .time => 0x0F | .fw => 0x10 | .cc => 0x11 | .sve => 0x12 | .hst => 0x13

/-- Mask of injection kinds a page accepts (R402). -/
def injKinds : Blk → Nat
  | .seq => 7 | .kp => 7 | .ldl => 3 | .pwr => 3 | .mc => 1 | .crk => 1 | .mtr => 1 | .grd => 1 | .wsk => 1
  | .sve => 1 | .tmb => 1 | .bolt => 1 | _ => 0

/-- The fields of the register at a BAR0 offset, with the indices of their row. -/
def rowsAt (off : Nat) : List (FieldRow × List Nat) :=
  match blkOf (off / 0x10000) with
  | none => []
  | some (b, u) =>
    let po := off % 0x10000
    (if po < 0x100 then hdrRows else blkRows b).filterMap fun r =>
      if po < r.base ∨ (r.only0 ∧ u ≠ 0) then none
      else (rowIndex r.dims (po - r.base)).map (fun ix => (r, ix))

/-- Latchable registers on a page of block b with index u (R402 NLATCH): registers that hold a latchable counter. -/
def latchCount (b : Blk) (u : Nat) : Nat :=
  let rs := (blkRows b).filter (fun r => r.ctr && (!r.only0 || decide (u = 0)))
  let regs := (rs.map (fun r => (r.base, r.dims))).dedup
  (regs.map (fun r => (r.2.map Prod.snd).prod)).sum

/-- Default reaction masks of a source, REACT_N and REACT_S (R328, R412): by its most severe code's class. -/
def defaultReact (page : Nat) : Nat × Nat :=
  match blkOf page with
  | some (.pwr, _) => (0x8B, 0x8B)
  | some (.bolt, _) => (0x8B, 0x8B)
  | some (.sys, _) => (0x06, 0x07)
  | some (.fw, _) => (0x06, 0x07)
  | some (.cc, _) => (0x06, 0x07)
  | some (.sve, _) => (0x06, 0x07)
  | some (.hst, _) => (0x06, 0x07)
  | _ => (0x03, 0x0B)

/-- BLK_ID and BLK_CAP of a page (R402). -/
def headerConst (page po : Nat) : Nat :=
  match blkOf page with
  | none => 0
  | some (b, u) =>
    if po = 0x00 then 0x2048 + blkCode b <<< 16 + u <<< 24 + Config.revision <<< 32 + page <<< 40
    else if po = 0x08 then
      let n := latchCount b u
      let k := injKinds b
      b2n (n ≠ 0) + b2n (k ≠ 0) <<< 1 + b2n ((blkRows b).any (fun r => r.rng.isSome)) <<< 2 +
        b2n ((blkRows b).any (fun r => r.own == .stn)) <<< 3 + n <<< 8 + k <<< 16
    else 0

/-- What the register at a BAR0 offset holds after a module reset (R409). -/
def resetNat (off : Nat) : Nat :=
  let page := off / 0x10000
  let po := off % 0x10000
  if off % 8 ≠ 0 then 0
  else if po < 0x10 then headerConst page po
  else
    let base := ((rowsAt off).map (fun e => e.1.rst <<< e.1.lo)).sum
    if page = 2 ∧ 0x400 ≤ po ∧ po < 0x400 + 155 * 8 then
      let d := defaultReact ((po - 0x400) / 8)
      base + d.1 <<< 24 + d.2 <<< 32
    else base

def resetWord (off : Nat) : Word := BitVec.ofNat 64 (resetNat off)

/-- The register at a BAR0 offset. -/
def State.reg (m : State) (off : Nat) : Nat := (m.regs.get resetWord off).toNat

def State.setReg (m : State) (off v : Nat) : State :=
  { m with regs := m.regs.set resetWord off (BitVec.ofNat 64 v) }

/-- w with bits [hi:lo] replaced by the low bits of v. -/
def insertBits (w hi lo v : Nat) : Nat :=
  w - (bitsOf w hi lo <<< lo) + ((v % 2 ^ (hi + 1 - lo)) <<< lo)

/-- A field's value. -/
def State.fld (m : State) (f : Fld) : Nat := bitsOf (m.reg f.off) f.hi f.lo

/-- A field set to the low bits of v. -/
def State.setFld (m : State) (f : Fld) (v : Nat) : State := m.setReg f.off (insertBits (m.reg f.off) f.hi f.lo v)

def State.flag (m : State) (f : Fld) : Bool := decide (m.fld f ≠ 0)

def State.setFlag (m : State) (f : Fld) (b : Bool) : State := m.setFld f (b2n b)

/-- A counter advanced by k: a 64-bit counter wraps, a narrower one saturates (R410). -/
def State.bump (m : State) (f : Fld) (k : Nat) : State :=
  let w := f.hi + 1 - f.lo
  m.setFld f (if w = 64 then m.fld f + k else satAdd (m.fld f) k w)

/-- Global time in ns (R276). -/
def State.now (m : State) : Nat := m.fld Reg.time_NOW

/-! ## Masters and events -/

/-- Master IDs of R325. -/
def mid : Master → Nat
  | .host => 0x00
  | .jtag => 0x01
  | .smbus => 0x02
  | .core c => 0x40 + c.val
  | .port p => 0x80 + p.val

/-- Event codes of R322. -/
def Code.schedSlip := 0x01
def Code.rcpStop := 0x02
def Code.rcpActiveWr := 0x03
def Code.creditOver := 0x04
def Code.spCommitFail := 0x05
def Code.engFault := 0x06
def Code.access := 0x07
def Code.poisonConsumed := 0x08
def Code.corePoison := 0x09
def Code.memUe := 0x0A
def Code.sramUe := 0x0B
def Code.tagCrc := 0x0C
def Code.sieveMismatch := 0x0D
def Code.tmbOverflow := 0x0E
def Code.tmbUnderflow := 0x0F
def Code.barrierOverrun := 0x10
def Code.barrierProto := 0x11
def Code.barrierStall := 0x12
def Code.collFail := 0x13
def Code.linkDown := 0x14
def Code.keyringAuth := 0x15
def Code.keyringProto := 0x16
def Code.timeUnlock := 0x17
def Code.pwrOc := 0x20
def Code.pwrInput := 0x21
def Code.thermWarn := 0x22
def Code.thermTrip := 0x23
def Code.boltInternal := 0x24

/-- An event as its block detects it. -/
structure Ev where
  page : Nat
  code : Nat
  stn : Option Nat := none
  master : Nat := 0xFF
  acc : Nat := 6
  addr : Nat := 0
  detail : Nat := 0
  inj : Bool := false
  deriving DecidableEq, Repr

/-- The first-error capture of the event's page takes it when it holds none, or holds one of a higher CODE detected at the
same global time, which stands for the same cycle (R324). -/
def State.capture (m : State) (e : Ev) : State :=
  let b := 0x10000 * e.page
  if m.flag (Reg.hdr_VALID_38 e.page) && !decide (m.reg (b + 0x40) = m.now ∧ e.code < bitsOf (m.reg (b + 0x38)) 15 8) then m
  else
    (((m.setReg (b + 0x28) e.addr).setReg (b + 0x30)
      (e.master + (e.stn.getD 0) <<< 8 + b2n e.stn.isSome <<< 11)).setReg (b + 0x38)
      (e.acc + e.code <<< 8 + b2n e.inj <<< 16 + 1 <<< 63)).setReg (b + 0x40) m.now

/-- The event waits for the Bolt, at most four to a page; one that finds the buffer full is only counted (R323). -/
def State.enqueue (m : State) (e : Ev) : State :=
  if 4 ≤ (m.events.filter (fun x => decide (x.page = e.page))).length then
    { (m.bump (Reg.hdr_UNDELIVERED e.page) 1) with lossPages := (if e.page ∈ m.lossPages then m.lossPages else e.page :: m.lossPages) }
  else
    let ev : Event := ⟨e.page, e.code, e.stn, e.inj, decide (e.page ∈ m.lossPages), e.master, e.acc, e.detail, e.addr, m.now⟩
    { m with events := m.events ++ [ev], lossPages := m.lossPages.filter (fun p => decide (p ≠ e.page)) }

/-- A block reports an event: first-error capture, BLK_ECNT, and its buffer toward the Bolt. -/
def State.report (m : State) (e : Ev) : State :=
  ((m.capture e).bump (Reg.hdr_EVENTS e.page) 1).enqueue e

/-- An ACCESS event (R8, R24, R26, R33). -/
def State.access (m : State) (page master : Nat) (stn : Option Nat) (acc addr : Nat) : State :=
  m.report { page := page, code := Code.access, stn := stn, master := master, acc := acc, addr := addr }

/-- A clamped write is counted in the page's BLK_CLAMP, the first with its offset (R382). -/
def State.clampAt (m : State) (off : Nat) : State :=
  let page := off / 0x10000
  let m1 := if m.flag (Reg.hdr_VALID page) then m
    else (m.setFld (Reg.hdr_OFFSET page) (off % 0x10000)).setFlag (Reg.hdr_VALID page) true
  m1.bump (Reg.hdr_COUNT page) 1

/-- An armed injection of kind k on a page fires: it disarms, and answers whether it did (R332). -/
def State.injFires (m : State) (page k : Nat) : Bool :=
  m.flag (Reg.hdr_ARMED page) && decide (m.fld (Reg.hdr_KIND page) = k)

def State.disarm (m : State) (page : Nat) : State := m.setFlag (Reg.hdr_ARMED page) false

/-- Safe state (R329): SAFE_WHY holds the code that entered it. -/
def State.safe (m : State) : Bool := decide (m.fld Reg.bolt_SAFE_WHY ≠ 0)

/-- A fresh free value (a value the spec leaves open). -/
def State.drawByte (m : State) : Byte × State := (Config.freeByte m.free, { m with free := m.free + 1 })
def State.drawWord (m : State) : Word × State := (Config.freeWord m.free, { m with free := m.free + 1 })

/-! ## Stations and grants -/

def State.stnOn (m : State) (n : Nat) : Bool := m.flag (Reg.sys_EN n)

/-- The enabled station that holds core c (R203). -/
def State.coreStn (m : State) (c : Nat) : Option Nat :=
  if 16 ≤ c then none
  else (List.range 8).find? (fun n => m.stnOn n && (m.fld (Reg.sys_CORE_MASK n)).testBit c)

/-- The station a master acts as in a register access (R24). -/
def State.masterStn (m : State) : Master → Option Nat
  | .core c => m.coreStn c.val
  | _ => none

/-- The enabled station that holds Crock slice k. -/
def State.sliceStn (m : State) (k : Nat) : Option Nat :=
  (List.range 8).find? (fun n => m.stnOn n && (m.fld (Reg.sys_CRK_MASK n)).testBit k)

/-- Slice k is in cache mode (R222). -/
def State.sliceCache (m : State) (k : Nat) : Bool := m.flag (Reg.crk_MODE (k / 12) (k % 12))

/-- HBM range k of station n holds GiB g. -/
def State.rangeHas (m : State) (n k g : Nat) : Bool :=
  m.flag (Reg.sys_VALID n k) && decide (m.fld (Reg.sys_BASE_GIB n k) ≤ g) && decide (g ≤ m.fld (Reg.sys_LAST_GIB n k))

/-- The enabled station that holds HBM GiB g. Where a grant written to an enabled station gives a GiB to two, which the spec does
not resolve, the lower-numbered holds it (DESIGN CHOICE, log 87). -/
def State.gibStn (m : State) (g : Nat) : Option Nat :=
  (List.range 8).find? (fun n => m.stnOn n && (List.range 4).any (fun k => m.rangeHas n k g))

/-- Counters, watches and barriers granted to station n: first absolute index and count (R277). -/
def State.ctrBase (m : State) (n : Nat) : Nat := 64 * m.fld (Reg.sys_CNT_BASE n)
def State.ctrNum (m : State) (n : Nat) : Nat := 64 * m.fld (Reg.sys_CNT_NUM n)
def State.wchBase (m : State) (n : Nat) : Nat := 16 * m.fld (Reg.sys_WCH_BASE n)
def State.wchNum (m : State) (n : Nat) : Nat := 16 * m.fld (Reg.sys_WCH_NUM n)
def State.barBase (m : State) (n : Nat) : Nat := 4 * m.fld (Reg.sys_BAR_BASE n)
def State.barNum (m : State) (n : Nat) : Nat := 4 * m.fld (Reg.sys_BAR_NUM n)

/-- The enabled station whose grant of [base, base + num) holds absolute index i. -/
def State.ctrStn (m : State) (i : Nat) : Option Nat :=
  (List.range 8).find? (fun n => m.stnOn n && decide (m.ctrBase n ≤ i ∧ i < m.ctrBase n + m.ctrNum n))
def State.wchStn (m : State) (i : Nat) : Option Nat :=
  (List.range 8).find? (fun n => m.stnOn n && decide (m.wchBase n ≤ i ∧ i < m.wchBase n + m.wchNum n))
def State.barStn (m : State) (i : Nat) : Option Nat :=
  (List.range 8).find? (fun n => m.stnOn n && decide (m.barBase n ≤ i ∧ i < m.barBase n + m.barNum n))

/-- Windows of station n on quadrant q (R88): first byte and length in the Tray and in the Stockpot, words in a bank. -/
def State.trayWin (m : State) (n q : Nat) : Nat × Nat :=
  (m.fld (Reg.seq_TBASE q n) <<< 20, m.fld (Reg.seq_TLEN q n) <<< 20)
def State.potWin (m : State) (n q : Nat) : Nat × Nat :=
  (m.fld (Reg.seq_SBASE q n) <<< 20, m.fld (Reg.seq_SLEN q n) <<< 20)
def State.rcpWin (m : State) (n q : Nat) : Nat × Nat := (m.fld (Reg.seq_RBASE q n), m.fld (Reg.seq_RLEN q n))

/-- [a, a + len) lies inside the window w. -/
def inWin (w : Nat × Nat) (a len : Nat) : Bool := decide (w.1 ≤ a ∧ a + len ≤ w.1 + w.2)

/-- A station reset of n is in progress (R367). -/
def State.inReset (m : State) (n : Nat) : Bool := m.resets.any (fun r => decide (r.stn = n))

/-! ## Addresses -/

/-- What a local physical address names (R25, R352). -/
inductive Region where
  | hbm (gib : Nat)
  | reserve
  | crock (k : Nat)
  | tray (q : Nat)
  | pot (q : Nat)
  | recipe (q b : Nat)
  | mortar (d : Nat)
  | regs
  | firmware
  | hole
  deriving DecidableEq, Repr

def regionOf (a : Nat) : Region :=
  if a < 0x27F_0000_0000 then .hbm (a / 2 ^ 30)
  else if a < 0x280_0000_0000 then .reserve
  else if a < 0x800_0000_0000 then .hole
  else if a < 0x800_6000_0000 then .crock ((a - 0x800_0000_0000) / 0x200_0000)
  else if a < 0x810_0000_0000 then .hole
  else if a < 0x810_1000_0000 then .tray ((a - 0x810_0000_0000) / 0x400_0000)
  else if a < 0x820_0000_0000 then .hole
  else if a < 0x820_1000_0000 then .pot ((a - 0x820_0000_0000) / 0x400_0000)
  else if a < 0x830_0000_0000 then .hole
  else if a < 0x830_0020_0000 then .recipe ((a - 0x830_0000_0000) / 0x8_0000) ((a - 0x830_0000_0000) / 0x4_0000 % 2)
  else if a < 0x840_0000_0000 then .hole
  else if a < 0x840_0400_0000 then .mortar ((a - 0x840_0000_0000) / 0x100_0000)
  else if a < 0xE00_0000_0000 then .hole
  else if a < 0xE00_0600_0000 then .firmware
  else if a < 0xF00_0000_0000 then .hole
  else if a < 0xF00_0100_0000 then .regs
  else .hole

/-- Local physical addresses of the on-die memories. -/
def trayAddr (q o : Nat) : Nat := 0x810_0000_0000 + q * 0x400_0000 + o
def potAddr (q o : Nat) : Nat := 0x820_0000_0000 + q * 0x400_0000 + o
def rcpAddr (q b w : Nat) : Nat := 0x830_0000_0000 + q * 0x8_0000 + b * 0x4_0000 + 32 * w
def mtrAddr (d o : Nat) : Nat := 0x840_0000_0000 + d * 0x100_0000 + o
def isHbm (a : Nat) : Bool := decide (a < 0x280_0000_0000)

/-- The address lies in the tag area of an HBM GiB (R301). -/
def inTagArea (a : Nat) : Bool := isHbm a && decide (0x3FE0_0000 ≤ a % 2 ^ 30)

/-- This module's node ID (R31). -/
def State.nodeId (m : State) : Nat := m.fld Reg.krt_NODEID

/-- A global address's node and local part (R30). -/
def gNode (g : Nat) : Nat := g / 2 ^ 44
def gLocal (g : Nat) : Nat := g % 2 ^ 44

/-- The interval lies inside one HBM range or one scratchpad slice of station n (R97). -/
def State.inRange (m : State) (n a len : Nat) : Bool :=
  decide (0 < len) &&
  ((List.range 4).any (fun k => m.flag (Reg.sys_VALID n k) &&
      decide (m.fld (Reg.sys_BASE_GIB n k) * 2 ^ 30 ≤ a ∧ a + len ≤ (m.fld (Reg.sys_LAST_GIB n k) + 1) * 2 ^ 30)) ||
    (match regionOf a with
      | .crock k => (m.fld (Reg.sys_CRK_MASK n)).testBit k && !m.sliceCache k &&
          decide (a + len ≤ 0x800_0000_0000 + (k + 1) * 0x200_0000)
      | _ => false))

/-- The interval lies inside the station's HBM ranges (a digest scan, a ledger or RLOG area, a shadow deposit). -/
def State.inHbmRange (m : State) (n a len : Nat) : Bool := m.inRange n a len && isHbm a

/-- A local physical interval at another node passes R31 there, as far as this module can tell: HBM outside the module
reserve, or one Crock scratchpad slice. -/
def remoteOk (a len : Nat) : Bool :=
  decide (a + len ≤ 0x27F_0000_0000) ||
    (match regionOf a, regionOf (a + len - 1) with
    | .crock k, .crock l => decide (k = l)
    | _, _ => false)

/-- Answers of the access checks: served; outside the station's resources (R24); reserved, a Crock slice in cache mode (R26)
or a Mortar's window (R183); each refusal with the page that records it. -/
inductive Grant where
  | ok
  | owner (page : Nat)
  | reserved (page : Nat)
  deriving DecidableEq, Repr

def State.mortar (m : State) (d : Nat) : Mortar := m.mortars.get (fun _ => .idle) d

/-- A Mortar's window is read by the owner of its contents while it is idle (R183). -/
def State.mortarReads (m : State) (d : Nat) (n : Option Nat) : Bool :=
  (m.mortar d).run.isNone && (m.mortar d).owned && decide (n = some (m.fld (Reg.mtr_FSTN d)))

/-- The first address beyond the memory of one unit that a lies in: a Crock slice, a quadrant's Tray or Stockpot, a recipe
bank or a Mortar's window; elsewhere nothing ends at a unit. -/
def unitEnd (a : Nat) : Nat :=
  match regionOf a with
  | .crock k => 0x800_0000_0000 + (k + 1) * 0x200_0000
  | .tray q => 0x810_0000_0000 + (q + 1) * 0x400_0000
  | .pot q => 0x820_0000_0000 + (q + 1) * 0x400_0000
  | .recipe _ _ => (a / 0x4_0000 + 1) * 0x4_0000
  | .mortar d => 0x840_0000_0000 + (d + 1) * 0x100_0000
  | _ => 2 ^ 44

/-- Placement of an HBM address (R217): stack, pseudo-channel, line. -/
def fold5 (r : Nat) : Nat := (r ^^^ (r >>> 5) ^^^ (r >>> 10) ^^^ (r >>> 15) ^^^ (r >>> 20)) % 32

/-- Group j is local (R216). -/
def State.groupLocal (m : State) (j : Nat) : Bool :=
  if j < 64 then (m.fld (Reg.mc_LOCAL_LO 0)).testBit j else (m.fld (Reg.mc_LOCAL_HI 0)).testBit (j - 64) && decide (j < 127)

def placeOf (loc : Bool) (a : Nat) : Nat × Nat × Nat :=
  let gib := a / 2 ^ 30
  let j := gib / 20
  let k := gib % 20
  let o := a % 2 ^ 30
  let sr := if loc then (k, o / 256)
    else
      let n := k * 2 ^ 22 + o / 256
      ((n % 20 + fold5 (n / 20) % 20) % 20, n / 20)
  let q := j * 2 ^ 22 + sr.2
  let f := ((q >>> 6) ^^^ (q >>> 12) ^^^ (q >>> 18) ^^^ (q >>> 24)) % 64
  (sr.1, (q % 64) ^^^ f, q / 64)

def State.place (m : State) (a : Nat) : Nat × Nat × Nat := placeOf (m.groupLocal (a / 2 ^ 30 / 20)) a

/-- The page of the block whose memory holds an address (R24). -/
def State.memPage (m : State) (a : Nat) : Nat :=
  match regionOf a with
  | .hbm _ => 0x30 + (m.place a).1
  | .crock k => 0x2C + k / 12
  | .tray q => 0x0C + q
  | .recipe q _ => 0x0C + q
  | .pot q => 0x08 + q
  | .mortar d => 0x28 + d
  | _ => 0

/-- The check of R24, R26 and R183 on [a, a + len) inside one unit's memory. -/
def State.checkUnit (m : State) (n : Option Nat) (a len : Nat) (write : Bool) : Grant :=
  let last := a + len - 1
  match regionOf a, regionOf last with
  | .hole, _ => .reserved 0
  | _, .hole => .reserved 0
  | .firmware, _ => .reserved 0
  | _, .firmware => .reserved 0
  | .crock k, .crock l =>
    if k ≠ l then .owner (m.memPage a)
    else if m.sliceCache k then .reserved (0x2C + k / 12)
    else if m.sliceStn k = n ∧ n.isSome then .ok else .owner (m.memPage a)
  | .mortar d, .mortar _ => if !write ∧ m.mortarReads d n then .ok else .reserved (0x28 + d)
  | .hbm g, .hbm h =>
    if inTagArea a ∨ inTagArea last then .reserved 0
    else if m.gibStn g = n ∧ m.gibStn h = n ∧ n.isSome then .ok else .owner (m.memPage a)
  | .tray q, .tray r =>
    match n with
    | some s => if q = r ∧ inWin (m.trayWin s q) (a % 0x400_0000) len then .ok else .owner (m.memPage a)
    | none => .owner (m.memPage a)
  | .pot q, .pot r =>
    match n with
    | some s => if q = r ∧ inWin (m.potWin s q) (a % 0x400_0000) len then .ok else .owner (m.memPage a)
    | none => .owner (m.memPage a)
  | .recipe q b, .recipe r c =>
    match n with
    | some s =>
      let w := m.rcpWin s q
      if q = r ∧ b = c ∧ inWin (32 * w.1, 32 * w.2) (a % 0x4_0000) len then .ok else .owner (m.memPage a)
    | none => .owner (m.memPage a)
  | _, _ => .owner (m.memPage a)

/-- The check on [a, a + len) by station n (none: a master without station resources), which may run from one unit's memory
into the next: an access fails where a byte of it does. -/
def State.check (m : State) (n : Option Nat) (a len : Nat) (write : Bool) : Grant :=
  let e := unitEnd a
  if a + len ≤ e then m.checkUnit n a len write
  else match m.checkUnit n a (e - a) write with
    | .ok => m.checkUnit n e (a + len - e) write
    | x => x

/-! ## Memory -/

/-- What a byte nothing has written reads as. -/
def memZero (_ : Nat) : Byte := 0

/-- The byte at a local physical address. -/
def State.byte (m : State) (a : Nat) : Byte := m.mem.get memZero a

def State.bytes (m : State) (a n : Nat) : List Byte := SMap.read memZero (m.mem.slice a n) 0 n

/-- n bytes at a as an agent other than a Mortar sees them: a Mortar's window shows its working set, whose places the spec
leaves open, until it is zeroed (R183). -/
def State.seen (m : State) (a n : Nat) : List Byte :=
  match regionOf a with
  | .mortar d =>
    if (m.mortar d).used then (List.range n).map (fun i => Config.freeByte ((m.mortar d).fill + a % 0x100_0000 + i)) else m.bytes a n
  | _ => m.bytes a n

/-- n bytes at a as a little-endian number. -/
def State.word (m : State) (a n : Nat) : Nat := leNat (m.bytes a n)

/-- Stores that may not have reached memory, once [a, a + n) is written: what was there before is no core's any more (R226). -/
def settled (l : List CoreByte) (a n : Nat) : List CoreByte := l.filter (fun e => !decide (a ≤ e.addr ∧ e.addr < a + n))

def State.putBytes (m : State) (a : Nat) (bs : List Byte) : State :=
  { m with
    mem := m.mem.splice a bs.length (SMap.ofList 0 bs)
    coreBytes := settled m.coreBytes a bs.length }

/-- Bytes the granule of a poison mark covers (R232, R233). -/
def granule (a : Nat) : Nat := if a < 0x810_0000_0000 then 64 else 32

/-- The 32-byte granule of a is poisoned, as stored or as the command in progress has read it. -/
def State.psnAt (m : State) (a : Nat) : Bool := decide (m.poison.get memZero (a / 32) ≠ 0 ∨ a / 32 ∈ m.flight)

/-- Some byte of [a, a + n) is stored poisoned. -/
def State.psnStored (m : State) (a n : Nat) : Bool :=
  !(m.poison.slice (a / 32) ((a + n - 1) / 32 + 1 - a / 32)).isEmpty && decide (0 < n)

/-- Some byte of [a, a + n) is poisoned, as stored or as the command in progress has read it. -/
def State.psnIn (m : State) (a n : Nat) : Bool :=
  m.psnStored a n || (decide (0 < n) && m.flight.any (fun g => decide (a / 32 ≤ g ∧ g ≤ (a + n - 1) / 32)))

/-- The 64 bytes at b are poisoned in what the command in progress reads, and not where they are stored. -/
def State.inFlight (m : State) (b n : Nat) : State :=
  { m with flight := m.flight ++ (List.range (n / 32)).map (fun i => b / 32 + i) }

/-- The command has ended: what it read is no longer in flight. -/
def State.landed (m : State) : State := { m with flight := [] }

/-- Mark or clear the whole granule that starts at b. -/
def State.setPsn (m : State) (b : Nat) (p : Bool) : State :=
  { m with poison := m.poison.splice (b / 32) (granule b / 32) (if p then SMap.ofList 0 (List.replicate (granule b / 32) 1) else []) }

/-- Poison after a write of [a, a + n): a granule written whole takes p of its bytes, one written in part keeps its own
as well (R230). p i k: whether bytes [i, i + k) of the written data carry poison. -/
def State.putPsn (m : State) (a n : Nat) (p : Nat → Nat → Bool) : State :=
  if n = 0 then m
  else
    let g := granule a
    (List.range ((a + n - 1) / g + 1 - a / g)).foldl (fun m i =>
      let b := (a / g + i) * g
      let lo := max a b
      let hi := min (a + n) (b + g)
      let new := p (lo - a) (hi - lo)
      let whole := decide (lo = b ∧ hi = b + g)
      m.setPsn b (new || (!whole && m.psnIn b g))) m

/-- Beats of an access are charged at their stack to the owning station, whose bucket they drain, or to the reserve (R220,
R221). -/
def State.chargeBeats (m : State) (n : Option Nat) (a len : Nat) : State :=
  if len = 0 then m
  else
    (List.range ((a + len - 1) / 256 + 1 - a / 256)).foldl (fun m i =>
      let g := (a / 256 + i) * 256
      let lo := max a g
      let hi := min (a + len) (g + 256)
      let k := (hi - 1) / 32 + 1 - lo / 32
      let s := (m.place g).1
      match n with
      | some n =>
        let b := m.buckets.get (fun _ => 0) (8 * s + n)
        { m.bump (Reg.mc_STN_BEATS s n) k with buckets := m.buckets.set (fun _ => 0) (8 * s + n) (b - 32 * k) }
      | none =>
        { m.bump (Reg.mc_RSV_BEATS s) k with rsvBytes := m.rsvBytes.set (fun _ => 0) s (m.rsvBytes.get (fun _ => 0) s + 32 * k) }) m

/-! ## What a read meets (R229, R232) -/

/-- An armed injection of kind k on a page whose memory is read (R332): it disarms, the event is reported with INJ, and the
n bytes at b are poisoned in flight. -/
def State.injected (m : State) (page k b n : Nat) (e : Ev) : State :=
  if m.injFires page k then (((m.disarm page).report { e with inj := true }).inFlight b n) else m

/-- One 64-byte access of HBM that an agent reads: an armed injection is a detected uncorrectable error, and a line that is
stored poisoned is counted in PSN_RD. -/
def State.senseLine (m : State) (n b acc : Nat) : State :=
  let s := (m.place b).1
  let page := 0x30 + s
  if m.injFires page 0 then
    (m.bump (Reg.mc_UE_CNT s) 1).injected page 0 b 64
      { page := page, code := Code.memUe, stn := some n, acc := acc, addr := b }
  else if m.psnStored b 64 then m.bump (Reg.mc_PSN_RD s) 1
  else m

/-- The 64-byte accesses that a read of [a, a + len) by station n makes. -/
def State.sense (m : State) (n a len acc : Nat) : State :=
  (List.range ((a + len - 1) / 64 + 1 - a / 64)).foldl (fun m i => m.senseLine n ((a / 64 + i) * 64) acc) m

/-- A read of Crock slice k: an injection armed for it on its page (R405) is taken by the first 64-byte granule read. -/
def State.senseCrock (m : State) (n k a : Nat) : State :=
  if m.fld (Reg.hdr_UNIT (0x2C + k / 12)) ≠ k % 12 then m
  else m.injected (0x2C + k / 12) 0 (a / 64 * 64) 64
    { page := 0x2C + k / 12, code := Code.sramUe, stn := some n, acc := 0, addr := a }

/-- A read of Mortar, Tray or Stockpot memory: an injection of kind k armed on its page is taken by the first 32-byte granule
read. -/
def State.senseSram (m : State) (n page k a : Nat) : State :=
  m.injected page k (a / 32 * 32) 32 { page := page, code := Code.sramUe, stn := some n, acc := 0, addr := a }

/-- Partial 64-byte writes are read-modify-writes at the controller (R230); the read's beats are charged too (R220), and it
meets what a read meets. -/
def State.countRmw (m : State) (n a len : Nat) : State :=
  if len = 0 then m
  else
    let one (m : State) (b : Nat) : State :=
      ((m.bump (Reg.mc_RMW_CNT (m.place b).1) 1).chargeBeats (some n) b 64).sense n b 64 2
    let first := decide (a % 64 ≠ 0 ∨ len < 64)
    let last := decide ((a + len) % 64 ≠ 0) && decide (a / 64 ≠ (a + len - 1) / 64)
    let m1 := if first then one m (a / 64 * 64) else m
    if last then one m1 ((a + len - 1) / 64 * 64) else m1

/-- An access at the controllers, which no cache takes: its beats, and what its reads meet. -/
def State.direct (m : State) (n a len : Nat) (write : Bool) : State :=
  let m1 := m.chargeBeats (some n) a len
  if write then m1.countRmw n a len else m1.sense n a len 0

/-! ## The memory-side cache (R222 to R225) -/

/-- The cache slices of station n in increasing index. -/
def State.cacheSlices (m : State) (n : Nat) : List Nat :=
  (List.range 48).filter (fun k => (m.fld (Reg.sys_CRK_MASK n)).testBit k && m.sliceCache k)

/-- Slice and set of a line (R223). -/
def cacheHome (slices : List Nat) (l : Nat) : Nat × Nat :=
  (slices.getD (((l ^^^ (l >>> 16)) % 65536) % slices.length) 0, (l ^^^ (l >>> 13)) % 8192)

def CLine.is (c : CLine) (n l : Nat) : Bool := decide (c.stn = n ∧ c.line = l)

/-- Write a dirty line back: HBM takes the line's bytes. -/
def State.writeBack (m : State) (c : CLine) : State :=
  let m1 := { m with
    stale := m.stale.clear (256 * c.line) 256
    stalePsn := m.stalePsn.clear (8 * c.line) 8
    cache := m.cache.map (fun (x : CLine) => if x.is c.stn c.line then { x with dirty := false } else x) }
  (m1.bump (Reg.crk_WB_LINES (c.slice / 12) (c.slice % 12)) 1).chargeBeats (some c.stn) (256 * c.line) 256

/-- Remove a line, writing it back when dirty. -/
def State.evict (m : State) (c : CLine) : State :=
  let m1 := if c.dirty then m.writeBack c else m
  { m1 with cache := m1.cache.filter (fun x => !x.is c.stn c.line) }

/-- Lose a line without write-back: its bytes become HBM's own again (R225). -/
def State.dropLine (m : State) (c : CLine) : State :=
  let m1 := if c.dirty then
    { m with
      mem := m.mem.splice (256 * c.line) 256 ((m.stale.slice (256 * c.line) 256).filter (fun e => decide (e.2 ≠ 0)))
      poison := m.poison.splice (8 * c.line) 8 ((m.stalePsn.slice (8 * c.line) 8).filter (fun e => decide (e.2 ≠ 0)))
      stale := m.stale.clear (256 * c.line) 256
      stalePsn := m.stalePsn.clear (8 * c.line) 8
      coreBytes := settled m.coreBytes (256 * c.line) 256 }
    else m
  { m1 with cache := m1.cache.filter (fun x => !x.is c.stn c.line) }

/-- Keep HBM's bytes aside before a clean line becomes dirty. -/
def State.setAside (m : State) (l : Nat) : State :=
  { m with
    stale := m.stale.splice (256 * l) 256 (m.mem.slice (256 * l) 256)
    stalePsn := m.stalePsn.splice (8 * l) 8 (m.poison.slice (8 * l) 8) }

/-- Make room in a set, and put line l first in it. -/
def State.allocate (m : State) (n slice set l : Nat) (keep : Bool) : State :=
  let here := m.cache.filter (fun c => decide (c.stn = n ∧ c.slice = slice ∧ c.set = set))
  let keeps := here.filter (fun c => c.keep)
  let m1 := if keep ∧ 8 ≤ keeps.length then (match keeps.getLast? with | some c => m.evict c | none => m)
    else if 16 ≤ here.length then
      (match (here.filter (fun c => !c.keep)).getLast? with | some c => m.evict c | none => m)
    else m
  { m1 with cache := ⟨n, slice, set, l, false, keep⟩ :: m1.cache }

/-- One access of station n to bytes [lo, lo + len) of a line, under an allocation class (0 allocate, 1 no allocate, 2 allocate and keep). -/
def State.cacheLine (m : State) (n lo len : Nat) (write : Bool) (cls : Nat) : State :=
  let l := lo / 256
  let sl := m.cacheSlices n
  if sl.isEmpty then m.direct n lo len write
  else
    let h := cacheHome sl l
    let page := h.1 / 12
    let i := h.1 % 12
    match m.cache.find? (fun c => c.is n l) with
    | some c =>
      let m0 := m.bump (Reg.crk_HITS page i) 1
      let m1 := if write then m0 else m0.senseCrock n h.1 lo
      let m2 := if write && !c.dirty then m1.setAside l else m1
      let keeps := m2.cache.filter (fun x => decide (x.stn = n ∧ x.slice = c.slice ∧ x.set = c.set) && x.keep)
      let m3 := if cls = 2 ∧ !c.keep ∧ 8 ≤ keeps.length
        then (match keeps.getLast? with | some x => m2.evict x | none => m2) else m2
      { m3 with cache := { c with dirty := c.dirty || write, keep := c.keep || decide (cls = 2) } ::
          m3.cache.filter (fun x => !x.is n l) }
    | none =>
      let m1 := m.bump (Reg.crk_MISSES page i) 1
      if cls = 1 then m1.direct n lo len write
      else
        let m2 := (m1.allocate n h.1 h.2 l (decide (cls = 2))).direct n (256 * l) 256 false
        if write then
          let m3 := m2.setAside l
          { m3 with cache := m3.cache.map (fun (x : CLine) => if x.is n l then { x with dirty := true } else x) }
        else m2

/-- An access of station n to HBM passes through its cache, line by line; without one, it goes to the controllers. A read of
other memory meets an injection armed there (R232). -/
def State.touch (m : State) (n a len : Nat) (write : Bool) (cls : Nat) : State :=
  if len = 0 then m
  else if !isHbm a then
    if write then m
    else match regionOf a with
      | .crock k => m.senseCrock n k a
      | .mortar d => m.senseSram n (0x28 + d) 0 a
      | .tray q => m.senseSram n (0x0C + q) 1 a
      | .pot q => m.senseSram n (0x08 + q) 1 a
      | _ => m
  else if (m.cacheSlices n).isEmpty then m.direct n a len write
  else (List.range ((a + len - 1) / 256 + 1 - a / 256)).foldl (fun m i =>
    let lo := max a ((a / 256 + i) * 256)
    m.cacheLine n lo (min (a + len) ((a / 256 + i + 1) * 256) - lo) write cls) m

/-! ## Accesses that hold (R14, R221, R224) -/

/-- A flush of station n's cache is in progress: its new memory accesses hold (R224). -/
def State.flushing (m : State) (n : Nat) : Bool := m.flushes.any (fun (f : Flush) => decide (f.stn = n))

/-- Station n's accesses at stack s hold: its share is a ceiling and it has no beat left to spend (R221). -/
def State.capped (m : State) (n s : Nat) : Bool :=
  m.flag (Reg.mc_CAP s n) && decide (m.fld (Reg.sys_BW_SHARE n) = 0 ∨ m.buckets.get (fun _ => 0) (8 * s + n) < 32)

/-- An access of station n to [a, a + len) holds: it changes nothing until what holds it is gone. A line in the cache needs
no beat. -/
def State.memHeld (m : State) (n a len : Nat) : Bool :=
  decide (0 < len) &&
  (match regionOf a with
    | .crock _ => m.flushing n
    | .hbm _ => m.flushing n || ((List.range 20).any (m.capped n) &&
        (List.range ((a + len - 1) / 256 + 1 - a / 256)).any (fun i =>
          !m.cache.any (fun c => c.is n (a / 256 + i)) && m.capped n (m.place ((a / 256 + i) * 256)).1))
    | _ => false)

/-! ## Tags (R299 to R303) -/

/-- Where an HBM block's tag lies. -/
def tagAddr (a : Nat) : Nat := a / 2 ^ 30 * 2 ^ 30 + 0x3FE0_0000 + (a % 2 ^ 30 / 4096) * 8

/-- The tag of the block that holds a; a block of untagged memory has tag 0. -/
def State.tag (m : State) (a : Nat) : Nat :=
  if isHbm a then m.word (tagAddr a) 8
  else match regionOf a with
    | .tray _ => (m.trayTags.get (fun _ => 0) ((a - 0x810_0000_0000) / 4096)).toNat
    | _ => 0

def State.setTag (m : State) (a t : Nat) : State :=
  if isHbm a then
    if m.word (tagAddr a) 8 = t then m else m.putBytes (tagAddr a) (leBytes t 8)
  else match regionOf a with
    | .tray _ => { m with trayTags := m.trayTags.set (fun _ => 0) ((a - 0x810_0000_0000) / 4096) (BitVec.ofNat 64 t) }
    | _ => m

/-- Every block that [a, a + len) touches becomes untagged. -/
def State.untag (m : State) (a len : Nat) : State :=
  if len = 0 then m
  else (List.range ((a + len - 1) / 4096 + 1 - a / 4096)).foldl (fun m i => m.setTag ((a / 4096 + i) * 4096) 0) m

/-- A write of station n that carries no tag: cache, bytes, poison, and the touched blocks untagged. -/
def State.store (m : State) (n a : Nat) (bs : List Byte) (p : Nat → Nat → Bool) (cls : Nat) : State :=
  (((m.touch n a bs.length true cls).putBytes a bs).putPsn a bs.length p).untag a bs.length

/-- A store with its bytes all clean or all poisoned. -/
def State.storeP (m : State) (n a : Nat) (bs : List Byte) (psn : Bool) (cls : Nat) : State :=
  m.store n a bs (fun _ _ => psn) cls

/-- A STATUS word, or another 64-bit record of an engine, is written. -/
def State.putStatus (m : State) (n a v cls : Nat) : State := (m.storeP n a (leBytes v 8) false cls).landed

/-- A write of a whole block by a writer that computes its tag (R302), in the format of code c. -/
def State.storeTagged (m : State) (n a : Nat) (bs : List Byte) (psn : Bool) (cls : Nat) (c : Option Nat) : State :=
  (m.storeP n a bs psn cls).setTag a (tagOf c bs)

/-- Zero [a, a + len) with poison and tags of the blocks inside (a window or slice that is zeroed). -/
def State.zero (m : State) (a len : Nat) : State :=
  { m with
    mem := m.mem.clear a len
    coreBytes := settled m.coreBytes a len
    poison := m.poison.clear (a / 32) (len / 32)
    trayTags := if 0x810_0000_0000 ≤ a ∧ a < 0x810_1000_0000 then m.trayTags.clear ((a - 0x810_0000_0000) / 4096) (len / 4096)
      else m.trayTags }

/-- A read of station n at [a, a + len): bytes and whether they carry poison; a refused read is zero with poison and is
recorded on the page of the block that owns the memory, or on the page R26 names. -/
def State.load (m : State) (master n a len cls : Nat) : List Byte × Bool × State :=
  match m.check (some n) a len false with
  | .ok =>
    let m1 := m.touch n a len false cls
    (m1.bytes a len, m1.psnIn a len, m1)
  | .owner p => (List.replicate len 0, true, m.access p master (some n) 0 a)
  | .reserved p => (List.replicate len 0, true, m.access p master (some n) 0 a)

/-- A write of station n, dropped and recorded where the check refuses it. -/
def State.write (m : State) (master n a : Nat) (bs : List Byte) (psn : Bool) (cls : Nat) : State :=
  match m.check (some n) a bs.length true with
  | .ok => m.storeP n a bs psn cls
  | .owner p => m.access p master (some n) 1 a
  | .reserved p => m.access p master (some n) 1 a

/-- An injected or real double error on a word read by a page's memory (R232): SRAM_UE is reported, and an armed
injection of kind k disarms. up: the read met a real double error. Answers whether the data delivered is poisoned. -/
def State.sramRead (m : State) (page k : Nat) (n : Nat) (master addr : Nat) (up : Bool) : Bool × State :=
  let e : Ev := { page := page, code := Code.sramUe, stn := some n, master := master, acc := 0, addr := addr }
  let m1 := if up then m.report e else m
  if m1.injFires page k then (true, (m1.disarm page).report { e with inj := true }) else (up, m1)

/-- A completion of station n with CEN: counter increments are in the Tumbler's file; here the fresh identity. -/
def State.freshId (m : State) : Nat × State := (m.nextId, { m with nextId := m.nextId + 1 })

end Sys2Proof.Machine
end

