-- ==== Sys2Proof/Machine/Operands.lean ====
section
/-! DEFINITION. Operand forms of the command stream: fields of a 256-bit command word (R91), substitution of parameters
(R92, R93), affine generators and their bounding intervals (R95 to R97), packed elements in memory (R36, R100). -/

namespace Sys2Proof.Machine

/-- Field A and field B of an opcode (R92): bits [hi:lo] of the command word, none where the class has no field. -/
def fieldsOf (opc : Nat) : Option (Nat × Nat) × Option (Nat × Nat) :=
  match opc with
  | 0x01 => (some (95, 32), some (123, 96))
  | 0x02 => (some (59, 32), some (159, 96))
  | 0x08 => (some (63, 40), some (119, 96))
  | 0x09 => (some (63, 40), some (119, 96))
  | 0x10 => (some (155, 128), some (219, 192))
  | 0x20 => (some (127, 64), some (191, 128))
  | 0x21 => (some (107, 64), none)
  | 0x30 => (some (79, 48), none)
  | 0x31 => (some (79, 48), none)
  | 0x40 => (some (75, 32), none)
  | 0x41 => (some (75, 32), none)
  | 0x42 => (some (75, 32), none)
  | _ => (none, none)

/-- Opcodes of R92 that are assigned. -/
def assignedOpc (opc : Nat) : Bool :=
  decide (opc ∈ [0x00, 0x01, 0x02, 0x08, 0x09, 0x10, 0x20, 0x21, 0x30, 0x31, 0x32, 0x40, 0x41, 0x42, 0x50, 0x60, 0x7F])

/-- Gang opcodes of R92. -/
def gangOpc (opc : Nat) : Bool := decide (opc ∈ [0x10, 0x32, 0x60, 0x7F])

/-- One substitution (R93): the 64-bit sum replaces the field, and must fit it. -/
def substField (w : Nat) (f : Option (Nat × Nat)) (p : Nat) : Option Nat :=
  match f with
  | none => none
  | some (hi, lo) =>
    let s := (bitsOf w hi lo + p) % 2 ^ 64
    if s < 2 ^ (hi + 1 - lo) then some (insertBits w hi lo s) else none

/-- The live value of parameter register i of station n (R94). -/
def State.param (m : State) (n i : Nat) : Nat := m.fld (Reg.seq_P 0 n i)

/-- The command word after substitution; none where R93 refuses it. -/
def State.substitute (m : State) (n w : Nat) : Option Nat :=
  let f := fieldsOf (w % 256)
  let a := if bitOf w 8 then substField w f.1 (m.param n (bitsOf w 23 16)) else some w
  match a with
  | none => none
  | some w1 => if bitOf w 9 then substField w1 f.2 (m.param n (bitsOf w 31 24)) else some w1

/-! ## Generators -/

/-- Addresses a generator yields (R96). -/
def GenSlot.yield (g : GenSlot) : Nat := (g.map (fun l => l.count)).prod

/-- Distance of the i-th address from the base, level 0 advancing fastest. -/
def GenSlot.offset : GenSlot → Nat → Int
  | [], _ => 0
  | l :: t, i => (i % max 1 l.count : Nat) * l.stride + GenSlot.offset t (i / max 1 l.count)

/-- The i-th address. -/
def GenSlot.addr (g : GenSlot) (base i : Nat) : Nat := ((base : Int) + g.offset i).toNat

/-- Bounding interval (R97): lowest byte and highest byte, as integers. -/
def GenSlot.bound (g : GenSlot) (base : Nat) (run : Nat) : Int × Int :=
  ((base : Int) + (g.map (fun l => min 0 (((l.count : Int) - 1) * l.stride))).sum,
   (base : Int) + (g.map (fun l => max 0 (((l.count : Int) - 1) * l.stride))).sum + run - 1)

/-- The bounding interval of addresses in a Tray, inside the quadrant that base names (R28): offset and length, none
where it leaves [0, 2^26). -/
def GenSlot.trayBound (g : GenSlot) (base run : Nat) : Option (Nat × Nat) :=
  let b := g.bound (base % 2 ^ 26) run
  if 0 ≤ b.1 ∧ b.2 < 2 ^ 26 ∧ b.1 ≤ b.2 then some (b.1.toNat, (b.2 - b.1 + 1).toNat) else none

/-- The bounding interval of memory addresses, none where it leaves the local address space. -/
def GenSlot.memBound (g : GenSlot) (base run : Nat) : Option (Nat × Nat) :=
  let b := g.bound base run
  if 0 ≤ b.1 ∧ b.2 < 2 ^ 44 ∧ b.1 ≤ b.2 then some (b.1.toNat, (b.2 - b.1 + 1).toNat) else none

/-- Generator slot s of station n on quadrant q. -/
def State.gen (m : State) (q n s : Nat) : GenSlot := m.gens.get (fun _ => .reset) (512 * q + 64 * n + s)

/-- Levels j, j + 1, j + 2 of a slot replaced (R95). -/
def GenSlot.setLevels (g : GenSlot) (j : Nat) (ls : List Level) : GenSlot :=
  g.take j ++ ls ++ g.drop (j + ls.length)

/-! ## Scoreboard intervals (R86) -/

/-- An interval of Tray addresses (quadrant included) that a command reads or writes. -/
structure Ivl where
  lo : Nat
  len : Nat
  write : Bool
  deriving DecidableEq, Repr

def Ivl.meets (a b : Ivl) : Bool := decide (a.lo < b.lo + b.len ∧ b.lo < a.lo + a.len) && (a.write || b.write)

/-- Interval in Tray address space of a generator from base. -/
def trayIvl (g : GenSlot) (base run : Nat) (write : Bool) : Ivl :=
  match g.trayBound base run with
  | some b => ⟨base / 2 ^ 26 * 2 ^ 26 + b.1, b.2, write⟩
  | none => ⟨base, 0, write⟩

/-- Tray interval of an outstanding LDT or STT. -/
def Xfer.ivl (x : Xfer) : Ivl :=
  if x.load then trayIvl x.dgen x.dst x.run true else trayIvl x.sgen x.src x.run false

/-! ## Packed elements -/

/-- Element i (of w bits) of a run that starts at byte address a. -/
def State.elem (m : State) (a w i : Nat) : Nat :=
  let b := i * w
  let lo := a + b / 8
  let n := (b % 8 + w + 7) / 8
  (m.word lo n >>> (b % 8)) % 2 ^ w

/-- Whether element i of a run touches poison. -/
def State.elemPsn (m : State) (a w i : Nat) : Bool :=
  let b := i * w
  m.psnIn (a + b / 8) ((b % 8 + w + 7) / 8)

/-- Address of the scale byte of the element at address e of an MX operand (R100). -/
def scaleAddr (base spl e bits : Nat) : Nat := base + spl * 0x1_0000 + ((e - base) * 8) / (32 * bits)

end Sys2Proof.Machine
end

