-- ==== Sys2Proof/Machine/Flags.lean ====
section
/-! DEFINITION. Element flags and completion status: the LDL flag counters (R124), the flag bits of a Stockpot state
byte (R126), and the STATUS layout the engines share (R168). -/

namespace Sys2Proof.Machine

/-- Count one element's flags in a Ladle (R124). -/
def State.countFlags (m : State) (q : Nat) (f : Flags) : State :=
  let m1 := if f.ra then m.bump (Reg.ldl_RA_CNT q) 1 else m
  let m2 := if f.nv then m1.bump (Reg.ldl_NV_CNT q) 1 else m1
  let m3 := if f.of then m2.bump (Reg.ldl_OF_CNT q) 1 else m2
  if f.uf then m3.bump (Reg.ldl_UF_CNT q) 1 else m3

/-- State byte of Stockpot block b (R126). -/
def spByte (q b : Nat) : Fld := { off := (Reg.ldl_SP_BLK q (b / 8)).off, hi := 8 * (b % 8) + 7, lo := 8 * (b % 8) }

/-- Flags ORed into a Stockpot state byte: POISON, NV, OF (R128). -/
def potFlags (st : Nat) (psn nv of : Bool) : Nat :=
  st ||| (b2n psn <<< 1) ||| (b2n nv <<< 2) ||| (b2n of <<< 3)

/-- The STATUS word a completing engine writes (R168). -/
def statusWord (code : Nat) (f : Flags) (psn : Bool) (done : Nat) : Nat :=
  code + b2n f.nv <<< 4 + b2n f.of <<< 5 + b2n f.uf <<< 6 + b2n psn <<< 7 + min done (2 ^ 32 - 1) <<< 32

end Sys2Proof.Machine
end

