-- ==== Sys2Proof/Machine/Counters.lean ====
section
/-! DEFINITION. Tumbler counters, watches and notification rings: the operations of R278, the evaluation of watches
(R280), and what a notification does at a core (R281, R282). -/

namespace Sys2Proof.Machine

/-- A watch's comparison (R280). -/
def holdsCmp (cmp value val : Nat) : Bool :=
  match cmp with
  | 0 => decide (val ≤ value)
  | 1 => decide (value = val)
  | 2 => decide (value < val)
  | _ => false

def State.ctrValue (m : State) (i : Nat) : Nat := m.fld (Reg.tmb_VALUE i)
def State.ctrLimit (m : State) (i : Nat) : Nat := m.fld (Reg.tmb_LIMIT i)

def State.watch (m : State) (w : Nat) : Option Watch := m.watches.get (fun _ => none) w

def State.setWatch (m : State) (w : Nat) (x : Option Watch) : State :=
  { m with watches := m.watches.set (fun _ => none) w x }

/-- Send a notification and count it (R281). -/
def State.notify (m : State) (t : Target) (result : Nat) : State :=
  { m.bump Reg.tmb_NOTIFY 1 with notes := m.notes ++ [⟨t, result⟩] }

/-- Evaluate watch w: one that holds sends its notification and is freed (R280). -/
def State.evalWatch (m : State) (w : Nat) : State :=
  match m.watch w with
  | none => m
  | some x => if holdsCmp x.cmp (m.ctrValue x.ctr) x.val then (m.setWatch w none).notify x.target 1 else m

/-- Evaluate every watch on counter i. -/
def State.evalWatches (m : State) (i : Nat) : State :=
  ((m.watches.filter (fun e => match e.2 with | some x => decide (x.ctr = i) | none => false)).map Prod.fst).foldl
    State.evalWatch m

/-- First free watch of station n's pool (R277). -/
def State.freeWatch (m : State) (n : Nat) : Option Nat :=
  ((List.range (m.wchNum n)).map (fun k => m.wchBase n + k)).find? (fun w => (m.watch w).isNone)

/-- Register a watch and evaluate it at once (R280). -/
def State.addWatch (m : State) (w : Nat) (x : Watch) : State := (m.setWatch w (some x)).evalWatch w

/-- One counter operation with exact result r (R278): saturation at LIMIT and at 0, OVF and UNF, then the watches. An
armed parity injection is detected on it as TMB_OVERFLOW with DETAIL 1 (R332). -/
def State.ctrOp (m : State) (i : Nat) (r : Int) (master : Nat) : State :=
  let page := 3
  let lim := m.ctrLimit i
  let ev : Ev := { page := page, code := Code.tmbOverflow, stn := m.ctrStn i, master := master, acc := 2 }
  let m0 := if m.injFires page 0 then (m.disarm page).report { ev with detail := 1, inj := true } else m
  let m1 := m0.bump Reg.tmb_OPS 1
  let m2 :=
    if (lim : Int) < r then
      (((m1.setFld (Reg.tmb_VALUE i) lim).setFld (Reg.tmb_OVF (i / 64)) (m1.fld (Reg.tmb_OVF (i / 64)) ||| 2 ^ (i % 64)))).report ev
    else if r < 0 then
      ((m1.setFld (Reg.tmb_VALUE i) 0).setFld (Reg.tmb_UNF (i / 64)) (m1.fld (Reg.tmb_UNF (i / 64)) ||| 2 ^ (i % 64))).report
        { ev with code := Code.tmbUnderflow }
    else m1.setFld (Reg.tmb_VALUE i) r.toNat
  m2.evalWatches i

/-- Engine completion with CEN: r = VALUE + 1 on station n's counter. -/
def State.ctrDone (m : State) (n ctr : Nat) (cen : Bool) (master : Nat) : State :=
  if cen then
    let i := m.ctrBase n + ctr
    m.ctrOp i ((m.ctrValue i : Int) + 1) master
  else m

/-- A write of LIMIT (R278): below VALUE it pulls VALUE down and sets OVF, a saturating operation reported as one. -/
def State.ctrSetLimit (m : State) (i v : Nat) (master : Nat) : State :=
  let m1 := m.setFld (Reg.tmb_LIMIT i) v
  if v < m1.ctrValue i then m1.ctrOp i (m1.ctrValue i) master else m1

/-- Write one entry to a station's notification ring (R282), and interrupt the core it names (R281). -/
def State.ringPut (m : State) (n cookie result : Nat) (core : Option Nat) : State :=
  let h := m.fld (Reg.tmb_HEAD n)
  let m1 :=
    if (h + 1) % 32 = m.fld (Reg.tmb_TAIL n) then m.setFlag (Reg.tmb_LOST n) true
    else
      ((m.setFld (Reg.tmb_COOKIE_2000 n h) cookie).setFld (Reg.tmb_RESULT n h) result).setFld (Reg.tmb_HEAD n) ((h + 1) % 32)
  match core with
  | some c => { m1 with coreIrq := if c ∈ m1.coreIrq then m1.coreIrq else c :: m1.coreIrq }
  | none => m1

/-- Free every watch of a target without notification. -/
def State.dropWatches (m : State) (p : Watch → Bool) : State :=
  { m with watches := m.watches.filter (fun e => match e.2 with | some x => !p x | none => false) }

end Sys2Proof.Machine
end

