-- ==== Sys2Proof/Machine/Net.lean ====
section
/-! DEFINITION. The Keyring as an engine of this module sees it: route choice (R258, R259), requests and their tags
(R261, R263), and the piecewise LDT and STT transfers that reach a remote node (R98, R261). -/

namespace Sys2Proof.Machine

def kpPage (p : Nat) : Nat := 0x44 + p

def State.link (m : State) (p : Nat) : Link := m.links.get (fun _ => .idle) p
def State.setLink (m : State) (p : Nat) (l : Link) : State := { m with links := m.links.set (fun _ => .idle) p l }

/-- Link states of KP_STAT (R274). -/
def LState.down := 0
def LState.train := 1
def LState.fecLock := 2
def LState.hello := 3
def LState.keying := 4
def LState.up := 5
def LState.failed := 6

def State.linkUp (m : State) (p : Nat) : Bool := decide (m.fld (Reg.kp_LSTATE p) = LState.up)

/-- Where a flit for DST goes (R259). -/
inductive Hop where
  | here
  | port (p : Nat)
  | noRoute
  deriving DecidableEq, Repr

/-- The route entry that applies to a destination (R258, R259). -/
def State.routeEntry (m : State) (dst : Nat) : Nat :=
  let k := if dst / 65536 ≠ m.nodeId / 65536 then 65536 + dst / 65536 else dst % 65536
  (m.routes.get (fun _ => 0) k).toNat

def State.routeOf (m : State) (src dst flow : Nat) : Hop :=
  if dst % 65536 = 0xFFFF ∨ dst = m.nodeId then .here
  else
    let e := m.routeEntry dst
    let np := bitsOf e 25 24
    if !bitOf e 26 then .noRoute
    else if bitOf e 27 then .here
    else if (List.range (np + 1)).all (fun c => m.linkUp (bitsOf e (6 * c + 5) (6 * c))) then
      let c := (src ^^^ dst ^^^ flow) % (np + 1)
      .port (bitsOf e (6 * c + 5) (6 * c))
    else .noRoute

/-- Put a flit into a port's transmit queue. -/
def State.txq (m : State) (p : Nat) (f : Flit) : State :=
  let l := m.link p
  m.setLink p { l with txq := l.txq ++ [f] }

/-- Node ID that this module's flits carry as SRC (R255). -/
def State.srcId (m : State) : Nat := if m.flag Reg.krt_VALID then m.nodeId else 0xFFFFF

/-- A flit of this module with the header fields every request has. -/
def State.mkFlit (m : State) (op vc dst stn flow tag len addr : Nat) (payload : List Byte) : Flit :=
  { op := op, vc := vc, src := m.srcId, dst := dst, sstn := stn, hops := 31, flow := flow, tag := tag, psn := 0, len := len,
    addr := addr, payload := payload }

/-- Opcodes of R243. -/
def Op.wr := 0x01
def Op.rd := 0x02
def Op.rdRsp := 0x03
def Op.wrAck := 0x04
def Op.errRsp := 0x05
def Op.tagw := 0x06
def Op.cntAdd := 0x07
def Op.tmbMsg := 0x08
def Op.collData := 0x10
def Op.collCtl := 0x11
def Op.hello := 0x18
def Op.mgmtRd := 0x19
def Op.mgmtWr := 0x1A
def Op.mgmtRsp := 0x1B
def Op.mgmtRelay := 0x1C
def Op.ptp := 0x1E
def Op.fwImg := 0x1F

/-- The response to a request flit, echoing its tag and address: on VC 1, or on VC 3 as a management response (R243). -/
def State.mkReply (m : State) (f : Flit) (op len addr psn : Nat) (payload : List Byte) : Flit :=
  { op := op, vc := if op = Op.mgmtRsp then 3 else 1, src := m.srcId, dst := f.src, sstn := f.sstn, hops := 31, flow := f.flow,
    tag := f.tag, psn := psn, len := len, addr := addr, payload := payload }

/-- ERR_RSP with an ECODE in ADDR (R243, R263). -/
def State.errReply (m : State) (f : Flit) (ecode : Nat) : Flit := m.mkReply f Op.errRsp 0 ecode 0 []

/-! ## The target of a request (R26, R31, R261, R262) -/

/-- What an address that arrives from another node names: the station whose resource it is, or an ECODE (R31, R263), with
the page that records a reserved one (R26, R183). -/
inductive Served where
  | stn (n : Nat)
  | err (ecode : Nat)
  | reserved (page : Nat)
  deriving DecidableEq, Repr

/-- A station in the release step of a reset answers OWNER (R367). -/
def State.servedAt (m : State) (a : Nat) : Served :=
  match regionOf a with
  | .hbm g => if inTagArea a then .reserved 0 else (match m.gibStn g with
    | some n => .stn n
    | none => .err 3)
  | .crock k => if m.sliceCache k then .reserved (0x2C + k / 12) else (match m.sliceStn k with
    | some n => .stn n
    | none => .err 3)
  | .mortar d => .reserved (0x28 + d)
  | .firmware => .reserved 0
  | .hole => .reserved 0
  | _ => .err 2

/-- The station that serves [a, a + len). -/
def State.servedBy (m : State) (a len : Nat) : Served :=
  match m.servedAt a, m.servedAt (a + len - 1) with
  | .stn n, .stn k => if n = k then .stn n else .err 3
  | .stn _, x => x
  | x, _ => x

/-- Poison bits of a flit's payload that comes from [a, a + n): one for each 64-byte quarter (R242). -/
def State.psnBits (m : State) (a n : Nat) : Nat :=
  ((List.range 4).map (fun j => if 64 * j < n then b2n (m.psnIn (a + 64 * j) (min 64 (n - 64 * j))) <<< j else 0)).sum

/-- The answer to a refused access: recorded on the page R26 names, or by the block that owns the memory (R24), and
ERR_RSP. -/
def State.refuseReq (m : State) (master : Nat) (f : Flit) (acc : Nat) (x : Served) : State × Flit :=
  match x with
  | .stn _ => (m, m.errReply f 3)
  | .err e => (if e = 3 then m.access (m.memPage f.addr) master none acc f.addr else m, m.errReply f e)
  | .reserved pg => (m.access pg master none acc f.addr, m.errReply f 2)

/-- Bytes a WR or RD names. -/
def reqBytes (f : Flit) : Nat := 32 * (f.len + 1)

/-- The memory access of a WR or RD holds (R221, R224). -/
def State.reqHeld (m : State) (f : Flit) : Bool :=
  match m.servedBy f.addr (reqBytes f) with
  | .stn n => m.memHeld n f.addr (reqBytes f)
  | _ => false

/-- WR at its target (R261): poison travels in PSN and is stored with the data. -/
def State.serveWr (m : State) (master : Nat) (f : Flit) : State × Flit :=
  match m.servedBy f.addr (reqBytes f) with
  | .stn n =>
    let bs := f.payload.take (reqBytes f)
    let ps (i k : Nat) : Bool := (List.range ((i + k - 1) / 64 + 1 - i / 64)).any (fun j => f.psn.testBit (i / 64 + j))
    (m.store n f.addr bs ps 1, m.mkReply f Op.wrAck 0 f.addr 0 [])
  | x => m.refuseReq master f 1 x

/-- RD at its target (R261). -/
def State.serveRd (m : State) (master : Nat) (f : Flit) : State × Flit :=
  match m.servedBy f.addr (reqBytes f) with
  | .stn n =>
    let m1 := m.touch n f.addr (reqBytes f) false 1
    (m1, m1.mkReply f Op.rdRsp f.len f.addr (m1.psnBits f.addr (reqBytes f)) (m1.bytes f.addr (reqBytes f)))
  | x => m.refuseReq master f 0 x

/-- CNT_ADD at its target (R262, R278, R279): to a counter of station SSTN; one beyond its grant, or in reset, is answered
with OWNER. -/
def State.serveCnt (m : State) (master : Nat) (f : Flit) : State × Option Flit :=
  let n := f.sstn
  let c := bitsOf f.addr 11 0
  if m.ctrNum n ≤ c ∨ !m.stnOn n ∨ m.inReset n then (m, some (m.errReply f 3))
  else
    let i := m.ctrBase n + c
    (m.ctrOp i ((m.ctrValue i : Int) + ((leNat (f.payload.take 4) : Nat) : Int)) master, none)

/-! ## Sending -/

/-- What became of a flit that this module sends: it waits at a port, or failed with an ECODE, or was for this module and
is answered. -/
inductive Gone where
  | port (p : Nat)
  | failed (ecode : Nat)
  | here (reply : Option Flit)
  deriving DecidableEq, Repr

/-- A flit of this module that a DELIVER entry returns to it (R258, R259): the request is served here. -/
def State.loopFlit (m : State) (f : Flit) : State × Gone :=
  if f.op = Op.wr then let r := m.serveWr 0xFF f; (r.1, .here (some r.2))
  else if f.op = Op.rd then let r := m.serveRd 0xFF f; (r.1.landed, .here (some r.2))
  else if f.op = Op.cntAdd then let r := m.serveCnt 0xFF f; (r.1, .here r.2)
  else if f.op = Op.tagw then
    (match m.servedBy f.addr 4096 with
      | .stn _ => (m.setTag (f.addr / 4096 * 4096) (leNat (f.payload.take 8)), .here none)
      | x => let r := m.refuseReq 0xFF f 1 x; (r.1, .here (some r.2)))
  else (m, .here none)

/-- Send a flit of this module toward its destination (R255, R259). -/
def State.sendFlit (m : State) (f : Flit) : State × Gone :=
  if !m.flag Reg.krt_VALID then (m, .failed 7)
  else match m.routeOf f.src f.dst f.flow with
    | .port p => (m.txq p f, .port p)
    | .here => m.loopFlit f
    | .noRoute => (m.bump Reg.krt_NOROUTE 1, .failed 1)

/-- A response of this module to a flit received on port p: back toward its source, or link-local out of the same port when
the request was link-local (R255). -/
def State.respond (m : State) (p : Nat) (req reply : Flit) : State :=
  if req.dst % 65536 = 0xFFFF then m.txq p { reply with dst := 0xFFFFF } else (m.sendFlit reply).1

/-- The tag of the requests that nothing answers but an error: TAGW and CNT_ADD. -/
def plainTag : Nat := 4095

/-- A tag free toward a node: at most 4,096 are outstanding to each (R261), plainTag among them. -/
def State.newTag (m : State) (node : Nat) : Option Nat :=
  let used := (m.reqs.filter (fun r => decide (r.node = node))).map (fun r => r.tag)
  (List.range plainTag).find? (fun t => decide (t ∉ used))

/-- The transfer with identity i. -/
def State.xfer? (m : State) (i : Nat) : Option Xfer := m.xfers.find? (fun x => decide (x.id = i))

def State.setXfer (m : State) (x : Xfer) : State :=
  { m with xfers := m.xfers.map (fun y => if y.id = x.id then x else y) }

/-! ## Remote reads and writes of the engines -/

/-- Pad a payload to whole 32-byte units. -/
def pad32 (bs : List Byte) : List Byte := bs ++ List.replicate ((32 - bs.length % 32) % 32) 0

def State.rbuf (m : State) (i : Nat) : RBuf := m.rbufs.get (fun _ => .empty) i
def State.setRbuf (m : State) (i : Nat) (b : RBuf) : State := { m with rbufs := m.rbufs.set (fun _ => .empty) i b }

/-- Pieces of 256 bytes that a range of global addresses meets. -/
def piecesOf (a n : Nat) : List Nat :=
  if n = 0 then [] else (List.range ((a + n - 1) / 256 + 1 - a / 256)).map (fun i => a / 256 + i)

/-- The range is local, or its pieces have arrived for item i. -/
def State.atHand (m : State) (i a n : Nat) : Bool :=
  decide (gNode a = m.nodeId) || (piecesOf a n).all (fun p => decide (p ∈ (m.rbuf i).got))

/-- Bytes at a global address as item i sees them, and whether they carry poison. -/
def State.gbytes (m : State) (i a n : Nat) : List Byte × Bool :=
  if gNode a = m.nodeId then (m.seen (gLocal a) n, m.psnIn (gLocal a) n)
  else
    let b := m.rbuf i
    (SMap.read memZero (b.data.slice a n) 0 n, decide (0 < n) && !(b.psn.slice (a / 32) ((a + n - 1) / 32 + 1 - a / 32)).isEmpty)

/-- A piece arrives for item i; psn has a bit for each 64-byte quarter (R242). -/
def State.pieceIn (m : State) (i p : Nat) (bs : List Byte) (psn : Nat) : State :=
  let b := m.rbuf i
  let ps := (List.range 8).map (fun k => BitVec.ofNat 8 (b2n (psn.testBit (k / 2))))
  m.setRbuf i
    { data := b.data.splice (256 * p) 256 (SMap.ofList 0 bs), psn := b.psn.splice (8 * p) 8 (SMap.ofList 0 ps),
      ask := b.ask.filter (fun x => decide (x ≠ p)), got := p :: b.got }

/-- A piece whose read failed arrives as zeros with poison, and the requesting block records it (R263). -/
def State.pieceFails (m : State) (i stn page p : Nat) : State :=
  (m.report { page := page, code := Code.access, stn := some stn, acc := 0, addr := gLocal (256 * p) }).pieceIn i p
    (List.replicate 256 0) 15

/-- Another request of item i may be sent for a block's page: a Tongs has at most 4,096 outstanding, and 1,024 in any one
stream (R170). -/
def State.reqRoom (m : State) (page i : Nat) : Bool :=
  if 0x24 ≤ page ∧ page < 0x28 then
    decide ((m.reqs.filter (fun r => decide (r.page = page))).length < 4096) &&
    decide ((m.reqs.filter (fun r => decide (r.xfer.map Prod.fst = some i))).length < 1024)
  else true

/-- A tag for another request of item i toward a node, when one may be sent. -/
def State.tagFor (m : State) (page i node : Nat) : Option Nat := if m.reqRoom page i then m.newTag node else none

/-- Ask for the pieces of a remote range that are neither here nor asked for, while tags are free (R261). -/
def State.ask (m : State) (i stn page a n : Nat) : State :=
  if gNode a = m.nodeId then m
  else (piecesOf a n).foldl (fun m p =>
    let b := m.rbuf i
    if p ∈ b.got ∨ p ∈ b.ask then m
    else match m.tagFor page i (gNode a) with
      | none => m
      | some t =>
        let r := m.sendFlit (m.mkFlit Op.rd 0 (gNode a) stn 0 t 7 (gLocal (256 * p)) [])
        match r.2 with
        | .port x =>
          let rq : Req := ⟨t, x, stn, gNode a, false, page, gLocal (256 * p), some (i, 256 * p), 256⟩
          { r.1.setRbuf i { b with ask := p :: b.ask } with reqs := r.1.reqs ++ [rq] }
        | .here (some y) =>
          if y.op = Op.rdRsp then r.1.pieceIn i p (y.payload.take 256) y.psn else r.1.pieceFails i stn page p
        | _ => r.1.pieceFails i stn page p) m

/-- The request flit of a waiting write under a tag. -/
def State.wreqFlit (m : State) (w : WReq) (t : Nat) : Flit :=
  if w.tagw then m.mkFlit Op.tagw 0 (gNode w.addr) w.stn 0 plainTag 0 (gLocal w.addr) w.bytes
  else { m.mkFlit Op.wr 0 (gNode w.addr) w.stn 0 t (w.bytes.length / 32 - 1) (gLocal w.addr) w.bytes with psn := w.psn }

/-- A waiting write leaves under a tag; a failure at once is recorded by the requesting block (R263). -/
def State.issueWReq (m : State) (w : WReq) (t : Nat) : State :=
  let r := m.sendFlit (m.wreqFlit w t)
  let failed (m : State) : State :=
    m.report { page := w.page, code := Code.access, stn := some w.stn, acc := 1, addr := gLocal w.addr }
  match r.2 with
  | .port p =>
    if w.tagw then r.1
    else { r.1 with reqs := r.1.reqs ++ [⟨t, p, w.stn, gNode w.addr, true, w.page, gLocal w.addr, some (w.item, w.addr), w.bytes.length⟩] }
  | .here (some y) => if y.op = Op.wrAck then r.1 else failed r.1
  | .here none => r.1
  | .failed _ => failed r.1

/-- Writes that wait go, in order within each item, while tags are free (R261); a tag goes behind its block's writes. -/
def State.pumpOut (m : State) : State :=
  (m.outq.foldl (fun (acc : State × List Nat) w =>
    let waits : State × List Nat := ({ acc.1 with outq := acc.1.outq ++ [w] }, w.item :: acc.2)
    if w.item ∈ acc.2 then waits
    else if w.tagw then (acc.1.issueWReq w plainTag, acc.2)
    else match acc.1.tagFor w.page w.item (gNode w.addr) with
      | some t => (acc.1.issueWReq w t, acc.2)
      | none => waits) ({ m with outq := [] }, [])).1

/-- Write bytes to a remote node as WR requests of at most 256 bytes, for item i; p k n: bytes [k, k + n) carry poison. -/
def State.gsend (m : State) (i stn page a : Nat) (bs : List Byte) (p : Nat → Nat → Bool) : State :=
  let ws : List WReq := (piecesOf a bs.length).map (fun x =>
    let s := max a (256 * x)
    let e := min (a + bs.length) (256 * (x + 1))
    let pb := ((List.range 4).map (fun j => if 64 * j < e - s then b2n (p (s - a + 64 * j) (min 64 (e - s - 64 * j))) <<< j else 0)).sum
    (⟨i, stn, page, s, pad32 ((bs.drop (s - a)).take (e - s)), pb, false⟩ : WReq))
  { m with outq := m.outq ++ ws }.pumpOut

/-- TAGW for one whole block at a global address, behind the block's writes (R243). -/
def State.gtag (m : State) (i stn page a t : Nat) : State :=
  let w : WReq := ⟨i, stn, page, a, leBytes t 8 ++ List.replicate 24 0, 0, true⟩
  { m with outq := m.outq ++ [w] }.pumpOut

/-- Every write of item i has been sent and acknowledged. -/
def State.acked (m : State) (i : Nat) : Bool :=
  m.outq.all (fun w => decide (w.item ≠ i)) &&
  m.reqs.all (fun r => !r.write || (match r.xfer with | some x => decide (x.1 ≠ i) | none => true))

/-- Ranges that item i is to read afresh: what has arrived of them is forgotten. -/
def State.forget (m : State) (i : Nat) (rs : List (Nat × Nat)) : State :=
  let b := m.rbuf i
  let ps := rs.flatMap (fun r => if gNode r.1 = m.nodeId then [] else piecesOf r.1 r.2)
  if ps.isEmpty then m else m.setRbuf i { b with got := b.got.filter (fun p => decide (p ∉ ps)) }

/-- Forget what was read ahead for an item. -/
def State.dropBuf (m : State) (i : Nat) : State := { m with rbufs := m.rbufs.set (fun _ => .empty) i .empty }

/-- A request of this module ends in an error: a read's piece is zeros with poison; the requesting block records it. -/
def State.reqError (m : State) (r : Req) (ecode : Nat) : State :=
  let m1 := { m with reqs := m.reqs.filter (fun x => !decide (x.tag = r.tag ∧ x.node = r.node)) }
  let m2 := m1.report
    { page := r.page, code := Code.access, stn := some r.stn, master := 0xFF, acc := b2n r.write, addr := r.addr, detail := 0 }
  let _ := ecode
  match r.xfer with
  | none => m2
  | some (i, off) =>
    match m2.xfer? i with
    | none => if r.write then m2 else m2.pieceIn i (off / 256) (List.replicate 256 0) 15
    | some x =>
      m2.setXfer { x with
        tags := x.tags.filter (fun t => decide (t ≠ r.tag))
        bad := x.bad || !r.write
        psn := if r.write then x.psn else x.psn.splice (off / 32) (r.len / 32) (SMap.ofList 0 (List.replicate (r.len / 32) 1)) }

/-- The answer to a transfer's read: its tag is free and the data and poison are taken. -/
def State.xferData (m : State) (x : Xfer) (r : Req) (bs : List Byte) (psn : Nat) : State :=
  let off := (r.xfer.getD (0, 0)).2
  let ps := (List.range (r.len / 32)).map (fun k => BitVec.ofNat 8 (b2n (psn.testBit (k / 2))))
  m.setXfer { x with
    tags := x.tags.filter (fun t => decide (t ≠ r.tag))
    data := x.data.splice off r.len (SMap.ofList 0 (bs.take r.len))
    psn := x.psn.splice (off / 32) (r.len / 32) (SMap.ofList 0 ps) }

/-- Total bytes of a transfer. -/
def Xfer.total (x : Xfer) : Nat := x.sgen.yield * x.run

/-- The node at the memory end of a transfer. -/
def Xfer.node (x : Xfer) : Nat := gNode (if x.load then x.src else x.dst)

/-- Source and destination address of byte k of a transfer (local parts). -/
def Xfer.srcAt (x : Xfer) (k : Nat) : Nat := x.sgen.addr (gLocal x.src) (k / x.run) + k % x.run
def Xfer.dstAt (x : Xfer) (k : Nat) : Nat := x.dgen.addr (gLocal x.dst) (k / x.run) + k % x.run

/-- Add one block to the DIGEST of station n's open step (R312). -/
def State.digestAdd (m : State) (n off tag : Nat) : State :=
  m.setFld (Reg.sve_DIGEST n) (m.fld (Reg.sve_DIGEST n) + crc64 (leBytes off 8 ++ leBytes tag 8))

/-- off of an HBM block: its offset in the station's range k that holds it, plus k·2^40 (R312, R341). -/
def State.rangeOff (m : State) (n a : Nat) : Nat :=
  match (List.range 4).find? (fun k => m.rangeHas n k (a / 2 ^ 30)) with
  | some k => a - m.fld (Reg.sys_BASE_GIB n k) * 2 ^ 30 + k * 2 ^ 40
  | none => a

/-- TAGW of the whole aligned block that a remote STT's piece ends, with the source block's tag (R243, R302). The block is
an activation offload, which joins the DIGEST with its place at the peer (R312; which off it takes is the model's choice,
log 91). -/
def State.sendTag (m : State) (x : Xfer) (k : Nat) : State :=
  let a := x.dstAt k
  let blk := a / 4096 * 4096
  if (a + 1) % 4096 = 0 ∧ x.run % 4096 = 0 ∧ gLocal (x.dstAt (k / 4096 * 4096)) = blk ∧ x.srcAt (k / 4096 * 4096) % 4096 = 0 then
    let t := m.tag (trayAddr 0 (x.srcAt (k / 4096 * 4096)))
    (m.sendFlit (m.mkFlit Op.tagw 0 x.node x.stn 0 plainTag 0 blk (leBytes t 8 ++ List.replicate 24 0))).1.digestAdd x.stn blk t
  else m

/-- Send the next request of a remote transfer, at most 256 bytes of one run. -/
def State.sendPiece (m : State) (x : Xfer) : State :=
  let k := x.sent
  let n := min 256 (x.run - k % x.run)
  let page := 0x0C + x.q
  match m.newTag x.node with
  | none => m
  | some t =>
    let f := if x.load then m.mkFlit Op.rd 0 x.node x.stn 0 t (n / 32 - 1) (x.srcAt k) []
      else
        let a := trayAddr 0 (x.srcAt k)
        { m.mkFlit Op.wr 0 x.node x.stn 0 t (n / 32 - 1) (x.dstAt k) (m.bytes a n) with psn := m.psnBits a n }
    let r := m.sendFlit f
    let x1 := { x with sent := k + n, tags := x.tags ++ [t] }
    let rq : Req := ⟨t, (match r.2 with | .port p => p | _ => 64), x.stn, x.node, !x.load, page, f.addr, some (x.id, k), n⟩
    let m1 := { r.1.setXfer x1 with reqs := r.1.reqs ++ [rq] }
    let tagged (m : State) : State := if x.load then m else m.sendTag x1 (k + n - 1)
    match r.2 with
    | .port _ => tagged m1
    | .here (some y) =>
      if y.op = Op.errRsp then m1.reqError rq (y.addr % 256)
      else
        let m2 := { m1 with reqs := m1.reqs.erase rq }
        if x.load then m2.xferData x1 rq y.payload y.psn
        else tagged (m2.setXfer { x1 with tags := x1.tags.filter (fun u => decide (u ≠ t)) })
    | .here none => m1.reqError rq 2
    | .failed e => m1.reqError rq e

/-- Send requests of transfer i while tags are free; k bounds the pieces sent now. -/
def State.pump : Nat → Nat → State → State
  | 0, _, m => m
  | k + 1, i, m =>
    match m.xfer? i with
    | none => m
    | some x =>
      if x.node ≠ m.nodeId ∧ x.sent < x.total ∧ (m.newTag x.node).isSome then State.pump k i (m.sendPiece x) else m

end Sys2Proof.Machine
end

