-- ==== Sys2Proof/Machine/Seq.lean ====
section
/-! DEFINITION. The sequencers (R82 to R94): fetching, issuing, stopping and starting recipes, bank swaps, parameter
staging, the recipe boundary's swaps, and the ledger entry a stop writes (R370 to R372). -/

namespace Sys2Proof.Machine

/-! ## The ledger -/

/-- Write a ledger entry of station n at HEAD mod (64·LEN); HEAD advances once it is written whole (R370). -/
def State.ledger (m : State) (n : Nat) (e : LedgerEntry) : State :=
  let base := m.fld (Reg.sys_BASE n) * 4096
  let len := m.fld (Reg.sys_LEN n)
  let head := m.fld (Reg.sys_HEAD n)
  if len = 0 then m
  else
    let a := base + head % (64 * len) * 64
    let total := match e.total with
      | some t => t
      | none => (Config.freeWord m.free).toNat
    let ws := [e.kind + e.master <<< 8 + n <<< 16 + e.reason <<< 20 + head <<< 32, m.now, e.ident, e.done, total,
      e.aux1, e.aux2, 0]
    if m.inHbmRange n a 64 then
      let m1 := { m with free := m.free + b2n e.total.isNone }
      (m1.storeP n a (ws.flatMap (fun w => leBytes w 8)) false 0).landed.setFld (Reg.sys_HEAD n) (head + 1)
    else m.access 0 0xFF (some n) 1 a

/-! ## Sequencer state -/

def State.launch (m : State) (n : Nat) : Option Launch := m.launches.get (fun _ => none) n
def State.setLaunch (m : State) (n : Nat) (l : Option Launch) : State :=
  { m with launches := m.launches.set (fun _ => none) n l }
def State.hold (m : State) (n q : Nat) : Option Hold := m.holds.get (fun _ => none) (4 * n + q)
def State.setHold (m : State) (n q : Nat) (h : Option Hold) : State :=
  { m with holds := m.holds.set (fun _ => none) (4 * n + q) h }

def Launch.has (l : Launch) (q : Nat) : Bool := l.qmask.testBit q

/-- Quadrants of a mask. -/
def quads (mask : Nat) : List Nat := (List.range 4).filter (fun q => mask.testBit q)

/-- Word offset of the next command to issue. PC shows its low 13 bits; a window of 8,192 words has one offset beyond them,
that of the word after its last. -/
def State.pc (m : State) (n q : Nat) : Nat := m.fld (Reg.seq_PC q n) + (if 4 * n + q ∈ m.pcOver then 8192 else 0)

def State.setPc (m : State) (n q v : Nat) : State :=
  let rest := m.pcOver.filter (fun k => decide (k ≠ 4 * n + q))
  { m.setFld (Reg.seq_PC q n) v with pcOver := if 8192 ≤ v then (4 * n + q) :: rest else rest }

/-- Station n's sequencer of quadrant q can issue: a launch runs there, nothing holds it, no GOP of the station waits for
its grant (R85), and the module is not in the safe state (R329). -/
def State.canIssue (m : State) (n q : Nat) : Bool :=
  !m.safe && !m.inReset n && m.gops.all (fun g => decide (g.stn ≠ n) || g.granted) &&
  (match m.launch n with
    | some l => l.has q && !l.ended && l.gang.isNone && (m.hold n q).isNone
    | none => false)

/-- Advance past an issued command; done counts it as completed (CMD_DONE). -/
def State.advance (m : State) (n q : Nat) (done : Bool) : State :=
  let m1 := m.setPc n q (m.pc n q + 1)
  if done then m1.bump (Reg.seq_CMD_DONE q n) 1 else m1

/-- Swap the active bank of station n on quadrant q, ending a pending swap (R90). -/
def State.swapBank (m : State) (n q : Nat) : State :=
  (m.setFld (Reg.seq_ACTIVE q n) (1 - m.fld (Reg.seq_ACTIVE q n))).setFlag (Reg.seq_SWAP_PEND q n) false

/-- Pending swaps of the given quadrants apply. -/
def State.applySwaps (m : State) (n mask : Nat) : State :=
  (quads mask).foldl (fun m q => if m.flag (Reg.seq_SWAP_PEND q n) then m.swapBank n q else m) m

/-- EPOCH_SWAP (R177): a COMPLETE slot with SWAP_PEND exchanges its buffers. -/
def State.epochSwap (m : State) (n t : Nat) : State :=
  if m.flag (Reg.tng_SWAP_PEND 0 n t) ∧ m.fld (Reg.tng_STATE 0 n t) = 3 then
    (((m.setFld (Reg.tng_CUR 0 n t) (1 - m.fld (Reg.tng_CUR 0 n t))).setFld (Reg.tng_EPOCH 0 n t)
      (m.fld (Reg.tng_EPOCH 0 n t) + 1)).setFld (Reg.tng_STATE 0 n t) 0).setFlag (Reg.tng_SWAP_PEND 0 n t) false
  else m

def State.epochSwaps (m : State) (n : Nat) : State := (List.range 16).foldl (fun m t => m.epochSwap n t) m

/-- A recipe of station n stops (R87): every sequencer of the launch stops, the queued launch is cancelled, bank
swaps that wait apply now that no recipe runs, and table swaps too unless a reset stops it (R373), the detecting quadrant
reports RCP_STOP, and the ledger takes one entry a quadrant. -/
def State.stopRecipe (m : State) (n why det : Nat) : State :=
  match m.launch n with
  | none => m
  | some l =>
    let qs := quads l.qmask
    let m1 := qs.foldl (fun m q =>
      (((m.setFlag (Reg.seq_STOP q n) true).setFld (Reg.seq_STOP_WHY q n) why).setFlag (Reg.seq_RUN q n) false).setHold n q none) m
    let m2 := ((m1.setLaunch n none).setFlag (Reg.seq_QUEUED 0 n) false)
    let m3 := { m2 with queued := m2.queued.set (fun _ => none) n none, entrants := m2.entrants }
    let m4 := m3.report
      { page := 0x0C + det, code := Code.rcpStop, stn := some n, master := 0x10 + det, acc := 4, detail := why }
    let m5 := if why = 7 then m4 else qs.foldl (fun m q => m.ledger n
      { kind := 1, master := 0x10 + q, reason := 3, ident := q + m.pc n q <<< 8, done := m.fld (Reg.seq_CMD_DONE q n),
        total := none, aux1 := why, aux2 := m.pc n q }) m4
    let m6 := m5.applySwaps n l.qmask
    if why = 7 then m6 else m6.epochSwaps n

/-- Staged parameter values become live in one step, and their PEND bits clear (R94). -/
def State.applyParams (m : State) (n : Nat) : State :=
  let mine := m.pstage.filter (fun e => decide (e.1 / 256 = n))
  let m1 := mine.foldl (fun m e => m.setFld (Reg.seq_P 0 n (e.1 % 256)) e.2.toNat) m
  let m2 := (List.range 256).foldl (fun m i =>
    if (m.fld (Reg.seq_PEND 0 n (i / 64))).testBit (i % 64) ∧ !(mine.any (fun e => decide (e.1 % 256 = i)))
    then m.setFld (Reg.seq_P 0 n i) 0 else m) m1
  let m3 := (List.range 4).foldl (fun m j => m.setFld (Reg.seq_PEND 0 n j) 0) m2
  { m3 with pstage := m3.pstage.filter (fun e => decide (e.1 / 256 ≠ n)) }

/-- Stage a parameter value (R94). -/
def State.stageParam (m : State) (n i v : Nat) : State :=
  let m1 := { m with pstage := m.pstage.set (fun _ => 0) (256 * n + i) (BitVec.ofNat 64 v) }
  m1.setFld (Reg.seq_PEND 0 n (i / 64)) (m1.fld (Reg.seq_PEND 0 n (i / 64)) ||| 2 ^ (i % 64))

/-- A margin test runs on a die of the mask (R380). -/
def State.marginOnDies (m : State) (mask : Nat) : Bool :=
  m.flag Reg.sys_BUSY_510 && decide (m.fld Reg.sys_DIE &&& mask ≠ 0)

/-- LAUNCH_START (R82, R83): parameters apply, banks optionally swap, and the sequencers fetch at ENTRY. -/
def State.startLaunch (m : State) (n entry mask : Nat) (swap : Bool) : State :=
  let m1 := m.applyParams n
  let m2 := (quads mask).foldl (fun m q => if swap then m.swapBank n q else m) m1
  let m3 := (quads mask).foldl (fun m q =>
    (((((m.setFlag (Reg.seq_RUN q n) true).setFlag (Reg.seq_STOP q n) false).setFld (Reg.seq_STOP_WHY q n) 0).setPc
      n q entry).setFld (Reg.seq_CMD_DONE q n) 0).setHold n q none) m2
  { m3.setLaunch n (some ⟨entry, mask, none, false, false, m3.nextId⟩) with
    lastFirst := m3.lastFirst.set (fun _ => 0) n m3.nextId }

/-- The launch checks of R82. -/
def State.launchOk (m : State) (n entry mask : Nat) : Bool :=
  m.stnOn n && decide (mask ≠ 0) &&
  (quads mask).all (fun q => decide (0 < (m.rcpWin n q).2 ∧ entry < (m.rcpWin n q).2))

/-- A queued launch starts when no recipe of the station runs and no margin test touches its dies. -/
def State.startQueued (m : State) (n : Nat) : State :=
  match m.queued.get (fun _ => none) n with
  | some (entry, mask, swap) =>
    if (m.launch n).isNone ∧ !m.marginOnDies mask then
      (({ m with queued := m.queued.set (fun _ => none) n none }).setFlag (Reg.seq_QUEUED 0 n) false).startLaunch n entry mask swap
    else m
  | none => m

/-- An item of station n belongs to its last launch, running or stopped (R87). -/
def State.ofLaunch (m : State) (n id : Nat) : Bool := decide (m.lastFirst.get (fun _ => 0) n ≤ id)

/-- An item of station n's last launch completes: CMD_DONE counts it, after a stop too (R87, R110). -/
def State.cmdDone (m : State) (n q id : Nat) : State :=
  if m.ofLaunch n id then m.bump (Reg.seq_CMD_DONE q n) 1 else m

/-- The GO of SEQ_LAUNCH, from the register's fields (R82, R83, R367). R83 states two fates for a launch that fails a check
while another is queued: it is refused and recorded here, and LOVR is left as it is (DESIGN CHOICE, log 94). -/
def State.launchGo (m : State) (master n : Nat) : State :=
  let entry := m.fld (Reg.seq_ENTRY 0 n)
  let mask := m.fld (Reg.seq_QMASK 0 n)
  let swap := m.flag (Reg.seq_SWAP_200 0 n)
  let refuse := m.access 0x0C master (some n) 1 (0xF00_0000_0000 + (Reg.seq_ENTRY 0 n).off)
  if m.inReset n ∨ m.safe then refuse
  else if !m.launchOk n entry mask then refuse
  else if m.flag (Reg.seq_QUEUED 0 n) then m.setFlag (Reg.seq_LOVR 0 n) true
  else if (m.launch n).isSome ∨ m.marginOnDies mask then
    ({ m with queued := m.queued.set (fun _ => none) n (some (entry, mask, swap)) }).setFlag (Reg.seq_QUEUED 0 n) true
  else m.startLaunch n entry mask swap

/-- The word at station n's PC on quadrant q, in the active bank. -/
def State.cmdAddr (m : State) (n q : Nat) : Nat :=
  rcpAddr q (m.fld (Reg.seq_ACTIVE q n)) ((m.rcpWin n q).1 + m.pc n q)

def State.cmdWord (m : State) (n q : Nat) : Nat := m.word (m.cmdAddr n q) 32

/-- The next word lies inside the window. -/
def State.inBounds (m : State) (n q : Nat) : Bool := decide (m.pc n q < (m.rcpWin n q).2)

/-- What a local command does once its word is substituted: it waits, it is refused, or it issues. -/
inductive Issue where
  | wait
  | refuse
  | go (m : State)

/-- The common part of every local command (R84 to R87, R93, R232): a poisoned or beyond-window word, or a refused
substitution, stops the recipe; a word of another opcode leaves the command without effect. -/
def State.issueLocal (m : State) (n q opc : Nat) (upset : Bool) (f : State → Nat → Issue) : State :=
  if !m.canIssue n q then m
  else if !m.inBounds n q then m.stopRecipe n 5 q
  else
    let w := m.cmdWord n q
    if w % 256 ≠ opc then m
    else
      let r := m.sramRead (0x0C + q) 0 n (0x10 + q) (m.cmdAddr n q) upset
      if r.1 ∨ m.psnIn (m.cmdAddr n q) 32 then r.2.stopRecipe n 1 q
      else match r.2.substitute n w with
        | none => r.2.stopRecipe n 1 q
        | some w1 =>
          match f r.2 w1 with
          | .wait => m
          | .refuse => r.2.stopRecipe n 1 q
          | .go m1 => m1

/-- The gang word found by GANG_ISSUE, when it has the opcode of the command that issues. -/
def State.gangWord (m : State) (n opc : Nat) : Option (Launch × Nat) :=
  if m.safe || m.inReset n || m.gops.any (fun g => decide (g.stn = n) && !g.granted) then none
  else match m.launch n with
    | some l => (match l.gang with
        | some w => if w.toNat % 256 = opc then some (l, w.toNat) else none
        | none => none)
    | none => none

/-- A gang command has issued: every sequencer moves past it. -/
def State.gangDone (m : State) (n : Nat) (l : Launch) (done : Bool) : State :=
  (quads l.qmask).foldl (fun m q => m.advance n q done) (m.setLaunch n (some { l with gang := none }))

/-- Outstanding LDT and STT of quadrant q's sequencer, whichever station's: it holds at most 16 (R11, R85). -/
def State.xfersAt (m : State) (q : Nat) : List Xfer := m.xfers.filter (fun x => decide (x.q = q))

/-- Outstanding items of station n's sequencer q (all: of the station). -/
def State.xfersOf (m : State) (n q : Nat) (all : Bool) : List Xfer :=
  m.xfers.filter (fun x => decide (x.stn = n) && (all || decide (x.q = q)))
def State.spksOf (m : State) (n q : Nat) (all : Bool) : List Spk :=
  m.spks.filter (fun x => decide (x.stn = n) && (all || decide (x.q = q)))
def State.gopsOf (m : State) (n : Nat) : List Gop := m.gops.filter (fun g => decide (g.stn = n))

/-- Every earlier command of the sequencer has completed (REL of TSG and the dispatches, R105, R106). -/
def State.allDone (m : State) (n q : Nat) : Bool :=
  (m.xfersOf n q false).isEmpty && (m.spksOf n q false).isEmpty && (m.gopsOf n).isEmpty

end Sys2Proof.Machine
end

