-- ==== Sys2Proof/Machine/Barrier.lean ====
section
/-! DEFINITION. Groups and barriers (R264, R282 to R289): the rank tree, entries, arrivals, releases and what a release
does to the entrants. -/

namespace Sys2Proof.Machine

/-- A group entry (R264, R275). -/
structure Group where
  p : Nat
  rank : Nat
  stn : Nat
  list : Nat
  map : Nat
  epoch : Nat
  deriving DecidableEq, Repr

def State.groupWord (m : State) (e w : Nat) : Nat := (m.groups.get (fun _ => 0) (4 * e + w)).toNat

def State.group (m : State) (e : Nat) : Group :=
  let w0 := m.groupWord e 0
  ⟨bitsOf w0 15 0 + 1, bitsOf w0 31 16, bitsOf w0 34 32, m.groupWord e 1 % 2 ^ 44, m.groupWord e 2 % 2 ^ 44, m.groupWord e 3⟩

/-- Node of rank r: list[map[r]] (R264). -/
def State.rankNode (m : State) (g : Group) (r : Nat) : Nat :=
  m.word (g.list + 4 * m.word (g.map + 4 * r) 4) 4 % 2 ^ 20

/-- The map check of R264: entries below P, all different, and RANK names this module. -/
def State.mapOk (m : State) (g : Group) : Bool :=
  let es := (List.range g.p).map (fun r => m.word (g.map + 4 * r) 4)
  es.all (fun e => decide (e < g.p)) && decide es.Nodup && decide (g.rank < g.p) && decide (m.rankNode g g.rank = m.nodeId)

/-- The map of entry e is not checked since its EPOCH changed, and fails the check (R264). -/
def State.mapFails (m : State) (e : Nat) : Bool :=
  let g := m.group e
  decide (m.grpSeen.get (fun _ => 0) e ≠ g.epoch + 1) && !m.mapOk g

/-- The map of entry e has passed its check at its EPOCH (R264). -/
def State.mapPassed (m : State) (e : Nat) : State :=
  { m with grpSeen := m.grpSeen.set (fun _ => 0) e ((m.group e).epoch + 1) }

/-- Children of a rank below P, and its parent (R283). -/
def kids (p r : Nat) : List Nat := ((List.range 16).map (fun i => 16 * r + i + 1)).filter (fun c => decide (c < p))
def parent (r : Nat) : Nat := (r - 1) / 16

/-- The group entry of barrier b, by absolute index. -/
def State.barGroup (m : State) (b : Nat) : Nat :=
  m.fld (Reg.krt_GBASE ((m.barStn b).getD 0)) + m.fld (Reg.tmb_GROUP b)

/-- Send a TMB_MSG of barrier b to a rank: kind 0 ARRIVE, 1 RELEASE (R285). -/
def State.sendBar (m : State) (b kind rank : Nat) : State :=
  let g := m.group (m.barGroup b)
  let addr := kind + m.fld (Reg.tmb_SENSE b) <<< 2 + m.fld (Reg.tmb_BTAG b) <<< 3 + (g.epoch % 65536) <<< 19
  (m.sendFlit (m.mkFlit Op.tmbMsg 2 (m.rankNode g rank) g.stn 0 0 0 addr [])).1

/-- Sequencers held at barrier b: (station, quadrant, counted in the next phase, NOWAIT). -/
def State.heldAt (m : State) (b : Nat) : List (Nat × Nat × Bool × Bool) :=
  m.holds.filterMap (fun e => match e.2 with
    | some (.barrier x next nowait) => if x = b then some (e.1 / 4, e.1 % 4, next, nowait) else none
    | _ => none)

/-- Local release of barrier b (R283): SENSE flips, ADV moves into ARR, and every entrant of the released phase is told;
entrants of the next phase become entrants of the current one, and a NOWAIT entry held for it proceeds. -/
def State.releaseLocal (m : State) (b : Nat) : State :=
  let n := (m.barStn b).getD 0
  let m1 := (((((m.setFld (Reg.tmb_SENSE b) (1 - m.fld (Reg.tmb_SENSE b))).setFld (Reg.tmb_ARR b) (m.fld (Reg.tmb_ADV b))).setFld
    (Reg.tmb_ADV b) 0).setFld (Reg.tmb_KIDS b) 0).setFld (Reg.tmb_UP b) 0).setFld (Reg.tmb_PHASES b) (m.fld (Reg.tmb_PHASES b) + 1)
  let held := m1.heldAt b
  let first := held.filter (fun h => decide (held.find? (fun x => decide (x.1 = h.1)) = some h))
  let m2 := first.foldl (fun m h => if !h.2.2.1 || h.2.2.2 then m.notify (.seq h.1 h.2.1 (1024 + b)) 3 else m) m1
  let m3 := held.foldl (fun m h => if h.2.2.1 && !h.2.2.2 then m.setHold h.1 h.2.1 (some (.barrier b false false)) else m) m2
  let mine := m3.entrants.filter (fun e => decide (e.bar = b) && !e.next)
  let m4 := mine.foldl (fun m e => m.notify (.core n (e.core.getD 64) (b - m.barBase n)) 3) m3
  let rest := m4.entrants.filter (fun e => !decide (e.bar = b) || e.next)
  { m4 with entrants := rest.map (fun e => if e.bar = b then { e with next := false } else e) }

/-- After an entry or an arrival: a complete member sends ARRIVE, a complete root releases the phase, children first
(R283). k bounds the phases one event can complete here. -/
def State.barStep : Nat → Nat → State → State
  | 0, _, m => m
  | k + 1, b, m =>
    let g := m.group (m.barGroup b)
    let ch := kids g.p g.rank
    if m.fld (Reg.tmb_ARR b) = m.fld (Reg.tmb_NLOCAL b) ∧ m.fld (Reg.tmb_KIDS b) = ch.length ∧ m.fld (Reg.tmb_UP b) = 0 then
      if g.rank = 0 then State.barStep k b ((ch.foldl (fun m c => m.sendBar b 1 c) m).releaseLocal b)
      else (m.sendBar b 0 (parent g.rank)).setFld (Reg.tmb_UP b) 1
    else m

/-- How an entry is counted (R284). -/
inductive Entry where
  | current
  | next
  | overrun
  | disabled
  deriving DecidableEq, Repr

def State.entryAt (m : State) (b : Nat) : Entry :=
  let nl := m.fld (Reg.tmb_NLOCAL b)
  if !m.flag (Reg.tmb_EN b) then .disabled
  else if m.fld (Reg.tmb_ARR b) < nl then .current
  else if m.fld (Reg.tmb_ADV b) < nl then .next
  else .overrun

/-- Count an entry. -/
def State.countEntry (m : State) (b : Nat) (e : Entry) : State :=
  match e with
  | .current => m.setFld (Reg.tmb_ARR b) (m.fld (Reg.tmb_ARR b) + 1)
  | .next => m.setFld (Reg.tmb_ADV b) (m.fld (Reg.tmb_ADV b) + 1)
  | _ => m

/-- An entry with both phases full: OVERRUN and BARRIER_OVERRUN (R284). -/
def State.overrun (m : State) (b master : Nat) : State :=
  (m.setFlag (Reg.tmb_OVERRUN b) true).report
    { page := 3, code := Code.barrierOverrun, stn := m.barStn b, master := master, acc := 4 }

/-- A barrier message that R285 drops: counted and reported. -/
def State.barProto (m : State) (p : Nat) : State :=
  (m.bump Reg.tmb_PROTO_CNT 1).report { page := 3, code := Code.barrierProto, master := 0x80 + p, acc := 4 }

/-- The enabled barrier with a BTAG. -/
def State.barByTag (m : State) (tag : Nat) : Option Nat :=
  (List.range 256).find? (fun b => m.flag (Reg.tmb_EN b) && decide (m.fld (Reg.tmb_BTAG b) = tag))

/-- The barrier a TMB_MSG concerns, when R285 lets it apply: sender is the parent (RELEASE) or a child (ARRIVE). -/
def State.barTarget (m : State) (f : Flit) (kind : Nat) : Option Nat :=
  match m.barByTag (bitsOf f.addr 18 3) with
  | none => none
  | some b =>
    let g := m.group (m.barGroup b)
    let okSender := if kind = 0 then (kids g.p g.rank).any (fun c => decide (m.rankNode g c = f.src))
      else decide (g.rank ≠ 0) && decide (m.rankNode g (parent g.rank) = f.src)
    if f.addr % 4 = kind ∧ bitsOf f.addr 34 19 = g.epoch % 65536 ∧ okSender ∧ bitsOf f.addr 2 2 = m.fld (Reg.tmb_SENSE b)
    then some b else none

/-- Clearing EN returns barrier b to idle and releases what it holds (R289): a waiting TBA stops its recipe REFUSED. -/
def State.barIdle (m : State) (b : Nat) : State :=
  let held := m.heldAt b
  let m1 := (((((m.setFlag (Reg.tmb_EN b) false).setFld (Reg.tmb_SENSE b) 0).setFld (Reg.tmb_ARR b) 0).setFld (Reg.tmb_ADV b) 0).setFld
    (Reg.tmb_KIDS b) 0).setFld (Reg.tmb_UP b) 0
  let m2 := { m1 with entrants := m1.entrants.filter (fun e => decide (e.bar ≠ b)) }
  held.foldl (fun m h => m.stopRecipe h.1 1 h.2.1) m2

/-- Whether a write that sets EN of barrier b is refused (R264, R286). -/
def State.barRefused (m : State) (b group btag : Nat) : Bool :=
  let n := (m.barStn b).getD 0
  decide (m.fld (Reg.krt_GNUM n) ≤ group) ||
  (List.range 256).any (fun x => decide (x ≠ b) && m.flag (Reg.tmb_EN x) && decide (m.fld (Reg.tmb_BTAG x) = btag)) ||
  decide (m.fld (Reg.tmb_ARR b) ≠ 0 ∨ m.fld (Reg.tmb_ADV b) ≠ 0 ∨ m.fld (Reg.tmb_KIDS b) ≠ 0) ||
  m.mapFails (m.fld (Reg.krt_GBASE n) + group)

end Sys2Proof.Machine
end

