-- ==== Sys2Proof/Machine/Griddle.lean ====
section
/-! DEFINITION. Griddle operations: the fields of a GOP and the geometry of its region (R56 to R66, R99 to R101), the
issue checks (R102 and the rules it names), operand reads, products and column chains (R38 to R41, R46 to R51), latency
figures the checks use (R69 to R71, R80), and the lanes of a Hinge (R66, R67). -/

namespace Sys2Proof.Machine

/-! ## Fields -/

/-- The fields of a GOP word (R99); a and b are the operand descriptors. -/
structure GopF where
  flow : Nat
  mode : Nat
  split : Bool
  pre : Bool
  pr0 : Nat
  pr1 : Nat
  pc0 : Nat
  pc1 : Nat
  lslot : Nat
  mrows : Nat
  waves : Nat
  a : Nat
  b : Nat
  deriving DecidableEq, Repr

def gopF (w : Nat) : GopF :=
  { flow := bitsOf w 33 32, mode := bitsOf w 36 34, split := bitOf w 37, pre := bitOf w 38, pr0 := bitsOf w 45 39,
    pr1 := bitsOf w 52 46, pc0 := bitsOf w 59 53, pc1 := bitsOf w 66 60, lslot := bitsOf w 70 67, mrows := bitsOf w 94 71,
    waves := bitsOf w 119 95, a := bitsOf w 191 128, b := bitsOf w 255 192 }

def Gop.f (g : Gop) : GopF := gopF g.word.toNat

/-- Operand descriptor fields (R100). -/
def opBase (o : Nat) : Nat := o % 2 ^ 28
def opFmt (o : Nat) : Nat := bitsOf o 31 28
def opAg (o : Nat) : Nat := bitsOf o 37 32
def opSpl (o : Nat) : Nat := bitsOf o 47 38
def opKch (o : Nat) : Nat := bitsOf o 58 48
def opTx (o : Nat) : Nat := bitsOf o 50 48
def opTy (o : Nat) : Nat := bitsOf o 53 51
def opTz (o : Nat) : Nat := bitsOf o 56 54

/-- Products per cell per acyc of a SHORT pairing, OPA first; none is refused (R37, R53). -/
def lanesOf (fa fb : Nat) : Option Nat :=
  let c16 (c : Nat) : Bool := decide (c = 2 ∨ c = 3)
  let c8 (c : Nat) : Bool := decide (4 ≤ c ∧ c ≤ 7)
  let c4 (c : Nat) : Bool := decide (8 ≤ c ∧ c ≤ 10)
  if c16 fa && c16 fb then some 1
  else if c8 fa && (c8 fb || c4 fb) || c4 fa && c8 fb then some 2
  else if c4 fa && c4 fb then some 4
  else if fa = 11 ∧ fb = 11 then some 2
  else if fa = 12 ∧ fb = 11 then some 8
  else if fa = 13 ∧ fb = 11 then some 16
  else none

/-- An integer pairing, by the held operand. -/
def GopF.isInt (f : GopF) : Bool := decide (f.mode = 0 ∧ opFmt f.b = 11)
def GopF.isTb (f : GopF) : Bool := f.isInt && decide (opFmt f.a ≠ 11)

/-- The held operand fills both registers of a cell (INT8 × TB1, R53); every other pairing leaves the shadow register free. -/
def GopF.bothRegs (f : GopF) : Bool := f.isInt && decide (opFmt f.a = 13)

/-- Bits of the held operand in a cell, with its scale byte or class, and the 76-bit registers it takes (R53). -/
def GopF.heldBits (f : GopF) : Nat :=
  match f.mode with
  | 1 => 36 + 2
  | 2 => 54 + 2
  | 3 => 72 + 2
  | _ =>
    let l := (lanesOf (opFmt f.a) (opFmt f.b)).getD 1
    let c := opFmt f.b
    l * bitsOfCode c + (if 4 ≤ c ∧ c ≤ 10 then 8 else 0)

def GopF.heldRegs (f : GopF) : Nat := (f.heldBits + 75) / 76
def GopF.isSlice (f : GopF) : Bool := decide (f.mode ≠ 0)
def GopF.short (f : GopF) : Bool := decide (f.mode = 0) && !f.isInt

def GopF.lanes (f : GopF) : Nat := if f.mode = 0 then (lanesOf (opFmt f.a) (opFmt f.b)).getD 1 else 1

/-- Region height and width in cells (with SPLIT the height of one half). -/
def GopF.h (f : GopF) : Nat := 16 * (f.pr1 + 1 - f.pr0)
def GopF.w (f : GopF) : Nat := 16 * (f.pc1 + 1 - f.pc0)
def GopF.nh (f : GopF) : Nat := if f.split then 2 else 1

/-- Passes in issue order (R47), and slices, headroom and fraction bits of a mode (R46). -/
def passesOf (mode : Nat) : List (Nat × Nat) :=
  match mode with
  | 1 => [(0, 0), (0, 1), (1, 0)]
  | 2 => [(0, 0), (0, 1), (1, 0), (0, 2), (1, 1), (2, 0)]
  | 3 => [(0, 0), (0, 1), (1, 0), (0, 2), (1, 1), (2, 0), (0, 3), (1, 2), (2, 1), (3, 0)]
  | _ => [(0, 0)]

def sliceParams (mode : Nat) : Nat × Int × Nat :=
  match mode with
  | 1 => (2, 10, 23)
  | 2 => (3, -2, 52)
  | _ => (4, 15, 52)

def GopF.p (f : GopF) : Nat := (passesOf f.mode).length
def GopF.kch (f : GopF) : Nat := opKch f.a

/-- The held columns of a tile that is active somewhere in the array. -/
def Gop.heldOf (g : Gop) (t : Nat) : List (List Elem) := ((g.held.find? (fun h => decide (h.1 = t))).map Prod.snd).getD []

/-- Some wave in flight, or the last one injected, runs on tile t. -/
def Gop.holds (g : Gop) (t : Nat) : Bool := g.held.any (fun h => decide (h.1 = t))

/-! ## Quadrants -/

/-- Length of the overlap of [a, a + n) with [b, b + k). -/
def overlap (a n b k : Nat) : Nat := min (a + n) (b + k) - max a b

/-- Region rows and columns that quadrant q holds: count, and index of the first (R58, R101). -/
def GopF.hOf (f : GopF) (q : Nat) : Nat := if f.split then f.h else overlap (16 * f.pr0) f.h (1024 * (q / 2)) 1024
def GopF.wOf (f : GopF) (q : Nat) : Nat := overlap (16 * f.pc0) f.w (1024 * (q % 2)) 1024
def GopF.row0 (f : GopF) (q : Nat) : Nat := if f.split then 0 else 1024 * (q / 2) - 16 * f.pr0
def GopF.col0 (f : GopF) (q : Nat) : Nat := 1024 * (q % 2) - 16 * f.pc0

/-- Quadrants that hold Pans of the region. -/
def GopF.region (f : GopF) : List Nat := (List.range 4).filter (fun q => decide (0 < f.hOf q ∧ 0 < f.wOf q))

/-- Entry quadrants of the row operand (R57). -/
def GopF.entryA (f : GopF) : List Nat := (List.range 4).filter (fun q => decide (0 < f.hOf q ∧ q % 2 = f.pc0 / 64))

/-- Entry quadrants of operand B of an OS operation. -/
def GopF.entryB (f : GopF) : List Nat := (List.range 4).filter (fun q => decide (0 < f.wOf q ∧ q / 2 = f.pr1 / 64))

/-- Ladles the operation drains into (R58). -/
def GopF.ladles (f : GopF) : List Nat :=
  if f.flow = 1 ∨ f.split then f.region else (List.range 4).filter (fun q => decide (0 < f.wOf q ∧ q / 2 = f.pr1 / 64))

/-- Quadrant of region row r and column c of a half. -/
def GopF.quadAt (f : GopF) (half r c : Nat) : Nat :=
  2 * (if f.split then half else (16 * f.pr0 + r) / 1024) + (16 * f.pc0 + c) / 1024

/-- The Ladle that takes column c (of the operation's columns, halves in order) of region row r. -/
def GopF.ladleAt (f : GopF) (r c : Nat) : Nat :=
  if f.flow = 1 then f.quadAt 0 r c
  else 2 * (if f.split then c / f.w else f.pr1 / 64) + (16 * f.pc0 + c % f.w) / 1024

/-- Columns one wave yields. -/
def GopF.cols (f : GopF) : Nat := f.nh * f.w

/-- Held tiles (R102), by OPB yield. -/
def GopF.tiles (f : GopF) (yb : Nat) : Nat := if f.flow = 1 then 0 else yb / f.cols

/-- RS: taps that receive nothing by reuse (R65): position k of the region's H·L positions. -/
def GopF.fresh (f : GopF) (k : Nat) : Bool :=
  decide (k % max 1 (opTx f.b) = opTx f.b - 1) || decide (k + 1 = f.h * f.lanes)

/-- RS: f_q of R101. -/
def GopF.fq (f : GopF) (q : Nat) : Nat :=
  ((List.range (f.hOf q * f.lanes)).filter (fun i => f.fresh (f.row0 q * f.lanes + i))).length

/-- Elements one address of OPA, of OPB, starts in entry quadrant q (R101). -/
def GopF.runA (f : GopF) (q : Nat) : Nat :=
  f.hOf q * f.lanes + (if f.flow = 2 then (f.w - 1) * f.fq q else 0)
def GopF.runB (f : GopF) (q : Nat) : Nat :=
  if f.flow = 1 then f.wOf q * f.lanes else if f.flow = 2 then f.lanes else f.hOf q * f.lanes

/-- Bytes of n elements of a format. -/
def bytesOf (code n : Nat) : Nat := (n * bitsOfCode code + 7) / 8

/-! ## Latency figures -/

/-- Island boundaries and Hinges on a path of cells [a, b) (R15). -/
def islandsOn (a b : Nat) : Nat := (b - 1) / 256 - a / 256
def hingesOn (a b : Nat) : Nat := (b - 1) / 1024 - a / 1024

/-- Path terms shared by T_fill and T_OS (R69, R71): bypasses, boundaries and Hinges of the row operand's path and of the
result's path down to the bottom of the Ladle's quadrant. -/
def GopF.pathCost (f : GopF) (half : Nat) : Nat :=
  let c0 := 16 * f.pc0
  let r0 := 16 * f.pr0 + 1024 * (if f.split then half else 0)
  let edge := c0 / 1024 * 1024
  let bottom := ((r0 + f.h - 1) / 1024 + 1) * 1024
  3 * (islandsOn edge (c0 + f.w) + islandsOn r0 bottom) + 12 * (hingesOn edge (c0 + f.w) + hingesOn r0 bottom) +
    (c0 - edge) / 16 + (bottom - (r0 + f.h)) / 16

/-- T_fill (R69). -/
def GopF.tFill (f : GopF) : Nat :=
  let t (half : Nat) : Nat := (f.w - 1) + (f.h - 1) + f.pathCost half + 32
  if f.split then max (t 0) (t 1) else t 0

/-- T_load (R70). -/
def GopF.tLoad (f : GopF) : Nat :=
  (f.region.map (fun q =>
    let top := 1024 * (q / 2)
    let last := if f.split then 16 * f.pr0 + f.h + 1024 * (q / 2) else min (16 * f.pr0 + f.h) (top + 1024)
    let d := last - top
    d + 3 * islandsOn top last)).foldl max 0 + 16

/-- Occupancy (R80); ovf: some program selects OVF 1. R69 defines T_fill for WS and RS; an OS operation under OVF 1 is charged
the same expression (DESIGN CHOICE, log 93). -/
def GopF.occupancy (f : GopF) (yb : Nat) (ovf : Bool) : Nat :=
  let nt := if f.flow = 1 then (if f.kch * f.h = 0 then 0 else f.waves / (f.kch * f.h)) else f.tiles yb
  f.waves + (if f.flow = 1 then 0 else nt * f.tLoad) + (if ovf then nt * (f.tFill + 24) else 0)

/-! ## Operand elements -/

/-- Element i of the run at Tray offset o of quadrant q, in an operand's format, with its MX scale byte; bad: a granule a
double error poisoned in this read (R36, R100, R232). -/
def State.opElem (m : State) (q od o i : Nat) (bad : Option Nat) : Elem :=
  let c := opFmt od
  let w := bitsOfCode c
  let a := trayAddr q o
  let base : Nat := opBase od % 2 ^ 26
  let e : Int := ((o : Int) - base) * 8 + i * w
  let sa := (((trayAddr q base : Nat) : Int) + opSpl od * 0x1_0000 + e / (32 * max 1 w)).toNat
  let hit := match bad with
    | some gr => decide ((a + i * w / 8) / 32 = gr)
    | none => false
  { code := m.elem a w i, scale := if isMx c then (m.byte sa).toNat else if c ≤ 1 then 0 else 127,
    psn := m.elemPsn a w i || (isMx c && m.psnAt sa) || hit }

/-- The row operand of address number i, by position (halves in order; region row · L + lane). -/
def State.rowElems (m : State) (g : Gop) (i : Nat) (bad : Option Nat) : List Elem :=
  let f := g.f
  let o := g.agA.addr (opBase f.a % 2 ^ 26) i
  (List.range f.nh).flatMap (fun half => (List.range (f.h * f.lanes)).map (fun k =>
    let q := f.quadAt half (k / f.lanes) 0
    m.opElem q f.a o (k - f.row0 q * f.lanes) bad))

/-- RS: values of column c from those of the column before (R65), fresh positions from the run (R101). -/
def State.rsColumn (m : State) (g : Gop) (i c : Nat) (before : List Elem) (bad : Option Nat) : List Elem :=
  let f := g.f
  let o := g.agA.addr (opBase f.a % 2 ^ 26) i
  (List.range (f.h * f.lanes)).map (fun k =>
    if f.fresh k then
      let q := f.quadAt 0 (k / f.lanes) 0
      let k0 := f.row0 q * f.lanes
      let rank := ((List.range (k - k0)).filter (fun x => f.fresh (k0 + x))).length
      m.opElem q f.a o (f.hOf q * f.lanes + (c - 1) * f.fq q + rank) bad
    else before.getD (k + 1) ⟨0, 127, false⟩)

/-- RS: the elements of columns 0 to W − 1 of one wave, one after the other. -/
def State.rsElems (m : State) (g : Gop) (i : Nat) (bad : Option Nat) : List Elem :=
  let r := (List.range (g.f.w - 1)).foldl (fun (acc : List Elem × List Elem) c =>
    let col := m.rsColumn g i (c + 1) acc.2 bad
    (acc.1 ++ col, col)) (m.rowElems g i bad, m.rowElems g i bad)
  r.1

/-- The held columns of tile t (R101): for each column of the operation, its H·L elements. -/
def State.heldElems (m : State) (g : Gop) (t : Nat) : List (List Elem) :=
  let f := g.f
  let base := opBase f.b % 2 ^ 26
  (List.range f.cols).map (fun c => (List.range (f.h * f.lanes)).map (fun k =>
    let q := f.quadAt (c / f.w) (k / f.lanes) (c % f.w)
    if f.flow = 2 then
      let i := min (t * f.h + k / f.lanes) (g.agB.yield - 1)
      m.opElem q f.b (g.agB.addr base i) (k % f.lanes) none
    else m.opElem q f.b (g.agB.addr base (t * f.cols + c)) (k - f.row0 q * f.lanes) none))

/-- OS: operand B of wave w, column · L + lane (R101, R102). -/
def State.osElemsB (m : State) (g : Gop) (w : Nat) (bad : Option Nat) : List Elem :=
  let f := g.f
  let o := g.agB.addr (opBase f.b % 2 ^ 26) (min w (g.agB.yield - 1))
  (List.range (f.w * f.lanes)).map (fun k =>
    let q := 2 * (f.pr1 / 64) + (16 * f.pc0 + k / f.lanes) / 1024
    m.opElem q f.b o (k - f.col0 q * f.lanes) bad)

/-! ## Products and chains -/

/-- An element's value, its scale applied (R36, R38). -/
def Elem.num (e : Elem) (c : Nat) : Num :=
  match fmtOfCode c with
  | some f => if isMx c && decide (e.scale = 255) then .nan
    else if isMx c then (f.decode e.code).scale ((e.scale : Int) - 127) else f.decode e.code
  | none => .ofInt (intOfCode c e.code)

/-- One term of a SHORT floating chain (R40): rnd32(s + rnd32(product)); shift is 16 in a re-issued tile (R153). -/
def chainStep (shift : Int) (acc : Nat × Flags) (xy : Num × Num) : Nat × Flags :=
  let p := Arith.acc.mulNum (xy.1.scale (-shift)) xy.2
  let s := Arith.acc.add acc.1 p.1
  (s.1, (acc.2.or p.2).or s.2)

/-- The column chain of a chunk, top row first and lanes in order, from +0. -/
def chainShort (shift : Int) (xs ys : List Num) : Nat × Flags := (xs.zip ys).foldl (chainStep shift) (0, .none)

/-- The exact chain of an integer pairing (R41). -/
def chainInt (ca cb : Nat) (xs ys : List Elem) : Int :=
  ((xs.zip ys).map (fun e => intOfCode ca e.1.code * intOfCode cb e.2.code)).sum

/-- The chunk exponent: the largest exponent of a finite non-zero element, the smallest normal exponent without one
(R46). Subnormals count at the smallest normal exponent. -/
def chunkExp (f : Fmt) (xs : List Num) : Int :=
  let es := xs.filterMap (fun x => match x with
    | .fin _ mm e => if mm = 0 then none else some (max (expOf mm e) f.emin)
    | _ => none)
  match es with
  | [] => f.emin
  | e :: t => t.foldl max e

/-- Slice i of an element aligned to the chunk exponent (R46). -/
def sliceOf (mode : Nat) (f : Fmt) (x : Num) (ec : Int) (i : Nat) : Int :=
  let (n, hd, fb) := sliceParams mode
  match x with
  | .fin s mm e =>
    if mm = 0 then 0
    else
      let _ := f
      let sh := e - (ec - fb - hd)
      let a : Int := if 0 ≤ sh then ((mm <<< sh.toNat : Nat) : Int) else ((mm >>> (-sh).toNat : Nat) : Int)
      let v : Int := if s then -a else a
      let d : Int := 2 ^ (17 * (n - 1 - i))
      if i = 0 then v / d else (v / d) % 2 ^ 17
  | _ => 0

/-- The class a product of two elements adds to a slice-mode column (R51): NaN, +∞, −∞. -/
def prodClass (x y : Num) : Bool × Bool × Bool :=
  match x, y with
  | .nan, _ => (true, false, false)
  | _, .nan => (true, false, false)
  | .inf s, .inf t => (false, s == t, s != t)
  | .inf s, .fin t mm _ => if mm = 0 then (true, false, false) else (false, s == t, s != t)
  | .fin t mm _, .inf s => if mm = 0 then (true, false, false) else (false, s == t, s != t)
  | _, _ => (false, false, false)

/-- The combined value S′ of slice terms in units of 2^(A − 175), and A (R48). -/
def combine (mode : Nat) (ts : List Term) : Int × Int :=
  let (n, hd, fb) := sliceParams mode
  match ts with
  | [] => (0, 0)
  | t0 :: _ =>
    let a := ts.foldl (fun a t => max a (t.ea + t.eb)) (t0.ea + t0.eb)
    let term (t : Term) : Int :=
      let e : Int := 17 * (2 * (n : Int) - 2 - t.i - t.j) + (t.ea - fb - hd) + (t.eb - fb - hd)
      let sh := e - (a - 175)
      if 0 ≤ sh then t.sum * 2 ^ sh.toNat else t.sum / 2 ^ (-sh).toNat
    ((ts.map term).sum, a)

/-- Nearest value of a format with ties resolved toward −∞ or +∞, an infinity past the overflow threshold (for R50). -/
def nearestDir (f : Fmt) (up : Bool) (x e : Int) : Num :=
  let neg := decide (x < 0)
  let mm := x.natAbs
  if mm = 0 then .fin false 0 0
  else
    let qe := max (expOf mm e - f.fb) (f.emin - f.fb)
    let q :=
      if qe ≤ e then mm <<< (e - qe).toNat
      else
        let d := (qe - e).toNat
        let rem := mm % 2 ^ d
        let away := decide (2 ^ d < 2 * rem) || (decide (2 * rem = 2 ^ d) && (up != neg))
        mm >>> d + b2n away
    if leMag q qe f.maxSig (f.emax - f.fb) then .fin neg q qe else .inf neg

/-- RA (R50): the closed interval [S′ − Δ, S′ + Δ] holds a rounding boundary of the format. -/
def roundAmbiguous (f : Fmt) (ts : List Term) : Bool :=
  let (s, a) := combine 3 ts
  let chunks := ts.filter (fun t => decide (t.i = 0 ∧ t.j = 0))
  let low := chunks.foldl (fun b t => min b (t.ea + t.eb - 63)) (a - 175)
  let scale (v : Int) (e : Int) : Int := v * 2 ^ (e - low).toNat
  let delta := (chunks.map (fun t => scale (t.n : Int) (t.ea + t.eb - 63))).sum + scale (10 * chunks.length) (a - 175)
  let sv := scale s (a - 175)
  Num.lt (nearestDir f false (sv - delta) low) (nearestDir f true (sv + delta) low)

/-! ## Lanes (R66, R67)

A Hinge holds no state that a command could find later: R14's holds and R13's credits change when an item crosses and never
what it carries, and a wave or partial sum in flight is kept whole in the operation that owns it. The words its lanes carry
follow. -/

/-- Class of an element in a slice lane: finite, +∞, NaN, −∞ (R67). -/
def classCode (x : Num) : Nat :=
  match x with
  | .fin _ _ _ => 0
  | .inf s => if s then 3 else 1
  | .nan => 2

/-- A row-operand lane of a SHORT operation: L elements packed, the scale byte, the wave tag, poison (R67). -/
def rowLane (code : Nat) (es : List Elem) (tag : Nat) : Nat :=
  let w := bitsOfCode code
  (es.zipIdx.map (fun e => (e.1.code % 2 ^ w) <<< (w * e.2))).sum % 2 ^ 24 +
    ((es.map (fun e => e.scale)).headD 127 % 256) <<< 24 + (tag % 4) <<< 33 + b2n (es.any (fun e => e.psn)) <<< 35

/-- A row-operand lane of a slice mode: the slice of a pass, and the element's class. -/
def sliceLane (mode : Nat) (f : Fmt) (x : Num) (ec : Int) (i tag : Nat) (psn : Bool) : Nat :=
  wrapInt (sliceOf mode f x ec i) 18 + classCode x <<< 18 + (tag % 4) <<< 33 + b2n psn <<< 35

/-- A floating partial with its flags, as a partial-sum lane carries it: OF travels in the fraction of an infinity or NaN,
NV is implied by a NaN, UF has a bit of its own. -/
def partialLane (v : Nat) (fl : Flags) (tag : Nat) (psn : Bool) : Nat :=
  let x := match Fmt.fp32.decode v with
    | .nan => 0x7FC0_0000 + b2n fl.of
    | .inf _ => v + b2n fl.of
    | .fin _ _ _ => v
  x % 2 ^ 32 + b2n fl.uf <<< 32 + (tag % 4) <<< 33 + b2n psn <<< 35

/-- What the Ladle reads from a floating partial's lane: the canonical value and its flags. -/
def ofPartialLane (w : Nat) : Nat × Flags :=
  let x := w % 2 ^ 32
  match Fmt.fp32.decode x with
  | .nan =>
    if x % 2 ^ 23 = 1 then (x - 1, { of := true, uf := bitOf w 32 })
    else (0x7FC0_0000, { nv := true, of := decide (x % 2 ^ 23 = 0x40_0001), uf := bitOf w 32 })
  | _ => (x, { uf := bitOf w 32 })

/-- A chain value of the integer and slice modes at a Hinge: its low 30 bits and classes cross, and the Ladle above sends the
high part to the one below (R68). -/
def chainLow (v : Int) : Nat := wrapInt v 30
def chainHigh (v : Int) : Int := v / 2 ^ 30
def chainJoin (high : Int) (low : Int) : Int := high * 2 ^ 30 + low

/-! ## Issue checks (R102) -/

/-- Tray intervals an operand reads in quadrant q, its scale plane included; none where one leaves the quadrant (R28). -/
def operandIvls (f : GopF) (od : Nat) (ag : GenSlot) (run : Nat) (q : Nat) : List (Option Ivl) :=
  let _ := f
  let c := opFmt od
  let base : Nat := opBase od % 2 ^ 26
  let nb := bytesOf c run
  match ag.trayBound base nb with
  | none => [none]
  | some (lo, len) =>
    let iv : Ivl := ⟨q * 2 ^ 26 + lo, len, false⟩
    if isMx c then
      let w := bitsOfCode c
      let s0 : Int := base + opSpl od * 0x1_0000 + ((lo : Int) - base) * 8 / (32 * w)
      let s1 : Int := base + opSpl od * 0x1_0000 + ((lo : Int) + len - 1 - base) * 8 / (32 * w)
      if s0 < 0 ∨ 2 ^ 26 ≤ s1 then [some iv, none] else [some iv, some ⟨q * 2 ^ 26 + s0.toNat, (s1 + 1 - s0).toNat, false⟩]
    else [some iv]

/-- Every operand interval of the operation. -/
def GopF.operands (f : GopF) (ga gb : GenSlot) : List (Option Ivl) :=
  (f.entryA.flatMap (fun q => operandIvls f f.a ga (f.runA q) q)) ++
  ((if f.flow = 1 then f.entryB else f.region).flatMap (fun q => operandIvls f f.b gb (f.runB q) q))

/-- An interval of Tray addresses lies in the station's window. -/
def State.inTray (m : State) (n : Nat) (i : Ivl) : Bool :=
  inWin (m.trayWin n (i.lo / 2 ^ 26)) (i.lo % 2 ^ 26) i.len && decide (i.lo % 2 ^ 26 + i.len ≤ 2 ^ 26)

/-- The checks of R37, R53, R56, R60, R63, R65, R99, R100 and R102 that the word alone decides. -/
def GopF.wordOk (f : GopF) : Bool :=
  decide (f.flow ≤ 2) && decide (f.mode ≤ 3) && decide (f.pr0 ≤ f.pr1) && decide (f.pc0 ≤ f.pc1) &&
  (match f.mode with
    | 0 => (lanesOf (opFmt f.a) (opFmt f.b)).isSome
    | 1 => decide (opFmt f.a = 1 ∧ opFmt f.b = 1)
    | _ => decide (opFmt f.a = 0 ∧ opFmt f.b = 0)) &&
  (!f.split || decide (f.flow = 0 ∧ f.pr1 ≤ 63)) &&
  decide (f.flow ≠ 1 ∨ (f.mode = 0 ∧ f.isTb = false)) &&
  decide (f.flow ≠ 2 ∨ f.isTb = false) &&
  decide (f.flow ≠ 2 ∨ (1 ≤ opTx f.b ∧ opTx f.b ≤ 7 ∧ 1 ≤ opTy f.b ∧ opTy f.b ≤ 7 ∧ 1 ≤ opTz f.b ∧ opTz f.b ≤ 7)) &&
  decide (opBase f.a < 2 ^ 26) && decide (opBase f.b < 2 ^ 26) &&
  decide (1 ≤ f.kch ∧ f.kch ≤ 1024) && decide (1 ≤ f.waves ∧ f.waves ≤ 16777216) &&
  (!f.isSlice || decide (f.pr0 % 2 = 0 ∧ f.pr1 % 2 = 1))

/-- The yield checks of R102. The OPB yield's multiple of W (2W with SPLIT) carries no condition on FLOW, so it binds OS too. -/
def GopF.yieldOk (f : GopF) (yb : Nat) : Bool :=
  decide (yb % f.cols = 0) &&
  (if f.flow = 1 then decide (f.waves % (f.kch * f.h) = 0 ∧ yb = f.waves) else decide (f.waves = f.p * f.mrows * f.tiles yb))

/-- Everything R102 checks about the operands, the region, the quadrants and the occupancy. -/
def State.gopOperandsOk (m : State) (n : Nat) (l : Launch) (f : GopF) (ga gb : GenSlot) (ovf : Bool) : Bool :=
  f.wordOk && f.yieldOk gb.yield &&
  f.region.all (fun q => l.has q) &&
  decide (f.occupancy gb.yield ovf ≤ m.fld (Reg.grd_GRD_OP_MAX 0)) &&
  decide (0 < m.fld (Reg.sys_GRD_WEIGHT n)) &&
  (f.operands ga gb).all (fun o => match o with
    | none => false
    | some i => m.inTray n i)

end Sys2Proof.Machine
end

