-- ==== Sys2Proof/Machine/Clock.lean ====
section
/-! DEFINITION. The array clock (R17, R386, R390, R394): its limits, and the moment a change applies. -/

namespace Sys2Proof.Machine

/-- No operation holds the array: a clock change applies at once (R17). -/
def State.arrayIdle (m : State) : Bool := m.gops.all (fun g => !g.granted)

/-- Limits that wait for an operation boundary fall there: thermal by 100 MHz, at most once per 10 ms, and power by
25 MHz; neither below the lowest clock. -/
def State.dropLimits (m : State) : State :=
  let p := m.power
  let p1 := if p.thermActive ∧ (p.lastDrop = 0 ∨ p.lastDrop + 10_000_000 ≤ m.now)
    then { p with thermLim := max 800 (p.thermLim - 100), lastDrop := m.now } else p
  let p2 := if p1.powerDrop then { p1 with powerLim := max 800 (p1.powerLim - 25), powerDrop := false } else p1
  { m with power := p2 }

/-- The array clock is the lowest of request, power limit and thermal limit; LIM_WHY names the lowest (R394). -/
def State.setClock (m : State) : State :=
  let req := m.fld Reg.pwr_ARRAY_REQ
  let p := m.power
  let lim := min p.powerLim p.thermLim
  let why := if req < lim then 1 else if p.powerLim < p.thermLim then 2 else if p.thermLim < 1350 then 3 else 0
  let m1 := m.setFld Reg.pwr_ARRAY_LIM lim
  if m1.flag Reg.pwr_COMPUTE_GOOD ∧ !m1.flag Reg.sys_BUSY_510 then
    (m1.setFld Reg.pwr_ARRAY_CUR (min req lim)).setFld Reg.pwr_LIM_WHY why
  else m1

/-- DVFS_CHANGE (R17): limits that wait fall and the clock follows, with no wave in flight. -/
def State.dvfs (m : State) : State := if m.arrayIdle then m.dropLimits.setClock else m

end Sys2Proof.Machine
end

