-- ==== Sys2Proof/Machine/Linear.lean ====
section
/-! DEFINITION. The Mortar's linear algebra in FP64 (R187, R188): sums of fused multiply-adds in increasing index, normal
equations of dense and of block Jacobians, Cholesky with its breakdown test, Householder QR in blocks of 16 rows, the Schur
complement, triangular solves, the vector norms of R191, and how many fused multiply-adds each takes (R200). Vectors are
lists of FP64 bits. -/

namespace Sys2Proof.Machine

/-- Σ a_k · b_k from an initial value, fused, in increasing k: bits and whether an operation was invalid. -/
def fdot (init : Nat) (a b : List Nat) : Nat × Bool :=
  (a.zip b).foldl (fun acc e =>
    let r := Arith.f64.fma e.1 e.2 acc.1
    (r.1, acc.2 || r.2.nv)) (init, false)

def fneg (v : Nat) : Nat := Arith.f64.neg v
def fadd (a b : Nat) : Nat := (Arith.f64.add a b).1
def fsub (a b : Nat) : Nat := (Arith.f64.sub a b).1
def fmul (a b : Nat) : Nat := (Arith.f64.mul a b).1
def fdiv (a b : Nat) : Nat := (Arith.f64.div a b).1

/-- v · 2^k, rounded once where it leaves the normal range. -/
def fscale (v : Nat) (k : Int) : Nat := (Fmt.fp64.convert .ne false ((Fmt.fp64.decode v).scale k)).1

def fnan (v : Nat) : Bool := decide (Fmt.fp64.decode v = .nan)
def fabs (v : Nat) : Nat := v % 2 ^ 63

/-- The larger of two magnitudes; a NaN wins. -/
def fmaxAbs (a b : Nat) : Nat := if fnan a then a else if fnan b then b else if Fmt.fp64.lt (fabs a) (fabs b) then fabs b else fabs a

/-- ‖v‖∞ and ‖v‖₂. -/
def normInf (v : List Nat) : Nat := v.foldl fmaxAbs 0
def norm2 (v : List Nat) : Nat := (Arith.f64.sqrt (fdot 0 v v).1).1

/-- ½·Σ r_i² (R187). -/
def costOf (r : List Nat) : Nat × Bool :=
  let s := fdot 0 r r
  (fscale s.1 (-1), s.2)

/-- Column j of a matrix given by rows. -/
def matCol (a : List (List Nat)) (j : Nat) : List Nat := a.map (fun r => r.getD j 0)

/-- JᵀJ and Jᵀr of a dense J, each sum over the rows in increasing index. -/
def gram (n : Nat) (j : List (List Nat)) : List (List Nat) × Bool :=
  let cols := (List.range n).map (matCol j)
  let rows := cols.map (fun c => cols.map (fun e => fdot 0 c e))
  (rows.map (fun r => r.map Prod.fst), rows.any (fun r => r.any Prod.snd))

def gradOf (n : Nat) (j : List (List Nat)) (r : List Nat) : List Nat × Bool :=
  let g := (List.range n).map (fun k => fdot 0 (matCol j k) r)
  (g.map Prod.fst, g.any Prod.snd)

/-- A residual block of a block Jacobian: its block columns, each with its rows. -/
abbrev BlockRow := List (Nat × List (List Nat))

/-- Values of a residual block in parameter k of block column c: one list for each time the block names the column. -/
def BlockRow.col (b : BlockRow) (c k : Nat) : List (List Nat) := (b.filter (fun e => decide (e.1 = c))).map (fun e => matCol e.2 k)

/-- Fused sums over lists of factors, one list after another. -/
def fdots (init : Nat × Bool) (ps : List (List Nat × List Nat)) : Nat × Bool :=
  ps.foldl (fun acc e => let r := fdot acc.1 e.1 e.2; (r.1, acc.2 || r.2)) init

/-- JᵀJ of a block Jacobian over its parameters (block column and index in it): each element sums over the residual blocks
that touch both block columns, in increasing block index. -/
def gramB (ps : List (Nat × Nat)) (bs : List BlockRow) : List (List Nat) × Bool :=
  let rows := ps.map (fun p => ps.map (fun q =>
    fdots (0, false) (bs.flatMap (fun b => (b.col p.1 p.2).flatMap (fun u => (b.col q.1 q.2).map (fun v => (u, v)))))))
  (rows.map (fun r => r.map Prod.fst), rows.any (fun r => r.any Prod.snd))

/-- Jᵀr of a block Jacobian, br residuals to a block. -/
def gradB (ps : List (Nat × Nat)) (bs : List BlockRow) (r : List Nat) (br : Nat) : List Nat × Bool :=
  let g := ps.map (fun p => fdots (0, false) (bs.zipIdx.flatMap (fun b => (b.1.col p.1 p.2).map (fun u => (u, (r.drop (b.2 * br)).take br)))))
  (g.map Prod.fst, g.any Prod.snd)

/-- D: the diagonal, each element raised to at least DMIN (R188). -/
def diagOf (h : List (List Nat)) (dmin : Nat) : List Nat :=
  h.zipIdx.map (fun e => let v := e.1.getD e.2 0; if Fmt.fp64.lt v dmin then dmin else v)

/-- A = H + λ·D, one fused operation per diagonal element. -/
def damped (h : List (List Nat)) (d : List Nat) (lam : Nat) : List (List Nat) :=
  h.zipIdx.map (fun e => e.1.zipIdx.map (fun v => if v.2 = e.2 then (Arith.f64.fma lam (d.getD e.2 0) v.1).1 else v.1))

/-- The pivot threshold: 2^-44 times the largest diagonal element. -/
def pivotLimit (a : List (List Nat)) : Nat :=
  fscale ((a.zipIdx.map (fun e => e.1.getD e.2 0)).foldl (fun b v => if Fmt.fp64.lt b v then v else b) 0) (-44)

/-- A Cholesky factor in the making: its rows so far, and the pivot that broke it down. -/
structure Chol where
  rows : List (List Nat)
  broke : Option Nat
  deriving DecidableEq, Repr

/-- A sum a − Σ u_k·v_k over the indices k < n that the pattern has in row i. -/
def fminus (use : Nat → Bool) (a : Nat) (u v : List Nat) : Nat :=
  ((u.zip v).zipIdx.foldl (fun acc e => if use e.2 then (Arith.f64.fma (fneg e.1.1) e.1.2 acc).1 else acc) a)

/-- Off-diagonal elements of row i of the factor, given the rows above; an element outside the pattern is zero and takes
part in no sum. -/
def cholRow (use : Nat → Nat → Bool) (i : Nat) (l : List (List Nat)) (a : List Nat) : List Nat :=
  l.zipIdx.foldl (fun acc e =>
    acc ++ [if use i e.2 then fdiv (fminus (fun k => use i k && use e.2 k) (a.getD e.2 0) acc e.1) (e.1.getD e.2 0) else 0]) []

/-- Cholesky of a symmetric matrix with a pattern of nonzero elements, up to a pivot at or below the limit or no number
(R188). -/
def cholRun (use : Nat → Nat → Bool) (a : List (List Nat)) : Chol :=
  let lim := pivotLimit a
  a.zipIdx.foldl (fun (acc : Chol) e =>
    if acc.broke.isSome then acc
    else
      let off := cholRow use e.2 acc.rows e.1
      let s := fminus (use e.2) (e.1.getD e.2 0) off off
      if fnan s || Fmt.fp64.le s lim then { acc with broke := some s }
      else { acc with rows := acc.rows ++ [off ++ [(Arith.f64.sqrt s).1]] }) ⟨[], none⟩

/-- The pattern of a dense matrix. -/
def dense (_ _ : Nat) : Bool := true

/-- The factor, none on a breakdown. -/
def Chol.factor (c : Chol) : Option (List (List Nat)) := if c.broke.isSome then none else some c.rows

/-- The pivot that broke it down is not finite (R198 NV). -/
def Chol.nonfinite (c : Chol) : Bool := c.broke.any (fun s => !Fmt.fp64.isFinite s)

/-- Cholesky of a dense symmetric matrix; none on a breakdown. -/
def cholesky (a : List (List Nat)) : Option (List (List Nat)) := (cholRun dense a).factor

/-- L·y = b. -/
def forwardL (use : Nat → Nat → Bool) (l : List (List Nat)) (b : List Nat) : List Nat :=
  l.zipIdx.foldl (fun y e => y ++ [fdiv (fminus (use e.2) (b.getD e.2 0) y e.1) (e.1.getD e.2 0)]) []

/-- Lᵀ·x = y. -/
def backwardL (use : Nat → Nat → Bool) (l : List (List Nat)) (y : List Nat) : List Nat :=
  let n := l.length
  (List.range n).foldl (fun x k =>
    let i := n - 1 - k
    let col := (l.drop (i + 1)).map (fun r => r.getD i 0)
    fdiv (fminus (fun j => use (i + 1 + j) i) (y.getD i 0) x col) ((l.getD i []).getD i 0) :: x) []

/-- A·x = b by the factor of A. -/
def cholSolveP (use : Nat → Nat → Bool) (l : List (List Nat)) (b : List Nat) : List Nat := backwardL use l (forwardL use l b)
def cholSolve (l : List (List Nat)) (b : List Nat) : List Nat := cholSolveP dense l b

/-! ## Householder QR in blocks of 16 rows -/

/-- A column of the streamed triangle is cleared below its diagonal by one reflection of row k of R and the block's rows;
rows are n + 1 long, the last column being the right side. The reflection takes the sign that adds to the diagonal element,
and is applied as v·(2·(vᵀc)/(vᵀv)) (DESIGN CHOICE, log 40: R188 names the method alone). -/
def qrCol (n k : Nat) (st : List (List Nat) × List (List Nat)) : List (List Nat) × List (List Nat) :=
  let top := st.1.getD k []
  let x0 := top.getD k 0
  let xs := st.2.map (fun r => r.getD k 0)
  let nrm := norm2 (x0 :: xs)
  if Fmt.fp64.le nrm 0 then st
  else
    let alpha := if Fmt.fp64.lt x0 0 then nrm else fneg nrm
    let v := fsub x0 alpha :: xs
    let vv := (fdot 0 v v).1
    let step (rows : List (List Nat)) (j : Nat) : List (List Nat) :=
      let t := fdiv (fmul 0x4000_0000_0000_0000 (fdot 0 v (matCol rows j)).1) vv
      rows.zipIdx.map (fun r => r.1.set j (Arith.f64.fma (fneg t) (v.getD r.2 0) (r.1.getD j 0)).1)
    let rows := ((List.range (n - k)).map (fun j => k + 1 + j)).foldl step (top :: st.2)
    (st.1.set k ((rows.headD []).set k alpha), (rows.drop 1).map (fun r => r.set k 0))

/-- At most m rows at a time. -/
def chunksOf (m : Nat) : Nat → List (List Nat) → List (List (List Nat))
  | 0, _ => []
  | fuel + 1, l => if l.isEmpty then [] else l.take m :: chunksOf m fuel (l.drop m)

/-- R, and Qᵀ of the right side, of rows streamed in blocks of 16. -/
def qrOf (n : Nat) (rows : List (List Nat)) : List (List Nat) × List Nat :=
  let r := (chunksOf 16 rows.length rows).foldl (fun r b => ((List.range n).foldl (fun s k => qrCol n k s) (r, b)).1)
    (List.replicate n (List.replicate (n + 1) 0))
  (r.map (fun x => x.take n), r.map (fun x => x.getD n 0))

/-- The lower triangle Rᵀ of a square R, row by row. -/
def lowerOf (r : List (List Nat)) : List (List Nat) :=
  (List.range r.length).map (fun i => (List.range (i + 1)).map (fun j => (r.getD j []).getD i 0))

/-- Rows of [J; √λ·D^½] with the right side −r, and zero beside the damping rows. -/
def qrRows (n : Nat) (j : List (List Nat)) (r d : List Nat) (lam : Nat) : List (List Nat) :=
  let s := (Arith.f64.sqrt lam).1
  (j.zip r).map (fun e => e.1 ++ [fneg e.2]) ++
    (List.range n).map (fun i => (List.replicate (n + 1) 0).set i (fmul s (Arith.f64.sqrt (d.getD i 0)).1))

/-! ## The Schur complement -/

/-- A square or oblong part of a matrix. -/
def partOf (a : List (List Nat)) (r0 rn c0 cn : Nat) : List (List Nat) := ((a.drop r0).take rn).map (fun r => (r.drop c0).take cn)

/-- The inverse of a matrix by its Cholesky factor, column by column; symmetric. -/
def cholInv (l : List (List Nat)) : List (List Nat) :=
  let n := l.length
  (List.range n).map (fun k => cholSolve l ((List.replicate n 0).set k 0x3FF0_0000_0000_0000))

/-- A matrix times a vector, and times a symmetric matrix. -/
def matVec (a : List (List Nat)) (v : List Nat) : List Nat := a.map (fun r => (fdot 0 r v).1)
def matMul (a s : List (List Nat)) : List (List Nat) := a.map (fun r => s.map (fun c => (fdot 0 r c).1))

/-- SCHUR: eliminated blocks in increasing order, each inverted by Cholesky and subtracted from the reduced matrix, which
begins as the kept part of A; then the Cholesky of what remains. With it, whether a pivot was not finite. -/
def schurOf (nc bp npb : Nat) (a : List (List Nat)) : Option Factor × Bool :=
  let s := (List.range npb).foldl (fun (acc : List (List Nat) × List (List (List Nat)) × List (List (List Nat)) × Option Bool) e =>
    if acc.2.2.2.isSome then acc
    else
      let o := nc + e * bp
      let c := cholRun dense (partOf a o bp o bp)
      match c.factor with
      | none => (acc.1, acc.2.1, acc.2.2.1, some c.nonfinite)
      | some l =>
        let inv := cholInv l
        let cp := partOf a 0 nc o bp
        let t := matMul cp inv
        let red := acc.1.zipIdx.map (fun r => r.1.zipIdx.map (fun v => fminus (fun _ => true) v.1 (t.getD r.2 []) (cp.getD v.2 [])))
        (red, acc.2.1 ++ [inv], acc.2.2.1 ++ [cp], none)) (partOf a 0 nc 0 nc, [], [], none)
  match s.2.2.2 with
  | some nv => (none, nv)
  | none =>
    let c := cholRun dense s.1
    (c.factor.map (fun l => ⟨[], [], l, s.2.1, s.2.2.1⟩), c.nonfinite)

/-- δ_c and δ_p of A·δ = b under SCHUR. -/
def schurSolve (nc bp : Nat) (f : Factor) (b : List Nat) : List Nat :=
  let bOf (e : Nat) : List Nat := (b.drop (nc + e * bp)).take bp
  let bc := f.inv.zipIdx.foldl (fun acc e =>
    let y := matVec e.1 (bOf e.2)
    acc.zipIdx.map (fun v => fminus (fun _ => true) v.1 ((f.cp.getD e.2 []).getD v.2 []) y)) (b.take nc)
  let dc := cholSolve f.l bc
  dc ++ f.inv.zipIdx.flatMap (fun e =>
    let cp := f.cp.getD e.2 []
    matVec e.1 ((bOf e.2).zipIdx.map (fun v => fminus (fun _ => true) v.1 (matCol cp v.2) dc)))

/-! ## Fused multiply-adds (R200) -/

/-- Of a Cholesky of order n, of a pair of triangular solves, and of a Schur complement. -/
def fmaChol (n : Nat) : Nat := (n ^ 3 - n) / 6
def fmaPair (n : Nat) : Nat := n ^ 2 - n
def fmaSchur (nc bp npb : Nat) : Nat :=
  npb * (fmaChol bp + bp * fmaPair bp + nc * bp ^ 2 + nc * (nc + 1) / 2 * bp) + fmaChol nc
def fmaSchurSolve (nc bp npb : Nat) : Nat := fmaPair nc + npb * (2 * bp ^ 2 + 2 * nc * bp)

/-- Rows and columns of a matrix, and elements of a vector, in an order of indices. -/
def permMat (a : List (List Nat)) (o : List Nat) : List (List Nat) := o.map (fun i => o.map (fun j => (a.getD i []).getD j 0))
def permVec (v : List Nat) (o : List Nat) : List Nat := o.map (fun i => v.getD i 0)
def unpermVec (n : Nat) (v : List Nat) (o : List Nat) : List Nat := (List.range n).map (fun i => v.getD (o.idxOf i) 0)

/-- Block pattern of a factor (lower triangle with its diagonal) after fill, from the pattern of the matrix in elimination
order: pairs (row, column). -/
def fillOf (n : Nat) (pat : List (Nat × Nat)) : List (Nat × Nat) :=
  (List.range n).foldl (fun p k =>
    let below := ((p.filter (fun e => decide (e.2 = k ∧ k < e.1))).map Prod.fst).dedup
    (p ++ below.flatMap (fun i => (below.filter (fun j => decide (j ≤ i))).map (fun j => (i, j)))).dedup) pat

end Sys2Proof.Machine
end

