-- ==== Sys2Proof/Machine/Act.lean ====
section
/-! DEFINITION. Stage 5's functions (R120, R121): each exact function evaluated far beyond FP32 precision, and the part's
fixed mapping, which stays within the ulp bound of R121 and is otherwise free. -/

namespace Sys2Proof.Machine

/-! ## Wide binary numbers -/

/-- The value m · 2^e. -/
structure Big where
  m : Int
  e : Int
  deriving DecidableEq, Repr

/-- At most 640 significant bits are kept. -/
def Big.norm (x : Big) : Big :=
  let k := Nat.log2 x.m.natAbs
  if 640 < k then ⟨x.m / 2 ^ (k - 640), x.e + (k - 640 : Nat)⟩ else x

def Big.one : Big := ⟨1, 0⟩
def Big.neg (x : Big) : Big := ⟨-x.m, x.e⟩
def Big.abs (x : Big) : Big := ⟨x.m.natAbs, x.e⟩
def Big.shift (x : Big) (k : Int) : Big := ⟨x.m, x.e + k⟩

/-- A sum; an addend more than 1,300 binary places below the other is dropped. -/
def Big.add (x y : Big) : Big :=
  let tx := (Nat.log2 x.m.natAbs : Int) + x.e
  let ty := (Nat.log2 y.m.natAbs : Int) + y.e
  if x.m = 0 ∨ (y.m ≠ 0 ∧ tx + 1300 < ty) then y
  else if y.m = 0 ∨ ty + 1300 < tx then x
  else
    let e := min x.e y.e
    Big.norm ⟨x.m * 2 ^ (x.e - e).toNat + y.m * 2 ^ (y.e - e).toNat, e⟩

def Big.sub (x y : Big) : Big := x.add y.neg
def Big.mul (x y : Big) : Big := Big.norm ⟨x.m * y.m, x.e + y.e⟩

/-- A quotient to 640 bits; 0 for a zero divisor, which no caller has. -/
def Big.div (x y : Big) : Big :=
  let k := 640 + Nat.log2 y.m.natAbs
  Big.norm ⟨x.m * 2 ^ k / y.m, x.e - y.e - k⟩

def Big.lt0 (x : Big) : Bool := decide (x.m < 0)

/-- x ≤ y. -/
def Big.le (x y : Big) : Bool := decide ((x.sub y).m ≤ 0)

/-- A finite value. -/
def Big.ofFin (neg : Bool) (m : Nat) (e : Int) : Big := ⟨if neg then -(m : Int) else m, e⟩

/-- ln 2 and 1/√(2π), in units of 2^-384. -/
def ln2Big : Int :=
  0xb17217f7d1cf79abc9e3b39803f2f6af40f343267298b62d8a0d175b8baafa2be7b876206debac98559552fb4afa1b10
def rsqrt2PiBig : Big :=
  ⟨0x662114cf50d942343f2cf1402eae38bfd3829f30512706d8c0471b4802639d2e9df8ac55447d3db723f5d3abb374e88d, -384⟩

/-- e^x: x = k · ln 2 + y with 0 ≤ y < ln 2, and the Taylor series of e^y, in units of 2^-384. -/
def Big.exp (x : Big) : Big :=
  let s := x.e + 384
  let t : Int := if 0 ≤ s then x.m * 2 ^ s.toNat else x.m / 2 ^ (-s).toNat
  let k := t / ln2Big
  let y := t % ln2Big
  let r := (List.range 90).foldl (fun (a : Int × Int) (n : Nat) =>
    let u := a.1 * y / ((n + 1 : Int) * 2 ^ 384)
    (u, a.2 + u)) ((2 : Int) ^ 384, (2 : Int) ^ 384)
  ⟨r.2, k - 384⟩

/-- The logistic function. -/
def Big.sigma (x : Big) : Big :=
  if x.lt0 then (let z := x.exp; z.div (Big.one.add z)) else Big.one.div (Big.one.add x.neg.exp)

/-- tanh of a magnitude. -/
def Big.tanh (x : Big) : Big :=
  let z := (x.shift 1).neg.exp
  (Big.one.sub z).div (Big.one.add z)

/-- The standard normal density. -/
def Big.phi (x : Big) : Big := rsqrt2PiBig.mul ((x.mul x).shift (-1)).neg.exp

/-- The upper tail 1 − Φ(x) for x ≥ 6, by the continued fraction of Mills' ratio. -/
def Big.tail (x : Big) : Big :=
  x.phi.div ((List.range 60).foldl (fun (d : Big) (i : Nat) => x.add (Big.div ⟨60 - (i : Int), 0⟩ d)) x)

/-- Φ of a magnitude below 6, by its power series. -/
def Big.phiSmall (x : Big) : Big :=
  let x2 := x.mul x
  let r := (List.range 220).foldl (fun (a : Big × Big) (n : Nat) =>
    let u := (a.1.mul x2).div ⟨2 * n + 3, 0⟩
    (u, a.2.add u)) (x, x)
  (Big.one.shift (-1)).add (x.phi.mul r.2)

/-- The standard normal distribution function. -/
def Big.Phi (x : Big) : Big :=
  let a := x.abs
  if Big.le ⟨6, 0⟩ a then (if x.lt0 then a.tail else Big.one.sub a.tail)
  else if x.lt0 then Big.one.sub a.phiSmall else a.phiSmall

/-! ## The functions of R120 -/

/-- The exact result for finite inputs: its sign, which a zero has too, and its magnitude. -/
def actExact (act : Nat) (deriv : Bool) (v s r : Bool × Big) : Bool × Big :=
  let times (x : Bool × Big) (f : Big) : Bool × Big := (x.1 != f.lt0, (x.2.mul f).abs)
  let sg := s.2.sigma
  let co := Big.one.sub sg
  match act, deriv with
  | 2, false => times v v.2.Phi
  | 2, true => times v (s.2.Phi.add (s.2.mul s.2.phi))
  | 3, false => times v v.2.sigma
  | 3, true => times v (sg.mul (Big.one.add (s.2.mul co)))
  | 4, false => (v.1, v.2.abs.tanh)
  | 4, true => times v (((s.2.shift 1).sigma.mul (s.2.shift 1).neg.sigma).shift 2)
  | 5, false => (false, v.2.sigma)
  | 5, true => times v (sg.mul co)
  | 6, false => (false, (v.2.sub r.2).exp)
  | _, _ => times s (v.2.sub r.2)

/-- The result from the exact one: R42's rounding, moved by the part's fixed offset where the exact result is normal and the
moved result is normal and within b ulp of it (R121). -/
def ulpMapped (b off : Nat) (neg : Bool) (x : Big) : Nat × Flags :=
  let r := rnd32 neg x.m.natAbs x.e
  let ex := expOf x.m.natAbs x.e
  if x.m = 0 ∨ r.2 ≠ .none ∨ ex < -126 then r
  else
    let mag : Int := (r.1 % 2 ^ 31 : Nat) + ((off % (2 * b + 1) : Nat) : Int) - b
    let c := mag.toNat
    match Fmt.fp32.decode c with
    | .fin _ m e =>
      if 0x0080_0000 ≤ mag ∧ ((Big.ofFin false m e).sub x).abs.le ⟨b, ex - 23⟩ then (c + b2n neg <<< 31, .none) else r
    | _ => r

/-- The limits at an infinite argument that the function itself fixes: tanh, the logistic function and the exponential. -/
def actLimit (act : Nat) (deriv : Bool) (v r : Num) : Option (Nat × Flags) :=
  match act, deriv, v with
  | 4, false, .inf s => some (Fmt.fp32.encodeFin s 1 0, .none)
  | 5, false, .inf s => some (Fmt.fp32.encodeFin false (b2n !s) 0, .none)
  | 6, false, _ =>
    match v, r with
    | .inf s, .inf t =>
      if s = t then some (Fmt.fp32.nan, { nv := true })
      else some (if s then Fmt.fp32.encodeFin false 0 0 else Fmt.fp32.infBits false, .none)
    | .inf s, .fin _ _ _ => some (if s then Fmt.fp32.encodeFin false 0 0 else Fmt.fp32.infBits false, .none)
    | .fin _ _ _, .inf t => some (if t then Fmt.fp32.infBits false else Fmt.fp32.encodeFin false 0 0, .none)
    | _, _ => none
  | _, _, _ => none

/-- FP32 bits of a value. -/
def f32Bits (v : Num) : BitVec 32 := BitVec.ofNat 32 (Fmt.fp32.convert .ne false v).1

/-- ACT 2 to 6 as one fixed mapping from input bits to output bits (R121). s and r are 0 where the function does not use
them. Where an argument is infinite and the function has no limit there, R121 bounds nothing: the result is free. -/
def actMapped (act : Nat) (deriv : Bool) (v s r : Num) : Nat × Flags :=
  match v, s, r with
  | .fin vn vm ve, .fin sn sm se, .fin rn rm re =>
    let x := actExact act deriv (vn, .ofFin vn vm ve) (sn, .ofFin sn sm se) (rn, .ofFin rn rm re)
    ulpMapped (if deriv then 4 else 2) (Config.actUlp act deriv (f32Bits v) (f32Bits s) (f32Bits r)) x.1 x.2
  | _, _, _ =>
    match actLimit act deriv v r with
    | some o => o
    | none =>
      let w := Config.actInf act deriv (f32Bits v) (f32Bits s) (f32Bits r)
      (w.toNat % 2 ^ 32, { of := w.toNat.testBit 32, uf := w.toNat.testBit 33 })

end Sys2Proof.Machine
end

