-- ==== Sys2Proof/Machine/Ladle.lean ====
section
/-! DEFINITION. The Ladle (R112 to R125, R128, R134, R140, R144, R146): drain descriptors, runs and their addresses,
conversions, and stages 1 to 8 for one output element. -/

namespace Sys2Proof.Machine

/-! ## Drain descriptors -/

/-- The fields of a drain descriptor (R116). -/
structure DrainF where
  dst : Nat
  side : Nat
  ofmt : Nat
  dkind : Nat
  rnd : Nat
  sat : Bool
  act : Nat
  deriv : Bool
  smode : Nat
  bias : Bool
  scl : Bool
  red : Nat
  norm : Bool
  nreg : Nat
  fp64 : Bool
  ovf : Bool
  auxoff : Nat
  sfmt : Nat
  dag : Nat
  trn : Bool
  deriving DecidableEq, Repr

def drainF (w : Nat) : DrainF :=
  { dst := bitsOf w 63 0, side := bitsOf w 127 64, ofmt := bitsOf w 131 128, dkind := bitsOf w 134 132, rnd := bitsOf w 137 135,
    sat := bitOf w 138, act := bitsOf w 142 139, deriv := bitOf w 143, smode := bitsOf w 145 144, bias := bitOf w 146,
    scl := bitOf w 147, red := bitsOf w 149 148, norm := bitOf w 150, nreg := bitsOf w 154 151, fp64 := bitOf w 155,
    ovf := bitOf w 156, auxoff := bitsOf w 179 157, sfmt := bitsOf w 183 180, dag := bitsOf w 190 184, trn := bitOf w 191 }

def Drain.f (d : Drain) : DrainF := drainF d.word.toNat

/-- The keep format: OFMT, or SPF for the Stockpot and a spill area (R117). -/
def DrainF.keep (f : DrainF) : Nat := if f.dkind = 2 ∨ f.dkind = 3 then (if f.fp64 then 0 else 1) else f.ofmt

/-- First byte of the auxiliary area in this quadrant's Tray, and its three parts (R118). -/
def DrainF.aux (f : DrainF) (q : Nat) : Nat := trayAddr q (8 * f.auxoff)
def DrainF.biasAt (f : DrainF) (q n : Nat) : Nat := f.aux q + 4 * n
def DrainF.scaleAt (f : DrainF) (q n : Nat) : Nat := f.aux q + 0x1_0000 + 4 * n
def DrainF.rowAt (f : DrainF) (q m : Nat) : Nat := f.aux q + 0x2_0000 + 4 * m

/-- The program uses n (SCL or BIAS), and r[m] (the softmax numerator or a row reduction). -/
def DrainF.usesN (f : DrainF) : Bool := f.scl || f.bias
def DrainF.usesR (f : DrainF) : Bool := decide (f.act = 6 ∨ f.red ≠ 0)

/-- The program slot of station n's Ladle q (R103). -/
def State.lslot (m : State) (q n s : Nat) : Option (BitVec 192) := m.lslots.get (fun _ => none) (128 * q + 16 * n + s)

/-- The pass-through program of slot 0 (R119): DST at byte `start` of quadrant q's Tray, the start of the station's Tray
window, OFMT FP32, DAG 64. -/
def passThrough (q start : Nat) : BitVec 192 :=
  BitVec.ofNat 192 (q <<< 26 + start + 1 <<< 128 + 64 <<< 184)

/-! ## Runs (R117) -/

/-- Output column tiles (WS, RS), or output tiles (OS), of an operation with OPB yield yb. -/
def GopF.outTiles (f : GopF) (yb : Nat) : Nat :=
  if f.flow = 1 then (if f.kch * f.h = 0 then 0 else f.waves / (f.kch * f.h)) else f.tiles yb / max 1 f.kch

/-- Rows one tile keeps in a Ladle. -/
def GopF.tileRows (f : GopF) (q : Nat) : Nat := if f.flow = 1 then f.hOf q else f.mrows

/-- Runs the operation delivers to a Ladle. -/
def GopF.runs (f : GopF) (yb q : Nat) : Nat := f.outTiles yb * f.tileRows q

/-- Runs as the keeper sees them: with TRN the emitted runs of 32 elements. -/
def DrainF.emitted (d : DrainF) (runs w : Nat) : Nat := if d.trn then (runs + 31) / 32 * w else runs

/-- Base of the destination as a global address; own is this module's node. -/
def DrainF.base (f : DrainF) (own q : Nat) : Nat :=
  if f.dkind = 0 ∨ f.dkind = 4 then own * 2 ^ 44 + trayAddr 0 (f.dst % 2 ^ 28)
  else if f.dkind = 2 then own * 2 ^ 44 + potAddr q (f.dst % 2 ^ 26)
  else f.dst

/-- First bit of the element at column position pos of run `run`, w columns wide (R117). -/
def Drain.keepBit (d : Drain) (own w run pos : Nat) : Nat :=
  let f := d.f
  let b := bitsOfCode f.keep
  let i := if f.trn then run / 32 * w + pos else run
  let j := if f.trn then run % 32 else pos
  let len := if f.trn then 32 else w
  let base := f.base own d.quad
  8 * (if f.dag = 64 then base + i * (len * b / 8) else d.dag.addr base i) + j * b

/-- First bit of the element's side-stream value: SIDE plus the distance of the keep address from DST, which may be
negative, in elements of SIDEFMT (R117). -/
def Drain.sideBit (d : Drain) (own w run pos : Nat) : Nat :=
  let f := d.f
  ((8 * f.side : Nat) + ((d.keepBit own w run pos : Int) - (8 * f.base own d.quad : Nat)) * bitsOfCode f.sfmt /
    max 1 (bitsOfCode f.keep)).toNat

/-- Index of an element in the order of the keep: elements 32b to 32b + 31 form an MX block. -/
def DrainF.elemIndex (f : DrainF) (w run pos : Nat) : Nat :=
  if f.trn then (run / 32 * w + pos) * 32 + run % 32 else run * w + pos

/-! ## Bits at a global address -/

/-- A run of w bits at a bit address: first byte and bytes. -/
def bitBytes (bit w : Nat) : Nat × Nat := (bit / 8, (bit % 8 + w + 7) / 8)

/-- w bits at a bit address, and their poison. -/
def State.getBits (m : State) (g : Gop) (bit w : Nat) : Nat × Bool :=
  let r := m.gbytes g.id (bit / 8) ((bit % 8 + w + 7) / 8)
  ((leNat r.1 >>> (bit % 8)) % 2 ^ w, r.2)

/-- w bits written at a bit address: to memory, or to the bytes kept for a remote destination. -/
def State.putBits (m : State) (g : Gop) (bit w v : Nat) : State × Gop :=
  let (a, n) := bitBytes bit w
  let put (old : List Byte) : List Byte := leBytes (insertBits (leNat old) (bit % 8 + w - 1) (bit % 8) v) n
  if gNode a = m.nodeId then (m.putBytes (gLocal a) (put (m.bytes (gLocal a) n)), g)
  else
    let old := (SMap.read (fun _ => 0) (g.wbuf.slice a n) 0 n).map (fun v => BitVec.ofNat 8 v)
    (m, { g with wbuf := g.wbuf.splice a n (SMap.ofList 0 ((put old).map (fun b => 256 + b.toNat))) })

/-- w bits written to the 4 KiB block of byte a are counted, and whether poison reached the block is noted. -/
def Gop.mark (g : Gop) (a w : Nat) (psn : Bool) : Gop :=
  let b := a / 4096
  let z : Nat → Nat := fun _ => 0
  let g1 := { g with blocks := g.blocks.set z b (g.blocks.get z b + w) }
  if psn && !(decide (b ∈ g1.psnBlocks)) then { g1 with psnBlocks := b :: g1.psnBlocks } else g1

/-! ## Conversions -/

/-- RND as a rounding direction, with the element's Mill word. -/
def rndOf (c w : Nat) : Rnd :=
  match c with
  | 1 => .tz
  | 2 => .up
  | 3 => .down
  | 4 => .sto w
  | _ => .ne

/-- An exact integer kept in w bits (R113). -/
def keepInt (w : Nat) (sat : Bool) (i : Int) : Nat × Flags :=
  let lo : Int := -(2 ^ (w - 1))
  let hi : Int := 2 ^ (w - 1) - 1
  if lo ≤ i ∧ i ≤ hi then (wrapInt i w, .none)
  else if sat then (wrapInt (if i < lo then lo else hi) w, { of := true })
  else (wrapInt i w, { of := true })

/-- A value kept in a format with one value per element (R45, R113). -/
def keepValue (code : Nat) (r : Rnd) (sat : Bool) (v : Num) (i : Option Int) : Nat × Flags :=
  if code = 11 ∨ code = 14 then
    let w := bitsOfCode code
    match i, v with
    | some k, _ => keepInt w sat k
    | none, .fin s mm e => keepInt w sat (Num.toIntR r s mm e)
    | none, .nan => (0, { nv := true })
    | none, .inf s =>
      if sat then (wrapInt (if s then -(2 ^ (w - 1)) else 2 ^ (w - 1) - 1) w, { of := true }) else (0, { nv := true })
  else if code = 12 ∨ code = 13 then (Config.toTb code (Fmt.fp64.convert .ne false v).1 % 2 ^ bitsOfCode code, .none)
  else match fmtOfCode code with
    | some f => f.convert r sat v
    | none => (0, .none)

/-- What R45 makes of a value in an MX format, whose largest finite value is that of its elements times 2^127. -/
inductive MxKind where
  /-- a finite value inside the format's range -/
  | plain
  /-- the largest finite value of a sign; of: it overflowed or was an infinity -/
  | largest (neg of : Bool)
  /-- an infinity, in an element format that has one -/
  | infinite (neg of : Bool)
  /-- its block becomes a NaN block; nv, of: the flags the element sets for it -/
  | nan (nv of : Bool)
  deriving DecidableEq, Repr

def mxKind (f : Fmt) (r : Rnd) (sat : Bool) (v : Num) : MxKind :=
  let inf (neg of : Bool) : MxKind := if f.kind = .ieee then .infinite neg of else .nan true of
  match v with
  | .nan => .nan false false
  | .inf neg => if sat then .largest neg true else inf neg false
  | .fin neg mm e =>
    if f.overflows r neg mm (e - 127) then
      let toMax := match r with
        | .tz => true
        | .up => neg
        | .down => !neg
        | _ => false
      if sat || toMax then .largest neg true else inf neg true
    else .plain

/-- Scale byte s holds a finite value of the range without overflow. -/
def mxHolds (f : Fmt) (r : Rnd) (v : Num) (s : Nat) : Bool :=
  match v with
  | .fin neg mm e => !f.overflows r neg mm (e - ((s : Int) - 127))
  | _ => true

/-- Scale byte of a block with the values vs and their roundings (R45): 0xFF for a NaN block, 254 where an element takes the
largest finite value, else a byte that holds every element, which of them is the part's choice. -/
def mxScaleOf (code : Nat) (f : Fmt) (sat : Bool) (vs : List (Rnd × Num)) : Nat :=
  let ks := vs.map (fun v => mxKind f v.1 sat v.2)
  let isNan (k : MxKind) : Bool := match k with | .nan _ _ => true | _ => false
  let isMax (k : MxKind) : Bool := match k with | .largest _ _ => true | _ => false
  if ks.any isNan then 255
  else if ks.any isMax then 254
  else
    let fits (s : Nat) : Bool := vs.all (fun v => decide (mxKind f v.1 sat v.2 ≠ .plain) || mxHolds f v.1 v.2 s)
    let least := ((List.range 255).find? fits).getD 254
    least + Config.mxScale code (vs.map (fun v => (Fmt.fp64.convert .ne false v.2).1)) % (255 - least)

/-- An element of an MX block with scale byte s. -/
def keepMx (f : Fmt) (s : Nat) (r : Rnd) (sat : Bool) (v : Num) : Nat × Flags :=
  let k := mxKind f r sat v
  let fl : Flags := match k with
    | .plain => .none
    | .largest _ of => { of := of }
    | .infinite _ of => { of := of }
    | .nan nv of => { nv := nv, of := of }
  if s = 255 then (0, fl)
  else match k, v with
    | .plain, .fin neg mm e => f.convert r true (.fin neg mm (e - ((s : Int) - 127)))
    | .largest neg _, _ => (f.maxBits neg, fl)
    | .infinite neg _, _ => (f.infBits neg, fl)
    | _, _ => (0, fl)

/-- A side-stream value, or an aux word, as a number. -/
def sideNum (code scale v : Nat) : Num := Elem.num ⟨v, scale, false⟩ code

/-! ## Stage 1 (R113) -/

/-- An element on its way through the stages: its value, the exact integer while it is one, flags and poison. -/
structure Out where
  v : Num
  int : Option Int
  fl : Flags
  psn : Bool
  deriving DecidableEq, Repr

/-- Stages 2 to 7 that the program selects. -/
def DrainF.anyStage (f : DrainF) : Bool :=
  f.scl || f.bias || decide (f.smode ≠ 0) || decide (f.act ≠ 0) || f.norm || decide (f.red ≠ 0)

/-- The format a slice mode rounds into (R113). -/
def DrainF.sliceFmt (f : DrainF) : Fmt := (fmtOfCode f.keep).getD .fp64

/-- Stage 1's result from a whole part. In the slice modes an overflow leaves an infinity with OF, also towards E4M3, which
has none: stage 8's conversion then saturates it or makes it the NaN (R45, R48, R52). -/
def Part.finish (p : Part) (gf : GopF) (d : DrainF) : Out :=
  if gf.isSlice then
    let f := d.sliceFmt
    if p.cNan || (p.cPos && p.cNeg) then ⟨.nan, none, { nv := true }, p.psn⟩
    else if p.cPos || p.cNeg then ⟨.inf p.cNeg, none, .none, p.psn⟩
    else
      let (s, a) := combine gf.mode p.terms
      let r := f.rnd .ne (decide (s < 0)) s.natAbs (a - 175)
      let v : Num := if f.overflows .ne (decide (s < 0)) s.natAbs (a - 175) then .inf (decide (s < 0)) else f.decode r.1
      ⟨v, none, { r.2 with ra := decide (gf.mode = 3) && roundAmbiguous f p.terms }, p.psn⟩
  else if gf.isInt then
    if d.anyStage ∨ (d.ofmt ≠ 14 ∧ d.ofmt ≠ 11) then
      let r := rnd32 (decide (p.i < 0)) p.i.natAbs 0
      ⟨Fmt.fp32.decode r.1, none, r.2, p.psn⟩
    else ⟨.ofInt p.i, some p.i, .none, p.psn⟩
  else ⟨Fmt.fp32.decode p.f, none, p.flags, p.psn⟩

/-- A part that nothing has entered. -/
def Part.empty : Part := ⟨0, 0, [], false, false, false, .none, false, 0⟩

/-! ## Stages 2 to 7 -/

/-- The FP32 value at a byte address as a number, with its poison. -/
def State.aux32 (m : State) (a : Nat) : Num × Bool := (Fmt.fp32.decode (m.word a 4), m.psnIn a 4)

def Out.apply (o : Out) (r : Nat × Flags) (psn : Bool) : Out :=
  ⟨Fmt.fp32.decode r.1, none, o.fl.or r.2, o.psn || psn⟩

/-- Stage 5 (R120, R121). -/
def activate (act : Nat) (deriv : Bool) (v s r : Num) : Nat × Flags :=
  let nan : Nat × Flags := (Fmt.fp32.nan, { nv := true })
  let isNan (x : Num) : Bool := decide (x = .nan)
  let usesS := deriv || decide (act = 7)
  let usesR := decide (act = 6)
  if act = 0 then ((Fmt.fp32.convert .ne false v).1, .none)
  else if isNan v || (usesS && isNan s) || (usesR && isNan r) then nan
  else if act = 1 then
    if deriv then (if Num.lt (.fin false 0 0) s then ((Fmt.fp32.convert .ne false v).1, .none) else (0, .none))
    else (if Num.lt (.fin false 0 0) v then ((Fmt.fp32.convert .ne false v).1, .none) else (0, .none))
  else if act = 7 then Arith.acc.mulNum v s
  else
    let zero : Num := .fin false 0 0
    actMapped act deriv v (if usesS then s else zero)
      (if usesR then r else zero)

/-- Stage 6: add the square of x to a norm accumulator (R125). -/
def State.normAdd (m : State) (q n reg : Nat) (x : Num) (psn : Bool) : State :=
  let acc := Reg.ldl_NORM q n reg
  if psn then
    (m.setFlag (Reg.ldl_NORM_PSN q n reg) true).report
      { page := 0x08 + q, code := Code.poisonConsumed, stn := some n, master := 0x14 + q, acc := 4 }
  else match x with
    | .fin _ mm e =>
      let r := Arith.f64.addNum (Fmt.fp64.decode (m.fld acc)) (.fin false (mm * mm) (2 * e))
      (m.setFld acc r.1).setFlag (Reg.ldl_NORM_NV q n reg) (m.flag (Reg.ldl_NORM_NV q n reg) || r.2.nv)
    | _ => (m.setFld acc 0x7FF8_0000_0000_0000).setFlag (Reg.ldl_NORM_NV q n reg) true

/-- NREG names an accumulator of a ratio pair: the bit, set on any LDL page, pairs the accumulators of every Ladle (R146). -/
def State.inPair (m : State) (n reg : Nat) : Bool :=
  (List.range 4).any (fun q => (m.fld (Reg.ldl_RPAIR q n)).testBit (reg / 2))

/-- One combination of a row reduction: 1 maximum, 2 sum (R122). -/
def redStep (red : Nat) (slice : Bool) (a : Nat) (v : Num) : Nat × Flags :=
  let x := Fmt.fp32.decode a
  if red = 2 then (if slice then Arith.f32 else Arith.acc).addNum x v
  else
    match x, v with
    | .nan, _ => (Fmt.fp32.nan, { nv := true })
    | _, .nan => (Fmt.fp32.nan, { nv := true })
    | _, _ =>
      let b := (Fmt.fp32.convert .ne false v).1
      if Num.lt x v then (b, .none)
      else if Num.lt v x then (a, .none)
      else (if a.testBit 31 then b else a, .none)

/-- Stage 7 for one element: the row value of its Ladle and column tile. -/
def Gop.reduce (g : Gop) (red mrow tile quad : Nat) (o : Out) : Gop × Out :=
  if red = 0 then (g, o)
  else
    match g.rows.find? (fun r => decide (r.m = mrow ∧ r.tile = tile ∧ r.quad = quad)) with
    | none => ({ g with rows := g.rows ++ [⟨mrow, tile, quad, (Fmt.fp32.convert .ne false o.v).1, o.psn⟩] }, o)
    | some r =>
      let c := redStep red g.f.isSlice r.val o.v
      ({ g with rows := g.rows.map (fun x =>
          if x.m = mrow ∧ x.tile = tile ∧ x.quad = quad then { x with val := c.1, psn := x.psn || o.psn } else x) },
        { o with fl := o.fl.or c.2 })

/-! ## Stage 8 -/

/-- Add a contribution to a Stockpot element at byte a of quadrant q's Stockpot (R128). -/
def State.potAdd (m : State) (n q a : Nat) (fp64 : Bool) (v : Num) (fl : Flags) (psn : Bool) (upset : Bool) : State :=
  let b := spByte q (a / 4096)
  let st := m.fld b
  if !bitOf st 0 then
    m.report { page := 0x08 + q, code := Code.access, stn := some n, master := 0x14 + q, acc := 1, addr := potAddr q a }
  else
    let want := if fp64 then 2 else 1
    if bitsOf st 5 4 ≠ 0 ∧ bitsOf st 5 4 ≠ want then
      m.setFld b (potFlags (potFlags st psn fl.nv fl.of) true true false)
    else
      let w := if fp64 then 8 else 4
      let adr := potAddr q a
      let rd := m.sramRead (0x08 + q) 1 n (0x14 + q) adr upset
      let ar := if fp64 then Arith.f64 else Arith.f32
      let r := ar.addNum (ar.fmt.decode (rd.2.word adr w)) v
      let bad := psn || rd.1 || rd.2.psnIn adr w
      let m1 := (rd.2.putBytes adr (leBytes r.1 w)).setFld b
        (potFlags (insertBits st 5 4 want) bad (fl.nv || r.2.nv) (fl.of || r.2.of))
      if rd.1 then m1.setPsn (adr / 32 * 32) true else m1

/-- The elements of an MX block that wait. -/
def Gop.mxBlock (g : Gop) (quad : Nat) (side : Bool) (key : Nat) : List MxElem :=
  g.mxbuf.filter (fun e => decide (e.quad = quad ∧ e.side = side ∧ e.key = key))

/-- Emit an MX block (R45): its scale byte, then its elements. A side stream always rounds to nearest even; the flags of its
elements are counted with the elements themselves (R112), so they are not counted here. -/
def State.emitMx (m : State) (g : Gop) (d : Drain) (side : Bool) (key : Nat) : State × Gop :=
  let f := d.f
  let code := if side then f.sfmt else f.ofmt
  let mine := g.mxBlock d.quad side key
  let rest := g.mxbuf.filter (fun e => !decide (e.quad = d.quad ∧ e.side = side ∧ e.key = key))
  match fmtOfCode code with
  | none => (m, { g with mxbuf := rest })
  | some fm =>
    let rnd (e : MxElem) : Rnd := if side then .ne else rndOf f.rnd e.mill
    let sb := mxScaleOf code fm f.sat (mine.map (fun e => (rnd e, e.val)))
    let m1 := { m with mxScale := m.mxScale.set Config.sideScale key (BitVec.ofNat 8 sb) }
    mine.foldl (fun (s : State × Gop) e =>
      let c := keepMx fm sb (rnd e) f.sat e.val
      let s1 := if side then s.1 else s.1.countFlags d.quad (e.flags.or c.2)
      let r := s1.putBits s.2 e.bit (bitsOfCode code) c.1
      (r.1, r.2.mark (e.bit / 8) (bitsOfCode code) e.psn)) (m1, { g with mxbuf := rest })

/-- An element joins its MX block, which is emitted once 32 are there. -/
def State.pushMx (m : State) (g : Gop) (d : Drain) (e : MxElem) : State × Gop :=
  let g1 := { g with mxbuf := g.mxbuf ++ [e] }
  if (g1.mxBlock e.quad e.side e.key).length = 32 then m.emitMx g1 d e.side e.key else (m, g1)

/-- Stage 8 (R112, R117, R123): one element to its keeper. mill is word 0 of the Mill for its element. -/
def State.keepElem (m : State) (g : Gop) (d : Drain) (w run pos mill : Nat) (o : Out) (upset : Bool) : State × Gop :=
  let f := d.f
  let n := g.stn
  let own := m.nodeId
  let bit := d.keepBit own w run pos
  let a := bit / 8
  let code := f.keep
  let bits := bitsOfCode code
  let psn := o.psn || g.poison || g.slip.isSome
  let runBytes := (if f.trn then 32 else w) * bits / 8
  let firstOfRun := if f.trn then decide (run % 32 = 0) else decide (pos = 0)
  let m0 := if firstOfRun ∧ f.dkind = 1 ∧ gNode a = own then m.touch n (gLocal a) runBytes true 1 else m
  match f.dkind with
  | 2 =>
    let off := gLocal a - potAddr d.quad 0
    ((m0.potAdd n d.quad off f.fp64 o.v o.fl psn upset).countFlags d.quad o.fl, g.mark a bits false)
  | 3 =>
    let ar := if f.fp64 then Arith.f64 else Arith.f32
    let old := m0.getBits g bit bits
    let r := ar.addNum (ar.fmt.decode old.1) o.v
    let fl := o.fl.or r.2
    let m1 := if gNode a = own then (m0.touch n (gLocal a) (bits / 8) false 1).touch n (gLocal a) (bits / 8) true 1 else m0
    let m2 := (List.range 4).foldl (fun m q =>
      (m.setFlag (Reg.ldl_SP_NV q n) (m.flag (Reg.ldl_SP_NV q n) || fl.nv)).setFlag (Reg.ldl_SP_OF q n)
        (m.flag (Reg.ldl_SP_OF q n) || fl.of)) m1
    let w1 := (m2.countFlags d.quad o.fl).putBits g bit bits r.1
    (w1.1, w1.2.mark a bits (psn || old.2))
  | 4 => (m0.countFlags d.quad o.fl, g)
  | _ =>
    if isMx code then
      let e := f.elemIndex w run pos / 32 * 32
      let key := if f.trn then d.keepBit own w (e / 32 / max 1 w * 32 + e % 32) (e / 32 % max 1 w)
        else d.keepBit own w (e / max 1 w) (e % max 1 w)
      m0.pushMx g d ⟨d.quad, false, mill, key, bit, o.v, o.fl, psn⟩
    else
      let c := keepValue code (rndOf f.rnd mill) f.sat o.v o.int
      let r := (m0.countFlags d.quad (o.fl.or c.2)).putBits g bit bits c.1
      (r.1, r.2.mark a bits psn)

/-- Word 0 of the Mill for output element (mrow, ncol) (R140). -/
def State.mill (m : State) (q n mrow ncol : Nat) : Nat :=
  millWord (m.fld (Reg.ldl_MILL_KEY q n)) (m.param n (m.fld (Reg.ldl_PSTEP q n)) % 2 ^ 32)
    (m.param n (m.fld (Reg.ldl_PTID q n)) % 2 ^ 32) mrow ncol

/-- Ranges of remote bytes that an element's stages read. -/
def Drain.remoteReads (d : Drain) (own w run pos : Nat) : List (Nat × Nat) :=
  let f := d.f
  (if f.smode = 1 then [bitBytes (d.sideBit own w run pos) (bitsOfCode f.sfmt)] else []) ++
  (if f.dkind = 3 then [bitBytes (d.keepBit own w run pos) (bitsOfCode f.keep)] else [])

/-- The side stream of a run is charged to the station once, at the run's first element (R220). -/
def State.touchSide (m : State) (n own w run pos : Nat) (d : Drain) : State :=
  let f := d.f
  let a := d.sideBit own w run pos / 8
  let first := if f.trn then decide (run % 32 = 0) else decide (pos = 0)
  if f.smode ≠ 0 ∧ first ∧ gNode a = own then m.touch n (gLocal a) (((if f.trn then 32 else w) * bitsOfCode f.sfmt + 7) / 8) (decide (f.smode = 2)) 1
  else m

/-- Stages 2 to 8 for one finished element (R112): mrow and ncol are its output row and column, tile its column tile. -/
def State.drainElem (m : State) (g : Gop) (d : Drain) (w run pos mrow ncol tile : Nat) (o : Out) (upset : Bool) : State × Gop :=
  let f := d.f
  let q := d.quad
  let n := g.stn
  let own := m.nodeId
  -- stages 2 and 3
  let o2 := if f.scl then (let s := m.aux32 (f.scaleAt q ncol); o.apply (Arith.acc.mulNum o.v s.1) s.2) else o
  let o3 := if f.bias then (let s := m.aux32 (f.biasAt q ncol); o2.apply (Arith.acc.addNum o2.v s.1) s.2) else o2
  -- stage 4
  let sb := d.sideBit own w run pos
  let sw := bitsOfCode f.sfmt
  let m := m.touchSide n own w run pos d
  let key := (8 * f.side + ((sb : Int) - (8 * f.side : Nat)) / (32 * max 1 sw) * (32 * sw)).toNat
  let scl := if isMx f.sfmt then (m.mxScale.get Config.sideScale key).toNat else 127
  let sv := if f.smode = 1 then m.getBits g sb sw else (0, false)
  let s := if f.smode = 1 then sideNum f.sfmt scl sv.1 else Fmt.fp32.decode (Config.noSide q mrow ncol).toNat
  let o4 := if f.smode = 1 ∧ f.act ≤ 5 ∧ !f.deriv then o3.apply (Arith.acc.addNum o3.v s) sv.2
    else { o3 with psn := o3.psn || sv.2 }
  let mx := (fmtOfCode f.sfmt).getD .e4m3
  let sp := o4.psn || g.poison || g.slip.isSome
  -- an MX element's own code within a block that only it fixes; the block that is written may be a NaN block
  let c := if isMx f.sfmt then keepMx mx (mxScaleOf f.sfmt mx f.sat [(.ne, o4.v)]) .ne f.sat o4.v else keepValue f.sfmt .ne f.sat o4.v o4.int
  let mg :=
    if f.smode ≠ 2 then (m, g)
    else if isMx f.sfmt then m.pushMx g d ⟨q, true, 0, key, sb, o4.v, .none, sp⟩
    else
      let w1 := m.putBits g sb sw c.1
      (w1.1, w1.2.mark (sb / 8) sw sp)
  let g1 := mg.2
  let o5 := if f.smode = 2 then { o4 with fl := o4.fl.or c.2 } else o4
  -- R112: with SMODE 2, s is the value stage 4 converted and wrote
  let s5 := if f.smode = 2 then sideNum f.sfmt (if isMx f.sfmt then mxScaleOf f.sfmt mx f.sat [(.ne, o4.v)] else 127) c.1 else s
  -- stage 5
  let r := if f.act = 6 then mg.1.aux32 (f.rowAt q mrow) else (.fin false 0 0, false)
  let o6 := if f.act = 0 then o5 else o5.apply (activate f.act f.deriv o5.v s5 r.1) r.2
  -- stage 6
  let back (x : Num) : Num := if g.reissue then x.scale 16 else x
  let m6 :=
    if !f.norm then mg.1
    else if m.inPair n f.nreg then
      (mg.1.normAdd q n (f.nreg / 2 * 2) o2.v (o2.psn || g.poison || g.slip.isSome)).normAdd q n (f.nreg / 2 * 2 + 1) s (sv.2 || g.poison || g.slip.isSome)
    else mg.1.normAdd q n f.nreg (back o6.v) (o6.psn || g.poison || g.slip.isSome)
  -- stage 7
  let red := g1.reduce f.red mrow tile q o6
  -- stage 8
  m6.keepElem red.1 d w run pos (mg.1.mill q n mrow ncol) { red.2 with v := back red.2.v } upset

end Sys2Proof.Machine
end

