-- ==== Sys2Proof/Machine/Sieve.lean ====
section
/-! DEFINITION. Integrity (R299 to R312, R321): tag checks, the Sieve's prediction and observation, verdicts, and the
account of a station's step. -/

namespace Sys2Proof.Machine

/-- Integrity level of a station (R310). -/
def State.integ (m : State) (n : Nat) : Nat := m.fld (Reg.sys_INTEG n)

def State.stepOf (m : State) (n : Nat) : Step := m.steps.get (fun _ => .idle) n
def State.setStep (m : State) (n : Nat) (s : Step) : State := { m with steps := m.steps.set (fun _ => .idle) n s }

/-! ## Tag checks (R303) -/

/-- Count a persistent tag mismatch of station n and report it at the reader. -/
def State.tagBad (m : State) (n page master addr : Nat) (inj : Bool) : State :=
  ((m.bump (Reg.sve_CRC n) 1).bump Reg.sve_CRC_CNT 1).report
    { page := page, code := Code.tagCrc, stn := some n, master := master, acc := 0, addr := addr, inj := inj }

/-- Check a whole block of station n against its tag: CRC, and SUM in a format where the reader knows it (some code).
glitch: the first read was corrupt and the re-read is not. Answers whether the data is delivered poisoned. -/
def State.tagCheck (m : State) (n page kind master addr tag : Nat) (bytes : List Byte) (code : Option Nat) (glitch : Bool) :
    Bool × State :=
  if m.integ n = 0 ∨ tag = 0 then (false, m)
  else
    let sumOk := match code with
      | none => true
      | some c => decide (sumOf (some c) bytes = tag / 2 ^ 32)
    let bad := decide (crc32c bytes ≠ tag % 2 ^ 32) || !sumOk
    let m1 := if bad then m.tagBad n page master addr false
      else if glitch then m.bump Reg.sve_TRANSIENT_CNT 1 else m
    if m1.injFires page kind then (true, (m1.disarm page).tagBad n page master addr true) else (bad, m1)

/-! ## Steps (R307, R311, R321) -/

/-- A step is an audit step (R311). -/
def State.auditStep (m : State) (n step : Nat) : Bool :=
  let a := m.fld (Reg.sve_AUDIT_N n)
  decide (a ≠ 0 ∧ (step + m.fld (Reg.sve_AOFF n)) % a = 0)

/-- SUSPECT (R311). -/
def State.suspect (m : State) (n : Nat) : Bool :=
  decide (m.integ n = 2) &&
    (decide (m.fld (Reg.sve_SKIP n) ≠ 0) || decide (m.fld (Reg.sve_CRC n) ≠ 0) || (m.stepOf n).dispatched ||
      (m.stepOf n).severe || m.auditStep n (m.fld (Reg.sve_STEP n)))

/-- A written STEP takes effect once every GOP of the open step has its verdicts in; a drain request then sets DRAINED. -/
def State.stepTry (m : State) (n : Nat) : State :=
  let st := m.stepOf n
  if !st.open_.isEmpty then m
  else
    let m1 := if st.drainReq then (m.setFlag (Reg.sve_DRAINED n) true).setStep n { st with drainReq := false } else m
    match st.pend with
    | none => m1
    | some v =>
      let sev := (List.range 3).any (fun j => decide (m1.fld (Reg.bolt_SEVERE j) ≠ 0))
      let m2 := (((((m1.setFld (Reg.sve_STEP n) v).setFld (Reg.sve_MISM n) 0).setFld (Reg.sve_SKIP n) 0).setFld (Reg.sve_CRC n) 0).setFlag
        (Reg.sve_DRAINED n) false).setFld (Reg.sve_DIGEST n) 0
      m2.setStep n ⟨[], none, false, false, sev⟩

/-- An operation's last verdict is in, or its verdicts are dropped. -/
def State.stepDone (m : State) (n gop : Nat) : State :=
  let st := m.stepOf n
  (m.setStep n { st with open_ := st.open_.filter (fun i => decide (i ≠ gop)) }).stepTry n

/-- Work went to a Whisk, Tongs or Mortar in the open step (R311). -/
def State.stepDispatch (m : State) (n : Nat) : State := m.setStep n { m.stepOf n with dispatched := true }

/-- Fields of a verdict's capture and report (R308). -/
def State.sieveMismatch (m : State) (n quad grp pass kind tile p o tol : Nat) (inj : Bool) : State :=
  let m1 := (m.bump (Reg.sve_MISM n) 1).bump Reg.sve_MISMATCH_CNT 1
  let m2 :=
    if m1.flag (Reg.sve_VALID n) then m1
    else ((((((((m1.setFld (Reg.sve_MQ n) quad).setFld (Reg.sve_MGRP n) grp).setFld (Reg.sve_MPASS n) pass).setFld (Reg.sve_MKIND n) kind).setFld
      (Reg.sve_MTILE n) tile).setFlag (Reg.sve_VALID n) true).setFld (Reg.sve_PRED n) p).setFld (Reg.sve_OBS n) o).setFld (Reg.sve_TOL n) tol
  m2.report { page := 0x99, code := Code.sieveMismatch, stn := some n, master := 0x3D, acc := 6, inj := inj }

/-! ## Prediction and observation (R304 to R306) -/

/-- FP64 sum of a tap and a value, as bits. -/
def tapAdd (t : Int × Int) (v : Num) : Int × Int :=
  (((Arith.f64.addNum (Fmt.fp64.decode t.1.toNat) v).1 : Nat), ((Arith.f64.addNum (Fmt.fp64.decode t.2.toNat) v.abs).1 : Nat))

/-- P and Q advanced by one product of two taps. -/
def pqAdd (pq : Nat × Nat) (a b : Int × Int) : Nat × Nat :=
  let one (acc : Nat) (x y : Int) : Nat :=
    (Arith.f64.add acc (Arith.f64.mul x.toNat y.toNat).1).1
  (one pq.1 a.1 b.1, one pq.2 a.2 b.2)

/-- A tapped element in the exact paths: its value, or its slice of the pass (R304, R306). -/
def exactTap (f : GopF) (code pass : Nat) (second : Bool) (ec : Int) (e : Elem) : Int :=
  if f.isSlice then
    let ij := (passesOf f.mode).getD pass (0, 0)
    sliceOf f.mode ((fmtOfCode code).getD .fp64) (e.num code) ec (if second then ij.2 else ij.1)
  else intOfCode code e.code

/-- Columns of the operation that form check group (quad, grp). -/
def GopF.groupCols (f : GopF) (quad grp : Nat) : List Nat :=
  (List.range f.cols).filter (fun c => decide (f.ladleAt (if f.flow = 1 then f.row0 quad else 0) c = quad ∧ (16 * f.pc0 + c % f.w) / 256 = grp))

/-- Positions of the row operand that column c consumes (RS: the values of that column). -/
def GopF.posOf (f : GopF) (c : Nat) : Nat :=
  if f.flow = 2 then c * f.h * f.lanes else c / f.w * (f.h * f.lanes)

/-- The chunk exponent of elements under a slice mode. -/
def GopF.ec (f : GopF) (code : Nat) (es : List Elem) : Int :=
  if f.isSlice then chunkExp ((fmtOfCode code).getD .fp64) (es.map (fun e => e.num code)) else 0

/-- The row operand's taps advanced by one wave (WS, RS). -/
def Gop.tapWave (g : Gop) (w : Wave) : Gop :=
  let f := g.f
  let ca := opFmt f.a
  let hl := f.h * f.lanes
  let zero : List (Int × Int) := List.replicate w.elems.length (0, 0)
  let old := if g.taps.length = w.elems.length then g.taps else zero
  if f.short then { g with taps := (old.zip w.elems).map (fun t => tapAdd t.1 (t.2.num ca)) }
  else
    let ecs := (List.range (w.elems.length / max 1 hl)).map (fun j => f.ec ca ((w.elems.drop (j * hl)).take hl))
    { g with taps := (old.zip w.elems).zipIdx.map (fun t =>
        (t.1.1.1 + exactTap f ca w.pass false (ecs.getD (t.2 / max 1 hl) 0) t.1.2, 0)) }

/-- P and Q of group (quad, grp) of the tile and pass whose waves have all passed (WS, RS). -/
def Gop.predict (g : Gop) (tile pass quad grp : Nat) : Int × Nat :=
  let f := g.f
  let cb := opFmt f.b
  let hl := f.h * f.lanes
  let held := g.heldOf tile
  let cols := f.groupCols quad grp
  if f.short then
    let groups : List (Nat × List Nat) := if f.flow = 2 then cols.map (fun c => (f.posOf c, [c]))
      else match cols with
        | [] => []
        | c :: _ => [(f.posOf c, cols)]
    let pq := groups.foldl (fun (pq : Nat × Nat) gr =>
      (List.range hl).foldl (fun pq k =>
        let b := gr.2.foldl (fun t c => tapAdd t (((held.getD c []).getD k ⟨0, 127, false⟩).num cb)) (0, 0)
        pqAdd pq (g.taps.getD (gr.1 + k) (0, 0)) b) pq) (0, 0)
    (pq.1, pq.2)
  else
    let p := (cols.map (fun c =>
      let ys := held.getD c []
      let ec := f.ec cb ys
      ((List.range hl).map (fun k => (g.taps.getD (f.posOf c + k) (0, 0)).1 *
        exactTap f cb pass true ec (ys.getD k ⟨0, 127, false⟩))).sum)).sum
    (p, 0)

/-- OS: P and Q of group (quad, grp) for one chunk's waves. -/
def GopF.predictOs (f : GopF) (ws : List Wave) (quad grp : Nat) (start : Int × Nat) : Int × Nat :=
  let ca := opFmt f.a
  let cb := opFmt f.b
  let l := f.lanes
  let cols := f.groupCols quad grp
  let rows := (List.range (f.hOf quad)).map (fun r => f.row0 quad + r)
  let z : Elem := ⟨0, 127, false⟩
  if f.short then
    let pq := ws.foldl (fun (pq : Nat × Nat) w => (List.range l).foldl (fun pq i =>
      let a := rows.foldl (fun t r => tapAdd t ((w.elems.getD (r * l + i) z).num ca)) (0, 0)
      let b := cols.foldl (fun t c => tapAdd t ((w.belems.getD (c * l + i) z).num cb)) (0, 0)
      pqAdd pq a b) pq) (start.1.toNat, start.2)
    (pq.1, pq.2)
  else
    (start.1 + (ws.map (fun w => ((List.range l).map (fun i =>
      (rows.map (fun r => intOfCode ca (w.elems.getD (r * l + i) z).code)).sum *
      (cols.map (fun c => intOfCode cb (w.belems.getD (c * l + i) z).code)).sum)).sum)).sum, 0)

/-- The observation of a group advanced by one column result: its FP32 value, or its exact sum; bad: NV or OF set. -/
def Gop.observe (g : Gop) (quad grp tile pass : Nat) (bits : Nat) (sum : Int) (bad : Bool) : Gop :=
  let hit (c : Check) : Bool := decide (c.quad = quad ∧ c.grp = grp ∧ c.tile = tile ∧ c.pass = pass)
  let step (o : Int) : Int :=
    if g.f.short then (((Arith.f64.addNum (Fmt.fp64.decode o.toNat) (Fmt.fp32.decode bits)).1 : Nat) : Int) else o + sum
  if g.checks.any hit then
    { g with checks := g.checks.map (fun c => if hit c then { c with o := step c.o, bad := c.bad || bad, n := c.n + 1 } else c) }
  else { g with checks := g.checks ++ [⟨quad, grp, tile, pass, 0, 0, step 0, bad, 1⟩] }

/-- The comparison of one group (R305, R306): P, O and τ as register values, not checkable, passes. -/
def Gop.compare (g : Gop) (c : Check) : Nat × Nat × Nat × Bool × Bool :=
  let f := g.f
  if f.short then
    let dn (b : Nat) : Nat := if g.reissue then (match Fmt.fp64.decode b with
      | .fin s mm e => (Fmt.fp64.rnd .ne s mm (e - 16)).1
      | _ => b) else b
    let p := dn c.p.toNat
    let qm := dn c.qmag
    let o := c.o.toNat
    let cl := f.h * f.lanes
    let t1 := Arith.f64.mulNum (.fin false (cl + 2) (-23)) (Fmt.fp64.decode qm)
    let t2 := Arith.f64.addNum (Fmt.fp64.decode t1.1) (.fin false (c.n * cl) (-125))
    let skip := c.bad || !Fmt.fp64.isFinite p || !Fmt.fp64.isFinite qm || !Fmt.fp64.isFinite o
    let d := (Fmt.fp64.decode (Arith.f64.sub o p).1).abs
    (p, o, t2.1, skip, !Num.lt (Fmt.fp64.decode t2.1) d)
  else
    let p := wrapInt c.p 64
    let o := wrapInt c.o 64
    (p, o, 0, false, decide (p = o))

/-- Checks that satisfy sel become verdicts in the Sieve's queue. -/
def State.queueVerdicts (m : State) (g : Gop) (sel : Check → Bool) : State × Gop :=
  let vs := (g.checks.filter sel).map (fun c =>
    let r := g.compare c
    let ij := (passesOf g.f.mode).getD c.pass (0, 0)
    let kind := if g.f.isSlice then 2 else if g.f.isInt then 1 else 0
    (⟨g.stn, g.id, c.quad, c.grp, c.tile, if g.f.isSlice then 4 * ij.1 + ij.2 else 0, kind, (r.1 : Int), (r.2.1 : Int), r.2.2.1,
      r.2.2.2.1, r.2.2.2.2⟩ : Verdict))
  ({ m with verdicts := m.verdicts ++ vs }, { g with checks := g.checks.filter (fun c => !sel c) })

/-- Tiles that wait at the Sieve (PEND). -/
def State.sievePend (m : State) : Nat := ((m.verdicts.map (fun v => (v.gop, v.tile, v.pass))).dedup).length

/-- SIEVE_VERDICT (R307): the oldest queued comparison is delivered. -/
def State.deliverVerdict (m : State) : State :=
  match m.verdicts with
  | [] => m
  | v :: rest =>
    let m0 := { m with verdicts := rest }
    let inj := !v.skip && m0.injFires 0x99 0
    let m1 := if inj then m0.disarm 0x99 else m0
    let bad := !v.ok
    let m2 :=
      if v.skip then (m1.bump Reg.sve_SKIPS 1).bump (Reg.sve_SKIP v.stn) 1
      else
        let m2 := m1.bump Reg.sve_CHECKED 1
        if bad then m2.sieveMismatch v.stn v.quad v.grp v.pass v.kind v.tile v.p.toNat v.o.toNat v.tol false else m2
    let m3 := if inj then m2.sieveMismatch v.stn v.quad v.grp v.pass v.kind v.tile v.p.toNat v.o.toNat v.tol true else m2
    if rest.any (fun x => decide (x.gop = v.gop)) || m3.gops.any (fun g => decide (g.id = v.gop)) then m3
    else m3.stepDone v.stn v.gop

def execSieveVerdict (s : State) : Host.Outcome State Fault Refusal := .next s.deliverVerdict

end Sys2Proof.Machine
end

