-- ==== Sys2Proof/Machine/GopRun.lean ====
section
/-! DEFINITION. A Griddle operation from issue to boundary: the issue checks of its Ladle programs (R113, R114, R116,
R119, R128, R134, R146, R154), waves (R61 to R66, R74, R75, R102), column results (R40, R41, R46 to R51, R112, R115),
tile release under OVF 1 (R153), the boundary (R73, R76 to R79) and the grant. -/

namespace Sys2Proof.Machine

/-! ## The arbiter (R79) -/

def State.setGop (m : State) (g : Gop) : State := { m with gops := m.gops.map (fun x => if x.id = g.id then g else x) }

/-- Chained issue (R73): same region, FLOW, MODE, FMT pair and SPLIT, and no fence between. -/
def chainable (a b : GopF) (fenced : Bool) : Bool :=
  !fenced && decide (a.flow = b.flow ∧ a.mode = b.mode ∧ a.split = b.split ∧ a.pr0 = b.pr0 ∧ a.pr1 = b.pr1 ∧ a.pc0 = b.pc0 ∧
    a.pc1 = b.pc1 ∧ opFmt a.a = opFmt b.a ∧ opFmt a.b = opFmt b.b)

/-- Every address of OPA has been injected. -/
def Gop.allIn (g : Gop) : Bool := decide (g.agA.yield ≤ g.injected)

def State.vtOf (m : State) (n : Nat) : Nat := m.vt.get (fun _ => 0) n

/-- The winner among ready stations: least virtual time, then least index. -/
def State.winner (m : State) (ready : List Nat) : Option Nat :=
  ready.foldl (fun (b : Option Nat) n => match b with
    | none => some n
    | some k => if m.vtOf n < m.vtOf k ∨ (m.vtOf n = m.vtOf k ∧ n < k) then some n else some k) none

/-- A station that has just become ready gets no credit for idle time. -/
def State.levelVt (m : State) (ready : List Nat) : State :=
  let floor := match m.winner ready with
    | some n => m.vtOf n
    | none => 0
  let m1 := ready.foldl (fun m n =>
    if n ∈ m.justReady then { m with vt := m.vt.set (fun _ => 0) n (max (m.vtOf n) floor) } else m) m
  { m1 with justReady := m1.justReady.filter (fun n => decide (n ∉ ready)) }

/-- Load the first held tile of an operation (R61, R70): nothing for OS, and nothing where a tile is loaded or active. -/
def State.loadFirst (m : State) (g : Gop) : Gop :=
  if g.f.flow = 1 ∨ g.shadow.isSome ∨ !g.held.isEmpty then g else { g with shadow := some (0, m.heldElems g 0) }

/-- Held tiles of an operation. -/
def Gop.nTiles (g : Gop) : Nat := if g.f.flow = 1 then g.f.outTiles g.agB.yield else g.f.tiles g.agB.yield

/-- The last wave injected belongs to the last held tile, so that the shadow registers are free (R62). -/
def Gop.inLastTile (g : Gop) : Bool := g.holds (g.nTiles - 1) && g.shadow.isNone

/-- R61: while operation p streams its last held tile, the sequencer loads the first tile of the station's next operation into
the shadow registers. It is refused where PRE is clear, where p or the next operation is not WS, and where the held operand
fills both registers. Another station's operation is never the next. -/
def State.preloadNext (m : State) (p : Gop) : State :=
  if !p.granted || !p.inLastTile || !p.f.pre || decide (p.f.flow ≠ 0) || p.f.bothRegs then m
  else match m.gops.find? (fun g => decide (g.stn = p.stn ∧ p.id < g.id)) with
    | some g => if g.f.flow ≠ 0 ∨ g.f.bothRegs then m else m.setGop (m.loadFirst g)
    | none => m

/-- Norm accumulators an operation names: quadrant and accumulator, a ratio pair naming both (R146, R149). -/
def State.normsOf (m : State) (g : Gop) : List (Nat × Nat) :=
  g.drains.flatMap (fun d =>
    if !d.f.norm then []
    else if m.inPair g.stn d.f.nreg then [(d.quad, d.f.nreg / 2 * 2), (d.quad, d.f.nreg / 2 * 2 + 1)]
    else [(d.quad, d.f.nreg)])

/-- A norm job's accumulators. -/
def NormJob.regs (j : NormJob) : List (Nat × Nat) :=
  if j.flush then (List.range 4).flatMap (fun q => [(q, 2 * j.b), (q, 2 * j.b + 1)]) else [(j.q, j.c)]

/-- A SCAN or RFLUSH that is not complete holds an accumulator the operation names: its grant waits (R149). -/
def State.normHeld (m : State) (g : Gop) : Bool :=
  (m.normsOf g).any (fun r => m.norms.any (fun j => decide (j.stn = g.stn) && decide (r ∈ j.regs)))

/-- Station n's operation that the array would take next: its oldest ungranted one (R73). -/
def State.nextGop (m : State) (n : Nat) : Option Gop := m.gops.find? (fun g => decide (g.stn = n) && !g.granted)

/-- Station n's next operation may be granted: there is one, and no norm job holds it (R149). -/
def State.grantable (m : State) (n : Nat) : Bool := (m.nextGop n).any (fun g => !m.normHeld g)

/-- Grant station n's waiting operation: it counts toward the step open now (R307). Its held load starts here unless its first
tile was preloaded; an INT8 × TB1 successor loads at the boundary before it (R73). A preload never outlives a switch to
another station (R61, R80). -/
def State.grantTo (m : State) (n : Nat) (fresh : Bool) : State :=
  match m.nextGop n with
  | none => m
  | some g =>
    let alone := m.gops.all (fun x => !x.granted)
    let g1 := if g.f.bothRegs && !alone then g else m.loadFirst g
    let m0 := m.setGop { g1 with granted := true }
    let m1 : State := { m0 with gops := m0.gops.map (fun (x : Gop) => if x.stn ≠ n ∧ x.granted = false then { x with shadow := none } else x) }
    let m2 := (if fresh ∧ m1.fld (Reg.grd_ARB_CUR 0) ≠ n then m1.setFld (Reg.grd_RUN_ACYC 0) 0 else m1).setFld (Reg.grd_ARB_CUR 0) n
    let st := m2.steps.get (fun _ => .idle) n
    { m2 with steps := m2.steps.set (fun _ => .idle) n { st with open_ := st.open_ ++ [g.id] } }

/-- One choice of the arbiter: a chained successor once the operation before it has injected its last wave, else, with the
array idle, the winner of R79. -/
def State.arbitrate (m : State) : State :=
  if m.safe then m
  else
    let wt (n : Nat) : Bool := decide (0 < m.fld (Reg.sys_GRD_WEIGHT n))
    let ready := (List.range 8).filter (fun n => m.grantable n && wt n)
    let cur := m.fld (Reg.grd_ARB_CUR 0)
    let chainCur := (m.nextGop cur).any (fun g => g.chained)
    let quantum := m.fld (Reg.grd_GRD_ARB_QUANTUM 0)
    let active := m.gops.filter (fun g => g.granted)
    if cur ∈ ready ∧ chainCur ∧ m.fld (Reg.grd_RUN_ACYC 0) < quantum ∧ active.all (fun g => g.allIn) then m.grantTo cur false
    else if active.isEmpty then
      let m1 := m.levelVt ready
      match m1.winner ready with
      | none => m
      | some n => m1.grantTo n true
    else m

/-! ## Issue -/

/-- The keep interval of a program: first byte and length as a global address, and whether it is dense and its yield
right (R119). -/
def Drain.keepIvl (d : Drain) (own w runs : Nat) : Option (Nat × Nat × Bool) :=
  let f := d.f
  let rb := (if f.trn then 32 else w) * bitsOfCode f.keep / 8
  let em := f.emitted runs w
  let base := f.base own d.quad
  if f.dag = 64 then some (base, em * rb, true)
  else
    let b := d.dag.bound (gLocal base) rb
    if b.1 < 0 ∨ (2 ^ 44 : Int) ≤ b.2 then none
    else
      let len := (b.2 - b.1 + 1).toNat
      some (gNode base * 2 ^ 44 + b.1.toNat, len, decide (d.dag.yield = em ∧ (f.dkind = 2 ∨ em * rb = len)))

/-- The side-stream interval that follows from a keep interval (R117); its start is an integer, since a keep below DST takes the
side stream below SIDE. -/
def Drain.sideIvl (d : Drain) (own lo len : Nat) : Int × Nat :=
  let f := d.f
  let sb := bitsOfCode f.sfmt
  let kb := max 1 (bitsOfCode f.keep)
  ((f.side : Int) + ((lo : Int) - f.base own d.quad) * sb / kb, (len * sb + kb - 1) / kb)

/-- A memory interval at a global address: inside the station's memory when local; for a remote node it passes R31 there
(R97). -/
def State.memIvlOk (m : State) (n a len : Nat) : Bool :=
  decide (len = 0) || (decide (gNode a ≠ m.nodeId) && remoteOk (gLocal a) len) || m.inRange n (gLocal a) len

/-- A Tray interval (local addresses) inside the station's window. -/
def State.trayIvlOk (m : State) (n a len : Nat) : Bool :=
  let o := a - trayAddr 0 0
  decide (len = 0) || (decide (trayAddr 0 0 ≤ a ∧ o < 2 ^ 28) && m.inTray n ⟨o, len, false⟩)

/-- Stockpot block b of quadrant q is open, or an OPEN that covers it is outstanding (R128). -/
def State.blockReady (m : State) (q b : Nat) : Bool :=
  bitOf (m.fld (spByte q b)) 0 ||
    m.spks.any (fun s => decide (s.q = q ∧ s.op = 0 ∧ s.blk ≤ b ∧ b < s.blk + s.nblk))

/-- Output columns and rows of an operation. -/
def GopF.outCols (f : GopF) (yb : Nat) : Nat := if f.flow = 1 then f.w else f.outTiles yb * f.cols
def GopF.outRows (f : GopF) (yb : Nat) : Nat := if f.flow = 1 then f.outTiles yb * f.h else f.mrows

/-- The checks of one Ladle program at GOP issue; ovf: some program of the operation selects OVF 1 (R154 binds every Ladle it
drains into). OFMT 0xF is refused whatever DKIND is, and SIDEFMT 0xF only where SMODE uses it: R34 refuses a command that
names the code, and does not say whether an unused field names it (DESIGN CHOICE, log 92). -/
def State.programOk (m : State) (n : Nat) (gf : GopF) (yb : Nat) (ovf : Bool) (d : Drain) : Bool :=
  let f := d.f
  let own := m.nodeId
  let q := d.quad
  let w := gf.wOf q
  let runs := gf.runs yb q
  let cols := gf.outCols yb
  let rows := gf.outRows yb
  let aux := 8 * f.auxoff
  let inAux (o len : Nat) : Bool := m.inTray n ⟨q * 2 ^ 26 + aux + o, len, false⟩
  -- refused codes (R116, R34)
  decide (f.dkind ≤ 4 ∧ f.rnd ≤ 4 ∧ f.act ≤ 7 ∧ f.smode ≤ 2 ∧ f.red ≤ 2 ∧ f.dag ≤ 64 ∧ f.ofmt ≠ 15) &&
  decide (f.smode = 0 ∨ f.sfmt ≠ 15) &&
  -- R119: derivatives
  (!f.deriv || decide (f.act ≠ 0 ∧ f.act ≠ 7 ∧ f.smode = 1)) &&
  -- TRN
  (!f.trn || (decide (f.dkind ≤ 1) && decide (gf.tileRows q % 32 = 0))) &&
  -- R113: slice modes
  (!gf.isSlice || (decide (f.ofmt ≤ 5 ∧ f.smode = 0 ∧ f.act = 0) && !f.scl && !f.bias && !f.trn)) &&
  -- R114: partial buffer
  decide (gf.flow = 1 ∨ (if gf.isSlice then gf.mrows * w ≤ 1048576 else gf.kch ≤ 1 ∨ gf.mrows * w ≤ 4194304)) &&
  -- R154
  (!ovf || (!f.scl && !f.bias && decide (f.smode = 0 ∧ f.act = 0 ∧ f.red = 0) && !f.trn && gf.short &&
    decide (gf.mrows * w ≤ 4194304))) &&
  -- R146
  (!(f.norm && m.inPair n f.nreg) || decide (f.nreg % 2 = 0 ∧ f.smode = 1 ∧ f.act = 0)) &&
  -- R118 and the auxiliary interval
  (!f.usesN || decide (cols ≤ 16384)) && (!f.usesR || decide (rows ≤ 262144)) &&
  (!f.bias || inAux 0 (4 * cols)) && (!f.scl || inAux 0x1_0000 (4 * cols)) && (!f.usesR || inAux 0x2_0000 (4 * rows)) &&
  -- destination and side intervals
  decide (f.dkind ≠ 0 ∨ f.dst < 2 ^ 28) && decide (f.dkind ≠ 2 ∨ f.dst < 2 ^ 26) &&
  (match d.keepIvl own w runs with
    | none => decide (f.dkind = 4 ∧ f.smode = 0)
    | some (lo, len, ok) =>
      let sd := d.sideIvl own lo len
      (decide (f.smode = 0) || (decide (0 ≤ sd.1) && m.memIvlOk n sd.1.toNat sd.2)) &&
      (match f.dkind with
        | 0 => ok && decide (lo % 4096 = 0 ∧ len % 4096 = 0) && m.trayIvlOk n (gLocal lo) len
        | 1 => ok && decide (lo % 4096 = 0 ∧ len % 4096 = 0) && m.memIvlOk n lo len
        | 3 => ok && decide (lo % 4096 = 0 ∧ len % 4096 = 0) && m.memIvlOk n lo len
        | 2 =>
          let o := gLocal lo - potAddr q 0
          ok && decide (potAddr q 0 ≤ gLocal lo) && inWin (m.potWin n q) o len && decide (o + len ≤ 2 ^ 26) &&
            (decide (len = 0) || (List.range ((o + len - 1) / 4096 + 1 - o / 4096)).all (fun i => m.blockReady q (o / 4096 + i)))
        | _ => true))

/-- The drain programs of a launch's GOP, copied with their generators; none where a slot is empty (R102, R117). -/
def State.programs (m : State) (n : Nat) (f : GopF) : Option (List Drain) :=
  f.ladles.mapM (fun q => (m.lslot q n f.lslot).map (fun w =>
    (⟨q, w, m.gen q n ((drainF w.toNat).dag % 64)⟩ : Drain)))

/-- Tray intervals of an operation on the scoreboard: operands read, Tray destinations written (R86). -/
def Gop.trayIvls (g : Gop) (own : Nat) : List Ivl :=
  (g.f.operands g.agA g.agB).filterMap (fun o => o) ++
  g.drains.filterMap (fun d =>
    if d.f.dkind = 0 then (d.keepIvl own (g.f.wOf d.quad) (g.f.runs g.agB.yield d.quad)).map (fun k =>
      (⟨gLocal k.1 - trayAddr 0 0, k.2.1, true⟩ : Ivl)) else none)

/-- Stockpot blocks an operation accumulates into: quadrant, first block, blocks (R129). -/
def Gop.potIvls (g : Gop) (own : Nat) : List (Nat × Nat × Nat) :=
  g.drains.filterMap (fun d =>
    if d.f.dkind = 2 then (d.keepIvl own (g.f.wOf d.quad) (g.f.runs g.agB.yield d.quad)).bind (fun k =>
      if k.2.1 = 0 then none
      else
        let o := gLocal k.1 - potAddr d.quad 0
        some (d.quad, o / 4096, (o + k.2.1 - 1) / 4096 + 1 - o / 4096)) else none)

def blocksMeet (a b : Nat × Nat × Nat) : Bool := decide (a.1 = b.1 ∧ a.2.1 < b.2.1 + b.2.2 ∧ b.2.1 < a.2.1 + a.2.2)

/-- The operation must wait at issue (R73, R85, R86, R129, R149). -/
def State.gopWaits (m : State) (g : Gop) (fenced : Bool) : Bool :=
  let own := m.nodeId
  let prev := (m.gopsOf g.stn).getLast?
  (match prev with
    | none => false
    | some p => !chainable p.f g.f fenced) ||
  (g.trayIvls own).any (fun i => m.xfers.any (fun x => x.ivl.meets i) ||
    m.gops.any (fun x => (x.trayIvls own).any (fun j => j.meets i))) ||
  (g.potIvls own).any (fun b => m.spks.any (fun s => blocksMeet (s.q, s.blk, s.nblk) b) ||
    m.gops.any (fun x => (x.potIvls own).any (fun c => blocksMeet c b)) ||
    m.norms.any (fun j => !j.flush && blocksMeet (j.q, j.a, j.b) b)) ||
  m.normHeld g

/-- GOP issue (R84, R102): refused, waiting, or issued and waiting for its grant. A gang command issues once for the launch; the
lowest quadrant of QMASK counts as the one that detects a refusal and records it (R28, R56, R87 name "the quadrant";
DESIGN CHOICE, log 12). -/
def State.issueGop (m : State) (n : Nat) : State :=
  match m.gangWord n 0x10 with
  | none => m
  | some (l, w) =>
    let f := gopF w
    let q0 := (quads l.qmask).headD 0
    let ga := m.gen q0 n (opAg f.a)
    let gb := m.gen q0 n (opAg f.b)
    match m.programs n f with
    | none => m.stopRecipe n 1 q0
    | some ds =>
      let ovf := ds.any (fun d => d.f.ovf)
      if !m.gopOperandsOk n l f ga gb ovf || !ds.all (fun d => m.programOk n f gb.yield ovf d) then
        m.stopRecipe n 1 q0
      else
        let (id, m1) := m.freshId
        let g : Gop :=
          { id := id, stn := n, pc := m.pc n q0, qmask := l.qmask, word := BitVec.ofNat 256 w, agA := ga, agB := gb, drains := ds,
            fenced := l.fenced, granted := false, chained := !(m.gopsOf n).isEmpty, injected := 0, inflight := [], held := [], shadow := none,
            col := 0, done := 0, parts := [], rows := [], blocks := [], psnBlocks := [], runs := [], staged := [],
            released := 0, reissue := false, checks := [], taps := [], mxbuf := [], wbuf := [], slip := none, poison := false }
        if m.gopWaits g l.fenced then m
        else
          let m2 := m1.gangDone n { l with fenced := false } false
          let m3 : State := { m2 with gops := m2.gops ++ [g], justReady := if n ∈ m2.justReady then m2.justReady else n :: m2.justReady }
          match (m.gopsOf n).getLast? with
          | some p => m3.preloadNext p
          | none => m3

/-! ## Waves -/

/-- Waves of a tile, and what wave number k is: tile, pass and row (R102). In OS the tile is the output tile,
the pass the chunk, and the row the wave within the chunk. -/
def GopF.tileWaves (f : GopF) : Nat := if f.flow = 1 then f.kch * f.h else f.p * f.mrows

def Gop.waveAt (g : Gop) (k : Nat) : Nat × Nat × Nat :=
  let f := g.f
  let pm := max 1 f.tileWaves
  if f.flow = 1 then (k / pm, k % pm / f.h, k % f.h)
  else
    let t := min (k / pm) (g.nTiles - 1)
    let i := k - t * pm
    let p := min (i / max 1 f.mrows) (f.p - 1)
    (t, p, i - p * f.mrows)

def Gop.ovf (g : Gop) : Bool := g.drains.any (fun d => d.f.ovf)

/-- The next wave may enter: the operation is granted, an address is left, its held tile is active or loaded, and under OVF 1
the tile before is released. Where the held operand fills both registers, a tile after the first loads once the tile before
it has run out, and the first once no operation before it is in the array (alone; R62, R73). -/
def Gop.canInject (g : Gop) (alone : Bool) : Bool :=
  let t := (g.waveAt g.injected).1
  g.granted && !g.allIn &&
  (decide (g.f.flow = 1) || g.holds t || (match g.shadow with | some h => decide (h.1 = t) | none => false) || !g.f.bothRegs ||
    (g.inflight.isEmpty && (decide (0 < t) || alone))) &&
  (!g.ovf || decide (t ≤ g.released) || decide (g.nTiles ≤ t))

/-- Make tile t active for its first wave, and start the load of the tile after it into the shadow registers (R62). -/
def State.activateTile (m : State) (g : Gop) (t : Nat) : Gop :=
  if g.f.flow = 1 ∨ g.holds t then g
  else
    let cols := match g.shadow with
      | some h => if h.1 = t then h.2 else m.heldElems g t
      | none => m.heldElems g t
    let flying := g.held.filter (fun h => g.inflight.any (fun w => decide (w.tile = h.1)))
    { g with held := flying ++ [(t, cols)],
             shadow := if t + 1 < g.nTiles ∧ !g.f.bothRegs then some (t + 1, m.heldElems g (t + 1)) else none }

/-- Record an operation's first slip: the Griddle's capture, count and one event (R77, R81). -/
def State.slip (m : State) (g : Gop) (s : Slip) (inj : Bool) : State × Gop :=
  if g.slip.isSome then (m, g)
  else
    let q := s.quad
    let m1 :=
      if m.flag (Reg.grd_VALID q) then m
      else (((((m.setFld (Reg.grd_WAVE_EXP q) s.exp).setFld (Reg.grd_WAVE_GOT q) s.got).setFld (Reg.grd_ISLAND q) s.loc).setFld
        (Reg.grd_KIND q) s.kind).setFld (Reg.grd_SLIP_STN q) g.stn).setFlag (Reg.grd_VALID q) true
    ((m1.bump (Reg.grd_SLIP_CNT q) 1).report
      { page := 0x04 + q, code := Code.schedSlip, stn := some g.stn, master := 0x18 + q, acc := 6, inj := inj },
      { g with slip := some s })

/-- Quadrant of an island (R5): islands are 8 to a row. -/
def islandQuad (i : Nat) : Nat := 2 * (i / 32) + i % 8 / 4

/-- Where cells first see a wave's inverted tag when quadrant q's injector stamped it on operand A, or on OS operand B: region
row and column. A column chain meets it where the rows of q's share meet other rows, at the region's first column; an OS cell
compares its two operands, and the earliest is where the stamped one enters. None: every lane of a chain carries the inverted
tag, and the Ladle finds it (R74, R76). -/
def GopF.mismatchAt (f : GopF) (q : Nat) (opB : Bool) : Option (Nat × Nat) :=
  if f.flow = 1 then (if opB then some (f.h - 1, f.col0 q) else some (f.row0 q + f.hOf q - 1, 0))
  else if f.split then none
  else if 0 < f.row0 q then some (f.row0 q, 0)
  else if f.hOf q < f.h then some (f.hOf q, 0)
  else none

/-- Island of region row r and column c (R5). -/
def GopF.islandOf (f : GopF) (r c : Nat) : Nat := 8 * ((16 * f.pr0 + r) / 256) + (16 * f.pc0 + c) / 256

/-- Detections of one acyc: the lowest island index is taken (R77). -/
def firstMis (l : List Mis) : Option Mis :=
  l.foldl (fun (b : Option Mis) x => match b with
    | none => some x
    | some y => if x.island.val < y.island.val then some x else some y) none

/-- A wave's products, counted in the quadrants that perform them (R81 PROD). -/
def State.countProd (m : State) (f : GopF) : State :=
  f.region.foldl (fun m q => m.bump (Reg.grd_PROD q) (f.hOf q * f.wOf q * f.lanes)) m

/-- WAVE_INJECT (R74): the next wave of the operation at the head of the array. -/
def State.injectWave (m : State) (mis : List Mis) (upset : Bool) : State :=
  match m.gops.find? (fun g => g.granted && !g.allIn) with
  | none => m
  | some g =>
    let alone := m.gops.all (fun x => !x.granted || decide (x.id = g.id ∨ g.id < x.id))
    if !g.canInject alone || m.safe then m
    else
      let f := g.f
      let k := g.injected
      let (tile, pass, row) := g.waveAt k
      let q0 := (f.entryA.find? (fun q => m.injFires (0x0C + q) 1)).getD (f.entryA.headD 0)
      let o := g.agA.addr (opBase f.a % 2 ^ 26) k
      let rd := m.sramRead (0x0C + q0) 1 g.stn (0x10 + q0) (trayAddr q0 o) upset
      let bad := if rd.1 then some (trayAddr q0 o / 32) else none
      let m1 := rd.2
      let g1 := m1.activateTile g tile
      let elems := if f.flow = 2 then m1.rsElems g k bad else m1.rowElems g k bad
      let belems := if f.flow = 1 then m1.osElemsB g k none else []
      -- an armed injection inverts the tag that its quadrant's injector stamps (R332)
      let qi := (f.entryA ++ (if f.flow = 1 then f.entryB else [])).find? (fun q => m1.injFires (0x04 + q) 0)
      let at_ := qi.bind (fun q => f.mismatchAt q (decide (q ∉ f.entryA)))
      let tag := if qi.isSome && at_.isNone then 3 - k % 4 else k % 4
      let m2 := match qi with
        | some q => m1.disarm (0x04 + q)
        | none => m1
      let r1 := match firstMis mis with
        | some x => m2.slip g1 ⟨if x.entry then 1 else 0, x.island.val, x.exp, x.got, islandQuad x.island.val⟩ false
        | none => (m2, g1)
      let r2 := match at_ with
        | some c => r1.1.slip r1.2 ⟨0, f.islandOf c.1 c.2, k % 4, 3 - k % 4, islandQuad (f.islandOf c.1 c.2)⟩ true
        | none => r1
      let wv : Wave := ⟨k, tile, pass, row, tag, elems, belems⟩
      let g2 := { r2.2 with injected := k + 1, inflight := r2.2.inflight ++ [wv] }
      ((r2.1.countProd f).setGop g2).preloadNext g2

/-! ## Column results -/

/-- A result is due: WS and RS a wave, OS a whole chunk of H waves. -/
def Gop.due (g : Gop) : Bool :=
  g.granted && (if g.f.flow = 1 then decide (g.f.h ≤ g.inflight.length) else !g.inflight.isEmpty)

/-- What one column result is: its pieces along the chain, the Ladle, and where it goes. -/
structure Cell where
  quad : Nat
  /-- region row (OS) or wave row, and column of the operation -/
  row : Nat
  col : Nat
  /-- held tile or output tile, and for OS the chunk, else the pass -/
  tile : Nat
  pass : Nat
  xs : List Elem
  ys : List Elem
  /-- chunk of the output element, and whether it is its last term -/
  chunk : Nat
  last : Bool
  deriving DecidableEq, Repr

/-- The column result at the head of an operation. -/
def Gop.cell (g : Gop) : Option Cell :=
  let f := g.f
  let hl := f.h * f.lanes
  let z : Elem := ⟨0, 127, false⟩
  match g.inflight with
  | [] => none
  | wv :: _ =>
    if f.flow = 1 then
      let ws := g.inflight.take f.h
      let r := g.col / f.w
      let c := g.col % f.w
      some ⟨f.quadAt 0 r c, r, c, wv.tile, wv.pass, ws.flatMap (fun w => (w.elems.drop (r * f.lanes)).take f.lanes),
        ws.flatMap (fun w => (w.belems.drop (c * f.lanes)).take f.lanes), wv.pass, decide (wv.pass + 1 = f.kch)⟩
    else
      let c := g.col
      let ys := (g.heldOf wv.tile).getD c (List.replicate hl z)
      let chunk := wv.tile % max 1 f.kch
      some ⟨f.ladleAt 0 c, wv.row, c, wv.tile, wv.pass, (wv.elems.drop (f.posOf c)).take hl, ys, chunk,
        decide (chunk + 1 = f.kch ∧ wv.pass + 1 = f.p)⟩

/-- Results beyond the declared counts are counted and kept nowhere (R102). -/
def Gop.extra (g : Gop) (c : Cell) : Bool :=
  if g.f.flow = 1 then decide (g.nTiles ≤ c.tile) else decide (g.f.mrows ≤ c.row)

/-- Column tile of a result, its run and position in its Ladle, and its output row and column (R117). -/
def Gop.place (g : Gop) (c : Cell) : Nat × Nat × Nat × Nat × Nat :=
  let f := g.f
  let pos := c.col % f.w - f.col0 c.quad
  if f.flow = 1 then (c.tile, c.tile * f.hOf c.quad + (c.row - f.row0 c.quad), pos, c.tile * f.h + c.row, c.col)
  else
    let ct := c.tile / max 1 f.kch
    (ct, ct * f.mrows + c.row, pos, c.row, ct * f.cols + c.col)

/-- The part of a result's output element, before this result. -/
def Gop.partKey (g : Gop) (c : Cell) : Nat := c.row * g.f.cols + c.col

def SMap.part (m : SMap Part) (k : Nat) : Part := m.get (fun _ => .empty) k

/-- One column result added to its part; answers the part, the FP32 chain value and the exact sum. -/
def GopF.addResult (f : GopF) (c : Cell) (p : Part) (shift : Bool) (bad : Bool) : Part × Nat × Int :=
  let ca := opFmt f.a
  let cb := opFmt f.b
  let psn := p.psn || bad || c.xs.any (fun e => e.psn) || c.ys.any (fun e => e.psn)
  if f.short then
    let s := chainShort (if shift then 16 else 0) (c.xs.map (fun e => e.num ca)) (c.ys.map (fun e => e.num cb))
    let old := (Fmt.fp32.decode p.f).scale (if shift ∧ f.flow ≠ 1 then -16 else 0)
    let r : Nat × Flags := if p.chunks = 0 then (s.1, .none) else Arith.acc.addNum old (Fmt.fp32.decode s.1)
    ({ p with f := r.1, flags := (p.flags.or s.2).or r.2, psn := psn, chunks := p.chunks + 1 }, s.1, 0)
  else if f.isInt then
    let s := chainInt ca cb c.xs c.ys
    ({ p with i := p.i + s, psn := psn, chunks := p.chunks + 1 }, 0, s)
  else
    let fa := (fmtOfCode ca).getD .fp64
    let xs := c.xs.map (fun e => e.num ca)
    let ys := c.ys.map (fun e => e.num cb)
    let ea := f.ec ca c.xs
    let eb := f.ec cb c.ys
    let ij := (passesOf f.mode).getD c.pass (0, 0)
    let s := ((xs.zip ys).map (fun e => sliceOf f.mode fa e.1 ea ij.1 * sliceOf f.mode fa e.2 eb ij.2)).sum
    let cl := (xs.zip ys).foldl (fun (a : Bool × Bool × Bool) e =>
      let k := prodClass e.1 e.2
      (a.1 || k.1, a.2.1 || k.2.1, a.2.2 || k.2.2)) (false, false, false)
    let tm : Term := ⟨c.chunk, ij.1, ij.2, s, ea, eb, xs.length⟩
    let p1 := { p with terms := p.terms ++ [tm], psn := psn, chunks := p.chunks + 1 }
    ({ p1 with cNan := p.cNan || cl.1, cPos := p.cPos || cl.2.1, cNeg := p.cNeg || cl.2.2 }, 0, s)

/-- After the last column of the head wave or chunk: it leaves the array, and the Sieve's taps take it. -/
def State.retire (m : State) (g : Gop) (sieve : Bool) : State × Gop :=
  let f := g.f
  if f.flow = 1 then
    let ws := g.inflight.take f.h
    let g1 := { g with inflight := g.inflight.drop f.h, col := 0, done := g.done + f.h }
    match ws with
    | [] => (m, g1)
    | w :: _ =>
      if !sieve then (m, g1)
      else
        let mine (c : Check) : Bool := decide (c.tile = w.tile)
        let upd (c : Check) : Check :=
          let r := f.predictOs ws c.quad c.grp (c.p, c.qmag)
          if mine c then { c with p := r.1, qmag := r.2 } else c
        let g2 := { g1 with checks := g1.checks.map upd }
        if w.pass + 1 = f.kch ∧ !g2.ovf then m.queueVerdicts g2 mine else (m, g2)
  else
    match g.inflight with
    | [] => (m, g)
    | w :: rest =>
      let g1 := { g with inflight := rest, col := 0, done := g.done + 1 }
      if !sieve then (m, g1)
      else
        let g2 := g1.tapWave w
        let nx := g2.waveAt (w.num + 1)
        if (nx.1, nx.2.1) ≠ (w.tile, w.pass) ∨ w.num + 1 = g2.f.waves ∨ (g2.allIn ∧ rest.isEmpty) then
          let mine (c : Check) : Bool := decide (c.tile = w.tile ∧ c.pass = w.pass)
          let upd (c : Check) : Check :=
            let r := g2.predict w.tile w.pass c.quad c.grp
            if mine c then { c with p := r.1, qmag := r.2 } else c
          let g3 := { g2 with taps := [], checks := g2.checks.map upd }
          if g3.ovf then (m, g3) else m.queueVerdicts g3 mine
        else (m, g2)

/-- The last column of the head wave or chunk. -/
def Gop.lastCol (g : Gop) : Nat := (if g.f.flow = 1 then g.f.h * g.f.w else g.f.cols) - 1

/-- Deliver a finished element to stages 2 to 8 of its Ladle. -/
def State.deliver (m : State) (g : Gop) (c : Cell) (p : Part) (upset : Bool) : State × Gop :=
  match g.drains.find? (fun d => decide (d.quad = c.quad)) with
  | none => (m, g)
  | some d =>
    let (ct, run, pos, mrow, ncol) := g.place c
    let r := m.drainElem g d (g.f.wOf c.quad) run pos mrow ncol ct (p.finish g.f d.f) upset
    let z : Nat → Nat := fun _ => 0
    (r.1, if pos + 1 = g.f.wOf c.quad then { r.2 with runs := r.2.runs.set z c.quad (r.2.runs.get z c.quad + 1) } else r.2)

/-- Remote bytes that delivering c needs and that are not here. -/
def State.missing (m : State) (g : Gop) (c : Cell) : List (Nat × Nat) :=
  match g.drains.find? (fun d => decide (d.quad = c.quad)) with
  | none => []
  | some d =>
    let (_, run, pos, _, _) := g.place c
    (d.remoteReads m.nodeId (g.f.wOf c.quad) run pos).filter (fun r => !m.atHand g.id r.1 r.2)

/-- A hold of R14 in the array: each COLUMN_RESULT that cannot enter its Ladle is one acyc in which the region's islands hold
(R81 HOLD_ACYC; DESIGN CHOICE, log 11). -/
def State.countHold (m : State) (f : GopF) : State :=
  f.region.foldl (fun m q =>
    let r0 := (16 * f.pr0 + f.row0 q) / 256
    let r1 := (16 * f.pr0 + f.row0 q + f.hOf q - 1) / 256
    let c0 := (16 * f.pc0 + f.col0 q) / 256
    let c1 := (16 * f.pc0 + f.col0 q + f.wOf q - 1) / 256
    m.bump (Reg.grd_HOLD_ACYC q) ((r1 + 1 - r0) * (c1 + 1 - c0))) m

/-- The Ladle's check of the first column of a wave: the n-th result carries tag n mod 4 (R76). The tag is wrong only where an
injection inverted it. An OS chunk sum takes its tag from the drain chain, in order. -/
def State.checkTag (m : State) (g : Gop) (c : Cell) : State × Gop :=
  match g.inflight with
  | [] => (m, g)
  | w :: _ =>
    if g.f.flow ≠ 1 ∧ w.tag ≠ g.done % 4 then m.slip g ⟨2, c.quad, g.done % 4, w.tag, c.quad⟩ true else (m, g)

/-- COLUMN_RESULT (R112): the next column result, in delivery order. It holds (R115) while a remote side value has not
arrived or the Sieve's queue is full (R307). upset: a double error in the word the Ladle reads for it. laneDiff: the two
lanes differ (R309). -/
def State.columnResult (m : State) (upset laneDiff : Bool) : State :=
  match m.gops.find? (fun g => g.due) with
  | none => m
  | some g =>
    match g.cell with
    | none => m
    | some c =>
      let sieve := decide (1 ≤ m.integ g.stn)
      let ovfHere := g.drains.any (fun d => decide (d.quad = c.quad) && d.f.ovf)
      let deliverNow := c.last && !g.extra c && !(g.ovf && (ovfHere || g.reissue))
      let need := if deliverNow then m.missing g c else []
      if m.safe then m
      else if !need.isEmpty then
        need.foldl (fun m x => m.ask g.id g.stn (0x08 + c.quad) x.1 x.2) (m.countHold g.f)
      else if sieve ∧ g.col = g.lastCol ∧ 64 ≤ m.sievePend then m.countHold g.f
      else
        let tc := m.checkTag g c
        let m := tc.1
        let g := tc.2
        let k := g.partKey c
        let p := g.parts.part k
        let reads := decide (p.chunks ≠ 0)
        let rd := if reads then m.sramRead (0x08 + c.quad) 0 g.stn (0x14 + c.quad) 0 upset else (false, m)
        let r := g.f.addResult c p g.reissue (rd.1 || g.slip.isSome || g.poison)
        let p1 := r.1
        let g0 := if sieve then g.observe c.quad ((16 * g.f.pc0 + c.col % g.f.w) / 256) c.tile (if g.f.flow = 1 then 0 else c.pass)
          r.2.1 r.2.2 (p1.flags.nv || p1.flags.of) else g
        let m1 :=
          if laneDiff ∧ sieve ∧ c.last then
            let a := rd.2.drawWord
            let b := a.2.drawWord
            let t := b.2.drawWord
            let ij := (passesOf g.f.mode).getD c.pass (0, 0)
            t.2.sieveMismatch g.stn c.quad ((16 * g.f.pc0 + c.col % g.f.w) / 256)
              (if g.f.isSlice then 4 * ij.1 + ij.2 else 0) 3 c.tile a.1.toNat b.1.toNat t.1.toNat false
          else rd.2
        let (m2, g1) :=
          if g.extra c then (m1, g0)
          else if !c.last then (m1, { g0 with parts := g0.parts.set (fun _ => .empty) k p1 })
          else if deliverNow then m1.deliver { g0 with parts := g0.parts.set (fun _ => .empty) k .empty } c p1 (upset && !reads)
          else if ovfHere then (m1, { g0 with staged := g0.staged ++ [⟨c.row, c.tile, c.col, p1⟩] })
          else (m1, g0)
        if g1.col = g1.lastCol then
          let e := m2.retire g1 sieve
          e.1.setGop e.2
        else m2.setGop { g1 with col := g1.col + 1 }

/-! ## Tile release (R153) -/

/-- Every result of the staged tile is in. -/
def Gop.tileDue (g : Gop) : Bool :=
  g.granted && g.ovf && decide (g.released < g.nTiles) &&
  ((decide ((g.released + 1) * g.f.tileWaves ≤ g.done) && decide (g.released + 1 < g.nTiles)) ||
    (g.allIn && !g.due))

/-- The result cell of a staged element. -/
def Gop.stagedCell (g : Gop) (s : Staged) : Cell :=
  ⟨if g.f.flow = 1 then g.f.quadAt 0 s.row s.col else g.f.ladleAt 0 s.col, s.row, s.col, s.tile, 0, [], [], 0, true⟩

/-- TILE_RELEASE: a staged tile is discarded for its one re-issue, or delivered in order. -/
def State.tileRelease (m : State) : State :=
  match m.gops.find? (fun g => g.tileDue) with
  | none => m
  | some g =>
    let start := g.released * g.f.tileWaves
    if m.safe then m
    else if !g.reissue && g.staged.any (fun s => s.part.flags.of) then
      let keep := if g.f.flow = 1 then [] else g.parts
      let ck := g.checks.filter (fun c => decide (c.tile ≠ g.released))
      let g1 := { g with injected := start, done := start, col := 0, inflight := [], staged := [], reissue := true, taps := [],
                         held := [], shadow := if g.f.flow = 1 then none else some (g.released, m.heldElems g g.released),
                         parts := keep, checks := ck }
      (g.f.ladles.foldl (fun m q => m.bump (Reg.ldl_OVT_CNT q) 1) m).setGop g1
    else
      let need := g.staged.flatMap (fun s => (m.missing g (g.stagedCell s)).map (fun r => ((g.stagedCell s).quad, r)))
      if !need.isEmpty then
        need.foldl (fun m x => m.ask g.id g.stn (0x08 + x.1) x.2.1 x.2.2) m
      else
        let r := g.staged.foldl (fun (s : State × Gop) x => s.1.deliver s.2 (s.2.stagedCell x) x.part false) (m, g)
        let e := r.1.queueVerdicts r.2 (fun c => decide (c.tile = g.released))
        let endOfCol := decide (g.f.flow = 1 ∨ (g.released + 1) % max 1 g.f.kch = 0)
        let ps := if endOfCol then [] else e.2.parts
        e.1.setGop { e.2 with staged := [], released := g.released + 1, reissue := false, parts := ps }

/-! ## The boundary -/

/-- Every result has entered and nothing is left to release. -/
def Gop.atEnd (g : Gop) : Bool := g.granted && g.allIn && !g.due && !g.tileDue && g.staged.isEmpty

/-- R122 steps 2 and 3, and the writes of r[m]: one row. A poisoned part poisons the row values of its 4 KiB block (R124, log
14). -/
def State.writeRow (m : State) (g : Gop) (mrow : Nat) : State :=
  let parts := g.rows.filter (fun r => decide (r.m = mrow))
  let ds := g.drains.filter (fun d => decide (d.f.red ≠ 0))
  match ds with
  | [] => m
  | d0 :: _ =>
    let red := d0.f.red
    let tiles := (parts.map (fun r => r.tile)).dedup.mergeSort (fun a b => decide (a ≤ b))
    let fold (xs : List RowPart) : Option (Nat × Flags) :=
      xs.foldl (fun (acc : Option (Nat × Flags)) x => match acc with
        | none => some (x.val, .none)
        | some a => let r := redStep red g.f.isSlice a.1 (Fmt.fp32.decode x.val); some (r.1, a.2.or r.2)) none
    let perTile : List (Nat × Flags) := tiles.filterMap (fun t =>
      fold ((parts.filter (fun r => decide (r.tile = t))).mergeSort (fun a b => decide (a.quad ≤ b.quad))))
    let tot := perTile.foldl (fun (acc : Option (Nat × Flags)) x => match acc with
      | none => some x
      | some a => let r := redStep red g.f.isSlice a.1 (Fmt.fp32.decode x.1); some (r.1, (a.2.or x.2).or r.2)) none
    match tot with
    | none => m
    | some (v, fl) =>
      let q0 := (g.f.ladles).headD 0
      let m1 := m.countFlags q0 { fl with ra := false }
      g.drains.foldl (fun m d =>
        let a := d.f.rowAt d.quad mrow
        let psn := g.slip.isSome || g.poison || g.rows.any (fun r => r.psn && decide (d.f.rowAt d.quad r.m / 4096 = a / 4096))
        ((m.putBytes a (leBytes v 4)).putPsn a 4 (fun _ _ => psn)).untag a 4) m1

/-- Rows of TRN groups that did not arrive are +0, Ladle by Ladle (R117). -/
def State.fillTrn (m : State) (g : Gop) : State × Gop :=
  g.drains.foldl (fun (s : State × Gop) d =>
    let w := g.f.wOf d.quad
    let r := g.runs.get (fun _ => 0) d.quad
    if !d.f.trn ∨ r % 32 = 0 then s
    else
      (List.range w).foldl (fun (s : State × Gop) pos =>
        (List.range (32 - r % 32)).foldl (fun (s : State × Gop) i =>
          s.1.keepElem s.2 d w (r + i) pos 0 ⟨.fin false 0 0, (if d.f.ofmt = 11 ∨ d.f.ofmt = 14 then some 0 else none), .none, true⟩ false) s) s) (m, g)

/-- MX blocks that were left incomplete are emitted with what they hold. -/
def State.flushMx (m : State) (g : Gop) : State × Gop :=
  ((g.mxbuf.map (fun e => (e.quad, e.side, e.key))).dedup).foldl (fun (s : State × Gop) b =>
    match g.drains.find? (fun d => decide (d.quad = b.1)) with
    | some d => s.1.emitMx s.2 d b.2.1 b.2.2
    | none => s) (m, g)

/-- Output intervals of an operation with the format of their tags: keeps to a Tray, memory or a spill area, and
side-stream outputs. -/
def Gop.outIvls (g : Gop) (own : Nat) : List (Nat × Nat × Nat) :=
  g.drains.flatMap (fun d =>
    match d.keepIvl own (g.f.wOf d.quad) (g.f.runs g.agB.yield d.quad) with
    | none => []
    | some (lo, len, _) =>
      let sd := d.sideIvl own lo len
      (if d.f.dkind = 0 ∨ d.f.dkind = 1 ∨ d.f.dkind = 3 then [(lo, len, d.f.keep)] else []) ++
      (if d.f.smode = 2 then [(sd.1.toNat, sd.2, d.f.sfmt)] else []))

/-- The output intervals that meet 4 KiB block b, cut to it: first byte, length and format. -/
def Gop.inBlock (g : Gop) (own b : Nat) : List (Nat × Nat × Nat) :=
  ((g.outIvls own).filter (fun i => decide (i.1 < 4096 * (b + 1) ∧ 4096 * b < i.1 + i.2.1))).map (fun i =>
    let x := max (4096 * b) i.1
    (x, min (4096 * (b + 1)) (i.1 + i.2.1) - x, i.2.2))

/-- The operation has written every bit of 4 KiB block b. -/
def Gop.wroteAll (g : Gop) (b : Nat) : Bool := decide (4096 * 8 ≤ g.blocks.get (fun _ => 0) b)

/-- One local output block at the boundary (R124): the poison of every interval in it, and its tag over the final bytes when it
was written whole, whatever slipped; a block written in part becomes untagged (R302). A block that two formats share is
summed in the first one's. -/
def State.closeBlock (m : State) (g : Gop) (b : Nat) : State :=
  let all := g.slip.isSome || g.poison
  let psn := all || decide (b ∈ g.psnBlocks)
  let a := gLocal (4096 * b)
  match regionOf a with
  | .pot q =>
    if all then
      let st := m.fld (spByte q ((a - potAddr q 0) / 4096))
      if bitOf st 0 then m.setFld (spByte q ((a - potAddr q 0) / 4096)) (potFlags st true false false) else m
    else m
  | _ =>
    match g.inBlock m.nodeId b with
    | [] => m
    | i :: t =>
      let m1 := (i :: t).foldl (fun m x => m.putPsn (gLocal x.1) x.2.1 (fun _ _ => psn)) m
      if g.wroteAll b then m1.setTag a (tagOf (some i.2.2) (m1.bytes a 4096)) else m1.setTag a 0

/-- Runs of consecutive bytes that the operation wrote in a remote block: first byte and length. -/
def Gop.writtenRuns (g : Gop) (b : Nat) : List (Nat × Nat) :=
  (g.wbuf.slice (4096 * b) 4096).foldl (fun (l : List (Nat × Nat)) e => match l with
    | (s, n) :: t => if 4096 * b + e.1 = s + n then (s, n + 1) :: t else (4096 * b + e.1, 1) :: l
    | [] => [(4096 * b + e.1, 1)]) []

/-- One remote output block at the boundary: the bytes written go out as WR requests, and its tag as TAGW when the block was
written whole. -/
def State.sendBlock (m : State) (g : Gop) (b : Nat) : State :=
  let psn := g.slip.isSome || g.poison || decide (b ∈ g.psnBlocks)
  let bytesAt (x n : Nat) : List Byte := (SMap.read (fun _ => 0) (g.wbuf.slice x n) 0 n).map (fun v => BitVec.ofNat 8 v)
  let m1 := (g.writtenRuns b).foldl (fun m r => m.gsend g.id g.stn 0x08 r.1 (bytesAt r.1 r.2) (fun _ _ => psn)) m
  match g.inBlock m.nodeId b with
  | i :: _ => if g.wroteAll b then m1.gtag g.id g.stn 0x08 (4096 * b) (tagOf (some i.2.2) (bytesAt (4096 * b) 4096)) else m1
  | [] => m1

/-- Output blocks of the operation, and the remote ones still to be sent. -/
def Gop.outBlocks (g : Gop) : List Nat := g.blocks.map Prod.fst
def Gop.remoteBlocks (g : Gop) (own : Nat) : List Nat := g.outBlocks.filter (fun b => decide (gNode (4096 * b) ≠ own))
def Gop.localBlocks (g : Gop) (own : Nat) : List Nat := g.outBlocks.filter (fun b => decide (gNode (4096 * b) = own))

/-- Charge an operation's station (R79, R81). -/
def State.chargeGop (m : State) (g : Gop) (acyc : Nat) : State :=
  let n := g.stn
  let w := max 1 (m.fld (Reg.sys_GRD_WEIGHT n))
  let m1 := { m with vt := m.vt.set (fun _ => 0) n (m.vtOf n + acyc * 256 / w) }
  ((m1.bump (Reg.grd_STN_ACYC 0 n) acyc).bump (Reg.grd_RUN_ACYC 0) acyc)

/-- Time with a wave in flight, by quadrant (R81 BUSY_ACYC). -/
def State.busyTime (m : State) (busy : List Nat) : State :=
  (List.range 4).foldl (fun m q => m.bump (Reg.grd_BUSY_ACYC q) (busy.getD q 0)) m

/-- The ledger entry of an operation that is not completed (R371, R372). -/
def Gop.entry (g : Gop) (reason : Nat) : LedgerEntry :=
  { kind := 2, master := 0x18 + g.f.region.headD 0, reason := reason, ident := (quads g.qmask).headD 0 + g.pc <<< 8,
    done := (g.drains.map (fun d => g.runs.get (fun _ => 0) d.quad)).foldl max 0, total := some ((g.drains.map (fun d => g.f.runs g.agB.yield d.quad)).foldl max 0), aux1 := g.injected,
    aux2 := g.done / max 1 g.f.tileWaves }

/-- R76's check at the boundary: the waves whose results arrived, and in OS the waves injected, against WAVES; none when they
agree. Of several Ladles the operation drains into, the lowest quadrant's is named (DESIGN CHOICE, log 12). -/
def Gop.countSlip (g : Gop) : Option Slip :=
  let q := g.f.ladles.headD 0
  let got := if g.done ≠ g.f.waves then g.done else g.injected
  if got ≠ g.f.waves then some ⟨3, q, g.f.waves % 2 ^ 24, got % 2 ^ 24, q⟩ else none

/-- OPERATION_BOUNDARY (R73, R76 to R79) of the oldest granted operation. After a slip the station's operations issued behind
it are poisoned, granted or not (R77; those not yet granted DEDUCED, log 95). -/
def State.boundary (m : State) (acyc : Nat) (busy : List Nat) : State :=
  match m.gops.find? (fun g => g.granted) with
  | none => m
  | some g0 =>
    if !g0.atEnd || m.safe then m
    else
      let own := m.nodeId
      let (m1, g1) := match g0.countSlip with
        | some s => m.slip g0 s false
        | none => (m, g0)
      let t := m1.fillTrn g1
      let x := t.1.flushMx t.2
      let g := x.2
      let sent : State := (g.remoteBlocks own).foldl (fun m b => m.sendBlock g b) x.1
      let m2 : State := (g.rows.map (fun r => r.m)).dedup.foldl (fun m r => m.writeRow g r) sent
      let m3 : State := (g.localBlocks own).foldl (fun m b => m.closeBlock g b) m2
      let bad := g.slip.isSome || g.poison
      let m4 : State := (m3.chargeGop g acyc).busyTime busy
      let follow (y : Gop) : Gop := if bad ∧ y.stn = g.stn ∧ y.chained ∧ g.id < y.id then { y with poison := true } else y
      let m5 : State := { m4 with gops := (m4.gops.filter (fun (y : Gop) => decide (y.id ≠ g.id))).map follow }
      let m5' : State := match m5.gops.find? (fun y => y.granted) with
        | some y => m5.setGop (m5.loadFirst y)
        | none => m5
      let mine : Bool := (m5'.launch g.stn).any (fun l => decide (l.first ≤ g.id))
      let m6 : State := if bad then m5'.ledger g.stn (g.entry 3)
        else if m5'.ofLaunch g.stn g.id then (quads g.qmask).foldl (fun m q => m.bump (Reg.seq_CMD_DONE q g.stn) 1) m5'
        else m5'
      let m7 : State := if g.slip.isSome && mine then m6.stopRecipe g.stn 2 ((quads g.qmask).headD 0) else m6
      let m8 : State := if bad ∨ !g.psnBlocks.isEmpty then { m7 with verdicts := m7.verdicts.filter (fun v => decide (v.gop ≠ g.id)) } else m7
      let m9 : State := if m8.verdicts.any (fun v => decide (v.gop = g.id)) then m8 else m8.stepDone g.stn g.id
      let m10 : State := if (m9.launch g.stn).isNone then m9.startQueued g.stn else m9
      (m10.dropBuf g.id).dvfs

/-! ## The commands -/

def execGop (n : Stn) (s : State) : Host.Outcome State Fault Refusal := .next (s.issueGop n)

def execGopGrant (s : State) : Host.Outcome State Fault Refusal := .next s.arbitrate

def execWaveInject (mis : List Mis) (upset : Bool) (s : State) : Host.Outcome State Fault Refusal :=
  .next (s.injectWave mis upset)

def execColumnResult (upset laneDiff : Bool) (s : State) : Host.Outcome State Fault Refusal :=
  .next (s.columnResult upset laneDiff).landed

def execTileRelease (s : State) : Host.Outcome State Fault Refusal := .next s.tileRelease.landed

def execOperationBoundary (t : Span) (s : State) : Host.Outcome State Fault Refusal :=
  .next (s.boundary t.acyc t.busy).landed

end Sys2Proof.Machine
end

