-- ==== Sys2Proof/Machine/Recipes.lean ====
section
/-! DEFINITION. The sequencer's own commands: NOP, LDT and STT (R98), AGL and AGH (R95), LPG (R103), TSG, TWT and TBA
(R105), FEN (R107), SETP (R108), END (R109), the gang comparison (R84), the recipe boundary, and writes to recipe memory
(R89). -/

namespace Sys2Proof.Machine

/-! ## LDT and STT -/

/-- Fields of LDT and STT (R98). -/
structure XferF where
  src : Nat
  dst : Nat
  sag : Nat
  dag : Nat
  run : Nat
  ch : Nat
  ctr : Nat
  cen : Bool
  deriving DecidableEq, Repr

def xferF (load : Bool) (w : Nat) : XferF :=
  { src := if load then bitsOf w 95 32 else bitsOf w 59 32, dst := if load then bitsOf w 123 96 else bitsOf w 159 96,
    sag := bitsOf w 165 160, dag := bitsOf w 171 166, run := bitsOf w 195 172, ch := bitsOf w 197 196,
    ctr := bitsOf w 209 198, cen := bitOf w 210 }

/-- The memory interval of a generator at a global address: inside one range or slice of the station, or, for a remote
node, one that passes R31 there (R97). -/
def State.memOk (m : State) (n : Nat) (g : GenSlot) (a run : Nat) : Bool :=
  match g.memBound (gLocal a) run with
  | none => false
  | some (lo, len) => (decide (gNode a ≠ m.nodeId) && remoteOk lo len) || m.inRange n lo len

def State.trayOk (m : State) (n : Nat) (g : GenSlot) (a run : Nat) : Bool :=
  match g.trayBound a run with
  | none => false
  | some (lo, len) => m.inTray n ⟨a / 2 ^ 26 * 2 ^ 26 + lo, len, false⟩

/-- The issue checks of LDT and STT (R97, R98). -/
def State.xferOk (m : State) (n : Nat) (load : Bool) (f : XferF) (sg dg : GenSlot) : Bool :=
  decide (sg.yield = dg.yield) && decide (f.run % 32 = 0 ∧ 32 ≤ f.run) && decide (f.ctr < m.ctrNum n) && decide (f.ch ≤ 2) &&
  (if load then m.memOk n sg f.src f.run && m.trayOk n dg f.dst f.run
    else m.trayOk n sg f.src f.run && m.memOk n dg f.dst f.run)

/-- LDT or STT at its issue: refused, waiting for room or for the scoreboard (R85, R86), or outstanding. -/
def State.issueXfer (m : State) (n q : Nat) (load : Bool) (w : Nat) : Issue :=
  let f := xferF load w
  let sg := m.gen q n f.sag
  let dg := m.gen q n f.dag
  if !m.xferOk n load f sg dg then .refuse
  else
    let (id, m1) := m.freshId
    let x : Xfer := ⟨id, n, q, m.pc n q, load, f.src, f.dst, sg, dg, f.run, f.ch, f.ctr, f.cen, 0, [], false, [], []⟩
    let iv := x.ivl
    if 16 ≤ (m.xfersAt q).length ∨ m.xfers.any (fun y => y.ivl.meets iv) ∨
        m.gops.any (fun g => (g.trayIvls m.nodeId).any (fun j => j.meets iv)) then .wait
    else
      let m2 := { m1 with xfers := m1.xfers ++ [x] }
      .go (State.pump 4096 id (m2.advance n q false))

/-- Move one piece, at most one destination block, of a local transfer: bytes with their poison, the tag of a whole
aligned block carried along and, on an LDT, checked (R302, R303). -/
def State.movePiece (m0 : State) (x : Xfer) (src dst len : Nat) (glitch : Bool) : State :=
  let m := m0.touch x.stn src len false x.ch
  let bs := m.bytes src len
  let whole := decide (len = 4096 ∧ src % 4096 = 0)
  let t := m.tag src
  let c := if whole ∧ x.load then m.tagCheck x.stn (0x0C + x.q) 2 (0x10 + x.q) src t bs none glitch else (false, m)
  let p (i k : Nat) : Bool := c.1 || m.psnIn (src + i) k
  let m2 := c.2.store x.stn dst bs p x.ch
  if whole then m2.setTag dst t else m2

/-- Pieces of a run of n bytes: distance from its start and length, none crossing a destination block. -/
def runPieces (dst n : Nat) : List (Nat × Nat) :=
  (List.range ((dst + n - 1) / 4096 + 1 - dst / 4096)).map (fun i =>
    let s := max dst ((dst / 4096 + i) * 4096)
    (s - dst, min (dst + n) ((dst / 4096 + i + 1) * 4096) - s))

/-- All the moves of a local transfer. -/
def State.moveAll (m : State) (x : Xfer) (glitch : Bool) : State :=
  let base (load : Bool) (a : Nat) : Nat := if load then trayAddr 0 a else gLocal a
  (List.range x.sgen.yield).foldl (fun m k =>
    let s := x.sgen.addr (base (!x.load) x.src) k
    let d := x.dgen.addr (base x.load x.dst) k
    (runPieces d x.run).foldl (fun m pc => m.movePiece x (s + pc.1) (d + pc.1) pc.2 (glitch && decide (k = 0 ∧ pc.1 = 0))) m) m

/-- Store a piece of run k of what remote reads brought, from byte o of the run on. A whole aligned block brings its source's
tag (R138, R302), which is checked like a local one's (R303); how it travels the spec does not say, and its value is free. -/
def State.storePiece (m : State) (x : Xfer) (k o len : Nat) (glitch : Bool) : State :=
  let src := x.sgen.addr (gLocal x.src) k + o
  let dst := x.dgen.addr (trayAddr 0 x.dst) k + o
  let bs := SMap.read memZero (x.data.slice (k * x.run + o) len) 0 len
  let whole := decide (len = 4096 ∧ src % 4096 = 0)
  let t := m.drawWord
  let m1 := if whole then t.2 else m
  let c := if whole then m1.tagCheck x.stn (0x0C + x.q) 2 (0x10 + x.q) src t.1.toNat bs none glitch else (false, m1)
  let m2 := c.2.store x.stn dst bs
    (fun i n => c.1 || !(x.psn.slice ((k * x.run + o + i) / 32) ((o + i + n - 1) / 32 + 1 - (o + i) / 32)).isEmpty) 1
  if whole then m2.setTag dst t.1.toNat else m2

/-- Store what remote reads brought into the Tray. -/
def State.storeRead (m : State) (x : Xfer) (glitch : Bool) : State :=
  (List.range x.dgen.yield).foldl (fun m k =>
    (runPieces (x.dgen.addr (trayAddr 0 x.dst) k) x.run).foldl (fun m pc =>
      m.storePiece x k pc.1 pc.2 (glitch && decide (k = 0 ∧ pc.1 = 0))) m) m

/-- A local transfer's accesses to memory hold (R221, R224). -/
def State.xferHeld (m : State) (x : Xfer) : Bool :=
  (List.range x.sgen.yield).any (fun k =>
    m.memHeld x.stn (if x.load then x.sgen.addr (gLocal x.src) k else x.dgen.addr (gLocal x.dst) k) x.run)

/-- LDT_COMPLETE, STT_COMPLETE (R98). -/
def State.xferDone (m : State) (i : Nat) (load glitch : Bool) : State :=
  match m.xfer? i with
  | none => m
  | some x =>
    if x.load ≠ load ∨ m.safe then m
    else
      let finish (m : State) : State :=
        ((({ m with xfers := m.xfers.filter (fun y => decide (y.id ≠ i)) }).ctrDone x.stn x.ctr x.cen (0x10 + x.q))).cmdDone x.stn x.q i
      if x.node = m.nodeId then (if m.xferHeld x then m else finish (m.moveAll x glitch))
      else if x.sent < x.total then State.pump 4096 i m
      else if !x.tags.isEmpty then m
      else finish (if load then m.storeRead x glitch else m)

def execLdt (n : Stn) (q : Quad) (upset : Bool) (s : State) : Host.Outcome State Fault Refusal :=
  .next (s.issueLocal n q 0x01 upset (fun m w => m.issueXfer n q true w))

def execStt (n : Stn) (q : Quad) (upset : Bool) (s : State) : Host.Outcome State Fault Refusal :=
  .next (s.issueLocal n q 0x02 upset (fun m w => m.issueXfer n q false w))

def execLdtComplete (i : Nat) (glitch : Bool) (s : State) : Host.Outcome State Fault Refusal :=
  .next (s.xferDone i true glitch).landed

def execSttComplete (i : Nat) (s : State) : Host.Outcome State Fault Refusal := .next (s.xferDone i false false).landed

/-! ## NOP, generators, Ladle programs -/

def execNop (n : Stn) (q : Quad) (s : State) : Host.Outcome State Fault Refusal :=
  .next (s.issueLocal n q 0x00 false (fun m _ => .go (m.advance n q true)))

/-- Levels of AGL and AGH (R95). -/
def agLevels (w : Nat) : List Level :=
  [⟨bitsOf w 63 40, signedOf (bitsOf w 95 64) 32⟩, ⟨bitsOf w 119 96, signedOf (bitsOf w 151 120) 32⟩,
    ⟨bitsOf w 175 152, signedOf (bitsOf w 207 176) 32⟩]

/-- Write three levels of a slot from level j; a COUNT of 0 is refused. -/
def State.issueAg (m : State) (n q j w : Nat) : Issue :=
  let ls := agLevels w
  if ls.any (fun l => decide (l.count = 0)) then .refuse
  else
    let k := 512 * q + 64 * n + bitsOf w 37 32
    .go (({ m with gens := m.gens.set (fun _ => .reset) k ((m.gen q n (bitsOf w 37 32)).setLevels j ls) }).advance n q true)

def execAgl (n : Stn) (q : Quad) (s : State) : Host.Outcome State Fault Refusal :=
  .next (s.issueLocal n q 0x08 false (fun m w => m.issueAg n q 0 w))

def execAgh (n : Stn) (q : Quad) (s : State) : Host.Outcome State Fault Refusal :=
  .next (s.issueLocal n q 0x09 false (fun m w => m.issueAg n q 3 w))

/-- LPG (R103): waits while a granted GOP of the station uses the slot. -/
def State.issueLpg (m : State) (n q w : Nat) : Issue :=
  let slot := bitsOf w 35 32
  if m.gops.any (fun g => decide (g.stn = n) && g.granted && decide (q ∈ g.f.ladles ∧ g.f.lslot = slot)) then .wait
  else
    .go (({ m with lslots := m.lslots.set (fun _ => none) (128 * q + 16 * n + slot) (some (BitVec.ofNat 192 (w >>> 64))) }).advance n q true)

def execLpg (n : Stn) (q : Quad) (s : State) : Host.Outcome State Fault Refusal :=
  .next (s.issueLocal n q 0x20 false (fun m w => m.issueLpg n q w))

/-! ## Tumbler commands -/

/-- The CNT_ADD flit of a TSG with RMT (R243, R278). -/
def State.cntAddFlit (m : State) (n node ctr val : Nat) : Flit :=
  m.mkFlit Op.cntAdd 0 node n 0 plainTag 0 (ctr + n <<< 12) (leBytes val 4 ++ List.replicate 28 0)

/-- TSG (R105, R278). -/
def State.issueTsg (m : State) (n q w : Nat) : Issue :=
  let ctr := bitsOf w 43 32
  let op := bitsOf w 45 44
  let val := bitsOf w 79 48
  let node := bitsOf w 99 80
  let rmt := bitOf w 100
  if 2 ≤ op ∨ (rmt ∧ op = 1) ∨ (!rmt ∧ m.ctrNum n ≤ ctr) then .refuse
  else if bitOf w 101 ∧ !m.allDone n q then .wait
  else
    let i := m.ctrBase n + ctr
    let m1 := m.advance n q true
    if rmt then
      let f := m1.cntAddFlit n node ctr val
      let r : State × Gone := if node = m.nodeId then (let y := m1.serveCnt (0x10 + q) f; (y.1, .here y.2)) else m1.sendFlit f
      match r.2 with
      | .port _ => .go r.1
      | .here none => .go r.1
      | _ => .go (r.1.report { page := 0x0C + q, code := Code.access, stn := some n, master := 0x10 + q, acc := 2 })
    else .go (m1.ctrOp i (if op = 0 then (m.ctrValue i : Int) + signedOf val 32 else (val : Int)) (0x10 + q))

def execTsg (n : Stn) (q : Quad) (s : State) : Host.Outcome State Fault Refusal :=
  .next (s.issueLocal n q 0x30 false (fun m w => m.issueTsg n q w))

/-- TWT (R105, R281): a watch of the station's pool, or, without a free one, issue holds until a watch frees. -/
def State.issueTwt (m : State) (n q w : Nat) : Issue :=
  let ctr := bitsOf w 43 32
  let cmp := bitsOf w 46 44
  if m.ctrNum n ≤ ctr ∨ 3 ≤ cmp then .refuse
  else match m.freeWatch n with
    | none => .go (m.setHold n q (some (.noWatch (BitVec.ofNat 256 w))))
    | some k =>
      .go ((m.setHold n q (some (.watch k))).addWatch k ⟨n, m.ctrBase n + ctr, cmp, bitsOf w 79 48, .seq n q k, bitsOf w 95 80⟩)

/-- A TWT that found no free watch takes one that has freed since. -/
def State.retryTwt (m : State) (n q : Nat) : State :=
  match m.hold n q with
  | some (.noWatch w) => (match m.issueTwt n q w.toNat with | .go m1 => m1 | _ => m)
  | _ => m.issueLocal n q 0x31 false (fun m w => m.issueTwt n q w)

def execTwt (n : Stn) (q : Quad) (s : State) : Host.Outcome State Fault Refusal := .next (s.retryTwt n q)

/-- TWT_TMO (R281): the limit of a TWT that still waits expires; its watch is freed and the recipe stops. -/
def State.twtTimeout (m : State) (n q : Nat) : State :=
  match m.hold n q with
  | some (.watch w) =>
    if (m.watch w).any (fun x => decide (x.target = .seq n q w ∧ x.tmo ≠ 0)) then (m.setWatch w none).stopRecipe n 4 q else m
  | some (.noWatch w) => if bitsOf w.toNat 95 80 ≠ 0 then m.stopRecipe n 4 q else m
  | _ => m

def execTwtTmo (n : Stn) (q : Quad) (s : State) : Host.Outcome State Fault Refusal := .next (s.twtTimeout n q)

/-- TBA (R105, R284). -/
def State.issueTba (m : State) (n : Nat) : State :=
  match m.gangWord n 0x32 with
  | none => m
  | some (l, w) =>
    let q0 := (quads l.qmask).headD 0
    let nowait := bitOf w 40
    if m.barNum n ≤ bitsOf w 39 32 then m.stopRecipe n 1 q0
    else
      let b := m.barBase n + bitsOf w 39 32
      let holdAll (m : State) (next : Bool) : State :=
        (quads l.qmask).foldl (fun m q => m.setHold n q (some (.barrier b next nowait))) (m.setLaunch n (some { l with gang := none }))
      match m.entryAt b with
      | .disabled => m.stopRecipe n 1 q0
      | .overrun => (m.overrun b (0x10 + q0)).stopRecipe n 1 q0
      | .current =>
        let m1 := m.countEntry b .current
        State.barStep 64 b (if nowait then m1.gangDone n l true else holdAll m1 false)
      | .next => State.barStep 64 b (holdAll (m.countEntry b .next) true)

def execTba (n : Stn) (s : State) : Host.Outcome State Fault Refusal := .next (s.issueTba n)

/-! ## FEN, SETP, END and the boundary -/

/-- Earlier work that a FEN's bits select is complete (R107). -/
def State.fenceOpen (m : State) (n q w : Nat) : Bool :=
  let all := bitOf w 37
  let wrs := m.reqs.all (fun r => !r.write || decide (r.stn ≠ n)) && m.outq.all (fun w => decide (w.stn ≠ n))
  (!bitOf w 32 || (m.xfersOf n q all).isEmpty) && (!bitOf w 33 || (m.gopsOf n).isEmpty) &&
  (!bitOf w 34 || (m.dispatches.filter (fun d => decide (d.1 / 4 = n) && (all || decide (d.1 % 4 = q)))).isEmpty) &&
  (!bitOf w 35 || (m.spksOf n q all).isEmpty) &&
  (!bitOf w 36 || ((m.xfersOf n q all).isEmpty && (m.gopsOf n).isEmpty && (m.spksOf n q all).isEmpty && wrs))

/-- FEN (R107): with any bit set it also ends chained issue (R73). -/
def State.issueFen (m : State) (n q w : Nat) : Issue :=
  if !m.fenceOpen n q w then .wait
  else
    let m1 := m.advance n q true
    match m1.launch n with
    | some l => .go (if bitsOf w 37 32 ≠ 0 then m1.setLaunch n (some { l with fenced := true }) else m1)
    | none => .go m1

def execFen (n : Stn) (q : Quad) (s : State) : Host.Outcome State Fault Refusal :=
  .next (s.issueLocal n q 0x50 false (fun m w => m.issueFen n q w))

/-- SETP (R108). -/
def State.issueSetp (m : State) (n : Nat) : State :=
  match m.gangWord n 0x60 with
  | none => m
  | some (l, w) =>
    let i := bitsOf w 39 32
    let val := bitsOf w 127 64
    match bitsOf w 41 40 with
    | 0 => (m.setFld (Reg.seq_P 0 n i) val).gangDone n l true
    | 1 => (m.setFld (Reg.seq_P 0 n i) (m.param n i + val)).gangDone n l true
    | 2 => (m.setFld (Reg.seq_P 0 n i) (m.param n (bitsOf w 23 16) + val)).gangDone n l true
    | _ => m.stopRecipe n 1 ((quads l.qmask).headD 0)

def execSetp (n : Stn) (s : State) : Host.Outcome State Fault Refusal := .next (s.issueSetp n)

/-- END (R109): nothing more issues. -/
def State.issueEnd (m : State) (n : Nat) : State :=
  match m.gangWord n 0x7F with
  | none => m
  | some (l, _) => m.gangDone n { l with ended := true } true

def execEndR (n : Stn) (s : State) : Host.Outcome State Fault Refusal := .next (s.issueEnd n)

/-- RECIPE_BOUNDARY (R109): END everywhere and every command of the recipe complete. -/
def State.recipeBoundary (m : State) (n : Nat) : State :=
  match m.launch n with
  | none => m
  | some l =>
    let mine (id s : Nat) : Bool := decide (s = n ∧ l.first ≤ id)
    if l.ended && !m.xfers.any (fun x => mine x.id x.stn) && !m.spks.any (fun x => mine x.id x.stn) && !m.gops.any (fun x => mine x.id x.stn) then
      let m1 := (quads l.qmask).foldl (fun m q => m.setFlag (Reg.seq_RUN q n) false) m
      (((m1.setLaunch n none).applySwaps n l.qmask).epochSwaps n).startQueued n
    else m

def execRecipeBoundary (n : Stn) (s : State) : Host.Outcome State Fault Refusal := .next (s.recipeBoundary n)

/-- UNASSIGNED_OPCODE (R92): a word of no assigned opcode reaches issue. -/
def State.unassigned (m : State) (n q : Nat) : State :=
  if !m.canIssue n q then m
  else if !m.inBounds n q then m.stopRecipe n 5 q
  else if m.psnIn (m.cmdAddr n q) 32 then m.stopRecipe n 1 q
  else if !assignedOpc (m.cmdWord n q % 256) then m.stopRecipe n 6 q
  else m

def execUnassignedOpcode (n : Stn) (q : Quad) (s : State) : Host.Outcome State Fault Refusal := .next (s.unassigned n q)

/-- GANG_ISSUE (R84): every sequencer of the launch is at a gang command; the substituted words are compared. -/
def State.gangIssue (m : State) (n : Nat) (upset : Bool) : State :=
  match m.launch n with
  | none => m
  | some l =>
    let qs := quads l.qmask
    if !qs.all (fun q => m.canIssue n q) then m
    else match qs.find? (fun q => !m.inBounds n q) with
      | some q => m.stopRecipe n 5 q
      | none =>
        if !qs.all (fun q => gangOpc (m.cmdWord n q % 256)) then m
        else
          let rd := qs.foldl (fun (s : State × List Nat) q =>
            let r := s.1.sramRead (0x0C + q) 0 n (0x10 + q) (s.1.cmdAddr n q) (upset && decide (q = qs.headD 0))
            (r.2, if r.1 ∨ s.1.psnIn (s.1.cmdAddr n q) 32 then s.2 ++ [q] else s.2)) (m, [])
          match rd.2 with
          | q :: _ => rd.1.stopRecipe n 1 q
          | [] =>
            let ws := qs.map (fun q => (q, rd.1.substitute n (rd.1.cmdWord n q)))
            match ws.find? (fun e => e.2.isNone) with
            | some e => rd.1.stopRecipe n 1 e.1
            | none =>
              let w0 := ((ws.map (fun e => e.2.getD 0)).headD 0)
              match ws.find? (fun e => decide (e.2 ≠ some w0)) with
              | some e => rd.1.stopRecipe n 3 e.1
              | none => rd.1.setLaunch n (some { l with gang := some (BitVec.ofNat 256 w0) })

def execGangIssue (n : Stn) (upset : Bool) (s : State) : Host.Outcome State Fault Refusal := .next (s.gangIssue n upset)

/-! ## Recipe memory (R89) -/

/-- The enabled station whose recipe window on quadrant q holds word w. -/
def State.recipeStn (m : State) (q w : Nat) : Option Nat :=
  (List.range 8).find? (fun n => m.stnOn n && decide ((m.rcpWin n q).1 ≤ w ∧ w < (m.rcpWin n q).1 + (m.rcpWin n q).2))

/-- A write of bytes inside one command word: taken in an inactive bank, else dropped, captured and reported. R89 excepts no
writer of an active word, so another station's core is reported as any other; its write to an inactive word falls under
R24. -/
def State.recipeWrite (m : State) (master : Nat) (stn : Option Nat) (addr : Nat) (bs : List Byte) (psn : Bool) : State :=
  let o := addr - 0x830_0000_0000
  let q := o / 0x8_0000
  let b := o / 0x4_0000 % 2
  let drop (m : State) (n : Option Nat) : State :=
    m.report { page := 0x0C + q, code := Code.rcpActiveWr, stn := n, master := master, acc := 1, addr := addr }
  match m.recipeStn q (o % 0x4_0000 / 32) with
  | none => drop m stn
  | some n =>
    if m.fld (Reg.seq_ACTIVE q n) = b then drop (m.setFlag (Reg.seq_WREF q n) true) (some n)
    else if stn.isSome ∧ stn ≠ some n then m.access (0x0C + q) master stn 1 addr
    else (m.putBytes addr bs).putPsn addr bs.length (fun _ _ => psn)

def execRecipeMemoryWrite (m : Master) (addr : Nat) (v : Word) (s : State) : Host.Outcome State Fault Refusal :=
  .next (match regionOf addr with
    | .recipe _ _ => s.recipeWrite (mid m) (s.masterStn m) (addr / 8 * 8) (leBytes v.toNat 8) false
    | _ => s)

end Sys2Proof.Machine
end

