-- ==== Sys2Proof/Machine/Stockpot.lean ====
section
/-! DEFINITION. The Stockpot (R126 to R134, R148, R149): OPEN, COMMIT and DISCARD, the norm scan, and the ratio flush
(R147). -/

namespace Sys2Proof.Machine

/-! ## SPK at issue -/

/-- Blocks [b, b + k) lie in station n's Stockpot window of quadrant q. -/
def State.potOk (m : State) (n q b k : Nat) : Bool := decide (0 < k ∧ b + k ≤ 16384) && inWin (m.potWin n q) (4096 * b) (4096 * k)

/-- Some outstanding work other than the items of `but` meets the blocks (R129). -/
def State.potBusy (m : State) (q b k : Nat) (but : Spk → Bool) : Bool :=
  m.spks.any (fun s => !but s && blocksMeet (s.q, s.blk, s.nblk) (q, b, k)) ||
  m.gops.any (fun g => (g.potIvls m.nodeId).any (fun i => blocksMeet i (q, b, k))) ||
  m.norms.any (fun j => !j.flush && blocksMeet (j.q, j.a, j.b) (q, b, k))

/-- A COMMIT that has not begun to write. -/
def Spk.unwritten (s : Spk) : Bool := decide (s.op = 1 ∧ s.phase = 0)

/-- A COMMIT that waits for its gate (R131): GATE_EN is set and the counter is below GATE_VAL. A COMMIT without a gate, or one
whose gate value is reached, waits for nothing. -/
def State.gated (m : State) (s : Spk) : Bool :=
  s.unwritten && bitOf s.desc (0x10 * 8 + 12) &&
    decide (m.ctrValue (m.ctrBase s.stn + bitsOf s.desc (0x10 * 8 + 11) (0x10 * 8)) < bitsOf s.desc (0x10 * 8 + 63) (0x10 * 8 + 32))

/-- A COMMIT ends (R131): its status register, the Bolt, its counter and its place among the outstanding commands. -/
def State.commitEnd (m : State) (s : Spk) (status step : Nat) : State :=
  let m1 := ({ m with spks := m.spks.filter (fun x => decide (x.id ≠ s.id)) }).dropBuf s.id
  let busy := m1.spks.any (fun x => decide (x.op = 1 ∧ x.stn = s.stn ∧ x.q = s.q))
  let m2 := (((m1.setFld (Reg.ldl_STATUS s.q s.stn) status).setFlag (Reg.ldl_CBUSY s.q s.stn) busy).setFld (Reg.ldl_STEP s.q s.stn) step)
  let m3 := if status = 1 ∨ status = 8 then m2 else m2.report
    { page := 0x08 + s.q, code := Code.spCommitFail, stn := some s.stn, master := 0x14 + s.q, acc := 4 }
  (m3.ctrDone s.stn s.ctr (s.cen && decide (status = 1)) (0x14 + s.q)).cmdDone s.stn s.q s.id

/-- STEP of a commit descriptor (R130), from its 64 bytes: whole for the ledger, [31:0] for the LDL page (R131). -/
def cdStep64 (d : Nat) : Nat := bitsOf d (0x30 * 8 + 63) (0x30 * 8)
def cdStep (d : Nat) : Nat := cdStep64 d % 2 ^ 32

/-- POISON_CONSUMED at a Ladle (R234). -/
def State.potConsumed (m : State) (q n : Nat) : State :=
  m.report { page := 0x08 + q, code := Code.poisonConsumed, stn := some n, master := 0x14 + q, acc := 4 }

/-- SPK at its issue (R104, R127, R131, R132); op is the operation of the row. -/
def State.issueSpk (m : State) (n q op w : Nat) : Issue :=
  let f := bitsOf w 33 32
  let b := bitsOf w 47 34
  let k := bitsOf w 62 48
  let desc := bitsOf w 107 64
  let ctr := bitsOf w 139 128
  if f = 3 then .refuse
  else if f ≠ op then .wait
  else if m.ctrNum n ≤ ctr ∨ !m.potOk n q b k ∨ (op = 1 ∧ !m.inRange n desc 64) then .refuse
  else if op = 0 ∧ (List.range k).any (fun i => bitOf (m.fld (spByte q (b + i))) 0) then .refuse
  else if m.potBusy q b k (fun s => decide (op = 2) && m.gated s) ∨ (op = 1 ∧ m.memHeld n desc 64) then .wait
  else
    let (id, m1) := m.freshId
    let s : Spk := ⟨id, n, q, m.pc n q, op, b, k, if op = 1 then m.word desc 64 else 0, ctr, bitOf w 140, 0, 0⟩
    let m2 := m1.advance n q false
    match op with
    | 1 =>
      let m3 := ({ m2 with spks := m2.spks ++ [s] }.touch n desc 64 false 0).setFlag (Reg.ldl_CBUSY q n) true
      if m3.psnIn desc 64 then .go ((m3.potConsumed q n).commitEnd s 2 0)
      else if bitOf s.desc (0x10 * 8 + 12) ∧ m.ctrNum n ≤ bitsOf s.desc (0x10 * 8 + 11) (0x10 * 8) then .go (m3.commitEnd s 6 (cdStep s.desc))
      else .go m3
    | 2 =>
      let cancel := m2.spks.filter (fun x => m2.gated x && blocksMeet (x.q, x.blk, x.nblk) (q, b, k))
      let m3 := cancel.foldl (fun m x => m.commitEnd x 5 (cdStep x.desc)) m2
      .go { m3 with spks := m3.spks ++ [s] }
    | _ => .go { m2 with spks := m2.spks ++ [s] }

def execSpkOpen (n : Stn) (q : Quad) (s : State) : Host.Outcome State Fault Refusal :=
  .next (s.issueLocal n q 0x21 false (fun m w => m.issueSpk n q 0 w))

def execSpkCommit (n : Stn) (q : Quad) (s : State) : Host.Outcome State Fault Refusal :=
  .next (s.issueLocal n q 0x21 false (fun m w => m.issueSpk n q 1 w)).landed

def execSpkDiscard (n : Stn) (q : Quad) (s : State) : Host.Outcome State Fault Refusal :=
  .next (s.issueLocal n q 0x21 false (fun m w => m.issueSpk n q 2 w))

/-! ## OPEN and DISCARD finish -/

/-- n bytes that the spec leaves undefined, fresh. -/
def State.freeBytes (m : State) (a n : Nat) : State :=
  { m.putBytes a ((List.range n).map (fun i => Config.freeByte (m.free + i))) with free := m.free + n }

def State.openBlock (m : State) (q b : Nat) : State :=
  let a := potAddr q (4096 * b)
  ({ m with mem := m.mem.clear a 4096, poison := m.poison.clear (a / 32) 128 }).setFld (spByte q b) 1

/-- A DISCARD closes an open block and leaves its contents undefined (R132); a closed one is left alone. -/
def State.discardBlock (m : State) (q b : Nat) : State :=
  if bitOf (m.fld (spByte q b)) 0 then (m.freeBytes (potAddr q (4096 * b)) 4096).setFld (spByte q b) 0 else m

def State.spkDone (m : State) (i : Nat) : State :=
  match m.spks.find? (fun s => decide (s.id = i ∧ s.op ≠ 1)) with
  | none => m
  | some s =>
    if m.safe then m
    else
      let m1 := (List.range s.nblk).foldl (fun m k => if s.op = 0 then m.openBlock s.q (s.blk + k) else m.discardBlock s.q (s.blk + k)) m
      (({ m1 with spks := m1.spks.filter (fun x => decide (x.id ≠ i)) }).ctrDone s.stn s.ctr s.cen (0x14 + s.q)).cmdDone s.stn s.q i

def execSpkDone (i : Nat) (s : State) : Host.Outcome State Fault Refusal := .next (s.spkDone i)

/-! ## COMMIT (R131) -/

/-- The product of two values, exactly. -/
def Num.mulExact (x y : Num) : Num :=
  match x, y with
  | .nan, _ => .nan
  | _, .nan => .nan
  | .inf s, .inf t => .inf (s != t)
  | .inf s, .fin t mm _ => if mm = 0 then .nan else .inf (s != t)
  | .fin s mm _, .inf t => if mm = 0 then .nan else .inf (s != t)
  | .fin s mm e, .fin t n g => .fin (s != t) (mm * n) (e + g)

/-- One committed block: its elements scaled and converted (R45 without saturation). -/
def commitBytes (ofmt rnd : Nat) (fp64 : Bool) (s : Num) (bs : List Byte) : List Byte :=
  let src := if fp64 then Fmt.fp64 else Fmt.fp32
  let w := if fp64 then 64 else 32
  let f := (fmtOfCode ofmt).getD .fp32
  let v := leNat bs
  (List.range (bs.length * 8 / w)).flatMap (fun i =>
    leBytes (f.convert (rndOf rnd 0) false (Num.mulExact (src.decode (elemAt v w i)) s)).1 (f.width / 8))

/-- The checks of a COMMIT past its gate: a status to end with, or the common format and the factor. -/
inductive CommitCheck where
  /-- consumed: poisoned data was read; bad: a read outside the station's resources, at that address (R24) -/
  | fail (status : Nat) (consumed : Bool) (bad : Option Nat)
  | go (fp64 : Bool) (factor : Num)

def State.commitCheck (m : State) (s : Spk) : CommitCheck :=
  let d := s.desc
  let ofmt := bitsOf d (8 * 8 + 3) (8 * 8)
  let rnd := bitsOf d (8 * 8 + 6) (8 * 8 + 4)
  let fchk := bitsOf d (8 * 8 + 8) (8 * 8 + 7)
  let scaled := bitOf d (8 * 8 + 9)
  let sp64 := bitOf d (8 * 8 + 10)
  let sa := bitsOf d (0x18 * 8 + 43) (0x18 * 8)
  let src := bitsOf d (0x20 * 8 + 63) (0x20 * 8)
  let spn := if src = 0 then 0 else bitsOf d (0x28 * 8 + 23) (0x28 * 8)
  let sts := (List.range s.nblk).map (fun k => m.fld (spByte s.q (s.blk + k)))
  let fmts := (((sts.map (fun b => bitsOf b 5 4)).filter (fun c => decide (c ≠ 0))) ++ (if src ≠ 0 then [if sp64 then 2 else 1] else [])).dedup
  let denied (a len : Nat) : Bool := match m.check (some s.stn) a len false with | .ok => false | _ => true
  if sts.any (fun b => !bitOf b 0) then .fail 7 false none
  else if 1 < fmts.length ∨ 3 < ofmt ∨ 3 < rnd ∨ fchk = 3 then .fail 6 false none
  else if gNode src = m.nodeId ∧ spn ≠ 0 ∧ denied (gLocal src) (4096 * spn) then .fail 2 true (some (gLocal src))
  else if sts.any (fun b => bitOf b 1) ∨ m.psnIn (potAddr s.q (4096 * s.blk)) (4096 * s.nblk) ∨ (m.gbytes s.id src (4096 * spn)).2 then
    .fail 2 true none
  else
    let nv := sts.any (fun b => bitOf b 2) || (decide (src ≠ 0) && m.flag (Reg.ldl_SP_NV s.q s.stn))
    let of := sts.any (fun b => bitOf b 3) || (decide (src ≠ 0) && m.flag (Reg.ldl_SP_OF s.q s.stn))
    if (fchk = 1 ∧ nv) ∨ (fchk = 2 ∧ (nv ∨ of)) then .fail 3 false none
    else
      let fp64 := decide (fmts = [2])
      if !scaled then .go fp64 (.fin false 1 0)
      else
        let v := Fmt.fp64.decode (m.word sa 8)
        if denied sa 8 then .fail 4 true (some sa)
        else if m.psnIn sa 8 then .fail 4 true none
        else match v with
          | .fin neg mm _ => if neg ∧ mm ≠ 0 then .fail 4 false none else .go fp64 v
          | _ => .fail 4 false none

/-- Source bytes of block i of a COMMIT: the Stockpot blocks, then the spill blocks. -/
def State.commitSrc (m : State) (s : Spk) (i : Nat) : List Byte :=
  if i < s.nblk then m.bytes (potAddr s.q (4096 * (s.blk + i))) 4096
  else (m.gbytes s.id (bitsOf s.desc (0x20 * 8 + 63) (0x20 * 8) + 4096 * (i - s.nblk)) 4096).1

/-- Blocks a COMMIT writes. -/
def Spk.blocks (s : Spk) : Nat :=
  s.nblk + (if bitsOf s.desc (0x20 * 8 + 63) (0x20 * 8) = 0 then 0 else bitsOf s.desc (0x28 * 8 + 23) (0x28 * 8))

/-- Bytes one source block becomes. -/
def Spk.outLen (s : Spk) (fp64 : Bool) : Nat := 4096 * bitsOfCode (bitsOf s.desc (8 * 8 + 3) (8 * 8)) / (if fp64 then 64 else 32)

/-- Output of source block i. -/
def State.commitOut (m : State) (s : Spk) (fp64 : Bool) (v : Num) (i : Nat) : List Byte :=
  commitBytes (bitsOf s.desc (8 * 8 + 3) (8 * 8)) (bitsOf s.desc (8 * 8 + 6) (8 * 8 + 4)) fp64 v (m.commitSrc s i)

/-- Write block i of a COMMIT at DST (R131): locally, or to a remote node with the tag of every output block that this source
block completes (R302). -/
def State.commitWrite (m : State) (s : Spk) (fp64 : Bool) (v : Num) (i : Nat) : State :=
  let ofmt := bitsOf s.desc (8 * 8 + 3) (8 * 8)
  let len := s.outLen fp64
  let dst := s.desc % 2 ^ 64
  let a := dst + i * len
  let out := m.commitOut s fp64 v i
  if gNode a = m.nodeId then m.write (0x14 + s.q) s.stn (gLocal a) out false 0
  else
    let m1 := m.gsend s.id s.stn (0x08 + s.q) a out (fun _ _ => false)
    (List.range ((a + len) / 4096 - a / 4096)).foldl (fun m k =>
      let b := (a / 4096 + k) * 4096
      if b < dst then m
      else
        let j := (b - dst) / len
        let bs := (((List.range (i + 1 - j)).flatMap (fun x => m.commitOut s fp64 v (j + x))).drop (b - (dst + j * len))).take 4096
        m.gtag s.id s.stn (0x08 + s.q) b (tagOf (some ofmt) bs)) m1

/-- Tags of the whole local output blocks of a COMMIT (R302). -/
def State.commitTags (m : State) (s : Spk) (fp64 : Bool) : State :=
  let ofmt := bitsOf s.desc (8 * 8 + 3) (8 * 8)
  let len := s.blocks * s.outLen fp64
  let a := s.desc % 2 ^ 64
  if gNode a ≠ m.nodeId ∨ len = 0 then m
  else (List.range ((gLocal a + len) / 4096 - (gLocal a + 4095) / 4096)).foldl (fun m k =>
    let b := ((gLocal a + 4095) / 4096 + k) * 4096
    match m.check (some s.stn) b 4096 true with
    | .ok => m.setTag b (tagOf (some ofmt) (m.bytes b 4096))
    | _ => m) m

/-- COMMIT_GATE: a COMMIT whose gate is open (or that has none) passes its checks and writes. -/
def State.commitGate (m : State) (i : Nat) : State :=
  match m.spks.find? (fun s => decide (s.id = i) && s.unwritten) with
  | none => m
  | some s =>
    let d := s.desc
    let src := bitsOf d (0x20 * 8 + 63) (0x20 * 8)
    let spn := if src = 0 then 0 else bitsOf d (0x28 * 8 + 23) (0x28 * 8)
    let dst := d % 2 ^ 64
    let scaled := bitOf d (8 * 8 + 9)
    let sa := bitsOf d (0x18 * 8 + 43) (0x18 * 8)
    let held := (gNode src = m.nodeId && m.memHeld s.stn (gLocal src) (4096 * spn)) || (gNode dst = m.nodeId && m.memHeld s.stn (gLocal dst) 1) ||
      (scaled && m.memHeld s.stn sa 8)
    if m.gated s ∨ m.safe ∨ held then m
    else if !m.atHand i src (4096 * spn) then m.ask i s.stn (0x08 + s.q) src (4096 * spn)
    else
      let reads : Bool := match m.commitCheck s with | .go _ _ => true | .fail st _ _ => decide (st < 6)
      let m := if reads then m.touch s.stn (potAddr s.q (4096 * s.blk)) (4096 * s.nblk) false 0 else m
      let m := if reads ∧ gNode src = m.nodeId ∧ m.check (some s.stn) (gLocal src) (4096 * spn) false = .ok
        then m.touch s.stn (gLocal src) (4096 * spn) false 0 else m
      let scales := scaled && (match m.commitCheck s with | .go _ _ => true | .fail st _ bad => decide (st = 4) && bad.isNone)
      let m := if scales then m.touch s.stn sa 8 false 0 else m
      match m.commitCheck s with
      | .fail st c bad =>
        let m1 := match bad with
          | some a => (m.load (0x14 + s.q) s.stn a 8 0).2.2
          | none => m
        (if c then m1.potConsumed s.q s.stn else m1).commitEnd s st (cdStep d)
      | .go fp64 v =>
        let m1 := (List.range s.nblk).foldl (fun m k => m.setFld (spByte s.q (s.blk + k)) (m.fld (spByte s.q (s.blk + k)) ||| 64)) m
        let m3 := ((List.range s.blocks).foldl (fun m k => m.commitWrite s fp64 v k) m1).commitTags s fp64
        let s1 := { s with phase := 1, sent := s.blocks }
        { m3 with spks := m3.spks.map (fun x => if x.id = i then s1 else x) }

def execCommitGate (i : Nat) (s : State) : Host.Outcome State Fault Refusal := .next (s.commitGate i).landed

/-- COMMIT_DONE: with every write acknowledged the blocks close. -/
def State.commitDone (m : State) (i : Nat) : State :=
  match m.spks.find? (fun s => decide (s.id = i ∧ s.op = 1 ∧ s.phase = 1)) with
  | none => m
  | some s =>
    if m.safe ∨ !m.acked i then m
    else
      let m1 := (List.range s.nblk).foldl (fun m k => m.setFld (spByte s.q (s.blk + k)) 0) m
      let m2 := (List.range 4).foldl (fun m q => (m.setFlag (Reg.ldl_SP_NV q s.stn) false).setFlag (Reg.ldl_SP_OF q s.stn) false) m1
      m2.commitEnd s 1 (cdStep s.desc)

def execCommitDone (i : Nat) (s : State) : Host.Outcome State Fault Refusal := .next (s.commitDone i).landed

/-! ## The norm scan (R148) and the ratio flush (R147) -/

/-- The norm accumulators of a job are named by a granted GOP of its station (R149). -/
def State.normBusy (m : State) (j : NormJob) : Bool :=
  m.gops.any (fun g => decide (g.stn = j.stn) && g.granted && (m.normsOf g).any (fun r => decide (r ∈ j.regs)))

/-- GO of SCAN: a job is taken, or dropped and recorded while one runs (R149). -/
def State.scanGo (m : State) (master q n : Nat) : State :=
  if m.flag (Reg.ldl_BUSY_1020 q n) then m.access (0x08 + q) master (some n) 1 (0xF00_0000_0000 + (Reg.ldl_GO_1020 q n).off)
  else
    let (id, m1) := m.freshId
    let j : NormJob := ⟨id, false, q, n, m.fld (Reg.ldl_SPBLK q n), m.fld (Reg.ldl_NBLK q n), m.fld (Reg.ldl_NREG q n),
      m.fld (Reg.ldl_SCAN_SRC q n), if m.fld (Reg.ldl_SCAN_SRC q n) = 0 then 0 else m.fld (Reg.ldl_SCAN_SPN q n),
      m.flag (Reg.ldl_SP_FP64 q n)⟩
    { m1.setFlag (Reg.ldl_BUSY_1020 q n) true with norms := m1.norms ++ [j] }

/-- Squares of a block's elements, added in order; psn i: element i is poisoned, so that it is not added (R125, R148). -/
def State.scanElems (m : State) (j : NormJob) (fp64 : Bool) (bs : List Byte) (psn : Nat → Nat → Bool) : State :=
  let f := if fp64 then Fmt.fp64 else Fmt.fp32
  let w := if fp64 then 64 else 32
  let v := leNat bs
  (List.range (bs.length * 8 / w)).foldl (fun m i =>
    if psn (i * w / 8) (w / 8) then m else m.normAdd j.q j.stn j.c (f.decode (elemAt v w i)) false) m

/-- One Stockpot block of a scan. -/
def State.scanBlock (m : State) (j : NormJob) (b : Nat) : State :=
  let st := m.fld (spByte j.q b)
  if b ≥ 16384 ∨ !inWin (m.potWin j.stn j.q) (4096 * b) 4096 ∨ !bitOf st 0 then
    (m.setFlag (Reg.ldl_NORM_PSN j.q j.stn j.c) true).access (0x08 + j.q) (0x14 + j.q) (some j.stn) 0 (potAddr j.q (4096 * b))
  else
    let a := potAddr j.q (4096 * b)
    let rd := m.sramRead (0x08 + j.q) 1 j.stn (0x14 + j.q) a false
    let fp64 := decide (bitsOf st 5 4 = 2)
    let bs := m.bytes a 4096
    let bad := rd.1 || bitOf st 1 || m.psnIn a 4096
    let m0 := if bad then (rd.2.setFlag (Reg.ldl_NORM_PSN j.q j.stn j.c) true).potConsumed j.q j.stn else rd.2
    let m1 := if bitsOf st 5 4 = 0 then m0
      else m0.scanElems j fp64 bs (fun i k => (rd.1 && decide (i < 32)) || m.psnIn (a + i) k)
    let m2 := if bitOf st 2 then m1.setFlag (Reg.ldl_NORM_NV j.q j.stn j.c) true else m1
    m2.digestAdd j.stn (2 ^ 63 + j.q * 2 ^ 30 + b * 4096) (tagOf (some (if fp64 then 0 else 1)) bs)

/-- One spill block of a scan. -/
def State.scanSpill (m : State) (j : NormJob) (k : Nat) : State :=
  let a := j.src + 4096 * k
  let loc := decide (gNode a = m.nodeId)
  let ok := !loc || (match m.check (some j.stn) (gLocal a) 4096 false with | .ok => true | _ => false)
  if !ok then (m.setFlag (Reg.ldl_NORM_PSN j.q j.stn j.c) true).access (0x08 + j.q) (0x14 + j.q) (some j.stn) 0 (gLocal a)
  else
    let m0 := if loc then m.touch j.stn (gLocal a) 4096 false 0 else m
    let r := m0.gbytes j.id a 4096
    let m' := if r.2 then (m0.setFlag (Reg.ldl_NORM_PSN j.q j.stn j.c) true).potConsumed j.q j.stn else m0
    let m1 := m'.scanElems j j.fp64 r.1 (fun i k => (m0.gbytes j.id (a + i) k).2)
    m1.digestAdd j.stn (if loc then m.rangeOff j.stn (gLocal a) else gLocal a) (tagOf (some (if j.fp64 then 0 else 1)) r.1)

/-- STOCKPOT_SCAN_DONE. -/
def State.scanDone (m : State) (q n : Nat) : State :=
  match m.norms.find? (fun j => !j.flush && decide (j.q = q ∧ j.stn = n)) with
  | none => m
  | some j =>
    let first := (m.norms.takeWhile (fun k => decide (k.id ≠ j.id))).any (fun k => decide (k.stn = n) && k.regs.any (fun r => decide (r ∈ j.regs)))
    let pot := m.spks.any (fun s => decide (s.id < j.id) && blocksMeet (s.q, s.blk, s.nblk) (q, j.a, j.b)) ||
      m.gops.any (fun g => decide (g.id < j.id) && (g.potIvls m.nodeId).any (fun i => blocksMeet i (q, j.a, j.b)))
    if m.safe ∨ m.normBusy j ∨ first ∨ pot ∨ (gNode j.src = m.nodeId ∧ m.memHeld n (gLocal j.src) (4096 * j.spn)) then m
    else if !m.atHand j.id j.src (4096 * j.spn) then m.ask j.id n (0x08 + q) j.src (4096 * j.spn)
    else
      let m1 := (List.range j.b).foldl (fun m i => m.scanBlock j (j.a + i)) m
      let m2 := (List.range j.spn).foldl (fun m k => m.scanSpill j k) m1
      ({ m2.setFlag (Reg.ldl_BUSY_1020 q n) false with norms := m2.norms.filter (fun k => decide (k.id ≠ j.id)) }).dropBuf j.id

def execStockpotScanDone (q : Quad) (n : Stn) (s : State) : Host.Outcome State Fault Refusal := .next (s.scanDone q n).landed

/-- GO of RFLUSH. -/
def State.rflushGo (m : State) (master n : Nat) : State :=
  if m.flag (Reg.ldl_BUSY_1018 0 n) then m.access 0x08 master (some n) 1 (0xF00_0000_0000 + (Reg.ldl_GO 0 n).off)
  else
    let (id, m1) := m.freshId
    { m1.setFlag (Reg.ldl_BUSY_1018 0 n) true with
      norms := m1.norms ++ [⟨id, true, 0, n, m.fld (Reg.ldl_LAYER 0 n), m.fld (Reg.ldl_PAIR 0 n), 0, 0, 0, false⟩] }

/-- ((a0 + a1) + a2) + a3 in FP64. -/
def sum4 (a : Nat → Nat) : Nat := (Arith.f64.add (Arith.f64.add (Arith.f64.add (a 0) (a 1)).1 (a 2)).1 (a 3)).1

/-- The 32 bytes of a ratio record. -/
def State.ratioRecord (m : State) (n layer j : Nat) : List Byte :=
  let uu := sum4 (fun q => m.fld (Reg.ldl_NORM q n (2 * j)))
  let ww := sum4 (fun q => m.fld (Reg.ldl_NORM q n (2 * j + 1)))
  let any (f : Nat → Nat → Fld) : Bool := (List.range 4).any (fun q => m.flag (f q (2 * j)) || m.flag (f q (2 * j + 1)))
  let nv := any (fun q i => Reg.ldl_NORM_NV q n i)
  let psn := any (fun q i => Reg.ldl_NORM_PSN q n i)
  let ratio := if nv ∨ psn then 0x7FF8_0000_0000_0000
    else if uu = 0 ∧ ww = 0 then 0
    else if ww = 0 then Fmt.fp64.infBits false
    else (Arith.f64.sqrt (Arith.f64.div uu ww).1).1
  let step := m.param n (m.fld (Reg.ldl_PSTEP 0 n)) % 2 ^ 32
  leBytes (layer + b2n nv <<< 16 + b2n psn <<< 17 + b2n (decide (ww = 0)) <<< 18 + step <<< 32) 8 ++ leBytes uu 8 ++ leBytes ww 8 ++ leBytes ratio 8

/-- RFLUSH_DONE (R147). -/
def State.rflushDone (m : State) (n : Nat) : State :=
  match m.norms.find? (fun j => j.flush && decide (j.stn = n)) with
  | none => m
  | some j =>
    let first := (m.norms.takeWhile (fun k => decide (k.id ≠ j.id))).any (fun k => decide (k.stn = n) && k.regs.any (fun r => decide (r ∈ j.regs)))
    if m.safe ∨ m.normBusy j ∨ first then m
    else
      let base := m.fld (Reg.ldl_RLOG_BASE 0 n) * 4096
      let len := m.fld (Reg.ldl_RLOG_LEN 0 n)
      let head := m.fld (Reg.ldl_RLOG_HEAD 0 n)
      let m1 :=
        if len = 0 ∨ !m.inHbmRange n base (4096 * len) then m.access 0x08 0x14 (some n) 1 base
        else (m.storeP n (base + head % (128 * len) * 32) (m.ratioRecord n j.a j.b) false 0).landed.setFld (Reg.ldl_RLOG_HEAD 0 n) (head + 1)
      let m2 := j.regs.foldl (fun m r =>
        ((m.setFld (Reg.ldl_NORM r.1 n r.2) 0).setFlag (Reg.ldl_NORM_NV r.1 n r.2) false).setFlag (Reg.ldl_NORM_PSN r.1 n r.2) false) m1
      { m2.setFlag (Reg.ldl_BUSY_1018 0 n) false with norms := m2.norms.filter (fun k => decide (k.id ≠ j.id)) }

def execRflushDone (n : Stn) (s : State) : Host.Outcome State Fault Refusal := .next (s.rflushDone n).landed

end Sys2Proof.Machine
end

