-- ==== Sys2Proof/Machine/Engine.lean ====
section
/-! DEFINITION. What the Whisks, the Tongs and the collective engines share: operand addresses (R24, R31, R168), vectors of
elements in memory, outputs with their poison and tags (R169, R302), descriptor queues (R106, R167), and the end of a
descriptor (R168). -/

namespace Sys2Proof.Machine

/-! ## Addresses -/

/-- A range a station's engine may name: its own resource inside one GiB or slice, or, at another node, one that passes R31
there. -/
def State.gOk (m : State) (n g len : Nat) (write : Bool) : Bool :=
  let a := gLocal g
  let z := a + len - 1
  let one := decide (0 < len ∧ gNode g = gNode (g + len - 1)) && (!isHbm a || decide (a / 2 ^ 30 = z / 2 ^ 30))
  if gNode g = m.nodeId then one && decide (m.check (some n) a len write = .ok)
  else one && remoteOk a len

/-- Every range has arrived for item i. -/
def State.ready (m : State) (i : Nat) (rs : List (Nat × Nat)) : Bool := rs.all (fun r => m.atHand i r.1 r.2)

/-- Ask for what has not. -/
def State.askAll (m : State) (i stn page : Nat) (rs : List (Nat × Nat)) : State :=
  rs.foldl (fun m r => m.ask i stn page r.1 r.2) m

/-- Some local range of rs holds (R221, R224). -/
def State.anyHeld (m : State) (n : Nat) (rs : List (Nat × Nat)) : Bool :=
  rs.any (fun r => decide (gNode r.1 = m.nodeId) && m.memHeld n (gLocal r.1) r.2)

/-- Reads pass the station's cache where they are local. -/
def State.touchAll (m : State) (n cls : Nat) (rs : List (Nat × Nat)) : State :=
  rs.foldl (fun m r => if gNode r.1 = m.nodeId then m.touch n (gLocal r.1) r.2 false cls else m) m

/-! ## Elements -/

/-- Element k of a vector of a floating format at global address a, as item i sees it, with its poison. -/
def State.vecElem (m : State) (i a : Nat) (f : Fmt) (k : Nat) : Num × Bool :=
  let n := f.width / 8
  let r := m.gbytes i (a + n * k) n
  (f.decode (leNat r.1), r.2)

/-- n elements from a. -/
def State.vec (m : State) (i a : Nat) (f : Fmt) (n : Nat) : List (Num × Bool) :=
  (List.range n).map (m.vecElem i a f)

/-- A 32-bit word of an index array. -/
def State.idxAt (m : State) (i a k : Nat) : Nat × Bool :=
  let r := m.gbytes i (a + 4 * k) 4
  (leNat r.1, r.2)

/-- Bytes of output elements. -/
def outBytes (f : Fmt) (vs : List (Nat × Bool)) : List Byte := vs.flatMap (fun v => leBytes v.1 (f.width / 8))

/-- Whether bytes [k, k + n) of output elements carry poison. -/
def outPsn (f : Fmt) (vs : List (Nat × Bool)) (k n : Nat) : Bool :=
  let w := f.width / 8
  ((vs.drop (k / w)).take ((k + n - 1) / w + 1 - k / w)).any (fun v => v.2)

/-- Tag every 4 KiB block that [a, a + bs.length) covers whole, over its final bytes (R302). -/
def State.tagBlocks (m : State) (i n page g : Nat) (bs : List Byte) (code : Nat) : State :=
  let first := (g + 4095) / 4096
  (List.range ((g + bs.length) / 4096 - first)).foldl (fun m k =>
    let b := 4096 * (first + k)
    let t := tagOf (some code) ((bs.drop (b - g)).take 4096)
    if gNode g = m.nodeId then m.setTag (gLocal b) t else m.gtag i n page b t) m

/-- An engine writes a vector of format code c at a global address for item i: poison and tags travel with it. -/
def State.putVec (m : State) (i n page g c : Nat) (vs : List (Nat × Bool)) (cls : Nat) : State :=
  let f := (fmtOfCode c).getD .fp64
  let bs := outBytes f vs
  let m1 := if gNode g = m.nodeId then m.store n (gLocal g) bs (outPsn f vs) cls else m.gsend i n page g bs (outPsn f vs)
  m1.tagBlocks i n page g bs c

/-! ## Queues -/

/-- The next station round-robin after last whose queue holds a descriptor (R167). -/
def nextStn (queue : List QDesc) (last : Nat) : Option QDesc :=
  let order := (List.range 8).map (fun k => (last + 1 + k) % 8)
  (order.find? (fun n => queue.any (fun d => decide (d.stn = n)))).bind (fun n => queue.find? (fun d => decide (d.stn = n)))

/-- Descriptors a station has queued, as QDEPTH shows them. -/
def qdepth (queue : List QDesc) (n : Nat) : Nat := (queue.filter (fun d => decide (d.stn = n))).length

/-- A dispatch is complete: FEN ENG no longer waits for it (R107, R168). Its identity tells it from every other descriptor
at the same address. -/
def State.dispatched (m : State) (d : QDesc) : State :=
  match m.dispatches.find? (fun e => decide (e.2 = d)) with
  | some e => { m with dispatches := m.dispatches.erase e }
  | none => m

/-- A descriptor ends with a CODE (R168): its counter on OK, else ENG_FAULT with the code, and its dispatch completes. -/
def State.descEnd (m : State) (d : QDesc) (code page master : Nat) : State :=
  let m1 := if code = 1 then m.ctrDone d.stn d.ctr d.cen master
    else m.report { page := page, code := Code.engFault, stn := some d.stn, master := master, acc := 5, addr := d.addr }
  m1.dispatched d

/-- The queued descriptor of a doorbell word (R180): DESC, CTR and CEN. -/
def doorbell (n v : Nat) : QDesc := ⟨n, bitsOf v 43 0, bitsOf v 55 44, bitOf v 56, none, none⟩

/-- Whether a doorbell of station n is taken: its counter is granted and no reset of the station runs (R367). -/
def State.doorbellOk (m : State) (d : QDesc) : Bool := !m.inReset d.stn && decide (d.ctr < m.ctrNum d.stn) && !m.safe

/-- The fields of DWK, DTG and DMT (R106). -/
structure DispF where
  d : QDesc
  eng : Nat
  rel : Bool
  deriving DecidableEq, Repr

def dispF (n w : Nat) : DispF := ⟨⟨n, bitsOf w 75 32, bitsOf w 96 85, bitOf w 97, none, none⟩, bitsOf w 84 80, bitOf w 98⟩

/-- A dispatch at its issue: engines are those below lim; room: the engine's queue takes it; push puts it there. -/
def State.issueDispatch (m : State) (n q lim w : Nat) (room : Nat → Bool) (push : State → Nat → QDesc → State) : Issue :=
  let f := dispF n w
  if lim ≤ f.eng ∨ m.ctrNum n ≤ f.d.ctr then .refuse
  else if (f.rel ∧ !m.allDone n q) ∨ !room f.eng then .wait
  else
    let (id, m0) := m.freshId
    let d := { f.d with disp := some id }
    let m1 := push m0 f.eng d
    .go ((({ m1 with dispatches := m1.dispatches ++ [(4 * n + q, d)] }).stepDispatch n).advance n q true)

end Sys2Proof.Machine
end

