-- ==== Sys2Proof/Machine/Whisk.lean ====
section
/-! DEFINITION. The Whisks (R159 to R169): descriptors and their checks, the arithmetic of each kind, chains and their
vector buffer, and the status a chain ends with. -/

namespace Sys2Proof.Machine

/-- Fields of a Whisk descriptor (R161). -/
structure WskF where
  kind : Nat
  trans : Bool
  afmt : Nat
  ofmt : Nat
  rnd : Nat
  sat : Bool
  xbuf : Bool
  ybuf : Bool
  acc : Bool
  link : Bool
  rows : Nat
  cols : Nat
  a : Nat
  lda : Nat
  bs : Nat
  x : Nat
  y : Nat
  alpha : Nat
  beta : Nat
  aux1 : Nat
  aux2 : Nat
  aux3 : Nat
  b1 : Nat
  c1 : Nat
  b2 : Nat
  c2 : Nat
  bc1 : Nat
  bc2 : Nat
  eps : Nat
  wd : Nat
  next : Nat
  deriving DecidableEq, Repr

/-- The fields from the descriptor's 160 bytes. -/
def wskF (d : Nat) : WskF :=
  let dw (o : Nat) : Nat := bitsOf d (8 * o + 63) (8 * o)
  let w (o : Nat) : Nat := bitsOf d (8 * o + 31) (8 * o)
  { kind := bitsOf d 2 0, trans := bitOf d 3, afmt := bitsOf d 7 4, ofmt := bitsOf d 11 8, rnd := bitsOf d 14 12,
    sat := bitOf d 15, xbuf := bitOf d 16, ybuf := bitOf d 17, acc := bitOf d 18, link := bitOf d 19, rows := w 0x08,
    cols := w 0x0C, a := dw 0x10, lda := w 0x18, bs := if bitOf d (8 * 0x18 + 32) then 16 else 8, x := dw 0x20,
    y := dw 0x28, alpha := dw 0x30, beta := dw 0x38, aux1 := dw 0x40, aux2 := dw 0x48, aux3 := dw 0x50, b1 := w 0x58,
    c1 := w 0x5C, b2 := w 0x60, c2 := w 0x64, bc1 := w 0x68, bc2 := w 0x6C, eps := w 0x70, wd := w 0x74,
    next := bitsOf d (8 * 0x80 + 43) (8 * 0x80) }

/-- The accumulator is FP64 (R163). -/
def WskF.wide (f : WskF) : Bool := decide (f.afmt = 0 ∨ f.kind = 3)
def WskF.ar (f : WskF) : Arith := if f.wide then .f64 else .f32
def WskF.fa (f : WskF) : Fmt := (fmtOfCode f.afmt).getD .fp64
def WskF.fo (f : WskF) : Fmt := (fmtOfCode f.ofmt).getD .fp64
/-- Bytes of an AFMT element. -/
def WskF.eb (f : WskF) : Nat := f.fa.width / 8
/-- Lanes of a group (R163). -/
def WskF.group (f : WskF) : Nat := if f.wide then 256 else 1024
/-- GEMV or BSRMV. -/
def WskF.matrix (f : WskF) : Bool := decide (f.kind ≤ 1)
/-- Length of x, and of y. -/
def WskF.xlen (f : WskF) : Nat := if f.matrix ∧ !f.trans then f.cols else f.rows
def WskF.ylen (f : WskF) : Nat :=
  if f.kind = 3 then 1 else if f.matrix ∧ f.trans then f.cols else f.rows
/-- Format code of what is written at Y: DOT writes FP64. -/
def WskF.ycode (f : WskF) : Nat := if f.kind = 3 then 0 else f.ofmt
/-- y_old takes part. -/
def WskF.reads (f : WskF) : Bool := (f.matrix && f.acc) || decide (f.kind = 2)

/-- An FP64 value that FP32 holds exactly. -/
def fitsF32 (v : Nat) : Bool :=
  decide ((Fmt.fp64.convert .ne false (Fmt.fp32.decode (Fmt.fp32.convert .ne false (Fmt.fp64.decode v)).1)).1 = v)

/-- BADDESC (R162). -/
def WskF.bad (f : WskF) (c : Chain) : Bool :=
  decide (4 < f.kind ∨ 3 < f.afmt ∨ 3 < f.ofmt ∨ 3 < f.rnd) || decide (f.rows = 0) || (f.matrix && decide (f.cols = 0)) ||
  (decide (f.kind = 1) && decide (f.rows % f.bs ≠ 0 ∨ f.cols % f.bs ≠ 0)) ||
  (f.xbuf && (!c.bufValid || decide (c.buf.length ≠ f.xlen))) ||
  (decide (f.kind = 4) && (decide (f.afmt ≠ 1) || !fitsF32 f.alpha)) ||
  (decide (f.y = 0) && !f.ybuf)

/-- Elements the vector buffer holds (R162). -/
def WskF.held (f : WskF) : Nat :=
  if !f.matrix then 0 else if f.trans then f.cols else f.cols + (if f.ybuf then f.rows else 0)

def WskF.overBuf (f : WskF) : Bool := decide (8 * 2 ^ 20 < f.held * (if f.wide then 8 else 4))

/-- y in memory. -/
def WskF.yRange (f : WskF) : List (Nat × Nat) :=
  if f.y = 0 then [] else [(f.y, f.ylen * (if f.kind = 3 then 8 else f.fo.width / 8))]

/-- Ranges of the vectors that a link reads, the matrix apart: x, y_old, and the auxiliary vectors. -/
def WskF.vectors (f : WskF) : List (Nat × Nat) :=
  (if f.xbuf then [] else [(f.x, f.xlen * f.eb)]) ++ (if f.reads then f.yRange else []) ++
  (match f.kind with
    | 1 => [(f.aux1, 4 * (f.rows / f.bs + 1))]
    | 3 => [(f.aux1, f.rows * f.eb)]
    | 4 => [(f.aux1, 4 * f.rows), (f.aux2, 4 * f.rows), (f.aux3, 4 * f.rows)]
    | _ => [])

/-- Ranges that a link writes: y, and ADAMW's m and v. -/
def WskF.outputs (f : WskF) : List (Nat × Nat) :=
  f.yRange ++ (if f.kind = 4 then [(f.aux1, 4 * f.rows), (f.aux2, 4 * f.rows)] else [])

/-- Rows of GEMV's matrix. -/
def WskF.rowRanges (f : WskF) : List (Nat × Nat) := (List.range f.rows).map (fun i => (f.a + i * f.lda, f.cols * f.eb))

/-- A chain's descriptor is the station's; a Mortar's own lies in its local memory (R197). -/
def State.descOk (m : State) (c : Chain) : Bool := c.q.mortar.isSome || decide (m.check (some c.q.stn) c.cur 160 true = .ok)

/-- The check of the descriptor a chain has reached: 0 when it can run, else its CODE (R162, R168). -/
def State.linkCheck (m : State) (c : Chain) : Nat :=
  let f := wskF c.d
  let n := c.q.stn
  if !m.descOk c then 3
  else if 256 ≤ c.links ∨ f.bad c then 2
  else if f.overBuf then 4
  else if !(f.vectors ++ (if f.kind = 0 then f.rowRanges else [])).all (fun r => m.gOk n r.1 r.2 false) then 3
  else if !f.outputs.all (fun r => m.gOk n r.1 r.2 true) then 3
  else 0

/-! ## The unit -/

def State.whisk (m : State) (s : Nat) : Whisk := m.whisks.get (fun _ => .idle) s

/-- A Whisk's state with its registers (R180). -/
def State.setWhisk (m : State) (s : Nat) (w : Whisk) : State :=
  let m1 := { m with whisks := m.whisks.set (fun _ => .idle) s w }
  let m2 := (List.range 8).foldl (fun m n => m.setFld (Reg.wsk_QDEPTH s n) (min 8 (qdepth w.queue n))) m1
  match w.run with
  | none => (m2.setFlag (Reg.wsk_BUSY s) false).setFld (Reg.wsk_LINKS s) 0
  | some c => ((m2.setFlag (Reg.wsk_BUSY s) true).setFld (Reg.wsk_STN s) c.q.stn).setFld (Reg.wsk_LINKS s) (c.links % 256)

def State.whiskPush (m : State) (s : Nat) (d : QDesc) : State :=
  m.setWhisk s { m.whisk s with queue := (m.whisk s).queue ++ [d] }

def State.whiskRoom (m : State) (n s : Nat) : Bool := decide (qdepth (m.whisk s).queue n < 8)

/-- The chain reaches a descriptor: it is read once, and its check is made before any operand is read. -/
def State.enterLink (m : State) (s : Nat) (c : Chain) : State :=
  let writes := m.descOk c
  let m1 := if writes then m.touch c.q.stn c.cur 160 false 0 else m
  let c1 : Chain := { c with d := m1.word c.cur 160 }
  let code := m1.linkCheck c1
  m1.setWhisk s { m1.whisk s with run := some { c1 with code := code, status := statusWord code .none false 0, writes := writes } }

/-- CHAIN_START (R167). -/
def State.chainStart (m : State) (s : Nat) : State :=
  let w := m.whisk s
  if m.safe ∨ w.run.isSome ∨ (0x10 + s) ∈ m.engResets then m
  else match nextStn w.queue w.last with
    | none => m
    | some d =>
      let id := m.nextId
      if m.memHeld d.stn d.addr 160 then m else
      let m1 := { m with nextId := id + 1 }
      (m1.setWhisk s { w with queue := w.queue.erase d, last := d.stn }).enterLink s ⟨d, d.addr, 0, 0, [], false, id, 0, false, 0⟩

/-- A link has run: STATUS of a link that goes on is written now; the last one's, at CHAIN_END. -/
def State.linkDone (m : State) (s : Nat) (c : Chain) (f : WskF) (code : Nat) (fl : Flags) (psn : Bool) (done : Nat)
    (y : List (Nat × Bool)) : State :=
  let st := statusWord code fl psn done
  if code = 1 ∧ f.link then
    let m1 := m.putStatus c.q.stn (c.cur + 0x88) st 0
    m1.enterLink s { c with cur := f.next, links := c.links + 1, buf := if f.ybuf then y else [], bufValid := f.ybuf }
  else
    m.setWhisk s { m.whisk s with run := some { c with
      links := if code = 1 then c.links + 1 else c.links
      code := code
      status := st
      writes := true
      buf := []
      bufValid := false } }

/-! ## Arithmetic (R163) -/

/-- A product in the accumulator format. -/
def WskF.prod (f : WskF) (a x : Num) : Nat × Flags := f.ar.mulNum a x

def pairUp (ar : Arith) : List (Nat × Flags) → List (Nat × Flags)
  | x :: y :: t =>
    let r := ar.add x.1 y.1
    (r.1, (r.2.or x.2).or y.2) :: pairUp ar t
  | l => l

/-- The fixed pairwise tree, level by level. -/
def treeSum (ar : Arith) : Nat → List (Nat × Flags) → Nat × Flags
  | 0, l => l.headD (0, .none)
  | k + 1, l => treeSum ar k (pairUp ar l)

/-- One group of products, padded with zeros, added to the accumulator. -/
def groupAdd (ar : Arith) (acc : Nat × Flags) (g : Nat) (ps : List (Nat × Flags)) : Nat × Flags :=
  let t := treeSum ar (Nat.log2 g) (ps ++ List.replicate (g - ps.length) (0, .none))
  let r := ar.add acc.1 t.1
  (r.1, (r.2.or acc.2).or t.2)

/-- whisk_row, from an accumulator. -/
def WskF.row (f : WskF) (g : Nat) (acc : Nat × Flags) (a x : List Num) : Nat × Flags :=
  let ps := (a.zip x).map (fun p => f.prod p.1 p.2)
  (List.range ((ps.length + g - 1) / g)).foldl (fun acc k => groupAdd f.ar acc g ((ps.drop (k * g)).take g)) acc

/-- α or β rounded to the accumulator format, and the flags of that. -/
def WskF.coef (f : WskF) (v : Nat) : Num × Flags :=
  let r := f.ar.fmt.convert .ne false (Fmt.fp64.decode v)
  (f.ar.fmt.decode r.1, r.2)

/-- rnd(rnd(α·s) + rnd(β·y_old)), or rnd(α·s) alone. -/
def WskF.final (f : WskF) (s : Num) (old : Option Num) : Nat × Flags :=
  let a := f.coef f.alpha
  let p := f.ar.mulNum a.1 s
  match old with
  | none => (p.1, p.2.or a.2)
  | some o =>
    let b := f.coef f.beta
    let q := f.ar.mulNum b.1 o
    let r := f.ar.add p.1 q.1
    (r.1, (((r.2.or p.2).or q.2).or a.2).or b.2)

/-- Conversion of an accumulator value to OFMT (R45). -/
def WskF.out (f : WskF) (v : Nat) : Nat × Flags := f.fo.convert (rndOf f.rnd 0) f.sat (f.ar.fmt.decode v)

/-- x of a link: from the vector buffer, or from memory. -/
def State.wskX (m : State) (c : Chain) (f : WskF) : List (Num × Bool) :=
  if f.xbuf then c.buf.map (fun e => (Fmt.fp64.decode e.1, e.2)) else m.vec c.id f.x f.fa f.xlen

/-- y_old of a link; without a Y there is none and it is zero. -/
def State.wskOld (m : State) (c : Chain) (f : WskF) : List (Num × Bool) :=
  if f.y = 0 then List.replicate f.ylen (.fin false 0 0, false) else m.vec c.id f.y f.fo f.ylen

/-- Finish a link from its sums: final step, conversion, write and the vector buffer. sums: accumulator bits, flags, poison. -/
def State.wskWrite (m : State) (s : Nat) (c : Chain) (f : WskF) (sums : List (Nat × Flags × Bool)) (done : Nat) : State :=
  let old := m.wskOld c f
  let ys := sums.zipIdx.map (fun e =>
    let o := old.getD e.2 (.fin false 0 0, false)
    let r := f.final (f.ar.fmt.decode e.1.1) (if f.reads then some o.1 else none)
    (r.1, r.2.or e.1.2.1, e.1.2.2 || (f.reads && o.2)))
  let os := ys.map (fun y => (f.out y.1, y))
  let fl := os.foldl (fun a o => (a.or o.1.2).or o.2.2.1) .none
  let psn := ys.any (fun y => y.2.2)
  let m1 := if f.y = 0 then m else m.putVec c.id c.q.stn (0x10 + s) f.y f.ofmt (os.map (fun o => (o.1.1, o.2.2.2))) 0
  let y64 := ys.map (fun y => ((Fmt.fp64.convert .ne false (f.ar.fmt.decode y.1)).1, y.2.2))
  m1.linkDone s c f 1 fl psn done y64

/-! ## Matrix reads with their tags (R303) -/

/-- Whole 4 KiB blocks of a range of local bytes. -/
def wholeBlocks (r : Nat × Nat) : List Nat :=
  let first := (gLocal r.1 + 4095) / 4096
  (List.range ((gLocal r.1 + r.2) / 4096 - first)).map (fun i => first + i)

/-- Check the tags of the whole blocks read; answers the blocks that are delivered poisoned. -/
def State.checkBlocks (m : State) (n s afmt : Nat) (bs : List Nat) (glitch : Bool) : List Nat × State :=
  bs.foldl (fun (r : List Nat × State) b =>
    let a := 4096 * b
    let c := r.2.tagCheck n (0x10 + s) 0 (0x20 + s) a (r.2.tag a) (r.2.bytes a 4096) (some afmt) (glitch && decide (bs.head? = some b))
    (if c.1 then b :: r.1 else r.1, c.2)) ([], m)

/-- A read range meets a block that is delivered poisoned. -/
def meetsBlocks (bad : List Nat) (a len : Nat) : Bool :=
  bad.any (fun b => decide (4096 * b < gLocal a + len ∧ gLocal a < 4096 * (b + 1)))

/-- Ranges of the matrix that are contiguous: the rows, or the whole matrix where rows follow one another. -/
def WskF.runsOf (f : WskF) : List (Nat × Nat) := if f.lda = f.cols * f.eb then [(f.a, f.rows * f.lda)] else f.rowRanges

/-- Run the current link when it is of kind k, its operands are at hand and its writes can be sent. -/
def State.runLink (m : State) (s k : Nat) (reads : State → Chain → WskF → List (Nat × Nat))
    (go : State → Chain → WskF → State) : State :=
  match (m.whisk s).run with
  | none => m
  | some c =>
    let f := wskF c.d
    if m.safe ∨ c.code ≠ 0 ∨ f.kind ≠ k then m
    else
      let rs := reads m c f
      if !m.ready c.id rs then m.askAll c.id c.q.stn (0x10 + s) rs
      else if m.anyHeld c.q.stn (rs ++ f.outputs) then m
      else go m c f

/-- GEMV (R163). -/
def State.gemv (m : State) (s : Nat) (glitch : Bool) : State :=
  m.runLink s 0 (fun _ _ f => f.vectors ++ f.rowRanges) fun m c f =>
    let n := c.q.stn
    let local_ := decide (gNode f.a = m.nodeId)
    let m1 := (m.touchAll n 1 f.rowRanges).touchAll n 0 f.vectors
    let r := m1.checkBlocks n s f.afmt (if local_ then f.runsOf.flatMap wholeBlocks else []) glitch
    let m2 := r.2.bump (Reg.wsk_A_BYTES s) (f.rows * f.cols * f.eb)
    let xs := m2.wskX c f
    let rowOf (i : Nat) : List (Num × Bool) := m2.vec c.id (f.a + i * f.lda) f.fa f.cols
    let rowPsn (i : Nat) : Bool := (rowOf i).any (fun e => e.2) || (local_ && meetsBlocks r.1 (f.a + i * f.lda) (f.cols * f.eb))
    let xpsn := xs.any (fun e => e.2)
    let sums : List (Nat × Flags × Bool) :=
      if f.trans then
        let psn := xpsn || (List.range f.rows).any rowPsn
        let ys := (List.range f.rows).foldl (fun (ys : List (Nat × Flags)) i =>
          let x := (xs.getD i (.fin false 0 0, false)).1
          (ys.zip (rowOf i)).map (fun e =>
            let p := f.prod e.2.1 x
            let t := f.ar.add e.1.1 p.1
            (t.1, (t.2.or p.2).or e.1.2))) (List.replicate f.cols (0, .none))
        ys.map (fun y => (y.1, y.2, psn))
      else (List.range f.rows).map (fun i =>
        let t := f.row f.group (0, .none) ((rowOf i).map Prod.fst) (xs.map Prod.fst)
        (t.1, t.2, xpsn || rowPsn i))
    m2.wskWrite s c f sums f.ylen

/-- Blocks of a BSRMV: block row, block column and value address, in index-array order; none where an index lies outside. -/
def State.bsrBlocks (m : State) (c : Chain) (f : WskF) : List (Nat × Nat × Nat × Bool) :=
  (List.range (f.rows / f.bs)).flatMap (fun r =>
    let p0 := m.idxAt c.id f.aux1 r
    let p1 := m.idxAt c.id f.aux1 (r + 1)
    (List.range (p1.1 - p0.1)).map (fun k =>
      let j := m.idxAt c.id f.aux2 (p0.1 + k)
      (r, j.1, f.a + (p0.1 + k) * f.bs * f.bs * f.eb, p0.2 || p1.2 || j.2)))

/-- Index ranges of a BSRMV: first entry and count over all block rows. -/
def State.bsrCount (m : State) (c : Chain) (f : WskF) : Nat :=
  ((List.range (f.rows / f.bs + 1)).map (fun r => (m.idxAt c.id f.aux1 r).1)).foldl max 0

/-- BSRMV (R163): an index array, or a block, outside the station's addresses ends the chain with RANGE; a block column
outside the matrix, with IDX_RANGE. -/
def State.bsrmv (m : State) (s : Nat) : State :=
  m.runLink s 1 (fun m c f =>
      let base := f.vectors
      if !m.ready c.id base then base
      else
        let idx := (f.aux2, 4 * m.bsrCount c f)
        if !m.gOk c.q.stn idx.1 idx.2 false then base
        else if !m.ready c.id [idx] then base ++ [idx]
        else base ++ [idx] ++ ((m.bsrBlocks c f).filter (fun b => m.gOk c.q.stn b.2.2.1 (f.bs * f.bs * f.eb) false)).map
          (fun b => (b.2.2.1, f.bs * f.bs * f.eb)))
    fun m c f =>
      let n := c.q.stn
      let len := f.bs * f.bs * f.eb
      if m.bsrCount c f ≠ 0 ∧ !m.gOk n f.aux2 (4 * m.bsrCount c f) false then m.linkDone s c f 3 .none false 0 []
      else
        let blocks := m.bsrBlocks c f
        if blocks.any (fun b => decide (f.cols / f.bs ≤ b.2.1)) then m.linkDone s c f 5 .none false 0 []
        else if blocks.any (fun b => !m.gOk n b.2.2.1 len false) then m.linkDone s c f 3 .none false 0 []
        else
          let m1 := (m.touchAll n 1 (blocks.map (fun b => (b.2.2.1, len)))).touchAll n 0
            (f.vectors ++ [(f.aux2, 4 * m.bsrCount c f)])
          let loc := decide (gNode f.a = m.nodeId)
          let ck := m1.checkBlocks n s f.afmt (if loc then wholeBlocks (f.a, (blocks.map (fun b => b.2.2.1 + len - f.a)).foldl max 0) else []) false
          let m2 := ck.2.bump (Reg.wsk_A_BYTES s) (blocks.length * len)
          let xs := m2.wskX c f
          let z : Num × Bool := (.fin false 0 0, false)
          let cell (b : Nat × Nat × Nat × Bool) (i : Nat) : List (Num × Bool) := m2.vec c.id (b.2.2.1 + i * f.bs * f.eb) f.fa f.bs
          let psnOf (b : Nat × Nat × Nat × Bool) (i : Nat) : Bool :=
            b.2.2.2 || (cell b i).any (fun e => e.2) || (loc && meetsBlocks ck.1 (b.2.2.1 + i * f.bs * f.eb) (f.bs * f.eb))
          -- one element of a block, with the x it is multiplied by
          let psnElem (b : Nat × Nat × Nat × Bool) (i j : Nat) : Bool :=
            b.2.2.2 || ((cell b i).getD j z).2 || (xs.getD (b.1 * f.bs + i) z).2 ||
              (loc && meetsBlocks ck.1 (b.2.2.1 + (i * f.bs + j) * f.eb) f.eb)
          let ptrPsn (r : Nat) : Bool := (m2.idxAt c.id f.aux1 r).2 || (m2.idxAt c.id f.aux1 (r + 1)).2
          let sums : List (Nat × Flags × Bool) :=
            if f.trans then
              -- a poisoned row pointer leaves open which blocks contribute
              let all := (List.range (f.rows / f.bs)).any ptrPsn
              (List.range f.cols).map (fun j =>
                let mine := blocks.filter (fun b => decide (b.2.1 = j / f.bs))
                let psn := all || mine.any (fun b => (List.range f.bs).any (fun i => psnElem b i (j % f.bs)))
                let t := mine.foldl (fun (t : Nat × Flags) b =>
                  (List.range f.bs).foldl (fun t i =>
                    let p := f.prod ((cell b i).getD (j % f.bs) z).1 (xs.getD (b.1 * f.bs + i) z).1
                    let u := f.ar.add t.1 p.1
                    (u.1, (u.2.or p.2).or t.2)) t) (0, .none)
                (t.1, t.2, psn))
            else (List.range f.rows).map (fun i =>
              let mine := blocks.filter (fun b => decide (b.1 = i / f.bs))
              let t := mine.foldl (fun (t : Nat × Flags) b =>
                f.row f.bs t ((cell b (i % f.bs)).map Prod.fst) (((xs.drop (b.2.1 * f.bs)).take f.bs).map Prod.fst)) (0, .none)
              (t.1, t.2, ptrPsn (i / f.bs) || mine.any (fun b => psnOf b (i % f.bs) || ((xs.drop (b.2.1 * f.bs)).take f.bs).any (fun e => e.2))))
          m2.wskWrite s c f sums f.ylen

/-- AXPBY (R163). -/
def State.axpby (m : State) (s : Nat) : State :=
  m.runLink s 2 (fun _ _ f => f.vectors) fun m c f =>
    let m1 := m.touchAll c.q.stn 0 f.vectors
    let sums := (m1.wskX c f).map (fun e => ((f.ar.fmt.convert .ne false e.1).1, Flags.none, e.2))
    m1.wskWrite s c f sums f.ylen

/-- DOT (R163): one FP64 value at Y. -/
def State.dot (m : State) (s : Nat) : State :=
  m.runLink s 3 (fun _ _ f => f.vectors) fun m c f =>
    let m1 := m.touchAll c.q.stn 0 f.vectors
    let xs := m1.wskX c f
    let bs := m1.vec c.id f.aux1 f.fa f.rows
    let t := f.row 256 (0, .none) (xs.map Prod.fst) (bs.map Prod.fst)
    let psn := xs.any (fun e => e.2) || bs.any (fun e => e.2)
    let m2 := if f.y = 0 then m1 else m1.putVec c.id c.q.stn (0x10 + s) f.y 0 [(t.1, psn)] 0
    m2.linkDone s c f 1 t.2 psn f.rows [(t.1, psn)]

/-- One element of ADAMW (R165): m′, v′ and u in FP32, and the flags of every operation. -/
def adamStep (f : WskF) (g mm v w : Nat) : Nat × Nat × Nat × Flags :=
  let ar := Arith.f32
  let s := (Fmt.fp32.convert .ne false (Fmt.fp64.decode f.alpha)).1
  let p1 := ar.mul f.b1 mm
  let p2 := ar.mul f.c1 g
  let m' := ar.add p1.1 p2.1
  let q1 := ar.mul f.b2 v
  let gg := ar.mul g g
  let q2 := ar.mul f.c2 gg.1
  let v' := ar.add q1.1 q2.1
  let e1 := ar.mul v'.1 f.bc2
  let e2 := ar.sqrt e1.1
  let d := ar.add e2.1 f.eps
  let u1 := ar.mul m'.1 f.bc1
  let u2 := ar.div u1.1 d.1
  let u3 := ar.mul f.wd w
  let u4 := ar.add u2.1 u3.1
  let u := ar.mul u4.1 s
  let fl := [p1, p2, m', q1, gg, q2, v', e1, e2, d, u1, u2, u3, u4, u].foldl (fun a r => a.or r.2) .none
  (m'.1, v'.1, u.1, fl)

/-- ADAMW (R165). -/
def State.adamw (m : State) (s : Nat) : State :=
  m.runLink s 4 (fun _ _ f => f.vectors) fun m c f =>
    let n := c.q.stn
    let m1 := m.touchAll n 0 f.vectors
    let f32 (v : Num) : Nat := (Fmt.fp32.convert .ne false v).1
    let z : Num × Bool := (.fin false 0 0, false)
    let gs := m1.wskX c f
    let ms := m1.vec c.id f.aux1 .fp32 f.rows
    let vs := m1.vec c.id f.aux2 .fp32 f.rows
    let ws := m1.vec c.id f.aux3 .fp32 f.rows
    let rs := (List.range f.rows).map (fun i =>
      let g := gs.getD i z
      let mm := ms.getD i z
      let v := vs.getD i z
      let w := ws.getD i z
      let r := adamStep f (f32 g.1) (f32 mm.1) (f32 v.1) (f32 w.1)
      let o := f.out r.2.2.1
      ((r.1, g.2 || mm.2), (r.2.1, g.2 || v.2), (o.1, g.2 || mm.2 || v.2 || w.2), r.2.2.2.or o.2, r.2.2.1))
    let page := 0x10 + s
    let m2 := m1.putVec c.id n page f.aux1 1 (rs.map (fun r => r.1)) 0
    let m3 := m2.putVec c.id n page f.aux2 1 (rs.map (fun r => r.2.1)) 0
    let us := rs.map (fun r => r.2.2.1)
    let m4 := if f.y = 0 then m3 else m3.putVec c.id n page f.y f.ofmt us 0
    let fl := rs.foldl (fun a r => a.or r.2.2.2.1) .none
    let y64 := rs.map (fun r => ((Fmt.fp64.convert .ne false (Fmt.fp32.decode r.2.2.2.2)).1, r.2.2.1.2))
    m4.linkDone s c f 1 fl (rs.any (fun r => r.1.2 || r.2.1.2 || r.2.2.1.2)) f.rows y64

/-- The end of a chain with its code (R164, R168): STATUS of its last link, the counter or ENG_FAULT, and the unit free. -/
def State.chainFinish (m : State) (s : Nat) (c : Chain) : State :=
  let n := c.q.stn
  let m1 := if c.writes then m.putStatus n (c.cur + 0x88) c.status 0 else m
  let m2 := (m1.setWhisk s { m1.whisk s with run := none }).dropBuf c.id
  let m3 := if c.code = 1 then m2.bump (Reg.wsk_DONE_CNT s) 1 else m2.bump (Reg.wsk_FAULT_CNT s) 1
  m3.descEnd c.q c.code (0x10 + s) (0x20 + s)

def execChainStart (w : Stack) (s : State) : Host.Outcome State Fault Refusal := .next (s.chainStart w).landed
def execGemv (w : Stack) (glitch : Bool) (s : State) : Host.Outcome State Fault Refusal := .next (s.gemv w glitch).landed
def execBsrmv (w : Stack) (s : State) : Host.Outcome State Fault Refusal := .next (s.bsrmv w).landed
def execAxpby (w : Stack) (s : State) : Host.Outcome State Fault Refusal := .next (s.axpby w).landed
def execDot (w : Stack) (s : State) : Host.Outcome State Fault Refusal := .next (s.dot w).landed
def execAdamw (w : Stack) (s : State) : Host.Outcome State Fault Refusal := .next (s.adamw w).landed

def execDwk (n : Stn) (q : Quad) (s : State) : Host.Outcome State Fault Refusal :=
  .next (s.issueLocal n q 0x40 false (fun m w => m.issueDispatch n q 20 w (fun e => m.whiskRoom n e) State.whiskPush))

end Sys2Proof.Machine
end

