-- ==== Sys2Proof/Machine/Tongs.lean ====
section
/-! DEFINITION. The Tongs (R170 to R179): acceptance and binding, gathers, scatters, hash encodings and transposes, and the
table epochs (R175 to R178). -/

namespace Sys2Proof.Machine

/-- Fields of a Tongs descriptor (R171). -/
structure TngF where
  kind : Nat
  table : Nat
  bg : Bool
  idx64 : Bool
  efmt : Nat
  fxsh : Nat
  ecur : Bool
  epoch : Nat
  n : Nat
  tmo : Nat
  idx : Nat
  val : Nat
  levels : Nat
  log2t : Nat
  feat : Nat
  rr : Nat
  cc : Nat
  esz : Nat
  res : Nat
  spitch : Nat
  dpitch : Nat
  deriving DecidableEq, Repr

/-- The fields from the descriptor's 64 bytes. -/
def tngF (d : Nat) : TngF :=
  let dw (o : Nat) : Nat := bitsOf d (8 * o + 63) (8 * o)
  let x := dw 0x20
  { kind := bitsOf d 2 0, table := bitsOf d 6 3, bg := bitOf d 7, idx64 := bitOf d 8, efmt := bitsOf d 11 9,
    fxsh := bitsOf d 17 12, ecur := bitOf d 18, epoch := bitsOf d 63 32, n := bitsOf (dw 0x08) 39 0,
    tmo := bitsOf (dw 0x08) 55 40, idx := dw 0x10, val := dw 0x18, levels := bitsOf x 3 0 + 1, log2t := bitsOf x 8 4,
    feat := bitsOf x 12 9 + 1, rr := bitsOf x 23 0, cc := bitsOf x 47 24, esz := bitsOf x 49 48, res := dw 0x28,
    spitch := bitsOf (dw 0x28) 31 0, dpitch := bitsOf (dw 0x28) 63 32 }

/-- Bytes of a table element by EFMT. -/
def efBytes (e : Nat) : Nat :=
  match e with
  | 0 => 4
  | 2 => 4
  | 5 => 2
  | 6 => 2
  | _ => 8

/-! ## The table directory (R175 to R177) -/

def State.tblState (m : State) (n t : Nat) : Nat := m.fld (Reg.tng_STATE 0 n t)
def State.tblEpoch (m : State) (n t : Nat) : Nat := m.fld (Reg.tng_EPOCH 0 n t)
def State.tblRows (m : State) (n t : Nat) : Nat := m.fld (Reg.tng_NROWS 0 n t)
def State.tblRowb (m : State) (n t : Nat) : Nat := m.fld (Reg.tng_ROWB 0 n t)

/-- The current buffer is B. -/
def State.tblCur (m : State) (n t : Nat) : Bool := m.flag (Reg.tng_CUR 0 n t)

/-- Base address of buffer A (false) or B. -/
def State.tblBase (m : State) (n t : Nat) (b : Bool) : Nat := m.fld (if b then Reg.tng_BASE_B 0 n t else Reg.tng_BASE_A 0 n t)

/-- What acceptance makes of a descriptor (R176). -/
inductive Bind where
  | to (b : Bool)
  | fail (code : Nat)
  | park
  | waits
  deriving DecidableEq, Repr

/-- R176, in the order of its table. -/
def State.bindOf (m : State) (n : Nat) (f : TngF) : Bind :=
  let t := f.table
  let e := m.tblEpoch n t
  let cur := m.tblCur n t
  if f.ecur ∨ f.epoch = e then (if f.bg then .fail 2 else .to cur)
  else if f.epoch < e then .fail 6
  else if e + 1 < f.epoch then .fail 7
  else match m.tblState n t with
    | 3 => if f.bg ∨ f.kind = 1 ∨ f.kind = 3 then .fail 2 else .to (!cur)
    | 2 => if f.bg then .to (!cur) else .park
    | 1 => if f.bg then .waits else .park
    | _ => if f.bg then .fail 2 else .park

/-- BADDESC checks that need no operand (R171, R172, R174). -/
def State.tngBad (m : State) (n : Nat) (f : TngF) : Bool :=
  let rowb := m.tblRowb n f.table
  decide (4 < f.kind) || decide (f.efmt = 7) ||
  (if f.kind = 4 then decide (f.esz = 0 ∨ f.rr % (32 / 2 ^ f.esz) ≠ 0 ∨ f.cc % (32 / 2 ^ f.esz) ≠ 0)
    else !m.flag (Reg.tng_VALID 0 n f.table) ||
      (decide (f.kind = 2 ∨ f.kind = 3) &&
        (decide (f.log2t < 10 ∨ 24 < f.log2t ∨ m.tblRows n f.table < f.levels * 2 ^ f.log2t) ||
          (if f.kind = 2 then decide (f.efmt ≠ 5 ∧ f.efmt ≠ 6) || decide (rowb ≠ 2 * f.feat)
            else decide (f.efmt ≠ 0 ∧ f.efmt ≠ 1 ∧ f.efmt ≠ 4) || decide (rowb ≠ efBytes f.efmt * f.feat)))))

/-! ## The unit -/

def State.tong (m : State) (d : Nat) : Tongs := m.tongs.get (fun _ => .idle) d

/-- A Tongs' state with its registers (R181). -/
def State.setTong (m : State) (d : Nat) (t : Tongs) : State :=
  let m1 := { m with tongs := m.tongs.set (fun _ => .idle) d t }
  (m1.setFld (Reg.tng_STREAMS d) (t.run.length + t.parked.length)).setFld (Reg.tng_PARKED d) t.parked.length

def State.tongPush (m : State) (d : Nat) (x : QDesc) : State :=
  m.setTong d { m.tong d with queue := (m.tong d).queue ++ [x] }

/-- A Tongs holds at most 64 descriptors in flight (R170): it accepts another while fewer run or are parked. -/
def State.tongFree (m : State) (d : Nat) : Bool :=
  let t := m.tong d
  decide (t.run.length + t.parked.length < 64)

/-- A DTG waits while as many descriptors as a Tongs can hold are dispatched to it. -/
def State.tongRoom (m : State) (d : Nat) : Bool :=
  let t := m.tong d
  decide (t.queue.length + t.run.length + t.parked.length < 64)

/-- Some accepted descriptor of any Tongs satisfies p. -/
def State.anyRun (m : State) (p : TDesc → Bool) : Bool := (List.range 4).any (fun d => (m.tong d).run.any p)

/-- BUILDING_START and the end of a DONE, when what they wait for has ended (R177). -/
def State.tableStep (m : State) (n t : Nat) : State :=
  let mine (x : TDesc) : Bool := decide (x.q.stn = n ∧ x.slot = t ∧ x.kind ≠ 4)
  let m1 := if m.tblState n t = 1 ∧ !m.anyRun (fun x => mine x && decide (x.bound = some (!m.tblCur n t))) then
      m.setFld (Reg.tng_STATE 0 n t) 2
    else m
  match m1.tdones.find? (fun e => decide (e.1 = 16 * n + t)) with
  | none => m1
  | some e =>
    if m1.anyRun (fun x => mine x && x.bg && decide (x.seq < e.2)) then m1
    else
      let m2 := ({ m1 with tdones := m1.tdones.filter (fun x => decide (x.1 ≠ 16 * n + t)) }).setFld (Reg.tng_STATE 0 n t) 3
      let c := m2.fld (Reg.tng_ECTR 0 n t)
      let m3 := if c < m2.ctrNum n then m2.ctrOp (m2.ctrBase n + c) ((m2.tblEpoch n t + 1 : Nat) : Int) 0x34
        else m2.access 0x24 0x34 (some n) 2 (0xF00_0000_0000 + (Reg.tng_ECTR 0 n t).off)
      if (m3.launch n).isNone then m3.epochSwap n t else m3

/-- A table command that its state does not take (R177). -/
def State.tableDrop (m : State) (master n t : Nat) : State :=
  m.access 0x24 master (some n) 1 (0xF00_0000_0000 + (Reg.tng_BUILD 0 n t).off)

/-- BUILD, DONE, SWAP and ABANDON (R177). -/
def State.tableCmd (m : State) (master n t op : Nat) : State :=
  let st := m.tblState n t
  match op with
  | 0 => if st = 0 then (m.setFld (Reg.tng_STATE 0 n t) 1).tableStep n t else m.tableDrop master n t
  | 1 =>
    if st = 2 then ({ m with tdones := m.tdones ++ [(16 * n + t, m.nextId)] }).tableStep n t else m.tableDrop master n t
  | 2 =>
    let m1 := m.setFlag (Reg.tng_SWAP_PEND 0 n t) true
    if (m1.launch n).isNone then m1.epochSwap n t else m1
  | _ =>
    if st = 0 then m.tableDrop master n t
    else ({ m with tdones := m.tdones.filter (fun x => decide (x.1 ≠ 16 * n + t)) }).setFld (Reg.tng_STATE 0 n t) 0

/-! ## Acceptance -/

/-- Replace an accepted descriptor. -/
def Tongs.upd (t : Tongs) (x : TDesc) : Tongs := { t with run := t.run.map (fun y => if y.seq = x.seq then x else y) }

/-- Bind a descriptor that is off the queue: it runs, parks with a watch for ECTR, or ends (R176, R178). -/
def State.bindDesc (m : State) (d : Nat) (x : TDesc) : State :=
  let f := tngF x.d
  let n := x.q.stn
  let t := m.tong d
  let put (m : State) (y : TDesc) : State := m.setTong d { t with run := t.run ++ [y] }
  match m.bindOf n f with
  | .to b => put m { x with bound := some b }
  | .fail c => put m { x with code := c }
  | _ =>
    let c := m.fld (Reg.tng_ECTR 0 n f.table)
    match m.freeWatch n with
    | none => put m { x with code := 8 }
    | some w =>
      if m.ctrNum n ≤ c then put m { x with code := 8 }
      else (m.setTong d { t with parked := t.parked ++ [x] }).addWatch w ⟨n, m.ctrBase n + c, 0, f.epoch, .tongs d x.seq, f.tmo⟩

/-- The first dispatched descriptor of kind k that the Tongs accepts now. -/
def State.acceptNext (m : State) (d k : Nat) : State :=
  let t := m.tong d
  let free (q : QDesc) : Bool :=
    let f := tngF (m.word q.addr 64)
    !m.memHeld q.stn q.addr 64 && (decide (m.check (some q.stn) q.addr 64 false ≠ .ok) || m.tngBad q.stn f || decide (f.kind = 4 ∨ m.bindOf q.stn f ≠ .waits))
  match t.queue.find? free with
  | none => m
  | some q =>
    if !m.tongFree d then m else
    let ok := decide (m.check (some q.stn) q.addr 64 false = .ok)
    let dsc := if ok then m.word q.addr 64 else 0
    let f := tngF dsc
    let bad := !ok || m.tngBad q.stn f
    if !bad ∧ f.kind ≠ k then m
    else
      let m1 := { m with nextId := m.nextId + 1 }
      let m2 := (if ok then m1.touch q.stn q.addr 64 false 0 else m1).setTong d { t with queue := t.queue.erase q }
      let x : TDesc := ⟨q, f.kind, f.bg, f.table, f.epoch, none, 0, .none, false, 0, m.nextId, dsc⟩
      if bad then m2.setTong d { m2.tong d with run := (m2.tong d).run ++ [{ x with code := if ok then 2 else 3 }] }
      else if f.kind = 4 then m2.setTong d { m2.tong d with run := (m2.tong d).run ++ [x] }
      else m2.bindDesc d x

/-- The kind's row: the oldest accepted descriptor that has not run does, when it is of kind k; without one, the next
descriptor is accepted first. -/
def State.tongRun (m : State) (d k : Nat) (go : State → TDesc → TngF → State) : State :=
  if m.safe ∨ (0x24 + d) ∈ m.engResets then m
  else
    let open_ (m : State) : Option TDesc := (m.tong d).run.find? (fun x => decide (x.code = 0))
    let m1 := if (open_ m).isSome then m else m.acceptNext d k
    match open_ m1 with
    | some x => if x.kind = k then go m1 x (tngF x.d) else m1
    | none => m1

/-- Lookups issued, and the descriptor's outcome. -/
def State.tongEnd (m : State) (d : Nat) (x : TDesc) (code : Nat) (fl : Flags) (psn : Bool) (lookups : Nat) : State :=
  let m1 := m.bump (Reg.tng_LOOKUPS d) lookups
  let m2 := if x.bg then m1.bump (Reg.tng_BG_LOOKUPS d) lookups else m1
  m2.setTong d ((m2.tong d).upd { x with code := code, flags := fl, psn := psn, done := lookups })

/-- Run a descriptor with its fixed ranges: RANGE when one is not the station's, else once every range read has arrived and
no access holds, those to rows of the table among them. -/
def State.tongData (m : State) (d : Nat) (x : TDesc) (reads writes : List (Nat × Nat)) (held : Bool) (go : State → State) : State :=
  let rs := reads.filter (fun r => decide (r.2 ≠ 0))
  let ws := writes.filter (fun r => decide (r.2 ≠ 0))
  if !rs.all (fun r => m.gOk x.q.stn r.1 r.2 false) || !ws.all (fun r => m.gOk x.q.stn r.1 r.2 true) then
    m.tongEnd d x 3 .none false 0
  else if !m.ready x.seq rs then m.askAll x.seq x.q.stn (0x24 + d) rs
  else if m.anyHeld x.q.stn (rs ++ ws) || held then m
  else go (m.touchAll x.q.stn 0 rs)

/-! ## GATHER and SCATTER -/

/-- Index i and its poison. -/
def State.tngIdx (m : State) (x : TDesc) (f : TngF) (i : Nat) : Nat × Bool :=
  let w := if f.idx64 then 8 else 4
  let r := m.gbytes x.seq (f.idx + w * i) w
  (leNat r.1, r.2)

/-- Address of row r of the bound buffer. -/
def State.rowAt (m : State) (x : TDesc) (f : TngF) (r : Nat) : Nat :=
  m.tblBase x.q.stn f.table (x.bound.getD false) + r * m.tblRowb x.q.stn f.table

/-- Write bytes at a global address, with poison by range. -/
def State.putRaw (m : State) (i n page g : Nat) (bs : List Byte) (p : Nat → Nat → Bool) : State :=
  if gNode g = m.nodeId then m.store n (gLocal g) bs p 0 else m.gsend i n page g bs p

/-- Rows of the table that a gather or scatter meets. -/
def State.idxRows (m : State) (x : TDesc) (f : TngF) : List Nat :=
  (((List.range f.n).map (m.tngIdx x f)).map Prod.fst).filter (fun r => decide (r < m.tblRows x.q.stn f.table))

/-- Some row of the list is outside the station's own. -/
def State.rowsBad (m : State) (x : TDesc) (f : TngF) (rows : List Nat) (write : Bool) : Bool :=
  rows.any (fun r => !m.gOk x.q.stn (m.nodeId * 2 ^ 44 + m.rowAt x f r) (m.tblRowb x.q.stn f.table) write)

/-- Some access to a row of the list holds. -/
def State.rowsHeld (m : State) (x : TDesc) (f : TngF) (rows : List Nat) : Bool :=
  rows.any (fun r => m.memHeld x.q.stn (m.rowAt x f r) (m.tblRowb x.q.stn f.table))

/-- GATHER (R172). -/
def State.gather (m : State) (d : Nat) : State :=
  m.tongRun d 0 fun m x f =>
    let n := x.q.stn
    let rowb := m.tblRowb n f.table
    let nrows := m.tblRows n f.table
    let iw := if f.idx64 then 8 else 4
    m.tongData d x [(f.idx, iw * f.n)] [(f.val, rowb * f.n)] (m.rowsHeld x f (m.idxRows x f)) fun m =>
      let ids := (List.range f.n).map (m.tngIdx x f)
      if m.rowsBad x f (m.idxRows x f) false then m.tongEnd d x 3 .none false 0
      else
        let m1 := ids.foldl (fun m e => if e.1 < nrows then m.touch n (m.rowAt x f e.1) rowb false 0 else m) m
        let rows := ids.map (fun e =>
          if e.1 < nrows then (m1.seen (m1.rowAt x f e.1) rowb, e.2 || m1.psnIn (m1.rowAt x f e.1) rowb)
          else (List.replicate rowb (0 : Byte), true))
        let p (k l : Nat) : Bool := (((rows.map Prod.snd).drop (k / max 1 rowb)).take ((k + l - 1) / max 1 rowb + 1 - k / max 1 rowb)).any id
        let m2 := m1.putRaw x.seq n (0x24 + d) f.val (rows.flatMap Prod.fst) p
        let out := ids.any (fun e => decide (nrows ≤ e.1))
        m2.tongEnd d x (if out then 5 else 1) .none (rows.any Prod.snd) (f.n * ((rowb + 31) / 32))

/-- One addition of R173: the sum's bits, none where the spec gives no result (a NaN under FX64, and EFMT BF16 or FP16). -/
def scatterAdd (efmt fxsh old v : Nat) : Option (Nat × Flags) :=
  match efmt with
  | 0 => some (Arith.f32.add old v)
  | 1 => some (Arith.f64.add old v)
  | 2 => some (keepInt 32 true (signedOf old 32 + signedOf v 32))
  | 3 => some (keepInt 64 true (signedOf old 64 + signedOf v 64))
  | 4 =>
    let lim (neg : Bool) : Nat × Flags := (keepInt 64 true (if neg then -(2 ^ 64 : Int) else 2 ^ 64))
    match Fmt.fp64.decode v with
    | .nan => none
    | .inf s =>
      let a := lim s
      let r := keepInt 64 true (signedOf old 64 + signedOf a.1 64)
      some (r.1, r.2.or a.2)
    | .fin s mm e =>
      let a := keepInt 64 true (Num.toIntR .ne s mm (e + fxsh))
      let r := keepInt 64 true (signedOf old 64 + signedOf a.1 64)
      some (r.1, r.2.or a.2)
  | _ => none

/-- Add a row of contributions (bits and poison) into the table row at a local address. -/
def State.scatterRow (m : State) (n a efmt fxsh : Nat) (vs : List (Nat × Bool)) (ipsn : Bool) : State × Flags × Bool :=
  let w := efBytes efmt
  let len := w * vs.length
  let m0 := m.touch n a len false 0
  let r := vs.zipIdx.foldl (fun (acc : State × List Byte × List Bool × Flags) v =>
    let old := m.word (a + w * v.2) w
    let psn := v.1.2 || ipsn || m.psnIn (a + w * v.2) w
    match scatterAdd efmt fxsh old v.1.1 with
    | some s => (acc.1, acc.2.1 ++ leBytes s.1 w, acc.2.2.1 ++ [psn], acc.2.2.2.or s.2)
    | none =>
      let fw := acc.1.drawWord
      (fw.2, acc.2.1 ++ leBytes fw.1.toNat w, acc.2.2.1 ++ [psn], acc.2.2.2)) (m0, [], [], .none)
  let p (k l : Nat) : Bool := ((r.2.2.1.drop (k / w)).take ((k + l - 1) / w + 1 - k / w)).any id
  (r.1.store n a r.2.1 p 0, r.2.2.2, r.2.2.1.any id)

/-- SCATTER (R173). -/
def State.scatter (m : State) (d : Nat) : State :=
  m.tongRun d 1 fun m x f =>
    let n := x.q.stn
    let rowb := m.tblRowb n f.table
    let nrows := m.tblRows n f.table
    let w := efBytes f.efmt
    let k := rowb / w
    let iw := if f.idx64 then 8 else 4
    m.tongData d x [(f.idx, iw * f.n), (f.val, k * w * f.n)] [] (m.rowsHeld x f (m.idxRows x f)) fun m =>
      let ids := (List.range f.n).map (m.tngIdx x f)
      if m.rowsBad x f (m.idxRows x f) true then m.tongEnd d x 3 .none false 0
      else
        let r := ids.zipIdx.foldl (fun (acc : State × Flags × Bool) e =>
          if e.1.1 < nrows then
            let vs := (List.range k).map (fun j =>
              let b := acc.1.gbytes x.seq (f.val + w * (k * e.2 + j)) w
              (leNat b.1, b.2))
            let s := acc.1.scatterRow n (acc.1.rowAt x f e.1.1) f.efmt f.fxsh vs e.1.2
            (s.1, acc.2.1.or s.2.1, acc.2.2 || s.2.2)
          else acc) (m, .none, false)
        let out := ids.any (fun e => decide (nrows ≤ e.1))
        r.1.tongEnd d x (if out then 5 else 1) r.2.1 r.2.2 (f.n * ((rowb + 31) / 32))

/-! ## Hash encodings (R174) -/

/-- One coordinate clamped to [0, 1], as FP32 bits, and whether the clamp acted. free is the value a NaN clamps to, which
the spec does not give. -/
def clamp01 (p free : Nat) : Nat × Bool :=
  let one := 0x3F80_0000
  let v := Fmt.fp32.decode p
  match v with
  | .nan => (if Fmt.fp32.le 0 free && Fmt.fp32.le free one then free else 0, true)
  | _ =>
    if Num.lt v (.fin false 0 0) then (0, true)
    else if Num.lt (Fmt.fp32.decode one) v then (one, true)
    else (p, false)

/-- hash_index of R174. -/
def hashIndex (cx cy cz n log2t : Nat) : Nat :=
  let side := n + 1
  if side ^ 3 ≤ 2 ^ log2t then cx + side * (cy + side * cz)
  else
    let h := cx ^^^ ((cy * 0x9E37_79B1) % 2 ^ 32) ^^^ ((cz * 0x85EB_CA77) % 2 ^ 32)
    h % 2 ^ log2t

/-- Base and fraction of one coordinate at resolution n, with the flags of the roundings. -/
def cellOf (p n : Nat) : Nat × Nat × Flags :=
  let ar := Arith.f32
  let q := ar.mulNum (Fmt.fp32.decode p) (Num.ofInt n)
  let c : Nat := match Fmt.fp32.decode q.1 with
    | .fin s mm e => min (Num.toIntR .down s mm e).toNat (n - 1)
    | _ => 0
  let f := ar.addNum (Fmt.fp32.decode q.1) (Num.ofInt (-(c : Int)))
  (c, f.1, q.2.or f.2)

/-- One corner of a point: its weight, entry index, and the flags of the weight's roundings. -/
structure Corner where
  wt : Nat
  idx : Nat
  flags : Flags
  deriving DecidableEq, Repr

/-- The eight corners of a point (three FP32 coordinates) at resolution n. -/
def corners (pt : List Nat) (n log2t : Nat) : List Corner :=
  let ar := Arith.f32
  let cf := pt.map (fun p => cellOf p n)
  let g (i : Nat) : Nat × Nat × Flags := cf.getD i (0, 0, .none)
  let wt (i k : Nat) : Nat × Flags := if k.testBit i then ((g i).2.1, .none) else ar.sub 0x3F80_0000 (g i).2.1
  let at_ (i k : Nat) : Nat := (g i).1 + b2n (k.testBit i)
  (List.range 8).map (fun k =>
    let xy := ar.mul (wt 0 k).1 (wt 1 k).1
    let xyz := ar.mul xy.1 (wt 2 k).1
    let fl := (List.range 3).foldl (fun (a : Flags) i => (a.or (g i).2.2).or (wt i k).2) (xy.2.or xyz.2)
    ⟨xyz.1, hashIndex (at_ 0 k) (at_ 1 k) (at_ 2 k) n log2t, fl⟩)

/-- The points of a descriptor, clamped (R174): coordinates, poison, and the points clamped counted (R181). -/
def State.tngPoints (m : State) (d : Nat) (x : TDesc) (f : TngF) : State × List (List Nat × Bool) :=
  (List.range f.n).foldl (fun (acc : State × List (List Nat × Bool)) i =>
    let b := acc.1.gbytes x.seq (f.idx + 12 * i) 12
    let v := leNat b.1
    let r := (List.range 3).foldl (fun (s : State × List Nat × Bool) j =>
      let p := elemAt v 32 j
      let fw := s.1.drawWord
      let isNan := decide (Fmt.fp32.decode p = .nan)
      let c := clamp01 p (fw.1.toNat % 2 ^ 32)
      (if isNan then fw.2 else s.1, s.2.1 ++ [c.1], s.2.2 || c.2)) (acc.1, [], false)
    (if r.2.2 then r.1.bump (Reg.tng_CLAMP_CNT d) 1 else r.1, acc.2 ++ [(r.2.1, b.2)])) (m, [])

/-- Resolutions of the levels, with their poison. -/
def State.tngRes (m : State) (x : TDesc) (f : TngF) : List (Nat × Bool) :=
  (List.range f.levels).map (m.idxAt x.seq f.res)

/-- Rows of the hash levels that the points meet. -/
def State.hashRows (_m : State) (f : TngF) (pts : List (List Nat × Bool)) (res : List (Nat × Bool)) : List Nat :=
  pts.flatMap (fun p => res.zipIdx.flatMap (fun r => (corners p.1 r.1.1 f.log2t).map (fun c => r.2 * 2 ^ f.log2t + c.idx)))

/-- Rows that a hash descriptor meets. -/
def State.pointRows (m : State) (d : Nat) (x : TDesc) (f : TngF) : List Nat := m.hashRows f (m.tngPoints d x f).2 (m.tngRes x f)

/-- HASH_FWD (R174). -/
def State.hashFwd (m : State) (d : Nat) : State :=
  m.tongRun d 2 fun m x f =>
    let n := x.q.stn
    let lf := f.levels * f.feat
    m.tongData d x [(f.idx, 12 * f.n), (f.res, 4 * f.levels)] [(f.val, 4 * lf * f.n)] (m.rowsHeld x f (m.pointRows d x f)) fun m =>
      let res := m.tngRes x f
      if res.any (fun r => decide (r.1 = 0 ∨ 2 ^ 31 ≤ r.1)) then m.tongEnd d x 2 .none false 0
      else
        let pp := m.tngPoints d x f
        let m1 := pp.1
        let hit := m1.hashRows f pp.2 res
        if m1.rowsBad x f hit false then m1.tongEnd d x 3 .none false 0
        else
          let ef := if f.efmt = 5 then Fmt.bf16 else Fmt.fp16
          let rowb := m1.tblRowb n f.table
          let m2 := hit.foldl (fun m r => m.touch n (m.rowAt x f r) rowb false 0) m1
          let outs := pp.2.flatMap (fun p => res.zipIdx.flatMap (fun r =>
            let cs := corners p.1 r.1.1 f.log2t
            (List.range f.feat).map (fun j =>
              cs.foldl (fun (acc : Nat × Flags × Bool) c =>
                let a := m2.rowAt x f (r.2 * 2 ^ f.log2t + c.idx) + 2 * j
                let pr := Arith.f32.mulNum (Fmt.fp32.decode c.wt) (ef.decode (leNat (m2.seen a 2)))
                let s := Arith.f32.add acc.1 pr.1
                (s.1, ((acc.2.1.or c.flags).or pr.2).or s.2, acc.2.2 || m2.psnIn a 2)) (0, .none, p.2 || r.1.2))))
          let vs := outs.map (fun o => (o.1, o.2.2))
          let m3 := m2.putRaw x.seq n (0x24 + d) f.val (outBytes .fp32 vs) (outPsn .fp32 vs)
          m3.tongEnd d x 1 (outs.foldl (fun a o => a.or o.2.1) .none) (vs.any Prod.snd) (8 * f.levels * f.n)

/-- HASH_BWD (R174): contributions in increasing point, level, corner and feature. -/
def State.hashBwd (m : State) (d : Nat) : State :=
  m.tongRun d 3 fun m x f =>
    let n := x.q.stn
    let lf := f.levels * f.feat
    m.tongData d x [(f.idx, 12 * f.n), (f.res, 4 * f.levels), (f.val, 4 * lf * f.n)] [] (m.rowsHeld x f (m.pointRows d x f)) fun m =>
      let res := m.tngRes x f
      if res.any (fun r => decide (r.1 = 0 ∨ 2 ^ 31 ≤ r.1)) then m.tongEnd d x 2 .none false 0
      else
        let pp := m.tngPoints d x f
        let hit := pp.1.hashRows f pp.2 res
        if pp.1.rowsBad x f hit true then pp.1.tongEnd d x 3 .none false 0
        else
          let wide (v : Nat) : Nat := if f.efmt = 0 then v else (Fmt.fp64.convert .ne false (Fmt.fp32.decode v)).1
          let r := pp.2.zipIdx.foldl (fun (acc : State × Flags × Bool) p =>
            res.zipIdx.foldl (fun acc r =>
              let douts := (List.range f.feat).map (fun j => acc.1.gbytes x.seq (f.val + 4 * (lf * p.2 + f.feat * r.2 + j)) 4)
              (corners p.1.1 r.1.1 f.log2t).foldl (fun acc c =>
                let vs := douts.map (fun b =>
                  let pr := Arith.f32.mul c.wt (leNat b.1)
                  ((wide pr.1, b.2), pr.2.or c.flags))
                let s := acc.1.scatterRow n (acc.1.rowAt x f (r.2 * 2 ^ f.log2t + c.idx)) f.efmt f.fxsh (vs.map Prod.fst) (p.1.2 || r.1.2)
                (s.1, (vs.foldl (fun a v => a.or v.2) acc.2.1).or s.2.1, acc.2.2 || s.2.2)) acc) acc) (pp.1, .none, false)
          r.1.tongEnd d x 1 r.2.1 r.2.2 (8 * f.levels * f.n)

/-- TRANSPOSE (R172). -/
def State.transpose (m : State) (d : Nat) : State :=
  m.tongRun d 4 fun m x f =>
    let n := x.q.stn
    let e := 2 ^ f.esz
    let src := (List.range f.rr).map (fun i => (f.idx + i * f.spitch, e * f.cc))
    let dst := (List.range f.cc).map (fun j => (f.val + j * f.dpitch, e * f.rr))
    m.tongData d x src dst false fun m =>
      let rows := (List.range f.cc).map (fun j => (List.range f.rr).map (fun i => m.gbytes x.seq (f.idx + i * f.spitch + e * j) e))
      let m1 := rows.zipIdx.foldl (fun m r =>
        let p (k l : Nat) : Bool := (((r.1.map Prod.snd).drop (k / e)).take ((k + l - 1) / e + 1 - k / e)).any id
        m.putRaw x.seq n (0x24 + d) (f.val + r.2 * f.dpitch) (r.1.flatMap Prod.fst) p) m
      m1.tongEnd d x 1 .none (rows.any (fun r => r.any Prod.snd)) (f.rr * f.cc * e / 32)

/-! ## Parking and completion -/

/-- A parked descriptor is notified: it binds again under R176 (R178). -/
def State.tongNotified (m : State) (d seq : Nat) : State :=
  match (m.tong d).parked.find? (fun x => decide (x.seq = seq)) with
  | none => m
  | some x => if m.inReset x.q.stn then m else (m.setTong d { m.tong d with parked := (m.tong d).parked.erase x }).bindDesc d x

/-- PARK_TMO (R178): the descriptor fails with TIMEOUT and its watch is freed. -/
def State.parkTmo (m : State) (d i : Nat) : State :=
  match (m.tong d).parked[i]? with
  | none => m
  | some x =>
    if (tngF x.d).tmo = 0 then m
    else
      let t := m.tong d
      let m1 := m.dropWatches (fun w => decide (w.target = .tongs d x.seq))
      m1.setTong d { t with parked := t.parked.erase x, run := t.run ++ [{ x with code := 9 }] }

/-- A descriptor ends: STATUS where it can be written, the counter or ENG_FAULT, and what waited for its binding (R168). -/
def State.tongFinish (m : State) (d : Nat) (x : TDesc) : State :=
  let n := x.q.stn
  let m1 := if m.check (some n) x.q.addr 64 true = .ok then
      m.putStatus n (x.q.addr + 0x38) (statusWord x.code x.flags x.psn x.done) 0 else m
  let t := m1.tong d
  let m2 := (m1.setTong d { t with run := t.run.filter (fun y => decide (y.seq ≠ x.seq)) }).dropBuf x.seq
  let m3 := m2.descEnd x.q x.code (0x24 + d) (0x34 + d)
  if x.kind = 4 then m3 else m3.tableStep n x.slot

/-- TONGS_DONE (R168). -/
def State.tongsDone (m : State) (d i : Nat) : State :=
  match (m.tong d).run[i]? with
  | none => m
  | some x => if m.safe ∨ x.code = 0 ∨ !m.acked x.seq then m else m.tongFinish d x

def execGather (d : Die) (s : State) : Host.Outcome State Fault Refusal := .next (s.gather d).landed
def execScatter (d : Die) (s : State) : Host.Outcome State Fault Refusal := .next (s.scatter d).landed
def execHashFwd (d : Die) (s : State) : Host.Outcome State Fault Refusal := .next (s.hashFwd d).landed
def execHashBwd (d : Die) (s : State) : Host.Outcome State Fault Refusal := .next (s.hashBwd d).landed
def execTranspose (d : Die) (s : State) : Host.Outcome State Fault Refusal := .next (s.transpose d).landed
def execParkTmo (d : Die) (i : Nat) (s : State) : Host.Outcome State Fault Refusal := .next (s.parkTmo d i)
def execTongsDone (d : Die) (i : Nat) (s : State) : Host.Outcome State Fault Refusal := .next (s.tongsDone d i).landed

def execDtg (n : Stn) (q : Quad) (s : State) : Host.Outcome State Fault Refusal :=
  .next (s.issueLocal n q 0x41 false (fun m w => m.issueDispatch n q 4 w m.tongRoom State.tongPush))

end Sys2Proof.Machine
end

