-- ==== Sys2Proof/Machine/Mortar.lean ====
section
/-! DEFINITION. The Mortars (R182 to R198): acceptance, evaluations through Tumbler counters, the outer loop, conjugate
gradients through the Whisks, deadlines, results, warm records, kept factorisations and adjoints. -/

namespace Sys2Proof.Machine

/-- Fields of a Mortar descriptor (R185). -/
structure MtrF where
  kind : Nat
  alg : Nat
  method : Nat
  normal : Bool
  warm : Bool
  keep : Bool
  adj0 : Bool
  jz : Bool
  maxit : Nat
  pcgMax : Nat
  m : Nat
  n : Nat
  ncb : Nat
  bc : Nat
  bp : Nat
  npb : Nat
  br : Nat
  nrb : Nat
  ldj : Nat
  mask : Nat
  evReq : Nat
  evDone : Nat
  x0 : Nat
  xout : Nat
  xt : Nat
  j : Nat
  r : Nat
  eval : Nat
  rowptr : Nat
  colidx : Nat
  perm : Nat
  wrec : Nat
  res : Nat
  g : Nat
  z : Nat
  w : Nat
  scr : Nat
  deadline : Nat
  ftol : Nat
  xtol : Nat
  gtol : Nat
  lambda0 : Nat
  lambdaMax : Nat
  lmUp : Nat
  lmDown : Nat
  dmin : Nat
  pcgTol : Nat
  gen : Nat
  deriving DecidableEq, Repr

/-- The fields from the descriptor's 256 bytes. -/
def mtrF (d : Nat) : MtrF :=
  let dw (o : Nat) : Nat := bitsOf d (8 * o + 63) (8 * o)
  let a := dw 0x00
  let b := dw 0x10
  { kind := bitsOf a 1 0, alg := bitsOf a 3 2, method := bitsOf a 6 4, normal := bitOf a 7, warm := bitOf a 8,
    keep := bitOf a 9, adj0 := bitOf a 10, jz := bitOf a 11, maxit := bitsOf a 47 32, pcgMax := bitsOf a 63 48,
    m := bitsOf (dw 0x08) 31 0, n := bitsOf (dw 0x08) 63 32, ncb := bitsOf b 23 0, bc := bitsOf b 28 24, bp := bitsOf b 31 29,
    npb := bitsOf b 63 32, br := bitsOf (dw 0x18) 4 0, nrb := bitsOf (dw 0x18) 63 32, ldj := bitsOf (dw 0x20) 31 0,
    mask := bitsOf (dw 0x20) 51 32, evReq := bitsOf (dw 0x28) 11 0, evDone := bitsOf (dw 0x28) 23 12, x0 := dw 0x30,
    xout := dw 0x38, xt := dw 0x40, j := dw 0x48, r := dw 0x50, eval := dw 0x58, rowptr := dw 0x60, colidx := dw 0x68,
    perm := dw 0x70, wrec := dw 0x78, res := dw 0x80, g := dw 0x88, z := dw 0x90, w := dw 0x98, scr := dw 0xA0,
    deadline := dw 0xA8, ftol := dw 0xB0, xtol := dw 0xB8, gtol := dw 0xC0, lambda0 := dw 0xC8, lambdaMax := dw 0xD0,
    lmUp := dw 0xD8, lmDown := dw 0xE0, dmin := dw 0xE8, pcgTol := dw 0xF0, gen := bitsOf d (8 * 0xF8 + 31) (8 * 0xF8) }

def Solve.f (s : Solve) : MtrF := mtrF s.d

/-- SCHUR, SPARSE_CHOL or PCG: the block structure is read. -/
def MtrF.block (f : MtrF) : Bool := decide (2 ≤ f.method)

/-! ## The unit -/

def MPhase.code : MPhase → Nat
  | .idle => 0 | .clearing => 1 | .evalWait => 2 | .linear => 3 | .trial => 4 | .writing => 5 | .keep => 6

/-- A Mortar's state with its registers (R200). -/
def State.setMortar (m : State) (d : Nat) (t : Mortar) : State :=
  let m1 := { m with mortars := m.mortars.set (fun _ => .idle) d t }
  let m2 := (List.range 8).foldl (fun m n => m.setFld (Reg.mtr_QDEPTH d n) (min 4 (qdepth t.queue n))) m1
  match t.run with
  | none => ((m2.setFlag (Reg.mtr_BUSY d) false).setFld (Reg.mtr_PHASE d) 0).setFld (Reg.mtr_ITER d) 0
  | some s => (((m2.setFlag (Reg.mtr_BUSY d) true).setFld (Reg.mtr_STN d) s.q.stn).setFld (Reg.mtr_PHASE d) s.phase.code).setFld
      (Reg.mtr_ITER d) s.it

def State.setSolve (m : State) (d : Nat) (s : Solve) : State := m.setMortar d { m.mortar d with run := some s }

def State.mortarPush (m : State) (d : Nat) (x : QDesc) : State :=
  m.setMortar d { m.mortar d with queue := (m.mortar d).queue ++ [x] }

def State.mortarRoom (m : State) (n d : Nat) : Bool := decide (qdepth (m.mortar d).queue n < 4)

/-- The kept factorisation is lost (R196). -/
def State.dropKept (m : State) (d : Nat) : State :=
  (m.setMortar d { m.mortar d with kept := none }).setFlag (Reg.mtr_FVALID d) false

/-! ## The block structure -/

/-- Words of an INT32 array of a solve. -/
def State.ints (m : State) (i a n : Nat) : List Nat := (List.range n).map (fun k => (m.idxAt i a k).1)
def State.rowptr (m : State) (i : Nat) (f : MtrF) : List Nat := m.ints i f.rowptr (f.nrb + 1)
def State.nnzb (m : State) (i : Nat) (f : MtrF) : Nat := (m.idxAt i f.rowptr f.nrb).1 - (m.idxAt i f.rowptr 0).1

/-- Block columns of residual block k. -/
def State.blockCols (m : State) (i : Nat) (f : MtrF) (k : Nat) : List Nat :=
  let p := (m.idxAt i f.rowptr k).1
  (List.range ((m.idxAt i f.rowptr (k + 1)).1 - p)).map (fun e => (m.idxAt i f.colidx (p + e)).1)

/-- Size and first parameter of a block column. -/
def MtrF.width (f : MtrF) (c : Nat) : Nat := if c < f.ncb then f.bc else f.bp
def MtrF.first (f : MtrF) (c : Nat) : Nat := if c < f.ncb then c * f.bc else f.ncb * f.bc + (c - f.ncb) * f.bp

/-- Ranges of COLIDX that the structure and the signature read (R185, R194): they differ where ROWPTR does not begin at 0. -/
def State.colRanges (m : State) (i : Nat) (f : MtrF) : List (Nat × Nat) :=
  let p := (m.idxAt i f.rowptr 0).1
  if m.nnzb i f = 0 then []
  else (f.colidx + 4 * p, 4 * m.nnzb i f) :: (if p = 0 then [] else [(f.colidx, 4 * m.nnzb i f)])

/-- Words of J: its blocks in COLIDX order. -/
def State.jWords (m : State) (i : Nat) (f : MtrF) : Nat :=
  ((List.range f.nrb).map (fun k => ((m.blockCols i f k).map (fun c => f.br * f.width c)).sum)).sum

/-! ## Checks at acceptance (R186) -/

/-- An FP64 value is finite and not negative. -/
def tolOk (v : Nat) : Bool := Fmt.fp64.isFinite v && !Fmt.fp64.lt v 0

def fpOne : Nat := 0x3FF0_0000_0000_0000

/-- BADDESC of the descriptor's own fields. -/
def MtrF.bad (f : MtrF) : Bool :=
  decide (1 < f.kind ∨ f.alg = 3 ∨ 4 < f.method ∨ f.n = 0 ∨ f.deadline = 0) ||
  (f.normal && (decide (f.method ≠ 0) || f.jz)) ||
  (decide (f.kind = 0) &&
    (decide (f.alg ≠ 0 ∧ f.maxit = 0) || (decide (f.alg = 0) && f.warm) ||
      !([f.ftol, f.xtol, f.gtol, f.pcgTol].all tolOk) || !(Fmt.fp64.lt fpOne f.lmUp) ||
      !(Fmt.fp64.lt 0 f.lmDown && Fmt.fp64.lt f.lmDown fpOne) ||
      (f.block && decide (f.n ≠ f.ncb * f.bc + f.npb * f.bp)) ||
      decide (f.method = 2 ∧ (f.npb = 0 ∨ f.bp = 0)) || decide ((f.method = 3 ∨ f.method = 4) ∧ f.npb ≠ 0) ||
      decide (f.method = 4 ∧ (f.br ≠ f.bc ∨ (f.bc ≠ 8 ∧ f.bc ≠ 16) ∨ f.mask = 0))))

/-- BADDESC of the block structure. -/
def State.structBad (m : State) (i : Nat) (f : MtrF) : Bool :=
  let rp := m.rowptr i f
  let cols := (List.range f.nrb).map (m.blockCols i f)
  let elim := cols.map (fun c => c.filter (fun x => decide (f.ncb ≤ x)))
  !((rp.zip (rp.drop 1)).all (fun e => decide (e.1 ≤ e.2))) ||
  cols.any (fun c => c.any (fun x => decide (f.ncb + f.npb ≤ x))) ||
  (decide (f.method = 2) &&
    (elim.any (fun c => decide (1 < c.dedup.length)) ||
      !decide ((elim.filterMap List.head?).Pairwise (fun (a b : Nat) => a ≤ b))))

/-- Parts of the residual block rows under PCG (R197): Whisk, first row and rows. -/
def MtrF.parts (f : MtrF) : List (Nat × Nat × Nat) :=
  let ws := (List.range 20).filter (fun k => f.mask.testBit k)
  let k := ws.length
  let len (i : Nat) : Nat := f.nrb / k + (if i < f.nrb % k then 1 else 0)
  ws.zipIdx.map (fun e => (e.1, ((List.range e.2).map len).sum, len e.2))

/-- Bytes of the working set (R186); SPARSE_CHOL's is found at its first linear phase. -/
def MtrF.bytes (f : MtrF) : Nat :=
  let nc := f.ncb * f.bc
  match f.method with
  | 0 => 16 * f.n ^ 2 + 64 * f.n + 4096
  | 1 => 8 * f.n ^ 2 + 128 * (f.n + 1) + 64 * f.n + 4096
  | 2 => 16 * nc ^ 2 + 64 * f.n + 4096
  | 3 => 0
  | _ => 8 * f.ncb * f.bc ^ 2 + 64 * f.n + 4096

/-- CAPACITY at acceptance. -/
def MtrF.tooBig (f : MtrF) : Bool :=
  decide (16777216 < f.bytes) ||
  (decide (f.method = 4) && f.parts.any (fun p => decide (8 * 2 ^ 20 < 8 * (f.n + p.2.2 * f.br))))

/-- Ranges a solve reads, and those it writes, whatever its structure. -/
def MtrF.reads (f : MtrF) : List (Nat × Nat) :=
  if f.kind = 1 then [(f.g, 8 * f.n)]
  else
    [(f.x0, 8 * f.n)] ++ (if f.alg = 0 then [] else [(f.eval, 16)]) ++ [(f.r, 8 * (if f.normal then f.n else f.m))] ++
    (if f.wrec = 0 then [] else [(f.wrec, 64 + 8 * f.n)]) ++ (if f.block then [(f.rowptr, 4 * (f.nrb + 1))] else []) ++
    (if f.method = 3 then [(f.perm, 4 * f.ncb)] else [])
def MtrF.writes (f : MtrF) : List (Nat × Nat) :=
  if f.kind = 1 then [(f.z, 8 * f.n), (f.res, 64)]
  else
    [(f.xout, 8 * f.n), (f.res, 64)] ++ (if f.alg = 0 then [] else [(f.xt, 8 * f.n)]) ++
    (if f.wrec = 0 then [] else [(f.wrec, 64 + 8 * f.n)]) ++
    (if f.method = 4 then [(f.scr, 8 * f.n * (1 + f.parts.length))] else [])

/-- Ranges of J (or H). -/
def State.jRanges (m : State) (i : Nat) (f : MtrF) : List (Nat × Nat) :=
  if f.block then [(f.j, 8 * m.jWords i f)]
  else (List.range (if f.normal then f.n else f.m)).map (fun k => (f.j + k * f.ldj, 8 * f.n))

def nonempty (rs : List (Nat × Nat)) : List (Nat × Nat) := rs.filter (fun r => decide (r.2 ≠ 0))

/-- Every range of rs passes R24 and R31. -/
def State.allOk (m : State) (n : Nat) (rs : List (Nat × Nat)) (write : Bool) : Bool :=
  (nonempty rs).all (fun r => m.gOk n r.1 r.2 write)

/-- The descriptor's own ranges pass. -/
def State.fixedOk (m : State) (n : Nat) (f : MtrF) : Bool := m.allOk n f.reads false && m.allOk n f.writes true

/-- Ranges a solve reads before it can be checked whole. -/
def State.structRanges (m : State) (i : Nat) (f : MtrF) : List (Nat × Nat) :=
  if f.block ∧ f.kind = 0 then nonempty ((f.rowptr, 4 * (f.nrb + 1)) :: m.colRanges i f) else []

/-- The checks at acceptance: 0, or the fault code. -/
def State.mtrCheck (m : State) (n i : Nat) (f : MtrF) : Nat :=
  if f.bad then 7
  else if m.ctrNum n ≤ max f.evReq f.evDone ∧ f.kind = 0 ∧ f.alg ≠ 0 then 7
  else if !m.fixedOk n f then 8
  else if f.kind = 1 then 0
  else if f.block ∧ !m.allOk n (m.colRanges i f) false then 8
  else if f.block ∧ m.structBad i f then 7
  else if !m.allOk n (m.jRanges i f) false then 8
  else if f.tooBig then 9
  else 0

/-! ## Data of an evaluation -/

/-- n FP64 words at a global address with their poison. -/
def State.words (m : State) (i a n : Nat) : List (Nat × Bool) :=
  (List.range n).map (fun k => let b := m.gbytes i (a + 8 * k) 8; (leNat b.1, b.2))

/-- Words of J and r (or of H and g) as they stand, and whether one is poisoned. -/
def State.readEval (m : State) (i : Nat) (f : MtrF) : List Nat × Bool :=
  let js := if f.block then m.words i f.j (m.jWords i f)
    else (List.range (if f.normal then f.n else f.m)).flatMap (fun k => m.words i (f.j + k * f.ldj) f.n)
  let all := js ++ m.words i f.r (if f.normal then f.n else f.m)
  (all.map Prod.fst, all.any Prod.snd)

/-- Parameters in order: block column, and index in it. -/
def MtrF.params (f : MtrF) : List (Nat × Nat) :=
  (List.range (f.ncb + f.npb)).flatMap (fun c => (List.range (f.width c)).map (fun k => (c, k)))

/-- Residual blocks of a block Jacobian, from the words of an evaluation. -/
def State.blockRows (m : State) (i : Nat) (f : MtrF) (ev : List Nat) : List BlockRow :=
  ((List.range f.nrb).foldl (fun (acc : List BlockRow × List Nat) k =>
    let r := (m.blockCols i f k).foldl (fun (b : BlockRow × List Nat) c =>
      let w := f.width c
      (b.1 ++ [(c, (List.range f.br).map (fun e => (b.2.drop (e * w)).take w))], b.2.drop (f.br * w))) ([], acc.2)
    (acc.1 ++ [r.1], r.2)) ([], ev)).1

/-- Rows of a dense J. -/
def MtrF.denseRows (f : MtrF) (ev : List Nat) : List (List Nat) := (List.range f.m).map (fun k => (ev.drop (k * f.n)).take f.n)

/-- The residual, at the end of an evaluation's words. -/
def MtrF.resid (f : MtrF) (ev : List Nat) : List Nat := ev.drop (ev.length - f.m)

/-- J·z, each row a sum in increasing parameter index. -/
def State.jTimes (m : State) (i : Nat) (f : MtrF) (ev z : List Nat) : List Nat :=
  if f.block then
    (m.blockRows i f ev).flatMap (fun b => (List.range f.br).map (fun e =>
      (fdots (0, false) ((List.range (f.ncb + f.npb)).flatMap (fun c =>
        (b.filter (fun x => decide (x.1 = c))).map (fun x => (x.2.getD e [], z.drop (f.first c)))))).1))
  else (f.denseRows ev).map (fun r => (fdot 0 r z).1)

/-- H, g and whether a sum was invalid, from the words of an evaluation. -/
def State.formOf (m : State) (i : Nat) (f : MtrF) (ev : List Nat) : List (List Nat) × List Nat × Bool :=
  if f.normal then ((List.range f.n).map (fun k => (ev.drop (k * f.n)).take f.n), ev.drop (f.n * f.n), false)
  else if f.block then
    let bs := m.blockRows i f ev
    let h := gramB f.params bs
    let g := gradB f.params bs (f.resid ev) f.br
    (h.1, g.1, h.2 || g.2)
  else
    let h := gram f.n (f.denseRows ev)
    let g := gradOf f.n (f.denseRows ev) (f.resid ev)
    (h.1, g.1, h.2 || g.2)

/-- Fused multiply-adds of forming H and g: each pair of a symmetric H once. DENSE_QR forms the diagonal of H alone. -/
def State.fmaForm (m : State) (i : Nat) (f : MtrF) : Nat :=
  if f.normal then 0
  else if f.block then
    ((List.range f.nrb).map (fun k =>
      let w := ((m.blockCols i f k).map f.width).sum
      f.br * (w * (w + 1) / 2 + w))).sum
  else if f.method = 1 then 2 * f.m * f.n
  else f.m * (f.n * (f.n + 1) / 2 + f.n)

/-- The structure signature (R194). -/
def State.signature (m : State) (i : Nat) (f : MtrF) : Nat :=
  let w := [f.method, b2n f.normal, f.m, f.n, f.ncb, f.bc, f.bp, f.npb, f.br, f.nrb].flatMap (fun v => leBytes v 4)
  let s := if f.block then
      (m.gbytes i f.rowptr (4 * (f.nrb + 1))).1 ++ (m.gbytes i f.colidx (4 * m.nnzb i f)).1 else []
  let p := if f.method = 3 then (m.gbytes i f.perm (4 * f.ncb)).1 else []
  crc64 (w ++ s ++ p)

/-! ## The linear phase (R188) -/

/-- Parameter order of SPARSE_CHOL: the blocks in the order PERM. -/
def State.permOrder (m : State) (i : Nat) (f : MtrF) : List Nat :=
  (m.ints i f.perm f.ncb).flatMap (fun b => (List.range f.bc).map (fun k => b * f.bc + k))

/-- Blocks of the factor after fill, in elimination order: the symbolic pass of SPARSE_CHOL. -/
def State.sparseFill (m : State) (i : Nat) (f : MtrF) : List (Nat × Nat) :=
  let perm := m.ints i f.perm f.ncb
  let pos (c : Nat) : Nat := perm.idxOf c
  let pat := ((List.range f.nrb).flatMap (fun k =>
    let cs := (m.blockCols i f k).map pos
    cs.flatMap (fun a => (cs.filter (fun b => decide (b ≤ a))).map (fun b => (a, b))))).dedup
  fillOf f.ncb (pat ++ (List.range f.ncb).map (fun k => (k, k))).dedup

/-- SPARSE_CHOL's working set after its symbolic pass exceeds local memory. -/
def State.sparseTooBig (m : State) (i : Nat) (f : MtrF) : Bool :=
  decide (16777216 < 16 * f.bc ^ 2 * (m.sparseFill i f).length + 64 * f.n + 4096)

/-- Elements of the factor's lower triangle that are in a pattern of blocks. -/
def patternOf (bc : Nat) (fill : List (Nat × Nat)) (r c : Nat) : Bool := decide ((r / max 1 bc, c / max 1 bc) ∈ fill)

/-- Factors of the diagonal blocks of A (PCG). -/
def jacobiFac (bc n : Nat) (a : List (List Nat)) : Option (List (List (List Nat))) × Bool :=
  (List.range (n / max 1 bc)).foldl (fun (acc : Option (List (List (List Nat))) × Bool) k =>
    match acc.1 with
    | none => acc
    | some l =>
      let c := cholRun dense (partOf a (k * bc) bc (k * bc) bc)
      (c.factor.map (fun x => l ++ [x]), acc.2 || c.nonfinite)) (some [], false)

/-- The preconditioner applied to a vector. -/
def jacobi (bc : Nat) (fac : Factor) (v : List Nat) : List Nat :=
  fac.inv.zipIdx.flatMap (fun e => cholSolve e.1 ((v.drop (e.2 * bc)).take bc))

/-- The factor of A = H + λ·D by the solve's method (R188), none on a breakdown; with it, whether a pivot was not finite,
and the right side that DENSE_QR carries along. -/
def State.factorise (m : State) (i : Nat) (f : MtrF) (ev : List Nat) (lam : Nat) : Option Factor × Bool × List Nat :=
  let hg := m.formOf i f ev
  let dd := diagOf hg.1 f.dmin
  let a := damped hg.1 dd lam
  match f.method with
  | 1 =>
    let q := qrOf f.n (qrRows f.n (f.denseRows ev) (f.resid ev) dd lam)
    (some ⟨[], [], lowerOf q.1, [], []⟩, false, q.2)
  | 2 =>
    let r := schurOf (f.ncb * f.bc) f.bp f.npb a
    (r.1, r.2, [])
  | 3 =>
    let o := m.permOrder i f
    let fill := m.sparseFill i f
    let c := cholRun (patternOf f.bc fill) (permMat a o)
    (c.factor.map (fun l => ⟨o, fill, l, [], []⟩), c.nonfinite, [])
  | 4 =>
    let r := jacobiFac f.bc f.n a
    (r.1.map (fun l => ⟨[], [], [], l, []⟩), r.2, [])
  | _ =>
    let c := cholRun dense a
    (c.factor.map (fun l => ⟨[], [], l, [], []⟩), c.nonfinite, [])

/-- A·x = b by a factor: two triangular solves (R196). -/
def MtrF.facSolve (f : MtrF) (fac : Factor) (b : List Nat) : List Nat :=
  match f.method with
  | 2 => schurSolve (f.ncb * f.bc) f.bp fac b
  | 3 => unpermVec f.n (cholSolveP (patternOf f.bc fac.pat) fac.l (permVec b fac.ord)) fac.ord
  | _ => cholSolve fac.l b

/-- The step of a linear phase, none on a breakdown; with it, whether a pivot was not finite. -/
def State.linSolve (m : State) (i : Nat) (f : MtrF) (ev : List Nat) (lam : Nat) (b : List Nat) : Option (List Nat) × Bool :=
  let r := m.factorise i f ev lam
  (r.1.map (fun fac => if f.method = 1 then backwardL dense fac.l r.2.2 else f.facSolve fac b), r.2.1)

/-- Fused multiply-adds of a factorisation and of a solution by it; DENSE_QR's as R199 counts them. -/
def State.fmaFactor (m : State) (i : Nat) (f : MtrF) : Nat :=
  match f.method with
  | 1 => f.m * f.n ^ 2 - f.n ^ 3 / 3
  | 2 => f.n + fmaSchur (f.ncb * f.bc) f.bp f.npb
  | 3 =>
    let fill := m.sparseFill i f
    f.n + ((List.range f.ncb).map (fun k =>
      let c := (fill.filter (fun e => decide (e.2 = k ∧ k < e.1))).length
      fmaChol f.bc + c * f.bc * (f.bc * (f.bc - 1) / 2) + c * (f.bc ^ 2 * (f.bc + 1) / 2) + c * (c - 1) / 2 * f.bc ^ 3)).sum
  | 4 => f.n + f.ncb * fmaChol f.bc
  | _ => f.n + fmaChol f.n
def MtrF.fmaSolve (f : MtrF) (blocks : Nat) : Nat :=
  match f.method with
  | 1 => f.n * (f.n - 1) / 2
  | 2 => fmaSchurSolve (f.ncb * f.bc) f.bp f.npb
  | 3 => f.ncb * fmaPair f.bc + (blocks - f.ncb) * 2 * f.bc ^ 2
  | _ => fmaPair f.n

/-- FMA counts fused multiply-adds performed (R200). -/
def State.countFma (m : State) (d k : Nat) : State := m.bump (Reg.mtr_FMA d) k

/-! ## Conjugate gradients (R188, R197) -/

/-- The two descriptors of a part's chain, in the Mortar's own local memory: BSRMV of its rows with YBUF, then BSRMV with
TRANS and XBUF into SCR + 8·N·(i + 1). -/
def MtrF.chain (f : MtrF) (base part first rows : Nat) : List Byte × List Byte :=
  let w0 (k : Nat) : List Byte := leBytes k 8
  let dsc (flags x y next : Nat) : List Byte :=
    w0 flags ++ w0 (rows * f.br + f.n <<< 32) ++ w0 f.j ++ w0 (if f.bc = 16 then 2 ^ 32 else 0) ++ w0 x ++ w0 y ++ w0 fpOne ++ w0 0 ++
    w0 (f.rowptr + 4 * first) ++ w0 f.colidx ++ List.replicate 48 0 ++ w0 next ++ List.replicate 24 0
  (dsc (1 + 1 <<< 17 + 1 <<< 19) f.scr 0 (base + 160), dsc (1 + 1 <<< 3 + 1 <<< 16) 0 (f.scr + 8 * f.n * (part + 1)) 0)

/-- The fields a linear phase works by: an adjoint's are those of the kept solve. -/
def State.linF (m : State) (d : Nat) (s : Solve) : MtrF :=
  if s.f.kind = 1 then (match (m.mortar d).kept with
    | some k => mtrF k.d
    | none => s.f) else s.f

/-- The solve stops with a code and waits for its result to be written. -/
def State.solveStop (m : State) (d : Nat) (s : Solve) (code : Nat) : State :=
  m.setSolve d { s with phase := .writing, code := code, cg := none }

/-- Ranges of the chains' results. -/
def MtrF.zRanges (f : MtrF) : List (Nat × Nat) :=
  (List.range f.parts.length).map (fun i => (f.scr + 8 * f.n * (i + 1), 8 * f.n))

/-- The chains that wait go to their Whisks once p has been written and while their queues have room (R167, R197). -/
def State.cgPush (m : State) (d : Nat) (s : Solve) (c : Cg) : State :=
  if !m.acked s.id then m.setSolve d { s with cg := some c }
  else
    let f := m.linF d s
    let n := s.q.stn
    let r := c.todo.foldl (fun (acc : State × List Nat) i =>
      let p := f.parts.getD i (0, 0, 0)
      if acc.1.whiskRoom n p.1 then
        let a := mtrAddr d (0x1000 * i)
        let ds := f.chain a i p.2.1 p.2.2
        ((acc.1.putBytes a (ds.1 ++ ds.2)).whiskPush p.1 ⟨n, a, 0, false, some d, some s.id⟩, acc.2)
      else (acc.1, acc.2 ++ [i])) (m, [])
    r.1.setSolve d { s with cg := some { c with todo := r.2 } }

/-- Start A·p: p goes to SCR, then each part's chain to its Whisk. -/
def State.cgDispatch (m : State) (d : Nat) (s : Solve) (c : Cg) : State :=
  let f := m.linF d s
  let m1 := m.putRaw s.id s.q.stn (0x28 + d) f.scr (outBytes .fp64 (c.p.map (fun v => (v, false)))) (fun _ _ => false)
  (m1.forget s.id f.zRanges).cgPush d { s with phase := .linear } { c with todo := List.range f.parts.length, left := f.parts.length }

/-- Begin conjugate gradients on A·x = b with a preconditioner and D. -/
def State.cgStart (m : State) (d : Nat) (s : Solve) (b : List Nat) (fac? : Option Factor) (diag : List Nat) : State :=
  let f := m.linF d s
  let none_ : Factor := ⟨[], [], [], [], []⟩
  let stopped (met broke : Bool) : Cg := ⟨b, fac?.getD none_, diag, b, [], List.replicate f.n 0, 0, 0, [], 0, true, met, broke⟩
  match fac? with
  | none => m.setSolve d { s with phase := .linear, cg := some (stopped false true) }
  | some fac =>
    let z := jacobi f.bc fac b
    if Fmt.fp64.le (norm2 b) (fmul f.pcgTol (norm2 b)) then m.setSolve d { s with phase := .linear, cg := some (stopped true false) }
    else if f.pcgMax = 0 then m.setSolve d { s with phase := .linear, cg := some (stopped false false) }
    else m.cgDispatch d s ⟨b, fac, diag, b, z, List.replicate f.n 0, (fdot 0 b z).1, 0, [], 0, false, false, false⟩

/-- Begin conjugate gradients of a solve: the preconditioner is formed from the diagonal blocks of A. -/
def State.cgBegin (m : State) (d : Nat) (s : Solve) (b : List Nat) : State :=
  let f := s.f
  let r := m.factorise s.id f s.ev s.lam
  let m1 := (m.countFma d (m.fmaFactor s.id f)).countFma d (f.ncb * fmaPair f.bc + 2 * f.n)
  m1.cgStart d { s with nv := s.nv || r.2.1 } b r.1 (diagOf (m.formOf s.id f s.ev).1 f.dmin)

/-- Every chain of an iteration has ended: A·p is their sum in increasing part, plus λ·D·p; one CG step follows. -/
def State.cgStep (m0 : State) (d : Nat) (s : Solve) (c : Cg) : State :=
  let f := m0.linF d s
  let m := (m0.touchAll s.q.stn 0 f.zRanges).countFma d (7 * f.n + f.ncb * fmaPair f.bc)
  let ws := (List.range f.parts.length).map (fun i => m.words s.id (f.scr + 8 * f.n * (i + 1)) f.n)
  let zs := ws.map (fun w => w.map Prod.fst)
  let ap := (List.range f.n).map (fun k =>
    let sum := zs.foldl (fun acc z => fadd acc (z.getD k 0)) 0
    (Arith.f64.fma (fmul s.lam (c.diag.getD k 0)) (c.p.getD k 0) sum).1)
  let alpha := fdiv c.rz (fdot 0 c.p ap).1
  let axpy (k : Nat) (x y : List Nat) : List Nat := (x.zip y).map (fun e => (Arith.f64.fma k e.1 e.2).1)
  let sol := axpy alpha c.p c.sol
  let r := axpy (fneg alpha) ap c.r
  let k := c.k + 1
  let met := Fmt.fp64.le (norm2 r) (fmul f.pcgTol (norm2 c.b))
  let s1 := { s with cgit := s.cgit + 1 }
  if ws.any (fun w => w.any Prod.snd) then m.solveStop d s1 11
  else if met ∨ f.pcgMax ≤ k then
    m.setSolve d { s1 with cg := some { c with r := r, sol := sol, k := k, left := 0, ended := true, met := met } }
  else
    let z := jacobi f.bc c.fac r
    let rz := (fdot 0 r z).1
    m.cgDispatch d s1 { c with r := r, p := axpy (fdiv rz c.rz) c.p z, sol := sol, rz := rz, k := k }

/-- Conjugate gradients in progress go on as far as they can: chains that wait, then the results of the last. -/
def State.cgPoll (m : State) (d : Nat) (s : Solve) (c : Cg) : State :=
  let f := m.linF d s
  if c.ended then m
  else if !c.todo.isEmpty then m.cgPush d s c
  else if c.left ≠ 0 then m
  else if !m.ready s.id f.zRanges then m.askAll s.id s.q.stn (0x28 + d) f.zRanges
  else if m.anyHeld s.q.stn f.zRanges then m
  else m.cgStep d s c

/-! ## Phases -/

/-- Ranges of an evaluation's results. -/
def State.evalRanges (m : State) (i : Nat) (f : MtrF) : List (Nat × Nat) :=
  nonempty ([(f.eval, 16), (f.r, 8 * (if f.normal then f.n else f.m))] ++ m.jRanges i f)

/-- The deadline has come. -/
def State.late (m : State) (s : Solve) : Bool := decide (s.f.deadline ≤ m.now)

/-- Right side of a linear phase: −g, or G of an adjoint. -/
def State.rhs (m : State) (s : Solve) : List Nat :=
  let f := s.f
  if f.kind = 1 then (m.words s.id f.g f.n).map Prod.fst else (m.formOf s.id f s.ev).2.1.map fneg

/-- The linear phase begins for iteration it with the evaluation in ev: convergence of the gradient is tested first, then
the deadline. -/
def State.enterLinear (m : State) (d : Nat) (s : Solve) : State :=
  let f := s.f
  let s0 := { s with phase := MPhase.linear, cg := none }
  let g := (m.formOf s.id f s.ev).2.1
  let m0 := (m.setMortar d { m.mortar d with used := true }).countFma d (m.fmaForm s.id f)
  if f.alg ≠ 0 ∧ Fmt.fp64.le (normInf g) f.gtol then m0.solveStop d s0 1
  else if m.late s then m0.solveStop d s0 3
  else if f.method = 3 ∧ m.sparseTooBig s.id f then m0.solveStop d s0 9
  else if f.method = 4 then m0.cgBegin d s0 (g.map fneg)
  else m0.setSolve d s0

/-- Request an evaluation at the trial point, once what was written to XT is acknowledged (R189). -/
def State.evalReq (m : State) (d : Nat) (s : Solve) : State :=
  let f := s.f
  let n := s.q.stn
  if !m.acked s.id then m.setSolve d { s with phase := .trial }
  else
    let req := m.ctrBase n + f.evReq
    let m1 := m.ctrOp req ((m.ctrValue req : Int) + 1) (0x38 + d)
    let s1 := { s with phase := MPhase.evalWait, evals := s.evals + 1, evalAt := s.trial }
    match m1.freeWatch n with
    | none => if s.reeval then m1.setSolve d { s1 with phase := .writing, reeval := false } else m1.solveStop d s1 12
    | some w => (m1.setSolve d s1).addWatch w ⟨n, m1.ctrBase n + f.evDone, 0, s1.base + s1.evals, .mortar d, 0⟩

/-- Write the trial point to XT and ask for its evaluation. -/
def State.evaluate (m : State) (d : Nat) (s : Solve) (x : List Nat) : State :=
  let m1 := m.putRaw s.id s.q.stn (0x28 + d) s.f.xt (outBytes .fp64 (x.map (fun v => (v, false)))) (fun _ _ => false)
  (m1.forget s.id (m.evalRanges s.id s.f)).evalReq d { s with trial := x }

/-- The trial step ends: the deadline is compared, then the evaluation is requested (R192). -/
def State.trialEnd (m : State) (d : Nat) (s : Solve) (x : List Nat) : State :=
  if m.late s then m.solveStop d { s with trial := x } 3 else m.evaluate d s x

/-- Start a solve whose checks have passed: the start point and λ (R194), then LINEAR's only phase or the first evaluation. -/
def State.solveBegin (m : State) (d : Nat) (s : Solve) : State :=
  let f := s.f
  let i := s.id
  let wr := m.words i f.wrec 8
  let wx := m.words i (f.wrec + 64) f.n
  let w (k : Nat) : Nat := (wr.getD k (0, true)).1
  let hit := f.warm && decide (f.wrec ≠ 0) && !(wr ++ wx).any Prod.snd && bitOf (w 0) 0 && decide (w 1 = s.sig)
  let x0 := m.words i f.x0 f.n
  let x := if hit then wx.map Prod.fst else x0.map Prod.fst
  let lam := if f.alg = 1 then 0 else if hit then w 3 else f.lambda0
  let base := m.ctrValue (m.ctrBase s.q.stn + f.evDone)
  let s1 := { s with x := x, lam := lam, warmRej := f.warm && !hit, base := base }
  if !hit ∧ x0.any Prod.snd then m.solveStop d s1 11
  else if m.late s then m.solveStop d s1 3
  else if f.alg = 0 then
    let ev := m.readEval i f
    if ev.2 then m.solveStop d s1 11 else m.enterLinear d { s1 with ev := ev.1 }
  else m.evaluate d s1 x

/-- Ranges that must have arrived before a solve begins. -/
def State.startRanges (m : State) (i : Nat) (f : MtrF) : List (Nat × Nat) :=
  nonempty ([(f.x0, 8 * f.n)] ++ (if f.warm ∧ f.wrec ≠ 0 then [(f.wrec, 64 + 8 * f.n)] else []) ++ m.structRanges i f ++
    (if f.method = 3 then [(f.perm, 4 * f.ncb)] else []) ++
    (if f.alg = 0 then m.jRanges i f ++ [(f.r, 8 * (if f.normal then f.n else f.m))] else []))

/-! ## Acceptance -/

def Solve.new (q : QDesc) (id d : Nat) : Solve :=
  { q := q, id := id, d := d, phase := .idle, x := [], lam := 0, best := none, trial := [], dx := [], half := 0, pred := 0,
    it := 0, evals := 0, base := 0, reeval := false, ev := [], evalAt := [], sig := 0, warmRej := false, nv := false,
    dxnorm := 0, cgit := 0, cg := none, z := [], w := [], code := 0, wcode := 0, adjWhy := 0, written := false }

/-- A solve accepted begins as soon as what it reads first is at hand: the checks, then the start (R186, R194). -/
def State.solveTry (m : State) (d : Nat) (s : Solve) : State :=
  let n := s.q.stn
  let rs := m.startRanges s.id s.f
  if s.f.bad then m.solveStop d s 7
  else if !m.fixedOk n s.f then m.solveStop d s 8
  else if !m.ready s.id rs then m.askAll s.id n (0x28 + d) rs
  else if m.anyHeld n rs then m
  else
    let code := m.mtrCheck n s.id s.f
    if code ≠ 0 then m.solveStop d s code
    else
      let m1 := m.touchAll n 0 rs
      m1.solveBegin d { s with sig := m1.signature s.id s.f }

/-- SOLVE (R183, R184, R186): the next descriptor, when it is a solve. One that waits for data is taken again. -/
def State.solve (m : State) (d : Nat) : State :=
  let t := m.mortar d
  if m.safe ∨ (0x28 + d) ∈ m.engResets then m
  else match t.run with
    | some s => if s.phase = .idle ∧ s.f.kind = 0 then m.solveTry d s else m
    | none => match nextStn t.queue t.last with
      | none => m
      | some q =>
        let ok := decide (m.check (some q.stn) q.addr 256 false = .ok)
        let dsc := if ok then m.word q.addr 256 else 0
        if (ok ∧ (mtrF dsc).kind = 1) ∨ m.memHeld q.stn q.addr 256 then m
        else
          let id := m.nextId
          let m1 := { m with nextId := id + 1 }
          let m2 := if ok then m1.touch q.stn q.addr 256 false 0 else m1
          let s := Solve.new q id dsc
          let m3 := (m2.setMortar d { t with queue := t.queue.erase q, last := q.stn, run := some s }).dropKept d
          if !ok then m3.solveStop d s 8
          else if !(m.mortar d).owned ∨ q.stn ≠ m.fld (Reg.mtr_FSTN d) then m3.setSolve d { s with phase := .clearing }
          else m3.solveTry d s

/-- LOCAL_MEMORY_CLEAR (R183): the clear ends, the memory's owner is the new station, and the solve goes on. -/
def State.localClear (m : State) (d : Nat) : State :=
  match (m.mortar d).run with
  | none => m
  | some s =>
    if m.safe ∨ s.phase ≠ .clearing then m
    else
      let m1 := { m with mem := m.mem.clear (mtrAddr d 0) 0x100_0000, poison := m.poison.clear (mtrAddr d 0 / 32) 0x8_0000 }
      let m2 := (m1.setMortar d { m1.mortar d with used := false, owned := true }).setFld (Reg.mtr_FSTN d) s.q.stn
      let s1 := { s with phase := MPhase.idle }
      ((m2.setFlag (Reg.mtr_FVALID d) false).setSolve d s1).solveTry d s1

/-- ADJOINT (R196): the next descriptor, when it is an adjoint. -/
def State.adjoint (m : State) (d : Nat) : State :=
  let t := m.mortar d
  if m.safe ∨ (0x28 + d) ∈ m.engResets ∨ t.run.isSome then m
  else match nextStn t.queue t.last with
    | none => m
    | some q =>
      let dsc := m.word q.addr 256
      let f := mtrF dsc
      if m.check (some q.stn) q.addr 256 false ≠ .ok ∨ f.kind ≠ 1 ∨ m.memHeld q.stn q.addr 256 then m
      else
        let id := m.nextId
        let s := Solve.new q id dsc
        let m1 := ({ m with nextId := id + 1 }.touch q.stn q.addr 256 false 0).setMortar d
          { t with queue := t.queue.erase q, last := q.stn, run := some s }
        let code := m.mtrCheck q.stn id f
        if code ≠ 0 then m1.solveStop d s code
        else match t.kept with
          | none => m1.solveStop d s 13
          | some k =>
            let kf := mtrF k.d
            if f.gen ≠ m.fld (Reg.mtr_GEN d) ∨ q.stn ≠ m.fld (Reg.mtr_FSTN d) ∨ f.n ≠ kf.n ∨ !m.flag (Reg.mtr_FVALID d) then m1.solveStop d s 13
            else if f.jz ∧ !(m.allOk q.stn [(f.w, 8 * kf.m)] true && m.allOk q.stn (m.jRanges id kf) false) then m1.solveStop d s 8
            else if m.late s then m1.solveStop d { s with adjWhy := 1 } 15
            else m1.setSolve d { s with phase := .linear, lam := k.lam }

/-! ## Evaluations and the outer loop (R190, R191) -/

/-- Cost of the evaluation that stands in memory: bits, poison, and whether it counts as ok (R190). -/
def State.evalCost (m : State) (i : Nat) (f : MtrF) : Nat × Bool × Bool :=
  let st := m.words i f.eval 2
  let r := m.words i f.r (if f.normal then f.n else f.m)
  let s0 := st.getD 0 (1, true)
  let c := if f.normal then ((st.getD 1 (0, false)).1, false) else costOf (r.map Prod.fst)
  let psn := s0.2 || (decide (s0.1 = 0) && (if f.normal then (st.getD 1 (0, false)).2 else r.any Prod.snd))
  (c.1, psn, decide (s0.1 = 0) && Fmt.fp64.isFinite c.1 && !c.2)

/-- A step is kept: convergence is tested first, then the deadline and the iteration limit. -/
def State.acceptStep (m : State) (d : Nat) (s : Solve) (dx : List Nat) (c2 : Nat) (ev : List Nat) : State :=
  let f := s.f
  let cost := match s.best with
    | some b => b.2
    | none => 0
  let nd := norm2 dx
  let conv := Fmt.fp64.le (fabs (fsub cost c2)) (fmul f.ftol cost) || Fmt.fp64.le nd (fmul f.xtol (fadd (norm2 s.x) f.xtol))
  let s1 := { s with x := s.trial, best := some (s.trial, c2), dxnorm := nd, ev := ev, dx := dx, half := 0 }
  if conv then m.solveStop d s1 1
  else if m.late s then m.solveStop d s1 3
  else if f.maxit ≤ s.it then m.solveStop d s1 2
  else m.enterLinear d { s1 with it := s.it + 1 }

/-- A trial of LM is rejected: λ rises, or the solve stalls. -/
def State.rejectLm (m : State) (d : Nat) (s : Solve) (nv : Bool) : State :=
  let f := s.f
  let s1 := { s with lam := fmul s.lam f.lmUp, nv := s.nv || nv }
  if Fmt.fp64.lt f.lambdaMax s1.lam then m.solveStop d s1 5
  else if m.late s then m.solveStop d s1 3
  else if f.method = 4 then m.cgBegin d s1 (m.rhs s1)
  else m.setSolve d { s1 with phase := .linear }

/-- x + t·dx for t = 2^−half. -/
def Solve.step (s : Solve) (half : Nat) : List Nat :=
  (s.x.zip s.dx).map (fun e => fadd e.1 (fscale e.2 (-(half : Int))))

/-- An evaluation has answered: its results are read (class 0 of R223). -/
def State.evalDone (m0 : State) (d : Nat) (s : Solve) : State :=
  let f := s.f
  let m := (m0.touchAll s.q.stn 0 (m0.evalRanges s.id f)).countFma d (if f.normal then 0 else f.m)
  let e := m.evalCost s.id f
  let good := e.2.2
  if s.reeval then
    -- the result stands whatever this evaluation gives; KEPT needs a clean one
    let ev := m.readEval s.id f
    if good ∧ !e.2.1 ∧ !ev.2 then m.setSolve d { s with phase := .keep, reeval := false, ev := ev.1 }
    else m.setSolve d { s with phase := .writing, reeval := false }
  else if e.2.1 then m.solveStop d s 11
  else
    let ev := m.readEval s.id f
    let nv := good && (m.formOf s.id f ev.1).2.2
    let ok := good && !nv
    match s.best with
    | none =>
      if good ∧ ev.2 then m.solveStop d s 11
      else if !ok then m.solveStop d s 10
      else
        let s1 := { s with best := some (s.x, e.1), ev := ev.1, it := 1 }
        m.enterLinear d s1
    | some b =>
      if f.alg = 1 then
        if good && Fmt.fp64.lt e.1 b.2 then
          (if ev.2 then m.solveStop d s 11
          else if ok then m.acceptStep d s (s.dx.map (fun v => fscale v (-(s.half : Int)))) e.1 ev.1
          else if s.half = 7 then m.solveStop d { s with nv := true } 5
          else m.trialEnd d { s with half := s.half + 1, nv := true } (s.step (s.half + 1)))
        else if s.half = 7 then m.solveStop d { s with nv := s.nv || !Fmt.fp64.isFinite e.1 } 5
        else m.trialEnd d { s with half := s.half + 1, nv := s.nv || !Fmt.fp64.isFinite e.1 } (s.step (s.half + 1))
      else
        let rho := fdiv (fsub b.2 e.1) s.pred
        if good && Fmt.fp64.lt (fscale fpOne (-10)) rho then
          (if ev.2 then m.solveStop d s 11
          else if ok then m.acceptStep d { s with lam := fmul s.lam f.lmDown } s.dx e.1 ev.1
          else m.rejectLm d s true)
        else m.rejectLm d s (!Fmt.fp64.isFinite e.1)

/-- A notification for a Mortar: the evaluation it waits for (R189). Answers none when remote results
are still to come, or a read of them holds. -/
def State.mortarNotified (m : State) (d : Nat) : Option State :=
  match (m.mortar d).run with
  | none => some m
  | some s =>
    if s.phase ≠ .evalWait then some m
    else
      let rs := m.evalRanges s.id s.f ++ m.structRanges s.id s.f
      if m.ready s.id rs ∧ !m.anyHeld s.q.stn rs then some (m.evalDone d s) else none

/-! ## LINEAR_PHASE_END (R188, R191, R192) -/

/-- A finite vector. -/
def allFinite (v : List Nat) : Bool := v.all Fmt.fp64.isFinite

/-- A linear phase of a solve has its step, or broke down. -/
def State.linearDone (m0 : State) (d : Nat) (s : Solve) (dx? : Option (List Nat)) : State :=
  let f := s.f
  match dx? with
  | none =>
    if f.alg ≠ 2 then m0.solveStop d s 6 else m0.rejectLm d s false
  | some dx =>
    let m := m0.countFma d (if f.alg = 2 then f.n ^ 2 + 2 * f.n else 0)
    if f.alg = 0 then m.solveStop d { s with x := (s.x.zip dx).map (fun e => fadd e.1 e.2), dx := dx } 1
    else if m.late s then m.solveStop d s 3
    else
      let s1 := { s with dx := dx, half := 0, phase := MPhase.trial }
      if f.alg = 1 then m.trialEnd d s1 (s1.step 0)
      else
        let hg := m.formOf s.id f s.ev
        let hd := hg.1.map (fun r => (fdot 0 r dx).1)
        let pred := fneg (fadd (fdot 0 hg.2.1 dx).1 (fscale (fdot 0 dx hd).1 (-1)))
        m.trialEnd d { s1 with pred := pred } (s1.step 0)

/-- The adjoint's solution, and w = J·z when asked. -/
def State.adjointDone (m : State) (d : Nat) (s : Solve) (kf : MtrF) (z? : Option (List Nat)) : State :=
  match z? with
  | none => m.solveStop d { s with adjWhy := 4 } 15
  | some z =>
    let ev := m.readEval s.id kf
    let w := if s.f.jz then m.jTimes s.id kf ev.1 z else []
    if s.f.jz ∧ ev.2 then m.solveStop d s 11
    else if !allFinite (z ++ w) then m.solveStop d { s with adjWhy := 4 } 15
    else m.solveStop d { s with z := z, w := w } 1

/-- LINEAR_PHASE_END of an adjoint (R196): A·z = G by the kept factor, two triangular solves, or CG under PCG. -/
def State.adjointPhase (m : State) (d : Nat) (s : Solve) (k : Kept) : State :=
  let kf := mtrF k.d
  let rs := nonempty ((s.f.g, 8 * s.f.n) :: (if s.f.jz then m.structRanges s.id kf ++ m.jRanges s.id kf else []))
  let stop (m : State) (z : List Nat) : State :=
    (m.countFma d (if s.f.jz then kf.m * kf.n else 0)).adjointDone d s kf (some z)
  if !m.ready s.id rs then m.askAll s.id s.q.stn (0x28 + d) rs
  else if m.anyHeld s.q.stn rs then m
  else match s.cg with
    | some c =>
      if !c.ended then m.cgPoll d s c
      else if c.broke ∨ !c.met then m.solveStop d { s with adjWhy := if c.broke then 4 else 3 } 15
      else stop m c.sol
    | none =>
      let m1 := m.touchAll s.q.stn 0 rs
      let g := m1.words s.id s.f.g s.f.n
      if g.any Prod.snd then m1.solveStop d s 11
      else if kf.method = 4 then m1.cgStart d s (g.map Prod.fst) (some k.fac) k.diag
      else stop (m1.countFma d (kf.fmaSolve k.fac.pat.length)) (kf.facSolve k.fac (g.map Prod.fst))

/-- Data a linear phase streams again: J under DENSE_QR for each λ, and under SCHUR for δ_p (R188). -/
def State.restream (m : State) (s : Solve) : State :=
  if s.f.method = 1 ∨ s.f.method = 2 then m.touchAll s.q.stn 0 (nonempty (m.jRanges s.id s.f)) else m

/-- LINEAR_PHASE_END. -/
def State.linearPhaseEnd (m : State) (d : Nat) : State :=
  match (m.mortar d).run with
  | none => m
  | some s =>
    if m.safe ∨ s.phase ≠ .linear then m
    else if s.f.kind = 1 then
      match (m.mortar d).kept with
      | none => m.solveStop d s 13
      | some k => m.adjointPhase d s k
    else match s.cg with
      | some c => if !c.ended then m.cgPoll d s c else m.linearDone d s (if c.broke then none else some c.sol)
      | none =>
        if s.f.method = 4 then m
        else
          let r := m.linSolve s.id s.f s.ev s.lam (m.rhs s)
          ((m.restream s).countFma d (m.fmaFactor s.id s.f + s.f.fmaSolve (m.sparseFill s.id s.f).length)).linearDone d { s with nv := s.nv || r.2 } r.1

/-- A Whisk chain of solve id on Mortar d has ended (R197): a fault ends the solve with its code; the last one moves CG on. -/
def State.mortarChain (m : State) (d : Nat) (id : Option Nat) (code : Nat) : State :=
  match (m.mortar d).run with
  | none => m
  | some s => match s.cg with
    | none => m
    | some c =>
      if s.phase ≠ .linear ∨ c.ended ∨ id ≠ some s.id then m
      else if code ≠ 1 then m.solveStop d { s with wcode := code } 14
      else
        let c1 := { c with left := c.left - 1 }
        let s1 := { s with cg := some c1 }
        (m.setSolve d s1).cgPoll d s1 c1

/-- CHAIN_END (R164): waits for the acknowledgements of remote writes; a chain of a Mortar tells it (R197). -/
def State.chainEnd (m : State) (s : Nat) : State :=
  match (m.whisk s).run with
  | none => m
  | some c =>
    if m.safe ∨ c.code = 0 ∨ !m.acked c.id then m
    else
      let m1 := m.chainFinish s c
      match c.q.mortar with
      | some d => m1.mortarChain d c.q.disp c.code
      | none => m1

/-- DEADLINE_CHECK (R192, R193): inside a phase. -/
def State.deadlineCheck (m : State) (d : Nat) : State :=
  match (m.mortar d).run with
  | none => m
  | some s =>
    if m.safe ∨ !m.late s then m
    else match s.phase with
      | .evalWait =>
        let m1 := m.dropWatches (fun w => decide (w.target = .mortar d))
        if s.code ≠ 0 then m1.setSolve d { s with phase := .writing, reeval := false } else m1.solveStop d s 3
      | .trial => if s.code ≠ 0 then m.setSolve d { s with phase := .writing, reeval := false } else m.solveStop d s 3
      | .linear => if s.f.kind = 1 then m.solveStop d { s with adjWhy := 2 } 15 else m.solveStop d s 4
      | .keep => m.setSolve d { s with phase := .writing }
      | _ => m

/-! ## Results (R193, R195, R198) -/

def fpNan : Nat := 0x7FF8_0000_0000_0000

/-- The iterate a solve returns. -/
def Solve.returned (s : Solve) : List Nat :=
  match s.best with
  | some b => b.1
  | none => s.x

/-- Words of RES. -/
def State.resWords (m : State) (d : Nat) (s : Solve) (kept : Bool) : List Nat :=
  let cost := match s.best with
    | some b => b.2
    | none => fpNan
  [s.code + b2n s.warmRej <<< 4 + b2n s.best.isNone <<< 5 + b2n kept <<< 6 + b2n s.nv <<< 7 + s.wcode <<< 8 + s.adjWhy <<< 12 +
      s.it <<< 16 + (s.evals % 2 ^ 32) <<< 32,
    cost, s.lam, s.dxnorm, s.sig, m.fld (Reg.mtr_GEN d) + (min s.cgit (2 ^ 32 - 1)) <<< 32, m.now, 0]

def State.putWords (m : State) (s : Solve) (d g : Nat) (ws : List Nat) : State :=
  m.putRaw s.id s.q.stn (0x28 + d) g (ws.flatMap (fun w => leBytes w 8)) (fun _ _ => false)

/-- A result code. -/
def Solve.isResult (s : Solve) : Bool := if s.f.kind = 1 then decide (s.code = 1) else decide (1 ≤ s.code ∧ s.code ≤ 6)

/-- XOUT, the warm record and RES; or z and w and RES; or RES alone. -/
def State.writeResult (m : State) (d : Nat) (s : Solve) : State :=
  let f := s.f
  let m1 :=
    if !s.isResult then m
    else if f.kind = 1 then
      let m1 := m.putWords s d f.z s.z
      if f.jz then m1.putWords s d f.w s.w else m1
    else
      let m1 := m.putWords s d f.xout s.returned
      if f.wrec = 0 then m1
      else
        let m2 := m1.putWords s d f.wrec [0]
        let m3 := (((m2.putWords s d (f.wrec + 0x40) s.returned).putWords s d (f.wrec + 0x18) [s.lam]).putRaw s.id s.q.stn (0x28 + d)
          (f.wrec + 0x10) (leBytes f.n 4) (fun _ _ => false)).putWords s d (f.wrec + 0x08) [s.sig]
        m3.putWords s d f.wrec [1]
  if m.gOk s.q.stn f.res 64 true then m1.putWords s d f.res (m1.resWords d s false) else m1

/-- The descriptor ends: counters, CTR or ENG_FAULT, and the Mortar is free. -/
def State.solveFinish (m : State) (d : Nat) (s : Solve) : State :=
  let m1 := ({ m with free := m.free + 2 ^ 24 }.setMortar d { m.mortar d with run := none, fill := m.free }).dropBuf s.id
  let m2 := if s.warmRej ∧ s.isResult then m1.bump (Reg.mtr_WREJ_CNT d) 1 else m1
  if s.isResult then
    let m3 := if s.f.kind = 0 then m2.bump (Reg.mtr_SOLVES d) 1 else m2
    let m4 := if s.f.kind = 0 ∧ (s.code = 3 ∨ s.code = 4) then m3.bump (Reg.mtr_DL_CNT d) 1 else m3
    (m4.ctrDone s.q.stn s.q.ctr s.q.cen (0x38 + d)).dispatched s.q
  else
    let m3 := m2.bump (Reg.mtr_FAULT_CNT d) 1
    let m4 := if s.code = 11 then m3.report { page := 0x28 + d, code := Code.poisonConsumed, stn := some s.q.stn, master := 0x38 + d, acc := 0 } else m3
    (m4.report { page := 0x28 + d, code := Code.engFault, stn := some s.q.stn, master := 0x38 + d, acc := 5, addr := s.q.addr }).dispatched s.q

/-- A keep factorisation follows the result (R196). -/
def Solve.keeps (s : Solve) : Bool := s.f.keep && decide (s.f.kind = 0) && s.isResult

/-- SOLVE_END (R198): the result is written; once every write is acknowledged, the keep factorisation follows or the
descriptor ends. -/
def State.solveEnd (m : State) (d : Nat) : State :=
  match (m.mortar d).run with
  | none => m
  | some s =>
    if m.safe ∨ s.phase ≠ .writing ∨ (!s.written ∧ m.anyHeld s.q.stn (nonempty s.f.writes)) then m
    else
      let first := !s.written
      let m1 := if first then m.writeResult d s else m
      let s1 := { s with written := true }
      if !m1.acked s.id then m1.setSolve d s1
      else if first ∧ s.keeps ∧ !m.late s then
        if s.f.alg = 0 ∨ s.evalAt = s.returned then m1.setSolve d { s1 with phase := .keep }
        else m1.evaluate d { s1 with reeval := true } s.returned
      else m1.solveFinish d s1

/-- KEEP_FACTORISATION (R196): A = H + λ·D at the returned iterate is kept, RES and MTR_FACT say so, and the descriptor ends. -/
def State.keepFactorisation (m : State) (d : Nat) : State :=
  match (m.mortar d).run with
  | none => m
  | some s =>
    if m.safe ∨ s.phase ≠ .keep then m
    else
      let f := s.f
      let lam := if f.adj0 ∨ f.alg = 1 then 0 else s.lam
      let m1 := (m.restream s).countFma d (m.fmaFactor s.id f)
      match (m.factorise s.id f s.ev lam).1 with
      | none => m1.solveFinish d s
      | some fac =>
        let m2 := (m1.setFld (Reg.mtr_GEN d) (m1.fld (Reg.mtr_GEN d) + 1)).setFlag (Reg.mtr_FVALID d) true
        let m3 := m2.setMortar d { m2.mortar d with kept := some ⟨s.d, lam, fac, diagOf (m.formOf s.id f s.ev).1 f.dmin⟩ }
        (m3.putWords s d f.res (m3.resWords d s true)).solveFinish d s

/-- After acknowledgements and arrivals: a Mortar whose XT write has landed asks for its evaluation, and conjugate gradients
go on. -/
def State.mortarAcked (m : State) (d : Nat) : State :=
  match (m.mortar d).run with
  | none => m
  | some s =>
    if s.phase = .trial ∧ m.acked s.id then m.evalReq d s
    else match s.phase, s.cg with
      | .linear, some c => m.cgPoll d s c
      | _, _ => m

def execChainEnd (w : Stack) (s : State) : Host.Outcome State Fault Refusal := .next (s.chainEnd w).landed
def execSolve (d : Die) (s : State) : Host.Outcome State Fault Refusal := .next (s.solve d).landed
def execAdjoint (d : Die) (s : State) : Host.Outcome State Fault Refusal := .next (s.adjoint d).landed
def execLinearPhaseEnd (d : Die) (s : State) : Host.Outcome State Fault Refusal := .next (s.linearPhaseEnd d).landed
def execDeadlineCheck (d : Die) (s : State) : Host.Outcome State Fault Refusal := .next (s.deadlineCheck d)
def execSolveEnd (d : Die) (s : State) : Host.Outcome State Fault Refusal := .next (s.solveEnd d).landed
def execKeepFactorisation (d : Die) (s : State) : Host.Outcome State Fault Refusal := .next (s.keepFactorisation d).landed
def execLocalMemoryClear (d : Die) (s : State) : Host.Outcome State Fault Refusal := .next (s.localClear d).landed

def execDmt (n : Stn) (q : Quad) (s : State) : Host.Outcome State Fault Refusal :=
  .next (s.issueLocal n q 0x42 false (fun m w => m.issueDispatch n q 4 w (fun e => m.mortarRoom n e) State.mortarPush))

end Sys2Proof.Machine
end

