-- ==== Sys2Proof/Machine/Link.lean ====
section
/-! DEFINITION. Keyring links (R237 to R256, R363): flits as sent, credits and the retransmit window, the metro rings, failed
flits and replays, the link states, HELLO, keys, and the acceptance of an arriving flit. -/

namespace Sys2Proof.Machine

/-! ## Sizes and credits (R240, R244, R245) -/

/-- Cells of a flit; a metro port that is UP adds the GCM tag. -/
def flitCells (f : Flit) (metro : Bool) : Nat := (if f.payload.isEmpty then 2 else 18) + b2n metro

/-- Cells of the receive window, which are those of the retransmit window as well. -/
def windowCells (metro : Bool) : Nat := if metro then 8388608 else 262144

def State.isMetro (m : State) (p : Nat) : Bool := m.flag (Reg.kp_METRO p)

/-- A list with entry k replaced. -/
def setAt (l : List Nat) (k v : Nat) : List Nat := l.set k v

/-- The pool a flit of c cells on VC v takes its credit from: reserved, shared, or none free (R244). -/
def Link.pool (l : Link) (metro : Bool) (v c : Nat) : Option Bool :=
  if l.resv.getD v 0 + c ≤ 64 then some false
  else if l.shared.sum + c ≤ windowCells metro - 256 then some true
  else none

/-- The sent flits that wait for their acknowledgement, in cells. -/
def Link.inWindow (l : Link) : Nat := (l.window.map (fun s => s.cells)).sum

/-- The next flit a port can send: the first of each VC, in queue order, whose credit is free. -/
def Link.next (l : Link) (metro up : Bool) : Option (Flit × Bool) :=
  let first := l.txq.filter (fun f => decide (l.txq.find? (fun g => decide (g.vc = f.vc)) = some f))
  first.findSome? (fun f => (l.pool metro f.vc (flitCells f (metro && up))).map (fun b => (f, b)))

/-- ACK: every SEQ below it is received (modulo 2^32). -/
def seqBelow (s ack : Nat) : Bool := decide ((ack + 2 ^ 32 - s % 2 ^ 32) % 2 ^ 32 ≠ 0 ∧ (ack + 2 ^ 32 - s % 2 ^ 32) % 2 ^ 32 < 2 ^ 31)

/-! ## Down and failed (R248) -/

/-- The neighbours a running collective exchanges flits with: those along its chain, which ends at
ranks 0 and P - 1, or along its ring, and for PERMUTE all (R271). -/
def Coll.peers (c : Coll) : List Nat :=
  let at_ (k : Nat) : Nat := c.nodes.getD (k % max 1 c.p) 0
  if c.d % 8 = 5 then c.nodes
  else if c.d % 8 = 1 ∨ c.d % 8 = 4 then
    (if 0 < c.rank then [at_ (c.rank - 1)] else []) ++ (if c.rank + 1 < c.p then [at_ (c.rank + 1)] else [])
  else [at_ (c.rank + 1), at_ (c.rank + c.p - 1)]

/-- A route toward a node uses port p. -/
def State.routeUses (m : State) (node p : Nat) : Bool :=
  let e := m.routeEntry node
  bitOf e 26 && (List.range (bitsOf e 25 24 + 1)).any (fun c => decide (bitsOf e (6 * c + 5) (6 * c) = p))

/-- A collective fails at this member: TIMEOUT, and COLL_FAIL with its group (R271). -/
def State.collFail (m : State) (c : Coll) : State :=
  ({ m with colls := m.colls.map (fun (x : Coll) => if x.id = c.id then { x with code := 9 } else x) }).report
    { page := 0x84, code := Code.collFail, stn := some c.q.stn, master := 0x54 + c.q.stn % 4, acc := 4, detail := bitsOf c.d 14 3 }

/-- Collectives whose chain or ring uses a port that is lost end with TIMEOUT. -/
def State.collsLost (m : State) (p : Nat) : State :=
  (m.colls.filter (fun c => c.started && decide (c.code = 0) && c.peers.any (fun n => decide (n ≠ m.nodeId) && m.routeUses n p))).foldl
    State.collFail m

/-- A session whose predecessor's link is lost is lost: the inactive copy is invalid already (R359). -/
def State.sessionLost (m : State) (p : Nat) : State :=
  match m.session with
  | some s =>
    if s.port = p ∧ !s.origin then
      { m with session := none }.setFld (if s.kind = 1 then Reg.fw_T_STATE else Reg.fw_S_STATE) 3
    else m
  | none => m

/-- A request tag has become free: writes that wait, the transfer i, and the Mortars go on. -/
def State.reqFreed (m : State) (i : Option Nat) : State :=
  let m1 := m.pumpOut
  let m2 := match i with
    | some i => State.pump 4096 i m1
    | none => m1
  (List.range 4).foldl State.mortarAcked m2

/-- A request ends in an error (R263), and what waited for it goes on. -/
def State.reqEnds (m : State) (r : Req) (ecode : Nat) : State := (m.reqError r ecode).reqFreed (r.xfer.map Prod.fst)

/-- A relayed request of a lost port is answered with LINK_DOWN (R248, R257). -/
def State.relayLost (m : State) (r : Relay) : State := m.respond r.from_ r.flit (m.errReply r.flit 5)

/-- Flits at any output that still stand in port p's receive buffer stand there no more. -/
def State.forgetInput (m : State) (p : Nat) : State :=
  (List.range 64).foldl (fun m q =>
    let l := m.link q
    if l.txq.any (fun f => decide (f.inp.map Prod.fst = some p)) then
      m.setLink q { l with txq := l.txq.map (fun (f : Flit) => if f.inp.map Prod.fst = some p then { f with inp := none } else f) }
    else m) m

/-- A link goes to DOWN or FAILED: windows and credits return to their initial state, its requests and those relayed through
it end in LINK_DOWN, and a change of reach that waits applies once it is DOWN (R249). The use counts of loaded keys stand
(R254). -/
def State.linkTo (m0 : State) (p st : Nat) (report : Bool) : State :=
  let lost := m0.relays.filter (fun (r : Relay) => decide (r.port = p))
  let m := { m0.sessionLost p with relays := m0.relays.filter (fun (r : Relay) => decide (r.port ≠ p)) }.forgetInput p
  let l := m.link p
  let keep : Link := { Link.idle with reachPend := l.reachPend, authTimes := l.authTimes, keyUse := l.keyUse, keyWraps := l.keyWraps }
  let m1 := (m.setLink p keep).setFld (Reg.kp_LSTATE p) st
  let m2 := (m.reqs.filter (fun r => decide (r.port = p))).foldl (fun m r => m.reqEnds r 5) m1
  let m2' := lost.foldl State.relayLost m2
  let m3 := if report then (m2'.collsLost p).report { page := kpPage p, code := Code.linkDown, master := 0x80 + p, acc := 6, detail := p } else m2'.collsLost p
  match st, l.reachPend with
  | 0, some (metro, slot) =>
    let m4 := ((m3.setFlag (Reg.kp_METRO p) metro).setFld (Reg.kp_MSLOT p) slot).setLink p { m3.link p with reachPend := none }
    if metro ∧ !m.isMetro p then m4.setFld (Reg.kp_REPLAY_TMO p) 4000 else m4
  | _, _ => m3

def State.linkFail (m : State) (p : Nat) : State := m.linkTo p LState.failed true

/-! ## FLIT_TRANSMIT -/

/-- Slot of the key in use. -/
def State.keySlot (m : State) (p : Nat) : Nat := m.fld (Reg.kp_KACT p)

def State.slotLoaded (m : State) (p k : Nat) : Bool := (m.fld (Reg.kp_KLOADED p)).testBit k

/-- Flits sent under a slot's key at which the sender switches by itself, and at which it sends no new flit (R254). -/
def keySwitchAt : Nat := 2 ^ 31
def keyStopAt : Nat := 2 ^ 32 - 2 ^ 20

def Link.used (l : Link) (k : Nat) : Nat := l.keyUse.getD k 0

/-- Switch to the other slot when asked, or when this key has carried 2^31 flits and the other fewer, or when this key may
carry no more and the other may, provided it is loaded (R254). -/
def State.keyStep (m : State) (p : Nat) : State :=
  let l := m.link p
  let a := m.keySlot p
  let due := decide (keySwitchAt ≤ l.used a ∧ l.used (1 - a) < keySwitchAt) || decide (keyStopAt ≤ l.used a ∧ l.used (1 - a) < keyStopAt)
  if m.isMetro p ∧ (l.switchPend ∨ due) ∧ m.slotLoaded p (1 - a) then
    (m.setFld (Reg.kp_KACT p) (1 - a)).setLink p { l with switchPend := false }
  else m

/-- A port can send at all: UP, or the discovery flits of HELLO and KEYING (R248, R363). -/
def State.canSendOn (m : State) (p : Nat) : Bool :=
  let st := m.fld (Reg.kp_LSTATE p)
  decide (3 ≤ st ∧ st ≤ 5) && !m.safe

/-! ## 1588 messages (R272), whose fields are those of IEEE 1588-2019 -/

def beBytes (v n : Nat) : List Byte := (leBytes v n).reverse
def beNat (bs : List Byte) : Nat := leNat bs.reverse

/-- Bytes [o, o + n) of a message replaced. -/
def putAt (bs : List Byte) (o : Nat) (v : List Byte) : List Byte := bs.take o ++ v ++ bs.drop (o + v.length)

/-- Message type, domain, sequence number, correction (signed, 1/65,536 ns) and the time in bytes 34 to 43. -/
def ptpType (bs : List Byte) : Nat := beNat (bs.take 1) % 16
def ptpDomain (bs : List Byte) : Nat := beNat ((bs.drop 4).take 1)
def ptpSeqId (bs : List Byte) : Nat := beNat ((bs.drop 30).take 2)
def ptpCorr (bs : List Byte) : Int := signedOf (beNat ((bs.drop 8).take 8)) 64
def ptpTime (bs : List Byte) : Nat := beNat ((bs.drop 34).take 6) * 1_000_000_000 + beNat ((bs.drop 40).take 4)

/-- A message with ns added to its correction. -/
def ptpAdd (bs : List Byte) (ns : Int) : List Byte := putAt bs 8 (beBytes ((ptpCorr bs + 65536 * ns) % 2 ^ 64).toNat 8)

/-- A global time as a 1588 timestamp. -/
def ptpStampOf (t : Nat) : List Byte := beBytes (t / 1_000_000_000) 6 ++ beBytes (t % 1_000_000_000) 4

/-! ## Flits as sent (R241, R242, R253) -/

/-- The link header's word, and the transaction header's. -/
def hdrWord (f : Flit) (lcrc : Nat) : Nat :=
  b2n (!f.payload.isEmpty) + f.lh.typ <<< 1 + f.vc <<< 4 + (b2n f.lh.enc) <<< 6 + f.lh.key <<< 7 + f.lh.seq <<< 8 + f.lh.ack <<< 40 +
    f.lh.crd <<< 72 + f.lh.crdVc <<< 92 + lcrc <<< 96
def thWord (f : Flit) : Nat :=
  f.op + f.src <<< 5 + f.dst <<< 25 + f.sstn <<< 45 + f.hops <<< 48 + f.flow <<< 53 + f.tag <<< 59 + f.psn <<< 71 + f.len <<< 75 +
    f.addr <<< 78

/-- Transaction header and payload. -/
def flitPlain (f : Flit) : List Byte :=
  leBytes (thWord f) 16 ++ (if f.payload.isEmpty then [] else f.payload ++ List.replicate (256 - f.payload.length) 0)

/-- Key and salt of a slot. -/
def State.keyOf (m : State) (p k : Nat) : BitVec 256 :=
  BitVec.ofNat 256 (((List.range 4).map (fun i => m.fld (if k = 0 then Reg.kp_KEY0 p i else Reg.kp_KEY1 p i) <<< (64 * i))).sum)
def State.saltOf (m : State) (p k : Nat) : Nat := m.fld (if k = 0 then Reg.kp_SALT0 p else Reg.kp_SALT1 p)

/-- The bytes of a flit on the wire: under an IV the header is additional authenticated data, taken without its LCRC. -/
def State.wireBytes (m : State) (p : Nat) (f : Flit) (iv : Option (BitVec 96)) : List Byte :=
  let aad := leBytes (hdrWord f 0) 16
  let pl := flitPlain f
  let body := match iv with
    | none => pl
    | some v => (List.range (pl.length + 16)).map (Config.gcm (m.keyOf p f.lh.key) v aad pl)
  leBytes (hdrWord f (crc32c (aad ++ body))) 16 ++ body

/-- Slot MSLOT of the module reserve (R20). -/
def State.slotBase (m : State) (p : Nat) : Nat := 0x27F_0000_0000 + m.fld (Reg.kp_MSLOT p) * 0x1000_0000

/-- Bytes into a metro port's transmit (0) or receive (1) ring of 128 MiB, from a position in cells, at the reserve's charge
(R220, R250). -/
def State.ringBytes (m : State) (p half pos : Nat) (bs : List Byte) : State :=
  let base := m.slotBase p + half * 2 ^ 27
  let o := 16 * pos % 2 ^ 27
  let n := min bs.length (2 ^ 27 - o)
  let m1 := (m.putBytes (base + o) (bs.take n)).chargeBeats none (base + o) n
  (m1.putBytes base (bs.drop n)).chargeBeats none base (bs.length - n)

/-- What a port stamps into a flit at its first transmission: T1 of HELLO (R256), the time of a 1588 Sync, and the time a
1588 message has stood in this module (R272). -/
def State.stampFlit (m : State) (f : Flit) : Flit :=
  if f.op = Op.hello then { f with payload := putAt f.payload 0x18 (leBytes m.now 8) }
  else if f.op ≠ Op.ptp then f
  else if f.inp.isSome ∨ ptpType f.payload = 3 then { f with payload := ptpAdd f.payload m.now }
  else if ptpType f.payload = 0 then { f with payload := putAt f.payload 34 (ptpStampOf m.now) }
  else f

/-- A flit leaves this module's receive buffer: its cells are owed to the peer (R244). -/
def State.owe (m : State) (p vc cells : Nat) : State :=
  let l := m.link p
  m.setLink p { l with owed := l.owed ++ [(vc, cells)] }

/-- A flit that came in by another port has left its output, or is dropped there. -/
def State.oweFor (m : State) (f : Flit) : State :=
  match f.inp with
  | some (q, c) => m.owe q f.vc c
  | none => m

/-- The cells owed that one header returns: those of one VC. -/
def Link.crd (l : Link) : Nat × Nat :=
  match l.owed with
  | [] => (0, 0)
  | o :: _ => (o.1, ((l.owed.filter (fun x => decide (x.1 = o.1))).map Prod.snd).sum)

/-- TYPE of a flit: HELLO and KEYX are discovery, PTP is time. -/
def flitType (f : Flit) : Nat :=
  if f.op = Op.hello ∨ (f.op = Op.fwImg ∧ bitsOf f.addr 2 0 = 4) then 3 else if f.op = Op.ptp then 4 else 0

/-- FLIT_TRANSMIT (R244, R245): a resend goes first, takes no credit and is the flit as it was; else the next flit that has
credit and room in the retransmit window goes, with ACK and CRD in its header; with no flit to send, what is owed goes in a
credit and ACK flit. -/
def State.flitTransmit (m : State) (p : Nat) : State :=
  if !m.canSendOn p then m
  else
    let m0 := m.keyStep p
    let l := m0.link p
    let metro := m0.isMetro p
    let up := m0.linkUp p
    let k := m0.keySlot p
    match l.resend with
    | s :: rest =>
      let w := l.window.map (fun (x : Sent) => if x.seq = s then { x with replays := x.replays + 1 } else x)
      (m0.setLink p { l with resend := rest, window := w }).bump (Reg.kp_REPLAY_CNT p) 1
    | [] =>
      let owed := l.owed.filter (fun x => decide (x.1 ≠ l.crd.1))
      let go := if up ∧ metro ∧ keyStopAt ≤ l.used k then none else l.next metro up
      match go with
      | none =>
        if l.owed.isEmpty then m0
        else m0.setLink p { l with owed := owed, only := ⟨1, false, 0, 0, l.rxNext, l.crd.2, l.crd.1⟩ }
      | some (f, sh) =>
        let c := flitCells f (metro && up)
        if windowCells metro < l.inWindow + c then m
        else
          let enc := metro && up
          let f1 := { m0.stampFlit f with lh := ⟨flitType f, enc, if enc then k else 0, l.seq, l.rxNext, l.crd.2, l.crd.1⟩, inp := none }
          let iv := if enc then some (BitVec.ofNat 96 (m0.saltOf p k <<< 64 + (l.keyWraps.getD k 0) <<< 32 + l.seq)) else none
          let wraps := decide (l.seq + 1 = 2 ^ 32)
          let l1 := { l with
            txq := l.txq.erase f
            seq := (l.seq + 1) % 2 ^ 32
            window := l.window ++ [⟨l.seq, f1, c, k, iv, 0⟩]
            resv := if sh then l.resv else setAt l.resv f.vc (l.resv.getD f.vc 0 + c)
            shared := if sh then setAt l.shared f.vc (l.shared.getD f.vc 0 + c) else l.shared
            keyUse := if enc then setAt l.keyUse k (l.used k + 1) else l.keyUse
            keyWraps := if enc ∧ wraps then setAt l.keyWraps k (l.keyWraps.getD k 0 + 1) else l.keyWraps
            txPos := if metro then l.txPos + c else l.txPos
            pdReq := if f.op = Op.ptp ∧ f.inp.isNone ∧ ptpType f.payload = 2 then some (ptpSeqId f.payload, m0.now) else l.pdReq
            owed := owed }
          let m1 := ((m0.setLink p l1).bump (Reg.kp_TX_FLITS p) 1).oweFor f
          if metro then m1.ringBytes p 0 l.txPos (m0.wireBytes p f1 iv) else m1

/-! ## CREDIT, NAK, replays -/

/-- CREDIT (R241, R244): acknowledged flits leave the window; returned cells are taken, those of CRD_VC first, unless they
would raise the count above the window (R18). -/
def State.credit (m : State) (p ack crd vc : Nat) : State :=
  if m.fld (Reg.kp_LSTATE p) < 3 ∨ LState.failed ≤ m.fld (Reg.kp_LSTATE p) then m
  else
    let l := m.link p
    let l1 := { l with
      window := l.window.filter (fun s => !seqBelow s.seq ack)
      resend := l.resend.filter (fun s => !seqBelow s ack) }
    let held := l1.resv.sum + l1.shared.sum
    if held < crd then
      (m.setLink p l1).report { page := kpPage p, code := Code.creditOver, master := 0x80 + p, acc := 6, detail := p }
    else
      let r := ([vc] ++ (List.range 4).filter (fun v => decide (v ≠ vc))).foldl (fun (acc : List Nat × List Nat × Nat) v =>
        let h := min acc.2.2 (acc.2.1.getD v 0)
        let k := min (acc.2.2 - h) (acc.1.getD v 0)
        (setAt acc.1 v (acc.1.getD v 0 - k), setAt acc.2.1 v (acc.2.1.getD v 0 - h), acc.2.2 - h - k)) (l1.resv, l1.shared, crd)
      m.setLink p { l1 with shared := r.2.1, resv := r.1 }

/-- Resend the named flits; one already resent eight times fails the link (R247). -/
def State.resend (m : State) (p : Nat) (which : Sent → Bool) : State :=
  let l := m.link p
  let ss := l.window.filter which
  if ss.isEmpty then m
  else if ss.any (fun s => decide (8 ≤ s.replays)) then m.linkFail p
  else m.setLink p { l with resend := (l.resend.filter (fun x => !ss.any (fun s => decide (s.seq = x)))) ++ ss.map (fun s => s.seq) }

/-- NAK (R246): from that SEQ onward at local reach, that one alone at metro reach. -/
def State.nak (m : State) (p seq : Nat) : State :=
  if !m.canSendOn p then m
  else if m.isMetro p then m.resend p (fun s => decide (s.seq = seq)) else m.resend p (fun s => !seqBelow s.seq seq)

/-- REPLAY_TMO (R247). -/
def State.replayTmo (m : State) (p : Nat) : State :=
  if !m.canSendOn p then m else m.resend p (fun _ => true)

/-- FAILED_FLIT (R246, R254): the failure is counted and the missing SEQ asked for. -/
def State.failedFlit (m : State) (p seq : Nat) (why : FlitFail) (inj : Bool) : State :=
  let st := m.fld (Reg.kp_LSTATE p)
  if st < 3 ∨ 5 < st then m
  else
    let m1 := m.bump (Reg.kp_LCRC_ERR p) 1
    let m2 := match why with
      | .fec => m1.bump (Reg.kp_FEC_UNC p) 1
      | .lcrc => m1
      | .gcm => (m1.bump (Reg.kp_AUTH_FAIL p) 1).report
          { page := kpPage p, code := Code.keyringAuth, master := 0x80 + p, acc := 6, detail := p, inj := inj }
    let l := m2.link p
    let metro := m2.isMetro p
    let lack := if metro then seq else l.rxNext
    let ask := if metro then decide (seq ∉ l.nakFor) else !l.discard || decide (seq = l.rxNext)
    let times := if why = .gcm then (m2.now :: l.authTimes).filter (fun t => decide (m2.now < t + 1_000_000_000)) else l.authTimes
    let m3 := m2.setLink p { l with
      discard := !metro
      nakFor := if ask ∧ lack ∉ l.nakFor then lack :: l.nakFor else l.nakFor
      authTimes := times
      only := if ask then ⟨2, false, 0, 0, lack, 0, 0⟩ else l.only }
    let m4 := if ask then m3.bump (Reg.kp_NAK_CNT p) 1 else m3
    if 16 ≤ times.length then (m4.setLink p { m4.link p with authTimes := [] }).linkFail p else m4

/-! ## Link states, HELLO and keys -/

/-- FEC_LOCK (R248): training ends, then the FEC locks and HELLO begins. -/
def State.fecLock (m : State) (p : Nat) : State :=
  let st := m.fld (Reg.kp_LSTATE p)
  if m.safe then m
  else if st = LState.train then m.setFld (Reg.kp_LSTATE p) LState.fecLock
  else if st = LState.fecLock then (m.setFld (Reg.kp_LSTATE p) LState.hello).setLink p
    { Link.idle with authTimes := (m.link p).authTimes, keyUse := (m.link p).keyUse, keyWraps := (m.link p).keyWraps }
  else m

/-- The 256 payload bytes of HELLO (R256); T1 is stamped when the flit is sent. -/
def State.helloPayload (m : State) (p : Nat) : List Byte :=
  let w1 := m.nodeId + (b2n (m.flag Reg.krt_VALID)) <<< 31 + p <<< 32 + (m.fld (Reg.kp_WIDTH p)) <<< 38 + (b2n (m.isMetro p)) <<< 40
  leBytes Config.serial.toNat 8 ++ leBytes w1 8 ++ leBytes (windowCells (m.isMetro p)) 8 ++ leBytes 0 8 ++ leBytes (m.link p).peerT1 8 ++
    List.replicate 216 0

/-- A link-local flit (R242, R255). -/
def State.linkLocal (m : State) (op : Nat) (addr : Nat) (payload : List Byte) : Flit :=
  { op := op, vc := 3, src := m.srcId, dst := 0xFFFFF, sstn := 0, hops := 31, flow := 0, tag := 0, psn := 0, len := 7, addr := addr,
    payload := payload }

/-- HELLO_TIMER (R256): HELLO until the peer's has come, and once more. -/
def State.helloTimer (m : State) (p : Nat) : State :=
  let l := m.link p
  if m.fld (Reg.kp_LSTATE p) ≠ LState.hello ∨ m.safe ∨ (l.peerHello ∧ l.helloSent) then m
  else
    let m1 := m.txq p (m.linkLocal Op.hello 0 (m.helloPayload p))
    if l.peerHello then m1.setLink p { m1.link p with helloSent := true } else m1

/-- A link's HELLO exchange agrees: UP, or KEYING on a metro port, whose trusted firmware sends its KEYX (R248, R363). -/
def State.helloDone (m : State) (p : Nat) : State :=
  if m.isMetro p then
    let r := { m with free := m.free + 225 }
    let bs := (List.range 225).map (fun i => Config.freeByte (m.free + i))
    (r.setFld (Reg.kp_LSTATE p) LState.keying).txq p (m.linkLocal Op.fwImg 4 (bs ++ List.replicate 31 0))
  else m.setFld (Reg.kp_LSTATE p) LState.up

/-- The link-level part of a flit that arrives in order: counted, what was asked for is in, and its cells are owed to the
peer where it leaves the receive buffer at once. -/
def State.rxCount (m : State) (p : Nat) (f : Flit) (owe : Bool) : State :=
  let l := m.link p
  let c := flitCells f (m.isMetro p && m.linkUp p)
  (m.setLink p { l with
    rxNext := (l.rxNext + 1) % 2 ^ 32
    discard := false
    nakFor := l.nakFor.filter (fun s => decide (s ≠ l.rxNext))
    held := l.held.filter (fun g => decide (g.lh.seq ≠ l.rxNext))
    owed := if owe then l.owed ++ [(f.vc, c)] else l.owed }).bump (Reg.kp_RX_FLITS p) 1

/-- A flit whose SEQ is beyond the next (R246). Local reach: it is discarded, and the first SEQ lacking is asked for once.
Metro reach: every SEQ lacking before it is asked for once, and the flit waits in the receive ring (R250). -/
def State.rxGap (m : State) (p : Nat) (f : Flit) : State :=
  let l := m.link p
  if !m.isMetro p then
    if l.discard then m
    else
      let l1 : Link := { l with
        discard := true
        nakFor := l.rxNext :: l.nakFor.filter (fun s => decide (s ≠ l.rxNext))
        only := ⟨2, false, 0, 0, l.rxNext, 0, 0⟩ }
      (m.setLink p l1).bump (Reg.kp_NAK_CNT p) 1
  else
    let lack := ((List.range ((f.lh.seq + 2 ^ 32 - l.rxNext) % 2 ^ 32)).map (fun k => (l.rxNext + k) % 2 ^ 32)).filter
      (fun s => decide (s ∉ l.nakFor) && !l.held.any (fun g => decide (g.lh.seq = s)))
    let c := flitCells f (m.linkUp p)
    let m1 := m.setLink p { l with
      nakFor := lack ++ l.nakFor
      only := if lack.isEmpty then l.only else ⟨2, false, 0, 0, lack.getLast?.getD 0, 0, 0⟩ }
    let m2 := if lack.isEmpty then m1 else m1.bump (Reg.kp_NAK_CNT p) lack.length
    if l.held.any (fun g => decide (g.lh.seq = f.lh.seq)) then m2
    else
      let bs := (List.range (16 * c)).map (fun i => Config.freeByte (m.free + i))
      let m3 := { m2 with free := m2.free + 16 * c }.ringBytes p 1 l.rxPos bs
      m3.setLink p { m3.link p with held := l.held ++ [f], rxPos := l.rxPos + c }

/-- An armed injection on a port's receiver fails the flit (R332). -/
def State.rxInject (m : State) (p : Nat) : Option State :=
  if m.injFires (kpPage p) 0 then some ((m.disarm (kpPage p)).failedFlit p (m.link p).rxNext .lcrc true)
  else if m.isMetro p && m.linkUp p && m.injFires (kpPage p) 1 then some ((m.disarm (kpPage p)).failedFlit p (m.link p).rxNext .gcm true)
  else none

/-- A flit arrives on port p (R241, R244, R246): whether it is delivered now. An armed injection fails it; TYPE 5 to 7 is
dropped and counted; on an UP metro link one that is not encrypted under a loaded key fails its tag; its ACK and CRD are
taken; one already received is dropped; one beyond the next SEQ waits or is discarded. owe: it leaves the receive buffer at
once. A flit that waits in the receive ring is delivered by its own command once its turn has come. Under LOOP the port
receives what it sends and nothing else (R274). -/
def State.arrive (m : State) (p : Nat) (f : Flit) (owe : Bool) : State × Bool :=
  if m.flag (Reg.kp_LOOP p) ∧ !(m.link p).window.any (fun s => decide (s.flit = f)) then (m, false)
  else match m.rxInject p with
    | some m1 => (m1, false)
    | none =>
      if 5 ≤ f.lh.typ then (m.bump (Reg.kp_LCRC_ERR p) 1, false)
      else if m.isMetro p ∧ m.linkUp p ∧ !(f.lh.enc && m.slotLoaded p f.lh.key) then (m.failedFlit p f.lh.seq .gcm false, false)
      else
        let m1 := m.credit p f.lh.ack f.lh.crd f.lh.crdVc
        let l := m1.link p
        if f.lh.seq = l.rxNext then (m1.rxCount p f owe, true)
        else if seqBelow f.lh.seq l.rxNext then (m1, false)
        else (m1.rxGap p f, false)

/-- HELLO (R252, R256): the peer's identity and round trip are kept; agreement on width, reach and window brings the link
up. -/
def State.hello (m : State) (p : Nat) (f : Flit) : State :=
  let st := m.fld (Reg.kp_LSTATE p)
  if m.safe ∨ f.op ≠ Op.hello ∨ f.dst % 65536 ≠ 0xFFFF ∨ st < 3 ∨ 5 < st then m
  else
    let r := m.arrive p f true
    if !r.2 then r.1
    else
      let m1 := r.1
      let d := leNat f.payload
      let w (o : Nat) : Nat := bitsOf d (8 * o + 63) (8 * o)
      let m2 := ((m1.setFld (Reg.kp_PEER_SERIAL p) (w 0)).setFld (Reg.kp_PEER_NODE p) (bitsOf (w 8) 19 0)).setFld (Reg.kp_PEER_PORT p) (bitsOf (w 8) 37 32)
      let metro := m.isMetro p
      let rtt := m.now - w 0x20
      let m3 := if w 0x20 = 0 then m2
        else (m2.setFld (Reg.kp_RTT p) (min rtt (2 ^ 32 - 1))).setFlag (Reg.kp_FAR p)
          (decide ((if metro then 1_300_200 else 34_000) < rtt))
      let agree := decide (bitsOf (w 8) 39 38 = m.fld (Reg.kp_WIDTH p)) && (bitOf (w 8) 40 == metro) && decide (w 0x10 % 2 ^ 32 = windowCells metro)
      let l := m3.link p
      let m4 := m3.setLink p { l with peerHello := true, peerMatch := agree, peerT1 := w 0x18 }
      if st ≠ LState.hello then m4
      else if agree then
        let m5 := m4.txq p (m4.linkLocal Op.hello 0 (m4.helloPayload p))
        (m5.setLink p { m5.link p with helloSent := true }).helloDone p
      else m4

/-- A KEYX flit (R357, R363). -/
def isKeyx (f : Flit) : Bool := decide (f.op = Op.fwImg ∧ bitsOf f.addr 2 0 = 4)

/-- A slot holds a new key: its use counts start at 0 (R253, R254). -/
def State.freshKey (m : State) (p k : Nat) : State :=
  let l := m.link p
  m.setLink p { l with keyUse := setAt l.keyUse k 0, keyWraps := setAt l.keyWraps k 0 }

/-- Load a key slot; SALT bit 31 is 0 at the end with the lower SERIAL. -/
def State.loadSlot (m : State) (p k : Nat) (key : BitVec 256) (salt : BitVec 32) : State :=
  let low := decide (Config.serial.toNat < m.fld (Reg.kp_PEER_SERIAL p))
  let s := salt.toNat % 2 ^ 31 + (if low then 0 else 2 ^ 31)
  let m1 := (List.range 4).foldl (fun m i =>
    m.setFld (if k = 0 then Reg.kp_KEY0 p i else Reg.kp_KEY1 p i) (key.toNat >>> (64 * i))) m
  ((m1.setFld (if k = 0 then Reg.kp_SALT0 p else Reg.kp_SALT1 p) s).setFld (Reg.kp_KLOADED p) (m1.fld (Reg.kp_KLOADED p) ||| 2 ^ k)).freshKey p k

/-- KEYX (R363): in KEYING slot 0 is loaded and the link enters UP; on an UP metro link the freed slot is loaded. -/
def State.keyx (m : State) (p : Nat) (f : Flit) (ok : Bool) (key : BitVec 256) (salt : BitVec 32) : State :=
  let st := m.fld (Reg.kp_LSTATE p)
  if m.safe ∨ !isKeyx f ∨ f.dst % 65536 ≠ 0xFFFF ∨ !m.isMetro p ∨ (st ≠ LState.keying ∧ st ≠ LState.up) then m
  else
    let r := m.arrive p f true
    if !r.2 then r.1
    else
      let m1 := r.1
      if !ok then (m1.report { page := kpPage p, code := Code.keyringAuth, master := 0x80 + p, acc := 6, detail := p }).linkFail p
      else if st = LState.keying then
        ((m1.loadSlot p 0 key salt).setFld (Reg.kp_KACT p) 0).setFld (Reg.kp_LSTATE p) LState.up
      else m1.loadSlot p (1 - m1.keySlot p) key salt

/-- KEYX_TMO (R363). -/
def State.keyxTmo (m : State) (p : Nat) : State :=
  if m.fld (Reg.kp_LSTATE p) = LState.keying then
    (m.report { page := kpPage p, code := Code.keyringAuth, master := 0x80 + p, acc := 6, detail := p }).linkFail p
  else m

/-! ## Arrival of a transaction flit -/

/-- The opcodes a receiver knows (R243). -/
def knownOp (op : Nat) : Bool :=
  decide (op ∈ [0x01, 0x02, 0x03, 0x04, 0x05, 0x06, 0x07, 0x08, 0x10, 0x11, 0x18, 0x19, 0x1A, 0x1B, 0x1C, 0x1E, 0x1F])

/-- The flit is for this module (R255, R259). -/
def State.forMe (m : State) (f : Flit) : Bool := decide (m.routeOf f.src f.dst f.flow = .here)

/-- Before NODEID is valid a flit that is not link-local is dropped with NOT_READY, which goes back over its own link (R255). -/
def State.notReady (m : State) (f : Flit) : Bool := !m.flag Reg.krt_VALID && decide (f.dst % 65536 ≠ 0xFFFF)

/-- A flit of opcode op that arrives on port p and is for this module: k is what it does. -/
def State.onFlit (m : State) (p : Nat) (f : Flit) (op : Nat) (k : State → State) : State :=
  if m.safe ∨ !m.linkUp p ∨ f.op ≠ op then m
  else if !m.notReady f ∧ !m.forMe f then m
  else
    let r := m.arrive p f true
    if !r.2 then r.1
    else if m.notReady f then r.1.txq p { r.1.errReply f 7 with dst := 0xFFFFF }
    else k r.1

/-- BAD_OP (R243): an opcode that no rule names, or an FW_IMG kind beyond 4. -/
def State.badOp (m : State) (p : Nat) (f : Flit) : State :=
  if m.safe ∨ !m.linkUp p ∨ (knownOp f.op ∧ !(f.op = Op.fwImg ∧ 4 < bitsOf f.addr 2 0)) then m
  else
    let r := m.arrive p f true
    if !r.2 then r.1
    else (r.1.bump (Reg.kp_BAD_OP p) 1).report { page := kpPage p, code := Code.keyringProto, master := 0x80 + p, acc := 6, detail := p }

def execFlitTransmit (p : Port) (s : State) : Host.Outcome State Fault Refusal := .next (s.flitTransmit p)
def execCredit (p : Port) (ack crd : Nat) (vc : Fin 4) (s : State) : Host.Outcome State Fault Refusal := .next (s.credit p ack crd vc)
def execNak (p : Port) (seq : Nat) (s : State) : Host.Outcome State Fault Refusal := .next (s.nak p seq)
def execFailedFlit (p : Port) (seq : Nat) (why : FlitFail) (s : State) : Host.Outcome State Fault Refusal :=
  .next (s.failedFlit p seq why false)
def execBadOp (p : Port) (f : Flit) (s : State) : Host.Outcome State Fault Refusal := .next (s.badOp p f)
def execReplayTmo (p : Port) (s : State) : Host.Outcome State Fault Refusal := .next (s.replayTmo p)
def execFecLock (p : Port) (s : State) : Host.Outcome State Fault Refusal := .next (s.fecLock p)
def execHelloTimer (p : Port) (s : State) : Host.Outcome State Fault Refusal := .next (s.helloTimer p)
def execHello (p : Port) (f : Flit) (s : State) : Host.Outcome State Fault Refusal := .next (s.hello p f)
def execKeyx (p : Port) (f : Flit) (ok : Bool) (key : BitVec 256) (salt : BitVec 32) (s : State) : Host.Outcome State Fault Refusal :=
  .next (s.keyx p f ok key salt)
def execKeyxTmo (p : Port) (s : State) : Host.Outcome State Fault Refusal := .next (s.keyxTmo p)

end Sys2Proof.Machine
end

