-- ==== Sys2Proof/Machine/Fabric.lean ====
section
/-! DEFINITION. Keyring transactions (R257 to R263): the target's side of WR, RD, TAGW and CNT_ADD, the requester's side of
their answers, and the forwarding of other modules' flits. -/

namespace Sys2Proof.Machine

/-- A request of another node is served by the station that owns the address and answered; while its access holds (R221,
R224), or its flit is not this module's to serve, it is served later. -/
def State.wrFlit (m : State) (p : Nat) (f : Flit) : State :=
  if m.forMe f ∧ m.reqHeld f then m
  else m.onFlit p f Op.wr fun m =>
    let r := m.serveWr (0x80 + p) f
    r.1.respond p f r.2

/-- RD (R261). -/
def State.rdFlit (m : State) (p : Nat) (f : Flit) : State :=
  if m.forMe f ∧ m.reqHeld f then m
  else m.onFlit p f Op.rd fun m =>
    let r := m.serveRd (0x80 + p) f
    r.1.respond p f r.2

/-- The outstanding request a response answers. -/
def State.reqOf (m : State) (f : Flit) (write : Bool) : Option Req :=
  m.reqs.find? (fun r => decide (r.tag = f.tag ∧ r.node = f.src ∧ r.write = write))

def State.dropReq (m : State) (r : Req) : State := { m with reqs := m.reqs.erase r }

/-- RD_RSP (R261): the data of an LDT, or a piece an item reads ahead. -/
def State.rdRspFlit (m : State) (p : Nat) (f : Flit) : State :=
  m.onFlit p f Op.rdRsp fun m =>
    match m.reqOf f false with
    | none => m
    | some r =>
      let m1 := m.dropReq r
      match r.xfer with
      | none => m1.reqFreed none
      | some (i, off) => match m1.xfer? i with
        | none => (m1.pieceIn i (off / 256) (f.payload.take 256) f.psn).reqFreed none
        | some x => (m1.xferData x r f.payload f.psn).reqFreed (some i)

/-- A request of a transfer is answered: its tag is free, and more requests can go. -/
def State.ackXfer (m : State) (r : Req) : State :=
  match r.xfer with
  | none => m.reqFreed none
  | some (i, _) => match m.xfer? i with
    | none => m.reqFreed none
    | some x => (m.setXfer { x with tags := x.tags.filter (fun t => decide (t ≠ r.tag)) }).reqFreed (some i)

/-- WR_ACK (R261). -/
def State.wrAckFlit (m : State) (p : Nat) (f : Flit) : State :=
  m.onFlit p f Op.wrAck fun m =>
    match m.reqOf f true with
    | none => m
    | some r => (m.dropReq r).ackXfer r

/-- The request an ERR_RSP ends: one of its tag to the node it comes from; from a router on the way, which answers NO_ROUTE
or HOPS, or link-local, the oldest of its tag that left by the port it came in by. -/
def State.errOf (m : State) (p : Nat) (f : Flit) : Option Req :=
  match m.reqs.find? (fun r => decide (r.tag = f.tag ∧ r.node = f.src)) with
  | some r => some r
  | none => m.reqs.find? (fun r => decide (r.tag = f.tag ∧ r.port = p))

/-- ERR_RSP (R263): it ends a relayed request, or one of this module's own; that of a TAGW or CNT_ADD, which nothing waits
for, is recorded as the KRT's. -/
def State.errRspFlit (m : State) (p : Nat) (f : Flit) : State :=
  m.onFlit p f Op.errRsp fun m =>
    match m.relays.find? (fun (r : Relay) => decide (r.port = p ∧ r.tag = f.tag ∧ f.dst % 65536 = 0xFFFF)) with
    | some r => { m with relays := m.relays.erase r }.respond r.from_ r.flit (m.errReply r.flit (bitsOf f.addr 7 0))
    | none =>
      if f.tag = plainTag then m.report { page := 0x84, code := Code.access, stn := some f.sstn, acc := 1 }
      else match m.errOf p f with
        | none => m
        | some r => m.reqEnds r (bitsOf f.addr 7 0)

/-- REQ_TMO (R263): no response within KRT_REQ_TMO. -/
def State.reqTimeout (m : State) (node t : Nat) : State :=
  match m.reqs.find? (fun r => decide (r.tag = t ∧ r.node = node)) with
  | none => m
  | some r => m.reqEnds r 6

/-- The tag a TAGW flit carries for its block k. -/
def tagwTag (f : Flit) (k : Nat) : Nat := leNat ((f.payload.drop (8 * k)).take 8)

/-- One block of a TAGW at its target: the tag is checked against the block's bytes and stored as received (R303). -/
def State.tagwBlock (m : State) (p n a t : Nat) (glitch : Bool) : State :=
  let r := m.tagCheck n (kpPage p) 2 (0x80 + p) a t (m.bytes a 4096) none glitch
  let m1 := r.2.setTag a t
  if r.1 then m1.putPsn a 4096 (fun _ _ => true) else m1

/-- TAGW (R243, R302, R303): the tags of (LEN + 1)·4 blocks from ADDR; a zero tag leaves its block as it is. -/
def State.tagwFlit (m : State) (p : Nat) (f : Flit) (glitch : Bool) : State :=
  m.onFlit p f Op.tagw fun m =>
    let a0 := f.addr / 4096 * 4096
    let ks := (List.range (4 * (f.len + 1))).filter (fun k => decide (tagwTag f k ≠ 0))
    match ks.findSome? (fun k => match m.servedBy (a0 + 4096 * k) 4096 with
        | .stn _ => none
        | x => some x) with
    | some x => (let r := m.refuseReq (0x80 + p) f 1 x; r.1.respond p f r.2)
    | none => ks.foldl (fun m k => match m.servedBy (a0 + 4096 * k) 4096 with
        | .stn n => m.tagwBlock p n (a0 + 4096 * k) (tagwTag f k) (glitch && decide (ks.head? = some k))
        | _ => m) m

/-- CNT_ADD (R262, R278, R279). -/
def State.cntAddFlitIn (m : State) (p : Nat) (f : Flit) : State :=
  m.onFlit p f Op.cntAdd fun m =>
    let r := m.serveCnt (0x80 + p) f
    match r.2 with
    | some y => r.1.respond p f y
    | none => r.1

/-! ## Forwarding (R259, R260) -/

/-- The requester of a dropped request learns of it (R259). -/
def State.dropFlit (m : State) (f : Flit) (ecode : Nat) : State :=
  if f.op ∈ [Op.wr, Op.rd, Op.cntAdd, Op.tagw, Op.mgmtRd, Op.mgmtWr, Op.mgmtRelay] then (m.sendFlit (m.errReply f ecode)).1 else m

/-- A 1588 message that passes through collects the delay of the link it came by, and from here on the time it stands in
this module (R272). -/
def State.transit (m : State) (p : Nat) (f : Flit) : Flit :=
  if f.op = Op.ptp then { f with payload := ptpAdd f.payload ((m.link p).pdelay - (m.now : Int)) } else f

/-- FORWARD: a flit for another node. It stands in port p's receive buffer until its output has sent it (R244). -/
def State.forward (m : State) (p : Nat) (f : Flit) : State :=
  if m.safe ∨ !m.linkUp p ∨ (m.forMe f ∧ !m.notReady f) then m
  else
    let r := m.arrive p f false
    let c := flitCells f (m.isMetro p)
    let m1 := r.1
    if !r.2 then m1
    else if m.notReady f then (m1.owe p f.vc c).txq p { m1.errReply f 7 with dst := 0xFFFFF }
    else match m1.routeOf f.src f.dst f.flow with
      | .here => m1.owe p f.vc c
      | .noRoute => (((m1.owe p f.vc c).bump Reg.krt_NOROUTE 1)).dropFlit f 1
      | .port x =>
        if f.hops ≤ 1 then (m1.owe p f.vc c).dropFlit f 4
        else (m1.txq x { m1.transit p f with hops := f.hops - 1, lh := LinkHdr.zero, inp := some (p, c) }).bump Reg.krt_FWD_FLITS 1

/-- FWD_TMO (R260): the flit held longest at an output is dropped; its requester sees TIMEOUT. -/
def State.fwdTimeout (m : State) (p : Nat) : State :=
  let l := m.link p
  match l.txq with
  | [] => m
  | f :: rest => ((m.setLink p { l with txq := rest }).oweFor f).bump Reg.krt_FWD_DROP 1

def execWr (p : Port) (f : Flit) (s : State) : Host.Outcome State Fault Refusal := .next (s.wrFlit p f).landed
def execRd (p : Port) (f : Flit) (s : State) : Host.Outcome State Fault Refusal := .next (s.rdFlit p f).landed
def execRdRsp (p : Port) (f : Flit) (s : State) : Host.Outcome State Fault Refusal := .next (s.rdRspFlit p f).landed
def execWrAck (p : Port) (f : Flit) (s : State) : Host.Outcome State Fault Refusal := .next (s.wrAckFlit p f).landed
def execErrRsp (p : Port) (f : Flit) (s : State) : Host.Outcome State Fault Refusal := .next (s.errRspFlit p f).landed
def execTagw (p : Port) (f : Flit) (glitch : Bool) (s : State) : Host.Outcome State Fault Refusal := .next (s.tagwFlit p f glitch).landed
def execCntAdd (p : Port) (f : Flit) (s : State) : Host.Outcome State Fault Refusal := .next (s.cntAddFlitIn p f)
def execForward (p : Port) (f : Flit) (s : State) : Host.Outcome State Fault Refusal := .next (s.forward p f)
def execFwdTmo (p : Port) (s : State) : Host.Outcome State Fault Refusal := .next (s.fwdTimeout p)
def execReqTmo (t : ReqKey) (s : State) : Host.Outcome State Fault Refusal := .next (s.reqTimeout t.node t.tag).landed

end Sys2Proof.Machine
end

