-- ==== Sys2Proof/Machine/Tumbler.lean ====
section
/-! DEFINITION. The Tumbler's own commands (R277 to R289): watches of cores, notifications, barrier messages, stalls, and
what the register writes GO, ENTER and EN do. -/

namespace Sys2Proof.Machine

/-- GO of station n's WREG (R281, R282): a watch for a core of the station. -/
def State.wregGo (m : State) (master n : Nat) : State :=
  let ctr := m.fld (Reg.tmb_CTR n)
  let core := m.fld (Reg.tmb_CORE n)
  if m.coreStn core ≠ some n ∨ m.ctrNum n ≤ ctr then
    m.access 3 master (some n) 1 (0xF00_0000_0000 + (Reg.tmb_GO n).off)
  else match m.freeWatch n with
    | none => m.setFlag (Reg.tmb_WFULL n) true
    | some w =>
      m.addWatch w ⟨n, m.ctrBase n + ctr, m.fld (Reg.tmb_CMP n), m.fld (Reg.tmb_VAL n), .core n core (m.fld (Reg.tmb_COOKIE n)), m.fld (Reg.tmb_TMO n)⟩

/-- WATCH_TMO (R281): a core watch's limit expires. -/
def State.watchTimeout (m : State) (w : Nat) : State :=
  match m.watch w with
  | some x => (match x.target with
    | .core n c cookie => if x.tmo = 0 then m else (m.setWatch w none).ringPut n cookie 2 (some c)
    | _ => m)
  | none => m

/-- A TWT that waited goes on (R281). -/
def State.seqResume (m : State) (n q : Nat) : State := (m.setHold n q none).advance n q true

/-- Every sequencer of station n held at barrier b for a phase that has been released goes on (R283). -/
def State.barResume (m : State) (n b : Nat) : State :=
  ((m.heldAt b).filter (fun h => decide (h.1 = n) && (!h.2.2.1 || h.2.2.2))).foldl (fun m h => m.seqResume n h.2.1) m

/-- NOTIFICATION (R281): the oldest notification in flight reaches its target. -/
def State.notification (m : State) : State :=
  match m.notes with
  | [] => m
  | x :: rest =>
    let m1 := { m with notes := rest }
    match x.target with
    | .seq n q w =>
      if w < 1024 then (if m1.hold n q = some (.watch w) then m1.seqResume n q else m1)
      else m1.barResume n (w - 1024)
    | .tongs d s => m1.tongNotified d s
    | .mortar d => (match m1.mortarNotified d with
      | some m2 => m2
      | none =>
        let m2 := match (m1.mortar d).run with
          | some s => m1.askAll s.id s.q.stn (0x28 + d) (m1.evalRanges s.id s.f)
          | none => m1
        { m2 with notes := m2.notes ++ [x] })
    | .core n c cookie => m1.ringPut n cookie x.result (if c < 16 then some c else none)

/-! ## Barriers -/

/-- A write of EN = 1 of barrier b (R286); the register's other fields are written already. -/
def State.barEnable (m : State) (master b : Nat) : State :=
  if m.flag (Reg.tmb_EN b) then m
  else if (m.barStn b).isNone ∨ m.barRefused b (m.fld (Reg.tmb_GROUP b)) (m.fld (Reg.tmb_BTAG b)) then
    m.access 3 master (m.barStn b) 1 (0xF00_0000_0000 + (Reg.tmb_EN b).off)
  else (m.mapPassed (m.barGroup b)).setFlag (Reg.tmb_EN b) true

/-- ENTER by a core or the host (R284). -/
def State.enter (m : State) (b : Nat) (who : Master) : State :=
  let drop (m : State) : State :=
    m.access 3 (mid who) (m.barStn b) 1 (0xF00_0000_0000 + (Reg.tmb_ENTER b).off)
  let core : Option Nat := match who with
    | .core c => some c.val
    | _ => none
  match m.entryAt b with
  | .disabled => drop m
  | .overrun => m.overrun b (mid who)
  | e =>
    let m1 := m.countEntry b e
    State.barStep 64 b { m1 with entrants := m1.entrants ++ [⟨b, decide (e = .next), core⟩] }

/-- ARRIVE (R283, R285). -/
def State.arriveFlit (m : State) (p : Nat) (f : Flit) : State :=
  if f.addr % 4 = 1 then m
  else m.onFlit p f Op.tmbMsg fun m =>
    if 2 ≤ f.addr % 4 then m
    else match m.barTarget f 0 with
    | none => m.barProto p
    | some b => State.barStep 64 b (m.setFld (Reg.tmb_KIDS b) (m.fld (Reg.tmb_KIDS b) + 1))

/-- RELEASE (R283, R285): children first, then here. -/
def State.releaseFlit (m : State) (p : Nat) (f : Flit) : State :=
  if f.addr % 4 = 0 then m
  else m.onFlit p f Op.tmbMsg fun m =>
    if 2 ≤ f.addr % 4 then m
    else match m.barTarget f 1 with
    | none => m.barProto p
    | some b =>
      let g := m.group (m.barGroup b)
      State.barStep 64 b (((kids g.p g.rank).foldl (fun m c => m.sendBar b 1 c) m).releaseLocal b)

/-- BTMO (R287): a phase that has begun stays incomplete. -/
def State.barStall (m : State) (b : Nat) : State :=
  if m.flag (Reg.tmb_EN b) ∧ m.fld (Reg.tmb_BTMO b) ≠ 0 ∧ (m.fld (Reg.tmb_ARR b) ≠ 0 ∨ m.fld (Reg.tmb_KIDS b) ≠ 0) then
    (m.setFlag (Reg.tmb_STALL b) true).report { page := 3, code := Code.barrierStall, stn := m.barStn b, acc := 6 }
  else m

def execWatchTmo (w : Fin 1024) (s : State) : Host.Outcome State Fault Refusal := .next (s.watchTimeout w)
def execNotification (s : State) : Host.Outcome State Fault Refusal := .next s.notification
def execArrive (p : Port) (f : Flit) (s : State) : Host.Outcome State Fault Refusal := .next (s.arriveFlit p f)
def execRelease (p : Port) (f : Flit) (s : State) : Host.Outcome State Fault Refusal := .next (s.releaseFlit p f)
def execBtmo (b : Fin 256) (s : State) : Host.Outcome State Fault Refusal := .next (s.barStall b)

end Sys2Proof.Machine
end

