-- ==== Sys2Proof/Machine/Collective.lean ====
section
/-! DEFINITION. Collectives (R264 to R271, R338): the streams each kind exchanges, the additions and their order, PERMUTE
with its journal and its barrier, and the digest scan (R341). -/

namespace Sys2Proof.Machine

/-- Fields of a collective descriptor (R265). -/
structure CollF where
  kind : Nat
  group : Nat
  efmt : Nat
  allres : Bool
  seg : Nat
  nreg : Nat
  count : Nat
  src : Nat
  dst : Nat
  shdw : Nat
  ptab : Nat
  stage : Nat
  jrnl : Nat
  stageBytes : Nat
  deriving DecidableEq, Repr

def collF (d : Nat) : CollF :=
  let dw (o : Nat) : Nat := bitsOf d (8 * o + 63) (8 * o)
  { kind := bitsOf d 2 0, group := bitsOf d 14 3, efmt := bitsOf d 17 15, allres := bitOf d 18, seg := bitsOf d 24 19,
    nreg := bitsOf d 28 25, count := bitsOf (dw 0x08) 47 0, src := dw 0x10, dst := dw 0x18, shdw := dw 0x20, ptab := dw 0x28,
    stage := dw 0x30, jrnl := dw 0x38, stageBytes := dw 0x40 }

def Coll.f (c : Coll) : CollF := collF c.d

/-- Bytes of an element; SUMSQ carries its value and its flags. -/
def CollF.eb (f : CollF) : Nat :=
  if f.kind = 4 then 16 else match f.efmt with
    | 0 => 4
    | 2 => 4
    | 4 => 2
    | _ => 8

/-- ORDERED_REDUCE and SUMSQ go along the chain; the others around the ring. -/
def CollF.chain (f : CollF) : Bool := decide (f.kind = 1 ∨ f.kind = 4)

/-- Elements of the vector, and segments of a unit. -/
def CollF.n (f : CollF) : Nat := if f.kind = 4 then 1 else f.count
def CollF.segs (f : CollF) : Nat := if f.kind = 4 then 1 else f.seg

/-! ## Units and streams (R267, R268) -/

/-- Elements of chunk c: the whole vector on a chain. -/
def Coll.chunk (c : Coll) (k : Nat) : Nat × Nat :=
  let n := c.f.n
  if c.f.chain then (0, n)
  else
    let z := (n + c.p - 1) / max 1 c.p
    (min n (k * z), min n ((k + 1) * z))

/-- Elements of segment i of chunk k. -/
def Coll.segOf (c : Coll) (k i : Nat) : Nat × Nat :=
  let b := c.chunk k
  let z := (b.2 - b.1 + c.f.segs - 1) / max 1 c.f.segs
  (min b.2 (b.1 + i * z), min b.2 (b.1 + (i + 1) * z))

/-- Chunks this member receives in a phase, in order: phase 0 reduces, phase 1 gathers or broadcasts. -/
def Coll.units (c : Coll) (phase : Nat) : List Nat :=
  let f := c.f
  if f.chain then
    if phase = 0 then (if c.rank = 0 then [] else [0])
    else if f.allres ∧ c.rank + 1 < c.p then [0] else []
  else if phase = 0 then
    (if f.kind = 3 then [] else (List.range (c.p - 1)).map (fun k => (c.rank + c.p - (k + 2) % c.p) % c.p))
  else if f.kind = 2 then [] else (List.range (c.p - 1)).map (fun k => (c.rank + c.p - (k + 1)) % c.p)

/-- Whole 4 KiB blocks of a segment, counted from its chunk's first byte: first and count. -/
def Coll.segBlocks (c : Coll) (k i : Nat) : Nat × Nat :=
  let b := (c.chunk k).1
  let s := c.segOf k i
  let lo := ((s.1 - b) * c.f.eb + 4095) / 4096
  (lo, (s.2 - b) * c.f.eb / 4096 - lo)

/-- Data flits and tag flits of a segment; only ALLGATHER carries tags. -/
def Coll.segFlits (c : Coll) (k i : Nat) : Nat × Nat :=
  let s := c.segOf k i
  (((s.2 - s.1) * c.f.eb + 255) / 256, if c.f.kind = 3 then ((c.segBlocks k i).2 + 31) / 32 else 0)

/-- Flits of stream (phase, flow i) that this member receives. -/
def Coll.streamLen (c : Coll) (phase i : Nat) : Nat :=
  ((c.units phase).map (fun k => (c.segFlits k i).1 + (c.segFlits k i).2)).sum

/-- Where flit j of a stream belongs: chunk, flit within the segment, and whether it carries tags. -/
def Coll.place (c : Coll) (i : Nat) : List Nat → Nat → Option (Nat × Nat × Bool)
  | [], _ => none
  | k :: ks, j =>
    let s := c.segFlits k i
    if j < s.1 then some (k, j, false)
    else if j < s.1 + s.2 then some (k, j - s.1, true)
    else Coll.place c i ks (j - s.1 - s.2)

/-- Everything this member is to receive has come. -/
def Coll.complete (c : Coll) : Bool :=
  (List.range c.f.segs).all (fun i => (List.range 2).all (fun ph =>
    decide (c.streamLen ph i ≤ c.got.get (fun _ => 0) (64 * ph + i))))

/-! ## Elements -/

def State.setColl (m : State) (c : Coll) : State :=
  { m with colls := m.colls.map (fun (x : Coll) => if x.id = c.id then c else x) }

def State.coll? (m : State) (i : Nat) : Option Coll := m.colls.find? (fun c => decide (c.id = i))

/-- The member's own contribution to element e. -/
def State.collOwn (m : State) (c : Coll) (e : Nat) : Nat × Bool :=
  let f := c.f
  if f.kind = 4 then (c.val, bitOf c.val 65)
  else
    let base := if f.kind = 3 then (c.chunk c.rank).1 else 0
    let b := m.gbytes c.id (f.src + f.eb * (e - base)) f.eb
    (leNat b.1, b.2)

/-- One addition (R266, R269). -/
def CollF.add (f : CollF) (a b : Nat) : Nat × Flags :=
  if f.kind = 4 then
    let r := Arith.f64.add (a % 2 ^ 64) (b % 2 ^ 64)
    (r.1 + ((a >>> 64) ||| (b >>> 64) ||| b2n r.2.nv) <<< 64, r.2)
  else match f.efmt with
    | 0 => Arith.f32.add a b
    | 1 => Arith.f64.add a b
    | 2 => keepInt 32 true (signedOf a 32 + signedOf b 32)
    | _ => keepInt 64 true (signedOf a 64 + signedOf b 64)

/-- Bytes of elements, and the poison bits of their 64-byte quarters. -/
def elemBytes (eb : Nat) (vs : List (Nat × Bool)) : List Byte := vs.flatMap (fun v => leBytes v.1 eb)
def quarterBits (eb : Nat) (vs : List (Nat × Bool)) : Nat :=
  ((List.range 4).map (fun j => b2n (((vs.drop (64 * j / eb)).take (64 / eb)).any Prod.snd) <<< j)).sum

/-- ADDR of a collective's flits (R243): GROUP, CSEQ, and in KIND the kind, a phase bit and whether the payload is tags. -/
def Coll.addr (c : Coll) (phase : Nat) (tags : Bool) : Nat :=
  c.f.group + (c.cseq % 2 ^ 24) <<< 12 + (c.f.kind + phase <<< 3 + b2n tags <<< 4) <<< 36

/-- COLL_DATA of a collective to a rank (R243). -/
def State.sendColl (m : State) (c : Coll) (rank phase flow : Nat) (tags : Bool) (eb : Nat) (vs : List (Nat × Bool)) : State :=
  let bs := pad32 (elemBytes eb vs)
  let addr := c.addr phase tags
  let fl := m.mkFlit Op.collData 2 (c.nodes.getD rank 0) c.q.stn flow 0 (bs.length / 32 - 1) addr bs
  (m.sendFlit { fl with psn := quarterBits eb vs }).1

/-- Send a run of elements as flits of 256 bytes. -/
def State.sendRun (m : State) (c : Coll) (rank phase flow : Nat) (vs : List (Nat × Bool)) : State :=
  let k := 256 / c.f.eb
  (List.range ((vs.length + k - 1) / k)).foldl (fun m j => m.sendColl c rank phase flow false c.f.eb ((vs.drop (k * j)).take k)) m

/-- Tags of a segment's whole blocks, from this member's memory at a byte address of the chunk. -/
def State.sendTags (m : State) (c : Coll) (rank flow k base : Nat) : State :=
  let b := c.segBlocks k flow
  let tags := (List.range b.2).map (fun j =>
    let a := base + 4096 * (b.1 + j)
    (if gNode a = m.nodeId ∧ gLocal a % 4096 = 0 then m.tag (gLocal a) else 0, false))
  (List.range ((tags.length + 31) / 32)).foldl (fun m j => m.sendColl c rank 1 flow true 8 ((tags.drop (32 * j)).take 32)) m

/-- Send a chunk this member starts: its own elements, segment by segment, and on ALLGATHER their tags. -/
def State.sendChunk (m : State) (c : Coll) (rank phase k : Nat) : State :=
  (List.range c.f.segs).foldl (fun m i =>
    let s := c.segOf k i
    let m1 := m.sendRun c rank phase i ((List.range (s.2 - s.1)).map (fun e => m.collOwn c (s.1 + e)))
    if c.f.kind = 3 then m1.sendTags c rank i k c.f.src else m1) m

/-! ## Results -/

/-- First element that DST holds: REDUCE_SCATTER's DST holds the member's chunk alone. -/
def Coll.dstBase (c : Coll) : Nat := if c.f.kind = 2 then (c.chunk c.rank).1 else 0

/-- Write result elements from element e on, to DST and, on a gather with a shadow, the ward's chunk to SHDW (R338). -/
def State.collPut (m : State) (c : Coll) (e : Nat) (vs : List (Nat × Bool)) (ward : Bool) : State :=
  let f := c.f
  let bs := elemBytes f.eb vs
  let p (k n : Nat) : Bool := ((vs.drop (k / f.eb)).take ((k + n - 1) / f.eb + 1 - k / f.eb)).any Prod.snd
  let m1 :=
    let g := f.dst + f.eb * (e - c.dstBase)
    if gNode g = m.nodeId then m.store c.q.stn (gLocal g) bs p 1 else m.gsend c.id c.q.stn 0x84 g bs p
  if ward then m1.store c.q.stn (gLocal f.shdw + f.eb * (e - (c.chunk ((c.rank + c.p - (c.p + 1) / 2) % c.p)).1)) bs p 1 else m1

/-- The chunk of this member's ward (R337). -/
def Coll.isWard (c : Coll) (k : Nat) : Bool := decide (c.f.kind = 3 ∧ c.f.shdw ≠ 0 ∧ k = (c.rank + c.p - (c.p + 1) / 2) % c.p)

/-- What happened to elements goes into the collective's status. -/
def Coll.note (c : Coll) (n : Nat) (fl : Flags) (psn : Bool) : Coll :=
  { c with done := c.done + n, flags := c.flags.or fl, psn := c.psn || psn }

/-- A collective with nothing left to receive has its result. -/
def State.collCheck (m : State) (i : Nat) : State :=
  match m.coll? i with
  | some c => if c.code = 0 ∧ c.started ∧ c.f.kind ≠ 5 ∧ c.complete then m.setColl { c with code := 1 } else m
  | none => m

/-! ## Starting (R264, R265) -/

/-- Ranges a collective reads or writes at its SRC and DST. -/
def Coll.ranges (c : Coll) : List (Nat × Nat) × List (Nat × Nat) :=
  let f := c.f
  let own := c.chunk c.rank
  let len := f.eb * f.n
  match f.kind with
  | 0 => ([(f.src, len)], [(f.dst, len)])
  | 1 => ([(f.src, len)], if f.allres ∨ c.rank + 1 = c.p then [(f.dst, len)] else [])
  | 2 => ([(f.src, len)], [(f.dst, f.eb * (own.2 - own.1))])
  | 3 => ([(f.src, f.eb * (own.2 - own.1))], [(f.dst, len)])
  | 4 => ([], if f.allres ∨ c.rank + 1 = c.p then [(f.dst, 16)] else [])
  | _ => ([(f.ptab, 24 * f.count)], [(f.stage, f.stageBytes), (f.jrnl, 32)])

/-- Absolute number of a collective's group entry. -/
def State.collEntry (m : State) (c : Coll) : Nat := m.fld (Reg.krt_GBASE c.q.stn) + c.f.group

/-- Checks at the start: 0, or BADDESC or RANGE. STAGE receives flits of other members, so it is this module's own. -/
def State.collCode (m : State) (c : Coll) : Nat :=
  let f := c.f
  let n := c.q.stn
  let g := m.group (m.collEntry c)
  let r := c.ranges
  let w := c.chunk ((c.rank + c.p - (c.p + 1) / 2) % max 1 c.p)
  if 6 ≤ f.kind ∨ (5 ≤ f.efmt) ∨ (f.efmt = 4 ∧ f.kind ≠ 3 ∧ f.kind ≠ 5) ∨ f.seg = 0 ∨ 32 < f.seg ∨ m.fld (Reg.krt_GNUM n) ≤ f.group ∨ g.stn ≠ n then 2
  else if !m.inHbmRange n g.list (4 * g.p) ∨ !m.inHbmRange n g.map (4 * g.p) then 3
  else if m.mapFails (m.collEntry c) then 2
  else if f.kind = 3 ∧ f.shdw ≠ 0 ∧ (c.p = 1 ∨ gNode f.shdw ≠ m.nodeId) then 2
  else if !(nonempty r.1).all (fun x => m.gOk n x.1 x.2 false) ∨ !(nonempty r.2).all (fun x => m.gOk n x.1 x.2 true) then 3
  else if f.kind = 5 ∧ 0 < f.count ∧ gNode f.stage ≠ m.nodeId then 3
  else if f.kind = 3 ∧ f.shdw ≠ 0 ∧ w.1 < w.2 ∧ !m.inHbmRange n (gLocal f.shdw) (f.eb * (w.2 - w.1)) then 3
  else 0

/-- The oldest queued collective of a station, when none of the station runs and it is of kind k. -/
def State.collNext (m : State) (n k : Nat) : Option Coll :=
  match m.colls.filter (fun c => decide (c.q.stn = n)) with
  | [] => none
  | c :: _ =>
    if c.started then none
    else
      let ok := decide (m.check (some n) c.q.addr 128 false = .ok)
      let d := if ok then leNat (m.seen c.q.addr 128) else 0
      if ok ∧ d % 8 ≠ k ∧ d % 8 < 6 then none
      else
        let g := m.group (m.fld (Reg.krt_GBASE n) + bitsOf d 14 3)
        some { c with d := d, p := g.p, rank := g.rank, nodes := (List.range g.p).map (m.rankNode g), code := if ok then 0 else 3 }

/-- The whole HBM blocks of a contribution that goes to other members join the DIGEST with their tags (R312). -/
def State.collDigest (m : State) (c : Coll) : State :=
  if c.p ≤ 1 ∨ 4 ≤ c.f.kind then m
  else c.ranges.1.foldl (fun m r =>
    let a := gLocal r.1
    if gNode r.1 ≠ m.nodeId ∨ !isHbm a then m
    else
      let lo := (a + 4095) / 4096
      (List.range ((a + r.2) / 4096 - lo)).foldl (fun m k =>
        m.digestAdd c.q.stn (m.rangeOff c.q.stn (4096 * (lo + k))) (m.tag (4096 * (lo + k)))) m) m

/-- A started collective that fails at once keeps its code for COLLECTIVE_DONE. -/
def State.collBegin (m : State) (n k : Nat) (go : State → Coll → State) : State :=
  if m.safe ∨ m.inReset n then m
  else match m.collNext n k with
    | none => m
    | some c =>
      let code := if c.code ≠ 0 then c.code else m.collCode c
      if m.memHeld n c.q.addr 128 then m
      else if code ≠ 0 then m.setColl { c with started := true, code := code }
      else if !m.ready c.id (nonempty c.ranges.1) then m.askAll c.id n 0x84 (nonempty c.ranges.1)
      else if m.anyHeld n (nonempty (c.ranges.1 ++ c.ranges.2)) then m
      else
        let e := m.collEntry c
        let k := m.grpSeq.get (fun _ => 0) e
        let m1 := ((m.mapPassed e).touch n c.q.addr 128 false 1).touchAll n 1 (nonempty c.ranges.1)
        let c1 := { c with started := true, cseq := k }
        (go (({ m1 with grpSeq := m1.grpSeq.set (fun _ => 0) e (k + 1) }.collDigest c1).setColl c1) c1).collCheck c.id

/-- The member's elements are the result already (a group of one). -/
def State.collSelf (m : State) (c : Coll) : State :=
  let vs := (List.range c.f.n).map (m.collOwn c)
  (m.collPut c 0 vs false).setColl (c.note c.f.n .none (vs.any Prod.snd))

/-- ALLREDUCE and REDUCE_SCATTER begin with the chunk of the rank before (R268). -/
def State.ringBegin (m : State) (c : Coll) : State :=
  if c.p = 1 then m.collSelf c else m.sendChunk c ((c.rank + 1) % c.p) 0 ((c.rank + c.p - 1) % c.p)

/-- ORDERED_REDUCE and SUMSQ begin at rank 0 (R267). -/
def State.chainBegin (m : State) (c : Coll) : State :=
  if c.p = 1 then m.collSelf c else if c.rank = 0 then m.sendChunk c 1 0 0 else m

/-- ALLGATHER: the own chunk goes into place with its tags, and around the ring. -/
def State.gatherBegin (m : State) (c : Coll) : State :=
  let b := c.chunk c.rank
  let vs := (List.range (b.2 - b.1)).map (fun e => m.collOwn c (b.1 + e))
  let m1 := m.collPut c b.1 vs false
  let blocks := (b.2 - b.1) * c.f.eb / 4096
  let d := c.f.dst + c.f.eb * b.1
  let m2 := (List.range blocks).foldl (fun m k =>
    let s := c.f.src + 4096 * k
    let t := if gNode s = m.nodeId ∧ gLocal s % 4096 = 0 then m.tag (gLocal s) else 0
    if gNode d = m.nodeId ∧ (gLocal d + 4096 * k) % 4096 = 0 ∧ t ≠ 0 then m.setTag (gLocal d + 4096 * k) t else m) m1
  let m3 := m2.setColl (c.note (b.2 - b.1) .none (vs.any Prod.snd))
  if c.p = 1 then m3 else m3.sendChunk c ((c.rank + 1) % c.p) 1 c.rank

/-- SUMSQ's own value (R269): ((a0 + a1) + a2) + a3 of NREG, with NV and POISON. -/
def State.sumsqVal (m : State) (n reg : Nat) : Nat :=
  let a (q : Nat) : Nat := m.fld (Reg.ldl_NORM q n reg)
  let s1 := Arith.f64.add (a 0) (a 1)
  let s2 := Arith.f64.add s1.1 (a 2)
  let s3 := Arith.f64.add s2.1 (a 3)
  let nv := (List.range 4).any (fun q => m.flag (Reg.ldl_NORM_NV q n reg)) || s1.2.nv || s2.2.nv || s3.2.nv
  let ps := (List.range 4).any (fun q => m.flag (Reg.ldl_NORM_PSN q n reg))
  s3.1 + (b2n nv) <<< 64 + (b2n ps) <<< 65

/-- The accumulators of NREG are not in use (R149). -/
def State.normFree (m : State) (n reg : Nat) : Bool :=
  m.gops.all (fun g => decide (g.stn ≠ n) || !g.granted || (m.normsOf g).all (fun r => decide (r.2 ≠ reg))) &&
  m.norms.all (fun j => decide (j.stn ≠ n) || j.regs.all (fun r => decide (r.2 ≠ reg)))

/-! ## COLL_DATA (R266 to R268) -/

/-- Elements of a data flit: values with the poison of their quarter. -/
def flitElems (f : Flit) (eb n : Nat) : List (Nat × Bool) :=
  (List.range n).map (fun k => (leNat ((f.payload.drop (eb * k)).take eb), f.psn.testBit (eb * k / 64)))

/-- A data flit of a stream: elements from e on, of chunk k. -/
def State.collData (m : State) (c : Coll) (phase flow k e : Nat) (vs : List (Nat × Bool)) : State :=
  let f := c.f
  if phase = 0 then
    let rs := vs.zipIdx.map (fun v =>
      let o := m.collOwn c (e + v.2)
      let r := f.add v.1.1 o.1
      ((r.1, v.1.2 || o.2), r.2))
    let out := rs.map Prod.fst
    let fl := rs.foldl (fun a r => a.or r.2) .none
    let last := if f.chain then decide (c.rank + 1 = c.p) else decide (k = c.rank)
    if !last then (m.setColl (c.note 0 fl false)).sendRun c ((c.rank + 1) % c.p) 0 flow out
    else
      let m1 := (m.collPut c e out false).setColl (c.note out.length fl (out.any Prod.snd))
      if f.chain then (if f.allres ∧ 1 < c.p then m1.sendRun c (c.rank - 1) 1 flow out else m1)
      else if f.kind = 0 then m1.sendRun c ((c.rank + 1) % c.p) 1 flow out else m1
  else
    let m1 := (m.collPut c e vs (c.isWard k)).setColl (c.note vs.length .none (vs.any Prod.snd))
    if f.chain then (if c.rank = 0 then m1 else m1.sendRun c (c.rank - 1) 1 flow vs)
    else if (c.rank + 1) % c.p = k then m1 else m1.sendRun c ((c.rank + 1) % c.p) 1 flow vs

/-- A tag flit of ALLGATHER: tags of blocks from number b of chunk k on. -/
def State.collTags (m : State) (c : Coll) (flow k b : Nat) (ts : List (Nat × Bool)) : State :=
  let off := c.f.eb * (c.chunk k).1
  let put (m : State) (base : Nat) : State := ts.zipIdx.foldl (fun m t =>
    let a := base + 4096 * (b + t.2)
    if t.1.1 ≠ 0 ∧ a % 4096 = 0 then m.setTag a t.1.1 else m) m
  let m1 := if gNode c.f.dst = m.nodeId then put m (gLocal c.f.dst + off) else m
  let m2 := if c.isWard k then put m1 (gLocal c.f.shdw) else m1
  if (c.rank + 1) % c.p = k then m2 else m2.sendColl c ((c.rank + 1) % c.p) 1 flow true 8 ts

/-! ## PERMUTE (R270) -/

/-- Moves of the table as PTAB holds them. -/
def State.readMoves (m : State) (c : Coll) : List Move :=
  (List.range c.f.count).map (fun k =>
    let w (j : Nat) : Nat := leNat (m.gbytes c.id (c.f.ptab + 24 * k + 8 * j) 8).1
    ⟨w 0, w 1, w 2⟩)

/-- Rounds: each takes moves in order while they fit in STAGE_BYTES at every destination. -/
def permRounds (bytes : Nat) (ms : List Move) : List (List Move) :=
  let cap := bytes / 4096
  ms.foldl (fun rs x => match rs.getLast? with
    | some r => if (r.filter (fun y => decide (y.owner = x.owner))).length < cap then rs.dropLast ++ [r ++ [x]] else rs ++ [[x]]
    | none => [[x]]) []

/-- Rounds of a PERMUTE. -/
def Coll.rounds (c : Coll) : List (List Move) := permRounds c.f.stageBytes c.moves

/-- Moves of the round that bring blocks to a rank, in table order: the k-th goes to slot k of its STAGE. -/
def Coll.roundIn (c : Coll) (rank : Nat) : List Move := (c.rounds.getD c.round []).filter (fun x => decide (x.owner = rank))

/-- The block addresses of the moves that this member makes or receives: those it reads and those it writes. -/
def State.permRanges (m : State) (c : Coll) : List (Nat × Nat) × List (Nat × Nat) :=
  ((c.moves.filter (fun x => decide (gNode x.src = m.nodeId))).map (fun x => (x.src, 4096)),
   (c.moves.filter (fun x => decide (x.owner = c.rank))).map (fun x => (x.dst, 4096)))

/-- Checks of the moves: BADDESC for an owner that is no member, a block that is not aligned or a STAGE that holds none, and
RANGE for a block of this member outside its station's resources (R265). -/
def State.permCode (m : State) (c : Coll) : Nat :=
  let r := m.permRanges c
  if c.moves.any (fun x => decide (c.p ≤ x.owner ∨ x.src % 4096 ≠ 0 ∨ x.dst % 4096 ≠ 0)) ∨ (c.moves ≠ [] ∧ c.f.stageBytes < 4096) then 2
  else if !r.1.all (fun x => m.gOk c.q.stn x.1 x.2 false) ∨ !r.2.all (fun x => decide (gNode x.1 = m.nodeId) && m.gOk c.q.stn x.1 x.2 true) then 3
  else 0

/-- The journal's 32 bytes, with the CRC of PTAB as it was read. -/
def State.journal (m : State) (c : Coll) (st : Nat) : State :=
  let crc := crc64 (c.moves.flatMap (fun x => leBytes x.src 8 ++ leBytes x.owner 8 ++ leBytes x.dst 8))
  let bs := leBytes st 8 ++ leBytes c.round 8 ++ leBytes crc 8 ++ leBytes 0 8
  let m1 := if gNode c.f.jrnl = m.nodeId then m.storeP c.q.stn (gLocal c.f.jrnl) bs false 1
    else m.gsend c.id c.q.stn 0x84 c.f.jrnl bs (fun _ _ => false)
  m1.setColl { c with jstate := st }

/-- One piece of a block into STAGE: pieces 0 to 15 are its bytes, piece 16 its tag. -/
def State.stagePiece (m : State) (c : Coll) (slot piece : Nat) (bs : List Byte) (psn : Nat) : State :=
  let a := gLocal c.f.stage + 4096 * slot
  if piece < 16 then m.store c.q.stn (a + 256 * piece) bs (fun i k => (List.range ((i + k - 1) / 64 + 1 - i / 64)).any (fun j => psn.testBit (i / 64 + j))) 1
  else m.setTag a (leNat (bs.take 8))

/-- COLL_CTL to a rank: phase 0 arrives at the round's barrier, 1 releases it. -/
def State.sendCtl (m : State) (c : Coll) (rank phase : Nat) : State :=
  (m.sendFlit (m.mkFlit Op.collCtl 2 (c.nodes.getD rank 0) c.q.stn 0 0 0 (c.addr phase false) [])).1

/-- FLOW of a slot's pieces: one of the collective's SEG flows, the same for a block and its tag. -/
def CollF.flowOf (f : CollF) (slot : Nat) : Nat := slot % max 1 f.seg

/-- The member sends its outgoing blocks of the round; those that stay are staged here. -/
def State.permSend (m : State) (c : Coll) : State :=
  let own := m.nodeId
  (List.range c.p).foldl (fun m r =>
    (c.roundIn r).zipIdx.foldl (fun m x =>
      if gNode x.1.src ≠ own then m
      else
        let a := gLocal x.1.src
        (List.range 17).foldl (fun m k =>
          let bs := if k < 16 then m.bytes (a + 256 * k) 256 else leBytes (m.tag a) 8 ++ List.replicate 24 0
          let psn := if k < 16 then m.psnBits (a + 256 * k) 256 else 0
          if r = c.rank then m.stagePiece c x.2 k bs psn
          else (m.sendFlit { m.mkFlit Op.collData 2 (c.nodes.getD r 0) c.q.stn (c.f.flowOf x.2) 0 (bs.length / 32 - 1) (c.addr 0 false) bs with psn := psn }).1)
          (let m1 := m.touch c.q.stn a 4096 false 1
            if r = c.rank ∨ !isHbm a then m1 else m1.digestAdd c.q.stn (m1.rangeOff c.q.stn a) (m1.tag a))) m) m

/-- Pieces this member awaits from others in the round. -/
def State.permDue (m : State) (c : Coll) : Nat :=
  17 * ((c.roundIn c.rank).filter (fun x => decide (gNode x.src ≠ m.nodeId))).length

/-- Slots of the round that a node fills on a flow, in the order of its pieces. -/
def Coll.slotsFrom (c : Coll) (node flow : Nat) : List Nat :=
  ((c.roundIn c.rank).zipIdx.filter (fun x => decide (gNode x.1.src = node ∧ c.f.flowOf x.2 = flow))).map Prod.snd

/-- The next piece from a node on a flow goes to its place in STAGE; one that no move of the round brings is dropped. -/
def State.permPiece (m : State) (c : Coll) (f : Flit) : State :=
  let key := 32 * f.src + f.flow
  let j := c.got.get (fun _ => 0) key
  match (c.slotsFrom f.src f.flow)[j / 17]? with
  | none => m
  | some slot =>
    (m.stagePiece c slot (j % 17) f.payload f.psn).setColl { c with got := c.got.set (fun _ => 0) key (j + 1), staged := c.staged + 1 }

/-- A round begins: SENDING in the journal, and blocks out. -/
def State.permRound (m : State) (c : Coll) : State :=
  let c0 := { c with staged := 0, arr := 0, got := [], jstate := 1 }
  (m.journal c0 1).permSend c0

/-- The copies of the round's commit: STAGE into place with its tags. -/
def State.permApply (m : State) (c : Coll) : State :=
  (c.roundIn c.rank).zipIdx.foldl (fun m x =>
    let a := gLocal c.f.stage + 4096 * x.2
    let m1 := m.touch c.q.stn a 4096 false 1
    let bs := m1.bytes a 4096
    let d := gLocal x.1.dst
    (m1.store c.q.stn d bs (fun i k => m1.psnIn (a + i) k) 1).setTag d (m1.tag a)) m

/-- After a round's commit: APPLIED in the journal, and the next round, or DONE. -/
def State.permNext (m : State) (c : Coll) : State :=
  let m1 := (m.permApply c).journal c 3
  let c1 := { c with round := c.round + 1, jstate := 3 }
  if c1.round < c1.rounds.length then m1.permRound c1
  else (m1.journal { c1 with code := 1 } 4)

/-- A member's progress: staging complete, then the round's barrier, at whose root (rank 0) the commit point is. k bounds the
steps taken here: a member that waits for no other takes every round at once. -/
def State.permStep : Nat → Nat → State → State
  | 0, _, m => m
  | k + 1, i, m => match m.coll? i with
    | none => m
    | some c =>
      if c.code ≠ 0 ∨ m.anyHeld c.q.stn (nonempty (m.permRanges c).2) then m
      else if c.jstate = 1 then
        if m.permDue c ≤ c.staged then
          let c1 := { c with jstate := 2, arr := if c.rank = 0 then c.arr + 1 else c.arr }
          let m1 := m.journal c1 2
          if c.rank = 0 then State.permStep k i m1 else m1.sendCtl c1 0 0
        else m
      else if c.jstate = 2 ∧ c.rank = 0 ∧ c.p ≤ c.arr then
        State.permStep k i (((List.range (c.p - 1)).foldl (fun m r => m.sendCtl c (r + 1) 1) m).permNext c)
      else m

/-- Progress of PERMUTE i as far as it goes. -/
def State.permGo (m : State) (i : Nat) : State :=
  match m.coll? i with
  | some c => State.permStep (2 * c.rounds.length + 2) i m
  | none => m

/-- PERMUTE at its start: the moves are read and checked. -/
def State.permBegin (m : State) (c : Coll) : State :=
  let c1 := { c with moves := m.readMoves c }
  let code := m.permCode c1
  if code ≠ 0 then m.setColl { c1 with code := code }
  else if c1.moves = [] then m.journal { c1 with code := 1 } 4
  else (m.permRound c1).permGo c.id

/-! ## Arrivals -/

/-- The running collective a flit belongs to: that of its station and group with its CSEQ (R243). -/
def State.collOf (m : State) (f : Flit) : Option Coll :=
  m.colls.find? (fun c => c.started && decide (c.code = 0 ∧ c.q.stn = f.sstn ∧ c.f.group = bitsOf f.addr 11 0 ∧
    c.cseq % 2 ^ 24 = bitsOf f.addr 35 12))

/-- A flit's collective has begun here and ended: its CSEQ is behind the group's next one. -/
def State.collPast (m : State) (f : Flit) : Bool :=
  let k := m.grpSeq.get (fun _ => 0) (m.fld (Reg.krt_GBASE f.sstn) + bitsOf f.addr 11 0)
  let d := (k + 2 ^ 24 - bitsOf f.addr 35 12) % 2 ^ 24
  decide (0 < d ∧ d ≤ 2 ^ 23 ∧ d ≤ k)

/-- A collective's flit (R243, R255, R267): one of a collective that has not begun here, or that waits for what this member
has not reached, stays in the receive buffer; one of a collective that has ended is dropped. -/
def State.collFlit (m : State) (p : Nat) (f : Flit) (op : Nat) (takes : Coll → Bool) (k : State → Coll → State) : State :=
  if m.notReady f then m.onFlit p f op id
  else match m.collOf f with
    | some c => if takes c && !m.anyHeld c.q.stn (nonempty c.ranges.2) then m.onFlit p f op (fun m => k m c) else m
    | none => if m.collPast f then m.onFlit p f op id else m

/-- The next flit of its stream in any kind but PERMUTE (R267, R268). -/
def State.streamFlit (m : State) (f : Flit) (c : Coll) : State :=
  let phase := bitsOf f.addr 39 39
  let key := 64 * phase + f.flow
  let j := c.got.get (fun _ => 0) key
  match c.place f.flow (c.units phase) j with
  | none => m
  | some (k, x, isTag) =>
    let c1 := { c with got := c.got.set (fun _ => 0) key (j + 1) }
    let m1 := m.setColl c1
    let s := c1.segOf k f.flow
    let per := 256 / c1.f.eb
    if isTag then
      let b := c1.segBlocks k f.flow
      (m1.collTags c1 f.flow k (b.1 + 32 * x) (flitElems f 8 (min 32 (b.2 - 32 * x)))).collCheck c1.id
    else (m1.collData c1 phase f.flow k (s.1 + per * x) (flitElems f c1.f.eb (min per (s.2 - s.1 - per * x)))).collCheck c1.id

/-- COLL_DATA (R243, R267, R270). PERMUTE takes pieces of a round only in that round's sending. -/
def State.collDataFlit (m : State) (p : Nat) (f : Flit) : State :=
  m.collFlit p f Op.collData (fun c => decide (c.f.kind ≠ 5 ∨ c.jstate = 1)) fun m c =>
    if c.f.kind = 5 then (m.permPiece c f).permGo c.id else m.streamFlit f c

/-- COLL_CTL (R243, R270): a member's arrival at the round's barrier, or its release. -/
def State.collCtlFlit (m : State) (p : Nat) (f : Flit) : State :=
  m.collFlit p f Op.collCtl (fun _ => true) fun m c =>
    if c.f.kind ≠ 5 then m
    else if bitsOf f.addr 39 39 = 0 then (if c.rank = 0 then (m.setColl { c with arr := c.arr + 1 }).permGo c.id else m)
    else if c.jstate = 2 ∧ c.rank ≠ 0 then (m.permNext c).permGo c.id else m

/-! ## The end (R265, R271) -/

/-- A collective that began ends with its code: STATUS, and the counter on OK; RANGE is a refused access of the KRT (R24). -/
def State.collFinish (m : State) (c : Coll) : State :=
  let n := c.q.stn
  let m1 := if m.check (some n) c.q.addr 128 true = .ok then
      m.putStatus n (c.q.addr + 0x48) (statusWord c.code c.flags c.psn c.done) 1 else m
  let m2 := ({ m1 with colls := m1.colls.filter (fun x => decide (x.id ≠ c.id)) }).dropBuf c.id
  if c.code = 1 then m2.ctrDone n c.q.ctr c.q.cen (0x54 + n % 4)
  else if c.code = 3 then m2.access 0x84 (0x54 + n % 4) (some n) 0 c.q.addr
  else m2

/-- COLLECTIVE_DONE: STATUS, the counter on OK, and the next collective of the station may begin. -/
def State.collDone (m : State) (n : Nat) : State :=
  match m.colls.find? (fun c => decide (c.q.stn = n) && c.started) with
  | none => m
  | some c =>
    if m.safe ∨ c.code = 0 ∨ !m.acked c.id ∨ m.memHeld n c.q.addr 128 then m else m.collFinish c

/-- COLL_TMO (R271). -/
def State.collTimeout (m : State) (n : Nat) : State :=
  match m.colls.find? (fun c => decide (c.q.stn = n) && c.started && decide (c.code = 0)) with
  | none => m
  | some c => m.collFail c

/-- The doorbell of a station's collectives (R265). -/
def State.collDoorbell (m : State) (master n v : Nat) : State :=
  let d := doorbell n v
  if !m.doorbellOk d then m.access 0x84 master (some n) 1 (0xF00_0000_0000 + 0x84_0180 + 8 * n)
  else
    { m with
      nextId := m.nextId + 1
      colls := m.colls ++ [⟨d, m.nextId, false, 0, 0, 0, [], 0, [], [], 0, 0, 0, 0, 0, 0, .none, false, 0⟩] }

/-! ## Digest scan (R341, R351) -/

/-- GO of a scan. -/
def State.scanGoKrt (m : State) (master n : Nat) : State :=
  let a := m.fld (Reg.krt_BASE n) * 4096
  let k := m.fld (Reg.krt_NBLK n)
  let rec_ (m : State) : State := m.access 0x84 master (some n) 1 (0xF00_0000_0000 + (Reg.krt_GO n).off)
  if m.flag (Reg.krt_BUSY n) then rec_ m
  else if k ≠ 0 ∧ !m.inHbmRange n a (4096 * k) then rec_ (m.setFld (Reg.krt_RDIG n) 0)
  else m.setFlag (Reg.krt_BUSY n) true

/-- DIGEST_SCAN_DONE. -/
def State.digestScanDone (m : State) (n : Nat) : State :=
  if !m.flag (Reg.krt_BUSY n) ∨ m.safe ∨ m.memHeld n (m.fld (Reg.krt_BASE n) * 4096) (4096 * m.fld (Reg.krt_NBLK n)) then m
  else
    let a := m.fld (Reg.krt_BASE n) * 4096
    let ks := List.range (m.fld (Reg.krt_NBLK n))
    let chk := m.flag (Reg.krt_CHK n)
    let dig := (ks.map (fun k => crc64 (leBytes (4096 * k) 8 ++ leBytes (m.tag (a + 4096 * k)) 8))).sum
    let un := (ks.filter (fun k => decide (m.tag (a + 4096 * k) = 0))).length
    let bad := if chk then (ks.filter (fun k =>
        let t := m.tag (a + 4096 * k)
        decide (t ≠ 0 ∧ crc32c (m.bytes (a + 4096 * k) 4096) ≠ t % 2 ^ 32))).length else 0
    let m1 := ks.foldl (fun m k =>
      let m1 := m.touch n (tagAddr (a + 4096 * k)) 8 false 1
      if chk then m1.touch n (a + 4096 * k) 4096 false 1 else m1) m
    (((m1.setFld (Reg.krt_RDIG n) dig).setFld (Reg.krt_UNTAG n) (min un (2 ^ 32 - 1))).setFld (Reg.krt_CRCBAD n) (min bad (2 ^ 32 - 1))).setFlag (Reg.krt_BUSY n) false

def execAllreduce (n : Stn) (s : State) : Host.Outcome State Fault Refusal := .next (s.collBegin n 0 State.ringBegin).landed
def execOrderedReduce (n : Stn) (s : State) : Host.Outcome State Fault Refusal := .next (s.collBegin n 1 State.chainBegin).landed
def execReduceScatter (n : Stn) (s : State) : Host.Outcome State Fault Refusal := .next (s.collBegin n 2 State.ringBegin).landed
def execAllgather (n : Stn) (s : State) : Host.Outcome State Fault Refusal := .next (s.collBegin n 3 State.gatherBegin).landed

/-- SUMSQ (R269): waits while an accumulator it reads is in use. -/
def State.sumsq (m : State) (n : Nat) : State :=
  match m.collNext n 4 with
  | none => m
  | some c =>
    if c.code = 0 ∧ m.collCode c = 0 ∧ !m.normFree n c.f.nreg then m
    else
      let v := m.sumsqVal n c.f.nreg
      m.collBegin n 4 (fun m c =>
        let c1 := { c with val := v }
        (m.setColl c1).chainBegin c1)

def execSumsq (n : Stn) (s : State) : Host.Outcome State Fault Refusal := .next (s.sumsq n).landed
def execPermute (n : Stn) (s : State) : Host.Outcome State Fault Refusal := .next (s.collBegin n 5 State.permBegin).landed
def execCollData (p : Port) (f : Flit) (s : State) : Host.Outcome State Fault Refusal := .next (s.collDataFlit p f).landed
def execCollCtl (p : Port) (f : Flit) (s : State) : Host.Outcome State Fault Refusal := .next (s.collCtlFlit p f).landed
def execCollectiveDone (n : Stn) (s : State) : Host.Outcome State Fault Refusal := .next (s.collDone n).landed
def execCollTmo (n : Stn) (s : State) : Host.Outcome State Fault Refusal := .next (s.collTimeout n)
def execDigestScanDone (n : Stn) (s : State) : Host.Outcome State Fault Refusal := .next (s.digestScanDone n).landed

end Sys2Proof.Machine
end

