-- ==== Sys2Proof/Machine/Memory.lean ====
section
/-! DEFINITION. The memory controllers' own steps (R216 to R218, R227 to R231) and the Crock's geometry (R222 to R225,
R236): flushes, MODE and FLUSH writes, and group zeroing. -/

namespace Sys2Proof.Machine

/-! ## Controller accesses -/

/-- Cache lines hold newer bytes than HBM's own at this address. -/
def State.hbmUnder (m : State) (a : Nat) : Bool := m.cache.any (fun c => c.dirty && decide (c.line = a / 256))

/-- HBM's own n bytes at a, inside one 64-byte access. -/
def State.hbmBytes (m : State) (a n : Nat) : List Byte :=
  if m.hbmUnder a then SMap.read memZero (m.stale.slice a n) 0 n else m.bytes a n

/-- HBM's own poison of the 64-byte access at b. -/
def State.hbmPsn (m : State) (b : Nat) : Bool :=
  if m.hbmUnder b then !(m.stalePsn.slice (b / 32) 2).isEmpty else m.psnStored b 64

/-- Write HBM's own bytes and the poison of the access that holds them. -/
def State.hbmPut (m : State) (a : Nat) (bs : List Byte) (psn : Bool) : State :=
  let b := a / 64 * 64
  let c := if psn then SMap.ofList 0 (List.replicate 2 (1 : Byte)) else []
  if m.hbmUnder a then
    { m with stale := m.stale.splice a bs.length (SMap.ofList 0 bs), stalePsn := m.stalePsn.splice (b / 32) 2 c }
  else (m.putBytes a bs).setPsn b psn

/-- What a read of one 64-byte access meets (R227 to R229): the counters, MEM_UE for an uncorrectable one, and an armed
injection's detected error; answers whether the data is poisoned and whether the access was uncorrectable. -/
def State.hbmSense (m : State) (b master acc : Nat) (ecc : Ecc) (agent : Bool) : Bool × Bool × State :=
  let s := (m.place b).1
  let page := 0x30 + s
  let stn := m.gibStn (b / 2 ^ 30)
  let ev : Ev := { page := page, code := Code.memUe, stn := stn, master := master, acc := acc, addr := b }
  let ue := decide (ecc = .uncorrectable)
  let m1 := match ecc with
    | .clean => m
    | .onDie => m.bump (Reg.mc_CE1_CNT s) 1
    | .symbol => m.bump (Reg.mc_CE2_CNT s) 1
    | .uncorrectable => (m.bump (Reg.mc_UE_CNT s) 1).report ev
  let inj := agent && m1.injFires page 0
  let m2 := if inj then ((m1.disarm page).bump (Reg.mc_UE_CNT s) 1).report { ev with inj := true } else m1
  let bad := ue || inj
  let stored := !bad && m2.hbmPsn b
  (bad || stored, bad, if stored then m2.bump (Reg.mc_PSN_RD s) 1 else m2)

/-- Bytes of an access whose decode failed are unknown; a group under zeroing holds nothing known either. -/
def State.hbmData (m : State) (b : Nat) (lost : Bool) : List Byte × State :=
  if lost ∨ b / 2 ^ 30 / 20 ∈ m.zeroing then
    ((List.range 64).map (fun i => Config.freeByte (m.free + i)), { m with free := m.free + 64 })
  else (m.hbmBytes b 64, m)

/-- HBM_READ (R229). -/
def State.hbmRead (m : State) (addr : Nat) (ecc : Ecc) : State :=
  if !isHbm addr then m
  else
    let b := addr / 64 * 64
    let m1 := m.chargeBeats (m.gibStn (b / 2 ^ 30)) b 64
    let r := m1.hbmSense b 0xFF 0 ecc true
    let d := r.2.2.hbmData b (decide (ecc = .uncorrectable))
    { d.2 with hbmOut := ⟨d.1, r.1, true⟩ }

/-- HBM_WRITE (R230): a write of fewer than 64 bytes is a read-modify-write, and keeps or takes poison. -/
def State.hbmWrite (m : State) (addr : Nat) (bs : List Byte) (psn : Bool) (ecc : Ecc) : State :=
  if !isHbm addr ∨ bs.length = 0 ∨ 64 < addr % 64 + bs.length then m
  else
    let b := addr / 64 * 64
    let stn := m.gibStn (b / 2 ^ 30)
    let m1 := m.chargeBeats stn addr bs.length
    if bs.length = 64 then m1.hbmPut addr bs psn
    else
      let m2 := (m1.chargeBeats stn b 64).bump (Reg.mc_RMW_CNT (m1.place b).1) 1
      let r := m2.hbmSense b 0xFF 2 ecc true
      let d := r.2.2.hbmData b (decide (ecc = .uncorrectable))
      let o := addr - b
      d.2.hbmPut b (d.1.take o ++ bs ++ d.1.drop (o + bs.length)) (psn || r.1)

/-- SCRUB_READ (R231): a line the controller corrected is written back, an uncorrectable one is written back poisoned; a
correction inside the stack is counted and not acted on (R227). -/
def State.scrubRead (m : State) (addr : Nat) (ecc : Ecc) : State :=
  let b := addr / 64 * 64
  let s := (m.place b).1
  if !isHbm addr ∨ !m.flag (Reg.mc_EN s) then m
  else
    let p := m.place b
    let q := (p.2.2 * 64) / 2 ^ 11
    let m1 := (m.chargeBeats none b 64).setFld (Reg.mc_SCRUB_POS s) q
    let r := m1.hbmSense b (0xC0 + s) 0 ecc false
    match ecc with
    | .clean => r.2.2
    | .onDie => r.2.2
    | .symbol => r.2.2.chargeBeats none b 64
    | .uncorrectable =>
      let d := (r.2.2.bump (Reg.mc_SCRUB_UE s) 1).hbmData b true
      (d.2.chargeBeats none b 64).hbmPut b d.1 true

/-! ## Placement (R216, R218) -/

/-- An enabled station holds a VALID range that meets group j. -/
def State.groupHeld (m : State) (j : Nat) : Bool :=
  (List.range 20).any (fun k => (m.gibStn (20 * j + k)).isSome)

/-- A write of MC_LOCAL by the trusted core (R218): dropped whole where it changes a group that a station holds. -/
def State.mcLocal (m : State) (master : Nat) (hi : Bool) (v : Nat) : State :=
  let f := if hi then Reg.mc_LOCAL_HI 0 else Reg.mc_LOCAL_LO 0
  let old := m.fld f
  let new := if hi then v % 2 ^ 63 else v % 2 ^ 64
  let changed := ((List.range 64).filter (fun i => decide (old.testBit i ≠ new.testBit i))).map (fun i => if hi then 64 + i else i)
  if changed.any m.groupHeld then
    m.access 0x30 master none 1 (0xF00_0000_0000 + f.off)
  else if changed.isEmpty then m
  else
    let m1 := m.setFld f new
    ({ m1 with zeroing := m1.zeroing.filter (fun j => decide (j ∉ changed)) ++ changed }).setFlag (Reg.mc_LBUSY 0) true

/-- GROUP_ZEROING_DONE (R218): the group zeroed for the longest time reads zero. -/
def State.zeroingDone (m : State) : State :=
  match m.zeroing with
  | [] => m
  | j :: rest =>
    let m1 := m.zero (20 * j * 2 ^ 30) (20 * 2 ^ 30)
    ({ m1 with zeroing := rest }).setFlag (Reg.mc_LBUSY 0) (!rest.isEmpty)

/-! ## Crock geometry (R224, R225, R236) -/

def sliceAddr (k : Nat) : Nat := 0x800_0000_0000 + k * 0x200_0000

/-- Zero slice k's contents. -/
def State.zeroSlice (m : State) (k : Nat) : State := m.zero (sliceAddr k) 0x200_0000

/-- Write back and invalidate every line of station n. -/
def State.flushLines (m : State) (n : Nat) : State :=
  (m.cache.filter (fun c => decide (c.stn = n))).foldl State.evict m

/-- Invalidate every line of station n without write-back. -/
def State.loseLines (m : State) (n : Nat) : State :=
  (m.cache.filter (fun c => decide (c.stn = n))).foldl State.dropLine m

/-- BUSY of every slice of station n, and of the slices zs that come or go. -/
def State.setCrkBusy (m : State) (n : Nat) (zs : List Nat) (b : Bool) : State :=
  ((List.range 48).filter (fun k => (m.fld (Reg.sys_CRK_MASK n)).testBit k || decide (k ∈ zs))).foldl
    (fun m k => m.setFlag (Reg.crk_BUSY (k / 12) (k % 12)) b) m

/-- A write that changes geometry, while no flush of station n runs: MODE of slice k, or (k ≥ 48) FLUSH of slice
k − 48. A MODE write of the value in force changes nothing. -/
def State.flushBegin (m : State) (n : Nat) (w : Nat × Bool) (waiting : List (Nat × Bool)) : Option State :=
  if w.1 < 48 ∧ m.sliceCache w.1 = w.2 then none
  else
    let ms := if w.1 < 48 then [w] else []
    some (({ m with flushes := m.flushes ++ [(⟨n, ms, waiting, []⟩ : Flush)] }).setCrkBusy n [] true)

/-- The first of the waiting writes that changes something starts its flush; those before it had no effect. -/
def State.flushNext (m : State) (n : Nat) : List (Nat × Bool) → State
  | [] => m
  | w :: rest => match m.flushBegin n w rest with
    | some m1 => m1
    | none => m.flushNext n rest

/-- A MODE or FLUSH write reaches station n's Crock: it waits behind a flush in progress (R224). -/
def State.flushWrite (m : State) (n : Nat) (w : Nat × Bool) : State :=
  if m.flushing n then
    { m with flushes := m.flushes.map (fun (f : Flush) => if f.stn = n then { f with waiting := f.waiting ++ [w] } else f) }
  else m.flushNext n [w]

/-- The flush of station n ends (R224): its lines are written back and gone, slices that change mode, enter or leave read
zero, the new geometry applies, and the next waiting write takes effect. -/
def State.flushDone (m : State) (n : Nat) : State :=
  match m.flushes.find? (fun (f : Flush) => decide (f.stn = n)) with
  | none => m
  | some f =>
    let m1 := m.flushLines n
    let m2 := f.modes.foldl (fun m w => (m.zeroSlice w.1).setFlag (Reg.crk_MODE (w.1 / 12) (w.1 % 12)) w.2) m1
    let m3 := f.zero.foldl State.zeroSlice m2
    let m4 := ({ m3 with flushes := m3.flushes.filter (fun (x : Flush) => decide (x.stn ≠ n)) }).setCrkBusy n f.zero false
    m4.flushNext n f.waiting

/-- Every flush of station n, and those that wait behind it, ends. k bounds them. -/
def State.flushAll : Nat → Nat → State → State
  | 0, _, m => m
  | k + 1, n, m => if m.flushing n then State.flushAll k n (m.flushDone n) else m

def State.flushSettle (m : State) (n : Nat) : State :=
  State.flushAll ((m.flushes.map (fun (f : Flush) => f.waiting.length + 1)).sum) n m

/-- A write of slice k's register (R236): MODE first, then FLUSH; on a slice granted to no station it is dropped and
recorded. -/
def State.crkWrite (m : State) (master k v : Nat) : State :=
  match m.sliceStn k with
  | none => m.access (0x2C + k / 12) master none 1 (0xF00_0000_0000 + (Reg.crk_MODE (k / 12) (k % 12)).off)
  | some n =>
    let m1 := m.flushWrite n (k, v.testBit 0)
    if v.testBit 1 then m1.flushWrite n (48 + k, true) else m1

/-- The slices of an enabled station become those of a new mask (R224, R225). Where its cache slices change, its cache is
flushed, and the slices that leave or enter are zeroed when the flush ends; where only scratchpad slices come or go, they
are zeroed at once. In a flush already in progress they are zeroed with it. -/
def State.regrant (m : State) (n new : Nat) : State :=
  let old := m.fld (Reg.sys_CRK_MASK n)
  let moved := (List.range 48).filter (fun k => decide (old.testBit k ≠ new.testBit k))
  let m1 := m.setFld (Reg.sys_CRK_MASK n) new
  if moved.isEmpty then m1
  else if m.flushing n then
    ({ m1 with flushes := m1.flushes.map (fun (f : Flush) => if f.stn = n then { f with zero := f.zero ++ moved } else f) }).setCrkBusy
      n moved true
  else if m.cacheSlices n = m1.cacheSlices n then moved.foldl State.zeroSlice m1
  else ({ m1 with flushes := m1.flushes ++ [(⟨n, [], [], moved⟩ : Flush)] }).setCrkBusy n moved true

def execHbmRead (addr : Nat) (ecc : Ecc) (s : State) : Host.Outcome State Fault Refusal := .next (s.hbmRead addr ecc)
def execHbmWrite (addr : Nat) (bytes : List Byte) (psn : Bool) (ecc : Ecc) (s : State) : Host.Outcome State Fault Refusal :=
  .next (s.hbmWrite addr bytes psn ecc)
def execScrubRead (addr : Nat) (ecc : Ecc) (s : State) : Host.Outcome State Fault Refusal := .next (s.scrubRead addr ecc)
def execGroupZeroingDone (s : State) : Host.Outcome State Fault Refusal := .next s.zeroingDone
def execCrockFlushDone (n : Stn) (s : State) : Host.Outcome State Fault Refusal := .next (s.flushDone n).landed

end Sys2Proof.Machine
end

