-- ==== Sys2Proof/Machine/Reset.lean ====
section
/-! DEFINITION. Reset of stations, engines and cores (R203, R206, R288, R365 to R373): what stops, what the completion
ledger says of it, and what is cleared. -/

namespace Sys2Proof.Machine

/-! ## What stops, with the ledger entries it leaves -/

/-- What a stop leaves: the state, and entries by station. -/
abbrev Stopped := State × List (Nat × LedgerEntry)

/-- Item i issues no further write, and answers to its requests go nowhere. -/
def State.detach (m : State) (i : Nat) : State :=
  { m with
    outq := m.outq.filter (fun w => decide (w.item ≠ i))
    reqs := m.reqs.map (fun (r : Req) => match r.xfer with
      | some x => if x.1 = i then { r with xfer := none } else r
      | none => r) }

/-- Apply a stop to each of a list. -/
def Stopped.each {α : Type} (s : Stopped) (l : List α) (f : State → α → Stopped) : Stopped :=
  l.foldl (fun s x => let r := f s.1 x; (r.1, s.2 ++ r.2)) s

/-- An operation is abandoned (R366, R368): its output is discarded, its verdicts are dropped, and an operation that ran is
charged for a time the spec leaves open. -/
def State.abandonGop (m : State) (reason : Nat) (g : Gop) : Stopped :=
  let m1 := (({ m with
      gops := m.gops.filter (fun y => decide (y.id ≠ g.id))
      verdicts := m.verdicts.filter (fun v => decide (v.gop ≠ g.id)) }).dropBuf g.id).detach g.id
  let m2 := if g.granted ∧ 0 < g.injected then
      let w := m1.drawWord
      (w.2.chargeGop g (w.1.toNat % 2 ^ 32)).busyTime (List.replicate 4 (w.1.toNat % 2 ^ 32))
    else m1
  (m2.stepDone g.stn g.id, [(g.stn, g.entry reason)])

/-- An LDT or STT stops: the addresses whose requests all went out count as done (R372). -/
def State.abandonXfer (m : State) (reason : Nat) (x : Xfer) : Stopped :=
  let m1 := { m with xfers := m.xfers.filter (fun y => decide (y.id ≠ x.id)) }.detach x.id
  let done := if x.load then 0 else x.sent / max 1 x.run
  let e : LedgerEntry := ⟨3, 0x10 + x.q, reason, x.q + x.pc <<< 8, done, some x.sgen.yield, 0, 0⟩
  (m1, [(x.stn, e)])

/-- An SPK command stops (R131, R133): a COMMIT finishes with RESET and its blocks stay open. -/
def State.abandonSpk (m : State) (reason : Nat) (s : Spk) : Stopped :=
  let total := if s.op = 1 ∧ s.phase = 1 then s.blocks else s.nblk
  let e : LedgerEntry := ⟨4, 0x14 + s.q, reason, s.q + s.pc <<< 8, s.sent, some total, s.op, if s.op = 1 then cdStep64 s.desc else 0⟩
  let m1 := if s.op = 1 then
      let m1 := if s.phase = 1 then (List.range s.nblk).foldl (fun m k =>
          let f := spByte s.q (s.blk + k)
          m.setFld f (m.fld f &&& (255 - 64))) m else m
      (m1.detach s.id).commitEnd s 8 (cdStep s.desc)
    else { m with spks := m.spks.filter (fun x => decide (x.id ≠ s.id)) }
  (m1, [(s.stn, e)])

/-- A queued descriptor is cancelled (R371 KIND 9). -/
def cancelled (reason master index : Nat) (d : QDesc) : Nat × LedgerEntry :=
  (d.stn, { kind := 9, master := master, reason := reason, ident := d.addr, done := 0, total := none, aux1 := index })

/-- STATUS RESET of a cancelled descriptor, where it can be written, and its end. -/
def State.cancelDesc (m : State) (d : QDesc) (size off page master : Nat) : State :=
  let m1 := if m.check (some d.stn) d.addr size true = .ok then m.putStatus d.stn (d.addr + off) 10 0 else m
  m1.descEnd d 10 page master

/-- Work of a Whisk that satisfies p ends with RESET. -/
def State.stopWhisk (m : State) (reason : Nat) (p : QDesc → Bool) (s : Nat) : Stopped :=
  let w := m.whisk s
  let qs := w.queue.filter p
  let s1 : Stopped := Stopped.each (m.setWhisk s { w with queue := w.queue.filter (fun d => !p d) }, []) qs (fun m d =>
    let m1 := m.cancelDesc d 160 0x88 (0x10 + s) (0x20 + s)
    (match d.mortar with
      | some k => m1.mortarChain k d.disp 10
      | none => m1, [cancelled reason (0x20 + s) s d]))
  match w.run with
  | none => s1
  | some c =>
    if !p c.q then s1
    else
      let done := bitsOf c.status 63 32
      let m1 := (s1.1.detach c.id).chainFinish s
        { c with code := 10, status := statusWord 10 .none false done, writes := s1.1.descOk c }
      (match c.q.mortar with
        | some k => m1.mortarChain k c.q.disp 10
        | none => m1,
       s1.2 ++ [(c.q.stn, ⟨5, 0x20 + s, reason, c.q.addr, c.links, none, done, 0⟩)])

/-- One accepted Tongs descriptor ends with RESET. -/
def State.stopTDesc (m : State) (reason d : Nat) (x : TDesc) : Stopped :=
  let m1 := m.dropWatches (fun w => decide (w.target = .tongs d x.seq))
  let t := m1.tong d
  let m2 := (m1.setTong d { t with parked := t.parked.filter (fun y => decide (y.seq ≠ x.seq)) }).detach x.seq
  (m2.tongFinish d { x with code := 10 },
   [(x.q.stn, ⟨6, 0x34 + d, reason, x.q.addr, x.done, some (tngF x.d).n, x.epoch, 0⟩)])

/-- Work of a Tongs that satisfies p ends with RESET; parked descriptors only where park holds. -/
def State.stopTongs (m : State) (reason : Nat) (p : QDesc → Bool) (park : Bool) (d : Nat) : Stopped :=
  let t := m.tong d
  let s0 : Stopped := Stopped.each (m.setTong d { t with queue := t.queue.filter (fun x => !p x) }, []) (t.queue.filter p) (fun m x =>
    (m.cancelDesc x 64 0x38 (0x24 + d) (0x34 + d), [cancelled reason (0x34 + d) d x]))
  let s1 := s0.each (t.run.filter (fun x => p x.q)) (fun m x => m.stopTDesc reason d x)
  if park then s1.each (t.parked.filter (fun x => p x.q)) (fun m x => m.stopTDesc reason d x) else s1

/-- Work of a Mortar that satisfies p ends; nothing is written (R193, R198). -/
def State.stopMortar (m : State) (reason : Nat) (p : QDesc → Bool) (d : Nat) : Stopped :=
  let t := m.mortar d
  let qs := t.queue.filter p
  let s1 : Stopped := Stopped.each (m.setMortar d { t with queue := t.queue.filter (fun x => !p x) }, []) qs (fun m x =>
    (m.dispatched x, [cancelled reason (0x38 + d) d x]))
  match t.run with
  | none => s1
  | some s =>
    if !p s.q then s1
    else
      let m1 := (s1.1.dropWatches (fun w => decide (w.target = .mortar d))).detach s.id
      let m2 := (({ m1 with free := m1.free + 2 ^ 24 }.setMortar d { m1.mortar d with run := none, used := true, fill := m1.free }).dropBuf s.id).dispatched s.q
      (m2, s1.2 ++ [(s.q.stn, ⟨7, 0x38 + d, reason, s.q.addr, s.evals, none, s.phase.code, s.it⟩)])

/-- Collectives of station n end with RESET. -/
def State.stopColls (m : State) (reason n : Nat) : Stopped :=
  Stopped.each (m, []) (m.colls.filter (fun c => decide (c.q.stn = n))) (fun m c =>
    let m1 := (m.detach c.id).collFinish { c with code := 10 }
    let e : LedgerEntry :=
      if c.started then ⟨8, 0x54 + n % 4, reason, c.q.addr, c.done * c.f.eb, some (c.f.count * c.f.eb), c.jstate, c.round⟩
      else (cancelled reason (0x54 + n % 4) n c.q).2
    (m1, [(n, e)]))

/-- Scans and ratio flushes that satisfy p stop. -/
def State.stopNorms (m : State) (p : NormJob → Bool) : State :=
  (m.norms.filter p).foldl (fun m j =>
    let m1 := ({ m with norms := m.norms.filter (fun x => decide (x.id ≠ j.id)) }).detach j.id
    (if j.flush then m1.setFlag (Reg.ldl_BUSY_1018 0 j.stn) false else m1.setFlag (Reg.ldl_BUSY_1020 j.q j.stn) false).dropBuf j.id) m

/-- The recipe of station n stops with RESET; its entries, one to a quadrant. -/
def State.stopReset (m : State) (reason n det : Nat) : Stopped :=
  match m.launch n with
  | none => (m, [])
  | some l => (m.stopRecipe n 7 det, (quads l.qmask).map (fun q =>
      (n, ⟨1, 0x10 + q, reason, q + m.pc n q <<< 8, m.fld (Reg.seq_CMD_DONE q n), none, 7, m.pc n q⟩)))

/-- Write the entries to the ledgers of their stations. -/
def State.ledgers (m : State) (l : List (Nat × LedgerEntry)) : State := l.foldl (fun m e => m.ledger e.1 e.2) m

/-! ## Cores -/

/-- Core c's registers. -/
def State.core (m : State) (c : Nat) : CoreSt := m.cores.get (fun _ => .reset) c
def State.setCore (m : State) (c : Nat) (x : CoreSt) : State := { m with cores := m.cores.set (fun _ => .reset) c x }

/-- Core c's caches are invalidated without write-back (R203): each byte of its stores that may not have reached memory has
reached it or not, as a free value says. -/
def State.coreLose (m : State) (c : Nat) : State :=
  let m1 := (m.coreBytes.filter (fun e => decide (e.core = c))).foldl (fun (m : State) e =>
    let d := m.drawByte
    if d.1.toNat % 2 = 0 then d.2
    else
      let m2 := d.2.putBytes e.addr [e.old]
      if e.psn then m2.setPsn (e.addr / granule e.addr * granule e.addr) true else m2) m
  { m1 with coreBytes := m1.coreBytes.filter (fun e => decide (e.core ≠ c)) }

/-- Core c is held in reset (R203, R206). -/
def State.coreHold (m : State) (c : Nat) : State :=
  let m1 := (((m.coreLose c).setCore c .reset).setFlag (Reg.cc_RUN c) false).setFlag (Reg.cc_HALTED c) false
  ({ m1 with coreIrq := m1.coreIrq.filter (fun i => decide (i ≠ c)) }).setFlag (Reg.cc_WFI c) false

/-- Core c leaves reset and fetches at RVEC, or halts there while HALT is set (R203, R214). While a reset of its station is in
progress it stays in reset. -/
def State.coreStart (m : State) (c : Nat) : State :=
  let h := m.flag (Reg.cc_HALT c)
  if (m.coreStn c).any m.inReset then m
  else ((m.setCore c { CoreSt.reset with pc := 4 * m.fld (Reg.cc_RVEC c) }).setFlag (Reg.cc_RUN c) (!h)).setFlag (Reg.cc_HALTED c) h

/-- Cores of a mask. -/
def coresOf (mask : Nat) : List Nat := (List.range 16).filter (fun c => mask.testBit c)

def serviceBase : Nat := 0xE00_0100_0000

/-- The entries that confine core 17 to service memory and the handover area, locked (R355). -/
def sandbox : CoreSt :=
  { CoreSt.reset with
    pmpcfg := [(0, 0x9F), (1, 0x9F), (2, 0x98)]
    pmpaddr := [(0, BitVec.ofNat 64 (serviceBase / 4 + 0x20_0000 - 1)), (1, BitVec.ofNat 64 ((serviceBase + 0x100_0000) / 4 + 0x40_0000 - 1)),
      (2, BitVec.ofNat 64 (2 ^ 54 - 1))] }

/-- CC RST (R214, R365): the trusted core never, a station core only while its station is enabled; the service core stays in
its sandbox. -/
def State.coreReset (m : State) (c : Nat) : State :=
  if c = 16 then m
  else if c < 16 ∧ (m.coreStn c).isNone then m
  else
    let m1 := (m.coreHold c).coreStart c
    if c = 17 then m1.setCore c { sandbox with pc := 4 * m.fld (Reg.cc_RVEC c) } else m1

/-- HALT of core c (R214): a running core halts at its next instruction, a halted one goes on. -/
def State.coreHalt (m : State) (c : Nat) (h : Bool) : State :=
  let m1 := m.setFlag (Reg.cc_HALT c) h
  if m.flag (Reg.cc_RUN c) ∧ h then (m1.setFlag (Reg.cc_RUN c) false).setFlag (Reg.cc_HALTED c) true
  else if m.flag (Reg.cc_HALTED c) ∧ !h then (m1.setFlag (Reg.cc_RUN c) true).setFlag (Reg.cc_HALTED c) false
  else m1

/-! ## Station reset -/

/-- Slots 1 to 15 of station n's Ladles are empty and slot 0 holds the pass-through program (R119). -/
def State.reloadSlots (m : State) (n : Nat) : State :=
  (List.range 4).foldl (fun m q =>
    let i := 128 * q + 16 * n
    { m with lslots := (m.lslots.clear i 16).set (fun _ => none) i (some (passThrough q (m.trayWin n q).1)) }) m

/-- Station n's accumulators read +0 (R366). -/
def State.clearNorms (m : State) (q n : Nat) : State :=
  (List.range 16).foldl (fun m j => ((m.setFld (Reg.ldl_NORM q n j) 0).setFlag (Reg.ldl_NORM_NV q n j) false).setFlag
    (Reg.ldl_NORM_PSN q n j) false) m

/-- Steps 1 and 2 of a station reset (R366): the station's recipes, cores and engines stop. One that meets a reset in
progress merges with it, and a release makes it a release (R367). -/
def State.resetBegin (m : State) (n : Nat) (release : Bool) : State :=
  if m.inReset n then
    { m with resets := m.resets.map (fun (r : StnReset) => if r.stn = n then { r with release := r.release || release } else r) }
  else
    let det := match m.launch n with
      | some l => (quads l.qmask).headD 0
      | none => 0
    let s1 := { m with tdones := m.tdones.filter (fun e => decide (e.1 / 16 ≠ n)) }.stopReset 1 n det
    let m1 := (coresOf (m.fld (Reg.sys_CORE_MASK n))).foldl State.coreHold s1.1
    let mine (d : QDesc) : Bool := decide (d.stn = n)
    let s2 := Stopped.each (m1, s1.2) (m1.gops.filter (fun g => decide (g.stn = n))) (fun m g => m.abandonGop 1 g)
    let s3 := s2.each (s2.1.xfers.filter (fun x => decide (x.stn = n))) (fun m x => m.abandonXfer 1 x)
    let s4 := s3.each (s3.1.spks.filter (fun x => decide (x.stn = n))) (fun m x => m.abandonSpk 1 x)
    let s5 := s4.each (List.range 4) (fun m d => m.stopMortar 1 mine d)
    let s6 := s5.each (List.range 20) (fun m s => m.stopWhisk 1 mine s)
    let s7 := s6.each (List.range 4) (fun m d => m.stopTongs 1 mine false d)
    let s8 := s7.each [n] (fun m k => m.stopColls 1 k)
    let m2 := (s8.1.stopNorms (fun j => decide (j.stn = n))).setFlag (Reg.krt_BUSY n) false
    let m3 := { m2 with
      resets := m2.resets ++ [(⟨n, release, s8.2.map Prod.snd⟩ : StnReset)]
      queued := m2.queued.set (fun _ => none) n none
      dispatches := m2.dispatches.filter (fun e => decide (e.1 / 4 ≠ n)) }
    let m4 := (m3.setFlag (Reg.seq_QUEUED 0 n) false).setFld Reg.sys_STN_RBUSY (m3.fld Reg.sys_STN_RBUSY ||| 2 ^ n)
    m4.dvfs

/-- Station n's Tumbler resources return to their reset state (R288). -/
def State.tumblerReset (m : State) (n : Nat) : State :=
  let cs := (List.range (m.ctrNum n)).map (fun k => m.ctrBase n + k)
  let m1 := cs.foldl (fun m i =>
    (((m.setFld (Reg.tmb_VALUE i) 0).setFld (Reg.tmb_LIMIT i) (2 ^ 32 - 1)).setFld (Reg.tmb_OVF (i / 64))
      (m.fld (Reg.tmb_OVF (i / 64)) &&& (2 ^ 64 - 1 - 2 ^ (i % 64)))).setFld (Reg.tmb_UNF (i / 64))
      (m.fld (Reg.tmb_UNF (i / 64)) &&& (2 ^ 64 - 1 - 2 ^ (i % 64)))) m
  let m2 := m1.dropWatches (fun w => decide (w.stn = n))
  let m3 := (((m2.setFld (Reg.tmb_HEAD n) 0).setFld (Reg.tmb_TAIL n) 0).setFlag (Reg.tmb_LOST n) false)
  ((List.range (m.barNum n)).map (fun k => m.barBase n + k)).foldl State.barIdle m3

/-- Step 5 (R366). -/
def State.controlState (m : State) (n : Nat) (release : Bool) : State :=
  let m1 := m.tumblerReset n
  let m2 := { m1 with verdicts := m1.verdicts.filter (fun v => decide (v.stn ≠ n)) }
  let m3 := (m2.setStep n { m2.stepOf n with open_ := [] }).stepTry n
  let m4 := (((List.range 4).foldl (fun m q => m.clearNorms q n) m3).reloadSlots n).setFld (Reg.ldl_RLOG_HEAD 0 n) 0
  let m5 := (List.range 4).foldl (fun m q => { m with gens := m.gens.clear (512 * q + 64 * n) 64 }) m4
  let m6 := (List.range 4).foldl (fun m j => m.setFld (Reg.seq_PEND 0 n j) 0) { m5 with pstage := m5.pstage.clear (256 * n) 256 }
  let m7 := m6.flushSettle n
  let m8 := if release then m7.loseLines n else m7.flushLines n
  let m9 := { m8 with tdones := m8.tdones.filter (fun e => decide (e.1 / 16 ≠ n)) }
  let m10 := (List.range 4).foldl (fun m d => (m.stopTongs 1 (fun q => decide (q.stn = n)) true d).1) m9
  let m11 := (List.range 16).foldl (fun m t => m.setFld (Reg.tng_STATE 0 n t) 0) m10
  (List.range 4).foldl (fun m d => if (m.mortar d).owned ∧ m.fld (Reg.mtr_FSTN d) = n then m.dropKept d else m) m11

/-- Every field of a row indexed by station n returns to its reset value, counters of a module reset excepted (R409). -/
def State.releaseRows (m : State) (n : Nat) : State :=
  m.regs.foldl (fun m e => (rowsAt e.1).foldl (fun m r =>
    if r.1.own == .stn && !r.1.ctr && decide (r.2.headD 8 = n) then m.setFld ⟨e.1, r.1.hi, r.1.lo⟩ (bitsOf (resetNat e.1) r.1.hi r.1.lo)
    else m) m) m

/-- The windows and slices of a released station read zero, and its grants return to the module (R366 step 6). -/
def State.releaseGrants (m : State) (n : Nat) : State :=
  let m1 := (List.range 4).foldl (fun m q =>
    let t := m.trayWin n q
    let p := m.potWin n q
    let r := m.rcpWin n q
    let m1 := (((m.zero (trayAddr q t.1) t.2).zero (potAddr q p.1) p.2).zero (rcpAddr q 0 r.1) (32 * r.2)).zero (rcpAddr q 1 r.1) (32 * r.2)
    (List.range (p.2 / 4096)).foldl (fun m i => m.setFld (spByte q (p.1 / 4096 + i)) 0) m1) m
  let m2 := ((List.range 48).filter (fun k => (m.fld (Reg.sys_CRK_MASK n)).testBit k)).foldl State.zeroSlice m1
  let m3 := { m2 with
    groups := m2.groups.clear (4 * m.fld (Reg.krt_GBASE n)) (4 * m.fld (Reg.krt_GNUM n))
    grpSeen := m2.grpSeen.clear (m.fld (Reg.krt_GBASE n)) (m.fld (Reg.krt_GNUM n))
    grpSeq := m2.grpSeq.clear (m.fld (Reg.krt_GBASE n)) (m.fld (Reg.krt_GNUM n))
    steps := m2.steps.set (fun _ => .idle) n .idle
    vt := m2.vt.set (fun _ => 0) n 0 }
  m3.releaseRows n

/-- STATION_RESET_FINISH (R366, R367): once the writes issued are answered, steps 4 to 6. -/
def State.resetFinish (m : State) (n : Nat) : State :=
  match m.resets.find? (fun r => decide (r.stn = n)) with
  | none => m
  | some r =>
    if m.reqs.any (fun q => q.write && decide (q.stn = n)) ∨ m.outq.any (fun w => decide (w.stn = n)) then m
    else
      let parked := ((List.range 4).map (fun d => ((m.tong d).parked.filter (fun x => decide (x.q.stn = n))).map (fun x =>
        (⟨6, 0x34 + d, 1, x.q.addr, x.done, some (tngF x.d).n, x.epoch, 0⟩ : LedgerEntry)))).flatten
      let m1 := (r.led ++ parked).foldl (fun m e => m.ledger n e) m
      let m2 := m1.controlState n r.release
      let m3 := { m2 with resets := m2.resets.filter (fun x => decide (x.stn ≠ n)) }
      let m4 := (m3.setFlag (Reg.sys_LOCK n) false).setFld Reg.sys_STN_RBUSY (m3.fld Reg.sys_STN_RBUSY &&& (255 - 2 ^ n))
      if r.release then m4.releaseGrants n
      else (coresOf (m4.fld (Reg.sys_CORE_MASK n))).foldl State.coreStart m4

/-! ## Engine reset (R368, R369) -/

/-- Pages an engine reset acts on. -/
def isEngine (page : Nat) : Bool :=
  match blkOf page with
  | some (.grd, _) => true
  | some (.seq, _) => true
  | some (.ldl, _) => true
  | some (.wsk, _) => true
  | some (.tng, _) => true
  | some (.mtr, _) => true
  | some (.kp, _) => true
  | _ => false

/-- Recipes whose launch includes quadrant q stop with RESET. -/
def State.stopQuad (m : State) (q : Nat) : Stopped :=
  Stopped.each (m, []) ((List.range 8).filter (fun n => (m.launch n).any (fun l => l.has q))) (fun m n => m.stopReset 2 n q)

/-- A rebuild whose BG descriptors stop is abandoned (R373). -/
def State.rebuildLost (m : State) (n t : Nat) : State :=
  if m.tblState n t = 1 ∨ m.tblState n t = 2 then
    ({ m with tdones := m.tdones.filter (fun x => decide (x.1 ≠ 16 * n + t)) }).setFld (Reg.tng_STATE 0 n t) 0
  else m

/-- What the reset of an engine stops and clears. -/
def State.engineStop (m : State) (page : Nat) : Stopped :=
  match blkOf page with
  | some (.grd, q) =>
    let s1 := Stopped.each (m, []) (m.gops.filter (fun g => decide (q ∈ g.f.region))) (fun m g => m.abandonGop 2 g)
    s1.each [q] (fun m q => m.stopQuad q)
  | some (.seq, q) =>
    let s1 := m.stopQuad q
    s1.each (s1.1.xfers.filter (fun x => decide (x.q = q))) (fun m x => m.abandonXfer 2 x)
  | some (.ldl, q) =>
    let s1 := Stopped.each (m, []) (m.gops.filter (fun g => g.granted && decide (q ∈ g.f.ladles))) (fun m g => m.abandonGop 2 g)
    let s2 := s1.each (s1.1.spks.filter (fun x => decide (x.q = q))) (fun m x => m.abandonSpk 2 x)
    let m1 := s2.1.stopNorms (fun j => if j.flush then decide (q = 0) else decide (j.q = q))
    ((List.range 8).foldl (fun m n => m.clearNorms q n) m1, s2.2)
  | some (.wsk, s) => m.stopWhisk 2 (fun _ => true) s
  | some (.tng, d) => (((m.tong d).run.filter (fun x => x.bg && x.bound.isSome)).foldl (fun m x => m.rebuildLost x.q.stn x.slot) m).stopTongs 2
      (fun _ => true) true d
  | some (.mtr, d) =>
    let s1 := m.stopMortar 2 (fun _ => true) d
    let m1 := s1.1
    let m2 := { m1 with mem := m1.mem.clear (mtrAddr d 0) 0x100_0000, poison := m1.poison.clear (mtrAddr d 0 / 32) 0x8_0000 }
    (((m2.setMortar d { m2.mortar d with used := false, owned := false, kept := none }).setFld (Reg.mtr_FSTN d) 0).setFlag
      (Reg.mtr_FVALID d) false, s1.2)
  | some (.kp, p) =>
    let m1 := m.linkTo p LState.down true
    (if m1.flag (Reg.kp_EN p) ∧ !m1.safe then m1.setFld (Reg.kp_LSTATE p) LState.train else m1, [])
  | _ => (m, [])

/-- An engine reset starts (R368): its work stops, queues are cancelled, and each affected item has its ledger entry. -/
def State.engineReset (m : State) (page : Nat) : State :=
  let s := m.engineStop page
  let m1 := s.1.ledgers s.2
  let m2 := ({ m1.disarm page with engResets := if page ∈ m1.engResets then m1.engResets else m1.engResets ++ [page] }).setFlag Reg.sys_BUSY true
  m2.dvfs

/-- GO of SYS_ERST (R383): a page that is no engine is recorded. -/
def State.erstGo (m : State) (master : Nat) : State :=
  let page := m.fld Reg.sys_PAGE
  if isEngine page then m.engineReset page else m.access 0 master none 1 (0xF00_0000_0000 + Reg.sys_GO.off)

/-- ENGINE_READY (R369): every flush in progress completes first (R373); credits are at their initial allocation. -/
def State.engineReady (m : State) (page : Nat) : State :=
  if page ∉ m.engResets then m
  else
    let m1 := (List.range 8).foldl State.flushSettle m
    let rest := m1.engResets.filter (fun p => decide (p ≠ page))
    ({ m1 with engResets := rest }).setFlag Reg.sys_BUSY (!rest.isEmpty)

/-! ## Enabling (R23, R119, R203, R225) -/

/-- Resources of stations n and k meet (R23, R88). -/
def State.grantsMeet (m : State) (n k : Nat) : Bool :=
  let meets (a la b lb : Nat) : Bool := decide (0 < la ∧ 0 < lb ∧ a < b + lb ∧ b < a + la)
  (List.range 4).any (fun i => (List.range 4).any (fun j =>
    m.flag (Reg.sys_VALID n i) && m.flag (Reg.sys_VALID k j) &&
      decide (m.fld (Reg.sys_BASE_GIB n i) ≤ m.fld (Reg.sys_LAST_GIB k j) ∧ m.fld (Reg.sys_BASE_GIB k j) ≤ m.fld (Reg.sys_LAST_GIB n i)))) ||
  decide (m.fld (Reg.sys_CRK_MASK n) &&& m.fld (Reg.sys_CRK_MASK k) ≠ 0) ||
  decide (m.fld (Reg.sys_CORE_MASK n) &&& m.fld (Reg.sys_CORE_MASK k) ≠ 0) ||
  meets (m.ctrBase n) (m.ctrNum n) (m.ctrBase k) (m.ctrNum k) ||
  meets (m.wchBase n) (m.wchNum n) (m.wchBase k) (m.wchNum k) ||
  meets (m.barBase n) (m.barNum n) (m.barBase k) (m.barNum k) ||
  (List.range 4).any (fun q =>
    meets (m.rcpWin n q).1 (m.rcpWin n q).2 (m.rcpWin k q).1 (m.rcpWin k q).2 ||
    meets (m.trayWin n q).1 (m.trayWin n q).2 (m.trayWin k q).1 (m.trayWin k q).2 ||
    meets (m.potWin n q).1 (m.potWin n q).2 (m.potWin k q).1 (m.potWin k q).2)

/-- MS2 is extended with the station's SYS registers and SEQ windows at its enable (R362). -/
def State.extendSlot (m : State) (i : Nat) (data : List Byte) : State :=
  let old := (List.range 6).flatMap (fun w => leBytes (m.fld (Reg.fw_MS i w)) 8)
  let h := (Config.sha384 (old ++ data)).toNat
  (List.range 6).foldl (fun m w => m.setFld (Reg.fw_MS i w) (bitsOf h (64 * w + 63) (64 * w))) m

def State.stnMeasure (m : State) (n : Nat) : List Byte :=
  ((List.range 8).flatMap (fun k => leBytes (m.reg (0x100 + 0x40 * n + 8 * k)) 8)) ++
  ((List.range 4).flatMap (fun q => (List.range 2).flatMap (fun k => leBytes (m.reg (0xC_0100 + 0x1_0000 * q + 0x20 * n + 8 * k)) 8)))

/-- A write of 1 to EN of a disabled station (R23): refused with OVL on an overlap or without cores and ranges; else its
slices read zero, its Ladle slots are loaded, MS2 is extended and its cores leave reset. -/
def State.enableTry (m : State) (n : Nat) : State :=
  let none_ := decide (m.fld (Reg.sys_CORE_MASK n) = 0) && (List.range 4).all (fun k => !m.flag (Reg.sys_VALID n k))
  let overlap := (List.range 8).any (fun k => decide (k ≠ n) && m.stnOn k && m.grantsMeet n k)
  if none_ || overlap then m.setFlag (Reg.sys_OVL n) true
  else
    let m1 := (m.setFlag (Reg.sys_EN n) true).setFlag (Reg.sys_OVL n) false
    let m2 := ((List.range 48).filter (fun k => (m.fld (Reg.sys_CRK_MASK n)).testBit k)).foldl State.zeroSlice m1
    let m3 := (m2.reloadSlots n).extendSlot 2 (m1.stnMeasure n)
    (coresOf (m.fld (Reg.sys_CORE_MASK n))).foldl State.coreStart m3

def execStationResetFinish (n : Stn) (s : State) : Host.Outcome State Fault Refusal := .next (s.resetFinish n).landed
def execEngineReady (page : Fin 155) (s : State) : Host.Outcome State Fault Refusal := .next (s.engineReady page)

end Sys2Proof.Machine
end

