-- ==== Sys2Proof/Machine/Margin.lean ====
section
/-! DEFINITION. Doorbells (R180, R181, R200), in-service self-test (R378, R379) and margin tests (R380). -/

namespace Sys2Proof.Machine

/-! ## Interrupts -/

/-- An MSI-X vector waits for the host (R396). -/
def State.irqHost (m : State) (v : Nat) : State := { m with msix := if v ∈ m.msix then m.msix else m.msix ++ [v] }

/-- A machine external interrupt is pending at core c. -/
def State.irqCore (m : State) (c : Nat) : State := { m with coreIrq := if c ∈ m.coreIrq then m.coreIrq else c :: m.coreIrq }

/-! ## Doorbells -/

/-- The die a doorbell's engine lies on. -/
def bellDie (page : Nat) : Nat :=
  match blkOf page with
  | some (.wsk, s) => s / 5
  | some (.tng, d) => d
  | some (.mtr, d) => d
  | _ => 0

/-- A doorbell write with GO takes effect: the descriptor joins its station's queue, where the writes that find it full wait
in order (R167, R184). -/
def State.ringNow (m : State) (master page n v : Nat) : State :=
  let d := doorbell n v
  match blkOf page with
  | some (.krt, _) => m.collDoorbell master n v
  | some (b, u) =>
    if !m.doorbellOk d then m.access page master (some n) 1 (0xF00_0000_0000 + 0x1_0000 * page + 0x180 + 8 * n)
    else
      let m1 := m.stepDispatch n
      match b with
      | .wsk => m1.whiskPush u d
      | .tng => m1.tongPush u d
      | .mtr => m1.mortarPush u d
      | _ => m
  | none => m

/-- A doorbell write of station n at an engine's page: without GO nothing; on a die under a margin test it waits (R380). -/
def State.ring (m : State) (master page n v : Nat) : State :=
  if !v.testBit 63 then m
  else if m.marginOnDies (2 ^ bellDie page) ∧ !m.inReset n then
    { m with bells := m.bells ++ [(master, 0x1_0000 * page + 0x180 + 8 * n, v)] }
  else m.ringNow master page n v

/-! ## Margin tests -/

/-- Station n holds a core, slice or recipe window on die d. -/
def State.holdsDie (m : State) (n d : Nat) : Bool :=
  m.stnOn n &&
  (decide (bitsOf (m.fld (Reg.sys_CORE_MASK n)) (4 * d + 3) (4 * d) ≠ 0) ||
    decide (bitsOf (m.fld (Reg.sys_CRK_MASK n)) (12 * d + 11) (12 * d) ≠ 0) || decide ((m.rcpWin n d).2 ≠ 0))

/-- Station n is drained (R380). -/
def State.drainedStn (m : State) (n : Nat) : Bool :=
  let mine (d : QDesc) : Bool := decide (d.stn = n)
  (m.launch n).isNone && (m.queued.get (fun _ => none) n).isNone && (m.gopsOf n).isEmpty &&
  (List.range 20).all (fun s => !(m.whisk s).queue.any mine && !((m.whisk s).run.any (fun c => mine c.q))) &&
  (List.range 4).all (fun d => !(m.tong d).queue.any mine && !(m.tong d).run.any (fun x => mine x.q) &&
    !(m.tong d).parked.any (fun x => mine x.q) && !(m.mortar d).queue.any mine && !((m.mortar d).run.any (fun s => mine s.q))) &&
  !m.colls.any (fun c => decide (c.q.stn = n))

/-- GO of SYS_MARGIN, from the register's fields (R380): refused while a station on a selected die is not drained. -/
def State.marginGo (m : State) : State :=
  let dies := (List.range 4).filter (fun d => (m.fld Reg.sys_DIE).testBit d)
  let blockers := (List.range 8).filter (fun n => dies.any (m.holdsDie n) && !m.drainedStn n)
  if m.flag Reg.sys_BUSY_510 then m
  else if !blockers.isEmpty then
    (m.setFld Reg.sys_RESULT 3).setFld Reg.sys_BLOCKER ((blockers.map (fun n => 2 ^ n)).sum)
  else
    let cur := m.fld Reg.pwr_ARRAY_CUR
    let shifted := (cur : Int) + 10 * signedOf (m.fld Reg.sys_FSHIFT) 8
    let m1 := (((m.setFlag Reg.sys_BUSY_510 true).setFld Reg.sys_RESULT 0).setFld Reg.sys_BLOCKER 0).setFld Reg.sys_ERRORS 0
    let m2 := { m1 with marginOn := true }
    if cur = 0 then m2 else (m2.setFld Reg.pwr_ARRAY_CUR (max 800 (min 1350 shifted)).toNat).setFld Reg.pwr_LIM_WHY 4

/-- The test is over: supply and clock return, and what waited for it goes on, in order. -/
def State.marginOver (m : State) (result : Nat) : State :=
  if !m.flag Reg.sys_BUSY_510 then m
  else
    let m1 := ((m.setFlag Reg.sys_BUSY_510 false).setFld Reg.sys_RESULT result).irqHost 2
    let m2 := { m1 with marginOn := false, bells := [] }.dvfs
    let m3 := m.bells.foldl (fun m b => m.ringNow b.1 (b.2.1 / 0x1_0000) ((b.2.1 % 0x1_0000 - 0x180) / 8) b.2.2) m2
    (List.range 8).foldl State.startQueued m3

/-- MARGIN_TEST_END (R380). -/
def State.marginEnd (m : State) : State := m.marginOver (if m.fld Reg.sys_ERRORS = 0 then 1 else 2)

/-! ## Self-test slices (R378, R379) -/

/-- A unit that a slice can run on is idle; its die. -/
def State.testUnit (m : State) (page : Nat) : Option Nat :=
  match blkOf page with
  | some (.grd, q) => if m.gops.isEmpty then some q else none
  | some (.wsk, s) => if (m.whisk s).run.isNone && (m.whisk s).queue.isEmpty then some (s / 5) else none
  | some (.mtr, d) => if (m.mortar d).run.isNone && (m.mortar d).queue.isEmpty then some d else none
  | some (.crk, d) => if (List.range 12).any (fun i => (m.sliceStn (12 * d + i)).isNone) then some d else none
  | _ => none

/-- SELF_TEST_SLICE (R378, R379): a test of an idle unit; inside a margin test its mismatch counts in ERRORS instead. -/
def State.testSlice (m : State) (page : Nat) (pass : Bool) : State :=
  match m.testUnit page with
  | none => m
  | some d =>
    if m.safe then m
    else if m.flag Reg.sys_BUSY_510 then
      if (m.fld Reg.sys_DIE).testBit d ∧ !pass then m.bump Reg.sys_ERRORS 1 else m
    else if !m.flag Reg.sys_EN_500 then m
    else if pass then m.bump Reg.sys_PASSES 1
    else
      let m1 := if m.flag Reg.sys_FAIL then m else m.setFld Reg.sys_FAIL_UNIT page
      (((m1.setFlag Reg.sys_FAIL true).bump Reg.sys_FAILS 1).irqCore 16).irqHost 2

def execMarginTestEnd (s : State) : Host.Outcome State Fault Refusal := .next s.marginEnd
def execSelfTestSlice (page : Fin 155) (pass : Bool) (s : State) : Host.Outcome State Fault Refusal := .next (s.testSlice page pass)

end Sys2Proof.Machine
end

