-- ==== Sys2Proof/Machine/Power.lean ====
section
/-! DEFINITION. The PWR block (R17, R330, R386 to R394, R400): samples, throttling and clock limits, the compute domain's
power, and the safe state's effect on it (R329). -/

namespace Sys2Proof.Machine

/-- Pages of the PWR block's events. -/
def pwrEvent (code detail : Nat) (inj : Bool) : Ev := { page := 1, code := code, detail := detail, inj := inj }

/-- Compute and HBM power go: their memories lose their contents, the clocks stop (R393). -/
def State.losePower (m : State) : State :=
  let keep (l : SMap Byte) (a : Nat) : SMap Byte := l.filter (fun e => decide (a ≤ e.1))
  let m1 := { m with
    mem := keep m.mem 0xE00_0000_0000
    poison := keep m.poison (0xE00_0000_0000 / 32)
    stale := [], stalePsn := [], cache := [], trayTags := [], coreBytes := [], mxScale := []
    power := { m.power with phase := 0 } }
  (m1.setFlag Reg.pwr_COMPUTE_GOOD false).setFld Reg.pwr_ARRAY_CUR 0

/-- The safe state (R329, R393): SAFE_WHY takes the code, power is removed and every Keyring port goes DOWN. -/
def State.enterSafe (m : State) (code : Nat) : State :=
  if m.safe then m
  else
    let m1 := ((m.marginOver 4).setFld Reg.bolt_SAFE_WHY code).losePower
    (List.range 64).foldl (fun m p => m.linkTo p LState.down false) m1

/-! ## Samples -/

/-- The input voltage, in tenths of a volt, lies within 700–860 V. -/
def vinOk (dv : Nat) : Bool := decide (7000 ≤ dv ∧ dv ≤ 8600)

/-- VIN_OK and the time since which the input has been in range. -/
def State.setVin (m : State) (dv : Nat) : State :=
  let since := if vinOk dv then (match m.power.vinSince with
    | some t => some t
    | none => some m.now) else none
  { (m.setFld Reg.pwr_VIN dv).setFlag Reg.pwr_VIN_OK (vinOk dv) with power := { m.power with vinSince := since } }

/-- The throttle level after a sample (R390), and the samples counted toward the next change. -/
def State.throttle (m : State) (watts mean : Nat) : State :=
  let pcap := min (m.fld Reg.pwr_PCAP_REQ) (m.fld Reg.pwr_PCAP_MAX)
  let h0 := m.fld Reg.pwr_THROT
  let h1 := if pcap < mean then min 15 (h0 + 1) else h0
  let h2 := if 5200 < watts then max 8 h1 else h1
  let cool := if mean + 100 < pcap then m.power.coolSamples + 1 else 0
  let h3 := if cool = 100 then h2 - 1 else h2
  let h := if m.power.thermActive then max 4 h3 else h3
  let hot := if h = 0 then 0 else m.power.hotSamples + 1
  let m1 := { m with power := { m.power with
    coolSamples := if cool = 100 then 0 else cool
    hotSamples := if hot = 1000 then 0 else hot
    powerDrop := m.power.powerDrop || decide (hot = 1000) } }
  let m2 := m1.setFld Reg.pwr_THROT h
  if h = 0 then m2 else m2.bump Reg.pwr_THROT_SAMPLES 1

/-- Stage k trips on overcurrent (R330): it is off, and PWR_OC is reported. -/
def State.stageTrip (m : State) (k : Nat) (inj : Bool) : State :=
  (m.setFld Reg.pwr_STAGE_OC (m.fld Reg.pwr_STAGE_OC ||| 2 ^ k)).report (pwrEvent Code.pwrOc 0 inj)

/-- POWER_SAMPLE (R390). -/
def State.powerSample (m : State) (watts mean ma dv : Nat) : State :=
  let m1 := (m.setVin dv).setFlag Reg.pwr_COOL_OK m.pins.coolOk
  let m2 := ((m1.setFld Reg.pwr_IIN (min ma 65535)).setFld Reg.pwr_PIN (min watts 65535)).setFld Reg.pwr_PIN_1MS (min mean 65535)
  let m3 := m2.setFld Reg.pwr_PEAK (max (m2.fld Reg.pwr_PEAK) (min watts 65535))
  let e := m3.power.energyRem + watts
  let m4 := ({ m3 with power := { m3.power with energyRem := e % 100 } }).bump Reg.pwr_ENERGY (e / 100)
  let m5 := m4.throttle watts mean
  let m6 := if m5.injFires 1 0 then (m5.disarm 1).stageTrip (min 7 (m5.fld (Reg.hdr_UNIT 1))) true else m5
  m6.dvfs

/-- THERM_WARN (R386): throttle and clock reduction begin; a margin test is aborted (R380). -/
def State.thermWarn (m : State) (inj : Bool) : State :=
  let m1 := (m.report (pwrEvent Code.thermWarn 0 inj)).marginOver 4
  ({ m1 with power := { m1.power with thermActive := true } }).setFld Reg.pwr_THROT (max 4 (m1.fld Reg.pwr_THROT))

/-- THERMAL_SAMPLE (R386): the hottest reading of each die and of each stack. -/
def State.thermalSample (m : State) (tj thbm : List Nat) : State :=
  let m1 := (List.range 4).foldl (fun m d =>
    let t := min 255 (tj.getD d 0)
    (m.setFld (Reg.pwr_TJ d) t).setFld (Reg.pwr_TJ_MAX d) (max t (m.fld (Reg.pwr_TJ_MAX d)))) m
  let m2 := (List.range 20).foldl (fun m s => m.setFld (Reg.pwr_THBM s) (min 255 (thbm.getD s 0))) m1
  let die := (tj.take 4).foldl max 0
  let stk := (thbm.take 20).foldl max 0
  let wd := m2.fld Reg.pwr_WARN_C
  let ws := m2.fld Reg.pwr_HBM_WARN_C
  let above := decide (wd ≤ die ∨ ws ≤ stk)
  let cooled := decide (die + 5 ≤ wd ∧ stk + 5 ≤ ws)
  let crossing := above && !m2.power.thermAbove
  let m3 := { m2 with power := { m2.power with thermAbove := above, thermActive := m2.power.thermActive && !cooled } }
  let m4 := if crossing then m3.thermWarn false else m3
  let m5 := if m4.fld Reg.pwr_TRIP_C ≤ die ∨ m4.fld Reg.pwr_HBM_TRIP_C ≤ stk then m4.report (pwrEvent Code.thermTrip 0 false) else m4
  let m6 := if m5.injFires 1 1 then ((m5.disarm 1).thermWarn true).report (pwrEvent Code.thermTrip 0 true) else m5
  m6.dvfs

/-- CLOCK_LIMIT_RAISE (R386, R390): every 100 ms the limits that are below the request rise by 25 MHz. -/
def State.limitRaise (m : State) : State :=
  let req := m.fld Reg.pwr_ARRAY_REQ
  let up (l : Nat) (stay : Bool) : Nat := if stay ∨ req ≤ l then l else min 1350 (l + 25)
  ({ m with power := { m.power with
    thermLim := up m.power.thermLim m.power.thermActive
    powerLim := up m.power.powerLim (decide (m.fld Reg.pwr_THROT ≠ 0)) } }).dvfs

/-- The level of COOL_OK. -/
def State.setCool (m : State) (b : Bool) : State := { m.setFlag Reg.pwr_COOL_OK b with pins := { m.pins with coolOk := b } }

/-- COOL_OK_LOW (R386): 100 ms low with compute power on. -/
def State.coolLow (m : State) : State :=
  let m1 := m.setCool false
  if m1.power.phase = 2 then m1.report (pwrEvent Code.thermTrip 1 false) else m1

/-- COOL_OK_FALLS (R394): during power-up the sequence aborts with an orderly power-down. -/
def State.coolFalls (m : State) : State :=
  let m1 := m.setCool false
  if m1.power.phase = 1 then ((m1.setFlag Reg.pwr_COMPUTE_ON false).losePower).report (pwrEvent Code.thermTrip 1 false) else m1

/-- OVERCURRENT of stage k (R330): a stage that is on is switched off. -/
def State.overcurrent (m : State) (k : Nat) : State := if m.power.phase = 0 then m else m.stageTrip k false

/-- INPUT_EXCURSION (R388, R394): with compute power on, or coming up, PWR_INPUT; a sequence aborts. -/
def State.inputOut (m : State) (dv : Nat) : State :=
  if vinOk dv then m
  else
    let m1 := m.setVin dv
    if m1.power.phase = 0 then m1
    else (if m1.power.phase = 1 then m1.losePower else m1).report (pwrEvent Code.pwrInput 0 false)

/-! ## Sequencing (R392, R393) -/

/-- A write of COMPUTE_ON by the trusted core. -/
def State.computeWrite (m : State) (master v : Nat) : State :=
  let refuse := m.access 1 master none 1 (0xF00_0000_0000 + Reg.pwr_COMPUTE_ON.off)
  if v % 2 = 1 then
    if m.power.phase ≠ 0 then m
    else
      let steady := match m.power.vinSince with
        | some t => decide (t + 100_000_000 ≤ m.now)
        | none => false
      if m.pins.coolOk && steady && !m.safe then
        { m.setFlag Reg.pwr_COMPUTE_ON true with power := { m.power with phase := 1, failed := [] } }
      else refuse
  else if !m.flag Reg.pwr_COMPUTE_ON then m
  else if (List.range 8).any m.stnOn then refuse
  else (m.setFlag Reg.pwr_COMPUTE_ON false).losePower

/-- COMPUTE_GOOD (R392): with every stack trained the clock rises to its limit; a stack that failed is recorded at its MC,
whose capture's code the spec does not name. -/
def State.computeGood (m : State) (failed : List Nat) : State :=
  if m.power.phase ≠ 1 then m
  else if failed.isEmpty then
    ({ m with power := { m.power with phase := 2 } }.setFlag Reg.pwr_COMPUTE_GOOD true).dvfs
  else
    let m1 := { m with power := { m.power with failed := failed } }.setFld Reg.pwr_ARRAY_CUR 800
    failed.foldl (fun m s =>
      let w := m.drawWord
      w.2.capture { page := 0x30 + s, code := w.1.toNat % 256 }) m1

def execPowerSample (watts mean1ms milliamps decivolts : Nat) (s : State) : Host.Outcome State Fault Refusal :=
  .next (s.powerSample watts mean1ms milliamps decivolts)
def execThermalSample (tj thbm : List Nat) (s : State) : Host.Outcome State Fault Refusal := .next (s.thermalSample tj thbm)
def execClockLimitRaise (s : State) : Host.Outcome State Fault Refusal := .next s.limitRaise
def execCoolOkLow (s : State) : Host.Outcome State Fault Refusal := .next s.coolLow
def execCoolOkFalls (s : State) : Host.Outcome State Fault Refusal := .next s.coolFalls
def execOvercurrent (k : Fin 8) (s : State) : Host.Outcome State Fault Refusal := .next (s.overcurrent k)
def execInputExcursion (decivolts : Nat) (s : State) : Host.Outcome State Fault Refusal := .next (s.inputOut decivolts)
def execComputeGood (failed : List Stack) (s : State) : Host.Outcome State Fault Refusal :=
  .next (s.computeGood (failed.map (fun x => x.val)))

end Sys2Proof.Machine
end

