-- ==== Sys2Proof/Machine/Bolt.lean ====
section
/-! DEFINITION. The Bolt (R322 to R336): taking an event, severity, the log, the reactions, and ERR_ALERT_N. -/

namespace Sys2Proof.Machine

/-! ## ERR_ALERT_N (R331) -/

/-- The pin is driven low: its minimum low time starts. -/
def State.alertDrive (m : State) : State :=
  { m.setFlag Reg.bolt_PIN true with alert := ⟨true, false, false⟩, pins := { m.pins with errAlertN := false } }

/-- The pin is released: its minimum released time starts. -/
def State.alertRelease (m : State) : State :=
  { m.setFlag Reg.bolt_PIN false with alert := ⟨false, false, true⟩, pins := { m.pins with errAlertN := true } }

/-- An ALERT action; one that follows a clear that still waits keeps PEND set. -/
def State.alertAct (m : State) : State :=
  let m1 := (m.setFlag Reg.bolt_PEND true).bump Reg.bolt_ALERTS 1
  let m2 := { m1 with alert := { m1.alert with clearPend := false } }
  if m2.flag Reg.bolt_PIN || m2.alert.highMin then m2 else m2.alertDrive

/-- A write of 1 to PEND: within the minimum low time it waits for its end. -/
def State.pendClear (m : State) : State :=
  if m.flag Reg.bolt_PIN && m.alert.lowMin then { m with alert := { m.alert with clearPend := true } }
  else
    let m1 := m.setFlag Reg.bolt_PEND false
    if m.flag Reg.bolt_PIN then m1.alertRelease else m1

/-- ALERT_MIN_TIME. -/
def State.alertMinEnd (m : State) : State :=
  if !m.alert.lowMin then m
  else
    let m1 := if m.alert.clearPend then m.setFlag Reg.bolt_PEND false else m
    let m2 := { m1 with alert := { m1.alert with lowMin := false, clearPend := false } }
    if m2.flag Reg.bolt_PEND then m2 else m2.alertRelease

/-- ALERT_RELEASE_MIN_TIME. -/
def State.alertHighEnd (m : State) : State :=
  if !m.alert.highMin then m
  else
    let m1 := { m with alert := { m.alert with highMin := false } }
    if m1.flag Reg.bolt_PEND then m1.alertDrive else m1

/-! ## Severity (R326) -/

/-- Class of a code (R322). -/
inductive EvClass where
  | s | u | f
  deriving DecidableEq, Repr

def classOf (code : Nat) : EvClass :=
  if code ∈ [0x04, 0x0A, 0x0B, 0x11, 0x14, 0x15, 0x16, 0x17, 0x22] then .u
  else if code ∈ [0x20, 0x21, 0x23, 0x24] then .f
  else .s

def State.severeSrc (m : State) (src : Nat) : Bool := (m.fld (Reg.bolt_SEVERE (src / 64))).testBit (src % 64)

/-- A source becomes severe; an open step sees it (R311). -/
def State.setSevere (m : State) (src : Nat) : State :=
  let f := Reg.bolt_SEVERE (src / 64)
  let m1 := m.setFld f (m.fld f ||| 2 ^ (src % 64))
  (List.range 8).foldl (fun m n => m.setStep n { m.stepOf n with severe := true }) m1

/-- The event joins its source's history, where it counts (R332), and may make the source severe. -/
def State.classify (m : State) (e : Event) : State :=
  if e.inj && !m.flag Reg.bolt_INJ_CNT then m
  else
    let h := (e.time :: m.hist.get (fun _ => []) e.page).take 32
    let n := m.fld (Reg.bolt_N e.page)
    let win := m.fld (Reg.bolt_WIN e.page) * 1_000_000_000
    let m1 := { m with hist := m.hist.set (fun _ => []) e.page h }
    let sev := match h[n - 1]? with
      | some t => decide (e.time < t + win)
      | none => false
    if m1.severeSrc e.page then m1
    else if sev || decide (classOf e.code = EvClass.f) then m1.setSevere e.page else m1

/-- SEVERE bits written with 1 clear, and with each the history of its source. -/
def State.severeClear (m : State) (j v : Nat) : State :=
  let f := Reg.bolt_SEVERE j
  let w := v % 2 ^ 64
  let m1 := m.setFld f (m.fld f &&& (2 ^ 64 - 1 - w))
  { m1 with hist := m1.hist.filter (fun e => !(decide (e.1 / 64 = j) && w.testBit (e.1 % 64))) }

/-! ## The log (R336) -/

def State.logEvent (m : State) (e : Event) : State :=
  let h := m.fld Reg.bolt_HEAD
  if (h + 1) % 64 = m.fld Reg.bolt_TAIL then m.bump Reg.bolt_LOG_LOST 1
  else
    let b := 0x2_1000 + 0x20 * h
    let w := e.page + e.code <<< 8 + (e.stn.getD 0) <<< 16 + b2n e.stn.isSome <<< 19 + b2n e.inj <<< 20 +
      b2n (m.severeSrc e.page) <<< 21 + b2n e.loss <<< 22 + b2n (!m.flag Reg.time_LOCK) <<< 23 + e.master <<< 24 +
      e.acc <<< 32 + (e.detail % 2 ^ 29) <<< 35
    (((m.setReg b e.time).setReg (b + 8) w).setReg (b + 0x10) e.addr).setFld Reg.bolt_HEAD ((h + 1) % 64)

/-! ## Reactions (R327 to R329) -/

/-- PORTOFF writes EN = 0 to the reporting port (R248). -/
def State.portOff (m : State) (p : Nat) : State := (m.setFlag (Reg.kp_EN p) false).linkTo p LState.down true

/-- The actions of a mask for an event of a source; each applies only where the source has it. -/
def State.react (m : State) (e : Event) (mask : Nat) : State :=
  let on (k : Nat) : Bool := mask.testBit k
  let m1 := if on 0 then m.irqHost 0 else m
  let m2 := if on 1 then m1.irqCore 16 else m1
  let m3 := match e.stn with
    | some n => if on 2 && m2.stnOn n then (coresOf (m2.fld (Reg.sys_CORE_MASK n))).foldl State.irqCore m2 else m2
    | none => m2
  let m4 := if on 3 then m3.alertAct else m3
  let m5 := match e.stn with
    | some n => if on 4 && m4.stnOn n then m4.resetBegin n false else m4
    | none => m4
  let m6 := if on 5 && isEngine e.page then m5.engineReset e.page else m5
  let m7 := match blkOf e.page with
    | some (.kp, p) => if on 6 then m6.portOff p else m6
    | _ => m6
  if on 7 then m7.enterSafe e.code else m7

/-- Mask of a taken event (R327, R328). -/
def State.maskOf (m : State) (e : Event) : Nat :=
  let mask := if m.severeSrc e.page then m.fld (Reg.bolt_REACT_S e.page) else m.fld (Reg.bolt_REACT_N e.page)
  match classOf e.code with
  | .s => mask &&& 0x17
  | .u => mask
  | .f => mask ||| 0x80

/-- The fixed actions of BOLT_INTERNAL: IRQT, IRQH, ALERT and SAFE (R334). -/
def internalMask : Nat := 0x8B

/-- The event taken next (R323): of those that arrived with the oldest, at one global time, that of the lowest source. -/
def State.nextEvent (m : State) : Option Event :=
  let l := m.events.filter (fun e => decide (m.events.head?.map (fun x => x.time) = some e.time))
  let p := (l.map (fun e => e.page)).foldl min 0xFF
  l.find? (fun e => decide (e.page = p))

/-- Counts, history, log of a taken event. -/
def State.takeEvent (m : State) (e : Event) : State :=
  let m1 := ({ m with events := m.events.erase e }.bump Reg.bolt_EVENTS 1).bump (Reg.bolt_CNT e.page) 1
  let m2 := match e.stn with
    | some n => if classOf e.code = EvClass.s then m1.bump (Reg.bolt_STN_EVT n) 1 else m1
    | none => m1
  (m2.classify e).logEvent e

/-- BOLT_EVENT. An armed table-parity injection fires at the reaction-table read: BOLT_INTERNAL's fixed actions replace the
event's own (R332, R334). A BOLT_INTERNAL event has had its actions. -/
def State.boltEvent (m : State) : State :=
  match m.nextEvent with
  | none => m
  | some e =>
    let m1 := m.takeEvent e
    if e.code = Code.boltInternal then m1
    else if m1.injFires 2 0 then
      let i : Event := ⟨2, Code.boltInternal, none, true, false, 0xFF, 6, 0, 0, m1.now⟩
      ((m1.disarm 2).report { page := 2, code := Code.boltInternal, inj := true }).react i internalMask
    else m1.react e (m1.maskOf e)

def execBoltEvent (s : State) : Host.Outcome State Fault Refusal := .next s.boltEvent
def execAlertMinTime (s : State) : Host.Outcome State Fault Refusal := .next s.alertMinEnd
def execAlertReleaseMinTime (s : State) : Host.Outcome State Fault Refusal := .next s.alertHighEnd

end Sys2Proof.Machine
end

