-- ==== Sys2Proof/Machine/Firmware.lean ====
section
/-! DEFINITION. Firmware (R352 to R362, R364): flash copies and their check, boot, the module reset, the mailboxes,
handover of service firmware, and update sessions. -/

namespace Sys2Proof.Machine

/-! ## Memories, flash and manifests (R352 to R354) -/

def trustedBase : Nat := 0xE00_0000_0000
def handoverBase : Nat := 0xE00_03C0_0000
def stagingBase : Nat := 0xE00_0400_0000

/-- Flash offset and size of a copy: trusted or service, A (false) or B (true). -/
def copyOff (trusted b : Bool) : Nat :=
  match trusted, b with
  | true, false => 0
  | true, true => 0x40_0000
  | false, false => 0x80_0000
  | false, true => 0x200_0000

def copySize (trusted : Bool) : Nat := if trusted then 0x40_0000 else 0x180_0000

/-- Number of a copy in the list of invalid copies. -/
def copyIx (trusted b : Bool) : Nat := (if trusted then 0 else 2) + b2n b

def State.flashBytes (m : State) (a n : Nat) : List Byte := SMap.read memZero (m.flash.slice a n) 0 n

/-- A manifest's fields (R354). -/
structure Manifest where
  kind : Nat
  keyidx : Nat
  version : Nat
  svn : Nat
  size : Nat
  hash : Nat
  signed : List Byte
  sig : List Byte
  deriving DecidableEq, Repr

def manifestOf (bs : List Byte) : Manifest :=
  let d := leNat (bs.take 0xB0)
  { kind := bitsOf d 7 0, keyidx := bitsOf d 15 8, version := bitsOf d 127 64, svn := bitsOf d 159 128, size := bitsOf d 223 192,
    hash := bitsOf d (8 * 0x50 - 1) (8 * 0x20), signed := bs.take 0x50, sig := (bs.drop 0x50).take 96 }

/-- Every check of R354 but HASH. sig: the signature verifies. -/
def State.manifestOk (m : State) (trusted : Bool) (f : Manifest) (sig : Bool) : Bool :=
  decide (f.kind = if trusted then 1 else 2) && decide (f.keyidx < 4) && !m.fuses.krev.testBit f.keyidx &&
  decide (f.size + 4096 ≤ copySize trusted) && sig &&
  decide ((if trusted then m.fuses.tsvnMin else m.fuses.ssvnMin) ≤ f.svn)

def Manifest.sigOk (f : Manifest) : Bool := Config.sigOk f.keyidx f.signed f.sig

def sha (bs : List Byte) : Nat := (Config.sha384 bs).toNat

/-- A flash copy passes its check (R354); a copy marked invalid does not. -/
def State.copyOk (m : State) (trusted b : Bool) : Bool :=
  let o := copyOff trusted b
  let f := manifestOf (m.flashBytes o 256)
  decide (copyIx trusted b ∉ m.fuses.invalid) && m.manifestOk trusted f f.sigOk &&
    decide (sha (m.flashBytes (o + 4096) f.size) = f.hash)

/-- Replace [a, a + n) of memory by bytes of another map at offset o. -/
def State.memFrom (m : State) (a n : Nat) (src : SMap Byte) (o : Nat) : State :=
  { m with mem := m.mem.splice a n (src.slice o n) }

/-! ## Boot (R356) -/

/-- Core 17 starts at the image entry, confined; a0 holds what is given. -/
def State.startService (m : State) (a0 : Nat) : State :=
  let m1 := m.coreHold 17
  let m2 := (m1.setFld (Reg.cc_RVEC 17) (serviceBase / 4)).coreStart 17
  m2.setCore 17 { sandbox with pc := serviceBase, x := if a0 = 0 then [] else [(10, BitVec.ofNat 64 a0)] }

/-- A service copy is loaded: the image in service memory, MS1 extended with VERSION and HASH (R361). -/
def State.loadService (m : State) (b : Bool) : State :=
  let o := copyOff false b
  let f := manifestOf (m.flashBytes o 256)
  let m1 := m.memFrom serviceBase (handoverBase - serviceBase) (m.flash.slice (o + 4096) f.size) 0
  let m2 := (m1.extendSlot 1 (leBytes f.version 8 ++ leBytes f.hash 48)).setFld Reg.fw_S_VERSION f.version
  { m2 with svcRun := some b, sSvn := f.svn }

/-- Trusted firmware runs: it checks and loads service firmware, confines and releases core 17, and completes boot. -/
def State.bootService (m : State) : State :=
  let a := m.fuses.activeS
  let pick := if m.copyOk false a then some a else if m.copyOk false (!a) then some (!a) else none
  match pick with
  | none => ((m.setFlag Reg.fw_S_FALLBACK true).setFlag Reg.fw_SVC_NONE true).setFld Reg.fw_STAGE 3
  | some b =>
    let m1 := (m.setFlag Reg.fw_S_FALLBACK (b != a)).loadService b
    let m2 := (m1.setFlag Reg.sys_CORE true).setFlag Reg.sys_PLAT true
    (m2.startService 0).setFld Reg.fw_STAGE 3

/-- The boot ROM enters a trusted image: MS0 is extended with the manifest's HASH and SVN. -/
def State.enterTrusted (m : State) (f : Manifest) : State :=
  let m1 := (m.extendSlot 0 (leBytes f.hash 48 ++ leBytes f.svn 4)).setFld Reg.fw_T_VERSION f.version
  { m1 with tSvn := f.svn }

/-- BOOT: the boot ROM on core 16 takes the trusted copy named by ACTIVE_T, else the other; with neither it waits for a
recovery image. -/
def State.boot (m : State) : State :=
  let m0 := m.coreStart 16
  let a := m0.fuses.activeT
  let pick := if m0.copyOk true a then some a else if m0.copyOk true (!a) then some (!a) else none
  match pick with
  | none => m0.setFld Reg.fw_STAGE 7
  | some b =>
    let o := copyOff true b
    let f := manifestOf (m0.flashBytes o 256)
    let m1 := m0.memFrom trustedBase 0x100_0000 (m0.flash.slice (o + 4096) f.size) 0
    ((m1.setFlag Reg.fw_T_FALLBACK (b != a)).enterTrusted f).bootService

/-! ## Module reset (R365) -/

/-- Every block is reset; flash and fuses, the pins, and the model's own counters and queue stay. -/
def State.moduleReset (m : State) : State :=
  { State.resetWith m.fuses m.flash with
    pins := { m.pins with errAlertN := false }
    alive := m.alive
    nextId := m.nextId
    free := m.free
    pending := m.pending }

/-- A module reset and the boot that follows while MOD_RST_N is high. -/
def State.restartModule (m : State) : State :=
  if !m.alive then m
  else if m.pins.modRstN then m.moduleReset.boot else m.moduleReset

/-- STANDBY_POWER_GOOD (R391). -/
def State.standbyGood (m : State) : State :=
  if m.alive then m
  else { m with alive := true, pins := { m.pins with stbyPg := true } }.restartModule

/-- STANDBY_CONVERTER_STOP (R387): the management domain and the flash lose their power. -/
def State.standbyStop (m : State) : State :=
  let m1 := { m with alive := false, pins := { m.pins with stbyPg := false } }.moduleReset
  let m2 := { m1 with pins := { m1.pins with errAlertN := true } }
  (m2.setFlag Reg.pwr_STBY_GOOD false).setFlag Reg.bolt_PIN false

/-- MOD_RST_N low (R395) and its release. -/
def State.modRstLow (m : State) : State :=
  let m1 := { m with pins := { m.pins with modRstN := false } }
  if m.alive then m1.moduleReset else m1
def State.modRstHigh (m : State) : State :=
  let m1 := { m with pins := { m.pins with modRstN := true } }
  if m.alive && !m.pins.modRstN then m1.boot else m1

/-! ## Mailboxes (R364) -/

def Cmd.quote := 1
def Cmd.extend := 2
def Cmd.stageLoad := 3
def Cmd.handover := 4
def Cmd.activateT := 5
def Cmd.setSucc := 6
def Cmd.startChain := 7
def Cmd.svnCommit := 8

/-- Status codes of a mailbox (R364). -/
def St.ok := 1
def St.refused := 2
def St.busy := 3
def St.badsig := 4

/-- A master owns mailbox b; JTAG may load a recovery image through mailbox 0. -/
def State.ownsMbox (m : State) (master : Master) (b : Nat) : Bool :=
  match master with
  | .host => decide (b = 0)
  | .jtag => decide (b = 0 ∧ m.fld Reg.fw_STAGE = 7)
  | .core c => decide (0 < b) && decide (m.coreStn c.val = some (b - 1))
  | _ => false

/-- A request ends with a status; mailbox 0 interrupts the host. -/
def State.mboxEnd (m : State) (b st : Nat) : State :=
  let m1 := (m.setFld (Reg.fw_STATUS b) st).setFlag (Reg.fw_BUSY b) false
  let m2 := { m1 with mbLast := b }
  if b = 0 then m2.irqHost 1 else m2

/-- GO of mailbox b with a command: refused to others, dropped and recorded while BUSY is set. A command that R364 does not
name, or that a station mailbox does not accept, ends at once with REFUSED. -/
def State.mboxSubmit (m : State) (master : Master) (b cmd : Nat) : State :=
  if !m.ownsMbox master b ∨ m.flag (Reg.fw_BUSY b) then
    m.access 0x86 (mid master) (m.masterStn master) 1 (0xF00_0000_0000 + (Reg.fw_CMD b).off)
  else
    let m1 := (m.setFld (Reg.fw_CMD b) cmd).setFlag (Reg.fw_BUSY b) true
    if cmd = 0 ∨ Cmd.svnCommit < cmd ∨ (0 < b ∧ cmd ≠ Cmd.quote) then m1.mboxEnd b St.refused else m1

/-- The mailbox trusted firmware serves next, round-robin in increasing number. -/
def State.mboxNext (m : State) : Option Nat :=
  ((List.range 9).map (fun i => (m.mbLast + 1 + i) % 9)).find? (fun b => m.flag (Reg.fw_BUSY b))

/-- Request cmd of mailbox b waits and is served now: no handover is open, but for a HANDOVER, which is refused then, and
it is its turn. -/
def State.mboxTurn (m : State) (b cmd : Nat) : Bool :=
  m.flag (Reg.fw_BUSY b) && decide (m.fld (Reg.fw_CMD b) = cmd) && decide (m.fld Reg.fw_STAGE ≠ 0) &&
    (decide (cmd = Cmd.handover ∧ m.hoOpen) || (!m.hoOpen && decide (m.mboxNext = some b)))

/-- A mailbox command: a request of another master, or one while another waits, is only recorded; else it is submitted unless
that very request waits already, and is served by k when it is its turn. Station mailboxes accept QUOTE only. Without trusted firmware the boot ROM accepts STAGE_LOAD only. -/
def State.mbox (m : State) (master : Master) (b cmd : Nat) (k : State → State) : State :=
  let m1 := if m.flag (Reg.fw_BUSY b) then m else m.mboxSubmit master b cmd
  if !m.ownsMbox master b ∨ (m.flag (Reg.fw_BUSY b) ∧ m.fld (Reg.fw_CMD b) ≠ cmd) then m.mboxSubmit master b cmd
  else if !m1.mboxTurn b cmd then m1
  else if (0 < b ∧ cmd ≠ Cmd.quote) ∨ (m1.fld Reg.fw_STAGE = 7 ∧ cmd ≠ Cmd.stageLoad) then m1.mboxEnd b St.refused
  else k m1

def State.reqW (m : State) (b j : Nat) : Nat := m.fld (Reg.fw_REQ b j)

/-- QUOTE (R362): 536 bytes in response words 0 to 66; sig is the signature over the bytes before it. -/
def State.quoteWords (m : State) (b : Nat) (sig : List Byte) : List Nat :=
  [Config.serial.toNat, m.nodeId + (m.fld Reg.fw_HO_CNT) <<< 32, m.now] ++
    ((List.range 8).flatMap (fun i => (List.range 6).map (fun w => m.fld (Reg.fw_MS i w)))) ++
    ((List.range 4).map (m.reqW b)) ++ ((List.range 12).map (fun i => leNat ((sig.drop (8 * i)).take 8)))

def State.quote (m : State) (master : Master) (b : Nat) (sig : List Byte) : State :=
  m.mbox master b Cmd.quote (fun m =>
    (((m.quoteWords b sig).zipIdx).foldl (fun m e => m.setFld (Reg.fw_RSP b e.2) e.1) m).mboxEnd b St.ok)

/-- EXTEND (R362) of slot 3 to 7, named by request word 0, with the 48 bytes of request words 1 to 6. -/
def State.extend (m : State) (master : Master) : State :=
  m.mbox master 0 Cmd.extend (fun m =>
    let i := m.reqW 0 0
    if i < 3 ∨ 7 < i then m.mboxEnd 0 St.refused
    else (m.extendSlot i ((List.range 6).flatMap (fun j => leBytes (m.reqW 0 (1 + j)) 8))).mboxEnd 0 St.ok)

/-- The image in staging: its manifest's 4 KiB block, then the image. -/
def State.staged (m : State) : Manifest := manifestOf (m.bytes stagingBase 256)

/-- STAGE_LOAD (R356): request word 0 gives the staging offset of up to 31 words ([36:32] is their number) that follow; with
none, the load ends: without trusted firmware, ok is the verdict of R354 on the recovery image, which then runs. -/
def State.stageLoad (m : State) (master : Master) (ok : Bool) : State :=
  m.mbox master 0 Cmd.stageLoad (fun m =>
    let w := m.reqW 0 0
    let n := bitsOf w 36 32
    if 0 < n then
      let m1 := (List.range n).foldl (fun m j =>
        m.putBytes (stagingBase + (bitsOf w 24 3 * 8 + 8 * j) % 0x200_0000) (leBytes (m.reqW 0 (1 + j)) 8)) m
      m1.mboxEnd 0 St.ok
    else if m.fld Reg.fw_STAGE ≠ 7 then m.mboxEnd 0 St.ok
    else if !ok then m.mboxEnd 0 St.badsig
    else
      let f := m.staged
      let m1 := m.memFrom trustedBase 0x100_0000 (m.mem.slice (stagingBase + 4096) f.size) 0
      (((m1.setFlag Reg.fw_RECOVERY true).enterTrusted f).bootService).mboxEnd 0 St.ok)

/-- ACTIVATE_T (R360): the staged trusted copy is taken at the next module reset. -/
def State.activateT (m : State) (master : Master) : State :=
  m.mbox master 0 Cmd.activateT (fun m =>
    if m.fld Reg.fw_T_STATE = 2 then
      { m with fuses := { m.fuses with activeT := m.stagedT } }.mboxEnd 0 St.ok
    else m.mboxEnd 0 St.refused)

/-- SET_SUCC (R358): request words 0 to 3 are the FW_SUCC entries. -/
def State.setSucc (m : State) (master : Master) : State :=
  m.mbox master 0 Cmd.setSucc (fun m =>
    ((List.range 4).foldl (fun m k => (m.setFld (Reg.fw_SUCC k) (m.reqW 0 k)).setFlag (Reg.fw_VALID k) ((m.reqW 0 k).testBit 63)) m).mboxEnd
      0 St.ok)

/-- SVN_COMMIT (R360). -/
def State.svnCommit (m : State) (master : Master) : State :=
  m.mbox master 0 Cmd.svnCommit (fun m =>
    if m.fld Reg.fw_STAGE = 3 ∧ !m.flag Reg.fw_T_FALLBACK ∧ !m.flag Reg.fw_S_FALLBACK then
      { m with fuses := { m.fuses with tsvnMin := max m.fuses.tsvnMin m.tSvn, ssvnMin := max m.fuses.ssvnMin m.sSvn } }.mboxEnd 0 St.ok
    else m.mboxEnd 0 St.refused)

/-! ## Handover (R361) -/

/-- The copy a handover may load: a STAGED copy, or the other valid service copy. -/
def State.hoTarget (m : State) : Option Bool :=
  if m.fld Reg.fw_S_STATE = 2 ∧ m.svcRun ≠ some m.stagedS then some m.stagedS
  else match m.svcRun with
    | some b => if m.copyOk false (!b) then some (!b) else none
    | none => none

def State.handover (m : State) (master : Master) : State :=
  m.mbox master 0 Cmd.handover (fun m =>
    if m.hoOpen then m.mboxEnd 0 St.busy
    else if m.fld Reg.fw_STAGE ≠ 3 ∨ m.session.any (fun s => s.kind = 2) then m.mboxEnd 0 St.refused
    else match m.hoTarget with
      | none => m.mboxEnd 0 St.refused
      | some b =>
        (({ m with hoOpen := true, hoCopy := b }.setFld Reg.fw_HO_STAT 1).irqCore 17).mboxEnd 0 St.ok)

/-- Core 17 is halted, the handover area saved and the new image loaded and started. -/
def State.hoLoad (m : State) (valid : Bool) (stat : Nat) : State :=
  let m1 := m.coreHold 17
  let m2 := { m1 with hoSave := m1.mem.slice handoverBase 0x40_0000, hoValid := valid }
  ((m2.loadService m2.hoCopy).startService handoverBase).setFld Reg.fw_HO_STAT stat

/-- HO_READY: steps 2 and 3. -/
def State.hoReady (m : State) : State :=
  if m.hoOpen && decide (m.fld Reg.fw_HO_STAT = 1) then m.hoLoad true 3 else m

/-- SVC_READY: the commit point. -/
def State.svcReady (m : State) : State :=
  let st := m.fld Reg.fw_HO_STAT
  if m.hoOpen && decide (st = 3 ∨ st = 5) then
    let m1 := { m with hoOpen := false, fuses := { m.fuses with activeS := m.hoCopy } }
    (m1.setFld Reg.fw_HO_STAT (if st = 3 then 4 else 5)).setFld Reg.fw_HO_CNT (m1.fld Reg.fw_HO_CNT + 1)
  else m

/-- Rollback: the ACTIVE_S copy reloads and the saved area is restored. -/
def State.hoRollback (m : State) : State :=
  let m1 := m.memFrom handoverBase 0x40_0000 m.hoSave 0
  let m2 := ((m1.coreHold 17).loadService m1.fuses.activeS).startService handoverBase
  { m2.setFld Reg.fw_HO_STAT 6 with hoOpen := false }

/-- HO_TMO. -/
def State.hoTimeout (m : State) : State :=
  let st := m.fld Reg.fw_HO_STAT
  if !m.hoOpen then m else if st = 1 then m.hoLoad false 5 else m.hoRollback

/-- TRAP_LIMIT: core 17 trapped 16 times under the new image. -/
def State.trapLimit (m : State) : State :=
  if m.hoOpen && decide (m.fld Reg.fw_HO_STAT ≠ 1) then m.hoRollback else m

/-! ## Update sessions (R357 to R359) -/

/-- ADDR of an FW_IMG flit. -/
def fwAddr (kind session index : Nat) : Nat := kind + session <<< 3 + index <<< 19

/-- An FW_IMG flit to a node. -/
def State.fwSend (m : State) (node kind session index : Nat) (payload : List Byte) : State :=
  (m.sendFlit (m.mkFlit Op.fwImg 3 node 0 0 0 7 (fwAddr kind session index) (payload ++ List.replicate (256 - payload.length) 0))).1

def State.fwState (kind : Nat) : Fld := if kind = 1 then Reg.fw_T_STATE else Reg.fw_S_STATE

/-- The copy a session writes: never the active one. -/
def State.inactive (m : State) (kind : Nat) : Bool := if kind = 1 then !m.fuses.activeT else !m.fuses.activeS

def State.markInvalid (m : State) (kind : Nat) (bad : Bool) : State :=
  let i := copyIx (decide (kind = 1)) (m.inactive kind)
  let l := m.fuses.invalid.filter (fun k => decide (k ≠ i))
  { m with fuses := { m.fuses with invalid := if bad then i :: l else l } }

/-- DONE with a status to a node. -/
def State.fwDone (m : State) (node session st : Nat) : State := m.fwSend node 2 session 0 [BitVec.ofNat 8 st]

/-- Nodes of the valid FW_SUCC entries. -/
def State.succNodes (m : State) : List Nat :=
  ((List.range 4).filter (fun k => m.flag (Reg.fw_VALID k))).map (fun k => m.fld (Reg.fw_SUCC k))

/-- A session opens: the inactive copy is invalid until it is verified, and the MANIFEST goes on to the successors. -/
def State.sessionOpen (m : State) (s : Session) (manifest : List Byte) : State :=
  let m1 := { m.markInvalid s.kind true with session := some s }
  let m2 := (((m1.setFld (State.fwState s.kind) 1).setFld Reg.fw_SESSION s.session).setFld Reg.fw_CHUNKS s.got.length).setFld Reg.fw_LAST_STATUS 0
  s.succs.foldl (fun m n => m.fwSend n 0 s.session 0 manifest) m2

/-- Chunk k of staging. -/
def State.chunk (m : State) (k : Nat) : List Byte := m.bytes (stagingBase + 4096 + 256 * k) 256

/-- Chunks go on to the successors in INDEX order, as far as they have come. -/
def State.fwForward : Nat → State → State
  | 0, m => m
  | j + 1, m => match m.session with
    | none => m
    | some s =>
      if s.fwd < s.size / 256 ∧ s.fwd ∈ s.got then
        let m1 := s.succs.foldl (fun m n => m.fwSend n 1 s.session s.fwd (m.chunk s.fwd)) m
        State.fwForward j { m1 with session := some { s with fwd := s.fwd + 1 } }
      else m

/-- The session ends once its own status and every successor's is known: the worst goes to the predecessor. -/
def State.sessionEnd (m : State) (s : Session) : State :=
  let worst := max s.own s.worst
  let m1 := (({ m with session := none }).setFld (State.fwState s.kind) (if s.own = 1 then 2 else 3)).setFld Reg.fw_LAST_STATUS worst
  if s.origin then m1 else m1.fwDone s.pred s.session worst

def State.sessionTry (m : State) : State :=
  match m.session with
  | some s => if s.own ≠ 0 ∧ s.succs.isEmpty then m.sessionEnd s else m
  | none => m

/-- FW_MANIFEST. -/
def State.fwManifest (m : State) (f : Flit) (p : Nat) (sig : Bool) : State :=
  let ses := bitsOf f.addr 18 3
  let x := manifestOf f.payload
  match m.session with
  | some s => if s.session = ses then m else m.fwDone f.src ses 5
  | none =>
    if m.hoOpen then m.fwDone f.src ses 5
    else if x.kind ≠ 1 ∧ x.kind ≠ 2 then m.fwDone f.src ses 2
    else if !m.manifestOk (decide (x.kind = 1)) x sig then
      (((m.markInvalid x.kind true).setFld (State.fwState x.kind) 3).setFld Reg.fw_LAST_STATUS 2).fwDone f.src ses 2
    else
      let m1 := m.putBytes stagingBase (f.payload ++ List.replicate (4096 - f.payload.length) 0)
      m1.sessionOpen ⟨x.kind, ses, f.src, p, m1.succNodes, x.size, BitVec.ofNat 384 x.hash, [], 0, 0, 0, false⟩ f.payload

/-- FW_CHUNK: staged, counted, forwarded. -/
def State.fwChunk (m : State) (f : Flit) : State :=
  match m.session with
  | none => m
  | some s =>
    let k := bitsOf f.addr 43 19
    if s.origin ∨ bitsOf f.addr 18 3 ≠ s.session ∨ f.src ≠ s.pred ∨ s.own ≠ 0 ∨ s.size / 256 ≤ k ∨ k ∈ s.got then m
    else
      let m1 := (m.putBytes (stagingBase + 4096 + 256 * k) (f.payload.take 256)).bump Reg.fw_CHUNKS 1
      State.fwForward (s.got.length + 1) { m1 with session := some { s with got := k :: s.got } }

/-- FW_NAK: the chunk is sent again from staging. -/
def State.fwNak (m : State) (f : Flit) : State :=
  match m.session with
  | none => m
  | some s =>
    let k := bitsOf f.addr 43 19
    if bitsOf f.addr 18 3 = s.session ∧ f.src ∈ s.succs ∧ k ∈ s.got then m.fwSend f.src 1 s.session k (m.chunk k) else m

/-- FW_DONE of a successor. -/
def State.fwDoneIn (m : State) (f : Flit) : State :=
  match m.session with
  | none => m
  | some s =>
    if bitsOf f.addr 18 3 = s.session ∧ f.src ∈ s.succs then
      { m with session := some { s with
          succs := s.succs.filter (fun n => decide (n ≠ f.src)), worst := max s.worst (leNat (f.payload.take 1) % 16) } }.sessionTry
    else m

/-- CHUNK_MISSING: NAK for the first missing INDEX. -/
def State.chunkMissing (m : State) : State :=
  match m.session with
  | none => m
  | some s =>
    if s.origin ∨ s.own ≠ 0 then m
    else match (List.range (s.got.length + 1)).find? (fun k => decide (k ∉ s.got)) with
      | some k => if k < s.size / 256 then m.fwSend s.pred 3 s.session k [] else m
      | none => m

/-- FLASH_VERIFY: the inactive copy is programmed from staging, read back and checked against HASH. -/
def State.flashVerify (m : State) (progOk : Bool) : State :=
  match m.session with
  | none => m
  | some s =>
    if s.own ≠ 0 ∨ s.got.length < s.size / 256 then m
    else
      let t := decide (s.kind = 1)
      let b := m.inactive s.kind
      let o := copyOff t b
      let m1 := { m with flash := m.flash.splice o (4096 + s.size) (m.mem.slice stagingBase (4096 + s.size)) }
      let ok := decide (Config.sha384 (m1.flashBytes (o + 4096) s.size) = s.hash)
      let m2 := if !progOk then { m with session := some { s with own := 6 } }
        else if !ok then { m1 with session := some { s with own := 3 } }
        else
          let m3 := m1.markInvalid s.kind false
          let m4 := if t then { m3 with stagedT := b } else { m3 with stagedS := b }
          { m4 with session := some { s with own := 1 } }
      m2.sessionTry

/-- UPD_TMO: chunks or successors' DONE are missing. -/
def State.updTimeout (m : State) : State :=
  match m.session with
  | none => m
  | some s =>
    if s.own = 0 then m.sessionEnd { s with own := 4 }
    else m.sessionEnd { s with worst := max s.worst 4 }

/-- START_CHAIN (R358): the image in staging is checked and sent as origin, under the session in request word 0. -/
def State.startChain (m : State) (master : Master) : State :=
  m.mbox master 0 Cmd.startChain (fun m =>
    let f := m.staged
    if m.session.isSome ∨ m.hoOpen then m.mboxEnd 0 St.busy
    else if (f.kind ≠ 1 ∧ f.kind ≠ 2) ∨ !m.manifestOk (decide (f.kind = 1)) f f.sigOk then m.mboxEnd 0 St.badsig
    else
      let all := List.range (f.size / 256)
      let s : Session := ⟨f.kind, m.reqW 0 0 % 65536, m.nodeId, 64, m.succNodes, f.size, BitVec.ofNat 384 f.hash, all, 0, 0, 0, true⟩
      (State.fwForward (all.length + 1) (m.sessionOpen s (m.bytes stagingBase 256))).mboxEnd 0 St.ok)

/-- The kind of an FW_IMG flit that arrives. -/
def State.onFwImg (m : State) (p : Nat) (f : Flit) (kind : Nat) (k : State → State) : State :=
  if bitsOf f.addr 2 0 ≠ kind then m else m.onFlit p f Op.fwImg k

def execStandbyPowerGood (s : State) : Host.Outcome State Fault Refusal := .next s.standbyGood
def execStandbyConverterStop (s : State) : Host.Outcome State Fault Refusal := .next s.standbyStop
def execModRstN (s : State) : Host.Outcome State Fault Refusal := .next s.modRstLow
def execModRstNRelease (s : State) : Host.Outcome State Fault Refusal := .next s.modRstHigh
def execQuote (m : Master) (mb : Fin 9) (sig : List Byte) (s : State) : Host.Outcome State Fault Refusal := .next (s.quote m mb sig)
def execExtend (m : Master) (s : State) : Host.Outcome State Fault Refusal := .next (s.extend m)
def execStageLoad (m : Master) (ok : Bool) (s : State) : Host.Outcome State Fault Refusal := .next (s.stageLoad m ok)
def execHandover (m : Master) (s : State) : Host.Outcome State Fault Refusal := .next (s.handover m)
def execHoReady (s : State) : Host.Outcome State Fault Refusal := .next s.hoReady
def execSvcReady (s : State) : Host.Outcome State Fault Refusal := .next s.svcReady
def execHoTmo (s : State) : Host.Outcome State Fault Refusal := .next s.hoTimeout
def execTrapLimit (s : State) : Host.Outcome State Fault Refusal := .next s.trapLimit
def execActivateT (m : Master) (s : State) : Host.Outcome State Fault Refusal := .next (s.activateT m)
def execSetSucc (m : Master) (s : State) : Host.Outcome State Fault Refusal := .next (s.setSucc m)
def execStartChain (m : Master) (s : State) : Host.Outcome State Fault Refusal := .next (s.startChain m)
def execSvnCommit (m : Master) (s : State) : Host.Outcome State Fault Refusal := .next (s.svnCommit m)
def execFwManifest (p : Port) (f : Flit) (sigOk : Bool) (s : State) : Host.Outcome State Fault Refusal :=
  .next (s.onFwImg p f 0 (fun m => m.fwManifest f p sigOk))
def execFwChunk (p : Port) (f : Flit) (s : State) : Host.Outcome State Fault Refusal := .next (s.onFwImg p f 1 (fun m => m.fwChunk f))
def execFwNak (p : Port) (f : Flit) (s : State) : Host.Outcome State Fault Refusal := .next (s.onFwImg p f 3 (fun m => m.fwNak f))
def execFwDone (p : Port) (f : Flit) (s : State) : Host.Outcome State Fault Refusal := .next (s.onFwImg p f 2 (fun m => m.fwDoneIn f))
def execChunkMissing (s : State) : Host.Outcome State Fault Refusal := .next s.chunkMissing
def execFlashVerify (progOk : Bool) (s : State) : Host.Outcome State Fault Refusal := .next (s.flashVerify progOk)
def execUpdTmo (s : State) : Host.Outcome State Fault Refusal := .next s.updTimeout

end Sys2Proof.Machine
end

