-- ==== Sys2Proof/Machine/Time.lean ====
section
/-! DEFINITION. Global time (R272, R273, R399) and snapshots (R375 to R377, R402, R404). -/

namespace Sys2Proof.Machine

/-! ## Offsets and corrections (R273) -/

/-- A number's two's complement in 64 bits. -/
def twos64 (x : Int) : Nat := (x % 2 ^ 64).toNat

/-- Global time moved by a signed number of ns; every step is counted. -/
def State.timeStep (m : State) (c : Int) : State :=
  let m1 := (m.setFld Reg.time_NOW (twos64 ((m.now : Int) + c))).bump Reg.time_STEPS 1
  { m1 with slew := 0, slow := false }

/-- LOCK clears and the Bolt receives TIME_UNLOCK. -/
def State.timeUnlock (m : State) : State :=
  (m.setFlag Reg.time_LOCK false).report { page := 0x85, code := Code.timeUnlock, acc := 6 }

/-- A correction of c ns: a step forward past 1 µs, a slew within it, and backward past it a step while no station is
enabled, else global time at 1/1,024 of its rate. -/
def State.timeCorrect (m : State) (c : Int) : State :=
  if 1000 < c then m.timeStep c
  else if -1000 ≤ c then { m with slew := 128000 * c, slow := m.slow && decide (c < 0) }
  else if (List.range 8).any m.stnOn then { m with slew := 128000 * c, slow := true }
  else m.timeStep c

/-- A measured offset (this module's time less the source's): recorded, LOCK by its size, and the correction. -/
def State.timeOffset (m : State) (off : Int) : State :=
  let m1 := (m.setFld Reg.time_OFFSET (twos64 off)).timeCorrect (-off)
  if off < -1000 ∨ 1000 < off then m1.timeUnlock
  else if m1.slow then m1
  else m1.setFlag Reg.time_LOCK true

/-- ASYM of a port: signed ns. -/
def State.asym (m : State) (p : Nat) : Int :=
  let a := m.fld (Reg.kp_ASYM p)
  if a < 2 ^ 31 then (a : Int) else (a : Int) - 2 ^ 32

/-! ## IEEE 1588 messages (R272) -/

/-- A 1588 message of this module: header, then the body's bytes from 34 on. The clock's identity is the module's serial
number and the port's is one more than the port's number (PRESUMED, log 89). -/
def State.ptpMessage (m : State) (p typ seq : Nat) (body : List Byte) : List Byte :=
  let interval := if typ = 0 then 0xFC else 0x7F
  let bs := beBytes typ 1 ++ beBytes 0x12 1 ++ beBytes (34 + body.length) 2 ++ beBytes (m.fld Reg.time_DOMAIN) 1 ++ beBytes 0 3 ++
    beBytes 0 8 ++ beBytes 0 4 ++ beBytes (Config.serial.toNat) 8 ++ beBytes (p + 1) 2 ++ beBytes seq 2 ++
    beBytes (if typ = 0 then 0 else 5) 1 ++ beBytes interval 1 ++ body
  bs ++ List.replicate (64 - bs.length) 0

/-- A 1588 message leaves link-local by port p; its times are stamped as it is sent. -/
def State.ptpSend (m : State) (p : Nat) (bs : List Byte) : State := m.txq p { m.linkLocal Op.ptp 0 bs with len := 1 }

/-- Sync on the port toward the grandmaster: the offset of this module's time from the message's, corrected for its
residence, the link's measured delay and the port's asymmetry. -/
def State.syncIn (m : State) (p : Nat) (bs : List Byte) : State :=
  if m.flag Reg.time_GM ∨ m.fld Reg.time_SPORT ≠ p then m
  else m.timeOffset ((m.now : Int) - ((ptpTime bs : Int) + ptpCorr bs / 65536 + (m.link p).pdelay + m.asym p))

/-- Pdelay_Req: a Pdelay_Resp to its sender, which carries the time from here to its own sending as its correction. -/
def State.pdelayReqIn (m : State) (p : Nat) (bs : List Byte) : State :=
  let r := m.ptpMessage p 3 (ptpSeqId bs) (List.replicate 10 0 ++ (bs.drop 20).take 10)
  m.ptpSend p (ptpAdd (putAt r 8 ((bs.drop 8).take 8)) (-(m.now : Int)))

/-- Pdelay_Resp to the request this port has out: half the round trip less the peer's turnaround is the link's delay. -/
def State.pdelayRespIn (m : State) (p : Nat) (bs : List Byte) : State :=
  let l := m.link p
  match l.pdReq with
  | some r =>
    if r.1 = ptpSeqId bs then m.setLink p { l with pdReq := none, pdelay := ((m.now : Int) - (r.2 : Int) - ptpCorr bs / 65536) / 2 } else m
  | none => m

/-- PTP (R272, R273): a 1588 message of this module's domain. -/
def State.ptp (m : State) (p : Nat) (f : Flit) : State :=
  m.onFlit p f Op.ptp fun m =>
    let bs := f.payload
    if m.fld Reg.time_SRC ≠ 1 ∨ ptpDomain bs ≠ m.fld Reg.time_DOMAIN then m
    else if ptpType bs = 0 then m.syncIn p bs
    else if ptpType bs = 2 then m.pdelayReqIn p bs
    else if ptpType bs = 3 then m.pdelayRespIn p bs
    else m

/-- SYNC_LOSS: no Sync for 1 s. -/
def State.syncLoss (m : State) : State := if m.fld Reg.time_SRC = 1 then m.timeUnlock else m

/-- SYNC_INTERVAL: a Sync leaves on every port that is UP, but for the one toward the grandmaster, and a Pdelay_Req on every
port that is UP (R272). -/
def State.syncInterval (m : State) : State :=
  if m.fld Reg.time_SRC ≠ 1 then m
  else (List.range 64).foldl (fun m p =>
    if m.linkUp p then
      let l := m.link p
      let m1 := m.setLink p { l with ptpSeq := (l.ptpSeq + 1) % 2 ^ 16 }
      let m2 := if m.flag Reg.time_GM ∨ p ≠ m.fld Reg.time_SPORT then m1.ptpSend p (m1.ptpMessage p 0 l.ptpSeq (List.replicate 10 0)) else m1
      m2.ptpSend p (m2.ptpMessage p 2 l.ptpSeq (List.replicate 20 0))
    else m) m

/-- PPS_IN (R399): an edge stamped at a global time. -/
def State.ppsIn (m : State) (stamp : Nat) : State :=
  let off : Int := (stamp : Int) - (m.fld Reg.time_NEXT_PPS : Int)
  if m.fld Reg.time_SRC ≠ 2 then m
  else if off < -500_000_000 ∨ 500_000_000 < off then m.timeUnlock
  else
    let m1 := m.timeOffset off
    m1.setFld Reg.time_NEXT_PPS (m1.fld Reg.time_NEXT_PPS + 1_000_000_000)

/-- PPS_LOSS: no edge within 1.5 s of the last. -/
def State.ppsLoss (m : State) : State := if m.fld Reg.time_SRC = 2 then m.timeUnlock else m

/-! ## Snapshots (R375, R376) -/

/-- Every block's header records the latch. -/
def State.headerLatch (m : State) (seq : Nat) : State :=
  (List.range 155).foldl (fun m p => (m.setFld (Reg.hdr_SEQ p) seq).setFlag (Reg.hdr_LVALID p) true) m

/-- Every register is latched in one step. -/
def State.latchNow (m : State) : State :=
  let seq := (m.fld Reg.time_SEQ + 1) % 65536
  let m1 := { m with snap := m.regs, lastLatch := some m.now }
  ((m1.setFld Reg.time_SEQ seq).setFld Reg.time_LAST_AT m1.now).headerLatch seq

/-- A trigger: within 1 µs of the latch before it is dropped, in the same ns it is one with it. -/
def State.latch (m : State) : State :=
  match m.lastLatch with
  | some t =>
    if m.now = t then m
    else if m.now < t + 1000 then m.setFlag Reg.time_DROP true
    else m.latchNow
  | none => m.latchNow

/-- ARM written with 1: a time that has passed latches at once. -/
def State.snapArm (m : State) : State :=
  let at_ := m.fld Reg.time_SNAP_AT
  if at_ < m.now then (m.setFlag Reg.time_LATE true).latch
  else if at_ = m.now then m.latch
  else m.setFlag Reg.time_ARM true

/-- SNAPSHOT_LATCH: global time reaches the scheduled time. -/
def State.snapDue (m : State) : State :=
  if m.flag Reg.time_ARM ∧ m.fld Reg.time_SNAP_AT ≤ m.now then (m.setFlag Reg.time_ARM false).latch else m

/-- SNAP_TRIG. -/
def State.snapPin (m : State) : State := if m.flag Reg.time_PIN_EN then m.latch else m

/-- The register at an offset holds a latchable counter. -/
def latchable (off : Nat) : Bool := (rowsAt off).any (fun e => e.1.ctr)

/-- BLK_SNAP_DATA (R404). -/
def State.snapData (m : State) (page : Nat) : Nat :=
  let off := 0x10000 * page + 8 * m.fld (Reg.hdr_SEL page)
  if m.flag (Reg.hdr_LVALID page) ∧ latchable off then (m.snap.get resetWord off).toNat else 0

def execPtp (p : Port) (f : Flit) (s : State) : Host.Outcome State Fault Refusal := .next (s.ptp p f)
def execSyncLoss (s : State) : Host.Outcome State Fault Refusal := .next s.syncLoss
def execSyncInterval (s : State) : Host.Outcome State Fault Refusal := .next s.syncInterval
def execPpsIn (stamp : Nat) (s : State) : Host.Outcome State Fault Refusal := .next (s.ppsIn stamp)
def execPpsLoss (s : State) : Host.Outcome State Fault Refusal := .next s.ppsLoss
def execSnapshotLatch (s : State) : Host.Outcome State Fault Refusal := .next s.snapDue
def execSnapTrig (s : State) : Host.Outcome State Fault Refusal := .next s.snapPin

end Sys2Proof.Machine
end

