-- ==== Sys2Proof/Machine/Registers.lean ====
section
/-! DEFINITION. Access to the register pages (R8, R9, R32, R33, R381, R382, R402 to R408): who may write a field, locks,
clamps, and what a read returns. The effects of writes are in RegWrite. -/

namespace Sys2Proof.Machine

/-- Local physical address of a BAR0 offset (R25). -/
def regAddr (off : Nat) : Nat := 0xF00_0000_0000 + off

/-- The master's access reaches the register pages: the module is powered and out of reset, and the host's link is up. -/
def State.reaches (m : State) (who : Master) : Bool :=
  m.alive && m.pins.modRstN && (match who with
    | .host => m.pins.perstN
    | _ => true)

/-! ## Rows and their stations (R408) -/

/-- The station a row belongs to: by its index, or by the grant of the resource it is indexed by. -/
def State.rowStn (m : State) (off : Nat) (e : FieldRow × List Nat) : Option Nat :=
  let i := e.2.headD 0
  match e.1.own with
  | .stn => some i
  | .ctr => m.ctrStn i
  | .ctrWord => m.ctrStn (64 * i)
  | .bar => m.barStn i
  | .slice => m.sliceStn (12 * (off / 0x1_0000 - 0x2C) + i)
  | .core => m.coreStn i
  | .page => match blkOf (off / 0x1_0000) with
    | some (.cc, c) => m.coreStn c
    | _ => none
  | .spBlk => (List.range 8).find? (fun n => inWin (m.potWin n (off / 0x1_0000 - 8)) (4096 * 8 * i) 4096)
  | .mbox => if i = 0 then none else some (i - 1)
  | .none => none

/-- The station that holds group entry GRP_IDX (R264). -/
def State.grpStn (m : State) : Option Nat :=
  let g := m.fld Reg.krt_GRP_IDX
  (List.range 8).find? (fun n => decide (m.fld (Reg.krt_GBASE n) ≤ g ∧ g < m.fld (Reg.krt_GBASE n) + m.fld (Reg.krt_GNUM n)))

/-- A station core names a row of another station, or Stockpot blocks outside its own station's window, whose state bytes it
may not read either (R141). -/
def State.foreignRow (m : State) (who : Master) (off : Nat) (e : FieldRow × List Nat) : Bool :=
  match who with
  | .core c => decide (c.val < 16) && (match e.1.own, m.rowStn off e with
    | .spBlk, _ => !(m.coreStn c.val).any (fun n => inWin (m.potWin n (off / 0x1_0000 - 8)) (4096 * 8 * (e.2.headD 0)) 4096)
    | _, some n => decide (m.coreStn c.val ≠ some n)
    | _, none => false)
  | _ => false

/-- The master may write the field (R201, R355, R408). -/
def State.mayWrite (m : State) (who : Master) (off : Nat) (e : FieldRow × List Nat) : Bool :=
  match e.1.wr with
  | .none => false
  | .tc => (match who with
    | .core c => decide (c.val = 16)
    | .port _ => decide (0x84_0100 ≤ off ∧ off < 0x84_0128)
    | _ => false)
  | .hostTc => (match who with
    | .host => true
    | .core c => decide (c.val = 16)
    | _ => false)
  | .stn => (match who with
    | .host => true
    | .core c => decide (c.val < 16) && (m.coreStn c.val).isSome && decide (m.rowStn off e = m.coreStn c.val)
    | _ => false)
  | .grp => (match who with
    | .host => true
    | .core c => decide (c.val < 16) && (m.coreStn c.val).isSome && decide (m.grpStn = m.coreStn c.val)
    | _ => false)
  | .any => (match who with
    | .host => true
    | .core c => decide (c.val ≠ 17) && !m.foreignRow who off e
    | .port _ => true
    | _ => false)
  | .request => (match who with
    | .host => true
    | .smbus => true
    | .core c => decide (16 ≤ c.val)
    | _ => false)
  | .boltTail => (match who with
    | .host => true
    | .smbus => true
    | .core c => decide (16 ≤ c.val)
    | _ => false)
  | .mbox => m.ownsMbox who (e.2.headD 0)

/-- A register of table slot (n, t) that holds BASE_B, NROWS or ROWB and no more, while the slot is VALID: every write of it
is dropped and recorded (R181). BASE_A shares its register with VALID. -/
def State.tableLocked (m : State) (off : Nat) : Bool :=
  match blkOf (off / 0x1_0000) with
  | some (.tng, d) =>
    let k := (off % 0x1_0000 - 0x1000) / 0x40
    decide (0x1000 ≤ off % 0x1_0000 ∧ (off % 0x40 = 0x08 ∨ off % 0x40 = 0x10)) && m.flag (Reg.tng_VALID d (k / 16) (k % 16))
  | _ => false

/-- The lock that holds the field: R407's for an RWL field; VALID of its slot for a table's layout (R181). -/
def State.lockedAt (m : State) (off : Nat) (e : FieldRow × List Nat) : Bool :=
  let i := e.2.headD 0
  let rwl := decide (e.1.acc = .rwl)
  match blkOf (off / 0x1_0000) with
  | some (.sys, _) => rwl && m.flag (Reg.sys_LOCK i)
  | some (.seq, _) => rwl && m.flag (Reg.sys_LOCK i)
  | some (.krt, _) => rwl && (if off = 0x84_0100 then m.flag Reg.sys_NODE else m.flag (Reg.sys_LOCK i))
  | some (.cc, c) => rwl && (match m.coreStn c with
    | some n => m.flag (Reg.sys_LOCK n)
    | none => m.flag Reg.sys_CORE)
  | some (.kp, _) => rwl && m.flag Reg.sys_PORT
  | some (.pwr, _) => rwl && m.flag Reg.sys_PLAT
  | some (.hst, _) => rwl && m.flag Reg.sys_PLAT
  | some (.tmb, _) => rwl && m.flag (Reg.tmb_EN i)
  | some (.tng, _) =>
    (decide (e.1.base = 0x1000 ∧ e.1.hi = 43) || decide (e.1.base = 0x1008) || decide (e.1.base = 0x1010)) &&
      m.flag (Reg.tng_VALID 0 i (e.2.getD 1 0))
  | _ => false

/-! ## Clamps (R22, R272, R381, R405) -/

/-- A value held within its field's stated range, or a reserved code replaced by the one its chapter names. -/
def State.clampOf (m : State) (off : Nat) (r : FieldRow) (x : Nat) : Nat :=
  let y := match r.rng with
    | some (lo, hi) => max lo (min hi x)
    | none => x
  match blkOf (off / 0x1_0000) with
  | none => y
  | some (b, _) =>
    if r.base = 0x60 ∧ r.lo = 0 then (if (injKinds b).testBit x then x else 0)
    else match b with
    | .sys =>
      if r.base ≠ 0x510 then y
      else if r.lo = 4 then (max (-5) (min 5 (signedOf x 8)) % 256).toNat
      else if r.lo = 12 then
        let cur := m.fld Reg.pwr_ARRAY_CUR
        if cur = 0 then x
        else
          let up : Int := ((1350 - cur) / 10 : Nat)
          let down : Int := ((cur - 800) / 10 : Nat)
          (max (-down) (min up (signedOf x 8)) % 256).toNat
      else if r.lo = 20 then min x (m.fld Reg.pwr_WARN_C - 1)
      else y
    | .kp => if r.base = 0x100 ∧ r.lo = 1 ∧ x = 3 then 0 else y
    | .time => if r.base = 0x108 ∧ r.lo = 0 ∧ x = 3 then 0 else y
    | .tmb => if r.base = 0x200 ∧ r.lo = 12 ∧ x = 3 then 0 else y
    | _ => y

/-- A clock request is rounded down to its step (R400). -/
def roundOf (off x : Nat) : Nat :=
  if off = 0x1_0120 then x / 25 * 25
  else if 0x1_0130 ≤ off ∧ off < 0x1_01C0 then x / 100 * 100
  else x

/-- The checks of R22 and R110 over the fields of one register: a count that runs past its resource fits, a range that ends
before it begins is not valid, and a recipe window ends at the bank's last word. -/
def fitWord (off w : Nat) : Nat :=
  let fit (w b n : Nat) : Nat := insertBits w (n + 6) n (min (bitsOf w (n + 6) n) (64 - bitsOf w (b + 5) b))
  if off / 0x1_0000 = 0 ∧ 0x100 ≤ off ∧ off < 0x300 then
    let k := (off - 0x100) % 0x40 / 8
    if k = 3 then fit (fit (fit w 0 8) 16 24) 32 40
    else if 4 ≤ k ∧ bitOf w 63 ∧ bitsOf w 27 16 < bitsOf w 11 0 then insertBits w 63 63 0
    else w
  else if 0x0C ≤ off / 0x1_0000 ∧ off / 0x1_0000 < 0x10 ∧ 0x100 ≤ off % 0x1_0000 ∧ off % 0x1_0000 < 0x200 ∧ off % 0x20 = 0 then
    insertBits w 29 16 (min (bitsOf w 29 16) (8192 - bitsOf w 12 0))
  else w

/-! ## Drafting a write -/

/-- A write as its fields take it: the register's new word, the W1S and W1C bits of fields that take the write, and whether
a value was clamped or refused. -/
structure Draft where
  word : Nat
  act : Nat
  clamped : Bool
  refused : Bool
  deriving DecidableEq, Repr

/-- One field of a write (R406 to R408). -/
def State.draftField (m : State) (who : Master) (off v : Nat) (d : Draft) (e : FieldRow × List Nat) : Draft :=
  let r := e.1
  let x := bitsOf v r.hi r.lo
  let may := m.mayWrite who off e
  match r.acc with
  | .ro => d
  | .w1c =>
    if x = 0 then d
    else if may then { d with word := d.word - ((bitsOf d.word r.hi r.lo &&& x) <<< r.lo), act := d.act + x <<< r.lo }
    else { d with refused := true }
  | .w1s =>
    if x = 0 then d
    else if may then { d with act := d.act + x <<< r.lo }
    else { d with refused := true }
  | _ =>
    if may && !m.lockedAt off e then
      let y := m.clampOf off r x
      { d with word := insertBits d.word r.hi r.lo (roundOf off y), clamped := d.clamped || decide (y ≠ x) }
    else if x = (if r.acc = .wo then 0 else bitsOf d.word r.hi r.lo) ∧ !(may && m.tableLocked off) then d
    else { d with refused := true }

def State.draft (m : State) (who : Master) (off v : Nat) : Draft :=
  let d := (rowsAt off).foldl (m.draftField who off v) ⟨m.reg off, 0, false, false⟩
  let w := fitWord off d.word
  { d with word := w, clamped := d.clamped || decide (w ≠ d.word) }

/-! ## Reads -/

/-- Bits of the register that read zero: write-only fields (R406). -/
def woMask (off : Nat) : Nat :=
  ((rowsAt off).filter (fun e => decide (e.1.acc = .wo))).foldl (fun w e => w ||| ((2 ^ (e.1.hi + 1 - e.1.lo) - 1) <<< e.1.lo)) 0

/-- w with a field's value. -/
def Fld.put (f : Fld) (v w : Nat) : Nat := insertBits w f.hi f.lo v

/-- The header's state register and the latched value (R402, R404). -/
def State.headerRead (m : State) (page po w : Nat) : Nat :=
  if po = 0x18 then
    let e := b2n (decide (page ∈ m.engResets))
    (Reg.hdr_READY page).put (1 - e) ((Reg.hdr_ERST page).put e ((Reg.hdr_SAFE page).put (b2n m.safe)
      ((Reg.hdr_EVQ page).put ((m.events.filter (fun x => decide (x.page = page))).length) w)))
  else if po = 0x58 then m.snapData page
  else w

/-- The operation that holds quadrant q's array. -/
def State.gopAt (m : State) (q : Nat) : Option Gop := m.gops.find? (fun g => g.granted && decide (q ∈ g.f.region))

/-- The operation that Ladle q drains. -/
def State.drainAt (m : State) (q : Nat) : Option Gop := m.gops.find? (fun g => g.granted && decide (q ∈ g.f.ladles))

/-- A granted operation that uses quadrant q has a wave in flight. -/
def State.flying (m : State) (uses : GopF → List Nat) (q : Nat) : Bool :=
  m.gops.any (fun g => g.granted && decide (q ∈ uses g.f) && !g.inflight.isEmpty)

/-- The shadow registers of quadrant q hold a preloaded held operand (R81 PRELOAD). -/
def State.preloaded (m : State) (q : Nat) : Bool :=
  m.gops.any (fun g => g.shadow.isSome && !g.f.bothRegs && decide (q ∈ g.f.region))

/-- What a register shows of the state beside the register pages. w: the stored word. -/
def State.shown (m : State) (off w : Nat) : Nat :=
  let page := off / 0x1_0000
  let po := off % 0x1_0000
  match blkOf page with
  | some (.grd, q) =>
    if po ≠ 0x100 then w
    else (match m.gopAt q with
      | some g => (Reg.grd_BUSY q).put (b2n (m.flying (fun f => f.region) q)) ((Reg.grd_STN q).put g.stn ((Reg.grd_FLOW q).put g.f.flow
          ((Reg.grd_MODE q).put g.f.mode ((Reg.grd_SPLIT q).put (b2n g.f.split)
          ((Reg.grd_PRELOAD q).put (b2n (m.preloaded q)) w)))))
      | none => w)
  | some (.ldl, q) =>
    if po ≠ 0x100 then w
    else (match m.drainAt q with
      | some g => (Reg.ldl_BUSY q).put (b2n (m.flying (fun f => f.ladles) q)) ((Reg.ldl_SLOT q).put g.f.lslot ((Reg.ldl_STN q).put g.stn w))
      | none => w)
  | some (.tng, d) =>
    if po = 0x100 then (Reg.tng_OUTST d).put ((m.reqs.filter (fun r => decide (r.page = page))).length) w else w
  | some (.crk, d) =>
    if 0x100 ≤ po ∧ po < 0x160 then (match m.sliceStn (12 * d + (po - 0x100) / 8) with
      | some n => (Reg.crk_OWNED d ((po - 0x100) / 8)).put 1 ((Reg.crk_STN d ((po - 0x100) / 8)).put n w)
      | none => w)
    else w
  | some (.cc, c) =>
    if po = 0x100 then (match m.coreStn c with
      | some n => (Reg.cc_BOUND c).put 1 ((Reg.cc_STN c).put n w)
      | none => w)
    else w
  | some (.tmb, _) =>
    if po = 0x100 then Reg.tmb_WCH_USED.put ((m.watches.filter (fun e => e.2.isSome)).length)
      (Reg.tmb_BAR_EN.put (((List.range 256).filter (fun b => m.flag (Reg.tmb_EN b))).length) w)
    else w
  | some (.sve, _) =>
    if po = 0x100 then Reg.sve_BUSY.put (b2n (decide (m.sievePend ≠ 0))) (Reg.sve_PEND.put (min 64 m.sievePend) w)
    else if 0x200 ≤ po ∧ po < 0x400 ∧ (po - 0x200) % 0x40 = 8 then
      let n := (po - 0x200) / 0x40
      (Reg.sve_SUSPECT n).put (b2n (m.suspect n)) ((Reg.sve_AUDIT n).put (b2n (m.auditStep n (m.fld (Reg.sve_STEP n)))) w)
    else w
  | some (.fw, _) =>
    if po = 0x118 then Reg.fw_TSVN_MIN.put m.fuses.tsvnMin (Reg.fw_SSVN_MIN.put m.fuses.ssvnMin w) else w
  | some (.krt, _) =>
    if po = 0x138 then
      (m.routes.get (fun _ => 0) (if m.flag Reg.krt_RT_SITE then 65536 + m.fld Reg.krt_RT_IDX % 16 else m.fld Reg.krt_RT_IDX)).toNat
    else if 0x148 ≤ po ∧ po < 0x168 then (m.groups.get (fun _ => 0) (4 * m.fld Reg.krt_GRP_IDX + (po - 0x148) / 8)).toNat
    else w
  | _ => w

/-- A read of a register: its value, and the state with what it records (R33, R404, R406, R408). -/
def State.regRead (m : State) (who : Master) (off : Nat) : Nat × State :=
  let page := off / 0x1_0000
  if 155 ≤ page then (0, m.access 0x9A (mid who) (m.masterStn who) 0 (regAddr off))
  else if (rowsAt off).any (m.foreignRow who off) then (0, m.access page (mid who) (m.masterStn who) 0 (regAddr off))
  else if (rowsAt off).isEmpty then (0, m)
  else
    let w := m.reg off
    let w1 := w - (w &&& woMask off)
    (if off % 0x1_0000 < 0x100 then m.headerRead page (off % 0x1_0000) w1 else m.shown off w1, m)

end Sys2Proof.Machine
end

