-- ==== Sys2Proof/Machine/RegWrite.lean ====
section
/-! DEFINITION. What a write of a register does (R406 to R408): the rows of each page, and the commands that are such
writes. -/

namespace Sys2Proof.Machine

/-! ## Pages -/

/-- The common header (R402 to R405). -/
def State.hdrWrite (m : State) (page po : Nat) (d : Draft) : State :=
  let m1 := m.setReg (0x1_0000 * page + po) d.word
  if po = 0x10 then
    if d.act.testBit 0 then (m.setFld (Reg.hdr_EVENTS page) 0).setFld (Reg.hdr_UNDELIVERED page) 0 else m
  else if po = 0x20 then (if d.act.testBit 63 then m1.setFld (Reg.hdr_COUNT page) 0 else m1)
  else if po = 0x38 then
    if d.act.testBit 63 then [0x28, 0x30, 0x38, 0x40].foldl (fun m o => m.setReg (0x1_0000 * page + o) 0) m else m
  else if po = 0x60 then
    let kinds := match blkOf page with
      | some (b, _) => injKinds b
      | none => 0
    if d.act.testBit 63 ∧ kinds ≠ 0 then m1.setFlag (Reg.hdr_ARMED page) true else m1
  else m1

/-- Cores that a station's mask takes in or gives up while it is enabled (R203). -/
def State.recore (m : State) (n new : Nat) : State :=
  let old := m.fld (Reg.sys_CORE_MASK n)
  let m1 := m.setFld (Reg.sys_CORE_MASK n) new
  if !m.stnOn n then m1
  else
    let m2 := ((coresOf old).filter (fun c => !new.testBit c)).foldl State.coreHold m1
    ((coresOf new).filter (fun c => !old.testBit c)).foldl State.coreStart m2

/-- Register k of station n (R21 to R23). OVL changes only on a write that sets EN of a disabled station: what a write of the
value EN has does to it, the spec does not say (DESIGN CHOICE, log 88). -/
def State.stnWrite (m : State) (n k : Nat) (d : Draft) : State :=
  let off := 0x100 + 0x40 * n + 8 * k
  if k = 0 then
    let m1 := (m.setFld (Reg.sys_INTEG n) (bitsOf d.word 5 4)).recore n (bitsOf d.word 31 16)
    let m2 := if d.act.testBit 1 then m1.setFlag (Reg.sys_LOCK n) true else m1
    if d.word.testBit 0 ∧ !m2.stnOn n then m2.enableTry n
    else if !d.word.testBit 0 ∧ m2.stnOn n then m2.resetBegin n true
    else m2
  else if k = 1 ∧ m.stnOn n then m.regrant n (bitsOf d.word 47 0)
  else m.setReg off d.word

/-- SYS (R21, R383, R407). -/
def State.sysWrite (m : State) (who : Master) (po : Nat) (d : Draft) : State :=
  if 0x100 ≤ po ∧ po < 0x300 then m.stnWrite ((po - 0x100) / 0x40) ((po - 0x100) % 0x40 / 8) d
  else if po = 0x400 then
    if d.act.testBit 0 then m.restartModule
    else
      let ns := (List.range 8).filter (fun n => d.act.testBit (8 + n))
      let off := ns.filter (fun n => !m.stnOn n)
      let m1 := if off.isEmpty then m else m.access 0 (mid who) (m.masterStn who) 1 (regAddr 0x400)
      (ns.filter m.stnOn).foldl (fun m n => m.resetBegin n false) m1
  else if po = 0x408 then (if d.act.testBit 63 then (m.setReg po d.word).erstGo (mid who) else m.setReg po d.word)
  else if 0x410 ≤ po ∧ po < 0x490 then
    if d.word = m.reg po then m else (m.setReg po d.word).setFld (Reg.sys_HEAD ((po - 0x410) / 0x10)) 0
  else if po = 0x510 then (if d.act.testBit 63 then (m.setReg po d.word).marginGo else m.setReg po d.word)
  else if po = 0x600 then m.setReg po (d.word ||| d.act)
  else m.setReg po d.word

/-- PWR (R400). -/
def State.pwrWrite (m : State) (who : Master) (off : Nat) (d : Draft) : State :=
  if off = 0x1_0110 then m.computeWrite (mid who) d.word
  else if off = 0x1_0120 then (m.setReg off d.word).dvfs
  else m.setReg off d.word

/-- BOLT (R336). -/
def State.boltWrite (m : State) (off : Nat) (d : Draft) : State :=
  if off = 0x2_0108 then (if d.act.testBit 0 then m.pendClear else m)
  else if 0x2_0140 ≤ off ∧ off < 0x2_0158 then m.severeClear ((off - 0x2_0140) / 8) d.act
  else m.setReg off d.word

/-- A swap is asked for on one quadrant (R90): at once where no recipe of the station runs there. -/
def State.swapAsk (m : State) (n q : Nat) : State :=
  let m1 := m.setFlag (Reg.seq_SWAP_PEND q n) true
  if (m.launch n).any (fun l => l.has q) then m1 else m1.applySwaps n (2 ^ q)

/-- SEQ (R89 to R94, R110, R111). -/
def State.seqWrite (m : State) (who : Master) (q off : Nat) (d : Draft) : State :=
  let po := off % 0x1_0000
  let m1 := m.setReg off d.word
  if po < 0x200 then (if (po - 0x100) % 0x20 = 0x10 ∧ d.act.testBit 1 then m1.swapAsk ((po - 0x100) / 0x20) q else m1)
  else if po < 0x1000 then (if d.act.testBit 63 then m1.launchGo (mid who) ((po - 0x200) / 0x10) else m1)
  else m.stageParam ((po - 0x1000) / 0x800) ((po - 0x1000) % 0x800 / 8) d.word

/-- LDL (R141, R147, R148, R158). -/
def State.ldlWrite (m : State) (who : Master) (q off : Nat) (d : Draft) : State :=
  let po := off % 0x1_0000
  let m1 := m.setReg off d.word
  if 0xA00 ≤ po ∧ po < 0xA40 then
    let n := (po - 0xA00) / 8
    (List.range 4).foldl (fun m q =>
      let m1 := if d.act.testBit 0 then m.setFlag (Reg.ldl_SP_NV q n) false else m
      if d.act.testBit 1 then m1.setFlag (Reg.ldl_SP_OF q n) false else m1) m
  else if 0x1000 ≤ po ∧ po < 0x1200 ∧ (po - 0x1000) % 0x40 = 0x18 ∧ d.act.testBit 63 then m1.rflushGo (mid who) ((po - 0x1000) / 0x40)
  else if 0x1000 ≤ po ∧ po < 0x1200 ∧ (po - 0x1000) % 0x40 = 0x20 ∧ d.act.testBit 63 then m1.scanGo (mid who) q ((po - 0x1000) / 0x40)
  else m1

/-- TNG's table directory (R177, R181). -/
def State.tngWrite (m : State) (who : Master) (off : Nat) (d : Draft) : State :=
  let po := off % 0x1_0000
  let m1 := m.setReg off d.word
  if 0x1000 ≤ po ∧ po % 0x40 = 0x20 then
    let i := (po - 0x1000) / 0x40
    ((List.range 4).filter (fun k => d.act.testBit k)).foldl (fun m k => m.tableCmd (mid who) (i / 16) (i % 16) k) m1
  else m1

/-- CC (R214). -/
def State.ccWrite (m : State) (c off : Nat) (d : Draft) : State :=
  if off % 0x1_0000 = 0x108 then
    let m1 := if d.word.testBit 0 = m.flag (Reg.cc_HALT c) then m else m.coreHalt c (d.word.testBit 0)
    if d.act.testBit 1 then m1.coreReset c else m1
  else m.setReg off d.word

/-- A change of reach (R249): refused past 16 metro ports or on a reserve slot in use; it applies while the link is DOWN and
waits otherwise. -/
def State.reachWrite (m : State) (who : Master) (p : Nat) (metro : Bool) (slot : Nat) : State :=
  let others := (List.range 64).filter (fun x => decide (x ≠ p) && m.isMetro x)
  if metro = m.isMetro p ∧ slot = m.fld (Reg.kp_MSLOT p) then m.setLink p { m.link p with reachPend := none }
  else if metro ∧ (16 ≤ others.length ∨ others.any (fun x => decide (m.fld (Reg.kp_MSLOT x) = slot))) then
    m.access (kpPage p) (mid who) (m.masterStn who) 1 (regAddr (Reg.kp_METRO p).off)
  else if m.fld (Reg.kp_LSTATE p) = LState.down then
    let m1 := (m.setFlag (Reg.kp_METRO p) metro).setFld (Reg.kp_MSLOT p) slot
    if metro ∧ !m.isMetro p then m1.setFld (Reg.kp_REPLAY_TMO p) 4000 else m1
  else m.setLink p { m.link p with reachPend := some (metro, slot) }

/-- EN of a port (R248): 0 takes the link DOWN, 1 starts training, and a FAILED port leaves FAILED on 0 and then 1. -/
def State.portWrite (m : State) (p : Nat) (en : Bool) : State :=
  let old := m.flag (Reg.kp_EN p)
  let st := m.fld (Reg.kp_LSTATE p)
  let m1 := m.setFlag (Reg.kp_EN p) en
  if !en && old && decide (st ≠ LState.down ∧ st ≠ LState.failed) then m1.linkTo p LState.down true
  else if en && !old && !m.safe then (m1.linkTo p LState.down false).setFld (Reg.kp_LSTATE p) LState.train
  else m1

/-- KP (R238, R248, R249, R254). -/
def State.kpWrite (m : State) (who : Master) (p off : Nat) (d : Draft) : State :=
  let po := off % 0x1_0000
  if po = 0x100 then
    let m1 := (m.setFld (Reg.kp_WIDTH p) (bitsOf d.word 2 1)).setFlag (Reg.kp_LOOP p) (d.word.testBit 8)
    let m2 := if m.mayWrite who off (⟨0x100, [], 3, 3, .rwl, 0, .tc, none, false, false, .none⟩, []) && !m.flag Reg.sys_PORT
      then m1.reachWrite who p (d.word.testBit 3) (bitsOf d.word 7 4) else m1
    m2.portWrite p (d.word.testBit 0)
  else if 0x180 ≤ po ∧ po < 0x1C0 then
    let m1 := m.setReg off d.word
    let k := (po - 0x180) / 0x20
    if (po - 0x180) % 0x20 = 0x18 then (m1.setFld (Reg.kp_KLOADED p) (m1.fld (Reg.kp_KLOADED p) ||| 2 ^ k)).freshKey p k else m1
  else if po = 0x1C8 then (if d.act.testBit 1 then m.setLink p { m.link p with switchPend := true } else m)
  else m.setReg off d.word

/-- KRT (R255, R258, R264, R275, R351). Bits that no field of a route entry or of a group's first word has are not kept (R9). -/
def State.krtWrite (m : State) (who : Master) (off : Nat) (d : Draft) (v : Nat) : State :=
  let po := off % 0x1_0000
  if po = 0x100 then
    let m1 := m.setReg off d.word
    { m1 with nodeSet := m1.nodeSet || m1.flag Reg.krt_VALID }
  else if po = 0x138 then
    let i := if m.flag Reg.krt_RT_SITE then 65536 + m.fld Reg.krt_RT_IDX % 16 else m.fld Reg.krt_RT_IDX
    { m with routes := m.routes.set (fun _ => 0) i (BitVec.ofNat 64 (v % 2 ^ 28)) }
  else if 0x148 ≤ po ∧ po < 0x168 then
    let e := m.fld Reg.krt_GRP_IDX
    let w := (po - 0x148) / 8
    let m1 := { m with groups := m.groups.set (fun _ => 0) (4 * e + w) (BitVec.ofNat 64 (if w = 0 then v % 2 ^ 35 else v)) }
    if w = 3 then { m1 with grpSeq := m1.grpSeq.set (fun _ => 0) e 0 } else m1
  else if 0x308 ≤ po ∧ po < 0x400 ∧ (po - 0x300) % 0x20 = 8 ∧ d.act.testBit 63 then
    (m.setReg off d.word).scanGoKrt (mid who) ((po - 0x300) / 0x20)
  else m.setReg off d.word

/-- TIME (R272, R273, R376). -/
def State.timeWrite (m : State) (off : Nat) (d : Draft) : State :=
  let m1 := m.setReg off d.word
  if off = 0x85_0108 then (if m1.fld Reg.time_SRC = 0 then m1.setFlag Reg.time_LOCK false else m1)
  else if off = 0x85_0148 then (if d.act.testBit 0 then m1.snapArm else m1)
  else m1

/-- A write of VALUE: an operation (R278). -/
def State.valueWrite (m : State) (master i v : Nat) : State := m.ctrOp i (v : Int) master

/-- Barrier b's control register (R286, R289): EN is set where R286 accepts it, and clearing it returns the barrier to idle. -/
def State.barWrite (m : State) (master b : Nat) (d : Draft) : State :=
  let old := m.flag (Reg.tmb_EN b)
  let m1 := m.setReg (Reg.tmb_EN b).off (insertBits d.word 63 63 (b2n old))
  if d.word.testBit 63 then m1.barEnable master b
  else if old then m1.barIdle b
  else m1

/-- TMB (R278, R281, R284, R286, R289). -/
def State.tmbWrite (m : State) (who : Master) (off : Nat) (d : Draft) : State :=
  let po := off % 0x1_0000
  let m1 := m.setReg off d.word
  if 0x208 ≤ po ∧ po < 0x280 ∧ (po - 0x200) % 0x10 = 8 then
    if d.act.testBit 63 then m1.wregGo (mid who) ((po - 0x200) / 0x10) else m1
  else if 0x3000 ≤ po ∧ po < 0x4000 then
    let b := (po - 0x3000) / 0x10
    if po % 0x10 = 0 then m.barWrite (mid who) b d
    else if d.act.testBit 63 then m1.enter b who else m1
  else if 0x8000 ≤ po then
    let i := (po - 0x8000) / 8
    (m.ctrSetLimit i (bitsOf d.word 63 32) (mid who)).valueWrite (mid who) i (bitsOf d.word 31 0)
  else m1

/-- SVE (R321). -/
def State.sveWrite (m : State) (off : Nat) (d : Draft) : State :=
  let po := off % 0x1_0000
  let n := (po - 0x200) / 0x40
  if 0x200 ≤ po ∧ po < 0x400 ∧ (po - 0x200) % 0x40 = 0 then (m.setStep n { m.stepOf n with pend := some d.word }).stepTry n
  else if 0x200 ≤ po ∧ po < 0x400 ∧ (po - 0x200) % 0x40 = 8 then
    if d.act.testBit 63 then (m.setStep n { m.stepOf n with drainReq := true }).stepTry n else m
  else m.setReg off d.word

/-- FW (R364). -/
def State.fwWrite (m : State) (who : Master) (off : Nat) (d : Draft) : State :=
  let po := off % 0x1_0000
  if 0x1400 ≤ po ∧ (po - 0x1400) % 0x800 = 0 ∧ d.act.testBit 63 then m.mboxSubmit who ((po - 0x1400) / 0x800) (bitsOf d.word 7 0)
  else m.setReg off d.word

/-! ## The write -/

/-- The effect of a write that its master may make. -/
def State.regEffect (m : State) (who : Master) (off v : Nat) (d : Draft) : State :=
  let page := off / 0x1_0000
  let po := off % 0x1_0000
  if po < 0x100 then m.hdrWrite page po d
  else match blkOf page with
  | some (.sys, _) => m.sysWrite who po d
  | some (.pwr, _) => m.pwrWrite who off d
  | some (.bolt, _) => m.boltWrite off d
  | some (.tmb, _) => m.tmbWrite who off d
  | some (.seq, q) => m.seqWrite who q off d
  | some (.ldl, q) => m.ldlWrite who q off d
  | some (.wsk, _) => m.ring (mid who) page ((po - 0x180) / 8) v
  | some (.tng, _) => if 0x180 ≤ po ∧ po < 0x1C0 then m.ring (mid who) page ((po - 0x180) / 8) v else m.tngWrite who off d
  | some (.mtr, _) => m.ring (mid who) page ((po - 0x180) / 8) v
  | some (.crk, c) => m.crkWrite (mid who) (12 * c + (po - 0x100) / 8) v
  | some (.mc, _) => if 0x200 ≤ po then m.mcLocal (mid who) (decide (po = 0x208)) v else m.setReg off d.word
  | some (.kp, p) => m.kpWrite who p off d
  | some (.krt, _) => if 0x180 ≤ po ∧ po < 0x1C0 then m.ring (mid who) page ((po - 0x180) / 8) v else m.krtWrite who off d v
  | some (.time, _) => m.timeWrite off d
  | some (.fw, _) => m.fwWrite who off d
  | some (.cc, c) => m.ccWrite c off d
  | some (.sve, _) => m.sveWrite off d
  | _ => m.setReg off d.word

/-- A write of EN = 1 to a station in reset, which is dropped whole (R367). -/
def State.enDropped (m : State) (off v : Nat) : Bool :=
  decide (0x100 ≤ off ∧ off < 0x300 ∧ (off - 0x100) % 0x40 = 0) && v.testBit 0 && m.inReset ((off - 0x100) / 0x40)

/-- An aligned 64-bit write of a register: on a reserved page it is recorded (R33); where no register, or none that can be
written, lies it is ignored; a master that may write no field of the register is refused (R408); the fields it may write
take their values, clamped where they must be, and those it may not are recorded once where they would change. -/
def State.busWrite (m : State) (who : Master) (off v : Nat) : State :=
  let page := off / 0x1_0000
  let note (m : State) : State := m.access page (mid who) (m.masterStn who) 1 (regAddr off)
  let rows := (rowsAt off).filter (fun e => decide (e.1.acc ≠ .ro))
  if !m.reaches who then m
  else if 155 ≤ page then m.access 0x9A (mid who) (m.masterStn who) 1 (regAddr off)
  else if rows.isEmpty then m
  else if !rows.any (m.mayWrite who off) then note m
  else if m.enDropped off v then note m
  else
    let d := m.draft who off v
    let m1 := if d.refused then note m else m
    let m2 := if d.clamped then m1.clampAt off else m1
    m2.regEffect who off v d

/-- A narrow or unaligned access (R8). -/
def State.narrow (m : State) (who : Master) (off size : Nat) (write : Bool) : State :=
  let page := min 0x9A (off / 0x1_0000)
  if !m.reaches who then m
  else
    let m1 := m.access page (mid who) (m.masterStn who) (b2n write) (regAddr off)
    if write then m1 else { m1 with busOut := ⟨List.replicate size 0, false, true⟩ }

/-- An access to the pages R33 reserves. -/
def State.reservedPage (m : State) (who : Master) (off : Nat) (write : Bool) : State :=
  if off < 0x9B_0000 ∨ !m.reaches who then m
  else if write then m.busWrite who off 0
  else { (m.regRead who off).2 with busOut := ⟨List.replicate 8 0, false, true⟩ }

/-! ## The commands that write registers -/

def execRegisterWrite (m : Master) (off : Nat) (v : Word) (s : State) : Host.Outcome State Fault Refusal :=
  .next (s.busWrite m (off / 8 * 8) v.toNat)
def execNarrowAccess (m : Master) (off size : Nat) (isWrite : Bool) (s : State) : Host.Outcome State Fault Refusal :=
  .next (s.narrow m off size isWrite)
def execReservedPageAccess (m : Master) (off : Nat) (isWrite : Bool) (s : State) : Host.Outcome State Fault Refusal :=
  .next (s.reservedPage m off isWrite)
def execSeqLaunch (m : Master) (n : Stn) (v : Word) (s : State) : Host.Outcome State Fault Refusal :=
  .next (s.busWrite m (Reg.seq_GO 0 n).off v.toNat)
def execBankSwap (m : Master) (n : Stn) (q : Quad) (v : Word) (s : State) : Host.Outcome State Fault Refusal :=
  .next (s.busWrite m (Reg.seq_SWAP q n).off v.toNat)
def execParamWrite (m : Master) (n : Stn) (i : Fin 256) (v : Word) (s : State) : Host.Outcome State Fault Refusal :=
  .next (s.busWrite m (Reg.seq_P 0 n i).off v.toNat)
def execRflush (m : Master) (n : Stn) (v : Word) (s : State) : Host.Outcome State Fault Refusal :=
  .next (s.busWrite m (Reg.ldl_GO 0 n).off v.toNat)
def execStockpotScan (m : Master) (q : Quad) (n : Stn) (v : Word) (s : State) : Host.Outcome State Fault Refusal :=
  .next (s.busWrite m (Reg.ldl_GO_1020 q n).off v.toNat)
def execWskDoorbell (m : Master) (w : Stack) (n : Stn) (v : Word) (s : State) : Host.Outcome State Fault Refusal :=
  .next (s.busWrite m (Reg.wsk_GO w n).off v.toNat)
def execTngDoorbell (m : Master) (d : Die) (n : Stn) (v : Word) (s : State) : Host.Outcome State Fault Refusal :=
  .next (s.busWrite m (Reg.tng_DB_GO d n).off v.toNat)
def execMtrDoorbell (m : Master) (d : Die) (n : Stn) (v : Word) (s : State) : Host.Outcome State Fault Refusal :=
  .next (s.busWrite m (Reg.mtr_DB_GO d n).off v.toNat)
def execCollDoorbell (m : Master) (n : Stn) (v : Word) (s : State) : Host.Outcome State Fault Refusal :=
  .next (s.busWrite m (Reg.krt_DB_GO n).off v.toNat)

/-- A table command: the bit beside the counter number in force. -/
def State.tableBit (m : State) (n t k : Nat) : Nat := m.fld (Reg.tng_ECTR 0 n t) <<< 16 + 2 ^ k

def execTableBuild (m : Master) (n : Stn) (t : Fin 16) (s : State) : Host.Outcome State Fault Refusal :=
  .next (s.busWrite m (Reg.tng_BUILD 0 n t).off (s.tableBit n t 0))
def execTableDone (m : Master) (n : Stn) (t : Fin 16) (s : State) : Host.Outcome State Fault Refusal :=
  .next (s.busWrite m (Reg.tng_DONE 0 n t).off (s.tableBit n t 1))
def execTableSwap (m : Master) (n : Stn) (t : Fin 16) (s : State) : Host.Outcome State Fault Refusal :=
  .next (s.busWrite m (Reg.tng_SWAP 0 n t).off (s.tableBit n t 2))
def execTableAbandon (m : Master) (n : Stn) (t : Fin 16) (s : State) : Host.Outcome State Fault Refusal :=
  .next (s.busWrite m (Reg.tng_ABANDON 0 n t).off (s.tableBit n t 3))

/-- A write of one half of counter i's register: the master is checked, and only that half is written (R278, R289). -/
def State.ctrWrite (m : State) (who : Master) (i : Nat) (f : State → State) : State :=
  let off := (Reg.tmb_VALUE i).off
  if !m.reaches who then m
  else if (rowsAt off).any (m.mayWrite who off) then f m
  else m.access 3 (mid who) (m.masterStn who) 1 (regAddr off)

def execValueWrite (m : Master) (i : Fin 4096) (v : BitVec 32) (s : State) : Host.Outcome State Fault Refusal :=
  .next (s.ctrWrite m i (fun t => t.valueWrite (mid m) i v.toNat))
def execLimitWrite (m : Master) (i : Fin 4096) (v : BitVec 32) (s : State) : Host.Outcome State Fault Refusal :=
  .next (s.ctrWrite m i (fun t => t.ctrSetLimit i v.toNat (mid m)))
def execWregGo (m : Master) (n : Stn) (v : Word) (s : State) : Host.Outcome State Fault Refusal :=
  .next (s.busWrite m (Reg.tmb_GO n).off v.toNat)
def execEnter (m : Master) (b : Fin 256) (s : State) : Host.Outcome State Fault Refusal :=
  .next (s.busWrite m (Reg.tmb_ENTER b).off (2 ^ 63))
def execBarrierEnable (m : Master) (b : Fin 256) (v : Word) (s : State) : Host.Outcome State Fault Refusal :=
  .next (s.busWrite m (Reg.tmb_EN b).off v.toNat)
def execBarrierDisable (m : Master) (b : Fin 256) (v : Word) (s : State) : Host.Outcome State Fault Refusal :=
  .next (s.busWrite m (Reg.tmb_EN b).off v.toNat)
def execPortEnable (m : Master) (p : Port) (v : Word) (s : State) : Host.Outcome State Fault Refusal :=
  .next (s.busWrite m (Reg.kp_EN p).off v.toNat)
def execPortDisable (m : Master) (p : Port) (v : Word) (s : State) : Host.Outcome State Fault Refusal :=
  .next (s.busWrite m (Reg.kp_EN p).off v.toNat)
def execMetroWrite (m : Master) (p : Port) (v : Word) (s : State) : Host.Outcome State Fault Refusal :=
  .next (s.busWrite m (Reg.kp_METRO p).off v.toNat)
def execKswitch (m : Master) (p : Port) (s : State) : Host.Outcome State Fault Refusal :=
  .next (s.busWrite m (Reg.kp_KSWITCH p).off 2)
def execNodeidWrite (m : Master) (v : Word) (s : State) : Host.Outcome State Fault Refusal :=
  .next (s.busWrite m Reg.krt_NODEID.off v.toNat)
def execDigestScan (m : Master) (n : Stn) (v : Word) (s : State) : Host.Outcome State Fault Refusal :=
  .next (s.busWrite m (Reg.krt_GO n).off v.toNat)
def execMcLocalWrite (m : Master) (hi : Bool) (v : Word) (s : State) : Host.Outcome State Fault Refusal :=
  .next (s.busWrite m (if hi then Reg.mc_LOCAL_HI 0 else Reg.mc_LOCAL_LO 0).off v.toNat)
def execCrkMode (m : Master) (k : Fin 48) (v : Word) (s : State) : Host.Outcome State Fault Refusal :=
  .next (s.busWrite m (Reg.crk_MODE (k.val / 12) (k.val % 12)).off v.toNat)
def execCrkFlush (m : Master) (k : Fin 48) (v : Word) (s : State) : Host.Outcome State Fault Refusal :=
  .next (s.busWrite m (Reg.crk_FLUSH (k.val / 12) (k.val % 12)).off v.toNat)
def execStationEnable (m : Master) (n : Stn) (v : Word) (s : State) : Host.Outcome State Fault Refusal :=
  .next (s.busWrite m (Reg.sys_EN n).off v.toNat)
def execStationLock (m : Master) (n : Stn) (v : Word) (s : State) : Host.Outcome State Fault Refusal :=
  .next (s.busWrite m (Reg.sys_LOCK n).off v.toNat)
def execStationRestart (m : Master) (n : Stn) (s : State) : Host.Outcome State Fault Refusal :=
  .next (s.busWrite m Reg.sys_SRST.off (2 ^ (8 + n.val)))
def execStationRelease (m : Master) (n : Stn) (v : Word) (s : State) : Host.Outcome State Fault Refusal :=
  .next (s.busWrite m (Reg.sys_EN n).off v.toNat)
def execEngineReset (m : Master) (v : Word) (s : State) : Host.Outcome State Fault Refusal :=
  .next (s.busWrite m Reg.sys_GO.off v.toNat)
def execCoreReset (m : Master) (c : Core) (s : State) : Host.Outcome State Fault Refusal :=
  .next (s.busWrite m (Reg.cc_RST c).off (2 + b2n (s.flag (Reg.cc_HALT c))))
def execHalt (m : Master) (c : Core) (v : Word) (s : State) : Host.Outcome State Fault Refusal :=
  .next (s.busWrite m (Reg.cc_HALT c).off v.toNat)
def execLedgerConfig (m : Master) (n : Stn) (v : Word) (s : State) : Host.Outcome State Fault Refusal :=
  .next (s.busWrite m (Reg.sys_BASE n).off v.toNat)
def execMrst (m : Master) (v : Word) (s : State) : Host.Outcome State Fault Refusal :=
  .next (s.busWrite m Reg.sys_MRST.off v.toNat)
def execComputeOn (m : Master) (v : Word) (s : State) : Host.Outcome State Fault Refusal :=
  .next (s.busWrite m Reg.pwr_COMPUTE_ON.off v.toNat)
def execComputeOff (m : Master) (v : Word) (s : State) : Host.Outcome State Fault Refusal :=
  .next (s.busWrite m Reg.pwr_COMPUTE_ON.off v.toNat)
def execArrayReq (m : Master) (v : Word) (s : State) : Host.Outcome State Fault Refusal :=
  .next (s.busWrite m Reg.pwr_ARRAY_REQ.off v.toNat)
def execPendClear (m : Master) (s : State) : Host.Outcome State Fault Refusal := .next (s.busWrite m Reg.bolt_PEND.off 1)
def execSevereClear (m : Master) (j : Fin 3) (v : Word) (s : State) : Host.Outcome State Fault Refusal :=
  .next (s.busWrite m (Reg.bolt_SEVERE j).off v.toNat)
def execInjArm (m : Master) (page : Fin 155) (v : Word) (s : State) : Host.Outcome State Fault Refusal :=
  .next (s.busWrite m (Reg.hdr_ARM page).off v.toNat)
def execEcntClr (m : Master) (page : Fin 155) (s : State) : Host.Outcome State Fault Refusal :=
  .next (s.busWrite m (Reg.hdr_ECNT_CLR page).off 1)
def execFerrClear (m : Master) (page : Fin 155) (s : State) : Host.Outcome State Fault Refusal :=
  .next (s.busWrite m (Reg.hdr_VALID_38 page).off (2 ^ 63))
def execClampClear (m : Master) (page : Fin 155) (s : State) : Host.Outcome State Fault Refusal :=
  .next (s.busWrite m (Reg.hdr_VALID page).off (2 ^ 63))
def execSnapArm (m : Master) (v : Word) (s : State) : Host.Outcome State Fault Refusal :=
  .next (s.busWrite m Reg.time_ARM.off v.toNat)
def execSveStep (m : Master) (n : Stn) (v : Word) (s : State) : Host.Outcome State Fault Refusal :=
  .next (s.busWrite m (Reg.sve_STEP n).off v.toNat)
def execDrain (m : Master) (n : Stn) (s : State) : Host.Outcome State Fault Refusal :=
  .next (s.busWrite m (Reg.sve_DRAIN n).off (2 ^ 63))
def execMarginTest (m : Master) (v : Word) (s : State) : Host.Outcome State Fault Refusal :=
  .next (s.busWrite m Reg.sys_GO_510.off v.toNat)
def execCfglockCore (m : Master) (s : State) : Host.Outcome State Fault Refusal := .next (s.busWrite m Reg.sys_CORE.off 1)
def execCfglockNode (m : Master) (s : State) : Host.Outcome State Fault Refusal := .next (s.busWrite m Reg.sys_NODE.off 2)
def execCfglockPort (m : Master) (s : State) : Host.Outcome State Fault Refusal := .next (s.busWrite m Reg.sys_PORT.off 4)
def execCfglockPlat (m : Master) (s : State) : Host.Outcome State Fault Refusal := .next (s.busWrite m Reg.sys_PLAT.off 8)

end Sys2Proof.Machine
end

