-- ==== Sys2Proof/Machine/Host.lean ====
section
/-! DEFINITION. Access from outside: management requests over the Keyring (R257), the host's BAR2 window and PERST_N
(R394, R396), SMBus (R397) and JTAG (R398). -/

namespace Sys2Proof.Machine

/-! ## Management requests (R257) -/

/-- Pages that MGMT_RD and MGMT_WR reach: KRT, TIME and KP. -/
def mgmtPage (page : Nat) : Bool := decide (page = 0x84 ∨ page = 0x85 ∨ (0x44 ≤ page ∧ page < 0x84))

/-- Nodes of the valid KRT_MGR entries. -/
def State.managers (m : State) : List Nat :=
  ((List.range 4).filter (fun k => m.flag (Reg.krt_VALID_108 k))).map (fun k => m.fld (Reg.krt_MGR k))

/-- A management write is accepted: from a manager, or, with none, by relay from a neighbour until NODEID is first set. -/
def State.mgmtTakes (m : State) (f : Flit) : Bool :=
  let l := m.managers
  if l.isEmpty then !m.nodeSet && decide (f.dst % 65536 = 0xFFFF) else decide (f.src ∈ l)

/-- A 32-byte payload that holds one register. -/
def regPayload (v : Nat) : List Byte := leBytes v 8 ++ List.replicate 24 0

/-- MGMT_RD. An ADDR that is no multiple of 8 is an unaligned access, which R8 records and reads as zeros (DEDUCED, log 90). -/
def State.mgmtRead (m : State) (p : Port) (f : Flit) : State :=
  m.onFlit p f Op.mgmtRd fun m =>
    let off := f.addr
    if !mgmtPage (off / 0x1_0000) then m.respond p f (m.errReply f 2)
    else if off % 8 ≠ 0 then
      (m.access (off / 0x1_0000) (mid (.port p)) none 0 (regAddr off)).respond p f (m.mkReply f Op.mgmtRsp 0 f.addr 0 (regPayload 0))
    else
      let r := m.regRead (.port p) off
      r.2.respond p f (m.mkReply f Op.mgmtRsp 0 f.addr 0 (regPayload r.1))

/-- MGMT_WR: one that is not accepted, that no field takes, or of NODEID under its lock, is answered OWNER. An ADDR that is no
multiple of 8 is an unaligned access, which R8 records and which writes nothing (DEDUCED, log 90). -/
def State.mgmtWrite (m : State) (p : Port) (f : Flit) : State :=
  m.onFlit p f Op.mgmtWr fun m =>
    let off := f.addr
    let v := leNat (f.payload.take 8)
    let taken := m.mkReply f Op.mgmtRsp 0 f.addr 0 []
    if !m.mgmtTakes f then m.respond p f (m.errReply f 3)
    else if !mgmtPage (off / 0x1_0000) then m.respond p f (m.errReply f 2)
    else if off % 8 ≠ 0 then (m.access (off / 0x1_0000) (mid (.port p)) none 1 (regAddr off)).respond p f taken
    else
      let rows := (rowsAt off).filter (fun e => decide (e.1.acc ≠ .ro))
      let owner := (!rows.isEmpty && !rows.any (m.mayWrite (.port p) off)) ||
        (decide (off = Reg.krt_NODEID.off) && (m.draft (.port p) off v).refused)
      (m.busWrite (.port p) off v).respond p f (if owner then m.errReply f 3 else taken)

/-- A flit read from a relay's payload: the transaction header of R242 in its first 16 bytes, then the data. -/
def innerFlit (bs : List Byte) : Flit :=
  let w := leNat (bs.take 16)
  { op := bitsOf w 4 0, vc := 3, src := bitsOf w 24 5, dst := bitsOf w 44 25, sstn := bitsOf w 47 45, hops := bitsOf w 52 48,
    flow := bitsOf w 58 53, tag := bitsOf w 70 59, psn := bitsOf w 74 71, len := bitsOf w 77 75, addr := bitsOf w 121 78,
    payload := bs.drop 16 }

/-- MGMT_RELAY: the inner request leaves link-local by the port that ADDR names, with this module as its SRC (R242) and under a
tag free among that port's relays. -/
def State.mgmtRelay (m : State) (p : Nat) (f : Flit) : State :=
  m.onFlit p f Op.mgmtRelay fun m =>
    let q := f.addr % 64
    let x := innerFlit f.payload
    let tag := (List.range 4096).find? (fun t => !m.relays.any (fun (r : Relay) => decide (r.port = q ∧ r.tag = t)))
    if x.op ≠ Op.mgmtRd ∧ x.op ≠ Op.mgmtWr then m.respond p f (m.errReply f 2)
    else if !m.linkUp q then m.respond p f (m.errReply f 5)
    else match tag with
      | none => m.respond p f (m.errReply f 6)
      | some t =>
        let y : Flit := { x with src := m.srcId, dst := 0xFFFFF, tag := t, len := 0, payload := if x.op = Op.mgmtWr then regPayload (leNat (x.payload.take 8)) else [] }
        { m.txq q y with relays := m.relays ++ [⟨q, t, p, f⟩] }

/-- MGMT_RSP: the answer to a relayed request goes on to its requester; another is for this module. -/
def State.mgmtAnswer (m : State) (p : Nat) (f : Flit) : State :=
  m.onFlit p f Op.mgmtRsp fun m =>
    match m.relays.find? (fun (r : Relay) => decide (r.port = p ∧ r.tag = f.tag)) with
    | some r => ({ m with relays := m.relays.erase r }).respond r.from_ r.flit (m.mkReply r.flit Op.mgmtRsp f.len r.flit.addr 0 f.payload)
    | none => { m with mgmtRsp := some f }

/-! ## BAR2 and PERST_N (R394, R396) -/

/-- An access by BAR2 to a as station n: a refused read is poisoned zeros, a refused write is dropped; an access that holds
(R221, R224) is served later. -/
def State.winAccess (m : State) (n a len : Nat) (data : Option (List Byte)) : State :=
  let acc := b2n data.isSome
  let refuse (page : Nat) : State :=
    let m1 := m.access page 0 (some n) acc a
    if data.isSome then m1 else { m1 with busOut := ⟨List.replicate len 0, true, false⟩ }
  if !m.flag Reg.hst_WIN_EN then refuse 0x9A
  else if m.memHeld n a len then m
  else match m.check (some n) a len data.isSome with
    | .owner page => refuse page
    | .reserved page => refuse page
    | .ok => (match data with
      | some bs => (m.storeP n a bs false 1).bump Reg.hst_BAR2_WR bs.length
      | none =>
        let m1 := m.touch n a len false 1
        { m1.bump Reg.hst_BAR2_RD len with busOut := ⟨m1.seen a len, m1.psnIn a len, true⟩ })

/-- BAR2 at an offset: the window's station, and its base with the offset. -/
def State.bar2 (m : State) (off len : Nat) (data : Option (List Byte)) : State :=
  if !m.reaches .host then m
  else m.winAccess (m.fld Reg.hst_WIN_STN) (m.fld Reg.hst_WIN_BASE * 2 ^ 30 + off) len data

/-- PERST_N low: the HST page's fields return to their reset values, counters and captures stay, and pending MSI-X messages
are discarded. -/
def State.perstLow (m : State) : State :=
  let m1 := [Reg.hst_SPEED, Reg.hst_WIDTH, Reg.hst_UP, Reg.hst_WIN_BASE, Reg.hst_WIN_STN, Reg.hst_WIN_EN, Reg.hst_DBG_EN].foldl
    (fun m f => m.setFld f 0) m
  { m1 with msix := [], pins := { m1.pins with perstN := false } }

/-- PERST_N released: the link trains to a speed and a width of those R396 gives, which of them the spec leaves open. -/
def State.perstHigh (m : State) : State :=
  if m.pins.perstN then m
  else
    let w := m.drawWord
    let m1 := { w.2 with pins := { w.2.pins with perstN := true } }
    ((m1.setFld Reg.hst_SPEED (3 + w.1.toNat % 4)).setFld Reg.hst_WIDTH ([1, 4, 8, 16].getD (w.1.toNat / 4 % 4) 16)).setFlag Reg.hst_UP true

/-! ## SMBus (R397) -/

/-- A transaction is NACKed: bad PEC, a handover, or no service firmware to serve it. -/
def State.smbNack (m : State) (pec : Bool) : Bool :=
  !pec || m.hoOpen || m.flag Reg.fw_SVC_NONE || m.svcRun.isNone || !m.reaches .smbus

def State.smbSet (m : State) (off : BitVec 32) (pec : Bool) : State :=
  if m.smbNack pec then { m with smbOut := none } else { m with smbOff := off, smbOut := some [] }

/-- The register at the offset set: R8 answers an unaligned one. -/
def State.smbRead (m : State) (pec : Bool) : State :=
  let off := m.smbOff.toNat
  if m.smbNack pec then { m with smbOut := none }
  else if off % 8 ≠ 0 then
    { m.access (min 0x9A (off / 0x1_0000)) 0x02 none 0 (regAddr off) with smbOut := some (List.replicate 8 0) }
  else
    let r := m.regRead .smbus off
    { r.2 with smbOut := some (leBytes r.1 8) }

def State.smbWrite (m : State) (off : BitVec 32) (v : Word) (pec : Bool) : State :=
  if m.smbNack pec then { m with smbOut := none }
  else if off.toNat % 8 ≠ 0 then
    { m.access (min 0x9A (off.toNat / 0x1_0000)) 0x02 none 1 (regAddr off.toNat) with smbOut := some [] }
  else { m.busWrite .smbus off.toNat v.toNat with smbOut := some [] }

/-! ## JTAG (R398) -/

/-- An instruction register value with what its data register captures. -/
def State.jtag (m : State) (i : JtagIr) (d : BitVec 64) : State := if m.alive then { m with jtagIr := i, jtagDr := d } else m

/-- SAMPLE, EXTEST and INTEST capture the boundary register, whose cells the spec does not place. -/
def State.boundaryScan (m : State) (i : JtagIr) : State :=
  let w := m.drawWord
  w.2.jtag i w.1

/-- EXTEST and INTEST: refused unless compute power is off or the module is in the safe state. -/
def State.pinTest (m : State) (i : JtagIr) : State := if m.power.phase = 0 ∨ m.safe then m.boundaryScan i else m

/-- Core debug halts a core, or lets one go on that HALT does not hold; refused unless DBG_EN is set. -/
def State.debugCore (m : State) (c : Nat) (halt : Bool) : State :=
  if !m.flag Reg.hst_DBG_EN ∨ !m.alive then m
  else
    let m1 := { m with jtagIr := .debug }
    if halt ∧ m.flag (Reg.cc_RUN c) then (m1.setFlag (Reg.cc_RUN c) false).setFlag (Reg.cc_HALTED c) true
    else if !halt ∧ m.flag (Reg.cc_HALTED c) ∧ !m.flag (Reg.cc_HALT c) then
      (m1.setFlag (Reg.cc_RUN c) true).setFlag (Reg.cc_HALTED c) false
    else m1

/-- The module reset instruction; refused unless DBG_EN is set. -/
def State.jtagReset (m : State) : State := if m.flag Reg.hst_DBG_EN then m.restartModule else m

def execMgmtRd (p : Port) (f : Flit) (s : State) : Host.Outcome State Fault Refusal := .next (s.mgmtRead p f)
def execMgmtWr (p : Port) (f : Flit) (s : State) : Host.Outcome State Fault Refusal := .next (s.mgmtWrite p f)
def execMgmtRsp (p : Port) (f : Flit) (s : State) : Host.Outcome State Fault Refusal := .next (s.mgmtAnswer p f)
def execMgmtRelay (p : Port) (f : Flit) (s : State) : Host.Outcome State Fault Refusal := .next (s.mgmtRelay p f)
def execBar2Access (off len : Nat) (data : Option (List Byte)) (s : State) : Host.Outcome State Fault Refusal :=
  .next (s.bar2 off len data).landed
def execPerstN (s : State) : Host.Outcome State Fault Refusal := .next s.perstLow
def execPerstNRelease (s : State) : Host.Outcome State Fault Refusal := .next s.perstHigh
def execSmbusSetOffset (off : BitVec 32) (pec : Bool) (s : State) : Host.Outcome State Fault Refusal := .next (s.smbSet off pec)
def execSmbusRead (pec : Bool) (s : State) : Host.Outcome State Fault Refusal := .next (s.smbRead pec)
def execSmbusWrite (off : BitVec 32) (v : Word) (pec : Bool) (s : State) : Host.Outcome State Fault Refusal :=
  .next (s.smbWrite off v pec)
def execBypass (s : State) : Host.Outcome State Fault Refusal := .next (s.jtag .bypass 0)
def execIdcode (s : State) : Host.Outcome State Fault Refusal := .next (s.jtag .idcode (Config.idcode.setWidth 64))
def execSample (s : State) : Host.Outcome State Fault Refusal := .next (s.boundaryScan .sample)
def execExtest (s : State) : Host.Outcome State Fault Refusal := .next (s.pinTest .extest)
def execIntest (s : State) : Host.Outcome State Fault Refusal := .next (s.pinTest .intest)
def execCoreDebug (c : Core) (haltIt : Bool) (s : State) : Host.Outcome State Fault Refusal := .next (s.debugCore c haltIt)
def execJtagReset (s : State) : Host.Outcome State Fault Refusal := .next s.jtagReset

end Sys2Proof.Machine
end

