-- ==== Sys2Proof/Machine/Kv.lean ====
section
/-! DEFINITION. The KV extension of the control cores (R202 to R212): encodings and their checks, lanes, memory access,
and the traps. -/

namespace Sys2Proof.Machine

/-! ## Encodings (R207, R208) -/

/-- A register instruction. -/
def kvR (f7 b a w d : Nat) : Nat := 0x2B + d <<< 7 + w <<< 12 + a <<< 15 + b <<< 20 + f7 <<< 25

/-- A load. -/
def kvLd (f3 rs1 kd imm : Nat) : Nat := 0x0B + kd <<< 7 + f3 <<< 12 + rs1 <<< 15 + (imm % 4096) <<< 20

/-- A store. -/
def kvSt (f3 rs1 ks2 imm : Nat) : Nat :=
  0x0B + (imm % 32) <<< 7 + f3 <<< 12 + rs1 <<< 15 + ks2 <<< 20 + (imm / 32 % 128) <<< 25

/-- The KV encodings that the tables of R207 and R208 permit. -/
def kvLegal (bits : Nat) : Bool :=
  let f7 := bitsOf bits 31 25
  let b := bitsOf bits 24 20
  let w := bitsOf bits 14 12
  if bitsOf bits 6 0 = 0x0B then decide (w < 4)
  else if bitsOf bits 6 0 ≠ 0x2B then false
  else if f7 < 0x03 ∨ (0x06 ≤ f7 ∧ f7 ≤ 0x09) then decide (w < 4)
  else if f7 ≤ 0x05 then decide (w = 0)
  else if f7 ≤ 0x0B then decide (w < 4 ∧ b < 8 <<< w)
  else if 0x10 ≤ f7 ∧ f7 ≤ 0x13 then decide (w < 3)
  else if 0x14 ≤ f7 ∧ f7 ≤ 0x1A then decide (w < 2)
  else if f7 = 0x20 then decide ((w = 2 ∨ w = 3) ∧ b = 0)
  else if f7 = 0x30 then decide (w < 4 ∧ b = 0)
  else if f7 = 0x31 ∨ f7 = 0x32 then decide (w < 4 ∧ b < 16 >>> w)
  else false

/-! ## Lanes -/

/-- The lanes of 2^n bytes of a k register, lane 0 first. -/
def vecLanes (v : BitVec 128) (bits : Nat) : List Nat := (List.range (128 / bits)).map (fun i => (v.toNat >>> (bits * i)) % 2 ^ bits)

/-- A k register with the given lanes; each takes its low bits. -/
def ofLanes (bits : Nat) (l : List Nat) : BitVec 128 :=
  BitVec.ofNat 128 ((l.zipIdx.map (fun e => (e.1 % 2 ^ bits) <<< (bits * e.2))).sum)

/-- A signed result's low bits. -/
def wrapTo (bits : Nat) (x : Int) : Nat := (x % 2 ^ bits).toNat

/-- A signed result held within a lane, and whether it was clipped. -/
def clipTo (bits : Nat) (x : Int) : Nat × Bool :=
  let y := max (-(2 ^ (bits - 1))) (min (2 ^ (bits - 1) - 1) x)
  (wrapTo bits y, decide (y ≠ x))

/-- Lane width in bits of code W. -/
def laneBits (w : Nat) : Nat := 8 <<< w

def map2 (bits : Nat) (f : Nat → Nat → Nat) (a b : BitVec 128) : BitVec 128 :=
  ofLanes bits ((vecLanes a bits).zipWith f (vecLanes b bits))

/-- Signed lanes to a signed result, modulo 2^w. -/
def smap2 (bits : Nat) (f : Int → Int → Int) (a b : BitVec 128) : BitVec 128 :=
  map2 bits (fun x y => wrapTo bits (f (signedOf x bits) (signedOf y bits))) a b

/-- A saturating operation, and whether a lane was clipped. -/
def sat2 (bits : Nat) (f : Int → Int → Int) (a b : BitVec 128) : BitVec 128 × Bool :=
  let rs := (vecLanes a bits).zipWith (fun x y => clipTo bits (f (signedOf x bits) (signedOf y bits))) (vecLanes b bits)
  (ofLanes bits (rs.map Prod.fst), rs.any Prod.snd)

/-- A source lane as a number. -/
def laneInt (signed : Bool) (bits x : Nat) : Int := if signed then signedOf x bits else x

/-- A widening product (R209): k lanes of width bits from lane first on, in lanes of the width 128 / k. -/
def widen (bits k first : Nat) (signed : Bool) (a b : BitVec 128) : BitVec 128 :=
  let out := 128 / k
  ofLanes out ((((vecLanes a bits).zipWith (fun x y => wrapTo out (laneInt signed bits x * laneInt signed bits y)) (vecLanes b bits)).drop
    first).take k)

/-- A dot product (R210): four products to a lane of 4w, added to the destination's. -/
def dot4 (bits : Nat) (sa sb : Bool) (d a b : BitVec 128) : BitVec 128 :=
  let out := 4 * bits
  let ps := (vecLanes a bits).zipWith (fun x y => laneInt sa bits x * laneInt sb bits y) (vecLanes b bits)
  ofLanes out ((vecLanes d out).zipIdx.map (fun e => wrapTo out ((e.1 : Int) + ((ps.drop (4 * e.2)).take 4).sum)))

/-! ## Registers and traps -/

def CoreSt.xr (s : CoreSt) (i : Nat) : Word := if i = 0 then 0 else s.x.get (fun _ => 0) i
def CoreSt.kr (s : CoreSt) (i : Nat) : BitVec 128 := s.k.get (fun _ => 0) i
def CoreSt.setX (s : CoreSt) (i : Nat) (v : Word) : CoreSt := if i = 0 then s else { s with x := s.x.set (fun _ => 0) i v }

/-- Any write to a k register sets DIRTY (R205). -/
def CoreSt.setK (s : CoreSt) (i : Nat) (v : BitVec 128) : CoreSt := { s with k := s.k.set (fun _ => 0) i v, dirty := true }

/-- KV may be executed: KVEN, and in U-mode KVU too (R205). -/
def CoreSt.kvOn (s : CoreSt) : Bool := s.kven && (!s.user || s.kvu)

/-- A synchronous exception of the base ISA at core c (R202, R211): mepc, mcause and mtval are written, the interrupt enable
and the mode are stacked, and the core goes on in M-mode at mtvec. -/
def State.trap (m : State) (c cause tval : Nat) : State :=
  let s := m.core c
  let m1 := m.setCore c { s with
    mepc := s.pc
    mcause := cause
    mtval := BitVec.ofNat 64 tval
    mpie := s.mie
    mie := false
    mppUser := s.user
    user := false
    pc := s.mtvec / 4 * 4 }
  let m2 := (m1.bump (Reg.cc_TRAP_CNT c) 1).setFld (Reg.cc_LAST_CAUSE c) cause
  if cause = 24 then m2.bump (Reg.cc_POIS_CNT c) 1 else m2

/-- An instruction retires: the pc passes it, it is counted, and a WFI before it is over. -/
def State.baseRetire (m : State) (c : Nat) (s : CoreSt) : State :=
  ((m.setCore c { s with pc := (s.pc + 4) % 2 ^ 64 }).bump (Reg.cc_INSTRET c) 1).setFlag (Reg.cc_WFI c) false

/-- A KV instruction retires. -/
def State.coreRetire (m : State) (c : Nat) (s : CoreSt) : State := (m.baseRetire c s).bump (Reg.cc_KV_RET c) 1

/-- Core c executes now: it runs, and no WFI holds it until an interrupt is pending. -/
def State.coreRuns (m : State) (c : Nat) : Bool :=
  m.flag (Reg.cc_RUN c) && (!m.flag (Reg.cc_WFI c) || decide (c ∈ m.coreIrq))

/-- A KV instruction at core c, once it is enabled and its encoding is permitted; else an illegal-instruction exception. A
core that does not run executes nothing. -/
def State.kv (m : State) (c bits : Nat) (k : State → CoreSt → State) : State :=
  let s := m.core c
  if !m.coreRuns c then m
  else if !s.kvOn ∨ !kvLegal bits then m.trap c 2 bits
  else k m s

/-- A register instruction: its effect on the core's registers. -/
def State.kvReg (m : State) (c bits : Nat) (f : CoreSt → CoreSt) : State := m.kv c bits (fun m s => m.coreRetire c (f s))

/-- kd takes a function of ks1 and ks2. -/
def State.kv2 (m : State) (c f7 kd ks1 ks2 w : Nat) (f : Nat → BitVec 128 → BitVec 128 → BitVec 128) : State :=
  m.kvReg c (kvR f7 ks2 ks1 w kd) (fun s => s.setK kd (f (laneBits w) (s.kr ks1) (s.kr ks2)))

/-- A saturating instruction sets SAT where it clips. -/
def State.kvSat (m : State) (c f7 kd ks1 ks2 w : Nat) (f : Int → Int → Int) : State :=
  m.kvReg c (kvR f7 ks2 ks1 w kd) (fun s =>
    let r := sat2 (laneBits w) f (s.kr ks1) (s.kr ks2)
    { s.setK kd r.1 with sat := s.sat || r.2 })

/-- kd takes a function of its old value, ks1 and ks2. -/
def State.kvDot (m : State) (c f7 kd ks1 ks2 w : Nat) (sa sb : Bool) : State :=
  m.kvReg c (kvR f7 ks2 ks1 w kd) (fun s => s.setK kd (dot4 (laneBits w) sa sb (s.kr kd) (s.kr ks1) (s.kr ks2)))

/-! ## Memory access (R204, R211, R183) -/

/-- The byte at a lies in entry i of the physical memory protection. -/
def CoreSt.pmpHas (s : CoreSt) (i a : Nat) : Bool :=
  let cfg := (s.pmpcfg.get (fun _ => 0) i).toNat
  let r := (s.pmpaddr.get (fun _ => 0) i).toNat
  match bitsOf cfg 4 3 with
  | 1 => decide ((if i = 0 then 0 else 4 * (s.pmpaddr.get (fun _ => 0) (i - 1)).toNat) ≤ a ∧ a < 4 * r)
  | 2 => decide (a / 4 = r)
  | 3 =>
    let t := ((List.range 54).find? (fun k => !r.testBit k)).getD 54
    decide (a / 2 ^ (t + 3) = 4 * r / 2 ^ (t + 3))
  | _ => false

/-- The first entry that holds the byte decides; M-mode is bound by locked entries only, and passes with none. -/
def CoreSt.pmpByte (s : CoreSt) (a : Nat) (write : Bool) : Bool :=
  match (List.range 16).find? (fun i => s.pmpHas i a) with
  | some i =>
    let cfg := (s.pmpcfg.get (fun _ => 0) i).toNat
    (!s.user && !cfg.testBit 7) || cfg.testBit (if write then 1 else 0)
  | none => !s.user

/-- Verdict on a core's access of n bytes at a. -/
inductive CoreAcc where
  | ok
  /-- an access fault that no block records -/
  | fault
  /-- an access fault that a page records (R24, R26) -/
  | record (page : Nat)
  deriving DecidableEq, Repr

def State.coreAccess (m : State) (c a n : Nat) (write : Bool) : CoreAcc :=
  if !(List.range n).all (fun i => (m.core c).pmpByte (a + i) write) then .fault
  else if a < 0xF00_0100_0000 ∧ 0xF00_0000_0000 < a + n then .fault
  else match regionOf a, regionOf (a + n - 1) with
    | .firmware, .firmware => if 16 ≤ c then .ok else .record 0
    | _, _ => (match m.check (m.coreStn c) a n write with
      | .ok => .ok
      | .owner p => .record p
      | .reserved p => .record p)

/-- A core's access holds with those of its station (R221, R224). -/
def State.coreHeld (m : State) (c a n : Nat) : Bool :=
  match m.coreStn c with
  | some k => m.memHeld k a n
  | none => false

/-- A load of n bytes at core c: poisoned data reaches no register, is reported as consumed (R234) and traps (R211). -/
def State.kvLoad (m : State) (c bits rs1 imm n : Nat) (f : CoreSt → List Byte → CoreSt) : State :=
  m.kv c bits fun m s =>
    let a := ((s.xr rs1).toNat + (signedOf imm 12 % 2 ^ 64).toNat) % 2 ^ 64
    match m.coreAccess c a n false with
    | .fault => m.trap c 5 a
    | .record p => (m.access p (0x40 + c) (m.coreStn c) 0 a).trap c 5 a
    | .ok =>
      let m1 := match m.coreStn c with
        | some k => m.touch k a n false 0
        | none => m
      let e : Ev := { page := 0x87 + c, code := Code.corePoison, stn := m.coreStn c, master := 0x40 + c, acc := 0, addr := a }
      if m.coreHeld c a n then m
      else if m1.psnIn a n then ((m1.report e).report { e with code := Code.poisonConsumed }).trap c 24 a
      else m1.coreRetire c (f s (m1.seen a n))

/-- A station core's store: every agent sees it (R226), and until another write takes its bytes it may stand in the core's cache
alone (R203, log 81). -/
def State.coreCached (m : State) (c k a : Nat) (bs : List Byte) : State :=
  let mine := m.coreBytes.filter (fun e => decide (e.core = c ∧ a ≤ e.addr ∧ e.addr < a + bs.length))
  let new := (List.range bs.length).map (fun i => CoreByte.mk c (a + i) (m.byte (a + i)) (m.psnStored (a + i) 1))
  let m1 := m.storeP k a bs false 0
  { m1 with coreBytes := new ++ mine ++ m1.coreBytes }

/-- Bytes a core stores: a Stockpot drops and records them (R204), recipe memory takes them in its inactive bank (R89). -/
def State.coreStore (m : State) (c a : Nat) (bs : List Byte) : State :=
  match regionOf a, m.coreStn c with
  | .pot q, k => m.access (0x08 + q) (0x40 + c) k 1 a
  | .recipe _ _, k =>
    let head := min bs.length (32 - a % 32)
    let m1 := m.recipeWrite (0x40 + c) k a (bs.take head) false
    if head < bs.length then m1.recipeWrite (0x40 + c) k (a + head) (bs.drop head) false else m1
  | _, some k => m.coreCached c k a bs
  | _, none => (m.putBytes a bs).putPsn a bs.length (fun _ _ => false)

/-- A store of the low n bytes of ks2 at core c. -/
def State.kvStore (m : State) (c bits rs1 ks2 imm n : Nat) : State :=
  m.kv c bits fun m s =>
    let a := ((s.xr rs1).toNat + (signedOf imm 12 % 2 ^ 64).toNat) % 2 ^ 64
    match m.coreAccess c a n true with
    | .fault => m.trap c 7 a
    | .record p => (m.access p (0x40 + c) (m.coreStn c) 1 a).trap c 7 a
    | .ok => if m.coreHeld c a n then m else (m.coreStore c a (leBytes (s.kr ks2).toNat n)).coreRetire c s

/-! ## Words that reach a core beside KV's (R202, R204, R205) -/

/-- An encoding of the ratified RV64GC base (R202): the majors, and the fields that make one of them reserved. -/
def baseLegal (bits : Nat) : Bool :=
  let f3 := bitsOf bits 14 12
  let f7 := bitsOf bits 31 25
  let f5 := bitsOf bits 31 27
  let fmt := bitsOf bits 26 25
  if bits % 4 ≠ 3 then
    let h := bits % 65536
    let c3 := bitsOf h 15 13
    let rd := bitsOf h 11 7
    match bits % 4 with
    | 0 => decide (c3 ≠ 4) && (decide (c3 ≠ 0) || decide (bitsOf h 12 5 ≠ 0))
    | 1 => decide ((c3 ≠ 1 ∨ rd ≠ 0) ∧ (c3 ≠ 3 ∨ bitsOf h 6 2 ≠ 0 ∨ bitOf h 12) ∧
        (c3 ≠ 4 ∨ bitsOf h 12 10 ≠ 7 ∨ bitsOf h 6 5 < 2))
    | _ => decide ((c3 ≠ 2 ∨ rd ≠ 0) ∧ (c3 ≠ 3 ∨ rd ≠ 0) ∧ (c3 ≠ 4 ∨ bitOf h 12 ∨ bitsOf h 6 2 ≠ 0 ∨ rd ≠ 0))
  else match bits % 128 with
    | 0x03 => decide (f3 ≠ 7)
    | 0x07 => decide (f3 = 2 ∨ f3 = 3)
    | 0x0F => decide (f3 < 2)
    | 0x13 => decide ((f3 ≠ 1 ∨ f7 / 2 = 0) ∧ (f3 ≠ 5 ∨ f7 / 2 = 0 ∨ f7 / 2 = 16))
    | 0x17 => true
    | 0x1B => decide (f3 = 0 ∨ (f3 = 1 ∧ f7 = 0) ∨ (f3 = 5 ∧ (f7 = 0 ∨ f7 = 32)))
    | 0x23 => decide (f3 < 4)
    | 0x27 => decide (f3 = 2 ∨ f3 = 3)
    | 0x2F => decide ((f3 = 2 ∨ f3 = 3) ∧ (f5 < 4 ∨ f5 % 4 = 0) ∧ (f5 ≠ 2 ∨ bitsOf bits 24 20 = 0))
    | 0x33 => decide (f7 < 2 ∨ (f7 = 32 ∧ (f3 = 0 ∨ f3 = 5)))
    | 0x37 => true
    | 0x3B => decide ((f7 = 0 ∧ (f3 < 2 ∨ f3 = 5)) ∨ (f7 = 32 ∧ (f3 = 0 ∨ f3 = 5)) ∨ (f7 = 1 ∧ (f3 = 0 ∨ 4 ≤ f3)))
    | 0x43 => decide (fmt < 2)
    | 0x47 => decide (fmt < 2)
    | 0x4B => decide (fmt < 2)
    | 0x4F => decide (fmt < 2)
    | 0x53 => decide (fmt < 2 ∧ f5 ∈ [0, 1, 2, 3, 4, 5, 8, 11, 20, 24, 26, 28, 30])
    | 0x63 => decide (f3 ≠ 2 ∧ f3 ≠ 3)
    | 0x67 => decide (f3 = 0)
    | 0x6F => true
    | 0x73 => if f3 = 0 then decide (bits ∈ [0x73, 0x10_0073, 0x3020_0073, 0x1050_0073]) else decide (f3 ≠ 4)
    | _ => false

/-- A CSR that the spec names, as core s reads it: kvcfg, kvstat, time and cycle. -/
def State.csrRead (m : State) (s : CoreSt) (csr : Nat) : Nat × State :=
  match csr with
  | 0x7C0 => (b2n s.kven + b2n s.kvu <<< 1, m)
  | 0x8C0 => (b2n s.sat + b2n s.dirty <<< 1, m)
  | 0xC01 => (m.now, m)
  | _ => let w := m.drawWord; (w.1.toNat, w.2)

/-- Its write; bits that are not defined ignore it. -/
def CoreSt.csrWrite (s : CoreSt) (csr v : Nat) : CoreSt :=
  if csr = 0x7C0 then { s with kven := v.testBit 0, kvu := v.testBit 1 } else { s with sat := v.testBit 0, dirty := v.testBit 1 }

/-- A CSR instruction on one of them: kvcfg belongs to M-mode, and time and cycle are only read. How many cycles the core's
clock has run the model does not hold: cycle reads as a free value. -/
def State.csrOp (m : State) (c bits csr : Nat) : State :=
  let s := m.core c
  let f3 := bitsOf bits 14 12
  let rs := bitsOf bits 19 15
  let writes := decide (f3 % 4 = 1 ∨ rs ≠ 0)
  if (csr = 0x7C0 ∧ s.user) ∨ (0xC00 ≤ csr ∧ writes) then m.trap c 2 bits
  else
    let old := m.csrRead s csr
    let x := if 4 ≤ f3 then rs else (s.xr rs).toNat
    let new := if f3 % 4 = 1 then x else if f3 % 4 = 2 then old.1 ||| x else old.1 - (old.1 &&& x)
    let s1 := if writes then s.csrWrite csr new else s
    old.2.baseRetire c (s1.setX (bitsOf bits 11 7) (BitVec.ofNat 64 old.1))

/-- A word that no KV row executes reaches core c: a reserved KV encoding, or one not permitted now, traps, and so does one
that is none of RV64GC's (R205, R208, R211). Of the base's words the spec gives the CSRs it adds and names, and WFI in the
CC page; the others it does not restate, and they are no such command. -/
def State.illegal (m : State) (c bits : Nat) : State :=
  let s := m.core c
  let csr := bitsOf bits 31 20
  if !m.coreRuns c then m
  else if bits % 128 = 0x0B ∨ bits % 128 = 0x2B then (if kvLegal bits ∧ s.kvOn then m else m.trap c 2 bits)
  else if !baseLegal bits then m.trap c 2 bits
  else if bits % 128 = 0x73 ∧ bitsOf bits 14 12 ≠ 0 ∧ csr ∈ [0x7C0, 0x8C0, 0xC00, 0xC01] then m.csrOp c bits csr
  else if bits = 0x1050_0073 then (m.baseRetire c s).setFlag (Reg.cc_WFI c) true
  else m

/-! ## The instructions -/

def execKld (c : Core) (kd rs1 : Fin 32) (imm : BitVec 12) (s : State) : Host.Outcome State Fault Refusal :=
  .next (s.kvLoad c (kvLd 0 rs1 kd imm.toNat) rs1 imm.toNat 16 (fun x bs => x.setK kd (BitVec.ofNat 128 (leNat bs)))).landed
def execKst (c : Core) (ks2 rs1 : Fin 32) (imm : BitVec 12) (s : State) : Host.Outcome State Fault Refusal :=
  .next (s.kvStore c (kvSt 1 rs1 ks2 imm.toNat) rs1 ks2 imm.toNat 16).landed
def execKldh (c : Core) (kd rs1 : Fin 32) (imm : BitVec 12) (s : State) : Host.Outcome State Fault Refusal :=
  .next (s.kvLoad c (kvLd 2 rs1 kd imm.toNat) rs1 imm.toNat 8 (fun x bs => x.setK kd (BitVec.ofNat 128 (leNat bs)))).landed
def execKsth (c : Core) (ks2 rs1 : Fin 32) (imm : BitVec 12) (s : State) : Host.Outcome State Fault Refusal :=
  .next (s.kvStore c (kvSt 3 rs1 ks2 imm.toNat) rs1 ks2 imm.toNat 8).landed
def execKadd (c : Core) (kd ks1 ks2 : Fin 32) (w : KvW) (s : State) : Host.Outcome State Fault Refusal :=
  .next (s.kv2 c 0x00 kd ks1 ks2 w.toNat (fun b => map2 b (· + ·)))
def execKsub (c : Core) (kd ks1 ks2 : Fin 32) (w : KvW) (s : State) : Host.Outcome State Fault Refusal :=
  .next (s.kv2 c 0x01 kd ks1 ks2 w.toNat (fun b => smap2 b (· - ·)))
def execKmul (c : Core) (kd ks1 ks2 : Fin 32) (w : KvW) (s : State) : Host.Outcome State Fault Refusal :=
  .next (s.kv2 c 0x02 kd ks1 ks2 w.toNat (fun b => map2 b (· * ·)))
def execKand (c : Core) (kd ks1 ks2 : Fin 32) (w : KvW) (s : State) : Host.Outcome State Fault Refusal :=
  .next (s.kv2 c 0x03 kd ks1 ks2 w.toNat (fun _ a b => a &&& b))
def execKor (c : Core) (kd ks1 ks2 : Fin 32) (w : KvW) (s : State) : Host.Outcome State Fault Refusal :=
  .next (s.kv2 c 0x04 kd ks1 ks2 w.toNat (fun _ a b => a ||| b))
def execKxor (c : Core) (kd ks1 ks2 : Fin 32) (w : KvW) (s : State) : Host.Outcome State Fault Refusal :=
  .next (s.kv2 c 0x05 kd ks1 ks2 w.toNat (fun _ a b => a ^^^ b))
def execKmin (c : Core) (kd ks1 ks2 : Fin 32) (w : KvW) (s : State) : Host.Outcome State Fault Refusal :=
  .next (s.kv2 c 0x06 kd ks1 ks2 w.toNat (fun b => smap2 b min))
def execKmax (c : Core) (kd ks1 ks2 : Fin 32) (w : KvW) (s : State) : Host.Outcome State Fault Refusal :=
  .next (s.kv2 c 0x07 kd ks1 ks2 w.toNat (fun b => smap2 b max))
def execKadds (c : Core) (kd ks1 ks2 : Fin 32) (w : KvW) (s : State) : Host.Outcome State Fault Refusal :=
  .next (s.kvSat c 0x08 kd ks1 ks2 w.toNat (· + ·))
def execKsubs (c : Core) (kd ks1 ks2 : Fin 32) (w : KvW) (s : State) : Host.Outcome State Fault Refusal :=
  .next (s.kvSat c 0x09 kd ks1 ks2 w.toNat (· - ·))
def execKsra (c : Core) (kd ks1 : Fin 32) (imm : Fin 32) (w : KvW) (s : State) : Host.Outcome State Fault Refusal :=
  .next (s.kvReg c (kvR 0x0A imm ks1 w.toNat kd) (fun x =>
    let b := laneBits w.toNat
    x.setK kd (ofLanes b ((vecLanes (x.kr ks1) b).map (fun v => wrapTo b (signedOf v b / 2 ^ imm.val))))))
def execKsll (c : Core) (kd ks1 : Fin 32) (imm : Fin 32) (w : KvW) (s : State) : Host.Outcome State Fault Refusal :=
  .next (s.kvReg c (kvR 0x0B imm ks1 w.toNat kd) (fun x =>
    let b := laneBits w.toNat
    x.setK kd (ofLanes b ((vecLanes (x.kr ks1) b).map (fun v => v <<< imm.val)))))
def execKwmulLo (c : Core) (kd ks1 ks2 : Fin 32) (w : KvW) (s : State) : Host.Outcome State Fault Refusal :=
  .next (s.kv2 c 0x10 kd ks1 ks2 w.toNat (fun b => widen b (64 / b) 0 true))
def execKwmulHi (c : Core) (kd ks1 ks2 : Fin 32) (w : KvW) (s : State) : Host.Outcome State Fault Refusal :=
  .next (s.kv2 c 0x11 kd ks1 ks2 w.toNat (fun b => widen b (64 / b) (64 / b) true))
def execKwmuluLo (c : Core) (kd ks1 ks2 : Fin 32) (w : KvW) (s : State) : Host.Outcome State Fault Refusal :=
  .next (s.kv2 c 0x12 kd ks1 ks2 w.toNat (fun b => widen b (64 / b) 0 false))
def execKwmuluHi (c : Core) (kd ks1 ks2 : Fin 32) (w : KvW) (s : State) : Host.Outcome State Fault Refusal :=
  .next (s.kv2 c 0x13 kd ks1 ks2 w.toNat (fun b => widen b (64 / b) (64 / b) false))
def execKwmul4Q0 (c : Core) (kd ks1 ks2 : Fin 32) (w : KvW) (s : State) : Host.Outcome State Fault Refusal :=
  .next (s.kv2 c 0x14 kd ks1 ks2 w.toNat (fun b => widen b (32 / b) 0 true))
def execKwmul4Q1 (c : Core) (kd ks1 ks2 : Fin 32) (w : KvW) (s : State) : Host.Outcome State Fault Refusal :=
  .next (s.kv2 c 0x15 kd ks1 ks2 w.toNat (fun b => widen b (32 / b) (32 / b) true))
def execKwmul4Q2 (c : Core) (kd ks1 ks2 : Fin 32) (w : KvW) (s : State) : Host.Outcome State Fault Refusal :=
  .next (s.kv2 c 0x16 kd ks1 ks2 w.toNat (fun b => widen b (32 / b) (2 * (32 / b)) true))
def execKwmul4Q3 (c : Core) (kd ks1 ks2 : Fin 32) (w : KvW) (s : State) : Host.Outcome State Fault Refusal :=
  .next (s.kv2 c 0x17 kd ks1 ks2 w.toNat (fun b => widen b (32 / b) (3 * (32 / b)) true))
def execKdot (c : Core) (kd ks1 ks2 : Fin 32) (w : KvW) (s : State) : Host.Outcome State Fault Refusal :=
  .next (s.kvDot c 0x18 kd ks1 ks2 w.toNat true true)
def execKdotu (c : Core) (kd ks1 ks2 : Fin 32) (w : KvW) (s : State) : Host.Outcome State Fault Refusal :=
  .next (s.kvDot c 0x19 kd ks1 ks2 w.toNat false false)
def execKdotus (c : Core) (kd ks1 ks2 : Fin 32) (w : KvW) (s : State) : Host.Outcome State Fault Refusal :=
  .next (s.kvDot c 0x1A kd ks1 ks2 w.toNat false true)
def execKrsum (c : Core) (kd ks1 : Fin 32) (w : KvW) (s : State) : Host.Outcome State Fault Refusal :=
  .next (s.kvReg c (kvR 0x20 0 ks1 w.toNat kd) (fun x =>
    let b := laneBits w.toNat
    x.setK kd (ofLanes b [(vecLanes (x.kr ks1) b).sum])))
def execKsplat (c : Core) (kd rs1 : Fin 32) (w : KvW) (s : State) : Host.Outcome State Fault Refusal :=
  .next (s.kvReg c (kvR 0x30 0 rs1 w.toNat kd) (fun x =>
    let b := laneBits w.toNat
    x.setK kd (ofLanes b (List.replicate (128 / b) (x.xr rs1).toNat))))
def execKmvxk (c : Core) (kd rs1 lane : Fin 32) (w : KvW) (s : State) : Host.Outcome State Fault Refusal :=
  .next (s.kvReg c (kvR 0x31 lane rs1 w.toNat kd) (fun x =>
    let b := laneBits w.toNat
    x.setK kd (ofLanes b ((vecLanes (x.kr kd) b).set lane.val (x.xr rs1).toNat))))
def execKmvkx (c : Core) (rd ks1 lane : Fin 32) (w : KvW) (s : State) : Host.Outcome State Fault Refusal :=
  .next (s.kvReg c (kvR 0x32 lane ks1 w.toNat rd) (fun x =>
    let b := laneBits w.toNat
    x.setX rd (BitVec.ofInt 64 (signedOf ((vecLanes (x.kr ks1) b).getD lane.val 0) b))))
def execIllegalInstruction (c : Core) (bits : BitVec 32) (s : State) : Host.Outcome State Fault Refusal :=
  .next (s.illegal c bits.toNat)

end Sys2Proof.Machine
end

