-- ==== Sys2Proof/Machine/Dispatch.lean ====
section
/-! DEFINITION. The dispatch: one arm per command, each one call of its meaning. -/

namespace Sys2Proof.Machine

def exec (i : Instr) (s : State) : Host.Outcome State Fault Refusal :=
  match i with
  | .nop n q => Sys2Proof.Machine.execNop n q s
  | .ldt n q upset => Sys2Proof.Machine.execLdt n q upset s
  | .stt n q upset => Sys2Proof.Machine.execStt n q upset s
  | .ldtComplete idx glitch => Sys2Proof.Machine.execLdtComplete idx glitch s
  | .sttComplete idx => Sys2Proof.Machine.execSttComplete idx s
  | .agl n q => Sys2Proof.Machine.execAgl n q s
  | .agh n q => Sys2Proof.Machine.execAgh n q s
  | .gop n => Sys2Proof.Machine.execGop n s
  | .lpg n q => Sys2Proof.Machine.execLpg n q s
  | .spkOpen n q => Sys2Proof.Machine.execSpkOpen n q s
  | .spkCommit n q => Sys2Proof.Machine.execSpkCommit n q s
  | .spkDiscard n q => Sys2Proof.Machine.execSpkDiscard n q s
  | .spkDone idx => Sys2Proof.Machine.execSpkDone idx s
  | .commitGate idx => Sys2Proof.Machine.execCommitGate idx s
  | .commitDone idx => Sys2Proof.Machine.execCommitDone idx s
  | .tsg n q => Sys2Proof.Machine.execTsg n q s
  | .twt n q => Sys2Proof.Machine.execTwt n q s
  | .tba n => Sys2Proof.Machine.execTba n s
  | .dwk n q => Sys2Proof.Machine.execDwk n q s
  | .dtg n q => Sys2Proof.Machine.execDtg n q s
  | .dmt n q => Sys2Proof.Machine.execDmt n q s
  | .fen n q => Sys2Proof.Machine.execFen n q s
  | .setp n => Sys2Proof.Machine.execSetp n s
  | .endR n => Sys2Proof.Machine.execEndR n s
  | .unassignedOpcode n q => Sys2Proof.Machine.execUnassignedOpcode n q s
  | .gangIssue n upset => Sys2Proof.Machine.execGangIssue n upset s
  | .recipeBoundary n => Sys2Proof.Machine.execRecipeBoundary n s
  | .seqLaunch m n v => Sys2Proof.Machine.execSeqLaunch m n v s
  | .bankSwap m n q v => Sys2Proof.Machine.execBankSwap m n q v s
  | .recipeMemoryWrite m addr v => Sys2Proof.Machine.execRecipeMemoryWrite m addr v s
  | .paramWrite m n idx v => Sys2Proof.Machine.execParamWrite m n idx v s
  | .gopGrant => Sys2Proof.Machine.execGopGrant s
  | .waveInject mis upset => Sys2Proof.Machine.execWaveInject mis upset s
  | .columnResult upset laneDiff => Sys2Proof.Machine.execColumnResult upset laneDiff s
  | .tileRelease => Sys2Proof.Machine.execTileRelease s
  | .operationBoundary t => Sys2Proof.Machine.execOperationBoundary t s
  | .sieveVerdict => Sys2Proof.Machine.execSieveVerdict s
  | .rflush m n v => Sys2Proof.Machine.execRflush m n v s
  | .rflushDone n => Sys2Proof.Machine.execRflushDone n s
  | .stockpotScan m q n v => Sys2Proof.Machine.execStockpotScan m q n v s
  | .stockpotScanDone q n => Sys2Proof.Machine.execStockpotScanDone q n s
  | .wskDoorbell m w n v => Sys2Proof.Machine.execWskDoorbell m w n v s
  | .chainStart w => Sys2Proof.Machine.execChainStart w s
  | .gemv w glitch => Sys2Proof.Machine.execGemv w glitch s
  | .bsrmv w => Sys2Proof.Machine.execBsrmv w s
  | .axpby w => Sys2Proof.Machine.execAxpby w s
  | .dot w => Sys2Proof.Machine.execDot w s
  | .adamw w => Sys2Proof.Machine.execAdamw w s
  | .chainEnd w => Sys2Proof.Machine.execChainEnd w s
  | .tngDoorbell m d n v => Sys2Proof.Machine.execTngDoorbell m d n v s
  | .gather d => Sys2Proof.Machine.execGather d s
  | .scatter d => Sys2Proof.Machine.execScatter d s
  | .hashFwd d => Sys2Proof.Machine.execHashFwd d s
  | .hashBwd d => Sys2Proof.Machine.execHashBwd d s
  | .transpose d => Sys2Proof.Machine.execTranspose d s
  | .parkTmo d idx => Sys2Proof.Machine.execParkTmo d idx s
  | .tongsDone d idx => Sys2Proof.Machine.execTongsDone d idx s
  | .tableBuild m n t => Sys2Proof.Machine.execTableBuild m n t s
  | .tableDone m n t => Sys2Proof.Machine.execTableDone m n t s
  | .tableSwap m n t => Sys2Proof.Machine.execTableSwap m n t s
  | .tableAbandon m n t => Sys2Proof.Machine.execTableAbandon m n t s
  | .mtrDoorbell m d n v => Sys2Proof.Machine.execMtrDoorbell m d n v s
  | .solve d => Sys2Proof.Machine.execSolve d s
  | .adjoint d => Sys2Proof.Machine.execAdjoint d s
  | .linearPhaseEnd d => Sys2Proof.Machine.execLinearPhaseEnd d s
  | .deadlineCheck d => Sys2Proof.Machine.execDeadlineCheck d s
  | .solveEnd d => Sys2Proof.Machine.execSolveEnd d s
  | .keepFactorisation d => Sys2Proof.Machine.execKeepFactorisation d s
  | .localMemoryClear d => Sys2Proof.Machine.execLocalMemoryClear d s
  | .cntAdd p f => Sys2Proof.Machine.execCntAdd p f s
  | .valueWrite m idx v => Sys2Proof.Machine.execValueWrite m idx v s
  | .limitWrite m idx v => Sys2Proof.Machine.execLimitWrite m idx v s
  | .wregGo m n v => Sys2Proof.Machine.execWregGo m n v s
  | .notification => Sys2Proof.Machine.execNotification s
  | .twtTmo n q => Sys2Proof.Machine.execTwtTmo n q s
  | .watchTmo w => Sys2Proof.Machine.execWatchTmo w s
  | .enter m b => Sys2Proof.Machine.execEnter m b s
  | .arrive p f => Sys2Proof.Machine.execArrive p f s
  | .release p f => Sys2Proof.Machine.execRelease p f s
  | .barrierEnable m b v => Sys2Proof.Machine.execBarrierEnable m b v s
  | .barrierDisable m b v => Sys2Proof.Machine.execBarrierDisable m b v s
  | .btmo b => Sys2Proof.Machine.execBtmo b s
  | .flitTransmit p => Sys2Proof.Machine.execFlitTransmit p s
  | .credit p ack crd vc => Sys2Proof.Machine.execCredit p ack crd vc s
  | .nak p seq => Sys2Proof.Machine.execNak p seq s
  | .failedFlit p seq why => Sys2Proof.Machine.execFailedFlit p seq why s
  | .badOp p f => Sys2Proof.Machine.execBadOp p f s
  | .replayTmo p => Sys2Proof.Machine.execReplayTmo p s
  | .fecLock p => Sys2Proof.Machine.execFecLock p s
  | .helloTimer p => Sys2Proof.Machine.execHelloTimer p s
  | .hello p f => Sys2Proof.Machine.execHello p f s
  | .keyx p f ok key salt => Sys2Proof.Machine.execKeyx p f ok key salt s
  | .keyxTmo p => Sys2Proof.Machine.execKeyxTmo p s
  | .kswitch m p => Sys2Proof.Machine.execKswitch m p s
  | .wr p f => Sys2Proof.Machine.execWr p f s
  | .rd p f => Sys2Proof.Machine.execRd p f s
  | .rdRsp p f => Sys2Proof.Machine.execRdRsp p f s
  | .wrAck p f => Sys2Proof.Machine.execWrAck p f s
  | .errRsp p f => Sys2Proof.Machine.execErrRsp p f s
  | .tagw p f glitch => Sys2Proof.Machine.execTagw p f glitch s
  | .forward p f => Sys2Proof.Machine.execForward p f s
  | .fwdTmo p => Sys2Proof.Machine.execFwdTmo p s
  | .reqTmo t => Sys2Proof.Machine.execReqTmo t s
  | .mgmtRd p f => Sys2Proof.Machine.execMgmtRd p f s
  | .mgmtWr p f => Sys2Proof.Machine.execMgmtWr p f s
  | .mgmtRsp p f => Sys2Proof.Machine.execMgmtRsp p f s
  | .mgmtRelay p f => Sys2Proof.Machine.execMgmtRelay p f s
  | .ptp p f => Sys2Proof.Machine.execPtp p f s
  | .syncLoss => Sys2Proof.Machine.execSyncLoss s
  | .ppsIn stamp => Sys2Proof.Machine.execPpsIn stamp s
  | .ppsLoss => Sys2Proof.Machine.execPpsLoss s
  | .portEnable m p v => Sys2Proof.Machine.execPortEnable m p v s
  | .portDisable m p v => Sys2Proof.Machine.execPortDisable m p v s
  | .metroWrite m p v => Sys2Proof.Machine.execMetroWrite m p v s
  | .nodeidWrite m v => Sys2Proof.Machine.execNodeidWrite m v s
  | .collDoorbell m n v => Sys2Proof.Machine.execCollDoorbell m n v s
  | .allreduce n => Sys2Proof.Machine.execAllreduce n s
  | .orderedReduce n => Sys2Proof.Machine.execOrderedReduce n s
  | .reduceScatter n => Sys2Proof.Machine.execReduceScatter n s
  | .allgather n => Sys2Proof.Machine.execAllgather n s
  | .sumsq n => Sys2Proof.Machine.execSumsq n s
  | .permute n => Sys2Proof.Machine.execPermute n s
  | .collData p f => Sys2Proof.Machine.execCollData p f s
  | .collCtl p f => Sys2Proof.Machine.execCollCtl p f s
  | .collectiveDone n => Sys2Proof.Machine.execCollectiveDone n s
  | .collTmo n => Sys2Proof.Machine.execCollTmo n s
  | .digestScan m n v => Sys2Proof.Machine.execDigestScan m n v s
  | .digestScanDone n => Sys2Proof.Machine.execDigestScanDone n s
  | .hbmRead addr ecc => Sys2Proof.Machine.execHbmRead addr ecc s
  | .hbmWrite addr bytes psn ecc => Sys2Proof.Machine.execHbmWrite addr bytes psn ecc s
  | .scrubRead addr ecc => Sys2Proof.Machine.execScrubRead addr ecc s
  | .mcLocalWrite m hi v => Sys2Proof.Machine.execMcLocalWrite m hi v s
  | .groupZeroingDone => Sys2Proof.Machine.execGroupZeroingDone s
  | .crkMode m k v => Sys2Proof.Machine.execCrkMode m k v s
  | .crkFlush m k v => Sys2Proof.Machine.execCrkFlush m k v s
  | .crockFlushDone n => Sys2Proof.Machine.execCrockFlushDone n s
  | .stationEnable m n v => Sys2Proof.Machine.execStationEnable m n v s
  | .stationLock m n v => Sys2Proof.Machine.execStationLock m n v s
  | .stationRestart m n => Sys2Proof.Machine.execStationRestart m n s
  | .stationRelease m n v => Sys2Proof.Machine.execStationRelease m n v s
  | .stationResetFinish n => Sys2Proof.Machine.execStationResetFinish n s
  | .engineReset m v => Sys2Proof.Machine.execEngineReset m v s
  | .engineReady page => Sys2Proof.Machine.execEngineReady page s
  | .coreReset m c => Sys2Proof.Machine.execCoreReset m c s
  | .halt m c v => Sys2Proof.Machine.execHalt m c v s
  | .ledgerConfig m n v => Sys2Proof.Machine.execLedgerConfig m n v s
  | .mrst m v => Sys2Proof.Machine.execMrst m v s
  | .modRstN => Sys2Proof.Machine.execModRstN s
  | .perstN => Sys2Proof.Machine.execPerstN s
  | .standbyPowerGood => Sys2Proof.Machine.execStandbyPowerGood s
  | .computeOn m v => Sys2Proof.Machine.execComputeOn m v s
  | .computeGood failed => Sys2Proof.Machine.execComputeGood failed s
  | .computeOff m v => Sys2Proof.Machine.execComputeOff m v s
  | .powerSample watts mean1ms milliamps decivolts => Sys2Proof.Machine.execPowerSample watts mean1ms milliamps decivolts s
  | .thermalSample tj thbm => Sys2Proof.Machine.execThermalSample tj thbm s
  | .clockLimitRaise => Sys2Proof.Machine.execClockLimitRaise s
  | .coolOkLow => Sys2Proof.Machine.execCoolOkLow s
  | .overcurrent k => Sys2Proof.Machine.execOvercurrent k s
  | .inputExcursion decivolts => Sys2Proof.Machine.execInputExcursion decivolts s
  | .arrayReq m v => Sys2Proof.Machine.execArrayReq m v s
  | .boltEvent => Sys2Proof.Machine.execBoltEvent s
  | .alertMinTime => Sys2Proof.Machine.execAlertMinTime s
  | .pendClear m => Sys2Proof.Machine.execPendClear m s
  | .severeClear m j v => Sys2Proof.Machine.execSevereClear m j v s
  | .injArm m page v => Sys2Proof.Machine.execInjArm m page v s
  | .ecntClr m page => Sys2Proof.Machine.execEcntClr m page s
  | .ferrClear m page => Sys2Proof.Machine.execFerrClear m page s
  | .clampClear m page => Sys2Proof.Machine.execClampClear m page s
  | .snapArm m v => Sys2Proof.Machine.execSnapArm m v s
  | .snapshotLatch => Sys2Proof.Machine.execSnapshotLatch s
  | .snapTrig => Sys2Proof.Machine.execSnapTrig s
  | .sveStep m n v => Sys2Proof.Machine.execSveStep m n v s
  | .drain m n => Sys2Proof.Machine.execDrain m n s
  | .selfTestSlice page pass => Sys2Proof.Machine.execSelfTestSlice page pass s
  | .marginTest m v => Sys2Proof.Machine.execMarginTest m v s
  | .marginTestEnd => Sys2Proof.Machine.execMarginTestEnd s
  | .cfglockCore m => Sys2Proof.Machine.execCfglockCore m s
  | .cfglockNode m => Sys2Proof.Machine.execCfglockNode m s
  | .cfglockPort m => Sys2Proof.Machine.execCfglockPort m s
  | .cfglockPlat m => Sys2Proof.Machine.execCfglockPlat m s
  | .registerWrite m off v => Sys2Proof.Machine.execRegisterWrite m off v s
  | .narrowAccess m off size isWrite => Sys2Proof.Machine.execNarrowAccess m off size isWrite s
  | .reservedPageAccess m off isWrite => Sys2Proof.Machine.execReservedPageAccess m off isWrite s
  | .bar2Access off len data => Sys2Proof.Machine.execBar2Access off len data s
  | .quote m mb sig => Sys2Proof.Machine.execQuote m mb sig s
  | .extend m => Sys2Proof.Machine.execExtend m s
  | .stageLoad m ok => Sys2Proof.Machine.execStageLoad m ok s
  | .handover m => Sys2Proof.Machine.execHandover m s
  | .hoReady => Sys2Proof.Machine.execHoReady s
  | .svcReady => Sys2Proof.Machine.execSvcReady s
  | .hoTmo => Sys2Proof.Machine.execHoTmo s
  | .trapLimit => Sys2Proof.Machine.execTrapLimit s
  | .activateT m => Sys2Proof.Machine.execActivateT m s
  | .setSucc m => Sys2Proof.Machine.execSetSucc m s
  | .startChain m => Sys2Proof.Machine.execStartChain m s
  | .svnCommit m => Sys2Proof.Machine.execSvnCommit m s
  | .fwManifest p f sigOk => Sys2Proof.Machine.execFwManifest p f sigOk s
  | .fwChunk p f => Sys2Proof.Machine.execFwChunk p f s
  | .fwNak p f => Sys2Proof.Machine.execFwNak p f s
  | .fwDone p f => Sys2Proof.Machine.execFwDone p f s
  | .chunkMissing => Sys2Proof.Machine.execChunkMissing s
  | .flashVerify progOk => Sys2Proof.Machine.execFlashVerify progOk s
  | .updTmo => Sys2Proof.Machine.execUpdTmo s
  | .smbusSetOffset off pec => Sys2Proof.Machine.execSmbusSetOffset off pec s
  | .smbusRead pec => Sys2Proof.Machine.execSmbusRead pec s
  | .smbusWrite off v pec => Sys2Proof.Machine.execSmbusWrite off v pec s
  | .bypass => Sys2Proof.Machine.execBypass s
  | .idcode => Sys2Proof.Machine.execIdcode s
  | .sample => Sys2Proof.Machine.execSample s
  | .extest => Sys2Proof.Machine.execExtest s
  | .intest => Sys2Proof.Machine.execIntest s
  | .coreDebug c haltIt => Sys2Proof.Machine.execCoreDebug c haltIt s
  | .jtagReset => Sys2Proof.Machine.execJtagReset s
  | .kld c kd rs1 imm => Sys2Proof.Machine.execKld c kd rs1 imm s
  | .kst c ks2 rs1 imm => Sys2Proof.Machine.execKst c ks2 rs1 imm s
  | .kldh c kd rs1 imm => Sys2Proof.Machine.execKldh c kd rs1 imm s
  | .ksth c ks2 rs1 imm => Sys2Proof.Machine.execKsth c ks2 rs1 imm s
  | .kadd c kd ks1 ks2 w => Sys2Proof.Machine.execKadd c kd ks1 ks2 w s
  | .ksub c kd ks1 ks2 w => Sys2Proof.Machine.execKsub c kd ks1 ks2 w s
  | .kmul c kd ks1 ks2 w => Sys2Proof.Machine.execKmul c kd ks1 ks2 w s
  | .kand c kd ks1 ks2 w => Sys2Proof.Machine.execKand c kd ks1 ks2 w s
  | .kor c kd ks1 ks2 w => Sys2Proof.Machine.execKor c kd ks1 ks2 w s
  | .kxor c kd ks1 ks2 w => Sys2Proof.Machine.execKxor c kd ks1 ks2 w s
  | .kmin c kd ks1 ks2 w => Sys2Proof.Machine.execKmin c kd ks1 ks2 w s
  | .kmax c kd ks1 ks2 w => Sys2Proof.Machine.execKmax c kd ks1 ks2 w s
  | .kadds c kd ks1 ks2 w => Sys2Proof.Machine.execKadds c kd ks1 ks2 w s
  | .ksubs c kd ks1 ks2 w => Sys2Proof.Machine.execKsubs c kd ks1 ks2 w s
  | .ksra c kd ks1 imm w => Sys2Proof.Machine.execKsra c kd ks1 imm w s
  | .ksll c kd ks1 imm w => Sys2Proof.Machine.execKsll c kd ks1 imm w s
  | .kwmulLo c kd ks1 ks2 w => Sys2Proof.Machine.execKwmulLo c kd ks1 ks2 w s
  | .kwmulHi c kd ks1 ks2 w => Sys2Proof.Machine.execKwmulHi c kd ks1 ks2 w s
  | .kwmuluLo c kd ks1 ks2 w => Sys2Proof.Machine.execKwmuluLo c kd ks1 ks2 w s
  | .kwmuluHi c kd ks1 ks2 w => Sys2Proof.Machine.execKwmuluHi c kd ks1 ks2 w s
  | .kwmul4Q0 c kd ks1 ks2 w => Sys2Proof.Machine.execKwmul4Q0 c kd ks1 ks2 w s
  | .kwmul4Q1 c kd ks1 ks2 w => Sys2Proof.Machine.execKwmul4Q1 c kd ks1 ks2 w s
  | .kwmul4Q2 c kd ks1 ks2 w => Sys2Proof.Machine.execKwmul4Q2 c kd ks1 ks2 w s
  | .kwmul4Q3 c kd ks1 ks2 w => Sys2Proof.Machine.execKwmul4Q3 c kd ks1 ks2 w s
  | .kdot c kd ks1 ks2 w => Sys2Proof.Machine.execKdot c kd ks1 ks2 w s
  | .kdotu c kd ks1 ks2 w => Sys2Proof.Machine.execKdotu c kd ks1 ks2 w s
  | .kdotus c kd ks1 ks2 w => Sys2Proof.Machine.execKdotus c kd ks1 ks2 w s
  | .krsum c kd ks1 w => Sys2Proof.Machine.execKrsum c kd ks1 w s
  | .ksplat c kd rs1 w => Sys2Proof.Machine.execKsplat c kd rs1 w s
  | .kmvxk c kd rs1 lane w => Sys2Proof.Machine.execKmvxk c kd rs1 lane w s
  | .kmvkx c rd ks1 lane w => Sys2Proof.Machine.execKmvkx c rd ks1 lane w s
  | .illegalInstruction c bits => Sys2Proof.Machine.execIllegalInstruction c bits s
  | .syncInterval => Sys2Proof.Machine.execSyncInterval s
  | .alertReleaseMinTime => Sys2Proof.Machine.execAlertReleaseMinTime s
  | .standbyConverterStop => Sys2Proof.Machine.execStandbyConverterStop s
  | .coolOkFalls => Sys2Proof.Machine.execCoolOkFalls s
  | .modRstNRelease => Sys2Proof.Machine.execModRstNRelease s
  | .perstNRelease => Sys2Proof.Machine.execPerstNRelease s

end Sys2Proof.Machine
end

