-- ==== Sys2Proof/Machine/Tick.lean ====
section
/-! DEFINITION. What passes while no command waits: 20 ns of time, 25 cycles of the Whisks' clock and 24 of the Mortars'
(R16), with the slewing of global time (R273) and the buckets of the memory controllers (R221). -/

namespace Sys2Proof.Machine

/-- Global time's advance over 20 ns, in units of 1/128,000 ns, and the correction still to be applied: 50 ppm of slew, or
1/1,024 of the rate until a backward correction is absorbed. -/
def State.timeRate (m : State) : Nat × Int × Bool :=
  if m.slow then
    if m.slew + 2557500 < 0 then (2500, m.slew + 2557500, true) else ((2560000 + m.slew).toNat, 0, false)
  else
    let d := max (-128) (min 128 m.slew)
    ((2560000 + d).toNat, m.slew - d, false)

/-- Global time after 20 ns. -/
def State.timeTick (m : State) : State :=
  let r := m.timeRate
  let t := m.frac + r.1
  { m.setFld Reg.time_NOW (m.now + t / 128000) with frac := t % 128000, slew := r.2.1, slow := r.2.2 }

/-- Station n's bucket at stack s after 25 cycles, in which the stack has moved what reserve and scrub traffic took since the
last idle step (R221). -/
def State.bucketTick (m : State) (s n : Nat) : State :=
  if !m.stnOn n then m
  else
    let total := max 256 (((List.range 8).filter m.stnOn).map (fun k => m.fld (Reg.sys_BW_SHARE k))).sum
    let eff := m.fld (Reg.sys_BW_SHARE n) * 256 / total
    let avail := 25 * 2048 - m.rsvBytes.get (fun _ => 0) s
    let b := m.buckets.get (fun _ => 0) (8 * s + n)
    { m with buckets := m.buckets.set (fun _ => 0) (8 * s + n) (min (b + avail * eff / 256) (1024 * m.fld (Reg.mc_BURST_KIB s n))) }

/-- A step with no command waiting. -/
def State.tick (m : State) : State :=
  if !m.alive then m
  else
    let m1 := (List.range 20).foldl (fun m s => if m.flag (Reg.wsk_BUSY s) then m.bump (Reg.wsk_BUSY_WCYC s) 25 else m) m.timeTick
    let m2 := (List.range 4).foldl (fun m d => if m.flag (Reg.mtr_BUSY d) then m.bump (Reg.mtr_BUSY_MCYC d) 24 else m) m1
    let m3 := (List.range 20).foldl (fun m s => (List.range 8).foldl (fun m n => m.bucketTick s n) m) m2
    { m3 with rsvBytes := [] }

end Sys2Proof.Machine
end

