-- ==== Sys2Proof/Safety.lean ====
section
/-! DEFINITION. What counts as safe: the canonical form of the tables that stand for memory and registers, and the
promises of the spec that no command may break. -/

namespace Sys2Proof.Machine

/-- Every byte of the address map, its poison, HBM's own bytes under dirty cache lines, the flash, the saved handover
area, the Tray tags and the register pages are held in their canonical form: keys strictly rising, and no entry equal to
what an unlisted key reads as. Equal memories are then equal data. -/
def State.Canonical (s : State) : Prop :=
  s.mem.wf memZero = true ∧ s.poison.wf memZero = true ∧ s.stale.wf memZero = true ∧ s.stalePsn.wf memZero = true ∧
  s.flash.wf memZero = true ∧ s.hoSave.wf memZero = true ∧ s.trayTags.wf (fun _ => 0#64) = true ∧
  s.regs.wf resetWord = true

/-- The minimum security versions of both images are at least a and b, and the key revocation word is k (R360: a commit
of the minimum versions cannot be undone). -/
def State.VersionsAtLeast (s : State) (a b k : Nat) : Prop :=
  a ≤ s.fuses.tsvnMin ∧ b ≤ s.fuses.ssvnMin ∧ s.fuses.krev = k

end Sys2Proof.Machine
end

