-- ==== Sys2Proof/Certificates/Slice0/Obligations.lean ====
section
/-! DEFINITION. The statements about the module: what each command does and leaves alone, in the terms of the spec's
rules. -/

namespace Sys2Proof.Spec

open Sys2Proof.Machine

/-! ## Words the statements are written in -/

/-- Every register but those at the listed BAR0 offsets holds in t what it holds in s. -/
def RegsBut (s t : State) (offs : List Nat) : Prop := ∀ off, off ∉ offs → t.reg off = s.reg off

/-- Every register bit outside the listed fields is in t what it is in s. -/
def BitsBut (s t : State) (fs : List Fld) : Prop :=
  ∀ off k, (∀ f ∈ fs, f.off = off → k < f.lo ∨ f.hi < k) → (t.reg off).testBit k = (s.reg off).testBit k

/-- The byte at a is stored poisoned. -/
def poisoned (s : State) (a : Nat) : Bool := s.psnStored a 1

/-- Every byte of the address map reads in t what it reads in s, with the same poison. -/
def SameMemory (s t : State) : Prop := ∀ a, t.byte a = s.byte a ∧ poisoned t a = poisoned s a

/-- No injection waits on any page (R332). -/
def Calm (s : State) : Prop := ∀ page, s.flag (Reg.hdr_ARMED page) = false

/-- A counter that saturates has counted one more. -/
def Counted (s t : State) (f : Fld) : Prop := t.fld f = min (s.fld f + 1) (2 ^ (f.hi + 1 - f.lo) - 1)

/-- Registers of the Crock and of the memory controllers, which every access drives, may differ; other pages do not but at
the listed offsets. -/
def OnlyMemoryPages (s t : State) (offs : List Nat) : Prop :=
  ∀ off, off / 0x1_0000 < 0x2C ∨ 0x43 < off / 0x1_0000 → off ∉ offs → t.reg off = s.reg off

/-- Lane i, of w bits, of a k register (R208). -/
def lane (v : BitVec 128) (w i : Nat) : BitVec w := v.extractLsb' (w * i) w

/-- An exact result held within a signed lane of w bits. -/
def clipped (w : Nat) (x : Int) : Int := max (-(2 ^ (w - 1))) (min (2 ^ (w - 1) - 1) x)

/-- Core c executes instructions: it runs, and no WFI holds it (R214). -/
def CoreRuns (s : State) (c : Core) : Prop :=
  s.flag (Reg.cc_RUN c) = true ∧ (s.flag (Reg.cc_WFI c) = true → c.val ∈ s.coreIrq)

/-- Core c may run a KV instruction: it executes, and kvcfg permits KV in its mode (R205, R214). -/
def KvReady (s : State) (c : Core) : Prop := CoreRuns s c ∧ (s.core c).kvOn = true

/-- A KV register instruction at core c has retired: the pc is past it, one instruction and one KV instruction are counted,
WFI is over, and nothing has changed outside the core's own k and x registers and kvstat. -/
def KvRetired (s t : State) (c : Core) : Prop :=
  t = { s with regs := t.regs, cores := t.cores } ∧
  BitsBut s t [Reg.cc_INSTRET c, Reg.cc_KV_RET c, Reg.cc_WFI c] ∧
  t.flag (Reg.cc_WFI c) = false ∧
  t.fld (Reg.cc_INSTRET c) = (s.fld (Reg.cc_INSTRET c) + 1) % 2 ^ 64 ∧
  t.fld (Reg.cc_KV_RET c) = (s.fld (Reg.cc_KV_RET c) + 1) % 2 ^ 64 ∧
  (∀ d, d ≠ c.val → t.core d = s.core d) ∧
  t.core c = { s.core c with
    pc := ((s.core c).pc + 4) % 2 ^ 64, k := (t.core c).k, x := (t.core c).x, sat := (t.core c).sat,
    dirty := (t.core c).dirty }

/-- Its destination is register kd of the k registers: kd holds v, DIRTY is set, and every other k register, every x
register and SAT are as they were. -/
def KvWrites (s t : State) (c : Core) (kd : Fin 32) (v : BitVec 128) : Prop :=
  KvRetired s t c ∧ (t.core c).kr kd = v ∧ (t.core c).dirty = true ∧ (t.core c).sat = (s.core c).sat ∧
  (t.core c).x = (s.core c).x ∧ ∀ j, j ≠ kd.val → (t.core c).kr j = (s.core c).kr j

end Sys2Proof.Spec

open Sys2Proof Sys2Proof.Machine Sys2Proof.Spec

/-! ## The queue, and promises of every step -/

/-- A step takes the command at the front of the queue and is that command's meaning on the state with the queue's rest
(the model's choice of log entry 1: the spec gives the block no queue of its own).
Points the spec leaves open follow log entry 1. -/
def Obligations.StepRunsFrontCommand : Prop :=
  ∀ (s : State) (c : Instr) (rest : List Instr),
    step { s with pending := c :: rest } = exec c { s with pending := rest }

/-- The tables that stand for memory, poison, tags, the flash and the registers are in their canonical form at reset, no
command waits, and nothing is in flight.
Points the spec leaves open follow log entries 4, 5. -/
def Obligations.ResetIsCanonical : Prop :=
  State.reset.Canonical ∧ State.reset.pending = [] ∧ State.reset.gops = [] ∧ State.reset.xfers = [] ∧
  State.reset.events = [] ∧ ∀ off, State.reset.reg off = (resetWord off).toNat

/-- Every step, of whatever command or of none, keeps the canonical form of every table. -/
def Obligations.StepKeepsCanonicalTables : Prop :=
  ∀ s t : State, s.Canonical → step s = .next t → t.Canonical

/-- Every step ends in a next state, and takes exactly one command off the queue: no command adds one, removes another,
or stops the module with a fault or a refusal.
Points the spec leaves open follow log entries 1, 9. -/
def Obligations.EveryCommandEndsInANextState : Prop :=
  ∀ (c : Instr) (s : State), ∃ t, exec c s = .next t ∧ t.pending = s.pending

/-- No step lowers the minimum security version of either image or changes the key revocation word: what SVN_COMMIT has
raised stays raised (R360). -/
def Obligations.VersionFusesNeverFall : Prop :=
  ∀ (s t : State) (a b k : Nat), s.VersionsAtLeast a b k → step s = .next t → t.VersionsAtLeast a b k

/-! ## KV instructions of the control cores (R205 to R211) -/

/-- KADD, KSUB, KMUL: every lane takes the sum, difference or product modulo 2^w. KMIN, KMAX: the signed minimum or maximum
(R208). They set DIRTY and leave SAT, the x registers and all other state alone (R205, R211).
KAND, KOR, KXOR work on all 128 bits and permit width code 0 alone (R208). -/
def Obligations.KvLaneArithmeticAndLogic : Prop :=
  (∀ (s : State) (c : Core) (kd ks1 ks2 : Fin 32) (w : KvW), KvReady s c → w.toNat < 4 →
    ∀ (op : Fin 5), ∃ (t : State) (r : BitVec 128),
      exec (match op with
        | 0 => .kadd c kd ks1 ks2 w
        | 1 => .ksub c kd ks1 ks2 w
        | 2 => .kmul c kd ks1 ks2 w
        | 3 => .kmin c kd ks1 ks2 w
        | 4 => .kmax c kd ks1 ks2 w) s = .next t ∧ KvWrites s t c kd r ∧
      ∀ i, i < 128 / (8 * 2 ^ w.toNat) →
        let x := lane ((s.core c).kr ks1) (8 * 2 ^ w.toNat) i
        let y := lane ((s.core c).kr ks2) (8 * 2 ^ w.toNat) i
        lane r (8 * 2 ^ w.toNat) i = (match op with
          | 0 => x + y
          | 1 => x - y
          | 2 => x * y
          | 3 => if x.slt y then x else y
          | 4 => if x.slt y then y else x)) ∧
  (∀ (s : State) (c : Core) (kd ks1 ks2 : Fin 32), KvReady s c →
    (∃ t, exec (.kand c kd ks1 ks2 0) s = .next t ∧ KvWrites s t c kd ((s.core c).kr ks1 &&& (s.core c).kr ks2)) ∧
    (∃ t, exec (.kor c kd ks1 ks2 0) s = .next t ∧ KvWrites s t c kd ((s.core c).kr ks1 ||| (s.core c).kr ks2)) ∧
    (∃ t, exec (.kxor c kd ks1 ks2 0) s = .next t ∧ KvWrites s t c kd ((s.core c).kr ks1 ^^^ (s.core c).kr ks2)))

/-- KADDS and KSUBS hold each signed sum or difference within its lane, and set SAT exactly when a lane was clipped or SAT
was set before (R205, R208).
KSRA shifts each signed lane right and KSLL shifts each lane left, by an amount below the lane width (R208).
KSPLAT, KMVXK, KMVKX and KRSUM (R208): every lane, or one lane, takes the low bits of x[rs1]; x[rd] takes a lane
sign-extended, and x0 takes nothing; lane 0 takes the sum of all lanes modulo 2^w and the other lanes read 0. -/
def Obligations.KvSaturatingShiftsAndMoves : Prop :=
  (∀ (s : State) (c : Core) (kd ks1 ks2 : Fin 32) (w : KvW) (sub : Bool), KvReady s c → w.toNat < 4 →
    ∃ t, exec (if sub then .ksubs c kd ks1 ks2 w else .kadds c kd ks1 ks2 w) s = .next t ∧ KvRetired s t c ∧
      (t.core c).dirty = true ∧ (t.core c).x = (s.core c).x ∧ (∀ j, j ≠ kd.val → (t.core c).kr j = (s.core c).kr j) ∧
      (let b := 8 * 2 ^ w.toNat
       let exact (i : Nat) : Int :=
        let x := (lane ((s.core c).kr ks1) b i).toInt
        let y := (lane ((s.core c).kr ks2) b i).toInt
        if sub then x - y else x + y
       (∀ i, i < 128 / b → (lane ((t.core c).kr kd) b i).toInt = clipped b (exact i)) ∧
       ((t.core c).sat = true ↔ (s.core c).sat = true ∨ ∃ i, i < 128 / b ∧ clipped b (exact i) ≠ exact i))) ∧
  (∀ (s : State) (c : Core) (kd ks1 imm : Fin 32) (w : KvW), KvReady s c → w.toNat < 4 → imm.val < 8 * 2 ^ w.toNat →
    (∃ (t : State) (r : BitVec 128), exec (.ksra c kd ks1 imm w) s = .next t ∧ KvWrites s t c kd r ∧
      ∀ i, i < 128 / (8 * 2 ^ w.toNat) →
        lane r (8 * 2 ^ w.toNat) i = (lane ((s.core c).kr ks1) (8 * 2 ^ w.toNat) i).sshiftRight imm.val) ∧
    (∃ (t : State) (r : BitVec 128), exec (.ksll c kd ks1 imm w) s = .next t ∧ KvWrites s t c kd r ∧
      ∀ i, i < 128 / (8 * 2 ^ w.toNat) →
        lane r (8 * 2 ^ w.toNat) i = lane ((s.core c).kr ks1) (8 * 2 ^ w.toNat) i <<< imm.val)) ∧
  (∀ (s : State) (c : Core) (kd ks1 rs1 rd ln : Fin 32) (w : KvW), KvReady s c → w.toNat < 4 →
    let b := 8 * 2 ^ w.toNat
    (∃ (t : State) (r : BitVec 128), exec (.ksplat c kd rs1 w) s = .next t ∧ KvWrites s t c kd r ∧
      ∀ i, i < 128 / b → lane r b i = ((s.core c).xr rs1).setWidth b) ∧
    (ln.val < 128 / b → ∃ (t : State) (r : BitVec 128), exec (.kmvxk c kd rs1 ln w) s = .next t ∧ KvWrites s t c kd r ∧
      ∀ i, i < 128 / b →
        lane r b i = if i = ln.val then ((s.core c).xr rs1).setWidth b else lane ((s.core c).kr kd) b i) ∧
    (ln.val < 128 / b → ∃ t, exec (.kmvkx c rd ks1 ln w) s = .next t ∧ KvRetired s t c ∧
      (∀ j, (t.core c).kr j = (s.core c).kr j) ∧ (t.core c).dirty = (s.core c).dirty ∧ (t.core c).sat = (s.core c).sat ∧
      ∀ j, (t.core c).xr j = if j = rd.val ∧ j ≠ 0 then (lane ((s.core c).kr ks1) b ln.val).signExtend 64
        else (s.core c).xr j) ∧
    (2 ≤ w.toNat → ∃ (t : State) (r : BitVec 128), exec (.krsum c kd ks1 w) s = .next t ∧ KvWrites s t c kd r ∧
      ∀ i, i < 128 / b → lane r b i = if i = 0
        then ((List.range (128 / b)).map (fun j => lane ((s.core c).kr ks1) b j)).sum else 0))

/-- The widening products are exact (R209): result lane i of twice or four times the width holds the product of lane i of
the chosen half or quarter, signed or unsigned.
KDOT, KDOTU, KDOTUS (R210): each lane of four times the width adds the four exact products of its source lanes, modulo
2^(4w); a dot product never sets SAT. -/
def Obligations.KvProductsAreExact : Prop :=
  (∀ (s : State) (c : Core) (kd ks1 ks2 : Fin 32) (w : KvW), KvReady s c →
    let b := 8 * 2 ^ w.toNat
    let x (i : Nat) : BitVec b := lane ((s.core c).kr ks1) b i
    let y (i : Nat) : BitVec b := lane ((s.core c).kr ks2) b i
    (w.toNat < 3 → ∀ hi : Bool,
      (∃ (t : State) (r : BitVec 128),
        exec (if hi then .kwmulHi c kd ks1 ks2 w else .kwmulLo c kd ks1 ks2 w) s = .next t ∧ KvWrites s t c kd r ∧
        ∀ i, i < 64 / b → (lane r (2 * b) i).toInt =
          (x (if hi then 64 / b + i else i)).toInt * (y (if hi then 64 / b + i else i)).toInt) ∧
      (∃ (t : State) (r : BitVec 128),
        exec (if hi then .kwmuluHi c kd ks1 ks2 w else .kwmuluLo c kd ks1 ks2 w) s = .next t ∧ KvWrites s t c kd r ∧
        ∀ i, i < 64 / b → (lane r (2 * b) i).toNat =
          (x (if hi then 64 / b + i else i)).toNat * (y (if hi then 64 / b + i else i)).toNat)) ∧
    (w.toNat < 2 → ∀ j : Fin 4, ∃ (t : State) (r : BitVec 128),
      exec (match j with
        | 0 => .kwmul4Q0 c kd ks1 ks2 w
        | 1 => .kwmul4Q1 c kd ks1 ks2 w
        | 2 => .kwmul4Q2 c kd ks1 ks2 w
        | 3 => .kwmul4Q3 c kd ks1 ks2 w) s = .next t ∧ KvWrites s t c kd r ∧
      ∀ i, i < 32 / b → (lane r (4 * b) i).toInt = (x (j.val * (32 / b) + i)).toInt * (y (j.val * (32 / b) + i)).toInt)) ∧
  (∀ (s : State) (c : Core) (kd ks1 ks2 : Fin 32) (w : KvW), KvReady s c → w.toNat < 2 →
    ∀ (op : Fin 3), ∃ (t : State) (r : BitVec 128),
      exec (match op with
        | 0 => .kdot c kd ks1 ks2 w
        | 1 => .kdotu c kd ks1 ks2 w
        | 2 => .kdotus c kd ks1 ks2 w) s = .next t ∧ KvWrites s t c kd r ∧
      (let b := 8 * 2 ^ w.toNat
       let x (i : Nat) : Int := if op = 0 then (lane ((s.core c).kr ks1) b i).toInt else (lane ((s.core c).kr ks1) b i).toNat
       let y (i : Nat) : Int := if op = 1 then (lane ((s.core c).kr ks2) b i).toNat else (lane ((s.core c).kr ks2) b i).toInt
       ∀ i, i < 32 / b → lane r (4 * b) i = lane ((s.core c).kr kd) (4 * b) i +
        BitVec.ofInt (4 * b) (x (4 * i) * y (4 * i) + x (4 * i + 1) * y (4 * i + 1) + x (4 * i + 2) * y (4 * i + 2) +
          x (4 * i + 3) * y (4 * i + 3))))

/-- An access of core c has changed, beside memory, its own registers and the cache, no state but counters of the Crock and
of the memory controllers, which every access drives, and the core's page at the listed offsets. -/
def Sys2Proof.Spec.CoreAccessed (s t : State) (offs : List Nat) : Prop :=
  t = { s with
    regs := t.regs, cores := t.cores, mem := t.mem, poison := t.poison, trayTags := t.trayTags, coreBytes := t.coreBytes, stale := t.stale
    stalePsn := t.stalePsn, cache := t.cache, buckets := t.buckets, flight := t.flight } ∧
  OnlyMemoryPages s t offs

/-- A core that loads or stores has retired its instruction: one instruction and one KV instruction are counted, and no WFI
holds the core. -/
def Sys2Proof.Spec.KvAccessed (s t : State) (c : Core) : Prop :=
  CoreAccessed s t [(Reg.cc_INSTRET c).off, (Reg.cc_KV_RET c).off, (Reg.cc_WFI c).off] ∧
  t.fld (Reg.cc_INSTRET c) = (s.fld (Reg.cc_INSTRET c) + 1) % 2 ^ 64 ∧
  t.fld (Reg.cc_KV_RET c) = (s.fld (Reg.cc_KV_RET c) + 1) % 2 ^ 64 ∧
  t.flag (Reg.cc_RUN c) = s.flag (Reg.cc_RUN c) ∧ t.flag (Reg.cc_WFI c) = false

/-- The address of a KV access: x[rs1] plus the signed 12-bit offset (R207). -/
def Sys2Proof.Spec.kvAddr (s : State) (c : Core) (rs1 : Fin 32) (imm : BitVec 12) : Nat :=
  ((s.core c).xr rs1 + imm.signExtend 64).toNat

/-- KLD and KLDH (R207): where every byte passes its checks, none carries poison, nothing holds the access and no injection
waits, kd takes 16 bytes, or 8 bytes with the upper half zero, little-endian; memory and poison are as before. The
working set of a Mortar, which the spec does not place byte by byte, delivers free values (log entry 43).
KST and KSTH (R207): where every byte passes its checks, the low 16 or 8 bytes of ks2 are stored, little-endian; no
other byte changes but tags of HBM blocks. A Stockpot takes nothing from a core (R204), and recipe memory nothing into the
station's active bank (R89). No k register and no x register changes.
An access that holds (R221, R224) changes nothing until what holds it is gone.
Points the spec leaves open follow log entries 43, 81, 82, 101. -/
def Obligations.KvMemoryAccesses : Prop :=
  (∀ (s : State) (c : Core) (kd rs1 : Fin 32) (imm : BitVec 12) (half : Bool), KvReady s c →
    let a := kvAddr s c rs1 imm
    let n := if half then 8 else 16
    s.coreAccess c a n false = .ok → s.psnIn a n = false → s.coreHeld c a n = false → Calm s →
    ∃ (t : State) (r : BitVec 128),
      exec (if half then .kldh c kd rs1 imm else .kld c kd rs1 imm) s = .next t ∧ KvAccessed s t c ∧ SameMemory s t ∧
      (∀ d, d ≠ c.val → t.core d = s.core d) ∧
      t.core c = { s.core c with pc := ((s.core c).pc + 4) % 2 ^ 64, k := (t.core c).k, dirty := true } ∧
      (t.core c).kr kd = r ∧ (∀ j, j ≠ kd.val → (t.core c).kr j = (s.core c).kr j) ∧
      (∀ i, n ≤ i → i < 16 → lane r 8 i = 0) ∧
      ((∀ d, regionOf a ≠ .mortar d) → ∀ i, i < n → lane r 8 i = s.byte (a + i))) ∧
  (∀ (s : State) (c : Core) (ks2 rs1 : Fin 32) (imm : BitVec 12) (half : Bool), KvReady s c →
    let a := kvAddr s c rs1 imm
    let n := if half then 8 else 16
    s.coreAccess c a n true = .ok → s.coreHeld c a n = false → Calm s →
    ∃ t, exec (if half then .ksth c ks2 rs1 imm else .kst c ks2 rs1 imm) s = .next t ∧
      (∀ d, d ≠ c.val → t.core d = s.core d) ∧
      t.core c = { s.core c with pc := ((s.core c).pc + 4) % 2 ^ 64 } ∧
      (∀ x, x < a ∨ a + n ≤ x → inTagArea x = false → t.byte x = s.byte x) ∧
      ((∀ q, regionOf a ≠ .pot q) → (∀ q b, regionOf a ≠ .recipe q b) →
        KvAccessed s t c ∧ ∀ i, i < n → t.byte (a + i) = lane ((s.core c).kr ks2) 8 i) ∧
      (∀ q, regionOf a = .pot q → SameMemory s t ∧
        t.fld (Reg.hdr_EVENTS (8 + q)) = min (s.fld (Reg.hdr_EVENTS (8 + q)) + 1) (2 ^ 32 - 1)) ∧
      (∀ q b k, regionOf a = .recipe q b → regionOf (a + n - 1) = .recipe q b → s.coreStn c = some k →
        s.fld (Reg.seq_ACTIVE q k) = b → SameMemory s t)) ∧
  (∀ (s : State) (c : Core) (k rs1 : Fin 32) (imm : BitVec 12) (half write : Bool), KvReady s c →
    let a := kvAddr s c rs1 imm
    let n := if half then 8 else 16
    s.coreAccess c a n write = .ok → s.coreHeld c a n = true →
    exec (match write, half with
      | false, false => .kld c k rs1 imm
      | false, true => .kldh c k rs1 imm
      | true, false => .kst c k rs1 imm
      | true, true => .ksth c k rs1 imm) s = .next { s with flight := [] })

/-- Core c has taken a trap (R202, R211): mepc, mcause and mtval are written, the interrupt enable and the mode are stacked,
the core goes on in M-mode at mtvec, and the trap is counted with its cause; no k or x register and no kvstat bit
changes. -/
def Sys2Proof.Spec.TrapTaken (s t : State) (c : Core) (cause tval : Nat) : Prop :=
  Counted s t (Reg.cc_TRAP_CNT c) ∧ t.fld (Reg.cc_LAST_CAUSE c) = cause ∧
  (∀ d, d ≠ c.val → t.core d = s.core d) ∧
  t.core c = { s.core c with
    mepc := (s.core c).pc, mcause := cause, mtval := BitVec.ofNat 64 tval, mpie := (s.core c).mie, mie := false,
    mppUser := (s.core c).user, user := false, pc := (s.core c).mtvec / 4 * 4 }

/-- A trap that changes no byte of memory and no register but the two of the core's page that count it. -/
def Sys2Proof.Spec.Trapped (s t : State) (c : Core) (cause tval : Nat) : Prop :=
  t = { s with regs := t.regs, cores := t.cores, flight := t.flight } ∧
  BitsBut s t [Reg.cc_TRAP_CNT c, Reg.cc_LAST_CAUSE c] ∧ TrapTaken s t c cause tval

/-- A CSR instruction (R204, R205): f3 is its funct3, rs its register number or immediate, rd its destination. -/
def Sys2Proof.Spec.csrWord (csr f3 : Nat) (rs rd : Fin 32) : BitVec 32 :=
  BitVec.ofNat 32 (csr * 2 ^ 20 + rs.val * 2 ^ 15 + f3 * 2 ^ 12 + rd.val * 2 ^ 7 + 0x73)

/-- The value a CSR instruction leaves, from the old value and its operand: CSRRW, CSRRS, CSRRC (R202). -/
def Sys2Proof.Spec.csrNew (s : State) (c : Core) (f3 : Nat) (rs : Fin 32) (old : Nat) : Nat :=
  let x := if 4 ≤ f3 then rs.val else ((s.core c).xr rs).toNat
  match f3 % 4 with
  | 1 => x
  | 2 => old ||| x
  | _ => old - (old &&& x)

/-- An instruction of the base ISA at core c has retired: the pc is past it and it is counted. -/
def Sys2Proof.Spec.BaseRetired (s t : State) (c : Core) (f : CoreSt → CoreSt) : Prop :=
  t = { s with regs := t.regs, cores := t.cores } ∧ BitsBut s t [Reg.cc_INSTRET c, Reg.cc_WFI c] ∧
  t.fld (Reg.cc_INSTRET c) = (s.fld (Reg.cc_INSTRET c) + 1) % 2 ^ 64 ∧ (∀ d, d ≠ c.val → t.core d = s.core d) ∧
  t.core c = { f (s.core c) with pc := ((s.core c).pc + 4) % 2 ^ 64 }

/-- While KV is disabled, and for a KV word that no table of R207 and R208 permits, the illegal-instruction exception is
taken: mcause 2 with mtval the instruction bits, and no event (R205, R211). So it is for a word of neither KV major that no
encoding of RV64GC permits (R202), for kvcfg in U-mode, and for a write of time (R204, R205).
A CSR instruction reads and writes kvcfg in M-mode and kvstat in any mode: its bits 0 and 1 are KVEN and KVU, SAT and
DIRTY; time reads as global time (R204). A WFI retires and shows WFI (R214).
KV loads and stores that fail (R211): an access that physical memory protection forbids, or that meets the register
pages, traps with mcause 5 on a load and 7 on a store; a load of poison traps with mcause 24, is counted, and is reported
as CORE_POISON and as consumed (R234) with the core's master ID. mtval holds the address.
Points the spec leaves open follow log entries 81, 82. -/
def Obligations.KvExceptions : Prop :=
  (∀ (s : State) (c : Core) (bits : BitVec 32), CoreRuns s c →
    (if bits.toNat % 128 = 0x0B ∨ bits.toNat % 128 = 0x2B then kvLegal bits.toNat = false ∨ (s.core c).kvOn = false
      else baseLegal bits.toNat = false) →
    ∃ t, exec (.illegalInstruction c bits) s = .next t ∧ Trapped s t c 2 bits.toNat) ∧
  (∀ (s : State) (c : Core) (f3 : Nat) (rs rd : Fin 32), CoreRuns s c → f3 ∈ [1, 2, 3, 5, 6, 7] →
    (∃ t, exec (.illegalInstruction c (csrWord 0x7C0 f3 rs rd)) s = .next t ∧
      if (s.core c).user then Trapped s t c 2 (csrWord 0x7C0 f3 rs rd).toNat
      else
        let old := b2n (s.core c).kven + 2 * b2n (s.core c).kvu
        let new := csrNew s c f3 rs old
        BaseRetired s t c (fun x => { x.setX rd (BitVec.ofNat 64 old) with kven := new.testBit 0, kvu := new.testBit 1 })) ∧
    (∃ t, exec (.illegalInstruction c (csrWord 0x8C0 f3 rs rd)) s = .next t ∧
      let old := b2n (s.core c).sat + 2 * b2n (s.core c).dirty
      let new := csrNew s c f3 rs old
      BaseRetired s t c (fun x => { x.setX rd (BitVec.ofNat 64 old) with sat := new.testBit 0, dirty := new.testBit 1 })) ∧
    (∃ t, exec (.illegalInstruction c (csrWord 0xC01 f3 rs rd)) s = .next t ∧
      if f3 % 4 = 1 ∨ rs ≠ 0 then Trapped s t c 2 (csrWord 0xC01 f3 rs rd).toNat
      else BaseRetired s t c (fun x => x.setX rd (BitVec.ofNat 64 s.now)))) ∧
  (∀ (s : State) (c : Core), CoreRuns s c → ∃ t, exec (.illegalInstruction c 0x1050_0073) s = .next t ∧
    BaseRetired s t c id ∧ t.flag (Reg.cc_WFI c) = true) ∧
  (∀ (s : State) (c : Core) (k rs1 : Fin 32) (imm : BitVec 12) (half : Bool), KvReady s c →
    let a := kvAddr s c rs1 imm
    let n := if half then 8 else 16
    (s.coreAccess c a n false = .fault →
      ∃ t, exec (if half then .kldh c k rs1 imm else .kld c k rs1 imm) s = .next t ∧ Trapped s t c 5 a) ∧
    (s.coreAccess c a n true = .fault →
      ∃ t, exec (if half then .ksth c k rs1 imm else .kst c k rs1 imm) s = .next t ∧ Trapped s t c 7 a) ∧
    (s.coreAccess c a n false = .ok → s.psnIn a n = true → s.coreHeld c a n = false → Calm s →
      ∃ t, exec (if half then .kldh c k rs1 imm else .kld c k rs1 imm) s = .next t ∧ TrapTaken s t c 24 a ∧
        (∀ off, off / 0x1_0000 < 0x2C ∨ (0x43 < off / 0x1_0000 ∧ off / 0x1_0000 ≠ 0x87 + c.val) → t.reg off = s.reg off) ∧
        SameMemory s t ∧ Counted s t (Reg.cc_POIS_CNT c) ∧
        t.fld (Reg.hdr_EVENTS (0x87 + c.val)) = min (s.fld (Reg.hdr_EVENTS (0x87 + c.val)) + 2) (2 ^ 32 - 1) ∧
        ((s.events.filter (fun e => decide (e.page = 0x87 + c.val))).length < 3 →
          ∃ e f, t.events = s.events ++ [e, f] ∧ e.code = 0x09 ∧ f.code = 0x08 ∧
            ∀ x ∈ [e, f], x.master = 0x40 + c.val ∧ x.addr = a ∧ x.stn = s.coreStn c)))

/-! ## Recipes and the command stream (R82 to R109, R137) -/

namespace Sys2Proof.Spec

/-- The sequencer of station n on quadrant q can issue, its next word has opcode opc, is read without error or poison, and
becomes w by substitution (R84, R92, R93, R232). -/
def Issuable (s : State) (n : Stn) (q : Quad) (opc w : Nat) : Prop :=
  s.canIssue n q = true ∧ s.inBounds n q = true ∧ s.cmdWord n q % 256 = opc ∧ s.psnIn (s.cmdAddr n q) 32 = false ∧
  s.injFires (0x0C + q) 0 = false ∧ s.substitute n (s.cmdWord n q) = some w

/-- The sequencer has moved past the command, and has counted it as complete. -/
def Advanced (s t : State) (n q : Nat) : Prop := t.pc n q = s.pc n q + 1 ∧ Counted s t (Reg.seq_CMD_DONE q n)

/-- No sequencer of station n but those on the listed quadrants has moved, and none of another station. -/
def PcsBut (s t : State) (n : Nat) (qs : List Nat) : Prop :=
  ∀ j q, j < 8 → q < 4 → ¬ (j = n ∧ q ∈ qs) → t.pc j q = s.pc j q

/-- Station n's recipe has stopped for a reason (R87): no launch is left, none is queued, and every sequencer of it shows
STOP with the reason, does not run, holds nothing, and stands where it stood. -/
def Stopped (s t : State) (n : Nat) (l : Launch) (why : Nat) : Prop :=
  t.launch n = none ∧ t.flag (Reg.seq_QUEUED 0 n) = false ∧
  ∀ q ∈ quads l.qmask, t.flag (Reg.seq_STOP q n) = true ∧ t.fld (Reg.seq_STOP_WHY q n) = why ∧
    t.flag (Reg.seq_RUN q n) = false ∧ t.hold n q = none ∧ t.pc n q = s.pc n q ∧
    t.fld (Reg.seq_CMD_DONE q n) = s.fld (Reg.seq_CMD_DONE q n)

/-- The three levels an AGL or AGH word holds (R95). -/
def levelsOf (w : Nat) : List Level :=
  [⟨bitsOf w 63 40, signedOf (bitsOf w 95 64) 32⟩, ⟨bitsOf w 119 96, signedOf (bitsOf w 151 120) 32⟩,
   ⟨bitsOf w 175 152, signedOf (bitsOf w 207 176) 32⟩]

end Sys2Proof.Spec

/-- NOP moves past itself and is counted; it changes nothing else (R137). AGL writes levels 0 to 2 of a generator slot and
AGH levels 3 to 5 (R95). LPG fills a program slot of the station's own set on its own quadrant with the word's upper 192 bits
(R103). Every other slot, register, byte of memory and field of the state is as before.
FEN holds issue until the earlier work its bits select is complete: then it moves on and, with any bit set, ends chained
issue across it; before that the state is as it was (R107).
Points the spec leaves open follow log entry 19. -/
def Obligations.LocalCommands : Prop :=
  (∀ (s : State) (n : Stn) (q : Quad) (w : Nat),
    (Issuable s n q 0x00 w → ∃ t, exec (.nop n q) s = .next t ∧ Advanced s t n q ∧ PcsBut s t n [q] ∧
      BitsBut s t [Reg.seq_PC q n, Reg.seq_CMD_DONE q n] ∧ t = { s with regs := t.regs, pcOver := t.pcOver }) ∧
    (∀ hi : Bool, Issuable s n q (if hi then 0x09 else 0x08) w → (∀ l ∈ levelsOf w, l.count ≠ 0) →
      ∃ t, exec (if hi then .agh n q else .agl n q) s = .next t ∧ Advanced s t n q ∧ PcsBut s t n [q] ∧
        BitsBut s t [Reg.seq_PC q n, Reg.seq_CMD_DONE q n] ∧
        t = { s with regs := t.regs, gens := t.gens, pcOver := t.pcOver } ∧
        (let g := s.gen q n (bitsOf w 37 32)
         t.gen q n (bitsOf w 37 32) = if hi then g.take 3 ++ levelsOf w ++ g.drop 6 else levelsOf w ++ g.drop 3) ∧
        ∀ k, k ≠ 512 * q.val + 64 * n.val + bitsOf w 37 32 → t.gens.get (fun _ => .reset) k = s.gens.get (fun _ => .reset) k) ∧
    (Issuable s n q 0x20 w →
      (∀ g ∈ s.gops, g.stn = n.val → g.granted = true → ¬ (q.val ∈ g.f.ladles ∧ g.f.lslot = bitsOf w 35 32)) →
      ∃ t, exec (.lpg n q) s = .next t ∧ Advanced s t n q ∧ PcsBut s t n [q] ∧
        BitsBut s t [Reg.seq_PC q n, Reg.seq_CMD_DONE q n] ∧
        t = { s with regs := t.regs, lslots := t.lslots, pcOver := t.pcOver } ∧
        ∀ k, t.lslots.get (fun _ => none) k = if k = 128 * q.val + 16 * n.val + bitsOf w 35 32
          then some (BitVec.ofNat 192 (w >>> 64)) else s.lslots.get (fun _ => none) k)) ∧
  (∀ (s : State) (n : Stn) (q : Quad) (w : Nat), Issuable s n q 0x50 w →
    (s.fenceOpen n q w = false → exec (.fen n q) s = .next s) ∧
    (s.fenceOpen n q w = true → ∃ t, exec (.fen n q) s = .next t ∧ Advanced s t n q ∧ PcsBut s t n [q] ∧
      BitsBut s t [Reg.seq_PC q n, Reg.seq_CMD_DONE q n] ∧
      t = { s with regs := t.regs, launches := t.launches, pcOver := t.pcOver } ∧
      (∀ k, k ≠ n.val → t.launch k = s.launch k) ∧
      ∀ l, s.launch n = some l → t.launch n = some { l with fenced := l.fenced || decide (bitsOf w 37 32 ≠ 0) }))

/-- SETP changes one live parameter register, and nothing else (R108): OP 0 writes VAL, OP 1 adds VAL, OP 2 writes P[PA] plus
VAL, and OP 3 is refused; a SETP word with SUBA or SUBB set has no substitution, so it is refused too. END issues nothing
more (R109). Both move every sequencer of the launch on.
A gang command issues once for the whole launch, when every sequencer of it has reached a gang command: with all
substituted words alike the launch holds that word, and nothing else changes; where one differs, nothing issues and every
sequencer stops with DIVERGE (R84). -/
def Obligations.GangCommands : Prop :=
  (∀ (s : State) (n : Stn) (l : Launch) (w : Nat), (∀ q ∈ quads l.qmask, s.inBounds n q = true) →
    (s.gangWord n 0x60 = some (l, w) → bitsOf w 41 40 < 3 → ∃ t, exec (.setp n) s = .next t ∧
      t = { s with regs := t.regs, launches := t.launches, pcOver := t.pcOver } ∧ PcsBut s t n (quads l.qmask) ∧
      t.param n (bitsOf w 39 32) = (match bitsOf w 41 40 with
        | 0 => bitsOf w 127 64
        | 1 => (s.param n (bitsOf w 39 32) + bitsOf w 127 64) % 2 ^ 64
        | _ => (s.param n (bitsOf w 23 16) + bitsOf w 127 64) % 2 ^ 64) ∧
      (∀ q ∈ quads l.qmask, Advanced s t n q) ∧
      BitsBut s t (Reg.seq_P 0 n (bitsOf w 39 32) ::
        (quads l.qmask).flatMap (fun q => [Reg.seq_PC q n, Reg.seq_CMD_DONE q n])) ∧
      t.launch n = some { l with gang := none } ∧ ∀ k, k ≠ n.val → t.launch k = s.launch k) ∧
    (s.gangWord n 0x60 = some (l, w) → bitsOf w 41 40 = 3 → ∃ t, exec (.setp n) s = .next t ∧ Stopped s t n l 1) ∧
    (∀ u, u % 256 = 0x60 → bitOf u 8 = true ∨ bitOf u 9 = true → s.substitute n u = none) ∧
    (s.gangWord n 0x7F = some (l, w) → ∃ t, exec (.endR n) s = .next t ∧
      t = { s with regs := t.regs, launches := t.launches, pcOver := t.pcOver } ∧ PcsBut s t n (quads l.qmask) ∧ (∀ q ∈ quads l.qmask, Advanced s t n q) ∧
      BitsBut s t ((quads l.qmask).flatMap (fun q => [Reg.seq_PC q n, Reg.seq_CMD_DONE q n])) ∧
      t.launch n = some { l with gang := none, ended := true } ∧ ∀ k, k ≠ n.val → t.launch k = s.launch k)) ∧
  (∀ (s : State) (n : Stn) (l : Launch) (ws : Nat → Nat), s.launch n = some l → quads l.qmask ≠ [] →
    (∀ q ∈ quads l.qmask, s.canIssue n q = true ∧ s.inBounds n q = true ∧ gangOpc (s.cmdWord n q % 256) = true ∧
      s.psnIn (s.cmdAddr n q) 32 = false ∧ s.injFires (0x0C + q) 0 = false ∧
      s.substitute n (s.cmdWord n q) = some (ws q)) →
    ((∀ q ∈ quads l.qmask, ∀ r ∈ quads l.qmask, ws q = ws r) → ∃ t, exec (.gangIssue n false) s = .next t ∧
      t = { s with launches := t.launches } ∧ (∀ k, k ≠ n.val → t.launch k = s.launch k) ∧
      ∃ q ∈ quads l.qmask, t.launch n = some { l with gang := some (BitVec.ofNat 256 (ws q)) }) ∧
    ((∃ q ∈ quads l.qmask, ∃ r ∈ quads l.qmask, ws q ≠ ws r) →
      ∃ t, exec (.gangIssue n false) s = .next t ∧ Stopped s t n l 3))

/-- A recipe stops before the command that fails (R87): at an unassigned opcode (OPCODE), at a word beyond its window
(BOUNDS), at a poisoned word (REFUSED), and at a TWT whose limit expires (TIMEOUT).
The recipe boundary (R109): once END has issued and every command of the launch is complete, RUN clears on every
quadrant of the launch, pending bank swaps of those quadrants apply, and with none queued no launch is left; a queued launch
starts at its ENTRY when no margin test holds it.
Points the spec leaves open follow log entry 20. -/
def Obligations.RecipesStopAndEnd : Prop :=
  (∀ (s : State) (n : Stn) (q : Quad) (l : Launch), s.launch n = some l →
    (s.canIssue n q = true → s.inBounds n q = true → s.psnIn (s.cmdAddr n q) 32 = false →
      assignedOpc (s.cmdWord n q % 256) = false →
      ∃ t, exec (.unassignedOpcode n q) s = .next t ∧ Stopped s t n l 6) ∧
    (s.canIssue n q = true → s.inBounds n q = false → ∃ t, exec (.nop n q) s = .next t ∧ Stopped s t n l 5) ∧
    (s.canIssue n q = true → s.inBounds n q = true → s.cmdWord n q % 256 = 0x00 → s.psnIn (s.cmdAddr n q) 32 = true →
      ∃ t, exec (.nop n q) s = .next t ∧ Stopped s t n l 1) ∧
    (∀ (k : Nat) (x : Watch), s.hold n q = some (.watch k) → s.watch k = some x → x.target = .seq n q k → x.tmo ≠ 0 →
      ∃ t, exec (.twtTmo n q) s = .next t ∧ Stopped s t n l 4 ∧ t.watch k = none) ∧
    (∀ w, s.hold n q = some (.noWatch w) → bitsOf w.toNat 95 80 ≠ 0 →
      ∃ t, exec (.twtTmo n q) s = .next t ∧ Stopped s t n l 4)) ∧
  (∀ (s : State) (n : Stn) (l : Launch), s.launch n = some l → l.ended = true →
    (∀ x ∈ s.xfers, ¬ (x.stn = n.val ∧ l.first ≤ x.id)) → (∀ x ∈ s.spks, ¬ (x.stn = n.val ∧ l.first ≤ x.id)) →
    (∀ x ∈ s.gops, ¬ (x.stn = n.val ∧ l.first ≤ x.id)) →
    (s.queued.get (fun _ => none) n = none → ∃ t, exec (.recipeBoundary n) s = .next t ∧ t.launch n = none ∧
      SameMemory s t ∧ ∀ q ∈ quads l.qmask, t.flag (Reg.seq_RUN q n) = false ∧ t.flag (Reg.seq_SWAP_PEND q n) = false ∧
        t.fld (Reg.seq_ACTIVE q n) =
          if s.flag (Reg.seq_SWAP_PEND q n) then 1 - s.fld (Reg.seq_ACTIVE q n) else s.fld (Reg.seq_ACTIVE q n)) ∧
    (∀ (entry mask : Nat) (swap : Bool), s.queued.get (fun _ => none) n = some (entry, mask, swap) → entry < 8192 →
      s.flag Reg.sys_BUSY_510 = false →
      ∃ t, exec (.recipeBoundary n) s = .next t ∧ t.queued.get (fun _ => none) n = none ∧
        t.launch n = some ⟨entry, mask, none, false, false, s.nextId⟩ ∧
        ∀ q ∈ quads mask, t.flag (Reg.seq_RUN q n) = true ∧ t.pc n q = entry))

namespace Sys2Proof.Spec

/-- The module is powered and out of reset, and the host's link is up: the host reaches the register pages. -/
def HostUp (s : State) : Prop := s.alive = true ∧ s.pins.modRstN = true ∧ s.pins.perstN = true

/-- The value staged last for parameter register i of station n (R94), if one is. -/
def stagedParam (s : State) (n i : Nat) : Option Nat :=
  ((s.pstage.filter (fun e => decide (e.1 = 256 * n + i))).getLast?).map (fun e => e.2.toNat)

/-- An event that a page's four-entry buffer has room for waits for the Bolt, last of all (R323). -/
def Reported (s t : State) (page code : Nat) : Prop :=
  (s.events.filter (fun e => decide (e.page = page))).length < 4 →
    ∃ e, t.events = s.events ++ [e] ∧ e.page = page ∧ e.code = code ∧ e.inj = false

end Sys2Proof.Spec

/-- An accepted launch of an idle station starts at once (R82, R83): every staged parameter becomes live and PEND clears
(R94), the banks swap if SWAP is set, and every sequencer of QMASK runs from ENTRY with STOP clear and no command counted.
A launch written while the station's recipe runs is queued and starts nothing.
Points the spec leaves open follow log entry 20. -/
def Obligations.LaunchStartsOrQueues : Prop :=
  ∀ (s : State) (n : Stn) (v : Word), HostUp s → v.toNat.testBit 63 = true → s.inReset n = false → s.safe = false →
    let entry := bitsOf v.toNat 12 0
    let mask := bitsOf v.toNat 19 16
    s.launchOk n entry mask = true → s.flag (Reg.seq_QUEUED 0 n) = false →
    (s.launch n = none → s.flag Reg.sys_BUSY_510 = false → ∃ t, exec (.seqLaunch .host n v) s = .next t ∧ SameMemory s t ∧
      t.launch n = some ⟨entry, mask, none, false, false, s.nextId⟩ ∧
      (∀ q ∈ quads mask, t.pc n q = entry ∧ t.flag (Reg.seq_RUN q n) = true ∧ t.flag (Reg.seq_STOP q n) = false ∧
        t.fld (Reg.seq_STOP_WHY q n) = 0 ∧ t.fld (Reg.seq_CMD_DONE q n) = 0 ∧ t.hold n q = none ∧
        t.fld (Reg.seq_ACTIVE q n) =
          if v.toNat.testBit 20 then 1 - s.fld (Reg.seq_ACTIVE q n) else s.fld (Reg.seq_ACTIVE q n)) ∧
      (∀ j, j < 4 → t.fld (Reg.seq_PEND 0 n j) = 0) ∧
      ∀ i, i < 256 → t.param n i = match stagedParam s n i with
        | some x => x
        | none => if (s.fld (Reg.seq_PEND 0 n (i / 64))).testBit (i % 64) then 0 else s.param n i) ∧
    (∀ l, s.launch n = some l → ∃ t, exec (.seqLaunch .host n v) s = .next t ∧ t.launch n = some l ∧
      t.flag (Reg.seq_QUEUED 0 n) = true ∧
      t.queued.get (fun _ => none) n = some (entry, mask, v.toNat.testBit 20) ∧ t.pstage = s.pstage ∧
      t = { s with regs := t.regs, queued := t.queued })

/-- A write of a parameter register goes to a staging copy and sets its PEND bit; the live value and everything else stay as
they are (R94).
SWAP written on one quadrant exchanges the station's banks there at once where no recipe of the station runs; where one
runs it sets SWAP_PEND and the active bank stays (R90).
Only writes to the inactive bank take effect (R89): a host write to a word of a window's inactive bank stores its eight
bytes and no other byte changes. A write to a word of the active bank sets WREF, and that write and one outside every window
are dropped, and raise RCP_ACTIVE_WR at the Bolt. -/
def Obligations.StagedWritesAndRecipeMemory : Prop :=
  (∀ (s : State) (n : Stn) (i : Fin 256) (v : Word), HostUp s →
    ∃ t, exec (.paramWrite .host n i v) s = .next t ∧ t = { s with regs := t.regs, pstage := t.pstage } ∧
      (∀ k, t.pstage.get (fun _ => 0) k = if k = 256 * n.val + i.val then v else s.pstage.get (fun _ => 0) k) ∧
      t.fld (Reg.seq_PEND 0 n (i.val / 64)) = s.fld (Reg.seq_PEND 0 n (i.val / 64)) ||| 2 ^ (i.val % 64) ∧
      BitsBut s t [Reg.seq_PEND 0 n (i.val / 64)] ∧ ∀ j, j < 256 → t.param n j = s.param n j) ∧
  (∀ (s : State) (n : Stn) (q : Quad) (v : Word), HostUp s → v.toNat.testBit 1 = true →
    ∃ t, exec (.bankSwap .host n q v) s = .next t ∧ t = { s with regs := t.regs } ∧
      BitsBut s t [Reg.seq_ACTIVE q n, Reg.seq_SWAP_PEND q n, Reg.seq_WREF q n] ∧
      (if (s.launch n).any (fun l => l.has q) then
        t.flag (Reg.seq_SWAP_PEND q n) = true ∧ t.fld (Reg.seq_ACTIVE q n) = s.fld (Reg.seq_ACTIVE q n)
      else t.flag (Reg.seq_SWAP_PEND q n) = false ∧ t.fld (Reg.seq_ACTIVE q n) = 1 - s.fld (Reg.seq_ACTIVE q n))) ∧
  (∀ (s : State) (addr : Nat) (v : Word) (q b : Nat), regionOf addr = .recipe q b →
    let a := addr / 8 * 8
    let word := (addr - 0x830_0000_0000) % 0x4_0000 / 32
    (∀ n, s.recipeStn q word = some n → s.fld (Reg.seq_ACTIVE q n) ≠ b →
      ∃ t, exec (.recipeMemoryWrite .host addr v) s = .next t ∧ t = { s with mem := t.mem, poison := t.poison, coreBytes := t.coreBytes } ∧
        (∀ i, i < 8 → t.byte (a + i) = v.extractLsb' (8 * i) 8) ∧ ∀ x, x < a ∨ a + 8 ≤ x → t.byte x = s.byte x) ∧
    (∀ n, s.recipeStn q word = some n → s.fld (Reg.seq_ACTIVE q n) = b →
      ∃ t, exec (.recipeMemoryWrite .host addr v) s = .next t ∧ SameMemory s t ∧ t.flag (Reg.seq_WREF q n) = true ∧
        Reported s t (0x0C + q) 0x03) ∧
    (s.recipeStn q word = none → ∃ t, exec (.recipeMemoryWrite .host addr v) s = .next t ∧ SameMemory s t ∧
      Reported s t (0x0C + q) 0x03))

namespace Sys2Proof.Spec

/-- Granted counters of every station lie among the module's 4,096 (R22, R277). -/
def CountersFit (s : State) : Prop := ∀ n, n < 8 → s.ctrBase n + s.ctrNum n ≤ 4096

/-- Counter i has taken the exact result r of one operation (R278): it saturates at LIMIT with OVF and at 0 with UNF, each
reported as one event; no other counter and no limit changes. -/
def CounterTakes (s t : State) (i : Nat) (r : Int) : Prop :=
  (t.ctrValue i : Int) = max 0 (min (s.ctrLimit i : Int) r) ∧
  (∀ j, j < 4096 → j ≠ i → t.ctrValue j = s.ctrValue j) ∧ (∀ j, j < 4096 → t.ctrLimit j = s.ctrLimit j) ∧
  ((s.ctrLimit i : Int) < r → (t.fld (Reg.tmb_OVF (i / 64))).testBit (i % 64) = true) ∧
  (r < 0 → (t.fld (Reg.tmb_UNF (i / 64))).testBit (i % 64) = true)

end Sys2Proof.Spec

/-- TSG adds a signed value to a granted counter, or sets it, under the rules of R278; with RMT it sends CNT_ADD to the
other node through the port its route names (R105). REL waits for every earlier command of the sequencer. TWT takes the
first free watch of the station's pool and holds issue; without a free one it holds until a watch frees (R105, R280).
TBA enters a granted and enabled barrier once for the launch (R105, R284): the entry is counted in the phase that is open,
or in the next phase when the open one is full; while the phase is incomplete every sequencer of the launch holds at the
barrier, or goes on under NOWAIT in the open phase. A barrier that is not enabled refuses it.
Points the spec leaves open follow log entry 29. -/
def Obligations.TumblerAndBarrierCommands : Prop :=
  (∀ (s : State) (n : Stn) (q : Quad) (w : Nat), CountersFit s →
    let ctr := bitsOf w 43 32
    (Issuable s n q 0x30 w → bitsOf w 45 44 < 2 → ctr < s.ctrNum n → bitOf w 100 = false →
      (bitOf w 101 = true → s.allDone n q = true) →
      ∃ t, exec (.tsg n q) s = .next t ∧ Advanced s t n q ∧ SameMemory s t ∧
        CounterTakes s t (s.ctrBase n + ctr) (if bitsOf w 45 44 = 0
          then (s.ctrValue (s.ctrBase n + ctr) : Int) + signedOf (bitsOf w 79 48) 32 else (bitsOf w 79 48 : Nat))) ∧
    (∀ p, Issuable s n q 0x30 w → bitsOf w 45 44 = 0 → bitOf w 100 = true →
      (bitOf w 101 = true → s.allDone n q = true) → s.flag Reg.krt_VALID = true → bitsOf w 99 80 ≠ s.nodeId →
      s.routeOf s.nodeId (bitsOf w 99 80) 0 = .port p →
      ∃ t f, exec (.tsg n q) s = .next t ∧ Advanced s t n q ∧ (t.link p).txq = (s.link p).txq ++ [f] ∧
        f.op = 0x07 ∧ f.dst = bitsOf w 99 80 ∧ f.addr = ctr + n.val <<< 12 ∧ leNat (f.payload.take 4) = bitsOf w 79 48 ∧
        t = { s with regs := t.regs, links := t.links, pcOver := t.pcOver }) ∧
    (Issuable s n q 0x31 w → ctr < s.ctrNum n → bitsOf w 46 44 < 3 →
      (∀ k, s.freeWatch n = some k → holdsCmp (bitsOf w 46 44) (s.ctrValue (s.ctrBase n + ctr)) (bitsOf w 79 48) = false →
        ∃ t, exec (.twt n q) s = .next t ∧ t.hold n q = some (.watch k) ∧ t.pc n q = s.pc n q ∧
          t.watch k = some ⟨n, s.ctrBase n + ctr, bitsOf w 46 44, bitsOf w 79 48, .seq n q k, bitsOf w 95 80⟩ ∧
          t = { s with holds := t.holds, watches := t.watches }) ∧
      (∀ k, s.freeWatch n = some k → holdsCmp (bitsOf w 46 44) (s.ctrValue (s.ctrBase n + ctr)) (bitsOf w 79 48) = true →
        ∃ t, exec (.twt n q) s = .next t ∧ t.hold n q = some (.watch k) ∧ t.pc n q = s.pc n q ∧ t.watch k = none ∧
          t.notes = s.notes ++ [⟨.seq n q k, 1⟩]) ∧
      (s.freeWatch n = none → ∃ t, exec (.twt n q) s = .next t ∧
        t.hold n q = some (.noWatch (BitVec.ofNat 256 w)) ∧ t = { s with holds := t.holds }))) ∧
  (∀ (s : State) (n : Stn) (l : Launch) (w : Nat), s.gangWord n 0x32 = some (l, w) → bitsOf w 39 32 < s.barNum n →
    (∀ q ∈ quads l.qmask, s.inBounds n q = true) →
    let b := s.barBase n + bitsOf w 39 32
    let arr := s.fld (Reg.tmb_ARR b)
    let adv := s.fld (Reg.tmb_ADV b)
    let nl := s.fld (Reg.tmb_NLOCAL b)
    b < 256 →
    (s.flag (Reg.tmb_EN b) = true → arr + 1 < nl → ∃ t, exec (.tba n) s = .next t ∧ t.fld (Reg.tmb_ARR b) = arr + 1 ∧
      t.fld (Reg.tmb_ADV b) = adv ∧ SameMemory s t ∧ ∀ q ∈ quads l.qmask,
        if bitOf w 40 then Advanced s t n q else t.hold n q = some (.barrier b false false) ∧ t.pc n q = s.pc n q) ∧
    (s.flag (Reg.tmb_EN b) = true → arr = nl → adv < nl →
      ¬ (s.fld (Reg.tmb_KIDS b) = (kids (s.group (s.barGroup b)).p (s.group (s.barGroup b)).rank).length ∧
        s.fld (Reg.tmb_UP b) = 0) →
      ∃ t, exec (.tba n) s = .next t ∧ t.fld (Reg.tmb_ADV b) = adv + 1 ∧ t.fld (Reg.tmb_ARR b) = arr ∧
        SameMemory s t ∧ ∀ q ∈ quads l.qmask, t.hold n q = some (.barrier b true (bitOf w 40)) ∧ t.pc n q = s.pc n q) ∧
    (s.flag (Reg.tmb_EN b) = false → ∃ t, exec (.tba n) s = .next t ∧ Stopped s t n l 1))

/-! ## Transfers, the Stockpot and dispatches (R98, R104, R106, R127 to R132) -/

namespace Sys2Proof.Spec

/-- Source and destination address of byte i of run k of a transfer within this module. -/
def srcOf (x : Xfer) (k i : Nat) : Nat := x.sgen.addr (if x.load then gLocal x.src else trayAddr 0 x.src) k + i
def dstOf (x : Xfer) (k i : Nat) : Nat := x.dgen.addr (if x.load then trayAddr 0 x.dst else gLocal x.dst) k + i

/-- No byte is both read and written, no byte is written twice, and none is a tag. -/
def CleanCopy (x : Xfer) : Prop :=
  (∀ k i j l, k < x.sgen.yield → i < x.run → j < x.sgen.yield → l < x.run → srcOf x k i ≠ dstOf x j l) ∧
  (∀ k i j l, k < x.sgen.yield → i < x.run → j < x.sgen.yield → l < x.run → dstOf x k i = dstOf x j l → k = j ∧ i = l) ∧
  ∀ k i, k < x.sgen.yield → i < x.run → inTagArea (srcOf x k i) = false ∧ inTagArea (dstOf x k i) = false

end Sys2Proof.Spec

/-- An LDT or STT that passes its checks, finds room among the sequencer's sixteen and meets nothing on the scoreboard becomes
outstanding with its fields and generators as they stand, and the sequencer moves on; it is not yet counted as complete, and
no byte of memory has moved (R85, R86, R98). One that must wait changes nothing.
An LDT or STT within the module whose accesses nothing holds (R221, R224) completes (R98): every byte of every run is at its destination, no other byte changes but
tags of HBM blocks, the transfer is no longer outstanding, and its counter goes up by one if CEN is set.
Points the spec leaves open follow log entry 14. -/
def Obligations.Transfers : Prop :=
  (∀ (s : State) (n : Stn) (q : Quad) (w : Nat) (load : Bool), Issuable s n q (if load then 0x01 else 0x02) w →
    let f := xferF load w
    let sg := s.gen q n f.sag
    let dg := s.gen q n f.dag
    let x : Xfer := ⟨s.nextId, n, q, s.pc n q, load, f.src, f.dst, sg, dg, f.run, f.ch, f.ctr, f.cen, 0, [], false, [], []⟩
    let waits := 16 ≤ (s.xfersAt q).length ∨ (∃ y ∈ s.xfers, y.ivl.meets x.ivl = true) ∨
      (∃ g ∈ s.gops, ∃ j ∈ g.trayIvls s.nodeId, j.meets x.ivl = true)
    s.xferOk n load f sg dg = true → (∀ y ∈ s.xfers, y.id < s.nextId) →
    (waits → exec (if load then .ldt n q false else .stt n q false) s = .next s) ∧
    (¬ waits → ∃ t y, exec (if load then .ldt n q false else .stt n q false) s = .next t ∧
      t.xfers = s.xfers ++ [y] ∧
      y = { x with sent := y.sent, tags := y.tags, bad := y.bad, data := y.data, psn := y.psn } ∧
      (x.node = s.nodeId → y = x) ∧ t.nextId = s.nextId + 1 ∧ t.pc n q = s.pc n q + 1 ∧
      t.fld (Reg.seq_CMD_DONE q n) = s.fld (Reg.seq_CMD_DONE q n) ∧ t.gens = s.gens ∧
      ((x.node = s.nodeId ∨ ∀ a flow, s.routeOf a x.node flow ≠ .here) → SameMemory s t))) ∧
  (∀ (s : State) (x : Xfer), s.safe = false → s.xfer? x.id = some x → x.node = s.nodeId → CleanCopy x → CountersFit s →
    x.stn < 8 → x.ctr < s.ctrNum x.stn →
    (s.xferHeld x = true → exec (if x.load then .ldtComplete x.id false else .sttComplete x.id) s = .next { s with flight := [] }) ∧
    (s.xferHeld x = false →
    ∃ t, exec (if x.load then .ldtComplete x.id false else .sttComplete x.id) s = .next t ∧
      (∀ k i, k < x.sgen.yield → i < x.run → t.byte (dstOf x k i) = s.byte (srcOf x k i)) ∧
      (∀ a, inTagArea a = false → (∀ k i, k < x.sgen.yield → i < x.run → a ≠ dstOf x k i) → t.byte a = s.byte a) ∧
      t.xfers = s.xfers.filter (fun y => decide (y.id ≠ x.id)) ∧
      (x.cen = true → CounterTakes s t (s.ctrBase x.stn + x.ctr) ((s.ctrValue (s.ctrBase x.stn + x.ctr) : Int) + 1)) ∧
      (x.cen = false → ∀ j, j < 4096 → t.ctrValue j = s.ctrValue j)))

namespace Sys2Proof.Spec

/-- Checks an SPK word passes at issue (R104, R129): its counter is granted, its blocks lie in the station's Stockpot window,
and nothing outstanding meets them but, for a DISCARD, a COMMIT that waits at its gate. -/
def SpkPasses (s : State) (n : Stn) (q : Quad) (w op : Nat) : Prop :=
  Issuable s n q 0x21 w ∧ bitsOf w 33 32 = op ∧ bitsOf w 139 128 < s.ctrNum n ∧
  s.potOk n q (bitsOf w 47 34) (bitsOf w 62 48) = true ∧
  s.potBusy q (bitsOf w 47 34) (bitsOf w 62 48) (fun x => decide (op = 2) && s.gated x) = false

/-- The outstanding SPK command of a word. -/
def spkOf (s : State) (n : Stn) (q : Quad) (w op desc : Nat) : Spk :=
  ⟨s.nextId, n, q, s.pc n q, op, bitsOf w 47 34, bitsOf w 62 48, desc, bitsOf w 139 128, bitOf w 140, 0, 0⟩

end Sys2Proof.Spec

/-- SPK OPEN, COMMIT and DISCARD at issue (R104, R127, R131, R132): an OPEN of closed blocks, a COMMIT with a sound descriptor
inside the station's memory (once nothing holds its read, R221 and R224, and with no injection armed), and a DISCARD become outstanding; a DISCARD cancels exactly the COMMITs of its blocks that still
wait at their gate. No byte of memory and no block's state changes at issue.
An OPEN that finishes leaves every byte of its blocks 0 and their state bytes 0x01 (R127). A DISCARD that finishes closes
its open blocks, whose contents are then undefined, and leaves closed ones alone (R132). No other block and no other byte
changes; the counter goes up by one under CEN.
Points the spec leaves open follow log entry 30. -/
def Obligations.StockpotCommands : Prop :=
  (∀ (s : State) (n : Stn) (q : Quad) (w : Nat),
    (SpkPasses s n q w 0 → (∀ i, i < bitsOf w 62 48 → bitOf (s.fld (spByte q (bitsOf w 47 34 + i))) 0 = false) →
      ∃ t, exec (.spkOpen n q) s = .next t ∧ t.spks = s.spks ++ [spkOf s n q w 0 0] ∧
        t.pc n q = s.pc n q + 1 ∧ BitsBut s t [Reg.seq_PC q n] ∧
        t = { s with regs := t.regs, spks := t.spks, nextId := s.nextId + 1, pcOver := t.pcOver }) ∧
    (let desc := bitsOf w 107 64
     SpkPasses s n q w 1 → s.inRange n desc 64 = true →
      (s.memHeld n desc 64 = true → exec (.spkCommit n q) s = .next { s with flight := [] }) ∧
      (s.memHeld n desc 64 = false → Calm s → s.psnIn desc 64 = false →
      (bitOf (s.word desc 64) (0x10 * 8 + 12) = true → bitsOf (s.word desc 64) (0x10 * 8 + 11) (0x10 * 8) < s.ctrNum n) →
      ∃ t, exec (.spkCommit n q) s = .next t ∧ t.spks = s.spks ++ [spkOf s n q w 1 (s.word desc 64)] ∧
        t.pc n q = s.pc n q + 1 ∧ t.flag (Reg.ldl_CBUSY q n) = true ∧ SameMemory s t ∧
        ∀ b, b < 16384 → t.fld (spByte q b) = s.fld (spByte q b))) ∧
    (SpkPasses s n q w 2 → (s.spks.map (fun x => x.id)).Nodup → ∃ t, exec (.spkDiscard n q) s = .next t ∧
      t.spks = s.spks.filter (fun x => !(s.gated x && blocksMeet (x.q, x.blk, x.nblk) (q.val, bitsOf w 47 34, bitsOf w 62 48))) ++
        [spkOf s n q w 2 0] ∧
      t.pc n q = s.pc n q + 1 ∧ SameMemory s t ∧ ∀ b, b < 16384 → t.fld (spByte q b) = s.fld (spByte q b))) ∧
  (∀ (s : State) (x : Spk), s.safe = false → s.spks.find? (fun y => decide (y.id = x.id ∧ y.op ≠ 1)) = some x → x.q < 4 →
    x.stn < 8 → x.blk + x.nblk ≤ 16384 → CountersFit s → x.ctr < s.ctrNum x.stn →
    ∃ t, exec (.spkDone x.id) s = .next t ∧ t.spks = s.spks.filter (fun y => decide (y.id ≠ x.id)) ∧
      (∀ b, x.blk ≤ b → b < x.blk + x.nblk →
        t.fld (spByte x.q b) = (if x.op = 0 then 1 else if bitOf (s.fld (spByte x.q b)) 0 then 0 else s.fld (spByte x.q b)) ∧
        (x.op = 0 → ∀ o, o < 4096 → t.byte (potAddr x.q (4096 * b + o)) = 0)) ∧
      (∀ b, b < x.blk ∨ x.blk + x.nblk ≤ b → b < 16384 → t.fld (spByte x.q b) = s.fld (spByte x.q b)) ∧
      (∀ a, a < potAddr x.q (4096 * x.blk) ∨ potAddr x.q (4096 * (x.blk + x.nblk)) ≤ a → t.byte a = s.byte a) ∧
      (x.cen = true → CounterTakes s t (s.ctrBase x.stn + x.ctr) ((s.ctrValue (s.ctrBase x.stn + x.ctr) : Int) + 1)))

/-- A COMMIT without spill blocks at its gate (R131): a closed gate holds it, as a held access at DST or at its scale does (R221,
R224), and nothing changes; past its gate, with no injection armed, a check that
fails ends it with the status, and leaves every block and every byte as they were; one that passes marks its blocks as
committing and, within the module, has written every element scaled and converted at DST.
A COMMIT whose writes are all sent and acknowledged ends OK (R131): its blocks close with state byte 0, STATUS reads 1,
and the counter goes up by one only now, under CEN. -/
def Obligations.Commits : Prop :=
  (∀ (s : State) (x : Spk), s.safe = false → s.spks.find? (fun y => decide (y.id = x.id) && y.unwritten) = some x →
    x.q < 4 → x.stn < 8 → x.blk + x.nblk ≤ 16384 → bitsOf x.desc (0x20 * 8 + 63) (0x20 * 8) = 0 →
    let closed := bitOf x.desc (0x10 * 8 + 12) = true ∧
      s.ctrValue (s.ctrBase x.stn + bitsOf x.desc (0x10 * 8 + 11) (0x10 * 8)) < bitsOf x.desc (0x10 * 8 + 63) (0x10 * 8 + 32)
    let held := (gNode (x.desc % 2 ^ 64) = s.nodeId ∧ s.memHeld x.stn (gLocal (x.desc % 2 ^ 64)) 1 = true) ∨
      (bitOf x.desc (8 * 8 + 9) = true ∧ s.memHeld x.stn (bitsOf x.desc (0x18 * 8 + 43) (0x18 * 8)) 8 = true)
    (closed ∨ held → exec (.commitGate x.id) s = .next { s with flight := [] }) ∧
    (¬ closed → ¬ held → Calm s → ∀ (st : Nat) (c : Bool) (bad : Option Nat), s.commitCheck x = .fail st c bad → ∃ t, exec (.commitGate x.id) s = .next t ∧
      t.spks = s.spks.filter (fun y => decide (y.id ≠ x.id)) ∧ t.fld (Reg.ldl_STATUS x.q x.stn) = st ∧
      t.fld (Reg.ldl_STEP x.q x.stn) = cdStep x.desc ∧ SameMemory s t ∧
      ∀ b, b < 16384 → t.fld (spByte x.q b) = s.fld (spByte x.q b)) ∧
    (¬ closed → ¬ held → Calm s → ∀ (fp64 : Bool) (v : Machine.Num), s.commitCheck x = .go fp64 v → gNode (x.desc % 2 ^ 64) = s.nodeId →
      let out (i : Nat) : List Byte := commitBytes (bitsOf x.desc (8 * 8 + 3) (8 * 8)) (bitsOf x.desc (8 * 8 + 6) (8 * 8 + 4))
        fp64 v (s.bytes (potAddr x.q (4096 * (x.blk + i))) 4096)
      let at_ (i : Nat) : Nat := gLocal (x.desc % 2 ^ 64) + i * (out 0).length
      (∀ i, i < x.nblk → isHbm (at_ i) = true ∧ s.check (some x.stn) (at_ i) (out i).length true = .ok) →
      at_ x.nblk ≤ 2 ^ 44 →
      ∃ t, exec (.commitGate x.id) s = .next t ∧
        (∃ y ∈ t.spks, y = { x with phase := 1, sent := x.nblk }) ∧
        (∀ b, x.blk ≤ b → b < x.blk + x.nblk → t.fld (spByte x.q b) = s.fld (spByte x.q b) ||| 64) ∧
        ∀ i j, i < x.nblk → j < (out i).length → t.byte (at_ i + j) = (out i).getD j 0)) ∧
  (∀ (s : State) (x : Spk), s.safe = false →
    s.spks.find? (fun y => decide (y.id = x.id ∧ y.op = 1 ∧ y.phase = 1)) = some x → x.q < 4 → x.stn < 8 →
    x.blk + x.nblk ≤ 16384 → CountersFit s → x.ctr < s.ctrNum x.stn → x.blocks ≤ x.sent → s.acked x.id = true →
    ∃ t, exec (.commitDone x.id) s = .next t ∧ t.spks = s.spks.filter (fun y => decide (y.id ≠ x.id)) ∧
      t.fld (Reg.ldl_STATUS x.q x.stn) = 1 ∧ t.fld (Reg.ldl_STEP x.q x.stn) = cdStep x.desc ∧ SameMemory s t ∧
      (∀ b, b < 16384 → t.fld (spByte x.q b) = if x.blk ≤ b ∧ b < x.blk + x.nblk then 0 else s.fld (spByte x.q b)) ∧
      (x.cen = true → CounterTakes s t (s.ctrBase x.stn + x.ctr) ((s.ctrValue (s.ctrBase x.stn + x.ctr) : Int) + 1)) ∧
      (x.cen = false → ∀ j, j < 4096 → t.ctrValue j = s.ctrValue j))

/-! ## The Griddle, the Ladle and the Sieve (R73 to R79, R102, R112, R147 to R149, R153, R307, R308) -/

namespace Sys2Proof.Spec

/-- Station k has an operation that waits for its grant, which no norm job holds, and a weight above 0 (R79, R149). -/
def GrdReady (s : State) (k : Nat) : Prop :=
  k < 8 ∧ (∃ g, s.gops.find? (fun g => decide (g.stn = k) && !g.granted) = some g ∧ s.normHeld g = false) ∧
  0 < s.fld (Reg.sys_GRD_WEIGHT k)

/-- The operations l once p has taken its next wave, or an operation has issued behind it (R61): while p streams its last held tile with PRE set, the first tile of the station's next operation is in
the shadow registers, unless p or the next one is not WS or fills both registers. -/
def preloaded (s : State) (p : Gop) (l : List Gop) : List Gop :=
  match l.find? (fun y => decide (y.stn = p.stn ∧ p.id < y.id)) with
  | none => l
  | some y =>
    if p.granted = true ∧ p.holds (p.nTiles - 1) = true ∧ p.shadow = none ∧ p.f.pre = true ∧ p.f.flow = 0 ∧ p.f.bothRegs = false ∧
      y.f.flow = 0 ∧ y.f.bothRegs = false
    then l.map (fun x => if x.id = y.id
      then { y with shadow := if y.shadow = none ∧ y.held = [] then some (0, s.heldElems y 0) else y.shadow } else x)
    else l

/-- Virtual time at the choice: a station that has just become ready gets no credit below the least of the ready (R79). -/
def levelled (s : State) (floor k : Nat) : Nat := if k ∈ s.justReady then max (s.vtOf k) floor else s.vtOf k

end Sys2Proof.Spec

/-- A GOP that every check accepts and nothing holds issues for the whole launch (R84, R85, R102): it waits for its grant with
its word, generators and drain programs copied, the station becomes ready at the arbiter, and every sequencer moves on without
counting it; behind an operation that streams its last held tile its own first tile may be preloaded (R61). While it must wait,
the state is as it was; an empty program slot refuses it.
The arbiter's choice (R79): with no operation in the array and no chained successor to favour, the ready station of least
virtual time, and of least index among equals, is granted; its oldest waiting operation holds the array, and every other
operation is as it was, but that another station's preload is lost (R61, R80); unless preloaded, its first held tile loads now.
With none ready, or in the safe state, nothing changes.
Points the spec leaves open follow log entry 12. -/
def Obligations.GopIssuesAndGrants : Prop :=
  (∀ (s : State) (n : Stn) (l : Launch) (w : Nat), s.gangWord n 0x10 = some (l, w) →
    let q0 := (quads l.qmask).headD 0
    let ga := s.gen q0 n (opAg (gopF w).a)
    let gb := s.gen q0 n (opAg (gopF w).b)
    (s.programs n (gopF w) = none → ∃ t, exec (.gop n) s = .next t ∧ Stopped s t n l 1) ∧
    (∀ ds, s.programs n (gopF w) = some ds → s.gopOperandsOk n l (gopF w) ga gb (ds.any (fun d => d.f.ovf)) = true →
      (∀ d ∈ ds, s.programOk n (gopF w) gb.yield (ds.any (fun d => d.f.ovf)) d = true) →
      (∀ y ∈ s.gops, y.id < s.nextId) → (∀ p, (s.gopsOf n).getLast? = some p → ∀ y ∈ s.gops, y.stn = n → y.id ≤ p.id) →
      ∀ g : Gop, g = { g with id := s.nextId, stn := n, pc := s.pc n q0, qmask := l.qmask, word := BitVec.ofNat 256 w
                              agA := ga, agB := gb, drains := ds, fenced := l.fenced, granted := false, injected := 0
                              inflight := [], held := [], shadow := none, col := 0, done := 0, parts := [], runs := []
                              rows := [], blocks := [], psnBlocks := [], staged := [], released := 0, reissue := false
                              chained := !(s.gopsOf n).isEmpty, checks := [], taps := [], mxbuf := [], wbuf := []
                              slip := none, poison := false } →
        (s.gopWaits g l.fenced = true → exec (.gop n) s = .next s) ∧
        (s.gopWaits g l.fenced = false → ∃ t, exec (.gop n) s = .next t ∧
          t.gops = (match (s.gopsOf n).getLast? with | some p => preloaded s p (s.gops ++ [g]) | none => s.gops ++ [g]) ∧
          n.val ∈ t.justReady ∧ t.launch n = some { l with gang := none, fenced := false } ∧ t.nextId = s.nextId + 1 ∧
          (∀ q ∈ quads l.qmask, t.pc n q = s.pc n q + 1) ∧
          BitsBut s t ((quads l.qmask).map (fun q => Reg.seq_PC q n)) ∧
          t = { s with regs := t.regs, launches := t.launches, gops := t.gops, justReady := t.justReady, nextId := t.nextId
                       pcOver := t.pcOver }))) ∧
  (∀ (s : State), (∀ g ∈ s.gops, g.granted = false) →
    (s.safe = true ∨ (∀ k, ¬ GrdReady s k) → exec .gopGrant s = .next s) ∧
    (∀ floor, s.safe = false → (∃ k, GrdReady s k ∧ s.vtOf k = floor) → (∀ k, GrdReady s k → floor ≤ s.vtOf k) →
      (∀ g ∈ s.gops, ¬ (g.stn = s.fld (Reg.grd_ARB_CUR 0) ∧ g.chained = true)) →
      ∃ t n g, exec .gopGrant s = .next t ∧ GrdReady s n ∧
        (∀ k, GrdReady s k → levelled s floor n < levelled s floor k ∨ (levelled s floor n = levelled s floor k ∧ n ≤ k)) ∧
        t.fld (Reg.grd_ARB_CUR 0) = n ∧ s.gops.find? (fun x => decide (x.stn = n) && !x.granted) = some g ∧
        t.gops = s.gops.map (fun x =>
          if x.id = g.id then { g with granted := true, shadow := if g.f.flow = 1 ∨ g.shadow.isSome = true ∨ g.held ≠ [] then g.shadow
                                                                  else some (0, s.heldElems g 0) }
          else if x.stn ≠ n then { x with shadow := none } else x) ∧
        (∀ k, GrdReady s k → t.vtOf k = levelled s floor k) ∧ (t.steps.get (fun _ => .idle) n).open_ =
          (s.steps.get (fun _ => .idle) n).open_ ++ [g.id] ∧
        t = { s with regs := t.regs, gops := t.gops, vt := t.vt, justReady := t.justReady, steps := t.steps }))

/-- Waves enter in order (R74): the next wave of the operation at the head of the array carries its number mod 4 as its tag
and the elements of its addresses; its products are counted in the quadrants that perform them (R81), its tile becomes active
and the tile after it loads (R62), and nothing else changes. Of slips that cells or islands see in one acyc, the one of the
lowest island is the operation's first slip: it is counted in its quadrant and raises SCHED_SLIP (R74, R75, R77).
A column result that is not its element's last enters stage 1 of its Ladle (R40, R112): its exact or FP32 value is added
to the element's part, and the next column is due. Nothing is written to memory.
Points the spec leaves open follow log entry 23. -/
def Obligations.WavesAndColumnResults : Prop :=
  (∀ (s : State) (g : Gop), s.gops.find? (fun x => x.granted && !x.allIn) = some g →
    g.canInject (decide (∀ x ∈ s.gops, x.granted = true → x.id = g.id ∨ g.id < x.id)) = true → s.safe = false →
    (∀ q, q < 4 → s.injFires (0x0C + q) 1 = false ∧ s.injFires (4 + q) 0 = false) →
    let k := g.injected
    let at_ := g.waveAt k
    let g1 : Gop := if g.f.flow = 1 ∨ g.holds at_.1 = true then g else
      { g with held := g.held.filter (fun h => g.inflight.any (fun w => decide (w.tile = h.1))) ++
                 [(at_.1, match g.shadow with | some h => if h.1 = at_.1 then h.2 else s.heldElems g at_.1 | none => s.heldElems g at_.1)]
               shadow := if at_.1 + 1 < g.nTiles ∧ g.f.bothRegs = false then some (at_.1 + 1, s.heldElems g (at_.1 + 1)) else none }
    let wave : Wave := ⟨k, at_.1, at_.2.1, at_.2.2, k % 4,
      if g.f.flow = 2 then s.rsElems g k none else s.rowElems g k none, if g.f.flow = 1 then s.osElemsB g k none else []⟩
    let prods : List Fld := g.f.region.map (fun q => Reg.grd_PROD q)
    let g2 : Gop := { g1 with injected := k + 1, inflight := g.inflight ++ [wave] }
    (∃ t, exec (.waveInject [] false) s = .next t ∧ t = { s with regs := t.regs, gops := t.gops } ∧ BitsBut s t prods ∧
      (∀ q ∈ g.f.region, t.fld (Reg.grd_PROD q) = (s.fld (Reg.grd_PROD q) + g.f.hOf q * g.f.wOf q * g.f.lanes) % 2 ^ 64) ∧
      t.gops = preloaded s g2 (s.gops.map (fun x => if x.id = g.id then g2 else x))) ∧
    (∀ (x : Mis) (xs : List Mis), x ∈ xs → (∀ y ∈ xs, y = x ∨ x.island < y.island) → g.slip = none →
      ∃ t, exec (.waveInject xs false) s = .next t ∧ Reported s t (4 + islandQuad x.island.val) 0x01 ∧ SameMemory s t ∧
      t.fld (Reg.grd_SLIP_CNT (islandQuad x.island.val)) = min (s.fld (Reg.grd_SLIP_CNT (islandQuad x.island.val)) + 1) (2 ^ 32 - 1) ∧
      (let g3 : Gop := { g2 with slip := some ⟨if x.entry then 1 else 0, x.island.val, x.exp, x.got, islandQuad x.island.val⟩ }
       t.gops = preloaded s g3 (s.gops.map (fun y => if y.id = g.id then g3 else y))))) ∧
  (∀ (s : State) (g : Gop) (c : Cell), s.gops.find? (fun x => x.due) = some g → g.cell = some c → c.last = false →
    g.extra c = false → s.safe = false → s.integ g.stn = 0 → s.injFires (8 + c.quad) 0 = false → g.col ≠ g.lastCol →
    (∀ w, g.inflight.head? = some w → g.f.flow = 1 ∨ w.tag = g.done % 4) →
    exec (.columnResult false false) s = .next { s with flight := [], gops := s.gops.map (fun x => if x.id = g.id then
      { g with col := g.col + 1
               parts := g.parts.set (fun _ => .empty) (g.partKey c)
                 (g.f.addResult c (g.parts.part (g.partKey c)) g.reissue (g.slip.isSome || g.poison)).1 } else x) })

/-- A staged tile (R153): with an element that overflowed, and not yet re-issued, its results are discarded, its waves are to
enter again with the same numbers, and OVT_CNT goes up in every Ladle of the operation; no byte of memory changes. A tile
re-issued once, or without an overflow, is released when no remote operand is missing.
The operation boundary (R73, R79): once every result is in, with the declared count met and no slip, the operation leaves
the array, its station's virtual time goes up by acyc·256 over its weight, and it counts as complete in every sequencer of
its launch, which a stop does not undo (R87). The time with a wave in flight is added by quadrant (R81). Here no output goes to
another node.
Points the spec leaves open follow log entries 22, 28. -/
def Obligations.TilesAndBoundaries : Prop :=
  (∀ (s : State) (g : Gop), s.gops.find? (fun x => x.tileDue) = some g → s.safe = false →
    (g.reissue = false → (∃ e ∈ g.staged, e.part.flags.of = true) → ∃ t h, exec .tileRelease s = .next t ∧ SameMemory s t ∧
      t.gops = s.gops.map (fun x => if x.id = g.id then h else x) ∧
      h.injected = g.released * g.f.tileWaves ∧ h.done = g.released * g.f.tileWaves ∧ h.staged = [] ∧ h.inflight = [] ∧
      h.reissue = true ∧ h.released = g.released ∧ h.id = g.id ∧ h.held = [] ∧
      h.shadow = (if g.f.flow = 1 then none else some (g.released, s.heldElems g g.released)) ∧
      (∀ q ∈ g.f.ladles, t.fld (Reg.ldl_OVT_CNT q) = min (s.fld (Reg.ldl_OVT_CNT q) + 1) (2 ^ 32 - 1)) ∧
      t = { s with regs := t.regs, gops := t.gops, flight := [] }) ∧
    (g.reissue = true ∨ (∀ e ∈ g.staged, e.part.flags.of = false) →
      (∀ e ∈ g.staged, s.missing g (g.stagedCell e) = []) → ∃ t h, exec .tileRelease s = .next t ∧
      t.gops = s.gops.map (fun x => if x.id = g.id then h else x) ∧
      h.id = g.id ∧ h.staged = [] ∧ h.released = g.released + 1 ∧ h.reissue = false ∧ h.word = g.word ∧ h.stn = g.stn)) ∧
  (∀ (s : State) (g : Gop) (u : Span) (l : Launch), s.gops.find? (fun x => x.granted) = some g → g.atEnd = true → s.safe = false →
    (s.gops.map (fun x => x.id)).Nodup → g.done = g.f.waves → g.injected = g.f.waves → g.slip = none → g.poison = false → g.stn < 8 → s.launch g.stn = some l →
    ((s.fillTrn g).1.flushMx (s.fillTrn g).2).2.remoteBlocks s.nodeId = [] →
    ∃ t, exec (.operationBoundary u) s = .next t ∧ (∀ x ∈ t.gops, x.id ≠ g.id) ∧
      (∀ x ∈ s.gops, x.id ≠ g.id → ∃ y ∈ t.gops, y = { x with shadow := y.shadow }) ∧
      t.vtOf g.stn = s.vtOf g.stn + u.acyc * 256 / max 1 (s.fld (Reg.sys_GRD_WEIGHT g.stn)) ∧
      t.fld (Reg.grd_STN_ACYC 0 g.stn) = (s.fld (Reg.grd_STN_ACYC 0 g.stn) + u.acyc) % 2 ^ 64 ∧
      (∀ q, q < 4 → t.fld (Reg.grd_BUSY_ACYC q) = (s.fld (Reg.grd_BUSY_ACYC q) + u.busy.getD q 0) % 2 ^ 64) ∧
      t.launch g.stn = some l ∧
      ∀ q ∈ quads g.qmask, if s.lastFirst.get (fun _ => 0) g.stn ≤ g.id then Counted s t (Reg.seq_CMD_DONE q g.stn)
        else t.fld (Reg.seq_CMD_DONE q g.stn) = s.fld (Reg.seq_CMD_DONE q g.stn))

/-- On a mismatch the Sieve adds 1 to the station's MISM, fills MCAP, PRED, OBS and TOL if MCAP is not already valid, and
reports SIEVE_MISMATCH; data already written is unchanged (R308). A comparison that agrees is counted in CHECKED and one that
cannot be made in SKIPS; neither is reported.
Points the spec leaves open follow log entry 26. -/
def Obligations.SieveVerdicts : Prop :=
  ∀ (s : State) (v : Verdict) (rest : List Verdict), s.verdicts = v :: rest → v.stn < 8 → s.injFires 0x99 0 = false →
    (s.stepOf v.stn).pend = none →
    ∃ t, exec .sieveVerdict s = .next t ∧ t.verdicts = rest ∧ SameMemory s t ∧ t.gops = s.gops ∧
      (v.skip = false → v.ok = false →
        t.fld (Reg.sve_MISM v.stn) = min (s.fld (Reg.sve_MISM v.stn) + 1) (2 ^ 16 - 1) ∧ Reported s t 0x99 0x0D ∧
        t.flag (Reg.sve_VALID v.stn) = true ∧
        (s.flag (Reg.sve_VALID v.stn) = false → t.fld (Reg.sve_MQ v.stn) = v.quad % 4 ∧ t.fld (Reg.sve_MGRP v.stn) = v.grp % 8 ∧
          t.fld (Reg.sve_MPASS v.stn) = v.pass % 16 ∧ t.fld (Reg.sve_MKIND v.stn) = v.kind % 4 ∧
          t.fld (Reg.sve_MTILE v.stn) = v.tile % 2 ^ 32 ∧ t.fld (Reg.sve_PRED v.stn) = v.p.toNat % 2 ^ 64 ∧
          t.fld (Reg.sve_OBS v.stn) = v.o.toNat % 2 ^ 64 ∧ t.fld (Reg.sve_TOL v.stn) = v.tol % 2 ^ 64) ∧
        (s.flag (Reg.sve_VALID v.stn) = true → t.fld (Reg.sve_PRED v.stn) = s.fld (Reg.sve_PRED v.stn) ∧
          t.fld (Reg.sve_OBS v.stn) = s.fld (Reg.sve_OBS v.stn) ∧ t.fld (Reg.sve_TOL v.stn) = s.fld (Reg.sve_TOL v.stn))) ∧
      (v.skip = false → v.ok = true → t.fld Reg.sve_CHECKED = (s.fld Reg.sve_CHECKED + 1) % 2 ^ 64 ∧
        t.fld (Reg.sve_MISM v.stn) = s.fld (Reg.sve_MISM v.stn) ∧ t.events = s.events) ∧
      (v.skip = true → t.fld Reg.sve_SKIPS = (s.fld Reg.sve_SKIPS + 1) % 2 ^ 64 ∧
        t.fld (Reg.sve_SKIP v.stn) = min (s.fld (Reg.sve_SKIP v.stn) + 1) (2 ^ 16 - 1) ∧ t.events = s.events)

namespace Sys2Proof.Spec

/-- The square of a finite value. -/
def square (x : Machine.Num) : Machine.Num :=
  match x with
  | .fin _ m e => .fin false (m * m) (2 * e)
  | _ => .nan

end Sys2Proof.Spec

/-- GO of RFLUSH and of SCAN takes a job and sets BUSY; a GO while BUSY is set takes none (R147 to R149).
A ratio flush writes one record at RLOG_HEAD's place, counts it, and clears the pair in all four Ladles; one without an
RLOG writes none and still clears the pair (R147). A scan of one open FP64 block adds the square of every element, in order
and each fused, into its accumulator, and changes no block and no byte (R148). -/
def Obligations.NormJobs : Prop :=
  (∀ (s : State) (n : Stn) (q : Quad) (v : Word), HostUp s → v.toNat.testBit 63 = true →
    (s.flag (Reg.ldl_BUSY_1018 0 n) = false → ∃ t j, exec (.rflush .host n v) s = .next t ∧
      t.norms = s.norms ++ [j] ∧ j.flush = true ∧ j.stn = n.val ∧ j.a = bitsOf v.toNat 15 0 ∧ j.b = bitsOf v.toNat 18 16 ∧
      t.flag (Reg.ldl_BUSY_1018 0 n) = true ∧ t = { s with regs := t.regs, norms := t.norms, nextId := s.nextId + 1 }) ∧
    (s.flag (Reg.ldl_BUSY_1018 0 n) = true → ∃ t, exec (.rflush .host n v) s = .next t ∧ t.norms = s.norms ∧ Reported s t 0x08 0x07) ∧
    (s.flag (Reg.ldl_BUSY_1020 q n) = false → ∃ t j, exec (.stockpotScan .host q n v) s = .next t ∧
      t.norms = s.norms ++ [j] ∧ j.flush = false ∧ j.q = q.val ∧ j.stn = n.val ∧ j.a = bitsOf v.toNat 13 0 ∧
      j.b = min 16384 (bitsOf v.toNat 28 14) ∧ j.c = bitsOf v.toNat 32 29 ∧
      t.flag (Reg.ldl_BUSY_1020 q n) = true ∧ t = { s with regs := t.regs, norms := t.norms, nextId := s.nextId + 1 }) ∧
    (s.flag (Reg.ldl_BUSY_1020 q n) = true → ∃ t, exec (.stockpotScan .host q n v) s = .next t ∧ t.norms = s.norms ∧
      Reported s t (8 + q.val) 0x07)) ∧
  (∀ (s : State) (n : Stn) (q : Quad) (j : NormJob), s.safe = false → s.norms = [j] → j.stn = n.val → s.normBusy j = false →
    (j.flush = true → j.b < 8 →
      let base := s.fld (Reg.ldl_RLOG_BASE 0 n) * 4096
      let len := s.fld (Reg.ldl_RLOG_LEN 0 n)
      let a := base + s.fld (Reg.ldl_RLOG_HEAD 0 n) % (128 * len) * 32
      ∃ t, exec (.rflushDone n) s = .next t ∧ t.norms = [] ∧ t.flag (Reg.ldl_BUSY_1018 0 n) = false ∧
        (∀ r, r < 4 → ∀ k, k = 2 * j.b ∨ k = 2 * j.b + 1 → t.fld (Reg.ldl_NORM r n k) = 0 ∧
          t.flag (Reg.ldl_NORM_NV r n k) = false ∧ t.flag (Reg.ldl_NORM_PSN r n k) = false) ∧
        (len ≠ 0 → s.inHbmRange n base (4096 * len) = true → inTagArea a = false → t.bytes a 32 = s.ratioRecord n j.a j.b ∧
          t.fld (Reg.ldl_RLOG_HEAD 0 n) = (s.fld (Reg.ldl_RLOG_HEAD 0 n) + 1) % 2 ^ 32) ∧
        (len = 0 → SameMemory s t ∧ t.fld (Reg.ldl_RLOG_HEAD 0 n) = s.fld (Reg.ldl_RLOG_HEAD 0 n) ∧ Reported s t 0x08 0x07)) ∧
    (j.flush = false → j.q = q.val → j.spn = 0 → j.b = 1 → j.a < 16384 → j.c < 16 →
      (∀ x ∈ s.spks, x.id < j.id → blocksMeet (x.q, x.blk, x.nblk) (q.val, j.a, 1) = false) →
      (∀ g ∈ s.gops, g.id < j.id → ∀ b ∈ g.potIvls s.nodeId, blocksMeet b (q.val, j.a, 1) = false) → inWin (s.potWin n q) (4096 * j.a) 4096 = true →
      bitsOf (s.fld (spByte q j.a)) 5 0 = 0x21 → s.psnIn (potAddr q (4096 * j.a)) 4096 = false →
      s.injFires (8 + q.val) 1 = false →
      let elem (i : Nat) : Machine.Num := Fmt.fp64.decode (s.word (potAddr q (4096 * j.a) + 8 * i) 8)
      (∀ i, i < 512 → ∃ sg m e, elem i = .fin sg m e) →
      ∃ t, exec (.stockpotScanDone q n) s = .next t ∧ t.norms = [] ∧ t.flag (Reg.ldl_BUSY_1020 q n) = false ∧ SameMemory s t ∧
        (∀ b, b < 16384 → t.fld (spByte q b) = s.fld (spByte q b)) ∧
        t.fld (Reg.ldl_NORM q n j.c) = (List.range 512).foldl (fun acc i =>
          (Arith.f64.addNum (Fmt.fp64.decode acc) (square (elem i))).1 % 2 ^ 64) (s.fld (Reg.ldl_NORM q n j.c))))

/-! ## Whisks, Tongs and their descriptors (R106, R160 to R181) -/

namespace Sys2Proof.Spec

/-- The queue of engine e of a kind: Whisk, Tongs, Mortar. -/
def engQueue (s : State) (k : Fin 3) (e : Nat) : List QDesc :=
  match k with
  | 0 => (s.whisk e).queue
  | 1 => (s.tong e).queue
  | 2 => (s.mortar e).queue

/-- The engine has room for a descriptor of station n (R167, R170, R184). -/
def EngRoom (s : State) (k : Fin 3) (n e : Nat) : Prop :=
  match k with
  | 0 => ((s.whisk e).queue.filter (fun d => decide (d.stn = n))).length < 8
  | 1 => (s.tong e).queue.length + (s.tong e).run.length + (s.tong e).parked.length < 64
  | 2 => ((s.mortar e).queue.filter (fun d => decide (d.stn = n))).length < 4

/-- Descriptor d, and nothing else, has joined the queue of engine e; no byte of memory has moved. -/
def Joins (s t : State) (k : Fin 3) (e : Nat) (d : QDesc) : Prop :=
  SameMemory s t ∧ engQueue t k e = engQueue s k e ++ [d] ∧
  ∀ (j : Fin 3) (x : Nat), (j, x) ≠ (k, e) → engQueue t j x = engQueue s j x

/-- Bytes bs stand at local address a, and no other byte but tags of HBM blocks has changed. -/
def Wrote (s t : State) (a : Nat) (bs : List Byte) : Prop :=
  (∀ i, i < bs.length → t.byte (a + i) = bs.getD i 0) ∧
  ∀ x, inTagArea x = false → (x < a ∨ a + bs.length ≤ x) → t.byte x = s.byte x

/-- No byte of [a, a + n) is a tag. -/
def NoTags (a n : Nat) : Prop := ∀ i, i < n → inTagArea (a + i) = false

/-- No byte lies in both intervals. -/
def Apart (a n b m : Nat) : Prop := a + n ≤ b ∨ b + m ≤ a

end Sys2Proof.Spec

/-- DWK, DTG and DMT (R106): a dispatch whose engine does not exist or whose counter is not granted stops the recipe; one
that REL or a full queue holds changes nothing; else the descriptor joins its engine's queue, counts as dispatched, and the
command completes.
Doorbells (R180, R181, R200, R265): written with GO for a granted counter, the descriptor's address, counter and CEN join
the station's queue at the Whisk, Tongs or Mortar, or its collectives. A counter beyond the station's grant leaves every queue
as it was and is recorded.
Points the spec leaves open follow log entry 56. -/
def Obligations.EngineQueues : Prop :=
  (∀ (s : State) (n : Stn) (q : Quad) (w : Nat) (k : Fin 3),
    let cmd : Instr := match k with
      | 0 => .dwk n q
      | 1 => .dtg n q
      | 2 => .dmt n q
    let e := bitsOf w 84 80
    let d : QDesc := ⟨n, bitsOf w 75 32, bitsOf w 96 85, bitOf w 97, none, some s.nextId⟩
    let valid := e < (if k = 0 then 20 else 4) ∧ bitsOf w 96 85 < s.ctrNum n
    let free := (bitOf w 98 = true → s.allDone n q = true) ∧ EngRoom s k n e
    Issuable s n q (0x40 + k.val) w →
    (∀ l, s.launch n = some l → ¬ valid → ∃ t, exec cmd s = .next t ∧ Stopped s t n l 1) ∧
    (valid → ¬ free → exec cmd s = .next s) ∧
    (valid → free → ∃ t, exec cmd s = .next t ∧ Advanced s t n q ∧ Joins s t k e d ∧
      t.dispatches = s.dispatches ++ [(4 * n.val + q.val, d)])) ∧
  (∀ (s : State) (w : Stack) (d : Die) (n : Stn) (v : Word) (k : Fin 3), HostUp s → v.toNat.testBit 63 = true →
    s.flag Reg.sys_BUSY_510 = false → s.inReset n = false → s.safe = false →
    let x : QDesc := ⟨n, bitsOf v.toNat 43 0, bitsOf v.toNat 55 44, bitOf v.toNat 56, none, none⟩
    let e := if k = 0 then w.val else d.val
    let cmd : Instr := match k with
      | 0 => .wskDoorbell .host w n v
      | 1 => .tngDoorbell .host d n v
      | 2 => .mtrDoorbell .host d n v
    let page := (if k = 0 then 0x10 else if k = 1 then 0x24 else 0x28) + e
    (x.ctr < s.ctrNum n → ∃ t, exec cmd s = .next t ∧ Joins s t k e x ∧ t.colls = s.colls) ∧
    (s.ctrNum n ≤ x.ctr → ∃ t, exec cmd s = .next t ∧ (∀ j y, engQueue t j y = engQueue s j y) ∧ SameMemory s t ∧
      Reported s t page 0x07) ∧
    (x.ctr < s.ctrNum n → ∃ t c, exec (.collDoorbell .host n v) s = .next t ∧ t.colls = s.colls ++ [c] ∧ c.q = x ∧
      c.code = 0 ∧ t = { s with colls := t.colls, nextId := s.nextId + 1 }) ∧
    (s.ctrNum n ≤ x.ctr → ∃ t, exec (.collDoorbell .host n v) s = .next t ∧ t.colls = s.colls ∧ Reported s t 0x84 0x07))

/-- A Whisk between chains serves stations round-robin from the one after the last, each in its queue's order (R167): the
chosen descriptor leaves the queue and its chain runs, with BADDESC, BUFFER or RANGE already found where its checks fail. While
its read holds (R221, R224) nothing changes. A
chain that has ended writes STATUS, frees the unit, and counts once: on code 1 in DONE_CNT and in its counter under CEN, else
in FAULT_CNT with ENG_FAULT and the counters unchanged (R164, R168).
Points the spec leaves open follow log entry 32. -/
def Obligations.WhiskChains : Prop :=
  ∀ (s : State) (w : Stack), s.safe = false →
    (∀ d, (s.whisk w).run = none → 0x10 + w.val ∉ s.engResets → (s.whisk w).last < 8 → d ∈ (s.whisk w).queue →
      (∀ x ∈ (s.whisk w).queue, x.stn < 8) →
      (∀ x ∈ (s.whisk w).queue, (d.stn + 7 - (s.whisk w).last) % 8 ≤ (x.stn + 7 - (s.whisk w).last) % 8) →
      (s.whisk w).queue.find? (fun x => decide (x.stn = d.stn)) = some d →
      (s.memHeld d.stn d.addr 160 = true → exec (.chainStart w) s = .next { s with flight := [] }) ∧
      (s.memHeld d.stn d.addr 160 = false →
      ∃ t c, exec (.chainStart w) s = .next t ∧ (t.whisk w).queue = (s.whisk w).queue.erase d ∧ (t.whisk w).last = d.stn ∧
        (t.whisk w).run = some c ∧ c.q = d ∧ c.cur = d.addr ∧ c.links = 0 ∧ c.bufValid = false ∧ SameMemory s t ∧
        t.flag (Reg.wsk_BUSY w) = true ∧ t.fld (Reg.wsk_STN w) = d.stn ∧
        (d.mortar = none → s.check (some d.stn) d.addr 160 true ≠ .ok → c.code = 3) ∧
        (s.check (some d.stn) d.addr 160 true = .ok → c.d = s.word d.addr 160 ∧
          (let f := wskF (s.word d.addr 160)
           4 < f.kind ∨ 3 < f.afmt ∨ 3 < f.ofmt ∨ 3 < f.rnd ∨ f.rows = 0 ∨ (f.kind ≤ 1 ∧ f.cols = 0) ∨ f.xbuf = true ∨
            (f.y = 0 ∧ f.ybuf = false) ∨ (f.kind = 1 ∧ (f.rows % f.bs ≠ 0 ∨ f.cols % f.bs ≠ 0)) → c.code = 2)))) ∧
    ((s.whisk w).run = none → (s.whisk w).queue = [] → exec (.chainStart w) s = .next { s with flight := [] }) ∧
    (∀ c, (s.whisk w).run = some c → c.code ≠ 0 → s.acked c.id = true → c.q.mortar = none → CountersFit s → c.q.stn < 8 →
      c.q.ctr < s.ctrNum c.q.stn → ∃ t, exec (.chainEnd w) s = .next t ∧ (t.whisk w).run = none ∧
      (t.whisk w).queue = (s.whisk w).queue ∧ t.flag (Reg.wsk_BUSY w) = false ∧
      (c.writes = true → NoTags (c.cur + 0x88) 8 → Wrote s t (c.cur + 0x88) (leBytes c.status 8)) ∧
      (c.writes = false → ∀ a, t.byte a = s.byte a) ∧
      (∀ j, s.dispatches = [(j, c.q)] → t.dispatches = []) ∧
      (c.code = 1 → t.fld (Reg.wsk_DONE_CNT w) = min (s.fld (Reg.wsk_DONE_CNT w) + 1) (2 ^ 32 - 1) ∧
        (c.q.cen = true → CounterTakes s t (s.ctrBase c.q.stn + c.q.ctr) ((s.ctrValue (s.ctrBase c.q.stn + c.q.ctr) : Int) + 1)) ∧
        (c.q.cen = false → ∀ j, j < 4096 → t.ctrValue j = s.ctrValue j)) ∧
      (c.code ≠ 1 → t.fld (Reg.wsk_FAULT_CNT w) = min (s.fld (Reg.wsk_FAULT_CNT w) + 1) (2 ^ 32 - 1) ∧
        Reported s t (0x10 + w.val) 0x06 ∧ ∀ j, j < 4096 → t.ctrValue j = s.ctrValue j))

namespace Sys2Proof.Spec

/-- Link f of chain c runs on Whisk w, its matrix and vectors lie in this module, and no access to them holds (R221, R224). -/
def WskRuns (s : State) (w : Stack) (c : Chain) (f : WskF) (k : Nat) : Prop :=
  s.safe = false ∧ (s.whisk w).run = some c ∧ c.code = 0 ∧ f = wskF c.d ∧ f.kind = k ∧
  f.afmt < 4 ∧ f.ofmt < 4 ∧ (f.xbuf = true → c.buf.length = f.xlen) ∧
  let rs := f.vectors ++ f.outputs ++ (if k = 0 then f.rowRanges else [])
  (∀ r ∈ rs, gNode r.1 = s.nodeId) ∧ s.anyHeld c.q.stn rs = false

/-- The link has ended OK with its elements done. Without LINK the chain waits for its end with that STATUS; with it, the
chain has reached the next descriptor, its y kept in the vector buffer under YBUF (R164). -/
def WskLinkDone (s t : State) (w : Stack) (c : Chain) (f : WskF) (done : Nat) : Prop :=
  ∃ x : Chain, (t.whisk w).run = some x ∧ (t.whisk w).queue = (s.whisk w).queue ∧ x.q = c.q ∧ x.links = c.links + 1 ∧ x.id = c.id ∧
    if f.link then x.cur = f.next ∧ x.bufValid = f.ybuf ∧ x.buf.length = (if f.ybuf then f.ylen else 0)
    else x.cur = c.cur ∧ x.code = 1 ∧ x.writes = true ∧ x.bufValid = false ∧ x.status % 16 = 1 ∧
      x.status / 2 ^ 32 = min done (2 ^ 32 - 1)

/-- The elements stand at Y, in their format; nothing else but STATUS of the link that went on. -/
def WskPuts (s t : State) (f : WskF) (wid : Nat) (ys : List Nat) : Prop :=
  f.y ≠ 0 → f.link = false → NoTags (gLocal f.y) (ys.length * (wid / 8)) →
    Wrote s t (gLocal f.y) (ys.flatMap (fun v => leBytes v (wid / 8)))

/-- α·s + β·y_old, or α·s alone, in the accumulator format, and its conversion to OFMT (R163, R45). -/
def wskY (s : State) (c : Chain) (f : WskF) (i : Nat) (sum : Nat) : Nat :=
  let ar := f.ar
  let p := (ar.mulNum (f.coef f.alpha).1 (ar.fmt.decode sum)).1
  let old := ((s.wskOld c f).getD i (.fin false 0 0, false)).1
  let v := if f.kind = 2 ∨ (f.kind ≤ 1 ∧ f.acc = true) then (ar.add p (ar.mulNum (f.coef f.beta).1 old).1).1 else p
  (f.fo.convert (rndOf f.rnd 0) f.sat (ar.fmt.decode v)).1

end Sys2Proof.Spec

/-- The kinds of a Whisk (R163): GEMV takes each row of A with x through the fixed tree, and with TRANS adds each product to
its column in increasing row; BSRMV takes the blocks of a block row in index-array order, and ends IDX_RANGE where a block
column lies outside; AXPBY and DOT as their formulas. y passes α, β and OFMT. The link ends with its rows, or columns, done.
ADAMW (R165): each line in FP32, in the order written; m′ and v′ go back over m and v, and u to Y in OFMT.
Points the spec leaves open follow log entries 31, 33. -/
def Obligations.WhiskKinds : Prop :=
  (∀ (s : State) (w : Stack) (c : Chain) (f : WskF),
    let xs := (s.wskX c f).map Prod.fst
    let zero : Machine.Num := .fin false 0 0
    (WskRuns s w c f 0 → ∀ glitch : Bool, ∃ t, exec (.gemv w glitch) s = .next t ∧ WskLinkDone s t w c f f.ylen ∧
      t.fld (Reg.wsk_A_BYTES w) = (s.fld (Reg.wsk_A_BYTES w) + f.rows * f.cols * f.eb) % 2 ^ 64 ∧
      (let row (i : Nat) : List Machine.Num := (s.vec c.id (f.a + i * f.lda) f.fa f.cols).map Prod.fst
       WskPuts s t f f.fo.width ((List.range f.ylen).map (fun j => wskY s c f j
        (if f.trans then (List.range f.rows).foldl (fun acc i =>
            (f.ar.add acc (f.ar.mulNum ((row i).getD j zero) (xs.getD i zero)).1).1) 0
         else (f.row (if f.wide then 256 else 1024) (0, .none) (row j) xs).1))))) ∧
    (WskRuns s w c f 1 → f.trans = false →
      (s.bsrCount c f ≠ 0 → s.gOk c.q.stn f.aux2 (4 * s.bsrCount c f) false = true ∧ gNode f.aux2 = s.nodeId ∧
        s.memHeld c.q.stn (gLocal f.aux2) (4 * s.bsrCount c f) = false) →
      (∀ b ∈ s.bsrBlocks c f, s.gOk c.q.stn b.2.2.1 (f.bs * f.bs * f.eb) false = true ∧ gNode b.2.2.1 = s.nodeId ∧
        s.memHeld c.q.stn (gLocal b.2.2.1) (f.bs * f.bs * f.eb) = false) →
      ((∃ b ∈ s.bsrBlocks c f, f.cols / f.bs ≤ b.2.1) → ∃ t x, exec (.bsrmv w) s = .next t ∧ (t.whisk w).run = some x ∧
        x.code = 5 ∧ x.q = c.q ∧ x.links = c.links ∧ SameMemory s t) ∧
      ((∀ b ∈ s.bsrBlocks c f, b.2.1 < f.cols / f.bs) → ∃ t, exec (.bsrmv w) s = .next t ∧ WskLinkDone s t w c f f.rows ∧
        t.fld (Reg.wsk_A_BYTES w) = (s.fld (Reg.wsk_A_BYTES w) + (s.bsrBlocks c f).length * (f.bs * f.bs * f.eb)) % 2 ^ 64 ∧
        WskPuts s t f f.fo.width ((List.range f.rows).map (fun i => wskY s c f i
          (((s.bsrBlocks c f).filter (fun b => decide (b.1 = i / f.bs))).foldl (fun acc b =>
            f.row f.bs acc ((s.vec c.id (b.2.2.1 + i % f.bs * f.bs * f.eb) f.fa f.bs).map Prod.fst)
              ((xs.drop (b.2.1 * f.bs)).take f.bs)) (0, Flags.none)).1)))) ∧
    (WskRuns s w c f 2 → ∃ t, exec (.axpby w) s = .next t ∧ WskLinkDone s t w c f f.rows ∧
      WskPuts s t f f.fo.width (xs.zipIdx.map (fun e => wskY s c f e.2 (f.ar.fmt.convert .ne false e.1).1))) ∧
    (WskRuns s w c f 3 → ∃ t, exec (.dot w) s = .next t ∧ WskLinkDone s t w c f f.rows ∧
      WskPuts s t f 64 [(f.row 256 (0, .none) xs ((s.vec c.id f.aux1 f.fa f.rows).map Prod.fst)).1])) ∧
  (∀ (s : State) (w : Stack) (c : Chain) (f : WskF), WskRuns s w c f 4 → f.link = false → f.y ≠ 0 →
    let bits (x : Machine.Num × Bool) : Nat := (Fmt.fp32.convert .ne false x.1).1
    let at_ (a i : Nat) : Nat := bits ((s.vec c.id a .fp32 f.rows).getD i (.fin false 0 0, false))
    let mul (x y : Nat) : Nat := (Arith.f32.mul x y).1
    let add (x y : Nat) : Nat := (Arith.f32.add x y).1
    let g (i : Nat) : Nat := bits ((s.wskX c f).getD i (.fin false 0 0, false))
    let m' (i : Nat) : Nat := add (mul f.b1 (at_ f.aux1 i)) (mul f.c1 (g i))
    let v' (i : Nat) : Nat := add (mul f.b2 (at_ f.aux2 i)) (mul f.c2 (mul (g i) (g i)))
    let d (i : Nat) : Nat := add (Arith.f32.sqrt (mul (v' i) f.bc2)).1 f.eps
    let u (i : Nat) : Nat := mul (add (Arith.f32.div (mul (m' i) f.bc1) (d i)).1 (mul f.wd (at_ f.aux3 i)))
      (Fmt.fp32.convert .ne false (Fmt.fp64.decode f.alpha)).1
    let o := f.fo.width / 8
    NoTags (gLocal f.aux1) (4 * f.rows) → NoTags (gLocal f.aux2) (4 * f.rows) → NoTags (gLocal f.y) (o * f.rows) →
    Apart (gLocal f.aux1) (4 * f.rows) (gLocal f.aux2) (4 * f.rows) → Apart (gLocal f.aux1) (4 * f.rows) (gLocal f.y) (o * f.rows) →
    Apart (gLocal f.aux2) (4 * f.rows) (gLocal f.y) (o * f.rows) →
    ∃ t, exec (.adamw w) s = .next t ∧ WskLinkDone s t w c f f.rows ∧
      (∀ i, i < f.rows → t.word (gLocal f.aux1 + 4 * i) 4 = m' i ∧ t.word (gLocal f.aux2 + 4 * i) 4 = v' i ∧
        t.word (gLocal f.y + o * i) o = (f.fo.convert (rndOf f.rnd 0) f.sat (Fmt.fp32.decode (u i))).1) ∧
      ∀ x, inTagArea x = false → (x < gLocal f.aux1 ∨ gLocal f.aux1 + 4 * f.rows ≤ x) →
        (x < gLocal f.aux2 ∨ gLocal f.aux2 + 4 * f.rows ≤ x) → (x < gLocal f.y ∨ gLocal f.y + o * f.rows ≤ x) → t.byte x = s.byte x)

namespace Sys2Proof.Spec

/-- Tongs d runs descriptor x of kind k: its oldest accepted descriptor without an outcome. -/
def TngRuns (s : State) (d : Die) (x : TDesc) (f : TngF) (k : Nat) : Prop :=
  s.safe = false ∧ 0x24 + d.val ∉ s.engResets ∧ (s.tong d).run.find? (fun y => decide (y.code = 0)) = some x ∧
  (((s.tong d).run.map (fun y => y.seq)).Nodup) ∧ x.kind = k ∧ f = tngF x.d

/-- Ranges with bytes in them are the station's own to read, or to write, in this module, and no access to them holds (R221,
R224). -/
def OwnRanges (s : State) (n : Nat) (write : Bool) (rs : List (Nat × Nat)) : Prop :=
  ∀ r ∈ rs, r.2 ≠ 0 → gNode r.1 = s.nodeId ∧ s.gOk n r.1 r.2 write = true ∧ s.memHeld n (gLocal r.1) r.2 = false

/-- n bytes at a as an engine reads them: a Mortar's working set shows free values (log entry 43). -/
def seenWord (s : State) (a n : Nat) : Nat := leNat (s.seen a n)

/-- Descriptor x has its outcome, waits for its end, and its lookups are counted; every other one is as it was. -/
def TngOutcome (s t : State) (d : Die) (x : TDesc) (code lookups : Nat) : Prop :=
  t.fld (Reg.tng_LOOKUPS d) = (s.fld (Reg.tng_LOOKUPS d) + lookups) % 2 ^ 64 ∧
  (t.tong d).queue = (s.tong d).queue ∧ (t.tong d).parked = (s.tong d).parked ∧
  ∃ y : TDesc, y = { x with code := code, flags := y.flags, psn := y.psn, done := lookups } ∧
    (t.tong d).run = (s.tong d).run.map (fun z => if z.seq = x.seq then y else z)

/-- Index i of a gather or scatter. -/
def tngIdxAt (s : State) (f : TngF) (i : Nat) : Nat :=
  seenWord s (gLocal f.idx + (if f.idx64 then 8 else 4) * i) (if f.idx64 then 8 else 4)

/-- Row r of the bound buffer stands at this address; every row is the station's to read, or to write, and no access holds. -/
def rowAddr (s : State) (x : TDesc) (f : TngF) (r : Nat) : Nat :=
  (if x.bound = some true then s.fld (Reg.tng_BASE_B 0 x.q.stn f.table) else s.fld (Reg.tng_BASE_A 0 x.q.stn f.table)) +
    r * s.fld (Reg.tng_ROWB 0 x.q.stn f.table)
def RowsFit (s : State) (x : TDesc) (f : TngF) (write : Bool) : Prop :=
  ∀ r, r < s.fld (Reg.tng_NROWS 0 x.q.stn f.table) →
    s.gOk x.q.stn (s.nodeId * 2 ^ 44 + rowAddr s x f r) (s.fld (Reg.tng_ROWB 0 x.q.stn f.table)) write = true ∧
    s.memHeld x.q.stn (rowAddr s x f r) (s.fld (Reg.tng_ROWB 0 x.q.stn f.table)) = false

/-- No byte of the table's bound buffer lies in [a, a + n), and none is a tag. -/
def TableApart (s : State) (x : TDesc) (f : TngF) (a n : Nat) : Prop :=
  Apart (rowAddr s x f 0) (s.fld (Reg.tng_NROWS 0 x.q.stn f.table) * s.fld (Reg.tng_ROWB 0 x.q.stn f.table)) a n ∧
  NoTags (rowAddr s x f 0) (s.fld (Reg.tng_NROWS 0 x.q.stn f.table) * s.fld (Reg.tng_ROWB 0 x.q.stn f.table))

/-- Coordinates of point i, clamped to [0, 1] (R174), when none is a NaN. -/
def hashPoint (s : State) (f : TngF) (i : Nat) : List Nat :=
  (List.range 3).map (fun j => (clamp01 (seenWord s (gLocal f.idx + 12 * i + 4 * j) 4) 0).1)
def hashRes (s : State) (f : TngF) (l : Nat) : Nat := seenWord s (gLocal f.res + 4 * l) 4

/-- The points, resolutions and rows of a hash descriptor let it run. -/
def HashRuns (s : State) (x : TDesc) (f : TngF) (write : Bool) : Prop :=
  (∀ i j, i < f.n → j < 3 → Fmt.fp32.decode (seenWord s (gLocal f.idx + 12 * i + 4 * j) 4) ≠ .nan) ∧
  (∀ l, l < f.levels → 1 ≤ hashRes s f l ∧ hashRes s f l < 2 ^ 31) ∧ RowsFit s x f write ∧
  f.levels * 2 ^ f.log2t ≤ s.fld (Reg.tng_NROWS 0 x.q.stn f.table) ∧
  ∀ i l, i < f.n → l < f.levels → ∀ e ∈ corners (hashPoint s f i) (hashRes s f l) f.log2t, e.idx < 2 ^ f.log2t

end Sys2Proof.Spec

/-- SCATTER (R173): every element of the table takes its additions in increasing i, each by EFMT's rule, and an index at or
above NROWS adds nothing and ends with IDX_RANGE. HASH_BWD (R174) adds weight·dout of every point, level and corner, in that
order, each product rounded in FP32. Every byte outside the bound buffer stays.
Points the spec leaves open follow log entries 35, 36, 37. -/
def Obligations.TongsAdditions : Prop :=
  ∀ (s : State) (d : Die) (x : TDesc) (f : TngF),
    let n := x.q.stn
    let rowb := s.fld (Reg.tng_ROWB 0 n f.table)
    let nrows := s.fld (Reg.tng_NROWS 0 n f.table)
    let w := efBytes f.efmt
    let k := rowb / w
    let table := rowAddr s x f 0
    let sum (acc v : Nat) : Nat := ((scatterAdd f.efmt f.fxsh acc v).map Prod.fst).getD acc
    let outside (t : State) : Prop := ∀ a, inTagArea a = false → (a < table ∨ table + nrows * rowb ≤ a) → t.byte a = s.byte a
    rowb = k * w → f.efmt < 5 →
    (TngRuns s d x f 1 →
      OwnRanges s n false [(f.idx, (if f.idx64 then 8 else 4) * f.n), (f.val, k * w * f.n)] → RowsFit s x f true →
      TableApart s x f (gLocal f.val) (k * w * f.n) →
      let v (i j : Nat) : Nat := seenWord s (gLocal f.val + w * (k * i + j)) w
      (∀ i j acc, i < f.n → j < k → (scatterAdd f.efmt f.fxsh acc (v i j)).isSome = true) →
      ∃ t, exec (.scatter d) s = .next t ∧ outside t ∧
        TngOutcome s t d x (if ∃ i, i < f.n ∧ nrows ≤ tngIdxAt s f i then 5 else 1) (f.n * ((rowb + 31) / 32)) ∧
        ∀ r j, r < nrows → j < k → t.word (rowAddr s x f r + w * j) w =
          (List.range f.n).foldl (fun acc i => if tngIdxAt s f i = r then sum acc (v i j) else acc) (s.word (rowAddr s x f r + w * j) w)) ∧
    (TngRuns s d x f 3 → k = f.feat → f.efmt ≠ 2 → f.efmt ≠ 3 →
      OwnRanges s n false [(f.idx, 12 * f.n), (f.res, 4 * f.levels), (f.val, 4 * (f.levels * f.feat) * f.n)] → HashRuns s x f true →
      TableApart s x f (gLocal f.val) (4 * (f.levels * f.feat) * f.n) →
      let v (i l j : Nat) (wt : Nat) : Nat :=
        let p := (Arith.f32.mul wt (seenWord s (gLocal f.val + 4 * (f.levels * f.feat * i + f.feat * l + j)) 4)).1
        if f.efmt = 0 then p else (Fmt.fp64.convert .ne false (Fmt.fp32.decode p)).1
      (∀ i l j acc, i < f.n → l < f.levels → j < f.feat → ∀ e ∈ corners (hashPoint s f i) (hashRes s f l) f.log2t,
        (scatterAdd f.efmt f.fxsh acc (v i l j e.wt)).isSome = true) →
      ∃ t, exec (.hashBwd d) s = .next t ∧ outside t ∧ TngOutcome s t d x 1 (8 * f.levels * f.n) ∧
        ∀ l r j, l < f.levels → r < 2 ^ f.log2t → j < f.feat →
          t.word (rowAddr s x f (l * 2 ^ f.log2t + r) + w * j) w =
            (List.range f.n).foldl (fun acc i => (corners (hashPoint s f i) (hashRes s f l) f.log2t).foldl (fun acc e =>
              if e.idx = r then sum acc (v i l j e.wt) else acc) acc) (s.word (rowAddr s x f (l * 2 ^ f.log2t + r) + w * j) w))

/-- GATHER and TRANSPOSE (R172): row IDX[i] of the bound buffer is copied to VAL + i·ROWB, and an index at or above NROWS gives
a zero row marked with poison and IDX_RANGE; element (i, j) of the source goes to element (j, i) of the destination. A range
outside the station's resources ends with RANGE and moves nothing (R168).
HASH_FWD (R174): each output adds weight·feature over the eight corners of its level, in increasing corner, in FP32.
Points the spec leaves open follow log entries 36, 37. -/
def Obligations.TongsReads : Prop :=
  (∀ (s : State) (d : Die) (x : TDesc) (f : TngF),
    let n := x.q.stn
    let rowb := s.fld (Reg.tng_ROWB 0 n f.table)
    let nrows := s.fld (Reg.tng_NROWS 0 n f.table)
    let reads : List (Nat × Nat) := [(f.idx, (if f.idx64 then 8 else 4) * f.n)]
    (TngRuns s d x f 0 → OwnRanges s n false reads → OwnRanges s n true [(f.val, rowb * f.n)] → RowsFit s x f false → NoTags (gLocal f.val) (rowb * f.n) →
      ∃ t, exec (.gather d) s = .next t ∧
        TngOutcome s t d x (if ∃ i, i < f.n ∧ nrows ≤ tngIdxAt s f i then 5 else 1) (f.n * ((rowb + 31) / 32)) ∧
        Wrote s t (gLocal f.val) ((List.range f.n).flatMap (fun i =>
          if tngIdxAt s f i < nrows then s.seen (rowAddr s x f (tngIdxAt s f i)) rowb else List.replicate rowb 0)) ∧
        ∀ i, i < f.n → nrows ≤ tngIdxAt s f i → ∀ b, b < rowb → poisoned t (gLocal f.val + rowb * i + b) = true) ∧
    (∀ k : Fin 2, TngRuns s d x f (if k = 0 then 0 else 2) → f.n ≠ 0 → s.gOk n f.idx ((if k = 0 then (if f.idx64 then 8 else 4) else 12) * f.n) false = false →
      ∃ t, exec (if k = 0 then .gather d else .hashFwd d) s = .next t ∧ TngOutcome s t d x 3 0 ∧ SameMemory s t) ∧
    (let e := 2 ^ f.esz
     let src (i j : Nat) : Nat := gLocal f.idx + i * f.spitch + e * j
     let dst (j i : Nat) : Nat := gLocal f.val + j * f.dpitch + e * i
     TngRuns s d x f 4 →
      OwnRanges s n false ((List.range f.rr).map (fun i => (f.idx + i * f.spitch, e * f.cc))) →
      OwnRanges s n true ((List.range f.cc).map (fun j => (f.val + j * f.dpitch, e * f.rr))) →
      gNode f.idx = s.nodeId → gNode f.val = s.nodeId → (∀ j, j < f.cc → NoTags (dst j 0) (e * f.rr)) →
      (∀ j k, j < f.cc → k < f.cc → j ≠ k → Apart (dst j 0) (e * f.rr) (dst k 0) (e * f.rr)) →
      ∃ t, exec (.transpose d) s = .next t ∧ TngOutcome s t d x 1 (f.rr * f.cc * e / 32) ∧
        (∀ i j b, i < f.rr → j < f.cc → b < e → t.byte (dst j i + b) = (s.seen (src i j) e).getD b 0) ∧
        ∀ a, inTagArea a = false → (∀ j, j < f.cc → a < dst j 0 ∨ dst j 0 + e * f.rr ≤ a) → t.byte a = s.byte a)) ∧
  (∀ (s : State) (d : Die) (x : TDesc) (f : TngF), TngRuns s d x f 2 →
    let lf := f.levels * f.feat
    OwnRanges s x.q.stn false [(f.idx, 12 * f.n), (f.res, 4 * f.levels)] → OwnRanges s x.q.stn true [(f.val, 4 * lf * f.n)] →
    HashRuns s x f false →
    NoTags (gLocal f.val) (4 * lf * f.n) →
    let ef := if f.efmt = 5 then Fmt.bf16 else Fmt.fp16
    let entry (l j : Nat) (e : Corner) : Nat := (Arith.f32.mulNum (Fmt.fp32.decode e.wt)
      (ef.decode (seenWord s (rowAddr s x f (l * 2 ^ f.log2t + e.idx) + 2 * j) 2))).1
    ∃ t, exec (.hashFwd d) s = .next t ∧ TngOutcome s t d x 1 (8 * f.levels * f.n) ∧
      Wrote s t (gLocal f.val) ((List.range f.n).flatMap (fun i => (List.range f.levels).flatMap (fun l =>
        (List.range f.feat).flatMap (fun j => leBytes ((corners (hashPoint s f i) (hashRes s f l) f.log2t).foldl (fun acc e =>
          (Arith.f32.add acc (entry l j e)).1) 0) 4)))))

/-- The end of a Tongs descriptor (R168): STATUS stands in the descriptor, it holds its stream no longer, and on code 1 its
counter goes up under CEN; on another code the counters stay and ENG_FAULT is reported. A parked descriptor whose TMO expires
takes code TIMEOUT and frees its watch (R178).
The commands of a table slot (R177). BUILD in IDLE enters BUILD_PEND, and BUILDING at once when no descriptor is bound to
the shadow; DONE in BUILDING with no BG descriptor enters COMPLETE and sets ECTR to EPOCH + 1; SWAP sets SWAP_PEND, and with no
recipe and COMPLETE exchanges the buffers, raises EPOCH and returns to IDLE; ABANDON before the swap returns to IDLE. In any
other state BUILD, DONE and ABANDON are dropped and recorded.
Points the spec leaves open follow log entry 38. -/
def Obligations.TongsEndsAndTables : Prop :=
  (∀ (s : State) (d : Die) (i : Nat) (x : TDesc), s.safe = false → CountersFit s →
    ((s.tong d).run[i]? = some x →
      (x.kind = 4 ∨ (s.fld (Reg.tng_STATE 0 x.q.stn x.slot) ≠ 1 ∧ ∀ e ∈ s.tdones, e.1 ≠ 16 * x.q.stn + x.slot)) → x.code ≠ 0 → s.acked x.seq = true → ((s.tong d).run.map (fun y => y.seq)).Nodup →
      x.q.stn < 8 → x.q.ctr < s.ctrNum x.q.stn →
      ∃ t, exec (.tongsDone d i) s = .next t ∧ (t.tong d).run = (s.tong d).run.filter (fun y => decide (y.seq ≠ x.seq)) ∧
        (t.tong d).queue = (s.tong d).queue ∧ (t.tong d).parked = (s.tong d).parked ∧
        (s.check (some x.q.stn) x.q.addr 64 true = .ok → NoTags (x.q.addr + 0x38) 8 →
          Wrote s t (x.q.addr + 0x38) (leBytes (statusWord x.code x.flags x.psn x.done) 8)) ∧
        (x.code = 1 → x.q.cen = true →
          CounterTakes s t (s.ctrBase x.q.stn + x.q.ctr) ((s.ctrValue (s.ctrBase x.q.stn + x.q.ctr) : Int) + 1)) ∧
        (x.code ≠ 1 → Reported s t (0x24 + d.val) 0x06 ∧ ∀ j, j < 4096 → t.ctrValue j = s.ctrValue j) ∧
        (∀ j, s.dispatches = [(j, x.q)] → t.dispatches = [])) ∧
    ((s.tong d).parked[i]? = some x → (tngF x.d).tmo ≠ 0 → ∃ t, exec (.parkTmo d i) s = .next t ∧
      (t.tong d).parked = (s.tong d).parked.erase x ∧ (t.tong d).run = (s.tong d).run ++ [{ x with code := 9 }] ∧
      (∀ e ∈ t.watches, ∀ y, e.2 = some y → y.target ≠ .tongs d x.seq) ∧ SameMemory s t)) ∧
  (∀ (s : State) (n : Stn) (t : Fin 16), HostUp s →
    let st := s.fld (Reg.tng_STATE 0 n t)
    let same (u : State) : Prop := u.fld (Reg.tng_CUR 0 n t) = s.fld (Reg.tng_CUR 0 n t) ∧
      u.fld (Reg.tng_EPOCH 0 n t) = s.fld (Reg.tng_EPOCH 0 n t)
    let idle := ∀ d < 4, ∀ x ∈ (s.tong d).run, ¬ (x.q.stn = n.val ∧ x.slot = t.val ∧ x.kind ≠ 4)
    (st = 0 → s.tdones = [] → ∃ u, exec (.tableBuild .host n t) s = .next u ∧ same u ∧ SameMemory s u ∧
      (idle → u.fld (Reg.tng_STATE 0 n t) = 2) ∧
      ((∃ d < 4, ∃ x ∈ (s.tong d).run, x.q.stn = n.val ∧ x.slot = t.val ∧ x.kind ≠ 4 ∧
        x.bound = some (decide (s.fld (Reg.tng_CUR 0 n t) = 0))) → u.fld (Reg.tng_STATE 0 n t) = 1)) ∧
    (let c := s.fld (Reg.tng_ECTR 0 n t)
     let e := s.fld (Reg.tng_EPOCH 0 n t) + 1
     st = 2 → s.tdones = [] → idle → c < s.ctrNum n → CountersFit s → s.flag (Reg.tng_SWAP_PEND 0 n t) = false →
      ∃ u, exec (.tableDone .host n t) s = .next u ∧ same u ∧ u.fld (Reg.tng_STATE 0 n t) = 3 ∧
        CounterTakes s u (s.ctrBase n + c) (e : Int) ∧ SameMemory s u) ∧
    ((s.launch n).isSome = true → ∃ u, exec (.tableSwap .host n t) s = .next u ∧ same u ∧
      u.flag (Reg.tng_SWAP_PEND 0 n t) = true ∧ u.fld (Reg.tng_STATE 0 n t) = st ∧ BitsBut s u [Reg.tng_SWAP_PEND 0 n t]) ∧
    (s.launch n = none → st = 3 → ∃ u, exec (.tableSwap .host n t) s = .next u ∧
      u.flag (Reg.tng_SWAP_PEND 0 n t) = false ∧ u.fld (Reg.tng_STATE 0 n t) = 0 ∧
      u.fld (Reg.tng_CUR 0 n t) = 1 - s.fld (Reg.tng_CUR 0 n t) ∧
      u.fld (Reg.tng_EPOCH 0 n t) = (s.fld (Reg.tng_EPOCH 0 n t) + 1) % 2 ^ 32) ∧
    (st ≠ 0 → ∃ u, exec (.tableAbandon .host n t) s = .next u ∧ same u ∧ u.fld (Reg.tng_STATE 0 n t) = 0 ∧
      ∀ e ∈ u.tdones, e.1 ≠ 16 * n.val + t.val) ∧
    (∀ k : Fin 3, (k = 0 → st ≠ 0) → (k = 1 → st ≠ 2) → (k = 2 → st = 0) →
      ∃ u, exec (match k with
        | 0 => .tableBuild .host n t
        | 1 => .tableDone .host n t
        | 2 => .tableAbandon .host n t) s = .next u ∧ same u ∧ u.fld (Reg.tng_STATE 0 n t) = st ∧ Reported s u 0x24 0x07))

/-! ## Mortars (R182 to R198) -/

namespace Sys2Proof.Spec

/-- Descriptor d is the next in round-robin order: the first of its station, whose station follows the one served last before
every other that waits (R167, R184). -/
def NextInTurn (queue : List QDesc) (last : Nat) (d : QDesc) : Prop :=
  last < 8 ∧ d ∈ queue ∧ (∀ x ∈ queue, x.stn < 8 ∧ (d.stn + 7 - last) % 8 ≤ (x.stn + 7 - last) % 8) ∧
  queue.find? (fun x => decide (x.stn = d.stn)) = some d

/-- Mortar d is free and takes q. -/
def MtrTakes (s : State) (d : Die) (q : QDesc) : Prop :=
  s.safe = false ∧ (s.mortar d).run = none ∧ 0x28 + d.val ∉ s.engResets ∧ NextInTurn (s.mortar d).queue (s.mortar d).last q

/-- Mortar d runs solve x now. -/
def MtrRuns (s : State) (d : Die) (x : Solve) (p : MPhase) : Prop :=
  s.safe = false ∧ (s.mortar d).run = some x ∧ x.phase = p

/-- The solve has stopped with a code, and its result is still to be written. -/
def MtrStopped (t : State) (d : Die) (x : Solve) (code : Nat) : Prop :=
  ∃ y, (t.mortar d).run = some y ∧ y.phase = .writing ∧ y.code = code ∧ y.q = x.q ∧ y.d = x.d ∧ y.best = x.best ∧ y.written = x.written

/-- Every range lies in this module. -/
def AllHere (s : State) (rs : List (Nat × Nat)) : Prop := ∀ r ∈ rs, gNode r.1 = s.nodeId

/-- No access of station n can hold: no flush of its cache runs, and its share is no ceiling at any stack (R221, R224). -/
def Unheld (s : State) (n : Nat) : Prop := s.flushing n = false ∧ ∀ k, k < 20 → s.flag (Reg.mc_CAP k n) = false

/-- No range begins in a Mortar's window, which its own Mortar does not read while it runs (R183). -/
def NotInMortar (rs : List (Nat × Nat)) : Prop := ∀ r ∈ rs, ∀ e, regionOf (gLocal r.1) ≠ .mortar e

/-- Bytes of FP64 words. -/
def wordBytes (ws : List Nat) : List Byte := ws.flatMap (fun v => leBytes v 8)

end Sys2Proof.Spec

/-- SOLVE (R183 to R186, R191): the next descriptor in turn leaves the queue, once nothing holds its read. Outside the station's range it ends with RANGE;
for a station that does not own local memory the memory is cleared first, and at the end of the clear it reads 0 without
poison, FSTN is the station and FVALID is clear; a descriptor that breaks a rule of R186 ends with BADDESC. LINEAR takes J, r
and X0 as they stand and enters its linear phase; GN and LM write the start point to XT and ask for their first
evaluation (R189).
Points the spec leaves open follow log entry 41. -/
def Obligations.MortarStarts : Prop :=
  ∀ (s : State) (d : Die) (q : QDesc),
    let f := mtrF (s.word q.addr 256)
    (MtrTakes s d q → s.memHeld q.stn q.addr 256 = true → exec (.solve d) s = .next { s with flight := [] }) ∧
    (MtrTakes s d q → s.check (some q.stn) q.addr 256 false ≠ .ok → s.memHeld q.stn q.addr 256 = false →
      ∃ t y, exec (.solve d) s = .next t ∧ (t.mortar d).run = some y ∧ y.q = q ∧ y.phase = .writing ∧ y.code = 8 ∧
        (t.mortar d).queue = (s.mortar d).queue.erase q ∧ (t.mortar d).last = q.stn ∧ SameMemory s t) ∧
    (MtrTakes s d q → s.check (some q.stn) q.addr 256 false = .ok → f.kind = 0 → s.memHeld q.stn q.addr 256 = false →
      ((s.mortar d).owned = false ∨ q.stn ≠ s.fld (Reg.mtr_FSTN d) → ∃ t y, exec (.solve d) s = .next t ∧
        (t.mortar d).run = some y ∧ y.q = q ∧ y.phase = .clearing ∧ (t.mortar d).queue = (s.mortar d).queue.erase q ∧
        t.flag (Reg.mtr_FVALID d) = false ∧ t.flag (Reg.mtr_BUSY d) = true ∧ SameMemory s t) ∧
      ((s.mortar d).owned = true → q.stn = s.fld (Reg.mtr_FSTN d) →
        (f.n = 0 ∨ f.deadline = 0 ∨ f.alg = 3 ∨ 4 < f.method ∨ (f.alg ≠ 0 ∧ f.maxit = 0) ∨ (f.alg = 0 ∧ f.warm = true) ∨
          (f.normal = true ∧ (f.method ≠ 0 ∨ f.jz = true)) ∨ (2 ≤ f.method ∧ f.n ≠ f.ncb * f.bc + f.npb * f.bp)) →
        ∃ t y, exec (.solve d) s = .next t ∧ (t.mortar d).run = some y ∧ y.q = q ∧ y.phase = .writing ∧ y.code = 7) ∧
      ((s.mortar d).owned = true → q.stn = s.fld (Reg.mtr_FSTN d) → f.alg = 0 → f.method < 3 →
        s.mtrCheck q.stn s.nextId f = 0 → AllHere s (s.startRanges s.nextId f) → Unheld s q.stn → Calm s →
        NotInMortar (f.reads ++ s.colRanges s.nextId f ++ s.jRanges s.nextId f) →
        (s.words s.nextId f.x0 f.n).any Prod.snd = false → (s.readEval s.nextId f).2 = false → s.now < f.deadline →
        ∃ t y, exec (.solve d) s = .next t ∧ (t.mortar d).run = some y ∧ y.q = q ∧ y.phase = .linear ∧ y.code = 0 ∧
          y.x = (s.words s.nextId f.x0 f.n).map Prod.fst ∧ y.lam = f.lambda0 ∧ y.ev = (s.readEval s.nextId f).1 ∧ y.best = none ∧
          SameMemory s t) ∧
      ((s.mortar d).owned = true → q.stn = s.fld (Reg.mtr_FSTN d) → f.alg ≠ 0 → f.warm = false → f.method < 3 →
        s.mtrCheck q.stn s.nextId f = 0 → AllHere s (s.startRanges s.nextId f) → Unheld s q.stn → Calm s →
        NotInMortar (f.reads ++ s.colRanges s.nextId f ++ s.jRanges s.nextId f) → gNode f.xt = s.nodeId →
        (s.words s.nextId f.x0 f.n).any Prod.snd = false → s.now < f.deadline → s.acked s.nextId = true → CountersFit s →
        (s.freeWatch q.stn).isSome = true → NoTags (gLocal f.xt) (8 * f.n) →
        ∃ t y, exec (.solve d) s = .next t ∧ (t.mortar d).run = some y ∧ y.q = q ∧ y.phase = .evalWait ∧ y.code = 0 ∧
          y.evals = 1 ∧ y.trial = (s.words s.nextId f.x0 f.n).map Prod.fst ∧
          y.base = s.ctrValue (s.ctrBase q.stn + f.evDone) ∧ Wrote s t (gLocal f.xt) (wordBytes y.trial) ∧
          CounterTakes s t (s.ctrBase q.stn + f.evReq) ((s.ctrValue (s.ctrBase q.stn + f.evReq) : Int) + 1))) ∧
    (∀ x, MtrRuns s d x .clearing → x.q.stn < 8 → ∃ t, exec (.localMemoryClear d) s = .next t ∧
      t.fld (Reg.mtr_FSTN d) = x.q.stn ∧ t.flag (Reg.mtr_FVALID d) = false ∧ (t.mortar d).owned = true ∧
      (∃ y, (t.mortar d).run = some y ∧ y.q = x.q ∧ y.phase ≠ .clearing) ∧
      (x.f.method ≠ 4 → ∀ o, o < 0x100_0000 → t.byte (mtrAddr d o) = 0 ∧ poisoned t (mtrAddr d o) = false))

/-- LINEAR_PHASE_END (R188, R191): LINEAR returns X0 + δ with CONVERGED; a breakdown ends NOT_PD but under LM, where λ rises by
LM_UP and past LAMBDA_MAX the solve stalls; under GN and LM a step past the deadline ends DEADLINE, and else the trial point
x + δ is written to XT, EV_REQ goes up by one, and the evaluation is waited for (R189).
DEADLINE_CHECK (R192, R193): before the deadline nothing changes; after it a wait or a trial step ends DEADLINE, a linear
phase DEADLINE_MID, an adjoint's linear phase its own code, and a keep factorisation is given up with the result
standing. Other phases go on.
Points the spec leaves open follow log entries 39, 42. -/
def Obligations.MortarLinearPhase : Prop :=
  (∀ (s : State) (d : Die) (x : Solve), MtrRuns s d x .linear → x.f.kind = 0 → x.f.method ≠ 4 → x.cg = none →
    let f := x.f
    let r := (s.linSolve x.id f x.ev x.lam (s.rhs x)).1
    (r = none → f.alg ≠ 2 → ∃ t, exec (.linearPhaseEnd d) s = .next t ∧ MtrStopped t d x 6 ∧ SameMemory s t) ∧
    (r = none → f.alg = 2 → Fmt.fp64.lt f.lambdaMax (fmul x.lam f.lmUp) = true →
      ∃ t, exec (.linearPhaseEnd d) s = .next t ∧ MtrStopped t d x 5 ∧ SameMemory s t) ∧
    (r = none → f.alg = 2 → Fmt.fp64.lt f.lambdaMax (fmul x.lam f.lmUp) = false → s.now < f.deadline →
      ∃ t y, exec (.linearPhaseEnd d) s = .next t ∧ (t.mortar d).run = some y ∧ y.phase = .linear ∧ y.code = x.code ∧
        y.lam = fmul x.lam f.lmUp ∧ y.x = x.x ∧ SameMemory s t) ∧
    (∀ dx, r = some dx → f.alg = 0 → ∃ t y, exec (.linearPhaseEnd d) s = .next t ∧ MtrStopped t d x 1 ∧
      (t.mortar d).run = some y ∧ y.x = (x.x.zip dx).map (fun e => fadd e.1 e.2) ∧ SameMemory s t) ∧
    (∀ dx, r = some dx → f.alg ≠ 0 → f.deadline ≤ s.now → ∃ t, exec (.linearPhaseEnd d) s = .next t ∧ MtrStopped t d x 3 ∧
      SameMemory s t) ∧
    (∀ dx, r = some dx → f.alg ≠ 0 → s.now < f.deadline → s.acked x.id = true → gNode f.xt = s.nodeId → CountersFit s →
      x.q.stn < 8 → f.evReq < s.ctrNum x.q.stn → (s.freeWatch x.q.stn).isSome = true → NoTags (gLocal f.xt) (8 * x.x.length) →
      dx.length = x.x.length →
      ∃ t y, exec (.linearPhaseEnd d) s = .next t ∧ (t.mortar d).run = some y ∧ y.phase = .evalWait ∧ y.evals = x.evals + 1 ∧
        y.trial = (x.x.zip dx).map (fun e => fadd e.1 (fscale e.2 0)) ∧ Wrote s t (gLocal f.xt) (wordBytes y.trial) ∧
        CounterTakes s t (s.ctrBase x.q.stn + f.evReq) ((s.ctrValue (s.ctrBase x.q.stn + f.evReq) : Int) + 1))) ∧
  (∀ (s : State) (d : Die) (x : Solve), s.safe = false → (s.mortar d).run = some x →
    (s.now < x.f.deadline → exec (.deadlineCheck d) s = .next s) ∧
    (x.f.deadline ≤ s.now →
      (x.phase = .evalWait ∨ x.phase = .trial → x.code = 0 → ∃ t, exec (.deadlineCheck d) s = .next t ∧ MtrStopped t d x 3 ∧
        SameMemory s t) ∧
      (x.phase = .linear → x.f.kind = 0 → ∃ t, exec (.deadlineCheck d) s = .next t ∧ MtrStopped t d x 4 ∧ SameMemory s t) ∧
      (x.phase = .linear → x.f.kind = 1 → ∃ t y, exec (.deadlineCheck d) s = .next t ∧ MtrStopped t d x 15 ∧
        (t.mortar d).run = some y ∧ y.adjWhy = 2) ∧
      (x.phase = .keep → ∃ t, exec (.deadlineCheck d) s = .next t ∧ MtrStopped t d x x.code ∧ (t.mortar d).kept = (s.mortar d).kept) ∧
      (x.phase = .idle ∨ x.phase = .clearing ∨ x.phase = .writing → exec (.deadlineCheck d) s = .next s)))

/-- SOLVE_END (R193 to R195, R198): while one of its writes holds (R221, R224) nothing changes. A solve that ended with a result code writes the returned iterate to XOUT, the warm record
when it has one, and RES with its code; without KEEP the descriptor ends, SOLVES goes up, and its counter under CEN. Any other
code writes RES alone, and is reported as ENG_FAULT.
KEEP_FACTORISATION and ADJOINT (R196): the factorisation of H + λ·D at the returned iterate is kept with a new GEN and
FVALID, or without them on a breakdown, and the solve ends. An adjoint that names the kept GEN, station and N enters a linear
phase with the kept damping; without a kept factorisation, or with another GEN, it ends NO_FACT.
Points the spec leaves open follow log entry 41. -/
def Obligations.MortarResultsAndFactorisations : Prop :=
  (∀ (s : State) (d : Die) (x : Solve), MtrRuns s d x .writing → x.written = false → x.f.kind = 0 → x.code < 16 →
    let f := x.f
    let ws := match x.best with
      | some b => b.1
      | none => x.x
    let len := 8 * ws.length
    s.acked x.id = true → gNode f.xout = s.nodeId → gNode f.res = s.nodeId → s.gOk x.q.stn f.res 64 true = true → CountersFit s →
    x.q.stn < 8 → x.q.ctr < s.ctrNum x.q.stn → NoTags (gLocal f.res) 64 → NoTags (gLocal f.xout) len →
    Apart (gLocal f.xout) len (gLocal f.res) 64 →
    (f.wrec ≠ 0 → gNode f.wrec = s.nodeId ∧ gLocal f.wrec + 64 + len ≤ 2 ^ 44 ∧ NoTags (gLocal f.wrec) (64 + len) ∧
      Apart (gLocal f.wrec) (64 + len) (gLocal f.res) 64 ∧ Apart (gLocal f.wrec) (64 + len) (gLocal f.xout) len) →
    let resDone (t : State) : Prop := bitsOf (t.word (gLocal f.res) 8) 3 0 = x.code ∧
      bitOf (t.word (gLocal f.res) 8) 5 = x.best.isNone ∧
      t.word (gLocal f.res + 8) 8 = (match x.best with
        | some b => b.2
        | none => 0x7FF8_0000_0000_0000) % 2 ^ 64
    (s.anyHeld x.q.stn (nonempty f.writes) = true → exec (.solveEnd d) s = .next { s with flight := [] }) ∧
    (1 ≤ x.code ∧ x.code ≤ 6 → s.anyHeld x.q.stn (nonempty f.writes) = false → ∃ t, exec (.solveEnd d) s = .next t ∧ resDone t ∧
      t.bytes (gLocal f.xout) len = wordBytes ws ∧
      (f.wrec ≠ 0 → t.word (gLocal f.wrec) 8 = 1 ∧ t.word (gLocal f.wrec + 0x08) 8 = x.sig % 2 ^ 64 ∧
        t.word (gLocal f.wrec + 0x10) 4 = f.n ∧ t.word (gLocal f.wrec + 0x18) 8 = x.lam % 2 ^ 64 ∧
        t.bytes (gLocal f.wrec + 0x40) len = wordBytes ws) ∧
      (∀ a, inTagArea a = false → (a < gLocal f.res ∨ gLocal f.res + 64 ≤ a) → (a < gLocal f.xout ∨ gLocal f.xout + len ≤ a) →
        (f.wrec ≠ 0 → a < gLocal f.wrec ∨ gLocal f.wrec + 64 + len ≤ a) → t.byte a = s.byte a) ∧
      (f.keep = false → (t.mortar d).run = none ∧ t.flag (Reg.mtr_BUSY d) = false ∧
        t.fld (Reg.mtr_SOLVES d) = min (s.fld (Reg.mtr_SOLVES d) + 1) (2 ^ 32 - 1) ∧
        (x.q.cen = true →
          CounterTakes s t (s.ctrBase x.q.stn + x.q.ctr) ((s.ctrValue (s.ctrBase x.q.stn + x.q.ctr) : Int) + 1)) ∧
        (x.q.cen = false → ∀ j, j < 4096 → t.ctrValue j = s.ctrValue j)) ∧
      (f.keep = true → s.now < f.deadline → f.alg = 0 ∨ x.evalAt = ws →
        ∃ y, (t.mortar d).run = some y ∧ y.phase = .keep ∧ y.code = x.code ∧ y.written = true)) ∧
    (7 ≤ x.code → x.code ≠ 11 → s.anyHeld x.q.stn (nonempty f.writes) = false → ∃ t, exec (.solveEnd d) s = .next t ∧ resDone t ∧ (t.mortar d).run = none ∧
      (∀ a, inTagArea a = false → (a < gLocal f.res ∨ gLocal f.res + 64 ≤ a) → t.byte a = s.byte a) ∧
      t.fld (Reg.mtr_FAULT_CNT d) = min (s.fld (Reg.mtr_FAULT_CNT d) + 1) (2 ^ 32 - 1) ∧ Reported s t (0x28 + d.val) 0x06 ∧
      ∀ j, j < 4096 → t.ctrValue j = s.ctrValue j)) ∧
  (∀ (s : State) (d : Die),
    (∀ x : Solve, MtrRuns s d x .keep → x.f.kind = 0 → x.f.keep = true → 1 ≤ x.code → x.code ≤ 6 →
      gNode x.f.res = s.nodeId → NoTags (gLocal x.f.res) 64 →
      let lam := if x.f.adj0 = true ∨ x.f.alg = 1 then 0 else x.lam
      let r := (s.factorise x.id x.f x.ev lam).1
      ∃ t, exec (.keepFactorisation d) s = .next t ∧ (t.mortar d).run = none ∧
        t.fld (Reg.mtr_SOLVES d) = min (s.fld (Reg.mtr_SOLVES d) + 1) (2 ^ 32 - 1) ∧
        (∀ fac, r = some fac → t.flag (Reg.mtr_FVALID d) = true ∧ t.fld (Reg.mtr_GEN d) = (s.fld (Reg.mtr_GEN d) + 1) % 2 ^ 32 ∧
          (t.mortar d).kept = some ⟨x.d, lam, fac, diagOf (s.formOf x.id x.f x.ev).1 x.f.dmin⟩ ∧ bitOf (t.word (gLocal x.f.res) 8) 6 = true) ∧
        (r = none → t.flag (Reg.mtr_FVALID d) = s.flag (Reg.mtr_FVALID d) ∧ (t.mortar d).kept = (s.mortar d).kept ∧
          SameMemory s t)) ∧
    (∀ q : QDesc, MtrTakes s d q → s.check (some q.stn) q.addr 256 false = .ok →
      let f := mtrF (s.word q.addr 256)
      (s.memHeld q.stn q.addr 256 = true → exec (.adjoint d) s = .next { s with flight := [] }) ∧
      (s.memHeld q.stn q.addr 256 = false → f.kind = 1 → s.mtrCheck q.stn s.nextId f = 0 →
      ((s.mortar d).kept = none ∨ f.gen ≠ s.fld (Reg.mtr_GEN d) ∨ q.stn ≠ s.fld (Reg.mtr_FSTN d) →
        ∃ t y, exec (.adjoint d) s = .next t ∧ (t.mortar d).run = some y ∧ y.q = q ∧ y.phase = .writing ∧ y.code = 13 ∧
          (t.mortar d).queue = (s.mortar d).queue.erase q ∧ SameMemory s t) ∧
      (∀ k, (s.mortar d).kept = some k → f.gen = s.fld (Reg.mtr_GEN d) → q.stn = s.fld (Reg.mtr_FSTN d) →
        f.n = (mtrF k.d).n → s.flag (Reg.mtr_FVALID d) = true → f.jz = false → s.now < f.deadline →
        ∃ t y, exec (.adjoint d) s = .next t ∧ (t.mortar d).run = some y ∧ y.q = q ∧ y.phase = .linear ∧ y.lam = k.lam ∧
          (t.mortar d).queue = (s.mortar d).queue.erase q ∧ (t.mortar d).kept = some k ∧ SameMemory s t))))

/-! ## The Tumbler (R278 to R287) -/

namespace Sys2Proof.Spec

/-- Port p takes the flit that arrives: it is the next in order, of a TYPE that is served, at an UP metro link encrypted under a
loaded key; it returns no more credit than is out, the port is not looped, and no armed injection meets the flit (R18, R241,
R246, R253, R274, R332). -/
def LinkTakes (s : State) (p : Port) (f : Flit) : Prop :=
  s.flag (Reg.kp_LOOP p) = false ∧ s.injFires (0x44 + p.val) 0 = false ∧ s.injFires (0x44 + p.val) 1 = false ∧
  f.lh.typ < 5 ∧ f.lh.seq = (s.link p).rxNext ∧ f.lh.crd ≤ (s.link p).resv.sum + (s.link p).shared.sum ∧
  (s.flag (Reg.kp_METRO p) = true → s.fld (Reg.kp_LSTATE p) = 5 →
    f.lh.enc = true ∧ (s.fld (Reg.kp_KLOADED p)).testBit f.lh.key = true)

/-- Flit f of opcode op arrives on a link that is UP, which takes it, and is for this module (R255, R259). -/
def Arrives (s : State) (p : Port) (f : Flit) (op : Nat) : Prop :=
  s.safe = false ∧ s.fld (Reg.kp_LSTATE p) = 5 ∧ f.op = op ∧ LinkTakes s p f ∧
  (f.dst % 65536 = 0xFFFF ∨ (s.flag Reg.krt_VALID = true ∧ s.routeOf f.src f.dst f.flow = .here))

/-- The link has taken the flit: it expects the next SEQ, owes the cells, and counts it. -/
def Received (s t : State) (p : Port) (f : Flit) : Prop :=
  (t.link p).rxNext = ((s.link p).rxNext + 1) % 2 ^ 32 ∧
  (t.link p).owed = (s.link p).owed ++ [(f.vc, (if f.payload = [] then 2 else 18) + (if s.flag (Reg.kp_METRO p) then 1 else 0))] ∧
  t.fld (Reg.kp_RX_FLITS p) = (s.fld (Reg.kp_RX_FLITS p) + 1) % 2 ^ 64

/-- The answer to flit f waits at the port its way back leaves by (R255, R259 to R261), on VC 1, or on VC 3 as a management
response (R243): the same port, link-local, for a link-local flit. -/
def Replies (s t : State) (p : Port) (f : Flit) (op len addr psn : Nat) (payload : List Byte) : Prop :=
  ∃ r : Flit, r = { op := op, vc := if op = 0x1B then 3 else 1, src := s.srcId, dst := f.src, sstn := f.sstn, hops := 31
                    flow := f.flow, tag := f.tag, psn := psn, len := len, addr := addr, payload := payload } ∧
    (f.dst % 65536 = 0xFFFF → (t.link p).txq = (s.link p).txq ++ [{ r with dst := 0xFFFFF }]) ∧
    ∀ x, f.dst % 65536 ≠ 0xFFFF → s.flag Reg.krt_VALID = true → s.routeOf r.src r.dst r.flow = .port x →
      (t.link x).txq = (s.link x).txq ++ [r]

/-- Station n's notification ring has taken an entry, and core c has its interrupt pending; a full ring loses it (R281, R282). -/
def RingTakes (s t : State) (n cookie result : Nat) (c : Nat) : Prop :=
  let h := s.fld (Reg.tmb_HEAD n)
  c ∈ t.coreIrq ∧
  ((h + 1) % 32 = s.fld (Reg.tmb_TAIL n) → t.flag (Reg.tmb_LOST n) = true ∧ t.fld (Reg.tmb_HEAD n) = h) ∧
  ((h + 1) % 32 ≠ s.fld (Reg.tmb_TAIL n) → t.fld (Reg.tmb_COOKIE_2000 n h) = cookie % 2 ^ 32 ∧
    t.fld (Reg.tmb_RESULT n h) = result % 4 ∧ t.fld (Reg.tmb_HEAD n) = (h + 1) % 32)

end Sys2Proof.Spec

/-- VALUE, LIMIT and CNT_ADD (R262, R278): a written VALUE and an unsigned addend are operations held between 0 and LIMIT; a
LIMIT below VALUE pulls VALUE down, sets OVF and reports; a CNT_ADD beyond the grant or to a station that is off is answered
with OWNER and changes no counter. -/
def Obligations.CounterWrites : Prop :=
  ∀ (s : State), CountersFit s →
    (∀ (i : Fin 4096) (v : BitVec 32), HostUp s → s.injFires 3 0 = false →
      (∃ t, exec (.valueWrite .host i v) s = .next t ∧ CounterTakes s t i (v.toNat : Int) ∧ SameMemory s t ∧
        t.fld Reg.tmb_OPS = (s.fld Reg.tmb_OPS + 1) % 2 ^ 64 ∧
        (s.ctrLimit i < v.toNat → Reported s t 3 0x0E) ∧ (v.toNat ≤ s.ctrLimit i → t.events = s.events)) ∧
      (∃ t, exec (.limitWrite .host i v) s = .next t ∧ t.ctrLimit i = v.toNat ∧ t.ctrValue i = min (s.ctrValue i) v.toNat ∧
        (∀ j, j < 4096 → j ≠ i.val → t.ctrValue j = s.ctrValue j ∧ t.ctrLimit j = s.ctrLimit j) ∧
        (v.toNat < s.ctrValue i → (t.fld (Reg.tmb_OVF (i / 64))).testBit (i % 64) = true ∧ Reported s t 3 0x0E) ∧
        (s.ctrValue i ≤ v.toNat → t.events = s.events))) ∧
    (∀ (p : Port) (f : Flit), Arrives s p f 0x07 → f.sstn < 8 →
      let c := f.addr % 4096
      (c < s.ctrNum f.sstn → s.flag (Reg.sys_EN f.sstn) = true → s.inReset f.sstn = false →
        ∃ t, exec (.cntAdd p f) s = .next t ∧ Received s t p f ∧ SameMemory s t ∧
          CounterTakes s t (s.ctrBase f.sstn + c) ((s.ctrValue (s.ctrBase f.sstn + c) : Int) + (leNat (f.payload.take 4) : Nat))) ∧
      (s.ctrNum f.sstn ≤ c ∨ s.flag (Reg.sys_EN f.sstn) = false ∨ s.inReset f.sstn = true →
        ∃ t, exec (.cntAdd p f) s = .next t ∧ Replies s t p f 0x05 0 3 0 [] ∧ ∀ j, j < 4096 → t.ctrValue j = s.ctrValue j))

/-- Watches (R280, R281): GO registers a core's watch, freed at once with its notification if the comparison holds, and sets
WFULL without a free one; a core's watch whose TMO expires is freed with RESULT 2 in the ring; the oldest notification resumes
its sequencer, or enters the ring and interrupts its core. -/
def Obligations.WatchCommands : Prop :=
  ∀ (s : State),
    (∀ (n : Stn) (v : Word), HostUp s → v.toNat.testBit 63 = true →
      let ctr := s.fld (Reg.tmb_CTR n)
      let core := bitsOf v.toNat 35 32
      let x : Watch := ⟨n, s.ctrBase n + ctr, s.fld (Reg.tmb_CMP n), s.fld (Reg.tmb_VAL n),
        .core n core (bitsOf v.toNat 31 0), bitsOf v.toNat 51 36⟩
      (s.coreStn core = some n.val → ctr < s.ctrNum n → ∀ w, s.freeWatch n = some w →
        ∃ t, exec (.wregGo .host n v) s = .next t ∧
          (holdsCmp x.cmp (s.ctrValue x.ctr) x.val = false → t.watch w = some x ∧ t.notes = s.notes) ∧
          (holdsCmp x.cmp (s.ctrValue x.ctr) x.val = true → t.watch w = none ∧ t.notes = s.notes ++ [⟨x.target, 1⟩])) ∧
      (s.coreStn core = some n.val → ctr < s.ctrNum n → s.freeWatch n = none →
        ∃ t, exec (.wregGo .host n v) s = .next t ∧ t.flag (Reg.tmb_WFULL n) = true ∧ t = { s with regs := t.regs }) ∧
      (s.coreStn core ≠ some n.val ∨ s.ctrNum n ≤ ctr →
        ∃ t, exec (.wregGo .host n v) s = .next t ∧ t.watches = s.watches ∧ Reported s t 3 0x07)) ∧
    (∀ (w : Fin 1024) (x : Watch) (n : Stn) (c cookie : Nat), s.watch w = some x → x.target = .core n c cookie → x.tmo ≠ 0 →
      ∃ t, exec (.watchTmo w) s = .next t ∧ t.watch w = none ∧ RingTakes s t n cookie 2 c ∧ SameMemory s t) ∧
    (∀ (x : Note) (rest : List Note), s.notes = x :: rest →
      (∀ (n : Stn) (q : Quad) (w : Nat), x.target = .seq n q w → w < 1024 → s.hold n q = some (.watch w) →
        ∃ t, exec .notification s = .next t ∧ t.notes = rest ∧ t.hold n q = none ∧ Advanced s t n q ∧ SameMemory s t) ∧
      (∀ (n : Stn) (c cookie : Nat), x.target = .core n c cookie → c < 16 →
        ∃ t, exec .notification s = .next t ∧ t.notes = rest ∧ RingTakes s t n cookie x.result c ∧ SameMemory s t))

namespace Sys2Proof.Spec

/-- Barrier b has released its phase here (R283): SENSE flips, ADV moves into ARR, and a phase is counted. -/
def Released (s t : State) (b : Nat) : Prop :=
  t.fld (Reg.tmb_SENSE b) = 1 - s.fld (Reg.tmb_SENSE b) ∧ t.fld (Reg.tmb_ARR b) = s.fld (Reg.tmb_ADV b) ∧
  t.fld (Reg.tmb_ADV b) = 0 ∧ t.fld (Reg.tmb_KIDS b) = 0 ∧ t.fld (Reg.tmb_UP b) = 0 ∧
  t.fld (Reg.tmb_PHASES b) = (s.fld (Reg.tmb_PHASES b) + 1) % 2 ^ 16

end Sys2Proof.Spec

/-- Barriers (R283 to R289): ENTER counts in the open phase or the next, is dropped and recorded where EN is 0, and overruns
where both are full; the last entry of a root without children releases the phase. ARRIVE from a child counts it, RELEASE from
the parent releases here, and a message R285 drops is counted and reported. EN is set where R286 allows it and clearing it
returns the barrier to idle. A phase that stalls for BTMO sets STALL and reports BARRIER_STALL, and ends nothing. -/
def Obligations.BarrierCommands : Prop :=
  ∀ (s : State) (b : Fin 256),
    let en := s.flag (Reg.tmb_EN b)
    let arr := s.fld (Reg.tmb_ARR b)
    let adv := s.fld (Reg.tmb_ADV b)
    let nl := s.fld (Reg.tmb_NLOCAL b)
    let g := s.group (s.barGroup b)
    let ch := (kids g.p g.rank).length
    (HostUp s →
      (en = true → arr + 1 < nl → ∃ t, exec (.enter .host b) s = .next t ∧ t.fld (Reg.tmb_ARR b) = arr + 1 ∧
        t.fld (Reg.tmb_ADV b) = adv ∧ t.entrants = s.entrants ++ [⟨b, false, none⟩] ∧ SameMemory s t) ∧
      (en = true → arr = nl → adv < nl → ¬ (s.fld (Reg.tmb_KIDS b) = ch ∧ s.fld (Reg.tmb_UP b) = 0) →
        ∃ t, exec (.enter .host b) s = .next t ∧ t.fld (Reg.tmb_ARR b) = arr ∧ t.fld (Reg.tmb_ADV b) = adv + 1 ∧
          t.entrants = s.entrants ++ [⟨b, true, none⟩] ∧ SameMemory s t) ∧
      (en = true → arr + 1 = nl → adv < nl → g.rank = 0 → ch = 0 → s.fld (Reg.tmb_KIDS b) = 0 → s.fld (Reg.tmb_UP b) = 0 →
        ∃ t, exec (.enter .host b) s = .next t ∧ Released s t b ∧ SameMemory s t) ∧
      (en = true → nl ≤ arr → nl ≤ adv → ∃ t, exec (.enter .host b) s = .next t ∧ t.fld (Reg.tmb_ARR b) = arr ∧
        t.fld (Reg.tmb_ADV b) = adv ∧ t.flag (Reg.tmb_OVERRUN b) = true ∧ t.entrants = s.entrants ∧ Reported s t 3 0x10) ∧
      (en = false → ∃ t, exec (.enter .host b) s = .next t ∧ t.fld (Reg.tmb_ARR b) = arr ∧ t.fld (Reg.tmb_ADV b) = adv ∧
        t.flag (Reg.tmb_OVERRUN b) = s.flag (Reg.tmb_OVERRUN b) ∧ t.entrants = s.entrants ∧ Reported s t 3 0x07) ∧
      (∀ (v : Word) (n : Nat), v.toNat.testBit 63 = true → en = false → s.barStn b = some n →
        let ok := bitsOf v.toNat 11 0 < s.fld (Reg.krt_GNUM n) ∧
          (∀ x, x < 256 → x ≠ b.val → s.flag (Reg.tmb_EN x) = true → s.fld (Reg.tmb_BTAG x) ≠ bitsOf v.toNat 31 16) ∧
          arr = 0 ∧ adv = 0 ∧ s.fld (Reg.tmb_KIDS b) = 0 ∧
          s.mapOk (s.group (s.fld (Reg.krt_GBASE n) + bitsOf v.toNat 11 0)) = true
        ∃ t, exec (.barrierEnable .host b v) s = .next t ∧ SameMemory s t ∧ t.fld (Reg.tmb_GROUP b) = bitsOf v.toNat 11 0 ∧
          t.fld (Reg.tmb_NLOCAL b) = max 1 (bitsOf v.toNat 17 12) ∧ t.fld (Reg.tmb_BTAG b) = bitsOf v.toNat 31 16 ∧
          (ok → t.flag (Reg.tmb_EN b) = true ∧ t.events = s.events) ∧
          (¬ ok → t.flag (Reg.tmb_EN b) = false ∧ Reported s t 3 0x07)) ∧
      (∀ v : Word, v.toNat.testBit 63 = false → en = true → ∃ t, exec (.barrierDisable .host b v) s = .next t ∧
        t.flag (Reg.tmb_EN b) = false ∧ t.fld (Reg.tmb_SENSE b) = 0 ∧ t.fld (Reg.tmb_ARR b) = 0 ∧ t.fld (Reg.tmb_ADV b) = 0 ∧
        t.fld (Reg.tmb_KIDS b) = 0 ∧ t.fld (Reg.tmb_UP b) = 0 ∧ t.entrants = s.entrants.filter (fun e => decide (e.bar ≠ b.val)) ∧
        ∀ (n : Stn) (q : Quad) (nx nw : Bool), s.hold n q = some (.barrier b nx nw) → t.launch n = none)) ∧
    (∀ (p : Port) (f : Flit), Arrives s p f 0x08 →
      (f.addr % 4 = 0 → s.barTarget f 0 = some b.val → ¬ (arr = nl ∧ s.fld (Reg.tmb_KIDS b) + 1 = ch ∧ s.fld (Reg.tmb_UP b) = 0) →
        s.fld (Reg.tmb_KIDS b) < 16 → ∃ t, exec (.arrive p f) s = .next t ∧ Received s t p f ∧
          t.fld (Reg.tmb_KIDS b) = s.fld (Reg.tmb_KIDS b) + 1 ∧ t.fld (Reg.tmb_ARR b) = arr ∧ SameMemory s t) ∧
      (f.addr % 4 = 1 → s.barTarget f 1 = some b.val → adv < nl →
        ∃ t, exec (.release p f) s = .next t ∧ Released s t b ∧ SameMemory s t) ∧
      (∀ k : Fin 2, f.addr % 4 = k → s.barTarget f k = none →
        ∃ t, exec (if k = 0 then .arrive p f else .release p f) s = .next t ∧ Received s t p f ∧ Reported s t 3 0x11 ∧
          t.fld Reg.tmb_PROTO_CNT = min (s.fld Reg.tmb_PROTO_CNT + 1) (2 ^ 32 - 1) ∧
          ∀ x, x < 256 → t.fld (Reg.tmb_ARR x) = s.fld (Reg.tmb_ARR x) ∧ t.fld (Reg.tmb_KIDS x) = s.fld (Reg.tmb_KIDS x))) ∧
    (en = true → s.fld (Reg.tmb_BTMO b) ≠ 0 → arr ≠ 0 ∨ s.fld (Reg.tmb_KIDS b) ≠ 0 →
      ∃ t, exec (.btmo b) s = .next t ∧ t.flag (Reg.tmb_STALL b) = true ∧ Reported s t 3 0x12 ∧
        t.fld (Reg.tmb_ARR b) = arr ∧ t.holds = s.holds ∧ t.entrants = s.entrants)

/-! ## Keyring links (R240 to R256, R363) -/

/-- Sending and resending (R241, R244 to R247, R253): a resend goes first and takes no credit; else the first flit takes its VC's
reserved credit, or the shared credit when that is used up, enters the retransmit window under the next SEQ with ACK and the
cells owed in its header, at an UP metro link under the key in use with an IV of its own, and is counted; with no flit to send,
what is owed goes in a credit flit. CREDIT frees what is acknowledged and returns cells, those of its VC first, never more than
are out (R18). NAK asks for all from a SEQ onward at local
reach and for that one at metro reach; REPLAY_TMO for all. A failed flit is counted and the missing SEQ asked for. An opcode
no rule names is counted in BAD_OP and reported (R243).
Points the spec leaves open follow log entry 45. -/
def Obligations.LinkTransmission : Prop :=
  ∀ (s : State) (p : Port), s.safe = false →
    let l := s.link p
    let metro := s.flag (Reg.kp_METRO p)
    let up := decide (s.fld (Reg.kp_LSTATE p) = 5)
    let cells (f : Flit) : Nat := (if f.payload = [] then 2 else 18) + (if metro && up then 1 else 0)
    let size := if metro then 8388608 else 262144
    let waiting := (l.window.map (fun x => x.cells)).sum
    let k := s.fld (Reg.kp_KACT p)
    let enc := metro && up
    let vc := ((l.owed.head?).map Prod.fst).getD 0
    let owed := l.owed.filter (fun x => decide (x.1 ≠ vc))
    let crd := ((l.owed.filter (fun x => decide (x.1 = vc))).map Prod.snd).sum
    let used (v : Nat) : Nat := l.resv.getD v 0
    let keyed := l.keyUse.getD k 0
    (3 ≤ s.fld (Reg.kp_LSTATE p) → s.fld (Reg.kp_LSTATE p) ≤ 5 → metro = false ∨ (l.switchPend = false ∧ keyed < 2 ^ 31) →
      (∀ x rest, l.resend = x :: rest → ∃ t, exec (.flitTransmit p) s = .next t ∧ (t.link p).resend = rest ∧
        (t.link p).window = l.window.map (fun y => if y.seq = x then { y with replays := y.replays + 1 } else y) ∧
        (t.link p).txq = l.txq ∧ (t.link p).seq = l.seq ∧ (t.link p).resv = l.resv ∧ (t.link p).shared = l.shared ∧
        t.fld (Reg.kp_REPLAY_CNT p) = min (s.fld (Reg.kp_REPLAY_CNT p) + 1) (2 ^ 32 - 1)) ∧
      (l.resend = [] → l.txq = [] → l.owed ≠ [] → ∃ t, exec (.flitTransmit p) s = .next t ∧
        t.link p = { l with owed := owed, only := ⟨1, false, 0, 0, l.rxNext, crd, vc⟩ } ∧ t = { s with links := t.links }) ∧
      (∀ f rest, l.resend = [] → l.txq = f :: rest → waiting + cells f ≤ size →
        let iv : Option (BitVec 96) := if enc then some (BitVec.ofNat 96
          ((s.fld (if k = 0 then Reg.kp_SALT0 p else Reg.kp_SALT1 p)) <<< 64 + (l.keyWraps.getD k 0) <<< 32 + l.seq)) else none
        let g : Flit := { s.stampFlit f with lh := ⟨flitType f, enc, if enc then k else 0, l.seq, l.rxNext, crd, vc⟩, inp := none }
        let sent (t : State) (resv shared : List Nat) : Prop :=
          t.link p = { l with
            txq := rest, seq := (l.seq + 1) % 2 ^ 32, window := l.window ++ [⟨l.seq, g, cells f, k, iv, 0⟩]
            resv := resv, shared := shared, keyUse := if enc then l.keyUse.set k (keyed + 1) else l.keyUse
            keyWraps := if enc = true ∧ l.seq + 1 = 2 ^ 32 then l.keyWraps.set k (l.keyWraps.getD k 0 + 1) else l.keyWraps
            txPos := if metro then l.txPos + cells f else l.txPos, pdReq := (t.link p).pdReq
            owed := owed ++ (match f.inp with | some (q, c) => if q = p.val then [(f.vc, c)] else [] | none => []) } ∧
          (∀ q c, f.inp = some (q, c) → q ≠ p.val → (t.link q).owed = (s.link q).owed ++ [(f.vc, c)]) ∧
          t.fld (Reg.kp_TX_FLITS p) = (s.fld (Reg.kp_TX_FLITS p) + 1) % 2 ^ 64
        (used f.vc + cells f ≤ 64 → ∃ t, exec (.flitTransmit p) s = .next t ∧ sent t (l.resv.set f.vc (used f.vc + cells f)) l.shared) ∧
        (64 < used f.vc + cells f → l.shared.sum + cells f ≤ size - 256 → ∃ t, exec (.flitTransmit p) s = .next t ∧
          sent t l.resv (l.shared.set f.vc (l.shared.getD f.vc 0 + cells f))) ∧
        (64 < used f.vc + cells f → size - 256 < l.shared.sum + cells f → (∀ g ∈ rest, g.vc = f.vc) → l.owed = [] →
          exec (.flitTransmit p) s = .next s))) ∧
    (∀ (ack crd : Nat) (vc : Fin 4), 3 ≤ s.fld (Reg.kp_LSTATE p) → s.fld (Reg.kp_LSTATE p) ≤ 5 → l.resv.length = 4 →
      l.shared.length = 4 →
      let out := l.resv.sum + l.shared.sum
      let taken := l.resv.getD vc 0 + l.shared.getD vc 0
      ∃ t, exec (.credit p ack crd vc) s = .next t ∧ (t.link p).window = l.window.filter (fun x => !seqBelow x.seq ack) ∧
        (t.link p).resend = l.resend.filter (fun x => !seqBelow x ack) ∧ (t.link p).txq = l.txq ∧
        (out < crd → (t.link p).resv = l.resv ∧ (t.link p).shared = l.shared ∧ Reported s t (0x44 + p.val) 0x04) ∧
        (crd ≤ out → (t.link p).resv.sum + (t.link p).shared.sum = out - crd ∧ t = { s with links := t.links }) ∧
        (crd ≤ taken →
          (t.link p).resv.getD vc 0 + (t.link p).shared.getD vc 0 = taken - crd ∧
          (∀ v, v ≠ vc.val → (t.link p).resv.getD v 0 = l.resv.getD v 0 ∧ (t.link p).shared.getD v 0 = l.shared.getD v 0))) ∧
    (∀ (seq : Nat) (k : Fin 2), 3 ≤ s.fld (Reg.kp_LSTATE p) → s.fld (Reg.kp_LSTATE p) ≤ 5 →
      let ss := l.window.filter (fun x => if k = 1 then true else if metro then decide (x.seq = seq) else !seqBelow x.seq seq)
      (∀ x ∈ ss, x.replays < 8) →
      ∃ t, exec (if k = 0 then .nak p seq else .replayTmo p) s = .next t ∧ (t.link p).window = l.window ∧ (t.link p).txq = l.txq ∧
        (∀ x ∈ ss, x.seq ∈ (t.link p).resend) ∧ (∀ x ∈ l.resend, x ∈ (t.link p).resend) ∧ t = { s with links := t.links }) ∧
    (∀ (seq : Nat) (k : Fin 2), 3 ≤ s.fld (Reg.kp_LSTATE p) → s.fld (Reg.kp_LSTATE p) ≤ 5 →
      (∃ x ∈ l.window, (k = 1 ∨ (if metro then x.seq = seq else seqBelow x.seq seq = false)) ∧ 8 ≤ x.replays) →
      ∃ t, exec (if k = 0 then .nak p seq else .replayTmo p) s = .next t ∧ t.fld (Reg.kp_LSTATE p) = 6 ∧ (t.link p).window = []) ∧
    (∀ (seq : Nat) (gcm : Bool), 3 ≤ s.fld (Reg.kp_LSTATE p) → s.fld (Reg.kp_LSTATE p) ≤ 5 → l.authTimes.length < 15 →
      let ask := if metro then seq else l.rxNext
      ∃ t, exec (.failedFlit p seq (if gcm then .gcm else .fec)) s = .next t ∧
        t.fld (Reg.kp_LCRC_ERR p) = min (s.fld (Reg.kp_LCRC_ERR p) + 1) (2 ^ 32 - 1) ∧
        (gcm = false → t.fld (Reg.kp_FEC_UNC p) = min (s.fld (Reg.kp_FEC_UNC p) + 1) (2 ^ 32 - 1) ∧ t.events = s.events) ∧
        (gcm = true → t.fld (Reg.kp_AUTH_FAIL p) = min (s.fld (Reg.kp_AUTH_FAIL p) + 1) (2 ^ 32 - 1) ∧ Reported s t (0x44 + p.val) 0x15) ∧
        (t.link p).discard = !metro ∧ (t.link p).rxNext = l.rxNext ∧
        (metro = false → l.discard = false → ask ∈ (t.link p).nakFor) ∧
        (metro = true → seq ∉ l.nakFor → ask ∈ (t.link p).nakFor ∧
          t.fld (Reg.kp_NAK_CNT p) = min (s.fld (Reg.kp_NAK_CNT p) + 1) (2 ^ 32 - 1))) ∧
    (∀ f : Flit, up = true → LinkTakes s p f → f.op ∉ [0x01, 0x02, 0x03, 0x04, 0x05, 0x06, 0x07, 0x08, 0x10, 0x11, 0x18, 0x19, 0x1A, 0x1B, 0x1C, 0x1E, 0x1F] ∨
        (f.op = 0x1F ∧ 4 < f.addr % 8) →
      ∃ t, exec (.badOp p f) s = .next t ∧ Received s t p f ∧ Reported s t (0x44 + p.val) 0x16 ∧ SameMemory s t ∧
        t.fld (Reg.kp_BAD_OP p) = min (s.fld (Reg.kp_BAD_OP p) + 1) (2 ^ 32 - 1))

namespace Sys2Proof.Spec

/-- Both ends' windows and credit counts are as they start (R248). -/
def LinkEmpty (t : State) (p : Port) : Prop :=
  (t.link p).window = [] ∧ (t.link p).resend = [] ∧ (t.link p).resv = [0, 0, 0, 0] ∧ (t.link p).shared = [0, 0, 0, 0] ∧ (t.link p).seq = 0

/-- Words of a HELLO payload (R256). -/
def helloWord (f : Flit) (o : Nat) : Nat := bitsOf (leNat f.payload) (8 * o + 63) (8 * o)

/-- A HELLO agrees with port p on width, reach and window size (R248). -/
def HelloAgrees (s : State) (p : Port) (f : Flit) : Prop :=
  bitsOf (helloWord f 8) 39 38 = s.fld (Reg.kp_WIDTH p) ∧ bitOf (helloWord f 8) 40 = s.flag (Reg.kp_METRO p) ∧
  helloWord f 0x10 % 2 ^ 32 = if s.flag (Reg.kp_METRO p) then 8388608 else 262144

end Sys2Proof.Spec

/-- A link's states (R248, R249, R254, R256, R363): EN brings it to TRAIN, and takes it DOWN with LINK_DOWN and empty windows;
FEC_LOCK and HELLO follow training; the HELLO exchange that agrees brings it UP, at metro reach to KEYING, and one that does
not leaves it in HELLO; KEYX loads slot 0 and brings it UP, and one that fails or is late fails the link. KSWITCH waits for the
next flit. Reach changes at once while DOWN, waits otherwise, and is refused past 16 ports or on a slot in use.
Points the spec leaves open follow log entries 44, 46. -/
def Obligations.LinkStates : Prop :=
  ∀ (s : State) (p : Port), s.safe = false →
    let st := s.fld (Reg.kp_LSTATE p)
    let metro := s.flag (Reg.kp_METRO p)
    (∀ v : Word, HostUp s → bitsOf v.toNat 3 3 = s.fld (Reg.kp_METRO p) → bitsOf v.toNat 7 4 = s.fld (Reg.kp_MSLOT p) →
      (v.toNat.testBit 0 = true → s.flag (Reg.kp_EN p) = false → ∃ t, exec (.portEnable .host p v) s = .next t ∧
        t.fld (Reg.kp_LSTATE p) = 1 ∧ t.flag (Reg.kp_EN p) = true ∧ LinkEmpty t p ∧ SameMemory s t) ∧
      (v.toNat.testBit 0 = false → s.flag (Reg.kp_EN p) = true → st ≠ 0 → st ≠ 6 → s.colls = [] → (∀ r ∈ s.reqs, r.port ≠ p.val) →
        ∃ t, exec (.portDisable .host p v) s = .next t ∧ t.fld (Reg.kp_LSTATE p) = 0 ∧ t.flag (Reg.kp_EN p) = false ∧
          LinkEmpty t p ∧ t.reqs = s.reqs ∧ Reported s t (0x44 + p.val) 0x14)) ∧
    (st = 1 → ∃ t, exec (.fecLock p) s = .next t ∧ t.fld (Reg.kp_LSTATE p) = 2 ∧ BitsBut s t [Reg.kp_LSTATE p] ∧ t = { s with regs := t.regs }) ∧
    (st = 2 → ∃ t, exec (.fecLock p) s = .next t ∧ t.fld (Reg.kp_LSTATE p) = 3 ∧ LinkEmpty t p) ∧
    (st = 3 → ¬ ((s.link p).peerHello = true ∧ (s.link p).helloSent = true) → ∃ t f, exec (.helloTimer p) s = .next t ∧
      (t.link p).txq = (s.link p).txq ++ [f] ∧ f.op = 0x18 ∧ f.dst = 0xFFFFF ∧ f.payload.length = 256 ∧
      helloWord f 0 = Config.serial.toNat ∧ HelloAgrees s p f ∧ (t.link p).helloSent = ((s.link p).helloSent || (s.link p).peerHello)) ∧
    (∀ f : Flit, f.op = 0x18 → f.dst % 65536 = 0xFFFF → st = 3 → LinkTakes s p f →
      ∃ t, exec (.hello p f) s = .next t ∧ t.fld (Reg.kp_PEER_SERIAL p) = helloWord f 0 ∧
        t.fld (Reg.kp_PEER_NODE p) = bitsOf (helloWord f 8) 19 0 ∧ t.fld (Reg.kp_PEER_PORT p) = bitsOf (helloWord f 8) 37 32 ∧
        (HelloAgrees s p f → t.fld (Reg.kp_LSTATE p) = if metro then 4 else 5) ∧
        (¬ HelloAgrees s p f → t.fld (Reg.kp_LSTATE p) = 3 ∧ (t.link p).peerHello = true ∧ (t.link p).peerMatch = false)) ∧
    (∀ (f : Flit) (ok : Bool) (key : BitVec 256) (salt : BitVec 32), f.op = 0x1F → f.addr % 8 = 4 → f.dst % 65536 = 0xFFFF →
      metro = true → st = 4 → LinkTakes s p f →
      (ok = true → ∃ t, exec (.keyx p f ok key salt) s = .next t ∧ t.fld (Reg.kp_LSTATE p) = 5 ∧ t.fld (Reg.kp_KACT p) = 0 ∧
        (∀ i, i < 4 → t.fld (Reg.kp_KEY0 p i) = bitsOf key.toNat (64 * i + 63) (64 * i)) ∧
        (t.fld (Reg.kp_KLOADED p)).testBit 0 = true ∧
        t.fld (Reg.kp_SALT0 p) = salt.toNat % 2 ^ 31 + if Config.serial.toNat < s.fld (Reg.kp_PEER_SERIAL p) then 0 else 2 ^ 31) ∧
      (ok = false → ∃ t, exec (.keyx p f ok key salt) s = .next t ∧ t.fld (Reg.kp_LSTATE p) = 6 ∧ LinkEmpty t p)) ∧
    (st = 4 → ∃ t, exec (.keyxTmo p) s = .next t ∧ t.fld (Reg.kp_LSTATE p) = 6 ∧ LinkEmpty t p) ∧
    (HostUp s → ∃ t, exec (.kswitch .host p) s = .next t ∧ (t.link p).switchPend = true ∧ (t.link p).txq = (s.link p).txq ∧
      t = { s with links := t.links }) ∧
    (metro = true → 3 ≤ st → st ≤ 5 → (s.link p).switchPend = true → (s.link p).resend ≠ [] →
      (s.fld (Reg.kp_KLOADED p)).testBit (1 - s.fld (Reg.kp_KACT p)) = true →
      ∃ t, exec (.flitTransmit p) s = .next t ∧ t.fld (Reg.kp_KACT p) = 1 - s.fld (Reg.kp_KACT p) ∧ (t.link p).switchPend = false) ∧
    (∀ v : Word, s.alive = true → s.pins.modRstN = true → s.flag Reg.sys_PORT = false →
      bitsOf v.toNat 0 0 = s.fld (Reg.kp_EN p) →
      let slot := bitsOf v.toNat 7 4
      let others := (List.range 64).filter (fun x => decide (x ≠ p.val) && s.flag (Reg.kp_METRO x))
      let refused := 16 ≤ others.length ∨ ∃ x ∈ others, s.fld (Reg.kp_MSLOT x) = slot
      metro = false → v.toNat.testBit 3 = true →
      (refused → ∃ t, exec (.metroWrite (.core 16) p v) s = .next t ∧ t.flag (Reg.kp_METRO p) = false ∧
        (t.link p).reachPend = (s.link p).reachPend ∧ Reported s t (0x44 + p.val) 0x07) ∧
      (¬ refused → st = 0 → ∃ t, exec (.metroWrite (.core 16) p v) s = .next t ∧ t.flag (Reg.kp_METRO p) = true ∧
        t.fld (Reg.kp_MSLOT p) = slot) ∧
      (¬ refused → st ≠ 0 → ∃ t, exec (.metroWrite (.core 16) p v) s = .next t ∧ t.flag (Reg.kp_METRO p) = false ∧
        (t.link p).reachPend = some (true, slot)))

/-! ## Keyring transactions (R257 to R263) -/

namespace Sys2Proof.Spec

/-- No write of this module waits for a tag, and no Mortar runs: the end of a request sets nothing else going. -/
def Quiet (s : State) : Prop := s.outq = [] ∧ ∀ d, d < 4 → (s.mortar d).run = none

/-- Request r is no transfer's: what it brings is a piece that an engine reads or writes. -/
def IsPiece (s : State) (r : Req) : Prop := ∀ i off, r.xfer = some (i, off) → s.xfer? i = none

/-- Cells of flit f in port p's receive buffer (R241, R253). -/
def cellsOf (s : State) (p : Port) (f : Flit) : Nat :=
  (if f.payload = [] then 2 else 18) + if s.flag (Reg.kp_METRO p) then 1 else 0

/-- Flit f, on its way through by port p, has been taken off the link, and stands in its receive buffer still: its cells are
not yet owed (R244). -/
def TakenIn (s t : State) (p : Port) : Prop :=
  (t.link p).rxNext = ((s.link p).rxNext + 1) % 2 ^ 32 ∧ (t.link p).owed = (s.link p).owed ∧
  t.fld (Reg.kp_RX_FLITS p) = (s.fld (Reg.kp_RX_FLITS p) + 1) % 2 ^ 64

end Sys2Proof.Spec

/-- At the target (R261, R303): WR stores its bytes and is acknowledged, RD is answered with the bytes and their poison, TAGW
stores each non-zero tag as received; a range that no one station serves is answered with its ECODE and changes no memory, and
an OWNER refusal or a reserved address is recorded (R24, R26); an access that holds (R221, R224) waits. At the requester
(R261, R263): WR_ACK and RD_RSP end their request, RD_RSP with the piece at hand; ERR_RSP and REQ_TMO end it with an error
that is recorded where the request came from. A flit for another node goes on with one hop less, and stands in the receive
buffer until it has gone; one with no route or no hop left is dropped, and its requester told; one held too long at an output
is dropped (R244, R259, R260).
Points the spec leaves open follow log entries 15, 16, 49. -/
def Obligations.KeyringTransactions : Prop :=
  ∀ (s : State) (p : Port) (f : Flit),
    let len := 32 * (f.len + 1)
    (∀ n, Arrives s p f 0x01 → Calm s → s.servedBy f.addr len = .stn n → s.reqHeld f = false →
      NoTags f.addr (f.payload.take len).length → ∃ t, exec (.wr p f) s = .next t ∧
      Received s t p f ∧ Wrote s t f.addr (f.payload.take len) ∧ Replies s t p f 0x04 0 f.addr 0 []) ∧
    (∀ n, Arrives s p f 0x02 → Calm s → s.servedBy f.addr len = .stn n → s.reqHeld f = false →
      ∃ t, exec (.rd p f) s = .next t ∧ Received s t p f ∧
      SameMemory s t ∧ Replies s t p f 0x03 f.len f.addr (s.psnBits f.addr len) (s.bytes f.addr len)) ∧
    (∀ k : Fin 2, Arrives s p f (k.val + 1) → s.reqHeld f = true →
      exec (if k = 0 then .wr p f else .rd p f) s = .next { s with flight := [] }) ∧
    (∀ (k : Fin 2) (e : Nat), Arrives s p f (k.val + 1) → s.servedBy f.addr len = .err e →
      ∃ t, exec (if k = 0 then .wr p f else .rd p f) s = .next t ∧ Received s t p f ∧ SameMemory s t ∧
        Replies s t p f 0x05 0 e 0 [] ∧ (e = 3 → Reported s t (s.memPage f.addr) 0x07)) ∧
    (∀ (k : Fin 2) (page : Nat), Arrives s p f (k.val + 1) → s.servedBy f.addr len = .reserved page →
      ∃ t, exec (if k = 0 then .wr p f else .rd p f) s = .next t ∧ Received s t p f ∧ SameMemory s t ∧
        Replies s t p f 0x05 0 2 0 [] ∧ Reported s t page 0x07) ∧
    (∀ g, regionOf f.addr = .hbm g → inTagArea f.addr = false → s.gibStn g = none → s.servedBy f.addr len = .err 3) ∧
    (regionOf f.addr = .hole → s.servedBy f.addr len = .reserved 0) ∧
    (Arrives s p f 0x06 →
      let a (k : Nat) : Nat := f.addr / 4096 * 4096 + 4096 * k
      let tag (k : Nat) : Nat := leNat ((f.payload.drop (8 * k)).take 8)
      (∀ k, k < 4 * (f.len + 1) → isHbm (a k) = true ∧ (tag k ≠ 0 → ∃ n, s.servedBy (a k) 4096 = .stn n)) →
      ∃ t, exec (.tagw p f false) s = .next t ∧ Received s t p f ∧ (∀ x, inTagArea x = false → t.byte x = s.byte x) ∧
        ∀ k, k < 4 * (f.len + 1) → t.tag (a k) = if tag k = 0 then s.tag (a k) else tag k) ∧
    (∀ (r : Req) (i off : Nat), Arrives s p f 0x03 → Quiet s → s.reqOf f false = some r → r.xfer = some (i, off) →
      s.xfer? i = none →
      ∃ t, exec (.rdRsp p f) s = .next t ∧ Received s t p f ∧ t.reqs = s.reqs.erase r ∧ off / 256 ∈ (t.rbuf i).got ∧ SameMemory s t ∧
        ∀ k, k < 256 → (t.rbuf i).data.get memZero (256 * (off / 256) + k) = f.payload.getD k 0) ∧
    (∀ r : Req, Arrives s p f 0x04 → Quiet s → s.reqOf f true = some r → IsPiece s r → ∃ t, exec (.wrAck p f) s = .next t ∧
      Received s t p f ∧ t.reqs = s.reqs.erase r ∧ SameMemory s t) ∧
    (∀ (r : Req) (k : Fin 2), Quiet s → IsPiece s r →
      (k = 0 → Arrives s p f 0x05 ∧ s.errOf p f = some r ∧ f.tag ≠ 4095 ∧
        ∀ y ∈ s.relays, ¬ (y.port = p.val ∧ y.tag = f.tag ∧ f.dst % 65536 = 0xFFFF)) →
      (k = 1 → s.reqs.find? (fun x => decide (x.tag = r.tag ∧ x.node = r.node)) = some r) →
      ∃ t, exec (if k = 0 then .errRsp p f else .reqTmo ⟨r.node, r.tag⟩) s = .next t ∧
        t.reqs = s.reqs.filter (fun x => !decide (x.tag = r.tag ∧ x.node = r.node)) ∧
        Reported s t r.page 0x07 ∧ SameMemory s t) ∧
    (s.safe = false → s.fld (Reg.kp_LSTATE p) = 5 → s.flag Reg.krt_VALID = true → LinkTakes s p f →
      let told := f.op ∈ [0x01, 0x02, 0x06, 0x07, 0x19, 0x1A, 0x1C]
      (∀ x, s.routeOf f.src f.dst f.flow = .port x → 2 ≤ f.hops → ∃ t, exec (.forward p f) s = .next t ∧ TakenIn s t p ∧
        (t.link x).txq = (s.link x).txq ++
          [{ s.transit p f with hops := f.hops - 1, lh := LinkHdr.zero, inp := some (p.val, cellsOf s p f) }] ∧
        SameMemory s t ∧ t.fld Reg.krt_FWD_FLITS = (s.fld Reg.krt_FWD_FLITS + 1) % 2 ^ 64) ∧
      (∀ x, s.routeOf f.src f.dst f.flow = .port x → f.hops ≤ 1 → ∃ t, exec (.forward p f) s = .next t ∧ Received s t p f ∧
        SameMemory s t ∧ (told → Replies s t p f 0x05 0 4 0 []) ∧ (¬ told → ∀ y, (t.link y).txq = (s.link y).txq)) ∧
      (s.routeOf f.src f.dst f.flow = .noRoute → ((∃ x, s.routeOf s.srcId f.src f.flow = .port x) ∨ ¬ told) →
        ∃ t, exec (.forward p f) s = .next t ∧ Received s t p f ∧ SameMemory s t ∧
          t.fld Reg.krt_NOROUTE = min (s.fld Reg.krt_NOROUTE + 1) (2 ^ 32 - 1) ∧
          (told → Replies s t p f 0x05 0 1 0 []) ∧ (¬ told → ∀ y, (t.link y).txq = (s.link y).txq))) ∧
    (∀ rest, (s.link p).txq = f :: rest → f.inp = none → ∃ t, exec (.fwdTmo p) s = .next t ∧
      (t.link p).txq = rest ∧ t.fld Reg.krt_FWD_DROP = min (s.fld Reg.krt_FWD_DROP + 1) (2 ^ 32 - 1) ∧ SameMemory s t) ∧
    (∀ rest (q : Port) c, (s.link p).txq = f :: rest → f.inp = some (q.val, c) → ∃ t, exec (.fwdTmo p) s = .next t ∧
      (t.link p).txq = rest ∧ (t.link q).owed = (s.link q).owed ++ [(f.vc, c)] ∧
      t.fld Reg.krt_FWD_DROP = min (s.fld Reg.krt_FWD_DROP + 1) (2 ^ 32 - 1))

/-- Management (R255, R257, R258): a read of a KRT or TIME register is answered with its value, one of a page not named with
BAD_ADDR; NODEID is written by a manager, until NODEID's lock, and a write by another node is refused with OWNER whatever it
names; a relayed request leaves link-local through the port it names, with this module as its SRC, and its answer goes back to
who asked. Written on the module, NODEID is the trusted core's.
An ADDR that is no multiple of 8 is recorded, reads zeros and writes nothing, which is the model's reading (log entry 90).
Other points the spec leaves open follow log entries 47, 70, 76. -/
def Obligations.ManagementRequests : Prop :=
  ∀ (s : State) (p : Port) (f : Flit),
    let off := f.addr
    let page := off / 0x1_0000
    let manager := ∃ k, k < 4 ∧ s.flag (Reg.krt_VALID_108 k) = true ∧ s.fld (Reg.krt_MGR k) = f.src
    let managed := ∃ k, k < 4 ∧ s.flag (Reg.krt_VALID_108 k) = true
    (Arrives s p f 0x19 →
      ((page = 0x84 ∨ page = 0x85) → off % 8 = 0 → ∃ t, exec (.mgmtRd p f) s = .next t ∧ Received s t p f ∧
        Replies s t p f 0x1B 0 off 0 (leBytes (s.regRead (.port p) off).1 8 ++ List.replicate 24 0)) ∧
      ((page = 0x84 ∨ page = 0x85) → off % 8 ≠ 0 → ∃ t, exec (.mgmtRd p f) s = .next t ∧ Received s t p f ∧
        Replies s t p f 0x1B 0 off 0 (List.replicate 32 0) ∧ Reported s t page 0x07) ∧
      (page < 0x44 ∨ 0x85 < page → ∃ t, exec (.mgmtRd p f) s = .next t ∧ Received s t p f ∧ Replies s t p f 0x05 0 2 0 [])) ∧
    (Arrives s p f 0x1A → s.alive = true → s.pins.modRstN = true →
      let w := leNat (f.payload.take 8)
      (off = Reg.krt_NODEID.off → manager → s.flag Reg.sys_NODE = false → ∃ t, exec (.mgmtWr p f) s = .next t ∧ Received s t p f ∧
        t.fld Reg.krt_NODEID = bitsOf w 19 0 ∧ t.flag Reg.krt_VALID = bitOf w 63 ∧ t.nodeSet = (s.nodeSet || bitOf w 63)) ∧
      (¬ manager → managed → ∃ t, exec (.mgmtWr p f) s = .next t ∧ Received s t p f ∧ SameMemory s t ∧
        t.fld Reg.krt_NODEID = s.fld Reg.krt_NODEID ∧ t.flag Reg.krt_VALID = s.flag Reg.krt_VALID ∧ Replies s t p f 0x05 0 3 0 [])) ∧
    (Arrives s p f 0x1C →
      let q := f.addr % 64
      let w := leNat (f.payload.take 16)
      let write := bitsOf w 4 0 = 0x1A
      (bitsOf w 4 0 = 0x19 ∨ write →
        (s.fld (Reg.kp_LSTATE q) = 5 → s.relays.length < 4096 → ∃ t tag y, exec (.mgmtRelay p f) s = .next t ∧
          t.relays = s.relays ++ [⟨q, tag, p, f⟩] ∧ (∀ r ∈ s.relays, ¬ (r.port = q ∧ r.tag = tag)) ∧
          (t.link q).txq = (s.link q).txq ++ [y] ∧ y.op = bitsOf w 4 0 ∧ y.vc = 3 ∧ y.src = s.srcId ∧ y.dst = 0xFFFFF ∧ y.tag = tag ∧
          y.addr = bitsOf w 121 78 ∧ (¬ write → y.payload = []) ∧
          (write → y.payload = leBytes (leNat ((f.payload.drop 16).take 8)) 8 ++ List.replicate 24 0)) ∧
        (s.fld (Reg.kp_LSTATE q) ≠ 5 → ∃ t, exec (.mgmtRelay p f) s = .next t ∧ t.relays = s.relays ∧ Replies s t p f 0x05 0 5 0 []))) ∧
    (Arrives s p f 0x1B →
      (∀ r : Relay, s.relays.find? (fun x => decide (x.port = p.val ∧ x.tag = f.tag)) = some r → ∀ q : Port, r.from_ = q.val →
        ∃ t, exec (.mgmtRsp p f) s = .next t ∧ t.relays = s.relays.erase r ∧ Replies s t q r.flit 0x1B f.len r.flit.addr 0 f.payload) ∧
      (s.relays.find? (fun x => decide (x.port = p.val ∧ x.tag = f.tag)) = none → ∃ t, exec (.mgmtRsp p f) s = .next t ∧
        t.mgmtRsp = some f ∧ Received s t p f)) ∧
    (∀ v : Word, s.alive = true → s.pins.modRstN = true →
      (s.flag Reg.sys_NODE = false → ∃ t, exec (.nodeidWrite (.core 16) v) s = .next t ∧
        t.fld Reg.krt_NODEID = bitsOf v.toNat 19 0 ∧ t.flag Reg.krt_VALID = v.toNat.testBit 63 ∧
        BitsBut s t [Reg.krt_NODEID, Reg.krt_VALID]) ∧
      (HostUp s → ∃ t, exec (.nodeidWrite .host v) s = .next t ∧ t.fld Reg.krt_NODEID = s.fld Reg.krt_NODEID ∧
        t.flag Reg.krt_VALID = s.flag Reg.krt_VALID ∧ Reported s t 0x84 0x07))

/-! ## Collectives (R264 to R271, R341, R351) -/

namespace Sys2Proof.Spec

/-- Collective c is the oldest of station n, none of the station runs, and its descriptor passes its check and does not hold. -/
def CollNextUp (s : State) (n : Stn) (c : Coll) : Prop :=
  s.safe = false ∧ s.inReset n = false ∧ (∃ rest, s.colls.filter (fun y => decide (y.q.stn = n.val)) = c :: rest) ∧
  (s.colls.map (fun y => y.id)).Nodup ∧ c.started = false ∧ s.memHeld n c.q.addr 128 = false

/-- The group entry that the descriptor of collective x names (R264). -/
def collGroup (s : State) (n : Stn) (x : Coll) : Nat := s.fld (Reg.krt_GBASE n) + bitsOf x.d 14 3

/-- Collective c begins, and x is c with its descriptor and group read. -/
def CollBegins (s : State) (n : Stn) (c x : Coll) (kind : Nat) : Prop :=
  let g := s.group (collGroup s n x)
  CollNextUp s n c ∧ s.check (some n) c.q.addr 128 false = .ok ∧
  x = { c with d := seenWord s c.q.addr 128, p := g.p, rank := g.rank, nodes := (List.range g.p).map (s.rankNode g), code := 0 } ∧
  x.d % 8 = kind

/-- Nothing keeps collective x from its whole start: its checks pass, what it reads stands in this module, clear of the
Mortars, no access of it holds, its accumulator is free, and this member has a rank. -/
def CollFree (s : State) (n : Stn) (x : Coll) : Prop :=
  s.collCode x = 0 ∧ x.rank < x.p ∧ (∀ r ∈ nonempty x.ranges.1, gNode r.1 = s.nodeId) ∧ NotInMortar (nonempty x.ranges.1) ∧
  s.anyHeld n (nonempty (x.ranges.1 ++ x.ranges.2)) = false ∧ (x.f.kind = 4 → s.normFree n x.f.nreg = true)

/-- The command that begins a collective of each kind. -/
def collCmd (n : Stn) (k : Fin 6) : Instr :=
  match k with
  | 0 => .allreduce n
  | 1 => .orderedReduce n
  | 2 => .reduceScatter n
  | 3 => .allgather n
  | 4 => .sumsq n
  | 5 => .permute n

/-- Collective c of s has ended in t with a code. -/
def CollEnded (t : State) (c : Coll) (code : Nat) : Prop := ∃ y ∈ t.colls, y.id = c.id ∧ y.q = c.q ∧ y.started = true ∧ y.code = code

/-- Collective x has begun: it runs under its group's next number, which goes up (R243). -/
def CollStarted (s t : State) (n : Stn) (x : Coll) : Prop :=
  let e := collGroup s n x
  (∃ y ∈ t.colls, y.id = x.id ∧ y.q = x.q ∧ y.started = true ∧ y.d = x.d ∧ y.cseq = s.grpSeq.get (fun _ => 0) e) ∧
  t.grpSeq.get (fun _ => 0) e = s.grpSeq.get (fun _ => 0) e + 1

/-- Global address g with len bytes lies in this module and carries no tag. -/
def HereAt (s : State) (g len : Nat) : Prop := gNode g = s.nodeId ∧ NoTags (gLocal g) len

/-- Flit f brings elements e to e + k of a chunk of collective c to this member, in phase ph (R243, R267), and no access of
the collective holds. -/
def CollBrings (s : State) (c : Coll) (f : Flit) (ph chunk e k : Nat) : Prop :=
  s.collOf f = some c ∧ c.f.kind ≠ 5 ∧ bitsOf f.addr 39 39 = ph ∧ (s.colls.map (fun y => y.id)).Nodup ∧
  s.anyHeld c.q.stn (nonempty c.ranges.2) = false ∧ 0 < k ∧
  ∃ x, c.place f.flow (c.units ph) (c.got.get (fun _ => 0) (64 * ph + f.flow)) = some (chunk, x, false) ∧
    e = (c.segOf chunk f.flow).1 + 256 / c.f.eb * x ∧
    k = min (256 / c.f.eb) ((c.segOf chunk f.flow).2 - (c.segOf chunk f.flow).1 - 256 / c.f.eb * x)

/-- The way of chunk's reduction ends at this member of collective c: it is the last of the chain, or the chunk is its own. -/
def CollLast (c : Coll) (chunk : Nat) : Prop := if c.f.chain = true then c.rank + 1 = c.p else chunk = c.rank

/-- Collective c has taken a flit of a stream, which brought done elements of the result. -/
def CollTook (t : State) (c : Coll) (stream done : Nat) : Prop :=
  ∃ y ∈ t.colls, y.id = c.id ∧ y.got.get (fun _ => 0) stream = c.got.get (fun _ => 0) stream + 1 ∧ y.done = c.done + done

/-- The bytes of elements e to e + k at this member, each added to the element that flit f brings, in that order (R266). -/
def collSums (s : State) (c : Coll) (f : Flit) (e k : Nat) : List Byte :=
  let eb := c.f.eb
  (List.range k).flatMap (fun i => leBytes (c.f.add (leNat ((f.payload.drop (eb * i)).take eb))
    (s.word (gLocal (c.f.src + eb * (e + i))) eb)).1 eb)

end Sys2Proof.Spec

/-- A collective begins when it is the oldest of its station (R264, R265): one whose descriptor or checks fail keeps its code
and moves nothing. Any other runs, under the next number of its group, whatever its kind, group size and rank.
In a group of one, ALLREDUCE, ORDERED_REDUCE, REDUCE_SCATTER and ALLGATHER leave SRC at DST, SUMSQ leaves
((a0 + a1) + a2) + a3 of its accumulator with NV and POISON (R269), and a PERMUTE of no moves leaves DONE in its journal (R270).
In a larger group an ALLGATHER puts its own chunk in place, a reduction changes no memory at its start, and a PERMUTE that
awaits a block leaves SENDING in its journal.
Points the spec leaves open follow log entries 50, 51, 52. -/
def Obligations.Collectives : Prop :=
  ∀ (s : State) (n : Stn) (c x : Coll) (k : Fin 6),
    (CollNextUp s n c → s.check (some n) c.q.addr 128 false ≠ .ok →
      ∃ t, exec (collCmd n k) s = .next t ∧ CollEnded t c 3 ∧ SameMemory s t) ∧
    (CollBegins s n c x k →
    let f := x.f
    let own := x.chunk x.rank
    (f.seg = 0 ∨ 32 < f.seg ∨ 5 ≤ f.efmt ∨ s.fld (Reg.krt_GNUM n) ≤ f.group → s.collCode x = 2) ∧
    (s.collCode x ≠ 0 → ∃ t, exec (collCmd n k) s = .next t ∧ CollEnded t c (s.collCode x) ∧ SameMemory s t ∧
      ∀ y ∈ s.colls, y.id ≠ c.id → y ∈ t.colls) ∧
    (s.collCode x = 0 → k = 4 → s.normFree n f.nreg = false → exec (.sumsq n) s = .next { s with flight := [] }) ∧
    (CollFree s n x →
      (k = 0 → ∃ t, exec (.allreduce n) s = .next t ∧ CollStarted s t n x) ∧
      (k = 1 → ∃ t, exec (.orderedReduce n) s = .next t ∧ CollStarted s t n x) ∧
      (k = 2 → ∃ t, exec (.reduceScatter n) s = .next t ∧ CollStarted s t n x) ∧
      (k = 3 → ∃ t, exec (.allgather n) s = .next t ∧ CollStarted s t n x) ∧
      (k = 4 → ∃ t, exec (.sumsq n) s = .next t ∧ CollStarted s t n x) ∧
      (k = 5 → ∃ t, exec (.permute n) s = .next t ∧ CollStarted s t n x) ∧
      (k.val < 4 → x.p = 1 → HereAt s f.dst (f.eb * f.count) → ∃ t, exec (collCmd n k) s = .next t ∧ CollEnded t c 1 ∧
        Wrote s t (gLocal f.dst) (s.bytes (gLocal f.src) (f.eb * f.count))) ∧
      (k = 4 → x.p = 1 → HereAt s f.dst 16 →
        let a (q : Nat) : Nat := s.fld (Reg.ldl_NORM q n f.nreg)
        let add (x y : Nat × Bool) : Nat × Bool :=
          let r := Arith.f64.add x.1 y.1
          (r.1, x.2 || y.2 || r.2.nv)
        let sum := add (add (add (a 0, s.flag (Reg.ldl_NORM_NV 0 n f.nreg)) (a 1, s.flag (Reg.ldl_NORM_NV 1 n f.nreg)))
          (a 2, s.flag (Reg.ldl_NORM_NV 2 n f.nreg))) (a 3, s.flag (Reg.ldl_NORM_NV 3 n f.nreg))
        let psn := (List.range 4).any (fun q => s.flag (Reg.ldl_NORM_PSN q n f.nreg))
        ∃ t, exec (.sumsq n) s = .next t ∧ CollEnded t c 1 ∧
          Wrote s t (gLocal f.dst) (leBytes sum.1 8 ++ leBytes ((if sum.2 then 1 else 0) + if psn then 2 else 0) 8)) ∧
      (k.val < 3 → 1 < x.p → ∃ t, exec (collCmd n k) s = .next t ∧ CollStarted s t n x ∧ SameMemory s t) ∧
      (k = 3 → 1 < x.p → HereAt s (f.dst + f.eb * own.1) (f.eb * (own.2 - own.1)) → ∃ t, exec (.allgather n) s = .next t ∧
        CollStarted s t n x ∧
        Wrote s t (gLocal (f.dst + f.eb * own.1)) (s.bytes (gLocal f.src) (f.eb * (own.2 - own.1)))) ∧
      (k = 5 → HereAt s f.jrnl 32 →
        let ms := s.readMoves x
        let y : Coll := { x with moves := ms }
        (f.count = 0 → ∃ t, exec (.permute n) s = .next t ∧ CollEnded t c 1 ∧
          ∃ crc, Wrote s t (gLocal f.jrnl) (leBytes 4 8 ++ leBytes x.round 8 ++ leBytes crc 8 ++ leBytes 0 8)) ∧
        (s.permCode y ≠ 0 → ∃ t, exec (.permute n) s = .next t ∧ CollEnded t c (s.permCode y) ∧ SameMemory s t) ∧
        (s.permCode y = 0 → 1 < x.p → x.round = 0 → (ms.head?).map (fun m => m.owner) = some x.rank →
          (∀ m ∈ ms, gNode m.src ≠ s.nodeId) → ∃ t, exec (.permute n) s = .next t ∧ CollStarted s t n x ∧
          ∃ crc, Wrote s t (gLocal f.jrnl) (leBytes 1 8 ++ leBytes 0 8 ++ leBytes crc 8 ++ leBytes 0 8)))))

/-- Flits of a running collective, and its end. The last member of a chain, or of a chunk's way round the ring, adds its own
elements to those that arrive, in that order, and the sums stand at DST; any other sends the sums on; what a gather or
broadcast brings stands at DST (R266 to R268). PERMUTE counts arrivals at its barrier's root, and at the
release copies what is staged into place, and after the last round leaves DONE (R270). A flit of a collective not begun here
waits. A collective that has ended writes STATUS, and its counter goes up on OK alone; RANGE is recorded as the KRT's (R24); a
lost flit ends it with TIMEOUT and COLL_FAIL (R271). A digest scan sums the CRC-64 of every block's offset and tag (R341).
Points the spec leaves open follow log entries 50, 51, 52. -/
def Obligations.CollectiveFlitsAndEnds : Prop :=
  ∀ (s : State),
    (∀ (p : Port) (f : Flit) (c : Coll) (chunk e k : Nat), Arrives s p f 0x10 → CollBrings s c f 0 chunk e k →
      let eb := c.f.eb
      let a := c.f.dst + eb * (e - if c.f.kind = 2 then (c.chunk c.rank).1 else 0)
      let src := c.f.src + eb * e
      gNode src = s.nodeId → gNode (src + eb * k) = s.nodeId → NotInMortar [(src, eb * k)] → NotInMortar [(src + eb * k, 1)] →
      c.f.kind < 3 → c.f.efmt < 4 →
      (CollLast c chunk → HereAt s a (eb * k) → ∃ t, exec (.collData p f) s = .next t ∧ Received s t p f ∧
        CollTook t c f.flow k ∧ Wrote s t (gLocal a) (collSums s c f e k)) ∧
      (¬ CollLast c chunk → ∃ t, exec (.collData p f) s = .next t ∧ Received s t p f ∧ CollTook t c f.flow 0 ∧ SameMemory s t ∧
        ∀ y, s.flag Reg.krt_VALID = true → s.routeOf s.srcId (c.nodes.getD ((c.rank + 1) % c.p) 0) f.flow = .port y →
          ∃ g, (t.link y).txq = (s.link y).txq ++ [g] ∧ g.op = 0x10 ∧ g.vc = 2 ∧ g.dst = c.nodes.getD ((c.rank + 1) % c.p) 0 ∧
            g.flow = f.flow ∧ bitsOf g.addr 35 12 = c.cseq % 2 ^ 24 ∧ g.payload.take (eb * k) = collSums s c f e k)) ∧
    (∀ (p : Port) (f : Flit) (c : Coll) (chunk e k : Nat), Arrives s p f 0x10 → CollBrings s c f 1 chunk e k →
      let a := c.f.dst + c.f.eb * e
      HereAt s a (c.f.eb * k) → c.f.kind ≠ 2 → (c.f.kind = 3 → c.f.shdw = 0) → c.f.eb * k ≤ f.payload.length →
      ∃ t, exec (.collData p f) s = .next t ∧ Received s t p f ∧ CollTook t c (64 + f.flow) k ∧
        Wrote s t (gLocal a) (f.payload.take (c.f.eb * k))) ∧
    (∀ (p : Port) (f : Flit), Arrives s p f 0x10 ∨ Arrives s p f 0x11 → s.collOf f = none → s.collPast f = false →
      exec (.collData p f) s = .next { s with flight := [] } ∧ exec (.collCtl p f) s = .next { s with flight := [] }) ∧
    (∀ (p : Port) (f : Flit) (c : Coll), Arrives s p f 0x11 → s.collOf f = some c → (s.colls.map (fun y => y.id)).Nodup → c.f.kind = 5 →
      s.anyHeld c.q.stn (nonempty c.ranges.2) = false → c.jstate = 2 → c.round + 1 = c.rounds.length →
      (c.rank = 0 → bitsOf f.addr 39 39 = 0 → c.arr + 1 < c.p → ∃ t, exec (.collCtl p f) s = .next t ∧ Received s t p f ∧
        SameMemory s t ∧ ∃ y ∈ t.colls, y = { c with arr := c.arr + 1 }) ∧
      (let ms := c.roundIn c.rank
       let stage (i : Nat) : Nat := gLocal c.f.stage + 4096 * i
       c.rank ≠ 0 → bitsOf f.addr 39 39 = 1 → HereAt s c.f.jrnl 32 → NoTags (stage 0) (4096 * ms.length) →
       (∀ i, i < ms.length → ∀ x, ms[i]? = some x →
        NoTags (gLocal x.dst) 4096 ∧ Apart (gLocal x.dst) 4096 (gLocal c.f.jrnl) 32 ∧
        Apart (gLocal x.dst) 4096 (stage 0) (4096 * ms.length) ∧
        ∀ j y, j ≠ i → ms[j]? = some y → Apart (gLocal x.dst) 4096 (gLocal y.dst) 4096) →
       ∃ t, exec (.collCtl p f) s = .next t ∧ (∃ y ∈ t.colls, y.id = c.id ∧ y.code = 1 ∧ y.jstate = 4 ∧ y.round = c.round + 1) ∧
        t.word (gLocal c.f.jrnl) 8 = 4 ∧ t.word (gLocal c.f.jrnl + 8) 8 = (c.round + 1) % 2 ^ 64 ∧
        ∀ i x, ms[i]? = some x → ∀ o, o < 4096 → t.byte (gLocal x.dst + o) = s.byte (stage i + o))) ∧
    (∀ (n : Stn) (c : Coll), s.safe = false → s.colls.find? (fun y => decide (y.q.stn = n.val) && y.started) = some c → c.code ≠ 0 →
      s.acked c.id = true → s.memHeld n c.q.addr 128 = false → CountersFit s → c.q.ctr < s.ctrNum n →
      ∃ t, exec (.collectiveDone n) s = .next t ∧
      t.colls = s.colls.filter (fun y => decide (y.id ≠ c.id)) ∧
      (s.check (some n) c.q.addr 128 true = .ok → NoTags (c.q.addr + 0x48) 8 →
        Wrote s t (c.q.addr + 0x48) (leBytes (statusWord c.code c.flags c.psn c.done) 8)) ∧
      (c.code = 1 → c.q.cen = true → CounterTakes s t (s.ctrBase n + c.q.ctr) ((s.ctrValue (s.ctrBase n + c.q.ctr) : Int) + 1)) ∧
      (c.code ≠ 1 → ∀ j, j < 4096 → t.ctrValue j = s.ctrValue j) ∧ (c.code = 3 → Calm s → Reported s t 0x84 0x07)) ∧
    (∀ (n : Stn) (c : Coll), s.colls.find? (fun y => decide (y.q.stn = n.val) && y.started && decide (y.code = 0)) = some c →
      ∃ t, exec (.collTmo n) s = .next t ∧ t.colls = s.colls.map (fun y => if y.id = c.id then { y with code := 9 } else y) ∧
        Reported s t 0x84 0x13 ∧ SameMemory s t ∧ ∀ j, j < 4096 → t.ctrValue j = s.ctrValue j) ∧
    (∀ (n : Stn) (v : Word), HostUp s → v.toNat.testBit 63 = true →
      let a := s.fld (Reg.krt_BASE n) * 4096
      let k := bitsOf v.toNat 31 0
      let fits := k = 0 ∨ s.inHbmRange n a (4096 * k) = true
      (s.flag (Reg.krt_BUSY n) = false → fits → ∃ t, exec (.digestScan .host n v) s = .next t ∧ t.flag (Reg.krt_BUSY n) = true ∧
        t.fld (Reg.krt_NBLK n) = k ∧ t.flag (Reg.krt_CHK n) = bitOf v.toNat 32 ∧ t = { s with regs := t.regs }) ∧
      (s.flag (Reg.krt_BUSY n) = false → ¬ fits → ∃ t, exec (.digestScan .host n v) s = .next t ∧
        t.flag (Reg.krt_BUSY n) = false ∧ t.fld (Reg.krt_RDIG n) = 0 ∧ Reported s t 0x84 0x07) ∧
      (s.flag (Reg.krt_BUSY n) = true → ∃ t, exec (.digestScan .host n v) s = .next t ∧ t.flag (Reg.krt_BUSY n) = true ∧
        t.fld (Reg.krt_RDIG n) = s.fld (Reg.krt_RDIG n) ∧ Reported s t 0x84 0x07)) ∧
    (∀ n : Stn, s.safe = false → s.flag (Reg.krt_BUSY n) = true →
      s.memHeld n (s.fld (Reg.krt_BASE n) * 4096) (4096 * s.fld (Reg.krt_NBLK n)) = false →
      let a (k : Nat) : Nat := s.fld (Reg.krt_BASE n) * 4096 + 4096 * k
      let ks := List.range (s.fld (Reg.krt_NBLK n))
      ∃ t, exec (.digestScanDone n) s = .next t ∧ t.flag (Reg.krt_BUSY n) = false ∧ SameMemory s t ∧
        t.fld (Reg.krt_RDIG n) = ((ks.map (fun k => crc64 (leBytes (4096 * k) 8 ++ leBytes (s.tag (a k)) 8))).sum) % 2 ^ 64 ∧
        t.fld (Reg.krt_UNTAG n) = (ks.filter (fun k => decide (s.tag (a k) = 0))).length ∧
        t.fld (Reg.krt_CRCBAD n) = if s.flag (Reg.krt_CHK n)
          then (ks.filter (fun k => decide (s.tag (a k) ≠ 0 ∧ crc32c (s.bytes (a k) 4096) ≠ s.tag (a k) % 2 ^ 32))).length else 0)

/-! ## Memory controllers and the Crock (R216 to R231) -/

namespace Sys2Proof.Spec

/-- The trusted core reaches the register pages: the module is powered and out of reset (R201, R355). -/
def CoreUp (s : State) : Prop := s.alive = true ∧ s.pins.modRstN = true

/-- What one controller read of the 64-byte access at b, at stack k, counts (R227 to R229). -/
def ReadCounts (s t : State) (k b : Nat) (ecc : Ecc) : Prop :=
  let up (f : Fld) (c : Bool) : Prop := t.fld f = if c then min (s.fld f + 1) (2 ^ 32 - 1) else s.fld f
  up (Reg.mc_CE1_CNT k) (decide (ecc = .onDie)) ∧ up (Reg.mc_CE2_CNT k) (decide (ecc = .symbol)) ∧
  up (Reg.mc_UE_CNT k) (decide (ecc = .uncorrectable)) ∧
  up (Reg.mc_PSN_RD k) (decide (ecc ≠ .uncorrectable) && s.hbmPsn b)

/-- HBM's own bytes and poison are as before at every 64-byte access but the one at b. -/
def OnlyAccess (s t : State) (b : Nat) : Prop :=
  ∀ c, c % 64 = 0 → c ≠ b → t.hbmBytes c 64 = s.hbmBytes c 64 ∧ t.hbmPsn c = s.hbmPsn c

end Sys2Proof.Spec

/-- Controller accesses (R227 to R231): a read delivers its 64 bytes with the stored poison, counts what its decode met, and an
uncorrectable one is poisoned and reported as MEM_UE; a whole write takes its bytes and its poison; a write of part is a counted
read-modify-write that keeps the other bytes and stays poisoned if either was; a scrub leaves what it corrects, and poisons what
it cannot.
Points the spec leaves open follow log entries 53, 54. -/
def Obligations.ControllerAccesses : Prop :=
  ∀ (s : State) (addr : Nat) (ecc : Ecc), isHbm addr = true →
    let b := addr / 64 * 64
    let k := (s.place b).1
    let known := ecc ≠ .uncorrectable ∧ b / 2 ^ 30 / 20 ∉ s.zeroing
    (s.injFires (0x30 + k) 0 = false →
      (∃ t, exec (.hbmRead addr ecc) s = .next t ∧ SameMemory s t ∧ ReadCounts s t k b ecc ∧ t.hbmOut.ok = true ∧
        t.hbmOut.psn = (decide (ecc = .uncorrectable) || s.hbmPsn b) ∧ (known → t.hbmOut.data = s.hbmBytes b 64) ∧
        (ecc = .uncorrectable → Reported s t (0x30 + k) 0x0A) ∧ (ecc ≠ .uncorrectable → t.events = s.events)) ∧
      (∀ (bs : List Byte) (psn : Bool), 0 < bs.length → bs.length < 64 → addr % 64 + bs.length ≤ 64 →
        ∃ t, exec (.hbmWrite addr bs psn ecc) s = .next t ∧ OnlyAccess s t b ∧ ReadCounts s t k b ecc ∧
          t.fld (Reg.mc_RMW_CNT k) = min (s.fld (Reg.mc_RMW_CNT k) + 1) (2 ^ 32 - 1) ∧ t.hbmBytes addr bs.length = bs ∧
          t.hbmPsn b = (psn || decide (ecc = .uncorrectable) || s.hbmPsn b) ∧
          (known → t.hbmBytes b 64 = (s.hbmBytes b 64).take (addr % 64) ++ bs ++ (s.hbmBytes b 64).drop (addr % 64 + bs.length)))) ∧
    (∀ (bs : List Byte) (psn : Bool), bs.length = 64 → addr = b → ∃ t, exec (.hbmWrite addr bs psn ecc) s = .next t ∧
      OnlyAccess s t b ∧ t.hbmBytes b 64 = bs ∧ t.hbmPsn b = psn ∧ t.fld (Reg.mc_RMW_CNT k) = s.fld (Reg.mc_RMW_CNT k) ∧
      t.events = s.events) ∧
    (s.flag (Reg.mc_EN k) = true → ∃ t, exec (.scrubRead addr ecc) s = .next t ∧ OnlyAccess s t b ∧ ReadCounts s t k b ecc ∧
      t.fld (Reg.mc_SCRUB_UE k) = (if ecc = .uncorrectable then min (s.fld (Reg.mc_SCRUB_UE k) + 1) (2 ^ 32 - 1)
        else s.fld (Reg.mc_SCRUB_UE k)) ∧
      (ecc = .uncorrectable → t.hbmPsn b = true ∧ Reported s t (0x30 + k) 0x0A) ∧
      (ecc ≠ .uncorrectable → SameMemory s t ∧ t.hbmBytes b 64 = s.hbmBytes b 64 ∧ t.events = s.events))

/-- Placement and cache geometry (R218, R222 to R225): the trusted core's write of MC_LOCAL is dropped whole and recorded where
it changes a group that a station holds, and else its groups are zeroed with LBUSY set; a MODE or FLUSH write of a granted slice
flushes its station, one on a slice of no station is dropped and recorded, and one during a flush waits in arrival order; at the
end of a flush no line of the station is left, and a slice that changed mode, or came or went with it, reads zero.
Points the spec leaves open follow log entries 54, 55. -/
def Obligations.PlacementAndGeometry : Prop :=
  ∀ (s : State),
    (CoreUp s → ∀ (hi : Bool) (v : Word),
      let f := if hi then Reg.mc_LOCAL_HI 0 else Reg.mc_LOCAL_LO 0
      let w := if hi then 63 else 64
      let changed (j : Nat) : Prop := j / 64 = (if hi then 1 else 0) ∧ j % 64 < w ∧ (s.fld f).testBit (j % 64) ≠ v.toNat.testBit (j % 64)
      ((∃ j, changed j ∧ s.groupHeld j = true) → ∃ t, exec (.mcLocalWrite (.core 16) hi v) s = .next t ∧
        t.fld f = s.fld f ∧ t.zeroing = s.zeroing ∧ SameMemory s t ∧ Reported s t 0x30 0x07) ∧
      ((∃ j, changed j) → (∀ j, changed j → s.groupHeld j = false) → ∃ t, exec (.mcLocalWrite (.core 16) hi v) s = .next t ∧
        t.fld f = v.toNat % 2 ^ w ∧ t.flag (Reg.mc_LBUSY 0) = true ∧ t.events = s.events ∧ SameMemory s t ∧
        ∀ j, j ∈ t.zeroing ↔ j ∈ s.zeroing ∨ changed j)) ∧
    (∀ (j : Nat) (rest : List Nat), s.zeroing = j :: rest → ∃ t, exec .groupZeroingDone s = .next t ∧ t.zeroing = rest ∧
      t.flag (Reg.mc_LBUSY 0) = !rest.isEmpty ∧
      ∀ a, if 20 * j * 2 ^ 30 ≤ a ∧ a < 20 * (j + 1) * 2 ^ 30 then t.byte a = 0 ∧ poisoned t a = false
        else t.byte a = s.byte a ∧ poisoned t a = poisoned s a) ∧
    (∀ (k : Fin 48) (v : Word), HostUp s →
      let flush (w : Nat × Bool) (n : Nat) : Flush := ⟨n, if w.1 < 48 then [w] else [], [], []⟩
      let busy (n : Nat) : Bool := s.flushes.any (fun f => decide (f.stn = n))
      (s.sliceStn k = none → ∃ t, exec (.crkMode .host k v) s = .next t ∧ t.flushes = s.flushes ∧ SameMemory s t ∧
        t.sliceCache k = s.sliceCache k ∧ Reported s t (0x2C + k.val / 12) 0x07) ∧
      (∀ n, s.sliceStn k = some n → v.toNat.testBit 1 = false →
        (busy n = false → v.toNat.testBit 0 = s.sliceCache k → exec (.crkMode .host k v) s = .next s) ∧
        (busy n = false → v.toNat.testBit 0 ≠ s.sliceCache k → ∃ t, exec (.crkMode .host k v) s = .next t ∧ SameMemory s t ∧
          t.flushes = s.flushes ++ [flush (k.val, v.toNat.testBit 0) n] ∧ t.sliceCache k = s.sliceCache k ∧
          t.flag (Reg.crk_BUSY (k.val / 12) (k.val % 12)) = true) ∧
        (busy n = true → ∃ t, exec (.crkMode .host k v) s = .next t ∧ SameMemory s t ∧ t.sliceCache k = s.sliceCache k ∧
          t.flushes = s.flushes.map (fun f => if f.stn = n then { f with waiting := f.waiting ++ [(k.val, v.toNat.testBit 0)] } else f))) ∧
      (∀ n, s.sliceStn k = some n → v.toNat.testBit 1 = true → v.toNat.testBit 0 = s.sliceCache k → busy n = false →
        ∃ t, exec (.crkFlush .host k v) s = .next t ∧ SameMemory s t ∧ t.flushes = s.flushes ++ [flush (48 + k.val, true) n] ∧
          t.flag (Reg.crk_BUSY (k.val / 12) (k.val % 12)) = true)) ∧
    (∀ (n : Stn) (f : Flush), s.flushes.find? (fun x => decide (x.stn = n.val)) = some f → f.waiting = [] →
      (∀ w, w ∈ f.modes → w.1 < 48) → f.modes.length ≤ 1 →
      ∃ t, exec (.crockFlushDone n) s = .next t ∧ t.flushes = s.flushes.filter (fun x => decide (x.stn ≠ n.val)) ∧
        (∀ c, c ∈ t.cache → c.stn ≠ n.val) ∧ (∀ c, c ∈ s.cache → c.stn ≠ n.val → c ∈ t.cache) ∧
        (∀ k b, (k, b) ∈ f.modes → t.sliceCache k = b) ∧
        ∀ a, let gone := ∃ k, ((∃ b, (k, b) ∈ f.modes) ∨ k ∈ f.zero) ∧ sliceAddr k ≤ a ∧ a < sliceAddr (k + 1)
          (gone → t.byte a = 0 ∧ poisoned t a = false) ∧ (¬ gone → t.byte a = s.byte a ∧ poisoned t a = poisoned s a))

/-! ## Stations, engines and cores (R21 to R24, R203, R365 to R373) -/

namespace Sys2Proof.Spec

/-- Core c has left reset: its registers are at their reset values, it fetches at RVEC, and it runs unless HALT holds it. -/
def CoreStarts (s t : State) (c : Nat) : Prop :=
  t.core c = { CoreSt.reset with pc := 4 * s.fld (Reg.cc_RVEC c) } ∧ t.flag (Reg.cc_RUN c) = !s.flag (Reg.cc_HALT c) ∧
  t.flag (Reg.cc_HALTED c) = s.flag (Reg.cc_HALT c)

/-- Core c is held in reset. -/
def CoreHeld (t : State) (c : Nat) : Prop :=
  t.core c = .reset ∧ t.flag (Reg.cc_RUN c) = false ∧ t.flag (Reg.cc_HALTED c) = false

/-- No recipe, operation, transfer, engine work or collective of station n runs or is queued. -/
def NothingRuns (t : State) (n : Nat) : Prop :=
  t.launch n = none ∧ t.flag (Reg.seq_QUEUED 0 n) = false ∧ (∀ g ∈ t.gops, g.stn ≠ n) ∧ (∀ x ∈ t.xfers, x.stn ≠ n) ∧
  (∀ x ∈ t.spks, x.stn ≠ n) ∧ (∀ c ∈ t.colls, c.q.stn ≠ n) ∧
  (∀ w : Stack, (∀ d ∈ (t.whisk w).queue, d.stn ≠ n) ∧ ∀ c, (t.whisk w).run = some c → c.q.stn ≠ n) ∧
  (∀ d : Die, (∀ x ∈ (t.tong d).queue, x.stn ≠ n) ∧ (∀ x ∈ (t.tong d).run, x.q.stn ≠ n) ∧
    (∀ x ∈ (t.mortar d).queue, x.stn ≠ n) ∧ ∀ x, (t.mortar d).run = some x → x.q.stn ≠ n)

/-- Memory reads in t what it reads in s, but that a byte which a store of a core in P put there may read as what the store
replaced, if no other write has met it since (R203). -/
def MemoryButLost (s t : State) (P : Nat → Prop) : Prop :=
  ∀ a, (t.byte a = s.byte a ∨ ∃ e ∈ s.coreBytes, P e.core ∧ e.addr = a ∧ t.byte a = e.old) ∧
    (poisoned t a = poisoned s a ∨
      ∃ e ∈ s.coreBytes, P e.core ∧ e.psn = true ∧ e.addr / granule e.addr = a / granule a ∧ poisoned t a = true)

/-- A reset of station n has begun. -/
def ResetBegun (s t : State) (n : Stn) (release : Bool) : Prop :=
  (∃ led, t.resets = s.resets ++ [⟨n, release, led⟩]) ∧ (t.fld Reg.sys_STN_RBUSY).testBit n = true ∧ t.flag (Reg.sys_EN n) = true ∧
  NothingRuns t n ∧ ∀ c, c < 16 → (t.fld (Reg.sys_CORE_MASK n)).testBit c = true → CoreHeld t c

end Sys2Proof.Spec

/-- Enabling a station (R21 to R23, R119, R203, R225, R362), by the trusted core alone: without cores and ranges, or where its
grants meet those of an enabled station, EN stays 0 and OVL is set; else its Crock slices read zero, its Ladle slots hold the
pass-through program and nothing else, MS2 is extended with its registers, and its cores leave reset. LOCK freezes the RWL
fields until a reset of the station. A ledger is configured by a write that changes BASE or LEN, and HEAD restarts (R370). -/
def Obligations.StationsAreEnabled : Prop :=
  ∀ (s : State) (n : Stn) (v : Word), s.inReset n = false →
    let locked := s.flag (Reg.sys_LOCK n)
    let cores := if locked then s.fld (Reg.sys_CORE_MASK n) else bitsOf v.toNat 31 16
    let r := s.setFld (Reg.sys_CORE_MASK n) cores
    let empty := cores = 0 ∧ ∀ k, k < 4 → s.flag (Reg.sys_VALID n k) = false
    let meets := ∃ k, k < 8 ∧ k ≠ n.val ∧ s.flag (Reg.sys_EN k) = true ∧ r.grantsMeet n k = true
    (CoreUp s → s.flag (Reg.sys_EN n) = false → v.toNat.testBit 0 = true →
      (empty ∨ meets → ∃ t, exec (.stationEnable (.core 16) n v) s = .next t ∧ t.flag (Reg.sys_EN n) = false ∧
        t.flag (Reg.sys_OVL n) = true ∧ SameMemory s t ∧ t.cores = s.cores) ∧
      (¬ empty → ¬ meets → ∃ t, exec (.stationEnable (.core 16) n v) s = .next t ∧ t.flag (Reg.sys_EN n) = true ∧
        t.flag (Reg.sys_OVL n) = false ∧ t.fld (Reg.sys_CORE_MASK n) = cores ∧
        (∀ c, c < 16 → (cores.testBit c = true → CoreStarts s t c) ∧ (cores.testBit c = false → t.core c = s.core c)) ∧
        (∀ (q : Quad) (i : Fin 16), t.lslots.get (fun _ => none) (128 * q.val + 16 * n.val + i.val) =
          if i.val = 0 then some (passThrough q (s.trayWin n q).1) else none) ∧
        (∀ w, w < 6 → t.fld (Reg.fw_MS 2 w) = bitsOf (Config.sha384 ((List.range 6).flatMap (fun j => leBytes (s.fld (Reg.fw_MS 2 j)) 8) ++
          t.stnMeasure n)).toNat (64 * w + 63) (64 * w)) ∧
        ∀ a, let new := ∃ k, k < 48 ∧ (s.fld (Reg.sys_CRK_MASK n)).testBit k = true ∧ sliceAddr k ≤ a ∧ a < sliceAddr (k + 1)
          (new → t.byte a = 0 ∧ poisoned t a = false) ∧ (¬ new → t.byte a = s.byte a ∧ poisoned t a = poisoned s a))) ∧
    (CoreUp s → v.toNat.testBit 0 = s.flag (Reg.sys_EN n) →
      (v.toNat.testBit 1 = true → ∃ t, exec (.stationLock (.core 16) n v) s = .next t ∧ t.flag (Reg.sys_LOCK n) = true ∧
        t.flag (Reg.sys_EN n) = s.flag (Reg.sys_EN n)) ∧
      (locked = true → ∃ t, exec (.stationLock (.core 16) n v) s = .next t ∧ t.flag (Reg.sys_LOCK n) = true ∧
        t.fld (Reg.sys_INTEG n) = s.fld (Reg.sys_INTEG n) ∧ t.fld (Reg.sys_CORE_MASK n) = s.fld (Reg.sys_CORE_MASK n) ∧
        (bitsOf v.toNat 5 4 ≠ s.fld (Reg.sys_INTEG n) ∨ bitsOf v.toNat 31 16 ≠ s.fld (Reg.sys_CORE_MASK n) → Reported s t 0 0x07))) ∧
    (HostUp s →
      (∃ t, exec (.stationEnable .host n v) s = .next t ∧ t.flag (Reg.sys_EN n) = s.flag (Reg.sys_EN n) ∧
        t.fld (Reg.sys_CORE_MASK n) = s.fld (Reg.sys_CORE_MASK n) ∧ Reported s t 0 0x07) ∧
      (let b := bitsOf v.toNat 43 12
       let l := bitsOf v.toNat 55 48
       (b = s.fld (Reg.sys_BASE n) → l = s.fld (Reg.sys_LEN n) → exec (.ledgerConfig .host n v) s = .next s) ∧
       (b ≠ s.fld (Reg.sys_BASE n) ∨ l ≠ s.fld (Reg.sys_LEN n) → ∃ t, exec (.ledgerConfig .host n v) s = .next t ∧
        t.fld (Reg.sys_BASE n) = b ∧ t.fld (Reg.sys_LEN n) = l ∧ t.fld (Reg.sys_HEAD n) = 0 ∧ t = { s with regs := t.regs })))

/-- Station reset (R366, R367): a restart, or a release by a write of 0 to EN, stops the station's recipe, work and cores; one
that meets a reset in progress joins it, and a release then makes it a release. It finishes once the station's issued writes are
answered: counters, watches, barriers, accumulators, generator slots and staged parameters are at their reset values, LOCK is
clear, and STN_RBUSY too. As a reset begins, memory stays but for bytes of its cores' stores that had not reached it (R203).
A restart keeps the grants and, with no ledger and nothing parked, every byte of memory, and its cores leave reset; a release ends with EN 0, its windows and slices zero, and HBM as it is.
Points the spec leaves open follow log entries 58, 59, 60, 81. -/
def Obligations.StationResets : Prop :=
  ∀ (s : State) (n : Stn),
    (CoreUp s →
      (s.flag (Reg.sys_EN n) = true → s.inReset n = false → ∃ t, exec (.stationRestart (.core 16) n) s = .next t ∧
        ResetBegun s t n false ∧
        (NothingRuns s n → MemoryButLost s t (fun c => (s.fld (Reg.sys_CORE_MASK n)).testBit c = true))) ∧
      (s.flag (Reg.sys_EN n) = true → s.inReset n = true → exec (.stationRestart (.core 16) n) s = .next s) ∧
      (s.flag (Reg.sys_EN n) = false → ∃ t, exec (.stationRestart (.core 16) n) s = .next t ∧ t.resets = s.resets ∧
        Reported s t 0 0x07) ∧
      (∀ v : Word, v.toNat.testBit 0 = false → s.flag (Reg.sys_EN n) = true →
        (s.inReset n = false → ∃ t, exec (.stationRelease (.core 16) n v) s = .next t ∧ ResetBegun s t n true ∧
          (NothingRuns s n → MemoryButLost s t (fun c => (s.fld (Reg.sys_CORE_MASK n)).testBit c = true))) ∧
        (s.inReset n = true → ∃ t, exec (.stationRelease (.core 16) n v) s = .next t ∧
          t.resets = s.resets.map (fun r => if r.stn = n.val then { r with release := true } else r)))) ∧
    (HostUp s → ∃ t, exec (.stationRestart .host n) s = .next t ∧ t.resets = s.resets ∧ Reported s t 0 0x07) ∧
    (s.inReset n = false → exec (.stationResetFinish n) s = .next { s with flight := [] }) ∧
    (∀ r : StnReset, s.resets.find? (fun x => decide (x.stn = n.val)) = some r →
      ((∃ q ∈ s.reqs, q.write = true ∧ q.stn = n.val) ∨ (∃ w ∈ s.outq, w.stn = n.val) →
        exec (.stationResetFinish n) s = .next { s with flight := [] }) ∧
      ((∀ q ∈ s.reqs, q.write = true → q.stn ≠ n.val) → (∀ w ∈ s.outq, w.stn ≠ n.val) → CountersFit s → (∀ b, s.heldAt b = []) →
        let quiet := NothingRuns s n ∧ s.fld (Reg.sys_LEN n) = 0 ∧ (∀ d : Die, ∀ x ∈ (s.tong d).parked, x.q.stn ≠ n.val) ∧ ∀ f ∈ s.flushes, f.stn ≠ n.val
        ∃ t, exec (.stationResetFinish n) s = .next t ∧ t.inReset n = false ∧ (t.fld Reg.sys_STN_RBUSY).testBit n = false ∧
          t.flag (Reg.sys_LOCK n) = false ∧
          (∀ i, s.ctrBase n ≤ i → i < s.ctrBase n + s.ctrNum n → t.ctrValue i = 0 ∧ t.ctrLimit i = 2 ^ 32 - 1) ∧
          (∀ w x, t.watch w = some x → x.stn ≠ n.val) ∧ (∀ v ∈ t.verdicts, v.stn ≠ n.val) ∧ (∀ c ∈ t.cache, c.stn ≠ n.val) ∧
          (∀ d : Die, ∀ x ∈ (t.tong d).parked, x.q.stn ≠ n.val) ∧
          (∀ (q : Quad) (j : Fin 16), t.fld (Reg.ldl_NORM q n j) = 0) ∧
          (∀ (q : Quad) (k : Fin 64), t.gens.get (fun _ => .reset) (512 * q.val + 64 * n.val + k.val) = .reset) ∧
          (∀ i : Fin 256, stagedParam t n i = none) ∧ (∀ j : Fin 4, t.fld (Reg.seq_PEND 0 n j) = 0) ∧
          (r.release = false → t.flag (Reg.sys_EN n) = s.flag (Reg.sys_EN n) ∧ t.fld (Reg.sys_CORE_MASK n) = s.fld (Reg.sys_CORE_MASK n) ∧
            (∀ c, c < 16 → (s.fld (Reg.sys_CORE_MASK n)).testBit c = true → s.coreStn c = some n.val → CoreStarts s t c) ∧
            (quiet → SameMemory s t)) ∧
          (r.release = true → t.flag (Reg.sys_EN n) = false ∧ t.fld (Reg.sys_CORE_MASK n) = 0 ∧ t.fld (Reg.sys_CRK_MASK n) = 0 ∧
            (∀ (q : Quad) (o : Nat), ((s.trayWin n q).1 ≤ o → o < (s.trayWin n q).1 + (s.trayWin n q).2 → t.byte (trayAddr q o) = 0) ∧
              ((s.potWin n q).1 ≤ o → o < (s.potWin n q).1 + (s.potWin n q).2 → t.byte (potAddr q o) = 0)) ∧
            (∀ k, k < 48 → (s.fld (Reg.sys_CRK_MASK n)).testBit k = true → ∀ o, o < 0x200_0000 → t.byte (sliceAddr k + o) = 0) ∧
            (quiet → (∀ c ∈ s.cache, c.stn = n.val → c.dirty = false) → ∀ a, isHbm a = true → t.byte a = s.byte a))))

/-- Engine and core resets (R203, R206, R214, R365, R368, R369): a PAGE that is no engine starts nothing and is recorded; a
Whisk, Tongs or Mortar ends all its work, and a Mortar's local memory reads zero with no owner; a sequencer's recipes and
transfers stop, a Griddle's operations and recipes, a Ladle's operations and SPK commands; a port goes DOWN, and trains if EN is
1. BUSY stays until every engine is ready. RST restarts one core, never the trusted core, nor a station core outside an enabled
station, and one whose station is in reset stays in reset; of memory it may take back bytes of that core's stores that had not
reached it (R203). HALT halts a running core and releases a halted one.
Points the spec leaves open follow log entries 58, 60, 61, 81. -/
def Obligations.EngineAndCoreResets : Prop :=
  ∀ (s : State),
    (∀ v : Word, HostUp s → v.toNat.testBit 63 = true →
      let page := v.toNat % 256
      (isEngine page = false → ∃ t, exec (.engineReset .host v) s = .next t ∧ t.engResets = s.engResets ∧ SameMemory s t ∧
        Reported s t 0 0x07) ∧
      (isEngine page = true → ∃ t, exec (.engineReset .host v) s = .next t ∧ page ∈ t.engResets ∧ t.flag Reg.sys_BUSY = true ∧
        (∀ w : Stack, page = 0x10 + w.val → (t.whisk w).queue = [] ∧ (t.whisk w).run = none) ∧
        (∀ d : Die, page = 0x24 + d.val → (t.tong d).queue = [] ∧ (t.tong d).run = [] ∧ (t.tong d).parked = []) ∧
        (∀ d : Die, page = 0x28 + d.val → (t.mortar d).queue = [] ∧ (t.mortar d).run = none ∧ (t.mortar d).owned = false ∧
          t.flag (Reg.mtr_FVALID d) = false ∧ ∀ o, o < 0x100_0000 → t.byte (mtrAddr d o) = 0 ∧ poisoned t (mtrAddr d o) = false) ∧
        (∀ q : Quad, page = 0x0C + q.val → (∀ x ∈ t.xfers, x.q ≠ q.val) ∧ ∀ (n : Stn) l, t.launch n = some l → l.has q = false) ∧
        (∀ q : Quad, page = 0x04 + q.val → (∀ g ∈ t.gops, q.val ∉ g.f.region) ∧ ∀ (n : Stn) l, t.launch n = some l → l.has q = false) ∧
        (∀ q : Quad, page = 0x08 + q.val → (∀ x ∈ t.spks, x.q ≠ q.val) ∧ ∀ g ∈ t.gops, g.granted = true → q.val ∉ g.f.ladles) ∧
        (∀ p : Port, page = 0x44 + p.val →
          t.fld (Reg.kp_LSTATE p) = if s.flag (Reg.kp_EN p) = true ∧ s.safe = false then 1 else 0))) ∧
    (∀ page : Fin 155,
      (page.val ∉ s.engResets → exec (.engineReady page) s = .next s) ∧
      (page.val ∈ s.engResets → ∃ t, exec (.engineReady page) s = .next t ∧
        t.engResets = s.engResets.filter (fun p => decide (p ≠ page.val)) ∧
        (t.flag Reg.sys_BUSY = true ↔ ∃ p ∈ s.engResets, p ≠ page.val) ∧ ∀ f ∈ t.flushes, 8 ≤ f.stn)) ∧
    (∀ c : Core, CoreUp s →
      (c = 16 ∨ (c.val < 16 ∧ s.coreStn c = none) → exec (.coreReset (.core 16) c) s = .next s) ∧
      (∀ k, c.val < 16 → s.coreStn c = some k → s.inReset k = true → ∃ t, exec (.coreReset (.core 16) c) s = .next t ∧
        MemoryButLost s t (fun d => d = c.val) ∧ CoreHeld t c) ∧
      (c ≠ 16 → (c.val < 16 → ∃ k, s.coreStn c = some k ∧ s.inReset k = false) → ∃ t, exec (.coreReset (.core 16) c) s = .next t ∧
        MemoryButLost s t (fun d => d = c.val) ∧
        (c.val < 16 → CoreStarts s t c) ∧ t.flag (Reg.cc_RUN c) = !s.flag (Reg.cc_HALT c) ∧
        (t.core c).pc = 4 * s.fld (Reg.cc_RVEC c) ∧ (∀ j, (t.core c).kr j = 0 ∧ (t.core c).xr j = 0) ∧ (t.core c).kven = false ∧
        (t.core c).kvu = false ∧ (t.core c).sat = false ∧ (t.core c).dirty = false ∧
        (c = 17 → (t.core c).pmpcfg = sandbox.pmpcfg ∧ (t.core c).pmpaddr = sandbox.pmpaddr) ∧
        ∀ d, d ≠ c.val → t.core d = s.core d) ∧
      (∀ v : Word, v.toNat.testBit 1 = false → ∃ t, exec (.halt (.core 16) c v) s = .next t ∧
        t = { s with regs := t.regs } ∧ t.flag (Reg.cc_HALT c) = v.toNat.testBit 0 ∧
        (v.toNat.testBit 0 ≠ s.flag (Reg.cc_HALT c) → v.toNat.testBit 0 = true → s.flag (Reg.cc_RUN c) = true →
          t.flag (Reg.cc_RUN c) = false ∧ t.flag (Reg.cc_HALTED c) = true) ∧
        (v.toNat.testBit 0 ≠ s.flag (Reg.cc_HALT c) → v.toNat.testBit 0 = false → s.flag (Reg.cc_HALTED c) = true →
          t.flag (Reg.cc_RUN c) = true ∧ t.flag (Reg.cc_HALTED c) = false)))

/-! ## Power, temperature and pins (R17, R329, R330, R386 to R396) -/

namespace Sys2Proof.Spec

/-- The compute and HBM memories have lost their power: they read 0 here (log entry 4), firmware memory stays, and the array
clock stands (R393). -/
def PowerLost (s t : State) : Prop :=
  t.power.phase = 0 ∧ t.flag Reg.pwr_COMPUTE_GOOD = false ∧ t.fld Reg.pwr_ARRAY_CUR = 0 ∧
  ∀ a, t.byte a = if a < 0xE00_0000_0000 then 0 else s.byte a

/-- No limit waits for an operation boundary to fall (R386, R390). -/
def LimitsSteady (s : State) : Prop := s.power.thermActive = false ∧ s.power.powerDrop = false

/-- Trusted firmware boots (R356): from the copy named by ACTIVE_T, else from the other; with neither the boot ROM waits for a
recovery image. The image runs from trusted memory and MS0 is extended with its HASH and SVN; then service firmware is chosen
alike, loaded, and core 17 released with the CORE and PLAT locks set. -/
def Boots (s t : State) : Prop :=
  let pick (trusted : Bool) (a : Bool) : Option Bool :=
    if s.copyOk trusted a then some a else if s.copyOk trusted (!a) then some (!a) else none
  let man (trusted b : Bool) : Manifest := manifestOf (s.flashBytes (copyOff trusted b) 256)
  t.fuses = s.fuses ∧ t.flash = s.flash ∧ t.flag (Reg.cc_RUN 16) = true ∧
  (pick true s.fuses.activeT = none → t.fld Reg.fw_STAGE = 7 ∧ t.svcRun = none) ∧
  ∀ b, pick true s.fuses.activeT = some b →
    t.fld Reg.fw_STAGE = 3 ∧ t.flag Reg.fw_T_FALLBACK = (b != s.fuses.activeT) ∧ t.fld Reg.fw_T_VERSION = (man true b).version ∧
    t.tSvn = (man true b).svn ∧
    (∀ i, i < (man true b).size → t.byte (trustedBase + i) = s.flash.get memZero (copyOff true b + 4096 + i)) ∧
    (∀ w, w < 6 → t.fld (Reg.fw_MS 0 w) = bitsOf (sha (List.replicate 48 0 ++ leBytes (man true b).hash 48 ++
      leBytes (man true b).svn 4)) (64 * w + 63) (64 * w)) ∧
    (pick false s.fuses.activeS = none → t.flag Reg.fw_S_FALLBACK = true ∧ t.flag Reg.fw_SVC_NONE = true ∧ t.svcRun = none ∧
      t.flag (Reg.cc_RUN 17) = false) ∧
    ∀ c, pick false s.fuses.activeS = some c → t.flag Reg.fw_S_FALLBACK = (c != s.fuses.activeS) ∧ t.flag Reg.fw_SVC_NONE = false ∧
      t.svcRun = some c ∧ t.flag (Reg.cc_RUN 17) = true ∧ t.flag Reg.sys_CORE = true ∧ t.flag Reg.sys_PLAT = true ∧
      (t.core 17).pc = serviceBase ∧ (t.core 17).pmpcfg = sandbox.pmpcfg ∧
      ∀ i, i < (man false c).size → t.byte (serviceBase + i) = s.flash.get memZero (copyOff false c + 4096 + i)

/-- Every block is at its reset state, the management domain included; the flash, the fuses and the commands that wait stay
(R365, R409). -/
def AllReset (s t : State) : Prop :=
  t.fuses = s.fuses ∧ t.flash = s.flash ∧ t.pending = s.pending ∧ t.events = [] ∧ t.gops = [] ∧ t.xfers = [] ∧ t.spks = [] ∧
  t.colls = [] ∧ t.whisks = [] ∧ t.tongs = [] ∧ t.mortars = [] ∧ t.watches = [] ∧ t.entrants = [] ∧ t.links = [] ∧ t.reqs = [] ∧
  t.resets = [] ∧ t.flushes = [] ∧ t.cache = [] ∧ t.snap = [] ∧ t.session = none ∧ t.hoOpen = false ∧ (∀ n, t.launch n = none) ∧
  (∀ off, off / 0x1_0000 ≠ 0x86 → off / 0x1_0000 ≠ 0x97 → off / 0x1_0000 ≠ 0x98 → off ≠ 0x600 → t.reg off = (resetWord off).toNat)

end Sys2Proof.Spec

/-- Power and temperature samples (R330, R386, R388, R390): the readings are recorded; the throttle level rises when the 1 ms
mean exceeds PCAP, is at least 8 after a sample above 5,200 W and at least 4 while a thermal warning holds, and falls after 1 ms
below PCAP − 100 W. A first reading at its warning threshold reports THERM_WARN, one at its trip threshold THERM_TRIP; COOL_OK
low with compute power on reports THERM_TRIP with DETAIL 1; overcurrent trips its stage; an input outside 700 to 860 V with
compute power on reports PWR_INPUT.
Points the spec leaves open follow log entry 79. -/
def Obligations.PowerSamples : Prop :=
  ∀ (s : State),
    (∀ w mean ma dv : Nat, s.injFires 1 0 = false →
      let pcap := min (s.fld Reg.pwr_PCAP_REQ) (s.fld Reg.pwr_PCAP_MAX)
      let h1 := if pcap < mean then min 15 (s.fld Reg.pwr_THROT + 1) else s.fld Reg.pwr_THROT
      let h2 := if 5200 < w then max 8 h1 else h1
      let h3 := if mean + 100 < pcap ∧ s.power.coolSamples = 99 then h2 - 1 else h2
      let h := if s.power.thermActive then max 4 h3 else h3
      let e := s.power.energyRem + w
      ∃ t, exec (.powerSample w mean ma dv) s = .next t ∧ SameMemory s t ∧ t.events = s.events ∧ t.fld Reg.pwr_THROT = h ∧
        t.fld Reg.pwr_PIN = min w 65535 ∧ t.fld Reg.pwr_PIN_1MS = min mean 65535 ∧ t.fld Reg.pwr_IIN = min ma 65535 ∧
        t.fld Reg.pwr_VIN = dv % 65536 ∧ t.flag Reg.pwr_VIN_OK = decide (7000 ≤ dv ∧ dv ≤ 8600) ∧
        t.flag Reg.pwr_COOL_OK = s.pins.coolOk ∧ t.fld Reg.pwr_PEAK = max (s.fld Reg.pwr_PEAK) (min w 65535) ∧
        t.fld Reg.pwr_THROT_SAMPLES = (s.fld Reg.pwr_THROT_SAMPLES + if h = 0 then 0 else 1) % 2 ^ 64 ∧
        t.fld Reg.pwr_ENERGY = (s.fld Reg.pwr_ENERGY + e / 100) % 2 ^ 64 ∧ t.power.energyRem = e % 100) ∧
    (∀ tj thbm : List Nat, s.injFires 1 1 = false →
      let die := (tj.take 4).foldl max 0
      let stk := (thbm.take 20).foldl max 0
      let above := s.fld Reg.pwr_WARN_C ≤ die ∨ s.fld Reg.pwr_HBM_WARN_C ≤ stk
      let trip := s.fld Reg.pwr_TRIP_C ≤ die ∨ s.fld Reg.pwr_HBM_TRIP_C ≤ stk
      let testing := s.flag Reg.sys_BUSY_510
      ∃ t, exec (.thermalSample tj thbm) s = .next t ∧
        (∀ d : Die, t.fld (Reg.pwr_TJ d) = min 255 (tj.getD d 0) ∧
          t.fld (Reg.pwr_TJ_MAX d) = max (min 255 (tj.getD d 0)) (s.fld (Reg.pwr_TJ_MAX d))) ∧
        (∀ k : Stack, t.fld (Reg.pwr_THBM k) = min 255 (thbm.getD k 0)) ∧
        (above → s.power.thermAbove = false → 4 ≤ t.fld Reg.pwr_THROT ∧ t.power.thermActive = true ∧
          (testing = true → t.flag Reg.sys_BUSY_510 = false ∧ t.fld Reg.sys_RESULT = 4) ∧
          (testing = false → ¬ trip → Reported s t 1 0x22)) ∧
        (trip → testing = false → (s.events.filter (fun x => decide (x.page = 1))).length < 3 →
          ∃ e, t.events.getLast? = some e ∧ e.page = 1 ∧ e.code = 0x23) ∧
        (¬ above → ¬ trip → t.events = s.events ∧ SameMemory s t ∧ t.fld Reg.pwr_THROT = s.fld Reg.pwr_THROT) ∧
        (die + 5 ≤ s.fld Reg.pwr_WARN_C → stk + 5 ≤ s.fld Reg.pwr_HBM_WARN_C → t.power.thermActive = false)) ∧
    (∃ t, exec .coolOkLow s = .next t ∧ t.pins.coolOk = false ∧ t.flag Reg.pwr_COOL_OK = false ∧ SameMemory s t ∧
      (s.power.phase = 2 → Reported s t 1 0x23 ∧ ∀ e ∈ t.events, e ∉ s.events → e.detail = 1) ∧
      (s.power.phase ≠ 2 → t.events = s.events)) ∧
    (∃ t, exec .coolOkFalls s = .next t ∧ t.pins.coolOk = false ∧ t.flag Reg.pwr_COOL_OK = false ∧
      (s.power.phase = 1 → PowerLost s t ∧ t.flag Reg.pwr_COMPUTE_ON = false ∧ Reported s t 1 0x23) ∧
      (s.power.phase ≠ 1 → t.events = s.events ∧ SameMemory s t)) ∧
    (∀ k : Fin 8, (s.power.phase = 0 → exec (.overcurrent k) s = .next s) ∧
      (s.power.phase ≠ 0 → ∃ t, exec (.overcurrent k) s = .next t ∧ SameMemory s t ∧ Reported s t 1 0x20 ∧
        t.fld Reg.pwr_STAGE_OC = s.fld Reg.pwr_STAGE_OC ||| 2 ^ k.val)) ∧
    (∀ dv : Nat, (7000 ≤ dv ∧ dv ≤ 8600 → exec (.inputExcursion dv) s = .next s) ∧
      (¬ (7000 ≤ dv ∧ dv ≤ 8600) → ∃ t, exec (.inputExcursion dv) s = .next t ∧ t.flag Reg.pwr_VIN_OK = false ∧
        (s.power.phase = 0 → t.events = s.events ∧ SameMemory s t) ∧ (s.power.phase ≠ 0 → Reported s t 1 0x21) ∧
        (s.power.phase = 1 → PowerLost s t)))

/-- The array clock and compute power (R17, R386, R390, R392, R393, R400): ARRAY_REQ is held within 800 to 1,350 MHz and rounded
down to 25 MHz, and applies only while no operation runs and no margin test does; limits below the request rise by 25 MHz unless
what lowered them still holds. COMPUTE_ON is refused without cool coolant, 100 ms of steady input, or in the safe state; COMPUTE_GOOD
follows when every stack has trained, and a stack that fails is recorded at its controller with the clock at 800 MHz; a write of 0 is refused while a station is enabled, and else the memories lose their power.
Points the spec leaves open follow log entries 4, 27, 79, 80. -/
def Obligations.ClockAndComputePower : Prop :=
  ∀ (s : State),
    let idle := s.arrayIdle = true ∧ s.flag Reg.sys_BUSY_510 = false ∧ LimitsSteady s
    let lim := min s.power.powerLim s.power.thermLim
    (∀ v : Word, HostUp s →
      let req := max 800 (min 1350 (v.toNat % 2048)) / 25 * 25
      ∃ t, exec (.arrayReq .host v) s = .next t ∧ SameMemory s t ∧ t.events = s.events ∧ t.fld Reg.pwr_ARRAY_REQ = req ∧
        (idle → s.flag Reg.pwr_COMPUTE_GOOD = true → t.fld Reg.pwr_ARRAY_CUR = min req lim % 2048) ∧
        (s.arrayIdle = false ∨ s.flag Reg.sys_BUSY_510 = true ∨ s.flag Reg.pwr_COMPUTE_GOOD = false →
          t.fld Reg.pwr_ARRAY_CUR = s.fld Reg.pwr_ARRAY_CUR)) ∧
    (s.arrayIdle = false ∨ LimitsSteady s →
      let req := s.fld Reg.pwr_ARRAY_REQ
      let up (l : Nat) (hold : Prop) (l' : Nat) : Prop := (hold ∨ req ≤ l → l' = l) ∧ (¬ hold → l < req → l' = min 1350 (l + 25))
      ∃ t, exec .clockLimitRaise s = .next t ∧ SameMemory s t ∧ up s.power.thermLim (s.power.thermActive = true) t.power.thermLim ∧
        up s.power.powerLim (s.fld Reg.pwr_THROT ≠ 0) t.power.powerLim) ∧
    (CoreUp s →
      let on (v : Word) : Prop := v.toNat.testBit 0 = true
      let ready := s.pins.coolOk = true ∧ (∃ x, s.power.vinSince = some x ∧ x + 100_000_000 ≤ s.now) ∧ s.safe = false
      (∀ v, on v → s.power.phase = 0 → ready → ∃ t, exec (.computeOn (.core 16) v) s = .next t ∧ t.flag Reg.pwr_COMPUTE_ON = true ∧
        t.power.phase = 1 ∧ t.flag Reg.pwr_COMPUTE_GOOD = s.flag Reg.pwr_COMPUTE_GOOD ∧ SameMemory s t ∧ t.events = s.events) ∧
      (∀ v, on v → s.power.phase = 0 → ¬ ready → ∃ t, exec (.computeOn (.core 16) v) s = .next t ∧
        t.flag Reg.pwr_COMPUTE_ON = s.flag Reg.pwr_COMPUTE_ON ∧ t.power = s.power ∧ SameMemory s t ∧ Reported s t 1 0x07) ∧
      (∀ v, ¬ on v → s.flag Reg.pwr_COMPUTE_ON = true → (∃ n, n < 8 ∧ s.flag (Reg.sys_EN n) = true) →
        ∃ t, exec (.computeOff (.core 16) v) s = .next t ∧ t.flag Reg.pwr_COMPUTE_ON = true ∧ t.power = s.power ∧ SameMemory s t ∧
          Reported s t 1 0x07) ∧
      (∀ v, ¬ on v → s.flag Reg.pwr_COMPUTE_ON = true → (∀ n, n < 8 → s.flag (Reg.sys_EN n) = false) →
        ∃ t, exec (.computeOff (.core 16) v) s = .next t ∧ t.flag Reg.pwr_COMPUTE_ON = false ∧ PowerLost s t ∧ t.events = s.events)) ∧
    (s.power.phase = 1 →
      (∃ t, exec (.computeGood []) s = .next t ∧ t.flag Reg.pwr_COMPUTE_GOOD = true ∧ t.power.phase = 2 ∧ SameMemory s t ∧
        (idle → t.fld Reg.pwr_ARRAY_CUR = min (s.fld Reg.pwr_ARRAY_REQ) lim % 2048)) ∧
      ∀ k : Stack, ∃ t, exec (.computeGood [k]) s = .next t ∧ t.flag Reg.pwr_COMPUTE_GOOD = s.flag Reg.pwr_COMPUTE_GOOD ∧
        t.power.phase = 1 ∧ t.fld Reg.pwr_ARRAY_CUR = 800 ∧ t.flag (Reg.hdr_VALID_38 (0x30 + k.val)) = true ∧ SameMemory s t)

/-- Module reset and the pins (R356, R365, R387, R391, R394 to R396): MRST, the JTAG reset instruction with DBG_EN set and a
released MOD_RST_N each reset every block and boot; MOD_RST_N low holds the reset; standby power good starts boot, and the
standby converter's stop ends everything but flash and fuses. PERST_N low resets the HST page's link and window and discards
pending MSI-X messages, and its release trains the link; nothing else changes.
Points the spec leaves open follow log entries 62, 63, 78. -/
def Obligations.ResetsAndPins : Prop :=
  ∀ (s : State),
    (∀ v : Word, HostUp s → v.toNat.testBit 0 = true → ∃ t, exec (.mrst .host v) s = .next t ∧ AllReset s t ∧ Boots s t) ∧
    (s.flag Reg.hst_DBG_EN = true → CoreUp s → ∃ t, exec .jtagReset s = .next t ∧ AllReset s t ∧ Boots s t) ∧
    (s.flag Reg.hst_DBG_EN = false → exec .jtagReset s = .next s) ∧
    (s.alive = true → ∃ t, exec .modRstN s = .next t ∧ AllReset s t ∧ t.pins.modRstN = false ∧
      ∀ off, t.reg off = (resetWord off).toNat) ∧
    (s.alive = true → s.pins.modRstN = false → (∀ off, s.reg off = (resetWord off).toNat) → s.svcRun = none →
      ∃ t, exec .modRstNRelease s = .next t ∧ t.pins.modRstN = true ∧ Boots s t) ∧
    (s.alive = false → s.pins.modRstN = true → ∃ t, exec .standbyPowerGood s = .next t ∧ t.alive = true ∧ t.pins.stbyPg = true ∧
      AllReset s t ∧ Boots s t ∧ t.flag Reg.pwr_STBY_GOOD = true ∧ t.power = .off) ∧
    (∃ t, exec .standbyConverterStop s = .next t ∧ t.alive = false ∧ t.pins.stbyPg = false ∧ t.fuses = s.fuses ∧ t.flash = s.flash ∧
      t.events = [] ∧ t.gops = [] ∧ t.flag Reg.pwr_STBY_GOOD = false) ∧
    (let link := [Reg.hst_SPEED, Reg.hst_WIDTH, Reg.hst_UP]
     let window := [Reg.hst_WIN_BASE, Reg.hst_WIN_STN, Reg.hst_WIN_EN, Reg.hst_DBG_EN]
     (∃ t, exec .perstN s = .next t ∧ BitsBut s t (link ++ window) ∧ (∀ f ∈ link ++ window, t.fld f = 0) ∧
      t = { s with regs := t.regs, msix := [], pins := { s.pins with perstN := false } }) ∧
     (s.pins.perstN = true → exec .perstNRelease s = .next s) ∧
     (s.pins.perstN = false → ∃ t, exec .perstNRelease s = .next t ∧ BitsBut s t link ∧ t.flag Reg.hst_UP = true ∧
      3 ≤ t.fld Reg.hst_SPEED ∧ t.fld Reg.hst_SPEED ≤ 6 ∧ t.fld Reg.hst_WIDTH ∈ [1, 4, 8, 16] ∧
      t = { s with regs := t.regs, pins := { s.pins with perstN := true }, free := t.free }))

/-! ## The Bolt and the common header (R322 to R336, R382, R402 to R405) -/

namespace Sys2Proof.Spec

/-- The Bolt's action mask for event e once its severity is known (R327, R328). -/
def actions (s : State) (e : Event) (severe : Bool) : Nat :=
  let mask := if severe then s.fld (Reg.bolt_REACT_S e.page) else s.fld (Reg.bolt_REACT_N e.page)
  match classOf e.code with
  | .s => mask &&& 0x17
  | .u => mask
  | .f => mask ||| 0x80

/-- The event makes its source severe, or finds it so (R326): a counted event is severe at once in class F, and else when the
N-th most recent, this one counted, came less than WIN seconds before it. -/
def becomesSevere (s : State) (e : Event) : Bool :=
  let recent := (e.time :: s.hist.get (fun _ => []) e.page).take 32
  s.severeSrc e.page || ((!e.inj || s.flag Reg.bolt_INJ_CNT) && (decide (classOf e.code = EvClass.f) ||
    (match recent[s.fld (Reg.bolt_N e.page) - 1]? with
      | some x => decide (e.time < x + s.fld (Reg.bolt_WIN e.page) * 1_000_000_000)
      | none => false)))

/-- Event e is the one the Bolt takes next: the oldest of the lowest source, of the events that arrived at the global time of the
oldest (R323). -/
def TakenNext (s : State) (e : Event) : Prop :=
  ∃ pre post, s.events = pre ++ e :: post ∧ s.events.head?.map (fun x => x.time) = some e.time ∧ e.page < 155 ∧
    (∀ x ∈ pre, x.time = e.time → e.page < x.page) ∧ ∀ x ∈ post, x.time = e.time → e.page ≤ x.page

/-- The log has taken the event as its next entry, or has counted it as lost where it is full (R336). -/
def LogTakes (s t : State) (e : Event) (severe : Bool) : Prop :=
  let h := s.fld Reg.bolt_HEAD
  if (h + 1) % 64 = s.fld Reg.bolt_TAIL then
    t.fld Reg.bolt_HEAD = h ∧ t.fld Reg.bolt_LOG_LOST = min (s.fld Reg.bolt_LOG_LOST + 1) (2 ^ 32 - 1)
  else
    t.fld Reg.bolt_HEAD = (h + 1) % 64 ∧ t.reg (0x2_1000 + 0x20 * h) = e.time % 2 ^ 64 ∧
    t.reg (0x2_1010 + 0x20 * h) = e.addr % 2 ^ 64 ∧
    t.reg (0x2_1008 + 0x20 * h) = (e.page + e.code * 2 ^ 8 + e.stn.getD 0 * 2 ^ 16 + b2n e.stn.isSome * 2 ^ 19 + b2n e.inj * 2 ^ 20 +
      b2n severe * 2 ^ 21 + b2n e.loss * 2 ^ 22 + b2n (!s.flag Reg.time_LOCK) * 2 ^ 23 + e.master * 2 ^ 24 + e.acc * 2 ^ 32 +
      e.detail % 2 ^ 29 * 2 ^ 35) % 2 ^ 64

end Sys2Proof.Spec

/-- Of the events that arrived at the time of the oldest, the Bolt takes that of the lowest source (R323): it is counted, judged (R326) and logged (R336), and
the actions of its mask, filtered by class, are applied (R327, R328): the host's interrupt, the trusted core's, its station's
cores', the alert, a station reset, an engine reset, the port off, the safe state. With an armed table-parity injection the fixed
actions of BOLT_INTERNAL replace them (R334).
Points the spec leaves open follow log entry 68. -/
def Obligations.EventsAreTaken : Prop :=
  ∀ (s : State) (e : Event) (n : Option Stn), TakenNext s e → e.stn = n.map Fin.val →
    let sev := becomesSevere s e
    let mask := actions s e sev
    ∃ t, exec .boltEvent s = .next t ∧ LogTakes s t e sev ∧ t.severeSrc e.page = sev ∧
      t.fld Reg.bolt_EVENTS = (s.fld Reg.bolt_EVENTS + 1) % 2 ^ 64 ∧
      t.fld (Reg.bolt_CNT e.page) = min (s.fld (Reg.bolt_CNT e.page) + 1) (2 ^ 24 - 1) ∧
      (∀ k : Stn, t.fld (Reg.bolt_STN_EVT k) = if n = some k ∧ classOf e.code = EvClass.s
        then min (s.fld (Reg.bolt_STN_EVT k) + 1) (2 ^ 32 - 1) else s.fld (Reg.bolt_STN_EVT k)) ∧
      (e.code = 0x24 → t.events = s.events.erase e ∧ t.msix = s.msix ∧ t.coreIrq = s.coreIrq ∧ t.safe = s.safe ∧ t.resets = s.resets) ∧
      (e.code ≠ 0x24 → s.injFires 2 0 = true → 0 ∈ t.msix ∧ 16 ∈ t.coreIrq ∧ t.flag Reg.bolt_PEND = true ∧ t.safe = true ∧
        t.resets = s.resets ∧ t.injFires 2 0 = false) ∧
      (e.code ≠ 0x24 → s.injFires 2 0 = false →
        (mask.testBit 0 = true → 0 ∈ t.msix) ∧ (mask.testBit 1 = true → 16 ∈ t.coreIrq) ∧
        (mask.testBit 3 = true → t.flag Reg.bolt_PEND = true ∧
          t.fld Reg.bolt_ALERTS = min (s.fld Reg.bolt_ALERTS + 1) (2 ^ 32 - 1)) ∧
        (mask.testBit 3 = false → t.fld Reg.bolt_ALERTS = s.fld Reg.bolt_ALERTS) ∧
        (∀ k, n = some k → s.flag (Reg.sys_EN k) = true →
          (mask.testBit 2 = true → mask.testBit 4 = false → ∀ c, c < 16 → (s.fld (Reg.sys_CORE_MASK k)).testBit c = true → c ∈ t.coreIrq) ∧
          (mask.testBit 4 = true → t.inReset k = true)) ∧
        (mask.testBit 5 = true → isEngine e.page = true → e.page ∈ t.engResets) ∧
        (∀ p : Port, e.page = 0x44 + p.val → mask.testBit 6 = true →
          t.flag (Reg.kp_EN p) = false ∧ t.fld (Reg.kp_LSTATE p) = 0) ∧
        (mask.testBit 7 = true → t.safe = true ∧ (s.safe = false → 0 < e.code → e.code < 256 → t.fld Reg.bolt_SAFE_WHY = e.code)) ∧
        (mask.testBit 7 = false → t.safe = s.safe) ∧
        (mask &&& 0xF0 = 0 → t.events = s.events.erase e ∧ t.resets = s.resets ∧ t.engResets = s.engResets ∧ SameMemory s t))

/-- ERR_ALERT_N (R331): a clear within the first 10 µs takes effect at their end, the pin stays low while PEND is set, and once
released stays so for its minimum time, after which a set PEND drives it low again.
Writes that clear and arm (R326, R332, R382, R402, R404, R405): SEVERE bits written with 1 clear and empty their sources'
histories; ARM arms one injection, of KIND 0 where the page does not list the one written, and does nothing on a page that accepts
none; ECNT_CLR clears BLK_ECNT, VALID of BLK_FERR_TYPE the whole capture, VALID of BLK_CLAMP its VALID and COUNT.
Points the spec leaves open follow log entry 68. -/
def Obligations.AlertAndHeaderWrites : Prop :=
  (∀ (s : State),
    let released (t : State) : Prop := t.flag Reg.bolt_PIN = false ∧ t.pins.errAlertN = true ∧ t.alert.highMin = true
    let driven (t : State) : Prop := t.flag Reg.bolt_PIN = true ∧ t.pins.errAlertN = false ∧ t.alert.lowMin = true
    let only (t : State) : Prop := BitsBut s t [Reg.bolt_PEND, Reg.bolt_PIN] ∧ t = { s with regs := t.regs, alert := t.alert, pins := t.pins }
    (s.alert.lowMin = false → exec .alertMinTime s = .next s) ∧
    (s.alert.lowMin = true → ∃ t, exec .alertMinTime s = .next t ∧ only t ∧ t.alert.lowMin = false ∧
      t.flag Reg.bolt_PEND = (s.flag Reg.bolt_PEND && !s.alert.clearPend) ∧
      (t.flag Reg.bolt_PEND = false → released t) ∧
      (t.flag Reg.bolt_PEND = true → t.flag Reg.bolt_PIN = s.flag Reg.bolt_PIN ∧ t.pins = s.pins)) ∧
    (s.alert.highMin = false → exec .alertReleaseMinTime s = .next s) ∧
    (s.alert.highMin = true → ∃ t, exec .alertReleaseMinTime s = .next t ∧ only t ∧ t.alert.highMin = false ∧
      t.flag Reg.bolt_PEND = s.flag Reg.bolt_PEND ∧ (s.flag Reg.bolt_PEND = true → driven t) ∧
      (s.flag Reg.bolt_PEND = false → t.pins = s.pins)) ∧
    (HostUp s → ∃ t, exec (.pendClear .host) s = .next t ∧ only t ∧
      (s.flag Reg.bolt_PIN = true → s.alert.lowMin = true → t.alert.clearPend = true ∧
        t.flag Reg.bolt_PEND = s.flag Reg.bolt_PEND ∧ t.flag Reg.bolt_PIN = true) ∧
      (s.flag Reg.bolt_PIN = true → s.alert.lowMin = false → t.flag Reg.bolt_PEND = false ∧ released t) ∧
      (s.flag Reg.bolt_PIN = false → t.flag Reg.bolt_PEND = false ∧ t.flag Reg.bolt_PIN = false ∧ t.pins = s.pins))) ∧
  (∀ (s : State), HostUp s →
    (∀ (j : Fin 3) (v : Word), ∃ t, exec (.severeClear .host j v) s = .next t ∧
      t = { s with regs := t.regs, hist := t.hist } ∧ BitsBut s t [Reg.bolt_SEVERE j] ∧
      (∀ k, k < 64 → (t.fld (Reg.bolt_SEVERE j)).testBit k = ((s.fld (Reg.bolt_SEVERE j)).testBit k && !v.toNat.testBit k)) ∧
      ∀ src, t.hist.get (fun _ => []) src = if src / 64 = j.val ∧ v.toNat.testBit (src % 64) = true then []
        else s.hist.get (fun _ => []) src) ∧
    (∀ (page : Fin 155) (v : Word), v.toNat.testBit 63 = true →
      let kinds := match blkOf page with
        | some (b, _) => injKinds b
        | none => 0
      ∃ t, exec (.injArm .host page v) s = .next t ∧ t = { s with regs := t.regs } ∧
        (kinds ≠ 0 → t.flag (Reg.hdr_ARMED page) = true ∧ t.fld (Reg.hdr_UNIT page) = bitsOf v.toNat 11 4 ∧
          t.fld (Reg.hdr_KIND page) = if kinds.testBit (v.toNat % 16) then v.toNat % 16 else 0) ∧
        (kinds = 0 → t.flag (Reg.hdr_ARMED page) = s.flag (Reg.hdr_ARMED page))) ∧
    (∀ page : Fin 155,
      (∃ t, exec (.ecntClr .host page) s = .next t ∧ t = { s with regs := t.regs } ∧
        BitsBut s t [Reg.hdr_EVENTS page, Reg.hdr_UNDELIVERED page] ∧ t.fld (Reg.hdr_EVENTS page) = 0 ∧
        t.fld (Reg.hdr_UNDELIVERED page) = 0) ∧
      (∃ t, exec (.ferrClear .host page) s = .next t ∧ t = { s with regs := t.regs } ∧
        RegsBut s t ([0x28, 0x30, 0x38, 0x40].map (fun o => 0x1_0000 * page.val + o)) ∧
        ∀ o ∈ [0x28, 0x30, 0x38, 0x40], t.reg (0x1_0000 * page.val + o) = 0) ∧
      (∃ t, exec (.clampClear .host page) s = .next t ∧ t = { s with regs := t.regs } ∧
        BitsBut s t [Reg.hdr_VALID page, Reg.hdr_COUNT page] ∧ t.flag (Reg.hdr_VALID page) = false ∧ t.fld (Reg.hdr_COUNT page) = 0)))

/-! ## Time, snapshots, steps and self-test (R272, R273, R321, R375 to R380, R399) -/

namespace Sys2Proof.Spec

/-- No station is enabled. -/
def NoStation (s : State) : Prop := ∀ n, n < 8 → s.flag (Reg.sys_EN n) = false

/-- A correction of global time by c ns has been applied (R273): past 1 µs forward, or backward while no station is enabled, a
counted step; within 1 µs a slew; past 1 µs backward while a station is enabled, the slow rate. -/
def TimeCorrected (s t : State) (c : Int) : Prop :=
  let stepped := (t.now : Int) = ((s.now : Int) + c) % 2 ^ 64 ∧
    t.fld Reg.time_STEPS = min (s.fld Reg.time_STEPS + 1) 65535 ∧ t.slew = 0 ∧ t.slow = false
  let slewed := t.now = s.now ∧ t.fld Reg.time_STEPS = s.fld Reg.time_STEPS ∧ t.slew = 128000 * c
  (1000 < c → stepped) ∧ (-1000 ≤ c → c ≤ 1000 → slewed ∧ t.slow = (s.slow && decide (c < 0))) ∧
  (c < -1000 → NoStation s → stepped) ∧ (c < -1000 → ¬ NoStation s → slewed ∧ t.slow = true)

/-- An offset of this module's time less its source's has been taken: recorded and corrected; past 1 µs LOCK clears and the Bolt
hears of it, and within 1 µs LOCK sets, but not while the slow rate lasts. -/
def OffsetTaken (s t : State) (o : Int) : Prop :=
  (t.fld Reg.time_OFFSET : Int) = o % 2 ^ 64 ∧ TimeCorrected s t (-o) ∧ SameMemory s t ∧
  (o < -1000 ∨ 1000 < o → t.flag Reg.time_LOCK = false ∧ Reported s t 0x85 0x17) ∧
  (-1000 ≤ o → o ≤ 1000 → t.events = s.events ∧ (t.slow = false → t.flag Reg.time_LOCK = true) ∧
    (t.slow = true → t.flag Reg.time_LOCK = s.flag Reg.time_LOCK))

/-- Nothing but the time page and what a report touches has changed, LOCK is clear and the Bolt hears of it. -/
def LockLost (s t : State) : Prop :=
  t.flag Reg.time_LOCK = false ∧ Reported s t 0x85 0x17 ∧ SameMemory s t ∧ t.now = s.now ∧ t.slew = s.slew ∧
  ∀ off, off / 0x1_0000 ≠ 0x85 → t.reg off = s.reg off

/-- A snapshot trigger has met the latch before it (R375, R376): 1 µs or more after it every register is latched as it stood
and the latch is counted on every page; sooner it is dropped and DROP set; in the same ns the two are one. -/
def Triggered (s t : State) : Prop :=
  SameMemory s t ∧ t.events = s.events ∧ t.now = s.now ∧
  ((∀ x, s.lastLatch = some x → x + 1000 ≤ s.now) →
    (∀ off, off ≠ Reg.time_ARM.off → t.snap.get resetWord off = s.regs.get resetWord off) ∧ t.lastLatch = some s.now ∧
    t.fld Reg.time_SEQ = (s.fld Reg.time_SEQ + 1) % 65536 ∧ t.fld Reg.time_LAST_AT = s.now ∧
    ∀ p, p < 155 → t.fld (Reg.hdr_SEQ p) = (s.fld Reg.time_SEQ + 1) % 65536 ∧ t.flag (Reg.hdr_LVALID p) = true) ∧
  (∀ x, s.lastLatch = some x → s.now < x + 1000 → t.snap = s.snap ∧ t.lastLatch = some x ∧ t.fld Reg.time_SEQ = s.fld Reg.time_SEQ ∧
    (s.now ≠ x → t.flag Reg.time_DROP = true) ∧ (s.now = x → t.flag Reg.time_DROP = s.flag Reg.time_DROP))

/-- A unit that a self-test slice can run on is idle, on die d (R378). -/
def IdleUnit (s : State) (page d : Nat) : Prop :=
  (∃ q : Quad, page = 0x04 + q.val ∧ s.gops = [] ∧ d = q.val) ∨
  (∃ w : Stack, page = 0x10 + w.val ∧ (s.whisk w).run = none ∧ (s.whisk w).queue = [] ∧ d = w.val / 5) ∨
  (∃ k : Die, page = 0x28 + k.val ∧ (s.mortar k).run = none ∧ (s.mortar k).queue = [] ∧ d = k.val) ∨
  (∃ k : Die, page = 0x2C + k.val ∧ (∃ i, i < 12 ∧ s.sliceStn (12 * k.val + i) = none) ∧ d = k.val)

end Sys2Proof.Spec

/-- Global time (R272, R273, R399): a Sync of the module's domain on the port toward the grandmaster gives an offset, corrected
by its residence, the link's delay and the port's ASYM; a Pdelay_Req is answered, and the answer to this module's own gives the
link's delay; a PPS edge gives an offset against NEXT_PPS, which advances by a second, and more than 500 ms away it is ignored
but for the lock; a second without Sync, or 1.5 s without an edge, loses the lock; at each interval a Pdelay_Req leaves every UP
port, and a Sync every one but that toward the grandmaster. Each acts under its own SRC alone. The sign of an offset, what ASYM
is subtracted from, and where the fields of the messages stand are the model's choice (log entries 21, 89).
Snapshots (R375 to R377): ARM for a time still to come waits for it, and is latched when global time reaches it; for one
that has passed it latches at once and sets LATE; a falling edge of SNAP_TRIG latches while PIN_EN is set.
Points the spec leaves open follow log entry 21. -/
def Obligations.TimeAndSnapshots : Prop :=
  (∀ (s : State),
    (∀ (p : Port) (f : Flit), Arrives s p f 0x1E → f.payload.length = 64 →
      let kind := ptpType f.payload
      let heard := s.fld Reg.time_SRC = 1 ∧ ptpDomain f.payload = s.fld Reg.time_DOMAIN
      let toward := s.flag Reg.time_GM = false ∧ s.fld Reg.time_SPORT = p.val
      let l := s.link p
      let answers := ∃ at_, l.pdReq = some (ptpSeqId f.payload, at_)
      let a : Int := s.fld (Reg.kp_ASYM p)
      let corr := ptpCorr f.payload / 65536
      (heard → kind = 0 → toward → ∃ t, exec (.ptp p f) s = .next t ∧ Received s t p f ∧
        OffsetTaken s t ((s.now : Int) - ((ptpTime f.payload : Int) + corr + l.pdelay + if a < 2 ^ 31 then a else a - 2 ^ 32)) ∧
        t.fld Reg.time_NEXT_PPS = s.fld Reg.time_NEXT_PPS) ∧
      (heard → kind = 2 → ∃ t g, exec (.ptp p f) s = .next t ∧ Received s t p f ∧ (t.link p).txq = l.txq ++ [g] ∧ g.op = 0x1E ∧
        g.dst = 0xFFFFF ∧ g.payload.length = 64 ∧ ptpType g.payload = 3 ∧ ptpSeqId g.payload = ptpSeqId f.payload ∧
        (g.payload.drop 44).take 10 = (f.payload.drop 20).take 10 ∧
        (ptpCorr g.payload - (ptpCorr f.payload - 65536 * s.now)) % 2 ^ 64 = 0) ∧
      (heard → kind = 3 → ∀ at_, l.pdReq = some (ptpSeqId f.payload, at_) → ∃ t, exec (.ptp p f) s = .next t ∧ Received s t p f ∧
        (t.link p).pdReq = none ∧ (t.link p).pdelay = ((s.now : Int) - at_ - corr) / 2) ∧
      (¬ heard ∨ (kind = 0 ∧ ¬ toward) ∨ (kind = 3 ∧ ¬ answers) ∨ kind ∉ [0, 2, 3] → ∃ t, exec (.ptp p f) s = .next t ∧ Received s t p f ∧
        t = { s with regs := t.regs, links := t.links } ∧ BitsBut s t [Reg.kp_RX_FLITS p] ∧ (t.link p).pdelay = l.pdelay ∧
        (t.link p).txq = l.txq)) ∧
    (∀ stamp : Nat,
      let off : Int := (stamp : Int) - s.fld Reg.time_NEXT_PPS
      let far := off < -500_000_000 ∨ 500_000_000 < off
      (s.fld Reg.time_SRC ≠ 2 → exec (.ppsIn stamp) s = .next s) ∧
      (s.fld Reg.time_SRC = 2 → far → ∃ t, exec (.ppsIn stamp) s = .next t ∧ LockLost s t ∧
        t.fld Reg.time_NEXT_PPS = s.fld Reg.time_NEXT_PPS) ∧
      (s.fld Reg.time_SRC = 2 → ¬ far → ∃ t, exec (.ppsIn stamp) s = .next t ∧ OffsetTaken s t off ∧
        t.fld Reg.time_NEXT_PPS = (s.fld Reg.time_NEXT_PPS + 1_000_000_000) % 2 ^ 64)) ∧
    (s.fld Reg.time_SRC = 1 → ∃ t, exec .syncLoss s = .next t ∧ LockLost s t) ∧
    (s.fld Reg.time_SRC ≠ 1 → exec .syncLoss s = .next s) ∧
    (s.fld Reg.time_SRC = 2 → ∃ t, exec .ppsLoss s = .next t ∧ LockLost s t) ∧
    (s.fld Reg.time_SRC ≠ 2 → exec .ppsLoss s = .next s) ∧
    (s.fld Reg.time_SRC ≠ 1 → exec .syncInterval s = .next s) ∧
    (s.fld Reg.time_SRC = 1 → ∃ t, exec .syncInterval s = .next t ∧ t = { s with links := t.links } ∧
      ∀ p : Port,
        let l := s.link p
        let up := s.fld (Reg.kp_LSTATE p) = 5
        let sync := s.flag Reg.time_GM = true ∨ p.val ≠ s.fld Reg.time_SPORT
        let message (f : Flit) (kind : Nat) : Prop := f.op = 0x1E ∧ f.vc = 3 ∧ f.dst = 0xFFFFF ∧ f.payload.length = 64 ∧
          ptpType f.payload = kind ∧ ptpSeqId f.payload = l.ptpSeq % 65536 ∧ ptpDomain f.payload = s.fld Reg.time_DOMAIN
        (up → ∃ f g : Flit, t.link p = { l with ptpSeq := (l.ptpSeq + 1) % 65536, txq := l.txq ++ if sync then [f, g] else [g] } ∧
          (sync → message f 0) ∧ message g 2) ∧
        (¬ up → t.link p = l))) ∧
  (∀ (s : State),
    (∀ v : Word, HostUp s → v.toNat % 16 / 4 = 0 → v.toNat.testBit 0 = true →
      let due := s.fld Reg.time_SNAP_AT
      ∃ t, exec (.snapArm .host v) s = .next t ∧ t.flag Reg.time_PIN_EN = v.toNat.testBit 1 ∧
        (s.now < due → t = { s with regs := t.regs } ∧ BitsBut s t [Reg.time_ARM, Reg.time_PIN_EN] ∧ t.flag Reg.time_ARM = true) ∧
        (due = s.now → Triggered s t ∧ t.flag Reg.time_LATE = s.flag Reg.time_LATE ∧ t.flag Reg.time_ARM = s.flag Reg.time_ARM) ∧
        (due < s.now → Triggered s t ∧ t.flag Reg.time_LATE = true ∧ t.flag Reg.time_ARM = s.flag Reg.time_ARM)) ∧
    (let reached := s.flag Reg.time_ARM = true ∧ s.fld Reg.time_SNAP_AT ≤ s.now
     (¬ reached → exec .snapshotLatch s = .next s) ∧
     (reached → ∃ t, exec .snapshotLatch s = .next t ∧ Triggered s t ∧ t.flag Reg.time_ARM = false)) ∧
    (s.flag Reg.time_PIN_EN = false → exec .snapTrig s = .next s) ∧
    (s.flag Reg.time_PIN_EN = true → ∃ t, exec .snapTrig s = .next t ∧ Triggered s t ∧ t.flag Reg.time_ARM = s.flag Reg.time_ARM))

/-- Steps, self-test slices and margin tests (R321, R378 to R380): a written STEP takes effect once no operation of the open step
owes a verdict, and clears the per-step fields; DRAIN sets DRAINED then. A slice on an idle unit counts as passed or failed, and a
first failure's page is kept; the trusted core and the host are interrupted. A margin test is refused with RESULT 3 while a station
on a selected die is not drained; it sets the array clock by FSHIFT, its mismatches count in ERRORS, and it ends with RESULT 1 or
2 and the host's interrupt. -/
def Obligations.StepsAndSelfTests : Prop :=
  ∀ (s : State),
    (∀ (n : Stn) (v : Word), HostUp s →
      let fields := [Reg.sve_STEP n, Reg.sve_MISM n, Reg.sve_SKIP n, Reg.sve_CRC n, Reg.sve_DRAINED n, Reg.sve_DIGEST n]
      (∃ t, exec (.sveStep .host n v) s = .next t ∧ t = { s with regs := t.regs, steps := t.steps } ∧
        (∀ k, k ≠ n.val → t.stepOf k = s.stepOf k) ∧
        ((s.stepOf n).open_ = [] → BitsBut s t fields ∧ t.fld (Reg.sve_STEP n) = v.toNat ∧
          (∀ f ∈ fields.drop 1, t.fld f = 0) ∧ (t.stepOf n).pend = none ∧ (t.stepOf n).dispatched = false) ∧
        ((s.stepOf n).open_ ≠ [] → t.regs = s.regs ∧ t.stepOf n = { s.stepOf n with pend := some v.toNat })) ∧
      ((s.stepOf n).open_ = [] → (s.stepOf n).pend = none → ∃ t, exec (.drain .host n) s = .next t ∧
        t = { s with regs := t.regs, steps := t.steps } ∧ BitsBut s t [Reg.sve_DRAINED n] ∧ t.flag (Reg.sve_DRAINED n) = true) ∧
      ((s.stepOf n).open_ ≠ [] → ∃ t, exec (.drain .host n) s = .next t ∧ t = { s with steps := t.steps } ∧
        t.stepOf n = { s.stepOf n with drainReq := true })) ∧
    (∀ (page : Fin 155) (pass : Bool),
      (s.safe = true ∨ (∀ d, ¬ IdleUnit s page d) → exec (.selfTestSlice page pass) s = .next s) ∧
      ∀ d, IdleUnit s page d → s.safe = false →
        let testing := s.flag Reg.sys_BUSY_510
        ∃ t, exec (.selfTestSlice page pass) s = .next t ∧ t = { s with regs := t.regs, msix := t.msix, coreIrq := t.coreIrq } ∧
          (testing = true → BitsBut s t [Reg.sys_ERRORS] ∧ t.msix = s.msix ∧ t.coreIrq = s.coreIrq ∧
            t.fld Reg.sys_ERRORS = if (s.fld Reg.sys_DIE).testBit d && !pass then min (s.fld Reg.sys_ERRORS + 1) 65535
              else s.fld Reg.sys_ERRORS) ∧
          (testing = false → s.flag Reg.sys_EN_500 = false → t = s) ∧
          (testing = false → s.flag Reg.sys_EN_500 = true → pass = true → BitsBut s t [Reg.sys_PASSES] ∧ t.msix = s.msix ∧
            t.coreIrq = s.coreIrq ∧ t.fld Reg.sys_PASSES = min (s.fld Reg.sys_PASSES + 1) (2 ^ 32 - 1)) ∧
          (testing = false → s.flag Reg.sys_EN_500 = true → pass = false →
            BitsBut s t [Reg.sys_FAIL, Reg.sys_FAILS, Reg.sys_FAIL_UNIT] ∧ t.flag Reg.sys_FAIL = true ∧
            t.fld Reg.sys_FAILS = min (s.fld Reg.sys_FAILS + 1) 65535 ∧
            t.fld Reg.sys_FAIL_UNIT = (if s.flag Reg.sys_FAIL = true then s.fld Reg.sys_FAIL_UNIT else page.val) ∧
            (∀ c, c ∈ t.coreIrq ↔ c = 16 ∨ c ∈ s.coreIrq) ∧ ∀ x, x ∈ t.msix ↔ x = 2 ∨ x ∈ s.msix)) ∧
    (∀ v : Word, HostUp s → v.toNat.testBit 63 = true → s.flag Reg.sys_BUSY_510 = false →
      let blocks (n : Nat) : Prop := (∃ d, d < 4 ∧ v.toNat.testBit d = true ∧ s.holdsDie n d = true) ∧ s.drainedStn n = false
      let cur := s.fld Reg.pwr_ARRAY_CUR
      ∃ t, exec (.marginTest .host v) s = .next t ∧ SameMemory s t ∧ t.events = s.events ∧ t.fld Reg.sys_DIE = v.toNat % 16 ∧
        t.fld Reg.sys_DUR = max 1 (min 10 (bitsOf v.toNat 35 28)) ∧
        ((∃ n, n < 8 ∧ blocks n) → t.fld Reg.sys_RESULT = 3 ∧ t.flag Reg.sys_BUSY_510 = false ∧
          (∀ n, n < 8 → ((t.fld Reg.sys_BLOCKER).testBit n = true ↔ blocks n)) ∧ t.fld Reg.pwr_ARRAY_CUR = cur) ∧
        ((∀ n, n < 8 → ¬ blocks n) → t.flag Reg.sys_BUSY_510 = true ∧ t.fld Reg.sys_RESULT = 0 ∧ t.fld Reg.sys_ERRORS = 0 ∧
          t.fld Reg.sys_BLOCKER = 0 ∧
          (cur ≠ 0 → (t.fld Reg.pwr_ARRAY_CUR : Int) = max 800 (min 1350 ((cur : Int) + 10 * signedOf (t.fld Reg.sys_FSHIFT) 8)) ∧
            t.fld Reg.pwr_LIM_WHY = 4))) ∧
    (s.flag Reg.sys_BUSY_510 = false → exec .marginTestEnd s = .next s) ∧
    (s.flag Reg.sys_BUSY_510 = true → ∃ t, exec .marginTestEnd s = .next t ∧ t.flag Reg.sys_BUSY_510 = false ∧
      t.fld Reg.sys_RESULT = (if s.fld Reg.sys_ERRORS = 0 then 1 else 2) ∧ 2 ∈ t.msix ∧ t.marginOn = false ∧ t.bells = [])

/-! ## Register access, the host, SMBus and JTAG (R8, R33, R381, R382, R396 to R398, R406 to R408) -/

namespace Sys2Proof.Spec

/-- An access has been recorded and has done nothing else (R8, R33, R404, R406): the page counts it and reports it to the Bolt, its
first-error capture holds it where that was empty, and no register beyond that page's header and no byte of memory changes. -/
def Recorded (s t : State) (page master acc off : Nat) : Prop :=
  Reported s t page 0x07 ∧ SameMemory s t ∧ t.cores = s.cores ∧
  (∀ o, o / 0x1_0000 ≠ page ∨ 0x68 ≤ o % 0x1_0000 → t.reg o = s.reg o) ∧
  t.fld (Reg.hdr_EVENTS page) = min (s.fld (Reg.hdr_EVENTS page) + 1) (2 ^ 32 - 1) ∧
  (s.flag (Reg.hdr_VALID_38 page) = false → t.flag (Reg.hdr_VALID_38 page) = true ∧
    t.reg (0x1_0000 * page + 0x28) = (0xF00_0000_0000 + off) % 2 ^ 64 ∧ t.fld (Reg.hdr_MASTER page) = master ∧
    t.fld (Reg.hdr_CODE page) = 0x07 ∧ t.fld (Reg.hdr_ACC page) = acc)

/-- The SMBus interface serves a transaction: service firmware runs and no handover is open (R397). -/
def SmbusUp (s : State) : Prop :=
  CoreUp s ∧ s.hoOpen = false ∧ s.flag Reg.fw_SVC_NONE = false ∧ ∃ b, s.svcRun = some b

/-- PCAP_REQ has taken a written value, held within 2,000 to 4,400 W; one outside counts as a clamp (R381, R382, R400). -/
def PcapTakes (s t : State) (x : Nat) : Prop :=
  let clamps := x < 2000 ∨ 4400 < x
  t.fld Reg.pwr_PCAP_REQ = max 2000 (min 4400 x) ∧ SameMemory s t ∧
  (clamps → t.flag (Reg.hdr_VALID 1) = true ∧ t.fld (Reg.hdr_COUNT 1) = min (s.fld (Reg.hdr_COUNT 1) + 1) 65535 ∧
    (s.flag (Reg.hdr_VALID 1) = false → t.fld (Reg.hdr_OFFSET 1) = 0x128)) ∧
  (¬ clamps → t.fld (Reg.hdr_COUNT 1) = s.fld (Reg.hdr_COUNT 1) ∧ t.flag (Reg.hdr_VALID 1) = s.flag (Reg.hdr_VALID 1))

/-- The command that sets lock k of SYS_CFGLOCK: CORE, NODE, PORT, PLAT. -/
def cfgLock (k : Fin 4) (m : Master) : Instr :=
  match k with
  | 0 => .cfglockCore m
  | 1 => .cfglockNode m
  | 2 => .cfglockPort m
  | 3 => .cfglockPlat m

/-- The lock's bit. -/
def cfgBit (k : Fin 4) : Fld := ⟨0x600, k.val, k.val⟩

end Sys2Proof.Spec

/-- A narrow or unaligned access, of any master that reaches the pages, writes nothing, reads zeros, and is recorded (R8). -/
def Obligations.NarrowAccessesDoNothing : Prop :=
  ∀ (s : State) (m : Master) (off size : Nat) (isWrite : Bool), s.reaches m = true → size < 8 ∨ off % 8 ≠ 0 →
    ∃ t, exec (.narrowAccess m off size isWrite) s = .next t ∧
      Recorded s t (min 0x9A (off / 0x1_0000)) (mid m) (if isWrite then 1 else 0) off ∧
      (isWrite = false → t.busOut = ⟨List.replicate size 0, false, true⟩)

/-- Register writes (R33, R381, R382, R400, R406 to R408): beyond the last page a write does nothing and is recorded by HST, and a
read gives zero alike; a register with no writable field ignores a write; a master that may write none of its fields is refused and
recorded on the page; each field takes its own writers' values, clamped, and a value it refuses is recorded only if it differs. The
trusted core alone sets the locks of SYS_CFGLOCK, one by one, and a locked field keeps its value. An aligned access of more than
eight bytes is taken as a narrow one, which is the model's choice (log entry 86).
Other points the spec leaves open follow log entries 69, 70, 71. -/
def Obligations.RegisterWrites : Prop :=
  ∀ (s : State),
    (∀ (m : Master) (off : Nat), s.reaches m = true → 0x9B_0000 ≤ off → off < 0x100_0000 → ∀ w : Bool,
      ∃ t, exec (.reservedPageAccess m off w) s = .next t ∧ Recorded s t 0x9A (mid m) (if w then 1 else 0) off ∧
        (w = false → t.busOut = ⟨List.replicate 8 0, false, true⟩)) ∧
    (∀ (m : Master) (off : Nat) (v : Word),
      let o := off / 8 * 8
      let page := o / 0x1_0000
      (s.reaches m = false → exec (.registerWrite m off v) s = .next s) ∧
      (s.reaches m = true → 155 ≤ page → ∃ t, exec (.registerWrite m off v) s = .next t ∧ Recorded s t 0x9A (mid m) 1 o) ∧
      (page < 155 → (∀ e ∈ rowsAt o, e.1.acc = .ro) → exec (.registerWrite m off v) s = .next s) ∧
      (s.reaches m = true → page < 155 → (∃ e ∈ rowsAt o, e.1.acc ≠ .ro) → (∀ e ∈ rowsAt o, e.1.acc ≠ .ro → s.mayWrite m o e = false) →
        ∃ t, exec (.registerWrite m off v) s = .next t ∧ Recorded s t page (mid m) 1 o)) ∧
    (∀ v : Word,
      let req := bitsOf v.toNat 12 0
      let cap := bitsOf v.toNat 28 16
      (HostUp s → ∃ t, exec (.registerWrite .host 0x1_0128 v) s = .next t ∧ PcapTakes s t req ∧
        t.fld Reg.pwr_PCAP_MAX = s.fld Reg.pwr_PCAP_MAX ∧ (cap = s.fld Reg.pwr_PCAP_MAX → t.events = s.events) ∧
        (cap ≠ s.fld Reg.pwr_PCAP_MAX → Reported s t 1 0x07)) ∧
      (CoreUp s → ∃ t, exec (.registerWrite (.core 16) 0x1_0128 v) s = .next t ∧
        t.fld Reg.pwr_PCAP_REQ = max 2000 (min 4400 req) ∧ SameMemory s t ∧
        (s.flag Reg.sys_PLAT = false → t.fld Reg.pwr_PCAP_MAX = max 2000 (min 4400 cap) ∧ t.events = s.events) ∧
        (s.flag Reg.sys_PLAT = true → t.fld Reg.pwr_PCAP_MAX = s.fld Reg.pwr_PCAP_MAX ∧
          (cap = s.fld Reg.pwr_PCAP_MAX → t.events = s.events) ∧ (cap ≠ s.fld Reg.pwr_PCAP_MAX → Reported s t 1 0x07)))) ∧
    (∀ (m : Master) (off size : Nat) (w : Bool), s.reaches m = true → off % 8 = 0 → 8 < size →
      ∃ t, exec (.narrowAccess m off size w) s = .next t ∧ Recorded s t (min 0x9A (off / 0x1_0000)) (mid m) (if w then 1 else 0) off ∧
        (w = false → t.busOut = ⟨List.replicate size 0, false, true⟩)) ∧
    (∀ k : Fin 4,
      (CoreUp s → ∃ t, exec (cfgLock k (.core 16)) s = .next t ∧ t = { s with regs := t.regs } ∧ BitsBut s t [cfgBit k] ∧
        t.flag (cfgBit k) = true) ∧
      (HostUp s → ∃ t, exec (cfgLock k .host) s = .next t ∧ Recorded s t 0 0 1 0x600))

/-- The host's BAR2 window, SMBus and JTAG (R396 to R398): an access inside WIN_STN's grants reads or writes HBM from WIN_BASE and
counts its bytes, and one that holds (R221, R224) waits; another, or any with WIN_EN clear, reads poisoned zeros, writes nothing
and is recorded. SMBus sets an offset,
reads the register there and writes under the filter of R355 as master 0x02; a bad PEC, a handover, or no service firmware is
NACKed. BYPASS, IDCODE and SAMPLE are always served, EXTEST and INTEST with compute power off or in the safe state, core debug with
DBG_EN set.
Points the spec leaves open follow log entries 8, 77, 78. -/
def Obligations.HostWindowSmbusAndJtag : Prop :=
  ∀ (s : State),
    (∀ (off len : Nat) (bs : List Byte), HostUp s → 0 < len → len ≤ 4096 → bs.length = len →
      let a := s.fld Reg.hst_WIN_BASE * 2 ^ 30 + off
      let n := s.fld Reg.hst_WIN_STN
      let open_ := s.flag Reg.hst_WIN_EN = true
      let held := s.memHeld n a len = true
      (open_ → held → exec (.bar2Access off len none) s = .next { s with flight := [] } ∧
        exec (.bar2Access off len (some bs)) s = .next { s with flight := [] }) ∧
      (open_ → ¬ held → isHbm a = true → Calm s →
        (s.check (some n) a len false = .ok →
         ∃ t, exec (.bar2Access off len none) s = .next t ∧ t.busOut = ⟨s.bytes a len, s.psnIn a len, true⟩ ∧ SameMemory s t ∧
          t.fld Reg.hst_BAR2_RD = (s.fld Reg.hst_BAR2_RD + len) % 2 ^ 64 ∧ t.events = s.events) ∧
        (s.check (some n) a len true = .ok →
         ∃ t, exec (.bar2Access off len (some bs)) s = .next t ∧ t.fld Reg.hst_BAR2_WR = (s.fld Reg.hst_BAR2_WR + len) % 2 ^ 64 ∧
          t.events = s.events ∧ (∀ i, i < len → t.byte (a + i) = bs.getD i 0) ∧
          ∀ x, x < a ∨ a + len ≤ x → inTagArea x = false → t.byte x = s.byte x)) ∧
      ∀ page,
        let refused (write : Bool) : Prop := (page = 0x9A ∧ ¬ open_) ∨
          (open_ ∧ ¬ held ∧ (s.check (some n) a len write = .owner page ∨ s.check (some n) a len write = .reserved page))
        (refused false → ∃ t, exec (.bar2Access off len none) s = .next t ∧ t.busOut = ⟨List.replicate len 0, true, false⟩ ∧
          SameMemory s t ∧ Reported s t page 0x07 ∧ t.fld Reg.hst_BAR2_RD = s.fld Reg.hst_BAR2_RD) ∧
        (refused true → ∃ t, exec (.bar2Access off len (some bs)) s = .next t ∧ SameMemory s t ∧ Reported s t page 0x07 ∧
          t.fld Reg.hst_BAR2_WR = s.fld Reg.hst_BAR2_WR)) ∧
    (SmbusUp s →
      (∀ off, exec (.smbusSetOffset off true) s = .next { s with smbOff := off, smbOut := some [] }) ∧
      (s.smbOff.toNat / 0x1_0000 = 1 → 0x100 ≤ s.smbOff.toNat % 0x1_0000 → s.smbOff.toNat % 8 = 0 → rowsAt s.smbOff.toNat ≠ [] →
        exec (.smbusRead true) s = .next { s with smbOut := some (leBytes (s.reg s.smbOff.toNat) 8) }) ∧
      (s.smbOff.toNat % 8 ≠ 0 → ∃ t, exec (.smbusRead true) s = .next t ∧ t.smbOut = some (List.replicate 8 0) ∧
        Recorded s t (min 0x9A (s.smbOff.toNat / 0x1_0000)) 0x02 0 s.smbOff.toNat) ∧
      (∀ v : Word, ∃ t, exec (.smbusWrite 0x10128#32 v true) s = .next t ∧ t.smbOut = some [] ∧ PcapTakes s t (bitsOf v.toNat 12 0) ∧
        t.fld Reg.pwr_PCAP_MAX = s.fld Reg.pwr_PCAP_MAX) ∧
      (∀ (off : BitVec 32) (v : Word),
        let o := off.toNat
        o % 8 = 0 → o / 0x1_0000 < 155 → (∃ e ∈ rowsAt o, e.1.acc ≠ .ro) → o ≠ 0x2_0110 → o ≠ 0x1_0120 → o ≠ 0x1_0128 →
          ∃ t, exec (.smbusWrite off v true) s = .next t ∧ t.smbOut = some [] ∧ Recorded s t (o / 0x1_0000) 0x02 1 o)) ∧
    (∀ (pec : Bool) (off : BitVec 32) (v : Word), pec = false ∨ s.hoOpen = true ∨ s.flag Reg.fw_SVC_NONE = true →
      exec (.smbusSetOffset off pec) s = .next { s with smbOut := none } ∧
      exec (.smbusRead pec) s = .next { s with smbOut := none } ∧ exec (.smbusWrite off v pec) s = .next { s with smbOut := none }) ∧
    (s.alive = true →
      exec .bypass s = .next { s with jtagIr := .bypass, jtagDr := 0 } ∧
      exec .idcode s = .next { s with jtagIr := .idcode, jtagDr := 0x12048967#64 } ∧
      (∃ t, exec .sample s = .next t ∧ t = { s with jtagIr := .sample, jtagDr := t.jtagDr, free := t.free }) ∧
      (s.power.phase = 0 ∨ s.safe = true →
        (∃ t, exec .extest s = .next t ∧ t = { s with jtagIr := .extest, jtagDr := t.jtagDr, free := t.free }) ∧
        (∃ t, exec .intest s = .next t ∧ t = { s with jtagIr := .intest, jtagDr := t.jtagDr, free := t.free })) ∧
      (s.power.phase ≠ 0 → s.safe = false → exec .extest s = .next s ∧ exec .intest s = .next s) ∧
      ∀ (c : Core) (h : Bool),
        (s.flag Reg.hst_DBG_EN = false → exec (.coreDebug c h) s = .next s) ∧
        (s.flag Reg.hst_DBG_EN = true → ∃ t, exec (.coreDebug c h) s = .next t ∧ t = { s with regs := t.regs, jtagIr := .debug } ∧
          BitsBut s t [Reg.cc_RUN c, Reg.cc_HALTED c] ∧
          (h = true → s.flag (Reg.cc_RUN c) = true → t.flag (Reg.cc_RUN c) = false ∧ t.flag (Reg.cc_HALTED c) = true) ∧
          (h = false → s.flag (Reg.cc_HALTED c) = true → s.flag (Reg.cc_HALT c) = false →
            t.flag (Reg.cc_RUN c) = true ∧ t.flag (Reg.cc_HALTED c) = false)))

/-! ## Firmware (R352 to R362, R364) -/

namespace Sys2Proof.Spec

/-- No request waits in a mailbox, no handover is open, and trusted firmware runs: a request is served at once (R364). -/
def MailboxesFree (s : State) : Prop :=
  (∀ b, b < 9 → s.flag (Reg.fw_BUSY b) = false) ∧ s.hoOpen = false ∧ s.fld Reg.fw_STAGE = 3

/-- The request of mailbox b has ended with a status; the host hears of its own (R364, R396). -/
def Ended (s t : State) (b st : Nat) : Prop :=
  t.flag (Reg.fw_BUSY b) = false ∧ t.fld (Reg.fw_STATUS b) = st ∧ (b = 0 → 1 ∈ t.msix) ∧ t.pending = s.pending

/-- The 48 bytes of measurement slot i (R362). -/
def slotBytes (s : State) (i : Nat) : List Byte := (List.range 6).flatMap (fun w => leBytes (s.fld (Reg.fw_MS i w)) 8)

/-- Slot i has been extended with data: SHA-384 of its old value and the data; the other slots are as they were. -/
def Extended (s t : State) (i : Nat) (data : List Byte) : Prop :=
  (∀ w, w < 6 → t.fld (Reg.fw_MS i w) = bitsOf (Config.sha384 (slotBytes s i ++ data)).toNat (64 * w + 63) (64 * w)) ∧
  ∀ j w, j < 8 → w < 6 → j ≠ i → t.fld (Reg.fw_MS j w) = s.fld (Reg.fw_MS j w)

/-- Core 17 starts in the service image of flash copy c, loaded at the base of service memory; MS1 is extended with its VERSION
and HASH, and a0 holds the handover area's address (R361). -/
def ServiceStarts (s t : State) (c : Bool) : Prop :=
  let man := manifestOf (s.flashBytes (copyOff false c) 256)
  (∀ i, i < man.size → i < 0x2C0_0000 → t.byte (serviceBase + i) = s.flash.get memZero (copyOff false c + 4096 + i)) ∧
  Extended s t 1 (leBytes man.version 8 ++ leBytes man.hash 48) ∧ t.fld Reg.fw_S_VERSION = man.version ∧ t.svcRun = some c ∧
  (t.core 17).pc = serviceBase ∧ (t.core 17).xr 10 = BitVec.ofNat 64 handoverBase ∧ (t.core 17).pmpcfg = sandbox.pmpcfg ∧
  (t.core 17).pmpaddr = sandbox.pmpaddr ∧ t.fuses = s.fuses ∧ ∀ d, d ≠ 17 → t.core d = s.core d

/-- The handover has been rolled back (R361): the ACTIVE_S copy reloads and the saved area is restored. -/
def RolledBack (s t : State) : Prop :=
  ServiceStarts s t s.fuses.activeS ∧ t.fld Reg.fw_HO_STAT = 6 ∧ t.hoOpen = false ∧
  ∀ i, i < 0x40_0000 → t.byte (handoverBase + i) = s.hoSave.get memZero i

/-- A station's recipes, operations and transfers, its registers, and all memory outside firmware's are untouched. -/
def StationsUntouched (s t : State) : Prop :=
  t.gops = s.gops ∧ t.launches = s.launches ∧ t.xfers = s.xfers ∧ t.events = s.events ∧
  (∀ a, a < 0xE00_0000_0000 → t.byte a = s.byte a) ∧ ∀ off, off / 0x1_0000 < 0x86 → t.reg off = s.reg off

/-- An FW_IMG flit of this module to a node waits at the port its way leaves by, of a kind and session, with a chunk number and
a payload that begins with bs (R357). -/
def FwSent (s t : State) (node kind session index : Nat) (bs : List Byte) : Prop :=
  ∀ x, s.flag Reg.krt_VALID = true → s.routeOf s.srcId node 0 = .port x →
    ∃ f ∈ (t.link x).txq, f.op = 0x1F ∧ f.vc = 3 ∧ f.dst = node ∧
      f.addr = kind + session <<< 3 + index <<< 19 ∧ f.payload.take bs.length = bs

/-- The update state of a kind: T_STATE or S_STATE. -/
def updState (kind : Nat) : Fld := if kind = 1 then Reg.fw_T_STATE else Reg.fw_S_STATE

/-- The number under which the fuses' list names the copy that a session of a kind writes: never the active one (R358). -/
def inactiveIx (s : State) (kind : Nat) : Nat :=
  if kind = 1 then (if s.fuses.activeT then 0 else 1) else if s.fuses.activeS then 2 else 3

/-- The session's own status and its successors' are known: it has ended with the worst of them, STAGED if its own is OK and
FAILED otherwise, and its predecessor has that status in a DONE. -/
def SessionEnds (s t : State) (x : Session) (own worst : Nat) : Prop :=
  t.session = none ∧ t.fld (updState x.kind) = (if own = 1 then 2 else 3) ∧ t.fld Reg.fw_LAST_STATUS = max own worst ∧
  (x.origin = false → FwSent s t x.pred 2 x.session 0 [BitVec.ofNat 8 (max own worst)])

end Sys2Proof.Spec

/-- Mailbox requests (R356, R358, R360, R362, R364): a request of the mailbox's owner is served at once where no other waits, else
it waits; another master's, or one while BUSY is set, is dropped and recorded. QUOTE answers SERIAL, NODEID and HO_CNT, the time,
the slots, the nonce and the signature; EXTEND extends MS3 to MS7 alone; ACTIVATE_T takes a STAGED trusted copy, SET_SUCC sets the
successors, SVN_COMMIT raises the minima only at READY without fallback; STAGE_LOAD fills staging, or ends a load. The places of
the operands in the request words are the model's choice (log entry 64).
Points the spec leaves open follow log entries 63, 64, 65. -/
def Obligations.MailboxRequests : Prop :=
  ∀ (s : State), HostUp s →
    (MailboxesFree s →
      (∀ sig : List Byte, sig.length = 96 →
        ∃ t, exec (.quote .host 0 sig) s = .next t ∧ Ended s t 0 1 ∧ StationsUntouched s t ∧
          t.fld (Reg.fw_RSP 0 0) = Config.serial.toNat ∧
          t.fld (Reg.fw_RSP 0 1) = s.fld Reg.krt_NODEID + s.fld Reg.fw_HO_CNT * 2 ^ 32 ∧ t.fld (Reg.fw_RSP 0 2) = s.now ∧
          (∀ i w, i < 8 → w < 6 → t.fld (Reg.fw_RSP 0 (3 + 6 * i + w)) = s.fld (Reg.fw_MS i w)) ∧
          (∀ j, j < 4 → t.fld (Reg.fw_RSP 0 (51 + j)) = s.fld (Reg.fw_REQ 0 j)) ∧
          ∀ j, j < 12 → t.fld (Reg.fw_RSP 0 (55 + j)) = leNat ((sig.drop (8 * j)).take 8)) ∧
      (let i := s.fld (Reg.fw_REQ 0 0)
       ∃ t, exec (.extend .host) s = .next t ∧ StationsUntouched s t ∧
        (3 ≤ i → i ≤ 7 → Ended s t 0 1 ∧ Extended s t i ((List.range 6).flatMap (fun j => leBytes (s.fld (Reg.fw_REQ 0 (1 + j))) 8))) ∧
        (i < 3 ∨ 7 < i → Ended s t 0 2 ∧ ∀ j w, j < 8 → w < 6 → t.fld (Reg.fw_MS j w) = s.fld (Reg.fw_MS j w))) ∧
      (∃ t, exec (.activateT .host) s = .next t ∧ StationsUntouched s t ∧
        (s.fld Reg.fw_T_STATE = 2 → Ended s t 0 1 ∧ t.fuses = { s.fuses with activeT := s.stagedT }) ∧
        (s.fld Reg.fw_T_STATE ≠ 2 → Ended s t 0 2 ∧ t.fuses = s.fuses)) ∧
      (∃ t, exec (.setSucc .host) s = .next t ∧ StationsUntouched s t ∧ Ended s t 0 1 ∧ ∀ k, k < 4 →
        t.fld (Reg.fw_SUCC k) = s.fld (Reg.fw_REQ 0 k) % 2 ^ 20 ∧ t.flag (Reg.fw_VALID k) = (s.fld (Reg.fw_REQ 0 k)).testBit 63) ∧
      (∃ t, exec (.svnCommit .host) s = .next t ∧ StationsUntouched s t ∧
        let clean := s.flag Reg.fw_T_FALLBACK = false ∧ s.flag Reg.fw_S_FALLBACK = false
        (clean → Ended s t 0 1 ∧ t.fuses = { s.fuses with
          tsvnMin := max s.fuses.tsvnMin s.tSvn, ssvnMin := max s.fuses.ssvnMin s.sSvn }) ∧
        (¬ clean → Ended s t 0 2 ∧ t.fuses = s.fuses)) ∧
      (let w := s.fld (Reg.fw_REQ 0 0)
       let n := bitsOf w 36 32
       let o := bitsOf w 24 3 * 8
       ∀ ok : Bool, o + 8 * n ≤ 0x200_0000 → ∃ t, exec (.stageLoad .host ok) s = .next t ∧ StationsUntouched s t ∧ Ended s t 0 1 ∧
        (∀ j, j < n → ∀ i, i < 8 → t.byte (stagingBase + o + 8 * j + i) = (leBytes (s.fld (Reg.fw_REQ 0 (1 + j))) 8).getD i 0) ∧
        ∀ a, a < stagingBase + o ∨ stagingBase + o + 8 * n ≤ a → t.byte a = s.byte a)) ∧
    (s.fld Reg.fw_STAGE = 7 → s.hoOpen = false → (∀ b, b < 9 → s.flag (Reg.fw_BUSY b) = false) →
      bitsOf (s.fld (Reg.fw_REQ 0 0)) 36 32 = 0 →
      (∃ t, exec (.stageLoad .host false) s = .next t ∧ Ended s t 0 4 ∧ t.fld Reg.fw_STAGE = 7 ∧ t.flag Reg.fw_RECOVERY = s.flag Reg.fw_RECOVERY) ∧
      (let man := manifestOf (s.bytes stagingBase 256)
       ∃ t, exec (.stageLoad .host true) s = .next t ∧ Ended s t 0 1 ∧ t.fld Reg.fw_STAGE = 3 ∧ t.flag Reg.fw_RECOVERY = true ∧
        t.fld Reg.fw_T_VERSION = man.version ∧ t.flash = s.flash ∧
        ∀ i, i < man.size → i < 0x100_0000 → t.byte (trustedBase + i) = s.byte (stagingBase + 4096 + i)) ∧
      ∃ t, exec (.svnCommit .host) s = .next t ∧ Ended s t 0 2 ∧ t.fuses = s.fuses) ∧
    (∀ sig, s.fld (Reg.fw_CMD 0) ≠ 1 → s.flag (Reg.fw_BUSY 0) = true → ∃ t, exec (.quote .host 0 sig) s = .next t ∧
      Recorded s t 0x86 0 1 0x86_1400) ∧
    (∀ (b : Fin 9) sig, b.val ≠ 0 → ∃ t, exec (.quote .host b sig) s = .next t ∧ Recorded s t 0x86 0 1 (0x86_1400 + 0x800 * b.val)) ∧
    (s.hoOpen = true → s.flag (Reg.fw_BUSY 0) = false → ∀ sig, ∃ t, exec (.quote .host 0 sig) s = .next t ∧ t = { s with regs := t.regs } ∧
      t.flag (Reg.fw_BUSY 0) = true ∧ t.fld (Reg.fw_CMD 0) = 1)

/-- Handover of service firmware (R361): HANDOVER opens one toward a STAGED or the other valid copy and signals core 17, and is
refused BUSY while one is open; HO_READY saves the area, loads and starts the new image; SVC_READY commits it; a time-out of the first
step starts it COLD with the area invalid, one of the last, or core 17's sixteenth trap, rolls back. Stations run untouched.
Points the spec leaves open follow log entries 61, 66. -/
def Obligations.Handover : Prop :=
  ∀ (s : State),
    (HostUp s → s.fld Reg.fw_STAGE = 3 → s.flag (Reg.fw_BUSY 0) = false →
      let staged := s.fld Reg.fw_S_STATE = 2 ∧ s.svcRun ≠ some s.stagedS
      let opens (t : State) (b : Bool) : Prop := Ended s t 0 1 ∧ t.hoOpen = true ∧ t.hoCopy = b ∧ t.fld Reg.fw_HO_STAT = 1 ∧ 17 ∈ t.coreIrq
      (s.hoOpen = true → ∃ t, exec (.handover .host) s = .next t ∧ StationsUntouched s t ∧ Ended s t 0 3 ∧ t.hoOpen = true ∧
        t.hoCopy = s.hoCopy ∧ t.fld Reg.fw_HO_STAT = s.fld Reg.fw_HO_STAT) ∧
      (MailboxesFree s → ∃ t, exec (.handover .host) s = .next t ∧ StationsUntouched s t ∧
        ((∃ x, s.session = some x ∧ x.kind = 2) → Ended s t 0 2 ∧ t.hoOpen = false) ∧
        ((∀ x, s.session = some x → x.kind ≠ 2) →
          (staged → opens t s.stagedS) ∧
          (∀ b, ¬ staged → s.svcRun = some b → s.copyOk false (!b) = true → opens t (!b)) ∧
          (∀ b, ¬ staged → s.svcRun = some b → s.copyOk false (!b) = false → Ended s t 0 2 ∧ t.hoOpen = false) ∧
          (¬ staged → s.svcRun = none → Ended s t 0 2 ∧ t.hoOpen = false)))) ∧
    (let st := s.fld Reg.fw_HO_STAT
     let loads (t : State) (valid : Bool) (stat : Nat) : Prop :=
       ServiceStarts s t s.hoCopy ∧ t.hoValid = valid ∧ t.fld Reg.fw_HO_STAT = stat ∧ t.hoOpen = true ∧ StationsUntouched s t ∧
       ∀ i, i < 0x40_0000 → t.hoSave.get memZero i = s.byte (handoverBase + i)
     (s.hoOpen = true →
       (st = 1 → (∃ t, exec .hoReady s = .next t ∧ loads t true 3) ∧ (∃ t, exec .hoTmo s = .next t ∧ loads t false 5) ∧
         exec .svcReady s = .next s ∧ exec .trapLimit s = .next s) ∧
       (st = 3 ∨ st = 5 →
         (∃ t, exec .svcReady s = .next t ∧ t = { s with regs := t.regs, hoOpen := false, fuses := { s.fuses with activeS := s.hoCopy } } ∧
           BitsBut s t [Reg.fw_HO_STAT, Reg.fw_HO_CNT] ∧ t.fld Reg.fw_HO_STAT = (if st = 3 then 4 else 5) ∧
           t.fld Reg.fw_HO_CNT = (s.fld Reg.fw_HO_CNT + 1) % 65536) ∧
         (∃ t, exec .hoTmo s = .next t ∧ RolledBack s t ∧ StationsUntouched s t) ∧
         (∃ t, exec .trapLimit s = .next t ∧ RolledBack s t ∧ StationsUntouched s t) ∧ exec .hoReady s = .next s)) ∧
     (s.hoOpen = false → exec .hoReady s = .next s ∧ exec .svcReady s = .next s ∧ exec .hoTmo s = .next s ∧ exec .trapLimit s = .next s))

/-- Update sessions (R357 to R359): a MANIFEST that passes its checks opens a session, marks the inactive copy invalid, and goes on
to the successors; during another session or a handover it is answered BUSY, one that fails BADSIG, one of the open session is
dropped. A CHUNK of the predecessor is staged once and goes on in order; a NAK is answered from staging; a chunk missing for 50 ms
is asked for. With every chunk in, the inactive copy is programmed, read back and judged; the DONE with the worst status leaves once
every successor's is in, or UPD_TMO has passed. START_CHAIN checks the image in staging and sends it as origin.
Points the spec leaves open follow log entries 63, 67. -/
def Obligations.UpdateSessions : Prop :=
  ∀ (s : State),
    (∀ (p : Port) (f : Flit) (ok : Bool), Arrives s p f 0x1F → s.flag Reg.krt_VALID = true → f.payload.length = 256 →
      let kind := f.addr % 8
      let ses := bitsOf f.addr 18 3
      let ix := bitsOf f.addr 43 19
      let man := manifestOf f.payload
      (kind = 0 →
        let passes := s.manifestOk (decide (man.kind = 1)) man ok = true
        ∃ t, exec (.fwManifest p f ok) s = .next t ∧ Received s t p f ∧
          (∀ x, s.session = some x → t.session = s.session ∧ t.fuses = s.fuses ∧ (∀ a, t.byte a = s.byte a) ∧
            (x.session ≠ ses → FwSent s t f.src 2 ses 0 [5#8])) ∧
          (s.session = none → s.hoOpen = true → t.session = none ∧ t.fuses = s.fuses ∧ FwSent s t f.src 2 ses 0 [5#8]) ∧
          (s.session = none → s.hoOpen = false → man.kind ≠ 1 → man.kind ≠ 2 → t.session = none ∧ t.fuses = s.fuses ∧
            FwSent s t f.src 2 ses 0 [2#8]) ∧
          (s.session = none → s.hoOpen = false → man.kind = 1 ∨ man.kind = 2 → ¬ passes → t.session = none ∧
            t.fld (updState man.kind) = 3 ∧ t.fld Reg.fw_LAST_STATUS = 2 ∧ inactiveIx s man.kind ∈ t.fuses.invalid ∧
            FwSent s t f.src 2 ses 0 [2#8]) ∧
          (s.session = none → s.hoOpen = false → man.kind = 1 ∨ man.kind = 2 → passes →
            let succs := ((List.range 4).filter (fun k => s.flag (Reg.fw_VALID k))).map (fun k => s.fld (Reg.fw_SUCC k))
            t.session = some ⟨man.kind, ses, f.src, p, succs, man.size, BitVec.ofNat 384 man.hash, [], 0, 0, 0, false⟩ ∧
            t.fld (updState man.kind) = 1 ∧ t.fld Reg.fw_SESSION = ses ∧ t.fld Reg.fw_CHUNKS = 0 ∧
            inactiveIx s man.kind ∈ t.fuses.invalid ∧ t.flash = s.flash ∧ t.fuses.activeT = s.fuses.activeT ∧
            t.fuses.activeS = s.fuses.activeS ∧ (∀ n ∈ succs, FwSent s t n 0 ses 0 f.payload) ∧
            ∀ i, i < 4096 → t.byte (stagingBase + i) = f.payload.getD i 0)) ∧
      (∀ x : Session, s.session = some x → x.own ≤ 6 → x.worst < 16 →
        let open_ := x.origin = false ∧ x.own = 0
        (kind = 1 → ∃ t, exec (.fwChunk p f) s = .next t ∧ Received s t p f ∧ t.fuses = s.fuses ∧
          (open_ → ses = x.session → f.src = x.pred → ix < x.size / 256 → ix ∉ x.got →
            (∃ y, t.session = some y ∧ y = { x with got := ix :: x.got, fwd := y.fwd } ∧ x.fwd ≤ y.fwd ∧
              (∀ j, x.fwd ≤ j → j < y.fwd → (j = ix ∨ j ∈ x.got) ∧ ∀ n ∈ x.succs, FwSent s t n 1 ses j (t.bytes (stagingBase + 4096 + 256 * j) 256)) ∧
              (y.fwd < x.size / 256 → y.fwd ∉ y.got)) ∧
            (∀ i, i < 256 → t.byte (stagingBase + 4096 + 256 * ix + i) = f.payload.getD i 0) ∧
            t.fld Reg.fw_CHUNKS = min (s.fld Reg.fw_CHUNKS + 1) (2 ^ 32 - 1)) ∧
          (¬ open_ ∨ ses ≠ x.session ∨ f.src ≠ x.pred ∨ x.size / 256 ≤ ix ∨ ix ∈ x.got → t.session = s.session ∧ ∀ a, t.byte a = s.byte a)) ∧
        (kind = 3 → ∃ t, exec (.fwNak p f) s = .next t ∧ Received s t p f ∧ t.session = s.session ∧ SameMemory s t ∧
          (ses = x.session → f.src ∈ x.succs → ix ∈ x.got →
            FwSent s t f.src 1 ses ix (s.bytes (stagingBase + 4096 + 256 * ix) 256))) ∧
        (kind = 2 → ses = x.session → f.src ∈ x.succs →
          let left := x.succs.filter (fun n => decide (n ≠ f.src))
          let worst := max x.worst (leNat (f.payload.take 1) % 16)
          ∃ t, exec (.fwDone p f) s = .next t ∧ Received s t p f ∧ SameMemory s t ∧
            (x.own ≠ 0 → left = [] → SessionEnds s t x x.own worst) ∧
            (x.own = 0 ∨ left ≠ [] → t.session = some { x with succs := left, worst := worst })))) ∧
    (∀ x : Session, s.session = some x → x.own ≤ 6 → x.worst < 16 →
      (∃ t, exec .chunkMissing s = .next t ∧ t = { s with regs := t.regs, links := t.links } ∧
        ∀ k, x.origin = false → x.own = 0 → k < x.size / 256 → k ∉ x.got → (∀ j, j < k → j ∈ x.got) → k ≤ x.got.length →
          FwSent s t x.pred 3 x.session k []) ∧
      (∃ t, exec .updTmo s = .next t ∧ SameMemory s t ∧ t.flash = s.flash ∧ t.fuses = s.fuses ∧
        (x.own = 0 → SessionEnds s t x 4 x.worst) ∧ (x.own ≠ 0 → SessionEnds s t x x.own (max x.worst 4))) ∧
      (x.own = 0 → x.size / 256 ≤ x.got.length → x.kind = 1 ∨ x.kind = 2 →
        let trusted := decide (x.kind = 1)
        let b := if x.kind = 1 then !s.fuses.activeT else !s.fuses.activeS
        let o := copyOff trusted b
        let written (t : State) : Prop := ∀ a, t.flash.get memZero a =
          if o ≤ a ∧ a < o + 4096 + x.size then s.byte (stagingBase + (a - o)) else s.flash.get memZero a
        let good := Config.sha384 (s.bytes (stagingBase + 4096) x.size) = x.hash
        let ends (t : State) (own : Nat) : Prop := (x.succs = [] → SessionEnds s t x own x.worst) ∧
          (x.succs ≠ [] → t.session = some { x with own := own })
        (∃ t, exec (.flashVerify false) s = .next t ∧ SameMemory s t ∧ ends t 6 ∧ t.fuses = s.fuses) ∧
        ∃ t, exec (.flashVerify true) s = .next t ∧ SameMemory s t ∧ written t ∧
          (¬ good → ends t 3 ∧ t.fuses = s.fuses) ∧
          (good → ends t 1 ∧ inactiveIx s x.kind ∉ t.fuses.invalid ∧ (trusted = true → t.stagedT = b) ∧ (trusted = false → t.stagedS = b)))) ∧
    (s.session = none → exec .chunkMissing s = .next s ∧ exec .updTmo s = .next s ∧ ∀ ok, exec (.flashVerify ok) s = .next s) ∧
    (HostUp s → MailboxesFree s →
      let man := manifestOf (s.bytes stagingBase 256)
      let passes := (man.kind = 1 ∨ man.kind = 2) ∧ s.manifestOk (decide (man.kind = 1)) man (Config.sigOk man.keyidx man.signed man.sig) = true
      let succs := ((List.range 4).filter (fun k => s.flag (Reg.fw_VALID k))).map (fun k => s.fld (Reg.fw_SUCC k))
      let ses := s.fld (Reg.fw_REQ 0 0) % 65536
      ∃ t, exec (.startChain .host) s = .next t ∧ SameMemory s t ∧ t.flash = s.flash ∧
        (s.session ≠ none → Ended s t 0 3 ∧ t.session = s.session) ∧
        (s.session = none → ¬ passes → Ended s t 0 4 ∧ t.session = none ∧ t.fuses = s.fuses) ∧
        (s.session = none → passes → Ended s t 0 1 ∧ t.fld (updState man.kind) = 1 ∧ t.fld Reg.fw_SESSION = ses ∧
          inactiveIx s man.kind ∈ t.fuses.invalid ∧ (∃ x, t.session = some x ∧ x.origin = true ∧ x.session = ses ∧ x.succs = succs ∧
            x.fwd = man.size / 256) ∧
          ∀ n ∈ succs, FwSent s t n 0 ses 0 (s.bytes stagingBase 256) ∧
            ∀ k, k < man.size / 256 → FwSent s t n 1 ses k (s.bytes (stagingBase + 4096 + 256 * k) 256)))
end

