-- ==== Sys2Proof/Laws/Sparse.lean ====
section
/-! SUPPORT. Laws of sparse tables: every operation keeps the canonical form, a key reads back what was written there,
and every other key reads as before. -/

namespace Sys2Proof.Machine

variable {α : Type}

/-- Keys strictly rising. -/
abbrev SMap.Rising (m : SMap α) : Prop := m.Pairwise (fun a b => a.1 < b.1)

/-- No entry equal to what its key reads as unlisted. -/
abbrev SMap.Trim (d : Nat → α) (m : SMap α) : Prop := ∀ e ∈ m, e.2 ≠ d e.1

theorem SMap.wf_iff [DecidableEq α] (d : Nat → α) (m : SMap α) : m.wf d = true ↔ m.Rising ∧ m.Trim d := by
  simp [SMap.wf, SMap.Rising, SMap.Trim]

@[simp] theorem SMap.wf_nil [DecidableEq α] (d : Nat → α) : SMap.wf d [] = true := by simp [SMap.wf]

theorem SMap.wf_filter [DecidableEq α] {d : Nat → α} {m : SMap α} (p : Nat × α → Bool) (h : m.wf d = true) :
    SMap.wf d (m.filter p) = true := by
  rw [wf_iff] at *
  exact ⟨h.1.filter p, fun e he => h.2 e (List.mem_filter.mp he).1⟩

/-- A slice of a canonical table is canonical where unlisted keys all read alike. -/
theorem SMap.wf_slice [DecidableEq α] {z : α} {m : SMap α} (a n : Nat) (h : m.wf (fun _ => z) = true) :
    SMap.wf (fun _ => z) (m.slice a n) = true := by
  rw [wf_iff] at *
  refine ⟨?_, ?_⟩
  · refine List.Pairwise.map _ (R := fun x y : Nat × α => x.1 < y.1 ∧ a ≤ x.1) (fun x y hxy => by simp; omega) ?_
    have := h.1.filter (fun e => decide (a ≤ e.1 ∧ e.1 < a + n))
    refine List.Pairwise.imp_of_mem (fun hx _ hxy => ⟨hxy, ?_⟩) this
    simpa using (of_decide_eq_true (List.mem_filter.mp hx).2).1
  · intro e he
    obtain ⟨x, hx, rfl⟩ := List.mem_map.mp he
    exact h.2 x (List.mem_filter.mp hx).1

/-- A splice of canonical tables is canonical where unlisted keys all read alike. -/
theorem SMap.wf_splice [DecidableEq α] {z : α} {m c : SMap α} (a n : Nat) (h : m.wf (fun _ => z) = true)
    (hc : c.wf (fun _ => z) = true) : SMap.wf (fun _ => z) (m.splice a n c) = true := by
  rw [wf_iff] at *
  refine ⟨?_, ?_⟩
  · simp only [SMap.Rising, SMap.splice, SMap.below, SMap.above, List.pairwise_append, List.mem_append,
      List.mem_map, List.mem_filter, decide_eq_true_eq]
    refine ⟨⟨h.1.filter _, ?_, ?_⟩, h.1.filter _, ?_⟩
    · exact (hc.1.filter _).map _ (fun x y hxy => by simpa using hxy)
    · rintro x ⟨_, hx⟩ y ⟨w, ⟨_, hw⟩, rfl⟩
      simp; omega
    · rintro x (⟨_, hx⟩ | ⟨w, ⟨_, hw⟩, rfl⟩) y ⟨_, hy⟩
      · omega
      · simp; omega
  · intro e he
    simp only [SMap.splice, SMap.below, SMap.above, List.mem_append, List.mem_map, List.mem_filter] at he
    rcases he with (⟨he, _⟩ | ⟨w, ⟨hw, _⟩, rfl⟩) | ⟨he, _⟩
    · exact h.2 e he
    · exact hc.2 w hw
    · exact h.2 e he

@[simp] theorem SMap.wf_clear [DecidableEq α] {z : α} {m : SMap α} (a n : Nat) (h : m.wf (fun _ => z) = true) :
    SMap.wf (fun _ => z) (m.clear a n) = true := SMap.wf_splice a n h (SMap.wf_nil _)

/-- A write keeps the canonical form, whatever an unlisted key reads as. -/
@[simp] theorem SMap.wf_set [DecidableEq α] {d : Nat → α} {m : SMap α} (k : Nat) (v : α) (h : m.wf d = true) :
    SMap.wf d (m.set d k v) = true := by
  rw [wf_iff] at *
  by_cases hv : v = d k
  · simp only [SMap.set, hv, if_true, SMap.splice, SMap.below, SMap.above, List.filter_nil, List.map_nil, List.append_nil]
    refine ⟨?_, ?_⟩
    · refine List.pairwise_append.mpr ⟨h.1.filter _, h.1.filter _, ?_⟩
      intro x hx y hy
      simp [List.mem_filter] at hx hy
      omega
    · intro e he
      rcases List.mem_append.mp he with he | he <;> exact h.2 e (List.mem_filter.mp he).1
  · simp only [SMap.set, hv, if_false, SMap.splice, SMap.below, SMap.above]
    refine ⟨?_, ?_⟩
    · refine List.pairwise_append.mpr ⟨List.pairwise_append.mpr ⟨h.1.filter _, by simp, ?_⟩, h.1.filter _, ?_⟩
      · intro x hx y hy
        simp [List.mem_filter] at hx hy
        subst hy; simp; omega
      · intro x hx y hy
        simp [List.mem_filter] at hx hy
        rcases hx with hx | hx
        · omega
        · subst hx; simp; omega
    · intro e he
      simp [List.mem_append, List.mem_filter] at he
      rcases he with he | he | he
      · exact h.2 e he.1
      · subst he; exact hv
      · exact h.2 e he.1

/-- The entries of a list of values are canonical. -/
theorem SMap.wf_ofList [DecidableEq α] (z : α) (l : List α) : SMap.wf (fun _ => z) (SMap.ofList z l) = true := by
  rw [wf_iff]
  refine ⟨?_, fun e he => by simpa [SMap.ofList] using (List.mem_filter.mp he).2⟩
  refine List.Pairwise.filter _ (List.Pairwise.map _ (R := fun x y : α × Nat => x.2 < y.2) (fun x y h => h) ?_)
  have h : ((l.zipIdx).map Prod.snd).Pairwise (· < ·) := by
    rw [List.zipIdx_map_snd]
    exact List.pairwise_lt_range'
  exact List.pairwise_map.mp h

/-! ## Reading back -/

theorem SMap.get_append (d : Nat → α) (m c : SMap α) (k : Nat) :
    (m ++ c).get d k = m.get (fun i => c.get d i) k := by
  induction m with
  | nil => rfl
  | cons e t ih => obtain ⟨j, v⟩ := e; by_cases h : j = k <;> simp [SMap.get, h, ih]

/-- Only the default of the key asked for matters. -/
theorem SMap.get_congr {d e : Nat → α} (m : SMap α) {k : Nat} (h : d k = e k) : m.get d k = m.get e k := by
  induction m with
  | nil => exact h
  | cons x t ih => obtain ⟨j, v⟩ := x; by_cases hj : j = k <;> simp [SMap.get, hj, ih]

theorem SMap.get_filter_out (d : Nat → α) (m : SMap α) (p : Nat → Bool) (k : Nat) (h : p k = false) :
    SMap.get d (m.filter (fun e => p e.1)) k = d k := by
  induction m with
  | nil => rfl
  | cons e t ih =>
    obtain ⟨j, v⟩ := e
    by_cases hp : p j
    · have : j ≠ k := fun e => by subst e; simp [h] at hp
      simp [hp, SMap.get, this, ih]
    · simp [hp, ih]

theorem SMap.get_filter_in (d : Nat → α) (m : SMap α) (p : Nat → Bool) (k : Nat) (h : p k = true) :
    SMap.get d (m.filter (fun e => p e.1)) k = m.get d k := by
  induction m with
  | nil => rfl
  | cons e t ih =>
    obtain ⟨j, v⟩ := e
    by_cases hj : j = k
    · subst hj; simp [h, SMap.get]
    · by_cases hp : p j <;> simp [hp, SMap.get, hj, ih]

/-- Entries moved by a: the key k reads the entry k − a, and below a none. -/
theorem SMap.get_shift (d : Nat → α) (m : SMap α) (a k : Nat) :
    SMap.get d (m.map (fun e => (e.1 + a, e.2))) k = if a ≤ k then m.get (fun _ => d k) (k - a) else d k := by
  induction m with
  | nil => simp [SMap.get]
  | cons x t ih =>
    obtain ⟨j, v⟩ := x
    by_cases hk : a ≤ k
    · by_cases hj : j = k - a
      · have : j + a = k := by omega
        simp [SMap.get, hk, hj]
      · have : j + a ≠ k := by omega
        simp [SMap.get, this, hk, hj] at ih ⊢
        exact ih
    · have : j + a ≠ k := by omega
      simp [SMap.get, this, hk] at ih ⊢
      exact ih

/-- What a key reads after a splice: inside [a, a + n) the new entries, elsewhere what it read before. -/
theorem SMap.get_splice (d : Nat → α) (m c : SMap α) (a n k : Nat) :
    (m.splice a n c).get d k = if a ≤ k ∧ k < a + n then c.get (fun _ => d k) (k - a) else m.get d k := by
  simp only [SMap.splice, SMap.below, SMap.above, SMap.get_append]
  by_cases h1 : k < a
  · rw [get_filter_in _ m (fun j => decide (j < a)) k (by simpa using h1)]
    rw [if_neg (by omega)]
    apply get_congr
    rw [get_shift, if_neg (by omega)]
    exact get_filter_out d m (fun j => decide (a + n ≤ j)) k (by simp; omega)
  · rw [get_filter_out _ m (fun j => decide (j < a)) k (by simpa using h1), get_shift, if_pos (by omega)]
    by_cases h2 : k < a + n
    · rw [if_pos ⟨by omega, h2⟩, get_filter_in _ c (fun j => decide (j < n)) (k - a) (by simp; omega)]
      exact get_congr c (get_filter_out d m (fun j => decide (a + n ≤ j)) k (by simp; omega))
    · rw [if_neg (by omega), get_filter_out _ c (fun j => decide (j < n)) (k - a) (by simp; omega)]
      exact get_filter_in d m (fun j => decide (a + n ≤ j)) k (by simp; omega)

@[simp] theorem SMap.get_set_same [DecidableEq α] (d : Nat → α) (m : SMap α) (k : Nat) (v : α) :
    (m.set d k v).get d k = v := by
  simp only [SMap.set, get_splice]
  by_cases h : v = d k <;> simp [h, SMap.get]

theorem SMap.get_set_other [DecidableEq α] (d : Nat → α) (m : SMap α) {k j : Nat} (v : α) (h : j ≠ k) :
    (m.set d k v).get d j = m.get d j := by
  simp only [SMap.set, get_splice]
  rw [if_neg (by omega)]

/-- Write and read of one key. -/
theorem SMap.get_set [DecidableEq α] (d : Nat → α) (m : SMap α) (k j : Nat) (v : α) :
    (m.set d k v).get d j = if j = k then v else m.get d j := by
  by_cases h : j = k
  · subst h; simp
  · simp [h, get_set_other d m v h]

end Sys2Proof.Machine
end

