-- ==== Sys2Proof/Laws/Keeps.lean ====
section
/-! SUPPORT. What every operation of the model keeps, as one relation between the state a command starts from and each
state on the way: the queue of waiting commands, the versions in the fuses, and the canonical form of memory. -/

namespace Sys2Proof.Machine

/-- From s0 to s the queue is the same, no version in the fuses fell, and (where C is asked) every table is canonical. -/
def KeepsCore (C : Prop) (s0 : State) (q : List Instr) (fu : Fuses) (mem poison stale stalePsn flash hoSave : SMap Byte)
    (trayTags regs : SMap Word) : Prop :=
  q = s0.pending ∧ (s0.fuses.tsvnMin ≤ fu.tsvnMin ∧ s0.fuses.ssvnMin ≤ fu.ssvnMin ∧ fu.krev = s0.fuses.krev) ∧
  (C → mem.wf memZero = true ∧ poison.wf memZero = true ∧ stale.wf memZero = true ∧ stalePsn.wf memZero = true ∧
    flash.wf memZero = true ∧ hoSave.wf memZero = true ∧ trayTags.wf (fun _ => 0#64) = true ∧ regs.wf resetWord = true)

/-- KeepsCore of a state. -/
def Keeps (C : Prop) (s0 s : State) : Prop :=
  KeepsCore C s0 s.pending s.fuses s.mem s.poison s.stale s.stalePsn s.flash s.hoSave s.trayTags s.regs

/-- A command's outcome is a next state, which keeps what Keeps asks. -/
def KeepsOut (C : Prop) (s0 : State) (o : Host.Outcome State Fault Refusal) : Prop := ∃ t, o = .next t ∧ Keeps C s0 t

variable {C : Prop} {s0 : State}

@[simp] theorem keepsOut_next (t : State) : KeepsOut C s0 (.next t) ↔ Keeps C s0 t := by
  simp [KeepsOut]

@[simp] theorem keepsCore_fold (s : State) :
    KeepsCore C s0 s.pending s.fuses s.mem s.poison s.stale s.stalePsn s.flash s.hoSave s.trayTags s.regs ↔ Keeps C s0 s :=
  Iff.rfl

/-! ## Canonical byte tables -/

@[simp] theorem wf_byte_splice {m c : SMap Byte} (a n : Nat) (h : m.wf memZero = true) (hc : c.wf memZero = true) :
    SMap.wf memZero (m.splice a n c) = true := SMap.wf_splice a n h hc
@[simp] theorem wf_byte_clear {m : SMap Byte} (a n : Nat) (h : m.wf memZero = true) :
    SMap.wf memZero (m.clear a n) = true := SMap.wf_clear a n h
@[simp] theorem wf_byte_slice {m : SMap Byte} (a n : Nat) (h : m.wf memZero = true) :
    SMap.wf memZero (m.slice a n) = true := SMap.wf_slice a n h
@[simp] theorem wf_byte_filter {m : SMap Byte} (p : Nat × Byte → Bool) (h : m.wf memZero = true) :
    SMap.wf memZero (m.filter p) = true := SMap.wf_filter p h
@[simp] theorem wf_byte_ofList (l : List Byte) : SMap.wf memZero (SMap.ofList 0#8 l) = true := SMap.wf_ofList 0 l

/-! ## The shapes that steps are built from -/

@[simp] theorem keeps_foldl {α : Type} {g : State → α → State} (hg : ∀ m a, Keeps C s0 m → Keeps C s0 (g m a)) (l : List α)
    {m : State} (h : Keeps C s0 m) : Keeps C s0 (l.foldl g m) := by
  induction l generalizing m with
  | nil => exact h
  | cons a l ih => exact ih (hg m a h)

@[simp] theorem keeps_foldl_fst {α β : Type} {g : State × β → α → State × β}
    (hg : ∀ m a, Keeps C s0 m.1 → Keeps C s0 (g m a).1) (l : List α) {m : State × β} (h : Keeps C s0 m.1) :
    Keeps C s0 (l.foldl g m).1 := by
  induction l generalizing m with
  | nil => exact h
  | cons a l ih => exact ih (hg m a h)

@[simp] theorem keeps_foldl_snd {α β : Type} {g : β × State → α → β × State}
    (hg : ∀ m a, Keeps C s0 m.2 → Keeps C s0 (g m a).2) (l : List α) {m : β × State} (h : Keeps C s0 m.2) :
    Keeps C s0 (l.foldl g m).2 := by
  induction l generalizing m with
  | nil => exact h
  | cons a l ih => exact ih (hg m a h)

@[simp] theorem keeps_ite {c : Prop} [Decidable c] {a b : State} :
    Keeps C s0 (if c then a else b) ↔ if c then Keeps C s0 a else Keeps C s0 b := by split <;> rfl

/-- A change of tables keeps what Keeps asks where it keeps their canonical form. -/
theorem Keeps.tables {m : State} (h : Keeps C s0 m) {mem poison stale stalePsn flash hoSave : SMap Byte}
    {trayTags regs : SMap Word}
    (H : m.mem.wf memZero = true ∧ m.poison.wf memZero = true ∧ m.stale.wf memZero = true ∧
        m.stalePsn.wf memZero = true ∧ m.flash.wf memZero = true ∧ m.hoSave.wf memZero = true ∧
        m.trayTags.wf (fun _ => 0#64) = true ∧ m.regs.wf resetWord = true →
      mem.wf memZero = true ∧ poison.wf memZero = true ∧ stale.wf memZero = true ∧ stalePsn.wf memZero = true ∧
        flash.wf memZero = true ∧ hoSave.wf memZero = true ∧ trayTags.wf (fun _ => 0#64) = true ∧
        regs.wf resetWord = true) :
    KeepsCore C s0 m.pending m.fuses mem poison stale stalePsn flash hoSave trayTags regs :=
  ⟨h.1, h.2.1, fun c => H (h.2.2 c)⟩

theorem keeps_of_fst {α : Type} {e : State × α} {a : State} {b : α} (h : Keeps C s0 e.1) (he : e = (a, b)) :
    Keeps C s0 a := by rw [he] at h; exact h

/-- Stopping a list of units one by one keeps what Keeps asks where stopping each does. -/
theorem keeps_each {α : Type} {s : Stopped} {l : List α} {f : State → α → Stopped}
    (hf : ∀ m x, Keeps C s0 m → Keeps C s0 (f m x).1) (h : Keeps C s0 s.1) : Keeps C s0 (s.each l f).1 := by
  unfold Stopped.each
  refine keeps_foldl_fst (fun m x hm => ?_) l h
  exact hf m.1 x hm

/-- What an issue step answers keeps what Keeps asks. -/
def KeepsIssue (C : Prop) (s0 : State) (i : Issue) : Prop := ∀ t, i = .go t → Keeps C s0 t

@[simp] theorem keepsIssue_go (t : State) : KeepsIssue C s0 (.go t) ↔ Keeps C s0 t :=
  ⟨fun h => h t rfl, fun h u hu => by cases hu; exact h⟩
@[simp] theorem keepsIssue_wait : KeepsIssue C s0 .wait := fun _ h => nomatch h
@[simp] theorem keepsIssue_refuse : KeepsIssue C s0 .refuse := fun _ h => nomatch h

theorem keeps_ite_intro {c : Prop} [Decidable c] {a b : State} (ha : Keeps C s0 a) (hb : Keeps C s0 b) :
    Keeps C s0 (if c then a else b) := by split <;> assumption

theorem Keeps.core {m : State} (h : Keeps C s0 m) :
    KeepsCore C s0 m.pending m.fuses m.mem m.poison m.stale m.stalePsn m.flash m.hoSave m.trayTags m.regs := h

theorem Keeps.mem {m : State} (h : Keeps C s0 m) (c : C) : m.mem.wf memZero = true := (h.2.2 c).1
theorem Keeps.flash {m : State} (h : Keeps C s0 m) (c : C) : m.flash.wf memZero = true := (h.2.2 c).2.2.2.2.1
theorem Keeps.hoSave {m : State} (h : Keeps C s0 m) (c : C) : m.hoSave.wf memZero = true := (h.2.2 c).2.2.2.2.2.1

theorem keeps_self {s : State} (h : C → s.Canonical) : Keeps C s s := ⟨rfl, ⟨le_refl _, le_refl _, rfl⟩, h⟩

@[simp] theorem keeps_mk (v0 : SMap Word) (v1 : SMap Word) (v2 : SMap Byte) (v3 : SMap Byte) (v4 : SMap Byte)
    (v5 : SMap Byte) (v6 : List CLine) (v7 : SMap Word) (v8 : List CoreByte) (v9 : SMap Byte) (v10 : SMap Word) (v11 : SMap GenSlot)
    (v12 : SMap (Option (BitVec 192))) (v13 : SMap (Option (Nat × Nat × Bool))) (v14 : SMap (Option Launch))
    (v15 : SMap Nat) (v16 : List Nat) (v17 : SMap (Option Hold)) (v18 : List Xfer) (v19 : List Gop) (v20 :
    List Spk) (v21 : List NormJob) (v22 : List (Nat × QDesc)) (v23 : SMap Nat) (v24 : List Nat) (v25 : SMap
    Whisk) (v26 : SMap Tongs) (v27 : SMap Mortar) (v28 : List (Nat × Nat)) (v29 : SMap (Option Watch)) (v30 :
    List Note) (v31 : List Entrant) (v32 : SMap Link) (v33 : List Req) (v34 : List WReq) (v35 : SMap RBuf)
    (v36 : SMap Word) (v37 : SMap Word) (v38 : SMap Nat) (v39 : SMap Nat) (v40 : List Coll) (v41 : List
    Verdict) (v42 : SMap Step) (v43 : List Event) (v44 : List Nat) (v45 : SMap (List Nat)) (v46 : Alert) (v47
    : List Nat) (v48 : List Nat) (v49 : SMap Nat) (v50 : SMap Nat) (v51 : List Nat) (v52 : BusOut) (v53 : List
    StnReset) (v54 : List (Nat × Nat × Nat)) (v55 : List Nat) (v56 : List Flush) (v57 : List Nat) (v58 :
    Power) (v59 : Pins) (v60 : Bool) (v61 : SMap CoreSt) (v62 : Fuses) (v63 : SMap Byte) (v64 : Option
    Session) (v65 : Bool) (v66 : Bool) (v67 : SMap Byte) (v68 : Bool) (v69 : Option Bool) (v70 : Nat) (v71 :
    Nat) (v72 : Bool) (v73 : Bool) (v74 : Nat) (v75 : Bool) (v76 : List Relay) (v77 : Option Flit) (v78 :
    BitVec 32) (v79 : Option (List Byte)) (v80 : JtagIr) (v81 : BitVec 64) (v82 : BusOut) (v83 : Option Nat)
    (v84 : Int) (v85 : Bool) (v86 : Nat) (v87 : Bool) (v88 : Nat) (v89 : Nat) (v90 : List Instr) : Keeps C s0
    (State.mk v0 v1 v2 v3 v4 v5 v6 v7 v8 v9 v10 v11 v12 v13 v14 v15 v16 v17 v18 v19 v20 v21 v22 v23 v24 v25 v26
    v27 v28 v29 v30 v31 v32 v33 v34 v35 v36 v37 v38 v39 v40 v41 v42 v43 v44 v45 v46 v47 v48 v49 v50 v51 v52
    v53 v54 v55 v56 v57 v58 v59 v60 v61 v62 v63 v64 v65 v66 v67 v68 v69 v70 v71 v72 v73 v74 v75 v76 v77 v78
    v79 v80 v81 v82 v83 v84 v85 v86 v87 v88 v89 v90) ↔ KeepsCore C s0 v90 v62 v2 v3 v4 v5 v63 v67 v7 v0 :=
    Iff.rfl

theorem keeps_mk_intro {v0 : SMap Word} {v1 : SMap Word} {v2 : SMap Byte} {v3 : SMap Byte} {v4 : SMap Byte}
    {v5 : SMap Byte} {v6 : List CLine} {v7 : SMap Word} {v8 : List CoreByte} {v9 : SMap Byte} {v10 : SMap Word} {v11 : SMap GenSlot}
    {v12 : SMap (Option (BitVec 192))} {v13 : SMap (Option (Nat × Nat × Bool))} {v14 : SMap (Option Launch)}
    {v15 : SMap Nat} {v16 : List Nat} {v17 : SMap (Option Hold)} {v18 : List Xfer} {v19 : List Gop} {v20 :
    List Spk} {v21 : List NormJob} {v22 : List (Nat × QDesc)} {v23 : SMap Nat} {v24 : List Nat} {v25 : SMap
    Whisk} {v26 : SMap Tongs} {v27 : SMap Mortar} {v28 : List (Nat × Nat)} {v29 : SMap (Option Watch)} {v30 :
    List Note} {v31 : List Entrant} {v32 : SMap Link} {v33 : List Req} {v34 : List WReq} {v35 : SMap RBuf}
    {v36 : SMap Word} {v37 : SMap Word} {v38 : SMap Nat} {v39 : SMap Nat} {v40 : List Coll} {v41 : List
    Verdict} {v42 : SMap Step} {v43 : List Event} {v44 : List Nat} {v45 : SMap (List Nat)} {v46 : Alert} {v47
    : List Nat} {v48 : List Nat} {v49 : SMap Nat} {v50 : SMap Nat} {v51 : List Nat} {v52 : BusOut} {v53 : List
    StnReset} {v54 : List (Nat × Nat × Nat)} {v55 : List Nat} {v56 : List Flush} {v57 : List Nat} {v58 :
    Power} {v59 : Pins} {v60 : Bool} {v61 : SMap CoreSt} {v62 : Fuses} {v63 : SMap Byte} {v64 : Option
    Session} {v65 : Bool} {v66 : Bool} {v67 : SMap Byte} {v68 : Bool} {v69 : Option Bool} {v70 : Nat} {v71 :
    Nat} {v72 : Bool} {v73 : Bool} {v74 : Nat} {v75 : Bool} {v76 : List Relay} {v77 : Option Flit} {v78 :
    BitVec 32} {v79 : Option (List Byte)} {v80 : JtagIr} {v81 : BitVec 64} {v82 : BusOut} {v83 : Option Nat}
    {v84 : Int} {v85 : Bool} {v86 : Nat} {v87 : Bool} {v88 : Nat} {v89 : Nat} {v90 : List Instr} (h :
    KeepsCore C s0 v90 v62 v2 v3 v4 v5 v63 v67 v7 v0) : Keeps C s0 (State.mk v0 v1 v2 v3 v4 v5 v6 v7 v8 v9 v10 v11
    v12 v13 v14 v15 v16 v17 v18 v19 v20 v21 v22 v23 v24 v25 v26 v27 v28 v29 v30 v31 v32 v33 v34 v35 v36 v37
    v38 v39 v40 v41 v42 v43 v44 v45 v46 v47 v48 v49 v50 v51 v52 v53 v54 v55 v56 v57 v58 v59 v60 v61 v62 v63
    v64 v65 v66 v67 v68 v69 v70 v71 v72 v73 v74 v75 v76 v77 v78 v79 v80 v81 v82 v83 v84 v85 v86 v87 v88 v89
    v90) := h

end Sys2Proof.Machine
end

