-- ==== Sys2Proof/Laws/KeepsOps.lean ====
section
/-! SUPPORT. What the operations of Machine/Ops keep: the queue, the versions in the fuses, and the canonical tables. -/

namespace Sys2Proof.Machine

variable {C : Prop} {s0 : State}

@[simp] theorem keeps_setReg (m : State) (off : ℕ) (v : ℕ) (h : Keeps C s0 m) : Keeps C s0 (State.setReg m off v) :=
    by
  unfold State.setReg
  exact h.tables (fun hc => by simp [hc])

@[simp] theorem keeps_setFld (m : State) (f : Fld) (v : ℕ) (h : Keeps C s0 m) : Keeps C s0 (State.setFld m f v) :=
    by
  simp [State.setFld, h]

@[simp] theorem keeps_setFlag (m : State) (f : Fld) (b : Bool) (h : Keeps C s0 m) : Keeps C s0 (State.setFlag m f b)
    := by
  simp [State.setFlag, h]

@[simp] theorem keeps_bump (m : State) (f : Fld) (k : ℕ) (h : Keeps C s0 m) : Keeps C s0 (State.bump m f k) := by
  simp [State.bump, h]

@[simp] theorem keeps_capture (m : State) (e : Ev) (h : Keeps C s0 m) : Keeps C s0 (State.capture m e) := by
  simp (maxDischargeDepth := 40) [State.capture, h]

@[simp] theorem keeps_enqueue (m : State) (e : Ev) (h : Keeps C s0 m) : Keeps C s0 (State.enqueue m e) := by
  simp [State.enqueue, h]

@[simp] theorem keeps_report (m : State) (e : Ev) (h : Keeps C s0 m) : Keeps C s0 (State.report m e) := by
  simp (maxDischargeDepth := 40) [State.report, h]

@[simp] theorem keeps_access (m : State) (page : ℕ) (master : ℕ) (stn : Option ℕ) (acc : ℕ) (addr : ℕ) (h : Keeps C
    s0 m) : Keeps C s0 (State.access m page master stn acc addr) := by
  simp [State.access, h]

@[simp] theorem keeps_clampAt (m : State) (off : ℕ) (h : Keeps C s0 m) : Keeps C s0 (State.clampAt m off) := by
  simp (maxDischargeDepth := 40) [State.clampAt, h]

@[simp] theorem keeps_disarm (m : State) (page : ℕ) (h : Keeps C s0 m) : Keeps C s0 (State.disarm m page) := by
  simp [State.disarm, h]

@[simp] theorem keeps_drawByte (m : State) (h : Keeps C s0 m) : Keeps C s0 (State.drawByte m).2 := by
  simp [State.drawByte, h]

@[simp] theorem keeps_drawWord (m : State) (h : Keeps C s0 m) : Keeps C s0 (State.drawWord m).2 := by
  simp [State.drawWord, h]

@[simp] theorem keeps_putBytes (m : State) (a : ℕ) (bs : List Byte) (h : Keeps C s0 m) : Keeps C s0 (State.putBytes
    m a bs) := by
  unfold State.putBytes
  exact h.tables (fun hc => by simp [hc])

@[simp] theorem keeps_inFlight (m : State) (b n : Nat) (h : Keeps C s0 m) : Keeps C s0 (State.inFlight m b n) := by
  simp [State.inFlight, h]

@[simp] theorem keeps_landed (m : State) (h : Keeps C s0 m) : Keeps C s0 (State.landed m) := by
  simp [State.landed, h]

@[simp] theorem keeps_setPsn (m : State) (b : ℕ) (p : Bool) (h : Keeps C s0 m) : Keeps C s0 (State.setPsn m b p) :=
    by
  unfold State.setPsn
  refine h.tables (fun hc => ?_)
  (repeat' split) <;> simp [hc]

@[simp] theorem keeps_putPsn (m : State) (a : ℕ) (n : ℕ) (p : ℕ → ℕ → Bool) (h : Keeps C s0 m) : Keeps C s0
    (State.putPsn m a n p) := by
  unfold State.putPsn
  (repeat' split) <;> simp (maxDischargeDepth := 40) +contextual [h, *]

@[simp] theorem keeps_chargeBeats (m : State) (n : Option ℕ) (a : ℕ) (len : ℕ) (h : Keeps C s0 m) : Keeps C s0
    (State.chargeBeats m n a len) := by
  unfold State.chargeBeats
  (repeat' split) <;> simp (maxDischargeDepth := 40) +contextual [h, *]

@[simp] theorem keeps_injected (m : State) (page k b n : Nat) (e : Ev) (h : Keeps C s0 m) : Keeps C s0
    (State.injected m page k b n e) := by
  unfold State.injected
  split <;> simp (maxDischargeDepth := 40) [h]

@[simp] theorem keeps_senseLine (m : State) (n b acc : Nat) (h : Keeps C s0 m) : Keeps C s0 (State.senseLine m n
    b acc) := by
  unfold State.senseLine
  dsimp only
  (repeat' split) <;> simp (maxDischargeDepth := 40) [h]

@[simp] theorem keeps_sense (m : State) (n a len acc : Nat) (h : Keeps C s0 m) : Keeps C s0 (State.sense m n a
    len acc) := by
  unfold State.sense
  exact keeps_foldl (fun _ _ hm => keeps_senseLine _ _ _ _ hm) _ h

@[simp] theorem keeps_senseCrock (m : State) (n k a : Nat) (h : Keeps C s0 m) : Keeps C s0 (State.senseCrock m n
    k a) := by
  unfold State.senseCrock
  split <;> simp [h]

@[simp] theorem keeps_senseSram (m : State) (n page k a : Nat) (h : Keeps C s0 m) : Keeps C s0 (State.senseSram m n page
    k a) := by
  simp [State.senseSram, h]

@[simp] theorem keeps_countRmw (m : State) (n : ℕ) (a : ℕ) (len : ℕ) (h : Keeps C s0 m) : Keeps C s0 (State.countRmw
    m n a len) := by
  unfold State.countRmw
  extract_lets one first last m1
  have ho : ∀ m b, Keeps C s0 m → Keeps C s0 (one m b) := fun m b hm => by simp (maxDischargeDepth := 40) [one, hm]
  have h1 : Keeps C s0 m1 := keeps_ite_intro (ho _ _ h) h
  exact keeps_ite_intro h (keeps_ite_intro (ho _ _ h1) h1)

@[simp] theorem keeps_direct (m : State) (n a len : Nat) (write : Bool) (h : Keeps C s0 m) : Keeps C s0
    (State.direct m n a len write) := by
  unfold State.direct
  dsimp only
  split <;> simp [h]

@[simp] theorem keeps_writeBack (m : State) (c : CLine) (h : Keeps C s0 m) : Keeps C s0 (State.writeBack m c) := by
  unfold State.writeBack
  dsimp only
  refine keeps_chargeBeats _ _ _ _ (keeps_bump _ _ _ ?_)
  exact h.tables (fun hc => by simp [hc])

@[simp] theorem keeps_evict (m : State) (c : CLine) (h : Keeps C s0 m) : Keeps C s0 (State.evict m c) := by
  simp [State.evict, h]

@[simp] theorem keeps_dropLine (m : State) (c : CLine) (h : Keeps C s0 m) : Keeps C s0 (State.dropLine m c) := by
  unfold State.dropLine
  extract_lets +onlyGivenNames m1
  have h1 : Keeps C s0 m1 := by
    refine keeps_ite_intro ?_ h
    exact h.tables (fun hc => ⟨wf_byte_splice _ _ hc.1 (wf_byte_filter _ (wf_byte_slice _ _ hc.2.2.1)),
      wf_byte_splice _ _ hc.2.1 (wf_byte_filter _ (wf_byte_slice _ _ hc.2.2.2.1)), wf_byte_clear _ _ hc.2.2.1,
      wf_byte_clear _ _ hc.2.2.2.1, hc.2.2.2.2⟩)
  clear_value m1
  simp [h1]

@[simp] theorem keeps_setAside (m : State) (l : ℕ) (h : Keeps C s0 m) : Keeps C s0 (State.setAside m l) := by
  unfold State.setAside
  exact h.tables (fun hc => by simp [hc])

@[simp] theorem keeps_allocate (m : State) (n : ℕ) (slice : ℕ) (set : ℕ) (l : ℕ) (keep : Bool) (h : Keeps C s0 m) :
    Keeps C s0 (State.allocate m n slice set l keep) := by
  unfold State.allocate
  dsimp only
  (repeat' split) <;> simp (maxDischargeDepth := 40) [h]

@[simp] theorem keeps_cacheLine (m : State) (n : ℕ) (lo : ℕ) (len : ℕ) (write : Bool) (cls : ℕ) (h : Keeps C s0 m) :
    Keeps C s0 (State.cacheLine m n lo len write cls) := by
  unfold State.cacheLine
  extract_lets l sl h1 page i m0 a1 b1 b2 b3
  have k0 : Keeps C s0 m0 := by simp [m0, h]
  have k1 : Keeps C s0 a1 := keeps_ite_intro k0 (keeps_senseCrock _ _ _ _ k0)
  have j1 : Keeps C s0 b1 := by simp [b1, h]
  have j2 : Keeps C s0 b2 := by simp [b2, j1]
  have j3 : Keeps C s0 b3 := keeps_setAside _ _ j2
  refine keeps_ite_intro (by simp [h]) ?_
  split
  · rename_i c _
    extract_lets m2 keeps m3
    have k2 : Keeps C s0 m2 := keeps_ite_intro (keeps_setAside _ _ k1) k1
    have k3 : Keeps C s0 m3 := by
      refine keeps_ite_intro ?_ k2
      split
      · exact keeps_evict _ _ k2
      · exact k2
    exact k3
  · exact keeps_ite_intro (by simp [j1]) (keeps_ite_intro j3 j2)

@[simp] theorem keeps_touch (m : State) (n : ℕ) (a : ℕ) (len : ℕ) (write : Bool) (cls : ℕ) (h : Keeps C s0 m) :
    Keeps C s0 (State.touch m n a len write cls) := by
  unfold State.touch
  refine keeps_ite_intro h (keeps_ite_intro (keeps_ite_intro h ?_) (keeps_ite_intro (by simp [h]) ?_))
  · split <;> simp [h]
  · exact keeps_foldl (fun _ _ hm => keeps_cacheLine _ _ _ _ _ _ hm) _ h

@[simp] theorem keeps_setTag (m : State) (a : ℕ) (t : ℕ) (h : Keeps C s0 m) : Keeps C s0 (State.setTag m a t) := by
  unfold State.setTag
  split
  · split
    · exact h
    · simp [h]
  · split
    · exact h.tables (fun hc => by simp [hc, SMap.wf_set])
    · exact h

@[simp] theorem keeps_untag (m : State) (a : ℕ) (len : ℕ) (h : Keeps C s0 m) : Keeps C s0 (State.untag m a len) :=
    by
  unfold State.untag
  (repeat' split) <;> simp (maxDischargeDepth := 40) +contextual [h, *]

@[simp] theorem keeps_store (m : State) (n : ℕ) (a : ℕ) (bs : List Byte) (p : ℕ → ℕ → Bool) (cls : ℕ) (h : Keeps C
    s0 m) : Keeps C s0 (State.store m n a bs p cls) := by
  simp (maxDischargeDepth := 40) [State.store, h]

@[simp] theorem keeps_storeP (m : State) (n : ℕ) (a : ℕ) (bs : List Byte) (psn : Bool) (cls : ℕ) (h : Keeps C s0 m)
    : Keeps C s0 (State.storeP m n a bs psn cls) := by
  simp [State.storeP, h]

@[simp] theorem keeps_putStatus (m : State) (n a v cls : Nat) (h : Keeps C s0 m) : Keeps C s0 (State.putStatus m
    n a v cls) := by
  simp [State.putStatus, h]

@[simp] theorem keeps_storeTagged (m : State) (n : ℕ) (a : ℕ) (bs : List Byte) (psn : Bool) (cls : ℕ) (c : Option ℕ)
    (h : Keeps C s0 m) : Keeps C s0 (State.storeTagged m n a bs psn cls c) := by
  simp [State.storeTagged, h]

@[simp] theorem keeps_zero (m : State) (a : ℕ) (len : ℕ) (h : Keeps C s0 m) : Keeps C s0 (State.zero m a len) := by
  unfold State.zero
  refine h.tables (fun hc => ?_)
  (repeat' split) <;> simp [*, SMap.wf_clear]

@[simp] theorem keeps_load (m : State) (master : ℕ) (n : ℕ) (a : ℕ) (len : ℕ) (cls : ℕ) (h : Keeps C s0
    m) : Keeps C s0 (State.load m master n a len cls).2.2 := by
  unfold State.load
  (repeat' split) <;> simp (maxDischargeDepth := 40) [h]

@[simp] theorem keeps_write (m : State) (master : ℕ) (n : ℕ) (a : ℕ) (bs : List Byte) (psn : Bool) (cls :
    ℕ) (h : Keeps C s0 m) : Keeps C s0 (State.write m master n a bs psn cls) := by
  unfold State.write
  (repeat' split) <;> simp (maxDischargeDepth := 40) [h]

@[simp] theorem keeps_sramRead (m : State) (page : ℕ) (k : ℕ) (n : ℕ) (master : ℕ) (addr : ℕ) (up : Bool) (h : Keeps
    C s0 m) : Keeps C s0 (State.sramRead m page k n master addr up).2 := by
  unfold State.sramRead
  dsimp only
  (repeat' split) <;> simp (maxDischargeDepth := 40) [h]

@[simp] theorem keeps_freshId (m : State) (h : Keeps C s0 m) : Keeps C s0 (State.freshId m).2 := by
  simp [State.freshId, h]

end Sys2Proof.Machine
end

