-- ==== Sys2Proof/Laws/KeepsFlags.lean ====
section
/-! SUPPORT. What the operations of Machine/Flags keep: the queue, the versions in the fuses, and the canonical tables. -/

namespace Sys2Proof.Machine

variable {C : Prop} {s0 : State}

@[simp] theorem keeps_countFlags (m : State) (q : ℕ) (f : Flags) (h : Keeps C s0 m) : Keeps C s0 (State.countFlags m
    q f) := by
  simp (maxDischargeDepth := 40) [State.countFlags, h]

end Sys2Proof.Machine
end

