-- ==== Sys2Proof/Laws/KeepsCounters.lean ====
section
/-! SUPPORT. What the operations of Machine/Counters keep: the queue, the versions in the fuses, and the canonical tables. -/

namespace Sys2Proof.Machine

variable {C : Prop} {s0 : State}

@[simp] theorem keeps_setWatch (m : State) (w : ℕ) (x : Option Watch) (h : Keeps C s0 m) : Keeps C s0
    (State.setWatch m w x) := by
  simp (maxDischargeDepth := 40) [State.setWatch, h]

@[simp] theorem keeps_notify (m : State) (t : Target) (result : ℕ) (h : Keeps C s0 m) : Keeps C s0 (State.notify m t
    result) := by
  simp (maxDischargeDepth := 40) [State.notify, h]

@[simp] theorem keeps_evalWatch (m : State) (w : ℕ) (h : Keeps C s0 m) : Keeps C s0 (State.evalWatch m w) := by
  unfold State.evalWatch
  (repeat' split) <;> simp (maxDischargeDepth := 40) [h]

@[simp] theorem keeps_evalWatches (m : State) (i : ℕ) (h : Keeps C s0 m) : Keeps C s0 (State.evalWatches m i) := by
  unfold State.evalWatches
  (repeat' split) <;> simp (maxDischargeDepth := 40) +contextual [h, *]

@[simp] theorem keeps_addWatch (m : State) (w : ℕ) (x : Watch) (h : Keeps C s0 m) : Keeps C s0 (State.addWatch m w
    x) := by
  simp (maxDischargeDepth := 40) [State.addWatch, h]

@[simp] theorem keeps_ctrOp (m : State) (i : ℕ) (r : ℤ) (master : ℕ) (h : Keeps C s0 m) : Keeps C s0 (State.ctrOp m
    i r master) := by
  simp (maxDischargeDepth := 40) [State.ctrOp, h]

@[simp] theorem keeps_ctrDone (m : State) (n : ℕ) (ctr : ℕ) (cen : Bool) (master : ℕ) (h : Keeps C s0 m) : Keeps C
    s0 (State.ctrDone m n ctr cen master) := by
  simp (maxDischargeDepth := 40) [State.ctrDone, h]

@[simp] theorem keeps_ctrSetLimit (m : State) (i : ℕ) (v : ℕ) (master : ℕ) (h : Keeps C s0 m) : Keeps C s0
    (State.ctrSetLimit m i v master) := by
  simp (maxDischargeDepth := 40) [State.ctrSetLimit, h]

@[simp] theorem keeps_ringPut (m : State) (n : ℕ) (cookie : ℕ) (result : ℕ) (core : Option ℕ) (h : Keeps C s0 m) :
    Keeps C s0 (State.ringPut m n cookie result core) := by
  unfold State.ringPut
  (repeat' split) <;> simp (maxDischargeDepth := 40) [h]

@[simp] theorem keeps_dropWatches (m : State) (p : Watch → Bool) (h : Keeps C s0 m) : Keeps C s0 (State.dropWatches
    m p) := by
  simp (maxDischargeDepth := 40) [State.dropWatches, h]

end Sys2Proof.Machine
end

