-- ==== Sys2Proof/Laws/KeepsNet.lean ====
section
/-! SUPPORT. What the operations of Machine/Net keep: the queue, the versions in the fuses, and the canonical tables. -/

namespace Sys2Proof.Machine

variable {C : Prop} {s0 : State}

@[simp] theorem keeps_setLink (m : State) (p : ℕ) (l : Link) (h : Keeps C s0 m) : Keeps C s0 (State.setLink m p l)
    := by
  simp [State.setLink, h]

@[simp] theorem keeps_txq (m : State) (p : ℕ) (f : Flit) (h : Keeps C s0 m) : Keeps C s0 (State.txq m p f) := by
  simp [State.txq, h]

@[simp] theorem keeps_refuseReq (m : State) (master : Nat) (f : Flit) (acc : Nat) (x : Served) (h : Keeps C
    s0 m) : Keeps C s0 (State.refuseReq m master f acc x).1 := by
  unfold State.refuseReq
  (repeat' split) <;> simp [h]

@[simp] theorem keeps_serveWr (m : State) (master : Nat) (f : Flit) (h : Keeps C s0 m) : Keeps C s0
    (State.serveWr m master f).1 := by
  unfold State.serveWr
  dsimp only
  (repeat' split) <;> simp (maxDischargeDepth := 40) +contextual [h, *]

@[simp] theorem keeps_serveRd (m : State) (master : Nat) (f : Flit) (h : Keeps C s0 m) : Keeps C s0
    (State.serveRd m master f).1 := by
  unfold State.serveRd
  dsimp only
  (repeat' split) <;> simp (maxDischargeDepth := 40) +contextual [h, *]

@[simp] theorem keeps_serveCnt (m : State) (master : Nat) (f : Flit) (h : Keeps C s0 m) : Keeps C s0
    (State.serveCnt m master f).1 := by
  unfold State.serveCnt
  extract_lets n c i
  split <;> simp [h]

@[simp] theorem keeps_loopFlit (m : State) (f : Flit) (h : Keeps C s0 m) : Keeps C s0 (State.loopFlit m f).1 := by
  unfold State.loopFlit
  dsimp only
  (repeat' split) <;> simp (maxDischargeDepth := 40) [h]

@[simp] theorem keeps_sendFlit (m : State) (f : Flit) (h : Keeps C s0 m) : Keeps C s0 (State.sendFlit m f).1 := by
  unfold State.sendFlit
  (repeat' split) <;> simp (maxDischargeDepth := 40) [h]

@[simp] theorem keeps_respond (m : State) (p : Nat) (req reply : Flit) (h : Keeps C s0 m) : Keeps C s0
    (State.respond m p req reply) := by
  unfold State.respond
  exact keeps_ite_intro (keeps_txq _ _ _ h) (keeps_sendFlit _ _ h)

@[simp] theorem keeps_setXfer (m : State) (x : Xfer) (h : Keeps C s0 m) : Keeps C s0 (State.setXfer m x) := by
  simp [State.setXfer, h]

@[simp] theorem keeps_setRbuf (m : State) (i : ℕ) (b : RBuf) (h : Keeps C s0 m) : Keeps C s0 (State.setRbuf m i b)
    := by
  simp [State.setRbuf, h]

@[simp] theorem keeps_pieceIn (m : State) (i : ℕ) (p : ℕ) (bs : List Byte) (psn : ℕ) (h : Keeps C s0 m) : Keeps C s0
    (State.pieceIn m i p bs psn) := by
  simp [State.pieceIn, h]

@[simp] theorem keeps_pieceFails (m : State) (i stn page p : Nat) (h : Keeps C s0 m) : Keeps C s0
    (State.pieceFails m i stn page p) := by
  unfold State.pieceFails
  exact keeps_pieceIn _ _ _ _ _ (keeps_report _ _ h)

@[simp] theorem keeps_ask (m : State) (i : ℕ) (stn : ℕ) (page : ℕ) (a : ℕ) (n : ℕ) (h : Keeps C s0 m) : Keeps C s0
    (State.ask m i stn page a n) := by
  unfold State.ask
  refine keeps_ite_intro h (keeps_foldl (fun m p h => ?_) _ h)
  extract_lets +onlyGivenNames b
  refine keeps_ite_intro h ?_
  split
  · exact h
  · extract_lets +onlyGivenNames r
    have hr : Keeps C s0 r.1 := by simp [r, h]
    clear_value r
    split
    · exact keeps_mk_intro (keeps_setRbuf _ _ _ hr)
    · exact keeps_ite_intro (keeps_pieceIn _ _ _ _ _ hr) (keeps_pieceFails _ _ _ _ _ hr)
    · exact keeps_pieceFails _ _ _ _ _ hr

@[simp] theorem keeps_issueWReq (m : State) (w : WReq) (t : Nat) (h : Keeps C s0 m) : Keeps C s0
    (State.issueWReq m w t) := by
  unfold State.issueWReq
  extract_lets r failed
  have hr : Keeps C s0 r.1 := by simp [r, h]
  have hf : ∀ m, Keeps C s0 m → Keeps C s0 (failed m) := fun m hm => by simp [failed, hm]
  clear_value r
  split
  · exact keeps_ite_intro hr hr
  · exact keeps_ite_intro hr (hf _ hr)
  · exact hr
  · exact hf _ hr

@[simp] theorem keeps_pumpOut (m : State) (h : Keeps C s0 m) : Keeps C s0 (State.pumpOut m) := by
  unfold State.pumpOut
  refine keeps_foldl_fst (fun acc w ha => ?_) _ h
  extract_lets src waits
  have hw : Keeps C s0 (waits : State × List ℕ).1 := ha
  split
  · exact hw
  · split
    · exact keeps_issueWReq _ _ _ ha
    · split
      · exact keeps_issueWReq _ _ _ ha
      · exact hw

@[simp] theorem keeps_gsend (m : State) (i : ℕ) (stn : ℕ) (page : ℕ) (a : ℕ) (bs : List Byte) (p : ℕ → ℕ → Bool) (h
    : Keeps C s0 m) : Keeps C s0 (State.gsend m i stn page a bs p) := by
  unfold State.gsend
  exact keeps_pumpOut _ h

@[simp] theorem keeps_gtag (m : State) (i : ℕ) (stn : ℕ) (page : ℕ) (a : ℕ) (t : ℕ) (h : Keeps C s0 m) :
    Keeps C s0 (State.gtag m i stn page a t) := by
  unfold State.gtag
  exact keeps_pumpOut _ h

@[simp] theorem keeps_forget (m : State) (i : Nat) (rs : List (Nat × Nat)) (h : Keeps C s0 m) : Keeps C s0
    (State.forget m i rs) := by
  unfold State.forget
  extract_lets b ps
  exact keeps_ite_intro h (keeps_setRbuf _ _ _ h)

@[simp] theorem keeps_dropBuf (m : State) (i : ℕ) (h : Keeps C s0 m) : Keeps C s0 (State.dropBuf m i) := by
  simp [State.dropBuf, h]

@[simp] theorem keeps_reqError (m : State) (r : Req) (ecode : ℕ) (h : Keeps C s0 m) : Keeps C s0 (State.reqError m r
    ecode) := by
  unfold State.reqError
  extract_lets +onlyGivenNames m1 m2 _
  have h1 : Keeps C s0 m1 := by simp [m1, h]
  clear_value m1
  have h2 : Keeps C s0 m2 := by simp [m2, h1]
  clear_value m2
  split
  · exact h2
  · split
    · exact keeps_ite_intro h2 (keeps_pieceIn _ _ _ _ _ h2)
    · simp [h2]

@[simp] theorem keeps_xferData (m : State) (x : Xfer) (r : Req) (bs : List Byte) (psn : Nat) (h : Keeps C s0 m)
    : Keeps C s0 (State.xferData m x r bs psn) := by
  unfold State.xferData
  exact keeps_setXfer _ _ h

@[simp] theorem keeps_digestAdd (m : State) (n off tag : Nat) (h : Keeps C s0 m) : Keeps C s0 (State.digestAdd m
    n off tag) := by
  exact keeps_setFld _ _ _ h

@[simp] theorem keeps_sendTag (m : State) (x : Xfer) (k : ℕ) (h : Keeps C s0 m) : Keeps C s0 (State.sendTag m x k)
    := by
  unfold State.sendTag
  dsimp only
  split
  · exact keeps_digestAdd _ _ _ _ (keeps_sendFlit _ _ h)
  · exact h

@[simp] theorem keeps_sendPiece (m : State) (x : Xfer) (h : Keeps C s0 m) : Keeps C s0 (State.sendPiece m x) := by
  unfold State.sendPiece
  extract_lets k n page
  split
  · exact h
  · rename_i t _
    extract_lets src f r x1 rq src1 m1 tagged m2
    have h1 : Keeps C s0 m1 := keeps_mk_intro (keeps_setXfer _ _ (keeps_sendFlit _ _ h))
    have ht : ∀ m, Keeps C s0 m → Keeps C s0 (tagged m) := fun m hm => keeps_ite_intro hm (keeps_sendTag _ _ _ hm)
    clear_value m1 tagged
    have h2 : Keeps C s0 m2 := h1
    clear_value m2
    split
    · exact ht _ h1
    · refine keeps_ite_intro (keeps_reqError _ _ _ h1) (keeps_ite_intro (keeps_xferData _ _ _ _ _ h2) (ht _ (keeps_setXfer _ _ h2)))
    · exact keeps_reqError _ _ _ h1
    · exact keeps_reqError _ _ _ h1

@[simp] theorem keeps_pump (x0 : ℕ) (x1 : ℕ) (x2 : State) (h : Keeps C s0 x2) : Keeps C s0 (State.pump x0 x1 x2) :=
    by
  induction x0 generalizing x2 with
  | zero => exact h
  | succ k ih =>
    unfold State.pump
    split
    · exact h
    · split
      · exact ih _ (by simp [h])
      · exact h

end Sys2Proof.Machine
end

