-- ==== Sys2Proof/Laws/KeepsSeq.lean ====
section
/-! SUPPORT. What the operations of Machine/Seq keep: the queue, the versions in the fuses, and the canonical tables. -/

namespace Sys2Proof.Machine

variable {C : Prop} {s0 : State}

@[simp] theorem keeps_ledger (m : State) (n : ℕ) (e : LedgerEntry) (h : Keeps C s0 m) : Keeps C s0 (State.ledger m n
    e) := by
  simp (maxDischargeDepth := 40) [State.ledger, h]

@[simp] theorem keeps_setLaunch (m : State) (n : ℕ) (l : Option Launch) (h : Keeps C s0 m) : Keeps C s0
    (State.setLaunch m n l) := by
  simp (maxDischargeDepth := 40) [State.setLaunch, h]

@[simp] theorem keeps_setHold (m : State) (n : ℕ) (q : ℕ) (y3 : Option Hold) (h : Keeps C s0 m) : Keeps C s0
    (State.setHold m n q y3) := by
  simp (maxDischargeDepth := 40) [State.setHold, h]

@[simp] theorem keeps_setPc (m : State) (n q v : Nat) (h : Keeps C s0 m) : Keeps C s0 (State.setPc m n q v) :=
    by
  unfold State.setPc
  dsimp only
  (repeat' split) <;> simp (maxDischargeDepth := 40) +contextual [h, *]

@[simp] theorem keeps_advance (m : State) (n : ℕ) (q : ℕ) (done : Bool) (h : Keeps C s0 m) : Keeps C s0
    (State.advance m n q done) := by
  simp (maxDischargeDepth := 40) [State.advance, h]

@[simp] theorem keeps_swapBank (m : State) (n : ℕ) (q : ℕ) (h : Keeps C s0 m) : Keeps C s0 (State.swapBank m n q) :=
    by
  simp (maxDischargeDepth := 40) [State.swapBank, h]

@[simp] theorem keeps_applySwaps (m : State) (n : ℕ) (mask : ℕ) (h : Keeps C s0 m) : Keeps C s0 (State.applySwaps m
    n mask) := by
  unfold State.applySwaps
  (repeat' split) <;> simp (maxDischargeDepth := 40) +contextual [h, *]

@[simp] theorem keeps_epochSwap (m : State) (n : ℕ) (t : ℕ) (h : Keeps C s0 m) : Keeps C s0 (State.epochSwap m n t)
    := by
  simp (maxDischargeDepth := 40) [State.epochSwap, h]

@[simp] theorem keeps_epochSwaps (m : State) (n : ℕ) (h : Keeps C s0 m) : Keeps C s0 (State.epochSwaps m n) := by
  unfold State.epochSwaps
  (repeat' split) <;> simp (maxDischargeDepth := 40) +contextual [h, *]

@[simp] theorem keeps_stopRecipe (m : State) (n : ℕ) (why : ℕ) (det : ℕ) (h : Keeps C s0 m) : Keeps C s0
    (State.stopRecipe m n why det) := by
  unfold State.stopRecipe
  (repeat' split) <;> simp (maxDischargeDepth := 40) +contextual [h, *]

@[simp] theorem keeps_applyParams (m : State) (n : ℕ) (h : Keeps C s0 m) : Keeps C s0 (State.applyParams m n) := by
  unfold State.applyParams
  (repeat' split) <;> simp (maxDischargeDepth := 40) +contextual [h, *]

@[simp] theorem keeps_stageParam (m : State) (n : ℕ) (i : ℕ) (v : ℕ) (h : Keeps C s0 m) : Keeps C s0
    (State.stageParam m n i v) := by
  simp (maxDischargeDepth := 40) [State.stageParam, h]

@[simp] theorem keeps_startLaunch (m : State) (n : ℕ) (entry : ℕ) (mask : ℕ) (swap : Bool) (h : Keeps C s0 m) :
    Keeps C s0 (State.startLaunch m n entry mask swap) := by
  unfold State.startLaunch
  (repeat' split) <;> simp (maxDischargeDepth := 40) +contextual [h, *]

@[simp] theorem keeps_startQueued (m : State) (n : ℕ) (h : Keeps C s0 m) : Keeps C s0 (State.startQueued m n) := by
  unfold State.startQueued
  (repeat' split) <;> simp (maxDischargeDepth := 40) [h]

@[simp] theorem keeps_launchGo (m : State) (master : ℕ) (n : ℕ) (h : Keeps C s0 m) : Keeps C s0 (State.launchGo m
    master n) := by
  simp (maxDischargeDepth := 40) [State.launchGo, h]

@[simp] theorem keeps_issueLocal (m : State) (n : ℕ) (q : ℕ) (opc : ℕ) (upset : Bool) (f : State → ℕ → Issue) (hf :
    ∀ (z5_0 : State) (z5_1 : ℕ), Keeps C s0 z5_0 → KeepsIssue C s0 (f z5_0 z5_1)) (h : Keeps C s0 m) : Keeps C s0
    (State.issueLocal m n q opc upset f) := by
  unfold State.issueLocal
  refine keeps_ite_intro h (keeps_ite_intro (by simp (maxDischargeDepth := 40) [h]) ?_)
  extract_lets +onlyGivenNames w
  refine keeps_ite_intro h ?_
  extract_lets +onlyGivenNames r
  have hr : Keeps C s0 r.2 := by simp (maxDischargeDepth := 40) [r, h]
  clear_value r w
  refine keeps_ite_intro (by simp (maxDischargeDepth := 40) [hr]) ?_
  split
  · simp (maxDischargeDepth := 40) [hr]
  · split
    · exact h
    · simp (maxDischargeDepth := 40) [hr]
    · exact hf _ _ hr _ ‹_›

@[simp] theorem keeps_gangDone (m : State) (n : ℕ) (l : Launch) (done : Bool) (h : Keeps C s0 m) : Keeps C s0
    (State.gangDone m n l done) := by
  unfold State.gangDone
  (repeat' split) <;> simp (maxDischargeDepth := 40) +contextual [h, *]

end Sys2Proof.Machine
end

