-- ==== Sys2Proof/Laws/KeepsBarrier.lean ====
section
/-! SUPPORT. What the operations of Machine/Barrier keep: the queue, the versions in the fuses, and the canonical tables. -/

namespace Sys2Proof.Machine

variable {C : Prop} {s0 : State}

@[simp] theorem keeps_mapPassed (m : State) (e : Nat) (h : Keeps C s0 m) : Keeps C s0 (State.mapPassed m e) := by
  exact h

@[simp] theorem keeps_sendBar (m : State) (b : ℕ) (kind : ℕ) (rank : ℕ) (h : Keeps C s0 m) : Keeps C s0
    (State.sendBar m b kind rank) := by
  simp (maxDischargeDepth := 40) [State.sendBar, h]

@[simp] theorem keeps_releaseLocal (m : State) (b : ℕ) (h : Keeps C s0 m) : Keeps C s0 (State.releaseLocal m b) :=
    by
  unfold State.releaseLocal
  (repeat' split) <;> simp (maxDischargeDepth := 40) +contextual [h, *]

@[simp] theorem keeps_barStep (x0 : ℕ) (x1 : ℕ) (x2 : State) (h : Keeps C s0 x2) : Keeps C s0 (State.barStep x0 x1
    x2) := by
  induction x0 generalizing x2 with
  | zero => exact h
  | succ k ih =>
    unfold State.barStep
    extract_lets +onlyGivenNames g ch
    refine keeps_ite_intro (keeps_ite_intro (ih _ ?_) (by simp (maxDischargeDepth := 40) [h])) h
    exact keeps_releaseLocal _ _ (keeps_foldl (fun m k hm => by simp (maxDischargeDepth := 40) [hm]) _ h)

@[simp] theorem keeps_countEntry (m : State) (b : ℕ) (e : Entry) (h : Keeps C s0 m) : Keeps C s0 (State.countEntry m
    b e) := by
  unfold State.countEntry
  (repeat' split) <;> simp (maxDischargeDepth := 40) [h]

@[simp] theorem keeps_overrun (m : State) (b : ℕ) (master : ℕ) (h : Keeps C s0 m) : Keeps C s0 (State.overrun m b
    master) := by
  simp (maxDischargeDepth := 40) [State.overrun, h]

@[simp] theorem keeps_barProto (m : State) (p : ℕ) (h : Keeps C s0 m) : Keeps C s0 (State.barProto m p) := by
  simp (maxDischargeDepth := 40) [State.barProto, h]

@[simp] theorem keeps_barIdle (m : State) (b : ℕ) (h : Keeps C s0 m) : Keeps C s0 (State.barIdle m b) := by
  unfold State.barIdle
  (repeat' split) <;> simp (maxDischargeDepth := 40) +contextual [h, *]

end Sys2Proof.Machine
end

