-- ==== Sys2Proof/Laws/KeepsGriddle.lean ====
section
/-! SUPPORT. What the operations of Machine/Griddle keep: the queue, the versions in the fuses, and the canonical tables. -/

namespace Sys2Proof.Machine

variable {C : Prop} {s0 : State}

@[simp] theorem keeps_setGop (m : State) (g : Gop) (h : Keeps C s0 m) : Keeps C s0 (State.setGop m g) := by
  simp (maxDischargeDepth := 40) [State.setGop, h]

@[simp] theorem keeps_levelVt (m : State) (ready : List ℕ) (h : Keeps C s0 m) : Keeps C s0 (State.levelVt m ready)
    := by
  simp (maxDischargeDepth := 40) [State.levelVt, h]

@[simp] theorem keeps_grantTo (m : State) (n : ℕ) (fresh : Bool) (h : Keeps C s0 m) : Keeps C s0 (State.grantTo m n
    fresh) := by
  unfold State.grantTo
  (repeat' split) <;> simp (maxDischargeDepth := 40) [h]

@[simp] theorem keeps_arbitrate (m : State) (h : Keeps C s0 m) : Keeps C s0 (State.arbitrate m) := by
  unfold State.arbitrate
  dsimp only
  (repeat' split) <;> simp (maxDischargeDepth := 40) [h]

end Sys2Proof.Machine
end

