-- ==== Sys2Proof/Laws/KeepsLadle.lean ====
section
/-! SUPPORT. What the operations of Machine/Ladle keep: the queue, the versions in the fuses, and the canonical tables. -/

namespace Sys2Proof.Machine

variable {C : Prop} {s0 : State}

@[simp] theorem keeps_putBits (m : State) (g : Gop) (bit : ℕ) (w : ℕ) (v : ℕ) (h : Keeps C s0 m) : Keeps C s0
    (State.putBits m g bit w v).1 := by
  unfold State.putBits
  (repeat' split) <;> simp (maxDischargeDepth := 40) [h]

@[simp] theorem keeps_normAdd (m : State) (q : ℕ) (n : ℕ) (reg : ℕ) (x : Num) (psn : Bool) (h : Keeps C s0 m) :
    Keeps C s0 (State.normAdd m q n reg x psn) := by
  unfold State.normAdd
  (repeat' split) <;> simp (maxDischargeDepth := 40) [h]

@[simp] theorem keeps_potAdd (m : State) (n : ℕ) (q : ℕ) (a : ℕ) (fp64 : Bool) (v : Num) (fl : Flags) (psn : Bool)
    (upset : Bool) (h : Keeps C s0 m) : Keeps C s0 (State.potAdd m n q a fp64 v fl psn upset) := by
  simp (maxDischargeDepth := 40) [State.potAdd, h]

@[simp] theorem keeps_emitMx (m : State) (g : Gop) (d : Drain) (side : Bool) (key : Nat) (h : Keeps C s0 m) :
    Keeps C s0 (State.emitMx m g d side key).1 := by
  unfold State.emitMx
  extract_lets f code mine rest
  split
  · exact h
  · extract_lets rnd sb m1
    refine keeps_foldl_fst (fun s e hs => ?_) _ h
    extract_lets c s1 r
    have h1 : Keeps C s0 s1 := keeps_ite_intro hs (keeps_countFlags _ _ _ hs)
    exact keeps_putBits _ _ _ _ _ h1

@[simp] theorem keeps_pushMx (m : State) (g : Gop) (d : Drain) (e : MxElem) (h : Keeps C s0 m) : Keeps C s0
    (State.pushMx m g d e).1 := by
  unfold State.pushMx
  extract_lets g1
  split
  · exact keeps_emitMx _ _ _ _ _ h
  · exact h

@[simp] theorem keeps_keepElem (m : State) (g : Gop) (d : Drain) (w : ℕ) (run : ℕ) (pos : ℕ) (mill : ℕ) (o : Out)
    (upset : Bool) (h : Keeps C s0 m) : Keeps C s0 (State.keepElem m g d w run pos mill o upset).1 := by
  unfold State.keepElem
  extract_lets f n own bit a code bits psn runBytes firstOfRun m0 off ar old r fl m1 m2 w1 e key c r2
  have h0 : Keeps C s0 m0 := keeps_ite_intro (keeps_touch _ _ _ _ _ _ h) h
  clear_value m0
  have h1 : Keeps C s0 m1 := keeps_ite_intro (keeps_touch _ _ _ _ _ _ (keeps_touch _ _ _ _ _ _ h0)) h0
  clear_value m1
  have h2 : Keeps C s0 m2 := keeps_foldl (fun _ _ hm => keeps_setFlag _ _ _ (keeps_setFlag _ _ _ hm)) _ h1
  clear_value m2
  have hw : Keeps C s0 w1.1 := keeps_putBits _ _ _ _ _ (keeps_countFlags _ _ _ h2)
  have hr : Keeps C s0 r2.1 := keeps_putBits _ _ _ _ _ (keeps_countFlags _ _ _ h0)
  split
  · exact keeps_countFlags _ _ _ (keeps_potAdd _ _ _ _ _ _ _ _ _ h0)
  · exact hw
  · exact keeps_countFlags _ _ _ h0
  · split
    · exact keeps_pushMx _ _ _ _ h0
    · exact hr

@[simp] theorem keeps_touchSide (m : State) (n own w run pos : Nat) (d : Drain) (h : Keeps C s0 m) : Keeps C s0
    (State.touchSide m n own w run pos d) := by
  unfold State.touchSide
  dsimp only
  (repeat' split) <;> simp (maxDischargeDepth := 40) +contextual [h, *]

@[simp] theorem keeps_drainElem (m : State) (g : Gop) (d : Drain) (w : ℕ) (run : ℕ) (pos : ℕ) (mrow : ℕ) (ncol : ℕ)
    (tile : ℕ) (o : Out) (upset : Bool) (h : Keeps C s0 m) : Keeps C s0 (State.drainElem m g d w run pos mrow ncol
    tile o upset).1 := by
  unfold State.drainElem
  extract_lets f q n own sA o2 sB o3 sb sw m1 key scl sv s o4 mx sp c w1 mg g1 o5 s5 r o6 back m6 red
  have ha : Keeps C s0 m1 := keeps_touchSide _ _ _ _ _ _ _ h
  clear_value m1
  have hg : Keeps C s0 mg.1 := by
    dsimp only [mg]
    split
    · exact ha
    · split
      · exact keeps_pushMx _ _ _ _ ha
      · exact keeps_putBits _ _ _ _ _ ha
  clear_value mg
  have h6 : Keeps C s0 m6 := by
    refine keeps_ite_intro hg (keeps_ite_intro ?_ ?_) <;> simp (maxDischargeDepth := 40) [hg]
  clear_value m6
  exact keeps_keepElem _ _ _ _ _ _ _ _ _ h6

end Sys2Proof.Machine
end

