-- ==== Sys2Proof/Laws/KeepsSieve.lean ====
section
/-! SUPPORT. What the operations of Machine/Sieve keep: the queue, the versions in the fuses, and the canonical tables. -/

namespace Sys2Proof.Machine

variable {C : Prop} {s0 : State}

@[simp] theorem keeps_setStep (m : State) (n : ℕ) (s : Step) (h : Keeps C s0 m) : Keeps C s0 (State.setStep m n s)
    := by
  simp (maxDischargeDepth := 40) [State.setStep, h]

@[simp] theorem keeps_tagBad (m : State) (n : ℕ) (page : ℕ) (master : ℕ) (addr : ℕ) (inj : Bool) (h : Keeps C s0 m)
    : Keeps C s0 (State.tagBad m n page master addr inj) := by
  simp (maxDischargeDepth := 40) [State.tagBad, h]

@[simp] theorem keeps_tagCheck (m : State) (n : ℕ) (page : ℕ) (kind : ℕ) (master : ℕ) (addr : ℕ) (tag : ℕ) (bytes :
    List Byte) (code : Option ℕ) (glitch : Bool) (h : Keeps C s0 m) : Keeps C s0 (State.tagCheck m n page kind
    master addr tag bytes code glitch).2 := by
  unfold State.tagCheck
  dsimp only
  (repeat' split) <;> simp (maxDischargeDepth := 40) [h]

@[simp] theorem keeps_stepTry (m : State) (n : ℕ) (h : Keeps C s0 m) : Keeps C s0 (State.stepTry m n) := by
  unfold State.stepTry
  dsimp only
  (repeat' split) <;> simp (maxDischargeDepth := 40) [h]

@[simp] theorem keeps_stepDone (m : State) (n : ℕ) (gop : ℕ) (h : Keeps C s0 m) : Keeps C s0 (State.stepDone m n
    gop) := by
  simp (maxDischargeDepth := 40) [State.stepDone, h]

@[simp] theorem keeps_stepDispatch (m : State) (n : ℕ) (h : Keeps C s0 m) : Keeps C s0 (State.stepDispatch m n) :=
    by
  simp (maxDischargeDepth := 40) [State.stepDispatch, h]

@[simp] theorem keeps_sieveMismatch (m : State) (n : ℕ) (quad : ℕ) (grp : ℕ) (pass : ℕ) (kind : ℕ) (tile : ℕ) (p :
    ℕ) (o : ℕ) (tol : ℕ) (inj : Bool) (h : Keeps C s0 m) : Keeps C s0 (State.sieveMismatch m n quad grp pass kind
    tile p o tol inj) := by
  simp (maxDischargeDepth := 40) [State.sieveMismatch, h]

@[simp] theorem keeps_queueVerdicts (m : State) (g : Gop) (sel : Check → Bool) (h : Keeps C s0 m) : Keeps C s0
    (State.queueVerdicts m g sel).1 := by
  simp (maxDischargeDepth := 40) [State.queueVerdicts, h]

@[simp] theorem keeps_deliverVerdict (m : State) (h : Keeps C s0 m) : Keeps C s0 (State.deliverVerdict m) := by
  unfold State.deliverVerdict
  (repeat' split) <;> simp (maxDischargeDepth := 40) [h]

@[simp] theorem keeps_execSieveVerdict (s : State) (h : Keeps C s0 s) : KeepsOut C s0 (execSieveVerdict s) := by
  simp (maxDischargeDepth := 40) [execSieveVerdict, h]

end Sys2Proof.Machine
end

