-- ==== Sys2Proof/Laws/KeepsClock.lean ====
section
/-! SUPPORT. What the operations of Machine/Clock keep: the queue, the versions in the fuses, and the canonical tables. -/

namespace Sys2Proof.Machine

variable {C : Prop} {s0 : State}

@[simp] theorem keeps_dropLimits (m : State) (h : Keeps C s0 m) : Keeps C s0 (State.dropLimits m) := by
  simp (maxDischargeDepth := 40) [State.dropLimits, h]

@[simp] theorem keeps_setClock (m : State) (h : Keeps C s0 m) : Keeps C s0 (State.setClock m) := by
  simp (maxDischargeDepth := 40) [State.setClock, h]

@[simp] theorem keeps_dvfs (m : State) (h : Keeps C s0 m) : Keeps C s0 (State.dvfs m) := by
  simp (maxDischargeDepth := 40) [State.dvfs, h]

end Sys2Proof.Machine
end

