-- ==== Sys2Proof/Laws/KeepsGopRun.lean ====
section
/-! SUPPORT. What the operations of Machine/GopRun keep: the queue, the versions in the fuses, and the canonical tables. -/

namespace Sys2Proof.Machine

variable {C : Prop} {s0 : State}

@[simp] theorem keeps_preloadNext (m : State) (p : Gop) (h : Keeps C s0 m) : Keeps C s0 (State.preloadNext m p)
    := by
  unfold State.preloadNext
  refine keeps_ite_intro h ?_
  split
  · exact keeps_ite_intro h (keeps_setGop _ _ h)
  · exact h

@[simp] theorem keeps_issueGop (m : State) (n : ℕ) (h : Keeps C s0 m) : Keeps C s0 (State.issueGop m n) := by
  unfold State.issueGop
  dsimp only
  (repeat' split) <;> simp (maxDischargeDepth := 40) [h]

@[simp] theorem keeps_slip (m : State) (g : Gop) (s : Slip) (inj : Bool) (h : Keeps C s0 m) : Keeps C s0 (State.slip
    m g s inj).1 := by
  unfold State.slip
  (repeat' split) <;> simp (maxDischargeDepth := 40) [h]

@[simp] theorem keeps_countProd (m : State) (f : GopF) (h : Keeps C s0 m) : Keeps C s0 (State.countProd m f) := by
  unfold State.countProd
  exact keeps_foldl (fun _ _ hm => keeps_bump _ _ _ hm) _ h

@[simp] theorem keeps_injectWave (m : State) (mis : List Mis) (upset : Bool) (h : Keeps C s0 m) :
    Keeps C s0 (State.injectWave m mis upset) := by
  unfold State.injectWave
  split
  · exact h
  · rename_i g _
    extract_lets alone f k q0 o rd bad m1 elems belems qi at_ tag m2
    refine keeps_ite_intro h ?_
    split
    rename_i tile pass row _
    extract_lets g1 r1 r2 wv src g2
    have h1 : Keeps C s0 m1 := keeps_sramRead _ _ _ _ _ _ _ h
    clear_value m1 tag at_ qi
    have h2 : Keeps C s0 m2 := by
      dsimp only [m2]; split <;> simp (maxDischargeDepth := 40) [h1]
    clear_value m2
    have k1 : Keeps C s0 r1.1 := by
      dsimp only [r1]; split <;> simp (maxDischargeDepth := 40) [h2]
    clear_value r1
    have k2 : Keeps C s0 r2.1 := by
      dsimp only [r2]; split <;> simp (maxDischargeDepth := 40) [k1]
    clear_value r2
    exact keeps_preloadNext _ _ (keeps_setGop _ _ (keeps_countProd _ _ k2))

@[simp] theorem keeps_retire (m : State) (g : Gop) (sieve : Bool) (h : Keeps C s0 m) : Keeps C s0 (State.retire m g
    sieve).1 := by
  unfold State.retire
  extract_lets +onlyGivenNames f
  have hite : ∀ (c : Prop) [Decidable c] (a b : State × Gop), Keeps C s0 a.1 → Keeps C s0 b.1 →
      Keeps C s0 (if c then a else b).1 := fun c _ a b ha hb => by split <;> assumption
  refine hite _ _ _ ?_ ?_
  · extract_lets +onlyGivenNames ws g1
    generalize ws = l
    cases l with
    | nil => exact h
    | cons w t =>
      refine hite _ _ _ h ?_
      extract_lets +onlyGivenNames mine upd g2
      exact hite _ _ _ (by simp (maxDischargeDepth := 40) [h]) h
  · generalize g.inflight = l
    cases l with
    | nil => exact h
    | cons w rest =>
      dsimp -zeta only
      extract_lets +onlyGivenNames g1
      refine hite _ _ _ h ?_
      extract_lets +onlyGivenNames g2 nx
      refine hite _ _ _ ?_ h
      extract_lets +onlyGivenNames mine upd g3
      exact hite _ _ _ h (by simp (maxDischargeDepth := 40) [h])

@[simp] theorem keeps_deliver (m : State) (g : Gop) (c : Cell) (p : Part) (upset : Bool) (h : Keeps C s0 m) : Keeps
    C s0 (State.deliver m g c p upset).1 := by
  unfold State.deliver
  (repeat' split) <;> simp (maxDischargeDepth := 40) [h]

@[simp] theorem keeps_countHold (m : State) (f : GopF) (h : Keeps C s0 m) : Keeps C s0 (State.countHold m f) :=
    by
  unfold State.countHold
  dsimp only
  (repeat' split) <;> simp (maxDischargeDepth := 40) +contextual [h, *]

@[simp] theorem keeps_checkTag (m : State) (g : Gop) (c : Cell) (h : Keeps C s0 m) : Keeps C s0 (State.checkTag
    m g c).1 := by
  unfold State.checkTag
  split
  · exact h
  · split
    · exact keeps_slip _ _ _ _ h
    · exact h

@[simp] theorem keeps_columnResult (m : State) (upset : Bool) (laneDiff : Bool) (h : Keeps C s0 m) : Keeps C s0
    (State.columnResult m upset laneDiff) := by
  unfold State.columnResult
  split
  · exact h
  · split
    · exact h
    · rename_i g _ c _
      extract_lets sieve ovfHere deliverNow need tc m' g' k p reads rd r p1 g0 a b t ij m1
      have hm : Keeps C s0 m' := keeps_checkTag _ _ _ h
      clear_value m'
      have hrd : Keeps C s0 rd.2 := by dsimp only [rd]; split <;> simp (maxDischargeDepth := 40) [hm]
      clear_value rd
      have h1 : Keeps C s0 m1 := by
        dsimp only [m1]
        split
        · refine keeps_sieveMismatch _ _ _ _ _ _ _ _ _ _ _ ?_
          simp (maxDischargeDepth := 40) [t, b, a, hrd]
        · exact hrd
      clear_value m1
      refine keeps_ite_intro h (keeps_ite_intro ?_ (keeps_ite_intro (keeps_countHold _ _ h) ?_))
      · exact keeps_foldl (fun m x hm => keeps_ask _ _ _ _ _ _ hm) _ (keeps_countHold _ _ h)
      · split
        rename_i m2 g1 he
        have h2 : Keeps C s0 m2 := by
          refine keeps_of_fst ?_ he
          (repeat' split) <;> simp (maxDischargeDepth := 40) [h1]
        refine keeps_ite_intro ?_ ?_ <;> simp (maxDischargeDepth := 40) [h2]

@[simp] theorem keeps_tileRelease (m : State) (h : Keeps C s0 m) : Keeps C s0 (State.tileRelease m) := by
  unfold State.tileRelease
  (repeat' split) <;> simp (maxDischargeDepth := 40) +contextual [h, *]

@[simp] theorem keeps_writeRow (m : State) (g : Gop) (mrow : ℕ) (h : Keeps C s0 m) : Keeps C s0 (State.writeRow m g
    mrow) := by
  unfold State.writeRow; (try dsimp only); (repeat' split) <;> (simp (maxDischargeDepth := 40) +contextual [h, *])

@[simp] theorem keeps_fillTrn (m : State) (g : Gop) (h : Keeps C s0 m) : Keeps C s0 (State.fillTrn m g).1 := by
  unfold State.fillTrn
  (try dsimp only)
  repeat' (first | assumption | (intro _) | split | with_reducible apply keeps_foldl | with_reducible apply keeps_foldl_fst | with_reducible apply keeps_foldl_snd | (simp (maxDischargeDepth := 40) +contextual [*]; done) | simp (maxDischargeDepth := 40) +contextual only [keeps_mk, keepsCore_fold, keeps_ite, *])

@[simp] theorem keeps_flushMx (m : State) (g : Gop) (h : Keeps C s0 m) : Keeps C s0 (State.flushMx m g).1 := by
  unfold State.flushMx
  refine keeps_foldl_fst (fun s b hs => ?_) _ h
  split
  · exact keeps_emitMx _ _ _ _ _ hs
  · exact hs

@[simp] theorem keeps_closeBlock (m : State) (g : Gop) (b : ℕ) (h : Keeps C s0 m) : Keeps C s0 (State.closeBlock m g
    b) := by
  unfold State.closeBlock
  extract_lets all psn a
  split
  · dsimp only
    refine keeps_ite_intro (keeps_ite_intro (keeps_setFld _ _ _ h) h) h
  · split
    · exact h
    · extract_lets m1
      have h1 : Keeps C s0 m1 := keeps_foldl (fun _ _ hm => keeps_putPsn _ _ _ _ hm) _ h
      exact keeps_ite_intro (keeps_setTag _ _ _ h1) (keeps_setTag _ _ _ h1)

@[simp] theorem keeps_sendBlock (m : State) (g : Gop) (b : ℕ) (h : Keeps C s0 m) : Keeps C s0 (State.sendBlock m g
    b) := by
  unfold State.sendBlock
  extract_lets psn bytesAt m1
  have h1 : Keeps C s0 m1 := keeps_foldl (fun _ _ hm => keeps_gsend _ _ _ _ _ _ _ hm) _ h
  split
  · exact keeps_ite_intro (keeps_gtag _ _ _ _ _ _ h1) h1
  · exact h1

@[simp] theorem keeps_chargeGop (m : State) (g : Gop) (acyc : ℕ) (h : Keeps C s0 m) : Keeps C s0 (State.chargeGop m
    g acyc) := by
  unfold State.chargeGop
  (repeat' split) <;> simp (maxDischargeDepth := 40) +contextual [h, *]

@[simp] theorem keeps_busyTime (m : State) (busy : List Nat) (h : Keeps C s0 m) : Keeps C s0 (State.busyTime m
    busy) := by
  unfold State.busyTime
  exact keeps_foldl (fun _ _ hm => keeps_bump _ _ _ hm) _ h

@[simp] theorem keeps_boundary (m : State) (acyc : Nat) (busy : List Nat) (h : Keeps C s0 m) : Keeps C s0
    (State.boundary m acyc busy) := by
  unfold State.boundary
  split
  · exact h
  · refine keeps_ite_intro h ?_
    extract_lets own
    split
    rename_i m1 g1 he
    have h1 : Keeps C s0 m1 := by
      refine keeps_of_fst ?_ he
      split <;> simp (maxDischargeDepth := 40) [h]
    clear he
    extract_lets t x g sent m2 m3 bad m4 follow m5 m5' mine m6 m7 m8 m9 m10
    have ht : Keeps C s0 t.1 := keeps_fillTrn _ _ h1
    clear_value t
    have hx : Keeps C s0 x.1 := keeps_flushMx _ _ ht
    clear_value x
    have hs : Keeps C s0 sent := keeps_foldl (fun s b hs => keeps_sendBlock _ _ _ hs) _ hx
    clear_value sent
    have b2 : Keeps C s0 m2 := keeps_foldl (fun m r hm => by simp (maxDischargeDepth := 40) [hm]) _ hs
    clear_value m2
    have b3 : Keeps C s0 m3 := keeps_foldl (fun m r hm => by simp (maxDischargeDepth := 40) [hm]) _ b2
    clear_value m3
    have b4 : Keeps C s0 m4 := keeps_busyTime _ _ (keeps_chargeGop _ _ _ b3)
    clear_value m4
    have b5 : Keeps C s0 m5 := keeps_mk_intro b4
    have b5' : Keeps C s0 m5' := by
      dsimp only [m5']
      split
      · exact keeps_setGop _ _ b5
      · exact b5
    have b6 : Keeps C s0 m6 :=
      keeps_ite_intro (keeps_ledger _ _ _ b5') (keeps_ite_intro (keeps_foldl (fun m r hm => by simp (maxDischargeDepth := 40) [hm]) _ b5') b5')
    have b7 : Keeps C s0 m7 := keeps_ite_intro (keeps_stopRecipe _ _ _ _ b6) b6
    have b8 : Keeps C s0 m8 := keeps_ite_intro (keeps_mk_intro b7) b7
    have b9 : Keeps C s0 m9 := by
      dsimp only [m9]
      split
      · exact b8
      · exact keeps_stepDone _ _ _ b8
    have b10 : Keeps C s0 m10 := by
      dsimp only [m10]
      split
      · exact keeps_startQueued _ _ b9
      · exact b9
    exact keeps_dvfs _ (keeps_dropBuf _ _ b10)

@[simp] theorem keeps_execGop (n : Stn) (s : State) (h : Keeps C s0 s) : KeepsOut C s0 (execGop n s) := by
  simp (maxDischargeDepth := 40) [execGop, h]

@[simp] theorem keeps_execGopGrant (s : State) (h : Keeps C s0 s) : KeepsOut C s0 (execGopGrant s) := by
  simp (maxDischargeDepth := 40) [execGopGrant, h]

@[simp] theorem keeps_execWaveInject (mis : List Mis) (upset : Bool) (s : State) (h : Keeps C s0 s) :
    KeepsOut C s0 (execWaveInject mis upset s) := by
  simp (maxDischargeDepth := 40) [execWaveInject, h]

@[simp] theorem keeps_execColumnResult (upset : Bool) (laneDiff : Bool) (s : State) (h : Keeps C s0 s) : KeepsOut C
    s0 (execColumnResult upset laneDiff s) := by
  simp (maxDischargeDepth := 40) [execColumnResult, h]

@[simp] theorem keeps_execTileRelease (s : State) (h : Keeps C s0 s) : KeepsOut C s0 (execTileRelease s) := by
  simp (maxDischargeDepth := 40) [execTileRelease, h]

@[simp] theorem keeps_execOperationBoundary (t : Span) (s : State) (h : Keeps C s0 s) :
    KeepsOut C s0 (execOperationBoundary t s) := by
  simp (maxDischargeDepth := 40) [execOperationBoundary, h]

end Sys2Proof.Machine
end

