-- ==== Sys2Proof/Laws/KeepsRecipes.lean ====
section
/-! SUPPORT. What the operations of Machine/Recipes keep: the queue, the versions in the fuses, and the canonical tables. -/

namespace Sys2Proof.Machine

variable {C : Prop} {s0 : State}

@[simp] theorem keeps_issueXfer (m : State) (n : ℕ) (q : ℕ) (load : Bool) (w : ℕ) (h : Keeps C s0 m) : KeepsIssue C
    s0 (State.issueXfer m n q load w) := by
  unfold State.issueXfer
  dsimp only
  (repeat' split) <;> simp (maxDischargeDepth := 40) [h]

@[simp] theorem keeps_movePiece (m : State) (x : Xfer) (src : ℕ) (dst : ℕ) (len : ℕ) (glitch : Bool) (h : Keeps C s0
    m) : Keeps C s0 (State.movePiece m x src dst len glitch) := by
  unfold State.movePiece
  dsimp only
  (repeat' split) <;> simp (maxDischargeDepth := 40) [h]

@[simp] theorem keeps_moveAll (m : State) (x : Xfer) (glitch : Bool) (h : Keeps C s0 m) : Keeps C s0 (State.moveAll
    m x glitch) := by
  unfold State.moveAll
  (repeat' split) <;> simp (maxDischargeDepth := 40) +contextual [h, *]

@[simp] theorem keeps_storePiece (m : State) (x : Xfer) (k o len : Nat) (glitch : Bool) (h : Keeps C s0 m) :
    Keeps C s0 (State.storePiece m x k o len glitch) := by
  unfold State.storePiece
  dsimp only
  (repeat' split) <;> simp (maxDischargeDepth := 40) +contextual [h, *]

@[simp] theorem keeps_storeRead (m : State) (x : Xfer) (glitch : Bool) (h : Keeps C s0 m) : Keeps C s0
    (State.storeRead m x glitch) := by
  unfold State.storeRead
  (repeat' split) <;> simp (maxDischargeDepth := 40) +contextual [h, *]

@[simp] theorem keeps_cmdDone (m : State) (n : ℕ) (q : ℕ) (id : ℕ) (h : Keeps C s0 m) : Keeps C s0 (State.cmdDone m
    n q id) := by
  simp (maxDischargeDepth := 40) [State.cmdDone, h]

@[simp] theorem keeps_xferDone (m : State) (i : ℕ) (load : Bool) (glitch : Bool) (h : Keeps C s0 m) : Keeps C s0
    (State.xferDone m i load glitch) := by
  unfold State.xferDone
  (repeat' split) <;> simp (maxDischargeDepth := 40) [h]

@[simp] theorem keeps_execLdt (n : Stn) (q : Quad) (upset : Bool) (s : State) (h : Keeps C s0 s) : KeepsOut C s0
    (execLdt n q upset s) := by
  unfold execLdt
  (repeat' split) <;> simp (maxDischargeDepth := 40) +contextual [h, *]

@[simp] theorem keeps_execStt (n : Stn) (q : Quad) (upset : Bool) (s : State) (h : Keeps C s0 s) : KeepsOut C s0
    (execStt n q upset s) := by
  unfold execStt
  (repeat' split) <;> simp (maxDischargeDepth := 40) +contextual [h, *]

@[simp] theorem keeps_execLdtComplete (i : ℕ) (glitch : Bool) (s : State) (h : Keeps C s0 s) : KeepsOut C s0
    (execLdtComplete i glitch s) := by
  simp (maxDischargeDepth := 40) [execLdtComplete, h]

@[simp] theorem keeps_execSttComplete (i : ℕ) (s : State) (h : Keeps C s0 s) : KeepsOut C s0 (execSttComplete i s)
    := by
  simp (maxDischargeDepth := 40) [execSttComplete, h]

@[simp] theorem keeps_execNop (n : Stn) (q : Quad) (s : State) (h : Keeps C s0 s) : KeepsOut C s0 (execNop n q s) :=
    by
  unfold execNop
  (repeat' split) <;> simp (maxDischargeDepth := 40) +contextual [h, *]

@[simp] theorem keeps_issueAg (m : State) (n : ℕ) (q : ℕ) (j : ℕ) (w : ℕ) (h : Keeps C s0 m) : KeepsIssue C s0
    (State.issueAg m n q j w) := by
  unfold State.issueAg
  dsimp only
  (repeat' split) <;> simp (maxDischargeDepth := 40) [h]

@[simp] theorem keeps_execAgl (n : Stn) (q : Quad) (s : State) (h : Keeps C s0 s) : KeepsOut C s0 (execAgl n q s) :=
    by
  unfold execAgl
  (repeat' split) <;> simp (maxDischargeDepth := 40) +contextual [h, *]

@[simp] theorem keeps_execAgh (n : Stn) (q : Quad) (s : State) (h : Keeps C s0 s) : KeepsOut C s0 (execAgh n q s) :=
    by
  unfold execAgh
  (repeat' split) <;> simp (maxDischargeDepth := 40) +contextual [h, *]

@[simp] theorem keeps_issueLpg (m : State) (n : ℕ) (q : ℕ) (w : ℕ) (h : Keeps C s0 m) : KeepsIssue C s0
    (State.issueLpg m n q w) := by
  unfold State.issueLpg
  dsimp only
  (repeat' split) <;> simp (maxDischargeDepth := 40) [h]

@[simp] theorem keeps_execLpg (n : Stn) (q : Quad) (s : State) (h : Keeps C s0 s) : KeepsOut C s0 (execLpg n q s) :=
    by
  unfold execLpg
  (repeat' split) <;> simp (maxDischargeDepth := 40) +contextual [h, *]

@[simp] theorem keeps_issueTsg (m : State) (n : ℕ) (q : ℕ) (w : ℕ) (h : Keeps C s0 m) : KeepsIssue C s0
    (State.issueTsg m n q w) := by
  unfold State.issueTsg
  dsimp only
  (repeat' split) <;> simp (maxDischargeDepth := 40) [h]

@[simp] theorem keeps_execTsg (n : Stn) (q : Quad) (s : State) (h : Keeps C s0 s) : KeepsOut C s0 (execTsg n q s) :=
    by
  unfold execTsg
  (repeat' split) <;> simp (maxDischargeDepth := 40) +contextual [h, *]

@[simp] theorem keeps_issueTwt (m : State) (n : ℕ) (q : ℕ) (w : ℕ) (h : Keeps C s0 m) : KeepsIssue C s0
    (State.issueTwt m n q w) := by
  unfold State.issueTwt
  dsimp only
  (repeat' split) <;> simp (maxDischargeDepth := 40) [h]

@[simp] theorem keeps_retryTwt (m : State) (n : ℕ) (q : ℕ) (h : Keeps C s0 m) : Keeps C s0 (State.retryTwt m n q) :=
    by
  unfold State.retryTwt
  split
  · split
    · exact keeps_issueTwt _ _ _ _ h _ ‹_›
    · exact h
  · exact keeps_issueLocal _ _ _ _ _ _ (fun m w h => keeps_issueTwt _ _ _ _ h) h

@[simp] theorem keeps_execTwt (n : Stn) (q : Quad) (s : State) (h : Keeps C s0 s) : KeepsOut C s0 (execTwt n q s) :=
    by
  simp (maxDischargeDepth := 40) [execTwt, h]

@[simp] theorem keeps_twtTimeout (m : State) (n : ℕ) (q : ℕ) (h : Keeps C s0 m) : Keeps C s0 (State.twtTimeout m n
    q) := by
  unfold State.twtTimeout
  (repeat' split) <;> simp (maxDischargeDepth := 40) [h]

@[simp] theorem keeps_execTwtTmo (n : Stn) (q : Quad) (s : State) (h : Keeps C s0 s) : KeepsOut C s0 (execTwtTmo n q
    s) := by
  simp (maxDischargeDepth := 40) [execTwtTmo, h]

@[simp] theorem keeps_issueTba (m : State) (n : ℕ) (h : Keeps C s0 m) : Keeps C s0 (State.issueTba m n) := by
  unfold State.issueTba; (try dsimp only); (repeat' split) <;> (simp (maxDischargeDepth := 40) +contextual [h, *])

@[simp] theorem keeps_execTba (n : Stn) (s : State) (h : Keeps C s0 s) : KeepsOut C s0 (execTba n s) := by
  simp (maxDischargeDepth := 40) [execTba, h]

@[simp] theorem keeps_issueFen (m : State) (n : ℕ) (q : ℕ) (w : ℕ) (h : Keeps C s0 m) : KeepsIssue C s0
    (State.issueFen m n q w) := by
  unfold State.issueFen
  dsimp only
  (repeat' split) <;> simp (maxDischargeDepth := 40) [h]

@[simp] theorem keeps_execFen (n : Stn) (q : Quad) (s : State) (h : Keeps C s0 s) : KeepsOut C s0 (execFen n q s) :=
    by
  unfold execFen
  (repeat' split) <;> simp (maxDischargeDepth := 40) +contextual [h, *]

@[simp] theorem keeps_issueSetp (m : State) (n : ℕ) (h : Keeps C s0 m) : Keeps C s0 (State.issueSetp m n) := by
  unfold State.issueSetp
  (repeat' split) <;> simp (maxDischargeDepth := 40) [h]

@[simp] theorem keeps_execSetp (n : Stn) (s : State) (h : Keeps C s0 s) : KeepsOut C s0 (execSetp n s) := by
  simp (maxDischargeDepth := 40) [execSetp, h]

@[simp] theorem keeps_issueEnd (m : State) (n : ℕ) (h : Keeps C s0 m) : Keeps C s0 (State.issueEnd m n) := by
  unfold State.issueEnd
  (repeat' split) <;> simp (maxDischargeDepth := 40) [h]

@[simp] theorem keeps_execEndR (n : Stn) (s : State) (h : Keeps C s0 s) : KeepsOut C s0 (execEndR n s) := by
  simp (maxDischargeDepth := 40) [execEndR, h]

@[simp] theorem keeps_recipeBoundary (m : State) (n : ℕ) (h : Keeps C s0 m) : Keeps C s0 (State.recipeBoundary m n)
    := by
  unfold State.recipeBoundary
  (repeat' split) <;> simp (maxDischargeDepth := 40) +contextual [h, *]

@[simp] theorem keeps_execRecipeBoundary (n : Stn) (s : State) (h : Keeps C s0 s) : KeepsOut C s0
    (execRecipeBoundary n s) := by
  simp (maxDischargeDepth := 40) [execRecipeBoundary, h]

@[simp] theorem keeps_unassigned (m : State) (n : ℕ) (q : ℕ) (h : Keeps C s0 m) : Keeps C s0 (State.unassigned m n
    q) := by
  simp (maxDischargeDepth := 40) [State.unassigned, h]

@[simp] theorem keeps_execUnassignedOpcode (n : Stn) (q : Quad) (s : State) (h : Keeps C s0 s) : KeepsOut C s0
    (execUnassignedOpcode n q s) := by
  simp (maxDischargeDepth := 40) [execUnassignedOpcode, h]

@[simp] theorem keeps_gangIssue (m : State) (n : ℕ) (upset : Bool) (h : Keeps C s0 m) : Keeps C s0 (State.gangIssue
    m n upset) := by
  unfold State.gangIssue; (try dsimp only); (repeat' split) <;> (simp (maxDischargeDepth := 40) +contextual [h, *])

@[simp] theorem keeps_execGangIssue (n : Stn) (upset : Bool) (s : State) (h : Keeps C s0 s) : KeepsOut C s0
    (execGangIssue n upset s) := by
  simp (maxDischargeDepth := 40) [execGangIssue, h]

@[simp] theorem keeps_recipeWrite (m : State) (master : ℕ) (stn : Option ℕ) (addr : ℕ) (bs : List Byte) (psn : Bool)
    (h : Keeps C s0 m) : Keeps C s0 (State.recipeWrite m master stn addr bs psn) := by
  unfold State.recipeWrite
  dsimp only
  (repeat' split) <;> simp (maxDischargeDepth := 40) [h]

@[simp] theorem keeps_execRecipeMemoryWrite (m : Master) (addr : ℕ) (v : Word) (s : State) (h : Keeps C s0 s) :
    KeepsOut C s0 (execRecipeMemoryWrite m addr v s) := by
  unfold execRecipeMemoryWrite
  (repeat' split) <;> simp (maxDischargeDepth := 40) [h]

end Sys2Proof.Machine
end

