-- ==== Sys2Proof/Laws/KeepsStockpot.lean ====
section
/-! SUPPORT. What the operations of Machine/Stockpot keep: the queue, the versions in the fuses, and the canonical tables. -/

namespace Sys2Proof.Machine

variable {C : Prop} {s0 : State}

@[simp] theorem keeps_commitEnd (m : State) (s : Spk) (status : ℕ) (step : ℕ) (h : Keeps C s0 m) : Keeps C s0
    (State.commitEnd m s status step) := by
  simp (maxDischargeDepth := 40) [State.commitEnd, h]

@[simp] theorem keeps_potConsumed (m : State) (q : ℕ) (n : ℕ) (h : Keeps C s0 m) : Keeps C s0 (State.potConsumed m q
    n) := by
  simp (maxDischargeDepth := 40) [State.potConsumed, h]

@[simp] theorem keeps_issueSpk (m : State) (n : ℕ) (q : ℕ) (op : ℕ) (w : ℕ) (h : Keeps C s0 m) : KeepsIssue C s0
    (State.issueSpk m n q op w) := by
  unfold State.issueSpk; (try dsimp only); (repeat' split) <;> (simp (maxDischargeDepth := 40) +contextual [h, *])

@[simp] theorem keeps_execSpkOpen (n : Stn) (q : Quad) (s : State) (h : Keeps C s0 s) : KeepsOut C s0 (execSpkOpen n
    q s) := by
  unfold execSpkOpen
  (repeat' split) <;> simp (maxDischargeDepth := 40) +contextual [h, *]

@[simp] theorem keeps_execSpkCommit (n : Stn) (q : Quad) (s : State) (h : Keeps C s0 s) : KeepsOut C s0
    (execSpkCommit n q s) := by
  unfold execSpkCommit
  (repeat' split) <;> simp (maxDischargeDepth := 40) +contextual [h, *]

@[simp] theorem keeps_execSpkDiscard (n : Stn) (q : Quad) (s : State) (h : Keeps C s0 s) : KeepsOut C s0
    (execSpkDiscard n q s) := by
  unfold execSpkDiscard
  (repeat' split) <;> simp (maxDischargeDepth := 40) +contextual [h, *]

@[simp] theorem keeps_freeBytes (m : State) (a : ℕ) (n : ℕ) (h : Keeps C s0 m) : Keeps C s0 (State.freeBytes m a n)
    := by
  simp (maxDischargeDepth := 40) [State.freeBytes, h]

@[simp] theorem keeps_openBlock (m : State) (q : ℕ) (b : ℕ) (h : Keeps C s0 m) : Keeps C s0 (State.openBlock m q b)
    := by
  unfold State.openBlock
  dsimp only
  refine keeps_setFld _ _ _ ?_
  exact h.tables (fun hc => by simp (maxDischargeDepth := 40) [hc])

@[simp] theorem keeps_discardBlock (m : State) (q : ℕ) (b : ℕ) (h : Keeps C s0 m) : Keeps C s0 (State.discardBlock m
    q b) := by
  simp (maxDischargeDepth := 40) [State.discardBlock, h]

@[simp] theorem keeps_spkDone (m : State) (i : ℕ) (h : Keeps C s0 m) : Keeps C s0 (State.spkDone m i) := by
  unfold State.spkDone
  (repeat' split) <;> simp (maxDischargeDepth := 40) +contextual [h, *]

@[simp] theorem keeps_execSpkDone (i : ℕ) (s : State) (h : Keeps C s0 s) : KeepsOut C s0 (execSpkDone i s) := by
  simp (maxDischargeDepth := 40) [execSpkDone, h]

@[simp] theorem keeps_commitWrite (m : State) (s : Spk) (fp64 : Bool) (v : Num) (i : ℕ) (h : Keeps C s0 m) : Keeps C
    s0 (State.commitWrite m s fp64 v i) := by
  unfold State.commitWrite
  extract_lets ofmt len dst a out m1
  refine keeps_ite_intro (keeps_write _ _ _ _ _ _ _ h) ?_
  have h1 : Keeps C s0 m1 := keeps_gsend _ _ _ _ _ _ _ h
  clear_value m1
  refine keeps_foldl (fun m k hm => ?_) _ h1
  extract_lets
  exact keeps_ite_intro hm (keeps_gtag _ _ _ _ _ _ hm)

@[simp] theorem keeps_commitTags (m : State) (s : Spk) (fp64 : Bool) (h : Keeps C s0 m) : Keeps C s0
    (State.commitTags m s fp64) := by
  unfold State.commitTags
  (try dsimp only)
  repeat' (first | assumption | (intro _) | split | with_reducible apply keeps_foldl | with_reducible apply keeps_foldl_fst | with_reducible apply keeps_foldl_snd | (simp (maxDischargeDepth := 40) +contextual [*]; done) | simp (maxDischargeDepth := 40) +contextual only [keeps_mk, keepsCore_fold, keeps_ite, *])

@[simp] theorem keeps_commitGate (m : State) (i : ℕ) (h : Keeps C s0 m) : Keeps C s0 (State.commitGate m i) := by
  unfold State.commitGate
  split
  · exact h
  · extract_lets d src spn dst scaled sa held reads mp mt scales m' m1
    have hp : Keeps C s0 mp := keeps_ite_intro (keeps_touch _ _ _ _ _ _ h) h
    clear_value mp
    have ht : Keeps C s0 mt := keeps_ite_intro (keeps_touch _ _ _ _ _ _ hp) hp
    clear_value mt
    have h' : Keeps C s0 m' := keeps_ite_intro (keeps_touch _ _ _ _ _ _ ht) ht
    clear_value m'
    have h1 : Keeps C s0 m1 := keeps_foldl (fun m k hm => keeps_setFld _ _ _ hm) _ h'
    clear_value m1
    refine keeps_ite_intro h (keeps_ite_intro (keeps_ask _ _ _ _ _ _ h) ?_)
    split
    · extract_lets m2
      have h2 : Keeps C s0 m2 := by
        dsimp only [m2]
        split
        · exact keeps_load _ _ _ _ _ _ h'
        · exact h'
      exact keeps_commitEnd _ _ _ _ (keeps_ite_intro (keeps_potConsumed _ _ _ h2) h2)
    · extract_lets m3 s1
      have h3 : Keeps C s0 m3 := keeps_commitTags _ _ _ (keeps_foldl (fun m k hm => keeps_commitWrite _ _ _ _ _ hm) _ h1)
      exact h3

@[simp] theorem keeps_execCommitGate (i : ℕ) (s : State) (h : Keeps C s0 s) : KeepsOut C s0 (execCommitGate i s) :=
    by
  simp (maxDischargeDepth := 40) [execCommitGate, h]

@[simp] theorem keeps_commitDone (m : State) (i : ℕ) (h : Keeps C s0 m) : Keeps C s0 (State.commitDone m i) := by
  unfold State.commitDone
  split
  · exact h
  · split
    · exact h
    · extract_lets m1 m2
      have h1 : Keeps C s0 m1 := keeps_foldl (fun m k hm => by simp (maxDischargeDepth := 40) [hm]) _ h
      clear_value m1
      have h2 : Keeps C s0 m2 := keeps_foldl (fun m k hm => by simp (maxDischargeDepth := 40) [hm]) _ h1
      exact keeps_commitEnd _ _ _ _ h2

@[simp] theorem keeps_execCommitDone (i : ℕ) (s : State) (h : Keeps C s0 s) : KeepsOut C s0 (execCommitDone i s) :=
    by
  simp (maxDischargeDepth := 40) [execCommitDone, h]

@[simp] theorem keeps_scanGo (m : State) (master : ℕ) (q : ℕ) (n : ℕ) (h : Keeps C s0 m) : Keeps C s0 (State.scanGo
    m master q n) := by
  simp (maxDischargeDepth := 40) [State.scanGo, h]

@[simp] theorem keeps_scanElems (m : State) (j : NormJob) (fp64 : Bool) (bs : List Byte) (psn : Nat → Nat →
    Bool) (h : Keeps C s0 m) : Keeps C s0 (State.scanElems m j fp64 bs psn) := by
  unfold State.scanElems
  (repeat' split) <;> simp (maxDischargeDepth := 40) +contextual [h, *]

@[simp] theorem keeps_scanBlock (m : State) (j : NormJob) (b : ℕ) (h : Keeps C s0 m) : Keeps C s0 (State.scanBlock m
    j b) := by
  simp (maxDischargeDepth := 40) [State.scanBlock, h]

@[simp] theorem keeps_scanSpill (m : State) (j : NormJob) (k : ℕ) (h : Keeps C s0 m) : Keeps C s0 (State.scanSpill m
    j k) := by
  simp (maxDischargeDepth := 40) [State.scanSpill, h]

@[simp] theorem keeps_scanDone (m : State) (q : ℕ) (n : ℕ) (h : Keeps C s0 m) : Keeps C s0 (State.scanDone m q n) :=
    by
  unfold State.scanDone
  (repeat' split) <;> simp (maxDischargeDepth := 40) +contextual [h, *]

@[simp] theorem keeps_execStockpotScanDone (q : Quad) (n : Stn) (s : State) (h : Keeps C s0 s) : KeepsOut C s0
    (execStockpotScanDone q n s) := by
  simp (maxDischargeDepth := 40) [execStockpotScanDone, h]

@[simp] theorem keeps_rflushGo (m : State) (master : ℕ) (n : ℕ) (h : Keeps C s0 m) : Keeps C s0 (State.rflushGo m
    master n) := by
  simp (maxDischargeDepth := 40) [State.rflushGo, h]

@[simp] theorem keeps_rflushDone (m : State) (n : ℕ) (h : Keeps C s0 m) : Keeps C s0 (State.rflushDone m n) := by
  unfold State.rflushDone
  (repeat' split) <;> simp (maxDischargeDepth := 40) +contextual [h, *]

@[simp] theorem keeps_execRflushDone (n : Stn) (s : State) (h : Keeps C s0 s) : KeepsOut C s0 (execRflushDone n s)
    := by
  simp (maxDischargeDepth := 40) [execRflushDone, h]

end Sys2Proof.Machine
end

