-- ==== Sys2Proof/Laws/KeepsEngine.lean ====
section
/-! SUPPORT. What the operations of Machine/Engine keep: the queue, the versions in the fuses, and the canonical tables. -/

namespace Sys2Proof.Machine

variable {C : Prop} {s0 : State}

@[simp] theorem keeps_askAll (m : State) (i : ℕ) (stn : ℕ) (page : ℕ) (rs : List (ℕ × ℕ)) (h : Keeps C s0 m) : Keeps
    C s0 (State.askAll m i stn page rs) := by
  unfold State.askAll
  (repeat' split) <;> simp (maxDischargeDepth := 40) +contextual [h, *]

@[simp] theorem keeps_touchAll (m : State) (n : ℕ) (cls : ℕ) (rs : List (ℕ × ℕ)) (h : Keeps C s0 m) : Keeps C s0
    (State.touchAll m n cls rs) := by
  unfold State.touchAll
  (repeat' split) <;> simp (maxDischargeDepth := 40) +contextual [h, *]

@[simp] theorem keeps_tagBlocks (m : State) (i n page g : Nat) (bs : List Byte) (code : Nat) (h : Keeps C s0 m)
    : Keeps C s0 (State.tagBlocks m i n page g bs code) := by
  unfold State.tagBlocks
  (repeat' split) <;> simp (maxDischargeDepth := 40) +contextual [h, *]

@[simp] theorem keeps_putVec (m : State) (i : ℕ) (n : ℕ) (page : ℕ) (g : ℕ) (c : ℕ) (vs : List (ℕ × Bool)) (cls : ℕ)
    (h : Keeps C s0 m) : Keeps C s0 (State.putVec m i n page g c vs cls) := by
  simp (maxDischargeDepth := 40) [State.putVec, h]

@[simp] theorem keeps_dispatched (m : State) (d : QDesc) (h : Keeps C s0 m) : Keeps C s0 (State.dispatched m d) :=
    by
  unfold State.dispatched
  (repeat' split) <;> simp (maxDischargeDepth := 40) [h]

@[simp] theorem keeps_descEnd (m : State) (d : QDesc) (code : ℕ) (page : ℕ) (master : ℕ) (h : Keeps C s0 m) : Keeps
    C s0 (State.descEnd m d code page master) := by
  simp (maxDischargeDepth := 40) [State.descEnd, h]

@[simp] theorem keeps_issueDispatch (m : State) (n : ℕ) (q : ℕ) (lim : ℕ) (w : ℕ) (room : ℕ → Bool) (push : State →
    ℕ → QDesc → State) (hpush : ∀ (z6_0 : State) (z6_1 : ℕ) (z6_2 : QDesc), Keeps C s0 z6_0 → Keeps C s0 (push z6_0
    z6_1 z6_2)) (h : Keeps C s0 m) : KeepsIssue C s0 (State.issueDispatch m n q lim w room push) := by
  unfold State.issueDispatch
  dsimp only
  (repeat' split) <;> simp (maxDischargeDepth := 40) [h, hpush]

end Sys2Proof.Machine
end

