-- ==== Sys2Proof/Laws/KeepsWhisk.lean ====
section
/-! SUPPORT. What the operations of Machine/Whisk keep: the queue, the versions in the fuses, and the canonical tables. -/

namespace Sys2Proof.Machine

variable {C : Prop} {s0 : State}

@[simp] theorem keeps_setWhisk (m : State) (s : ℕ) (w : Whisk) (h : Keeps C s0 m) : Keeps C s0 (State.setWhisk m s
    w) := by
  unfold State.setWhisk
  (repeat' split) <;> simp (maxDischargeDepth := 40) +contextual [h, *]

@[simp] theorem keeps_whiskPush (m : State) (s : ℕ) (d : QDesc) (h : Keeps C s0 m) : Keeps C s0 (State.whiskPush m s
    d) := by
  simp (maxDischargeDepth := 40) [State.whiskPush, h]

@[simp] theorem keeps_enterLink (m : State) (s : ℕ) (c : Chain) (h : Keeps C s0 m) : Keeps C s0 (State.enterLink m s
    c) := by
  simp (maxDischargeDepth := 40) [State.enterLink, h]

@[simp] theorem keeps_chainStart (m : State) (s : ℕ) (h : Keeps C s0 m) : Keeps C s0 (State.chainStart m s) := by
  unfold State.chainStart
  dsimp only
  (repeat' split) <;> simp (maxDischargeDepth := 40) [h]

@[simp] theorem keeps_linkDone (m : State) (s : ℕ) (c : Chain) (f : WskF) (code : ℕ) (fl : Flags) (psn : Bool) (done
    : ℕ) (y : List (ℕ × Bool)) (h : Keeps C s0 m) : Keeps C s0 (State.linkDone m s c f code fl psn done y) := by
  simp (maxDischargeDepth := 40) [State.linkDone, h]

@[simp] theorem keeps_wskWrite (m : State) (s : ℕ) (c : Chain) (f : WskF) (sums : List (ℕ × Flags × Bool)) (done :
    ℕ) (h : Keeps C s0 m) : Keeps C s0 (State.wskWrite m s c f sums done) := by
  simp (maxDischargeDepth := 40) [State.wskWrite, h]

@[simp] theorem keeps_checkBlocks (m : State) (n : ℕ) (s : ℕ) (afmt : ℕ) (bs : List ℕ) (glitch : Bool) (h : Keeps C
    s0 m) : Keeps C s0 (State.checkBlocks m n s afmt bs glitch).2 := by
  unfold State.checkBlocks
  (repeat' split) <;> simp (maxDischargeDepth := 40) +contextual [h, *]

@[simp] theorem keeps_runLink (m : State) (s : ℕ) (k : ℕ) (reads : State → Chain → WskF → List (ℕ × ℕ)) (go : State
    → Chain → WskF → State) (hgo : ∀ (z4_0 : State) (z4_1 : Chain) (z4_2 : WskF), Keeps C s0 z4_0 → Keeps C s0 (go
    z4_0 z4_1 z4_2)) (h : Keeps C s0 m) : Keeps C s0 (State.runLink m s k reads go) := by
  unfold State.runLink
  (repeat' split) <;> simp (maxDischargeDepth := 40) [h, hgo]

@[simp] theorem keeps_gemv (m : State) (s : ℕ) (glitch : Bool) (h : Keeps C s0 m) : Keeps C s0 (State.gemv m s
    glitch) := by
  unfold State.gemv
  (repeat' split) <;> simp (maxDischargeDepth := 40) +contextual [h, *]

@[simp] theorem keeps_bsrmv (m : State) (s : ℕ) (h : Keeps C s0 m) : Keeps C s0 (State.bsrmv m s) := by
  unfold State.bsrmv
  refine keeps_runLink _ _ _ _ _ (fun m c f h => ?_) h
  extract_lets +onlyGivenNames n len
  refine keeps_ite_intro (by simp (maxDischargeDepth := 40) [h]) ?_
  extract_lets +onlyGivenNames blocks
  refine keeps_ite_intro (by simp (maxDischargeDepth := 40) [h]) (keeps_ite_intro (by simp (maxDischargeDepth := 40) [h]) ?_)
  extract_lets +onlyGivenNames m1 loc ck m2
  have h1 : Keeps C s0 m1 := by simp (maxDischargeDepth := 40) [m1, h]
  clear_value m1
  have h2 : Keeps C s0 ck.2 := by simp (maxDischargeDepth := 40) [ck, h1]
  clear_value ck
  have h3 : Keeps C s0 m2 := by simp (maxDischargeDepth := 40) [m2, h2]
  clear_value m2
  extract_lets
  exact keeps_wskWrite _ _ _ _ _ _ h3

@[simp] theorem keeps_axpby (m : State) (s : ℕ) (h : Keeps C s0 m) : Keeps C s0 (State.axpby m s) := by
  unfold State.axpby
  (repeat' split) <;> simp (maxDischargeDepth := 40) +contextual [h, *]

@[simp] theorem keeps_dot (m : State) (s : ℕ) (h : Keeps C s0 m) : Keeps C s0 (State.dot m s) := by
  unfold State.dot
  (repeat' split) <;> simp (maxDischargeDepth := 40) +contextual [h, *]

@[simp] theorem keeps_adamw (m : State) (s : ℕ) (h : Keeps C s0 m) : Keeps C s0 (State.adamw m s) := by
  unfold State.adamw
  (repeat' split) <;> simp (maxDischargeDepth := 40) +contextual [h, *]

@[simp] theorem keeps_chainFinish (m : State) (s : ℕ) (c : Chain) (h : Keeps C s0 m) : Keeps C s0 (State.chainFinish
    m s c) := by
  simp (maxDischargeDepth := 40) [State.chainFinish, h]

@[simp] theorem keeps_execChainStart (w : Stack) (s : State) (h : Keeps C s0 s) : KeepsOut C s0 (execChainStart w s)
    := by
  simp (maxDischargeDepth := 40) [execChainStart, h]

@[simp] theorem keeps_execGemv (w : Stack) (glitch : Bool) (s : State) (h : Keeps C s0 s) : KeepsOut C s0 (execGemv
    w glitch s) := by
  simp (maxDischargeDepth := 40) [execGemv, h]

@[simp] theorem keeps_execBsrmv (w : Stack) (s : State) (h : Keeps C s0 s) : KeepsOut C s0 (execBsrmv w s) := by
  simp (maxDischargeDepth := 40) [execBsrmv, h]

@[simp] theorem keeps_execAxpby (w : Stack) (s : State) (h : Keeps C s0 s) : KeepsOut C s0 (execAxpby w s) := by
  simp (maxDischargeDepth := 40) [execAxpby, h]

@[simp] theorem keeps_execDot (w : Stack) (s : State) (h : Keeps C s0 s) : KeepsOut C s0 (execDot w s) := by
  simp (maxDischargeDepth := 40) [execDot, h]

@[simp] theorem keeps_execAdamw (w : Stack) (s : State) (h : Keeps C s0 s) : KeepsOut C s0 (execAdamw w s) := by
  simp (maxDischargeDepth := 40) [execAdamw, h]

@[simp] theorem keeps_execDwk (n : Stn) (q : Quad) (s : State) (h : Keeps C s0 s) : KeepsOut C s0 (execDwk n q s) :=
    by
  unfold execDwk
  (repeat' split) <;> simp (maxDischargeDepth := 40) +contextual [h, *]

end Sys2Proof.Machine
end

