-- ==== Sys2Proof/Laws/KeepsTongs.lean ====
section
/-! SUPPORT. What the operations of Machine/Tongs keep: the queue, the versions in the fuses, and the canonical tables. -/

namespace Sys2Proof.Machine

variable {C : Prop} {s0 : State}

@[simp] theorem keeps_setTong (m : State) (d : ℕ) (t : Tongs) (h : Keeps C s0 m) : Keeps C s0 (State.setTong m d t)
    := by
  simp (maxDischargeDepth := 40) [State.setTong, h]

@[simp] theorem keeps_tongPush (m : State) (d : ℕ) (x : QDesc) (h : Keeps C s0 m) : Keeps C s0 (State.tongPush m d
    x) := by
  simp (maxDischargeDepth := 40) [State.tongPush, h]

@[simp] theorem keeps_tableStep (m : State) (n : ℕ) (t : ℕ) (h : Keeps C s0 m) : Keeps C s0 (State.tableStep m n t)
    := by
  unfold State.tableStep
  dsimp only
  (repeat' split) <;> simp (maxDischargeDepth := 40) [h]

@[simp] theorem keeps_tableDrop (m : State) (master : ℕ) (n : ℕ) (t : ℕ) (h : Keeps C s0 m) : Keeps C s0
    (State.tableDrop m master n t) := by
  simp (maxDischargeDepth := 40) [State.tableDrop, h]

@[simp] theorem keeps_tableCmd (m : State) (master : ℕ) (n : ℕ) (t : ℕ) (op : ℕ) (h : Keeps C s0 m) : Keeps C s0
    (State.tableCmd m master n t op) := by
  unfold State.tableCmd
  (repeat' split) <;> simp (maxDischargeDepth := 40) [h]

@[simp] theorem keeps_bindDesc (m : State) (d : ℕ) (x : TDesc) (h : Keeps C s0 m) : Keeps C s0 (State.bindDesc m d
    x) := by
  unfold State.bindDesc
  dsimp only
  (repeat' split) <;> simp (maxDischargeDepth := 40) [h]

@[simp] theorem keeps_acceptNext (m : State) (d : ℕ) (k : ℕ) (h : Keeps C s0 m) : Keeps C s0 (State.acceptNext m d
    k) := by
  unfold State.acceptNext
  dsimp only
  (repeat' split) <;> simp (maxDischargeDepth := 40) [h]

@[simp] theorem keeps_tongRun (m : State) (d : ℕ) (k : ℕ) (go : State → TDesc → TngF → State) (hgo : ∀ (z3_0 :
    State) (z3_1 : TDesc) (z3_2 : TngF), Keeps C s0 z3_0 → Keeps C s0 (go z3_0 z3_1 z3_2)) (h : Keeps C s0 m) :
    Keeps C s0 (State.tongRun m d k go) := by
  unfold State.tongRun
  dsimp only
  (repeat' split) <;> simp (maxDischargeDepth := 40) [h, hgo]

@[simp] theorem keeps_tongEnd (m : State) (d : ℕ) (x : TDesc) (code : ℕ) (fl : Flags) (psn : Bool) (lookups : ℕ) (h
    : Keeps C s0 m) : Keeps C s0 (State.tongEnd m d x code fl psn lookups) := by
  simp (maxDischargeDepth := 40) [State.tongEnd, h]

@[simp] theorem keeps_tongData (m : State) (d : ℕ) (x : TDesc) (reads : List (ℕ × ℕ)) (writes : List (ℕ × ℕ)) (held : Bool)
    (go : State → State) (hgo : ∀ (z5_0 : State), Keeps C s0 z5_0 → Keeps C s0 (go z5_0)) (h : Keeps C s0 m) : Keeps C s0
    (State.tongData m d x reads writes held go) := by
  simp (maxDischargeDepth := 40) [State.tongData, h, hgo]

@[simp] theorem keeps_putRaw (m : State) (i : ℕ) (n : ℕ) (page : ℕ) (g : ℕ) (bs : List Byte) (p : ℕ → ℕ → Bool) (h :
    Keeps C s0 m) : Keeps C s0 (State.putRaw m i n page g bs p) := by
  simp (maxDischargeDepth := 40) [State.putRaw, h]

@[simp] theorem keeps_gather (m : State) (d : ℕ) (h : Keeps C s0 m) : Keeps C s0 (State.gather m d) := by
  unfold State.gather
  (repeat' split) <;> simp (maxDischargeDepth := 40) +contextual [h, *]

@[simp] theorem keeps_scatterRow (m : State) (n : ℕ) (a : ℕ) (efmt : ℕ) (fxsh : ℕ) (vs : List (ℕ × Bool)) (ipsn :
    Bool) (h : Keeps C s0 m) : Keeps C s0 (State.scatterRow m n a efmt fxsh vs ipsn).1 := by
  unfold State.scatterRow
  extract_lets +onlyGivenNames w len m0 r p
  have h0 : Keeps C s0 m0 := by simp (maxDischargeDepth := 40) [m0, h]
  clear_value m0
  have hr : Keeps C s0 r.1 := by
    refine keeps_foldl_fst (fun acc v ha => ?_) _ h0
    dsimp only
    split <;> simp (maxDischargeDepth := 40) [ha]
  clear_value r
  simp (maxDischargeDepth := 40) [hr]

@[simp] theorem keeps_scatter (m : State) (d : ℕ) (h : Keeps C s0 m) : Keeps C s0 (State.scatter m d) := by
  unfold State.scatter
  refine keeps_tongRun _ _ _ _ (fun m x f h => ?_) h
  extract_lets +onlyGivenNames n rowb nrows w k iw
  refine keeps_tongData _ _ _ _ _ _ _ (fun m h => ?_) h
  extract_lets +onlyGivenNames ids
  refine keeps_ite_intro (keeps_tongEnd _ _ _ _ _ _ _ h) ?_
  extract_lets +onlyGivenNames r out
  have hr : Keeps C s0 r.1 := by
    refine keeps_foldl_fst (fun acc v ha => ?_) _ h
    dsimp only
    split <;> simp (maxDischargeDepth := 40) [ha]
  clear_value r
  exact keeps_tongEnd _ _ _ _ _ _ _ hr

@[simp] theorem keeps_tngPoints (m : State) (d : ℕ) (x : TDesc) (f : TngF) (h : Keeps C s0 m) : Keeps C s0
    (State.tngPoints m d x f).1 := by
  unfold State.tngPoints
  (repeat' split) <;> simp (maxDischargeDepth := 40) +contextual [h, *]

@[simp] theorem keeps_hashFwd (m : State) (d : ℕ) (h : Keeps C s0 m) : Keeps C s0 (State.hashFwd m d) := by
  unfold State.hashFwd
  (repeat' split) <;> simp (maxDischargeDepth := 40) +contextual [h, *]

@[simp] theorem keeps_hashBwd (m : State) (d : ℕ) (h : Keeps C s0 m) : Keeps C s0 (State.hashBwd m d) := by
  unfold State.hashBwd
  (repeat' split) <;> simp (maxDischargeDepth := 40) +contextual [h, *]

@[simp] theorem keeps_transpose (m : State) (d : ℕ) (h : Keeps C s0 m) : Keeps C s0 (State.transpose m d) := by
  unfold State.transpose
  (repeat' split) <;> simp (maxDischargeDepth := 40) +contextual [h, *]

@[simp] theorem keeps_tongNotified (m : State) (d : ℕ) (seq : ℕ) (h : Keeps C s0 m) : Keeps C s0 (State.tongNotified
    m d seq) := by
  unfold State.tongNotified
  (repeat' split) <;> simp (maxDischargeDepth := 40) [h]

@[simp] theorem keeps_parkTmo (m : State) (d : ℕ) (i : ℕ) (h : Keeps C s0 m) : Keeps C s0 (State.parkTmo m d i) :=
    by
  unfold State.parkTmo
  (repeat' split) <;> simp (maxDischargeDepth := 40) [h]

@[simp] theorem keeps_tongFinish (m : State) (d : ℕ) (x : TDesc) (h : Keeps C s0 m) : Keeps C s0 (State.tongFinish m
    d x) := by
  simp (maxDischargeDepth := 40) [State.tongFinish, h]

@[simp] theorem keeps_tongsDone (m : State) (d : ℕ) (i : ℕ) (h : Keeps C s0 m) : Keeps C s0 (State.tongsDone m d i)
    := by
  unfold State.tongsDone
  (repeat' split) <;> simp (maxDischargeDepth := 40) [h]

@[simp] theorem keeps_execGather (d : Die) (s : State) (h : Keeps C s0 s) : KeepsOut C s0 (execGather d s) := by
  simp (maxDischargeDepth := 40) [execGather, h]

@[simp] theorem keeps_execScatter (d : Die) (s : State) (h : Keeps C s0 s) : KeepsOut C s0 (execScatter d s) := by
  simp (maxDischargeDepth := 40) [execScatter, h]

@[simp] theorem keeps_execHashFwd (d : Die) (s : State) (h : Keeps C s0 s) : KeepsOut C s0 (execHashFwd d s) := by
  simp (maxDischargeDepth := 40) [execHashFwd, h]

@[simp] theorem keeps_execHashBwd (d : Die) (s : State) (h : Keeps C s0 s) : KeepsOut C s0 (execHashBwd d s) := by
  simp (maxDischargeDepth := 40) [execHashBwd, h]

@[simp] theorem keeps_execTranspose (d : Die) (s : State) (h : Keeps C s0 s) : KeepsOut C s0 (execTranspose d s) :=
    by
  simp (maxDischargeDepth := 40) [execTranspose, h]

@[simp] theorem keeps_execParkTmo (d : Die) (i : ℕ) (s : State) (h : Keeps C s0 s) : KeepsOut C s0 (execParkTmo d i
    s) := by
  simp (maxDischargeDepth := 40) [execParkTmo, h]

@[simp] theorem keeps_execTongsDone (d : Die) (i : ℕ) (s : State) (h : Keeps C s0 s) : KeepsOut C s0 (execTongsDone
    d i s) := by
  simp (maxDischargeDepth := 40) [execTongsDone, h]

@[simp] theorem keeps_execDtg (n : Stn) (q : Quad) (s : State) (h : Keeps C s0 s) : KeepsOut C s0 (execDtg n q s) :=
    by
  unfold execDtg
  (repeat' split) <;> simp (maxDischargeDepth := 40) +contextual [h, *]

end Sys2Proof.Machine
end

