-- ==== Sys2Proof/Laws/KeepsMortar.lean ====
section
/-! SUPPORT. What the operations of Machine/Mortar keep: the queue, the versions in the fuses, and the canonical tables. -/

namespace Sys2Proof.Machine

variable {C : Prop} {s0 : State}

@[simp] theorem keeps_setMortar (m : State) (d : ℕ) (t : Mortar) (h : Keeps C s0 m) : Keeps C s0 (State.setMortar m
    d t) := by
  unfold State.setMortar
  (repeat' split) <;> simp (maxDischargeDepth := 40) +contextual [h, *]

@[simp] theorem keeps_setSolve (m : State) (d : ℕ) (s : Solve) (h : Keeps C s0 m) : Keeps C s0 (State.setSolve m d
    s) := by
  simp (maxDischargeDepth := 40) [State.setSolve, h]

@[simp] theorem keeps_mortarPush (m : State) (d : ℕ) (x : QDesc) (h : Keeps C s0 m) : Keeps C s0 (State.mortarPush m
    d x) := by
  simp (maxDischargeDepth := 40) [State.mortarPush, h]

@[simp] theorem keeps_dropKept (m : State) (d : ℕ) (h : Keeps C s0 m) : Keeps C s0 (State.dropKept m d) := by
  simp (maxDischargeDepth := 40) [State.dropKept, h]

@[simp] theorem keeps_countFma (m : State) (d k : Nat) (h : Keeps C s0 m) : Keeps C s0 (State.countFma m d k) := by
  simp (maxDischargeDepth := 40) [State.countFma, h]

@[simp] theorem keeps_solveStop (m : State) (d : ℕ) (s : Solve) (code : ℕ) (h : Keeps C s0 m) : Keeps C s0
    (State.solveStop m d s code) := by
  simp (maxDischargeDepth := 40) [State.solveStop, h]

@[simp] theorem keeps_cgPush (m : State) (d : Nat) (s : Solve) (c : Cg) (h : Keeps C s0 m) : Keeps C s0
    (State.cgPush m d s c) := by
  unfold State.cgPush
  refine keeps_ite_intro (keeps_setSolve _ _ _ h) ?_
  extract_lets f n r
  have hr : Keeps C s0 r.1 := by
    refine keeps_foldl_fst (fun acc i ha => ?_) _ h
    dsimp only
    split
    · exact keeps_whiskPush _ _ _ (keeps_putBytes _ _ _ ha)
    · exact ha
  exact keeps_setSolve _ _ _ hr

@[simp] theorem keeps_cgDispatch (m : State) (d : ℕ) (s : Solve) (c : Cg) (h : Keeps C s0 m) : Keeps C s0
    (State.cgDispatch m d s c) := by
  unfold State.cgDispatch
  (repeat' split) <;> simp (maxDischargeDepth := 40) +contextual [h, *]

@[simp] theorem keeps_cgStart (m : State) (d : Nat) (s : Solve) (b : List Nat) (fac? : Option Factor) (diag : List Nat) (h : Keeps C s0 m) :
    Keeps C s0 (State.cgStart m d s b fac? diag) := by
  unfold State.cgStart
  extract_lets f none_ stopped
  split
  · exact keeps_setSolve _ _ _ h
  · extract_lets z
    exact keeps_ite_intro (keeps_setSolve _ _ _ h) (keeps_ite_intro (keeps_setSolve _ _ _ h) (keeps_cgDispatch _ _ _ _ h))

@[simp] theorem keeps_cgBegin (m : State) (d : Nat) (s : Solve) (b : List Nat) (h : Keeps C s0 m) : Keeps C s0
    (State.cgBegin m d s b) := by
  unfold State.cgBegin
  exact keeps_cgStart _ _ _ _ _ _ (keeps_countFma _ _ _ (keeps_countFma _ _ _ h))

@[simp] theorem keeps_cgStep (m : State) (d : Nat) (s : Solve) (c : Cg) (h : Keeps C s0 m) :
    Keeps C s0 (State.cgStep m d s c) := by
  unfold State.cgStep
  extract_lets f m' ws zs ap alpha axpy sol r k met s1 z rz
  have h' : Keeps C s0 m' := keeps_countFma _ _ _ (keeps_touchAll _ _ _ _ h)
  exact keeps_ite_intro (keeps_solveStop _ _ _ _ h')
    (keeps_ite_intro (keeps_setSolve _ _ _ h') (keeps_cgDispatch _ _ _ _ h'))

@[simp] theorem keeps_cgPoll (m : State) (d : Nat) (s : Solve) (c : Cg) (h : Keeps C s0 m) : Keeps C s0
    (State.cgPoll m d s c) := by
  unfold State.cgPoll
  refine keeps_ite_intro h (keeps_ite_intro (keeps_cgPush _ _ _ _ h) (keeps_ite_intro h
    (keeps_ite_intro (keeps_askAll _ _ _ _ _ h) (keeps_ite_intro h (keeps_cgStep _ _ _ _ h)))))

@[simp] theorem keeps_enterLinear (m : State) (d : ℕ) (s : Solve) (h : Keeps C s0 m) : Keeps C s0 (State.enterLinear
    m d s) := by
  simp (maxDischargeDepth := 40) [State.enterLinear, h]

@[simp] theorem keeps_evalReq (m : State) (d : ℕ) (s : Solve) (h : Keeps C s0 m) : Keeps C s0 (State.evalReq m d s)
    := by
  unfold State.evalReq
  dsimp only
  (repeat' split) <;> simp (maxDischargeDepth := 40) [h]

@[simp] theorem keeps_evaluate (m : State) (d : ℕ) (s : Solve) (x : List ℕ) (h : Keeps C s0 m) : Keeps C s0
    (State.evaluate m d s x) := by
  simp (maxDischargeDepth := 40) [State.evaluate, h]

@[simp] theorem keeps_trialEnd (m : State) (d : ℕ) (s : Solve) (x : List ℕ) (h : Keeps C s0 m) : Keeps C s0
    (State.trialEnd m d s x) := by
  simp (maxDischargeDepth := 40) [State.trialEnd, h]

@[simp] theorem keeps_solveBegin (m : State) (d : ℕ) (s : Solve) (h : Keeps C s0 m) : Keeps C s0 (State.solveBegin m
    d s) := by
  simp (maxDischargeDepth := 40) [State.solveBegin, h]

@[simp] theorem keeps_solveTry (m : State) (d : Nat) (s : Solve) (h : Keeps C s0 m) : Keeps C s0 (State.solveTry
    m d s) := by
  unfold State.solveTry
  dsimp only
  (repeat' split) <;> simp (maxDischargeDepth := 40) +contextual [h, *]

@[simp] theorem keeps_solve (m : State) (d : ℕ) (h : Keeps C s0 m) : Keeps C s0 (State.solve m d) := by
  unfold State.solve
  extract_lets t id m1
  have h1 : Keeps C s0 m1 := keeps_mk_intro h
  refine keeps_ite_intro h ?_
  split
  · exact keeps_ite_intro (keeps_solveTry _ _ _ h) h
  · split
    · exact h
    · extract_lets ok dsc m2 s m3
      have h2 : Keeps C s0 m2 := keeps_ite_intro (keeps_touch _ _ _ _ _ _ h1) h1
      have h3 : Keeps C s0 m3 := keeps_dropKept _ _ (keeps_setMortar _ _ _ h2)
      exact keeps_ite_intro h (keeps_ite_intro (keeps_solveStop _ _ _ _ h3)
        (keeps_ite_intro (keeps_setSolve _ _ _ h3) (keeps_solveTry _ _ _ h3)))

@[simp] theorem keeps_localClear (m : State) (d : ℕ) (h : Keeps C s0 m) : Keeps C s0 (State.localClear m d) := by
  unfold State.localClear
  split
  · exact h
  · refine keeps_ite_intro h ?_
    extract_lets m1 src m2 s1
    have h1 : Keeps C s0 m1 := by
      dsimp only [m1]
      exact h.tables (fun hc => by simp (maxDischargeDepth := 40) [hc])
    clear_value m1
    have h2 : Keeps C s0 m2 := keeps_setFld _ _ _ (keeps_setMortar _ _ _ h1)
    exact keeps_solveTry _ _ _ (keeps_setSolve _ _ _ (keeps_setFlag _ _ _ h2))

@[simp] theorem keeps_adjoint (m : State) (d : ℕ) (h : Keeps C s0 m) : Keeps C s0 (State.adjoint m d) := by
  unfold State.adjoint
  dsimp only
  (repeat' split) <;> simp (maxDischargeDepth := 40) [h]

@[simp] theorem keeps_acceptStep (m : State) (d : ℕ) (s : Solve) (dx : List ℕ) (c2 : ℕ) (ev : List ℕ) (h : Keeps C
    s0 m) : Keeps C s0 (State.acceptStep m d s dx c2 ev) := by
  simp (maxDischargeDepth := 40) [State.acceptStep, h]

@[simp] theorem keeps_rejectLm (m : State) (d : ℕ) (s : Solve) (nv : Bool) (h : Keeps C s0 m) : Keeps C s0
    (State.rejectLm m d s nv) := by
  simp (maxDischargeDepth := 40) [State.rejectLm, h]

@[simp] theorem keeps_evalDone (m : State) (d : ℕ) (s : Solve) (h : Keeps C s0 m) : Keeps C s0 (State.evalDone m d
    s) := by
  unfold State.evalDone
  (repeat' split) <;> simp (maxDischargeDepth := 40) [h]

theorem keeps_mortarNotified (m : State) (d : ℕ) (h : Keeps C s0 m) : ∀ t, State.mortarNotified m d = some t → Keeps
    C s0 t := by
  unfold State.mortarNotified
  (repeat' split) <;> simp (maxDischargeDepth := 40) [h]

@[simp] theorem keeps_linearDone (m : State) (d : Nat) (s : Solve) (dx? : Option (List Nat)) (h : Keeps C s0 m) :
    Keeps C s0 (State.linearDone m d s dx?) := by
  unfold State.linearDone
  extract_lets f m' hg
  have h' : Keeps C s0 m' := keeps_countFma _ _ _ h
  split
  · exact keeps_ite_intro (keeps_solveStop _ _ _ _ h) (keeps_rejectLm _ _ _ _ h)
  · exact keeps_ite_intro (keeps_solveStop _ _ _ _ h') (keeps_ite_intro (keeps_solveStop _ _ _ _ h')
      (keeps_ite_intro (keeps_trialEnd _ _ _ _ h') (keeps_trialEnd _ _ _ _ h')))

@[simp] theorem keeps_adjointDone (m : State) (d : Nat) (s : Solve) (kf : MtrF) (z? : Option (List Nat)) (h : Keeps C s0 m) :
    Keeps C s0 (State.adjointDone m d s kf z?) := by
  unfold State.adjointDone
  split
  · exact keeps_solveStop _ _ _ _ h
  · extract_lets ev w
    exact keeps_ite_intro (keeps_solveStop _ _ _ _ h)
      (keeps_ite_intro (keeps_solveStop _ _ _ _ h) (keeps_solveStop _ _ _ _ h))

@[simp] theorem keeps_adjointPhase (m : State) (d : Nat) (s : Solve) (k : Kept) (h : Keeps C s0 m) : Keeps C s0
    (State.adjointPhase m d s k) := by
  unfold State.adjointPhase
  extract_lets kf rs stop m1 g
  have hs : ∀ m z, Keeps C s0 m → Keeps C s0 (stop m z) := fun m z hm =>
    keeps_adjointDone _ _ _ _ _ (keeps_countFma _ _ _ hm)
  have h1 : Keeps C s0 m1 := keeps_touchAll _ _ _ _ h
  refine keeps_ite_intro (keeps_askAll _ _ _ _ _ h) (keeps_ite_intro h ?_)
  split
  · exact keeps_ite_intro (keeps_cgPoll _ _ _ _ h) (keeps_ite_intro (keeps_solveStop _ _ _ _ h) (hs _ _ h))
  · exact keeps_ite_intro (keeps_solveStop _ _ _ _ h1)
      (keeps_ite_intro (keeps_cgStart _ _ _ _ _ _ h1) (hs _ _ (keeps_countFma _ _ _ h1)))

@[simp] theorem keeps_restream (m : State) (s : Solve) (h : Keeps C s0 m) : Keeps C s0 (State.restream m s) := by
  unfold State.restream
  exact keeps_ite_intro (keeps_touchAll _ _ _ _ h) h

@[simp] theorem keeps_linearPhaseEnd (m : State) (d : ℕ) (h : Keeps C s0 m) : Keeps C s0 (State.linearPhaseEnd m d)
    := by
  unfold State.linearPhaseEnd
  split
  · exact h
  · refine keeps_ite_intro h (keeps_ite_intro ?_ ?_)
    · split
      · exact keeps_solveStop _ _ _ _ h
      · exact keeps_adjointPhase _ _ _ _ h
    · split
      · exact keeps_ite_intro (keeps_cgPoll _ _ _ _ h) (keeps_linearDone _ _ _ _ h)
      · exact keeps_ite_intro h (keeps_linearDone _ _ _ _ (keeps_countFma _ _ _ (keeps_restream _ _ h)))

@[simp] theorem keeps_mortarChain (m : State) (d : Nat) (id : Option Nat) (code : Nat) (h : Keeps C s0 m) :
    Keeps C s0 (State.mortarChain m d id code) := by
  unfold State.mortarChain
  (repeat' split) <;> simp (maxDischargeDepth := 40) [h]

@[simp] theorem keeps_chainEnd (m : State) (s : ℕ) (h : Keeps C s0 m) : Keeps C s0 (State.chainEnd m s) := by
  unfold State.chainEnd
  (repeat' split) <;> simp (maxDischargeDepth := 40) [h]

@[simp] theorem keeps_deadlineCheck (m : State) (d : ℕ) (h : Keeps C s0 m) : Keeps C s0 (State.deadlineCheck m d) :=
    by
  unfold State.deadlineCheck
  (repeat' split) <;> simp (maxDischargeDepth := 40) [h]

@[simp] theorem keeps_putWords (m : State) (s : Solve) (d : ℕ) (g : ℕ) (ws : List ℕ) (h : Keeps C s0 m) : Keeps C s0
    (State.putWords m s d g ws) := by
  simp (maxDischargeDepth := 40) [State.putWords, h]

@[simp] theorem keeps_writeResult (m : State) (d : ℕ) (s : Solve) (h : Keeps C s0 m) : Keeps C s0 (State.writeResult
    m d s) := by
  simp (maxDischargeDepth := 40) [State.writeResult, h]

@[simp] theorem keeps_solveFinish (m : State) (d : ℕ) (s : Solve) (h : Keeps C s0 m) : Keeps C s0 (State.solveFinish
    m d s) := by
  simp (maxDischargeDepth := 40) [State.solveFinish, h]

@[simp] theorem keeps_solveEnd (m : State) (d : ℕ) (h : Keeps C s0 m) : Keeps C s0 (State.solveEnd m d) := by
  unfold State.solveEnd
  (repeat' split) <;> simp (maxDischargeDepth := 40) [h]

@[simp] theorem keeps_keepFactorisation (m : State) (d : ℕ) (h : Keeps C s0 m) : Keeps C s0 (State.keepFactorisation
    m d) := by
  unfold State.keepFactorisation
  split
  · exact h
  · refine keeps_ite_intro h ?_
    extract_lets f lam m1 m2 src
    have h1 : Keeps C s0 m1 := keeps_countFma _ _ _ (keeps_restream _ _ h)
    clear_value m1
    have h2 : Keeps C s0 m2 := keeps_setFlag _ _ _ (keeps_setFld _ _ _ h1)
    split
    · exact keeps_solveFinish _ _ _ h1
    · exact keeps_solveFinish _ _ _ (keeps_putWords _ _ _ _ _ (keeps_setMortar _ _ _ h2))

@[simp] theorem keeps_mortarAcked (m : State) (d : ℕ) (h : Keeps C s0 m) : Keeps C s0 (State.mortarAcked m d) := by
  unfold State.mortarAcked
  (repeat' split) <;> simp (maxDischargeDepth := 40) [h]

@[simp] theorem keeps_execChainEnd (w : Stack) (s : State) (h : Keeps C s0 s) : KeepsOut C s0 (execChainEnd w s) :=
    by
  simp (maxDischargeDepth := 40) [execChainEnd, h]

@[simp] theorem keeps_execSolve (d : Die) (s : State) (h : Keeps C s0 s) : KeepsOut C s0 (execSolve d s) := by
  simp (maxDischargeDepth := 40) [execSolve, h]

@[simp] theorem keeps_execAdjoint (d : Die) (s : State) (h : Keeps C s0 s) : KeepsOut C s0 (execAdjoint d s) := by
  simp (maxDischargeDepth := 40) [execAdjoint, h]

@[simp] theorem keeps_execLinearPhaseEnd (d : Die) (s : State) (h : Keeps C s0 s) : KeepsOut C s0
    (execLinearPhaseEnd d s) := by
  simp (maxDischargeDepth := 40) [execLinearPhaseEnd, h]

@[simp] theorem keeps_execDeadlineCheck (d : Die) (s : State) (h : Keeps C s0 s) : KeepsOut C s0 (execDeadlineCheck
    d s) := by
  simp (maxDischargeDepth := 40) [execDeadlineCheck, h]

@[simp] theorem keeps_execSolveEnd (d : Die) (s : State) (h : Keeps C s0 s) : KeepsOut C s0 (execSolveEnd d s) := by
  simp (maxDischargeDepth := 40) [execSolveEnd, h]

@[simp] theorem keeps_execKeepFactorisation (d : Die) (s : State) (h : Keeps C s0 s) : KeepsOut C s0
    (execKeepFactorisation d s) := by
  simp (maxDischargeDepth := 40) [execKeepFactorisation, h]

@[simp] theorem keeps_execLocalMemoryClear (d : Die) (s : State) (h : Keeps C s0 s) : KeepsOut C s0
    (execLocalMemoryClear d s) := by
  simp (maxDischargeDepth := 40) [execLocalMemoryClear, h]

@[simp] theorem keeps_execDmt (n : Stn) (q : Quad) (s : State) (h : Keeps C s0 s) : KeepsOut C s0 (execDmt n q s) :=
    by
  unfold execDmt
  (repeat' split) <;> simp (maxDischargeDepth := 40) +contextual [h, *]

end Sys2Proof.Machine
end

