-- ==== Sys2Proof/Laws/KeepsLink.lean ====
section
/-! SUPPORT. What the operations of Machine/Link keep: the queue, the versions in the fuses, and the canonical tables. -/

namespace Sys2Proof.Machine

variable {C : Prop} {s0 : State}

@[simp] theorem keeps_collFail (m : State) (c : Coll) (h : Keeps C s0 m) : Keeps C s0 (State.collFail m c) := by
  simp (maxDischargeDepth := 40) [State.collFail, h]

@[simp] theorem keeps_collsLost (m : State) (p : ℕ) (h : Keeps C s0 m) : Keeps C s0 (State.collsLost m p) := by
  unfold State.collsLost
  (repeat' split) <;> simp (maxDischargeDepth := 40) +contextual [h, *]

@[simp] theorem keeps_sessionLost (m : State) (p : ℕ) (h : Keeps C s0 m) : Keeps C s0 (State.sessionLost m p) := by
  unfold State.sessionLost
  (repeat' split) <;> simp (maxDischargeDepth := 40) [h]

@[simp] theorem keeps_reqFreed (m : State) (i : Option Nat) (h : Keeps C s0 m) : Keeps C s0 (State.reqFreed m i)
    := by
  unfold State.reqFreed
  dsimp only
  (repeat' split) <;> simp (maxDischargeDepth := 40) +contextual [h, *]

@[simp] theorem keeps_reqEnds (m : State) (r : Req) (ecode : ℕ) (h : Keeps C s0 m) : Keeps C s0 (State.reqEnds m r
    ecode) := by
  unfold State.reqEnds
  exact keeps_reqFreed _ _ (keeps_reqError _ _ _ h)

@[simp] theorem keeps_relayLost (m : State) (r : Relay) (h : Keeps C s0 m) : Keeps C s0 (State.relayLost m r) := by
  unfold State.relayLost
  exact keeps_respond _ _ _ _ h

@[simp] theorem keeps_forgetInput (m : State) (p : Nat) (h : Keeps C s0 m) : Keeps C s0 (State.forgetInput m p)
    := by
  unfold State.forgetInput
  dsimp only
  (repeat' split) <;> simp (maxDischargeDepth := 40) +contextual [h, *]

@[simp] theorem keeps_linkTo (m0 : State) (p : ℕ) (st : ℕ) (report : Bool) (h : Keeps C s0 m0) : Keeps C s0
    (State.linkTo m0 p st report) := by
  unfold State.linkTo
  extract_lets lost src m l src2 keep m1 m2 m2' m3
  have h1 : Keeps C s0 m1 := by
    dsimp only [m1, m]
    refine keeps_setFld _ _ _ (keeps_setLink _ _ _ (keeps_forgetInput _ _ ?_))
    exact keeps_mk_intro (keeps_sessionLost _ _ h)
  clear_value m1
  have h2 : Keeps C s0 m2 := keeps_foldl (fun _ _ hm => keeps_reqEnds _ _ _ hm) _ h1
  clear_value m2
  have h2' : Keeps C s0 m2' := keeps_foldl (fun _ _ hm => keeps_relayLost _ _ hm) _ h2
  clear_value m2'
  have h3 : Keeps C s0 m3 := keeps_ite_intro (keeps_report _ _ (keeps_collsLost _ _ h2')) (keeps_collsLost _ _ h2')
  clear_value m3
  split
  · extract_lets +onlyGivenNames m4
    have h4 : Keeps C s0 m4 := keeps_setLink _ _ _ (keeps_setFld _ _ _ (keeps_setFlag _ _ _ h3))
    exact keeps_ite_intro (keeps_setFld _ _ _ h4) h4
  · exact h3

@[simp] theorem keeps_linkFail (m : State) (p : ℕ) (h : Keeps C s0 m) : Keeps C s0 (State.linkFail m p) := by
  simp (maxDischargeDepth := 40) [State.linkFail, h]

@[simp] theorem keeps_keyStep (m : State) (p : ℕ) (h : Keeps C s0 m) : Keeps C s0 (State.keyStep m p) := by
  simp (maxDischargeDepth := 40) [State.keyStep, h]

@[simp] theorem keeps_ringBytes (m : State) (p half pos : Nat) (bs : List Byte) (h : Keeps C s0 m) : Keeps C s0
    (State.ringBytes m p half pos bs) := by
  unfold State.ringBytes
  dsimp only
  (repeat' split) <;> simp (maxDischargeDepth := 40) +contextual [h, *]

@[simp] theorem keeps_owe (m : State) (p vc cells : Nat) (h : Keeps C s0 m) : Keeps C s0 (State.owe m p vc
    cells) := by
  unfold State.owe
  dsimp only
  (repeat' split) <;> simp (maxDischargeDepth := 40) +contextual [h, *]

@[simp] theorem keeps_oweFor (m : State) (f : Flit) (h : Keeps C s0 m) : Keeps C s0 (State.oweFor m f) := by
  unfold State.oweFor
  split
  · exact keeps_owe _ _ _ _ h
  · exact h

@[simp] theorem keeps_flitTransmit (m : State) (p : ℕ) (h : Keeps C s0 m) : Keeps C s0 (State.flitTransmit m p) :=
    by
  unfold State.flitTransmit
  dsimp only
  (repeat' split) <;> simp (maxDischargeDepth := 40) [h]

@[simp] theorem keeps_credit (m : State) (p : ℕ) (ack : ℕ) (crd : ℕ) (vc : ℕ) (h : Keeps C s0 m) : Keeps C s0
    (State.credit m p ack crd vc) := by
  simp (maxDischargeDepth := 40) [State.credit, h]

@[simp] theorem keeps_resend (m : State) (p : ℕ) (which : Sent → Bool) (h : Keeps C s0 m) : Keeps C s0 (State.resend
    m p which) := by
  simp (maxDischargeDepth := 40) [State.resend, h]

@[simp] theorem keeps_nak (m : State) (p : ℕ) (seq : ℕ) (h : Keeps C s0 m) : Keeps C s0 (State.nak m p seq) := by
  simp (maxDischargeDepth := 40) [State.nak, h]

@[simp] theorem keeps_replayTmo (m : State) (p : ℕ) (h : Keeps C s0 m) : Keeps C s0 (State.replayTmo m p) := by
  simp (maxDischargeDepth := 40) [State.replayTmo, h]

@[simp] theorem keeps_failedFlit (m : State) (p : ℕ) (seq : ℕ) (why : FlitFail) (inj : Bool) (h : Keeps C s0 m) :
    Keeps C s0 (State.failedFlit m p seq why inj) := by
  unfold State.failedFlit
  extract_lets +onlyGivenNames st
  refine keeps_ite_intro h ?_
  extract_lets +onlyGivenNames m1 m2
  have h1 : Keeps C s0 m1 := by simp (maxDischargeDepth := 40) [m1, h]
  have h2 : Keeps C s0 m2 := by dsimp only [m2]; split <;> simp (maxDischargeDepth := 40) [h1]
  extract_lets +onlyGivenNames l metro lack ask times m3 m4
  have h3 : Keeps C s0 m3 := by simp (maxDischargeDepth := 40) [m3, h2]
  clear_value m3
  have h4 : Keeps C s0 m4 := keeps_ite_intro (by simp (maxDischargeDepth := 40) [h3]) h3
  clear_value m4
  exact keeps_ite_intro (by simp (maxDischargeDepth := 40) [h4]) h4

@[simp] theorem keeps_fecLock (m : State) (p : ℕ) (h : Keeps C s0 m) : Keeps C s0 (State.fecLock m p) := by
  simp (maxDischargeDepth := 40) [State.fecLock, h]

@[simp] theorem keeps_helloTimer (m : State) (p : ℕ) (h : Keeps C s0 m) : Keeps C s0 (State.helloTimer m p) := by
  simp (maxDischargeDepth := 40) [State.helloTimer, h]

@[simp] theorem keeps_helloDone (m : State) (p : ℕ) (h : Keeps C s0 m) : Keeps C s0 (State.helloDone m p) := by
  simp (maxDischargeDepth := 40) [State.helloDone, h]

@[simp] theorem keeps_rxCount (m : State) (p : Nat) (f : Flit) (owe : Bool) (h : Keeps C s0 m) : Keeps C s0
    (State.rxCount m p f owe) := by
  simp (maxDischargeDepth := 40) [State.rxCount, h]

@[simp] theorem keeps_rxGap (m : State) (p : Nat) (f : Flit) (h : Keeps C s0 m) : Keeps C s0 (State.rxGap m p f)
    := by
  unfold State.rxGap
  dsimp only
  (repeat' split) <;> simp (maxDischargeDepth := 40) +contextual [h, *]

theorem keeps_rxInject (m : State) (p : ℕ) (h : Keeps C s0 m) : ∀ t, State.rxInject m p = some t → Keeps C s0 t :=
    by
  unfold State.rxInject
  (repeat' split) <;> simp (maxDischargeDepth := 40) [h]

@[simp] theorem keeps_arrive (m : State) (p : Nat) (f : Flit) (owe : Bool) (h : Keeps C s0 m) : Keeps C s0
    (State.arrive m p f owe).1 := by
  unfold State.arrive
  split
  · exact h
  · split
    · exact keeps_rxInject _ _ h _ ‹_›
    · split
      · exact keeps_bump _ _ _ h
      · split
        · exact keeps_failedFlit _ _ _ _ _ h
        · extract_lets m1 l
          have h1 : Keeps C s0 m1 := keeps_credit _ _ _ _ _ h
          clear_value m1
          (repeat' split) <;> simp (maxDischargeDepth := 40) [h1]

@[simp] theorem keeps_hello (m : State) (p : ℕ) (f : Flit) (h : Keeps C s0 m) : Keeps C s0 (State.hello m p f) := by
  unfold State.hello
  extract_lets st r m1 d w m2 metro rtt m3 agree l m4 m5 src
  refine keeps_ite_intro h ?_
  have hr : Keeps C s0 r.1 := keeps_arrive _ _ _ _ h
  have h1 : Keeps C s0 m1 := hr
  have h2 : Keeps C s0 m2 := keeps_setFld _ _ _ (keeps_setFld _ _ _ (keeps_setFld _ _ _ h1))
  have h3 : Keeps C s0 m3 := keeps_ite_intro h2 (keeps_setFlag _ _ _ (keeps_setFld _ _ _ h2))
  have h4 : Keeps C s0 m4 := keeps_setLink _ _ _ h3
  have h5 : Keeps C s0 m5 := keeps_txq _ _ _ h4
  refine keeps_ite_intro hr (keeps_ite_intro h4 (keeps_ite_intro (keeps_helloDone _ _ (keeps_setLink _ _ _ h5)) h4))

@[simp] theorem keeps_freshKey (m : State) (p k : Nat) (h : Keeps C s0 m) : Keeps C s0 (State.freshKey m p k) :=
    by
  unfold State.freshKey
  dsimp only
  (repeat' split) <;> simp (maxDischargeDepth := 40) +contextual [h, *]

@[simp] theorem keeps_loadSlot (m : State) (p : ℕ) (k : ℕ) (key : BitVec 256) (salt : BitVec 32) (h : Keeps C s0 m)
    : Keeps C s0 (State.loadSlot m p k key salt) := by
  unfold State.loadSlot
  (repeat' split) <;> simp (maxDischargeDepth := 40) +contextual [h, *]

@[simp] theorem keeps_keyx (m : State) (p : ℕ) (f : Flit) (ok : Bool) (key : BitVec 256) (salt : BitVec 32) (h :
    Keeps C s0 m) : Keeps C s0 (State.keyx m p f ok key salt) := by
  unfold State.keyx
  extract_lets st r m1
  refine keeps_ite_intro h ?_
  have hr : Keeps C s0 r.1 := keeps_arrive _ _ _ _ h
  have h1 : Keeps C s0 m1 := hr
  exact keeps_ite_intro hr (keeps_ite_intro (keeps_linkFail _ _ (keeps_report _ _ h1))
    (keeps_ite_intro (keeps_setFld _ _ _ (keeps_setFld _ _ _ (keeps_loadSlot _ _ _ _ _ h1))) (keeps_loadSlot _ _ _ _ _ h1)))

@[simp] theorem keeps_keyxTmo (m : State) (p : ℕ) (h : Keeps C s0 m) : Keeps C s0 (State.keyxTmo m p) := by
  simp (maxDischargeDepth := 40) [State.keyxTmo, h]

@[simp] theorem keeps_onFlit (m : State) (p : ℕ) (f : Flit) (op : ℕ) (k : State → State) (hk : ∀ (z4_0 : State),
    Keeps C s0 z4_0 → Keeps C s0 (k z4_0)) (h : Keeps C s0 m) : Keeps C s0 (State.onFlit m p f op k) := by
  unfold State.onFlit
  refine keeps_ite_intro h (keeps_ite_intro h ?_)
  extract_lets r
  have hr : Keeps C s0 r.1 := keeps_arrive _ _ _ _ h
  clear_value r
  exact keeps_ite_intro hr (keeps_ite_intro (keeps_txq _ _ _ hr) (hk _ hr))

@[simp] theorem keeps_badOp (m : State) (p : ℕ) (f : Flit) (h : Keeps C s0 m) : Keeps C s0 (State.badOp m p f) := by
  simp (maxDischargeDepth := 40) [State.badOp, h]

@[simp] theorem keeps_execFlitTransmit (p : Port) (s : State) (h : Keeps C s0 s) : KeepsOut C s0 (execFlitTransmit p
    s) := by
  simp (maxDischargeDepth := 40) [execFlitTransmit, h]

@[simp] theorem keeps_execCredit (p : Port) (ack : ℕ) (crd : ℕ) (vc : Fin 4) (s : State) (h : Keeps C s0 s) :
    KeepsOut C s0 (execCredit p ack crd vc s) := by
  simp (maxDischargeDepth := 40) [execCredit, h]

@[simp] theorem keeps_execNak (p : Port) (seq : ℕ) (s : State) (h : Keeps C s0 s) : KeepsOut C s0 (execNak p seq s)
    := by
  simp (maxDischargeDepth := 40) [execNak, h]

@[simp] theorem keeps_execFailedFlit (p : Port) (seq : ℕ) (why : FlitFail) (s : State) (h : Keeps C s0 s) : KeepsOut
    C s0 (execFailedFlit p seq why s) := by
  simp (maxDischargeDepth := 40) [execFailedFlit, h]

@[simp] theorem keeps_execBadOp (p : Port) (f : Flit) (s : State) (h : Keeps C s0 s) : KeepsOut C s0 (execBadOp p f
    s) := by
  simp (maxDischargeDepth := 40) [execBadOp, h]

@[simp] theorem keeps_execReplayTmo (p : Port) (s : State) (h : Keeps C s0 s) : KeepsOut C s0 (execReplayTmo p s) :=
    by
  simp (maxDischargeDepth := 40) [execReplayTmo, h]

@[simp] theorem keeps_execFecLock (p : Port) (s : State) (h : Keeps C s0 s) : KeepsOut C s0 (execFecLock p s) := by
  simp (maxDischargeDepth := 40) [execFecLock, h]

@[simp] theorem keeps_execHelloTimer (p : Port) (s : State) (h : Keeps C s0 s) : KeepsOut C s0 (execHelloTimer p s)
    := by
  simp (maxDischargeDepth := 40) [execHelloTimer, h]

@[simp] theorem keeps_execHello (p : Port) (f : Flit) (s : State) (h : Keeps C s0 s) : KeepsOut C s0 (execHello p f
    s) := by
  simp (maxDischargeDepth := 40) [execHello, h]

@[simp] theorem keeps_execKeyx (p : Port) (f : Flit) (ok : Bool) (key : BitVec 256) (salt : BitVec 32) (s : State)
    (h : Keeps C s0 s) : KeepsOut C s0 (execKeyx p f ok key salt s) := by
  simp (maxDischargeDepth := 40) [execKeyx, h]

@[simp] theorem keeps_execKeyxTmo (p : Port) (s : State) (h : Keeps C s0 s) : KeepsOut C s0 (execKeyxTmo p s) := by
  simp (maxDischargeDepth := 40) [execKeyxTmo, h]

end Sys2Proof.Machine
end

