-- ==== Sys2Proof/Laws/KeepsFabric.lean ====
section
/-! SUPPORT. What the operations of Machine/Fabric keep: the queue, the versions in the fuses, and the canonical tables. -/

namespace Sys2Proof.Machine

variable {C : Prop} {s0 : State}

@[simp] theorem keeps_wrFlit (m : State) (p : ℕ) (f : Flit) (h : Keeps C s0 m) : Keeps C s0 (State.wrFlit m p f) :=
    by
  unfold State.wrFlit
  (try dsimp only)
  repeat' (first | assumption | (intro _) | split | with_reducible apply keeps_onFlit | with_reducible apply keeps_foldl | with_reducible apply keeps_foldl_fst | with_reducible apply keeps_foldl_snd | (simp (maxDischargeDepth := 40) +contextual [*]; done) | simp (maxDischargeDepth := 40) +contextual only [keeps_mk, keepsCore_fold, keeps_ite, *])

@[simp] theorem keeps_rdFlit (m : State) (p : ℕ) (f : Flit) (h : Keeps C s0 m) : Keeps C s0 (State.rdFlit m p f) :=
    by
  unfold State.rdFlit
  (try dsimp only)
  repeat' (first | assumption | (intro _) | split | with_reducible apply keeps_onFlit | with_reducible apply keeps_foldl | with_reducible apply keeps_foldl_fst | with_reducible apply keeps_foldl_snd | (simp (maxDischargeDepth := 40) +contextual [*]; done) | simp (maxDischargeDepth := 40) +contextual only [keeps_mk, keepsCore_fold, keeps_ite, *])

@[simp] theorem keeps_dropReq (m : State) (r : Req) (h : Keeps C s0 m) : Keeps C s0 (State.dropReq m r) := by
  simp (maxDischargeDepth := 40) [State.dropReq, h]

@[simp] theorem keeps_rdRspFlit (m : State) (p : ℕ) (f : Flit) (h : Keeps C s0 m) : Keeps C s0 (State.rdRspFlit m p
    f) := by
  unfold State.rdRspFlit
  (try dsimp only)
  repeat' (first | assumption | (intro _) | split | with_reducible apply keeps_onFlit | with_reducible apply keeps_foldl | with_reducible apply keeps_foldl_fst | with_reducible apply keeps_foldl_snd | (simp (maxDischargeDepth := 40) +contextual [*]; done) | simp (maxDischargeDepth := 40) +contextual only [keeps_mk, keepsCore_fold, keeps_ite, *])

@[simp] theorem keeps_ackXfer (m : State) (r : Req) (h : Keeps C s0 m) : Keeps C s0 (State.ackXfer m r) := by
  unfold State.ackXfer
  (repeat' split) <;> simp (maxDischargeDepth := 40) +contextual [h, *]

@[simp] theorem keeps_wrAckFlit (m : State) (p : ℕ) (f : Flit) (h : Keeps C s0 m) : Keeps C s0 (State.wrAckFlit m p
    f) := by
  unfold State.wrAckFlit
  (try dsimp only)
  repeat' (first | assumption | (intro _) | split | with_reducible apply keeps_onFlit | with_reducible apply keeps_foldl | with_reducible apply keeps_foldl_fst | with_reducible apply keeps_foldl_snd | (simp (maxDischargeDepth := 40) +contextual [*]; done) | simp (maxDischargeDepth := 40) +contextual only [keeps_mk, keepsCore_fold, keeps_ite, *])

@[simp] theorem keeps_errRspFlit (m : State) (p : ℕ) (f : Flit) (h : Keeps C s0 m) : Keeps C s0 (State.errRspFlit m
    p f) := by
  unfold State.errRspFlit
  (try dsimp only)
  repeat' (first | assumption | (intro _) | split | with_reducible apply keeps_onFlit | with_reducible apply keeps_foldl | with_reducible apply keeps_foldl_fst | with_reducible apply keeps_foldl_snd | (simp (maxDischargeDepth := 40) +contextual [*]; done) | simp (maxDischargeDepth := 40) +contextual only [keeps_mk, keepsCore_fold, keeps_ite, *])

@[simp] theorem keeps_reqTimeout (m : State) (node t : Nat) (h : Keeps C s0 m) : Keeps C s0 (State.reqTimeout m
    node t) := by
  unfold State.reqTimeout
  (repeat' split) <;> simp (maxDischargeDepth := 40) [h]

@[simp] theorem keeps_tagwBlock (m : State) (p : ℕ) (n : ℕ) (a : ℕ) (t : ℕ) (glitch : Bool) (h : Keeps C s0 m) :
    Keeps C s0 (State.tagwBlock m p n a t glitch) := by
  simp (maxDischargeDepth := 40) [State.tagwBlock, h]

@[simp] theorem keeps_tagwFlit (m : State) (p : ℕ) (f : Flit) (glitch : Bool) (h : Keeps C s0 m) : Keeps C s0
    (State.tagwFlit m p f glitch) := by
  unfold State.tagwFlit
  (try dsimp only)
  repeat' (first | assumption | (intro _) | split | with_reducible apply keeps_onFlit | with_reducible apply keeps_foldl | with_reducible apply keeps_foldl_fst | with_reducible apply keeps_foldl_snd | (simp (maxDischargeDepth := 40) +contextual [*]; done) | simp (maxDischargeDepth := 40) +contextual only [keeps_mk, keepsCore_fold, keeps_ite, *])

@[simp] theorem keeps_cntAddFlitIn (m : State) (p : ℕ) (f : Flit) (h : Keeps C s0 m) : Keeps C s0
    (State.cntAddFlitIn m p f) := by
  unfold State.cntAddFlitIn
  refine keeps_onFlit _ _ _ _ _ (fun m hm => ?_) h
  dsimp only
  split
  · exact keeps_respond _ _ _ _ (keeps_serveCnt _ _ _ hm)
  · exact keeps_serveCnt _ _ _ hm

@[simp] theorem keeps_dropFlit (m : State) (f : Flit) (ecode : ℕ) (h : Keeps C s0 m) : Keeps C s0 (State.dropFlit m
    f ecode) := by
  simp (maxDischargeDepth := 40) [State.dropFlit, h]

@[simp] theorem keeps_forward (m : State) (p : ℕ) (f : Flit) (h : Keeps C s0 m) : Keeps C s0 (State.forward m p f)
    := by
  unfold State.forward
  refine keeps_ite_intro h ?_
  extract_lets +onlyGivenNames r c m1
  have h1 : Keeps C s0 m1 := keeps_arrive _ _ _ _ h
  clear_value m1
  refine keeps_ite_intro h1 (keeps_ite_intro (keeps_txq _ _ _ (keeps_owe _ _ _ _ h1)) ?_)
  split
  · exact keeps_owe _ _ _ _ h1
  · exact keeps_dropFlit _ _ _ (keeps_bump _ _ _ (keeps_owe _ _ _ _ h1))
  · exact keeps_ite_intro (keeps_dropFlit _ _ _ (keeps_owe _ _ _ _ h1)) (keeps_bump _ _ _ (keeps_txq _ _ _ h1))

@[simp] theorem keeps_fwdTimeout (m : State) (p : ℕ) (h : Keeps C s0 m) : Keeps C s0 (State.fwdTimeout m p) := by
  unfold State.fwdTimeout
  dsimp only
  (repeat' split) <;> simp (maxDischargeDepth := 40) [h]

@[simp] theorem keeps_execWr (p : Port) (f : Flit) (s : State) (h : Keeps C s0 s) : KeepsOut C s0 (execWr p f s) :=
    by
  simp (maxDischargeDepth := 40) [execWr, h]

@[simp] theorem keeps_execRd (p : Port) (f : Flit) (s : State) (h : Keeps C s0 s) : KeepsOut C s0 (execRd p f s) :=
    by
  simp (maxDischargeDepth := 40) [execRd, h]

@[simp] theorem keeps_execRdRsp (p : Port) (f : Flit) (s : State) (h : Keeps C s0 s) : KeepsOut C s0 (execRdRsp p f
    s) := by
  simp (maxDischargeDepth := 40) [execRdRsp, h]

@[simp] theorem keeps_execWrAck (p : Port) (f : Flit) (s : State) (h : Keeps C s0 s) : KeepsOut C s0 (execWrAck p f
    s) := by
  simp (maxDischargeDepth := 40) [execWrAck, h]

@[simp] theorem keeps_execErrRsp (p : Port) (f : Flit) (s : State) (h : Keeps C s0 s) : KeepsOut C s0 (execErrRsp p
    f s) := by
  simp (maxDischargeDepth := 40) [execErrRsp, h]

@[simp] theorem keeps_execTagw (p : Port) (f : Flit) (glitch : Bool) (s : State) (h : Keeps C s0 s) : KeepsOut C s0
    (execTagw p f glitch s) := by
  simp (maxDischargeDepth := 40) [execTagw, h]

@[simp] theorem keeps_execCntAdd (p : Port) (f : Flit) (s : State) (h : Keeps C s0 s) : KeepsOut C s0 (execCntAdd p
    f s) := by
  simp (maxDischargeDepth := 40) [execCntAdd, h]

@[simp] theorem keeps_execForward (p : Port) (f : Flit) (s : State) (h : Keeps C s0 s) : KeepsOut C s0 (execForward
    p f s) := by
  simp (maxDischargeDepth := 40) [execForward, h]

@[simp] theorem keeps_execFwdTmo (p : Port) (s : State) (h : Keeps C s0 s) : KeepsOut C s0 (execFwdTmo p s) := by
  simp (maxDischargeDepth := 40) [execFwdTmo, h]

@[simp] theorem keeps_execReqTmo (t : ReqKey) (s : State) (h : Keeps C s0 s) : KeepsOut C s0 (execReqTmo t s) := by
  simp (maxDischargeDepth := 40) [execReqTmo, h]

end Sys2Proof.Machine
end

