-- ==== Sys2Proof/Laws/KeepsTumbler.lean ====
section
/-! SUPPORT. What the operations of Machine/Tumbler keep: the queue, the versions in the fuses, and the canonical tables. -/

namespace Sys2Proof.Machine

variable {C : Prop} {s0 : State}

@[simp] theorem keeps_wregGo (m : State) (master : ℕ) (n : ℕ) (h : Keeps C s0 m) : Keeps C s0 (State.wregGo m master
    n) := by
  unfold State.wregGo
  (repeat' split) <;> simp (maxDischargeDepth := 40) [h]

@[simp] theorem keeps_watchTimeout (m : State) (w : ℕ) (h : Keeps C s0 m) : Keeps C s0 (State.watchTimeout m w) :=
    by
  unfold State.watchTimeout
  (repeat' split) <;> simp (maxDischargeDepth := 40) [h]

@[simp] theorem keeps_seqResume (m : State) (n : ℕ) (q : ℕ) (h : Keeps C s0 m) : Keeps C s0 (State.seqResume m n q)
    := by
  simp (maxDischargeDepth := 40) [State.seqResume, h]

@[simp] theorem keeps_barResume (m : State) (n : ℕ) (b : ℕ) (h : Keeps C s0 m) : Keeps C s0 (State.barResume m n b)
    := by
  unfold State.barResume
  (repeat' split) <;> simp (maxDischargeDepth := 40) +contextual [h, *]

@[simp] theorem keeps_notification (m : State) (h : Keeps C s0 m) : Keeps C s0 (State.notification m) := by
  unfold State.notification
  split
  · exact h
  · rename_i x rest hx
    extract_lets +onlyGivenNames m1
    have h1 : Keeps C s0 m1 := by simp (maxDischargeDepth := 40) [m1, h]
    clear_value m1
    split
    · (repeat' split) <;> simp (maxDischargeDepth := 40) [h1]
    · simp (maxDischargeDepth := 40) [h1]
    · split
      · exact keeps_mortarNotified _ _ h1 _ ‹_›
      · extract_lets +onlyGivenNames m2
        have h2 : Keeps C s0 m2 := by dsimp only [m2]; split <;> simp (maxDischargeDepth := 40) [h1]
        clear_value m2
        simp (maxDischargeDepth := 40) [h2]
    · simp (maxDischargeDepth := 40) [h1]

@[simp] theorem keeps_barEnable (m : State) (master : ℕ) (b : ℕ) (h : Keeps C s0 m) : Keeps C s0 (State.barEnable m
    master b) := by
  simp (maxDischargeDepth := 40) [State.barEnable, h]

@[simp] theorem keeps_enter (m : State) (b : ℕ) (who : Master) (h : Keeps C s0 m) : Keeps C s0 (State.enter m b who)
    := by
  unfold State.enter
  (repeat' split) <;> simp (maxDischargeDepth := 40) [h]

@[simp] theorem keeps_arriveFlit (m : State) (p : ℕ) (f : Flit) (h : Keeps C s0 m) : Keeps C s0 (State.arriveFlit m
    p f) := by
  unfold State.arriveFlit
  (try dsimp only)
  repeat' (first | assumption | (intro _) | split | with_reducible apply keeps_onFlit | with_reducible apply keeps_foldl | with_reducible apply keeps_foldl_fst | with_reducible apply keeps_foldl_snd | (simp (maxDischargeDepth := 40) +contextual [*]; done) | simp (maxDischargeDepth := 40) +contextual only [keeps_mk, keepsCore_fold, keeps_ite, *])

@[simp] theorem keeps_releaseFlit (m : State) (p : ℕ) (f : Flit) (h : Keeps C s0 m) : Keeps C s0 (State.releaseFlit
    m p f) := by
  unfold State.releaseFlit
  (try dsimp only)
  repeat' (first | assumption | (intro _) | split | with_reducible apply keeps_onFlit | with_reducible apply keeps_foldl | with_reducible apply keeps_foldl_fst | with_reducible apply keeps_foldl_snd | (simp (maxDischargeDepth := 40) +contextual [*]; done) | simp (maxDischargeDepth := 40) +contextual only [keeps_mk, keepsCore_fold, keeps_ite, *])

@[simp] theorem keeps_barStall (m : State) (b : ℕ) (h : Keeps C s0 m) : Keeps C s0 (State.barStall m b) := by
  simp (maxDischargeDepth := 40) [State.barStall, h]

@[simp] theorem keeps_execWatchTmo (w : Fin 1024) (s : State) (h : Keeps C s0 s) : KeepsOut C s0 (execWatchTmo w s)
    := by
  simp (maxDischargeDepth := 40) [execWatchTmo, h]

@[simp] theorem keeps_execNotification (s : State) (h : Keeps C s0 s) : KeepsOut C s0 (execNotification s) := by
  simp (maxDischargeDepth := 40) [execNotification, h]

@[simp] theorem keeps_execArrive (p : Port) (f : Flit) (s : State) (h : Keeps C s0 s) : KeepsOut C s0 (execArrive p
    f s) := by
  simp (maxDischargeDepth := 40) [execArrive, h]

@[simp] theorem keeps_execRelease (p : Port) (f : Flit) (s : State) (h : Keeps C s0 s) : KeepsOut C s0 (execRelease
    p f s) := by
  simp (maxDischargeDepth := 40) [execRelease, h]

@[simp] theorem keeps_execBtmo (b : Fin 256) (s : State) (h : Keeps C s0 s) : KeepsOut C s0 (execBtmo b s) := by
  simp (maxDischargeDepth := 40) [execBtmo, h]

end Sys2Proof.Machine
end

