-- ==== Sys2Proof/Laws/KeepsCollective.lean ====
section
/-! SUPPORT. What the operations of Machine/Collective keep: the queue, the versions in the fuses, and the canonical tables. -/

namespace Sys2Proof.Machine

variable {C : Prop} {s0 : State}

@[simp] theorem keeps_setColl (m : State) (c : Coll) (h : Keeps C s0 m) : Keeps C s0 (State.setColl m c) := by
  simp (maxDischargeDepth := 40) [State.setColl, h]

@[simp] theorem keeps_sendColl (m : State) (c : Coll) (rank : ℕ) (phase : ℕ) (flow : ℕ) (tags : Bool) (eb : ℕ) (vs :
    List (ℕ × Bool)) (h : Keeps C s0 m) : Keeps C s0 (State.sendColl m c rank phase flow tags eb vs) := by
  simp (maxDischargeDepth := 40) [State.sendColl, h]

@[simp] theorem keeps_sendRun (m : State) (c : Coll) (rank : ℕ) (phase : ℕ) (flow : ℕ) (vs : List (ℕ × Bool)) (h :
    Keeps C s0 m) : Keeps C s0 (State.sendRun m c rank phase flow vs) := by
  unfold State.sendRun
  (repeat' split) <;> simp (maxDischargeDepth := 40) +contextual [h, *]

@[simp] theorem keeps_sendTags (m : State) (c : Coll) (rank : ℕ) (flow : ℕ) (k : ℕ) (base : ℕ) (h : Keeps C s0 m) :
    Keeps C s0 (State.sendTags m c rank flow k base) := by
  unfold State.sendTags
  (repeat' split) <;> simp (maxDischargeDepth := 40) +contextual [h, *]

@[simp] theorem keeps_sendChunk (m : State) (c : Coll) (rank : ℕ) (phase : ℕ) (k : ℕ) (h : Keeps C s0 m) : Keeps C
    s0 (State.sendChunk m c rank phase k) := by
  unfold State.sendChunk
  (repeat' split) <;> simp (maxDischargeDepth := 40) +contextual [h, *]

@[simp] theorem keeps_collPut (m : State) (c : Coll) (e : ℕ) (vs : List (ℕ × Bool)) (ward : Bool) (h : Keeps C s0 m)
    : Keeps C s0 (State.collPut m c e vs ward) := by
  simp (maxDischargeDepth := 40) [State.collPut, h]

@[simp] theorem keeps_collCheck (m : State) (i : ℕ) (h : Keeps C s0 m) : Keeps C s0 (State.collCheck m i) := by
  unfold State.collCheck
  (repeat' split) <;> simp (maxDischargeDepth := 40) [h]

@[simp] theorem keeps_collDigest (m : State) (c : Coll) (h : Keeps C s0 m) : Keeps C s0 (State.collDigest m c)
    := by
  unfold State.collDigest
  dsimp only
  (repeat' split) <;> simp (maxDischargeDepth := 40) +contextual [h, *]

@[simp] theorem keeps_collBegin (m : State) (n : ℕ) (k : ℕ) (go : State → Coll → State) (hgo : ∀ (z3_0 : State)
    (z3_1 : Coll), Keeps C s0 z3_0 → Keeps C s0 (go z3_0 z3_1)) (h : Keeps C s0 m) : Keeps C s0 (State.collBegin m n
    k go) := by
  unfold State.collBegin
  (repeat' split) <;> simp (maxDischargeDepth := 40) [h, hgo]

@[simp] theorem keeps_collSelf (m : State) (c : Coll) (h : Keeps C s0 m) : Keeps C s0 (State.collSelf m c) := by
  simp (maxDischargeDepth := 40) [State.collSelf, h]

@[simp] theorem keeps_ringBegin (m : State) (c : Coll) (h : Keeps C s0 m) : Keeps C s0 (State.ringBegin m c) := by
  simp (maxDischargeDepth := 40) [State.ringBegin, h]

@[simp] theorem keeps_chainBegin (m : State) (c : Coll) (h : Keeps C s0 m) : Keeps C s0 (State.chainBegin m c) := by
  simp (maxDischargeDepth := 40) [State.chainBegin, h]

@[simp] theorem keeps_gatherBegin (m : State) (c : Coll) (h : Keeps C s0 m) : Keeps C s0 (State.gatherBegin m c) :=
    by
  unfold State.gatherBegin
  (repeat' split) <;> simp (maxDischargeDepth := 40) +contextual [h, *]

@[simp] theorem keeps_collData (m : State) (c : Coll) (phase : ℕ) (flow : ℕ) (k : ℕ) (e : ℕ) (vs : List (ℕ × Bool))
    (h : Keeps C s0 m) : Keeps C s0 (State.collData m c phase flow k e vs) := by
  simp (maxDischargeDepth := 40) [State.collData, h]

@[simp] theorem keeps_collTags (m : State) (c : Coll) (flow : ℕ) (k : ℕ) (b : ℕ) (ts : List (ℕ × Bool)) (h : Keeps C
    s0 m) : Keeps C s0 (State.collTags m c flow k b ts) := by
  unfold State.collTags
  (repeat' split) <;> simp (maxDischargeDepth := 40) +contextual [h, *]

@[simp] theorem keeps_journal (m : State) (c : Coll) (st : ℕ) (h : Keeps C s0 m) : Keeps C s0 (State.journal m c st)
    := by
  simp (maxDischargeDepth := 40) [State.journal, h]

@[simp] theorem keeps_stagePiece (m : State) (c : Coll) (slot : ℕ) (piece : ℕ) (bs : List Byte) (psn : ℕ) (h : Keeps
    C s0 m) : Keeps C s0 (State.stagePiece m c slot piece bs psn) := by
  simp (maxDischargeDepth := 40) [State.stagePiece, h]

@[simp] theorem keeps_sendCtl (m : State) (c : Coll) (rank : ℕ) (kind : ℕ) (h : Keeps C s0 m) : Keeps C s0
    (State.sendCtl m c rank kind) := by
  simp (maxDischargeDepth := 40) [State.sendCtl, h]

@[simp] theorem keeps_permSend (m : State) (c : Coll) (h : Keeps C s0 m) : Keeps C s0 (State.permSend m c) := by
  unfold State.permSend
  (repeat' split) <;> simp (maxDischargeDepth := 40) +contextual [h, *]

@[simp] theorem keeps_permPiece (m : State) (c : Coll) (f : Flit) (h : Keeps C s0 m) : Keeps C s0
    (State.permPiece m c f) := by
  unfold State.permPiece
  dsimp only
  (repeat' split) <;> simp (maxDischargeDepth := 40) +contextual [h, *]

@[simp] theorem keeps_permRound (m : State) (c : Coll) (h : Keeps C s0 m) : Keeps C s0 (State.permRound m c) := by
  simp (maxDischargeDepth := 40) [State.permRound, h]

@[simp] theorem keeps_permApply (m : State) (c : Coll) (h : Keeps C s0 m) : Keeps C s0 (State.permApply m c) := by
  unfold State.permApply
  (repeat' split) <;> simp (maxDischargeDepth := 40) +contextual [h, *]

@[simp] theorem keeps_permNext (m : State) (c : Coll) (h : Keeps C s0 m) : Keeps C s0 (State.permNext m c) := by
  unfold State.permNext
  dsimp only
  (repeat' split) <;> simp (maxDischargeDepth := 40) +contextual [h, *]

@[simp] theorem keeps_permStep (x0 : ℕ) (x1 : ℕ) (x2 : State) (h : Keeps C s0 x2) : Keeps C s0 (State.permStep x0 x1
    x2) := by
  induction x0 generalizing x2 with
  | zero => exact h
  | succ k ih =>
    unfold State.permStep
    split
    · exact h
    · refine keeps_ite_intro h (keeps_ite_intro (keeps_ite_intro ?_ h) (keeps_ite_intro ?_ h))
      · extract_lets c1 m1
        have h1 : Keeps C s0 m1 := keeps_journal _ _ _ h
        exact keeps_ite_intro (ih _ h1) (keeps_sendCtl _ _ _ _ h1)
      · exact ih _ (keeps_permNext _ _ (keeps_foldl (fun _ _ hm => keeps_sendCtl _ _ _ _ hm) _ h))

@[simp] theorem keeps_permGo (m : State) (i : Nat) (h : Keeps C s0 m) : Keeps C s0 (State.permGo m i) := by
  unfold State.permGo
  split
  · exact keeps_permStep _ _ _ h
  · exact h

@[simp] theorem keeps_permBegin (m : State) (c : Coll) (h : Keeps C s0 m) : Keeps C s0 (State.permBegin m c) := by
  simp (maxDischargeDepth := 40) [State.permBegin, h]

@[simp] theorem keeps_collFlit (m : State) (p : Nat) (f : Flit) (op : Nat) (takes : Coll → Bool)
    (k : State → Coll → State) (hk : ∀ m c, Keeps C s0 m → Keeps C s0 (k m c)) (h : Keeps C s0 m) :
    Keeps C s0 (State.collFlit m p f op takes k) := by
  unfold State.collFlit
  refine keeps_ite_intro (keeps_onFlit _ _ _ _ _ (fun _ hm => hm) h) ?_
  split
  · exact keeps_ite_intro (keeps_onFlit _ _ _ _ _ (fun _ hm => hk _ _ hm) h) h
  · exact keeps_ite_intro (keeps_onFlit _ _ _ _ _ (fun _ hm => hm) h) h

@[simp] theorem keeps_streamFlit (m : State) (f : Flit) (c : Coll) (h : Keeps C s0 m) : Keeps C s0
    (State.streamFlit m f c) := by
  unfold State.streamFlit
  dsimp only
  (repeat' split) <;> simp (maxDischargeDepth := 40) +contextual [h, *]

@[simp] theorem keeps_collDataFlit (m : State) (p : ℕ) (f : Flit) (h : Keeps C s0 m) : Keeps C s0
    (State.collDataFlit m p f) := by
  unfold State.collDataFlit; (try dsimp only); (repeat' split) <;> (simp (maxDischargeDepth := 40) +contextual [h, *])

@[simp] theorem keeps_collCtlFlit (m : State) (p : ℕ) (f : Flit) (h : Keeps C s0 m) : Keeps C s0 (State.collCtlFlit
    m p f) := by
  unfold State.collCtlFlit
  (repeat' split) <;> simp (maxDischargeDepth := 40) +contextual [h, *]

@[simp] theorem keeps_collFinish (m : State) (c : Coll) (h : Keeps C s0 m) : Keeps C s0 (State.collFinish m c) := by
  simp (maxDischargeDepth := 40) [State.collFinish, h]

@[simp] theorem keeps_collDone (m : State) (n : ℕ) (h : Keeps C s0 m) : Keeps C s0 (State.collDone m n) := by
  unfold State.collDone
  (repeat' split) <;> simp (maxDischargeDepth := 40) [h]

@[simp] theorem keeps_collTimeout (m : State) (n : ℕ) (h : Keeps C s0 m) : Keeps C s0 (State.collTimeout m n) := by
  unfold State.collTimeout
  (repeat' split) <;> simp (maxDischargeDepth := 40) [h]

@[simp] theorem keeps_collDoorbell (m : State) (master : ℕ) (n : ℕ) (v : ℕ) (h : Keeps C s0 m) : Keeps C s0
    (State.collDoorbell m master n v) := by
  simp (maxDischargeDepth := 40) [State.collDoorbell, h]

@[simp] theorem keeps_scanGoKrt (m : State) (master : ℕ) (n : ℕ) (h : Keeps C s0 m) : Keeps C s0 (State.scanGoKrt m
    master n) := by
  simp (maxDischargeDepth := 40) [State.scanGoKrt, h]

@[simp] theorem keeps_digestScanDone (m : State) (n : ℕ) (h : Keeps C s0 m) : Keeps C s0 (State.digestScanDone m n)
    := by
  unfold State.digestScanDone
  (repeat' split) <;> simp (maxDischargeDepth := 40) +contextual [h, *]

@[simp] theorem keeps_execAllreduce (n : Stn) (s : State) (h : Keeps C s0 s) : KeepsOut C s0 (execAllreduce n s) :=
    by
  unfold execAllreduce
  (repeat' split) <;> simp (maxDischargeDepth := 40) +contextual [h, *]

@[simp] theorem keeps_execOrderedReduce (n : Stn) (s : State) (h : Keeps C s0 s) : KeepsOut C s0 (execOrderedReduce
    n s) := by
  unfold execOrderedReduce
  (repeat' split) <;> simp (maxDischargeDepth := 40) +contextual [h, *]

@[simp] theorem keeps_execReduceScatter (n : Stn) (s : State) (h : Keeps C s0 s) : KeepsOut C s0 (execReduceScatter
    n s) := by
  unfold execReduceScatter
  (repeat' split) <;> simp (maxDischargeDepth := 40) +contextual [h, *]

@[simp] theorem keeps_execAllgather (n : Stn) (s : State) (h : Keeps C s0 s) : KeepsOut C s0 (execAllgather n s) :=
    by
  unfold execAllgather
  (repeat' split) <;> simp (maxDischargeDepth := 40) +contextual [h, *]

@[simp] theorem keeps_sumsq (m : State) (n : ℕ) (h : Keeps C s0 m) : Keeps C s0 (State.sumsq m n) := by
  unfold State.sumsq
  (repeat' split) <;> simp (maxDischargeDepth := 40) +contextual [h, *]

@[simp] theorem keeps_execSumsq (n : Stn) (s : State) (h : Keeps C s0 s) : KeepsOut C s0 (execSumsq n s) := by
  simp (maxDischargeDepth := 40) [execSumsq, h]

@[simp] theorem keeps_execPermute (n : Stn) (s : State) (h : Keeps C s0 s) : KeepsOut C s0 (execPermute n s) := by
  unfold execPermute
  (repeat' split) <;> simp (maxDischargeDepth := 40) +contextual [h, *]

@[simp] theorem keeps_execCollData (p : Port) (f : Flit) (s : State) (h : Keeps C s0 s) : KeepsOut C s0
    (execCollData p f s) := by
  simp (maxDischargeDepth := 40) [execCollData, h]

@[simp] theorem keeps_execCollCtl (p : Port) (f : Flit) (s : State) (h : Keeps C s0 s) : KeepsOut C s0 (execCollCtl
    p f s) := by
  simp (maxDischargeDepth := 40) [execCollCtl, h]

@[simp] theorem keeps_execCollectiveDone (n : Stn) (s : State) (h : Keeps C s0 s) : KeepsOut C s0
    (execCollectiveDone n s) := by
  simp (maxDischargeDepth := 40) [execCollectiveDone, h]

@[simp] theorem keeps_execCollTmo (n : Stn) (s : State) (h : Keeps C s0 s) : KeepsOut C s0 (execCollTmo n s) := by
  simp (maxDischargeDepth := 40) [execCollTmo, h]

@[simp] theorem keeps_execDigestScanDone (n : Stn) (s : State) (h : Keeps C s0 s) : KeepsOut C s0
    (execDigestScanDone n s) := by
  simp (maxDischargeDepth := 40) [execDigestScanDone, h]

end Sys2Proof.Machine
end

