-- ==== Sys2Proof/Laws/KeepsMemory.lean ====
section
/-! SUPPORT. What the operations of Machine/Memory keep: the queue, the versions in the fuses, and the canonical tables. -/

namespace Sys2Proof.Machine

variable {C : Prop} {s0 : State}

@[simp] theorem keeps_hbmPut (m : State) (a : ℕ) (bs : List Byte) (psn : Bool) (h : Keeps C s0 m) : Keeps C s0
    (State.hbmPut m a bs psn) := by
  unfold State.hbmPut
  dsimp only
  split
  · refine h.tables (fun hc => ?_)
    split <;> simp (maxDischargeDepth := 40) [hc]
  · simp (maxDischargeDepth := 40) [h]

@[simp] theorem keeps_hbmSense (m : State) (b : ℕ) (master : ℕ) (acc : ℕ) (ecc : Ecc) (agent : Bool) (h : Keeps C s0
    m) : Keeps C s0 (State.hbmSense m b master acc ecc agent).2.2 := by
  unfold State.hbmSense
  (repeat' split) <;> simp (maxDischargeDepth := 40) [h]

@[simp] theorem keeps_hbmData (m : State) (b : ℕ) (lost : Bool) (h : Keeps C s0 m) : Keeps C s0 (State.hbmData m b
    lost).2 := by
  unfold State.hbmData
  (repeat' split) <;> simp (maxDischargeDepth := 40) [h]

@[simp] theorem keeps_hbmRead (m : State) (addr : ℕ) (ecc : Ecc) (h : Keeps C s0 m) : Keeps C s0 (State.hbmRead m
    addr ecc) := by
  simp (maxDischargeDepth := 40) [State.hbmRead, h]

@[simp] theorem keeps_hbmWrite (m : State) (addr : ℕ) (bs : List Byte) (psn : Bool) (ecc : Ecc) (h : Keeps C s0 m) :
    Keeps C s0 (State.hbmWrite m addr bs psn ecc) := by
  simp (maxDischargeDepth := 40) [State.hbmWrite, h]

@[simp] theorem keeps_scrubRead (m : State) (addr : ℕ) (ecc : Ecc) (h : Keeps C s0 m) : Keeps C s0 (State.scrubRead
    m addr ecc) := by
  unfold State.scrubRead
  (repeat' split) <;> simp (maxDischargeDepth := 40) [h]

@[simp] theorem keeps_mcLocal (m : State) (master : ℕ) (hi : Bool) (v : ℕ) (h : Keeps C s0 m) : Keeps C s0
    (State.mcLocal m master hi v) := by
  simp (maxDischargeDepth := 40) [State.mcLocal, h]

@[simp] theorem keeps_zeroingDone (m : State) (h : Keeps C s0 m) : Keeps C s0 (State.zeroingDone m) := by
  unfold State.zeroingDone
  (repeat' split) <;> simp (maxDischargeDepth := 40) [h]

@[simp] theorem keeps_zeroSlice (m : State) (k : ℕ) (h : Keeps C s0 m) : Keeps C s0 (State.zeroSlice m k) := by
  simp (maxDischargeDepth := 40) [State.zeroSlice, h]

@[simp] theorem keeps_flushLines (m : State) (n : ℕ) (h : Keeps C s0 m) : Keeps C s0 (State.flushLines m n) := by
  unfold State.flushLines
  (repeat' split) <;> simp (maxDischargeDepth := 40) +contextual [h, *]

@[simp] theorem keeps_loseLines (m : State) (n : ℕ) (h : Keeps C s0 m) : Keeps C s0 (State.loseLines m n) := by
  unfold State.loseLines
  (repeat' split) <;> simp (maxDischargeDepth := 40) +contextual [h, *]

@[simp] theorem keeps_setCrkBusy (m : State) (n : Nat) (zs : List Nat) (b : Bool) (h : Keeps C s0 m) : Keeps C
    s0 (State.setCrkBusy m n zs b) := by
  unfold State.setCrkBusy
  (repeat' split) <;> simp (maxDischargeDepth := 40) +contextual [h, *]

theorem keeps_flushBegin (m : State) (n : ℕ) (w : ℕ × Bool) (waiting : List (ℕ × Bool)) (h : Keeps C s0 m) : ∀ t,
    State.flushBegin m n w waiting = some t → Keeps C s0 t := by
  simp (maxDischargeDepth := 40) [State.flushBegin, h]

@[simp] theorem keeps_flushNext (m : State) (n : ℕ) (x2 : List (ℕ × Bool)) (h : Keeps C s0 m) : Keeps C s0
    (State.flushNext m n x2) := by
  induction x2 with
  | nil => exact h
  | cons w rest ih =>
    unfold State.flushNext
    split
    · exact keeps_flushBegin _ _ _ _ h _ ‹_›
    · exact ih

@[simp] theorem keeps_flushWrite (m : State) (n : ℕ) (w : ℕ × Bool) (h : Keeps C s0 m) : Keeps C s0
    (State.flushWrite m n w) := by
  simp (maxDischargeDepth := 40) [State.flushWrite, h]

@[simp] theorem keeps_flushDone (m : State) (n : ℕ) (h : Keeps C s0 m) : Keeps C s0 (State.flushDone m n) := by
  unfold State.flushDone
  (repeat' split) <;> simp (maxDischargeDepth := 40) +contextual [h, *]

@[simp] theorem keeps_flushAll (x0 : ℕ) (x1 : ℕ) (x2 : State) (h : Keeps C s0 x2) : Keeps C s0 (State.flushAll x0 x1
    x2) := by
  induction x0 generalizing x2 with
  | zero => exact h
  | succ k ih =>
    unfold State.flushAll
    split
    · exact ih _ (by simp (maxDischargeDepth := 40) [h])
    · exact h

@[simp] theorem keeps_flushSettle (m : State) (n : ℕ) (h : Keeps C s0 m) : Keeps C s0 (State.flushSettle m n) := by
  simp (maxDischargeDepth := 40) [State.flushSettle, h]

@[simp] theorem keeps_crkWrite (m : State) (master : ℕ) (k : ℕ) (v : ℕ) (h : Keeps C s0 m) : Keeps C s0
    (State.crkWrite m master k v) := by
  unfold State.crkWrite
  (repeat' split) <;> simp (maxDischargeDepth := 40) [h]

@[simp] theorem keeps_regrant (m : State) (n new : Nat) (h : Keeps C s0 m) : Keeps C s0 (State.regrant m n new)
    := by
  unfold State.regrant
  (repeat' split) <;> simp (maxDischargeDepth := 40) +contextual [h, *]

@[simp] theorem keeps_execHbmRead (addr : ℕ) (ecc : Ecc) (s : State) (h : Keeps C s0 s) : KeepsOut C s0 (execHbmRead
    addr ecc s) := by
  simp (maxDischargeDepth := 40) [execHbmRead, h]

@[simp] theorem keeps_execHbmWrite (addr : ℕ) (bytes : List Byte) (psn : Bool) (ecc : Ecc) (s : State) (h : Keeps C
    s0 s) : KeepsOut C s0 (execHbmWrite addr bytes psn ecc s) := by
  simp (maxDischargeDepth := 40) [execHbmWrite, h]

@[simp] theorem keeps_execScrubRead (addr : ℕ) (ecc : Ecc) (s : State) (h : Keeps C s0 s) : KeepsOut C s0
    (execScrubRead addr ecc s) := by
  simp (maxDischargeDepth := 40) [execScrubRead, h]

@[simp] theorem keeps_execGroupZeroingDone (s : State) (h : Keeps C s0 s) : KeepsOut C s0 (execGroupZeroingDone s)
    := by
  simp (maxDischargeDepth := 40) [execGroupZeroingDone, h]

@[simp] theorem keeps_execCrockFlushDone (n : Stn) (s : State) (h : Keeps C s0 s) : KeepsOut C s0
    (execCrockFlushDone n s) := by
  simp (maxDischargeDepth := 40) [execCrockFlushDone, h]

end Sys2Proof.Machine
end

