-- ==== Sys2Proof/Laws/KeepsReset.lean ====
section
/-! SUPPORT. What the operations of Machine/Reset keep: the queue, the versions in the fuses, and the canonical tables. -/

namespace Sys2Proof.Machine

variable {C : Prop} {s0 : State}

@[simp] theorem keeps_detach (m : State) (i : ℕ) (h : Keeps C s0 m) : Keeps C s0 (State.detach m i) := by
  simp (maxDischargeDepth := 40) [State.detach, h]

@[simp] theorem keeps_abandonGop (m : State) (reason : ℕ) (g : Gop) (h : Keeps C s0 m) : Keeps C s0
    (State.abandonGop m reason g).1 := by
  simp (maxDischargeDepth := 40) [State.abandonGop, h]

@[simp] theorem keeps_abandonXfer (m : State) (reason : ℕ) (x : Xfer) (h : Keeps C s0 m) : Keeps C s0
    (State.abandonXfer m reason x).1 := by
  simp (maxDischargeDepth := 40) [State.abandonXfer, h]

@[simp] theorem keeps_abandonSpk (m : State) (reason : ℕ) (s : Spk) (h : Keeps C s0 m) : Keeps C s0
    (State.abandonSpk m reason s).1 := by
  unfold State.abandonSpk
  (repeat' split) <;> simp (maxDischargeDepth := 40) +contextual [h, *]

@[simp] theorem keeps_cancelDesc (m : State) (d : QDesc) (size : ℕ) (off : ℕ) (page : ℕ) (master : ℕ) (h : Keeps C
    s0 m) : Keeps C s0 (State.cancelDesc m d size off page master) := by
  simp (maxDischargeDepth := 40) [State.cancelDesc, h]

@[simp] theorem keeps_stopWhisk (m : State) (reason : ℕ) (p : QDesc → Bool) (s : ℕ) (h : Keeps C s0 m) : Keeps C s0
    (State.stopWhisk m reason p s).1 := by
  unfold State.stopWhisk
  extract_lets +onlyGivenNames w qs a
  have ha : Keeps C s0 a.1 := keeps_each (fun z x hz => by dsimp only; split <;> simp (maxDischargeDepth := 40) [hz]) (by simp (maxDischargeDepth := 40) [h])
  clear_value a w
  split
  · exact ha
  · split
    · exact ha
    · dsimp only
      split <;> simp (maxDischargeDepth := 40) [ha]

@[simp] theorem keeps_stopTDesc (m : State) (reason : ℕ) (d : ℕ) (x : TDesc) (h : Keeps C s0 m) : Keeps C s0
    (State.stopTDesc m reason d x).1 := by
  simp (maxDischargeDepth := 40) [State.stopTDesc, h]

@[simp] theorem keeps_stopTongs (m : State) (reason : ℕ) (p : QDesc → Bool) (park : Bool) (d : ℕ) (h : Keeps C s0 m)
    : Keeps C s0 (State.stopTongs m reason p park d).1 := by
  unfold State.stopTongs
  extract_lets +onlyGivenNames t a b
  have ha : Keeps C s0 a.1 := keeps_each (fun z x hz => by simp (maxDischargeDepth := 40) [hz]) (by simp (maxDischargeDepth := 40) [h])
  clear_value a
  have hb : Keeps C s0 b.1 := keeps_each (fun z x hz => by simp (maxDischargeDepth := 40) [hz]) ha
  clear_value b
  split
  · exact keeps_each (fun z x hz => by simp (maxDischargeDepth := 40) [hz]) hb
  · exact hb

@[simp] theorem keeps_stopMortar (m : State) (reason : ℕ) (p : QDesc → Bool) (d : ℕ) (h : Keeps C s0 m) : Keeps C s0
    (State.stopMortar m reason p d).1 := by
  unfold State.stopMortar
  extract_lets +onlyGivenNames t qs a
  have ha : Keeps C s0 a.1 := keeps_each (fun z x hz => by simp (maxDischargeDepth := 40) [hz]) (by simp (maxDischargeDepth := 40) [h])
  clear_value a t
  split
  · exact ha
  · split
    · exact ha
    · simp (maxDischargeDepth := 40) [ha]

@[simp] theorem keeps_stopColls (m : State) (reason : ℕ) (n : ℕ) (h : Keeps C s0 m) : Keeps C s0 (State.stopColls m
    reason n).1 := by
  unfold State.stopColls
  exact keeps_each (fun z x hz => by simp (maxDischargeDepth := 40) [hz]) h

@[simp] theorem keeps_stopNorms (m : State) (p : NormJob → Bool) (h : Keeps C s0 m) : Keeps C s0 (State.stopNorms m
    p) := by
  unfold State.stopNorms
  (repeat' split) <;> simp (maxDischargeDepth := 40) +contextual [h, *]

@[simp] theorem keeps_stopReset (m : State) (reason : ℕ) (n : ℕ) (det : ℕ) (h : Keeps C s0 m) : Keeps C s0
    (State.stopReset m reason n det).1 := by
  unfold State.stopReset
  (repeat' split) <;> simp (maxDischargeDepth := 40) [h]

@[simp] theorem keeps_ledgers (m : State) (l : List (ℕ × LedgerEntry)) (h : Keeps C s0 m) : Keeps C s0
    (State.ledgers m l) := by
  unfold State.ledgers
  (repeat' split) <;> simp (maxDischargeDepth := 40) +contextual [h, *]

@[simp] theorem keeps_setCore (m : State) (c : ℕ) (x : CoreSt) (h : Keeps C s0 m) : Keeps C s0 (State.setCore m c x)
    := by
  simp (maxDischargeDepth := 40) [State.setCore, h]

@[simp] theorem keeps_coreLose (m : State) (c : ℕ) (h : Keeps C s0 m) : Keeps C s0 (State.coreLose m c) := by
  unfold State.coreLose
  refine keeps_mk_intro (Keeps.core (keeps_foldl (fun m e hm => ?_) _ h))
  have hd : Keeps C s0 m.drawByte.2 := keeps_drawByte _ hm
  dsimp only
  split
  · exact hd
  · split
    · exact keeps_setPsn _ _ _ (keeps_putBytes _ _ _ hd)
    · exact keeps_putBytes _ _ _ hd

@[simp] theorem keeps_coreHold (m : State) (c : ℕ) (h : Keeps C s0 m) : Keeps C s0 (State.coreHold m c) := by
  simp (maxDischargeDepth := 40) [State.coreHold, h]

@[simp] theorem keeps_coreStart (m : State) (c : ℕ) (h : Keeps C s0 m) : Keeps C s0 (State.coreStart m c) := by
  simp (maxDischargeDepth := 40) [State.coreStart, h]

@[simp] theorem keeps_coreReset (m : State) (c : ℕ) (h : Keeps C s0 m) : Keeps C s0 (State.coreReset m c) := by
  simp (maxDischargeDepth := 40) [State.coreReset, h]

@[simp] theorem keeps_coreHalt (m : State) (c : ℕ) (y2 : Bool) (h : Keeps C s0 m) : Keeps C s0 (State.coreHalt m c
    y2) := by
  simp (maxDischargeDepth := 40) [State.coreHalt, h]

@[simp] theorem keeps_reloadSlots (m : State) (n : ℕ) (h : Keeps C s0 m) : Keeps C s0 (State.reloadSlots m n) := by
  simp (maxDischargeDepth := 40) [State.reloadSlots, h]

@[simp] theorem keeps_clearNorms (m : State) (q : ℕ) (n : ℕ) (h : Keeps C s0 m) : Keeps C s0 (State.clearNorms m q
    n) := by
  unfold State.clearNorms
  (repeat' split) <;> simp (maxDischargeDepth := 40) +contextual [h, *]

@[simp] theorem keeps_resetBegin (m : State) (n : ℕ) (release : Bool) (h : Keeps C s0 m) : Keeps C s0
    (State.resetBegin m n release) := by
  unfold State.resetBegin
  refine keeps_ite_intro (by simp (maxDischargeDepth := 40) [h]) ?_
  extract_lets +onlyGivenNames det s1 m1 mine s2 s3 s4 s5 s6 s7 s8 m2 m3 m4
  have a1 : Keeps C s0 s1.1 := by simp (maxDischargeDepth := 40) [s1, h]
  clear_value s1
  have b1 : Keeps C s0 m1 := keeps_foldl (fun m k hm => by simp (maxDischargeDepth := 40) [hm]) _ a1
  clear_value m1
  have a2 : Keeps C s0 s2.1 := keeps_each (fun z x hz => by simp (maxDischargeDepth := 40) [hz]) b1
  clear_value s2
  have a3 : Keeps C s0 s3.1 := keeps_each (fun z x hz => by simp (maxDischargeDepth := 40) [hz]) a2
  clear_value s3
  have a4 : Keeps C s0 s4.1 := keeps_each (fun z x hz => by simp (maxDischargeDepth := 40) [hz]) a3
  clear_value s4
  have a5 : Keeps C s0 s5.1 := keeps_each (fun z x hz => by simp (maxDischargeDepth := 40) [hz]) a4
  clear_value s5
  have a6 : Keeps C s0 s6.1 := keeps_each (fun z x hz => by simp (maxDischargeDepth := 40) [hz]) a5
  clear_value s6
  have a7 : Keeps C s0 s7.1 := keeps_each (fun z x hz => by simp (maxDischargeDepth := 40) [hz]) a6
  clear_value s7
  have a8 : Keeps C s0 s8.1 := keeps_each (fun z x hz => by simp (maxDischargeDepth := 40) [hz]) a7
  clear_value s8
  have b2 : Keeps C s0 m2 := by simp (maxDischargeDepth := 40) [m2, a8]
  clear_value m2
  have b3 : Keeps C s0 m3 := by simp (maxDischargeDepth := 40) [m3, b2]
  clear_value m3
  have b4 : Keeps C s0 m4 := by simp (maxDischargeDepth := 40) [m4, b3]
  clear_value m4
  simp (maxDischargeDepth := 40) [b4]

@[simp] theorem keeps_tumblerReset (m : State) (n : ℕ) (h : Keeps C s0 m) : Keeps C s0 (State.tumblerReset m n) :=
    by
  unfold State.tumblerReset
  (repeat' split) <;> simp (maxDischargeDepth := 40) +contextual [h, *]

@[simp] theorem keeps_controlState (m : State) (n : ℕ) (release : Bool) (h : Keeps C s0 m) : Keeps C s0
    (State.controlState m n release) := by
  unfold State.controlState
  extract_lets m1 m2 _ m3 m4 m5 m6 m7 m8 m9 m10 m11
  have h_m1 : Keeps C s0 m1 := by
    dsimp only [m1]
    (repeat' split) <;> simp (maxDischargeDepth := 40) +contextual [*]
  clear_value m1
  have h_m2 : Keeps C s0 m2 := by
    dsimp only [m2]
    (repeat' split) <;> simp (maxDischargeDepth := 40) +contextual [*]
  clear_value m2
  have h_m3 : Keeps C s0 m3 := by
    dsimp only [m3]
    (repeat' split) <;> simp (maxDischargeDepth := 40) +contextual [*]
  clear_value m3
  have h_m4 : Keeps C s0 m4 := by
    dsimp only [m4]
    (repeat' split) <;> simp (maxDischargeDepth := 40) +contextual [*]
  clear_value m4
  have h_m5 : Keeps C s0 m5 := by
    dsimp only [m5]
    (repeat' split) <;> simp (maxDischargeDepth := 40) +contextual [*]
  clear_value m5
  have h_m6 : Keeps C s0 m6 := by
    dsimp only [m6]
    (repeat' split) <;> simp (maxDischargeDepth := 40) +contextual [*]
  clear_value m6
  have h_m7 : Keeps C s0 m7 := by
    dsimp only [m7]
    (repeat' split) <;> simp (maxDischargeDepth := 40) +contextual [*]
  clear_value m7
  have h_m8 : Keeps C s0 m8 := by
    dsimp only [m8]
    (repeat' split) <;> simp (maxDischargeDepth := 40) +contextual [*]
  clear_value m8
  have h_m9 : Keeps C s0 m9 := by
    dsimp only [m9]
    (repeat' split) <;> simp (maxDischargeDepth := 40) +contextual [*]
  clear_value m9
  have h_m10 : Keeps C s0 m10 := by
    dsimp only [m10]
    (repeat' split) <;> simp (maxDischargeDepth := 40) +contextual [*]
  clear_value m10
  have h_m11 : Keeps C s0 m11 := by
    dsimp only [m11]
    (repeat' split) <;> simp (maxDischargeDepth := 40) +contextual [*]
  clear_value m11
  (repeat' split) <;> simp (maxDischargeDepth := 40) +contextual [*]

@[simp] theorem keeps_releaseRows (m : State) (n : ℕ) (h : Keeps C s0 m) : Keeps C s0 (State.releaseRows m n) := by
  unfold State.releaseRows
  (repeat' split) <;> simp (maxDischargeDepth := 40) +contextual [h, *]

@[simp] theorem keeps_releaseGrants (m : State) (n : ℕ) (h : Keeps C s0 m) : Keeps C s0 (State.releaseGrants m n) :=
    by
  unfold State.releaseGrants
  (repeat' split) <;> simp (maxDischargeDepth := 40) +contextual [h, *]

@[simp] theorem keeps_resetFinish (m : State) (n : ℕ) (h : Keeps C s0 m) : Keeps C s0 (State.resetFinish m n) := by
  unfold State.resetFinish
  (repeat' split) <;> simp (maxDischargeDepth := 40) +contextual [h, *]

@[simp] theorem keeps_stopQuad (m : State) (q : ℕ) (h : Keeps C s0 m) : Keeps C s0 (State.stopQuad m q).1 := by
  unfold State.stopQuad
  exact keeps_each (fun z x hz => by simp (maxDischargeDepth := 40) [hz]) h

@[simp] theorem keeps_rebuildLost (m : State) (n : ℕ) (t : ℕ) (h : Keeps C s0 m) : Keeps C s0 (State.rebuildLost m n t) := by
  unfold State.rebuildLost
  split <;> simp (maxDischargeDepth := 40) [h]

@[simp] theorem keeps_engineStop (m : State) (page : ℕ) (h : Keeps C s0 m) : Keeps C s0 (State.engineStop m page).1
    := by
  unfold State.engineStop
  split
  · exact keeps_each (fun z x hz => by simp (maxDischargeDepth := 40) [hz])
      (keeps_each (fun z x hz => by simp (maxDischargeDepth := 40) [hz]) h)
  · exact keeps_each (fun z x hz => by simp (maxDischargeDepth := 40) [hz]) (by simp (maxDischargeDepth := 40) [h])
  · dsimp only
    refine keeps_foldl (fun m n hm => by simp (maxDischargeDepth := 40) [hm]) _ (keeps_stopNorms _ _ ?_)
    exact keeps_each (fun z x hz => by simp (maxDischargeDepth := 40) [hz])
      (keeps_each (fun z x hz => by simp (maxDischargeDepth := 40) [hz]) h)
  · simp (maxDischargeDepth := 40) [h]
  · exact keeps_stopTongs _ _ _ _ _ (keeps_foldl (fun m n hm => by simp (maxDischargeDepth := 40) [hm]) _ h)
  · rename_i d _
    dsimp only
    have h1 : Keeps C s0 (m.stopMortar 2 (fun _ => true) d).1 := by simp (maxDischargeDepth := 40) [h]
    refine keeps_setFlag _ _ _ (keeps_setFld _ _ _ (keeps_setMortar _ _ _ ?_))
    exact h1.tables (fun hc => by simp (maxDischargeDepth := 40) [hc])
  · dsimp only
    split <;> simp (maxDischargeDepth := 40) [h]
  · exact h

@[simp] theorem keeps_engineReset (m : State) (page : ℕ) (h : Keeps C s0 m) : Keeps C s0 (State.engineReset m page)
    := by
  unfold State.engineReset
  extract_lets +onlyGivenNames s m1 m2
  have hs : Keeps C s0 s.1 := by simp (maxDischargeDepth := 40) [s, h]
  clear_value s
  have h1 : Keeps C s0 m1 := by simp (maxDischargeDepth := 40) [m1, hs]
  clear_value m1
  have h2 : Keeps C s0 m2 := keeps_setFlag _ _ _ (by simp (maxDischargeDepth := 40) [h1])
  clear_value m2
  simp (maxDischargeDepth := 40) [h2]

@[simp] theorem keeps_erstGo (m : State) (master : ℕ) (h : Keeps C s0 m) : Keeps C s0 (State.erstGo m master) := by
  simp (maxDischargeDepth := 40) [State.erstGo, h]

@[simp] theorem keeps_engineReady (m : State) (page : ℕ) (h : Keeps C s0 m) : Keeps C s0 (State.engineReady m page)
    := by
  unfold State.engineReady
  (repeat' split) <;> simp (maxDischargeDepth := 40) +contextual [h, *]

@[simp] theorem keeps_extendSlot (m : State) (i : ℕ) (data : List Byte) (h : Keeps C s0 m) : Keeps C s0
    (State.extendSlot m i data) := by
  unfold State.extendSlot
  (repeat' split) <;> simp (maxDischargeDepth := 40) +contextual [h, *]

@[simp] theorem keeps_enableTry (m : State) (n : ℕ) (h : Keeps C s0 m) : Keeps C s0 (State.enableTry m n) := by
  unfold State.enableTry
  (repeat' split) <;> simp (maxDischargeDepth := 40) +contextual [h, *]

@[simp] theorem keeps_execStationResetFinish (n : Stn) (s : State) (h : Keeps C s0 s) : KeepsOut C s0
    (execStationResetFinish n s) := by
  simp (maxDischargeDepth := 40) [execStationResetFinish, h]

@[simp] theorem keeps_execEngineReady (page : Fin 155) (s : State) (h : Keeps C s0 s) : KeepsOut C s0
    (execEngineReady page s) := by
  simp (maxDischargeDepth := 40) [execEngineReady, h]

end Sys2Proof.Machine
end

