-- ==== Sys2Proof/Laws/KeepsMargin.lean ====
section
/-! SUPPORT. What the operations of Machine/Margin keep: the queue, the versions in the fuses, and the canonical tables. -/

namespace Sys2Proof.Machine

variable {C : Prop} {s0 : State}

@[simp] theorem keeps_irqHost (m : State) (v : ℕ) (h : Keeps C s0 m) : Keeps C s0 (State.irqHost m v) := by
  simp (maxDischargeDepth := 40) [State.irqHost, h]

@[simp] theorem keeps_irqCore (m : State) (c : ℕ) (h : Keeps C s0 m) : Keeps C s0 (State.irqCore m c) := by
  simp (maxDischargeDepth := 40) [State.irqCore, h]

@[simp] theorem keeps_ringNow (m : State) (master : ℕ) (page : ℕ) (n : ℕ) (v : ℕ) (h : Keeps C s0 m) : Keeps C s0
    (State.ringNow m master page n v) := by
  unfold State.ringNow
  (repeat' split) <;> simp (maxDischargeDepth := 40) [h]

@[simp] theorem keeps_ring (m : State) (master : ℕ) (page : ℕ) (n : ℕ) (v : ℕ) (h : Keeps C s0 m) : Keeps C s0
    (State.ring m master page n v) := by
  simp (maxDischargeDepth := 40) [State.ring, h]

@[simp] theorem keeps_marginGo (m : State) (h : Keeps C s0 m) : Keeps C s0 (State.marginGo m) := by
  simp (maxDischargeDepth := 40) [State.marginGo, h]

@[simp] theorem keeps_marginOver (m : State) (result : ℕ) (h : Keeps C s0 m) : Keeps C s0 (State.marginOver m
    result) := by
  unfold State.marginOver
  (repeat' split) <;> simp (maxDischargeDepth := 40) +contextual [h, *]

@[simp] theorem keeps_marginEnd (m : State) (h : Keeps C s0 m) : Keeps C s0 (State.marginEnd m) := by
  simp (maxDischargeDepth := 40) [State.marginEnd, h]

@[simp] theorem keeps_testSlice (m : State) (page : ℕ) (pass : Bool) (h : Keeps C s0 m) : Keeps C s0
    (State.testSlice m page pass) := by
  unfold State.testSlice
  (repeat' split) <;> simp (maxDischargeDepth := 40) [h]

@[simp] theorem keeps_execMarginTestEnd (s : State) (h : Keeps C s0 s) : KeepsOut C s0 (execMarginTestEnd s) := by
  simp (maxDischargeDepth := 40) [execMarginTestEnd, h]

@[simp] theorem keeps_execSelfTestSlice (page : Fin 155) (pass : Bool) (s : State) (h : Keeps C s0 s) : KeepsOut C
    s0 (execSelfTestSlice page pass s) := by
  simp (maxDischargeDepth := 40) [execSelfTestSlice, h]

end Sys2Proof.Machine
end

