-- ==== Sys2Proof/Laws/KeepsPower.lean ====
section
/-! SUPPORT. What the operations of Machine/Power keep: the queue, the versions in the fuses, and the canonical tables. -/

namespace Sys2Proof.Machine

variable {C : Prop} {s0 : State}

@[simp] theorem keeps_losePower (m : State) (h : Keeps C s0 m) : Keeps C s0 (State.losePower m) := by
  unfold State.losePower
  dsimp only
  refine keeps_setFld _ _ _ (keeps_setFlag _ _ _ ?_)
  exact h.tables (fun hc => by simp (maxDischargeDepth := 40) [hc])

@[simp] theorem keeps_enterSafe (m : State) (code : ℕ) (h : Keeps C s0 m) : Keeps C s0 (State.enterSafe m code) :=
    by
  unfold State.enterSafe
  (repeat' split) <;> simp (maxDischargeDepth := 40) +contextual [h, *]

@[simp] theorem keeps_setVin (m : State) (dv : ℕ) (h : Keeps C s0 m) : Keeps C s0 (State.setVin m dv) := by
  simp (maxDischargeDepth := 40) [State.setVin, h]

@[simp] theorem keeps_throttle (m : State) (watts : ℕ) (mean : ℕ) (h : Keeps C s0 m) : Keeps C s0 (State.throttle m
    watts mean) := by
  unfold State.throttle
  extract_lets a1 a2 a3 a4 a5 a6 a7 a8 a9 m1 m2
  clear_value a1
  clear_value a2
  clear_value a3
  clear_value a4
  clear_value a5
  clear_value a6
  clear_value a7
  clear_value a8
  clear_value a9
  have h_m1 : Keeps C s0 m1 := by
    dsimp only [m1]
    (repeat' split) <;> simp (maxDischargeDepth := 40) +contextual [*]
  clear_value m1
  have h_m2 : Keeps C s0 m2 := by
    dsimp only [m2]
    (repeat' split) <;> simp (maxDischargeDepth := 40) +contextual [*]
  clear_value m2
  (repeat' split) <;> simp (maxDischargeDepth := 40) +contextual [*]

@[simp] theorem keeps_stageTrip (m : State) (k : ℕ) (inj : Bool) (h : Keeps C s0 m) : Keeps C s0 (State.stageTrip m
    k inj) := by
  simp (maxDischargeDepth := 40) [State.stageTrip, h]

@[simp] theorem keeps_powerSample (m : State) (watts : ℕ) (mean : ℕ) (ma : ℕ) (dv : ℕ) (h : Keeps C s0 m) : Keeps C
    s0 (State.powerSample m watts mean ma dv) := by
  simp (maxDischargeDepth := 40) [State.powerSample, h]

@[simp] theorem keeps_thermWarn (m : State) (inj : Bool) (h : Keeps C s0 m) : Keeps C s0 (State.thermWarn m inj) :=
    by
  simp (maxDischargeDepth := 40) [State.thermWarn, h]

@[simp] theorem keeps_thermalSample (m : State) (tj : List ℕ) (thbm : List ℕ) (h : Keeps C s0 m) : Keeps C s0
    (State.thermalSample m tj thbm) := by
  unfold State.thermalSample; (try dsimp only); (repeat' split) <;> (simp (maxDischargeDepth := 40) +contextual [h, *])

@[simp] theorem keeps_limitRaise (m : State) (h : Keeps C s0 m) : Keeps C s0 (State.limitRaise m) := by
  simp (maxDischargeDepth := 40) [State.limitRaise, h]

@[simp] theorem keeps_setCool (m : State) (b : Bool) (h : Keeps C s0 m) : Keeps C s0 (State.setCool m b) := by
  simp (maxDischargeDepth := 40) [State.setCool, h]

@[simp] theorem keeps_coolLow (m : State) (h : Keeps C s0 m) : Keeps C s0 (State.coolLow m) := by
  simp (maxDischargeDepth := 40) [State.coolLow, h]

@[simp] theorem keeps_coolFalls (m : State) (h : Keeps C s0 m) : Keeps C s0 (State.coolFalls m) := by
  simp (maxDischargeDepth := 40) [State.coolFalls, h]

@[simp] theorem keeps_overcurrent (m : State) (k : ℕ) (h : Keeps C s0 m) : Keeps C s0 (State.overcurrent m k) := by
  simp (maxDischargeDepth := 40) [State.overcurrent, h]

@[simp] theorem keeps_inputOut (m : State) (dv : ℕ) (h : Keeps C s0 m) : Keeps C s0 (State.inputOut m dv) := by
  simp (maxDischargeDepth := 40) [State.inputOut, h]

@[simp] theorem keeps_computeWrite (m : State) (master : ℕ) (v : ℕ) (h : Keeps C s0 m) : Keeps C s0
    (State.computeWrite m master v) := by
  simp (maxDischargeDepth := 40) [State.computeWrite, h]

@[simp] theorem keeps_computeGood (m : State) (failed : List ℕ) (h : Keeps C s0 m) : Keeps C s0 (State.computeGood m
    failed) := by
  unfold State.computeGood
  (repeat' split) <;> simp (maxDischargeDepth := 40) +contextual [h, *]

@[simp] theorem keeps_execPowerSample (watts : ℕ) (mean1ms : ℕ) (milliamps : ℕ) (decivolts : ℕ) (s : State) (h :
    Keeps C s0 s) : KeepsOut C s0 (execPowerSample watts mean1ms milliamps decivolts s) := by
  simp (maxDischargeDepth := 40) [execPowerSample, h]

@[simp] theorem keeps_execThermalSample (tj : List ℕ) (thbm : List ℕ) (s : State) (h : Keeps C s0 s) : KeepsOut C s0
    (execThermalSample tj thbm s) := by
  simp (maxDischargeDepth := 40) [execThermalSample, h]

@[simp] theorem keeps_execClockLimitRaise (s : State) (h : Keeps C s0 s) : KeepsOut C s0 (execClockLimitRaise s) :=
    by
  simp (maxDischargeDepth := 40) [execClockLimitRaise, h]

@[simp] theorem keeps_execCoolOkLow (s : State) (h : Keeps C s0 s) : KeepsOut C s0 (execCoolOkLow s) := by
  simp (maxDischargeDepth := 40) [execCoolOkLow, h]

@[simp] theorem keeps_execCoolOkFalls (s : State) (h : Keeps C s0 s) : KeepsOut C s0 (execCoolOkFalls s) := by
  simp (maxDischargeDepth := 40) [execCoolOkFalls, h]

@[simp] theorem keeps_execOvercurrent (k : Fin 8) (s : State) (h : Keeps C s0 s) : KeepsOut C s0 (execOvercurrent k
    s) := by
  simp (maxDischargeDepth := 40) [execOvercurrent, h]

@[simp] theorem keeps_execInputExcursion (decivolts : ℕ) (s : State) (h : Keeps C s0 s) : KeepsOut C s0
    (execInputExcursion decivolts s) := by
  simp (maxDischargeDepth := 40) [execInputExcursion, h]

@[simp] theorem keeps_execComputeGood (failed : List Stack) (s : State) (h : Keeps C s0 s) : KeepsOut C s0
    (execComputeGood failed s) := by
  simp (maxDischargeDepth := 40) [execComputeGood, h]

end Sys2Proof.Machine
end

