-- ==== Sys2Proof/Laws/KeepsBolt.lean ====
section
/-! SUPPORT. What the operations of Machine/Bolt keep: the queue, the versions in the fuses, and the canonical tables. -/

namespace Sys2Proof.Machine

variable {C : Prop} {s0 : State}

@[simp] theorem keeps_alertDrive (m : State) (h : Keeps C s0 m) : Keeps C s0 (State.alertDrive m) := by
  simp (maxDischargeDepth := 40) [State.alertDrive, h]

@[simp] theorem keeps_alertRelease (m : State) (h : Keeps C s0 m) : Keeps C s0 (State.alertRelease m) := by
  simp (maxDischargeDepth := 40) [State.alertRelease, h]

@[simp] theorem keeps_alertAct (m : State) (h : Keeps C s0 m) : Keeps C s0 (State.alertAct m) := by
  simp (maxDischargeDepth := 40) [State.alertAct, h]

@[simp] theorem keeps_pendClear (m : State) (h : Keeps C s0 m) : Keeps C s0 (State.pendClear m) := by
  simp (maxDischargeDepth := 40) [State.pendClear, h]

@[simp] theorem keeps_alertMinEnd (m : State) (h : Keeps C s0 m) : Keeps C s0 (State.alertMinEnd m) := by
  simp (maxDischargeDepth := 40) [State.alertMinEnd, h]

@[simp] theorem keeps_alertHighEnd (m : State) (h : Keeps C s0 m) : Keeps C s0 (State.alertHighEnd m) := by
  simp (maxDischargeDepth := 40) [State.alertHighEnd, h]

@[simp] theorem keeps_setSevere (m : State) (src : ℕ) (h : Keeps C s0 m) : Keeps C s0 (State.setSevere m src) := by
  unfold State.setSevere
  (repeat' split) <;> simp (maxDischargeDepth := 40) +contextual [h, *]

@[simp] theorem keeps_classify (m : State) (e : Event) (h : Keeps C s0 m) : Keeps C s0 (State.classify m e) := by
  simp (maxDischargeDepth := 40) [State.classify, h]

@[simp] theorem keeps_severeClear (m : State) (j : ℕ) (v : ℕ) (h : Keeps C s0 m) : Keeps C s0 (State.severeClear m j
    v) := by
  simp (maxDischargeDepth := 40) [State.severeClear, h]

@[simp] theorem keeps_logEvent (m : State) (e : Event) (h : Keeps C s0 m) : Keeps C s0 (State.logEvent m e) := by
  simp (maxDischargeDepth := 40) [State.logEvent, h]

@[simp] theorem keeps_portOff (m : State) (p : ℕ) (h : Keeps C s0 m) : Keeps C s0 (State.portOff m p) := by
  simp (maxDischargeDepth := 40) [State.portOff, h]

@[simp] theorem keeps_react (m : State) (e : Event) (mask : ℕ) (h : Keeps C s0 m) : Keeps C s0 (State.react m e
    mask) := by
  unfold State.react
  extract_lets on m1 m2 m3 m4 m5 m6 m7
  clear_value on
  have h_m1 : Keeps C s0 m1 := by
    dsimp only [m1]
    (repeat' split) <;> simp (maxDischargeDepth := 40) +contextual [*]
  clear_value m1
  have h_m2 : Keeps C s0 m2 := by
    dsimp only [m2]
    (repeat' split) <;> simp (maxDischargeDepth := 40) +contextual [*]
  clear_value m2
  have h_m3 : Keeps C s0 m3 := by
    dsimp only [m3]
    (repeat' split) <;> simp (maxDischargeDepth := 40) +contextual [*]
  clear_value m3
  have h_m4 : Keeps C s0 m4 := by
    dsimp only [m4]
    (repeat' split) <;> simp (maxDischargeDepth := 40) +contextual [*]
  clear_value m4
  have h_m5 : Keeps C s0 m5 := by
    dsimp only [m5]
    (repeat' split) <;> simp (maxDischargeDepth := 40) +contextual [*]
  clear_value m5
  have h_m6 : Keeps C s0 m6 := by
    dsimp only [m6]
    (repeat' split) <;> simp (maxDischargeDepth := 40) +contextual [*]
  clear_value m6
  have h_m7 : Keeps C s0 m7 := by
    dsimp only [m7]
    (repeat' split) <;> simp (maxDischargeDepth := 40) +contextual [*]
  clear_value m7
  (repeat' split) <;> simp (maxDischargeDepth := 40) +contextual [*]

@[simp] theorem keeps_takeEvent (m : State) (e : Event) (h : Keeps C s0 m) : Keeps C s0 (State.takeEvent m e) := by
  unfold State.takeEvent
  (repeat' split) <;> simp (maxDischargeDepth := 40) [h]

@[simp] theorem keeps_boltEvent (m : State) (h : Keeps C s0 m) : Keeps C s0 (State.boltEvent m) := by
  unfold State.boltEvent
  (repeat' split) <;> simp (maxDischargeDepth := 40) [h]

@[simp] theorem keeps_execBoltEvent (s : State) (h : Keeps C s0 s) : KeepsOut C s0 (execBoltEvent s) := by
  simp (maxDischargeDepth := 40) [execBoltEvent, h]

@[simp] theorem keeps_execAlertMinTime (s : State) (h : Keeps C s0 s) : KeepsOut C s0 (execAlertMinTime s) := by
  simp (maxDischargeDepth := 40) [execAlertMinTime, h]

@[simp] theorem keeps_execAlertReleaseMinTime (s : State) (h : Keeps C s0 s) : KeepsOut C s0
    (execAlertReleaseMinTime s) := by
  simp (maxDischargeDepth := 40) [execAlertReleaseMinTime, h]

end Sys2Proof.Machine
end

