-- ==== Sys2Proof/Laws/KeepsFirmware.lean ====
section
/-! SUPPORT. What the operations of Machine/Firmware keep: the queue, the versions in the fuses, and the canonical tables. -/

namespace Sys2Proof.Machine

variable {C : Prop} {s0 : State}

@[simp] theorem keeps_memFrom (m : State) (a : ℕ) (n : ℕ) (src : SMap Byte) (o : ℕ) (hs : C → SMap.wf memZero src =
    true) (h : Keeps C s0 m) : Keeps C s0 (State.memFrom m a n src o) := by
  unfold State.memFrom
  exact ⟨h.1, h.2.1, fun c => by
    obtain ⟨h1, h2, h3, h4, h5, h6, h7, h8⟩ := h.2.2 c
    exact ⟨wf_byte_splice _ _ h1 (wf_byte_slice _ _ (hs c)), h2, h3, h4, h5, h6, h7, h8⟩⟩

@[simp] theorem keeps_startService (m : State) (a0 : ℕ) (h : Keeps C s0 m) : Keeps C s0 (State.startService m a0) :=
    by
  simp (maxDischargeDepth := 40) [State.startService, h]

@[simp] theorem keeps_loadService (m : State) (b : Bool) (h : Keeps C s0 m) : Keeps C s0 (State.loadService m b) :=
    by
  unfold State.loadService
  extract_lets +onlyGivenNames o f m1 m2
  have h1 : Keeps C s0 m1 := keeps_memFrom _ _ _ _ _ (fun c => wf_byte_slice _ _ (h.flash c)) h
  clear_value m1
  have h2 : Keeps C s0 m2 := by simp (maxDischargeDepth := 40) [m2, h1]
  clear_value m2
  simp (maxDischargeDepth := 40) [h2]

@[simp] theorem keeps_bootService (m : State) (h : Keeps C s0 m) : Keeps C s0 (State.bootService m) := by
  unfold State.bootService
  dsimp only
  (repeat' split) <;> simp (maxDischargeDepth := 40) [h]

@[simp] theorem keeps_enterTrusted (m : State) (f : Manifest) (h : Keeps C s0 m) : Keeps C s0 (State.enterTrusted m
    f) := by
  simp (maxDischargeDepth := 40) [State.enterTrusted, h]

@[simp] theorem keeps_boot (m : State) (h : Keeps C s0 m) : Keeps C s0 (State.boot m) := by
  unfold State.boot
  extract_lets +onlyGivenNames m0 a pick
  have h0 : Keeps C s0 m0 := by simp (maxDischargeDepth := 40) [m0, h]
  clear_value m0
  generalize pick = k
  cases k with
  | none => simp (maxDischargeDepth := 40) [h0]
  | some b =>
    dsimp -zeta only
    extract_lets +onlyGivenNames o f m1
    have h1 : Keeps C s0 m1 := keeps_memFrom _ _ _ _ _ (fun c => wf_byte_slice _ _ (h0.flash c)) h0
    clear_value m1
    simp (maxDischargeDepth := 40) [h1]

@[simp] theorem keeps_moduleReset (m : State) (h : Keeps C s0 m) : Keeps C s0 (State.moduleReset m) := by
  unfold State.moduleReset
  exact ⟨h.1, h.2.1, fun c => by
    obtain ⟨h1, h2, h3, h4, h5, h6, h7, h8⟩ := h.2.2 c
    simp (maxDischargeDepth := 40) [State.resetWith, h5]⟩

@[simp] theorem keeps_restartModule (m : State) (h : Keeps C s0 m) : Keeps C s0 (State.restartModule m) := by
  simp (maxDischargeDepth := 40) [State.restartModule, h]

@[simp] theorem keeps_standbyGood (m : State) (h : Keeps C s0 m) : Keeps C s0 (State.standbyGood m) := by
  simp (maxDischargeDepth := 40) [State.standbyGood, h]

@[simp] theorem keeps_standbyStop (m : State) (h : Keeps C s0 m) : Keeps C s0 (State.standbyStop m) := by
  simp (maxDischargeDepth := 40) [State.standbyStop, h]

@[simp] theorem keeps_modRstLow (m : State) (h : Keeps C s0 m) : Keeps C s0 (State.modRstLow m) := by
  simp (maxDischargeDepth := 40) [State.modRstLow, h]

@[simp] theorem keeps_modRstHigh (m : State) (h : Keeps C s0 m) : Keeps C s0 (State.modRstHigh m) := by
  simp (maxDischargeDepth := 40) [State.modRstHigh, h]

@[simp] theorem keeps_mboxEnd (m : State) (b : ℕ) (st : ℕ) (h : Keeps C s0 m) : Keeps C s0 (State.mboxEnd m b st) :=
    by
  simp (maxDischargeDepth := 40) [State.mboxEnd, h]

@[simp] theorem keeps_mboxSubmit (m : State) (master : Master) (b : ℕ) (cmd : ℕ) (h : Keeps C s0 m) : Keeps C s0
    (State.mboxSubmit m master b cmd) := by
  simp (maxDischargeDepth := 40) [State.mboxSubmit, h]

@[simp] theorem keeps_mbox (m : State) (master : Master) (b : ℕ) (cmd : ℕ) (k : State → State) (hk : ∀ (z4_0 :
    State), Keeps C s0 z4_0 → Keeps C s0 (k z4_0)) (h : Keeps C s0 m) : Keeps C s0 (State.mbox m master b cmd k) :=
    by
  simp (maxDischargeDepth := 40) [State.mbox, h, hk]

@[simp] theorem keeps_quote (m : State) (master : Master) (b : ℕ) (sig : List Byte) (h : Keeps C s0 m) : Keeps C s0
    (State.quote m master b sig) := by
  unfold State.quote
  (repeat' split) <;> simp (maxDischargeDepth := 40) +contextual [h, *]

@[simp] theorem keeps_extend (m : State) (master : Master) (h : Keeps C s0 m) : Keeps C s0 (State.extend m master)
    := by
  unfold State.extend
  (repeat' split) <;> simp (maxDischargeDepth := 40) +contextual [h, *]

@[simp] theorem keeps_stageLoad (m : State) (master : Master) (ok : Bool) (h : Keeps C s0 m) : Keeps C s0
    (State.stageLoad m master ok) := by
  unfold State.stageLoad
  refine keeps_mbox _ _ _ _ _ (fun m h => ?_) h
  extract_lets +onlyGivenNames w n
  refine keeps_ite_intro ?_ (keeps_ite_intro (by simp (maxDischargeDepth := 40) [h]) (keeps_ite_intro (by simp (maxDischargeDepth := 40) [h]) ?_))
  · exact keeps_mboxEnd _ _ _ (keeps_foldl (fun m k hm => by simp (maxDischargeDepth := 40) [hm]) _ h)
  · extract_lets +onlyGivenNames f m1
    have h1 : Keeps C s0 m1 := keeps_memFrom _ _ _ _ _ (fun c => wf_byte_slice _ _ (h.mem c)) h
    clear_value m1
    simp (maxDischargeDepth := 40) [h1]

@[simp] theorem keeps_activateT (m : State) (master : Master) (h : Keeps C s0 m) : Keeps C s0 (State.activateT m
    master) := by
  unfold State.activateT
  refine keeps_mbox _ _ _ _ _ (fun m h => ?_) h
  split
  · refine keeps_mboxEnd _ _ _ ?_
    exact ⟨h.1, h.2.1, h.2.2⟩
  · simp (maxDischargeDepth := 40) [h]

@[simp] theorem keeps_setSucc (m : State) (master : Master) (h : Keeps C s0 m) : Keeps C s0 (State.setSucc m master)
    := by
  unfold State.setSucc
  (repeat' split) <;> simp (maxDischargeDepth := 40) +contextual [h, *]

@[simp] theorem keeps_svnCommit (m : State) (master : Master) (h : Keeps C s0 m) : Keeps C s0 (State.svnCommit m
    master) := by
  unfold State.svnCommit
  refine keeps_mbox _ _ _ _ _ (fun m h => ?_) h
  split
  · refine keeps_mboxEnd _ _ _ ?_
    exact ⟨h.1, ⟨le_trans h.2.1.1 (le_max_left _ _), le_trans h.2.1.2.1 (le_max_left _ _), h.2.1.2.2⟩, h.2.2⟩
  · simp (maxDischargeDepth := 40) [h]

@[simp] theorem keeps_handover (m : State) (master : Master) (h : Keeps C s0 m) : Keeps C s0 (State.handover m
    master) := by
  unfold State.handover
  (try dsimp only)
  repeat' (first | assumption | (intro _) | split | with_reducible apply keeps_mbox | with_reducible apply keeps_foldl | with_reducible apply keeps_foldl_fst | with_reducible apply keeps_foldl_snd | (simp (maxDischargeDepth := 40) +contextual [*]; done) | simp (maxDischargeDepth := 40) +contextual only [keeps_mk, keepsCore_fold, keeps_ite, *])

@[simp] theorem keeps_hoLoad (m : State) (valid : Bool) (stat : ℕ) (h : Keeps C s0 m) : Keeps C s0 (State.hoLoad m
    valid stat) := by
  unfold State.hoLoad
  extract_lets +onlyGivenNames m1 m2
  have h1 : Keeps C s0 m1 := by simp (maxDischargeDepth := 40) [m1, h]
  clear_value m1
  have h2 : Keeps C s0 m2 := by
    dsimp only [m2]
    exact h1.tables (fun hc => by simp (maxDischargeDepth := 40) [hc])
  clear_value m2
  simp (maxDischargeDepth := 40) [h2]

@[simp] theorem keeps_hoReady (m : State) (h : Keeps C s0 m) : Keeps C s0 (State.hoReady m) := by
  simp (maxDischargeDepth := 40) [State.hoReady, h]

@[simp] theorem keeps_svcReady (m : State) (h : Keeps C s0 m) : Keeps C s0 (State.svcReady m) := by
  unfold State.svcReady
  dsimp only
  split
  · refine keeps_setFld _ _ _ (keeps_setFld _ _ _ ?_)
    exact ⟨h.1, h.2.1, h.2.2⟩
  · exact h

@[simp] theorem keeps_hoRollback (m : State) (h : Keeps C s0 m) : Keeps C s0 (State.hoRollback m) := by
  unfold State.hoRollback
  extract_lets +onlyGivenNames m1 m2
  have h1 : Keeps C s0 m1 := keeps_memFrom _ _ _ _ _ h.hoSave h
  clear_value m1
  have h2 : Keeps C s0 (m2.setFld Reg.fw_HO_STAT 6) := by simp (maxDischargeDepth := 40) [m2, h1]
  clear_value m2
  exact h2

@[simp] theorem keeps_hoTimeout (m : State) (h : Keeps C s0 m) : Keeps C s0 (State.hoTimeout m) := by
  simp (maxDischargeDepth := 40) [State.hoTimeout, h]

@[simp] theorem keeps_trapLimit (m : State) (h : Keeps C s0 m) : Keeps C s0 (State.trapLimit m) := by
  simp (maxDischargeDepth := 40) [State.trapLimit, h]

@[simp] theorem keeps_fwSend (m : State) (node : ℕ) (kind : ℕ) (session : ℕ) (index : ℕ) (payload : List Byte) (h :
    Keeps C s0 m) : Keeps C s0 (State.fwSend m node kind session index payload) := by
  simp (maxDischargeDepth := 40) [State.fwSend, h]

@[simp] theorem keeps_markInvalid (m : State) (kind : ℕ) (bad : Bool) (h : Keeps C s0 m) : Keeps C s0
    (State.markInvalid m kind bad) := by
  unfold State.markInvalid
  exact ⟨h.1, h.2.1, h.2.2⟩

@[simp] theorem keeps_fwDone (m : State) (node : ℕ) (session : ℕ) (st : ℕ) (h : Keeps C s0 m) : Keeps C s0
    (State.fwDone m node session st) := by
  simp (maxDischargeDepth := 40) [State.fwDone, h]

@[simp] theorem keeps_sessionOpen (m : State) (s : Session) (manifest : List Byte) (h : Keeps C s0 m) : Keeps C s0
    (State.sessionOpen m s manifest) := by
  unfold State.sessionOpen
  (repeat' split) <;> simp (maxDischargeDepth := 40) +contextual [h, *]

@[simp] theorem keeps_fwForward (x0 : ℕ) (x1 : State) (h : Keeps C s0 x1) : Keeps C s0 (State.fwForward x0 x1) := by
  induction x0 generalizing x1 with
  | zero => exact h
  | succ k ih =>
    unfold State.fwForward
    split
    · exact h
    · refine keeps_ite_intro (ih _ ?_) h
      exact keeps_foldl (fun m k hm => by simp (maxDischargeDepth := 40) [hm]) _ h

@[simp] theorem keeps_sessionEnd (m : State) (s : Session) (h : Keeps C s0 m) : Keeps C s0 (State.sessionEnd m s) :=
    by
  simp (maxDischargeDepth := 40) [State.sessionEnd, h]

@[simp] theorem keeps_sessionTry (m : State) (h : Keeps C s0 m) : Keeps C s0 (State.sessionTry m) := by
  unfold State.sessionTry
  (repeat' split) <;> simp (maxDischargeDepth := 40) [h]

@[simp] theorem keeps_fwManifest (m : State) (f : Flit) (p : ℕ) (sig : Bool) (h : Keeps C s0 m) : Keeps C s0
    (State.fwManifest m f p sig) := by
  unfold State.fwManifest
  (repeat' split) <;> simp (maxDischargeDepth := 40) [h]

@[simp] theorem keeps_fwChunk (m : State) (f : Flit) (h : Keeps C s0 m) : Keeps C s0 (State.fwChunk m f) := by
  unfold State.fwChunk
  (repeat' split) <;> simp (maxDischargeDepth := 40) [h]

@[simp] theorem keeps_fwNak (m : State) (f : Flit) (h : Keeps C s0 m) : Keeps C s0 (State.fwNak m f) := by
  unfold State.fwNak
  (repeat' split) <;> simp (maxDischargeDepth := 40) [h]

@[simp] theorem keeps_fwDoneIn (m : State) (f : Flit) (h : Keeps C s0 m) : Keeps C s0 (State.fwDoneIn m f) := by
  unfold State.fwDoneIn
  (repeat' split) <;> simp (maxDischargeDepth := 40) [h]

@[simp] theorem keeps_chunkMissing (m : State) (h : Keeps C s0 m) : Keeps C s0 (State.chunkMissing m) := by
  unfold State.chunkMissing
  (repeat' split) <;> simp (maxDischargeDepth := 40) [h]

@[simp] theorem keeps_flashVerify (m : State) (progOk : Bool) (h : Keeps C s0 m) : Keeps C s0 (State.flashVerify m
    progOk) := by
  unfold State.flashVerify
  split
  · exact h
  · rename_i s hs
    refine keeps_ite_intro h ?_
    extract_lets +onlyGivenNames t b o m1 ok m3 m4 m2
    have h1 : Keeps C s0 m1 := by
      dsimp only [m1]
      exact h.tables (fun hc => by simp (maxDischargeDepth := 40) [hc])
    clear_value m1
    have h3 : Keeps C s0 (m1.markInvalid s.kind false) := keeps_markInvalid _ _ _ h1
    have h2 : Keeps C s0 m2 := by
      dsimp only [m2]
      have h4 : Keeps C s0 m4 := keeps_ite_intro h3 h3
      (repeat' split) <;> first | exact h | exact h1 | exact h4
    clear_value m2
    exact keeps_sessionTry _ h2

@[simp] theorem keeps_updTimeout (m : State) (h : Keeps C s0 m) : Keeps C s0 (State.updTimeout m) := by
  unfold State.updTimeout
  (repeat' split) <;> simp (maxDischargeDepth := 40) [h]

@[simp] theorem keeps_startChain (m : State) (master : Master) (h : Keeps C s0 m) : Keeps C s0 (State.startChain m
    master) := by
  unfold State.startChain
  (repeat' split) <;> simp (maxDischargeDepth := 40) +contextual [h, *]

@[simp] theorem keeps_onFwImg (m : State) (p : ℕ) (f : Flit) (kind : ℕ) (k : State → State) (hk : ∀ (z4_0 : State),
    Keeps C s0 z4_0 → Keeps C s0 (k z4_0)) (h : Keeps C s0 m) : Keeps C s0 (State.onFwImg m p f kind k) := by
  unfold State.onFwImg
  (repeat' split) <;> simp (maxDischargeDepth := 40) +contextual [h, hk, *]

@[simp] theorem keeps_execStandbyPowerGood (s : State) (h : Keeps C s0 s) : KeepsOut C s0 (execStandbyPowerGood s)
    := by
  simp (maxDischargeDepth := 40) [execStandbyPowerGood, h]

@[simp] theorem keeps_execStandbyConverterStop (s : State) (h : Keeps C s0 s) : KeepsOut C s0
    (execStandbyConverterStop s) := by
  simp (maxDischargeDepth := 40) [execStandbyConverterStop, h]

@[simp] theorem keeps_execModRstN (s : State) (h : Keeps C s0 s) : KeepsOut C s0 (execModRstN s) := by
  simp (maxDischargeDepth := 40) [execModRstN, h]

@[simp] theorem keeps_execModRstNRelease (s : State) (h : Keeps C s0 s) : KeepsOut C s0 (execModRstNRelease s) := by
  simp (maxDischargeDepth := 40) [execModRstNRelease, h]

@[simp] theorem keeps_execQuote (m : Master) (mb : Fin 9) (sig : List Byte) (s : State) (h : Keeps C s0 s) :
    KeepsOut C s0 (execQuote m mb sig s) := by
  simp (maxDischargeDepth := 40) [execQuote, h]

@[simp] theorem keeps_execExtend (m : Master) (s : State) (h : Keeps C s0 s) : KeepsOut C s0 (execExtend m s) := by
  simp (maxDischargeDepth := 40) [execExtend, h]

@[simp] theorem keeps_execStageLoad (m : Master) (ok : Bool) (s : State) (h : Keeps C s0 s) : KeepsOut C s0
    (execStageLoad m ok s) := by
  simp (maxDischargeDepth := 40) [execStageLoad, h]

@[simp] theorem keeps_execHandover (m : Master) (s : State) (h : Keeps C s0 s) : KeepsOut C s0 (execHandover m s) :=
    by
  simp (maxDischargeDepth := 40) [execHandover, h]

@[simp] theorem keeps_execHoReady (s : State) (h : Keeps C s0 s) : KeepsOut C s0 (execHoReady s) := by
  simp (maxDischargeDepth := 40) [execHoReady, h]

@[simp] theorem keeps_execSvcReady (s : State) (h : Keeps C s0 s) : KeepsOut C s0 (execSvcReady s) := by
  simp (maxDischargeDepth := 40) [execSvcReady, h]

@[simp] theorem keeps_execHoTmo (s : State) (h : Keeps C s0 s) : KeepsOut C s0 (execHoTmo s) := by
  simp (maxDischargeDepth := 40) [execHoTmo, h]

@[simp] theorem keeps_execTrapLimit (s : State) (h : Keeps C s0 s) : KeepsOut C s0 (execTrapLimit s) := by
  simp (maxDischargeDepth := 40) [execTrapLimit, h]

@[simp] theorem keeps_execActivateT (m : Master) (s : State) (h : Keeps C s0 s) : KeepsOut C s0 (execActivateT m s)
    := by
  simp (maxDischargeDepth := 40) [execActivateT, h]

@[simp] theorem keeps_execSetSucc (m : Master) (s : State) (h : Keeps C s0 s) : KeepsOut C s0 (execSetSucc m s) :=
    by
  simp (maxDischargeDepth := 40) [execSetSucc, h]

@[simp] theorem keeps_execStartChain (m : Master) (s : State) (h : Keeps C s0 s) : KeepsOut C s0 (execStartChain m
    s) := by
  simp (maxDischargeDepth := 40) [execStartChain, h]

@[simp] theorem keeps_execSvnCommit (m : Master) (s : State) (h : Keeps C s0 s) : KeepsOut C s0 (execSvnCommit m s)
    := by
  simp (maxDischargeDepth := 40) [execSvnCommit, h]

@[simp] theorem keeps_execFwManifest (p : Port) (f : Flit) (sigOk : Bool) (s : State) (h : Keeps C s0 s) : KeepsOut
    C s0 (execFwManifest p f sigOk s) := by
  unfold execFwManifest
  (repeat' split) <;> simp (maxDischargeDepth := 40) +contextual [h, *]

@[simp] theorem keeps_execFwChunk (p : Port) (f : Flit) (s : State) (h : Keeps C s0 s) : KeepsOut C s0 (execFwChunk
    p f s) := by
  unfold execFwChunk
  (repeat' split) <;> simp (maxDischargeDepth := 40) +contextual [h, *]

@[simp] theorem keeps_execFwNak (p : Port) (f : Flit) (s : State) (h : Keeps C s0 s) : KeepsOut C s0 (execFwNak p f
    s) := by
  unfold execFwNak
  (repeat' split) <;> simp (maxDischargeDepth := 40) +contextual [h, *]

@[simp] theorem keeps_execFwDone (p : Port) (f : Flit) (s : State) (h : Keeps C s0 s) : KeepsOut C s0 (execFwDone p
    f s) := by
  unfold execFwDone
  (repeat' split) <;> simp (maxDischargeDepth := 40) +contextual [h, *]

@[simp] theorem keeps_execChunkMissing (s : State) (h : Keeps C s0 s) : KeepsOut C s0 (execChunkMissing s) := by
  simp (maxDischargeDepth := 40) [execChunkMissing, h]

@[simp] theorem keeps_execFlashVerify (progOk : Bool) (s : State) (h : Keeps C s0 s) : KeepsOut C s0
    (execFlashVerify progOk s) := by
  simp (maxDischargeDepth := 40) [execFlashVerify, h]

@[simp] theorem keeps_execUpdTmo (s : State) (h : Keeps C s0 s) : KeepsOut C s0 (execUpdTmo s) := by
  simp (maxDischargeDepth := 40) [execUpdTmo, h]

end Sys2Proof.Machine
end

