-- ==== Sys2Proof/Laws/KeepsTime.lean ====
section
/-! SUPPORT. What the operations of Machine/Time keep: the queue, the versions in the fuses, and the canonical tables. -/

namespace Sys2Proof.Machine

variable {C : Prop} {s0 : State}

@[simp] theorem keeps_timeStep (m : State) (c : ℤ) (h : Keeps C s0 m) : Keeps C s0 (State.timeStep m c) := by
  simp (maxDischargeDepth := 40) [State.timeStep, h]

@[simp] theorem keeps_timeUnlock (m : State) (h : Keeps C s0 m) : Keeps C s0 (State.timeUnlock m) := by
  simp (maxDischargeDepth := 40) [State.timeUnlock, h]

@[simp] theorem keeps_timeCorrect (m : State) (c : ℤ) (h : Keeps C s0 m) : Keeps C s0 (State.timeCorrect m c) := by
  simp (maxDischargeDepth := 40) [State.timeCorrect, h]

@[simp] theorem keeps_timeOffset (m : State) (off : ℤ) (h : Keeps C s0 m) : Keeps C s0 (State.timeOffset m off) :=
    by
  simp (maxDischargeDepth := 40) [State.timeOffset, h]

@[simp] theorem keeps_ptpSend (m : State) (p : Nat) (bs : List Byte) (h : Keeps C s0 m) : Keeps C s0
    (State.ptpSend m p bs) := by
  unfold State.ptpSend
  dsimp only
  (repeat' split) <;> simp (maxDischargeDepth := 40) +contextual [h, *]

@[simp] theorem keeps_syncIn (m : State) (p : Nat) (bs : List Byte) (h : Keeps C s0 m) : Keeps C s0
    (State.syncIn m p bs) := by
  unfold State.syncIn
  exact keeps_ite_intro h (keeps_timeOffset _ _ h)

@[simp] theorem keeps_pdelayReqIn (m : State) (p : Nat) (bs : List Byte) (h : Keeps C s0 m) : Keeps C s0
    (State.pdelayReqIn m p bs) := by
  unfold State.pdelayReqIn
  dsimp only
  (repeat' split) <;> simp (maxDischargeDepth := 40) +contextual [h, *]

@[simp] theorem keeps_pdelayRespIn (m : State) (p : Nat) (bs : List Byte) (h : Keeps C s0 m) : Keeps C s0
    (State.pdelayRespIn m p bs) := by
  unfold State.pdelayRespIn
  dsimp only
  (repeat' split) <;> simp (maxDischargeDepth := 40) +contextual [h, *]

@[simp] theorem keeps_ptp (m : State) (p : ℕ) (f : Flit) (h : Keeps C s0 m) : Keeps C s0 (State.ptp m p f) := by
  unfold State.ptp
  refine keeps_onFlit _ _ _ _ _ (fun m hm => ?_) h
  exact keeps_ite_intro hm (keeps_ite_intro (keeps_syncIn _ _ _ hm) (keeps_ite_intro (keeps_pdelayReqIn _ _ _ hm)
    (keeps_ite_intro (keeps_pdelayRespIn _ _ _ hm) hm)))

@[simp] theorem keeps_syncLoss (m : State) (h : Keeps C s0 m) : Keeps C s0 (State.syncLoss m) := by
  simp (maxDischargeDepth := 40) [State.syncLoss, h]

@[simp] theorem keeps_syncInterval (m : State) (h : Keeps C s0 m) : Keeps C s0 (State.syncInterval m) := by
  unfold State.syncInterval
  (repeat' split) <;> simp (maxDischargeDepth := 40) +contextual [h, *]

@[simp] theorem keeps_ppsIn (m : State) (stamp : ℕ) (h : Keeps C s0 m) : Keeps C s0 (State.ppsIn m stamp) := by
  simp (maxDischargeDepth := 40) [State.ppsIn, h]

@[simp] theorem keeps_ppsLoss (m : State) (h : Keeps C s0 m) : Keeps C s0 (State.ppsLoss m) := by
  simp (maxDischargeDepth := 40) [State.ppsLoss, h]

@[simp] theorem keeps_headerLatch (m : State) (seq : ℕ) (h : Keeps C s0 m) : Keeps C s0 (State.headerLatch m seq) :=
    by
  unfold State.headerLatch
  (repeat' split) <;> simp (maxDischargeDepth := 40) +contextual [h, *]

@[simp] theorem keeps_latchNow (m : State) (h : Keeps C s0 m) : Keeps C s0 (State.latchNow m) := by
  simp (maxDischargeDepth := 40) [State.latchNow, h]

@[simp] theorem keeps_latch (m : State) (h : Keeps C s0 m) : Keeps C s0 (State.latch m) := by
  unfold State.latch
  (repeat' split) <;> simp (maxDischargeDepth := 40) [h]

@[simp] theorem keeps_snapArm (m : State) (h : Keeps C s0 m) : Keeps C s0 (State.snapArm m) := by
  simp (maxDischargeDepth := 40) [State.snapArm, h]

@[simp] theorem keeps_snapDue (m : State) (h : Keeps C s0 m) : Keeps C s0 (State.snapDue m) := by
  simp (maxDischargeDepth := 40) [State.snapDue, h]

@[simp] theorem keeps_snapPin (m : State) (h : Keeps C s0 m) : Keeps C s0 (State.snapPin m) := by
  simp (maxDischargeDepth := 40) [State.snapPin, h]

@[simp] theorem keeps_execPtp (p : Port) (f : Flit) (s : State) (h : Keeps C s0 s) : KeepsOut C s0 (execPtp p f s) := by
  simp (maxDischargeDepth := 40) [execPtp, h]

@[simp] theorem keeps_execSyncLoss (s : State) (h : Keeps C s0 s) : KeepsOut C s0 (execSyncLoss s) := by
  simp (maxDischargeDepth := 40) [execSyncLoss, h]

@[simp] theorem keeps_execSyncInterval (s : State) (h : Keeps C s0 s) : KeepsOut C s0 (execSyncInterval s) := by
  simp (maxDischargeDepth := 40) [execSyncInterval, h]

@[simp] theorem keeps_execPpsIn (stamp : ℕ) (s : State) (h : Keeps C s0 s) : KeepsOut C s0 (execPpsIn stamp s) := by
  simp (maxDischargeDepth := 40) [execPpsIn, h]

@[simp] theorem keeps_execPpsLoss (s : State) (h : Keeps C s0 s) : KeepsOut C s0 (execPpsLoss s) := by
  simp (maxDischargeDepth := 40) [execPpsLoss, h]

@[simp] theorem keeps_execSnapshotLatch (s : State) (h : Keeps C s0 s) : KeepsOut C s0 (execSnapshotLatch s) := by
  simp (maxDischargeDepth := 40) [execSnapshotLatch, h]

@[simp] theorem keeps_execSnapTrig (s : State) (h : Keeps C s0 s) : KeepsOut C s0 (execSnapTrig s) := by
  simp (maxDischargeDepth := 40) [execSnapTrig, h]

end Sys2Proof.Machine
end

