-- ==== Sys2Proof/Laws/KeepsRegisters.lean ====
section
/-! SUPPORT. What the operations of Machine/Registers keep: the queue, the versions in the fuses, and the canonical tables. -/

namespace Sys2Proof.Machine

variable {C : Prop} {s0 : State}

@[simp] theorem keeps_regRead (m : State) (who : Master) (off : ℕ) (h : Keeps C s0 m) : Keeps C s0 (State.regRead m
    who off).2 := by
  unfold State.regRead
  dsimp only
  (repeat' split) <;> simp (maxDischargeDepth := 40) [h]

end Sys2Proof.Machine
end

