-- ==== Sys2Proof/Laws/KeepsRegWrite.lean ====
section
/-! SUPPORT. What the operations of Machine/RegWrite keep: the queue, the versions in the fuses, and the canonical tables. -/

namespace Sys2Proof.Machine

variable {C : Prop} {s0 : State}

@[simp] theorem keeps_hdrWrite (m : State) (page : ℕ) (po : ℕ) (d : Draft) (h : Keeps C s0 m) : Keeps C s0
    (State.hdrWrite m page po d) := by
  simp (maxDischargeDepth := 40) [State.hdrWrite, h]

@[simp] theorem keeps_recore (m : State) (n : ℕ) (new : ℕ) (h : Keeps C s0 m) : Keeps C s0 (State.recore m n new) :=
    by
  unfold State.recore
  (repeat' split) <;> simp (maxDischargeDepth := 40) +contextual [h, *]

@[simp] theorem keeps_stnWrite (m : State) (n : ℕ) (k : ℕ) (d : Draft) (h : Keeps C s0 m) : Keeps C s0
    (State.stnWrite m n k d) := by
  simp (maxDischargeDepth := 40) [State.stnWrite, h]

@[simp] theorem keeps_sysWrite (m : State) (who : Master) (po : ℕ) (d : Draft) (h : Keeps C s0 m) : Keeps C s0
    (State.sysWrite m who po d) := by
  unfold State.sysWrite
  (repeat' split) <;> simp (maxDischargeDepth := 40) +contextual [h, *]

@[simp] theorem keeps_pwrWrite (m : State) (who : Master) (off : ℕ) (d : Draft) (h : Keeps C s0 m) : Keeps C s0
    (State.pwrWrite m who off d) := by
  simp (maxDischargeDepth := 40) [State.pwrWrite, h]

@[simp] theorem keeps_boltWrite (m : State) (off : ℕ) (d : Draft) (h : Keeps C s0 m) : Keeps C s0 (State.boltWrite m
    off d) := by
  simp (maxDischargeDepth := 40) [State.boltWrite, h]

@[simp] theorem keeps_swapAsk (m : State) (n : ℕ) (q : ℕ) (h : Keeps C s0 m) : Keeps C s0 (State.swapAsk m n q) :=
    by
  simp (maxDischargeDepth := 40) [State.swapAsk, h]

@[simp] theorem keeps_seqWrite (m : State) (who : Master) (q : ℕ) (off : ℕ) (d : Draft) (h : Keeps C s0 m) : Keeps C
    s0 (State.seqWrite m who q off d) := by
  simp (maxDischargeDepth := 40) [State.seqWrite, h]

@[simp] theorem keeps_ldlWrite (m : State) (who : Master) (q : ℕ) (off : ℕ) (d : Draft) (h : Keeps C s0 m) : Keeps C
    s0 (State.ldlWrite m who q off d) := by
  unfold State.ldlWrite
  (repeat' split) <;> simp (maxDischargeDepth := 40) +contextual [h, *]

@[simp] theorem keeps_tngWrite (m : State) (who : Master) (off : ℕ) (d : Draft) (h : Keeps C s0 m) : Keeps C s0
    (State.tngWrite m who off d) := by
  unfold State.tngWrite
  (repeat' split) <;> simp (maxDischargeDepth := 40) +contextual [h, *]

@[simp] theorem keeps_ccWrite (m : State) (c : ℕ) (off : ℕ) (d : Draft) (h : Keeps C s0 m) : Keeps C s0
    (State.ccWrite m c off d) := by
  simp (maxDischargeDepth := 40) [State.ccWrite, h]

@[simp] theorem keeps_reachWrite (m : State) (who : Master) (p : ℕ) (metro : Bool) (slot : ℕ) (h : Keeps C s0 m) :
    Keeps C s0 (State.reachWrite m who p metro slot) := by
  simp (maxDischargeDepth := 40) [State.reachWrite, h]

@[simp] theorem keeps_portWrite (m : State) (p : ℕ) (en : Bool) (h : Keeps C s0 m) : Keeps C s0 (State.portWrite m p
    en) := by
  simp (maxDischargeDepth := 40) [State.portWrite, h]

@[simp] theorem keeps_kpWrite (m : State) (who : Master) (p : ℕ) (off : ℕ) (d : Draft) (h : Keeps C s0 m) : Keeps C
    s0 (State.kpWrite m who p off d) := by
  simp (maxDischargeDepth := 40) [State.kpWrite, h]

@[simp] theorem keeps_krtWrite (m : State) (who : Master) (off : ℕ) (d : Draft) (v : ℕ) (h : Keeps C s0 m) : Keeps C
    s0 (State.krtWrite m who off d v) := by
  simp (maxDischargeDepth := 40) [State.krtWrite, h]

@[simp] theorem keeps_timeWrite (m : State) (off : ℕ) (d : Draft) (h : Keeps C s0 m) : Keeps C s0 (State.timeWrite m
    off d) := by
  simp (maxDischargeDepth := 40) [State.timeWrite, h]

@[simp] theorem keeps_valueWrite (m : State) (master : ℕ) (i : ℕ) (v : ℕ) (h : Keeps C s0 m) : Keeps C s0
    (State.valueWrite m master i v) := by
  simp (maxDischargeDepth := 40) [State.valueWrite, h]

@[simp] theorem keeps_barWrite (m : State) (master : ℕ) (b : ℕ) (d : Draft) (h : Keeps C s0 m) : Keeps C s0
    (State.barWrite m master b d) := by
  simp (maxDischargeDepth := 40) [State.barWrite, h]

@[simp] theorem keeps_tmbWrite (m : State) (who : Master) (off : ℕ) (d : Draft) (h : Keeps C s0 m) : Keeps C s0
    (State.tmbWrite m who off d) := by
  simp (maxDischargeDepth := 40) [State.tmbWrite, h]

@[simp] theorem keeps_sveWrite (m : State) (off : ℕ) (d : Draft) (h : Keeps C s0 m) : Keeps C s0 (State.sveWrite m
    off d) := by
  simp (maxDischargeDepth := 40) [State.sveWrite, h]

@[simp] theorem keeps_fwWrite (m : State) (who : Master) (off : ℕ) (d : Draft) (h : Keeps C s0 m) : Keeps C s0
    (State.fwWrite m who off d) := by
  simp (maxDischargeDepth := 40) [State.fwWrite, h]

@[simp] theorem keeps_regEffect (m : State) (who : Master) (off : ℕ) (v : ℕ) (d : Draft) (h : Keeps C s0 m) : Keeps
    C s0 (State.regEffect m who off v d) := by
  unfold State.regEffect
  dsimp only
  (repeat' split) <;> simp (maxDischargeDepth := 40) [h]

@[simp] theorem keeps_busWrite (m : State) (who : Master) (off : ℕ) (v : ℕ) (h : Keeps C s0 m) : Keeps C s0
    (State.busWrite m who off v) := by
  simp (maxDischargeDepth := 40) [State.busWrite, h]

@[simp] theorem keeps_narrow (m : State) (who : Master) (off : ℕ) (size : ℕ) (write : Bool) (h : Keeps C s0 m) :
    Keeps C s0 (State.narrow m who off size write) := by
  simp (maxDischargeDepth := 40) [State.narrow, h]

@[simp] theorem keeps_reservedPage (m : State) (who : Master) (off : ℕ) (write : Bool) (h : Keeps C s0 m) : Keeps C
    s0 (State.reservedPage m who off write) := by
  simp (maxDischargeDepth := 40) [State.reservedPage, h]

@[simp] theorem keeps_execRegisterWrite (m : Master) (off : ℕ) (v : Word) (s : State) (h : Keeps C s0 s) : KeepsOut
    C s0 (execRegisterWrite m off v s) := by
  simp (maxDischargeDepth := 40) [execRegisterWrite, h]

@[simp] theorem keeps_execNarrowAccess (m : Master) (off : ℕ) (size : ℕ) (isWrite : Bool) (s : State) (h : Keeps C
    s0 s) : KeepsOut C s0 (execNarrowAccess m off size isWrite s) := by
  simp (maxDischargeDepth := 40) [execNarrowAccess, h]

@[simp] theorem keeps_execReservedPageAccess (m : Master) (off : ℕ) (isWrite : Bool) (s : State) (h : Keeps C s0 s)
    : KeepsOut C s0 (execReservedPageAccess m off isWrite s) := by
  simp (maxDischargeDepth := 40) [execReservedPageAccess, h]

@[simp] theorem keeps_execSeqLaunch (m : Master) (n : Stn) (v : Word) (s : State) (h : Keeps C s0 s) : KeepsOut C s0
    (execSeqLaunch m n v s) := by
  simp (maxDischargeDepth := 40) [execSeqLaunch, h]

@[simp] theorem keeps_execBankSwap (m : Master) (n : Stn) (q : Quad) (v : Word) (s : State) (h : Keeps C s0 s) :
    KeepsOut C s0 (execBankSwap m n q v s) := by
  simp (maxDischargeDepth := 40) [execBankSwap, h]

@[simp] theorem keeps_execParamWrite (m : Master) (n : Stn) (i : Fin 256) (v : Word) (s : State) (h : Keeps C s0 s)
    : KeepsOut C s0 (execParamWrite m n i v s) := by
  simp (maxDischargeDepth := 40) [execParamWrite, h]

@[simp] theorem keeps_execRflush (m : Master) (n : Stn) (v : Word) (s : State) (h : Keeps C s0 s) : KeepsOut C s0
    (execRflush m n v s) := by
  simp (maxDischargeDepth := 40) [execRflush, h]

@[simp] theorem keeps_execStockpotScan (m : Master) (q : Quad) (n : Stn) (v : Word) (s : State) (h : Keeps C s0 s) :
    KeepsOut C s0 (execStockpotScan m q n v s) := by
  simp (maxDischargeDepth := 40) [execStockpotScan, h]

@[simp] theorem keeps_execWskDoorbell (m : Master) (w : Stack) (n : Stn) (v : Word) (s : State) (h : Keeps C s0 s) :
    KeepsOut C s0 (execWskDoorbell m w n v s) := by
  simp (maxDischargeDepth := 40) [execWskDoorbell, h]

@[simp] theorem keeps_execTngDoorbell (m : Master) (d : Die) (n : Stn) (v : Word) (s : State) (h : Keeps C s0 s) :
    KeepsOut C s0 (execTngDoorbell m d n v s) := by
  simp (maxDischargeDepth := 40) [execTngDoorbell, h]

@[simp] theorem keeps_execMtrDoorbell (m : Master) (d : Die) (n : Stn) (v : Word) (s : State) (h : Keeps C s0 s) :
    KeepsOut C s0 (execMtrDoorbell m d n v s) := by
  simp (maxDischargeDepth := 40) [execMtrDoorbell, h]

@[simp] theorem keeps_execCollDoorbell (m : Master) (n : Stn) (v : Word) (s : State) (h : Keeps C s0 s) : KeepsOut C
    s0 (execCollDoorbell m n v s) := by
  simp (maxDischargeDepth := 40) [execCollDoorbell, h]

@[simp] theorem keeps_execTableBuild (m : Master) (n : Stn) (t : Fin 16) (s : State) (h : Keeps C s0 s) : KeepsOut C
    s0 (execTableBuild m n t s) := by
  simp (maxDischargeDepth := 40) [execTableBuild, h]

@[simp] theorem keeps_execTableDone (m : Master) (n : Stn) (t : Fin 16) (s : State) (h : Keeps C s0 s) : KeepsOut C
    s0 (execTableDone m n t s) := by
  simp (maxDischargeDepth := 40) [execTableDone, h]

@[simp] theorem keeps_execTableSwap (m : Master) (n : Stn) (t : Fin 16) (s : State) (h : Keeps C s0 s) : KeepsOut C
    s0 (execTableSwap m n t s) := by
  simp (maxDischargeDepth := 40) [execTableSwap, h]

@[simp] theorem keeps_execTableAbandon (m : Master) (n : Stn) (t : Fin 16) (s : State) (h : Keeps C s0 s) : KeepsOut
    C s0 (execTableAbandon m n t s) := by
  simp (maxDischargeDepth := 40) [execTableAbandon, h]

@[simp] theorem keeps_ctrWrite (m : State) (who : Master) (i : ℕ) (f : State → State) (hf : ∀ (z3_0 : State), Keeps
    C s0 z3_0 → Keeps C s0 (f z3_0)) (h : Keeps C s0 m) : Keeps C s0 (State.ctrWrite m who i f) := by
  simp (maxDischargeDepth := 40) [State.ctrWrite, h, hf]

@[simp] theorem keeps_execValueWrite (m : Master) (i : Fin 4096) (v : BitVec 32) (s : State) (h : Keeps C s0 s) :
    KeepsOut C s0 (execValueWrite m i v s) := by
  unfold execValueWrite
  (repeat' split) <;> simp (maxDischargeDepth := 40) +contextual [h, *]

@[simp] theorem keeps_execLimitWrite (m : Master) (i : Fin 4096) (v : BitVec 32) (s : State) (h : Keeps C s0 s) :
    KeepsOut C s0 (execLimitWrite m i v s) := by
  unfold execLimitWrite
  (repeat' split) <;> simp (maxDischargeDepth := 40) +contextual [h, *]

@[simp] theorem keeps_execWregGo (m : Master) (n : Stn) (v : Word) (s : State) (h : Keeps C s0 s) : KeepsOut C s0
    (execWregGo m n v s) := by
  simp (maxDischargeDepth := 40) [execWregGo, h]

@[simp] theorem keeps_execEnter (m : Master) (b : Fin 256) (s : State) (h : Keeps C s0 s) : KeepsOut C s0 (execEnter
    m b s) := by
  simp (maxDischargeDepth := 40) [execEnter, h]

@[simp] theorem keeps_execBarrierEnable (m : Master) (b : Fin 256) (v : Word) (s : State) (h : Keeps C s0 s) :
    KeepsOut C s0 (execBarrierEnable m b v s) := by
  simp (maxDischargeDepth := 40) [execBarrierEnable, h]

@[simp] theorem keeps_execBarrierDisable (m : Master) (b : Fin 256) (v : Word) (s : State) (h : Keeps C s0 s) :
    KeepsOut C s0 (execBarrierDisable m b v s) := by
  simp (maxDischargeDepth := 40) [execBarrierDisable, h]

@[simp] theorem keeps_execPortEnable (m : Master) (p : Port) (v : Word) (s : State) (h : Keeps C s0 s) : KeepsOut C
    s0 (execPortEnable m p v s) := by
  simp (maxDischargeDepth := 40) [execPortEnable, h]

@[simp] theorem keeps_execPortDisable (m : Master) (p : Port) (v : Word) (s : State) (h : Keeps C s0 s) : KeepsOut C
    s0 (execPortDisable m p v s) := by
  simp (maxDischargeDepth := 40) [execPortDisable, h]

@[simp] theorem keeps_execMetroWrite (m : Master) (p : Port) (v : Word) (s : State) (h : Keeps C s0 s) : KeepsOut C
    s0 (execMetroWrite m p v s) := by
  simp (maxDischargeDepth := 40) [execMetroWrite, h]

@[simp] theorem keeps_execKswitch (m : Master) (p : Port) (s : State) (h : Keeps C s0 s) : KeepsOut C s0
    (execKswitch m p s) := by
  simp (maxDischargeDepth := 40) [execKswitch, h]

@[simp] theorem keeps_execNodeidWrite (m : Master) (v : Word) (s : State) (h : Keeps C s0 s) : KeepsOut C s0
    (execNodeidWrite m v s) := by
  simp (maxDischargeDepth := 40) [execNodeidWrite, h]

@[simp] theorem keeps_execDigestScan (m : Master) (n : Stn) (v : Word) (s : State) (h : Keeps C s0 s) : KeepsOut C
    s0 (execDigestScan m n v s) := by
  simp (maxDischargeDepth := 40) [execDigestScan, h]

@[simp] theorem keeps_execMcLocalWrite (m : Master) (hi : Bool) (v : Word) (s : State) (h : Keeps C s0 s) : KeepsOut
    C s0 (execMcLocalWrite m hi v s) := by
  simp (maxDischargeDepth := 40) [execMcLocalWrite, h]

@[simp] theorem keeps_execCrkMode (m : Master) (k : Fin 48) (v : Word) (s : State) (h : Keeps C s0 s) : KeepsOut C
    s0 (execCrkMode m k v s) := by
  simp (maxDischargeDepth := 40) [execCrkMode, h]

@[simp] theorem keeps_execCrkFlush (m : Master) (k : Fin 48) (v : Word) (s : State) (h : Keeps C s0 s) : KeepsOut C
    s0 (execCrkFlush m k v s) := by
  simp (maxDischargeDepth := 40) [execCrkFlush, h]

@[simp] theorem keeps_execStationEnable (m : Master) (n : Stn) (v : Word) (s : State) (h : Keeps C s0 s) : KeepsOut
    C s0 (execStationEnable m n v s) := by
  simp (maxDischargeDepth := 40) [execStationEnable, h]

@[simp] theorem keeps_execStationLock (m : Master) (n : Stn) (v : Word) (s : State) (h : Keeps C s0 s) : KeepsOut C
    s0 (execStationLock m n v s) := by
  simp (maxDischargeDepth := 40) [execStationLock, h]

@[simp] theorem keeps_execStationRestart (m : Master) (n : Stn) (s : State) (h : Keeps C s0 s) : KeepsOut C s0
    (execStationRestart m n s) := by
  simp (maxDischargeDepth := 40) [execStationRestart, h]

@[simp] theorem keeps_execStationRelease (m : Master) (n : Stn) (v : Word) (s : State) (h : Keeps C s0 s) : KeepsOut
    C s0 (execStationRelease m n v s) := by
  simp (maxDischargeDepth := 40) [execStationRelease, h]

@[simp] theorem keeps_execEngineReset (m : Master) (v : Word) (s : State) (h : Keeps C s0 s) : KeepsOut C s0
    (execEngineReset m v s) := by
  simp (maxDischargeDepth := 40) [execEngineReset, h]

@[simp] theorem keeps_execCoreReset (m : Master) (c : Core) (s : State) (h : Keeps C s0 s) : KeepsOut C s0
    (execCoreReset m c s) := by
  simp (maxDischargeDepth := 40) [execCoreReset, h]

@[simp] theorem keeps_execHalt (m : Master) (c : Core) (v : Word) (s : State) (h : Keeps C s0 s) : KeepsOut C s0
    (execHalt m c v s) := by
  simp (maxDischargeDepth := 40) [execHalt, h]

@[simp] theorem keeps_execLedgerConfig (m : Master) (n : Stn) (v : Word) (s : State) (h : Keeps C s0 s) : KeepsOut C
    s0 (execLedgerConfig m n v s) := by
  simp (maxDischargeDepth := 40) [execLedgerConfig, h]

@[simp] theorem keeps_execMrst (m : Master) (v : Word) (s : State) (h : Keeps C s0 s) : KeepsOut C s0 (execMrst m v
    s) := by
  simp (maxDischargeDepth := 40) [execMrst, h]

@[simp] theorem keeps_execComputeOn (m : Master) (v : Word) (s : State) (h : Keeps C s0 s) : KeepsOut C s0
    (execComputeOn m v s) := by
  simp (maxDischargeDepth := 40) [execComputeOn, h]

@[simp] theorem keeps_execComputeOff (m : Master) (v : Word) (s : State) (h : Keeps C s0 s) : KeepsOut C s0
    (execComputeOff m v s) := by
  simp (maxDischargeDepth := 40) [execComputeOff, h]

@[simp] theorem keeps_execArrayReq (m : Master) (v : Word) (s : State) (h : Keeps C s0 s) : KeepsOut C s0
    (execArrayReq m v s) := by
  simp (maxDischargeDepth := 40) [execArrayReq, h]

@[simp] theorem keeps_execPendClear (m : Master) (s : State) (h : Keeps C s0 s) : KeepsOut C s0 (execPendClear m s)
    := by
  simp (maxDischargeDepth := 40) [execPendClear, h]

@[simp] theorem keeps_execSevereClear (m : Master) (j : Fin 3) (v : Word) (s : State) (h : Keeps C s0 s) : KeepsOut
    C s0 (execSevereClear m j v s) := by
  simp (maxDischargeDepth := 40) [execSevereClear, h]

@[simp] theorem keeps_execInjArm (m : Master) (page : Fin 155) (v : Word) (s : State) (h : Keeps C s0 s) : KeepsOut
    C s0 (execInjArm m page v s) := by
  simp (maxDischargeDepth := 40) [execInjArm, h]

@[simp] theorem keeps_execEcntClr (m : Master) (page : Fin 155) (s : State) (h : Keeps C s0 s) : KeepsOut C s0
    (execEcntClr m page s) := by
  simp (maxDischargeDepth := 40) [execEcntClr, h]

@[simp] theorem keeps_execFerrClear (m : Master) (page : Fin 155) (s : State) (h : Keeps C s0 s) : KeepsOut C s0
    (execFerrClear m page s) := by
  simp (maxDischargeDepth := 40) [execFerrClear, h]

@[simp] theorem keeps_execClampClear (m : Master) (page : Fin 155) (s : State) (h : Keeps C s0 s) : KeepsOut C s0
    (execClampClear m page s) := by
  simp (maxDischargeDepth := 40) [execClampClear, h]

@[simp] theorem keeps_execSnapArm (m : Master) (v : Word) (s : State) (h : Keeps C s0 s) : KeepsOut C s0
    (execSnapArm m v s) := by
  simp (maxDischargeDepth := 40) [execSnapArm, h]

@[simp] theorem keeps_execSveStep (m : Master) (n : Stn) (v : Word) (s : State) (h : Keeps C s0 s) : KeepsOut C s0
    (execSveStep m n v s) := by
  simp (maxDischargeDepth := 40) [execSveStep, h]

@[simp] theorem keeps_execDrain (m : Master) (n : Stn) (s : State) (h : Keeps C s0 s) : KeepsOut C s0 (execDrain m n
    s) := by
  simp (maxDischargeDepth := 40) [execDrain, h]

@[simp] theorem keeps_execMarginTest (m : Master) (v : Word) (s : State) (h : Keeps C s0 s) : KeepsOut C s0
    (execMarginTest m v s) := by
  simp (maxDischargeDepth := 40) [execMarginTest, h]

@[simp] theorem keeps_execCfglockCore (m : Master) (s : State) (h : Keeps C s0 s) : KeepsOut C s0 (execCfglockCore m
    s) := by
  simp (maxDischargeDepth := 40) [execCfglockCore, h]

@[simp] theorem keeps_execCfglockNode (m : Master) (s : State) (h : Keeps C s0 s) : KeepsOut C s0 (execCfglockNode m
    s) := by
  simp (maxDischargeDepth := 40) [execCfglockNode, h]

@[simp] theorem keeps_execCfglockPort (m : Master) (s : State) (h : Keeps C s0 s) : KeepsOut C s0 (execCfglockPort m
    s) := by
  simp (maxDischargeDepth := 40) [execCfglockPort, h]

@[simp] theorem keeps_execCfglockPlat (m : Master) (s : State) (h : Keeps C s0 s) : KeepsOut C s0 (execCfglockPlat m
    s) := by
  simp (maxDischargeDepth := 40) [execCfglockPlat, h]

end Sys2Proof.Machine
end

