-- ==== Sys2Proof/Laws/KeepsHost.lean ====
section
/-! SUPPORT. What the operations of Machine/Host keep: the queue, the versions in the fuses, and the canonical tables. -/

namespace Sys2Proof.Machine

variable {C : Prop} {s0 : State}

@[simp] theorem keeps_mgmtRead (m : State) (p : Port) (f : Flit) (h : Keeps C s0 m) : Keeps C s0 (State.mgmtRead m p
    f) := by
  unfold State.mgmtRead
  (repeat' split) <;> simp (maxDischargeDepth := 40) +contextual [h, *]

@[simp] theorem keeps_mgmtWrite (m : State) (p : Port) (f : Flit) (h : Keeps C s0 m) : Keeps C s0 (State.mgmtWrite m
    p f) := by
  unfold State.mgmtWrite
  (repeat' split) <;> simp (maxDischargeDepth := 40) +contextual [h, *]

@[simp] theorem keeps_mgmtRelay (m : State) (p : ℕ) (f : Flit) (h : Keeps C s0 m) : Keeps C s0 (State.mgmtRelay m p
    f) := by
  unfold State.mgmtRelay
  refine keeps_onFlit _ _ _ _ _ (fun m h => ?_) h
  extract_lets +onlyGivenNames q x tag
  refine keeps_ite_intro (by simp (maxDischargeDepth := 40) [h]) (keeps_ite_intro (by simp (maxDischargeDepth := 40) [h]) ?_)
  generalize tag = tag
  cases tag with
  | none => simp (maxDischargeDepth := 40) [h]
  | some t => exact keeps_mk_intro (keeps_txq _ _ _ h)

@[simp] theorem keeps_mgmtAnswer (m : State) (p : ℕ) (f : Flit) (h : Keeps C s0 m) : Keeps C s0 (State.mgmtAnswer m
    p f) := by
  unfold State.mgmtAnswer
  (try dsimp only)
  repeat' (first | assumption | (intro _) | split | with_reducible apply keeps_onFlit | with_reducible apply keeps_foldl | with_reducible apply keeps_foldl_fst | with_reducible apply keeps_foldl_snd | (simp (maxDischargeDepth := 40) +contextual [*]; done) | simp (maxDischargeDepth := 40) +contextual only [keeps_mk, keepsCore_fold, keeps_ite, *])

@[simp] theorem keeps_winAccess (m : State) (n a len : ℕ) (data : Option (List Byte)) (h : Keeps C s0 m) :
    Keeps C s0 (State.winAccess m n a len data) := by
  unfold State.winAccess
  extract_lets acc refuse m1
  have hf : ∀ page, Keeps C s0 (refuse page) := by
    intro page
    have h1 : Keeps C s0 (m.access page 0 (some n) acc a) := keeps_access _ _ _ _ _ _ h
    exact keeps_ite_intro h1 (keeps_mk_intro h1)
  have h1 : Keeps C s0 m1 := keeps_touch _ _ _ _ _ _ h
  clear_value refuse m1
  have h2 : Keeps C s0 (m1.bump Reg.hst_BAR2_RD len) := keeps_bump _ _ _ h1
  refine keeps_ite_intro (hf _) (keeps_ite_intro h ?_)
  generalize m.check (some n) a len data.isSome = k
  cases k with
  | ok =>
    cases data with
    | none => exact keeps_mk_intro h2
    | some bs => exact keeps_bump _ _ _ (keeps_storeP _ _ _ _ _ _ h)
  | owner page => exact hf _
  | reserved page => exact hf _

@[simp] theorem keeps_bar2 (m : State) (off : ℕ) (len : ℕ) (data : Option (List Byte)) (h : Keeps C s0 m) : Keeps C
    s0 (State.bar2 m off len data) := by
  unfold State.bar2
  exact keeps_ite_intro h (keeps_winAccess _ _ _ _ _ h)

@[simp] theorem keeps_perstLow (m : State) (h : Keeps C s0 m) : Keeps C s0 (State.perstLow m) := by
  simp (maxDischargeDepth := 40) [State.perstLow, h]

@[simp] theorem keeps_perstHigh (m : State) (h : Keeps C s0 m) : Keeps C s0 (State.perstHigh m) := by
  simp (maxDischargeDepth := 40) [State.perstHigh, h]

@[simp] theorem keeps_smbSet (m : State) (off : BitVec 32) (pec : Bool) (h : Keeps C s0 m) : Keeps C s0
    (State.smbSet m off pec) := by
  simp (maxDischargeDepth := 40) [State.smbSet, h]

@[simp] theorem keeps_smbRead (m : State) (pec : Bool) (h : Keeps C s0 m) : Keeps C s0 (State.smbRead m pec) := by
  simp (maxDischargeDepth := 40) [State.smbRead, h]

@[simp] theorem keeps_smbWrite (m : State) (off : BitVec 32) (v : Word) (pec : Bool) (h : Keeps C s0 m) : Keeps C s0
    (State.smbWrite m off v pec) := by
  simp (maxDischargeDepth := 40) [State.smbWrite, h]

@[simp] theorem keeps_jtag (m : State) (i : JtagIr) (d : BitVec 64) (h : Keeps C s0 m) : Keeps C s0 (State.jtag m i
    d) := by
  simp (maxDischargeDepth := 40) [State.jtag, h]

@[simp] theorem keeps_boundaryScan (m : State) (i : JtagIr) (h : Keeps C s0 m) : Keeps C s0 (State.boundaryScan m i)
    := by
  simp (maxDischargeDepth := 40) [State.boundaryScan, h]

@[simp] theorem keeps_pinTest (m : State) (i : JtagIr) (h : Keeps C s0 m) : Keeps C s0 (State.pinTest m i) := by
  simp (maxDischargeDepth := 40) [State.pinTest, h]

@[simp] theorem keeps_debugCore (m : State) (c : ℕ) (halt : Bool) (h : Keeps C s0 m) : Keeps C s0 (State.debugCore m
    c halt) := by
  simp (maxDischargeDepth := 40) [State.debugCore, h]

@[simp] theorem keeps_jtagReset (m : State) (h : Keeps C s0 m) : Keeps C s0 (State.jtagReset m) := by
  simp (maxDischargeDepth := 40) [State.jtagReset, h]

@[simp] theorem keeps_execMgmtRd (p : Port) (f : Flit) (s : State) (h : Keeps C s0 s) : KeepsOut C s0 (execMgmtRd p
    f s) := by
  simp (maxDischargeDepth := 40) [execMgmtRd, h]

@[simp] theorem keeps_execMgmtWr (p : Port) (f : Flit) (s : State) (h : Keeps C s0 s) : KeepsOut C s0 (execMgmtWr p
    f s) := by
  simp (maxDischargeDepth := 40) [execMgmtWr, h]

@[simp] theorem keeps_execMgmtRsp (p : Port) (f : Flit) (s : State) (h : Keeps C s0 s) : KeepsOut C s0 (execMgmtRsp
    p f s) := by
  simp (maxDischargeDepth := 40) [execMgmtRsp, h]

@[simp] theorem keeps_execMgmtRelay (p : Port) (f : Flit) (s : State) (h : Keeps C s0 s) : KeepsOut C s0
    (execMgmtRelay p f s) := by
  simp (maxDischargeDepth := 40) [execMgmtRelay, h]

@[simp] theorem keeps_execBar2Access (off : ℕ) (len : ℕ) (data : Option (List Byte)) (s : State) (h : Keeps C s0 s)
    : KeepsOut C s0 (execBar2Access off len data s) := by
  simp (maxDischargeDepth := 40) [execBar2Access, h]

@[simp] theorem keeps_execPerstN (s : State) (h : Keeps C s0 s) : KeepsOut C s0 (execPerstN s) := by
  simp (maxDischargeDepth := 40) [execPerstN, h]

@[simp] theorem keeps_execPerstNRelease (s : State) (h : Keeps C s0 s) : KeepsOut C s0 (execPerstNRelease s) := by
  simp (maxDischargeDepth := 40) [execPerstNRelease, h]

@[simp] theorem keeps_execSmbusSetOffset (off : BitVec 32) (pec : Bool) (s : State) (h : Keeps C s0 s) : KeepsOut C
    s0 (execSmbusSetOffset off pec s) := by
  simp (maxDischargeDepth := 40) [execSmbusSetOffset, h]

@[simp] theorem keeps_execSmbusRead (pec : Bool) (s : State) (h : Keeps C s0 s) : KeepsOut C s0 (execSmbusRead pec
    s) := by
  simp (maxDischargeDepth := 40) [execSmbusRead, h]

@[simp] theorem keeps_execSmbusWrite (off : BitVec 32) (v : Word) (pec : Bool) (s : State) (h : Keeps C s0 s) :
    KeepsOut C s0 (execSmbusWrite off v pec s) := by
  simp (maxDischargeDepth := 40) [execSmbusWrite, h]

@[simp] theorem keeps_execBypass (s : State) (h : Keeps C s0 s) : KeepsOut C s0 (execBypass s) := by
  simp (maxDischargeDepth := 40) [execBypass, h]

@[simp] theorem keeps_execIdcode (s : State) (h : Keeps C s0 s) : KeepsOut C s0 (execIdcode s) := by
  simp (maxDischargeDepth := 40) [execIdcode, h]

@[simp] theorem keeps_execSample (s : State) (h : Keeps C s0 s) : KeepsOut C s0 (execSample s) := by
  simp (maxDischargeDepth := 40) [execSample, h]

@[simp] theorem keeps_execExtest (s : State) (h : Keeps C s0 s) : KeepsOut C s0 (execExtest s) := by
  simp (maxDischargeDepth := 40) [execExtest, h]

@[simp] theorem keeps_execIntest (s : State) (h : Keeps C s0 s) : KeepsOut C s0 (execIntest s) := by
  simp (maxDischargeDepth := 40) [execIntest, h]

@[simp] theorem keeps_execCoreDebug (c : Core) (haltIt : Bool) (s : State) (h : Keeps C s0 s) : KeepsOut C s0
    (execCoreDebug c haltIt s) := by
  simp (maxDischargeDepth := 40) [execCoreDebug, h]

@[simp] theorem keeps_execJtagReset (s : State) (h : Keeps C s0 s) : KeepsOut C s0 (execJtagReset s) := by
  simp (maxDischargeDepth := 40) [execJtagReset, h]

end Sys2Proof.Machine
end

