-- ==== Sys2Proof/Laws/KeepsKv.lean ====
section
/-! SUPPORT. What the operations of Machine/Kv keep: the queue, the versions in the fuses, and the canonical tables. -/

namespace Sys2Proof.Machine

variable {C : Prop} {s0 : State}

@[simp] theorem keeps_trap (m : State) (c : ℕ) (cause : ℕ) (tval : ℕ) (h : Keeps C s0 m) : Keeps C s0 (State.trap m
    c cause tval) := by
  simp (maxDischargeDepth := 40) [State.trap, h]

@[simp] theorem keeps_baseRetire (m : State) (c : Nat) (s : CoreSt) (h : Keeps C s0 m) : Keeps C s0
    (State.baseRetire m c s) := by
  unfold State.baseRetire
  exact keeps_setFlag _ _ _ (keeps_bump _ _ _ (keeps_setCore _ _ _ h))

@[simp] theorem keeps_coreRetire (m : State) (c : ℕ) (s : CoreSt) (h : Keeps C s0 m) : Keeps C s0 (State.coreRetire
    m c s) := by
  simp (maxDischargeDepth := 40) [State.coreRetire, h]

@[simp] theorem keeps_kv (m : State) (c : ℕ) (bits : ℕ) (k : State → CoreSt → State) (hk : ∀ (z3_0 : State) (z3_1 :
    CoreSt), Keeps C s0 z3_0 → Keeps C s0 (k z3_0 z3_1)) (h : Keeps C s0 m) : Keeps C s0 (State.kv m c bits k) := by
  simp (maxDischargeDepth := 40) [State.kv, h, hk]

@[simp] theorem keeps_kvReg (m : State) (c : ℕ) (bits : ℕ) (f : CoreSt → CoreSt) (h : Keeps C s0 m) : Keeps C s0
    (State.kvReg m c bits f) := by
  unfold State.kvReg
  (repeat' split) <;> simp (maxDischargeDepth := 40) +contextual [h, *]

@[simp] theorem keeps_kv2 (m : State) (c : ℕ) (f7 : ℕ) (kd : ℕ) (ks1 : ℕ) (ks2 : ℕ) (w : ℕ) (f : ℕ → BitVec 128 →
    BitVec 128 → BitVec 128) (h : Keeps C s0 m) : Keeps C s0 (State.kv2 m c f7 kd ks1 ks2 w f) := by
  simp (maxDischargeDepth := 40) [State.kv2, h]

@[simp] theorem keeps_kvSat (m : State) (c : ℕ) (f7 : ℕ) (kd : ℕ) (ks1 : ℕ) (ks2 : ℕ) (w : ℕ) (f : ℤ → ℤ → ℤ) (h :
    Keeps C s0 m) : Keeps C s0 (State.kvSat m c f7 kd ks1 ks2 w f) := by
  simp (maxDischargeDepth := 40) [State.kvSat, h]

@[simp] theorem keeps_kvDot (m : State) (c : ℕ) (f7 : ℕ) (kd : ℕ) (ks1 : ℕ) (ks2 : ℕ) (w : ℕ) (sa : Bool) (sb :
    Bool) (h : Keeps C s0 m) : Keeps C s0 (State.kvDot m c f7 kd ks1 ks2 w sa sb) := by
  simp (maxDischargeDepth := 40) [State.kvDot, h]

@[simp] theorem keeps_kvLoad (m : State) (c : ℕ) (bits : ℕ) (rs1 : ℕ) (imm : ℕ) (n : ℕ) (f : CoreSt → List Byte →
    CoreSt) (h : Keeps C s0 m) : Keeps C s0 (State.kvLoad m c bits rs1 imm n f) := by
  unfold State.kvLoad
  refine keeps_kv _ _ _ _ (fun m s h => ?_) h
  extract_lets a m1 e
  have h1 : Keeps C s0 m1 := by
    dsimp only [m1]
    split
    · exact keeps_touch _ _ _ _ _ _ h
    · exact h
  clear_value m1
  split
  · exact keeps_trap _ _ _ _ h
  · exact keeps_trap _ _ _ _ (keeps_access _ _ _ _ _ _ h)
  · exact keeps_ite_intro h (keeps_ite_intro (keeps_trap _ _ _ _ (keeps_report _ _ (keeps_report _ _ h1))) (keeps_coreRetire _ _ _ h1))

@[simp] theorem keeps_coreCached (m : State) (c k a : ℕ) (bs : List Byte) (h : Keeps C s0 m) : Keeps C s0
    (State.coreCached m c k a bs) := by
  unfold State.coreCached
  exact keeps_mk_intro (Keeps.core (keeps_storeP _ _ _ _ _ _ h))

@[simp] theorem keeps_coreStore (m : State) (c : ℕ) (a : ℕ) (bs : List Byte) (h : Keeps C s0 m) : Keeps C s0
    (State.coreStore m c a bs) := by
  unfold State.coreStore
  (repeat' split) <;> simp (maxDischargeDepth := 40) [h]

@[simp] theorem keeps_kvStore (m : State) (c : ℕ) (bits : ℕ) (rs1 : ℕ) (ks2 : ℕ) (imm : ℕ) (n : ℕ) (h : Keeps C s0
    m) : Keeps C s0 (State.kvStore m c bits rs1 ks2 imm n) := by
  unfold State.kvStore
  (try dsimp only)
  repeat' (first | assumption | (intro _) | split | with_reducible apply keeps_kv | with_reducible apply keeps_foldl | with_reducible apply keeps_foldl_fst | with_reducible apply keeps_foldl_snd | (simp (maxDischargeDepth := 40) +contextual [*]; done) | simp (maxDischargeDepth := 40) +contextual only [keeps_mk, keepsCore_fold, keeps_ite, *])

@[simp] theorem keeps_csrRead (m : State) (s : CoreSt) (csr : Nat) (h : Keeps C s0 m) : Keeps C s0
    (State.csrRead m s csr).2 := by
  unfold State.csrRead
  dsimp only
  (repeat' split) <;> simp (maxDischargeDepth := 40) +contextual [h, *]

@[simp] theorem keeps_csrOp (m : State) (c bits csr : Nat) (h : Keeps C s0 m) : Keeps C s0 (State.csrOp m c bits
    csr) := by
  unfold State.csrOp
  dsimp only
  (repeat' split) <;> simp (maxDischargeDepth := 40) +contextual [h, *]

@[simp] theorem keeps_illegal (m : State) (c : ℕ) (bits : ℕ) (h : Keeps C s0 m) : Keeps C s0 (State.illegal m c
    bits) := by
  simp (maxDischargeDepth := 40) [State.illegal, h]

@[simp] theorem keeps_execKld (c : Core) (kd : Fin 32) (rs1 : Fin 32) (imm : BitVec 12) (s : State) (h : Keeps C s0
    s) : KeepsOut C s0 (execKld c kd rs1 imm s) := by
  simp (maxDischargeDepth := 40) [execKld, h]

@[simp] theorem keeps_execKst (c : Core) (ks2 : Fin 32) (rs1 : Fin 32) (imm : BitVec 12) (s : State) (h : Keeps C s0
    s) : KeepsOut C s0 (execKst c ks2 rs1 imm s) := by
  simp (maxDischargeDepth := 40) [execKst, h]

@[simp] theorem keeps_execKldh (c : Core) (kd : Fin 32) (rs1 : Fin 32) (imm : BitVec 12) (s : State) (h : Keeps C s0
    s) : KeepsOut C s0 (execKldh c kd rs1 imm s) := by
  simp (maxDischargeDepth := 40) [execKldh, h]

@[simp] theorem keeps_execKsth (c : Core) (ks2 : Fin 32) (rs1 : Fin 32) (imm : BitVec 12) (s : State) (h : Keeps C
    s0 s) : KeepsOut C s0 (execKsth c ks2 rs1 imm s) := by
  simp (maxDischargeDepth := 40) [execKsth, h]

@[simp] theorem keeps_execKadd (c : Core) (kd : Fin 32) (ks1 : Fin 32) (ks2 : Fin 32) (w : KvW) (s : State) (h :
    Keeps C s0 s) : KeepsOut C s0 (execKadd c kd ks1 ks2 w s) := by
  simp (maxDischargeDepth := 40) [execKadd, h]

@[simp] theorem keeps_execKsub (c : Core) (kd : Fin 32) (ks1 : Fin 32) (ks2 : Fin 32) (w : KvW) (s : State) (h :
    Keeps C s0 s) : KeepsOut C s0 (execKsub c kd ks1 ks2 w s) := by
  simp (maxDischargeDepth := 40) [execKsub, h]

@[simp] theorem keeps_execKmul (c : Core) (kd : Fin 32) (ks1 : Fin 32) (ks2 : Fin 32) (w : KvW) (s : State) (h :
    Keeps C s0 s) : KeepsOut C s0 (execKmul c kd ks1 ks2 w s) := by
  simp (maxDischargeDepth := 40) [execKmul, h]

@[simp] theorem keeps_execKand (c : Core) (kd : Fin 32) (ks1 : Fin 32) (ks2 : Fin 32) (w : KvW) (s : State) (h :
    Keeps C s0 s) : KeepsOut C s0 (execKand c kd ks1 ks2 w s) := by
  simp (maxDischargeDepth := 40) [execKand, h]

@[simp] theorem keeps_execKor (c : Core) (kd : Fin 32) (ks1 : Fin 32) (ks2 : Fin 32) (w : KvW) (s : State) (h :
    Keeps C s0 s) : KeepsOut C s0 (execKor c kd ks1 ks2 w s) := by
  simp (maxDischargeDepth := 40) [execKor, h]

@[simp] theorem keeps_execKxor (c : Core) (kd : Fin 32) (ks1 : Fin 32) (ks2 : Fin 32) (w : KvW) (s : State) (h :
    Keeps C s0 s) : KeepsOut C s0 (execKxor c kd ks1 ks2 w s) := by
  simp (maxDischargeDepth := 40) [execKxor, h]

@[simp] theorem keeps_execKmin (c : Core) (kd : Fin 32) (ks1 : Fin 32) (ks2 : Fin 32) (w : KvW) (s : State) (h :
    Keeps C s0 s) : KeepsOut C s0 (execKmin c kd ks1 ks2 w s) := by
  simp (maxDischargeDepth := 40) [execKmin, h]

@[simp] theorem keeps_execKmax (c : Core) (kd : Fin 32) (ks1 : Fin 32) (ks2 : Fin 32) (w : KvW) (s : State) (h :
    Keeps C s0 s) : KeepsOut C s0 (execKmax c kd ks1 ks2 w s) := by
  simp (maxDischargeDepth := 40) [execKmax, h]

@[simp] theorem keeps_execKadds (c : Core) (kd : Fin 32) (ks1 : Fin 32) (ks2 : Fin 32) (w : KvW) (s : State) (h :
    Keeps C s0 s) : KeepsOut C s0 (execKadds c kd ks1 ks2 w s) := by
  simp (maxDischargeDepth := 40) [execKadds, h]

@[simp] theorem keeps_execKsubs (c : Core) (kd : Fin 32) (ks1 : Fin 32) (ks2 : Fin 32) (w : KvW) (s : State) (h :
    Keeps C s0 s) : KeepsOut C s0 (execKsubs c kd ks1 ks2 w s) := by
  simp (maxDischargeDepth := 40) [execKsubs, h]

@[simp] theorem keeps_execKsra (c : Core) (kd : Fin 32) (ks1 : Fin 32) (imm : Fin 32) (w : KvW) (s : State) (h :
    Keeps C s0 s) : KeepsOut C s0 (execKsra c kd ks1 imm w s) := by
  simp (maxDischargeDepth := 40) [execKsra, h]

@[simp] theorem keeps_execKsll (c : Core) (kd : Fin 32) (ks1 : Fin 32) (imm : Fin 32) (w : KvW) (s : State) (h :
    Keeps C s0 s) : KeepsOut C s0 (execKsll c kd ks1 imm w s) := by
  simp (maxDischargeDepth := 40) [execKsll, h]

@[simp] theorem keeps_execKwmulLo (c : Core) (kd : Fin 32) (ks1 : Fin 32) (ks2 : Fin 32) (w : KvW) (s : State) (h :
    Keeps C s0 s) : KeepsOut C s0 (execKwmulLo c kd ks1 ks2 w s) := by
  simp (maxDischargeDepth := 40) [execKwmulLo, h]

@[simp] theorem keeps_execKwmulHi (c : Core) (kd : Fin 32) (ks1 : Fin 32) (ks2 : Fin 32) (w : KvW) (s : State) (h :
    Keeps C s0 s) : KeepsOut C s0 (execKwmulHi c kd ks1 ks2 w s) := by
  simp (maxDischargeDepth := 40) [execKwmulHi, h]

@[simp] theorem keeps_execKwmuluLo (c : Core) (kd : Fin 32) (ks1 : Fin 32) (ks2 : Fin 32) (w : KvW) (s : State) (h :
    Keeps C s0 s) : KeepsOut C s0 (execKwmuluLo c kd ks1 ks2 w s) := by
  simp (maxDischargeDepth := 40) [execKwmuluLo, h]

@[simp] theorem keeps_execKwmuluHi (c : Core) (kd : Fin 32) (ks1 : Fin 32) (ks2 : Fin 32) (w : KvW) (s : State) (h :
    Keeps C s0 s) : KeepsOut C s0 (execKwmuluHi c kd ks1 ks2 w s) := by
  simp (maxDischargeDepth := 40) [execKwmuluHi, h]

@[simp] theorem keeps_execKwmul4Q0 (c : Core) (kd : Fin 32) (ks1 : Fin 32) (ks2 : Fin 32) (w : KvW) (s : State) (h :
    Keeps C s0 s) : KeepsOut C s0 (execKwmul4Q0 c kd ks1 ks2 w s) := by
  simp (maxDischargeDepth := 40) [execKwmul4Q0, h]

@[simp] theorem keeps_execKwmul4Q1 (c : Core) (kd : Fin 32) (ks1 : Fin 32) (ks2 : Fin 32) (w : KvW) (s : State) (h :
    Keeps C s0 s) : KeepsOut C s0 (execKwmul4Q1 c kd ks1 ks2 w s) := by
  simp (maxDischargeDepth := 40) [execKwmul4Q1, h]

@[simp] theorem keeps_execKwmul4Q2 (c : Core) (kd : Fin 32) (ks1 : Fin 32) (ks2 : Fin 32) (w : KvW) (s : State) (h :
    Keeps C s0 s) : KeepsOut C s0 (execKwmul4Q2 c kd ks1 ks2 w s) := by
  simp (maxDischargeDepth := 40) [execKwmul4Q2, h]

@[simp] theorem keeps_execKwmul4Q3 (c : Core) (kd : Fin 32) (ks1 : Fin 32) (ks2 : Fin 32) (w : KvW) (s : State) (h :
    Keeps C s0 s) : KeepsOut C s0 (execKwmul4Q3 c kd ks1 ks2 w s) := by
  simp (maxDischargeDepth := 40) [execKwmul4Q3, h]

@[simp] theorem keeps_execKdot (c : Core) (kd : Fin 32) (ks1 : Fin 32) (ks2 : Fin 32) (w : KvW) (s : State) (h :
    Keeps C s0 s) : KeepsOut C s0 (execKdot c kd ks1 ks2 w s) := by
  simp (maxDischargeDepth := 40) [execKdot, h]

@[simp] theorem keeps_execKdotu (c : Core) (kd : Fin 32) (ks1 : Fin 32) (ks2 : Fin 32) (w : KvW) (s : State) (h :
    Keeps C s0 s) : KeepsOut C s0 (execKdotu c kd ks1 ks2 w s) := by
  simp (maxDischargeDepth := 40) [execKdotu, h]

@[simp] theorem keeps_execKdotus (c : Core) (kd : Fin 32) (ks1 : Fin 32) (ks2 : Fin 32) (w : KvW) (s : State) (h :
    Keeps C s0 s) : KeepsOut C s0 (execKdotus c kd ks1 ks2 w s) := by
  simp (maxDischargeDepth := 40) [execKdotus, h]

@[simp] theorem keeps_execKrsum (c : Core) (kd : Fin 32) (ks1 : Fin 32) (w : KvW) (s : State) (h : Keeps C s0 s) :
    KeepsOut C s0 (execKrsum c kd ks1 w s) := by
  simp (maxDischargeDepth := 40) [execKrsum, h]

@[simp] theorem keeps_execKsplat (c : Core) (kd : Fin 32) (rs1 : Fin 32) (w : KvW) (s : State) (h : Keeps C s0 s) :
    KeepsOut C s0 (execKsplat c kd rs1 w s) := by
  simp (maxDischargeDepth := 40) [execKsplat, h]

@[simp] theorem keeps_execKmvxk (c : Core) (kd : Fin 32) (rs1 : Fin 32) (lane : Fin 32) (w : KvW) (s : State) (h :
    Keeps C s0 s) : KeepsOut C s0 (execKmvxk c kd rs1 lane w s) := by
  simp (maxDischargeDepth := 40) [execKmvxk, h]

@[simp] theorem keeps_execKmvkx (c : Core) (rd : Fin 32) (ks1 : Fin 32) (lane : Fin 32) (w : KvW) (s : State) (h :
    Keeps C s0 s) : KeepsOut C s0 (execKmvkx c rd ks1 lane w s) := by
  simp (maxDischargeDepth := 40) [execKmvkx, h]

@[simp] theorem keeps_execIllegalInstruction (c : Core) (bits : BitVec 32) (s : State) (h : Keeps C s0 s) : KeepsOut
    C s0 (execIllegalInstruction c bits s) := by
  simp (maxDischargeDepth := 40) [execIllegalInstruction, h]

end Sys2Proof.Machine
end

