-- ==== Sys2Proof/Laws/KeepsTick.lean ====
section
/-! SUPPORT. What the operations of Machine/Tick keep: the queue, the versions in the fuses, and the canonical tables. -/

namespace Sys2Proof.Machine

variable {C : Prop} {s0 : State}

@[simp] theorem keeps_timeTick (m : State) (h : Keeps C s0 m) : Keeps C s0 (State.timeTick m) := by
  simp (maxDischargeDepth := 40) [State.timeTick, h]

@[simp] theorem keeps_bucketTick (m : State) (s : ℕ) (n : ℕ) (h : Keeps C s0 m) : Keeps C s0 (State.bucketTick m s
    n) := by
  simp (maxDischargeDepth := 40) [State.bucketTick, h]

@[simp] theorem keeps_tick (m : State) (h : Keeps C s0 m) : Keeps C s0 (State.tick m) := by
  unfold State.tick
  (repeat' split) <;> simp (maxDischargeDepth := 40) +contextual [h, *]

end Sys2Proof.Machine
end

