-- ==== Sys2Proof/Laws/State.lean ====
section
/-! SUPPORT. One lemma per field of State per update: what an update leaves alone reads as before. -/

namespace Sys2Proof.Machine


/-! ## setReg -/

@[simp] theorem State.setReg_snap (m : State) (off v : Nat) : (m.setReg off v).snap = m.snap := rfl
@[simp] theorem State.setReg_mem (m : State) (off v : Nat) : (m.setReg off v).mem = m.mem := rfl
@[simp] theorem State.setReg_poison (m : State) (off v : Nat) : (m.setReg off v).poison = m.poison := rfl
@[simp] theorem State.setReg_stale (m : State) (off v : Nat) : (m.setReg off v).stale = m.stale := rfl
@[simp] theorem State.setReg_stalePsn (m : State) (off v : Nat) : (m.setReg off v).stalePsn = m.stalePsn := rfl
@[simp] theorem State.setReg_cache (m : State) (off v : Nat) : (m.setReg off v).cache = m.cache := rfl
@[simp] theorem State.setReg_trayTags (m : State) (off v : Nat) : (m.setReg off v).trayTags = m.trayTags := rfl
@[simp] theorem State.setReg_coreBytes (m : State) (off v : Nat) : (m.setReg off v).coreBytes = m.coreBytes := rfl
@[simp] theorem State.setReg_mxScale (m : State) (off v : Nat) : (m.setReg off v).mxScale = m.mxScale := rfl
@[simp] theorem State.setReg_pstage (m : State) (off v : Nat) : (m.setReg off v).pstage = m.pstage := rfl
@[simp] theorem State.setReg_gens (m : State) (off v : Nat) : (m.setReg off v).gens = m.gens := rfl
@[simp] theorem State.setReg_lslots (m : State) (off v : Nat) : (m.setReg off v).lslots = m.lslots := rfl
@[simp] theorem State.setReg_queued (m : State) (off v : Nat) : (m.setReg off v).queued = m.queued := rfl
@[simp] theorem State.setReg_launches (m : State) (off v : Nat) : (m.setReg off v).launches = m.launches := rfl
@[simp] theorem State.setReg_lastFirst (m : State) (off v : Nat) : (m.setReg off v).lastFirst = m.lastFirst := rfl
@[simp] theorem State.setReg_pcOver (m : State) (off v : Nat) : (m.setReg off v).pcOver = m.pcOver := rfl
@[simp] theorem State.setReg_holds (m : State) (off v : Nat) : (m.setReg off v).holds = m.holds := rfl
@[simp] theorem State.setReg_xfers (m : State) (off v : Nat) : (m.setReg off v).xfers = m.xfers := rfl
@[simp] theorem State.setReg_gops (m : State) (off v : Nat) : (m.setReg off v).gops = m.gops := rfl
@[simp] theorem State.setReg_spks (m : State) (off v : Nat) : (m.setReg off v).spks = m.spks := rfl
@[simp] theorem State.setReg_norms (m : State) (off v : Nat) : (m.setReg off v).norms = m.norms := rfl
@[simp] theorem State.setReg_dispatches (m : State) (off v : Nat) : (m.setReg off v).dispatches = m.dispatches := rfl
@[simp] theorem State.setReg_vt (m : State) (off v : Nat) : (m.setReg off v).vt = m.vt := rfl
@[simp] theorem State.setReg_justReady (m : State) (off v : Nat) : (m.setReg off v).justReady = m.justReady := rfl
@[simp] theorem State.setReg_whisks (m : State) (off v : Nat) : (m.setReg off v).whisks = m.whisks := rfl
@[simp] theorem State.setReg_tongs (m : State) (off v : Nat) : (m.setReg off v).tongs = m.tongs := rfl
@[simp] theorem State.setReg_mortars (m : State) (off v : Nat) : (m.setReg off v).mortars = m.mortars := rfl
@[simp] theorem State.setReg_tdones (m : State) (off v : Nat) : (m.setReg off v).tdones = m.tdones := rfl
@[simp] theorem State.setReg_watches (m : State) (off v : Nat) : (m.setReg off v).watches = m.watches := rfl
@[simp] theorem State.setReg_notes (m : State) (off v : Nat) : (m.setReg off v).notes = m.notes := rfl
@[simp] theorem State.setReg_entrants (m : State) (off v : Nat) : (m.setReg off v).entrants = m.entrants := rfl
@[simp] theorem State.setReg_links (m : State) (off v : Nat) : (m.setReg off v).links = m.links := rfl
@[simp] theorem State.setReg_reqs (m : State) (off v : Nat) : (m.setReg off v).reqs = m.reqs := rfl
@[simp] theorem State.setReg_outq (m : State) (off v : Nat) : (m.setReg off v).outq = m.outq := rfl
@[simp] theorem State.setReg_rbufs (m : State) (off v : Nat) : (m.setReg off v).rbufs = m.rbufs := rfl
@[simp] theorem State.setReg_routes (m : State) (off v : Nat) : (m.setReg off v).routes = m.routes := rfl
@[simp] theorem State.setReg_groups (m : State) (off v : Nat) : (m.setReg off v).groups = m.groups := rfl
@[simp] theorem State.setReg_grpSeen (m : State) (off v : Nat) : (m.setReg off v).grpSeen = m.grpSeen := rfl
@[simp] theorem State.setReg_grpSeq (m : State) (off v : Nat) : (m.setReg off v).grpSeq = m.grpSeq := rfl
@[simp] theorem State.setReg_colls (m : State) (off v : Nat) : (m.setReg off v).colls = m.colls := rfl
@[simp] theorem State.setReg_verdicts (m : State) (off v : Nat) : (m.setReg off v).verdicts = m.verdicts := rfl
@[simp] theorem State.setReg_steps (m : State) (off v : Nat) : (m.setReg off v).steps = m.steps := rfl
@[simp] theorem State.setReg_events (m : State) (off v : Nat) : (m.setReg off v).events = m.events := rfl
@[simp] theorem State.setReg_lossPages (m : State) (off v : Nat) : (m.setReg off v).lossPages = m.lossPages := rfl
@[simp] theorem State.setReg_hist (m : State) (off v : Nat) : (m.setReg off v).hist = m.hist := rfl
@[simp] theorem State.setReg_alert (m : State) (off v : Nat) : (m.setReg off v).alert = m.alert := rfl
@[simp] theorem State.setReg_msix (m : State) (off v : Nat) : (m.setReg off v).msix = m.msix := rfl
@[simp] theorem State.setReg_coreIrq (m : State) (off v : Nat) : (m.setReg off v).coreIrq = m.coreIrq := rfl
@[simp] theorem State.setReg_buckets (m : State) (off v : Nat) : (m.setReg off v).buckets = m.buckets := rfl
@[simp] theorem State.setReg_rsvBytes (m : State) (off v : Nat) : (m.setReg off v).rsvBytes = m.rsvBytes := rfl
@[simp] theorem State.setReg_flight (m : State) (off v : Nat) : (m.setReg off v).flight = m.flight := rfl
@[simp] theorem State.setReg_hbmOut (m : State) (off v : Nat) : (m.setReg off v).hbmOut = m.hbmOut := rfl
@[simp] theorem State.setReg_resets (m : State) (off v : Nat) : (m.setReg off v).resets = m.resets := rfl
@[simp] theorem State.setReg_bells (m : State) (off v : Nat) : (m.setReg off v).bells = m.bells := rfl
@[simp] theorem State.setReg_engResets (m : State) (off v : Nat) : (m.setReg off v).engResets = m.engResets := rfl
@[simp] theorem State.setReg_flushes (m : State) (off v : Nat) : (m.setReg off v).flushes = m.flushes := rfl
@[simp] theorem State.setReg_zeroing (m : State) (off v : Nat) : (m.setReg off v).zeroing = m.zeroing := rfl
@[simp] theorem State.setReg_power (m : State) (off v : Nat) : (m.setReg off v).power = m.power := rfl
@[simp] theorem State.setReg_pins (m : State) (off v : Nat) : (m.setReg off v).pins = m.pins := rfl
@[simp] theorem State.setReg_alive (m : State) (off v : Nat) : (m.setReg off v).alive = m.alive := rfl
@[simp] theorem State.setReg_cores (m : State) (off v : Nat) : (m.setReg off v).cores = m.cores := rfl
@[simp] theorem State.setReg_fuses (m : State) (off v : Nat) : (m.setReg off v).fuses = m.fuses := rfl
@[simp] theorem State.setReg_flash (m : State) (off v : Nat) : (m.setReg off v).flash = m.flash := rfl
@[simp] theorem State.setReg_session (m : State) (off v : Nat) : (m.setReg off v).session = m.session := rfl
@[simp] theorem State.setReg_hoCopy (m : State) (off v : Nat) : (m.setReg off v).hoCopy = m.hoCopy := rfl
@[simp] theorem State.setReg_hoOpen (m : State) (off v : Nat) : (m.setReg off v).hoOpen = m.hoOpen := rfl
@[simp] theorem State.setReg_hoSave (m : State) (off v : Nat) : (m.setReg off v).hoSave = m.hoSave := rfl
@[simp] theorem State.setReg_hoValid (m : State) (off v : Nat) : (m.setReg off v).hoValid = m.hoValid := rfl
@[simp] theorem State.setReg_svcRun (m : State) (off v : Nat) : (m.setReg off v).svcRun = m.svcRun := rfl
@[simp] theorem State.setReg_tSvn (m : State) (off v : Nat) : (m.setReg off v).tSvn = m.tSvn := rfl
@[simp] theorem State.setReg_sSvn (m : State) (off v : Nat) : (m.setReg off v).sSvn = m.sSvn := rfl
@[simp] theorem State.setReg_stagedT (m : State) (off v : Nat) : (m.setReg off v).stagedT = m.stagedT := rfl
@[simp] theorem State.setReg_stagedS (m : State) (off v : Nat) : (m.setReg off v).stagedS = m.stagedS := rfl
@[simp] theorem State.setReg_mbLast (m : State) (off v : Nat) : (m.setReg off v).mbLast = m.mbLast := rfl
@[simp] theorem State.setReg_nodeSet (m : State) (off v : Nat) : (m.setReg off v).nodeSet = m.nodeSet := rfl
@[simp] theorem State.setReg_relays (m : State) (off v : Nat) : (m.setReg off v).relays = m.relays := rfl
@[simp] theorem State.setReg_mgmtRsp (m : State) (off v : Nat) : (m.setReg off v).mgmtRsp = m.mgmtRsp := rfl
@[simp] theorem State.setReg_smbOff (m : State) (off v : Nat) : (m.setReg off v).smbOff = m.smbOff := rfl
@[simp] theorem State.setReg_smbOut (m : State) (off v : Nat) : (m.setReg off v).smbOut = m.smbOut := rfl
@[simp] theorem State.setReg_jtagIr (m : State) (off v : Nat) : (m.setReg off v).jtagIr = m.jtagIr := rfl
@[simp] theorem State.setReg_jtagDr (m : State) (off v : Nat) : (m.setReg off v).jtagDr = m.jtagDr := rfl
@[simp] theorem State.setReg_busOut (m : State) (off v : Nat) : (m.setReg off v).busOut = m.busOut := rfl
@[simp] theorem State.setReg_lastLatch (m : State) (off v : Nat) : (m.setReg off v).lastLatch = m.lastLatch := rfl
@[simp] theorem State.setReg_slew (m : State) (off v : Nat) : (m.setReg off v).slew = m.slew := rfl
@[simp] theorem State.setReg_slow (m : State) (off v : Nat) : (m.setReg off v).slow = m.slow := rfl
@[simp] theorem State.setReg_frac (m : State) (off v : Nat) : (m.setReg off v).frac = m.frac := rfl
@[simp] theorem State.setReg_marginOn (m : State) (off v : Nat) : (m.setReg off v).marginOn = m.marginOn := rfl
@[simp] theorem State.setReg_nextId (m : State) (off v : Nat) : (m.setReg off v).nextId = m.nextId := rfl
@[simp] theorem State.setReg_free (m : State) (off v : Nat) : (m.setReg off v).free = m.free := rfl
@[simp] theorem State.setReg_pending (m : State) (off v : Nat) : (m.setReg off v).pending = m.pending := rfl
@[simp] theorem State.setReg_at_byte (m : State) (off v : Nat) (addr : Nat) : (m.setReg off v).byte addr = m.byte addr := rfl
@[simp] theorem State.setReg_at_bytes (m : State) (off v : Nat) (addr len : Nat) : (m.setReg off v).bytes addr len = m.bytes addr len := rfl

/-! ## setFld -/

@[simp] theorem State.setFld_snap (m : State) (f : Fld) (v : Nat) : (m.setFld f v).snap = m.snap := rfl
@[simp] theorem State.setFld_mem (m : State) (f : Fld) (v : Nat) : (m.setFld f v).mem = m.mem := rfl
@[simp] theorem State.setFld_poison (m : State) (f : Fld) (v : Nat) : (m.setFld f v).poison = m.poison := rfl
@[simp] theorem State.setFld_stale (m : State) (f : Fld) (v : Nat) : (m.setFld f v).stale = m.stale := rfl
@[simp] theorem State.setFld_stalePsn (m : State) (f : Fld) (v : Nat) : (m.setFld f v).stalePsn = m.stalePsn := rfl
@[simp] theorem State.setFld_cache (m : State) (f : Fld) (v : Nat) : (m.setFld f v).cache = m.cache := rfl
@[simp] theorem State.setFld_trayTags (m : State) (f : Fld) (v : Nat) : (m.setFld f v).trayTags = m.trayTags := rfl
@[simp] theorem State.setFld_coreBytes (m : State) (f : Fld) (v : Nat) : (m.setFld f v).coreBytes = m.coreBytes := rfl
@[simp] theorem State.setFld_mxScale (m : State) (f : Fld) (v : Nat) : (m.setFld f v).mxScale = m.mxScale := rfl
@[simp] theorem State.setFld_pstage (m : State) (f : Fld) (v : Nat) : (m.setFld f v).pstage = m.pstage := rfl
@[simp] theorem State.setFld_gens (m : State) (f : Fld) (v : Nat) : (m.setFld f v).gens = m.gens := rfl
@[simp] theorem State.setFld_lslots (m : State) (f : Fld) (v : Nat) : (m.setFld f v).lslots = m.lslots := rfl
@[simp] theorem State.setFld_queued (m : State) (f : Fld) (v : Nat) : (m.setFld f v).queued = m.queued := rfl
@[simp] theorem State.setFld_launches (m : State) (f : Fld) (v : Nat) : (m.setFld f v).launches = m.launches := rfl
@[simp] theorem State.setFld_lastFirst (m : State) (f : Fld) (v : Nat) : (m.setFld f v).lastFirst = m.lastFirst := rfl
@[simp] theorem State.setFld_pcOver (m : State) (f : Fld) (v : Nat) : (m.setFld f v).pcOver = m.pcOver := rfl
@[simp] theorem State.setFld_holds (m : State) (f : Fld) (v : Nat) : (m.setFld f v).holds = m.holds := rfl
@[simp] theorem State.setFld_xfers (m : State) (f : Fld) (v : Nat) : (m.setFld f v).xfers = m.xfers := rfl
@[simp] theorem State.setFld_gops (m : State) (f : Fld) (v : Nat) : (m.setFld f v).gops = m.gops := rfl
@[simp] theorem State.setFld_spks (m : State) (f : Fld) (v : Nat) : (m.setFld f v).spks = m.spks := rfl
@[simp] theorem State.setFld_norms (m : State) (f : Fld) (v : Nat) : (m.setFld f v).norms = m.norms := rfl
@[simp] theorem State.setFld_dispatches (m : State) (f : Fld) (v : Nat) : (m.setFld f v).dispatches = m.dispatches := rfl
@[simp] theorem State.setFld_vt (m : State) (f : Fld) (v : Nat) : (m.setFld f v).vt = m.vt := rfl
@[simp] theorem State.setFld_justReady (m : State) (f : Fld) (v : Nat) : (m.setFld f v).justReady = m.justReady := rfl
@[simp] theorem State.setFld_whisks (m : State) (f : Fld) (v : Nat) : (m.setFld f v).whisks = m.whisks := rfl
@[simp] theorem State.setFld_tongs (m : State) (f : Fld) (v : Nat) : (m.setFld f v).tongs = m.tongs := rfl
@[simp] theorem State.setFld_mortars (m : State) (f : Fld) (v : Nat) : (m.setFld f v).mortars = m.mortars := rfl
@[simp] theorem State.setFld_tdones (m : State) (f : Fld) (v : Nat) : (m.setFld f v).tdones = m.tdones := rfl
@[simp] theorem State.setFld_watches (m : State) (f : Fld) (v : Nat) : (m.setFld f v).watches = m.watches := rfl
@[simp] theorem State.setFld_notes (m : State) (f : Fld) (v : Nat) : (m.setFld f v).notes = m.notes := rfl
@[simp] theorem State.setFld_entrants (m : State) (f : Fld) (v : Nat) : (m.setFld f v).entrants = m.entrants := rfl
@[simp] theorem State.setFld_links (m : State) (f : Fld) (v : Nat) : (m.setFld f v).links = m.links := rfl
@[simp] theorem State.setFld_reqs (m : State) (f : Fld) (v : Nat) : (m.setFld f v).reqs = m.reqs := rfl
@[simp] theorem State.setFld_outq (m : State) (f : Fld) (v : Nat) : (m.setFld f v).outq = m.outq := rfl
@[simp] theorem State.setFld_rbufs (m : State) (f : Fld) (v : Nat) : (m.setFld f v).rbufs = m.rbufs := rfl
@[simp] theorem State.setFld_routes (m : State) (f : Fld) (v : Nat) : (m.setFld f v).routes = m.routes := rfl
@[simp] theorem State.setFld_groups (m : State) (f : Fld) (v : Nat) : (m.setFld f v).groups = m.groups := rfl
@[simp] theorem State.setFld_grpSeen (m : State) (f : Fld) (v : Nat) : (m.setFld f v).grpSeen = m.grpSeen := rfl
@[simp] theorem State.setFld_grpSeq (m : State) (f : Fld) (v : Nat) : (m.setFld f v).grpSeq = m.grpSeq := rfl
@[simp] theorem State.setFld_colls (m : State) (f : Fld) (v : Nat) : (m.setFld f v).colls = m.colls := rfl
@[simp] theorem State.setFld_verdicts (m : State) (f : Fld) (v : Nat) : (m.setFld f v).verdicts = m.verdicts := rfl
@[simp] theorem State.setFld_steps (m : State) (f : Fld) (v : Nat) : (m.setFld f v).steps = m.steps := rfl
@[simp] theorem State.setFld_events (m : State) (f : Fld) (v : Nat) : (m.setFld f v).events = m.events := rfl
@[simp] theorem State.setFld_lossPages (m : State) (f : Fld) (v : Nat) : (m.setFld f v).lossPages = m.lossPages := rfl
@[simp] theorem State.setFld_hist (m : State) (f : Fld) (v : Nat) : (m.setFld f v).hist = m.hist := rfl
@[simp] theorem State.setFld_alert (m : State) (f : Fld) (v : Nat) : (m.setFld f v).alert = m.alert := rfl
@[simp] theorem State.setFld_msix (m : State) (f : Fld) (v : Nat) : (m.setFld f v).msix = m.msix := rfl
@[simp] theorem State.setFld_coreIrq (m : State) (f : Fld) (v : Nat) : (m.setFld f v).coreIrq = m.coreIrq := rfl
@[simp] theorem State.setFld_buckets (m : State) (f : Fld) (v : Nat) : (m.setFld f v).buckets = m.buckets := rfl
@[simp] theorem State.setFld_rsvBytes (m : State) (f : Fld) (v : Nat) : (m.setFld f v).rsvBytes = m.rsvBytes := rfl
@[simp] theorem State.setFld_flight (m : State) (f : Fld) (v : Nat) : (m.setFld f v).flight = m.flight := rfl
@[simp] theorem State.setFld_hbmOut (m : State) (f : Fld) (v : Nat) : (m.setFld f v).hbmOut = m.hbmOut := rfl
@[simp] theorem State.setFld_resets (m : State) (f : Fld) (v : Nat) : (m.setFld f v).resets = m.resets := rfl
@[simp] theorem State.setFld_bells (m : State) (f : Fld) (v : Nat) : (m.setFld f v).bells = m.bells := rfl
@[simp] theorem State.setFld_engResets (m : State) (f : Fld) (v : Nat) : (m.setFld f v).engResets = m.engResets := rfl
@[simp] theorem State.setFld_flushes (m : State) (f : Fld) (v : Nat) : (m.setFld f v).flushes = m.flushes := rfl
@[simp] theorem State.setFld_zeroing (m : State) (f : Fld) (v : Nat) : (m.setFld f v).zeroing = m.zeroing := rfl
@[simp] theorem State.setFld_power (m : State) (f : Fld) (v : Nat) : (m.setFld f v).power = m.power := rfl
@[simp] theorem State.setFld_pins (m : State) (f : Fld) (v : Nat) : (m.setFld f v).pins = m.pins := rfl
@[simp] theorem State.setFld_alive (m : State) (f : Fld) (v : Nat) : (m.setFld f v).alive = m.alive := rfl
@[simp] theorem State.setFld_cores (m : State) (f : Fld) (v : Nat) : (m.setFld f v).cores = m.cores := rfl
@[simp] theorem State.setFld_fuses (m : State) (f : Fld) (v : Nat) : (m.setFld f v).fuses = m.fuses := rfl
@[simp] theorem State.setFld_flash (m : State) (f : Fld) (v : Nat) : (m.setFld f v).flash = m.flash := rfl
@[simp] theorem State.setFld_session (m : State) (f : Fld) (v : Nat) : (m.setFld f v).session = m.session := rfl
@[simp] theorem State.setFld_hoCopy (m : State) (f : Fld) (v : Nat) : (m.setFld f v).hoCopy = m.hoCopy := rfl
@[simp] theorem State.setFld_hoOpen (m : State) (f : Fld) (v : Nat) : (m.setFld f v).hoOpen = m.hoOpen := rfl
@[simp] theorem State.setFld_hoSave (m : State) (f : Fld) (v : Nat) : (m.setFld f v).hoSave = m.hoSave := rfl
@[simp] theorem State.setFld_hoValid (m : State) (f : Fld) (v : Nat) : (m.setFld f v).hoValid = m.hoValid := rfl
@[simp] theorem State.setFld_svcRun (m : State) (f : Fld) (v : Nat) : (m.setFld f v).svcRun = m.svcRun := rfl
@[simp] theorem State.setFld_tSvn (m : State) (f : Fld) (v : Nat) : (m.setFld f v).tSvn = m.tSvn := rfl
@[simp] theorem State.setFld_sSvn (m : State) (f : Fld) (v : Nat) : (m.setFld f v).sSvn = m.sSvn := rfl
@[simp] theorem State.setFld_stagedT (m : State) (f : Fld) (v : Nat) : (m.setFld f v).stagedT = m.stagedT := rfl
@[simp] theorem State.setFld_stagedS (m : State) (f : Fld) (v : Nat) : (m.setFld f v).stagedS = m.stagedS := rfl
@[simp] theorem State.setFld_mbLast (m : State) (f : Fld) (v : Nat) : (m.setFld f v).mbLast = m.mbLast := rfl
@[simp] theorem State.setFld_nodeSet (m : State) (f : Fld) (v : Nat) : (m.setFld f v).nodeSet = m.nodeSet := rfl
@[simp] theorem State.setFld_relays (m : State) (f : Fld) (v : Nat) : (m.setFld f v).relays = m.relays := rfl
@[simp] theorem State.setFld_mgmtRsp (m : State) (f : Fld) (v : Nat) : (m.setFld f v).mgmtRsp = m.mgmtRsp := rfl
@[simp] theorem State.setFld_smbOff (m : State) (f : Fld) (v : Nat) : (m.setFld f v).smbOff = m.smbOff := rfl
@[simp] theorem State.setFld_smbOut (m : State) (f : Fld) (v : Nat) : (m.setFld f v).smbOut = m.smbOut := rfl
@[simp] theorem State.setFld_jtagIr (m : State) (f : Fld) (v : Nat) : (m.setFld f v).jtagIr = m.jtagIr := rfl
@[simp] theorem State.setFld_jtagDr (m : State) (f : Fld) (v : Nat) : (m.setFld f v).jtagDr = m.jtagDr := rfl
@[simp] theorem State.setFld_busOut (m : State) (f : Fld) (v : Nat) : (m.setFld f v).busOut = m.busOut := rfl
@[simp] theorem State.setFld_lastLatch (m : State) (f : Fld) (v : Nat) : (m.setFld f v).lastLatch = m.lastLatch := rfl
@[simp] theorem State.setFld_slew (m : State) (f : Fld) (v : Nat) : (m.setFld f v).slew = m.slew := rfl
@[simp] theorem State.setFld_slow (m : State) (f : Fld) (v : Nat) : (m.setFld f v).slow = m.slow := rfl
@[simp] theorem State.setFld_frac (m : State) (f : Fld) (v : Nat) : (m.setFld f v).frac = m.frac := rfl
@[simp] theorem State.setFld_marginOn (m : State) (f : Fld) (v : Nat) : (m.setFld f v).marginOn = m.marginOn := rfl
@[simp] theorem State.setFld_nextId (m : State) (f : Fld) (v : Nat) : (m.setFld f v).nextId = m.nextId := rfl
@[simp] theorem State.setFld_free (m : State) (f : Fld) (v : Nat) : (m.setFld f v).free = m.free := rfl
@[simp] theorem State.setFld_pending (m : State) (f : Fld) (v : Nat) : (m.setFld f v).pending = m.pending := rfl
@[simp] theorem State.setFld_at_byte (m : State) (f : Fld) (v : Nat) (addr : Nat) : (m.setFld f v).byte addr = m.byte addr := rfl
@[simp] theorem State.setFld_at_bytes (m : State) (f : Fld) (v : Nat) (addr len : Nat) : (m.setFld f v).bytes addr len = m.bytes addr len := rfl

/-! ## setFlag -/

@[simp] theorem State.setFlag_snap (m : State) (f : Fld) (b : Bool) : (m.setFlag f b).snap = m.snap := rfl
@[simp] theorem State.setFlag_mem (m : State) (f : Fld) (b : Bool) : (m.setFlag f b).mem = m.mem := rfl
@[simp] theorem State.setFlag_poison (m : State) (f : Fld) (b : Bool) : (m.setFlag f b).poison = m.poison := rfl
@[simp] theorem State.setFlag_stale (m : State) (f : Fld) (b : Bool) : (m.setFlag f b).stale = m.stale := rfl
@[simp] theorem State.setFlag_stalePsn (m : State) (f : Fld) (b : Bool) : (m.setFlag f b).stalePsn = m.stalePsn := rfl
@[simp] theorem State.setFlag_cache (m : State) (f : Fld) (b : Bool) : (m.setFlag f b).cache = m.cache := rfl
@[simp] theorem State.setFlag_trayTags (m : State) (f : Fld) (b : Bool) : (m.setFlag f b).trayTags = m.trayTags := rfl
@[simp] theorem State.setFlag_coreBytes (m : State) (f : Fld) (b : Bool) : (m.setFlag f b).coreBytes = m.coreBytes := rfl
@[simp] theorem State.setFlag_mxScale (m : State) (f : Fld) (b : Bool) : (m.setFlag f b).mxScale = m.mxScale := rfl
@[simp] theorem State.setFlag_pstage (m : State) (f : Fld) (b : Bool) : (m.setFlag f b).pstage = m.pstage := rfl
@[simp] theorem State.setFlag_gens (m : State) (f : Fld) (b : Bool) : (m.setFlag f b).gens = m.gens := rfl
@[simp] theorem State.setFlag_lslots (m : State) (f : Fld) (b : Bool) : (m.setFlag f b).lslots = m.lslots := rfl
@[simp] theorem State.setFlag_queued (m : State) (f : Fld) (b : Bool) : (m.setFlag f b).queued = m.queued := rfl
@[simp] theorem State.setFlag_launches (m : State) (f : Fld) (b : Bool) : (m.setFlag f b).launches = m.launches := rfl
@[simp] theorem State.setFlag_lastFirst (m : State) (f : Fld) (b : Bool) : (m.setFlag f b).lastFirst = m.lastFirst := rfl
@[simp] theorem State.setFlag_pcOver (m : State) (f : Fld) (b : Bool) : (m.setFlag f b).pcOver = m.pcOver := rfl
@[simp] theorem State.setFlag_holds (m : State) (f : Fld) (b : Bool) : (m.setFlag f b).holds = m.holds := rfl
@[simp] theorem State.setFlag_xfers (m : State) (f : Fld) (b : Bool) : (m.setFlag f b).xfers = m.xfers := rfl
@[simp] theorem State.setFlag_gops (m : State) (f : Fld) (b : Bool) : (m.setFlag f b).gops = m.gops := rfl
@[simp] theorem State.setFlag_spks (m : State) (f : Fld) (b : Bool) : (m.setFlag f b).spks = m.spks := rfl
@[simp] theorem State.setFlag_norms (m : State) (f : Fld) (b : Bool) : (m.setFlag f b).norms = m.norms := rfl
@[simp] theorem State.setFlag_dispatches (m : State) (f : Fld) (b : Bool) : (m.setFlag f b).dispatches = m.dispatches := rfl
@[simp] theorem State.setFlag_vt (m : State) (f : Fld) (b : Bool) : (m.setFlag f b).vt = m.vt := rfl
@[simp] theorem State.setFlag_justReady (m : State) (f : Fld) (b : Bool) : (m.setFlag f b).justReady = m.justReady := rfl
@[simp] theorem State.setFlag_whisks (m : State) (f : Fld) (b : Bool) : (m.setFlag f b).whisks = m.whisks := rfl
@[simp] theorem State.setFlag_tongs (m : State) (f : Fld) (b : Bool) : (m.setFlag f b).tongs = m.tongs := rfl
@[simp] theorem State.setFlag_mortars (m : State) (f : Fld) (b : Bool) : (m.setFlag f b).mortars = m.mortars := rfl
@[simp] theorem State.setFlag_tdones (m : State) (f : Fld) (b : Bool) : (m.setFlag f b).tdones = m.tdones := rfl
@[simp] theorem State.setFlag_watches (m : State) (f : Fld) (b : Bool) : (m.setFlag f b).watches = m.watches := rfl
@[simp] theorem State.setFlag_notes (m : State) (f : Fld) (b : Bool) : (m.setFlag f b).notes = m.notes := rfl
@[simp] theorem State.setFlag_entrants (m : State) (f : Fld) (b : Bool) : (m.setFlag f b).entrants = m.entrants := rfl
@[simp] theorem State.setFlag_links (m : State) (f : Fld) (b : Bool) : (m.setFlag f b).links = m.links := rfl
@[simp] theorem State.setFlag_reqs (m : State) (f : Fld) (b : Bool) : (m.setFlag f b).reqs = m.reqs := rfl
@[simp] theorem State.setFlag_outq (m : State) (f : Fld) (b : Bool) : (m.setFlag f b).outq = m.outq := rfl
@[simp] theorem State.setFlag_rbufs (m : State) (f : Fld) (b : Bool) : (m.setFlag f b).rbufs = m.rbufs := rfl
@[simp] theorem State.setFlag_routes (m : State) (f : Fld) (b : Bool) : (m.setFlag f b).routes = m.routes := rfl
@[simp] theorem State.setFlag_groups (m : State) (f : Fld) (b : Bool) : (m.setFlag f b).groups = m.groups := rfl
@[simp] theorem State.setFlag_grpSeen (m : State) (f : Fld) (b : Bool) : (m.setFlag f b).grpSeen = m.grpSeen := rfl
@[simp] theorem State.setFlag_grpSeq (m : State) (f : Fld) (b : Bool) : (m.setFlag f b).grpSeq = m.grpSeq := rfl
@[simp] theorem State.setFlag_colls (m : State) (f : Fld) (b : Bool) : (m.setFlag f b).colls = m.colls := rfl
@[simp] theorem State.setFlag_verdicts (m : State) (f : Fld) (b : Bool) : (m.setFlag f b).verdicts = m.verdicts := rfl
@[simp] theorem State.setFlag_steps (m : State) (f : Fld) (b : Bool) : (m.setFlag f b).steps = m.steps := rfl
@[simp] theorem State.setFlag_events (m : State) (f : Fld) (b : Bool) : (m.setFlag f b).events = m.events := rfl
@[simp] theorem State.setFlag_lossPages (m : State) (f : Fld) (b : Bool) : (m.setFlag f b).lossPages = m.lossPages := rfl
@[simp] theorem State.setFlag_hist (m : State) (f : Fld) (b : Bool) : (m.setFlag f b).hist = m.hist := rfl
@[simp] theorem State.setFlag_alert (m : State) (f : Fld) (b : Bool) : (m.setFlag f b).alert = m.alert := rfl
@[simp] theorem State.setFlag_msix (m : State) (f : Fld) (b : Bool) : (m.setFlag f b).msix = m.msix := rfl
@[simp] theorem State.setFlag_coreIrq (m : State) (f : Fld) (b : Bool) : (m.setFlag f b).coreIrq = m.coreIrq := rfl
@[simp] theorem State.setFlag_buckets (m : State) (f : Fld) (b : Bool) : (m.setFlag f b).buckets = m.buckets := rfl
@[simp] theorem State.setFlag_rsvBytes (m : State) (f : Fld) (b : Bool) : (m.setFlag f b).rsvBytes = m.rsvBytes := rfl
@[simp] theorem State.setFlag_flight (m : State) (f : Fld) (b : Bool) : (m.setFlag f b).flight = m.flight := rfl
@[simp] theorem State.setFlag_hbmOut (m : State) (f : Fld) (b : Bool) : (m.setFlag f b).hbmOut = m.hbmOut := rfl
@[simp] theorem State.setFlag_resets (m : State) (f : Fld) (b : Bool) : (m.setFlag f b).resets = m.resets := rfl
@[simp] theorem State.setFlag_bells (m : State) (f : Fld) (b : Bool) : (m.setFlag f b).bells = m.bells := rfl
@[simp] theorem State.setFlag_engResets (m : State) (f : Fld) (b : Bool) : (m.setFlag f b).engResets = m.engResets := rfl
@[simp] theorem State.setFlag_flushes (m : State) (f : Fld) (b : Bool) : (m.setFlag f b).flushes = m.flushes := rfl
@[simp] theorem State.setFlag_zeroing (m : State) (f : Fld) (b : Bool) : (m.setFlag f b).zeroing = m.zeroing := rfl
@[simp] theorem State.setFlag_power (m : State) (f : Fld) (b : Bool) : (m.setFlag f b).power = m.power := rfl
@[simp] theorem State.setFlag_pins (m : State) (f : Fld) (b : Bool) : (m.setFlag f b).pins = m.pins := rfl
@[simp] theorem State.setFlag_alive (m : State) (f : Fld) (b : Bool) : (m.setFlag f b).alive = m.alive := rfl
@[simp] theorem State.setFlag_cores (m : State) (f : Fld) (b : Bool) : (m.setFlag f b).cores = m.cores := rfl
@[simp] theorem State.setFlag_fuses (m : State) (f : Fld) (b : Bool) : (m.setFlag f b).fuses = m.fuses := rfl
@[simp] theorem State.setFlag_flash (m : State) (f : Fld) (b : Bool) : (m.setFlag f b).flash = m.flash := rfl
@[simp] theorem State.setFlag_session (m : State) (f : Fld) (b : Bool) : (m.setFlag f b).session = m.session := rfl
@[simp] theorem State.setFlag_hoCopy (m : State) (f : Fld) (b : Bool) : (m.setFlag f b).hoCopy = m.hoCopy := rfl
@[simp] theorem State.setFlag_hoOpen (m : State) (f : Fld) (b : Bool) : (m.setFlag f b).hoOpen = m.hoOpen := rfl
@[simp] theorem State.setFlag_hoSave (m : State) (f : Fld) (b : Bool) : (m.setFlag f b).hoSave = m.hoSave := rfl
@[simp] theorem State.setFlag_hoValid (m : State) (f : Fld) (b : Bool) : (m.setFlag f b).hoValid = m.hoValid := rfl
@[simp] theorem State.setFlag_svcRun (m : State) (f : Fld) (b : Bool) : (m.setFlag f b).svcRun = m.svcRun := rfl
@[simp] theorem State.setFlag_tSvn (m : State) (f : Fld) (b : Bool) : (m.setFlag f b).tSvn = m.tSvn := rfl
@[simp] theorem State.setFlag_sSvn (m : State) (f : Fld) (b : Bool) : (m.setFlag f b).sSvn = m.sSvn := rfl
@[simp] theorem State.setFlag_stagedT (m : State) (f : Fld) (b : Bool) : (m.setFlag f b).stagedT = m.stagedT := rfl
@[simp] theorem State.setFlag_stagedS (m : State) (f : Fld) (b : Bool) : (m.setFlag f b).stagedS = m.stagedS := rfl
@[simp] theorem State.setFlag_mbLast (m : State) (f : Fld) (b : Bool) : (m.setFlag f b).mbLast = m.mbLast := rfl
@[simp] theorem State.setFlag_nodeSet (m : State) (f : Fld) (b : Bool) : (m.setFlag f b).nodeSet = m.nodeSet := rfl
@[simp] theorem State.setFlag_relays (m : State) (f : Fld) (b : Bool) : (m.setFlag f b).relays = m.relays := rfl
@[simp] theorem State.setFlag_mgmtRsp (m : State) (f : Fld) (b : Bool) : (m.setFlag f b).mgmtRsp = m.mgmtRsp := rfl
@[simp] theorem State.setFlag_smbOff (m : State) (f : Fld) (b : Bool) : (m.setFlag f b).smbOff = m.smbOff := rfl
@[simp] theorem State.setFlag_smbOut (m : State) (f : Fld) (b : Bool) : (m.setFlag f b).smbOut = m.smbOut := rfl
@[simp] theorem State.setFlag_jtagIr (m : State) (f : Fld) (b : Bool) : (m.setFlag f b).jtagIr = m.jtagIr := rfl
@[simp] theorem State.setFlag_jtagDr (m : State) (f : Fld) (b : Bool) : (m.setFlag f b).jtagDr = m.jtagDr := rfl
@[simp] theorem State.setFlag_busOut (m : State) (f : Fld) (b : Bool) : (m.setFlag f b).busOut = m.busOut := rfl
@[simp] theorem State.setFlag_lastLatch (m : State) (f : Fld) (b : Bool) : (m.setFlag f b).lastLatch = m.lastLatch := rfl
@[simp] theorem State.setFlag_slew (m : State) (f : Fld) (b : Bool) : (m.setFlag f b).slew = m.slew := rfl
@[simp] theorem State.setFlag_slow (m : State) (f : Fld) (b : Bool) : (m.setFlag f b).slow = m.slow := rfl
@[simp] theorem State.setFlag_frac (m : State) (f : Fld) (b : Bool) : (m.setFlag f b).frac = m.frac := rfl
@[simp] theorem State.setFlag_marginOn (m : State) (f : Fld) (b : Bool) : (m.setFlag f b).marginOn = m.marginOn := rfl
@[simp] theorem State.setFlag_nextId (m : State) (f : Fld) (b : Bool) : (m.setFlag f b).nextId = m.nextId := rfl
@[simp] theorem State.setFlag_free (m : State) (f : Fld) (b : Bool) : (m.setFlag f b).free = m.free := rfl
@[simp] theorem State.setFlag_pending (m : State) (f : Fld) (b : Bool) : (m.setFlag f b).pending = m.pending := rfl
@[simp] theorem State.setFlag_at_byte (m : State) (f : Fld) (b : Bool) (addr : Nat) : (m.setFlag f b).byte addr = m.byte addr := rfl
@[simp] theorem State.setFlag_at_bytes (m : State) (f : Fld) (b : Bool) (addr len : Nat) : (m.setFlag f b).bytes addr len = m.bytes addr len := rfl

/-! ## bump -/

@[simp] theorem State.bump_snap (m : State) (f : Fld) (k : Nat) : (m.bump f k).snap = m.snap := rfl
@[simp] theorem State.bump_mem (m : State) (f : Fld) (k : Nat) : (m.bump f k).mem = m.mem := rfl
@[simp] theorem State.bump_poison (m : State) (f : Fld) (k : Nat) : (m.bump f k).poison = m.poison := rfl
@[simp] theorem State.bump_stale (m : State) (f : Fld) (k : Nat) : (m.bump f k).stale = m.stale := rfl
@[simp] theorem State.bump_stalePsn (m : State) (f : Fld) (k : Nat) : (m.bump f k).stalePsn = m.stalePsn := rfl
@[simp] theorem State.bump_cache (m : State) (f : Fld) (k : Nat) : (m.bump f k).cache = m.cache := rfl
@[simp] theorem State.bump_trayTags (m : State) (f : Fld) (k : Nat) : (m.bump f k).trayTags = m.trayTags := rfl
@[simp] theorem State.bump_coreBytes (m : State) (f : Fld) (k : Nat) : (m.bump f k).coreBytes = m.coreBytes := rfl
@[simp] theorem State.bump_mxScale (m : State) (f : Fld) (k : Nat) : (m.bump f k).mxScale = m.mxScale := rfl
@[simp] theorem State.bump_pstage (m : State) (f : Fld) (k : Nat) : (m.bump f k).pstage = m.pstage := rfl
@[simp] theorem State.bump_gens (m : State) (f : Fld) (k : Nat) : (m.bump f k).gens = m.gens := rfl
@[simp] theorem State.bump_lslots (m : State) (f : Fld) (k : Nat) : (m.bump f k).lslots = m.lslots := rfl
@[simp] theorem State.bump_queued (m : State) (f : Fld) (k : Nat) : (m.bump f k).queued = m.queued := rfl
@[simp] theorem State.bump_launches (m : State) (f : Fld) (k : Nat) : (m.bump f k).launches = m.launches := rfl
@[simp] theorem State.bump_lastFirst (m : State) (f : Fld) (k : Nat) : (m.bump f k).lastFirst = m.lastFirst := rfl
@[simp] theorem State.bump_pcOver (m : State) (f : Fld) (k : Nat) : (m.bump f k).pcOver = m.pcOver := rfl
@[simp] theorem State.bump_holds (m : State) (f : Fld) (k : Nat) : (m.bump f k).holds = m.holds := rfl
@[simp] theorem State.bump_xfers (m : State) (f : Fld) (k : Nat) : (m.bump f k).xfers = m.xfers := rfl
@[simp] theorem State.bump_gops (m : State) (f : Fld) (k : Nat) : (m.bump f k).gops = m.gops := rfl
@[simp] theorem State.bump_spks (m : State) (f : Fld) (k : Nat) : (m.bump f k).spks = m.spks := rfl
@[simp] theorem State.bump_norms (m : State) (f : Fld) (k : Nat) : (m.bump f k).norms = m.norms := rfl
@[simp] theorem State.bump_dispatches (m : State) (f : Fld) (k : Nat) : (m.bump f k).dispatches = m.dispatches := rfl
@[simp] theorem State.bump_vt (m : State) (f : Fld) (k : Nat) : (m.bump f k).vt = m.vt := rfl
@[simp] theorem State.bump_justReady (m : State) (f : Fld) (k : Nat) : (m.bump f k).justReady = m.justReady := rfl
@[simp] theorem State.bump_whisks (m : State) (f : Fld) (k : Nat) : (m.bump f k).whisks = m.whisks := rfl
@[simp] theorem State.bump_tongs (m : State) (f : Fld) (k : Nat) : (m.bump f k).tongs = m.tongs := rfl
@[simp] theorem State.bump_mortars (m : State) (f : Fld) (k : Nat) : (m.bump f k).mortars = m.mortars := rfl
@[simp] theorem State.bump_tdones (m : State) (f : Fld) (k : Nat) : (m.bump f k).tdones = m.tdones := rfl
@[simp] theorem State.bump_watches (m : State) (f : Fld) (k : Nat) : (m.bump f k).watches = m.watches := rfl
@[simp] theorem State.bump_notes (m : State) (f : Fld) (k : Nat) : (m.bump f k).notes = m.notes := rfl
@[simp] theorem State.bump_entrants (m : State) (f : Fld) (k : Nat) : (m.bump f k).entrants = m.entrants := rfl
@[simp] theorem State.bump_links (m : State) (f : Fld) (k : Nat) : (m.bump f k).links = m.links := rfl
@[simp] theorem State.bump_reqs (m : State) (f : Fld) (k : Nat) : (m.bump f k).reqs = m.reqs := rfl
@[simp] theorem State.bump_outq (m : State) (f : Fld) (k : Nat) : (m.bump f k).outq = m.outq := rfl
@[simp] theorem State.bump_rbufs (m : State) (f : Fld) (k : Nat) : (m.bump f k).rbufs = m.rbufs := rfl
@[simp] theorem State.bump_routes (m : State) (f : Fld) (k : Nat) : (m.bump f k).routes = m.routes := rfl
@[simp] theorem State.bump_groups (m : State) (f : Fld) (k : Nat) : (m.bump f k).groups = m.groups := rfl
@[simp] theorem State.bump_grpSeen (m : State) (f : Fld) (k : Nat) : (m.bump f k).grpSeen = m.grpSeen := rfl
@[simp] theorem State.bump_grpSeq (m : State) (f : Fld) (k : Nat) : (m.bump f k).grpSeq = m.grpSeq := rfl
@[simp] theorem State.bump_colls (m : State) (f : Fld) (k : Nat) : (m.bump f k).colls = m.colls := rfl
@[simp] theorem State.bump_verdicts (m : State) (f : Fld) (k : Nat) : (m.bump f k).verdicts = m.verdicts := rfl
@[simp] theorem State.bump_steps (m : State) (f : Fld) (k : Nat) : (m.bump f k).steps = m.steps := rfl
@[simp] theorem State.bump_events (m : State) (f : Fld) (k : Nat) : (m.bump f k).events = m.events := rfl
@[simp] theorem State.bump_lossPages (m : State) (f : Fld) (k : Nat) : (m.bump f k).lossPages = m.lossPages := rfl
@[simp] theorem State.bump_hist (m : State) (f : Fld) (k : Nat) : (m.bump f k).hist = m.hist := rfl
@[simp] theorem State.bump_alert (m : State) (f : Fld) (k : Nat) : (m.bump f k).alert = m.alert := rfl
@[simp] theorem State.bump_msix (m : State) (f : Fld) (k : Nat) : (m.bump f k).msix = m.msix := rfl
@[simp] theorem State.bump_coreIrq (m : State) (f : Fld) (k : Nat) : (m.bump f k).coreIrq = m.coreIrq := rfl
@[simp] theorem State.bump_buckets (m : State) (f : Fld) (k : Nat) : (m.bump f k).buckets = m.buckets := rfl
@[simp] theorem State.bump_rsvBytes (m : State) (f : Fld) (k : Nat) : (m.bump f k).rsvBytes = m.rsvBytes := rfl
@[simp] theorem State.bump_flight (m : State) (f : Fld) (k : Nat) : (m.bump f k).flight = m.flight := rfl
@[simp] theorem State.bump_hbmOut (m : State) (f : Fld) (k : Nat) : (m.bump f k).hbmOut = m.hbmOut := rfl
@[simp] theorem State.bump_resets (m : State) (f : Fld) (k : Nat) : (m.bump f k).resets = m.resets := rfl
@[simp] theorem State.bump_bells (m : State) (f : Fld) (k : Nat) : (m.bump f k).bells = m.bells := rfl
@[simp] theorem State.bump_engResets (m : State) (f : Fld) (k : Nat) : (m.bump f k).engResets = m.engResets := rfl
@[simp] theorem State.bump_flushes (m : State) (f : Fld) (k : Nat) : (m.bump f k).flushes = m.flushes := rfl
@[simp] theorem State.bump_zeroing (m : State) (f : Fld) (k : Nat) : (m.bump f k).zeroing = m.zeroing := rfl
@[simp] theorem State.bump_power (m : State) (f : Fld) (k : Nat) : (m.bump f k).power = m.power := rfl
@[simp] theorem State.bump_pins (m : State) (f : Fld) (k : Nat) : (m.bump f k).pins = m.pins := rfl
@[simp] theorem State.bump_alive (m : State) (f : Fld) (k : Nat) : (m.bump f k).alive = m.alive := rfl
@[simp] theorem State.bump_cores (m : State) (f : Fld) (k : Nat) : (m.bump f k).cores = m.cores := rfl
@[simp] theorem State.bump_fuses (m : State) (f : Fld) (k : Nat) : (m.bump f k).fuses = m.fuses := rfl
@[simp] theorem State.bump_flash (m : State) (f : Fld) (k : Nat) : (m.bump f k).flash = m.flash := rfl
@[simp] theorem State.bump_session (m : State) (f : Fld) (k : Nat) : (m.bump f k).session = m.session := rfl
@[simp] theorem State.bump_hoCopy (m : State) (f : Fld) (k : Nat) : (m.bump f k).hoCopy = m.hoCopy := rfl
@[simp] theorem State.bump_hoOpen (m : State) (f : Fld) (k : Nat) : (m.bump f k).hoOpen = m.hoOpen := rfl
@[simp] theorem State.bump_hoSave (m : State) (f : Fld) (k : Nat) : (m.bump f k).hoSave = m.hoSave := rfl
@[simp] theorem State.bump_hoValid (m : State) (f : Fld) (k : Nat) : (m.bump f k).hoValid = m.hoValid := rfl
@[simp] theorem State.bump_svcRun (m : State) (f : Fld) (k : Nat) : (m.bump f k).svcRun = m.svcRun := rfl
@[simp] theorem State.bump_tSvn (m : State) (f : Fld) (k : Nat) : (m.bump f k).tSvn = m.tSvn := rfl
@[simp] theorem State.bump_sSvn (m : State) (f : Fld) (k : Nat) : (m.bump f k).sSvn = m.sSvn := rfl
@[simp] theorem State.bump_stagedT (m : State) (f : Fld) (k : Nat) : (m.bump f k).stagedT = m.stagedT := rfl
@[simp] theorem State.bump_stagedS (m : State) (f : Fld) (k : Nat) : (m.bump f k).stagedS = m.stagedS := rfl
@[simp] theorem State.bump_mbLast (m : State) (f : Fld) (k : Nat) : (m.bump f k).mbLast = m.mbLast := rfl
@[simp] theorem State.bump_nodeSet (m : State) (f : Fld) (k : Nat) : (m.bump f k).nodeSet = m.nodeSet := rfl
@[simp] theorem State.bump_relays (m : State) (f : Fld) (k : Nat) : (m.bump f k).relays = m.relays := rfl
@[simp] theorem State.bump_mgmtRsp (m : State) (f : Fld) (k : Nat) : (m.bump f k).mgmtRsp = m.mgmtRsp := rfl
@[simp] theorem State.bump_smbOff (m : State) (f : Fld) (k : Nat) : (m.bump f k).smbOff = m.smbOff := rfl
@[simp] theorem State.bump_smbOut (m : State) (f : Fld) (k : Nat) : (m.bump f k).smbOut = m.smbOut := rfl
@[simp] theorem State.bump_jtagIr (m : State) (f : Fld) (k : Nat) : (m.bump f k).jtagIr = m.jtagIr := rfl
@[simp] theorem State.bump_jtagDr (m : State) (f : Fld) (k : Nat) : (m.bump f k).jtagDr = m.jtagDr := rfl
@[simp] theorem State.bump_busOut (m : State) (f : Fld) (k : Nat) : (m.bump f k).busOut = m.busOut := rfl
@[simp] theorem State.bump_lastLatch (m : State) (f : Fld) (k : Nat) : (m.bump f k).lastLatch = m.lastLatch := rfl
@[simp] theorem State.bump_slew (m : State) (f : Fld) (k : Nat) : (m.bump f k).slew = m.slew := rfl
@[simp] theorem State.bump_slow (m : State) (f : Fld) (k : Nat) : (m.bump f k).slow = m.slow := rfl
@[simp] theorem State.bump_frac (m : State) (f : Fld) (k : Nat) : (m.bump f k).frac = m.frac := rfl
@[simp] theorem State.bump_marginOn (m : State) (f : Fld) (k : Nat) : (m.bump f k).marginOn = m.marginOn := rfl
@[simp] theorem State.bump_nextId (m : State) (f : Fld) (k : Nat) : (m.bump f k).nextId = m.nextId := rfl
@[simp] theorem State.bump_free (m : State) (f : Fld) (k : Nat) : (m.bump f k).free = m.free := rfl
@[simp] theorem State.bump_pending (m : State) (f : Fld) (k : Nat) : (m.bump f k).pending = m.pending := rfl
@[simp] theorem State.bump_at_byte (m : State) (f : Fld) (k : Nat) (addr : Nat) : (m.bump f k).byte addr = m.byte addr := rfl
@[simp] theorem State.bump_at_bytes (m : State) (f : Fld) (k : Nat) (addr len : Nat) : (m.bump f k).bytes addr len = m.bytes addr len := rfl

/-! ## putBytes -/

@[simp] theorem State.putBytes_regs (m : State) (a : Nat) (bs : List Byte) : (m.putBytes a bs).regs = m.regs := rfl
@[simp] theorem State.putBytes_snap (m : State) (a : Nat) (bs : List Byte) : (m.putBytes a bs).snap = m.snap := rfl
@[simp] theorem State.putBytes_poison (m : State) (a : Nat) (bs : List Byte) : (m.putBytes a bs).poison = m.poison := rfl
@[simp] theorem State.putBytes_stale (m : State) (a : Nat) (bs : List Byte) : (m.putBytes a bs).stale = m.stale := rfl
@[simp] theorem State.putBytes_stalePsn (m : State) (a : Nat) (bs : List Byte) : (m.putBytes a bs).stalePsn = m.stalePsn := rfl
@[simp] theorem State.putBytes_cache (m : State) (a : Nat) (bs : List Byte) : (m.putBytes a bs).cache = m.cache := rfl
@[simp] theorem State.putBytes_trayTags (m : State) (a : Nat) (bs : List Byte) : (m.putBytes a bs).trayTags = m.trayTags := rfl
@[simp] theorem State.putBytes_mxScale (m : State) (a : Nat) (bs : List Byte) : (m.putBytes a bs).mxScale = m.mxScale := rfl
@[simp] theorem State.putBytes_pstage (m : State) (a : Nat) (bs : List Byte) : (m.putBytes a bs).pstage = m.pstage := rfl
@[simp] theorem State.putBytes_gens (m : State) (a : Nat) (bs : List Byte) : (m.putBytes a bs).gens = m.gens := rfl
@[simp] theorem State.putBytes_lslots (m : State) (a : Nat) (bs : List Byte) : (m.putBytes a bs).lslots = m.lslots := rfl
@[simp] theorem State.putBytes_queued (m : State) (a : Nat) (bs : List Byte) : (m.putBytes a bs).queued = m.queued := rfl
@[simp] theorem State.putBytes_launches (m : State) (a : Nat) (bs : List Byte) : (m.putBytes a bs).launches = m.launches := rfl
@[simp] theorem State.putBytes_lastFirst (m : State) (a : Nat) (bs : List Byte) : (m.putBytes a bs).lastFirst = m.lastFirst := rfl
@[simp] theorem State.putBytes_pcOver (m : State) (a : Nat) (bs : List Byte) : (m.putBytes a bs).pcOver = m.pcOver := rfl
@[simp] theorem State.putBytes_holds (m : State) (a : Nat) (bs : List Byte) : (m.putBytes a bs).holds = m.holds := rfl
@[simp] theorem State.putBytes_xfers (m : State) (a : Nat) (bs : List Byte) : (m.putBytes a bs).xfers = m.xfers := rfl
@[simp] theorem State.putBytes_gops (m : State) (a : Nat) (bs : List Byte) : (m.putBytes a bs).gops = m.gops := rfl
@[simp] theorem State.putBytes_spks (m : State) (a : Nat) (bs : List Byte) : (m.putBytes a bs).spks = m.spks := rfl
@[simp] theorem State.putBytes_norms (m : State) (a : Nat) (bs : List Byte) : (m.putBytes a bs).norms = m.norms := rfl
@[simp] theorem State.putBytes_dispatches (m : State) (a : Nat) (bs : List Byte) : (m.putBytes a bs).dispatches = m.dispatches := rfl
@[simp] theorem State.putBytes_vt (m : State) (a : Nat) (bs : List Byte) : (m.putBytes a bs).vt = m.vt := rfl
@[simp] theorem State.putBytes_justReady (m : State) (a : Nat) (bs : List Byte) : (m.putBytes a bs).justReady = m.justReady := rfl
@[simp] theorem State.putBytes_whisks (m : State) (a : Nat) (bs : List Byte) : (m.putBytes a bs).whisks = m.whisks := rfl
@[simp] theorem State.putBytes_tongs (m : State) (a : Nat) (bs : List Byte) : (m.putBytes a bs).tongs = m.tongs := rfl
@[simp] theorem State.putBytes_mortars (m : State) (a : Nat) (bs : List Byte) : (m.putBytes a bs).mortars = m.mortars := rfl
@[simp] theorem State.putBytes_tdones (m : State) (a : Nat) (bs : List Byte) : (m.putBytes a bs).tdones = m.tdones := rfl
@[simp] theorem State.putBytes_watches (m : State) (a : Nat) (bs : List Byte) : (m.putBytes a bs).watches = m.watches := rfl
@[simp] theorem State.putBytes_notes (m : State) (a : Nat) (bs : List Byte) : (m.putBytes a bs).notes = m.notes := rfl
@[simp] theorem State.putBytes_entrants (m : State) (a : Nat) (bs : List Byte) : (m.putBytes a bs).entrants = m.entrants := rfl
@[simp] theorem State.putBytes_links (m : State) (a : Nat) (bs : List Byte) : (m.putBytes a bs).links = m.links := rfl
@[simp] theorem State.putBytes_reqs (m : State) (a : Nat) (bs : List Byte) : (m.putBytes a bs).reqs = m.reqs := rfl
@[simp] theorem State.putBytes_outq (m : State) (a : Nat) (bs : List Byte) : (m.putBytes a bs).outq = m.outq := rfl
@[simp] theorem State.putBytes_rbufs (m : State) (a : Nat) (bs : List Byte) : (m.putBytes a bs).rbufs = m.rbufs := rfl
@[simp] theorem State.putBytes_routes (m : State) (a : Nat) (bs : List Byte) : (m.putBytes a bs).routes = m.routes := rfl
@[simp] theorem State.putBytes_groups (m : State) (a : Nat) (bs : List Byte) : (m.putBytes a bs).groups = m.groups := rfl
@[simp] theorem State.putBytes_grpSeen (m : State) (a : Nat) (bs : List Byte) : (m.putBytes a bs).grpSeen = m.grpSeen := rfl
@[simp] theorem State.putBytes_grpSeq (m : State) (a : Nat) (bs : List Byte) : (m.putBytes a bs).grpSeq = m.grpSeq := rfl
@[simp] theorem State.putBytes_colls (m : State) (a : Nat) (bs : List Byte) : (m.putBytes a bs).colls = m.colls := rfl
@[simp] theorem State.putBytes_verdicts (m : State) (a : Nat) (bs : List Byte) : (m.putBytes a bs).verdicts = m.verdicts := rfl
@[simp] theorem State.putBytes_steps (m : State) (a : Nat) (bs : List Byte) : (m.putBytes a bs).steps = m.steps := rfl
@[simp] theorem State.putBytes_events (m : State) (a : Nat) (bs : List Byte) : (m.putBytes a bs).events = m.events := rfl
@[simp] theorem State.putBytes_lossPages (m : State) (a : Nat) (bs : List Byte) : (m.putBytes a bs).lossPages = m.lossPages := rfl
@[simp] theorem State.putBytes_hist (m : State) (a : Nat) (bs : List Byte) : (m.putBytes a bs).hist = m.hist := rfl
@[simp] theorem State.putBytes_alert (m : State) (a : Nat) (bs : List Byte) : (m.putBytes a bs).alert = m.alert := rfl
@[simp] theorem State.putBytes_msix (m : State) (a : Nat) (bs : List Byte) : (m.putBytes a bs).msix = m.msix := rfl
@[simp] theorem State.putBytes_coreIrq (m : State) (a : Nat) (bs : List Byte) : (m.putBytes a bs).coreIrq = m.coreIrq := rfl
@[simp] theorem State.putBytes_buckets (m : State) (a : Nat) (bs : List Byte) : (m.putBytes a bs).buckets = m.buckets := rfl
@[simp] theorem State.putBytes_rsvBytes (m : State) (a : Nat) (bs : List Byte) : (m.putBytes a bs).rsvBytes = m.rsvBytes := rfl
@[simp] theorem State.putBytes_flight (m : State) (a : Nat) (bs : List Byte) : (m.putBytes a bs).flight = m.flight := rfl
@[simp] theorem State.putBytes_hbmOut (m : State) (a : Nat) (bs : List Byte) : (m.putBytes a bs).hbmOut = m.hbmOut := rfl
@[simp] theorem State.putBytes_resets (m : State) (a : Nat) (bs : List Byte) : (m.putBytes a bs).resets = m.resets := rfl
@[simp] theorem State.putBytes_bells (m : State) (a : Nat) (bs : List Byte) : (m.putBytes a bs).bells = m.bells := rfl
@[simp] theorem State.putBytes_engResets (m : State) (a : Nat) (bs : List Byte) : (m.putBytes a bs).engResets = m.engResets := rfl
@[simp] theorem State.putBytes_flushes (m : State) (a : Nat) (bs : List Byte) : (m.putBytes a bs).flushes = m.flushes := rfl
@[simp] theorem State.putBytes_zeroing (m : State) (a : Nat) (bs : List Byte) : (m.putBytes a bs).zeroing = m.zeroing := rfl
@[simp] theorem State.putBytes_power (m : State) (a : Nat) (bs : List Byte) : (m.putBytes a bs).power = m.power := rfl
@[simp] theorem State.putBytes_pins (m : State) (a : Nat) (bs : List Byte) : (m.putBytes a bs).pins = m.pins := rfl
@[simp] theorem State.putBytes_alive (m : State) (a : Nat) (bs : List Byte) : (m.putBytes a bs).alive = m.alive := rfl
@[simp] theorem State.putBytes_cores (m : State) (a : Nat) (bs : List Byte) : (m.putBytes a bs).cores = m.cores := rfl
@[simp] theorem State.putBytes_fuses (m : State) (a : Nat) (bs : List Byte) : (m.putBytes a bs).fuses = m.fuses := rfl
@[simp] theorem State.putBytes_flash (m : State) (a : Nat) (bs : List Byte) : (m.putBytes a bs).flash = m.flash := rfl
@[simp] theorem State.putBytes_session (m : State) (a : Nat) (bs : List Byte) : (m.putBytes a bs).session = m.session := rfl
@[simp] theorem State.putBytes_hoCopy (m : State) (a : Nat) (bs : List Byte) : (m.putBytes a bs).hoCopy = m.hoCopy := rfl
@[simp] theorem State.putBytes_hoOpen (m : State) (a : Nat) (bs : List Byte) : (m.putBytes a bs).hoOpen = m.hoOpen := rfl
@[simp] theorem State.putBytes_hoSave (m : State) (a : Nat) (bs : List Byte) : (m.putBytes a bs).hoSave = m.hoSave := rfl
@[simp] theorem State.putBytes_hoValid (m : State) (a : Nat) (bs : List Byte) : (m.putBytes a bs).hoValid = m.hoValid := rfl
@[simp] theorem State.putBytes_svcRun (m : State) (a : Nat) (bs : List Byte) : (m.putBytes a bs).svcRun = m.svcRun := rfl
@[simp] theorem State.putBytes_tSvn (m : State) (a : Nat) (bs : List Byte) : (m.putBytes a bs).tSvn = m.tSvn := rfl
@[simp] theorem State.putBytes_sSvn (m : State) (a : Nat) (bs : List Byte) : (m.putBytes a bs).sSvn = m.sSvn := rfl
@[simp] theorem State.putBytes_stagedT (m : State) (a : Nat) (bs : List Byte) : (m.putBytes a bs).stagedT = m.stagedT := rfl
@[simp] theorem State.putBytes_stagedS (m : State) (a : Nat) (bs : List Byte) : (m.putBytes a bs).stagedS = m.stagedS := rfl
@[simp] theorem State.putBytes_mbLast (m : State) (a : Nat) (bs : List Byte) : (m.putBytes a bs).mbLast = m.mbLast := rfl
@[simp] theorem State.putBytes_nodeSet (m : State) (a : Nat) (bs : List Byte) : (m.putBytes a bs).nodeSet = m.nodeSet := rfl
@[simp] theorem State.putBytes_relays (m : State) (a : Nat) (bs : List Byte) : (m.putBytes a bs).relays = m.relays := rfl
@[simp] theorem State.putBytes_mgmtRsp (m : State) (a : Nat) (bs : List Byte) : (m.putBytes a bs).mgmtRsp = m.mgmtRsp := rfl
@[simp] theorem State.putBytes_smbOff (m : State) (a : Nat) (bs : List Byte) : (m.putBytes a bs).smbOff = m.smbOff := rfl
@[simp] theorem State.putBytes_smbOut (m : State) (a : Nat) (bs : List Byte) : (m.putBytes a bs).smbOut = m.smbOut := rfl
@[simp] theorem State.putBytes_jtagIr (m : State) (a : Nat) (bs : List Byte) : (m.putBytes a bs).jtagIr = m.jtagIr := rfl
@[simp] theorem State.putBytes_jtagDr (m : State) (a : Nat) (bs : List Byte) : (m.putBytes a bs).jtagDr = m.jtagDr := rfl
@[simp] theorem State.putBytes_busOut (m : State) (a : Nat) (bs : List Byte) : (m.putBytes a bs).busOut = m.busOut := rfl
@[simp] theorem State.putBytes_lastLatch (m : State) (a : Nat) (bs : List Byte) : (m.putBytes a bs).lastLatch = m.lastLatch := rfl
@[simp] theorem State.putBytes_slew (m : State) (a : Nat) (bs : List Byte) : (m.putBytes a bs).slew = m.slew := rfl
@[simp] theorem State.putBytes_slow (m : State) (a : Nat) (bs : List Byte) : (m.putBytes a bs).slow = m.slow := rfl
@[simp] theorem State.putBytes_frac (m : State) (a : Nat) (bs : List Byte) : (m.putBytes a bs).frac = m.frac := rfl
@[simp] theorem State.putBytes_marginOn (m : State) (a : Nat) (bs : List Byte) : (m.putBytes a bs).marginOn = m.marginOn := rfl
@[simp] theorem State.putBytes_nextId (m : State) (a : Nat) (bs : List Byte) : (m.putBytes a bs).nextId = m.nextId := rfl
@[simp] theorem State.putBytes_free (m : State) (a : Nat) (bs : List Byte) : (m.putBytes a bs).free = m.free := rfl
@[simp] theorem State.putBytes_pending (m : State) (a : Nat) (bs : List Byte) : (m.putBytes a bs).pending = m.pending := rfl
@[simp] theorem State.putBytes_at_reg (m : State) (a : Nat) (bs : List Byte) (o : Nat) : (m.putBytes a bs).reg o = m.reg o := rfl
@[simp] theorem State.putBytes_at_fld (m : State) (a : Nat) (bs : List Byte) (e : Fld) : (m.putBytes a bs).fld e = m.fld e := rfl
@[simp] theorem State.putBytes_at_flag (m : State) (a : Nat) (bs : List Byte) (e : Fld) : (m.putBytes a bs).flag e = m.flag e := rfl

/-! ## setPsn -/

@[simp] theorem State.setPsn_regs (m : State) (b : Nat) (p : Bool) : (m.setPsn b p).regs = m.regs := rfl
@[simp] theorem State.setPsn_snap (m : State) (b : Nat) (p : Bool) : (m.setPsn b p).snap = m.snap := rfl
@[simp] theorem State.setPsn_mem (m : State) (b : Nat) (p : Bool) : (m.setPsn b p).mem = m.mem := rfl
@[simp] theorem State.setPsn_stale (m : State) (b : Nat) (p : Bool) : (m.setPsn b p).stale = m.stale := rfl
@[simp] theorem State.setPsn_stalePsn (m : State) (b : Nat) (p : Bool) : (m.setPsn b p).stalePsn = m.stalePsn := rfl
@[simp] theorem State.setPsn_cache (m : State) (b : Nat) (p : Bool) : (m.setPsn b p).cache = m.cache := rfl
@[simp] theorem State.setPsn_trayTags (m : State) (b : Nat) (p : Bool) : (m.setPsn b p).trayTags = m.trayTags := rfl
@[simp] theorem State.setPsn_coreBytes (m : State) (b : Nat) (p : Bool) : (m.setPsn b p).coreBytes = m.coreBytes := rfl
@[simp] theorem State.setPsn_mxScale (m : State) (b : Nat) (p : Bool) : (m.setPsn b p).mxScale = m.mxScale := rfl
@[simp] theorem State.setPsn_pstage (m : State) (b : Nat) (p : Bool) : (m.setPsn b p).pstage = m.pstage := rfl
@[simp] theorem State.setPsn_gens (m : State) (b : Nat) (p : Bool) : (m.setPsn b p).gens = m.gens := rfl
@[simp] theorem State.setPsn_lslots (m : State) (b : Nat) (p : Bool) : (m.setPsn b p).lslots = m.lslots := rfl
@[simp] theorem State.setPsn_queued (m : State) (b : Nat) (p : Bool) : (m.setPsn b p).queued = m.queued := rfl
@[simp] theorem State.setPsn_launches (m : State) (b : Nat) (p : Bool) : (m.setPsn b p).launches = m.launches := rfl
@[simp] theorem State.setPsn_lastFirst (m : State) (b : Nat) (p : Bool) : (m.setPsn b p).lastFirst = m.lastFirst := rfl
@[simp] theorem State.setPsn_pcOver (m : State) (b : Nat) (p : Bool) : (m.setPsn b p).pcOver = m.pcOver := rfl
@[simp] theorem State.setPsn_holds (m : State) (b : Nat) (p : Bool) : (m.setPsn b p).holds = m.holds := rfl
@[simp] theorem State.setPsn_xfers (m : State) (b : Nat) (p : Bool) : (m.setPsn b p).xfers = m.xfers := rfl
@[simp] theorem State.setPsn_gops (m : State) (b : Nat) (p : Bool) : (m.setPsn b p).gops = m.gops := rfl
@[simp] theorem State.setPsn_spks (m : State) (b : Nat) (p : Bool) : (m.setPsn b p).spks = m.spks := rfl
@[simp] theorem State.setPsn_norms (m : State) (b : Nat) (p : Bool) : (m.setPsn b p).norms = m.norms := rfl
@[simp] theorem State.setPsn_dispatches (m : State) (b : Nat) (p : Bool) : (m.setPsn b p).dispatches = m.dispatches := rfl
@[simp] theorem State.setPsn_vt (m : State) (b : Nat) (p : Bool) : (m.setPsn b p).vt = m.vt := rfl
@[simp] theorem State.setPsn_justReady (m : State) (b : Nat) (p : Bool) : (m.setPsn b p).justReady = m.justReady := rfl
@[simp] theorem State.setPsn_whisks (m : State) (b : Nat) (p : Bool) : (m.setPsn b p).whisks = m.whisks := rfl
@[simp] theorem State.setPsn_tongs (m : State) (b : Nat) (p : Bool) : (m.setPsn b p).tongs = m.tongs := rfl
@[simp] theorem State.setPsn_mortars (m : State) (b : Nat) (p : Bool) : (m.setPsn b p).mortars = m.mortars := rfl
@[simp] theorem State.setPsn_tdones (m : State) (b : Nat) (p : Bool) : (m.setPsn b p).tdones = m.tdones := rfl
@[simp] theorem State.setPsn_watches (m : State) (b : Nat) (p : Bool) : (m.setPsn b p).watches = m.watches := rfl
@[simp] theorem State.setPsn_notes (m : State) (b : Nat) (p : Bool) : (m.setPsn b p).notes = m.notes := rfl
@[simp] theorem State.setPsn_entrants (m : State) (b : Nat) (p : Bool) : (m.setPsn b p).entrants = m.entrants := rfl
@[simp] theorem State.setPsn_links (m : State) (b : Nat) (p : Bool) : (m.setPsn b p).links = m.links := rfl
@[simp] theorem State.setPsn_reqs (m : State) (b : Nat) (p : Bool) : (m.setPsn b p).reqs = m.reqs := rfl
@[simp] theorem State.setPsn_outq (m : State) (b : Nat) (p : Bool) : (m.setPsn b p).outq = m.outq := rfl
@[simp] theorem State.setPsn_rbufs (m : State) (b : Nat) (p : Bool) : (m.setPsn b p).rbufs = m.rbufs := rfl
@[simp] theorem State.setPsn_routes (m : State) (b : Nat) (p : Bool) : (m.setPsn b p).routes = m.routes := rfl
@[simp] theorem State.setPsn_groups (m : State) (b : Nat) (p : Bool) : (m.setPsn b p).groups = m.groups := rfl
@[simp] theorem State.setPsn_grpSeen (m : State) (b : Nat) (p : Bool) : (m.setPsn b p).grpSeen = m.grpSeen := rfl
@[simp] theorem State.setPsn_grpSeq (m : State) (b : Nat) (p : Bool) : (m.setPsn b p).grpSeq = m.grpSeq := rfl
@[simp] theorem State.setPsn_colls (m : State) (b : Nat) (p : Bool) : (m.setPsn b p).colls = m.colls := rfl
@[simp] theorem State.setPsn_verdicts (m : State) (b : Nat) (p : Bool) : (m.setPsn b p).verdicts = m.verdicts := rfl
@[simp] theorem State.setPsn_steps (m : State) (b : Nat) (p : Bool) : (m.setPsn b p).steps = m.steps := rfl
@[simp] theorem State.setPsn_events (m : State) (b : Nat) (p : Bool) : (m.setPsn b p).events = m.events := rfl
@[simp] theorem State.setPsn_lossPages (m : State) (b : Nat) (p : Bool) : (m.setPsn b p).lossPages = m.lossPages := rfl
@[simp] theorem State.setPsn_hist (m : State) (b : Nat) (p : Bool) : (m.setPsn b p).hist = m.hist := rfl
@[simp] theorem State.setPsn_alert (m : State) (b : Nat) (p : Bool) : (m.setPsn b p).alert = m.alert := rfl
@[simp] theorem State.setPsn_msix (m : State) (b : Nat) (p : Bool) : (m.setPsn b p).msix = m.msix := rfl
@[simp] theorem State.setPsn_coreIrq (m : State) (b : Nat) (p : Bool) : (m.setPsn b p).coreIrq = m.coreIrq := rfl
@[simp] theorem State.setPsn_buckets (m : State) (b : Nat) (p : Bool) : (m.setPsn b p).buckets = m.buckets := rfl
@[simp] theorem State.setPsn_rsvBytes (m : State) (b : Nat) (p : Bool) : (m.setPsn b p).rsvBytes = m.rsvBytes := rfl
@[simp] theorem State.setPsn_flight (m : State) (b : Nat) (p : Bool) : (m.setPsn b p).flight = m.flight := rfl
@[simp] theorem State.setPsn_hbmOut (m : State) (b : Nat) (p : Bool) : (m.setPsn b p).hbmOut = m.hbmOut := rfl
@[simp] theorem State.setPsn_resets (m : State) (b : Nat) (p : Bool) : (m.setPsn b p).resets = m.resets := rfl
@[simp] theorem State.setPsn_bells (m : State) (b : Nat) (p : Bool) : (m.setPsn b p).bells = m.bells := rfl
@[simp] theorem State.setPsn_engResets (m : State) (b : Nat) (p : Bool) : (m.setPsn b p).engResets = m.engResets := rfl
@[simp] theorem State.setPsn_flushes (m : State) (b : Nat) (p : Bool) : (m.setPsn b p).flushes = m.flushes := rfl
@[simp] theorem State.setPsn_zeroing (m : State) (b : Nat) (p : Bool) : (m.setPsn b p).zeroing = m.zeroing := rfl
@[simp] theorem State.setPsn_power (m : State) (b : Nat) (p : Bool) : (m.setPsn b p).power = m.power := rfl
@[simp] theorem State.setPsn_pins (m : State) (b : Nat) (p : Bool) : (m.setPsn b p).pins = m.pins := rfl
@[simp] theorem State.setPsn_alive (m : State) (b : Nat) (p : Bool) : (m.setPsn b p).alive = m.alive := rfl
@[simp] theorem State.setPsn_cores (m : State) (b : Nat) (p : Bool) : (m.setPsn b p).cores = m.cores := rfl
@[simp] theorem State.setPsn_fuses (m : State) (b : Nat) (p : Bool) : (m.setPsn b p).fuses = m.fuses := rfl
@[simp] theorem State.setPsn_flash (m : State) (b : Nat) (p : Bool) : (m.setPsn b p).flash = m.flash := rfl
@[simp] theorem State.setPsn_session (m : State) (b : Nat) (p : Bool) : (m.setPsn b p).session = m.session := rfl
@[simp] theorem State.setPsn_hoCopy (m : State) (b : Nat) (p : Bool) : (m.setPsn b p).hoCopy = m.hoCopy := rfl
@[simp] theorem State.setPsn_hoOpen (m : State) (b : Nat) (p : Bool) : (m.setPsn b p).hoOpen = m.hoOpen := rfl
@[simp] theorem State.setPsn_hoSave (m : State) (b : Nat) (p : Bool) : (m.setPsn b p).hoSave = m.hoSave := rfl
@[simp] theorem State.setPsn_hoValid (m : State) (b : Nat) (p : Bool) : (m.setPsn b p).hoValid = m.hoValid := rfl
@[simp] theorem State.setPsn_svcRun (m : State) (b : Nat) (p : Bool) : (m.setPsn b p).svcRun = m.svcRun := rfl
@[simp] theorem State.setPsn_tSvn (m : State) (b : Nat) (p : Bool) : (m.setPsn b p).tSvn = m.tSvn := rfl
@[simp] theorem State.setPsn_sSvn (m : State) (b : Nat) (p : Bool) : (m.setPsn b p).sSvn = m.sSvn := rfl
@[simp] theorem State.setPsn_stagedT (m : State) (b : Nat) (p : Bool) : (m.setPsn b p).stagedT = m.stagedT := rfl
@[simp] theorem State.setPsn_stagedS (m : State) (b : Nat) (p : Bool) : (m.setPsn b p).stagedS = m.stagedS := rfl
@[simp] theorem State.setPsn_mbLast (m : State) (b : Nat) (p : Bool) : (m.setPsn b p).mbLast = m.mbLast := rfl
@[simp] theorem State.setPsn_nodeSet (m : State) (b : Nat) (p : Bool) : (m.setPsn b p).nodeSet = m.nodeSet := rfl
@[simp] theorem State.setPsn_relays (m : State) (b : Nat) (p : Bool) : (m.setPsn b p).relays = m.relays := rfl
@[simp] theorem State.setPsn_mgmtRsp (m : State) (b : Nat) (p : Bool) : (m.setPsn b p).mgmtRsp = m.mgmtRsp := rfl
@[simp] theorem State.setPsn_smbOff (m : State) (b : Nat) (p : Bool) : (m.setPsn b p).smbOff = m.smbOff := rfl
@[simp] theorem State.setPsn_smbOut (m : State) (b : Nat) (p : Bool) : (m.setPsn b p).smbOut = m.smbOut := rfl
@[simp] theorem State.setPsn_jtagIr (m : State) (b : Nat) (p : Bool) : (m.setPsn b p).jtagIr = m.jtagIr := rfl
@[simp] theorem State.setPsn_jtagDr (m : State) (b : Nat) (p : Bool) : (m.setPsn b p).jtagDr = m.jtagDr := rfl
@[simp] theorem State.setPsn_busOut (m : State) (b : Nat) (p : Bool) : (m.setPsn b p).busOut = m.busOut := rfl
@[simp] theorem State.setPsn_lastLatch (m : State) (b : Nat) (p : Bool) : (m.setPsn b p).lastLatch = m.lastLatch := rfl
@[simp] theorem State.setPsn_slew (m : State) (b : Nat) (p : Bool) : (m.setPsn b p).slew = m.slew := rfl
@[simp] theorem State.setPsn_slow (m : State) (b : Nat) (p : Bool) : (m.setPsn b p).slow = m.slow := rfl
@[simp] theorem State.setPsn_frac (m : State) (b : Nat) (p : Bool) : (m.setPsn b p).frac = m.frac := rfl
@[simp] theorem State.setPsn_marginOn (m : State) (b : Nat) (p : Bool) : (m.setPsn b p).marginOn = m.marginOn := rfl
@[simp] theorem State.setPsn_nextId (m : State) (b : Nat) (p : Bool) : (m.setPsn b p).nextId = m.nextId := rfl
@[simp] theorem State.setPsn_free (m : State) (b : Nat) (p : Bool) : (m.setPsn b p).free = m.free := rfl
@[simp] theorem State.setPsn_pending (m : State) (b : Nat) (p : Bool) : (m.setPsn b p).pending = m.pending := rfl
@[simp] theorem State.setPsn_at_reg (m : State) (b : Nat) (p : Bool) (o : Nat) : (m.setPsn b p).reg o = m.reg o := rfl
@[simp] theorem State.setPsn_at_fld (m : State) (b : Nat) (p : Bool) (e : Fld) : (m.setPsn b p).fld e = m.fld e := rfl
@[simp] theorem State.setPsn_at_flag (m : State) (b : Nat) (p : Bool) (e : Fld) : (m.setPsn b p).flag e = m.flag e := rfl
@[simp] theorem State.setPsn_at_byte (m : State) (b : Nat) (p : Bool) (addr : Nat) : (m.setPsn b p).byte addr = m.byte addr := rfl
@[simp] theorem State.setPsn_at_bytes (m : State) (b : Nat) (p : Bool) (addr len : Nat) : (m.setPsn b p).bytes addr len = m.bytes addr len := rfl

/-! ## setAside -/

@[simp] theorem State.setAside_regs (m : State) (l : Nat) : (m.setAside l).regs = m.regs := rfl
@[simp] theorem State.setAside_snap (m : State) (l : Nat) : (m.setAside l).snap = m.snap := rfl
@[simp] theorem State.setAside_mem (m : State) (l : Nat) : (m.setAside l).mem = m.mem := rfl
@[simp] theorem State.setAside_poison (m : State) (l : Nat) : (m.setAside l).poison = m.poison := rfl
@[simp] theorem State.setAside_cache (m : State) (l : Nat) : (m.setAside l).cache = m.cache := rfl
@[simp] theorem State.setAside_trayTags (m : State) (l : Nat) : (m.setAside l).trayTags = m.trayTags := rfl
@[simp] theorem State.setAside_coreBytes (m : State) (l : Nat) : (m.setAside l).coreBytes = m.coreBytes := rfl
@[simp] theorem State.setAside_mxScale (m : State) (l : Nat) : (m.setAside l).mxScale = m.mxScale := rfl
@[simp] theorem State.setAside_pstage (m : State) (l : Nat) : (m.setAside l).pstage = m.pstage := rfl
@[simp] theorem State.setAside_gens (m : State) (l : Nat) : (m.setAside l).gens = m.gens := rfl
@[simp] theorem State.setAside_lslots (m : State) (l : Nat) : (m.setAside l).lslots = m.lslots := rfl
@[simp] theorem State.setAside_queued (m : State) (l : Nat) : (m.setAside l).queued = m.queued := rfl
@[simp] theorem State.setAside_launches (m : State) (l : Nat) : (m.setAside l).launches = m.launches := rfl
@[simp] theorem State.setAside_lastFirst (m : State) (l : Nat) : (m.setAside l).lastFirst = m.lastFirst := rfl
@[simp] theorem State.setAside_pcOver (m : State) (l : Nat) : (m.setAside l).pcOver = m.pcOver := rfl
@[simp] theorem State.setAside_holds (m : State) (l : Nat) : (m.setAside l).holds = m.holds := rfl
@[simp] theorem State.setAside_xfers (m : State) (l : Nat) : (m.setAside l).xfers = m.xfers := rfl
@[simp] theorem State.setAside_gops (m : State) (l : Nat) : (m.setAside l).gops = m.gops := rfl
@[simp] theorem State.setAside_spks (m : State) (l : Nat) : (m.setAside l).spks = m.spks := rfl
@[simp] theorem State.setAside_norms (m : State) (l : Nat) : (m.setAside l).norms = m.norms := rfl
@[simp] theorem State.setAside_dispatches (m : State) (l : Nat) : (m.setAside l).dispatches = m.dispatches := rfl
@[simp] theorem State.setAside_vt (m : State) (l : Nat) : (m.setAside l).vt = m.vt := rfl
@[simp] theorem State.setAside_justReady (m : State) (l : Nat) : (m.setAside l).justReady = m.justReady := rfl
@[simp] theorem State.setAside_whisks (m : State) (l : Nat) : (m.setAside l).whisks = m.whisks := rfl
@[simp] theorem State.setAside_tongs (m : State) (l : Nat) : (m.setAside l).tongs = m.tongs := rfl
@[simp] theorem State.setAside_mortars (m : State) (l : Nat) : (m.setAside l).mortars = m.mortars := rfl
@[simp] theorem State.setAside_tdones (m : State) (l : Nat) : (m.setAside l).tdones = m.tdones := rfl
@[simp] theorem State.setAside_watches (m : State) (l : Nat) : (m.setAside l).watches = m.watches := rfl
@[simp] theorem State.setAside_notes (m : State) (l : Nat) : (m.setAside l).notes = m.notes := rfl
@[simp] theorem State.setAside_entrants (m : State) (l : Nat) : (m.setAside l).entrants = m.entrants := rfl
@[simp] theorem State.setAside_links (m : State) (l : Nat) : (m.setAside l).links = m.links := rfl
@[simp] theorem State.setAside_reqs (m : State) (l : Nat) : (m.setAside l).reqs = m.reqs := rfl
@[simp] theorem State.setAside_outq (m : State) (l : Nat) : (m.setAside l).outq = m.outq := rfl
@[simp] theorem State.setAside_rbufs (m : State) (l : Nat) : (m.setAside l).rbufs = m.rbufs := rfl
@[simp] theorem State.setAside_routes (m : State) (l : Nat) : (m.setAside l).routes = m.routes := rfl
@[simp] theorem State.setAside_groups (m : State) (l : Nat) : (m.setAside l).groups = m.groups := rfl
@[simp] theorem State.setAside_grpSeen (m : State) (l : Nat) : (m.setAside l).grpSeen = m.grpSeen := rfl
@[simp] theorem State.setAside_grpSeq (m : State) (l : Nat) : (m.setAside l).grpSeq = m.grpSeq := rfl
@[simp] theorem State.setAside_colls (m : State) (l : Nat) : (m.setAside l).colls = m.colls := rfl
@[simp] theorem State.setAside_verdicts (m : State) (l : Nat) : (m.setAside l).verdicts = m.verdicts := rfl
@[simp] theorem State.setAside_steps (m : State) (l : Nat) : (m.setAside l).steps = m.steps := rfl
@[simp] theorem State.setAside_events (m : State) (l : Nat) : (m.setAside l).events = m.events := rfl
@[simp] theorem State.setAside_lossPages (m : State) (l : Nat) : (m.setAside l).lossPages = m.lossPages := rfl
@[simp] theorem State.setAside_hist (m : State) (l : Nat) : (m.setAside l).hist = m.hist := rfl
@[simp] theorem State.setAside_alert (m : State) (l : Nat) : (m.setAside l).alert = m.alert := rfl
@[simp] theorem State.setAside_msix (m : State) (l : Nat) : (m.setAside l).msix = m.msix := rfl
@[simp] theorem State.setAside_coreIrq (m : State) (l : Nat) : (m.setAside l).coreIrq = m.coreIrq := rfl
@[simp] theorem State.setAside_buckets (m : State) (l : Nat) : (m.setAside l).buckets = m.buckets := rfl
@[simp] theorem State.setAside_rsvBytes (m : State) (l : Nat) : (m.setAside l).rsvBytes = m.rsvBytes := rfl
@[simp] theorem State.setAside_flight (m : State) (l : Nat) : (m.setAside l).flight = m.flight := rfl
@[simp] theorem State.setAside_hbmOut (m : State) (l : Nat) : (m.setAside l).hbmOut = m.hbmOut := rfl
@[simp] theorem State.setAside_resets (m : State) (l : Nat) : (m.setAside l).resets = m.resets := rfl
@[simp] theorem State.setAside_bells (m : State) (l : Nat) : (m.setAside l).bells = m.bells := rfl
@[simp] theorem State.setAside_engResets (m : State) (l : Nat) : (m.setAside l).engResets = m.engResets := rfl
@[simp] theorem State.setAside_flushes (m : State) (l : Nat) : (m.setAside l).flushes = m.flushes := rfl
@[simp] theorem State.setAside_zeroing (m : State) (l : Nat) : (m.setAside l).zeroing = m.zeroing := rfl
@[simp] theorem State.setAside_power (m : State) (l : Nat) : (m.setAside l).power = m.power := rfl
@[simp] theorem State.setAside_pins (m : State) (l : Nat) : (m.setAside l).pins = m.pins := rfl
@[simp] theorem State.setAside_alive (m : State) (l : Nat) : (m.setAside l).alive = m.alive := rfl
@[simp] theorem State.setAside_cores (m : State) (l : Nat) : (m.setAside l).cores = m.cores := rfl
@[simp] theorem State.setAside_fuses (m : State) (l : Nat) : (m.setAside l).fuses = m.fuses := rfl
@[simp] theorem State.setAside_flash (m : State) (l : Nat) : (m.setAside l).flash = m.flash := rfl
@[simp] theorem State.setAside_session (m : State) (l : Nat) : (m.setAside l).session = m.session := rfl
@[simp] theorem State.setAside_hoCopy (m : State) (l : Nat) : (m.setAside l).hoCopy = m.hoCopy := rfl
@[simp] theorem State.setAside_hoOpen (m : State) (l : Nat) : (m.setAside l).hoOpen = m.hoOpen := rfl
@[simp] theorem State.setAside_hoSave (m : State) (l : Nat) : (m.setAside l).hoSave = m.hoSave := rfl
@[simp] theorem State.setAside_hoValid (m : State) (l : Nat) : (m.setAside l).hoValid = m.hoValid := rfl
@[simp] theorem State.setAside_svcRun (m : State) (l : Nat) : (m.setAside l).svcRun = m.svcRun := rfl
@[simp] theorem State.setAside_tSvn (m : State) (l : Nat) : (m.setAside l).tSvn = m.tSvn := rfl
@[simp] theorem State.setAside_sSvn (m : State) (l : Nat) : (m.setAside l).sSvn = m.sSvn := rfl
@[simp] theorem State.setAside_stagedT (m : State) (l : Nat) : (m.setAside l).stagedT = m.stagedT := rfl
@[simp] theorem State.setAside_stagedS (m : State) (l : Nat) : (m.setAside l).stagedS = m.stagedS := rfl
@[simp] theorem State.setAside_mbLast (m : State) (l : Nat) : (m.setAside l).mbLast = m.mbLast := rfl
@[simp] theorem State.setAside_nodeSet (m : State) (l : Nat) : (m.setAside l).nodeSet = m.nodeSet := rfl
@[simp] theorem State.setAside_relays (m : State) (l : Nat) : (m.setAside l).relays = m.relays := rfl
@[simp] theorem State.setAside_mgmtRsp (m : State) (l : Nat) : (m.setAside l).mgmtRsp = m.mgmtRsp := rfl
@[simp] theorem State.setAside_smbOff (m : State) (l : Nat) : (m.setAside l).smbOff = m.smbOff := rfl
@[simp] theorem State.setAside_smbOut (m : State) (l : Nat) : (m.setAside l).smbOut = m.smbOut := rfl
@[simp] theorem State.setAside_jtagIr (m : State) (l : Nat) : (m.setAside l).jtagIr = m.jtagIr := rfl
@[simp] theorem State.setAside_jtagDr (m : State) (l : Nat) : (m.setAside l).jtagDr = m.jtagDr := rfl
@[simp] theorem State.setAside_busOut (m : State) (l : Nat) : (m.setAside l).busOut = m.busOut := rfl
@[simp] theorem State.setAside_lastLatch (m : State) (l : Nat) : (m.setAside l).lastLatch = m.lastLatch := rfl
@[simp] theorem State.setAside_slew (m : State) (l : Nat) : (m.setAside l).slew = m.slew := rfl
@[simp] theorem State.setAside_slow (m : State) (l : Nat) : (m.setAside l).slow = m.slow := rfl
@[simp] theorem State.setAside_frac (m : State) (l : Nat) : (m.setAside l).frac = m.frac := rfl
@[simp] theorem State.setAside_marginOn (m : State) (l : Nat) : (m.setAside l).marginOn = m.marginOn := rfl
@[simp] theorem State.setAside_nextId (m : State) (l : Nat) : (m.setAside l).nextId = m.nextId := rfl
@[simp] theorem State.setAside_free (m : State) (l : Nat) : (m.setAside l).free = m.free := rfl
@[simp] theorem State.setAside_pending (m : State) (l : Nat) : (m.setAside l).pending = m.pending := rfl
@[simp] theorem State.setAside_at_reg (m : State) (l : Nat) (o : Nat) : (m.setAside l).reg o = m.reg o := rfl
@[simp] theorem State.setAside_at_fld (m : State) (l : Nat) (e : Fld) : (m.setAside l).fld e = m.fld e := rfl
@[simp] theorem State.setAside_at_flag (m : State) (l : Nat) (e : Fld) : (m.setAside l).flag e = m.flag e := rfl
@[simp] theorem State.setAside_at_byte (m : State) (l : Nat) (addr : Nat) : (m.setAside l).byte addr = m.byte addr := rfl
@[simp] theorem State.setAside_at_bytes (m : State) (l : Nat) (addr len : Nat) : (m.setAside l).bytes addr len = m.bytes addr len := rfl

/-! ## inFlight -/

@[simp] theorem State.inFlight_regs (m : State) (b n : Nat) : (m.inFlight b n).regs = m.regs := rfl
@[simp] theorem State.inFlight_snap (m : State) (b n : Nat) : (m.inFlight b n).snap = m.snap := rfl
@[simp] theorem State.inFlight_mem (m : State) (b n : Nat) : (m.inFlight b n).mem = m.mem := rfl
@[simp] theorem State.inFlight_poison (m : State) (b n : Nat) : (m.inFlight b n).poison = m.poison := rfl
@[simp] theorem State.inFlight_stale (m : State) (b n : Nat) : (m.inFlight b n).stale = m.stale := rfl
@[simp] theorem State.inFlight_stalePsn (m : State) (b n : Nat) : (m.inFlight b n).stalePsn = m.stalePsn := rfl
@[simp] theorem State.inFlight_cache (m : State) (b n : Nat) : (m.inFlight b n).cache = m.cache := rfl
@[simp] theorem State.inFlight_trayTags (m : State) (b n : Nat) : (m.inFlight b n).trayTags = m.trayTags := rfl
@[simp] theorem State.inFlight_coreBytes (m : State) (b n : Nat) : (m.inFlight b n).coreBytes = m.coreBytes := rfl
@[simp] theorem State.inFlight_mxScale (m : State) (b n : Nat) : (m.inFlight b n).mxScale = m.mxScale := rfl
@[simp] theorem State.inFlight_pstage (m : State) (b n : Nat) : (m.inFlight b n).pstage = m.pstage := rfl
@[simp] theorem State.inFlight_gens (m : State) (b n : Nat) : (m.inFlight b n).gens = m.gens := rfl
@[simp] theorem State.inFlight_lslots (m : State) (b n : Nat) : (m.inFlight b n).lslots = m.lslots := rfl
@[simp] theorem State.inFlight_queued (m : State) (b n : Nat) : (m.inFlight b n).queued = m.queued := rfl
@[simp] theorem State.inFlight_launches (m : State) (b n : Nat) : (m.inFlight b n).launches = m.launches := rfl
@[simp] theorem State.inFlight_lastFirst (m : State) (b n : Nat) : (m.inFlight b n).lastFirst = m.lastFirst := rfl
@[simp] theorem State.inFlight_pcOver (m : State) (b n : Nat) : (m.inFlight b n).pcOver = m.pcOver := rfl
@[simp] theorem State.inFlight_holds (m : State) (b n : Nat) : (m.inFlight b n).holds = m.holds := rfl
@[simp] theorem State.inFlight_xfers (m : State) (b n : Nat) : (m.inFlight b n).xfers = m.xfers := rfl
@[simp] theorem State.inFlight_gops (m : State) (b n : Nat) : (m.inFlight b n).gops = m.gops := rfl
@[simp] theorem State.inFlight_spks (m : State) (b n : Nat) : (m.inFlight b n).spks = m.spks := rfl
@[simp] theorem State.inFlight_norms (m : State) (b n : Nat) : (m.inFlight b n).norms = m.norms := rfl
@[simp] theorem State.inFlight_dispatches (m : State) (b n : Nat) : (m.inFlight b n).dispatches = m.dispatches := rfl
@[simp] theorem State.inFlight_vt (m : State) (b n : Nat) : (m.inFlight b n).vt = m.vt := rfl
@[simp] theorem State.inFlight_justReady (m : State) (b n : Nat) : (m.inFlight b n).justReady = m.justReady := rfl
@[simp] theorem State.inFlight_whisks (m : State) (b n : Nat) : (m.inFlight b n).whisks = m.whisks := rfl
@[simp] theorem State.inFlight_tongs (m : State) (b n : Nat) : (m.inFlight b n).tongs = m.tongs := rfl
@[simp] theorem State.inFlight_mortars (m : State) (b n : Nat) : (m.inFlight b n).mortars = m.mortars := rfl
@[simp] theorem State.inFlight_tdones (m : State) (b n : Nat) : (m.inFlight b n).tdones = m.tdones := rfl
@[simp] theorem State.inFlight_watches (m : State) (b n : Nat) : (m.inFlight b n).watches = m.watches := rfl
@[simp] theorem State.inFlight_notes (m : State) (b n : Nat) : (m.inFlight b n).notes = m.notes := rfl
@[simp] theorem State.inFlight_entrants (m : State) (b n : Nat) : (m.inFlight b n).entrants = m.entrants := rfl
@[simp] theorem State.inFlight_links (m : State) (b n : Nat) : (m.inFlight b n).links = m.links := rfl
@[simp] theorem State.inFlight_reqs (m : State) (b n : Nat) : (m.inFlight b n).reqs = m.reqs := rfl
@[simp] theorem State.inFlight_outq (m : State) (b n : Nat) : (m.inFlight b n).outq = m.outq := rfl
@[simp] theorem State.inFlight_rbufs (m : State) (b n : Nat) : (m.inFlight b n).rbufs = m.rbufs := rfl
@[simp] theorem State.inFlight_routes (m : State) (b n : Nat) : (m.inFlight b n).routes = m.routes := rfl
@[simp] theorem State.inFlight_groups (m : State) (b n : Nat) : (m.inFlight b n).groups = m.groups := rfl
@[simp] theorem State.inFlight_grpSeen (m : State) (b n : Nat) : (m.inFlight b n).grpSeen = m.grpSeen := rfl
@[simp] theorem State.inFlight_grpSeq (m : State) (b n : Nat) : (m.inFlight b n).grpSeq = m.grpSeq := rfl
@[simp] theorem State.inFlight_colls (m : State) (b n : Nat) : (m.inFlight b n).colls = m.colls := rfl
@[simp] theorem State.inFlight_verdicts (m : State) (b n : Nat) : (m.inFlight b n).verdicts = m.verdicts := rfl
@[simp] theorem State.inFlight_steps (m : State) (b n : Nat) : (m.inFlight b n).steps = m.steps := rfl
@[simp] theorem State.inFlight_events (m : State) (b n : Nat) : (m.inFlight b n).events = m.events := rfl
@[simp] theorem State.inFlight_lossPages (m : State) (b n : Nat) : (m.inFlight b n).lossPages = m.lossPages := rfl
@[simp] theorem State.inFlight_hist (m : State) (b n : Nat) : (m.inFlight b n).hist = m.hist := rfl
@[simp] theorem State.inFlight_alert (m : State) (b n : Nat) : (m.inFlight b n).alert = m.alert := rfl
@[simp] theorem State.inFlight_msix (m : State) (b n : Nat) : (m.inFlight b n).msix = m.msix := rfl
@[simp] theorem State.inFlight_coreIrq (m : State) (b n : Nat) : (m.inFlight b n).coreIrq = m.coreIrq := rfl
@[simp] theorem State.inFlight_buckets (m : State) (b n : Nat) : (m.inFlight b n).buckets = m.buckets := rfl
@[simp] theorem State.inFlight_rsvBytes (m : State) (b n : Nat) : (m.inFlight b n).rsvBytes = m.rsvBytes := rfl
@[simp] theorem State.inFlight_hbmOut (m : State) (b n : Nat) : (m.inFlight b n).hbmOut = m.hbmOut := rfl
@[simp] theorem State.inFlight_resets (m : State) (b n : Nat) : (m.inFlight b n).resets = m.resets := rfl
@[simp] theorem State.inFlight_bells (m : State) (b n : Nat) : (m.inFlight b n).bells = m.bells := rfl
@[simp] theorem State.inFlight_engResets (m : State) (b n : Nat) : (m.inFlight b n).engResets = m.engResets := rfl
@[simp] theorem State.inFlight_flushes (m : State) (b n : Nat) : (m.inFlight b n).flushes = m.flushes := rfl
@[simp] theorem State.inFlight_zeroing (m : State) (b n : Nat) : (m.inFlight b n).zeroing = m.zeroing := rfl
@[simp] theorem State.inFlight_power (m : State) (b n : Nat) : (m.inFlight b n).power = m.power := rfl
@[simp] theorem State.inFlight_pins (m : State) (b n : Nat) : (m.inFlight b n).pins = m.pins := rfl
@[simp] theorem State.inFlight_alive (m : State) (b n : Nat) : (m.inFlight b n).alive = m.alive := rfl
@[simp] theorem State.inFlight_cores (m : State) (b n : Nat) : (m.inFlight b n).cores = m.cores := rfl
@[simp] theorem State.inFlight_fuses (m : State) (b n : Nat) : (m.inFlight b n).fuses = m.fuses := rfl
@[simp] theorem State.inFlight_flash (m : State) (b n : Nat) : (m.inFlight b n).flash = m.flash := rfl
@[simp] theorem State.inFlight_session (m : State) (b n : Nat) : (m.inFlight b n).session = m.session := rfl
@[simp] theorem State.inFlight_hoCopy (m : State) (b n : Nat) : (m.inFlight b n).hoCopy = m.hoCopy := rfl
@[simp] theorem State.inFlight_hoOpen (m : State) (b n : Nat) : (m.inFlight b n).hoOpen = m.hoOpen := rfl
@[simp] theorem State.inFlight_hoSave (m : State) (b n : Nat) : (m.inFlight b n).hoSave = m.hoSave := rfl
@[simp] theorem State.inFlight_hoValid (m : State) (b n : Nat) : (m.inFlight b n).hoValid = m.hoValid := rfl
@[simp] theorem State.inFlight_svcRun (m : State) (b n : Nat) : (m.inFlight b n).svcRun = m.svcRun := rfl
@[simp] theorem State.inFlight_tSvn (m : State) (b n : Nat) : (m.inFlight b n).tSvn = m.tSvn := rfl
@[simp] theorem State.inFlight_sSvn (m : State) (b n : Nat) : (m.inFlight b n).sSvn = m.sSvn := rfl
@[simp] theorem State.inFlight_stagedT (m : State) (b n : Nat) : (m.inFlight b n).stagedT = m.stagedT := rfl
@[simp] theorem State.inFlight_stagedS (m : State) (b n : Nat) : (m.inFlight b n).stagedS = m.stagedS := rfl
@[simp] theorem State.inFlight_mbLast (m : State) (b n : Nat) : (m.inFlight b n).mbLast = m.mbLast := rfl
@[simp] theorem State.inFlight_nodeSet (m : State) (b n : Nat) : (m.inFlight b n).nodeSet = m.nodeSet := rfl
@[simp] theorem State.inFlight_relays (m : State) (b n : Nat) : (m.inFlight b n).relays = m.relays := rfl
@[simp] theorem State.inFlight_mgmtRsp (m : State) (b n : Nat) : (m.inFlight b n).mgmtRsp = m.mgmtRsp := rfl
@[simp] theorem State.inFlight_smbOff (m : State) (b n : Nat) : (m.inFlight b n).smbOff = m.smbOff := rfl
@[simp] theorem State.inFlight_smbOut (m : State) (b n : Nat) : (m.inFlight b n).smbOut = m.smbOut := rfl
@[simp] theorem State.inFlight_jtagIr (m : State) (b n : Nat) : (m.inFlight b n).jtagIr = m.jtagIr := rfl
@[simp] theorem State.inFlight_jtagDr (m : State) (b n : Nat) : (m.inFlight b n).jtagDr = m.jtagDr := rfl
@[simp] theorem State.inFlight_busOut (m : State) (b n : Nat) : (m.inFlight b n).busOut = m.busOut := rfl
@[simp] theorem State.inFlight_lastLatch (m : State) (b n : Nat) : (m.inFlight b n).lastLatch = m.lastLatch := rfl
@[simp] theorem State.inFlight_slew (m : State) (b n : Nat) : (m.inFlight b n).slew = m.slew := rfl
@[simp] theorem State.inFlight_slow (m : State) (b n : Nat) : (m.inFlight b n).slow = m.slow := rfl
@[simp] theorem State.inFlight_frac (m : State) (b n : Nat) : (m.inFlight b n).frac = m.frac := rfl
@[simp] theorem State.inFlight_marginOn (m : State) (b n : Nat) : (m.inFlight b n).marginOn = m.marginOn := rfl
@[simp] theorem State.inFlight_nextId (m : State) (b n : Nat) : (m.inFlight b n).nextId = m.nextId := rfl
@[simp] theorem State.inFlight_free (m : State) (b n : Nat) : (m.inFlight b n).free = m.free := rfl
@[simp] theorem State.inFlight_pending (m : State) (b n : Nat) : (m.inFlight b n).pending = m.pending := rfl
@[simp] theorem State.inFlight_at_reg (m : State) (b n : Nat) (o : Nat) : (m.inFlight b n).reg o = m.reg o := rfl
@[simp] theorem State.inFlight_at_fld (m : State) (b n : Nat) (e : Fld) : (m.inFlight b n).fld e = m.fld e := rfl
@[simp] theorem State.inFlight_at_flag (m : State) (b n : Nat) (e : Fld) : (m.inFlight b n).flag e = m.flag e := rfl
@[simp] theorem State.inFlight_at_byte (m : State) (b n : Nat) (addr : Nat) : (m.inFlight b n).byte addr = m.byte addr := rfl
@[simp] theorem State.inFlight_at_bytes (m : State) (b n : Nat) (addr len : Nat) : (m.inFlight b n).bytes addr len = m.bytes addr len := rfl

/-! ## landed -/

@[simp] theorem State.landed_regs (m : State) : (m.landed).regs = m.regs := rfl
@[simp] theorem State.landed_snap (m : State) : (m.landed).snap = m.snap := rfl
@[simp] theorem State.landed_mem (m : State) : (m.landed).mem = m.mem := rfl
@[simp] theorem State.landed_poison (m : State) : (m.landed).poison = m.poison := rfl
@[simp] theorem State.landed_stale (m : State) : (m.landed).stale = m.stale := rfl
@[simp] theorem State.landed_stalePsn (m : State) : (m.landed).stalePsn = m.stalePsn := rfl
@[simp] theorem State.landed_cache (m : State) : (m.landed).cache = m.cache := rfl
@[simp] theorem State.landed_trayTags (m : State) : (m.landed).trayTags = m.trayTags := rfl
@[simp] theorem State.landed_coreBytes (m : State) : (m.landed).coreBytes = m.coreBytes := rfl
@[simp] theorem State.landed_mxScale (m : State) : (m.landed).mxScale = m.mxScale := rfl
@[simp] theorem State.landed_pstage (m : State) : (m.landed).pstage = m.pstage := rfl
@[simp] theorem State.landed_gens (m : State) : (m.landed).gens = m.gens := rfl
@[simp] theorem State.landed_lslots (m : State) : (m.landed).lslots = m.lslots := rfl
@[simp] theorem State.landed_queued (m : State) : (m.landed).queued = m.queued := rfl
@[simp] theorem State.landed_launches (m : State) : (m.landed).launches = m.launches := rfl
@[simp] theorem State.landed_lastFirst (m : State) : (m.landed).lastFirst = m.lastFirst := rfl
@[simp] theorem State.landed_pcOver (m : State) : (m.landed).pcOver = m.pcOver := rfl
@[simp] theorem State.landed_holds (m : State) : (m.landed).holds = m.holds := rfl
@[simp] theorem State.landed_xfers (m : State) : (m.landed).xfers = m.xfers := rfl
@[simp] theorem State.landed_gops (m : State) : (m.landed).gops = m.gops := rfl
@[simp] theorem State.landed_spks (m : State) : (m.landed).spks = m.spks := rfl
@[simp] theorem State.landed_norms (m : State) : (m.landed).norms = m.norms := rfl
@[simp] theorem State.landed_dispatches (m : State) : (m.landed).dispatches = m.dispatches := rfl
@[simp] theorem State.landed_vt (m : State) : (m.landed).vt = m.vt := rfl
@[simp] theorem State.landed_justReady (m : State) : (m.landed).justReady = m.justReady := rfl
@[simp] theorem State.landed_whisks (m : State) : (m.landed).whisks = m.whisks := rfl
@[simp] theorem State.landed_tongs (m : State) : (m.landed).tongs = m.tongs := rfl
@[simp] theorem State.landed_mortars (m : State) : (m.landed).mortars = m.mortars := rfl
@[simp] theorem State.landed_tdones (m : State) : (m.landed).tdones = m.tdones := rfl
@[simp] theorem State.landed_watches (m : State) : (m.landed).watches = m.watches := rfl
@[simp] theorem State.landed_notes (m : State) : (m.landed).notes = m.notes := rfl
@[simp] theorem State.landed_entrants (m : State) : (m.landed).entrants = m.entrants := rfl
@[simp] theorem State.landed_links (m : State) : (m.landed).links = m.links := rfl
@[simp] theorem State.landed_reqs (m : State) : (m.landed).reqs = m.reqs := rfl
@[simp] theorem State.landed_outq (m : State) : (m.landed).outq = m.outq := rfl
@[simp] theorem State.landed_rbufs (m : State) : (m.landed).rbufs = m.rbufs := rfl
@[simp] theorem State.landed_routes (m : State) : (m.landed).routes = m.routes := rfl
@[simp] theorem State.landed_groups (m : State) : (m.landed).groups = m.groups := rfl
@[simp] theorem State.landed_grpSeen (m : State) : (m.landed).grpSeen = m.grpSeen := rfl
@[simp] theorem State.landed_grpSeq (m : State) : (m.landed).grpSeq = m.grpSeq := rfl
@[simp] theorem State.landed_colls (m : State) : (m.landed).colls = m.colls := rfl
@[simp] theorem State.landed_verdicts (m : State) : (m.landed).verdicts = m.verdicts := rfl
@[simp] theorem State.landed_steps (m : State) : (m.landed).steps = m.steps := rfl
@[simp] theorem State.landed_events (m : State) : (m.landed).events = m.events := rfl
@[simp] theorem State.landed_lossPages (m : State) : (m.landed).lossPages = m.lossPages := rfl
@[simp] theorem State.landed_hist (m : State) : (m.landed).hist = m.hist := rfl
@[simp] theorem State.landed_alert (m : State) : (m.landed).alert = m.alert := rfl
@[simp] theorem State.landed_msix (m : State) : (m.landed).msix = m.msix := rfl
@[simp] theorem State.landed_coreIrq (m : State) : (m.landed).coreIrq = m.coreIrq := rfl
@[simp] theorem State.landed_buckets (m : State) : (m.landed).buckets = m.buckets := rfl
@[simp] theorem State.landed_rsvBytes (m : State) : (m.landed).rsvBytes = m.rsvBytes := rfl
@[simp] theorem State.landed_hbmOut (m : State) : (m.landed).hbmOut = m.hbmOut := rfl
@[simp] theorem State.landed_resets (m : State) : (m.landed).resets = m.resets := rfl
@[simp] theorem State.landed_bells (m : State) : (m.landed).bells = m.bells := rfl
@[simp] theorem State.landed_engResets (m : State) : (m.landed).engResets = m.engResets := rfl
@[simp] theorem State.landed_flushes (m : State) : (m.landed).flushes = m.flushes := rfl
@[simp] theorem State.landed_zeroing (m : State) : (m.landed).zeroing = m.zeroing := rfl
@[simp] theorem State.landed_power (m : State) : (m.landed).power = m.power := rfl
@[simp] theorem State.landed_pins (m : State) : (m.landed).pins = m.pins := rfl
@[simp] theorem State.landed_alive (m : State) : (m.landed).alive = m.alive := rfl
@[simp] theorem State.landed_cores (m : State) : (m.landed).cores = m.cores := rfl
@[simp] theorem State.landed_fuses (m : State) : (m.landed).fuses = m.fuses := rfl
@[simp] theorem State.landed_flash (m : State) : (m.landed).flash = m.flash := rfl
@[simp] theorem State.landed_session (m : State) : (m.landed).session = m.session := rfl
@[simp] theorem State.landed_hoCopy (m : State) : (m.landed).hoCopy = m.hoCopy := rfl
@[simp] theorem State.landed_hoOpen (m : State) : (m.landed).hoOpen = m.hoOpen := rfl
@[simp] theorem State.landed_hoSave (m : State) : (m.landed).hoSave = m.hoSave := rfl
@[simp] theorem State.landed_hoValid (m : State) : (m.landed).hoValid = m.hoValid := rfl
@[simp] theorem State.landed_svcRun (m : State) : (m.landed).svcRun = m.svcRun := rfl
@[simp] theorem State.landed_tSvn (m : State) : (m.landed).tSvn = m.tSvn := rfl
@[simp] theorem State.landed_sSvn (m : State) : (m.landed).sSvn = m.sSvn := rfl
@[simp] theorem State.landed_stagedT (m : State) : (m.landed).stagedT = m.stagedT := rfl
@[simp] theorem State.landed_stagedS (m : State) : (m.landed).stagedS = m.stagedS := rfl
@[simp] theorem State.landed_mbLast (m : State) : (m.landed).mbLast = m.mbLast := rfl
@[simp] theorem State.landed_nodeSet (m : State) : (m.landed).nodeSet = m.nodeSet := rfl
@[simp] theorem State.landed_relays (m : State) : (m.landed).relays = m.relays := rfl
@[simp] theorem State.landed_mgmtRsp (m : State) : (m.landed).mgmtRsp = m.mgmtRsp := rfl
@[simp] theorem State.landed_smbOff (m : State) : (m.landed).smbOff = m.smbOff := rfl
@[simp] theorem State.landed_smbOut (m : State) : (m.landed).smbOut = m.smbOut := rfl
@[simp] theorem State.landed_jtagIr (m : State) : (m.landed).jtagIr = m.jtagIr := rfl
@[simp] theorem State.landed_jtagDr (m : State) : (m.landed).jtagDr = m.jtagDr := rfl
@[simp] theorem State.landed_busOut (m : State) : (m.landed).busOut = m.busOut := rfl
@[simp] theorem State.landed_lastLatch (m : State) : (m.landed).lastLatch = m.lastLatch := rfl
@[simp] theorem State.landed_slew (m : State) : (m.landed).slew = m.slew := rfl
@[simp] theorem State.landed_slow (m : State) : (m.landed).slow = m.slow := rfl
@[simp] theorem State.landed_frac (m : State) : (m.landed).frac = m.frac := rfl
@[simp] theorem State.landed_marginOn (m : State) : (m.landed).marginOn = m.marginOn := rfl
@[simp] theorem State.landed_nextId (m : State) : (m.landed).nextId = m.nextId := rfl
@[simp] theorem State.landed_free (m : State) : (m.landed).free = m.free := rfl
@[simp] theorem State.landed_pending (m : State) : (m.landed).pending = m.pending := rfl
@[simp] theorem State.landed_at_reg (m : State) (o : Nat) : (m.landed).reg o = m.reg o := rfl
@[simp] theorem State.landed_at_fld (m : State) (e : Fld) : (m.landed).fld e = m.fld e := rfl
@[simp] theorem State.landed_at_flag (m : State) (e : Fld) : (m.landed).flag e = m.flag e := rfl
@[simp] theorem State.landed_at_byte (m : State) (addr : Nat) : (m.landed).byte addr = m.byte addr := rfl
@[simp] theorem State.landed_at_bytes (m : State) (addr len : Nat) : (m.landed).bytes addr len = m.bytes addr len := rfl

/-! ## drawByte -/

@[simp] theorem State.drawByte_regs (m : State) : (m.drawByte).2.regs = m.regs := rfl
@[simp] theorem State.drawByte_snap (m : State) : (m.drawByte).2.snap = m.snap := rfl
@[simp] theorem State.drawByte_mem (m : State) : (m.drawByte).2.mem = m.mem := rfl
@[simp] theorem State.drawByte_poison (m : State) : (m.drawByte).2.poison = m.poison := rfl
@[simp] theorem State.drawByte_stale (m : State) : (m.drawByte).2.stale = m.stale := rfl
@[simp] theorem State.drawByte_stalePsn (m : State) : (m.drawByte).2.stalePsn = m.stalePsn := rfl
@[simp] theorem State.drawByte_cache (m : State) : (m.drawByte).2.cache = m.cache := rfl
@[simp] theorem State.drawByte_trayTags (m : State) : (m.drawByte).2.trayTags = m.trayTags := rfl
@[simp] theorem State.drawByte_coreBytes (m : State) : (m.drawByte).2.coreBytes = m.coreBytes := rfl
@[simp] theorem State.drawByte_mxScale (m : State) : (m.drawByte).2.mxScale = m.mxScale := rfl
@[simp] theorem State.drawByte_pstage (m : State) : (m.drawByte).2.pstage = m.pstage := rfl
@[simp] theorem State.drawByte_gens (m : State) : (m.drawByte).2.gens = m.gens := rfl
@[simp] theorem State.drawByte_lslots (m : State) : (m.drawByte).2.lslots = m.lslots := rfl
@[simp] theorem State.drawByte_queued (m : State) : (m.drawByte).2.queued = m.queued := rfl
@[simp] theorem State.drawByte_launches (m : State) : (m.drawByte).2.launches = m.launches := rfl
@[simp] theorem State.drawByte_lastFirst (m : State) : (m.drawByte).2.lastFirst = m.lastFirst := rfl
@[simp] theorem State.drawByte_pcOver (m : State) : (m.drawByte).2.pcOver = m.pcOver := rfl
@[simp] theorem State.drawByte_holds (m : State) : (m.drawByte).2.holds = m.holds := rfl
@[simp] theorem State.drawByte_xfers (m : State) : (m.drawByte).2.xfers = m.xfers := rfl
@[simp] theorem State.drawByte_gops (m : State) : (m.drawByte).2.gops = m.gops := rfl
@[simp] theorem State.drawByte_spks (m : State) : (m.drawByte).2.spks = m.spks := rfl
@[simp] theorem State.drawByte_norms (m : State) : (m.drawByte).2.norms = m.norms := rfl
@[simp] theorem State.drawByte_dispatches (m : State) : (m.drawByte).2.dispatches = m.dispatches := rfl
@[simp] theorem State.drawByte_vt (m : State) : (m.drawByte).2.vt = m.vt := rfl
@[simp] theorem State.drawByte_justReady (m : State) : (m.drawByte).2.justReady = m.justReady := rfl
@[simp] theorem State.drawByte_whisks (m : State) : (m.drawByte).2.whisks = m.whisks := rfl
@[simp] theorem State.drawByte_tongs (m : State) : (m.drawByte).2.tongs = m.tongs := rfl
@[simp] theorem State.drawByte_mortars (m : State) : (m.drawByte).2.mortars = m.mortars := rfl
@[simp] theorem State.drawByte_tdones (m : State) : (m.drawByte).2.tdones = m.tdones := rfl
@[simp] theorem State.drawByte_watches (m : State) : (m.drawByte).2.watches = m.watches := rfl
@[simp] theorem State.drawByte_notes (m : State) : (m.drawByte).2.notes = m.notes := rfl
@[simp] theorem State.drawByte_entrants (m : State) : (m.drawByte).2.entrants = m.entrants := rfl
@[simp] theorem State.drawByte_links (m : State) : (m.drawByte).2.links = m.links := rfl
@[simp] theorem State.drawByte_reqs (m : State) : (m.drawByte).2.reqs = m.reqs := rfl
@[simp] theorem State.drawByte_outq (m : State) : (m.drawByte).2.outq = m.outq := rfl
@[simp] theorem State.drawByte_rbufs (m : State) : (m.drawByte).2.rbufs = m.rbufs := rfl
@[simp] theorem State.drawByte_routes (m : State) : (m.drawByte).2.routes = m.routes := rfl
@[simp] theorem State.drawByte_groups (m : State) : (m.drawByte).2.groups = m.groups := rfl
@[simp] theorem State.drawByte_grpSeen (m : State) : (m.drawByte).2.grpSeen = m.grpSeen := rfl
@[simp] theorem State.drawByte_grpSeq (m : State) : (m.drawByte).2.grpSeq = m.grpSeq := rfl
@[simp] theorem State.drawByte_colls (m : State) : (m.drawByte).2.colls = m.colls := rfl
@[simp] theorem State.drawByte_verdicts (m : State) : (m.drawByte).2.verdicts = m.verdicts := rfl
@[simp] theorem State.drawByte_steps (m : State) : (m.drawByte).2.steps = m.steps := rfl
@[simp] theorem State.drawByte_events (m : State) : (m.drawByte).2.events = m.events := rfl
@[simp] theorem State.drawByte_lossPages (m : State) : (m.drawByte).2.lossPages = m.lossPages := rfl
@[simp] theorem State.drawByte_hist (m : State) : (m.drawByte).2.hist = m.hist := rfl
@[simp] theorem State.drawByte_alert (m : State) : (m.drawByte).2.alert = m.alert := rfl
@[simp] theorem State.drawByte_msix (m : State) : (m.drawByte).2.msix = m.msix := rfl
@[simp] theorem State.drawByte_coreIrq (m : State) : (m.drawByte).2.coreIrq = m.coreIrq := rfl
@[simp] theorem State.drawByte_buckets (m : State) : (m.drawByte).2.buckets = m.buckets := rfl
@[simp] theorem State.drawByte_rsvBytes (m : State) : (m.drawByte).2.rsvBytes = m.rsvBytes := rfl
@[simp] theorem State.drawByte_flight (m : State) : (m.drawByte).2.flight = m.flight := rfl
@[simp] theorem State.drawByte_hbmOut (m : State) : (m.drawByte).2.hbmOut = m.hbmOut := rfl
@[simp] theorem State.drawByte_resets (m : State) : (m.drawByte).2.resets = m.resets := rfl
@[simp] theorem State.drawByte_bells (m : State) : (m.drawByte).2.bells = m.bells := rfl
@[simp] theorem State.drawByte_engResets (m : State) : (m.drawByte).2.engResets = m.engResets := rfl
@[simp] theorem State.drawByte_flushes (m : State) : (m.drawByte).2.flushes = m.flushes := rfl
@[simp] theorem State.drawByte_zeroing (m : State) : (m.drawByte).2.zeroing = m.zeroing := rfl
@[simp] theorem State.drawByte_power (m : State) : (m.drawByte).2.power = m.power := rfl
@[simp] theorem State.drawByte_pins (m : State) : (m.drawByte).2.pins = m.pins := rfl
@[simp] theorem State.drawByte_alive (m : State) : (m.drawByte).2.alive = m.alive := rfl
@[simp] theorem State.drawByte_cores (m : State) : (m.drawByte).2.cores = m.cores := rfl
@[simp] theorem State.drawByte_fuses (m : State) : (m.drawByte).2.fuses = m.fuses := rfl
@[simp] theorem State.drawByte_flash (m : State) : (m.drawByte).2.flash = m.flash := rfl
@[simp] theorem State.drawByte_session (m : State) : (m.drawByte).2.session = m.session := rfl
@[simp] theorem State.drawByte_hoCopy (m : State) : (m.drawByte).2.hoCopy = m.hoCopy := rfl
@[simp] theorem State.drawByte_hoOpen (m : State) : (m.drawByte).2.hoOpen = m.hoOpen := rfl
@[simp] theorem State.drawByte_hoSave (m : State) : (m.drawByte).2.hoSave = m.hoSave := rfl
@[simp] theorem State.drawByte_hoValid (m : State) : (m.drawByte).2.hoValid = m.hoValid := rfl
@[simp] theorem State.drawByte_svcRun (m : State) : (m.drawByte).2.svcRun = m.svcRun := rfl
@[simp] theorem State.drawByte_tSvn (m : State) : (m.drawByte).2.tSvn = m.tSvn := rfl
@[simp] theorem State.drawByte_sSvn (m : State) : (m.drawByte).2.sSvn = m.sSvn := rfl
@[simp] theorem State.drawByte_stagedT (m : State) : (m.drawByte).2.stagedT = m.stagedT := rfl
@[simp] theorem State.drawByte_stagedS (m : State) : (m.drawByte).2.stagedS = m.stagedS := rfl
@[simp] theorem State.drawByte_mbLast (m : State) : (m.drawByte).2.mbLast = m.mbLast := rfl
@[simp] theorem State.drawByte_nodeSet (m : State) : (m.drawByte).2.nodeSet = m.nodeSet := rfl
@[simp] theorem State.drawByte_relays (m : State) : (m.drawByte).2.relays = m.relays := rfl
@[simp] theorem State.drawByte_mgmtRsp (m : State) : (m.drawByte).2.mgmtRsp = m.mgmtRsp := rfl
@[simp] theorem State.drawByte_smbOff (m : State) : (m.drawByte).2.smbOff = m.smbOff := rfl
@[simp] theorem State.drawByte_smbOut (m : State) : (m.drawByte).2.smbOut = m.smbOut := rfl
@[simp] theorem State.drawByte_jtagIr (m : State) : (m.drawByte).2.jtagIr = m.jtagIr := rfl
@[simp] theorem State.drawByte_jtagDr (m : State) : (m.drawByte).2.jtagDr = m.jtagDr := rfl
@[simp] theorem State.drawByte_busOut (m : State) : (m.drawByte).2.busOut = m.busOut := rfl
@[simp] theorem State.drawByte_lastLatch (m : State) : (m.drawByte).2.lastLatch = m.lastLatch := rfl
@[simp] theorem State.drawByte_slew (m : State) : (m.drawByte).2.slew = m.slew := rfl
@[simp] theorem State.drawByte_slow (m : State) : (m.drawByte).2.slow = m.slow := rfl
@[simp] theorem State.drawByte_frac (m : State) : (m.drawByte).2.frac = m.frac := rfl
@[simp] theorem State.drawByte_marginOn (m : State) : (m.drawByte).2.marginOn = m.marginOn := rfl
@[simp] theorem State.drawByte_nextId (m : State) : (m.drawByte).2.nextId = m.nextId := rfl
@[simp] theorem State.drawByte_pending (m : State) : (m.drawByte).2.pending = m.pending := rfl
@[simp] theorem State.drawByte_at_reg (m : State) (o : Nat) : (m.drawByte).2.reg o = m.reg o := rfl
@[simp] theorem State.drawByte_at_fld (m : State) (e : Fld) : (m.drawByte).2.fld e = m.fld e := rfl
@[simp] theorem State.drawByte_at_flag (m : State) (e : Fld) : (m.drawByte).2.flag e = m.flag e := rfl
@[simp] theorem State.drawByte_at_byte (m : State) (addr : Nat) : (m.drawByte).2.byte addr = m.byte addr := rfl
@[simp] theorem State.drawByte_at_bytes (m : State) (addr len : Nat) : (m.drawByte).2.bytes addr len = m.bytes addr len := rfl

/-! ## drawWord -/

@[simp] theorem State.drawWord_regs (m : State) : (m.drawWord).2.regs = m.regs := rfl
@[simp] theorem State.drawWord_snap (m : State) : (m.drawWord).2.snap = m.snap := rfl
@[simp] theorem State.drawWord_mem (m : State) : (m.drawWord).2.mem = m.mem := rfl
@[simp] theorem State.drawWord_poison (m : State) : (m.drawWord).2.poison = m.poison := rfl
@[simp] theorem State.drawWord_stale (m : State) : (m.drawWord).2.stale = m.stale := rfl
@[simp] theorem State.drawWord_stalePsn (m : State) : (m.drawWord).2.stalePsn = m.stalePsn := rfl
@[simp] theorem State.drawWord_cache (m : State) : (m.drawWord).2.cache = m.cache := rfl
@[simp] theorem State.drawWord_trayTags (m : State) : (m.drawWord).2.trayTags = m.trayTags := rfl
@[simp] theorem State.drawWord_coreBytes (m : State) : (m.drawWord).2.coreBytes = m.coreBytes := rfl
@[simp] theorem State.drawWord_mxScale (m : State) : (m.drawWord).2.mxScale = m.mxScale := rfl
@[simp] theorem State.drawWord_pstage (m : State) : (m.drawWord).2.pstage = m.pstage := rfl
@[simp] theorem State.drawWord_gens (m : State) : (m.drawWord).2.gens = m.gens := rfl
@[simp] theorem State.drawWord_lslots (m : State) : (m.drawWord).2.lslots = m.lslots := rfl
@[simp] theorem State.drawWord_queued (m : State) : (m.drawWord).2.queued = m.queued := rfl
@[simp] theorem State.drawWord_launches (m : State) : (m.drawWord).2.launches = m.launches := rfl
@[simp] theorem State.drawWord_lastFirst (m : State) : (m.drawWord).2.lastFirst = m.lastFirst := rfl
@[simp] theorem State.drawWord_pcOver (m : State) : (m.drawWord).2.pcOver = m.pcOver := rfl
@[simp] theorem State.drawWord_holds (m : State) : (m.drawWord).2.holds = m.holds := rfl
@[simp] theorem State.drawWord_xfers (m : State) : (m.drawWord).2.xfers = m.xfers := rfl
@[simp] theorem State.drawWord_gops (m : State) : (m.drawWord).2.gops = m.gops := rfl
@[simp] theorem State.drawWord_spks (m : State) : (m.drawWord).2.spks = m.spks := rfl
@[simp] theorem State.drawWord_norms (m : State) : (m.drawWord).2.norms = m.norms := rfl
@[simp] theorem State.drawWord_dispatches (m : State) : (m.drawWord).2.dispatches = m.dispatches := rfl
@[simp] theorem State.drawWord_vt (m : State) : (m.drawWord).2.vt = m.vt := rfl
@[simp] theorem State.drawWord_justReady (m : State) : (m.drawWord).2.justReady = m.justReady := rfl
@[simp] theorem State.drawWord_whisks (m : State) : (m.drawWord).2.whisks = m.whisks := rfl
@[simp] theorem State.drawWord_tongs (m : State) : (m.drawWord).2.tongs = m.tongs := rfl
@[simp] theorem State.drawWord_mortars (m : State) : (m.drawWord).2.mortars = m.mortars := rfl
@[simp] theorem State.drawWord_tdones (m : State) : (m.drawWord).2.tdones = m.tdones := rfl
@[simp] theorem State.drawWord_watches (m : State) : (m.drawWord).2.watches = m.watches := rfl
@[simp] theorem State.drawWord_notes (m : State) : (m.drawWord).2.notes = m.notes := rfl
@[simp] theorem State.drawWord_entrants (m : State) : (m.drawWord).2.entrants = m.entrants := rfl
@[simp] theorem State.drawWord_links (m : State) : (m.drawWord).2.links = m.links := rfl
@[simp] theorem State.drawWord_reqs (m : State) : (m.drawWord).2.reqs = m.reqs := rfl
@[simp] theorem State.drawWord_outq (m : State) : (m.drawWord).2.outq = m.outq := rfl
@[simp] theorem State.drawWord_rbufs (m : State) : (m.drawWord).2.rbufs = m.rbufs := rfl
@[simp] theorem State.drawWord_routes (m : State) : (m.drawWord).2.routes = m.routes := rfl
@[simp] theorem State.drawWord_groups (m : State) : (m.drawWord).2.groups = m.groups := rfl
@[simp] theorem State.drawWord_grpSeen (m : State) : (m.drawWord).2.grpSeen = m.grpSeen := rfl
@[simp] theorem State.drawWord_grpSeq (m : State) : (m.drawWord).2.grpSeq = m.grpSeq := rfl
@[simp] theorem State.drawWord_colls (m : State) : (m.drawWord).2.colls = m.colls := rfl
@[simp] theorem State.drawWord_verdicts (m : State) : (m.drawWord).2.verdicts = m.verdicts := rfl
@[simp] theorem State.drawWord_steps (m : State) : (m.drawWord).2.steps = m.steps := rfl
@[simp] theorem State.drawWord_events (m : State) : (m.drawWord).2.events = m.events := rfl
@[simp] theorem State.drawWord_lossPages (m : State) : (m.drawWord).2.lossPages = m.lossPages := rfl
@[simp] theorem State.drawWord_hist (m : State) : (m.drawWord).2.hist = m.hist := rfl
@[simp] theorem State.drawWord_alert (m : State) : (m.drawWord).2.alert = m.alert := rfl
@[simp] theorem State.drawWord_msix (m : State) : (m.drawWord).2.msix = m.msix := rfl
@[simp] theorem State.drawWord_coreIrq (m : State) : (m.drawWord).2.coreIrq = m.coreIrq := rfl
@[simp] theorem State.drawWord_buckets (m : State) : (m.drawWord).2.buckets = m.buckets := rfl
@[simp] theorem State.drawWord_rsvBytes (m : State) : (m.drawWord).2.rsvBytes = m.rsvBytes := rfl
@[simp] theorem State.drawWord_flight (m : State) : (m.drawWord).2.flight = m.flight := rfl
@[simp] theorem State.drawWord_hbmOut (m : State) : (m.drawWord).2.hbmOut = m.hbmOut := rfl
@[simp] theorem State.drawWord_resets (m : State) : (m.drawWord).2.resets = m.resets := rfl
@[simp] theorem State.drawWord_bells (m : State) : (m.drawWord).2.bells = m.bells := rfl
@[simp] theorem State.drawWord_engResets (m : State) : (m.drawWord).2.engResets = m.engResets := rfl
@[simp] theorem State.drawWord_flushes (m : State) : (m.drawWord).2.flushes = m.flushes := rfl
@[simp] theorem State.drawWord_zeroing (m : State) : (m.drawWord).2.zeroing = m.zeroing := rfl
@[simp] theorem State.drawWord_power (m : State) : (m.drawWord).2.power = m.power := rfl
@[simp] theorem State.drawWord_pins (m : State) : (m.drawWord).2.pins = m.pins := rfl
@[simp] theorem State.drawWord_alive (m : State) : (m.drawWord).2.alive = m.alive := rfl
@[simp] theorem State.drawWord_cores (m : State) : (m.drawWord).2.cores = m.cores := rfl
@[simp] theorem State.drawWord_fuses (m : State) : (m.drawWord).2.fuses = m.fuses := rfl
@[simp] theorem State.drawWord_flash (m : State) : (m.drawWord).2.flash = m.flash := rfl
@[simp] theorem State.drawWord_session (m : State) : (m.drawWord).2.session = m.session := rfl
@[simp] theorem State.drawWord_hoCopy (m : State) : (m.drawWord).2.hoCopy = m.hoCopy := rfl
@[simp] theorem State.drawWord_hoOpen (m : State) : (m.drawWord).2.hoOpen = m.hoOpen := rfl
@[simp] theorem State.drawWord_hoSave (m : State) : (m.drawWord).2.hoSave = m.hoSave := rfl
@[simp] theorem State.drawWord_hoValid (m : State) : (m.drawWord).2.hoValid = m.hoValid := rfl
@[simp] theorem State.drawWord_svcRun (m : State) : (m.drawWord).2.svcRun = m.svcRun := rfl
@[simp] theorem State.drawWord_tSvn (m : State) : (m.drawWord).2.tSvn = m.tSvn := rfl
@[simp] theorem State.drawWord_sSvn (m : State) : (m.drawWord).2.sSvn = m.sSvn := rfl
@[simp] theorem State.drawWord_stagedT (m : State) : (m.drawWord).2.stagedT = m.stagedT := rfl
@[simp] theorem State.drawWord_stagedS (m : State) : (m.drawWord).2.stagedS = m.stagedS := rfl
@[simp] theorem State.drawWord_mbLast (m : State) : (m.drawWord).2.mbLast = m.mbLast := rfl
@[simp] theorem State.drawWord_nodeSet (m : State) : (m.drawWord).2.nodeSet = m.nodeSet := rfl
@[simp] theorem State.drawWord_relays (m : State) : (m.drawWord).2.relays = m.relays := rfl
@[simp] theorem State.drawWord_mgmtRsp (m : State) : (m.drawWord).2.mgmtRsp = m.mgmtRsp := rfl
@[simp] theorem State.drawWord_smbOff (m : State) : (m.drawWord).2.smbOff = m.smbOff := rfl
@[simp] theorem State.drawWord_smbOut (m : State) : (m.drawWord).2.smbOut = m.smbOut := rfl
@[simp] theorem State.drawWord_jtagIr (m : State) : (m.drawWord).2.jtagIr = m.jtagIr := rfl
@[simp] theorem State.drawWord_jtagDr (m : State) : (m.drawWord).2.jtagDr = m.jtagDr := rfl
@[simp] theorem State.drawWord_busOut (m : State) : (m.drawWord).2.busOut = m.busOut := rfl
@[simp] theorem State.drawWord_lastLatch (m : State) : (m.drawWord).2.lastLatch = m.lastLatch := rfl
@[simp] theorem State.drawWord_slew (m : State) : (m.drawWord).2.slew = m.slew := rfl
@[simp] theorem State.drawWord_slow (m : State) : (m.drawWord).2.slow = m.slow := rfl
@[simp] theorem State.drawWord_frac (m : State) : (m.drawWord).2.frac = m.frac := rfl
@[simp] theorem State.drawWord_marginOn (m : State) : (m.drawWord).2.marginOn = m.marginOn := rfl
@[simp] theorem State.drawWord_nextId (m : State) : (m.drawWord).2.nextId = m.nextId := rfl
@[simp] theorem State.drawWord_pending (m : State) : (m.drawWord).2.pending = m.pending := rfl
@[simp] theorem State.drawWord_at_reg (m : State) (o : Nat) : (m.drawWord).2.reg o = m.reg o := rfl
@[simp] theorem State.drawWord_at_fld (m : State) (e : Fld) : (m.drawWord).2.fld e = m.fld e := rfl
@[simp] theorem State.drawWord_at_flag (m : State) (e : Fld) : (m.drawWord).2.flag e = m.flag e := rfl
@[simp] theorem State.drawWord_at_byte (m : State) (addr : Nat) : (m.drawWord).2.byte addr = m.byte addr := rfl
@[simp] theorem State.drawWord_at_bytes (m : State) (addr len : Nat) : (m.drawWord).2.bytes addr len = m.bytes addr len := rfl

/-! ## setLaunch -/

@[simp] theorem State.setLaunch_regs (m : State) (n : Nat) (l : Option Launch) : (m.setLaunch n l).regs = m.regs := rfl
@[simp] theorem State.setLaunch_snap (m : State) (n : Nat) (l : Option Launch) : (m.setLaunch n l).snap = m.snap := rfl
@[simp] theorem State.setLaunch_mem (m : State) (n : Nat) (l : Option Launch) : (m.setLaunch n l).mem = m.mem := rfl
@[simp] theorem State.setLaunch_poison (m : State) (n : Nat) (l : Option Launch) : (m.setLaunch n l).poison = m.poison := rfl
@[simp] theorem State.setLaunch_stale (m : State) (n : Nat) (l : Option Launch) : (m.setLaunch n l).stale = m.stale := rfl
@[simp] theorem State.setLaunch_stalePsn (m : State) (n : Nat) (l : Option Launch) : (m.setLaunch n l).stalePsn = m.stalePsn := rfl
@[simp] theorem State.setLaunch_cache (m : State) (n : Nat) (l : Option Launch) : (m.setLaunch n l).cache = m.cache := rfl
@[simp] theorem State.setLaunch_trayTags (m : State) (n : Nat) (l : Option Launch) : (m.setLaunch n l).trayTags = m.trayTags := rfl
@[simp] theorem State.setLaunch_coreBytes (m : State) (n : Nat) (l : Option Launch) : (m.setLaunch n l).coreBytes = m.coreBytes := rfl
@[simp] theorem State.setLaunch_mxScale (m : State) (n : Nat) (l : Option Launch) : (m.setLaunch n l).mxScale = m.mxScale := rfl
@[simp] theorem State.setLaunch_pstage (m : State) (n : Nat) (l : Option Launch) : (m.setLaunch n l).pstage = m.pstage := rfl
@[simp] theorem State.setLaunch_gens (m : State) (n : Nat) (l : Option Launch) : (m.setLaunch n l).gens = m.gens := rfl
@[simp] theorem State.setLaunch_lslots (m : State) (n : Nat) (l : Option Launch) : (m.setLaunch n l).lslots = m.lslots := rfl
@[simp] theorem State.setLaunch_queued (m : State) (n : Nat) (l : Option Launch) : (m.setLaunch n l).queued = m.queued := rfl
@[simp] theorem State.setLaunch_lastFirst (m : State) (n : Nat) (l : Option Launch) : (m.setLaunch n l).lastFirst = m.lastFirst := rfl
@[simp] theorem State.setLaunch_pcOver (m : State) (n : Nat) (l : Option Launch) : (m.setLaunch n l).pcOver = m.pcOver := rfl
@[simp] theorem State.setLaunch_holds (m : State) (n : Nat) (l : Option Launch) : (m.setLaunch n l).holds = m.holds := rfl
@[simp] theorem State.setLaunch_xfers (m : State) (n : Nat) (l : Option Launch) : (m.setLaunch n l).xfers = m.xfers := rfl
@[simp] theorem State.setLaunch_gops (m : State) (n : Nat) (l : Option Launch) : (m.setLaunch n l).gops = m.gops := rfl
@[simp] theorem State.setLaunch_spks (m : State) (n : Nat) (l : Option Launch) : (m.setLaunch n l).spks = m.spks := rfl
@[simp] theorem State.setLaunch_norms (m : State) (n : Nat) (l : Option Launch) : (m.setLaunch n l).norms = m.norms := rfl
@[simp] theorem State.setLaunch_dispatches (m : State) (n : Nat) (l : Option Launch) : (m.setLaunch n l).dispatches = m.dispatches := rfl
@[simp] theorem State.setLaunch_vt (m : State) (n : Nat) (l : Option Launch) : (m.setLaunch n l).vt = m.vt := rfl
@[simp] theorem State.setLaunch_justReady (m : State) (n : Nat) (l : Option Launch) : (m.setLaunch n l).justReady = m.justReady := rfl
@[simp] theorem State.setLaunch_whisks (m : State) (n : Nat) (l : Option Launch) : (m.setLaunch n l).whisks = m.whisks := rfl
@[simp] theorem State.setLaunch_tongs (m : State) (n : Nat) (l : Option Launch) : (m.setLaunch n l).tongs = m.tongs := rfl
@[simp] theorem State.setLaunch_mortars (m : State) (n : Nat) (l : Option Launch) : (m.setLaunch n l).mortars = m.mortars := rfl
@[simp] theorem State.setLaunch_tdones (m : State) (n : Nat) (l : Option Launch) : (m.setLaunch n l).tdones = m.tdones := rfl
@[simp] theorem State.setLaunch_watches (m : State) (n : Nat) (l : Option Launch) : (m.setLaunch n l).watches = m.watches := rfl
@[simp] theorem State.setLaunch_notes (m : State) (n : Nat) (l : Option Launch) : (m.setLaunch n l).notes = m.notes := rfl
@[simp] theorem State.setLaunch_entrants (m : State) (n : Nat) (l : Option Launch) : (m.setLaunch n l).entrants = m.entrants := rfl
@[simp] theorem State.setLaunch_links (m : State) (n : Nat) (l : Option Launch) : (m.setLaunch n l).links = m.links := rfl
@[simp] theorem State.setLaunch_reqs (m : State) (n : Nat) (l : Option Launch) : (m.setLaunch n l).reqs = m.reqs := rfl
@[simp] theorem State.setLaunch_outq (m : State) (n : Nat) (l : Option Launch) : (m.setLaunch n l).outq = m.outq := rfl
@[simp] theorem State.setLaunch_rbufs (m : State) (n : Nat) (l : Option Launch) : (m.setLaunch n l).rbufs = m.rbufs := rfl
@[simp] theorem State.setLaunch_routes (m : State) (n : Nat) (l : Option Launch) : (m.setLaunch n l).routes = m.routes := rfl
@[simp] theorem State.setLaunch_groups (m : State) (n : Nat) (l : Option Launch) : (m.setLaunch n l).groups = m.groups := rfl
@[simp] theorem State.setLaunch_grpSeen (m : State) (n : Nat) (l : Option Launch) : (m.setLaunch n l).grpSeen = m.grpSeen := rfl
@[simp] theorem State.setLaunch_grpSeq (m : State) (n : Nat) (l : Option Launch) : (m.setLaunch n l).grpSeq = m.grpSeq := rfl
@[simp] theorem State.setLaunch_colls (m : State) (n : Nat) (l : Option Launch) : (m.setLaunch n l).colls = m.colls := rfl
@[simp] theorem State.setLaunch_verdicts (m : State) (n : Nat) (l : Option Launch) : (m.setLaunch n l).verdicts = m.verdicts := rfl
@[simp] theorem State.setLaunch_steps (m : State) (n : Nat) (l : Option Launch) : (m.setLaunch n l).steps = m.steps := rfl
@[simp] theorem State.setLaunch_events (m : State) (n : Nat) (l : Option Launch) : (m.setLaunch n l).events = m.events := rfl
@[simp] theorem State.setLaunch_lossPages (m : State) (n : Nat) (l : Option Launch) : (m.setLaunch n l).lossPages = m.lossPages := rfl
@[simp] theorem State.setLaunch_hist (m : State) (n : Nat) (l : Option Launch) : (m.setLaunch n l).hist = m.hist := rfl
@[simp] theorem State.setLaunch_alert (m : State) (n : Nat) (l : Option Launch) : (m.setLaunch n l).alert = m.alert := rfl
@[simp] theorem State.setLaunch_msix (m : State) (n : Nat) (l : Option Launch) : (m.setLaunch n l).msix = m.msix := rfl
@[simp] theorem State.setLaunch_coreIrq (m : State) (n : Nat) (l : Option Launch) : (m.setLaunch n l).coreIrq = m.coreIrq := rfl
@[simp] theorem State.setLaunch_buckets (m : State) (n : Nat) (l : Option Launch) : (m.setLaunch n l).buckets = m.buckets := rfl
@[simp] theorem State.setLaunch_rsvBytes (m : State) (n : Nat) (l : Option Launch) : (m.setLaunch n l).rsvBytes = m.rsvBytes := rfl
@[simp] theorem State.setLaunch_flight (m : State) (n : Nat) (l : Option Launch) : (m.setLaunch n l).flight = m.flight := rfl
@[simp] theorem State.setLaunch_hbmOut (m : State) (n : Nat) (l : Option Launch) : (m.setLaunch n l).hbmOut = m.hbmOut := rfl
@[simp] theorem State.setLaunch_resets (m : State) (n : Nat) (l : Option Launch) : (m.setLaunch n l).resets = m.resets := rfl
@[simp] theorem State.setLaunch_bells (m : State) (n : Nat) (l : Option Launch) : (m.setLaunch n l).bells = m.bells := rfl
@[simp] theorem State.setLaunch_engResets (m : State) (n : Nat) (l : Option Launch) : (m.setLaunch n l).engResets = m.engResets := rfl
@[simp] theorem State.setLaunch_flushes (m : State) (n : Nat) (l : Option Launch) : (m.setLaunch n l).flushes = m.flushes := rfl
@[simp] theorem State.setLaunch_zeroing (m : State) (n : Nat) (l : Option Launch) : (m.setLaunch n l).zeroing = m.zeroing := rfl
@[simp] theorem State.setLaunch_power (m : State) (n : Nat) (l : Option Launch) : (m.setLaunch n l).power = m.power := rfl
@[simp] theorem State.setLaunch_pins (m : State) (n : Nat) (l : Option Launch) : (m.setLaunch n l).pins = m.pins := rfl
@[simp] theorem State.setLaunch_alive (m : State) (n : Nat) (l : Option Launch) : (m.setLaunch n l).alive = m.alive := rfl
@[simp] theorem State.setLaunch_cores (m : State) (n : Nat) (l : Option Launch) : (m.setLaunch n l).cores = m.cores := rfl
@[simp] theorem State.setLaunch_fuses (m : State) (n : Nat) (l : Option Launch) : (m.setLaunch n l).fuses = m.fuses := rfl
@[simp] theorem State.setLaunch_flash (m : State) (n : Nat) (l : Option Launch) : (m.setLaunch n l).flash = m.flash := rfl
@[simp] theorem State.setLaunch_session (m : State) (n : Nat) (l : Option Launch) : (m.setLaunch n l).session = m.session := rfl
@[simp] theorem State.setLaunch_hoCopy (m : State) (n : Nat) (l : Option Launch) : (m.setLaunch n l).hoCopy = m.hoCopy := rfl
@[simp] theorem State.setLaunch_hoOpen (m : State) (n : Nat) (l : Option Launch) : (m.setLaunch n l).hoOpen = m.hoOpen := rfl
@[simp] theorem State.setLaunch_hoSave (m : State) (n : Nat) (l : Option Launch) : (m.setLaunch n l).hoSave = m.hoSave := rfl
@[simp] theorem State.setLaunch_hoValid (m : State) (n : Nat) (l : Option Launch) : (m.setLaunch n l).hoValid = m.hoValid := rfl
@[simp] theorem State.setLaunch_svcRun (m : State) (n : Nat) (l : Option Launch) : (m.setLaunch n l).svcRun = m.svcRun := rfl
@[simp] theorem State.setLaunch_tSvn (m : State) (n : Nat) (l : Option Launch) : (m.setLaunch n l).tSvn = m.tSvn := rfl
@[simp] theorem State.setLaunch_sSvn (m : State) (n : Nat) (l : Option Launch) : (m.setLaunch n l).sSvn = m.sSvn := rfl
@[simp] theorem State.setLaunch_stagedT (m : State) (n : Nat) (l : Option Launch) : (m.setLaunch n l).stagedT = m.stagedT := rfl
@[simp] theorem State.setLaunch_stagedS (m : State) (n : Nat) (l : Option Launch) : (m.setLaunch n l).stagedS = m.stagedS := rfl
@[simp] theorem State.setLaunch_mbLast (m : State) (n : Nat) (l : Option Launch) : (m.setLaunch n l).mbLast = m.mbLast := rfl
@[simp] theorem State.setLaunch_nodeSet (m : State) (n : Nat) (l : Option Launch) : (m.setLaunch n l).nodeSet = m.nodeSet := rfl
@[simp] theorem State.setLaunch_relays (m : State) (n : Nat) (l : Option Launch) : (m.setLaunch n l).relays = m.relays := rfl
@[simp] theorem State.setLaunch_mgmtRsp (m : State) (n : Nat) (l : Option Launch) : (m.setLaunch n l).mgmtRsp = m.mgmtRsp := rfl
@[simp] theorem State.setLaunch_smbOff (m : State) (n : Nat) (l : Option Launch) : (m.setLaunch n l).smbOff = m.smbOff := rfl
@[simp] theorem State.setLaunch_smbOut (m : State) (n : Nat) (l : Option Launch) : (m.setLaunch n l).smbOut = m.smbOut := rfl
@[simp] theorem State.setLaunch_jtagIr (m : State) (n : Nat) (l : Option Launch) : (m.setLaunch n l).jtagIr = m.jtagIr := rfl
@[simp] theorem State.setLaunch_jtagDr (m : State) (n : Nat) (l : Option Launch) : (m.setLaunch n l).jtagDr = m.jtagDr := rfl
@[simp] theorem State.setLaunch_busOut (m : State) (n : Nat) (l : Option Launch) : (m.setLaunch n l).busOut = m.busOut := rfl
@[simp] theorem State.setLaunch_lastLatch (m : State) (n : Nat) (l : Option Launch) : (m.setLaunch n l).lastLatch = m.lastLatch := rfl
@[simp] theorem State.setLaunch_slew (m : State) (n : Nat) (l : Option Launch) : (m.setLaunch n l).slew = m.slew := rfl
@[simp] theorem State.setLaunch_slow (m : State) (n : Nat) (l : Option Launch) : (m.setLaunch n l).slow = m.slow := rfl
@[simp] theorem State.setLaunch_frac (m : State) (n : Nat) (l : Option Launch) : (m.setLaunch n l).frac = m.frac := rfl
@[simp] theorem State.setLaunch_marginOn (m : State) (n : Nat) (l : Option Launch) : (m.setLaunch n l).marginOn = m.marginOn := rfl
@[simp] theorem State.setLaunch_nextId (m : State) (n : Nat) (l : Option Launch) : (m.setLaunch n l).nextId = m.nextId := rfl
@[simp] theorem State.setLaunch_free (m : State) (n : Nat) (l : Option Launch) : (m.setLaunch n l).free = m.free := rfl
@[simp] theorem State.setLaunch_pending (m : State) (n : Nat) (l : Option Launch) : (m.setLaunch n l).pending = m.pending := rfl
@[simp] theorem State.setLaunch_at_reg (m : State) (n : Nat) (l : Option Launch) (o : Nat) : (m.setLaunch n l).reg o = m.reg o := rfl
@[simp] theorem State.setLaunch_at_fld (m : State) (n : Nat) (l : Option Launch) (e : Fld) : (m.setLaunch n l).fld e = m.fld e := rfl
@[simp] theorem State.setLaunch_at_flag (m : State) (n : Nat) (l : Option Launch) (e : Fld) : (m.setLaunch n l).flag e = m.flag e := rfl
@[simp] theorem State.setLaunch_at_byte (m : State) (n : Nat) (l : Option Launch) (addr : Nat) : (m.setLaunch n l).byte addr = m.byte addr := rfl
@[simp] theorem State.setLaunch_at_bytes (m : State) (n : Nat) (l : Option Launch) (addr len : Nat) : (m.setLaunch n l).bytes addr len = m.bytes addr len := rfl

/-! ## setHold -/

@[simp] theorem State.setHold_regs (m : State) (n q : Nat) (h : Option Hold) : (m.setHold n q h).regs = m.regs := rfl
@[simp] theorem State.setHold_snap (m : State) (n q : Nat) (h : Option Hold) : (m.setHold n q h).snap = m.snap := rfl
@[simp] theorem State.setHold_mem (m : State) (n q : Nat) (h : Option Hold) : (m.setHold n q h).mem = m.mem := rfl
@[simp] theorem State.setHold_poison (m : State) (n q : Nat) (h : Option Hold) : (m.setHold n q h).poison = m.poison := rfl
@[simp] theorem State.setHold_stale (m : State) (n q : Nat) (h : Option Hold) : (m.setHold n q h).stale = m.stale := rfl
@[simp] theorem State.setHold_stalePsn (m : State) (n q : Nat) (h : Option Hold) : (m.setHold n q h).stalePsn = m.stalePsn := rfl
@[simp] theorem State.setHold_cache (m : State) (n q : Nat) (h : Option Hold) : (m.setHold n q h).cache = m.cache := rfl
@[simp] theorem State.setHold_trayTags (m : State) (n q : Nat) (h : Option Hold) : (m.setHold n q h).trayTags = m.trayTags := rfl
@[simp] theorem State.setHold_coreBytes (m : State) (n q : Nat) (h : Option Hold) : (m.setHold n q h).coreBytes = m.coreBytes := rfl
@[simp] theorem State.setHold_mxScale (m : State) (n q : Nat) (h : Option Hold) : (m.setHold n q h).mxScale = m.mxScale := rfl
@[simp] theorem State.setHold_pstage (m : State) (n q : Nat) (h : Option Hold) : (m.setHold n q h).pstage = m.pstage := rfl
@[simp] theorem State.setHold_gens (m : State) (n q : Nat) (h : Option Hold) : (m.setHold n q h).gens = m.gens := rfl
@[simp] theorem State.setHold_lslots (m : State) (n q : Nat) (h : Option Hold) : (m.setHold n q h).lslots = m.lslots := rfl
@[simp] theorem State.setHold_queued (m : State) (n q : Nat) (h : Option Hold) : (m.setHold n q h).queued = m.queued := rfl
@[simp] theorem State.setHold_launches (m : State) (n q : Nat) (h : Option Hold) : (m.setHold n q h).launches = m.launches := rfl
@[simp] theorem State.setHold_lastFirst (m : State) (n q : Nat) (h : Option Hold) : (m.setHold n q h).lastFirst = m.lastFirst := rfl
@[simp] theorem State.setHold_pcOver (m : State) (n q : Nat) (h : Option Hold) : (m.setHold n q h).pcOver = m.pcOver := rfl
@[simp] theorem State.setHold_xfers (m : State) (n q : Nat) (h : Option Hold) : (m.setHold n q h).xfers = m.xfers := rfl
@[simp] theorem State.setHold_gops (m : State) (n q : Nat) (h : Option Hold) : (m.setHold n q h).gops = m.gops := rfl
@[simp] theorem State.setHold_spks (m : State) (n q : Nat) (h : Option Hold) : (m.setHold n q h).spks = m.spks := rfl
@[simp] theorem State.setHold_norms (m : State) (n q : Nat) (h : Option Hold) : (m.setHold n q h).norms = m.norms := rfl
@[simp] theorem State.setHold_dispatches (m : State) (n q : Nat) (h : Option Hold) : (m.setHold n q h).dispatches = m.dispatches := rfl
@[simp] theorem State.setHold_vt (m : State) (n q : Nat) (h : Option Hold) : (m.setHold n q h).vt = m.vt := rfl
@[simp] theorem State.setHold_justReady (m : State) (n q : Nat) (h : Option Hold) : (m.setHold n q h).justReady = m.justReady := rfl
@[simp] theorem State.setHold_whisks (m : State) (n q : Nat) (h : Option Hold) : (m.setHold n q h).whisks = m.whisks := rfl
@[simp] theorem State.setHold_tongs (m : State) (n q : Nat) (h : Option Hold) : (m.setHold n q h).tongs = m.tongs := rfl
@[simp] theorem State.setHold_mortars (m : State) (n q : Nat) (h : Option Hold) : (m.setHold n q h).mortars = m.mortars := rfl
@[simp] theorem State.setHold_tdones (m : State) (n q : Nat) (h : Option Hold) : (m.setHold n q h).tdones = m.tdones := rfl
@[simp] theorem State.setHold_watches (m : State) (n q : Nat) (h : Option Hold) : (m.setHold n q h).watches = m.watches := rfl
@[simp] theorem State.setHold_notes (m : State) (n q : Nat) (h : Option Hold) : (m.setHold n q h).notes = m.notes := rfl
@[simp] theorem State.setHold_entrants (m : State) (n q : Nat) (h : Option Hold) : (m.setHold n q h).entrants = m.entrants := rfl
@[simp] theorem State.setHold_links (m : State) (n q : Nat) (h : Option Hold) : (m.setHold n q h).links = m.links := rfl
@[simp] theorem State.setHold_reqs (m : State) (n q : Nat) (h : Option Hold) : (m.setHold n q h).reqs = m.reqs := rfl
@[simp] theorem State.setHold_outq (m : State) (n q : Nat) (h : Option Hold) : (m.setHold n q h).outq = m.outq := rfl
@[simp] theorem State.setHold_rbufs (m : State) (n q : Nat) (h : Option Hold) : (m.setHold n q h).rbufs = m.rbufs := rfl
@[simp] theorem State.setHold_routes (m : State) (n q : Nat) (h : Option Hold) : (m.setHold n q h).routes = m.routes := rfl
@[simp] theorem State.setHold_groups (m : State) (n q : Nat) (h : Option Hold) : (m.setHold n q h).groups = m.groups := rfl
@[simp] theorem State.setHold_grpSeen (m : State) (n q : Nat) (h : Option Hold) : (m.setHold n q h).grpSeen = m.grpSeen := rfl
@[simp] theorem State.setHold_grpSeq (m : State) (n q : Nat) (h : Option Hold) : (m.setHold n q h).grpSeq = m.grpSeq := rfl
@[simp] theorem State.setHold_colls (m : State) (n q : Nat) (h : Option Hold) : (m.setHold n q h).colls = m.colls := rfl
@[simp] theorem State.setHold_verdicts (m : State) (n q : Nat) (h : Option Hold) : (m.setHold n q h).verdicts = m.verdicts := rfl
@[simp] theorem State.setHold_steps (m : State) (n q : Nat) (h : Option Hold) : (m.setHold n q h).steps = m.steps := rfl
@[simp] theorem State.setHold_events (m : State) (n q : Nat) (h : Option Hold) : (m.setHold n q h).events = m.events := rfl
@[simp] theorem State.setHold_lossPages (m : State) (n q : Nat) (h : Option Hold) : (m.setHold n q h).lossPages = m.lossPages := rfl
@[simp] theorem State.setHold_hist (m : State) (n q : Nat) (h : Option Hold) : (m.setHold n q h).hist = m.hist := rfl
@[simp] theorem State.setHold_alert (m : State) (n q : Nat) (h : Option Hold) : (m.setHold n q h).alert = m.alert := rfl
@[simp] theorem State.setHold_msix (m : State) (n q : Nat) (h : Option Hold) : (m.setHold n q h).msix = m.msix := rfl
@[simp] theorem State.setHold_coreIrq (m : State) (n q : Nat) (h : Option Hold) : (m.setHold n q h).coreIrq = m.coreIrq := rfl
@[simp] theorem State.setHold_buckets (m : State) (n q : Nat) (h : Option Hold) : (m.setHold n q h).buckets = m.buckets := rfl
@[simp] theorem State.setHold_rsvBytes (m : State) (n q : Nat) (h : Option Hold) : (m.setHold n q h).rsvBytes = m.rsvBytes := rfl
@[simp] theorem State.setHold_flight (m : State) (n q : Nat) (h : Option Hold) : (m.setHold n q h).flight = m.flight := rfl
@[simp] theorem State.setHold_hbmOut (m : State) (n q : Nat) (h : Option Hold) : (m.setHold n q h).hbmOut = m.hbmOut := rfl
@[simp] theorem State.setHold_resets (m : State) (n q : Nat) (h : Option Hold) : (m.setHold n q h).resets = m.resets := rfl
@[simp] theorem State.setHold_bells (m : State) (n q : Nat) (h : Option Hold) : (m.setHold n q h).bells = m.bells := rfl
@[simp] theorem State.setHold_engResets (m : State) (n q : Nat) (h : Option Hold) : (m.setHold n q h).engResets = m.engResets := rfl
@[simp] theorem State.setHold_flushes (m : State) (n q : Nat) (h : Option Hold) : (m.setHold n q h).flushes = m.flushes := rfl
@[simp] theorem State.setHold_zeroing (m : State) (n q : Nat) (h : Option Hold) : (m.setHold n q h).zeroing = m.zeroing := rfl
@[simp] theorem State.setHold_power (m : State) (n q : Nat) (h : Option Hold) : (m.setHold n q h).power = m.power := rfl
@[simp] theorem State.setHold_pins (m : State) (n q : Nat) (h : Option Hold) : (m.setHold n q h).pins = m.pins := rfl
@[simp] theorem State.setHold_alive (m : State) (n q : Nat) (h : Option Hold) : (m.setHold n q h).alive = m.alive := rfl
@[simp] theorem State.setHold_cores (m : State) (n q : Nat) (h : Option Hold) : (m.setHold n q h).cores = m.cores := rfl
@[simp] theorem State.setHold_fuses (m : State) (n q : Nat) (h : Option Hold) : (m.setHold n q h).fuses = m.fuses := rfl
@[simp] theorem State.setHold_flash (m : State) (n q : Nat) (h : Option Hold) : (m.setHold n q h).flash = m.flash := rfl
@[simp] theorem State.setHold_session (m : State) (n q : Nat) (h : Option Hold) : (m.setHold n q h).session = m.session := rfl
@[simp] theorem State.setHold_hoCopy (m : State) (n q : Nat) (h : Option Hold) : (m.setHold n q h).hoCopy = m.hoCopy := rfl
@[simp] theorem State.setHold_hoOpen (m : State) (n q : Nat) (h : Option Hold) : (m.setHold n q h).hoOpen = m.hoOpen := rfl
@[simp] theorem State.setHold_hoSave (m : State) (n q : Nat) (h : Option Hold) : (m.setHold n q h).hoSave = m.hoSave := rfl
@[simp] theorem State.setHold_hoValid (m : State) (n q : Nat) (h : Option Hold) : (m.setHold n q h).hoValid = m.hoValid := rfl
@[simp] theorem State.setHold_svcRun (m : State) (n q : Nat) (h : Option Hold) : (m.setHold n q h).svcRun = m.svcRun := rfl
@[simp] theorem State.setHold_tSvn (m : State) (n q : Nat) (h : Option Hold) : (m.setHold n q h).tSvn = m.tSvn := rfl
@[simp] theorem State.setHold_sSvn (m : State) (n q : Nat) (h : Option Hold) : (m.setHold n q h).sSvn = m.sSvn := rfl
@[simp] theorem State.setHold_stagedT (m : State) (n q : Nat) (h : Option Hold) : (m.setHold n q h).stagedT = m.stagedT := rfl
@[simp] theorem State.setHold_stagedS (m : State) (n q : Nat) (h : Option Hold) : (m.setHold n q h).stagedS = m.stagedS := rfl
@[simp] theorem State.setHold_mbLast (m : State) (n q : Nat) (h : Option Hold) : (m.setHold n q h).mbLast = m.mbLast := rfl
@[simp] theorem State.setHold_nodeSet (m : State) (n q : Nat) (h : Option Hold) : (m.setHold n q h).nodeSet = m.nodeSet := rfl
@[simp] theorem State.setHold_relays (m : State) (n q : Nat) (h : Option Hold) : (m.setHold n q h).relays = m.relays := rfl
@[simp] theorem State.setHold_mgmtRsp (m : State) (n q : Nat) (h : Option Hold) : (m.setHold n q h).mgmtRsp = m.mgmtRsp := rfl
@[simp] theorem State.setHold_smbOff (m : State) (n q : Nat) (h : Option Hold) : (m.setHold n q h).smbOff = m.smbOff := rfl
@[simp] theorem State.setHold_smbOut (m : State) (n q : Nat) (h : Option Hold) : (m.setHold n q h).smbOut = m.smbOut := rfl
@[simp] theorem State.setHold_jtagIr (m : State) (n q : Nat) (h : Option Hold) : (m.setHold n q h).jtagIr = m.jtagIr := rfl
@[simp] theorem State.setHold_jtagDr (m : State) (n q : Nat) (h : Option Hold) : (m.setHold n q h).jtagDr = m.jtagDr := rfl
@[simp] theorem State.setHold_busOut (m : State) (n q : Nat) (h : Option Hold) : (m.setHold n q h).busOut = m.busOut := rfl
@[simp] theorem State.setHold_lastLatch (m : State) (n q : Nat) (h : Option Hold) : (m.setHold n q h).lastLatch = m.lastLatch := rfl
@[simp] theorem State.setHold_slew (m : State) (n q : Nat) (h : Option Hold) : (m.setHold n q h).slew = m.slew := rfl
@[simp] theorem State.setHold_slow (m : State) (n q : Nat) (h : Option Hold) : (m.setHold n q h).slow = m.slow := rfl
@[simp] theorem State.setHold_frac (m : State) (n q : Nat) (h : Option Hold) : (m.setHold n q h).frac = m.frac := rfl
@[simp] theorem State.setHold_marginOn (m : State) (n q : Nat) (h : Option Hold) : (m.setHold n q h).marginOn = m.marginOn := rfl
@[simp] theorem State.setHold_nextId (m : State) (n q : Nat) (h : Option Hold) : (m.setHold n q h).nextId = m.nextId := rfl
@[simp] theorem State.setHold_free (m : State) (n q : Nat) (h : Option Hold) : (m.setHold n q h).free = m.free := rfl
@[simp] theorem State.setHold_pending (m : State) (n q : Nat) (h : Option Hold) : (m.setHold n q h).pending = m.pending := rfl
@[simp] theorem State.setHold_at_reg (m : State) (n q : Nat) (h : Option Hold) (o : Nat) : (m.setHold n q h).reg o = m.reg o := rfl
@[simp] theorem State.setHold_at_fld (m : State) (n q : Nat) (h : Option Hold) (e : Fld) : (m.setHold n q h).fld e = m.fld e := rfl
@[simp] theorem State.setHold_at_flag (m : State) (n q : Nat) (h : Option Hold) (e : Fld) : (m.setHold n q h).flag e = m.flag e := rfl
@[simp] theorem State.setHold_at_byte (m : State) (n q : Nat) (h : Option Hold) (addr : Nat) : (m.setHold n q h).byte addr = m.byte addr := rfl
@[simp] theorem State.setHold_at_bytes (m : State) (n q : Nat) (h : Option Hold) (addr len : Nat) : (m.setHold n q h).bytes addr len = m.bytes addr len := rfl

/-! ## setXfer -/

@[simp] theorem State.setXfer_regs (m : State) (x : Xfer) : (m.setXfer x).regs = m.regs := rfl
@[simp] theorem State.setXfer_snap (m : State) (x : Xfer) : (m.setXfer x).snap = m.snap := rfl
@[simp] theorem State.setXfer_mem (m : State) (x : Xfer) : (m.setXfer x).mem = m.mem := rfl
@[simp] theorem State.setXfer_poison (m : State) (x : Xfer) : (m.setXfer x).poison = m.poison := rfl
@[simp] theorem State.setXfer_stale (m : State) (x : Xfer) : (m.setXfer x).stale = m.stale := rfl
@[simp] theorem State.setXfer_stalePsn (m : State) (x : Xfer) : (m.setXfer x).stalePsn = m.stalePsn := rfl
@[simp] theorem State.setXfer_cache (m : State) (x : Xfer) : (m.setXfer x).cache = m.cache := rfl
@[simp] theorem State.setXfer_trayTags (m : State) (x : Xfer) : (m.setXfer x).trayTags = m.trayTags := rfl
@[simp] theorem State.setXfer_coreBytes (m : State) (x : Xfer) : (m.setXfer x).coreBytes = m.coreBytes := rfl
@[simp] theorem State.setXfer_mxScale (m : State) (x : Xfer) : (m.setXfer x).mxScale = m.mxScale := rfl
@[simp] theorem State.setXfer_pstage (m : State) (x : Xfer) : (m.setXfer x).pstage = m.pstage := rfl
@[simp] theorem State.setXfer_gens (m : State) (x : Xfer) : (m.setXfer x).gens = m.gens := rfl
@[simp] theorem State.setXfer_lslots (m : State) (x : Xfer) : (m.setXfer x).lslots = m.lslots := rfl
@[simp] theorem State.setXfer_queued (m : State) (x : Xfer) : (m.setXfer x).queued = m.queued := rfl
@[simp] theorem State.setXfer_launches (m : State) (x : Xfer) : (m.setXfer x).launches = m.launches := rfl
@[simp] theorem State.setXfer_lastFirst (m : State) (x : Xfer) : (m.setXfer x).lastFirst = m.lastFirst := rfl
@[simp] theorem State.setXfer_pcOver (m : State) (x : Xfer) : (m.setXfer x).pcOver = m.pcOver := rfl
@[simp] theorem State.setXfer_holds (m : State) (x : Xfer) : (m.setXfer x).holds = m.holds := rfl
@[simp] theorem State.setXfer_gops (m : State) (x : Xfer) : (m.setXfer x).gops = m.gops := rfl
@[simp] theorem State.setXfer_spks (m : State) (x : Xfer) : (m.setXfer x).spks = m.spks := rfl
@[simp] theorem State.setXfer_norms (m : State) (x : Xfer) : (m.setXfer x).norms = m.norms := rfl
@[simp] theorem State.setXfer_dispatches (m : State) (x : Xfer) : (m.setXfer x).dispatches = m.dispatches := rfl
@[simp] theorem State.setXfer_vt (m : State) (x : Xfer) : (m.setXfer x).vt = m.vt := rfl
@[simp] theorem State.setXfer_justReady (m : State) (x : Xfer) : (m.setXfer x).justReady = m.justReady := rfl
@[simp] theorem State.setXfer_whisks (m : State) (x : Xfer) : (m.setXfer x).whisks = m.whisks := rfl
@[simp] theorem State.setXfer_tongs (m : State) (x : Xfer) : (m.setXfer x).tongs = m.tongs := rfl
@[simp] theorem State.setXfer_mortars (m : State) (x : Xfer) : (m.setXfer x).mortars = m.mortars := rfl
@[simp] theorem State.setXfer_tdones (m : State) (x : Xfer) : (m.setXfer x).tdones = m.tdones := rfl
@[simp] theorem State.setXfer_watches (m : State) (x : Xfer) : (m.setXfer x).watches = m.watches := rfl
@[simp] theorem State.setXfer_notes (m : State) (x : Xfer) : (m.setXfer x).notes = m.notes := rfl
@[simp] theorem State.setXfer_entrants (m : State) (x : Xfer) : (m.setXfer x).entrants = m.entrants := rfl
@[simp] theorem State.setXfer_links (m : State) (x : Xfer) : (m.setXfer x).links = m.links := rfl
@[simp] theorem State.setXfer_reqs (m : State) (x : Xfer) : (m.setXfer x).reqs = m.reqs := rfl
@[simp] theorem State.setXfer_outq (m : State) (x : Xfer) : (m.setXfer x).outq = m.outq := rfl
@[simp] theorem State.setXfer_rbufs (m : State) (x : Xfer) : (m.setXfer x).rbufs = m.rbufs := rfl
@[simp] theorem State.setXfer_routes (m : State) (x : Xfer) : (m.setXfer x).routes = m.routes := rfl
@[simp] theorem State.setXfer_groups (m : State) (x : Xfer) : (m.setXfer x).groups = m.groups := rfl
@[simp] theorem State.setXfer_grpSeen (m : State) (x : Xfer) : (m.setXfer x).grpSeen = m.grpSeen := rfl
@[simp] theorem State.setXfer_grpSeq (m : State) (x : Xfer) : (m.setXfer x).grpSeq = m.grpSeq := rfl
@[simp] theorem State.setXfer_colls (m : State) (x : Xfer) : (m.setXfer x).colls = m.colls := rfl
@[simp] theorem State.setXfer_verdicts (m : State) (x : Xfer) : (m.setXfer x).verdicts = m.verdicts := rfl
@[simp] theorem State.setXfer_steps (m : State) (x : Xfer) : (m.setXfer x).steps = m.steps := rfl
@[simp] theorem State.setXfer_events (m : State) (x : Xfer) : (m.setXfer x).events = m.events := rfl
@[simp] theorem State.setXfer_lossPages (m : State) (x : Xfer) : (m.setXfer x).lossPages = m.lossPages := rfl
@[simp] theorem State.setXfer_hist (m : State) (x : Xfer) : (m.setXfer x).hist = m.hist := rfl
@[simp] theorem State.setXfer_alert (m : State) (x : Xfer) : (m.setXfer x).alert = m.alert := rfl
@[simp] theorem State.setXfer_msix (m : State) (x : Xfer) : (m.setXfer x).msix = m.msix := rfl
@[simp] theorem State.setXfer_coreIrq (m : State) (x : Xfer) : (m.setXfer x).coreIrq = m.coreIrq := rfl
@[simp] theorem State.setXfer_buckets (m : State) (x : Xfer) : (m.setXfer x).buckets = m.buckets := rfl
@[simp] theorem State.setXfer_rsvBytes (m : State) (x : Xfer) : (m.setXfer x).rsvBytes = m.rsvBytes := rfl
@[simp] theorem State.setXfer_flight (m : State) (x : Xfer) : (m.setXfer x).flight = m.flight := rfl
@[simp] theorem State.setXfer_hbmOut (m : State) (x : Xfer) : (m.setXfer x).hbmOut = m.hbmOut := rfl
@[simp] theorem State.setXfer_resets (m : State) (x : Xfer) : (m.setXfer x).resets = m.resets := rfl
@[simp] theorem State.setXfer_bells (m : State) (x : Xfer) : (m.setXfer x).bells = m.bells := rfl
@[simp] theorem State.setXfer_engResets (m : State) (x : Xfer) : (m.setXfer x).engResets = m.engResets := rfl
@[simp] theorem State.setXfer_flushes (m : State) (x : Xfer) : (m.setXfer x).flushes = m.flushes := rfl
@[simp] theorem State.setXfer_zeroing (m : State) (x : Xfer) : (m.setXfer x).zeroing = m.zeroing := rfl
@[simp] theorem State.setXfer_power (m : State) (x : Xfer) : (m.setXfer x).power = m.power := rfl
@[simp] theorem State.setXfer_pins (m : State) (x : Xfer) : (m.setXfer x).pins = m.pins := rfl
@[simp] theorem State.setXfer_alive (m : State) (x : Xfer) : (m.setXfer x).alive = m.alive := rfl
@[simp] theorem State.setXfer_cores (m : State) (x : Xfer) : (m.setXfer x).cores = m.cores := rfl
@[simp] theorem State.setXfer_fuses (m : State) (x : Xfer) : (m.setXfer x).fuses = m.fuses := rfl
@[simp] theorem State.setXfer_flash (m : State) (x : Xfer) : (m.setXfer x).flash = m.flash := rfl
@[simp] theorem State.setXfer_session (m : State) (x : Xfer) : (m.setXfer x).session = m.session := rfl
@[simp] theorem State.setXfer_hoCopy (m : State) (x : Xfer) : (m.setXfer x).hoCopy = m.hoCopy := rfl
@[simp] theorem State.setXfer_hoOpen (m : State) (x : Xfer) : (m.setXfer x).hoOpen = m.hoOpen := rfl
@[simp] theorem State.setXfer_hoSave (m : State) (x : Xfer) : (m.setXfer x).hoSave = m.hoSave := rfl
@[simp] theorem State.setXfer_hoValid (m : State) (x : Xfer) : (m.setXfer x).hoValid = m.hoValid := rfl
@[simp] theorem State.setXfer_svcRun (m : State) (x : Xfer) : (m.setXfer x).svcRun = m.svcRun := rfl
@[simp] theorem State.setXfer_tSvn (m : State) (x : Xfer) : (m.setXfer x).tSvn = m.tSvn := rfl
@[simp] theorem State.setXfer_sSvn (m : State) (x : Xfer) : (m.setXfer x).sSvn = m.sSvn := rfl
@[simp] theorem State.setXfer_stagedT (m : State) (x : Xfer) : (m.setXfer x).stagedT = m.stagedT := rfl
@[simp] theorem State.setXfer_stagedS (m : State) (x : Xfer) : (m.setXfer x).stagedS = m.stagedS := rfl
@[simp] theorem State.setXfer_mbLast (m : State) (x : Xfer) : (m.setXfer x).mbLast = m.mbLast := rfl
@[simp] theorem State.setXfer_nodeSet (m : State) (x : Xfer) : (m.setXfer x).nodeSet = m.nodeSet := rfl
@[simp] theorem State.setXfer_relays (m : State) (x : Xfer) : (m.setXfer x).relays = m.relays := rfl
@[simp] theorem State.setXfer_mgmtRsp (m : State) (x : Xfer) : (m.setXfer x).mgmtRsp = m.mgmtRsp := rfl
@[simp] theorem State.setXfer_smbOff (m : State) (x : Xfer) : (m.setXfer x).smbOff = m.smbOff := rfl
@[simp] theorem State.setXfer_smbOut (m : State) (x : Xfer) : (m.setXfer x).smbOut = m.smbOut := rfl
@[simp] theorem State.setXfer_jtagIr (m : State) (x : Xfer) : (m.setXfer x).jtagIr = m.jtagIr := rfl
@[simp] theorem State.setXfer_jtagDr (m : State) (x : Xfer) : (m.setXfer x).jtagDr = m.jtagDr := rfl
@[simp] theorem State.setXfer_busOut (m : State) (x : Xfer) : (m.setXfer x).busOut = m.busOut := rfl
@[simp] theorem State.setXfer_lastLatch (m : State) (x : Xfer) : (m.setXfer x).lastLatch = m.lastLatch := rfl
@[simp] theorem State.setXfer_slew (m : State) (x : Xfer) : (m.setXfer x).slew = m.slew := rfl
@[simp] theorem State.setXfer_slow (m : State) (x : Xfer) : (m.setXfer x).slow = m.slow := rfl
@[simp] theorem State.setXfer_frac (m : State) (x : Xfer) : (m.setXfer x).frac = m.frac := rfl
@[simp] theorem State.setXfer_marginOn (m : State) (x : Xfer) : (m.setXfer x).marginOn = m.marginOn := rfl
@[simp] theorem State.setXfer_nextId (m : State) (x : Xfer) : (m.setXfer x).nextId = m.nextId := rfl
@[simp] theorem State.setXfer_free (m : State) (x : Xfer) : (m.setXfer x).free = m.free := rfl
@[simp] theorem State.setXfer_pending (m : State) (x : Xfer) : (m.setXfer x).pending = m.pending := rfl
@[simp] theorem State.setXfer_at_reg (m : State) (x : Xfer) (o : Nat) : (m.setXfer x).reg o = m.reg o := rfl
@[simp] theorem State.setXfer_at_fld (m : State) (x : Xfer) (e : Fld) : (m.setXfer x).fld e = m.fld e := rfl
@[simp] theorem State.setXfer_at_flag (m : State) (x : Xfer) (e : Fld) : (m.setXfer x).flag e = m.flag e := rfl
@[simp] theorem State.setXfer_at_byte (m : State) (x : Xfer) (addr : Nat) : (m.setXfer x).byte addr = m.byte addr := rfl
@[simp] theorem State.setXfer_at_bytes (m : State) (x : Xfer) (addr len : Nat) : (m.setXfer x).bytes addr len = m.bytes addr len := rfl

/-! ## setGop -/

@[simp] theorem State.setGop_regs (m : State) (g : Gop) : (m.setGop g).regs = m.regs := rfl
@[simp] theorem State.setGop_snap (m : State) (g : Gop) : (m.setGop g).snap = m.snap := rfl
@[simp] theorem State.setGop_mem (m : State) (g : Gop) : (m.setGop g).mem = m.mem := rfl
@[simp] theorem State.setGop_poison (m : State) (g : Gop) : (m.setGop g).poison = m.poison := rfl
@[simp] theorem State.setGop_stale (m : State) (g : Gop) : (m.setGop g).stale = m.stale := rfl
@[simp] theorem State.setGop_stalePsn (m : State) (g : Gop) : (m.setGop g).stalePsn = m.stalePsn := rfl
@[simp] theorem State.setGop_cache (m : State) (g : Gop) : (m.setGop g).cache = m.cache := rfl
@[simp] theorem State.setGop_trayTags (m : State) (g : Gop) : (m.setGop g).trayTags = m.trayTags := rfl
@[simp] theorem State.setGop_coreBytes (m : State) (g : Gop) : (m.setGop g).coreBytes = m.coreBytes := rfl
@[simp] theorem State.setGop_mxScale (m : State) (g : Gop) : (m.setGop g).mxScale = m.mxScale := rfl
@[simp] theorem State.setGop_pstage (m : State) (g : Gop) : (m.setGop g).pstage = m.pstage := rfl
@[simp] theorem State.setGop_gens (m : State) (g : Gop) : (m.setGop g).gens = m.gens := rfl
@[simp] theorem State.setGop_lslots (m : State) (g : Gop) : (m.setGop g).lslots = m.lslots := rfl
@[simp] theorem State.setGop_queued (m : State) (g : Gop) : (m.setGop g).queued = m.queued := rfl
@[simp] theorem State.setGop_launches (m : State) (g : Gop) : (m.setGop g).launches = m.launches := rfl
@[simp] theorem State.setGop_lastFirst (m : State) (g : Gop) : (m.setGop g).lastFirst = m.lastFirst := rfl
@[simp] theorem State.setGop_pcOver (m : State) (g : Gop) : (m.setGop g).pcOver = m.pcOver := rfl
@[simp] theorem State.setGop_holds (m : State) (g : Gop) : (m.setGop g).holds = m.holds := rfl
@[simp] theorem State.setGop_xfers (m : State) (g : Gop) : (m.setGop g).xfers = m.xfers := rfl
@[simp] theorem State.setGop_spks (m : State) (g : Gop) : (m.setGop g).spks = m.spks := rfl
@[simp] theorem State.setGop_norms (m : State) (g : Gop) : (m.setGop g).norms = m.norms := rfl
@[simp] theorem State.setGop_dispatches (m : State) (g : Gop) : (m.setGop g).dispatches = m.dispatches := rfl
@[simp] theorem State.setGop_vt (m : State) (g : Gop) : (m.setGop g).vt = m.vt := rfl
@[simp] theorem State.setGop_justReady (m : State) (g : Gop) : (m.setGop g).justReady = m.justReady := rfl
@[simp] theorem State.setGop_whisks (m : State) (g : Gop) : (m.setGop g).whisks = m.whisks := rfl
@[simp] theorem State.setGop_tongs (m : State) (g : Gop) : (m.setGop g).tongs = m.tongs := rfl
@[simp] theorem State.setGop_mortars (m : State) (g : Gop) : (m.setGop g).mortars = m.mortars := rfl
@[simp] theorem State.setGop_tdones (m : State) (g : Gop) : (m.setGop g).tdones = m.tdones := rfl
@[simp] theorem State.setGop_watches (m : State) (g : Gop) : (m.setGop g).watches = m.watches := rfl
@[simp] theorem State.setGop_notes (m : State) (g : Gop) : (m.setGop g).notes = m.notes := rfl
@[simp] theorem State.setGop_entrants (m : State) (g : Gop) : (m.setGop g).entrants = m.entrants := rfl
@[simp] theorem State.setGop_links (m : State) (g : Gop) : (m.setGop g).links = m.links := rfl
@[simp] theorem State.setGop_reqs (m : State) (g : Gop) : (m.setGop g).reqs = m.reqs := rfl
@[simp] theorem State.setGop_outq (m : State) (g : Gop) : (m.setGop g).outq = m.outq := rfl
@[simp] theorem State.setGop_rbufs (m : State) (g : Gop) : (m.setGop g).rbufs = m.rbufs := rfl
@[simp] theorem State.setGop_routes (m : State) (g : Gop) : (m.setGop g).routes = m.routes := rfl
@[simp] theorem State.setGop_groups (m : State) (g : Gop) : (m.setGop g).groups = m.groups := rfl
@[simp] theorem State.setGop_grpSeen (m : State) (g : Gop) : (m.setGop g).grpSeen = m.grpSeen := rfl
@[simp] theorem State.setGop_grpSeq (m : State) (g : Gop) : (m.setGop g).grpSeq = m.grpSeq := rfl
@[simp] theorem State.setGop_colls (m : State) (g : Gop) : (m.setGop g).colls = m.colls := rfl
@[simp] theorem State.setGop_verdicts (m : State) (g : Gop) : (m.setGop g).verdicts = m.verdicts := rfl
@[simp] theorem State.setGop_steps (m : State) (g : Gop) : (m.setGop g).steps = m.steps := rfl
@[simp] theorem State.setGop_events (m : State) (g : Gop) : (m.setGop g).events = m.events := rfl
@[simp] theorem State.setGop_lossPages (m : State) (g : Gop) : (m.setGop g).lossPages = m.lossPages := rfl
@[simp] theorem State.setGop_hist (m : State) (g : Gop) : (m.setGop g).hist = m.hist := rfl
@[simp] theorem State.setGop_alert (m : State) (g : Gop) : (m.setGop g).alert = m.alert := rfl
@[simp] theorem State.setGop_msix (m : State) (g : Gop) : (m.setGop g).msix = m.msix := rfl
@[simp] theorem State.setGop_coreIrq (m : State) (g : Gop) : (m.setGop g).coreIrq = m.coreIrq := rfl
@[simp] theorem State.setGop_buckets (m : State) (g : Gop) : (m.setGop g).buckets = m.buckets := rfl
@[simp] theorem State.setGop_rsvBytes (m : State) (g : Gop) : (m.setGop g).rsvBytes = m.rsvBytes := rfl
@[simp] theorem State.setGop_flight (m : State) (g : Gop) : (m.setGop g).flight = m.flight := rfl
@[simp] theorem State.setGop_hbmOut (m : State) (g : Gop) : (m.setGop g).hbmOut = m.hbmOut := rfl
@[simp] theorem State.setGop_resets (m : State) (g : Gop) : (m.setGop g).resets = m.resets := rfl
@[simp] theorem State.setGop_bells (m : State) (g : Gop) : (m.setGop g).bells = m.bells := rfl
@[simp] theorem State.setGop_engResets (m : State) (g : Gop) : (m.setGop g).engResets = m.engResets := rfl
@[simp] theorem State.setGop_flushes (m : State) (g : Gop) : (m.setGop g).flushes = m.flushes := rfl
@[simp] theorem State.setGop_zeroing (m : State) (g : Gop) : (m.setGop g).zeroing = m.zeroing := rfl
@[simp] theorem State.setGop_power (m : State) (g : Gop) : (m.setGop g).power = m.power := rfl
@[simp] theorem State.setGop_pins (m : State) (g : Gop) : (m.setGop g).pins = m.pins := rfl
@[simp] theorem State.setGop_alive (m : State) (g : Gop) : (m.setGop g).alive = m.alive := rfl
@[simp] theorem State.setGop_cores (m : State) (g : Gop) : (m.setGop g).cores = m.cores := rfl
@[simp] theorem State.setGop_fuses (m : State) (g : Gop) : (m.setGop g).fuses = m.fuses := rfl
@[simp] theorem State.setGop_flash (m : State) (g : Gop) : (m.setGop g).flash = m.flash := rfl
@[simp] theorem State.setGop_session (m : State) (g : Gop) : (m.setGop g).session = m.session := rfl
@[simp] theorem State.setGop_hoCopy (m : State) (g : Gop) : (m.setGop g).hoCopy = m.hoCopy := rfl
@[simp] theorem State.setGop_hoOpen (m : State) (g : Gop) : (m.setGop g).hoOpen = m.hoOpen := rfl
@[simp] theorem State.setGop_hoSave (m : State) (g : Gop) : (m.setGop g).hoSave = m.hoSave := rfl
@[simp] theorem State.setGop_hoValid (m : State) (g : Gop) : (m.setGop g).hoValid = m.hoValid := rfl
@[simp] theorem State.setGop_svcRun (m : State) (g : Gop) : (m.setGop g).svcRun = m.svcRun := rfl
@[simp] theorem State.setGop_tSvn (m : State) (g : Gop) : (m.setGop g).tSvn = m.tSvn := rfl
@[simp] theorem State.setGop_sSvn (m : State) (g : Gop) : (m.setGop g).sSvn = m.sSvn := rfl
@[simp] theorem State.setGop_stagedT (m : State) (g : Gop) : (m.setGop g).stagedT = m.stagedT := rfl
@[simp] theorem State.setGop_stagedS (m : State) (g : Gop) : (m.setGop g).stagedS = m.stagedS := rfl
@[simp] theorem State.setGop_mbLast (m : State) (g : Gop) : (m.setGop g).mbLast = m.mbLast := rfl
@[simp] theorem State.setGop_nodeSet (m : State) (g : Gop) : (m.setGop g).nodeSet = m.nodeSet := rfl
@[simp] theorem State.setGop_relays (m : State) (g : Gop) : (m.setGop g).relays = m.relays := rfl
@[simp] theorem State.setGop_mgmtRsp (m : State) (g : Gop) : (m.setGop g).mgmtRsp = m.mgmtRsp := rfl
@[simp] theorem State.setGop_smbOff (m : State) (g : Gop) : (m.setGop g).smbOff = m.smbOff := rfl
@[simp] theorem State.setGop_smbOut (m : State) (g : Gop) : (m.setGop g).smbOut = m.smbOut := rfl
@[simp] theorem State.setGop_jtagIr (m : State) (g : Gop) : (m.setGop g).jtagIr = m.jtagIr := rfl
@[simp] theorem State.setGop_jtagDr (m : State) (g : Gop) : (m.setGop g).jtagDr = m.jtagDr := rfl
@[simp] theorem State.setGop_busOut (m : State) (g : Gop) : (m.setGop g).busOut = m.busOut := rfl
@[simp] theorem State.setGop_lastLatch (m : State) (g : Gop) : (m.setGop g).lastLatch = m.lastLatch := rfl
@[simp] theorem State.setGop_slew (m : State) (g : Gop) : (m.setGop g).slew = m.slew := rfl
@[simp] theorem State.setGop_slow (m : State) (g : Gop) : (m.setGop g).slow = m.slow := rfl
@[simp] theorem State.setGop_frac (m : State) (g : Gop) : (m.setGop g).frac = m.frac := rfl
@[simp] theorem State.setGop_marginOn (m : State) (g : Gop) : (m.setGop g).marginOn = m.marginOn := rfl
@[simp] theorem State.setGop_nextId (m : State) (g : Gop) : (m.setGop g).nextId = m.nextId := rfl
@[simp] theorem State.setGop_free (m : State) (g : Gop) : (m.setGop g).free = m.free := rfl
@[simp] theorem State.setGop_pending (m : State) (g : Gop) : (m.setGop g).pending = m.pending := rfl
@[simp] theorem State.setGop_at_reg (m : State) (g : Gop) (o : Nat) : (m.setGop g).reg o = m.reg o := rfl
@[simp] theorem State.setGop_at_fld (m : State) (g : Gop) (e : Fld) : (m.setGop g).fld e = m.fld e := rfl
@[simp] theorem State.setGop_at_flag (m : State) (g : Gop) (e : Fld) : (m.setGop g).flag e = m.flag e := rfl
@[simp] theorem State.setGop_at_byte (m : State) (g : Gop) (addr : Nat) : (m.setGop g).byte addr = m.byte addr := rfl
@[simp] theorem State.setGop_at_bytes (m : State) (g : Gop) (addr len : Nat) : (m.setGop g).bytes addr len = m.bytes addr len := rfl

/-! ## setWatch -/

@[simp] theorem State.setWatch_regs (m : State) (w : Nat) (x : Option Watch) : (m.setWatch w x).regs = m.regs := rfl
@[simp] theorem State.setWatch_snap (m : State) (w : Nat) (x : Option Watch) : (m.setWatch w x).snap = m.snap := rfl
@[simp] theorem State.setWatch_mem (m : State) (w : Nat) (x : Option Watch) : (m.setWatch w x).mem = m.mem := rfl
@[simp] theorem State.setWatch_poison (m : State) (w : Nat) (x : Option Watch) : (m.setWatch w x).poison = m.poison := rfl
@[simp] theorem State.setWatch_stale (m : State) (w : Nat) (x : Option Watch) : (m.setWatch w x).stale = m.stale := rfl
@[simp] theorem State.setWatch_stalePsn (m : State) (w : Nat) (x : Option Watch) : (m.setWatch w x).stalePsn = m.stalePsn := rfl
@[simp] theorem State.setWatch_cache (m : State) (w : Nat) (x : Option Watch) : (m.setWatch w x).cache = m.cache := rfl
@[simp] theorem State.setWatch_trayTags (m : State) (w : Nat) (x : Option Watch) : (m.setWatch w x).trayTags = m.trayTags := rfl
@[simp] theorem State.setWatch_coreBytes (m : State) (w : Nat) (x : Option Watch) : (m.setWatch w x).coreBytes = m.coreBytes := rfl
@[simp] theorem State.setWatch_mxScale (m : State) (w : Nat) (x : Option Watch) : (m.setWatch w x).mxScale = m.mxScale := rfl
@[simp] theorem State.setWatch_pstage (m : State) (w : Nat) (x : Option Watch) : (m.setWatch w x).pstage = m.pstage := rfl
@[simp] theorem State.setWatch_gens (m : State) (w : Nat) (x : Option Watch) : (m.setWatch w x).gens = m.gens := rfl
@[simp] theorem State.setWatch_lslots (m : State) (w : Nat) (x : Option Watch) : (m.setWatch w x).lslots = m.lslots := rfl
@[simp] theorem State.setWatch_queued (m : State) (w : Nat) (x : Option Watch) : (m.setWatch w x).queued = m.queued := rfl
@[simp] theorem State.setWatch_launches (m : State) (w : Nat) (x : Option Watch) : (m.setWatch w x).launches = m.launches := rfl
@[simp] theorem State.setWatch_lastFirst (m : State) (w : Nat) (x : Option Watch) : (m.setWatch w x).lastFirst = m.lastFirst := rfl
@[simp] theorem State.setWatch_pcOver (m : State) (w : Nat) (x : Option Watch) : (m.setWatch w x).pcOver = m.pcOver := rfl
@[simp] theorem State.setWatch_holds (m : State) (w : Nat) (x : Option Watch) : (m.setWatch w x).holds = m.holds := rfl
@[simp] theorem State.setWatch_xfers (m : State) (w : Nat) (x : Option Watch) : (m.setWatch w x).xfers = m.xfers := rfl
@[simp] theorem State.setWatch_gops (m : State) (w : Nat) (x : Option Watch) : (m.setWatch w x).gops = m.gops := rfl
@[simp] theorem State.setWatch_spks (m : State) (w : Nat) (x : Option Watch) : (m.setWatch w x).spks = m.spks := rfl
@[simp] theorem State.setWatch_norms (m : State) (w : Nat) (x : Option Watch) : (m.setWatch w x).norms = m.norms := rfl
@[simp] theorem State.setWatch_dispatches (m : State) (w : Nat) (x : Option Watch) : (m.setWatch w x).dispatches = m.dispatches := rfl
@[simp] theorem State.setWatch_vt (m : State) (w : Nat) (x : Option Watch) : (m.setWatch w x).vt = m.vt := rfl
@[simp] theorem State.setWatch_justReady (m : State) (w : Nat) (x : Option Watch) : (m.setWatch w x).justReady = m.justReady := rfl
@[simp] theorem State.setWatch_whisks (m : State) (w : Nat) (x : Option Watch) : (m.setWatch w x).whisks = m.whisks := rfl
@[simp] theorem State.setWatch_tongs (m : State) (w : Nat) (x : Option Watch) : (m.setWatch w x).tongs = m.tongs := rfl
@[simp] theorem State.setWatch_mortars (m : State) (w : Nat) (x : Option Watch) : (m.setWatch w x).mortars = m.mortars := rfl
@[simp] theorem State.setWatch_tdones (m : State) (w : Nat) (x : Option Watch) : (m.setWatch w x).tdones = m.tdones := rfl
@[simp] theorem State.setWatch_notes (m : State) (w : Nat) (x : Option Watch) : (m.setWatch w x).notes = m.notes := rfl
@[simp] theorem State.setWatch_entrants (m : State) (w : Nat) (x : Option Watch) : (m.setWatch w x).entrants = m.entrants := rfl
@[simp] theorem State.setWatch_links (m : State) (w : Nat) (x : Option Watch) : (m.setWatch w x).links = m.links := rfl
@[simp] theorem State.setWatch_reqs (m : State) (w : Nat) (x : Option Watch) : (m.setWatch w x).reqs = m.reqs := rfl
@[simp] theorem State.setWatch_outq (m : State) (w : Nat) (x : Option Watch) : (m.setWatch w x).outq = m.outq := rfl
@[simp] theorem State.setWatch_rbufs (m : State) (w : Nat) (x : Option Watch) : (m.setWatch w x).rbufs = m.rbufs := rfl
@[simp] theorem State.setWatch_routes (m : State) (w : Nat) (x : Option Watch) : (m.setWatch w x).routes = m.routes := rfl
@[simp] theorem State.setWatch_groups (m : State) (w : Nat) (x : Option Watch) : (m.setWatch w x).groups = m.groups := rfl
@[simp] theorem State.setWatch_grpSeen (m : State) (w : Nat) (x : Option Watch) : (m.setWatch w x).grpSeen = m.grpSeen := rfl
@[simp] theorem State.setWatch_grpSeq (m : State) (w : Nat) (x : Option Watch) : (m.setWatch w x).grpSeq = m.grpSeq := rfl
@[simp] theorem State.setWatch_colls (m : State) (w : Nat) (x : Option Watch) : (m.setWatch w x).colls = m.colls := rfl
@[simp] theorem State.setWatch_verdicts (m : State) (w : Nat) (x : Option Watch) : (m.setWatch w x).verdicts = m.verdicts := rfl
@[simp] theorem State.setWatch_steps (m : State) (w : Nat) (x : Option Watch) : (m.setWatch w x).steps = m.steps := rfl
@[simp] theorem State.setWatch_events (m : State) (w : Nat) (x : Option Watch) : (m.setWatch w x).events = m.events := rfl
@[simp] theorem State.setWatch_lossPages (m : State) (w : Nat) (x : Option Watch) : (m.setWatch w x).lossPages = m.lossPages := rfl
@[simp] theorem State.setWatch_hist (m : State) (w : Nat) (x : Option Watch) : (m.setWatch w x).hist = m.hist := rfl
@[simp] theorem State.setWatch_alert (m : State) (w : Nat) (x : Option Watch) : (m.setWatch w x).alert = m.alert := rfl
@[simp] theorem State.setWatch_msix (m : State) (w : Nat) (x : Option Watch) : (m.setWatch w x).msix = m.msix := rfl
@[simp] theorem State.setWatch_coreIrq (m : State) (w : Nat) (x : Option Watch) : (m.setWatch w x).coreIrq = m.coreIrq := rfl
@[simp] theorem State.setWatch_buckets (m : State) (w : Nat) (x : Option Watch) : (m.setWatch w x).buckets = m.buckets := rfl
@[simp] theorem State.setWatch_rsvBytes (m : State) (w : Nat) (x : Option Watch) : (m.setWatch w x).rsvBytes = m.rsvBytes := rfl
@[simp] theorem State.setWatch_flight (m : State) (w : Nat) (x : Option Watch) : (m.setWatch w x).flight = m.flight := rfl
@[simp] theorem State.setWatch_hbmOut (m : State) (w : Nat) (x : Option Watch) : (m.setWatch w x).hbmOut = m.hbmOut := rfl
@[simp] theorem State.setWatch_resets (m : State) (w : Nat) (x : Option Watch) : (m.setWatch w x).resets = m.resets := rfl
@[simp] theorem State.setWatch_bells (m : State) (w : Nat) (x : Option Watch) : (m.setWatch w x).bells = m.bells := rfl
@[simp] theorem State.setWatch_engResets (m : State) (w : Nat) (x : Option Watch) : (m.setWatch w x).engResets = m.engResets := rfl
@[simp] theorem State.setWatch_flushes (m : State) (w : Nat) (x : Option Watch) : (m.setWatch w x).flushes = m.flushes := rfl
@[simp] theorem State.setWatch_zeroing (m : State) (w : Nat) (x : Option Watch) : (m.setWatch w x).zeroing = m.zeroing := rfl
@[simp] theorem State.setWatch_power (m : State) (w : Nat) (x : Option Watch) : (m.setWatch w x).power = m.power := rfl
@[simp] theorem State.setWatch_pins (m : State) (w : Nat) (x : Option Watch) : (m.setWatch w x).pins = m.pins := rfl
@[simp] theorem State.setWatch_alive (m : State) (w : Nat) (x : Option Watch) : (m.setWatch w x).alive = m.alive := rfl
@[simp] theorem State.setWatch_cores (m : State) (w : Nat) (x : Option Watch) : (m.setWatch w x).cores = m.cores := rfl
@[simp] theorem State.setWatch_fuses (m : State) (w : Nat) (x : Option Watch) : (m.setWatch w x).fuses = m.fuses := rfl
@[simp] theorem State.setWatch_flash (m : State) (w : Nat) (x : Option Watch) : (m.setWatch w x).flash = m.flash := rfl
@[simp] theorem State.setWatch_session (m : State) (w : Nat) (x : Option Watch) : (m.setWatch w x).session = m.session := rfl
@[simp] theorem State.setWatch_hoCopy (m : State) (w : Nat) (x : Option Watch) : (m.setWatch w x).hoCopy = m.hoCopy := rfl
@[simp] theorem State.setWatch_hoOpen (m : State) (w : Nat) (x : Option Watch) : (m.setWatch w x).hoOpen = m.hoOpen := rfl
@[simp] theorem State.setWatch_hoSave (m : State) (w : Nat) (x : Option Watch) : (m.setWatch w x).hoSave = m.hoSave := rfl
@[simp] theorem State.setWatch_hoValid (m : State) (w : Nat) (x : Option Watch) : (m.setWatch w x).hoValid = m.hoValid := rfl
@[simp] theorem State.setWatch_svcRun (m : State) (w : Nat) (x : Option Watch) : (m.setWatch w x).svcRun = m.svcRun := rfl
@[simp] theorem State.setWatch_tSvn (m : State) (w : Nat) (x : Option Watch) : (m.setWatch w x).tSvn = m.tSvn := rfl
@[simp] theorem State.setWatch_sSvn (m : State) (w : Nat) (x : Option Watch) : (m.setWatch w x).sSvn = m.sSvn := rfl
@[simp] theorem State.setWatch_stagedT (m : State) (w : Nat) (x : Option Watch) : (m.setWatch w x).stagedT = m.stagedT := rfl
@[simp] theorem State.setWatch_stagedS (m : State) (w : Nat) (x : Option Watch) : (m.setWatch w x).stagedS = m.stagedS := rfl
@[simp] theorem State.setWatch_mbLast (m : State) (w : Nat) (x : Option Watch) : (m.setWatch w x).mbLast = m.mbLast := rfl
@[simp] theorem State.setWatch_nodeSet (m : State) (w : Nat) (x : Option Watch) : (m.setWatch w x).nodeSet = m.nodeSet := rfl
@[simp] theorem State.setWatch_relays (m : State) (w : Nat) (x : Option Watch) : (m.setWatch w x).relays = m.relays := rfl
@[simp] theorem State.setWatch_mgmtRsp (m : State) (w : Nat) (x : Option Watch) : (m.setWatch w x).mgmtRsp = m.mgmtRsp := rfl
@[simp] theorem State.setWatch_smbOff (m : State) (w : Nat) (x : Option Watch) : (m.setWatch w x).smbOff = m.smbOff := rfl
@[simp] theorem State.setWatch_smbOut (m : State) (w : Nat) (x : Option Watch) : (m.setWatch w x).smbOut = m.smbOut := rfl
@[simp] theorem State.setWatch_jtagIr (m : State) (w : Nat) (x : Option Watch) : (m.setWatch w x).jtagIr = m.jtagIr := rfl
@[simp] theorem State.setWatch_jtagDr (m : State) (w : Nat) (x : Option Watch) : (m.setWatch w x).jtagDr = m.jtagDr := rfl
@[simp] theorem State.setWatch_busOut (m : State) (w : Nat) (x : Option Watch) : (m.setWatch w x).busOut = m.busOut := rfl
@[simp] theorem State.setWatch_lastLatch (m : State) (w : Nat) (x : Option Watch) : (m.setWatch w x).lastLatch = m.lastLatch := rfl
@[simp] theorem State.setWatch_slew (m : State) (w : Nat) (x : Option Watch) : (m.setWatch w x).slew = m.slew := rfl
@[simp] theorem State.setWatch_slow (m : State) (w : Nat) (x : Option Watch) : (m.setWatch w x).slow = m.slow := rfl
@[simp] theorem State.setWatch_frac (m : State) (w : Nat) (x : Option Watch) : (m.setWatch w x).frac = m.frac := rfl
@[simp] theorem State.setWatch_marginOn (m : State) (w : Nat) (x : Option Watch) : (m.setWatch w x).marginOn = m.marginOn := rfl
@[simp] theorem State.setWatch_nextId (m : State) (w : Nat) (x : Option Watch) : (m.setWatch w x).nextId = m.nextId := rfl
@[simp] theorem State.setWatch_free (m : State) (w : Nat) (x : Option Watch) : (m.setWatch w x).free = m.free := rfl
@[simp] theorem State.setWatch_pending (m : State) (w : Nat) (x : Option Watch) : (m.setWatch w x).pending = m.pending := rfl
@[simp] theorem State.setWatch_at_reg (m : State) (w : Nat) (x : Option Watch) (o : Nat) : (m.setWatch w x).reg o = m.reg o := rfl
@[simp] theorem State.setWatch_at_fld (m : State) (w : Nat) (x : Option Watch) (e : Fld) : (m.setWatch w x).fld e = m.fld e := rfl
@[simp] theorem State.setWatch_at_flag (m : State) (w : Nat) (x : Option Watch) (e : Fld) : (m.setWatch w x).flag e = m.flag e := rfl
@[simp] theorem State.setWatch_at_byte (m : State) (w : Nat) (x : Option Watch) (addr : Nat) : (m.setWatch w x).byte addr = m.byte addr := rfl
@[simp] theorem State.setWatch_at_bytes (m : State) (w : Nat) (x : Option Watch) (addr len : Nat) : (m.setWatch w x).bytes addr len = m.bytes addr len := rfl

/-! ## dropWatches -/

@[simp] theorem State.dropWatches_regs (m : State) (p : Watch → Bool) : (m.dropWatches p).regs = m.regs := rfl
@[simp] theorem State.dropWatches_snap (m : State) (p : Watch → Bool) : (m.dropWatches p).snap = m.snap := rfl
@[simp] theorem State.dropWatches_mem (m : State) (p : Watch → Bool) : (m.dropWatches p).mem = m.mem := rfl
@[simp] theorem State.dropWatches_poison (m : State) (p : Watch → Bool) : (m.dropWatches p).poison = m.poison := rfl
@[simp] theorem State.dropWatches_stale (m : State) (p : Watch → Bool) : (m.dropWatches p).stale = m.stale := rfl
@[simp] theorem State.dropWatches_stalePsn (m : State) (p : Watch → Bool) : (m.dropWatches p).stalePsn = m.stalePsn := rfl
@[simp] theorem State.dropWatches_cache (m : State) (p : Watch → Bool) : (m.dropWatches p).cache = m.cache := rfl
@[simp] theorem State.dropWatches_trayTags (m : State) (p : Watch → Bool) : (m.dropWatches p).trayTags = m.trayTags := rfl
@[simp] theorem State.dropWatches_coreBytes (m : State) (p : Watch → Bool) : (m.dropWatches p).coreBytes = m.coreBytes := rfl
@[simp] theorem State.dropWatches_mxScale (m : State) (p : Watch → Bool) : (m.dropWatches p).mxScale = m.mxScale := rfl
@[simp] theorem State.dropWatches_pstage (m : State) (p : Watch → Bool) : (m.dropWatches p).pstage = m.pstage := rfl
@[simp] theorem State.dropWatches_gens (m : State) (p : Watch → Bool) : (m.dropWatches p).gens = m.gens := rfl
@[simp] theorem State.dropWatches_lslots (m : State) (p : Watch → Bool) : (m.dropWatches p).lslots = m.lslots := rfl
@[simp] theorem State.dropWatches_queued (m : State) (p : Watch → Bool) : (m.dropWatches p).queued = m.queued := rfl
@[simp] theorem State.dropWatches_launches (m : State) (p : Watch → Bool) : (m.dropWatches p).launches = m.launches := rfl
@[simp] theorem State.dropWatches_lastFirst (m : State) (p : Watch → Bool) : (m.dropWatches p).lastFirst = m.lastFirst := rfl
@[simp] theorem State.dropWatches_pcOver (m : State) (p : Watch → Bool) : (m.dropWatches p).pcOver = m.pcOver := rfl
@[simp] theorem State.dropWatches_holds (m : State) (p : Watch → Bool) : (m.dropWatches p).holds = m.holds := rfl
@[simp] theorem State.dropWatches_xfers (m : State) (p : Watch → Bool) : (m.dropWatches p).xfers = m.xfers := rfl
@[simp] theorem State.dropWatches_gops (m : State) (p : Watch → Bool) : (m.dropWatches p).gops = m.gops := rfl
@[simp] theorem State.dropWatches_spks (m : State) (p : Watch → Bool) : (m.dropWatches p).spks = m.spks := rfl
@[simp] theorem State.dropWatches_norms (m : State) (p : Watch → Bool) : (m.dropWatches p).norms = m.norms := rfl
@[simp] theorem State.dropWatches_dispatches (m : State) (p : Watch → Bool) : (m.dropWatches p).dispatches = m.dispatches := rfl
@[simp] theorem State.dropWatches_vt (m : State) (p : Watch → Bool) : (m.dropWatches p).vt = m.vt := rfl
@[simp] theorem State.dropWatches_justReady (m : State) (p : Watch → Bool) : (m.dropWatches p).justReady = m.justReady := rfl
@[simp] theorem State.dropWatches_whisks (m : State) (p : Watch → Bool) : (m.dropWatches p).whisks = m.whisks := rfl
@[simp] theorem State.dropWatches_tongs (m : State) (p : Watch → Bool) : (m.dropWatches p).tongs = m.tongs := rfl
@[simp] theorem State.dropWatches_mortars (m : State) (p : Watch → Bool) : (m.dropWatches p).mortars = m.mortars := rfl
@[simp] theorem State.dropWatches_tdones (m : State) (p : Watch → Bool) : (m.dropWatches p).tdones = m.tdones := rfl
@[simp] theorem State.dropWatches_notes (m : State) (p : Watch → Bool) : (m.dropWatches p).notes = m.notes := rfl
@[simp] theorem State.dropWatches_entrants (m : State) (p : Watch → Bool) : (m.dropWatches p).entrants = m.entrants := rfl
@[simp] theorem State.dropWatches_links (m : State) (p : Watch → Bool) : (m.dropWatches p).links = m.links := rfl
@[simp] theorem State.dropWatches_reqs (m : State) (p : Watch → Bool) : (m.dropWatches p).reqs = m.reqs := rfl
@[simp] theorem State.dropWatches_outq (m : State) (p : Watch → Bool) : (m.dropWatches p).outq = m.outq := rfl
@[simp] theorem State.dropWatches_rbufs (m : State) (p : Watch → Bool) : (m.dropWatches p).rbufs = m.rbufs := rfl
@[simp] theorem State.dropWatches_routes (m : State) (p : Watch → Bool) : (m.dropWatches p).routes = m.routes := rfl
@[simp] theorem State.dropWatches_groups (m : State) (p : Watch → Bool) : (m.dropWatches p).groups = m.groups := rfl
@[simp] theorem State.dropWatches_grpSeen (m : State) (p : Watch → Bool) : (m.dropWatches p).grpSeen = m.grpSeen := rfl
@[simp] theorem State.dropWatches_grpSeq (m : State) (p : Watch → Bool) : (m.dropWatches p).grpSeq = m.grpSeq := rfl
@[simp] theorem State.dropWatches_colls (m : State) (p : Watch → Bool) : (m.dropWatches p).colls = m.colls := rfl
@[simp] theorem State.dropWatches_verdicts (m : State) (p : Watch → Bool) : (m.dropWatches p).verdicts = m.verdicts := rfl
@[simp] theorem State.dropWatches_steps (m : State) (p : Watch → Bool) : (m.dropWatches p).steps = m.steps := rfl
@[simp] theorem State.dropWatches_events (m : State) (p : Watch → Bool) : (m.dropWatches p).events = m.events := rfl
@[simp] theorem State.dropWatches_lossPages (m : State) (p : Watch → Bool) : (m.dropWatches p).lossPages = m.lossPages := rfl
@[simp] theorem State.dropWatches_hist (m : State) (p : Watch → Bool) : (m.dropWatches p).hist = m.hist := rfl
@[simp] theorem State.dropWatches_alert (m : State) (p : Watch → Bool) : (m.dropWatches p).alert = m.alert := rfl
@[simp] theorem State.dropWatches_msix (m : State) (p : Watch → Bool) : (m.dropWatches p).msix = m.msix := rfl
@[simp] theorem State.dropWatches_coreIrq (m : State) (p : Watch → Bool) : (m.dropWatches p).coreIrq = m.coreIrq := rfl
@[simp] theorem State.dropWatches_buckets (m : State) (p : Watch → Bool) : (m.dropWatches p).buckets = m.buckets := rfl
@[simp] theorem State.dropWatches_rsvBytes (m : State) (p : Watch → Bool) : (m.dropWatches p).rsvBytes = m.rsvBytes := rfl
@[simp] theorem State.dropWatches_flight (m : State) (p : Watch → Bool) : (m.dropWatches p).flight = m.flight := rfl
@[simp] theorem State.dropWatches_hbmOut (m : State) (p : Watch → Bool) : (m.dropWatches p).hbmOut = m.hbmOut := rfl
@[simp] theorem State.dropWatches_resets (m : State) (p : Watch → Bool) : (m.dropWatches p).resets = m.resets := rfl
@[simp] theorem State.dropWatches_bells (m : State) (p : Watch → Bool) : (m.dropWatches p).bells = m.bells := rfl
@[simp] theorem State.dropWatches_engResets (m : State) (p : Watch → Bool) : (m.dropWatches p).engResets = m.engResets := rfl
@[simp] theorem State.dropWatches_flushes (m : State) (p : Watch → Bool) : (m.dropWatches p).flushes = m.flushes := rfl
@[simp] theorem State.dropWatches_zeroing (m : State) (p : Watch → Bool) : (m.dropWatches p).zeroing = m.zeroing := rfl
@[simp] theorem State.dropWatches_power (m : State) (p : Watch → Bool) : (m.dropWatches p).power = m.power := rfl
@[simp] theorem State.dropWatches_pins (m : State) (p : Watch → Bool) : (m.dropWatches p).pins = m.pins := rfl
@[simp] theorem State.dropWatches_alive (m : State) (p : Watch → Bool) : (m.dropWatches p).alive = m.alive := rfl
@[simp] theorem State.dropWatches_cores (m : State) (p : Watch → Bool) : (m.dropWatches p).cores = m.cores := rfl
@[simp] theorem State.dropWatches_fuses (m : State) (p : Watch → Bool) : (m.dropWatches p).fuses = m.fuses := rfl
@[simp] theorem State.dropWatches_flash (m : State) (p : Watch → Bool) : (m.dropWatches p).flash = m.flash := rfl
@[simp] theorem State.dropWatches_session (m : State) (p : Watch → Bool) : (m.dropWatches p).session = m.session := rfl
@[simp] theorem State.dropWatches_hoCopy (m : State) (p : Watch → Bool) : (m.dropWatches p).hoCopy = m.hoCopy := rfl
@[simp] theorem State.dropWatches_hoOpen (m : State) (p : Watch → Bool) : (m.dropWatches p).hoOpen = m.hoOpen := rfl
@[simp] theorem State.dropWatches_hoSave (m : State) (p : Watch → Bool) : (m.dropWatches p).hoSave = m.hoSave := rfl
@[simp] theorem State.dropWatches_hoValid (m : State) (p : Watch → Bool) : (m.dropWatches p).hoValid = m.hoValid := rfl
@[simp] theorem State.dropWatches_svcRun (m : State) (p : Watch → Bool) : (m.dropWatches p).svcRun = m.svcRun := rfl
@[simp] theorem State.dropWatches_tSvn (m : State) (p : Watch → Bool) : (m.dropWatches p).tSvn = m.tSvn := rfl
@[simp] theorem State.dropWatches_sSvn (m : State) (p : Watch → Bool) : (m.dropWatches p).sSvn = m.sSvn := rfl
@[simp] theorem State.dropWatches_stagedT (m : State) (p : Watch → Bool) : (m.dropWatches p).stagedT = m.stagedT := rfl
@[simp] theorem State.dropWatches_stagedS (m : State) (p : Watch → Bool) : (m.dropWatches p).stagedS = m.stagedS := rfl
@[simp] theorem State.dropWatches_mbLast (m : State) (p : Watch → Bool) : (m.dropWatches p).mbLast = m.mbLast := rfl
@[simp] theorem State.dropWatches_nodeSet (m : State) (p : Watch → Bool) : (m.dropWatches p).nodeSet = m.nodeSet := rfl
@[simp] theorem State.dropWatches_relays (m : State) (p : Watch → Bool) : (m.dropWatches p).relays = m.relays := rfl
@[simp] theorem State.dropWatches_mgmtRsp (m : State) (p : Watch → Bool) : (m.dropWatches p).mgmtRsp = m.mgmtRsp := rfl
@[simp] theorem State.dropWatches_smbOff (m : State) (p : Watch → Bool) : (m.dropWatches p).smbOff = m.smbOff := rfl
@[simp] theorem State.dropWatches_smbOut (m : State) (p : Watch → Bool) : (m.dropWatches p).smbOut = m.smbOut := rfl
@[simp] theorem State.dropWatches_jtagIr (m : State) (p : Watch → Bool) : (m.dropWatches p).jtagIr = m.jtagIr := rfl
@[simp] theorem State.dropWatches_jtagDr (m : State) (p : Watch → Bool) : (m.dropWatches p).jtagDr = m.jtagDr := rfl
@[simp] theorem State.dropWatches_busOut (m : State) (p : Watch → Bool) : (m.dropWatches p).busOut = m.busOut := rfl
@[simp] theorem State.dropWatches_lastLatch (m : State) (p : Watch → Bool) : (m.dropWatches p).lastLatch = m.lastLatch := rfl
@[simp] theorem State.dropWatches_slew (m : State) (p : Watch → Bool) : (m.dropWatches p).slew = m.slew := rfl
@[simp] theorem State.dropWatches_slow (m : State) (p : Watch → Bool) : (m.dropWatches p).slow = m.slow := rfl
@[simp] theorem State.dropWatches_frac (m : State) (p : Watch → Bool) : (m.dropWatches p).frac = m.frac := rfl
@[simp] theorem State.dropWatches_marginOn (m : State) (p : Watch → Bool) : (m.dropWatches p).marginOn = m.marginOn := rfl
@[simp] theorem State.dropWatches_nextId (m : State) (p : Watch → Bool) : (m.dropWatches p).nextId = m.nextId := rfl
@[simp] theorem State.dropWatches_free (m : State) (p : Watch → Bool) : (m.dropWatches p).free = m.free := rfl
@[simp] theorem State.dropWatches_pending (m : State) (p : Watch → Bool) : (m.dropWatches p).pending = m.pending := rfl
@[simp] theorem State.dropWatches_at_reg (m : State) (p : Watch → Bool) (o : Nat) : (m.dropWatches p).reg o = m.reg o := rfl
@[simp] theorem State.dropWatches_at_fld (m : State) (p : Watch → Bool) (e : Fld) : (m.dropWatches p).fld e = m.fld e := rfl
@[simp] theorem State.dropWatches_at_flag (m : State) (p : Watch → Bool) (e : Fld) : (m.dropWatches p).flag e = m.flag e := rfl
@[simp] theorem State.dropWatches_at_byte (m : State) (p : Watch → Bool) (addr : Nat) : (m.dropWatches p).byte addr = m.byte addr := rfl
@[simp] theorem State.dropWatches_at_bytes (m : State) (p : Watch → Bool) (addr len : Nat) : (m.dropWatches p).bytes addr len = m.bytes addr len := rfl

/-! ## setLink -/

@[simp] theorem State.setLink_regs (m : State) (p : Nat) (l : Link) : (m.setLink p l).regs = m.regs := rfl
@[simp] theorem State.setLink_snap (m : State) (p : Nat) (l : Link) : (m.setLink p l).snap = m.snap := rfl
@[simp] theorem State.setLink_mem (m : State) (p : Nat) (l : Link) : (m.setLink p l).mem = m.mem := rfl
@[simp] theorem State.setLink_poison (m : State) (p : Nat) (l : Link) : (m.setLink p l).poison = m.poison := rfl
@[simp] theorem State.setLink_stale (m : State) (p : Nat) (l : Link) : (m.setLink p l).stale = m.stale := rfl
@[simp] theorem State.setLink_stalePsn (m : State) (p : Nat) (l : Link) : (m.setLink p l).stalePsn = m.stalePsn := rfl
@[simp] theorem State.setLink_cache (m : State) (p : Nat) (l : Link) : (m.setLink p l).cache = m.cache := rfl
@[simp] theorem State.setLink_trayTags (m : State) (p : Nat) (l : Link) : (m.setLink p l).trayTags = m.trayTags := rfl
@[simp] theorem State.setLink_coreBytes (m : State) (p : Nat) (l : Link) : (m.setLink p l).coreBytes = m.coreBytes := rfl
@[simp] theorem State.setLink_mxScale (m : State) (p : Nat) (l : Link) : (m.setLink p l).mxScale = m.mxScale := rfl
@[simp] theorem State.setLink_pstage (m : State) (p : Nat) (l : Link) : (m.setLink p l).pstage = m.pstage := rfl
@[simp] theorem State.setLink_gens (m : State) (p : Nat) (l : Link) : (m.setLink p l).gens = m.gens := rfl
@[simp] theorem State.setLink_lslots (m : State) (p : Nat) (l : Link) : (m.setLink p l).lslots = m.lslots := rfl
@[simp] theorem State.setLink_queued (m : State) (p : Nat) (l : Link) : (m.setLink p l).queued = m.queued := rfl
@[simp] theorem State.setLink_launches (m : State) (p : Nat) (l : Link) : (m.setLink p l).launches = m.launches := rfl
@[simp] theorem State.setLink_lastFirst (m : State) (p : Nat) (l : Link) : (m.setLink p l).lastFirst = m.lastFirst := rfl
@[simp] theorem State.setLink_pcOver (m : State) (p : Nat) (l : Link) : (m.setLink p l).pcOver = m.pcOver := rfl
@[simp] theorem State.setLink_holds (m : State) (p : Nat) (l : Link) : (m.setLink p l).holds = m.holds := rfl
@[simp] theorem State.setLink_xfers (m : State) (p : Nat) (l : Link) : (m.setLink p l).xfers = m.xfers := rfl
@[simp] theorem State.setLink_gops (m : State) (p : Nat) (l : Link) : (m.setLink p l).gops = m.gops := rfl
@[simp] theorem State.setLink_spks (m : State) (p : Nat) (l : Link) : (m.setLink p l).spks = m.spks := rfl
@[simp] theorem State.setLink_norms (m : State) (p : Nat) (l : Link) : (m.setLink p l).norms = m.norms := rfl
@[simp] theorem State.setLink_dispatches (m : State) (p : Nat) (l : Link) : (m.setLink p l).dispatches = m.dispatches := rfl
@[simp] theorem State.setLink_vt (m : State) (p : Nat) (l : Link) : (m.setLink p l).vt = m.vt := rfl
@[simp] theorem State.setLink_justReady (m : State) (p : Nat) (l : Link) : (m.setLink p l).justReady = m.justReady := rfl
@[simp] theorem State.setLink_whisks (m : State) (p : Nat) (l : Link) : (m.setLink p l).whisks = m.whisks := rfl
@[simp] theorem State.setLink_tongs (m : State) (p : Nat) (l : Link) : (m.setLink p l).tongs = m.tongs := rfl
@[simp] theorem State.setLink_mortars (m : State) (p : Nat) (l : Link) : (m.setLink p l).mortars = m.mortars := rfl
@[simp] theorem State.setLink_tdones (m : State) (p : Nat) (l : Link) : (m.setLink p l).tdones = m.tdones := rfl
@[simp] theorem State.setLink_watches (m : State) (p : Nat) (l : Link) : (m.setLink p l).watches = m.watches := rfl
@[simp] theorem State.setLink_notes (m : State) (p : Nat) (l : Link) : (m.setLink p l).notes = m.notes := rfl
@[simp] theorem State.setLink_entrants (m : State) (p : Nat) (l : Link) : (m.setLink p l).entrants = m.entrants := rfl
@[simp] theorem State.setLink_reqs (m : State) (p : Nat) (l : Link) : (m.setLink p l).reqs = m.reqs := rfl
@[simp] theorem State.setLink_outq (m : State) (p : Nat) (l : Link) : (m.setLink p l).outq = m.outq := rfl
@[simp] theorem State.setLink_rbufs (m : State) (p : Nat) (l : Link) : (m.setLink p l).rbufs = m.rbufs := rfl
@[simp] theorem State.setLink_routes (m : State) (p : Nat) (l : Link) : (m.setLink p l).routes = m.routes := rfl
@[simp] theorem State.setLink_groups (m : State) (p : Nat) (l : Link) : (m.setLink p l).groups = m.groups := rfl
@[simp] theorem State.setLink_grpSeen (m : State) (p : Nat) (l : Link) : (m.setLink p l).grpSeen = m.grpSeen := rfl
@[simp] theorem State.setLink_grpSeq (m : State) (p : Nat) (l : Link) : (m.setLink p l).grpSeq = m.grpSeq := rfl
@[simp] theorem State.setLink_colls (m : State) (p : Nat) (l : Link) : (m.setLink p l).colls = m.colls := rfl
@[simp] theorem State.setLink_verdicts (m : State) (p : Nat) (l : Link) : (m.setLink p l).verdicts = m.verdicts := rfl
@[simp] theorem State.setLink_steps (m : State) (p : Nat) (l : Link) : (m.setLink p l).steps = m.steps := rfl
@[simp] theorem State.setLink_events (m : State) (p : Nat) (l : Link) : (m.setLink p l).events = m.events := rfl
@[simp] theorem State.setLink_lossPages (m : State) (p : Nat) (l : Link) : (m.setLink p l).lossPages = m.lossPages := rfl
@[simp] theorem State.setLink_hist (m : State) (p : Nat) (l : Link) : (m.setLink p l).hist = m.hist := rfl
@[simp] theorem State.setLink_alert (m : State) (p : Nat) (l : Link) : (m.setLink p l).alert = m.alert := rfl
@[simp] theorem State.setLink_msix (m : State) (p : Nat) (l : Link) : (m.setLink p l).msix = m.msix := rfl
@[simp] theorem State.setLink_coreIrq (m : State) (p : Nat) (l : Link) : (m.setLink p l).coreIrq = m.coreIrq := rfl
@[simp] theorem State.setLink_buckets (m : State) (p : Nat) (l : Link) : (m.setLink p l).buckets = m.buckets := rfl
@[simp] theorem State.setLink_rsvBytes (m : State) (p : Nat) (l : Link) : (m.setLink p l).rsvBytes = m.rsvBytes := rfl
@[simp] theorem State.setLink_flight (m : State) (p : Nat) (l : Link) : (m.setLink p l).flight = m.flight := rfl
@[simp] theorem State.setLink_hbmOut (m : State) (p : Nat) (l : Link) : (m.setLink p l).hbmOut = m.hbmOut := rfl
@[simp] theorem State.setLink_resets (m : State) (p : Nat) (l : Link) : (m.setLink p l).resets = m.resets := rfl
@[simp] theorem State.setLink_bells (m : State) (p : Nat) (l : Link) : (m.setLink p l).bells = m.bells := rfl
@[simp] theorem State.setLink_engResets (m : State) (p : Nat) (l : Link) : (m.setLink p l).engResets = m.engResets := rfl
@[simp] theorem State.setLink_flushes (m : State) (p : Nat) (l : Link) : (m.setLink p l).flushes = m.flushes := rfl
@[simp] theorem State.setLink_zeroing (m : State) (p : Nat) (l : Link) : (m.setLink p l).zeroing = m.zeroing := rfl
@[simp] theorem State.setLink_power (m : State) (p : Nat) (l : Link) : (m.setLink p l).power = m.power := rfl
@[simp] theorem State.setLink_pins (m : State) (p : Nat) (l : Link) : (m.setLink p l).pins = m.pins := rfl
@[simp] theorem State.setLink_alive (m : State) (p : Nat) (l : Link) : (m.setLink p l).alive = m.alive := rfl
@[simp] theorem State.setLink_cores (m : State) (p : Nat) (l : Link) : (m.setLink p l).cores = m.cores := rfl
@[simp] theorem State.setLink_fuses (m : State) (p : Nat) (l : Link) : (m.setLink p l).fuses = m.fuses := rfl
@[simp] theorem State.setLink_flash (m : State) (p : Nat) (l : Link) : (m.setLink p l).flash = m.flash := rfl
@[simp] theorem State.setLink_session (m : State) (p : Nat) (l : Link) : (m.setLink p l).session = m.session := rfl
@[simp] theorem State.setLink_hoCopy (m : State) (p : Nat) (l : Link) : (m.setLink p l).hoCopy = m.hoCopy := rfl
@[simp] theorem State.setLink_hoOpen (m : State) (p : Nat) (l : Link) : (m.setLink p l).hoOpen = m.hoOpen := rfl
@[simp] theorem State.setLink_hoSave (m : State) (p : Nat) (l : Link) : (m.setLink p l).hoSave = m.hoSave := rfl
@[simp] theorem State.setLink_hoValid (m : State) (p : Nat) (l : Link) : (m.setLink p l).hoValid = m.hoValid := rfl
@[simp] theorem State.setLink_svcRun (m : State) (p : Nat) (l : Link) : (m.setLink p l).svcRun = m.svcRun := rfl
@[simp] theorem State.setLink_tSvn (m : State) (p : Nat) (l : Link) : (m.setLink p l).tSvn = m.tSvn := rfl
@[simp] theorem State.setLink_sSvn (m : State) (p : Nat) (l : Link) : (m.setLink p l).sSvn = m.sSvn := rfl
@[simp] theorem State.setLink_stagedT (m : State) (p : Nat) (l : Link) : (m.setLink p l).stagedT = m.stagedT := rfl
@[simp] theorem State.setLink_stagedS (m : State) (p : Nat) (l : Link) : (m.setLink p l).stagedS = m.stagedS := rfl
@[simp] theorem State.setLink_mbLast (m : State) (p : Nat) (l : Link) : (m.setLink p l).mbLast = m.mbLast := rfl
@[simp] theorem State.setLink_nodeSet (m : State) (p : Nat) (l : Link) : (m.setLink p l).nodeSet = m.nodeSet := rfl
@[simp] theorem State.setLink_relays (m : State) (p : Nat) (l : Link) : (m.setLink p l).relays = m.relays := rfl
@[simp] theorem State.setLink_mgmtRsp (m : State) (p : Nat) (l : Link) : (m.setLink p l).mgmtRsp = m.mgmtRsp := rfl
@[simp] theorem State.setLink_smbOff (m : State) (p : Nat) (l : Link) : (m.setLink p l).smbOff = m.smbOff := rfl
@[simp] theorem State.setLink_smbOut (m : State) (p : Nat) (l : Link) : (m.setLink p l).smbOut = m.smbOut := rfl
@[simp] theorem State.setLink_jtagIr (m : State) (p : Nat) (l : Link) : (m.setLink p l).jtagIr = m.jtagIr := rfl
@[simp] theorem State.setLink_jtagDr (m : State) (p : Nat) (l : Link) : (m.setLink p l).jtagDr = m.jtagDr := rfl
@[simp] theorem State.setLink_busOut (m : State) (p : Nat) (l : Link) : (m.setLink p l).busOut = m.busOut := rfl
@[simp] theorem State.setLink_lastLatch (m : State) (p : Nat) (l : Link) : (m.setLink p l).lastLatch = m.lastLatch := rfl
@[simp] theorem State.setLink_slew (m : State) (p : Nat) (l : Link) : (m.setLink p l).slew = m.slew := rfl
@[simp] theorem State.setLink_slow (m : State) (p : Nat) (l : Link) : (m.setLink p l).slow = m.slow := rfl
@[simp] theorem State.setLink_frac (m : State) (p : Nat) (l : Link) : (m.setLink p l).frac = m.frac := rfl
@[simp] theorem State.setLink_marginOn (m : State) (p : Nat) (l : Link) : (m.setLink p l).marginOn = m.marginOn := rfl
@[simp] theorem State.setLink_nextId (m : State) (p : Nat) (l : Link) : (m.setLink p l).nextId = m.nextId := rfl
@[simp] theorem State.setLink_free (m : State) (p : Nat) (l : Link) : (m.setLink p l).free = m.free := rfl
@[simp] theorem State.setLink_pending (m : State) (p : Nat) (l : Link) : (m.setLink p l).pending = m.pending := rfl
@[simp] theorem State.setLink_at_reg (m : State) (p : Nat) (l : Link) (o : Nat) : (m.setLink p l).reg o = m.reg o := rfl
@[simp] theorem State.setLink_at_fld (m : State) (p : Nat) (l : Link) (e : Fld) : (m.setLink p l).fld e = m.fld e := rfl
@[simp] theorem State.setLink_at_flag (m : State) (p : Nat) (l : Link) (e : Fld) : (m.setLink p l).flag e = m.flag e := rfl
@[simp] theorem State.setLink_at_byte (m : State) (p : Nat) (l : Link) (addr : Nat) : (m.setLink p l).byte addr = m.byte addr := rfl
@[simp] theorem State.setLink_at_bytes (m : State) (p : Nat) (l : Link) (addr len : Nat) : (m.setLink p l).bytes addr len = m.bytes addr len := rfl

/-! ## setRbuf -/

@[simp] theorem State.setRbuf_regs (m : State) (i : Nat) (b : RBuf) : (m.setRbuf i b).regs = m.regs := rfl
@[simp] theorem State.setRbuf_snap (m : State) (i : Nat) (b : RBuf) : (m.setRbuf i b).snap = m.snap := rfl
@[simp] theorem State.setRbuf_mem (m : State) (i : Nat) (b : RBuf) : (m.setRbuf i b).mem = m.mem := rfl
@[simp] theorem State.setRbuf_poison (m : State) (i : Nat) (b : RBuf) : (m.setRbuf i b).poison = m.poison := rfl
@[simp] theorem State.setRbuf_stale (m : State) (i : Nat) (b : RBuf) : (m.setRbuf i b).stale = m.stale := rfl
@[simp] theorem State.setRbuf_stalePsn (m : State) (i : Nat) (b : RBuf) : (m.setRbuf i b).stalePsn = m.stalePsn := rfl
@[simp] theorem State.setRbuf_cache (m : State) (i : Nat) (b : RBuf) : (m.setRbuf i b).cache = m.cache := rfl
@[simp] theorem State.setRbuf_trayTags (m : State) (i : Nat) (b : RBuf) : (m.setRbuf i b).trayTags = m.trayTags := rfl
@[simp] theorem State.setRbuf_coreBytes (m : State) (i : Nat) (b : RBuf) : (m.setRbuf i b).coreBytes = m.coreBytes := rfl
@[simp] theorem State.setRbuf_mxScale (m : State) (i : Nat) (b : RBuf) : (m.setRbuf i b).mxScale = m.mxScale := rfl
@[simp] theorem State.setRbuf_pstage (m : State) (i : Nat) (b : RBuf) : (m.setRbuf i b).pstage = m.pstage := rfl
@[simp] theorem State.setRbuf_gens (m : State) (i : Nat) (b : RBuf) : (m.setRbuf i b).gens = m.gens := rfl
@[simp] theorem State.setRbuf_lslots (m : State) (i : Nat) (b : RBuf) : (m.setRbuf i b).lslots = m.lslots := rfl
@[simp] theorem State.setRbuf_queued (m : State) (i : Nat) (b : RBuf) : (m.setRbuf i b).queued = m.queued := rfl
@[simp] theorem State.setRbuf_launches (m : State) (i : Nat) (b : RBuf) : (m.setRbuf i b).launches = m.launches := rfl
@[simp] theorem State.setRbuf_lastFirst (m : State) (i : Nat) (b : RBuf) : (m.setRbuf i b).lastFirst = m.lastFirst := rfl
@[simp] theorem State.setRbuf_pcOver (m : State) (i : Nat) (b : RBuf) : (m.setRbuf i b).pcOver = m.pcOver := rfl
@[simp] theorem State.setRbuf_holds (m : State) (i : Nat) (b : RBuf) : (m.setRbuf i b).holds = m.holds := rfl
@[simp] theorem State.setRbuf_xfers (m : State) (i : Nat) (b : RBuf) : (m.setRbuf i b).xfers = m.xfers := rfl
@[simp] theorem State.setRbuf_gops (m : State) (i : Nat) (b : RBuf) : (m.setRbuf i b).gops = m.gops := rfl
@[simp] theorem State.setRbuf_spks (m : State) (i : Nat) (b : RBuf) : (m.setRbuf i b).spks = m.spks := rfl
@[simp] theorem State.setRbuf_norms (m : State) (i : Nat) (b : RBuf) : (m.setRbuf i b).norms = m.norms := rfl
@[simp] theorem State.setRbuf_dispatches (m : State) (i : Nat) (b : RBuf) : (m.setRbuf i b).dispatches = m.dispatches := rfl
@[simp] theorem State.setRbuf_vt (m : State) (i : Nat) (b : RBuf) : (m.setRbuf i b).vt = m.vt := rfl
@[simp] theorem State.setRbuf_justReady (m : State) (i : Nat) (b : RBuf) : (m.setRbuf i b).justReady = m.justReady := rfl
@[simp] theorem State.setRbuf_whisks (m : State) (i : Nat) (b : RBuf) : (m.setRbuf i b).whisks = m.whisks := rfl
@[simp] theorem State.setRbuf_tongs (m : State) (i : Nat) (b : RBuf) : (m.setRbuf i b).tongs = m.tongs := rfl
@[simp] theorem State.setRbuf_mortars (m : State) (i : Nat) (b : RBuf) : (m.setRbuf i b).mortars = m.mortars := rfl
@[simp] theorem State.setRbuf_tdones (m : State) (i : Nat) (b : RBuf) : (m.setRbuf i b).tdones = m.tdones := rfl
@[simp] theorem State.setRbuf_watches (m : State) (i : Nat) (b : RBuf) : (m.setRbuf i b).watches = m.watches := rfl
@[simp] theorem State.setRbuf_notes (m : State) (i : Nat) (b : RBuf) : (m.setRbuf i b).notes = m.notes := rfl
@[simp] theorem State.setRbuf_entrants (m : State) (i : Nat) (b : RBuf) : (m.setRbuf i b).entrants = m.entrants := rfl
@[simp] theorem State.setRbuf_links (m : State) (i : Nat) (b : RBuf) : (m.setRbuf i b).links = m.links := rfl
@[simp] theorem State.setRbuf_reqs (m : State) (i : Nat) (b : RBuf) : (m.setRbuf i b).reqs = m.reqs := rfl
@[simp] theorem State.setRbuf_outq (m : State) (i : Nat) (b : RBuf) : (m.setRbuf i b).outq = m.outq := rfl
@[simp] theorem State.setRbuf_routes (m : State) (i : Nat) (b : RBuf) : (m.setRbuf i b).routes = m.routes := rfl
@[simp] theorem State.setRbuf_groups (m : State) (i : Nat) (b : RBuf) : (m.setRbuf i b).groups = m.groups := rfl
@[simp] theorem State.setRbuf_grpSeen (m : State) (i : Nat) (b : RBuf) : (m.setRbuf i b).grpSeen = m.grpSeen := rfl
@[simp] theorem State.setRbuf_grpSeq (m : State) (i : Nat) (b : RBuf) : (m.setRbuf i b).grpSeq = m.grpSeq := rfl
@[simp] theorem State.setRbuf_colls (m : State) (i : Nat) (b : RBuf) : (m.setRbuf i b).colls = m.colls := rfl
@[simp] theorem State.setRbuf_verdicts (m : State) (i : Nat) (b : RBuf) : (m.setRbuf i b).verdicts = m.verdicts := rfl
@[simp] theorem State.setRbuf_steps (m : State) (i : Nat) (b : RBuf) : (m.setRbuf i b).steps = m.steps := rfl
@[simp] theorem State.setRbuf_events (m : State) (i : Nat) (b : RBuf) : (m.setRbuf i b).events = m.events := rfl
@[simp] theorem State.setRbuf_lossPages (m : State) (i : Nat) (b : RBuf) : (m.setRbuf i b).lossPages = m.lossPages := rfl
@[simp] theorem State.setRbuf_hist (m : State) (i : Nat) (b : RBuf) : (m.setRbuf i b).hist = m.hist := rfl
@[simp] theorem State.setRbuf_alert (m : State) (i : Nat) (b : RBuf) : (m.setRbuf i b).alert = m.alert := rfl
@[simp] theorem State.setRbuf_msix (m : State) (i : Nat) (b : RBuf) : (m.setRbuf i b).msix = m.msix := rfl
@[simp] theorem State.setRbuf_coreIrq (m : State) (i : Nat) (b : RBuf) : (m.setRbuf i b).coreIrq = m.coreIrq := rfl
@[simp] theorem State.setRbuf_buckets (m : State) (i : Nat) (b : RBuf) : (m.setRbuf i b).buckets = m.buckets := rfl
@[simp] theorem State.setRbuf_rsvBytes (m : State) (i : Nat) (b : RBuf) : (m.setRbuf i b).rsvBytes = m.rsvBytes := rfl
@[simp] theorem State.setRbuf_flight (m : State) (i : Nat) (b : RBuf) : (m.setRbuf i b).flight = m.flight := rfl
@[simp] theorem State.setRbuf_hbmOut (m : State) (i : Nat) (b : RBuf) : (m.setRbuf i b).hbmOut = m.hbmOut := rfl
@[simp] theorem State.setRbuf_resets (m : State) (i : Nat) (b : RBuf) : (m.setRbuf i b).resets = m.resets := rfl
@[simp] theorem State.setRbuf_bells (m : State) (i : Nat) (b : RBuf) : (m.setRbuf i b).bells = m.bells := rfl
@[simp] theorem State.setRbuf_engResets (m : State) (i : Nat) (b : RBuf) : (m.setRbuf i b).engResets = m.engResets := rfl
@[simp] theorem State.setRbuf_flushes (m : State) (i : Nat) (b : RBuf) : (m.setRbuf i b).flushes = m.flushes := rfl
@[simp] theorem State.setRbuf_zeroing (m : State) (i : Nat) (b : RBuf) : (m.setRbuf i b).zeroing = m.zeroing := rfl
@[simp] theorem State.setRbuf_power (m : State) (i : Nat) (b : RBuf) : (m.setRbuf i b).power = m.power := rfl
@[simp] theorem State.setRbuf_pins (m : State) (i : Nat) (b : RBuf) : (m.setRbuf i b).pins = m.pins := rfl
@[simp] theorem State.setRbuf_alive (m : State) (i : Nat) (b : RBuf) : (m.setRbuf i b).alive = m.alive := rfl
@[simp] theorem State.setRbuf_cores (m : State) (i : Nat) (b : RBuf) : (m.setRbuf i b).cores = m.cores := rfl
@[simp] theorem State.setRbuf_fuses (m : State) (i : Nat) (b : RBuf) : (m.setRbuf i b).fuses = m.fuses := rfl
@[simp] theorem State.setRbuf_flash (m : State) (i : Nat) (b : RBuf) : (m.setRbuf i b).flash = m.flash := rfl
@[simp] theorem State.setRbuf_session (m : State) (i : Nat) (b : RBuf) : (m.setRbuf i b).session = m.session := rfl
@[simp] theorem State.setRbuf_hoCopy (m : State) (i : Nat) (b : RBuf) : (m.setRbuf i b).hoCopy = m.hoCopy := rfl
@[simp] theorem State.setRbuf_hoOpen (m : State) (i : Nat) (b : RBuf) : (m.setRbuf i b).hoOpen = m.hoOpen := rfl
@[simp] theorem State.setRbuf_hoSave (m : State) (i : Nat) (b : RBuf) : (m.setRbuf i b).hoSave = m.hoSave := rfl
@[simp] theorem State.setRbuf_hoValid (m : State) (i : Nat) (b : RBuf) : (m.setRbuf i b).hoValid = m.hoValid := rfl
@[simp] theorem State.setRbuf_svcRun (m : State) (i : Nat) (b : RBuf) : (m.setRbuf i b).svcRun = m.svcRun := rfl
@[simp] theorem State.setRbuf_tSvn (m : State) (i : Nat) (b : RBuf) : (m.setRbuf i b).tSvn = m.tSvn := rfl
@[simp] theorem State.setRbuf_sSvn (m : State) (i : Nat) (b : RBuf) : (m.setRbuf i b).sSvn = m.sSvn := rfl
@[simp] theorem State.setRbuf_stagedT (m : State) (i : Nat) (b : RBuf) : (m.setRbuf i b).stagedT = m.stagedT := rfl
@[simp] theorem State.setRbuf_stagedS (m : State) (i : Nat) (b : RBuf) : (m.setRbuf i b).stagedS = m.stagedS := rfl
@[simp] theorem State.setRbuf_mbLast (m : State) (i : Nat) (b : RBuf) : (m.setRbuf i b).mbLast = m.mbLast := rfl
@[simp] theorem State.setRbuf_nodeSet (m : State) (i : Nat) (b : RBuf) : (m.setRbuf i b).nodeSet = m.nodeSet := rfl
@[simp] theorem State.setRbuf_relays (m : State) (i : Nat) (b : RBuf) : (m.setRbuf i b).relays = m.relays := rfl
@[simp] theorem State.setRbuf_mgmtRsp (m : State) (i : Nat) (b : RBuf) : (m.setRbuf i b).mgmtRsp = m.mgmtRsp := rfl
@[simp] theorem State.setRbuf_smbOff (m : State) (i : Nat) (b : RBuf) : (m.setRbuf i b).smbOff = m.smbOff := rfl
@[simp] theorem State.setRbuf_smbOut (m : State) (i : Nat) (b : RBuf) : (m.setRbuf i b).smbOut = m.smbOut := rfl
@[simp] theorem State.setRbuf_jtagIr (m : State) (i : Nat) (b : RBuf) : (m.setRbuf i b).jtagIr = m.jtagIr := rfl
@[simp] theorem State.setRbuf_jtagDr (m : State) (i : Nat) (b : RBuf) : (m.setRbuf i b).jtagDr = m.jtagDr := rfl
@[simp] theorem State.setRbuf_busOut (m : State) (i : Nat) (b : RBuf) : (m.setRbuf i b).busOut = m.busOut := rfl
@[simp] theorem State.setRbuf_lastLatch (m : State) (i : Nat) (b : RBuf) : (m.setRbuf i b).lastLatch = m.lastLatch := rfl
@[simp] theorem State.setRbuf_slew (m : State) (i : Nat) (b : RBuf) : (m.setRbuf i b).slew = m.slew := rfl
@[simp] theorem State.setRbuf_slow (m : State) (i : Nat) (b : RBuf) : (m.setRbuf i b).slow = m.slow := rfl
@[simp] theorem State.setRbuf_frac (m : State) (i : Nat) (b : RBuf) : (m.setRbuf i b).frac = m.frac := rfl
@[simp] theorem State.setRbuf_marginOn (m : State) (i : Nat) (b : RBuf) : (m.setRbuf i b).marginOn = m.marginOn := rfl
@[simp] theorem State.setRbuf_nextId (m : State) (i : Nat) (b : RBuf) : (m.setRbuf i b).nextId = m.nextId := rfl
@[simp] theorem State.setRbuf_free (m : State) (i : Nat) (b : RBuf) : (m.setRbuf i b).free = m.free := rfl
@[simp] theorem State.setRbuf_pending (m : State) (i : Nat) (b : RBuf) : (m.setRbuf i b).pending = m.pending := rfl
@[simp] theorem State.setRbuf_at_reg (m : State) (i : Nat) (b : RBuf) (o : Nat) : (m.setRbuf i b).reg o = m.reg o := rfl
@[simp] theorem State.setRbuf_at_fld (m : State) (i : Nat) (b : RBuf) (e : Fld) : (m.setRbuf i b).fld e = m.fld e := rfl
@[simp] theorem State.setRbuf_at_flag (m : State) (i : Nat) (b : RBuf) (e : Fld) : (m.setRbuf i b).flag e = m.flag e := rfl
@[simp] theorem State.setRbuf_at_byte (m : State) (i : Nat) (b : RBuf) (addr : Nat) : (m.setRbuf i b).byte addr = m.byte addr := rfl
@[simp] theorem State.setRbuf_at_bytes (m : State) (i : Nat) (b : RBuf) (addr len : Nat) : (m.setRbuf i b).bytes addr len = m.bytes addr len := rfl

/-! ## dropBuf -/

@[simp] theorem State.dropBuf_regs (m : State) (i : Nat) : (m.dropBuf i).regs = m.regs := rfl
@[simp] theorem State.dropBuf_snap (m : State) (i : Nat) : (m.dropBuf i).snap = m.snap := rfl
@[simp] theorem State.dropBuf_mem (m : State) (i : Nat) : (m.dropBuf i).mem = m.mem := rfl
@[simp] theorem State.dropBuf_poison (m : State) (i : Nat) : (m.dropBuf i).poison = m.poison := rfl
@[simp] theorem State.dropBuf_stale (m : State) (i : Nat) : (m.dropBuf i).stale = m.stale := rfl
@[simp] theorem State.dropBuf_stalePsn (m : State) (i : Nat) : (m.dropBuf i).stalePsn = m.stalePsn := rfl
@[simp] theorem State.dropBuf_cache (m : State) (i : Nat) : (m.dropBuf i).cache = m.cache := rfl
@[simp] theorem State.dropBuf_trayTags (m : State) (i : Nat) : (m.dropBuf i).trayTags = m.trayTags := rfl
@[simp] theorem State.dropBuf_coreBytes (m : State) (i : Nat) : (m.dropBuf i).coreBytes = m.coreBytes := rfl
@[simp] theorem State.dropBuf_mxScale (m : State) (i : Nat) : (m.dropBuf i).mxScale = m.mxScale := rfl
@[simp] theorem State.dropBuf_pstage (m : State) (i : Nat) : (m.dropBuf i).pstage = m.pstage := rfl
@[simp] theorem State.dropBuf_gens (m : State) (i : Nat) : (m.dropBuf i).gens = m.gens := rfl
@[simp] theorem State.dropBuf_lslots (m : State) (i : Nat) : (m.dropBuf i).lslots = m.lslots := rfl
@[simp] theorem State.dropBuf_queued (m : State) (i : Nat) : (m.dropBuf i).queued = m.queued := rfl
@[simp] theorem State.dropBuf_launches (m : State) (i : Nat) : (m.dropBuf i).launches = m.launches := rfl
@[simp] theorem State.dropBuf_lastFirst (m : State) (i : Nat) : (m.dropBuf i).lastFirst = m.lastFirst := rfl
@[simp] theorem State.dropBuf_pcOver (m : State) (i : Nat) : (m.dropBuf i).pcOver = m.pcOver := rfl
@[simp] theorem State.dropBuf_holds (m : State) (i : Nat) : (m.dropBuf i).holds = m.holds := rfl
@[simp] theorem State.dropBuf_xfers (m : State) (i : Nat) : (m.dropBuf i).xfers = m.xfers := rfl
@[simp] theorem State.dropBuf_gops (m : State) (i : Nat) : (m.dropBuf i).gops = m.gops := rfl
@[simp] theorem State.dropBuf_spks (m : State) (i : Nat) : (m.dropBuf i).spks = m.spks := rfl
@[simp] theorem State.dropBuf_norms (m : State) (i : Nat) : (m.dropBuf i).norms = m.norms := rfl
@[simp] theorem State.dropBuf_dispatches (m : State) (i : Nat) : (m.dropBuf i).dispatches = m.dispatches := rfl
@[simp] theorem State.dropBuf_vt (m : State) (i : Nat) : (m.dropBuf i).vt = m.vt := rfl
@[simp] theorem State.dropBuf_justReady (m : State) (i : Nat) : (m.dropBuf i).justReady = m.justReady := rfl
@[simp] theorem State.dropBuf_whisks (m : State) (i : Nat) : (m.dropBuf i).whisks = m.whisks := rfl
@[simp] theorem State.dropBuf_tongs (m : State) (i : Nat) : (m.dropBuf i).tongs = m.tongs := rfl
@[simp] theorem State.dropBuf_mortars (m : State) (i : Nat) : (m.dropBuf i).mortars = m.mortars := rfl
@[simp] theorem State.dropBuf_tdones (m : State) (i : Nat) : (m.dropBuf i).tdones = m.tdones := rfl
@[simp] theorem State.dropBuf_watches (m : State) (i : Nat) : (m.dropBuf i).watches = m.watches := rfl
@[simp] theorem State.dropBuf_notes (m : State) (i : Nat) : (m.dropBuf i).notes = m.notes := rfl
@[simp] theorem State.dropBuf_entrants (m : State) (i : Nat) : (m.dropBuf i).entrants = m.entrants := rfl
@[simp] theorem State.dropBuf_links (m : State) (i : Nat) : (m.dropBuf i).links = m.links := rfl
@[simp] theorem State.dropBuf_reqs (m : State) (i : Nat) : (m.dropBuf i).reqs = m.reqs := rfl
@[simp] theorem State.dropBuf_outq (m : State) (i : Nat) : (m.dropBuf i).outq = m.outq := rfl
@[simp] theorem State.dropBuf_routes (m : State) (i : Nat) : (m.dropBuf i).routes = m.routes := rfl
@[simp] theorem State.dropBuf_groups (m : State) (i : Nat) : (m.dropBuf i).groups = m.groups := rfl
@[simp] theorem State.dropBuf_grpSeen (m : State) (i : Nat) : (m.dropBuf i).grpSeen = m.grpSeen := rfl
@[simp] theorem State.dropBuf_grpSeq (m : State) (i : Nat) : (m.dropBuf i).grpSeq = m.grpSeq := rfl
@[simp] theorem State.dropBuf_colls (m : State) (i : Nat) : (m.dropBuf i).colls = m.colls := rfl
@[simp] theorem State.dropBuf_verdicts (m : State) (i : Nat) : (m.dropBuf i).verdicts = m.verdicts := rfl
@[simp] theorem State.dropBuf_steps (m : State) (i : Nat) : (m.dropBuf i).steps = m.steps := rfl
@[simp] theorem State.dropBuf_events (m : State) (i : Nat) : (m.dropBuf i).events = m.events := rfl
@[simp] theorem State.dropBuf_lossPages (m : State) (i : Nat) : (m.dropBuf i).lossPages = m.lossPages := rfl
@[simp] theorem State.dropBuf_hist (m : State) (i : Nat) : (m.dropBuf i).hist = m.hist := rfl
@[simp] theorem State.dropBuf_alert (m : State) (i : Nat) : (m.dropBuf i).alert = m.alert := rfl
@[simp] theorem State.dropBuf_msix (m : State) (i : Nat) : (m.dropBuf i).msix = m.msix := rfl
@[simp] theorem State.dropBuf_coreIrq (m : State) (i : Nat) : (m.dropBuf i).coreIrq = m.coreIrq := rfl
@[simp] theorem State.dropBuf_buckets (m : State) (i : Nat) : (m.dropBuf i).buckets = m.buckets := rfl
@[simp] theorem State.dropBuf_rsvBytes (m : State) (i : Nat) : (m.dropBuf i).rsvBytes = m.rsvBytes := rfl
@[simp] theorem State.dropBuf_flight (m : State) (i : Nat) : (m.dropBuf i).flight = m.flight := rfl
@[simp] theorem State.dropBuf_hbmOut (m : State) (i : Nat) : (m.dropBuf i).hbmOut = m.hbmOut := rfl
@[simp] theorem State.dropBuf_resets (m : State) (i : Nat) : (m.dropBuf i).resets = m.resets := rfl
@[simp] theorem State.dropBuf_bells (m : State) (i : Nat) : (m.dropBuf i).bells = m.bells := rfl
@[simp] theorem State.dropBuf_engResets (m : State) (i : Nat) : (m.dropBuf i).engResets = m.engResets := rfl
@[simp] theorem State.dropBuf_flushes (m : State) (i : Nat) : (m.dropBuf i).flushes = m.flushes := rfl
@[simp] theorem State.dropBuf_zeroing (m : State) (i : Nat) : (m.dropBuf i).zeroing = m.zeroing := rfl
@[simp] theorem State.dropBuf_power (m : State) (i : Nat) : (m.dropBuf i).power = m.power := rfl
@[simp] theorem State.dropBuf_pins (m : State) (i : Nat) : (m.dropBuf i).pins = m.pins := rfl
@[simp] theorem State.dropBuf_alive (m : State) (i : Nat) : (m.dropBuf i).alive = m.alive := rfl
@[simp] theorem State.dropBuf_cores (m : State) (i : Nat) : (m.dropBuf i).cores = m.cores := rfl
@[simp] theorem State.dropBuf_fuses (m : State) (i : Nat) : (m.dropBuf i).fuses = m.fuses := rfl
@[simp] theorem State.dropBuf_flash (m : State) (i : Nat) : (m.dropBuf i).flash = m.flash := rfl
@[simp] theorem State.dropBuf_session (m : State) (i : Nat) : (m.dropBuf i).session = m.session := rfl
@[simp] theorem State.dropBuf_hoCopy (m : State) (i : Nat) : (m.dropBuf i).hoCopy = m.hoCopy := rfl
@[simp] theorem State.dropBuf_hoOpen (m : State) (i : Nat) : (m.dropBuf i).hoOpen = m.hoOpen := rfl
@[simp] theorem State.dropBuf_hoSave (m : State) (i : Nat) : (m.dropBuf i).hoSave = m.hoSave := rfl
@[simp] theorem State.dropBuf_hoValid (m : State) (i : Nat) : (m.dropBuf i).hoValid = m.hoValid := rfl
@[simp] theorem State.dropBuf_svcRun (m : State) (i : Nat) : (m.dropBuf i).svcRun = m.svcRun := rfl
@[simp] theorem State.dropBuf_tSvn (m : State) (i : Nat) : (m.dropBuf i).tSvn = m.tSvn := rfl
@[simp] theorem State.dropBuf_sSvn (m : State) (i : Nat) : (m.dropBuf i).sSvn = m.sSvn := rfl
@[simp] theorem State.dropBuf_stagedT (m : State) (i : Nat) : (m.dropBuf i).stagedT = m.stagedT := rfl
@[simp] theorem State.dropBuf_stagedS (m : State) (i : Nat) : (m.dropBuf i).stagedS = m.stagedS := rfl
@[simp] theorem State.dropBuf_mbLast (m : State) (i : Nat) : (m.dropBuf i).mbLast = m.mbLast := rfl
@[simp] theorem State.dropBuf_nodeSet (m : State) (i : Nat) : (m.dropBuf i).nodeSet = m.nodeSet := rfl
@[simp] theorem State.dropBuf_relays (m : State) (i : Nat) : (m.dropBuf i).relays = m.relays := rfl
@[simp] theorem State.dropBuf_mgmtRsp (m : State) (i : Nat) : (m.dropBuf i).mgmtRsp = m.mgmtRsp := rfl
@[simp] theorem State.dropBuf_smbOff (m : State) (i : Nat) : (m.dropBuf i).smbOff = m.smbOff := rfl
@[simp] theorem State.dropBuf_smbOut (m : State) (i : Nat) : (m.dropBuf i).smbOut = m.smbOut := rfl
@[simp] theorem State.dropBuf_jtagIr (m : State) (i : Nat) : (m.dropBuf i).jtagIr = m.jtagIr := rfl
@[simp] theorem State.dropBuf_jtagDr (m : State) (i : Nat) : (m.dropBuf i).jtagDr = m.jtagDr := rfl
@[simp] theorem State.dropBuf_busOut (m : State) (i : Nat) : (m.dropBuf i).busOut = m.busOut := rfl
@[simp] theorem State.dropBuf_lastLatch (m : State) (i : Nat) : (m.dropBuf i).lastLatch = m.lastLatch := rfl
@[simp] theorem State.dropBuf_slew (m : State) (i : Nat) : (m.dropBuf i).slew = m.slew := rfl
@[simp] theorem State.dropBuf_slow (m : State) (i : Nat) : (m.dropBuf i).slow = m.slow := rfl
@[simp] theorem State.dropBuf_frac (m : State) (i : Nat) : (m.dropBuf i).frac = m.frac := rfl
@[simp] theorem State.dropBuf_marginOn (m : State) (i : Nat) : (m.dropBuf i).marginOn = m.marginOn := rfl
@[simp] theorem State.dropBuf_nextId (m : State) (i : Nat) : (m.dropBuf i).nextId = m.nextId := rfl
@[simp] theorem State.dropBuf_free (m : State) (i : Nat) : (m.dropBuf i).free = m.free := rfl
@[simp] theorem State.dropBuf_pending (m : State) (i : Nat) : (m.dropBuf i).pending = m.pending := rfl
@[simp] theorem State.dropBuf_at_reg (m : State) (i : Nat) (o : Nat) : (m.dropBuf i).reg o = m.reg o := rfl
@[simp] theorem State.dropBuf_at_fld (m : State) (i : Nat) (e : Fld) : (m.dropBuf i).fld e = m.fld e := rfl
@[simp] theorem State.dropBuf_at_flag (m : State) (i : Nat) (e : Fld) : (m.dropBuf i).flag e = m.flag e := rfl
@[simp] theorem State.dropBuf_at_byte (m : State) (i : Nat) (addr : Nat) : (m.dropBuf i).byte addr = m.byte addr := rfl
@[simp] theorem State.dropBuf_at_bytes (m : State) (i : Nat) (addr len : Nat) : (m.dropBuf i).bytes addr len = m.bytes addr len := rfl

/-! ## dropReq -/

@[simp] theorem State.dropReq_regs (m : State) (r : Req) : (m.dropReq r).regs = m.regs := rfl
@[simp] theorem State.dropReq_snap (m : State) (r : Req) : (m.dropReq r).snap = m.snap := rfl
@[simp] theorem State.dropReq_mem (m : State) (r : Req) : (m.dropReq r).mem = m.mem := rfl
@[simp] theorem State.dropReq_poison (m : State) (r : Req) : (m.dropReq r).poison = m.poison := rfl
@[simp] theorem State.dropReq_stale (m : State) (r : Req) : (m.dropReq r).stale = m.stale := rfl
@[simp] theorem State.dropReq_stalePsn (m : State) (r : Req) : (m.dropReq r).stalePsn = m.stalePsn := rfl
@[simp] theorem State.dropReq_cache (m : State) (r : Req) : (m.dropReq r).cache = m.cache := rfl
@[simp] theorem State.dropReq_trayTags (m : State) (r : Req) : (m.dropReq r).trayTags = m.trayTags := rfl
@[simp] theorem State.dropReq_coreBytes (m : State) (r : Req) : (m.dropReq r).coreBytes = m.coreBytes := rfl
@[simp] theorem State.dropReq_mxScale (m : State) (r : Req) : (m.dropReq r).mxScale = m.mxScale := rfl
@[simp] theorem State.dropReq_pstage (m : State) (r : Req) : (m.dropReq r).pstage = m.pstage := rfl
@[simp] theorem State.dropReq_gens (m : State) (r : Req) : (m.dropReq r).gens = m.gens := rfl
@[simp] theorem State.dropReq_lslots (m : State) (r : Req) : (m.dropReq r).lslots = m.lslots := rfl
@[simp] theorem State.dropReq_queued (m : State) (r : Req) : (m.dropReq r).queued = m.queued := rfl
@[simp] theorem State.dropReq_launches (m : State) (r : Req) : (m.dropReq r).launches = m.launches := rfl
@[simp] theorem State.dropReq_lastFirst (m : State) (r : Req) : (m.dropReq r).lastFirst = m.lastFirst := rfl
@[simp] theorem State.dropReq_pcOver (m : State) (r : Req) : (m.dropReq r).pcOver = m.pcOver := rfl
@[simp] theorem State.dropReq_holds (m : State) (r : Req) : (m.dropReq r).holds = m.holds := rfl
@[simp] theorem State.dropReq_xfers (m : State) (r : Req) : (m.dropReq r).xfers = m.xfers := rfl
@[simp] theorem State.dropReq_gops (m : State) (r : Req) : (m.dropReq r).gops = m.gops := rfl
@[simp] theorem State.dropReq_spks (m : State) (r : Req) : (m.dropReq r).spks = m.spks := rfl
@[simp] theorem State.dropReq_norms (m : State) (r : Req) : (m.dropReq r).norms = m.norms := rfl
@[simp] theorem State.dropReq_dispatches (m : State) (r : Req) : (m.dropReq r).dispatches = m.dispatches := rfl
@[simp] theorem State.dropReq_vt (m : State) (r : Req) : (m.dropReq r).vt = m.vt := rfl
@[simp] theorem State.dropReq_justReady (m : State) (r : Req) : (m.dropReq r).justReady = m.justReady := rfl
@[simp] theorem State.dropReq_whisks (m : State) (r : Req) : (m.dropReq r).whisks = m.whisks := rfl
@[simp] theorem State.dropReq_tongs (m : State) (r : Req) : (m.dropReq r).tongs = m.tongs := rfl
@[simp] theorem State.dropReq_mortars (m : State) (r : Req) : (m.dropReq r).mortars = m.mortars := rfl
@[simp] theorem State.dropReq_tdones (m : State) (r : Req) : (m.dropReq r).tdones = m.tdones := rfl
@[simp] theorem State.dropReq_watches (m : State) (r : Req) : (m.dropReq r).watches = m.watches := rfl
@[simp] theorem State.dropReq_notes (m : State) (r : Req) : (m.dropReq r).notes = m.notes := rfl
@[simp] theorem State.dropReq_entrants (m : State) (r : Req) : (m.dropReq r).entrants = m.entrants := rfl
@[simp] theorem State.dropReq_links (m : State) (r : Req) : (m.dropReq r).links = m.links := rfl
@[simp] theorem State.dropReq_outq (m : State) (r : Req) : (m.dropReq r).outq = m.outq := rfl
@[simp] theorem State.dropReq_rbufs (m : State) (r : Req) : (m.dropReq r).rbufs = m.rbufs := rfl
@[simp] theorem State.dropReq_routes (m : State) (r : Req) : (m.dropReq r).routes = m.routes := rfl
@[simp] theorem State.dropReq_groups (m : State) (r : Req) : (m.dropReq r).groups = m.groups := rfl
@[simp] theorem State.dropReq_grpSeen (m : State) (r : Req) : (m.dropReq r).grpSeen = m.grpSeen := rfl
@[simp] theorem State.dropReq_grpSeq (m : State) (r : Req) : (m.dropReq r).grpSeq = m.grpSeq := rfl
@[simp] theorem State.dropReq_colls (m : State) (r : Req) : (m.dropReq r).colls = m.colls := rfl
@[simp] theorem State.dropReq_verdicts (m : State) (r : Req) : (m.dropReq r).verdicts = m.verdicts := rfl
@[simp] theorem State.dropReq_steps (m : State) (r : Req) : (m.dropReq r).steps = m.steps := rfl
@[simp] theorem State.dropReq_events (m : State) (r : Req) : (m.dropReq r).events = m.events := rfl
@[simp] theorem State.dropReq_lossPages (m : State) (r : Req) : (m.dropReq r).lossPages = m.lossPages := rfl
@[simp] theorem State.dropReq_hist (m : State) (r : Req) : (m.dropReq r).hist = m.hist := rfl
@[simp] theorem State.dropReq_alert (m : State) (r : Req) : (m.dropReq r).alert = m.alert := rfl
@[simp] theorem State.dropReq_msix (m : State) (r : Req) : (m.dropReq r).msix = m.msix := rfl
@[simp] theorem State.dropReq_coreIrq (m : State) (r : Req) : (m.dropReq r).coreIrq = m.coreIrq := rfl
@[simp] theorem State.dropReq_buckets (m : State) (r : Req) : (m.dropReq r).buckets = m.buckets := rfl
@[simp] theorem State.dropReq_rsvBytes (m : State) (r : Req) : (m.dropReq r).rsvBytes = m.rsvBytes := rfl
@[simp] theorem State.dropReq_flight (m : State) (r : Req) : (m.dropReq r).flight = m.flight := rfl
@[simp] theorem State.dropReq_hbmOut (m : State) (r : Req) : (m.dropReq r).hbmOut = m.hbmOut := rfl
@[simp] theorem State.dropReq_resets (m : State) (r : Req) : (m.dropReq r).resets = m.resets := rfl
@[simp] theorem State.dropReq_bells (m : State) (r : Req) : (m.dropReq r).bells = m.bells := rfl
@[simp] theorem State.dropReq_engResets (m : State) (r : Req) : (m.dropReq r).engResets = m.engResets := rfl
@[simp] theorem State.dropReq_flushes (m : State) (r : Req) : (m.dropReq r).flushes = m.flushes := rfl
@[simp] theorem State.dropReq_zeroing (m : State) (r : Req) : (m.dropReq r).zeroing = m.zeroing := rfl
@[simp] theorem State.dropReq_power (m : State) (r : Req) : (m.dropReq r).power = m.power := rfl
@[simp] theorem State.dropReq_pins (m : State) (r : Req) : (m.dropReq r).pins = m.pins := rfl
@[simp] theorem State.dropReq_alive (m : State) (r : Req) : (m.dropReq r).alive = m.alive := rfl
@[simp] theorem State.dropReq_cores (m : State) (r : Req) : (m.dropReq r).cores = m.cores := rfl
@[simp] theorem State.dropReq_fuses (m : State) (r : Req) : (m.dropReq r).fuses = m.fuses := rfl
@[simp] theorem State.dropReq_flash (m : State) (r : Req) : (m.dropReq r).flash = m.flash := rfl
@[simp] theorem State.dropReq_session (m : State) (r : Req) : (m.dropReq r).session = m.session := rfl
@[simp] theorem State.dropReq_hoCopy (m : State) (r : Req) : (m.dropReq r).hoCopy = m.hoCopy := rfl
@[simp] theorem State.dropReq_hoOpen (m : State) (r : Req) : (m.dropReq r).hoOpen = m.hoOpen := rfl
@[simp] theorem State.dropReq_hoSave (m : State) (r : Req) : (m.dropReq r).hoSave = m.hoSave := rfl
@[simp] theorem State.dropReq_hoValid (m : State) (r : Req) : (m.dropReq r).hoValid = m.hoValid := rfl
@[simp] theorem State.dropReq_svcRun (m : State) (r : Req) : (m.dropReq r).svcRun = m.svcRun := rfl
@[simp] theorem State.dropReq_tSvn (m : State) (r : Req) : (m.dropReq r).tSvn = m.tSvn := rfl
@[simp] theorem State.dropReq_sSvn (m : State) (r : Req) : (m.dropReq r).sSvn = m.sSvn := rfl
@[simp] theorem State.dropReq_stagedT (m : State) (r : Req) : (m.dropReq r).stagedT = m.stagedT := rfl
@[simp] theorem State.dropReq_stagedS (m : State) (r : Req) : (m.dropReq r).stagedS = m.stagedS := rfl
@[simp] theorem State.dropReq_mbLast (m : State) (r : Req) : (m.dropReq r).mbLast = m.mbLast := rfl
@[simp] theorem State.dropReq_nodeSet (m : State) (r : Req) : (m.dropReq r).nodeSet = m.nodeSet := rfl
@[simp] theorem State.dropReq_relays (m : State) (r : Req) : (m.dropReq r).relays = m.relays := rfl
@[simp] theorem State.dropReq_mgmtRsp (m : State) (r : Req) : (m.dropReq r).mgmtRsp = m.mgmtRsp := rfl
@[simp] theorem State.dropReq_smbOff (m : State) (r : Req) : (m.dropReq r).smbOff = m.smbOff := rfl
@[simp] theorem State.dropReq_smbOut (m : State) (r : Req) : (m.dropReq r).smbOut = m.smbOut := rfl
@[simp] theorem State.dropReq_jtagIr (m : State) (r : Req) : (m.dropReq r).jtagIr = m.jtagIr := rfl
@[simp] theorem State.dropReq_jtagDr (m : State) (r : Req) : (m.dropReq r).jtagDr = m.jtagDr := rfl
@[simp] theorem State.dropReq_busOut (m : State) (r : Req) : (m.dropReq r).busOut = m.busOut := rfl
@[simp] theorem State.dropReq_lastLatch (m : State) (r : Req) : (m.dropReq r).lastLatch = m.lastLatch := rfl
@[simp] theorem State.dropReq_slew (m : State) (r : Req) : (m.dropReq r).slew = m.slew := rfl
@[simp] theorem State.dropReq_slow (m : State) (r : Req) : (m.dropReq r).slow = m.slow := rfl
@[simp] theorem State.dropReq_frac (m : State) (r : Req) : (m.dropReq r).frac = m.frac := rfl
@[simp] theorem State.dropReq_marginOn (m : State) (r : Req) : (m.dropReq r).marginOn = m.marginOn := rfl
@[simp] theorem State.dropReq_nextId (m : State) (r : Req) : (m.dropReq r).nextId = m.nextId := rfl
@[simp] theorem State.dropReq_free (m : State) (r : Req) : (m.dropReq r).free = m.free := rfl
@[simp] theorem State.dropReq_pending (m : State) (r : Req) : (m.dropReq r).pending = m.pending := rfl
@[simp] theorem State.dropReq_at_reg (m : State) (r : Req) (o : Nat) : (m.dropReq r).reg o = m.reg o := rfl
@[simp] theorem State.dropReq_at_fld (m : State) (r : Req) (e : Fld) : (m.dropReq r).fld e = m.fld e := rfl
@[simp] theorem State.dropReq_at_flag (m : State) (r : Req) (e : Fld) : (m.dropReq r).flag e = m.flag e := rfl
@[simp] theorem State.dropReq_at_byte (m : State) (r : Req) (addr : Nat) : (m.dropReq r).byte addr = m.byte addr := rfl
@[simp] theorem State.dropReq_at_bytes (m : State) (r : Req) (addr len : Nat) : (m.dropReq r).bytes addr len = m.bytes addr len := rfl

/-! ## setColl -/

@[simp] theorem State.setColl_regs (m : State) (c : Coll) : (m.setColl c).regs = m.regs := rfl
@[simp] theorem State.setColl_snap (m : State) (c : Coll) : (m.setColl c).snap = m.snap := rfl
@[simp] theorem State.setColl_mem (m : State) (c : Coll) : (m.setColl c).mem = m.mem := rfl
@[simp] theorem State.setColl_poison (m : State) (c : Coll) : (m.setColl c).poison = m.poison := rfl
@[simp] theorem State.setColl_stale (m : State) (c : Coll) : (m.setColl c).stale = m.stale := rfl
@[simp] theorem State.setColl_stalePsn (m : State) (c : Coll) : (m.setColl c).stalePsn = m.stalePsn := rfl
@[simp] theorem State.setColl_cache (m : State) (c : Coll) : (m.setColl c).cache = m.cache := rfl
@[simp] theorem State.setColl_trayTags (m : State) (c : Coll) : (m.setColl c).trayTags = m.trayTags := rfl
@[simp] theorem State.setColl_coreBytes (m : State) (c : Coll) : (m.setColl c).coreBytes = m.coreBytes := rfl
@[simp] theorem State.setColl_mxScale (m : State) (c : Coll) : (m.setColl c).mxScale = m.mxScale := rfl
@[simp] theorem State.setColl_pstage (m : State) (c : Coll) : (m.setColl c).pstage = m.pstage := rfl
@[simp] theorem State.setColl_gens (m : State) (c : Coll) : (m.setColl c).gens = m.gens := rfl
@[simp] theorem State.setColl_lslots (m : State) (c : Coll) : (m.setColl c).lslots = m.lslots := rfl
@[simp] theorem State.setColl_queued (m : State) (c : Coll) : (m.setColl c).queued = m.queued := rfl
@[simp] theorem State.setColl_launches (m : State) (c : Coll) : (m.setColl c).launches = m.launches := rfl
@[simp] theorem State.setColl_lastFirst (m : State) (c : Coll) : (m.setColl c).lastFirst = m.lastFirst := rfl
@[simp] theorem State.setColl_pcOver (m : State) (c : Coll) : (m.setColl c).pcOver = m.pcOver := rfl
@[simp] theorem State.setColl_holds (m : State) (c : Coll) : (m.setColl c).holds = m.holds := rfl
@[simp] theorem State.setColl_xfers (m : State) (c : Coll) : (m.setColl c).xfers = m.xfers := rfl
@[simp] theorem State.setColl_gops (m : State) (c : Coll) : (m.setColl c).gops = m.gops := rfl
@[simp] theorem State.setColl_spks (m : State) (c : Coll) : (m.setColl c).spks = m.spks := rfl
@[simp] theorem State.setColl_norms (m : State) (c : Coll) : (m.setColl c).norms = m.norms := rfl
@[simp] theorem State.setColl_dispatches (m : State) (c : Coll) : (m.setColl c).dispatches = m.dispatches := rfl
@[simp] theorem State.setColl_vt (m : State) (c : Coll) : (m.setColl c).vt = m.vt := rfl
@[simp] theorem State.setColl_justReady (m : State) (c : Coll) : (m.setColl c).justReady = m.justReady := rfl
@[simp] theorem State.setColl_whisks (m : State) (c : Coll) : (m.setColl c).whisks = m.whisks := rfl
@[simp] theorem State.setColl_tongs (m : State) (c : Coll) : (m.setColl c).tongs = m.tongs := rfl
@[simp] theorem State.setColl_mortars (m : State) (c : Coll) : (m.setColl c).mortars = m.mortars := rfl
@[simp] theorem State.setColl_tdones (m : State) (c : Coll) : (m.setColl c).tdones = m.tdones := rfl
@[simp] theorem State.setColl_watches (m : State) (c : Coll) : (m.setColl c).watches = m.watches := rfl
@[simp] theorem State.setColl_notes (m : State) (c : Coll) : (m.setColl c).notes = m.notes := rfl
@[simp] theorem State.setColl_entrants (m : State) (c : Coll) : (m.setColl c).entrants = m.entrants := rfl
@[simp] theorem State.setColl_links (m : State) (c : Coll) : (m.setColl c).links = m.links := rfl
@[simp] theorem State.setColl_reqs (m : State) (c : Coll) : (m.setColl c).reqs = m.reqs := rfl
@[simp] theorem State.setColl_outq (m : State) (c : Coll) : (m.setColl c).outq = m.outq := rfl
@[simp] theorem State.setColl_rbufs (m : State) (c : Coll) : (m.setColl c).rbufs = m.rbufs := rfl
@[simp] theorem State.setColl_routes (m : State) (c : Coll) : (m.setColl c).routes = m.routes := rfl
@[simp] theorem State.setColl_groups (m : State) (c : Coll) : (m.setColl c).groups = m.groups := rfl
@[simp] theorem State.setColl_grpSeen (m : State) (c : Coll) : (m.setColl c).grpSeen = m.grpSeen := rfl
@[simp] theorem State.setColl_grpSeq (m : State) (c : Coll) : (m.setColl c).grpSeq = m.grpSeq := rfl
@[simp] theorem State.setColl_verdicts (m : State) (c : Coll) : (m.setColl c).verdicts = m.verdicts := rfl
@[simp] theorem State.setColl_steps (m : State) (c : Coll) : (m.setColl c).steps = m.steps := rfl
@[simp] theorem State.setColl_events (m : State) (c : Coll) : (m.setColl c).events = m.events := rfl
@[simp] theorem State.setColl_lossPages (m : State) (c : Coll) : (m.setColl c).lossPages = m.lossPages := rfl
@[simp] theorem State.setColl_hist (m : State) (c : Coll) : (m.setColl c).hist = m.hist := rfl
@[simp] theorem State.setColl_alert (m : State) (c : Coll) : (m.setColl c).alert = m.alert := rfl
@[simp] theorem State.setColl_msix (m : State) (c : Coll) : (m.setColl c).msix = m.msix := rfl
@[simp] theorem State.setColl_coreIrq (m : State) (c : Coll) : (m.setColl c).coreIrq = m.coreIrq := rfl
@[simp] theorem State.setColl_buckets (m : State) (c : Coll) : (m.setColl c).buckets = m.buckets := rfl
@[simp] theorem State.setColl_rsvBytes (m : State) (c : Coll) : (m.setColl c).rsvBytes = m.rsvBytes := rfl
@[simp] theorem State.setColl_flight (m : State) (c : Coll) : (m.setColl c).flight = m.flight := rfl
@[simp] theorem State.setColl_hbmOut (m : State) (c : Coll) : (m.setColl c).hbmOut = m.hbmOut := rfl
@[simp] theorem State.setColl_resets (m : State) (c : Coll) : (m.setColl c).resets = m.resets := rfl
@[simp] theorem State.setColl_bells (m : State) (c : Coll) : (m.setColl c).bells = m.bells := rfl
@[simp] theorem State.setColl_engResets (m : State) (c : Coll) : (m.setColl c).engResets = m.engResets := rfl
@[simp] theorem State.setColl_flushes (m : State) (c : Coll) : (m.setColl c).flushes = m.flushes := rfl
@[simp] theorem State.setColl_zeroing (m : State) (c : Coll) : (m.setColl c).zeroing = m.zeroing := rfl
@[simp] theorem State.setColl_power (m : State) (c : Coll) : (m.setColl c).power = m.power := rfl
@[simp] theorem State.setColl_pins (m : State) (c : Coll) : (m.setColl c).pins = m.pins := rfl
@[simp] theorem State.setColl_alive (m : State) (c : Coll) : (m.setColl c).alive = m.alive := rfl
@[simp] theorem State.setColl_cores (m : State) (c : Coll) : (m.setColl c).cores = m.cores := rfl
@[simp] theorem State.setColl_fuses (m : State) (c : Coll) : (m.setColl c).fuses = m.fuses := rfl
@[simp] theorem State.setColl_flash (m : State) (c : Coll) : (m.setColl c).flash = m.flash := rfl
@[simp] theorem State.setColl_session (m : State) (c : Coll) : (m.setColl c).session = m.session := rfl
@[simp] theorem State.setColl_hoCopy (m : State) (c : Coll) : (m.setColl c).hoCopy = m.hoCopy := rfl
@[simp] theorem State.setColl_hoOpen (m : State) (c : Coll) : (m.setColl c).hoOpen = m.hoOpen := rfl
@[simp] theorem State.setColl_hoSave (m : State) (c : Coll) : (m.setColl c).hoSave = m.hoSave := rfl
@[simp] theorem State.setColl_hoValid (m : State) (c : Coll) : (m.setColl c).hoValid = m.hoValid := rfl
@[simp] theorem State.setColl_svcRun (m : State) (c : Coll) : (m.setColl c).svcRun = m.svcRun := rfl
@[simp] theorem State.setColl_tSvn (m : State) (c : Coll) : (m.setColl c).tSvn = m.tSvn := rfl
@[simp] theorem State.setColl_sSvn (m : State) (c : Coll) : (m.setColl c).sSvn = m.sSvn := rfl
@[simp] theorem State.setColl_stagedT (m : State) (c : Coll) : (m.setColl c).stagedT = m.stagedT := rfl
@[simp] theorem State.setColl_stagedS (m : State) (c : Coll) : (m.setColl c).stagedS = m.stagedS := rfl
@[simp] theorem State.setColl_mbLast (m : State) (c : Coll) : (m.setColl c).mbLast = m.mbLast := rfl
@[simp] theorem State.setColl_nodeSet (m : State) (c : Coll) : (m.setColl c).nodeSet = m.nodeSet := rfl
@[simp] theorem State.setColl_relays (m : State) (c : Coll) : (m.setColl c).relays = m.relays := rfl
@[simp] theorem State.setColl_mgmtRsp (m : State) (c : Coll) : (m.setColl c).mgmtRsp = m.mgmtRsp := rfl
@[simp] theorem State.setColl_smbOff (m : State) (c : Coll) : (m.setColl c).smbOff = m.smbOff := rfl
@[simp] theorem State.setColl_smbOut (m : State) (c : Coll) : (m.setColl c).smbOut = m.smbOut := rfl
@[simp] theorem State.setColl_jtagIr (m : State) (c : Coll) : (m.setColl c).jtagIr = m.jtagIr := rfl
@[simp] theorem State.setColl_jtagDr (m : State) (c : Coll) : (m.setColl c).jtagDr = m.jtagDr := rfl
@[simp] theorem State.setColl_busOut (m : State) (c : Coll) : (m.setColl c).busOut = m.busOut := rfl
@[simp] theorem State.setColl_lastLatch (m : State) (c : Coll) : (m.setColl c).lastLatch = m.lastLatch := rfl
@[simp] theorem State.setColl_slew (m : State) (c : Coll) : (m.setColl c).slew = m.slew := rfl
@[simp] theorem State.setColl_slow (m : State) (c : Coll) : (m.setColl c).slow = m.slow := rfl
@[simp] theorem State.setColl_frac (m : State) (c : Coll) : (m.setColl c).frac = m.frac := rfl
@[simp] theorem State.setColl_marginOn (m : State) (c : Coll) : (m.setColl c).marginOn = m.marginOn := rfl
@[simp] theorem State.setColl_nextId (m : State) (c : Coll) : (m.setColl c).nextId = m.nextId := rfl
@[simp] theorem State.setColl_free (m : State) (c : Coll) : (m.setColl c).free = m.free := rfl
@[simp] theorem State.setColl_pending (m : State) (c : Coll) : (m.setColl c).pending = m.pending := rfl
@[simp] theorem State.setColl_at_reg (m : State) (c : Coll) (o : Nat) : (m.setColl c).reg o = m.reg o := rfl
@[simp] theorem State.setColl_at_fld (m : State) (c : Coll) (e : Fld) : (m.setColl c).fld e = m.fld e := rfl
@[simp] theorem State.setColl_at_flag (m : State) (c : Coll) (e : Fld) : (m.setColl c).flag e = m.flag e := rfl
@[simp] theorem State.setColl_at_byte (m : State) (c : Coll) (addr : Nat) : (m.setColl c).byte addr = m.byte addr := rfl
@[simp] theorem State.setColl_at_bytes (m : State) (c : Coll) (addr len : Nat) : (m.setColl c).bytes addr len = m.bytes addr len := rfl

/-! ## setStep -/

@[simp] theorem State.setStep_regs (m : State) (n : Nat) (s : Step) : (m.setStep n s).regs = m.regs := rfl
@[simp] theorem State.setStep_snap (m : State) (n : Nat) (s : Step) : (m.setStep n s).snap = m.snap := rfl
@[simp] theorem State.setStep_mem (m : State) (n : Nat) (s : Step) : (m.setStep n s).mem = m.mem := rfl
@[simp] theorem State.setStep_poison (m : State) (n : Nat) (s : Step) : (m.setStep n s).poison = m.poison := rfl
@[simp] theorem State.setStep_stale (m : State) (n : Nat) (s : Step) : (m.setStep n s).stale = m.stale := rfl
@[simp] theorem State.setStep_stalePsn (m : State) (n : Nat) (s : Step) : (m.setStep n s).stalePsn = m.stalePsn := rfl
@[simp] theorem State.setStep_cache (m : State) (n : Nat) (s : Step) : (m.setStep n s).cache = m.cache := rfl
@[simp] theorem State.setStep_trayTags (m : State) (n : Nat) (s : Step) : (m.setStep n s).trayTags = m.trayTags := rfl
@[simp] theorem State.setStep_coreBytes (m : State) (n : Nat) (s : Step) : (m.setStep n s).coreBytes = m.coreBytes := rfl
@[simp] theorem State.setStep_mxScale (m : State) (n : Nat) (s : Step) : (m.setStep n s).mxScale = m.mxScale := rfl
@[simp] theorem State.setStep_pstage (m : State) (n : Nat) (s : Step) : (m.setStep n s).pstage = m.pstage := rfl
@[simp] theorem State.setStep_gens (m : State) (n : Nat) (s : Step) : (m.setStep n s).gens = m.gens := rfl
@[simp] theorem State.setStep_lslots (m : State) (n : Nat) (s : Step) : (m.setStep n s).lslots = m.lslots := rfl
@[simp] theorem State.setStep_queued (m : State) (n : Nat) (s : Step) : (m.setStep n s).queued = m.queued := rfl
@[simp] theorem State.setStep_launches (m : State) (n : Nat) (s : Step) : (m.setStep n s).launches = m.launches := rfl
@[simp] theorem State.setStep_lastFirst (m : State) (n : Nat) (s : Step) : (m.setStep n s).lastFirst = m.lastFirst := rfl
@[simp] theorem State.setStep_pcOver (m : State) (n : Nat) (s : Step) : (m.setStep n s).pcOver = m.pcOver := rfl
@[simp] theorem State.setStep_holds (m : State) (n : Nat) (s : Step) : (m.setStep n s).holds = m.holds := rfl
@[simp] theorem State.setStep_xfers (m : State) (n : Nat) (s : Step) : (m.setStep n s).xfers = m.xfers := rfl
@[simp] theorem State.setStep_gops (m : State) (n : Nat) (s : Step) : (m.setStep n s).gops = m.gops := rfl
@[simp] theorem State.setStep_spks (m : State) (n : Nat) (s : Step) : (m.setStep n s).spks = m.spks := rfl
@[simp] theorem State.setStep_norms (m : State) (n : Nat) (s : Step) : (m.setStep n s).norms = m.norms := rfl
@[simp] theorem State.setStep_dispatches (m : State) (n : Nat) (s : Step) : (m.setStep n s).dispatches = m.dispatches := rfl
@[simp] theorem State.setStep_vt (m : State) (n : Nat) (s : Step) : (m.setStep n s).vt = m.vt := rfl
@[simp] theorem State.setStep_justReady (m : State) (n : Nat) (s : Step) : (m.setStep n s).justReady = m.justReady := rfl
@[simp] theorem State.setStep_whisks (m : State) (n : Nat) (s : Step) : (m.setStep n s).whisks = m.whisks := rfl
@[simp] theorem State.setStep_tongs (m : State) (n : Nat) (s : Step) : (m.setStep n s).tongs = m.tongs := rfl
@[simp] theorem State.setStep_mortars (m : State) (n : Nat) (s : Step) : (m.setStep n s).mortars = m.mortars := rfl
@[simp] theorem State.setStep_tdones (m : State) (n : Nat) (s : Step) : (m.setStep n s).tdones = m.tdones := rfl
@[simp] theorem State.setStep_watches (m : State) (n : Nat) (s : Step) : (m.setStep n s).watches = m.watches := rfl
@[simp] theorem State.setStep_notes (m : State) (n : Nat) (s : Step) : (m.setStep n s).notes = m.notes := rfl
@[simp] theorem State.setStep_entrants (m : State) (n : Nat) (s : Step) : (m.setStep n s).entrants = m.entrants := rfl
@[simp] theorem State.setStep_links (m : State) (n : Nat) (s : Step) : (m.setStep n s).links = m.links := rfl
@[simp] theorem State.setStep_reqs (m : State) (n : Nat) (s : Step) : (m.setStep n s).reqs = m.reqs := rfl
@[simp] theorem State.setStep_outq (m : State) (n : Nat) (s : Step) : (m.setStep n s).outq = m.outq := rfl
@[simp] theorem State.setStep_rbufs (m : State) (n : Nat) (s : Step) : (m.setStep n s).rbufs = m.rbufs := rfl
@[simp] theorem State.setStep_routes (m : State) (n : Nat) (s : Step) : (m.setStep n s).routes = m.routes := rfl
@[simp] theorem State.setStep_groups (m : State) (n : Nat) (s : Step) : (m.setStep n s).groups = m.groups := rfl
@[simp] theorem State.setStep_grpSeen (m : State) (n : Nat) (s : Step) : (m.setStep n s).grpSeen = m.grpSeen := rfl
@[simp] theorem State.setStep_grpSeq (m : State) (n : Nat) (s : Step) : (m.setStep n s).grpSeq = m.grpSeq := rfl
@[simp] theorem State.setStep_colls (m : State) (n : Nat) (s : Step) : (m.setStep n s).colls = m.colls := rfl
@[simp] theorem State.setStep_verdicts (m : State) (n : Nat) (s : Step) : (m.setStep n s).verdicts = m.verdicts := rfl
@[simp] theorem State.setStep_events (m : State) (n : Nat) (s : Step) : (m.setStep n s).events = m.events := rfl
@[simp] theorem State.setStep_lossPages (m : State) (n : Nat) (s : Step) : (m.setStep n s).lossPages = m.lossPages := rfl
@[simp] theorem State.setStep_hist (m : State) (n : Nat) (s : Step) : (m.setStep n s).hist = m.hist := rfl
@[simp] theorem State.setStep_alert (m : State) (n : Nat) (s : Step) : (m.setStep n s).alert = m.alert := rfl
@[simp] theorem State.setStep_msix (m : State) (n : Nat) (s : Step) : (m.setStep n s).msix = m.msix := rfl
@[simp] theorem State.setStep_coreIrq (m : State) (n : Nat) (s : Step) : (m.setStep n s).coreIrq = m.coreIrq := rfl
@[simp] theorem State.setStep_buckets (m : State) (n : Nat) (s : Step) : (m.setStep n s).buckets = m.buckets := rfl
@[simp] theorem State.setStep_rsvBytes (m : State) (n : Nat) (s : Step) : (m.setStep n s).rsvBytes = m.rsvBytes := rfl
@[simp] theorem State.setStep_flight (m : State) (n : Nat) (s : Step) : (m.setStep n s).flight = m.flight := rfl
@[simp] theorem State.setStep_hbmOut (m : State) (n : Nat) (s : Step) : (m.setStep n s).hbmOut = m.hbmOut := rfl
@[simp] theorem State.setStep_resets (m : State) (n : Nat) (s : Step) : (m.setStep n s).resets = m.resets := rfl
@[simp] theorem State.setStep_bells (m : State) (n : Nat) (s : Step) : (m.setStep n s).bells = m.bells := rfl
@[simp] theorem State.setStep_engResets (m : State) (n : Nat) (s : Step) : (m.setStep n s).engResets = m.engResets := rfl
@[simp] theorem State.setStep_flushes (m : State) (n : Nat) (s : Step) : (m.setStep n s).flushes = m.flushes := rfl
@[simp] theorem State.setStep_zeroing (m : State) (n : Nat) (s : Step) : (m.setStep n s).zeroing = m.zeroing := rfl
@[simp] theorem State.setStep_power (m : State) (n : Nat) (s : Step) : (m.setStep n s).power = m.power := rfl
@[simp] theorem State.setStep_pins (m : State) (n : Nat) (s : Step) : (m.setStep n s).pins = m.pins := rfl
@[simp] theorem State.setStep_alive (m : State) (n : Nat) (s : Step) : (m.setStep n s).alive = m.alive := rfl
@[simp] theorem State.setStep_cores (m : State) (n : Nat) (s : Step) : (m.setStep n s).cores = m.cores := rfl
@[simp] theorem State.setStep_fuses (m : State) (n : Nat) (s : Step) : (m.setStep n s).fuses = m.fuses := rfl
@[simp] theorem State.setStep_flash (m : State) (n : Nat) (s : Step) : (m.setStep n s).flash = m.flash := rfl
@[simp] theorem State.setStep_session (m : State) (n : Nat) (s : Step) : (m.setStep n s).session = m.session := rfl
@[simp] theorem State.setStep_hoCopy (m : State) (n : Nat) (s : Step) : (m.setStep n s).hoCopy = m.hoCopy := rfl
@[simp] theorem State.setStep_hoOpen (m : State) (n : Nat) (s : Step) : (m.setStep n s).hoOpen = m.hoOpen := rfl
@[simp] theorem State.setStep_hoSave (m : State) (n : Nat) (s : Step) : (m.setStep n s).hoSave = m.hoSave := rfl
@[simp] theorem State.setStep_hoValid (m : State) (n : Nat) (s : Step) : (m.setStep n s).hoValid = m.hoValid := rfl
@[simp] theorem State.setStep_svcRun (m : State) (n : Nat) (s : Step) : (m.setStep n s).svcRun = m.svcRun := rfl
@[simp] theorem State.setStep_tSvn (m : State) (n : Nat) (s : Step) : (m.setStep n s).tSvn = m.tSvn := rfl
@[simp] theorem State.setStep_sSvn (m : State) (n : Nat) (s : Step) : (m.setStep n s).sSvn = m.sSvn := rfl
@[simp] theorem State.setStep_stagedT (m : State) (n : Nat) (s : Step) : (m.setStep n s).stagedT = m.stagedT := rfl
@[simp] theorem State.setStep_stagedS (m : State) (n : Nat) (s : Step) : (m.setStep n s).stagedS = m.stagedS := rfl
@[simp] theorem State.setStep_mbLast (m : State) (n : Nat) (s : Step) : (m.setStep n s).mbLast = m.mbLast := rfl
@[simp] theorem State.setStep_nodeSet (m : State) (n : Nat) (s : Step) : (m.setStep n s).nodeSet = m.nodeSet := rfl
@[simp] theorem State.setStep_relays (m : State) (n : Nat) (s : Step) : (m.setStep n s).relays = m.relays := rfl
@[simp] theorem State.setStep_mgmtRsp (m : State) (n : Nat) (s : Step) : (m.setStep n s).mgmtRsp = m.mgmtRsp := rfl
@[simp] theorem State.setStep_smbOff (m : State) (n : Nat) (s : Step) : (m.setStep n s).smbOff = m.smbOff := rfl
@[simp] theorem State.setStep_smbOut (m : State) (n : Nat) (s : Step) : (m.setStep n s).smbOut = m.smbOut := rfl
@[simp] theorem State.setStep_jtagIr (m : State) (n : Nat) (s : Step) : (m.setStep n s).jtagIr = m.jtagIr := rfl
@[simp] theorem State.setStep_jtagDr (m : State) (n : Nat) (s : Step) : (m.setStep n s).jtagDr = m.jtagDr := rfl
@[simp] theorem State.setStep_busOut (m : State) (n : Nat) (s : Step) : (m.setStep n s).busOut = m.busOut := rfl
@[simp] theorem State.setStep_lastLatch (m : State) (n : Nat) (s : Step) : (m.setStep n s).lastLatch = m.lastLatch := rfl
@[simp] theorem State.setStep_slew (m : State) (n : Nat) (s : Step) : (m.setStep n s).slew = m.slew := rfl
@[simp] theorem State.setStep_slow (m : State) (n : Nat) (s : Step) : (m.setStep n s).slow = m.slow := rfl
@[simp] theorem State.setStep_frac (m : State) (n : Nat) (s : Step) : (m.setStep n s).frac = m.frac := rfl
@[simp] theorem State.setStep_marginOn (m : State) (n : Nat) (s : Step) : (m.setStep n s).marginOn = m.marginOn := rfl
@[simp] theorem State.setStep_nextId (m : State) (n : Nat) (s : Step) : (m.setStep n s).nextId = m.nextId := rfl
@[simp] theorem State.setStep_free (m : State) (n : Nat) (s : Step) : (m.setStep n s).free = m.free := rfl
@[simp] theorem State.setStep_pending (m : State) (n : Nat) (s : Step) : (m.setStep n s).pending = m.pending := rfl
@[simp] theorem State.setStep_at_reg (m : State) (n : Nat) (s : Step) (o : Nat) : (m.setStep n s).reg o = m.reg o := rfl
@[simp] theorem State.setStep_at_fld (m : State) (n : Nat) (s : Step) (e : Fld) : (m.setStep n s).fld e = m.fld e := rfl
@[simp] theorem State.setStep_at_flag (m : State) (n : Nat) (s : Step) (e : Fld) : (m.setStep n s).flag e = m.flag e := rfl
@[simp] theorem State.setStep_at_byte (m : State) (n : Nat) (s : Step) (addr : Nat) : (m.setStep n s).byte addr = m.byte addr := rfl
@[simp] theorem State.setStep_at_bytes (m : State) (n : Nat) (s : Step) (addr len : Nat) : (m.setStep n s).bytes addr len = m.bytes addr len := rfl

/-! ## setCore -/

@[simp] theorem State.setCore_regs (m : State) (c : Nat) (x : CoreSt) : (m.setCore c x).regs = m.regs := rfl
@[simp] theorem State.setCore_snap (m : State) (c : Nat) (x : CoreSt) : (m.setCore c x).snap = m.snap := rfl
@[simp] theorem State.setCore_mem (m : State) (c : Nat) (x : CoreSt) : (m.setCore c x).mem = m.mem := rfl
@[simp] theorem State.setCore_poison (m : State) (c : Nat) (x : CoreSt) : (m.setCore c x).poison = m.poison := rfl
@[simp] theorem State.setCore_stale (m : State) (c : Nat) (x : CoreSt) : (m.setCore c x).stale = m.stale := rfl
@[simp] theorem State.setCore_stalePsn (m : State) (c : Nat) (x : CoreSt) : (m.setCore c x).stalePsn = m.stalePsn := rfl
@[simp] theorem State.setCore_cache (m : State) (c : Nat) (x : CoreSt) : (m.setCore c x).cache = m.cache := rfl
@[simp] theorem State.setCore_trayTags (m : State) (c : Nat) (x : CoreSt) : (m.setCore c x).trayTags = m.trayTags := rfl
@[simp] theorem State.setCore_coreBytes (m : State) (c : Nat) (x : CoreSt) : (m.setCore c x).coreBytes = m.coreBytes := rfl
@[simp] theorem State.setCore_mxScale (m : State) (c : Nat) (x : CoreSt) : (m.setCore c x).mxScale = m.mxScale := rfl
@[simp] theorem State.setCore_pstage (m : State) (c : Nat) (x : CoreSt) : (m.setCore c x).pstage = m.pstage := rfl
@[simp] theorem State.setCore_gens (m : State) (c : Nat) (x : CoreSt) : (m.setCore c x).gens = m.gens := rfl
@[simp] theorem State.setCore_lslots (m : State) (c : Nat) (x : CoreSt) : (m.setCore c x).lslots = m.lslots := rfl
@[simp] theorem State.setCore_queued (m : State) (c : Nat) (x : CoreSt) : (m.setCore c x).queued = m.queued := rfl
@[simp] theorem State.setCore_launches (m : State) (c : Nat) (x : CoreSt) : (m.setCore c x).launches = m.launches := rfl
@[simp] theorem State.setCore_lastFirst (m : State) (c : Nat) (x : CoreSt) : (m.setCore c x).lastFirst = m.lastFirst := rfl
@[simp] theorem State.setCore_pcOver (m : State) (c : Nat) (x : CoreSt) : (m.setCore c x).pcOver = m.pcOver := rfl
@[simp] theorem State.setCore_holds (m : State) (c : Nat) (x : CoreSt) : (m.setCore c x).holds = m.holds := rfl
@[simp] theorem State.setCore_xfers (m : State) (c : Nat) (x : CoreSt) : (m.setCore c x).xfers = m.xfers := rfl
@[simp] theorem State.setCore_gops (m : State) (c : Nat) (x : CoreSt) : (m.setCore c x).gops = m.gops := rfl
@[simp] theorem State.setCore_spks (m : State) (c : Nat) (x : CoreSt) : (m.setCore c x).spks = m.spks := rfl
@[simp] theorem State.setCore_norms (m : State) (c : Nat) (x : CoreSt) : (m.setCore c x).norms = m.norms := rfl
@[simp] theorem State.setCore_dispatches (m : State) (c : Nat) (x : CoreSt) : (m.setCore c x).dispatches = m.dispatches := rfl
@[simp] theorem State.setCore_vt (m : State) (c : Nat) (x : CoreSt) : (m.setCore c x).vt = m.vt := rfl
@[simp] theorem State.setCore_justReady (m : State) (c : Nat) (x : CoreSt) : (m.setCore c x).justReady = m.justReady := rfl
@[simp] theorem State.setCore_whisks (m : State) (c : Nat) (x : CoreSt) : (m.setCore c x).whisks = m.whisks := rfl
@[simp] theorem State.setCore_tongs (m : State) (c : Nat) (x : CoreSt) : (m.setCore c x).tongs = m.tongs := rfl
@[simp] theorem State.setCore_mortars (m : State) (c : Nat) (x : CoreSt) : (m.setCore c x).mortars = m.mortars := rfl
@[simp] theorem State.setCore_tdones (m : State) (c : Nat) (x : CoreSt) : (m.setCore c x).tdones = m.tdones := rfl
@[simp] theorem State.setCore_watches (m : State) (c : Nat) (x : CoreSt) : (m.setCore c x).watches = m.watches := rfl
@[simp] theorem State.setCore_notes (m : State) (c : Nat) (x : CoreSt) : (m.setCore c x).notes = m.notes := rfl
@[simp] theorem State.setCore_entrants (m : State) (c : Nat) (x : CoreSt) : (m.setCore c x).entrants = m.entrants := rfl
@[simp] theorem State.setCore_links (m : State) (c : Nat) (x : CoreSt) : (m.setCore c x).links = m.links := rfl
@[simp] theorem State.setCore_reqs (m : State) (c : Nat) (x : CoreSt) : (m.setCore c x).reqs = m.reqs := rfl
@[simp] theorem State.setCore_outq (m : State) (c : Nat) (x : CoreSt) : (m.setCore c x).outq = m.outq := rfl
@[simp] theorem State.setCore_rbufs (m : State) (c : Nat) (x : CoreSt) : (m.setCore c x).rbufs = m.rbufs := rfl
@[simp] theorem State.setCore_routes (m : State) (c : Nat) (x : CoreSt) : (m.setCore c x).routes = m.routes := rfl
@[simp] theorem State.setCore_groups (m : State) (c : Nat) (x : CoreSt) : (m.setCore c x).groups = m.groups := rfl
@[simp] theorem State.setCore_grpSeen (m : State) (c : Nat) (x : CoreSt) : (m.setCore c x).grpSeen = m.grpSeen := rfl
@[simp] theorem State.setCore_grpSeq (m : State) (c : Nat) (x : CoreSt) : (m.setCore c x).grpSeq = m.grpSeq := rfl
@[simp] theorem State.setCore_colls (m : State) (c : Nat) (x : CoreSt) : (m.setCore c x).colls = m.colls := rfl
@[simp] theorem State.setCore_verdicts (m : State) (c : Nat) (x : CoreSt) : (m.setCore c x).verdicts = m.verdicts := rfl
@[simp] theorem State.setCore_steps (m : State) (c : Nat) (x : CoreSt) : (m.setCore c x).steps = m.steps := rfl
@[simp] theorem State.setCore_events (m : State) (c : Nat) (x : CoreSt) : (m.setCore c x).events = m.events := rfl
@[simp] theorem State.setCore_lossPages (m : State) (c : Nat) (x : CoreSt) : (m.setCore c x).lossPages = m.lossPages := rfl
@[simp] theorem State.setCore_hist (m : State) (c : Nat) (x : CoreSt) : (m.setCore c x).hist = m.hist := rfl
@[simp] theorem State.setCore_alert (m : State) (c : Nat) (x : CoreSt) : (m.setCore c x).alert = m.alert := rfl
@[simp] theorem State.setCore_msix (m : State) (c : Nat) (x : CoreSt) : (m.setCore c x).msix = m.msix := rfl
@[simp] theorem State.setCore_coreIrq (m : State) (c : Nat) (x : CoreSt) : (m.setCore c x).coreIrq = m.coreIrq := rfl
@[simp] theorem State.setCore_buckets (m : State) (c : Nat) (x : CoreSt) : (m.setCore c x).buckets = m.buckets := rfl
@[simp] theorem State.setCore_rsvBytes (m : State) (c : Nat) (x : CoreSt) : (m.setCore c x).rsvBytes = m.rsvBytes := rfl
@[simp] theorem State.setCore_flight (m : State) (c : Nat) (x : CoreSt) : (m.setCore c x).flight = m.flight := rfl
@[simp] theorem State.setCore_hbmOut (m : State) (c : Nat) (x : CoreSt) : (m.setCore c x).hbmOut = m.hbmOut := rfl
@[simp] theorem State.setCore_resets (m : State) (c : Nat) (x : CoreSt) : (m.setCore c x).resets = m.resets := rfl
@[simp] theorem State.setCore_bells (m : State) (c : Nat) (x : CoreSt) : (m.setCore c x).bells = m.bells := rfl
@[simp] theorem State.setCore_engResets (m : State) (c : Nat) (x : CoreSt) : (m.setCore c x).engResets = m.engResets := rfl
@[simp] theorem State.setCore_flushes (m : State) (c : Nat) (x : CoreSt) : (m.setCore c x).flushes = m.flushes := rfl
@[simp] theorem State.setCore_zeroing (m : State) (c : Nat) (x : CoreSt) : (m.setCore c x).zeroing = m.zeroing := rfl
@[simp] theorem State.setCore_power (m : State) (c : Nat) (x : CoreSt) : (m.setCore c x).power = m.power := rfl
@[simp] theorem State.setCore_pins (m : State) (c : Nat) (x : CoreSt) : (m.setCore c x).pins = m.pins := rfl
@[simp] theorem State.setCore_alive (m : State) (c : Nat) (x : CoreSt) : (m.setCore c x).alive = m.alive := rfl
@[simp] theorem State.setCore_fuses (m : State) (c : Nat) (x : CoreSt) : (m.setCore c x).fuses = m.fuses := rfl
@[simp] theorem State.setCore_flash (m : State) (c : Nat) (x : CoreSt) : (m.setCore c x).flash = m.flash := rfl
@[simp] theorem State.setCore_session (m : State) (c : Nat) (x : CoreSt) : (m.setCore c x).session = m.session := rfl
@[simp] theorem State.setCore_hoCopy (m : State) (c : Nat) (x : CoreSt) : (m.setCore c x).hoCopy = m.hoCopy := rfl
@[simp] theorem State.setCore_hoOpen (m : State) (c : Nat) (x : CoreSt) : (m.setCore c x).hoOpen = m.hoOpen := rfl
@[simp] theorem State.setCore_hoSave (m : State) (c : Nat) (x : CoreSt) : (m.setCore c x).hoSave = m.hoSave := rfl
@[simp] theorem State.setCore_hoValid (m : State) (c : Nat) (x : CoreSt) : (m.setCore c x).hoValid = m.hoValid := rfl
@[simp] theorem State.setCore_svcRun (m : State) (c : Nat) (x : CoreSt) : (m.setCore c x).svcRun = m.svcRun := rfl
@[simp] theorem State.setCore_tSvn (m : State) (c : Nat) (x : CoreSt) : (m.setCore c x).tSvn = m.tSvn := rfl
@[simp] theorem State.setCore_sSvn (m : State) (c : Nat) (x : CoreSt) : (m.setCore c x).sSvn = m.sSvn := rfl
@[simp] theorem State.setCore_stagedT (m : State) (c : Nat) (x : CoreSt) : (m.setCore c x).stagedT = m.stagedT := rfl
@[simp] theorem State.setCore_stagedS (m : State) (c : Nat) (x : CoreSt) : (m.setCore c x).stagedS = m.stagedS := rfl
@[simp] theorem State.setCore_mbLast (m : State) (c : Nat) (x : CoreSt) : (m.setCore c x).mbLast = m.mbLast := rfl
@[simp] theorem State.setCore_nodeSet (m : State) (c : Nat) (x : CoreSt) : (m.setCore c x).nodeSet = m.nodeSet := rfl
@[simp] theorem State.setCore_relays (m : State) (c : Nat) (x : CoreSt) : (m.setCore c x).relays = m.relays := rfl
@[simp] theorem State.setCore_mgmtRsp (m : State) (c : Nat) (x : CoreSt) : (m.setCore c x).mgmtRsp = m.mgmtRsp := rfl
@[simp] theorem State.setCore_smbOff (m : State) (c : Nat) (x : CoreSt) : (m.setCore c x).smbOff = m.smbOff := rfl
@[simp] theorem State.setCore_smbOut (m : State) (c : Nat) (x : CoreSt) : (m.setCore c x).smbOut = m.smbOut := rfl
@[simp] theorem State.setCore_jtagIr (m : State) (c : Nat) (x : CoreSt) : (m.setCore c x).jtagIr = m.jtagIr := rfl
@[simp] theorem State.setCore_jtagDr (m : State) (c : Nat) (x : CoreSt) : (m.setCore c x).jtagDr = m.jtagDr := rfl
@[simp] theorem State.setCore_busOut (m : State) (c : Nat) (x : CoreSt) : (m.setCore c x).busOut = m.busOut := rfl
@[simp] theorem State.setCore_lastLatch (m : State) (c : Nat) (x : CoreSt) : (m.setCore c x).lastLatch = m.lastLatch := rfl
@[simp] theorem State.setCore_slew (m : State) (c : Nat) (x : CoreSt) : (m.setCore c x).slew = m.slew := rfl
@[simp] theorem State.setCore_slow (m : State) (c : Nat) (x : CoreSt) : (m.setCore c x).slow = m.slow := rfl
@[simp] theorem State.setCore_frac (m : State) (c : Nat) (x : CoreSt) : (m.setCore c x).frac = m.frac := rfl
@[simp] theorem State.setCore_marginOn (m : State) (c : Nat) (x : CoreSt) : (m.setCore c x).marginOn = m.marginOn := rfl
@[simp] theorem State.setCore_nextId (m : State) (c : Nat) (x : CoreSt) : (m.setCore c x).nextId = m.nextId := rfl
@[simp] theorem State.setCore_free (m : State) (c : Nat) (x : CoreSt) : (m.setCore c x).free = m.free := rfl
@[simp] theorem State.setCore_pending (m : State) (c : Nat) (x : CoreSt) : (m.setCore c x).pending = m.pending := rfl
@[simp] theorem State.setCore_at_reg (m : State) (c : Nat) (x : CoreSt) (o : Nat) : (m.setCore c x).reg o = m.reg o := rfl
@[simp] theorem State.setCore_at_fld (m : State) (c : Nat) (x : CoreSt) (e : Fld) : (m.setCore c x).fld e = m.fld e := rfl
@[simp] theorem State.setCore_at_flag (m : State) (c : Nat) (x : CoreSt) (e : Fld) : (m.setCore c x).flag e = m.flag e := rfl
@[simp] theorem State.setCore_at_byte (m : State) (c : Nat) (x : CoreSt) (addr : Nat) : (m.setCore c x).byte addr = m.byte addr := rfl
@[simp] theorem State.setCore_at_bytes (m : State) (c : Nat) (x : CoreSt) (addr len : Nat) : (m.setCore c x).bytes addr len = m.bytes addr len := rfl

/-! ## irqHost -/

@[simp] theorem State.irqHost_regs (m : State) (v : Nat) : (m.irqHost v).regs = m.regs := rfl
@[simp] theorem State.irqHost_snap (m : State) (v : Nat) : (m.irqHost v).snap = m.snap := rfl
@[simp] theorem State.irqHost_mem (m : State) (v : Nat) : (m.irqHost v).mem = m.mem := rfl
@[simp] theorem State.irqHost_poison (m : State) (v : Nat) : (m.irqHost v).poison = m.poison := rfl
@[simp] theorem State.irqHost_stale (m : State) (v : Nat) : (m.irqHost v).stale = m.stale := rfl
@[simp] theorem State.irqHost_stalePsn (m : State) (v : Nat) : (m.irqHost v).stalePsn = m.stalePsn := rfl
@[simp] theorem State.irqHost_cache (m : State) (v : Nat) : (m.irqHost v).cache = m.cache := rfl
@[simp] theorem State.irqHost_trayTags (m : State) (v : Nat) : (m.irqHost v).trayTags = m.trayTags := rfl
@[simp] theorem State.irqHost_coreBytes (m : State) (v : Nat) : (m.irqHost v).coreBytes = m.coreBytes := rfl
@[simp] theorem State.irqHost_mxScale (m : State) (v : Nat) : (m.irqHost v).mxScale = m.mxScale := rfl
@[simp] theorem State.irqHost_pstage (m : State) (v : Nat) : (m.irqHost v).pstage = m.pstage := rfl
@[simp] theorem State.irqHost_gens (m : State) (v : Nat) : (m.irqHost v).gens = m.gens := rfl
@[simp] theorem State.irqHost_lslots (m : State) (v : Nat) : (m.irqHost v).lslots = m.lslots := rfl
@[simp] theorem State.irqHost_queued (m : State) (v : Nat) : (m.irqHost v).queued = m.queued := rfl
@[simp] theorem State.irqHost_launches (m : State) (v : Nat) : (m.irqHost v).launches = m.launches := rfl
@[simp] theorem State.irqHost_lastFirst (m : State) (v : Nat) : (m.irqHost v).lastFirst = m.lastFirst := rfl
@[simp] theorem State.irqHost_pcOver (m : State) (v : Nat) : (m.irqHost v).pcOver = m.pcOver := rfl
@[simp] theorem State.irqHost_holds (m : State) (v : Nat) : (m.irqHost v).holds = m.holds := rfl
@[simp] theorem State.irqHost_xfers (m : State) (v : Nat) : (m.irqHost v).xfers = m.xfers := rfl
@[simp] theorem State.irqHost_gops (m : State) (v : Nat) : (m.irqHost v).gops = m.gops := rfl
@[simp] theorem State.irqHost_spks (m : State) (v : Nat) : (m.irqHost v).spks = m.spks := rfl
@[simp] theorem State.irqHost_norms (m : State) (v : Nat) : (m.irqHost v).norms = m.norms := rfl
@[simp] theorem State.irqHost_dispatches (m : State) (v : Nat) : (m.irqHost v).dispatches = m.dispatches := rfl
@[simp] theorem State.irqHost_vt (m : State) (v : Nat) : (m.irqHost v).vt = m.vt := rfl
@[simp] theorem State.irqHost_justReady (m : State) (v : Nat) : (m.irqHost v).justReady = m.justReady := rfl
@[simp] theorem State.irqHost_whisks (m : State) (v : Nat) : (m.irqHost v).whisks = m.whisks := rfl
@[simp] theorem State.irqHost_tongs (m : State) (v : Nat) : (m.irqHost v).tongs = m.tongs := rfl
@[simp] theorem State.irqHost_mortars (m : State) (v : Nat) : (m.irqHost v).mortars = m.mortars := rfl
@[simp] theorem State.irqHost_tdones (m : State) (v : Nat) : (m.irqHost v).tdones = m.tdones := rfl
@[simp] theorem State.irqHost_watches (m : State) (v : Nat) : (m.irqHost v).watches = m.watches := rfl
@[simp] theorem State.irqHost_notes (m : State) (v : Nat) : (m.irqHost v).notes = m.notes := rfl
@[simp] theorem State.irqHost_entrants (m : State) (v : Nat) : (m.irqHost v).entrants = m.entrants := rfl
@[simp] theorem State.irqHost_links (m : State) (v : Nat) : (m.irqHost v).links = m.links := rfl
@[simp] theorem State.irqHost_reqs (m : State) (v : Nat) : (m.irqHost v).reqs = m.reqs := rfl
@[simp] theorem State.irqHost_outq (m : State) (v : Nat) : (m.irqHost v).outq = m.outq := rfl
@[simp] theorem State.irqHost_rbufs (m : State) (v : Nat) : (m.irqHost v).rbufs = m.rbufs := rfl
@[simp] theorem State.irqHost_routes (m : State) (v : Nat) : (m.irqHost v).routes = m.routes := rfl
@[simp] theorem State.irqHost_groups (m : State) (v : Nat) : (m.irqHost v).groups = m.groups := rfl
@[simp] theorem State.irqHost_grpSeen (m : State) (v : Nat) : (m.irqHost v).grpSeen = m.grpSeen := rfl
@[simp] theorem State.irqHost_grpSeq (m : State) (v : Nat) : (m.irqHost v).grpSeq = m.grpSeq := rfl
@[simp] theorem State.irqHost_colls (m : State) (v : Nat) : (m.irqHost v).colls = m.colls := rfl
@[simp] theorem State.irqHost_verdicts (m : State) (v : Nat) : (m.irqHost v).verdicts = m.verdicts := rfl
@[simp] theorem State.irqHost_steps (m : State) (v : Nat) : (m.irqHost v).steps = m.steps := rfl
@[simp] theorem State.irqHost_events (m : State) (v : Nat) : (m.irqHost v).events = m.events := rfl
@[simp] theorem State.irqHost_lossPages (m : State) (v : Nat) : (m.irqHost v).lossPages = m.lossPages := rfl
@[simp] theorem State.irqHost_hist (m : State) (v : Nat) : (m.irqHost v).hist = m.hist := rfl
@[simp] theorem State.irqHost_alert (m : State) (v : Nat) : (m.irqHost v).alert = m.alert := rfl
@[simp] theorem State.irqHost_coreIrq (m : State) (v : Nat) : (m.irqHost v).coreIrq = m.coreIrq := rfl
@[simp] theorem State.irqHost_buckets (m : State) (v : Nat) : (m.irqHost v).buckets = m.buckets := rfl
@[simp] theorem State.irqHost_rsvBytes (m : State) (v : Nat) : (m.irqHost v).rsvBytes = m.rsvBytes := rfl
@[simp] theorem State.irqHost_flight (m : State) (v : Nat) : (m.irqHost v).flight = m.flight := rfl
@[simp] theorem State.irqHost_hbmOut (m : State) (v : Nat) : (m.irqHost v).hbmOut = m.hbmOut := rfl
@[simp] theorem State.irqHost_resets (m : State) (v : Nat) : (m.irqHost v).resets = m.resets := rfl
@[simp] theorem State.irqHost_bells (m : State) (v : Nat) : (m.irqHost v).bells = m.bells := rfl
@[simp] theorem State.irqHost_engResets (m : State) (v : Nat) : (m.irqHost v).engResets = m.engResets := rfl
@[simp] theorem State.irqHost_flushes (m : State) (v : Nat) : (m.irqHost v).flushes = m.flushes := rfl
@[simp] theorem State.irqHost_zeroing (m : State) (v : Nat) : (m.irqHost v).zeroing = m.zeroing := rfl
@[simp] theorem State.irqHost_power (m : State) (v : Nat) : (m.irqHost v).power = m.power := rfl
@[simp] theorem State.irqHost_pins (m : State) (v : Nat) : (m.irqHost v).pins = m.pins := rfl
@[simp] theorem State.irqHost_alive (m : State) (v : Nat) : (m.irqHost v).alive = m.alive := rfl
@[simp] theorem State.irqHost_cores (m : State) (v : Nat) : (m.irqHost v).cores = m.cores := rfl
@[simp] theorem State.irqHost_fuses (m : State) (v : Nat) : (m.irqHost v).fuses = m.fuses := rfl
@[simp] theorem State.irqHost_flash (m : State) (v : Nat) : (m.irqHost v).flash = m.flash := rfl
@[simp] theorem State.irqHost_session (m : State) (v : Nat) : (m.irqHost v).session = m.session := rfl
@[simp] theorem State.irqHost_hoCopy (m : State) (v : Nat) : (m.irqHost v).hoCopy = m.hoCopy := rfl
@[simp] theorem State.irqHost_hoOpen (m : State) (v : Nat) : (m.irqHost v).hoOpen = m.hoOpen := rfl
@[simp] theorem State.irqHost_hoSave (m : State) (v : Nat) : (m.irqHost v).hoSave = m.hoSave := rfl
@[simp] theorem State.irqHost_hoValid (m : State) (v : Nat) : (m.irqHost v).hoValid = m.hoValid := rfl
@[simp] theorem State.irqHost_svcRun (m : State) (v : Nat) : (m.irqHost v).svcRun = m.svcRun := rfl
@[simp] theorem State.irqHost_tSvn (m : State) (v : Nat) : (m.irqHost v).tSvn = m.tSvn := rfl
@[simp] theorem State.irqHost_sSvn (m : State) (v : Nat) : (m.irqHost v).sSvn = m.sSvn := rfl
@[simp] theorem State.irqHost_stagedT (m : State) (v : Nat) : (m.irqHost v).stagedT = m.stagedT := rfl
@[simp] theorem State.irqHost_stagedS (m : State) (v : Nat) : (m.irqHost v).stagedS = m.stagedS := rfl
@[simp] theorem State.irqHost_mbLast (m : State) (v : Nat) : (m.irqHost v).mbLast = m.mbLast := rfl
@[simp] theorem State.irqHost_nodeSet (m : State) (v : Nat) : (m.irqHost v).nodeSet = m.nodeSet := rfl
@[simp] theorem State.irqHost_relays (m : State) (v : Nat) : (m.irqHost v).relays = m.relays := rfl
@[simp] theorem State.irqHost_mgmtRsp (m : State) (v : Nat) : (m.irqHost v).mgmtRsp = m.mgmtRsp := rfl
@[simp] theorem State.irqHost_smbOff (m : State) (v : Nat) : (m.irqHost v).smbOff = m.smbOff := rfl
@[simp] theorem State.irqHost_smbOut (m : State) (v : Nat) : (m.irqHost v).smbOut = m.smbOut := rfl
@[simp] theorem State.irqHost_jtagIr (m : State) (v : Nat) : (m.irqHost v).jtagIr = m.jtagIr := rfl
@[simp] theorem State.irqHost_jtagDr (m : State) (v : Nat) : (m.irqHost v).jtagDr = m.jtagDr := rfl
@[simp] theorem State.irqHost_busOut (m : State) (v : Nat) : (m.irqHost v).busOut = m.busOut := rfl
@[simp] theorem State.irqHost_lastLatch (m : State) (v : Nat) : (m.irqHost v).lastLatch = m.lastLatch := rfl
@[simp] theorem State.irqHost_slew (m : State) (v : Nat) : (m.irqHost v).slew = m.slew := rfl
@[simp] theorem State.irqHost_slow (m : State) (v : Nat) : (m.irqHost v).slow = m.slow := rfl
@[simp] theorem State.irqHost_frac (m : State) (v : Nat) : (m.irqHost v).frac = m.frac := rfl
@[simp] theorem State.irqHost_marginOn (m : State) (v : Nat) : (m.irqHost v).marginOn = m.marginOn := rfl
@[simp] theorem State.irqHost_nextId (m : State) (v : Nat) : (m.irqHost v).nextId = m.nextId := rfl
@[simp] theorem State.irqHost_free (m : State) (v : Nat) : (m.irqHost v).free = m.free := rfl
@[simp] theorem State.irqHost_pending (m : State) (v : Nat) : (m.irqHost v).pending = m.pending := rfl
@[simp] theorem State.irqHost_at_reg (m : State) (v : Nat) (o : Nat) : (m.irqHost v).reg o = m.reg o := rfl
@[simp] theorem State.irqHost_at_fld (m : State) (v : Nat) (e : Fld) : (m.irqHost v).fld e = m.fld e := rfl
@[simp] theorem State.irqHost_at_flag (m : State) (v : Nat) (e : Fld) : (m.irqHost v).flag e = m.flag e := rfl
@[simp] theorem State.irqHost_at_byte (m : State) (v : Nat) (addr : Nat) : (m.irqHost v).byte addr = m.byte addr := rfl
@[simp] theorem State.irqHost_at_bytes (m : State) (v : Nat) (addr len : Nat) : (m.irqHost v).bytes addr len = m.bytes addr len := rfl

/-! ## irqCore -/

@[simp] theorem State.irqCore_regs (m : State) (c : Nat) : (m.irqCore c).regs = m.regs := rfl
@[simp] theorem State.irqCore_snap (m : State) (c : Nat) : (m.irqCore c).snap = m.snap := rfl
@[simp] theorem State.irqCore_mem (m : State) (c : Nat) : (m.irqCore c).mem = m.mem := rfl
@[simp] theorem State.irqCore_poison (m : State) (c : Nat) : (m.irqCore c).poison = m.poison := rfl
@[simp] theorem State.irqCore_stale (m : State) (c : Nat) : (m.irqCore c).stale = m.stale := rfl
@[simp] theorem State.irqCore_stalePsn (m : State) (c : Nat) : (m.irqCore c).stalePsn = m.stalePsn := rfl
@[simp] theorem State.irqCore_cache (m : State) (c : Nat) : (m.irqCore c).cache = m.cache := rfl
@[simp] theorem State.irqCore_trayTags (m : State) (c : Nat) : (m.irqCore c).trayTags = m.trayTags := rfl
@[simp] theorem State.irqCore_coreBytes (m : State) (c : Nat) : (m.irqCore c).coreBytes = m.coreBytes := rfl
@[simp] theorem State.irqCore_mxScale (m : State) (c : Nat) : (m.irqCore c).mxScale = m.mxScale := rfl
@[simp] theorem State.irqCore_pstage (m : State) (c : Nat) : (m.irqCore c).pstage = m.pstage := rfl
@[simp] theorem State.irqCore_gens (m : State) (c : Nat) : (m.irqCore c).gens = m.gens := rfl
@[simp] theorem State.irqCore_lslots (m : State) (c : Nat) : (m.irqCore c).lslots = m.lslots := rfl
@[simp] theorem State.irqCore_queued (m : State) (c : Nat) : (m.irqCore c).queued = m.queued := rfl
@[simp] theorem State.irqCore_launches (m : State) (c : Nat) : (m.irqCore c).launches = m.launches := rfl
@[simp] theorem State.irqCore_lastFirst (m : State) (c : Nat) : (m.irqCore c).lastFirst = m.lastFirst := rfl
@[simp] theorem State.irqCore_pcOver (m : State) (c : Nat) : (m.irqCore c).pcOver = m.pcOver := rfl
@[simp] theorem State.irqCore_holds (m : State) (c : Nat) : (m.irqCore c).holds = m.holds := rfl
@[simp] theorem State.irqCore_xfers (m : State) (c : Nat) : (m.irqCore c).xfers = m.xfers := rfl
@[simp] theorem State.irqCore_gops (m : State) (c : Nat) : (m.irqCore c).gops = m.gops := rfl
@[simp] theorem State.irqCore_spks (m : State) (c : Nat) : (m.irqCore c).spks = m.spks := rfl
@[simp] theorem State.irqCore_norms (m : State) (c : Nat) : (m.irqCore c).norms = m.norms := rfl
@[simp] theorem State.irqCore_dispatches (m : State) (c : Nat) : (m.irqCore c).dispatches = m.dispatches := rfl
@[simp] theorem State.irqCore_vt (m : State) (c : Nat) : (m.irqCore c).vt = m.vt := rfl
@[simp] theorem State.irqCore_justReady (m : State) (c : Nat) : (m.irqCore c).justReady = m.justReady := rfl
@[simp] theorem State.irqCore_whisks (m : State) (c : Nat) : (m.irqCore c).whisks = m.whisks := rfl
@[simp] theorem State.irqCore_tongs (m : State) (c : Nat) : (m.irqCore c).tongs = m.tongs := rfl
@[simp] theorem State.irqCore_mortars (m : State) (c : Nat) : (m.irqCore c).mortars = m.mortars := rfl
@[simp] theorem State.irqCore_tdones (m : State) (c : Nat) : (m.irqCore c).tdones = m.tdones := rfl
@[simp] theorem State.irqCore_watches (m : State) (c : Nat) : (m.irqCore c).watches = m.watches := rfl
@[simp] theorem State.irqCore_notes (m : State) (c : Nat) : (m.irqCore c).notes = m.notes := rfl
@[simp] theorem State.irqCore_entrants (m : State) (c : Nat) : (m.irqCore c).entrants = m.entrants := rfl
@[simp] theorem State.irqCore_links (m : State) (c : Nat) : (m.irqCore c).links = m.links := rfl
@[simp] theorem State.irqCore_reqs (m : State) (c : Nat) : (m.irqCore c).reqs = m.reqs := rfl
@[simp] theorem State.irqCore_outq (m : State) (c : Nat) : (m.irqCore c).outq = m.outq := rfl
@[simp] theorem State.irqCore_rbufs (m : State) (c : Nat) : (m.irqCore c).rbufs = m.rbufs := rfl
@[simp] theorem State.irqCore_routes (m : State) (c : Nat) : (m.irqCore c).routes = m.routes := rfl
@[simp] theorem State.irqCore_groups (m : State) (c : Nat) : (m.irqCore c).groups = m.groups := rfl
@[simp] theorem State.irqCore_grpSeen (m : State) (c : Nat) : (m.irqCore c).grpSeen = m.grpSeen := rfl
@[simp] theorem State.irqCore_grpSeq (m : State) (c : Nat) : (m.irqCore c).grpSeq = m.grpSeq := rfl
@[simp] theorem State.irqCore_colls (m : State) (c : Nat) : (m.irqCore c).colls = m.colls := rfl
@[simp] theorem State.irqCore_verdicts (m : State) (c : Nat) : (m.irqCore c).verdicts = m.verdicts := rfl
@[simp] theorem State.irqCore_steps (m : State) (c : Nat) : (m.irqCore c).steps = m.steps := rfl
@[simp] theorem State.irqCore_events (m : State) (c : Nat) : (m.irqCore c).events = m.events := rfl
@[simp] theorem State.irqCore_lossPages (m : State) (c : Nat) : (m.irqCore c).lossPages = m.lossPages := rfl
@[simp] theorem State.irqCore_hist (m : State) (c : Nat) : (m.irqCore c).hist = m.hist := rfl
@[simp] theorem State.irqCore_alert (m : State) (c : Nat) : (m.irqCore c).alert = m.alert := rfl
@[simp] theorem State.irqCore_msix (m : State) (c : Nat) : (m.irqCore c).msix = m.msix := rfl
@[simp] theorem State.irqCore_buckets (m : State) (c : Nat) : (m.irqCore c).buckets = m.buckets := rfl
@[simp] theorem State.irqCore_rsvBytes (m : State) (c : Nat) : (m.irqCore c).rsvBytes = m.rsvBytes := rfl
@[simp] theorem State.irqCore_flight (m : State) (c : Nat) : (m.irqCore c).flight = m.flight := rfl
@[simp] theorem State.irqCore_hbmOut (m : State) (c : Nat) : (m.irqCore c).hbmOut = m.hbmOut := rfl
@[simp] theorem State.irqCore_resets (m : State) (c : Nat) : (m.irqCore c).resets = m.resets := rfl
@[simp] theorem State.irqCore_bells (m : State) (c : Nat) : (m.irqCore c).bells = m.bells := rfl
@[simp] theorem State.irqCore_engResets (m : State) (c : Nat) : (m.irqCore c).engResets = m.engResets := rfl
@[simp] theorem State.irqCore_flushes (m : State) (c : Nat) : (m.irqCore c).flushes = m.flushes := rfl
@[simp] theorem State.irqCore_zeroing (m : State) (c : Nat) : (m.irqCore c).zeroing = m.zeroing := rfl
@[simp] theorem State.irqCore_power (m : State) (c : Nat) : (m.irqCore c).power = m.power := rfl
@[simp] theorem State.irqCore_pins (m : State) (c : Nat) : (m.irqCore c).pins = m.pins := rfl
@[simp] theorem State.irqCore_alive (m : State) (c : Nat) : (m.irqCore c).alive = m.alive := rfl
@[simp] theorem State.irqCore_cores (m : State) (c : Nat) : (m.irqCore c).cores = m.cores := rfl
@[simp] theorem State.irqCore_fuses (m : State) (c : Nat) : (m.irqCore c).fuses = m.fuses := rfl
@[simp] theorem State.irqCore_flash (m : State) (c : Nat) : (m.irqCore c).flash = m.flash := rfl
@[simp] theorem State.irqCore_session (m : State) (c : Nat) : (m.irqCore c).session = m.session := rfl
@[simp] theorem State.irqCore_hoCopy (m : State) (c : Nat) : (m.irqCore c).hoCopy = m.hoCopy := rfl
@[simp] theorem State.irqCore_hoOpen (m : State) (c : Nat) : (m.irqCore c).hoOpen = m.hoOpen := rfl
@[simp] theorem State.irqCore_hoSave (m : State) (c : Nat) : (m.irqCore c).hoSave = m.hoSave := rfl
@[simp] theorem State.irqCore_hoValid (m : State) (c : Nat) : (m.irqCore c).hoValid = m.hoValid := rfl
@[simp] theorem State.irqCore_svcRun (m : State) (c : Nat) : (m.irqCore c).svcRun = m.svcRun := rfl
@[simp] theorem State.irqCore_tSvn (m : State) (c : Nat) : (m.irqCore c).tSvn = m.tSvn := rfl
@[simp] theorem State.irqCore_sSvn (m : State) (c : Nat) : (m.irqCore c).sSvn = m.sSvn := rfl
@[simp] theorem State.irqCore_stagedT (m : State) (c : Nat) : (m.irqCore c).stagedT = m.stagedT := rfl
@[simp] theorem State.irqCore_stagedS (m : State) (c : Nat) : (m.irqCore c).stagedS = m.stagedS := rfl
@[simp] theorem State.irqCore_mbLast (m : State) (c : Nat) : (m.irqCore c).mbLast = m.mbLast := rfl
@[simp] theorem State.irqCore_nodeSet (m : State) (c : Nat) : (m.irqCore c).nodeSet = m.nodeSet := rfl
@[simp] theorem State.irqCore_relays (m : State) (c : Nat) : (m.irqCore c).relays = m.relays := rfl
@[simp] theorem State.irqCore_mgmtRsp (m : State) (c : Nat) : (m.irqCore c).mgmtRsp = m.mgmtRsp := rfl
@[simp] theorem State.irqCore_smbOff (m : State) (c : Nat) : (m.irqCore c).smbOff = m.smbOff := rfl
@[simp] theorem State.irqCore_smbOut (m : State) (c : Nat) : (m.irqCore c).smbOut = m.smbOut := rfl
@[simp] theorem State.irqCore_jtagIr (m : State) (c : Nat) : (m.irqCore c).jtagIr = m.jtagIr := rfl
@[simp] theorem State.irqCore_jtagDr (m : State) (c : Nat) : (m.irqCore c).jtagDr = m.jtagDr := rfl
@[simp] theorem State.irqCore_busOut (m : State) (c : Nat) : (m.irqCore c).busOut = m.busOut := rfl
@[simp] theorem State.irqCore_lastLatch (m : State) (c : Nat) : (m.irqCore c).lastLatch = m.lastLatch := rfl
@[simp] theorem State.irqCore_slew (m : State) (c : Nat) : (m.irqCore c).slew = m.slew := rfl
@[simp] theorem State.irqCore_slow (m : State) (c : Nat) : (m.irqCore c).slow = m.slow := rfl
@[simp] theorem State.irqCore_frac (m : State) (c : Nat) : (m.irqCore c).frac = m.frac := rfl
@[simp] theorem State.irqCore_marginOn (m : State) (c : Nat) : (m.irqCore c).marginOn = m.marginOn := rfl
@[simp] theorem State.irqCore_nextId (m : State) (c : Nat) : (m.irqCore c).nextId = m.nextId := rfl
@[simp] theorem State.irqCore_free (m : State) (c : Nat) : (m.irqCore c).free = m.free := rfl
@[simp] theorem State.irqCore_pending (m : State) (c : Nat) : (m.irqCore c).pending = m.pending := rfl
@[simp] theorem State.irqCore_at_reg (m : State) (c : Nat) (o : Nat) : (m.irqCore c).reg o = m.reg o := rfl
@[simp] theorem State.irqCore_at_fld (m : State) (c : Nat) (e : Fld) : (m.irqCore c).fld e = m.fld e := rfl
@[simp] theorem State.irqCore_at_flag (m : State) (c : Nat) (e : Fld) : (m.irqCore c).flag e = m.flag e := rfl
@[simp] theorem State.irqCore_at_byte (m : State) (c : Nat) (addr : Nat) : (m.irqCore c).byte addr = m.byte addr := rfl
@[simp] theorem State.irqCore_at_bytes (m : State) (c : Nat) (addr len : Nat) : (m.irqCore c).bytes addr len = m.bytes addr len := rfl

end Sys2Proof.Machine
end

