-- ==== Sys2Proof/Laws/Ops.lean ====
section
/-! SUPPORT. What the shared operations do, said once: registers and bytes read back, and what a report, an access record, a
counter operation and a move of a sequencer can change; what any memory operation can change. -/

namespace Sys2Proof.Machine

/-! ## Fields of a word -/

/-- A word as the bits below a field, the field, and the bits above it. -/
theorem word_split (w hi lo : Nat) :
    w = 2 ^ lo * (2 ^ (hi + 1 - lo) * (w >>> lo / 2 ^ (hi + 1 - lo)) + bitsOf w hi lo) + w % 2 ^ lo := by
  rw [bitsOf, Nat.div_add_mod, Nat.shiftRight_eq_div_pow]
  exact (Nat.div_add_mod w (2 ^ lo)).symm

theorem insertBits_split (w hi lo v : Nat) : insertBits w hi lo v =
    2 ^ lo * (2 ^ (hi + 1 - lo) * (w >>> lo / 2 ^ (hi + 1 - lo)) + v % 2 ^ (hi + 1 - lo)) + w % 2 ^ lo := by
  have h := word_split w hi lo
  simp only [insertBits, Nat.shiftLeft_eq]
  generalize w >>> lo / 2 ^ (hi + 1 - lo) = c at *
  generalize bitsOf w hi lo = b at *
  generalize w % 2 ^ lo = a at *
  rw [Nat.mul_add] at h ⊢
  rw [Nat.mul_comm b, Nat.mul_comm (v % _)]
  omega

/-- A bit of a word whose field [hi:lo] has been replaced. -/
theorem testBit_insertBits (w hi lo v k : Nat) (h : lo ≤ hi) :
    (insertBits w hi lo v).testBit k = if lo ≤ k ∧ k ≤ hi then v.testBit (k - lo) else w.testBit k := by
  rw [insertBits_split]
  conv_rhs => rw [word_split w hi lo]
  have ha : w % 2 ^ lo < 2 ^ lo := Nat.mod_lt _ (by positivity)
  have hv : v % 2 ^ (hi + 1 - lo) < 2 ^ (hi + 1 - lo) := Nat.mod_lt _ (by positivity)
  have hb : bitsOf w hi lo < 2 ^ (hi + 1 - lo) := Nat.mod_lt _ (by positivity)
  rw [Nat.testBit_two_pow_mul_add _ ha, Nat.testBit_two_pow_mul_add _ ha, Nat.testBit_two_pow_mul_add _ hv,
    Nat.testBit_two_pow_mul_add _ hb]
  by_cases h1 : k < lo
  · simp [h1, show ¬ lo ≤ k by omega]
  · by_cases h2 : k ≤ hi
    · simp only [h1, h2, show k - lo < hi + 1 - lo by omega, show lo ≤ k by omega, if_true, if_false, and_self,
        Nat.testBit_mod_two_pow, decide_true, Bool.true_and]
    · simp only [h1, h2, show ¬ k - lo < hi + 1 - lo by omega, and_false, if_false]

/-- A bit of a field of a word. -/
theorem testBit_bitsOf (w hi lo k : Nat) : (bitsOf w hi lo).testBit k = (decide (k < hi + 1 - lo) && w.testBit (lo + k)) := by
  rw [bitsOf, Nat.testBit_mod_two_pow, Nat.testBit_shiftRight]

@[simp] theorem bitsOf_insertBits_same (w hi lo v : Nat) (h : lo ≤ hi) :
    bitsOf (insertBits w hi lo v) hi lo = v % 2 ^ (hi + 1 - lo) := by
  refine Nat.eq_of_testBit_eq fun k => ?_
  rw [testBit_bitsOf, testBit_insertBits _ _ _ _ _ h, Nat.testBit_mod_two_pow]
  by_cases hk : k < hi + 1 - lo
  · simp [hk, show lo ≤ lo + k ∧ lo + k ≤ hi by omega]
  · simp [hk]

/-- A field keeps its value where another field of the word, apart from it, is replaced. -/
theorem bitsOf_insertBits_apart (w hi lo hi' lo' v : Nat) (h : lo ≤ hi) (d : hi < lo' ∨ hi' < lo) :
    bitsOf (insertBits w hi lo v) hi' lo' = bitsOf w hi' lo' := by
  refine Nat.eq_of_testBit_eq fun k => ?_
  rw [testBit_bitsOf, testBit_bitsOf, testBit_insertBits _ _ _ _ _ h]
  by_cases hk : k < hi' + 1 - lo'
  · rw [if_neg (by omega)]
  · simp [hk]

theorem insertBits_lt (w hi lo v : Nat) (h : lo ≤ hi) (hh : hi < 64) (hw : w < 2 ^ 64) : insertBits w hi lo v < 2 ^ 64 := by
  refine Nat.lt_pow_two_of_testBit _ fun k hk => ?_
  rw [testBit_insertBits _ _ _ _ _ h, if_neg (by omega)]
  exact Nat.testBit_lt_two_pow (lt_of_lt_of_le hw (Nat.pow_le_pow_right (by norm_num) hk))

/-! ## Registers -/

theorem State.reg_lt (m : State) (off : Nat) : m.reg off < 2 ^ 64 := (m.regs.get resetWord off).isLt

theorem State.reg_setReg (m : State) (off v o : Nat) : (m.setReg off v).reg o = if o = off then v % 2 ^ 64 else m.reg o := by
  simp only [State.reg, State.setReg, SMap.get_set]
  split <;> simp

@[simp] theorem State.reg_setReg_same (m : State) (off v : Nat) : (m.setReg off v).reg off = v % 2 ^ 64 := by
  simp [State.reg_setReg]

theorem State.reg_setReg_other (m : State) {off o : Nat} (v : Nat) (h : o ≠ off) : (m.setReg off v).reg o = m.reg o := by
  simp [State.reg_setReg, h]

/-- The register whose field is set. -/
theorem State.reg_setFld (m : State) (f : Fld) (v o : Nat) (h : f.lo ≤ f.hi) (hh : f.hi < 64) :
    (m.setFld f v).reg o = if o = f.off then insertBits (m.reg f.off) f.hi f.lo v else m.reg o := by
  rw [State.setFld, State.reg_setReg]
  split
  · exact Nat.mod_eq_of_lt (insertBits_lt _ _ _ _ h hh (m.reg_lt _))
  · rfl

/-- A field reads back the low bits of what was written. -/
theorem State.fld_setFld_same (m : State) (f : Fld) (v : Nat) (h : f.lo ≤ f.hi) (hh : f.hi < 64) :
    (m.setFld f v).fld f = v % 2 ^ (f.hi + 1 - f.lo) := by
  rw [State.fld, State.reg_setFld _ _ _ _ h hh, if_pos rfl, bitsOf_insertBits_same _ _ _ _ h]

/-- Fields of other registers, and other fields of the register, keep their values. -/
theorem State.fld_setFld_other (m : State) (f g : Fld) (v : Nat) (h : f.lo ≤ f.hi) (hh : f.hi < 64)
    (d : g.off ≠ f.off ∨ f.hi < g.lo ∨ g.hi < f.lo) : (m.setFld f v).fld g = m.fld g := by
  rw [State.fld, State.fld, State.reg_setFld _ _ _ _ h hh]
  split
  · next e => rw [e, bitsOf_insertBits_apart _ _ _ _ _ _ h (d.resolve_left (fun n => n e))]
  · rfl

theorem State.flag_setFlag_same (m : State) (f : Fld) (b : Bool) (h : f.lo ≤ f.hi) (hh : f.hi < 64) :
    (m.setFlag f b).flag f = b := by
  have : 2 ≤ 2 ^ (f.hi + 1 - f.lo) := by
    calc 2 = 2 ^ 1 := rfl
      _ ≤ _ := Nat.pow_le_pow_right (by norm_num) (by omega)
  rw [State.flag, State.setFlag, State.fld_setFld_same _ _ _ h hh, Nat.mod_eq_of_lt (lt_of_lt_of_le (by cases b <;> decide) this)]
  cases b <;> simp [b2n]

theorem State.flag_setFlag_other (m : State) (f g : Fld) (b : Bool) (h : f.lo ≤ f.hi) (hh : f.hi < 64)
    (d : g.off ≠ f.off ∨ f.hi < g.lo ∨ g.hi < f.lo) : (m.setFlag f b).flag g = m.flag g := by
  rw [State.flag, State.setFlag, State.fld_setFld_other _ _ _ _ h hh d, State.flag]

/-! ## Bytes -/

/-- Bytes stored at a read back, and every other byte as before. -/
theorem State.byte_putBytes (m : State) (a : Nat) (bs : List Byte) (x : Nat) :
    (m.putBytes a bs).byte x = if a ≤ x ∧ x < a + bs.length then SMap.get memZero (SMap.ofList 0 bs) (x - a) else m.byte x := by
  rw [State.byte, State.putBytes, SMap.get_splice]
  rfl

/-! ## Reports and records -/

/-- A first-error capture changes registers alone. -/
theorem State.capture_frame (m : State) (e : Ev) : m.capture e = { m with regs := (m.capture e).regs } := by
  unfold State.capture
  dsimp only
  split <;> rfl

/-- An event that waits, or is lost, changes the registers that count it and the events. -/
theorem State.enqueue_frame (m : State) (e : Ev) : m.enqueue e =
    { m with regs := (m.enqueue e).regs, events := (m.enqueue e).events, lossPages := (m.enqueue e).lossPages } := by
  unfold State.enqueue
  dsimp only
  split <;> rfl

/-- A report changes registers and the events. -/
theorem State.report_frame (m : State) (e : Ev) : m.report e =
    { m with regs := (m.report e).regs, events := (m.report e).events, lossPages := (m.report e).lossPages } := by
  unfold State.report
  rw [State.enqueue_frame, State.capture_frame]
  rfl

/-- So does the record of a refused access. -/
theorem State.access_frame (m : State) (page master : Nat) (stn : Option Nat) (acc addr : Nat) : m.access page master stn acc addr =
    { m with
      regs := (m.access page master stn acc addr).regs, events := (m.access page master stn acc addr).events
      lossPages := (m.access page master stn acc addr).lossPages } := by
  unfold State.access
  exact State.report_frame _ _

/-- A counted clamp changes registers alone. -/
theorem State.clampAt_frame (m : State) (off : Nat) : m.clampAt off = { m with regs := (m.clampAt off).regs } := by
  unfold State.clampAt
  dsimp only
  split <;> rfl

/-! ## Sequencers -/

/-- A program counter that moves changes registers, and which counters stand past the window's last word. -/
theorem State.setPc_frame (m : State) (n q v : Nat) : m.setPc n q v =
    { m with regs := (m.setPc n q v).regs, pcOver := (m.setPc n q v).pcOver } := by
  unfold State.setPc
  rfl

/-- A sequencer that goes on changes the same. -/
theorem State.advance_frame (m : State) (n q : Nat) (done : Bool) : m.advance n q done =
    { m with regs := (m.advance n q done).regs, pcOver := (m.advance n q done).pcOver } := by
  unfold State.advance
  cases done <;> rfl


/-! ## Memory operations

What reading and writing memory can change: registers, bytes, poison and tags, the cache and HBM's bytes under it, the
controllers' buckets, and the events. -/

/-- s with the fields of t that a memory operation may change. -/
def State.withMemOf (s t : State) : State :=
  { s with
    regs := t.regs
    mem := t.mem
    poison := t.poison
    stale := t.stale
    stalePsn := t.stalePsn
    cache := t.cache
    trayTags := t.trayTags
    coreBytes := t.coreBytes
    buckets := t.buckets
    rsvBytes := t.rsvBytes
    flight := t.flight
    events := t.events
    lossPages := t.lossPages }

/-- t differs from s at most in what a memory operation may change. -/
def State.MemOnly (s t : State) : Prop := t = s.withMemOf t

theorem State.MemOnly.refl (s : State) : s.MemOnly s := rfl

theorem State.MemOnly.trans {s t u : State} (h : s.MemOnly t) (k : t.MemOnly u) : s.MemOnly u := by
  have e : t.withMemOf u = s.withMemOf u := by
    rw [State.MemOnly] at h
    rw [h]
    rfl
  exact Eq.trans k e

theorem State.MemOnly.foldl {β : Type} {f : State → β → State} (hf : ∀ (m : State) (b : β), m.MemOnly (f m b)) (l : List β) (m : State) :
    m.MemOnly (l.foldl f m) := by
  induction l generalizing m with
  | nil => exact .refl m
  | cons b l ih => exact (hf m b).trans (ih _)

theorem State.MemOnly.setReg (m : State) (off v : Nat) : m.MemOnly (m.setReg off v) := rfl
theorem State.MemOnly.setFld (m : State) (f : Fld) (v : Nat) : m.MemOnly (m.setFld f v) := rfl
theorem State.MemOnly.setFlag (m : State) (f : Fld) (b : Bool) : m.MemOnly (m.setFlag f b) := rfl
theorem State.MemOnly.bump (m : State) (f : Fld) (k : Nat) : m.MemOnly (m.bump f k) := rfl
theorem State.MemOnly.disarm (m : State) (p : Nat) : m.MemOnly (m.disarm p) := rfl
theorem State.MemOnly.putBytes (m : State) (a : Nat) (bs : List Byte) : m.MemOnly (m.putBytes a bs) := rfl
theorem State.MemOnly.setPsn (m : State) (b : Nat) (p : Bool) : m.MemOnly (m.setPsn b p) := rfl
theorem State.MemOnly.inFlight (m : State) (b n : Nat) : m.MemOnly (m.inFlight b n) := rfl
theorem State.MemOnly.landed (m : State) : m.MemOnly m.landed := rfl
theorem State.MemOnly.setAside (m : State) (l : Nat) : m.MemOnly (m.setAside l) := rfl

theorem State.MemOnly.report (m : State) (e : Ev) : m.MemOnly (m.report e) := by
  rw [State.report_frame]
  rfl

theorem State.MemOnly.access (m : State) (page master : Nat) (stn : Option Nat) (acc addr : Nat) :
    m.MemOnly (m.access page master stn acc addr) := .report _ _

/-- Poison after a write changes poison alone. -/
theorem State.MemOnly.putPsn (m : State) (a n : Nat) (p : Nat → Nat → Bool) : m.MemOnly (m.putPsn a n p) := by
  unfold State.putPsn
  split
  · exact .refl m
  · exact .foldl (fun _ _ => .setPsn _ _ _) _ m

theorem State.MemOnly.chargeBeats (m : State) (n : Option Nat) (a len : Nat) : m.MemOnly (m.chargeBeats n a len) := by
  unfold State.chargeBeats
  split
  · exact .refl m
  · exact .foldl (fun _ _ => by cases n <;> rfl) _ m

theorem State.MemOnly.injected (m : State) (page k b n : Nat) (e : Ev) : m.MemOnly (m.injected page k b n e) := by
  unfold State.injected
  split
  · exact ((State.MemOnly.disarm m page).trans (.report _ _)).trans (.inFlight _ _ _)
  · exact .refl m

theorem State.MemOnly.senseLine (m : State) (n b acc : Nat) : m.MemOnly (m.senseLine n b acc) := by
  unfold State.senseLine
  dsimp only
  split
  · exact (State.MemOnly.bump m _ _).trans (.injected _ _ _ _ _ _)
  · split
    · exact .bump m _ _
    · exact .refl m

theorem State.MemOnly.sense (m : State) (n a len acc : Nat) : m.MemOnly (m.sense n a len acc) :=
  .foldl (fun _ _ => .senseLine _ _ _ _) _ m

theorem State.MemOnly.senseCrock (m : State) (n k a : Nat) : m.MemOnly (m.senseCrock n k a) := by
  unfold State.senseCrock
  split
  · exact .refl m
  · exact .injected _ _ _ _ _ _

theorem State.MemOnly.senseSram (m : State) (n page k a : Nat) : m.MemOnly (m.senseSram n page k a) := .injected _ _ _ _ _ _

theorem State.MemOnly.countRmw (m : State) (n a len : Nat) : m.MemOnly (m.countRmw n a len) := by
  have one (m : State) (b : Nat) :
      m.MemOnly (((m.bump (Reg.mc_RMW_CNT (m.place b).1) 1).chargeBeats (some n) b 64).sense n b 64 2) :=
    ((State.MemOnly.bump m _ _).trans (.chargeBeats _ _ _ _)).trans (.sense _ _ _ _ _)
  unfold State.countRmw
  split
  · exact .refl m
  · dsimp only
    split
    · refine .trans ?_ (one _ _)
      split
      · exact one _ _
      · exact .refl m
    · split
      · exact one _ _
      · exact .refl m

theorem State.MemOnly.direct (m : State) (n a len : Nat) (w : Bool) : m.MemOnly (m.direct n a len w) := by
  unfold State.direct
  dsimp only
  split
  · exact (State.MemOnly.chargeBeats m _ _ _).trans (.countRmw _ _ _ _)
  · exact (State.MemOnly.chargeBeats m _ _ _).trans (.sense _ _ _ _ _)

theorem State.MemOnly.writeBack (m : State) (c : CLine) : m.MemOnly (m.writeBack c) := by
  unfold State.writeBack
  exact .trans (t := { m with
    stale := m.stale.clear (256 * c.line) 256
    stalePsn := m.stalePsn.clear (8 * c.line) 8
    cache := m.cache.map (fun (x : CLine) => if x.is c.stn c.line then { x with dirty := false } else x) }) rfl
    ((State.MemOnly.bump _ _ _).trans (.chargeBeats _ _ _ _))

theorem State.MemOnly.evict (m : State) (c : CLine) : m.MemOnly (m.evict c) := by
  unfold State.evict
  dsimp only
  split
  · exact (State.MemOnly.writeBack m c).trans rfl
  · rfl

theorem State.MemOnly.dropLine (m : State) (c : CLine) : m.MemOnly (m.dropLine c) := by
  unfold State.dropLine
  dsimp only
  split <;> rfl

theorem State.MemOnly.allocate (m : State) (n slice set l : Nat) (keep : Bool) : m.MemOnly (m.allocate n slice set l keep) := by
  unfold State.allocate
  dsimp only
  refine .trans (t := if keep = true ∧ _ then _ else _) ?_ rfl
  split
  · split
    · exact .evict m _
    · exact .refl m
  · split
    · split
      · exact .evict m _
      · exact .refl m
    · exact .refl m

/-- One access to a line, whatever the cache makes of it. -/
theorem State.MemOnly.cacheLine (m : State) (n lo len : Nat) (w : Bool) (cls : Nat) : m.MemOnly (m.cacheLine n lo len w cls) := by
  unfold State.cacheLine
  extract_lets l sl h page i m0 m1 n1 n2 n3
  split
  · exact .direct m _ _ _ _
  · split
    · next c _ =>
      extract_lets m2 keeps m3
      have h1 : m.MemOnly m1 := by
        have h0 : m.MemOnly m0 := .bump m _ 1
        refine h0.trans ?_
        unfold m1
        split
        · exact .refl _
        · exact .senseCrock _ _ _ _
      have h2 : m1.MemOnly m2 := by
        unfold m2
        split
        · exact .setAside _ _
        · exact .refl _
      have h3 : m2.MemOnly m3 := by
        unfold m3
        split
        · split
          · exact .evict _ _
          · exact .refl _
        · exact .refl _
      exact ((h1.trans h2).trans h3).trans rfl
    · have h1 : m.MemOnly n1 := .bump m _ 1
      have h2 : m.MemOnly n2 := (h1.trans (.allocate _ n h.1 h.2 l (decide (cls = 2)))).trans (.direct _ _ _ _ _)
      split
      · exact h1.trans (.direct _ _ _ _ _)
      · split
        · exact h2.trans ((State.MemOnly.setAside _ l).trans rfl)
        · exact h2

/-- An access passes through the cache, or to the controllers. -/
theorem State.MemOnly.touch (m : State) (n a len : Nat) (w : Bool) (cls : Nat) : m.MemOnly (m.touch n a len w cls) := by
  unfold State.touch
  split
  · exact .refl m
  · split
    · split
      · exact .refl m
      · split
        · exact .senseCrock m _ _ _
        · exact .senseSram m _ _ _ _
        · exact .senseSram m _ _ _ _
        · exact .senseSram m _ _ _ _
        · exact .refl m
    · split
      · exact .direct m _ _ _ _
      · exact .foldl (fun _ _ => .cacheLine _ _ _ _ _ _) _ m

theorem State.MemOnly.setTag (m : State) (a t : Nat) : m.MemOnly (m.setTag a t) := by
  unfold State.setTag
  split
  · split <;> rfl
  · split <;> rfl

theorem State.MemOnly.untag (m : State) (a len : Nat) : m.MemOnly (m.untag a len) := by
  unfold State.untag
  split
  · exact .refl m
  · exact .foldl (fun _ _ => .setTag _ _ _) _ m

/-- A store. -/
theorem State.MemOnly.store (m : State) (n a : Nat) (bs : List Byte) (p : Nat → Nat → Bool) (cls : Nat) :
    m.MemOnly (m.store n a bs p cls) :=
  (((State.MemOnly.touch m _ _ _ _ _).trans (.putBytes _ _ _)).trans (.putPsn _ _ _ _)).trans (.untag _ _ _)

theorem State.MemOnly.storeP (m : State) (n a : Nat) (bs : List Byte) (psn : Bool) (cls : Nat) :
    m.MemOnly (m.storeP n a bs psn cls) := .store _ _ _ _ _ _

theorem State.MemOnly.storeTagged (m : State) (n a : Nat) (bs : List Byte) (psn : Bool) (cls : Nat) (c : Option Nat) :
    m.MemOnly (m.storeTagged n a bs psn cls c) := (State.MemOnly.storeP m _ _ _ _ _).trans (.setTag _ _ _)

theorem State.MemOnly.putStatus (m : State) (n a v cls : Nat) : m.MemOnly (m.putStatus n a v cls) :=
  (State.MemOnly.storeP m _ _ _ _ _).trans (.landed _)

/-- A read, served or refused. -/
theorem State.MemOnly.load (m : State) (master n a len cls : Nat) : m.MemOnly (m.load master n a len cls).2.2 := by
  unfold State.load
  split
  · exact .touch m _ _ _ _ _
  · exact .access m _ _ _ _ _
  · exact .access m _ _ _ _ _

/-- A write, made or refused. -/
theorem State.MemOnly.write (m : State) (master n a : Nat) (bs : List Byte) (psn : Bool) (cls : Nat) :
    m.MemOnly (m.write master n a bs psn cls) := by
  unfold State.write
  split
  · exact .storeP m _ _ _ _ _
  · exact .access m _ _ _ _ _
  · exact .access m _ _ _ _ _

theorem State.MemOnly.sramRead (m : State) (page k n master addr : Nat) (up : Bool) :
    m.MemOnly (m.sramRead page k n master addr up).2 := by
  unfold State.sramRead
  extract_lets e m1
  have h : m.MemOnly m1 := by
    unfold m1
    split
    · exact .report m _
    · exact .refl m
  split
  · exact h.trans ((State.MemOnly.disarm _ _).trans (.report _ _))
  · exact h

/-- Marks of poison leave the bytes. -/
theorem State.putPsn_mem (m : State) (a n : Nat) (p : Nat → Nat → Bool) : (m.putPsn a n p).mem = m.mem := by
  unfold State.putPsn
  split
  · rfl
  · extract_lets g
    generalize (List.range _) = l
    induction l generalizing m with
    | nil => rfl
    | cons i l ih => exact (ih _).trans rfl

/-- A store through a core's cache. -/
theorem State.MemOnly.coreCached (m : State) (c k a : Nat) (bs : List Byte) : m.MemOnly (m.coreCached c k a bs) := by
  have h := State.MemOnly.storeP m k a bs false 0
  unfold State.MemOnly at h ⊢
  unfold State.coreCached
  dsimp only
  generalize m.storeP k a bs false 0 = t at h ⊢
  rw [h]
  rfl

/-- What a core's reset takes from its caches: memory, its poison, the stores in question and free values. -/
theorem State.coreLose_frame (m : State) (c : Nat) : m.coreLose c =
    { m with mem := (m.coreLose c).mem, poison := (m.coreLose c).poison, coreBytes := (m.coreLose c).coreBytes,
             free := (m.coreLose c).free } := by
  unfold State.coreLose
  dsimp only
  generalize m.coreBytes.filter (fun e => decide (e.core = c)) = l
  induction l generalizing m with
  | nil => rfl
  | cons e l ih =>
    simp only [List.foldl_cons]
    split
    · exact ih m.drawByte.2
    · split
      · exact ih ((m.drawByte.2.putBytes e.addr [e.old]).setPsn _ true)
      · exact ih (m.drawByte.2.putBytes e.addr [e.old])

/-- A byte that no store in question of core c put there is as it was. -/
theorem State.byte_coreLose (m : State) (c x : Nat) (h : ∀ e ∈ m.coreBytes, e.core = c → e.addr ≠ x) :
    (m.coreLose c).byte x = m.byte x := by
  have h' : ∀ e ∈ m.coreBytes.filter (fun e => decide (e.core = c)), e.addr ≠ x := by
    intro e he
    simp only [List.mem_filter, decide_eq_true_eq] at he
    exact h e he.1 he.2
  unfold State.coreLose
  dsimp only
  change State.byte (List.foldl _ m _) x = _
  clear h
  generalize m.coreBytes.filter (fun e => decide (e.core = c)) = l at h' ⊢
  induction l generalizing m with
  | nil => rfl
  | cons e l ih =>
    simp only [List.foldl_cons]
    have hx : ¬ (e.addr ≤ x ∧ x < e.addr + 1) := by
      have := h' e List.mem_cons_self
      omega
    have hp : (m.drawByte.2.putBytes e.addr [e.old]).byte x = m.byte x := by
      rw [State.byte_putBytes]
      exact if_neg hx
    have ht : ∀ y ∈ l, y.addr ≠ x := fun y hy => h' y (List.mem_cons_of_mem _ hy)
    have go : ∀ n : State, n.byte x = m.byte x → State.byte (l.foldl _ n) x = m.byte x := fun n hn => (ih n ht).trans hn
    split
    · exact go _ rfl
    · split
      · exact go _ hp
      · exact go _ hp
end Sys2Proof.Machine
end

