-- ==== Sys2Proof/WellFormed.lean ====
section
/-! DEFINITION. What a command's operands must satisfy beyond their types. A command of the table carries no
encoding, so these checks bound the operands this model gives the rows: what a flit, a bus access or a list of sensor
readings of the module can be at all. -/

namespace Sys2Proof

/-- A flit as R240 to R242 bound it: the widths of the transaction header's fields, and no payload (head-only) or one of
(LEN + 1)·32 bytes (full). -/
def Flit.wf (f : Flit) : Bool :=
  decide (f.op < 32) && decide (f.vc < 4) && decide (f.src < 2 ^ 20) && decide (f.dst < 2 ^ 20) &&
  decide (f.sstn < 8) && decide (f.hops < 32) && decide (f.flow < 64) && decide (f.tag < 4096) &&
  decide (f.psn < 16) && decide (f.len < 8) && decide (f.addr < 2 ^ 44) &&
  decide (f.lh.typ < 8) && decide (f.lh.key < 2) && decide (f.lh.seq < 2 ^ 32) && decide (f.lh.ack < 2 ^ 32) &&
  decide (f.lh.crd < 2 ^ 20) && decide (f.lh.crdVc < 4) && decide (f.inp = none) &&
  (decide (f.payload.length = 0) || decide (f.payload.length = 32 * (f.len + 1)))

/-- A narrow or unaligned access: not an aligned access of eight bytes (R8). R8 does not name an aligned access wider than
eight bytes; the model takes one as it takes a narrow one (DESIGN CHOICE, log 86). -/
def narrow (off size : Nat) : Bool :=
  decide (0 < size) && decide (off + size ≤ 2 ^ 24) && !(decide (size = 8) && decide (off % 8 = 0))

/-- The operands of a command are ones the module can meet. -/
def Instr.wf (i : Instr) : Bool :=
  match i with
  | .hbmRead a _ => decide (a < 0x280_0000_0000)
  | .scrubRead a _ => decide (a < 0x280_0000_0000)
  | .hbmWrite a bytes _ _ =>
    decide (a < 0x280_0000_0000) && decide (0 < bytes.length) && decide (a % 64 + bytes.length ≤ 64)
  | .waveInject mis _ => mis.all (fun x => decide (x.exp < 2 ^ 24) && decide (x.got < 2 ^ 24))
  | .recipeMemoryWrite _ a _ => decide (0x830_0000_0000 ≤ a) && decide (a < 0x830_0020_0000) && decide (a % 8 = 0)
  | .registerWrite _ off _ => decide (off % 8 = 0) && decide (off < 0x9B_0000)
  | .narrowAccess _ off size _ => narrow off size
  | .reservedPageAccess _ off _ => decide (0x9B_0000 ≤ off) && decide (off < 2 ^ 24)
  | .bar2Access off len data =>
    decide (0 < len) && decide (off + len ≤ 2 ^ 32) &&
      (match data with | none => true | some d => decide (d.length = len))
  | .thermalSample tj thbm => decide (tj.length = 4) && decide (thbm.length = 20)
  | .quote _ _ sig => decide (sig.length = 96)
  | .credit _ ack crd _ => decide (ack < 2 ^ 32) && decide (crd < 2 ^ 20)
  | .cntAdd _ f => f.wf
  | .arrive _ f => f.wf
  | .release _ f => f.wf
  | .badOp _ f => f.wf
  | .hello _ f => f.wf
  | .keyx _ f _ _ _ => f.wf
  | .wr _ f => f.wf
  | .rd _ f => f.wf
  | .rdRsp _ f => f.wf
  | .wrAck _ f => f.wf
  | .errRsp _ f => f.wf
  | .tagw _ f _ => f.wf
  | .forward _ f => f.wf
  | .mgmtRd _ f => f.wf
  | .mgmtWr _ f => f.wf
  | .mgmtRsp _ f => f.wf
  | .mgmtRelay _ f => f.wf
  | .collData _ f => f.wf
  | .collCtl _ f => f.wf
  | .fwManifest _ f _ => f.wf
  | .fwChunk _ f => f.wf
  | .fwNak _ f => f.wf
  | .fwDone _ f => f.wf
  | _ => true

end Sys2Proof
end

