-- ==== Sys2Proof/Tests/Slice0.lean ====
section
/-! SUPPORT. The builder's own tests: ill-formed operands that WellFormed refuses, single steps against the spec's worked
examples, and for every statement with hypotheses states and operands that meet them, clause by clause. -/

namespace Sys2Proof.Tests

open Sys2Proof.Machine Sys2Proof.Spec

set_option Elab.async false

/-! ## Small states -/

/-- Fields set one after another. -/
def sets (s : State) (fs : List (Fld × Nat)) : State := fs.foldl (fun m e => m.setFld e.1 e.2) s

/-- Station n enabled with two cores, two Crock slices, a quarter of every Tray, Stockpot and recipe bank, 64 counters, 16
watches, 4 barriers and two GiB. -/
def stn (s : State) (n : Nat) : State :=
  sets s ([(Reg.sys_EN n, 1), (Reg.sys_CORE_MASK n, 6 <<< (4 * (n - 1))), (Reg.sys_CRK_MASK n, 3 <<< (4 * n)),
    (Reg.sys_GRD_WEIGHT n, 4), (Reg.sys_CNT_BASE n, 2 * n), (Reg.sys_CNT_NUM n, 1), (Reg.sys_WCH_BASE n, n),
    (Reg.sys_WCH_NUM n, 1), (Reg.sys_BAR_BASE n, n), (Reg.sys_BAR_NUM n, 1), (Reg.sys_BASE_GIB n 0, 4 * n),
    (Reg.sys_LAST_GIB n 0, 4 * n + 1), (Reg.sys_VALID n 0, 1)] ++
   (List.range 4).flatMap (fun q => [(Reg.seq_TBASE q n, 4 * (n - 1)), (Reg.seq_TLEN q n, 4),
      (Reg.seq_SBASE q n, 4 * (n - 1)), (Reg.seq_SLEN q n, 4), (Reg.seq_RBASE q n, 64 * (n - 1)), (Reg.seq_RLEN q n, 64)]))

/-- Stations 1 and 2 enabled on the reset state, as register words. -/
def base : State :=
  { State.reset with
    regs := [(0x140, 0x60001#64), (0x148, 0x30#64), (0x150, 0x4#64), (0x158, 0x10101010102#64),
      (0x160, 0x8000000000050004#64), (0x180, 0x600001#64), (0x188, 0x300#64), (0x190, 0x4#64), (0x198, 0x10201020104#64),
      (0x1A0, 0x8000000000090008#64), (0xC0120, 0x400000#64), (0xC0128, 0x4000000040000#64), (0xC0140, 0x400040#64),
      (0xC0148, 0x4000400040004#64), (0xD0120, 0x400000#64), (0xD0128, 0x4000000040000#64), (0xD0140, 0x400040#64),
      (0xD0148, 0x4000400040004#64), (0xE0120, 0x400000#64), (0xE0128, 0x4000000040000#64), (0xE0140, 0x400040#64),
      (0xE0148, 0x4000400040004#64), (0xF0120, 0x400000#64), (0xF0128, 0x4000000040000#64), (0xF0140, 0x400040#64),
      (0xF0148, 0x4000400040004#64)] }

theorem test_base_is_two_stations : base = stn (stn State.reset 1) 2 := by decide +kernel

/-- A command word from (bit position, value) pairs. -/
def word (l : List (Nat × Nat)) : Nat := (l.map (fun e => e.2 <<< e.1)).sum

/-- Station 1 runs at word 5 of the quadrants of a mask, each with its word there. -/
def run (s : State) (mask : Nat) (w : Nat → Nat) : State :=
  let m := (quads mask).foldl (fun m q => (m.putBytes (rcpAddr q 0 5) (leBytes (w q) 32)).setFld (Reg.seq_PC q 1) 5) s
  (quads mask).foldl (fun m q => m.setFlag (Reg.seq_RUN q 1) true)
    { m with launches := [(1, some ⟨5, mask, none, false, false, m.nextId⟩)] }

/-- The launch has issued its gang word. -/
def gang (s : State) (mask w : Nat) : State :=
  { (run s mask (fun _ => w)) with launches := [(1, some ⟨5, mask, some (BitVec.ofNat 256 w), false, false, s.nextId⟩)] }

/-- The state after a command. -/
def ex (i : Instr) (s : State) : State :=
  match exec i s with
  | .next t => t
  | _ => s

/-- Core 1 runs with KV on and these registers. -/
def kv (k : List (Nat × BitVec 128)) (x : List (Nat × Word)) : State :=
  { sets base [(Reg.cc_RUN 1, 1)] with cores := [(1, { CoreSt.reset with kven := true, k := k, x := x })] }

/-- This module is node 7, and ports 3 and 5 are UP toward nodes 0x50 and 0x51. -/
def net (s : State) : State :=
  { sets s [(Reg.krt_NODEID, 7), (Reg.krt_VALID, 1), (Reg.kp_LSTATE 3, 5), (Reg.kp_LSTATE 5, 5)] with
    routes := [(0x50, BitVec.ofNat 64 (3 + 2 ^ 26)), (0x51, BitVec.ofNat 64 (5 + 2 ^ 26)), (65537, BitVec.ofNat 64 (5 + 2 ^ 26))] }

/-- A flit of node 0x50. -/
def flit (op dst addr len : Nat) (payload : List Byte) : Flit := ⟨op, 0, 0x50, dst, 1, 9, 2, 33, 0, len, addr, payload, LinkHdr.zero, none⟩

/-- First byte of station 1's second GiB. -/
def gib : Nat := 5 * 2 ^ 30

def l8 (l : List Nat) : List Byte := l.flatMap (fun v => leBytes v 8)
def l4 (l : List Nat) : List Byte := l.flatMap (fun v => leBytes v 4)

/-- No page is armed at reset (R332). -/
theorem reset_unarmed (p : Nat) : bitsOf (resetWord (Reg.hdr_ARMED p).off).toNat 62 62 = 0 := by
  by_cases h : p < 155
  · exact (by decide +kernel : ∀ p, p < 155 → bitsOf (resetWord (Reg.hdr_ARMED p).off).toNat 62 62 = 0) p h
  · have e : (0x10000 * p + 0x60) / 0x10000 = p := by omega
    have hb : blkOf p = none := by
      unfold blkOf
      repeat rw [if_neg (by omega)]
    have hr : rowsAt (0x10000 * p + 0x60) = [] := by simp [rowsAt, e, hb]
    have hp : p ≠ 2 := by omega
    have hz : resetNat (0x10000 * p + 0x60) = 0 := by
      simp [resetNat, hr, e, hp]
    simp [Reg.hdr_ARMED, resetWord, hz, bitsOf]

/-- A state is calm if none of its written registers arms an injection. -/
theorem calm_of (s : State) (h : s.regs.all (fun e => decide (e.1 % 0x10000 ≠ 0x60 ∨ bitsOf e.2.toNat 62 62 = 0)) = true) :
    Calm s := fun p => by
  have g : ∀ m : SMap Word, m.all (fun e => decide (e.1 % 0x10000 ≠ 0x60 ∨ bitsOf e.2.toNat 62 62 = 0)) = true →
      bitsOf (m.get resetWord (Reg.hdr_ARMED p).off).toNat 62 62 = 0 := by
    intro m
    induction m with
    | nil => intro _; exact reset_unarmed p
    | cons e r ih =>
      intro hm
      simp only [List.all_cons, Bool.and_eq_true, decide_eq_true_eq] at hm
      rw [SMap.get]
      split
      · next he =>
        rcases hm.1 with h1 | h1
        · exact absurd (by rw [he]; simp [Reg.hdr_ARMED]) h1
        · exact h1
      · exact ih hm.2
  have h0 := g s.regs h
  show decide (bitsOf (s.regs.get resetWord _).toNat 62 62 ≠ 0) = false
  rw [h0]; rfl

theorem base_calm : Calm base := calm_of base (by decide +kernel)

/-! ## Ill-formed operands (WellFormed) -/

theorem test_wf_flit_op : Instr.wf (.rd 3 { flit 2 7 0 0 [] with op := 32 }) = false := by decide
theorem test_wf_flit_vc : Instr.wf (.wr 3 { flit 1 7 0 0 [] with vc := 4 }) = false := by decide
theorem test_wf_flit_nodes : Instr.wf (.rdRsp 3 { flit 3 7 0 0 [] with src := 2 ^ 20 }) = false ∧
    Instr.wf (.wrAck 3 { flit 4 (2 ^ 20) 0 0 [] with vc := 1 }) = false := by decide
theorem test_wf_flit_small_fields : Instr.wf (.errRsp 3 { flit 5 7 0 0 [] with sstn := 8 }) = false ∧
    Instr.wf (.forward 3 { flit 1 7 0 0 [] with hops := 32 }) = false ∧
    Instr.wf (.cntAdd 3 { flit 7 7 0 0 [] with flow := 64 }) = false ∧
    Instr.wf (.mgmtRd 3 { flit 0x19 7 0 0 [] with tag := 4096 }) = false ∧
    Instr.wf (.collData 3 { flit 0x10 7 0 0 [] with psn := 16 }) = false ∧
    Instr.wf (.arrive 3 (flit 8 7 (2 ^ 44) 0 [])) = false := by decide
theorem test_wf_flit_payload : Instr.wf (.wr 3 (flit 1 7 0 8 [])) = false ∧
    Instr.wf (.tagw 3 (flit 6 7 0 0 [1#8]) false) = false ∧
    Instr.wf (.hello 3 (flit 0x18 7 0 0 (List.replicate 32 0))) = true := by decide
theorem test_wf_flit_commands : [Instr.release 3 ({ flit 8 7 0 0 [] with op := 32 }), .badOp 3 { flit 0x20 7 0 0 [] with vc := 9 },
    .keyx 3 { flit 0x1F 7 0 0 [] with tag := 5000 } true 0 0, .mgmtWr 3 (flit 0x1A 7 (2 ^ 44) 0 []), .mgmtRsp 3 (flit 0x1B 7 0 9 []),
    .mgmtRelay 3 (flit 0x1C 7 0 0 [0#8]), .collCtl 3 { flit 0x11 7 0 0 [] with sstn := 9 }, .fwManifest 3 { flit 0x1F 7 0 0 [] with hops := 40 } true,
    .fwChunk 3 { flit 0x1F 7 0 0 [] with flow := 99 }, .fwNak 3 { flit 0x1F 7 0 0 [] with src := 2 ^ 21 },
    .fwDone 3 { flit 0x1F 7 0 0 [] with psn := 99 }].all (fun i => !i.wf) = true := by decide
theorem test_wf_hbm : Instr.wf (.hbmRead 0x280_0000_0000 .clean) = false ∧ Instr.wf (.scrubRead 0x280_0000_0000 .clean) = false ∧
    Instr.wf (.hbmWrite 0x280_0000_0000 [1#8] false .clean) = false ∧ Instr.wf (.hbmWrite 64 [] false .clean) = false ∧
    Instr.wf (.hbmWrite 127 [1#8, 2#8] false .clean) = false := by decide
theorem test_wf_recipe_memory : Instr.wf (.recipeMemoryWrite .host 0x82F_FFFF_FFF8 0) = false ∧
    Instr.wf (.recipeMemoryWrite .host 0x830_0020_0000 0) = false ∧
    Instr.wf (.recipeMemoryWrite .host 0x830_0000_0004 0) = false := by decide
theorem test_wf_wave : Instr.wf (.waveInject [⟨true, 0, 2 ^ 24, 0⟩] false) = false ∧
    Instr.wf (.waveInject [⟨true, 0, 0, 2 ^ 24⟩] false) = false := by decide
theorem test_wf_register_accesses : Instr.wf (.registerWrite .host 4 0) = false ∧ Instr.wf (.registerWrite .host 0x9B_0000 0) = false ∧
    Instr.wf (.narrowAccess .host 8 8 true) = false ∧ Instr.wf (.narrowAccess .host 8 0 true) = false ∧
    Instr.wf (.narrowAccess .host 0xFF_FFFF 2 true) = false ∧ Instr.wf (.reservedPageAccess .host 0x9A_FFF8 true) = false ∧
    Instr.wf (.reservedPageAccess .host 0x100_0000 true) = false := by decide
theorem test_wf_window : Instr.wf (.bar2Access 0 0 none) = false ∧ Instr.wf (.bar2Access 0xFFFF_FFFF 2 none) = false ∧
    Instr.wf (.bar2Access 0 2 (some [1#8])) = false := by decide
theorem test_wf_lists : Instr.wf (.thermalSample [1, 2, 3] (List.replicate 20 0)) = false ∧
    Instr.wf (.thermalSample [1, 2, 3, 4] []) = false ∧ Instr.wf (.quote .host 0 [1#8]) = false ∧
    Instr.wf (.credit 3 (2 ^ 32) 0 0) = false ∧ Instr.wf (.credit 3 0 (2 ^ 20) 0) = false := by decide

/-! ## Single steps against the spec's words -/

/-- R402's example: BLK_ID of the GRD page of Q2. -/
theorem test_blk_id_example : State.reset.reg 0x6_0000 = 0x0000_0601_0205_2048 := by decide +kernel
/-- R398: IDCODE. -/
theorem test_idcode : (ex .idcode State.reset).jtagDr = 0x12048967#64 := by decide +kernel
/-- R30's example: a global address of node 0x01C4 at site 3. -/
theorem test_global_address_example : gNode 0x301C_40C8_0000_1000 = 0x301C4 ∧ gLocal 0x301C_40C8_0000_1000 = 0x0C8_0000_1000 := by decide
/-- R217's example: the stacks of four addresses, the last with group 40 local. -/
theorem test_placement_example : (State.reset.place 0x0C8_0000_1000).1 = 16 ∧ (State.reset.place 0x0C8_0000_1100).1 = 17 ∧
    (State.reset.place 0x0C8_0000_1400).1 = 1 ∧ ((State.reset.setFld (Reg.mc_LOCAL_LO 0) (2 ^ 40)).place 0x0C8_0000_1000).1 = 0 := by
  decide +kernel
/-- R42's example: the four products with their flags. -/
theorem test_bf16_products : (Arith.f32.mulNum (Fmt.bf16.decode 0x3F80) (Fmt.bf16.decode 0x4040)).1 = 0x4040_0000 ∧
    (Arith.f32.mulNum (Fmt.bf16.decode 0x7F00) (Fmt.bf16.decode 0x4000)).1 = 0x7F80_0000 ∧
    (Arith.f32.mulNum (Fmt.bf16.decode 0x7FC1) (Fmt.bf16.decode 0x3F80)).1 = 0x7FC0_0000 ∧
    (Arith.f32.mulNum (Fmt.bf16.decode 0xBF00) (Fmt.bf16.decode 0x4000)).1 = 0xBF80_0000 := by decide +kernel
/-- R102's example: the fields of command 6. -/
def cmd6 : Nat := 0x0000_0001_2040_0000_0001_0000_2000_0000_0000_0C00_0004_000F_F01F_C040_0000_0010
theorem test_gop_word_example : (gopF cmd6).waves = 6144 ∧ (gopF cmd6).mrows = 2048 ∧ opAg (gopF cmd6).b = 1 ∧ (gopF cmd6).lslot = 1 := by
  decide +kernel
/-- R210's example: lane 0 of k3 gains 2 + 4 + 6 + 8. -/
theorem test_kdot_example : ((ex (.kdot 1 3 1 2 0) (kv [(1, 0x04030201#128), (2, 0x02020202#128)] [])).core 1).kr 3 = 20 := by
  decide +kernel
/-- R209's word 0x302081AB is a legal KDOT, and width code 3 is not (R208). -/
theorem test_kdot_word : kvLegal 0x302081AB = true ∧ kvLegal 0x3020B1AB = false := by decide +kernel
theorem test_kadds_clips : ((ex (.kadds 1 3 1 2 0) (kv [(1, 0x7F#128), (2, 0x01#128)] [])).core 1).kr 3 = 0x7F ∧
    ((ex (.kadds 1 3 1 2 0) (kv [(1, 0x7F#128), (2, 0x01#128)] [])).core 1).sat = true := by decide +kernel
theorem test_ksra_sign : ((ex (.ksra 1 3 1 4 1) (kv [(1, 0x8000#128)] [])).core 1).kr 3 = 0xF800 := by decide +kernel
theorem test_kmvkx_sign_extends : ((ex (.kmvkx 1 5 1 1 2) (kv [(1, 0x80000000_00000000#128)] [])).core 1).xr 5 = 0xFFFF_FFFF_8000_0000 := by
  decide +kernel
theorem test_kwmul_high : ((ex (.kwmulHi 1 3 1 2 2) (kv [(1, 0xFFFFFFFF_00000000_00000000#128), (2, 0x00000003_00000000_00000000#128)] [])).core 1).kr 3 =
    0xFFFF_FFFF_FFFF_FFFD := by decide +kernel
theorem test_krsum_total : ((ex (.krsum 1 4 1 2) (kv [(1, 0x00000004_00000003_00000002_00000001#128)] [])).core 1).kr 4 = 10 := by
  decide +kernel
theorem test_kst_little_endian : (ex (.ksth 1 1 2 8) (kv [(1, 0x1122334455667788#128)] [(2, BitVec.ofNat 64 gib)])).bytes (gib + 8) 8 =
    [0x88, 0x77, 0x66, 0x55, 0x44, 0x33, 0x22, 0x11] := by decide +kernel
theorem test_kld_hole_traps : ((ex (.kld 1 1 2 0) (kv [] [(2, 0x700_0000_0000#64)])).core 1).mcause = 5 := by decide +kernel

theorem test_nop_counts : let t := ex (.nop 1 0) (run base 1 (fun _ => 0))
    t.pc 1 0 = 6 ∧ t.fld (Reg.seq_CMD_DONE 0 1) = 1 := by decide +kernel
theorem test_tsg_saturates : let w := word [(0, 0x30), (32, 2), (48, 30)]
    let t := ex (.tsg 1 0) (run (sets base [(Reg.tmb_VALUE 130, 10), (Reg.tmb_LIMIT 130, 20)]) 1 (fun _ => w))
    t.ctrValue 130 = 20 ∧ (t.fld (Reg.tmb_OVF 2)).testBit 2 = true := by decide +kernel
theorem test_setp_wraps : (ex (.setp 1) (gang (base.setFld (Reg.seq_P 0 1 200) 7) 1
    (word [(0, 0x60), (32, 200), (40, 1), (64, 2 ^ 64 - 5)]))).param 1 200 = 2 := by decide +kernel
theorem test_agl_levels : (ex (.agl 1 0) (run base 1 (fun _ => word [(0, 0x08), (32, 3), (40, 2), (64, 64), (96, 3), (120, 2 ^ 32 - 128),
    (152, 1), (176, 7)]))).gen 0 1 3 = [⟨2, 64⟩, ⟨3, -128⟩, ⟨1, 7⟩] ++ GenSlot.reset.drop 3 := by decide +kernel
theorem test_opcode_unassigned_stops : (ex (.unassignedOpcode 1 0) (run base 1 (fun _ => 0x77))).fld (Reg.seq_STOP_WHY 0 1) = 6 := by
  decide +kernel
theorem test_pcap_clamps : (ex (.registerWrite .host 0x1_0128 100#64) State.reset).fld Reg.pwr_PCAP_REQ = 2000 := by decide +kernel
theorem test_array_req_rounds : (ex (.arrayReq .host 1211#64) State.reset).fld Reg.pwr_ARRAY_REQ = 1200 := by decide +kernel
/-- R289: NLOCAL 0 is clamped to 1. -/
theorem test_barrier_counts_entries : let s := sets base [(Reg.tmb_EN 5, 1), (Reg.tmb_NLOCAL 5, 4), (Reg.tmb_ARR 5, 1)]
    (ex (.enter .host 5) s).fld (Reg.tmb_ARR 5) = 2 := by decide +kernel
theorem test_limit_pulls_value : let t := ex (.limitWrite .host 130 5#32) (sets base [(Reg.tmb_VALUE 130, 10)])
    t.ctrValue 130 = 5 ∧ (t.fld (Reg.tmb_OVF 2)).testBit 2 = true := by decide +kernel
theorem test_mc_write_then_read : (ex (.hbmRead 70 .clean) (ex (.hbmWrite 70 [9#8, 8#8] false .clean) base)).hbmOut.data.getD 6 0 = 9 := by
  decide +kernel
theorem test_uncorrectable_poisons : (ex (.hbmRead 64 .uncorrectable) base).hbmOut.psn = true := by decide +kernel
theorem test_wr_flit_stores : (ex (.wr 3 (flit 1 7 (gib + 64) 0 (List.replicate 32 7))) (net base)).byte (gib + 95) = 7 := by decide +kernel
theorem test_rd_flit_answers : ((ex (.rd 3 (flit 2 7 gib 0 [])) ((net base).putBytes gib [5#8])).link 3).txq.map (fun f => (f.op, f.payload.head?)) =
    [(3, some 5#8)] := by decide +kernel
theorem test_step_idles : step State.reset = .next State.reset ∨ (∃ t, step State.reset = .next t) := .inr ⟨_, rfl⟩

/-! ## States that meet the statements' hypotheses -/

/-- Core 1 runs with KV on and x2 an address. -/
def kvAt (a : Nat) (s : State) : State :=
  { sets s [(Reg.cc_RUN 1, 1)] with cores := [(1, { CoreSt.reset with kven := true, x := [(2, BitVec.ofNat 64 a)] })] }

theorem test_kv_lanes_clauses : KvReady (kv [] []) 1 ∧ (3 : KvW).toNat < 4 ∧ (31 : Fin 32).val < 8 * 2 ^ (2 : KvW).toNat ∧
    (15 : Fin 32).val < 128 / (8 * 2 ^ (0 : KvW).toNat) ∧ 2 ≤ (2 : KvW).toNat := by
  unfold KvReady CoreRuns; decide +kernel

theorem test_kv_product_clauses : KvReady (kv [] []) 1 ∧ (2 : KvW).toNat < 3 ∧ (1 : KvW).toNat < 2 := by
  unfold KvReady CoreRuns; decide +kernel

/-- A flush of station 1's cache is in progress. -/
def flushing (s : State) : State := { s with flushes := [⟨1, [], [], []⟩] }

theorem test_kv_access_clauses : KvReady (kvAt (gib + 8) base) 1 ∧
    (let s := kvAt (gib + 8) base
     let a := kvAddr s 1 2 0xFF8
     a = gib ∧ s.coreAccess 1 a 16 false = .ok ∧ s.psnIn a 16 = false ∧ s.coreHeld 1 a 16 = false ∧
     s.coreAccess 1 a 8 true = .ok ∧ s.coreHeld 1 a 8 = false ∧ regionOf a = .hbm 5) ∧
    (let s := kvAt (potAddr 1 4096) base
     s.coreAccess 1 (kvAddr s 1 2 0) 16 true = .ok ∧ s.coreHeld 1 (kvAddr s 1 2 0) 16 = false ∧ regionOf (potAddr 1 4096) = .pot 1) ∧
    (let s := kvAt (rcpAddr 1 0 9) base
     s.coreAccess 1 (kvAddr s 1 2 0) 16 true = .ok ∧ s.coreHeld 1 (kvAddr s 1 2 0) 16 = false ∧ kvAddr s 1 2 0 = rcpAddr 1 0 9 ∧
     regionOf (rcpAddr 1 0 9) = .recipe 1 0 ∧ regionOf (rcpAddr 1 0 9 + 16 - 1) = .recipe 1 0 ∧ s.coreStn 1 = some 1 ∧
     s.fld (Reg.seq_ACTIVE 1 1) = 0) ∧
    (let s := flushing (kvAt (gib + 8) base)
     KvReady s 1 ∧ (∀ w ∈ [false, true], s.coreAccess 1 (kvAddr s 1 2 0) 16 w = .ok) ∧ s.coreHeld 1 (kvAddr s 1 2 0) 16 = true) := by
  unfold KvReady CoreRuns; decide +kernel

theorem test_kv_access_calm : Calm (kvAt (gib + 8) base) ∧ Calm (kvAt (potAddr 1 4096) base) ∧ Calm (kvAt (rcpAddr 1 0 9) base) ∧
    Calm (kvAt (gib + 8) (base.setPsn gib true)) :=
  ⟨calm_of _ (by decide +kernel), calm_of _ (by decide +kernel), calm_of _ (by decide +kernel), calm_of _ (by decide +kernel)⟩

theorem test_kv_exception_clauses : CoreRuns (kv [] []) 1 ∧
    (let b : BitVec 32 := 0x0B
     b.toNat % 128 = 0x0B ∧ (let s := sets base [(Reg.cc_RUN 1, 1)]
       CoreRuns s 1 ∧ (s.core 1).kvOn = false)) ∧
    (let b : BitVec 32 := 0x700B
     b.toNat % 128 = 0x0B ∧ kvLegal b.toNat = false) ∧
    (let b : BitVec 32 := 0
     ¬ (b.toNat % 128 = 0x0B ∨ b.toNat % 128 = 0x2B) ∧ baseLegal b.toNat = false) ∧
    (∀ u ∈ [false, true], let s : State := { sets base [(Reg.cc_RUN 1, 1)] with cores := [(1, { CoreSt.reset with user := u })] }
      CoreRuns s 1 ∧ (s.core 1).user = u) ∧
    (let s := kvAt 0xF00_0000_0000 base
     KvReady s 1 ∧ s.coreAccess 1 (kvAddr s 1 2 0) 16 false = .fault ∧ s.coreAccess 1 (kvAddr s 1 2 0) 8 true = .fault) ∧
    (let s := kvAt (gib + 8) (base.setPsn gib true)
     KvReady s 1 ∧ s.coreAccess 1 (kvAddr s 1 2 0) 16 false = .ok ∧ s.psnIn (kvAddr s 1 2 0) 16 = true ∧
     s.coreHeld 1 (kvAddr s 1 2 0) 16 = false ∧ (s.events.filter (fun e => decide (e.page = 0x87 + 1))).length < 3) := by
  unfold KvReady CoreRuns; decide +kernel

/-! Recipes -/

def wAgl : Nat := word [(0, 0x08), (32, 3), (40, 2), (64, 64), (96, 3), (120, 2 ^ 32 - 128), (152, 1), (176, 7)]
def wLpg : Nat := word [(0, 0x20), (32, 15), (64, 0x123456789ABCDEF0123456789ABCDEF0)]
def xf : Xfer := ⟨9, 1, 0, 3, true, 4 * 2 ^ 30, 0, .reset, .reset, 64, 0, 1, true, 0, [], false, [], []⟩

theorem test_local_command_clauses : Issuable (run base 1 (fun _ => 0)) 1 0 0x00 0 ∧
    (Issuable (run base 1 (fun _ => wAgl)) 1 0 0x08 wAgl ∧ ∀ l ∈ levelsOf wAgl, l.count ≠ 0) ∧
    Issuable (run base 1 (fun _ => wAgl + 1)) 1 0 0x09 (wAgl + 1) ∧
    Issuable (run base 1 (fun _ => wLpg)) 1 0 0x20 wLpg ∧ (run base 1 (fun _ => wLpg)).gops = [] ∧
    (let w := word [(0, 0x50), (32, 0x21)]
     Issuable (run base 1 (fun _ => w)) 1 0 0x50 w ∧ (run base 1 (fun _ => w)).fenceOpen 1 0 w = true ∧
     Issuable { run base 1 (fun _ => w) with xfers := [xf] } 1 0 0x50 w ∧
     ({ run base 1 (fun _ => w) with xfers := [xf] } : State).fenceOpen 1 0 w = false) := by
  unfold Issuable; decide +kernel

def wSetp (op : Nat) : Nat := word [(0, 0x60), (16, 7), (32, 200), (40, op), (64, 2 ^ 64 - 5)]
def wEnd : Nat := 0x7F
def lch (mask : Nat) (g : Option (BitVec 256)) : Launch := ⟨5, mask, g, false, false, 0⟩

theorem test_gang_command_clauses :
    (∀ k ∈ [0, 1, 2, 3], (gang base 5 (wSetp k)).gangWord 1 0x60 = some (lch 5 (some (BitVec.ofNat 256 (wSetp k))), wSetp k) ∧
      bitsOf (wSetp k) 41 40 = k) ∧
    (0x160 : Nat) % 256 = 0x60 ∧ bitOf 0x160 8 = true ∧ bitOf 0x260 9 = true ∧
    (gang base 15 wEnd).gangWord 1 0x7F = some (lch 15 (some (BitVec.ofNat 256 wEnd)), wEnd) ∧
    (∀ q ∈ quads 5, (gang base 5 (wSetp 0)).inBounds 1 q = true) ∧ (∀ q ∈ quads 15, (gang base 15 wEnd).inBounds 1 q = true) := by
  decide +kernel

theorem test_gang_issue_clauses : let same : State := run base 15 (fun _ => wEnd)
    let two (q : Nat) : Nat := if q = 2 then wSetp 0 else wEnd
    same.launch 1 = some (lch 15 none) ∧ quads 15 ≠ [] ∧
    (∀ q ∈ quads 15, same.canIssue 1 q = true ∧ same.inBounds 1 q = true ∧ gangOpc (same.cmdWord 1 q % 256) = true ∧
      same.psnIn (same.cmdAddr 1 q) 32 = false ∧ same.injFires (0x0C + q) 0 = false ∧
      same.substitute 1 (same.cmdWord 1 q) = some wEnd) ∧
    (∀ q ∈ quads 15, (run base 15 two).canIssue 1 q = true ∧ (run base 15 two).inBounds 1 q = true ∧
      gangOpc ((run base 15 two).cmdWord 1 q % 256) = true ∧ (run base 15 two).psnIn ((run base 15 two).cmdAddr 1 q) 32 = false ∧
      (run base 15 two).injFires (0x0C + q) 0 = false ∧ (run base 15 two).substitute 1 ((run base 15 two).cmdWord 1 q) = some (two q)) ∧
    (∃ q ∈ quads 15, ∃ r ∈ quads 15, two q ≠ two r) := by decide +kernel

/-- A recipe of station 1 on quadrants 0 and 1 has issued END. -/
def ended : State := { run base 3 (fun _ => 0) with launches := [(1, some ⟨5, 3, none, true, false, 0⟩)] }

theorem test_recipe_stop_clauses : (run base 3 (fun _ => 0x77)).launch 1 = some (lch 3 none) ∧
    ((run base 3 (fun _ => 0x77)).canIssue 1 0 = true ∧ (run base 3 (fun _ => 0x77)).inBounds 1 0 = true ∧
      (run base 3 (fun _ => 0x77)).psnIn ((run base 3 (fun _ => 0x77)).cmdAddr 1 0) 32 = false ∧
      assignedOpc ((run base 3 (fun _ => 0x77)).cmdWord 1 0 % 256) = false) ∧
    (let s := (run base 3 (fun _ => 0)).setFld (Reg.seq_PC 0 1) 64
     s.canIssue 1 0 = true ∧ s.inBounds 1 0 = false) ∧
    (let s := (run base 3 (fun _ => 0)).setPsn (rcpAddr 0 0 5) true
     s.canIssue 1 0 = true ∧ s.inBounds 1 0 = true ∧ s.cmdWord 1 0 % 256 = 0 ∧ s.psnIn (s.cmdAddr 1 0) 32 = true) ∧
    (let x : Watch := ⟨1, 128, 0, 5, .seq 1 0 16, 9⟩
     let s : State := { run base 3 (fun _ => 0) with holds := [(4, some (.watch 16))], watches := [(16, some x)] }
     s.launch 1 = some (lch 3 none) ∧ s.hold 1 0 = some (.watch 16) ∧ s.watch 16 = some x ∧ x.target = .seq 1 0 16 ∧ x.tmo ≠ 0) ∧
    (let w : BitVec 256 := BitVec.ofNat 256 (0x31 + 3 <<< 80)
     let s : State := { run base 3 (fun _ => 0) with holds := [(4, some (.noWatch w))] }
     s.hold 1 0 = some (.noWatch w) ∧ bitsOf w.toNat 95 80 ≠ 0) := by decide +kernel

theorem test_recipe_end_clauses : ended.launch 1 = some ⟨5, 3, none, true, false, 0⟩ ∧ ended.xfers = [] ∧ ended.spks = [] ∧
    ended.gops = [] ∧ ended.queued.get (fun _ => none) 1 = none ∧
    (let s : State := { ended with queued := [(1, some (8191, 5, true))] }
     s.queued.get (fun _ => none) 1 = some (8191, 5, true) ∧ s.flag Reg.sys_BUSY_510 = false) := by decide +kernel

/-- A launch of station 1 at word 63 on every quadrant, with SWAP. -/
def vLaunch : Word := BitVec.ofNat 64 (2 ^ 63 + 63 + (15 <<< 16) + (1 <<< 20))

theorem test_launch_clauses : HostUp base ∧ vLaunch.toNat.testBit 63 = true ∧ base.inReset 1 = false ∧ base.safe = false ∧
    base.launchOk 1 (bitsOf vLaunch.toNat 12 0) (bitsOf vLaunch.toNat 19 16) = true ∧ base.flag (Reg.seq_QUEUED 0 1) = false ∧
    base.launch 1 = none ∧ base.flag Reg.sys_BUSY_510 = false ∧
    (let s := run base 3 (fun _ => 0)
     HostUp s ∧ s.inReset 1 = false ∧ s.safe = false ∧ s.launchOk 1 63 15 = true ∧ s.flag (Reg.seq_QUEUED 0 1) = false ∧
     s.launch 1 = some (lch 3 none)) := by unfold HostUp; decide +kernel

theorem test_staged_and_recipe_memory_clauses : HostUp base ∧ (2 : Word).toNat.testBit 1 = true ∧
    regionOf (rcpAddr 0 1 5 + 8) = .recipe 0 1 ∧ base.recipeStn 0 5 = some 1 ∧ base.fld (Reg.seq_ACTIVE 0 1) ≠ 1 ∧
    regionOf (rcpAddr 0 0 5) = .recipe 0 0 ∧ base.fld (Reg.seq_ACTIVE 0 1) = 0 ∧
    regionOf (rcpAddr 2 0 8191 + 24) = .recipe 2 0 ∧ base.recipeStn 2 8191 = none := by unfold HostUp; decide +kernel

theorem test_counters_fit : CountersFit base := by unfold CountersFit; decide +kernel

def cnt : State := sets (net base) [(Reg.tmb_VALUE 130, 10), (Reg.tmb_LIMIT 130, 20)]
def wTsg (more : Nat) : Nat := word [(0, 0x30), (32, 63), (48, 3)] + more
def wTwt (val : Nat) : Nat := word [(0, 0x31), (32, 2), (48, val), (80, 7)]
def noWatches : List (Nat × Option Watch) := (List.range 16).map (fun i => (16 + i, some ⟨1, 140, 0, 99, .core 1 1 5, 0⟩))
/-- Barrier 5 of station 1 with its counts. -/
def bar (en arr adv nl : Nat) : State := sets base [(Reg.tmb_EN 5, en), (Reg.tmb_ARR 5, arr), (Reg.tmb_ADV 5, adv), (Reg.tmb_NLOCAL 5, nl)]
/-- Group entry 8, the first of station 1, with P members of which this module has a rank. -/
def grp (p rank : Nat) (s : State) : State :=
  { (sets s [(Reg.krt_GBASE 1, 8), (Reg.krt_GNUM 1, 4)]).putBytes gib
      (l4 (List.range p) ++ l4 ((List.range p).map (fun r => if r = rank then 7 else 0x50))) with
    groups := ([(32, BitVec.ofNat 64 ((p - 1) + rank <<< 16 + 1 <<< 32)), (33, BitVec.ofNat 64 (gib + 4 * p)),
      (34, BitVec.ofNat 64 gib), (35, 0x12#64)] : SMap Word).filter (fun e => e.2 ≠ 0) }

theorem test_tumbler_command_clauses : CountersFit (run cnt 3 (fun _ => wTsg 0)) ∧
    (Issuable (run cnt 3 (fun _ => wTsg 0)) 1 0 0x30 (wTsg 0) ∧ bitsOf (wTsg 0) 45 44 < 2 ∧
      bitsOf (wTsg 0) 43 32 < (run cnt 3 (fun _ => wTsg 0)).ctrNum 1 ∧ bitOf (wTsg 0) 100 = false ∧ bitOf (wTsg 0) 101 = false) ∧
    (let s := run cnt 3 (fun _ => wTsg (1 <<< 101))
     Issuable s 1 0 0x30 (wTsg (1 <<< 101)) ∧ bitOf (wTsg (1 <<< 101)) 101 = true ∧ s.allDone 1 0 = true) ∧
    (let w := wTsg (1 <<< 100 + 0x50 <<< 80)
     let s := run cnt 3 (fun _ => w)
     Issuable s 1 0 0x30 w ∧ bitsOf w 45 44 = 0 ∧ bitOf w 100 = true ∧ bitOf w 101 = false ∧ s.flag Reg.krt_VALID = true ∧
     bitsOf w 99 80 ≠ s.nodeId ∧ s.routeOf s.nodeId (bitsOf w 99 80) 0 = .port 3) ∧
    (let s (v : Nat) := run cnt 3 (fun _ => wTwt v)
     Issuable (s 30) 1 0 0x31 (wTwt 30) ∧ 2 < (s 30).ctrNum 1 ∧ bitsOf (wTwt 30) 46 44 < 3 ∧ (s 30).freeWatch 1 = some 16 ∧
     holdsCmp (bitsOf (wTwt 30) 46 44) ((s 30).ctrValue ((s 30).ctrBase 1 + 2)) 30 = false ∧
     Issuable (s 3) 1 0 0x31 (wTwt 3) ∧ (s 3).freeWatch 1 = some 16 ∧
     holdsCmp (bitsOf (wTwt 3) 46 44) ((s 3).ctrValue ((s 3).ctrBase 1 + 2)) 3 = true ∧
     Issuable { s 3 with watches := noWatches } 1 0 0x31 (wTwt 3) ∧ ({ s 3 with watches := noWatches } : State).freeWatch 1 = none) := by
  unfold CountersFit Issuable; decide +kernel

def wTba : Nat := word [(0, 0x32), (32, 1), (40, 1)]

theorem test_tba_clauses : let g (s : State) : State := gang (grp 2 0 s) 11 wTba
    let l : Launch := lch 11 (some (BitVec.ofNat 256 wTba))
    ((g (bar 1 0 0 4)).gangWord 1 0x32 = some (l, wTba) ∧ bitsOf wTba 39 32 < (g (bar 1 0 0 4)).barNum 1 ∧
      (g (bar 1 0 0 4)).barBase 1 + 1 = 5 ∧ (g (bar 1 2 0 4)).flag (Reg.tmb_EN 5) = true ∧
      (g (bar 1 2 0 4)).fld (Reg.tmb_ARR 5) + 1 < (g (bar 1 2 0 4)).fld (Reg.tmb_NLOCAL 5)) ∧
    (let s := g (bar 1 4 3 4)
     s.gangWord 1 0x32 = some (l, wTba) ∧ s.flag (Reg.tmb_EN 5) = true ∧ s.fld (Reg.tmb_ARR 5) = s.fld (Reg.tmb_NLOCAL 5) ∧
     s.fld (Reg.tmb_ADV 5) < s.fld (Reg.tmb_NLOCAL 5) ∧
     ¬ (s.fld (Reg.tmb_KIDS 5) = (kids (s.group (s.barGroup 5)).p (s.group (s.barGroup 5)).rank).length ∧ s.fld (Reg.tmb_UP 5) = 0)) ∧
    (∀ q ∈ quads 11, (g (bar 1 0 0 4)).inBounds 1 q = true) ∧
    (g (bar 0 0 0 4)).flag (Reg.tmb_EN 5) = false := by decide +kernel

/-! Transfers and the Stockpot -/

def slot3 : GenSlot := [⟨2, 128⟩, ⟨1, 0⟩, ⟨1, 0⟩, ⟨1, 0⟩, ⟨1, 0⟩, ⟨1, 0⟩]
def gen34 (s : State) : State := { s with gens := [(64 + 3, slot3), (64 + 4, slot3)] }
def wLdt : Nat := word [(0, 1), (32, gib), (96, 4096), (160, 3), (166, 4), (172, 32), (196, 1), (198, 2), (210, 1)]
def wStt : Nat := word [(0, 2), (32, 4096), (96, gib + 4064), (172, 32), (198, 2)]
/-- An outstanding LDT of 32 bytes into Tray address 4096. -/
def xLdt : Xfer := ⟨0, 1, 0, 3, true, gib, 4096, .reset, .reset, 32, 0, 2, true, 0, [], false, [], []⟩

theorem test_transfer_issue_clauses :
    (let s := run (gen34 base) 3 (fun _ => wLdt)
     Issuable s 1 0 0x01 wLdt ∧ s.xferOk 1 true (xferF true wLdt) (s.gen 0 1 3) (s.gen 0 1 4) = true ∧
     (∀ y ∈ s.xfers, y.id < s.nextId) ∧ ¬ (16 ≤ (s.xfersAt 0).length) ∧ s.gops = [] ∧ s.xfers = []) ∧
    (let s := run (gen34 base) 3 (fun _ => wStt)
     Issuable s 1 0 0x02 wStt ∧ s.xferOk 1 false (xferF false wStt) (s.gen 0 1 0) (s.gen 0 1 0) = true) ∧
    (let s : State := { run (gen34 base) 3 (fun _ => wLdt) with xfers := [xLdt], nextId := 9 }
     Issuable s 1 0 0x01 wLdt ∧ s.xferOk 1 true (xferF true wLdt) (s.gen 0 1 3) (s.gen 0 1 4) = true ∧
     (∀ y ∈ s.xfers, y.id < s.nextId) ∧
     ∃ y ∈ s.xfers, y.ivl.meets (Xfer.ivl ⟨9, 1, 0, 5, true, gib, 4096, slot3, slot3, 32, 1, 2, true, 0, [], false, [], []⟩) = true) := by
  unfold Issuable; decide +kernel

theorem test_transfer_end_clauses : let s : State := { base with xfers := [xLdt] }
    s.safe = false ∧ s.xfer? 0 = some xLdt ∧ xLdt.node = s.nodeId ∧ CountersFit s ∧ xLdt.stn < 8 ∧ xLdt.ctr < s.ctrNum 1 ∧
    s.xferHeld xLdt = false ∧ (flushing s).xferHeld xLdt = true ∧ (flushing s).xfer? 0 = some xLdt := by
  unfold CountersFit; decide +kernel

theorem test_transfer_end_clean : CleanCopy xLdt := by
  have y : xLdt.sgen.yield = 1 := by decide
  have r : xLdt.run = 32 := rfl
  have sa : ∀ i, srcOf xLdt 0 i = gib + i := fun i => by
    have : xLdt.sgen.addr (gLocal xLdt.src) 0 = gib := by decide
    simp [srcOf, xLdt] at this ⊢; omega
  have da : ∀ i, dstOf xLdt 0 i = trayAddr 0 4096 + i := fun i => by
    have : xLdt.dgen.addr (trayAddr 0 xLdt.dst) 0 = trayAddr 0 4096 := by decide
    simp [dstOf, xLdt] at this ⊢; omega
  refine ⟨fun k i j l hk hi hj hl => ?_, fun k i j l hk hi hj hl h => ?_, fun k i hk hi => ?_⟩
  · obtain rfl : k = 0 := by omega
    obtain rfl : j = 0 := by omega
    rw [sa, da]; simp [gib, trayAddr]; omega
  · obtain rfl : k = 0 := by omega
    obtain rfl : j = 0 := by omega
    rw [da, da] at h; exact ⟨rfl, by omega⟩
  · obtain rfl : k = 0 := by omega
    rw [sa, da]; rw [r] at hi
    have h : ∀ i, i < 32 → inTagArea (gib + i) = false ∧ inTagArea (trayAddr 0 4096 + i) = false := by decide +kernel
    exact h i hi

def wSpk (op desc : Nat) : Nat := word [(0, 0x21), (32, op), (34, 3), (48, 2), (64, desc), (128, 2), (140, 1)]
/-- Blocks 3 and 4 of quadrant 0 open. -/
def opened (s : State) : State := sets s [(spByte 0 3, 0x21), (spByte 0 4, 0x21)]
def cdesc (dst ofmt more : Nat) : Nat := word [(0, dst), (64, ofmt), (0x30 * 8, 0x55)] + more
def withDesc (d : Nat) (s : State) : State := s.putBytes (gib + 0x1000) (leBytes d 64)

theorem test_stockpot_issue_clauses :
    (let s := run base 3 (fun _ => wSpk 0 0)
     SpkPasses s 1 0 (wSpk 0 0) 0 ∧ ∀ i, i < 2 → bitOf (s.fld (spByte 0 (3 + i))) 0 = false) ∧
    (let w := wSpk 1 (gib + 0x1000)
     let s := run (withDesc (cdesc gib 0 (1 <<< (0x10 * 8 + 12) + 63 <<< (0x10 * 8))) (opened base)) 3 (fun _ => w)
     SpkPasses s 1 0 w 1 ∧ s.inRange 1 (gib + 0x1000) 64 = true ∧ s.memHeld 1 (gib + 0x1000) 64 = false ∧
     (flushing s).memHeld 1 (gib + 0x1000) 64 = true ∧ SpkPasses (flushing s) 1 0 w 1 ∧ s.psnIn (gib + 0x1000) 64 = false ∧
     bitOf (s.word (gib + 0x1000) 64) (0x10 * 8 + 12) = true ∧
     bitsOf (s.word (gib + 0x1000) 64) (0x10 * 8 + 11) (0x10 * 8) < s.ctrNum 1) ∧
    (let s := run (opened base) 3 (fun _ => wSpk 2 0)
     SpkPasses s 1 0 (wSpk 2 0) 2 ∧ (s.spks.map (fun x => x.id)).Nodup) := by
  unfold SpkPasses Issuable; decide +kernel

theorem test_stockpot_end_clauses : let x : Spk := ⟨7, 1, 3, 5, 0, 16382, 2, 0, 63, true, 0, 0⟩
    let s : State := { base with spks := [x, { x with id := 8, op := 2 }] }
    s.safe = false ∧ s.spks.find? (fun y => decide (y.id = 7 ∧ y.op ≠ 1)) = some x ∧
    s.spks.find? (fun y => decide (y.id = 8 ∧ y.op ≠ 1)) = some { x with id := 8, op := 2 } ∧ x.q < 4 ∧ x.stn < 8 ∧
    x.blk + x.nblk ≤ 16384 ∧ CountersFit s ∧ x.ctr < s.ctrNum x.stn := by unfold CountersFit; decide +kernel

/-- A COMMIT of blocks 3 and 4 at its gate. -/
def gateX (d : Nat) : Spk := ⟨7, 1, 0, 5, 1, 3, 2, d, 2, true, 0, 0⟩
def gateS (d : Nat) : State := { opened base with spks := [gateX d] }

theorem test_commit_clauses :
    (let d := cdesc gib 0 (1 <<< (64 * 2 + 12) + 2 <<< (64 * 2) + 4 <<< (64 * 2 + 32))
     (gateS d).safe = false ∧ (gateS d).spks.find? (fun y => decide (y.id = 7) && y.unwritten) = some (gateX d) ∧
     bitsOf d (0x20 * 8 + 63) (0x20 * 8) = 0 ∧ bitOf d (0x10 * 8 + 12) = true ∧
     (gateS d).ctrValue ((gateS d).ctrBase 1 + bitsOf d (0x10 * 8 + 11) (0x10 * 8)) < bitsOf d (0x10 * 8 + 63) (0x10 * 8 + 32)) ∧
    (let d := cdesc gib 0 0
     bitOf d (0x10 * 8 + 12) = false ∧ gNode (d % 2 ^ 64) = (gateS d).nodeId ∧ (flushing (gateS d)).memHeld 1 (gLocal (d % 2 ^ 64)) 1 = true) ∧
    (let d := cdesc gib 9 0
     bitOf d (0x10 * 8 + 12) = false ∧ (gateS d).memHeld 1 (gLocal (d % 2 ^ 64)) 1 = false ∧ bitOf d (8 * 8 + 9) = false ∧
     (match (gateS d).commitCheck (gateX d) with | .fail 6 false none => true | _ => false) = true) ∧
    (let d := cdesc gib 0 0
     (match (gateS d).commitCheck (gateX d) with | .go true _ => true | _ => false) = true ∧
     gNode (d % 2 ^ 64) = (gateS d).nodeId ∧ bitsOf d (8 * 8 + 3) (8 * 8) = 0 ∧ isHbm (gib + 8192) = true ∧
     (∀ i, i < 2 → isHbm (gib + i * 4096) = true ∧ (gateS d).check (some 1) (gib + i * 4096) 4096 true = .ok)) ∧
    (let x : Spk := { gateX (cdesc gib 0 0) with phase := 1, sent := 2 }
     let s : State := { opened base with spks := [x] }
     s.spks.find? (fun y => decide (y.id = x.id ∧ y.op = 1 ∧ y.phase = 1)) = some x ∧ CountersFit s ∧ x.ctr < s.ctrNum x.stn ∧
     x.blocks ≤ x.sent ∧ s.acked x.id = true) := by unfold CountersFit; decide +kernel

theorem test_commit_calm : Calm (run (withDesc (cdesc gib 0 0) (opened base)) 3 (fun _ => wSpk 1 (gib + 0x1000))) ∧
    Calm (gateS (cdesc gib 9 0)) ∧ Calm (gateS (cdesc gib 0 0)) :=
  ⟨calm_of _ (by decide +kernel), calm_of _ (by decide +kernel), calm_of _ (by decide +kernel)⟩

/-! The Griddle, the Ladle and the Sieve -/

def opd (at_ fmt ag kch : Nat) : Nat := word [(0, at_), (28, fmt), (32, ag), (48, kch)]
/-- A GOP of two rows and two waves of FP16 on quadrant 0. -/
def wGop : Nat := word [(0, 0x10), (67, 2), (71, 2), (95, 2), (128, opd 0x1_0000 2 1 1), (192, opd 0x2_0000 2 2 1)]
def lvl (c s : Nat) : GenSlot := [⟨c, s⟩, ⟨1, 0⟩, ⟨1, 0⟩, ⟨1, 0⟩, ⟨1, 0⟩, ⟨1, 0⟩]
def wDrain (dkind : Nat) : Nat := word [(0, 0x4_0000), (128, 1), (132, dkind), (184, 64)]
def prog (s : State) : State :=
  { s with gens := [(64 + 1, lvl 2 32), (64 + 2, lvl 16 32)], lslots := [(16 + 2, some (BitVec.ofNat 192 (wDrain 4)))] }
def lGop : Launch := ⟨5, 1, some (BitVec.ofNat 256 wGop), false, false, 0⟩
/-- An operation of which nothing is known. -/
def gop0 : Gop :=
  ⟨0, 0, 0, 0, 0, [], [], [], false, false, false, 0, [], [], none, 0, 0, [], [], [], [], [], [], 0, false, [], [], [], [], none, false⟩
/-- The operation of wGop in a state where it issues. -/
def gopAt (s : State) (ds : List Drain) : Gop :=
  { gop0 with
    id := s.nextId, stn := 1, pc := s.pc 0 1, qmask := 1, word := BitVec.ofNat 256 wGop, agA := s.gen 0 1 1, agB := s.gen 0 1 2
    drains := ds }
/-- Every check of the launch's GOP accepts it, and it must wait, or need not. -/
def gopWaiting (s : State) : Option Bool :=
  match s.programs 1 (gopF wGop) with
  | none => none
  | some ds =>
    if s.gopOperandsOk 1 lGop (gopF wGop) (s.gen 0 1 1) (s.gen 0 1 2) (ds.any (fun d => d.f.ovf)) &&
        ds.all (fun d => s.programOk 1 (gopF wGop) (s.gen 0 1 2).yield (ds.any (fun d => d.f.ovf)) d)
    then some (s.gopWaits (gopAt s ds) false) else none
/-- Station 2 has an operation that waits, and station 1 one. -/
def gop2 (chained : Bool) (v : Nat) : State :=
  let g := gopAt base []
  { base with gops := [g, { g with id := 7, stn := 2, chained := chained }], justReady := [1], vt := [(1, 5), (2, v)], nextId := 8 }

theorem test_gop_clauses : (gang base 1 wGop).gangWord 1 0x10 = some (lGop, wGop) ∧
    (gang base 1 wGop).programs 1 (gopF wGop) = none ∧
    (gang (prog base) 1 wGop).gangWord 1 0x10 = some (lGop, wGop) ∧ gopWaiting (gang (prog base) 1 wGop) = some false ∧
    ({ gang (prog base) 1 wGop with xfers := [{ xLdt with dst := 0x1_0000 }] } : State).gangWord 1 0x10 = some (lGop, wGop) ∧
    gopWaiting { gang (prog base) 1 wGop with xfers := [{ xLdt with dst := 0x1_0000 }] } = some true ∧
    (gang (prog base) 1 wGop).gops = [] := by decide +kernel

theorem test_gop_grant_clauses : (∀ k, ¬ GrdReady base k) ∧
    (∀ v ∈ [3, 5, 9], (∀ g ∈ (gop2 true v).gops, g.granted = false) ∧ (gop2 true v).safe = false ∧
      GrdReady (gop2 true v) 1 ∧ GrdReady (gop2 true v) 2 ∧ (gop2 true v).vtOf 1 = 5 ∧ (gop2 true v).vtOf 2 = v ∧
      (∀ g ∈ (gop2 true v).gops, ¬ (g.stn = (gop2 true v).fld (Reg.grd_ARB_CUR 0) ∧ g.chained = true))) := by
  refine ⟨fun k h => ?_, ?_⟩
  · obtain ⟨-, ⟨g, ⟨h, -⟩⟩, -⟩ := h
    simp [show base.gops = [] from rfl] at h
  · unfold GrdReady; decide +kernel

/-- The operation holds the array, and this many waves have entered. -/
def waveAt (k : Nat) : State :=
  let s := prog base
  { s with gops := [{ gopAt s (match s.programs 1 (gopF wGop) with | some ds => ds | none => []) with granted := true, injected := k }] }

theorem test_wave_clauses : ∀ k ∈ [0, 1], (waveAt k).gops.find? (fun x => x.granted && !x.allIn) = (waveAt k).gops.head? ∧
    (waveAt k).gops.length = 1 ∧ (waveAt k).gops.all (fun g => g.canInject true && g.slip.isNone) = true ∧ (waveAt k).safe = false ∧
    ∀ q, q < 4 → (waveAt k).injFires (0x0C + q) 1 = false ∧ (waveAt k).injFires (4 + q) 0 = false := by decide +kernel

/-- A GOP of two passes over K, whose first wave is in: its first column results are not their elements' last. -/
def resultAt : State :=
  let w := word [(0, 0x10), (67, 2), (71, 2), (95, 4), (128, opd 0x1_0000 2 1 2), (192, opd 0x2_0000 2 2 1)]
  let s : State := { prog base with gens := [(64 + 1, lvl 4 32), (64 + 2, lvl 32 32)] }
  let ds := match s.programs 1 (gopF w) with | some ds => ds | none => []
  ex (.waveInject [] false) { s with gops := [{ gopAt s ds with word := BitVec.ofNat 256 w, granted := true }] }

theorem test_column_result_clauses : resultAt.gops.length = 1 ∧ resultAt.gops.all (fun g => g.due && (match g.cell with
      | some c => !c.last && !g.extra c && !resultAt.injFires (8 + c.quad) 0
      | none => false) && decide (resultAt.integ g.stn = 0) && decide (g.col ≠ g.lastCol) &&
      g.inflight.head?.all (fun w => decide (w.tag = g.done % 4))) = true ∧ resultAt.safe = false := by
  decide +kernel

/-- Every wave is in and no column result is due; a drain stages its elements or none does. -/
def allIn (ovf : Nat) (staged : List Staged) (reissue : Bool) : State :=
  let s : State := { prog base with lslots := [(16 + 2, some (BitVec.ofNat 192 (wDrain 4 + ovf <<< 156)))] }
  { s with
    gops := [{ gopAt s (match s.programs 1 (gopF wGop) with | some ds => ds | none => []) with
      granted := true, injected := 2, done := 2, staged := staged, reissue := reissue }]
    launches := [(1, some lGop)] }
def overflows (b : Bool) : Staged := ⟨0, 0, 3, { Part.empty with flags := { Flags.none with of := b } }⟩

theorem test_tile_clauses : (∀ e ∈ [(true, false), (true, true), (false, false)],
      let s := allIn 1 [overflows e.1, overflows false] e.2
      s.gops.find? (fun x => x.tileDue) = s.gops.head? ∧ s.gops.length = 1 ∧ s.safe = false ∧
      s.gops.all (fun g => g.staged.all (fun x => (s.missing g (g.stagedCell x)).isEmpty)) = true) ∧
    (let s := allIn 0 [] false
     s.gops.find? (fun x => x.granted) = s.gops.head? ∧ s.safe = false ∧ s.launch 1 = some lGop ∧ s.gops.length = 1 ∧
     s.gops.all (fun g => g.atEnd && decide (g.done = g.f.waves) && decide (g.injected = g.f.waves) && g.slip.isNone && !g.poison && decide (g.stn = 1) &&
      (((s.fillTrn g).1.flushMx (s.fillTrn g).2).2.remoteBlocks s.nodeId).isEmpty) = true) := by
  decide +kernel

def verdict (skip ok : Bool) : Verdict :=
  { stn := 1, gop := 5, quad := 2, grp := 3, tile := 4, pass := 5, kind := 1, p := -77, o := 123, tol := 9, skip := skip, ok := ok }

theorem test_sieve_clauses : ∀ valid ∈ [0, 1],
    let s := sets base [(Reg.sve_VALID 1, valid), (Reg.sve_MISM 1, 65535)]
    s.injFires 0x99 0 = false ∧ (s.stepOf 1).pend = none ∧ s.flag (Reg.sve_VALID 1) = decide (valid = 1) ∧
    (s.events.filter (fun e => decide (e.page = 0x99))).length < 4 := by decide +kernel

/-- Block 3 of quadrant 0, open as FP64, has elements 1.5 and −3. -/
def scanBlock : State :=
  (base.putBytes (potAddr 0 (4096 * 3)) (leBytes 0x3FF8_0000_0000_0000 8 ++ leBytes 0xC008_0000_0000_0000 8)).setFld (spByte 0 3) 0x21
def normAt (s : State) (j : NormJob) : State := { s with norms := [j] }
def jFlush : NormJob := ⟨9, true, 0, 1, 1, 2, 0, 0, 0, true⟩
def jScan : NormJob := ⟨9, false, 0, 1, 3, 1, 15, 0, 0, true⟩
def rlog (len head : Nat) : State :=
  normAt (sets base [(Reg.ldl_RLOG_BASE 0 1, gib / 4096), (Reg.ldl_RLOG_LEN 0 1, len), (Reg.ldl_RLOG_HEAD 0 1, head),
    (Reg.ldl_BUSY_1018 0 1, 1), (Reg.ldl_NORM 0 1 4, 0x4000_0000_0000_0000)]) jFlush

theorem test_norm_clauses :
    (HostUp base ∧ (0x8000_0000_0000_0005 : Word).toNat.testBit 63 = true ∧ base.flag (Reg.ldl_BUSY_1018 0 1) = false ∧
      base.flag (Reg.ldl_BUSY_1020 3 1) = false ∧ (sets base [(Reg.ldl_BUSY_1018 0 1, 1)]).flag (Reg.ldl_BUSY_1018 0 1) = true ∧
      (sets base [(Reg.ldl_BUSY_1020 3 1, 1)]).flag (Reg.ldl_BUSY_1020 3 1) = true) ∧
    (∀ len ∈ [0, 2], (rlog len 255).safe = false ∧ (rlog len 255).normBusy jFlush = false ∧
      (rlog len 255).fld (Reg.ldl_RLOG_LEN 0 1) = len ∧ (rlog len 255).fld (Reg.ldl_RLOG_BASE 0 1) * 4096 = gib ∧
      (rlog len 255).inHbmRange 1 gib (4096 * 2) = true ∧ inTagArea (gib + 255 % (128 * 2) * 32) = false) ∧
    (let s := normAt scanBlock jScan
     s.safe = false ∧ s.normBusy jScan = false ∧ s.spks = [] ∧ s.gops = [] ∧ inWin (s.potWin 1 0) (4096 * 3) 4096 = true ∧
     bitsOf (s.fld (spByte 0 3)) 5 0 = 0x21 ∧ s.psnIn (potAddr 0 (4096 * 3)) 4096 = false ∧ s.injFires 8 1 = false ∧
     ∀ i, i < 512 → (match Fmt.fp64.decode (s.word (potAddr 0 (4096 * 3) + 8 * i) 8) with | .fin _ _ _ => true | _ => false) = true) := by
  unfold HostUp; decide +kernel

/-! Engines -/

/-- A dispatch: descriptor at gib, engine, counter, CEN, REL. -/
def wEng (opc e ctr rel : Nat) : Nat := word [(0, opc), (32, gib), (80, e), (85, ctr), (97, 1), (98, rel)]
def qd (a c n : Nat) : QDesc := ⟨n, a, c, true, none, none⟩
def engAt (opc e ctr rel : Nat) : State := run base 3 (fun _ => wEng opc e ctr rel)

theorem test_engine_queue_clauses :
    (∀ e ∈ [(0, 20, 0), (0, 0, 64), (1, 4, 0), (2, 31, 63), (0, 19, 63), (1, 3, 63), (2, 3, 0)],
      Issuable (engAt (0x40 + e.1) e.2.1 e.2.2 0) 1 0 (0x40 + e.1) (wEng (0x40 + e.1) e.2.1 e.2.2 0) ∧
      (engAt (0x40 + e.1) e.2.1 e.2.2 0).launch 1 = some (lch 3 none) ∧
      bitsOf (wEng (0x40 + e.1) e.2.1 e.2.2 0) 84 80 = e.2.1 ∧ bitsOf (wEng (0x40 + e.1) e.2.1 e.2.2 0) 96 85 = e.2.2 ∧
      (engAt (0x40 + e.1) e.2.1 e.2.2 0).ctrNum 1 = 64) ∧
    (let s : State := { engAt 0x40 1 2 1 with xfers := [xLdt] }
     Issuable s 1 0 0x40 (wEng 0x40 1 2 1) ∧ bitOf (wEng 0x40 1 2 1) 98 = true ∧ s.allDone 1 0 = false) ∧
    ((engAt 0x41 1 2 1).allDone 1 0 = true) := by unfold Issuable; decide +kernel

theorem test_engine_room : EngRoom base 0 1 19 ∧ EngRoom base 1 1 3 ∧ EngRoom base 2 1 3 ∧
    ¬ EngRoom { base with whisks := [(1, ⟨List.replicate 8 (qd gib 1 1), none, 0⟩)] } 0 1 1 ∧
    EngRoom { base with whisks := [(1, ⟨List.replicate 8 (qd gib 1 1), none, 0⟩)] } 0 2 1 ∧
    ¬ EngRoom { base with mortars := [(1, ⟨List.replicate 4 (qd gib 1 1), 0, none, none, false, false, 0⟩)] } 2 1 1 := by
  simp only [EngRoom]; decide +kernel

theorem test_doorbell_clauses : HostUp base ∧ base.flag Reg.sys_BUSY_510 = false ∧ base.inReset 1 = false ∧ base.safe = false ∧
    base.ctrNum 1 = 64 ∧ ∀ c ∈ [0, 63, 64, 4095], (BitVec.ofNat 64 (2 ^ 63 + c <<< 44 + gib)).toNat.testBit 63 = true ∧
      bitsOf (BitVec.ofNat 64 (2 ^ 63 + c <<< 44 + gib)).toNat 55 44 = c := by unfold HostUp; decide +kernel

def fp1 : Nat := 0x3FF0000000000000
def fp2 : Nat := 0x4000000000000000
def xAt : Nat := gib + 0x1000
def yAt : Nat := gib + 0x2000
def aAt : Nat := gib + 0x3000
/-- A Whisk descriptor: word 0, ROWS, COLS, LDA, X, Y and the three AUX words. -/
def wd (w0 rows cols lda x y : Nat) (aux : List Nat) : Nat :=
  word [(0, w0), (64, rows), (96, cols), (128, aAt), (192, lda), (256, x), (320, y), (384, fp2), (448, fp1), (512, aux.getD 0 0),
    (576, aux.getD 1 0), (640, aux.getD 2 0), (0x58 * 8, 0x3F800000), (0x5C * 8, 0x3F000000), (0x60 * 8, 0x3F800000),
    (0x64 * 8, 0x3F000000), (0x68 * 8, 0x3F800000), (0x6C * 8, 0x3F800000), (0x70 * 8, 0x322BCC77), (0x74 * 8, 0x3C23D70A)]
def wskQ (d : Nat) (q : List QDesc) (last : Nat) : State :=
  { base.putBytes gib (leBytes d 160) with whisks := [(1, ⟨q, none, last⟩)], dispatches := [(4, qd gib 1 1)] }
def wskStarted (d : Nat) (more : State → State) : State := ex (.chainStart 1) (more (wskQ d [qd gib 1 1] 0))
def wGemv : Nat := wd (2 ^ 18) 3 2 16 xAt yAt []
/-- A chain that has ended with a code. -/
def chainCode (k : Nat) (writes : Bool) : State :=
  { wskStarted wGemv id with whisks := (wskStarted wGemv id).whisks.map (fun (e : Nat × Whisk) =>
      (e.1, { e.2 with run := e.2.run.map (fun (c : Chain) => { c with code := k, writes := writes }) })) }

theorem test_whisk_start_clauses :
    (let d := qd gib 1 1
     let s := wskQ wGemv [qd gib 2 2, d, qd (gib + 256) 5 1] 7
     (s.whisk 1).run = none ∧ 0x11 ∉ s.engResets ∧ (s.whisk 1).last < 8 ∧ d ∈ (s.whisk 1).queue ∧ s.safe = false ∧
     (∀ x ∈ (s.whisk 1).queue, x.stn < 8 ∧ (d.stn + 7 - (s.whisk 1).last) % 8 ≤ (x.stn + 7 - (s.whisk 1).last) % 8) ∧
     (s.whisk 1).queue.find? (fun x => decide (x.stn = d.stn)) = some d ∧ s.check (some 1) gib 160 true = .ok ∧
     s.memHeld 1 gib 160 = false ∧ (flushing s).memHeld 1 gib 160 = true) ∧
    (wskQ wGemv [] 0).check (some 1) (9 * 2 ^ 30) 160 true ≠ .ok ∧ (wskQ wGemv [] 0).memHeld 1 (9 * 2 ^ 30) 160 = false ∧
    (let f := wskF ((wskQ (wd 0 0 2 16 xAt yAt []) [qd gib 1 1] 0).word gib 160)
     f.rows = 0) ∧ (base.whisk 1).run = none ∧ (base.whisk 1).queue = [] := by decide +kernel

theorem test_whisk_end_clauses : CountersFit base ∧ ∀ e ∈ [(1, true), (5, true), (3, false)],
    ((chainCode e.1 e.2).whisk 1).run.all (fun c => decide (c.code = e.1) && decide (c.writes = e.2) && c.q.cen && c.q.mortar.isNone &&
      (chainCode e.1 e.2).acked c.id && decide (c.q = qd gib 1 1) && decide (c.cur = gib)) = true ∧
    ((chainCode e.1 e.2).whisk 1).run.isSome = true ∧ (chainCode e.1 e.2).ctrNum 1 = 64 ∧
    (∀ i, i < 8 → inTagArea (gib + 0x88 + i) = false) := by unfold CountersFit; decide +kernel

def chain0 (d : Nat) : Chain := ⟨qd gib 1 1, gib, 0, 0, [], false, 0, 0, false, d⟩
/-- Whisk 1 runs the descriptor's link. -/
def wskOn (d : Nat) (s : State) : State :=
  { s.putBytes gib (leBytes d 160) with whisks := [(1, ⟨[], some (chain0 d), 1⟩)] }
/-- The descriptor's link runs on Whisk 1, of a kind, with its ranges within the module. -/
def wskRunning (s : State) (d k : Nat) : Bool :=
  let f := wskF d
  let rs := f.vectors ++ f.outputs ++ (if k = 0 then f.rowRanges else [])
  !s.safe && decide ((s.whisk 1).run = some (chain0 d)) && decide (f.kind = k) && decide (f.afmt < 4) && decide (f.ofmt < 4) &&
    !f.xbuf && rs.all (fun r => decide (gNode r.1 = s.nodeId)) && !s.anyHeld 1 rs

theorem whisk_runs_of_running (s : State) (d k : Nat) (h : wskRunning s d k = true) : WskRuns s 1 (chain0 d) (wskF d) k := by
  simp only [wskRunning, Bool.and_eq_true, Bool.not_eq_true', decide_eq_true_eq, List.all_eq_true] at h
  obtain ⟨⟨⟨⟨⟨⟨⟨h1, h2⟩, h3⟩, h4⟩, h5⟩, h6⟩, h7⟩, h8⟩ := h
  refine ⟨h1, h2, rfl, rfl, h3, h4, h5, fun hx => ?_, h7, h8⟩
  rw [h6] at hx; cases hx

theorem test_whisk_kind_clauses : (∀ d ∈ [wGemv, wd (2 ^ 18 + 8) 3 2 16 xAt yAt [], wd (2 ^ 19 + 2 ^ 17) 3 2 16 xAt yAt []],
      wskRunning (wskOn d base) d 0 = true) ∧
    wskRunning (wskOn (wd 2 3 0 0 xAt yAt []) base) (wd 2 3 0 0 xAt yAt []) 2 = true ∧
    wskRunning (wskOn (wd 3 3 0 0 xAt yAt [aAt]) base) (wd 3 3 0 0 xAt yAt [aAt]) 3 = true ∧
    wskRunning (wskOn (wd (4 + 0x110) 3 0 0 xAt yAt [aAt, aAt + 0x100, aAt + 0x200]) base)
      (wd (4 + 0x110) 3 0 0 xAt yAt [aAt, aAt + 0x100, aAt + 0x200]) 4 = true := by decide +kernel

def wBsr : Nat := word [(0, 1), (64, 16), (96, 16), (128, aAt), (256, xAt), (320, yAt), (384, fp1), (448, fp1), (512, gib + 0x5000),
  (576, gib + 0x5100)]
/-- A BSR matrix of two block rows, whose last block lies at the column. -/
def bsrAt (col : Nat) : State :=
  wskOn wBsr ((base.putBytes (gib + 0x5000) (l4 [0, 1, 3])).putBytes (gib + 0x5100) (l4 [1, 0, col]))

theorem test_bsrmv_clauses : ∀ col ∈ [1, 2], wskRunning (bsrAt col) wBsr 1 = true ∧
    (let s := bsrAt col
     let f := wskF wBsr
     let c := chain0 wBsr
     f.trans = false ∧ s.bsrCount c f = 3 ∧ s.gOk 1 f.aux2 12 false = true ∧ gNode f.aux2 = s.nodeId ∧
     s.memHeld 1 (gLocal f.aux2) 12 = false ∧ (s.bsrBlocks c f).length = 3 ∧
     (∀ b ∈ s.bsrBlocks c f, s.gOk 1 b.2.2.1 (f.bs * f.bs * f.eb) false = true ∧ gNode b.2.2.1 = s.nodeId ∧
       s.memHeld 1 (gLocal b.2.2.1) (f.bs * f.bs * f.eb) = false) ∧
     ((∃ b ∈ s.bsrBlocks c f, f.cols / f.bs ≤ b.2.1) ↔ col = 2)) := by decide +kernel

theorem test_adamw_clauses : let f := wskF (wd (4 + 0x110) 3 0 0 xAt yAt [aAt, aAt + 0x100, aAt + 0x200])
    f.link = false ∧ f.y ≠ 0 ∧ NoTags (gLocal f.aux1) (4 * f.rows) ∧ NoTags (gLocal f.aux2) (4 * f.rows) ∧
    NoTags (gLocal f.y) (f.fo.width / 8 * f.rows) ∧ Apart (gLocal f.aux1) (4 * f.rows) (gLocal f.aux2) (4 * f.rows) ∧
    Apart (gLocal f.aux1) (4 * f.rows) (gLocal f.y) (f.fo.width / 8 * f.rows) ∧
    Apart (gLocal f.aux2) (4 * f.rows) (gLocal f.y) (f.fo.width / 8 * f.rows) := by unfold NoTags Apart; decide +kernel

/-! Tongs -/

def tabA : Nat := gib + 0x4000
/-- Table 3 of station 1. -/
def tbl (nrows rowb : Nat) : State :=
  sets base [(Reg.tng_BASE_A 0 1 3, tabA), (Reg.tng_BASE_B 0 1 3, gib + 0x100000), (Reg.tng_NROWS 0 1 3, nrows), (Reg.tng_ROWB 0 1 3, rowb),
    (Reg.tng_VALID 0 1 3, 1), (Reg.tng_EPOCH 0 1 3, 7), (Reg.tng_ECTR 0 1 3, 4)]
def tngWord (kind efmt n : Nat) (more : List (Nat × Nat)) : Nat :=
  word ([(0, kind), (3, 3), (9, efmt), (12, 3), (18, 1), (64, n), (64 + 40, 5), (128, gib), (192, gib + 0x1000)] ++ more)
def tdesc (d code : Nat) : TDesc :=
  ⟨qd (gib + 0x800) 2 1, d % 8, bitOf d 7, 3, 7, if d % 8 = 4 then none else some false, code, .none, false, 3, 50, d⟩
def tngAt (s : State) (d : Nat) : State :=
  { s.putBytes gib (l4 [1, 3, 1, 2]) with tongs := [(1, ⟨[], [tdesc d 0], []⟩)], nextId := 60 }
def fpWords : List Byte := l4 [0x3F800000, 0x40000000, 0x40400000, 0xBF800000, 0x3DCCCCCD, 0x3FC00000, 0x4B800000, 0x33800000]
def wHash (kind efmt : Nat) : Nat := tngWord kind efmt 2 [(256, 1), (260, 4), (265, 1), (320, gib + 0x3000)]
/-- Two points, two levels of sixteen rows. -/
def hashAt (rowb kind efmt : Nat) : State :=
  tngAt (((tbl 32 rowb).putBytes (gib + 0x3000) (l4 [1, 300])).putBytes (gib + 0x1000) (fpWords)) (wHash kind efmt) |>.putBytes gib
    (l4 [0x3E800000, 0x3F000000, 0x3F400000, 0x40000000, 0xBF800000, 0x3E4CCCCD])

theorem test_gather_clauses : ∀ nrows ∈ [3, 4],
    let s := tngAt (tbl nrows 8) (tngWord 0 0 4 [])
    let f := tngF (tngWord 0 0 4 [])
    TngRuns s 1 (tdesc (tngWord 0 0 4 []) 0) f 0 ∧ OwnRanges s 1 false [(f.idx, (if f.idx64 then 8 else 4) * f.n)] ∧
    OwnRanges s 1 true [(f.val, 8 * f.n)] ∧ RowsFit s (tdesc (tngWord 0 0 4 []) 0) f false ∧ NoTags (gLocal f.val) (8 * f.n) ∧ tngIdxAt s f 1 = 3 := by
  unfold TngRuns OwnRanges RowsFit NoTags; decide +kernel

theorem test_gather_range_clauses : ∀ k ∈ [0, 2],
    let w := tngWord k 0 (2 ^ 31) []
    TngRuns (tngAt (tbl 3 8) w) 1 (tdesc w 0) (tngF w) k ∧ (tngF w).n ≠ 0 ∧
    (tngAt (tbl 3 8) w).gOk 1 (tngF w).idx ((if k = 0 then (if (tngF w).idx64 then 8 else 4) else 12) * (tngF w).n) false = false := by
  unfold TngRuns; decide +kernel

theorem test_transpose_clauses : let w := tngWord 4 0 0 [(256, 2), (280, 8), (304, 2), (320, 2 ^ 32 * 32 + 32)]
    let f := tngF w
    let s := tngAt (tbl 3 8) w
    let dst (j : Nat) : Nat := gLocal f.val + j * f.dpitch
    TngRuns s 1 (tdesc w 0) f 4 ∧ 0 < f.rr ∧ 0 < f.cc ∧
    OwnRanges s 1 false ((List.range f.rr).map (fun i => (f.idx + i * f.spitch, 2 ^ f.esz * f.cc))) ∧
    OwnRanges s 1 true ((List.range f.cc).map (fun j => (f.val + j * f.dpitch, 2 ^ f.esz * f.rr))) ∧
    gNode f.idx = s.nodeId ∧ gNode f.val = s.nodeId ∧ (∀ j, j < f.cc → NoTags (dst j) (2 ^ f.esz * f.rr)) ∧
    (∀ j, j < f.cc → ∀ k, k < f.cc → j ≠ k → Apart (dst j) (2 ^ f.esz * f.rr) (dst k) (2 ^ f.esz * f.rr)) := by
  unfold TngRuns OwnRanges NoTags Apart; decide +kernel

theorem test_scatter_clauses : ∀ e ∈ [(0, 4), (1, 8), (2, 4), (3, 8), (4, 8)],
    let w := tngWord 1 e.1 4 []
    let f := tngF w
    let s := tngAt ((tbl 3 8).putBytes (gib + 0x1000) (if e.2 = 4 then fpWords else l8 [fp1, fp2, fp1, fp2])) w
    let x := tdesc w 0
    TngRuns s 1 x f 1 ∧ efBytes f.efmt = e.2 ∧ f.efmt < 5 ∧ OwnRanges s 1 false [(f.idx, (if f.idx64 then 8 else 4) * f.n), (f.val, 8 * f.n)] ∧
    RowsFit s x f true ∧ s.fld (Reg.tng_ROWB 0 1 f.table) = 8 ∧ TableApart s x f (gLocal f.val) (8 * f.n) ∧
    ∀ i, i < f.n → ∀ j, j < 8 / e.2 → ∀ acc ∈ [0, 2 ^ (8 * e.2) - 1],
      (scatterAdd f.efmt f.fxsh acc (s.word (gLocal f.val + e.2 * (8 / e.2 * i + j)) e.2)).isSome = true := by
  unfold TngRuns OwnRanges RowsFit TableApart Apart NoTags; decide +kernel

theorem test_hash_clauses : ∀ e ∈ [(4, 2, 5), (4, 2, 6), (8, 3, 0), (16, 3, 1), (16, 3, 4)],
    let f := tngF (wHash e.2.1 e.2.2)
    let s := hashAt e.1 e.2.1 e.2.2
    let x := tdesc (wHash e.2.1 e.2.2) 0
    TngRuns s 1 x f e.2.1 ∧ OwnRanges s 1 false [(f.idx, 12 * f.n), (f.res, 4 * f.levels), (f.val, 4 * (f.levels * f.feat) * f.n)] ∧
    OwnRanges s 1 true [(f.val, 4 * (f.levels * f.feat) * f.n)] ∧ RowsFit s x f true ∧
    NoTags (gLocal f.val) (4 * (f.levels * f.feat) * f.n) ∧ TableApart s x f (gLocal f.val) (4 * (f.levels * f.feat) * f.n) ∧
    (∀ i, i < f.n → ∀ j, j < 3 → Fmt.fp32.decode (seenWord s (gLocal f.idx + 12 * i + 4 * j) 4) ≠ .nan) ∧
    (∀ l, l < f.levels → 1 ≤ hashRes s f l ∧ hashRes s f l < 2 ^ 31) ∧ RowsFit s x f false ∧
    f.levels * 2 ^ f.log2t ≤ s.fld (Reg.tng_NROWS 0 1 f.table) ∧
    ∀ i, i < f.n → ∀ l, l < f.levels → ∀ e ∈ corners (hashPoint s f i) (hashRes s f l) f.log2t, e.idx < 2 ^ f.log2t := by
  unfold TngRuns OwnRanges RowsFit TableApart Apart NoTags; decide +kernel

/-- Whether an addition has a result does not depend on the element it is added to. -/
theorem scatterAdd_isSome (efmt fxsh a b v : Nat) :
    (scatterAdd efmt fxsh a v).isSome = (scatterAdd efmt fxsh b v).isSome := by
  unfold scatterAdd
  split <;> try rfl
  dsimp only
  split <;> rfl

theorem test_hash_bwd_clauses : ∀ e ∈ [(8, 0), (16, 1), (16, 4)],
    let f := tngF (wHash 3 e.2)
    let s := hashAt e.1 3 e.2
    s.fld (Reg.tng_ROWB 0 1 f.table) = f.feat * efBytes f.efmt ∧ f.efmt = e.2 ∧
    ∀ i, i < f.n → ∀ l, l < f.levels → ∀ j, j < f.feat → ∀ c ∈ corners (hashPoint s f i) (hashRes s f l) f.log2t,
      let p := (Arith.f32.mul c.wt (seenWord s (gLocal f.val + 4 * (f.levels * f.feat * i + f.feat * l + j)) 4)).1
      (scatterAdd f.efmt f.fxsh 0 (if f.efmt = 0 then p else (Fmt.fp64.convert .ne false (Fmt.fp32.decode p)).1)).isSome = true := by
  decide +kernel

def tngEnded (code : Nat) : State :=
  { tngAt (tbl 3 8) (tngWord 0 0 4 [(320, 0)]) with
    tongs := [(1, ⟨[], [tdesc (tngWord 0 0 4 []) code], []⟩)], dispatches := [(4, qd (gib + 0x800) 2 1)] }

theorem test_tongs_end_clauses : ∀ k ∈ [1, 5], CountersFit (tngEnded k) ∧ (tngEnded k).safe = false ∧
    ((tngEnded k).tong 1).run[0]? = some (tdesc (tngWord 0 0 4 []) k) ∧ (tngEnded k).fld (Reg.tng_STATE 0 1 3) ≠ 1 ∧
    (tngEnded k).tdones = [] ∧ (tngEnded k).acked 50 = true ∧ 2 < (tngEnded k).ctrNum 1 ∧
    (tngEnded k).check (some 1) (gib + 0x800) 64 true = .ok ∧ NoTags (gib + 0x838) 8 := by
  unfold CountersFit NoTags; decide +kernel

theorem test_park_clauses : let d := tdesc (tngWord 0 0 4 [(0x30 * 8, 7), (0x30 * 8 + 32, 7)]) 0
    let s : State := { tbl 3 8 with tongs := [(1, ⟨[], [], [d]⟩)] }
    (s.tong 1).parked[0]? = some d ∧ (tngF d.d).tmo ≠ 0 := by decide +kernel

def slotAt (st pend : Nat) : State := sets (tbl 3 8) [(Reg.tng_STATE 0 1 3, st), (Reg.tng_SWAP_PEND 0 1 3, pend)]

theorem test_table_clauses : (∀ st ∈ [0, 1, 2, 3], HostUp (slotAt st 0) ∧ (slotAt st 0).fld (Reg.tng_STATE 0 1 3) = st ∧
      (slotAt st 0).tdones = [] ∧ (slotAt st 0).launch 1 = none ∧ ∀ d, d < 4 → ((slotAt st 0).tong d).run = []) ∧
    (slotAt 2 0).fld (Reg.tng_ECTR 0 1 3) < (slotAt 2 0).ctrNum 1 ∧ CountersFit (slotAt 2 0) ∧
    (slotAt 2 0).flag (Reg.tng_SWAP_PEND 0 1 3) = false ∧
    (let x : TDesc := { tdesc (tngWord 0 0 4 []) 0 with bound := some true }
     let s : State := { slotAt 0 0 with tongs := [(1, ⟨[], [x], []⟩)] }
     x ∈ (s.tong 1).run ∧ x.slot = 3 ∧ x.kind ≠ 4 ∧ x.bound = some (decide (s.fld (Reg.tng_CUR 0 1 3) = 0))) ∧
    (({ slotAt 3 0 with launches := [(1, some (lch 3 none))] } : State).launch 1).isSome = true := by
  unfold HostUp CountersFit; decide +kernel

/-! Mortars -/

def fpHalf : Nat := 0x3FE0000000000000
def tiny : Nat := 0x3E112E0BE826D695
/-- A Mortar descriptor: KIND, ALG, flags, N, WREC, LAMBDA0, LAMBDA_MAX, GEN. -/
def md (kind alg flags n wrec lam0 lamMax gen : Nat) : Nat :=
  word [(0, kind), (2, alg), (7, flags), (32, if alg = 0 then 0 else 5), (48, 10), (64, 3), (96, n), (0x20 * 8, 16), (0x28 * 8, 3),
    (0x28 * 8 + 12, 4), (0x30 * 8, gib + 0x1000), (0x38 * 8, gib + 0x1100), (0x40 * 8, gib + 0x1200), (0x48 * 8, gib + 0x1300),
    (0x50 * 8, gib + 0x1400), (0x58 * 8, gib + 0x1500), (0x78 * 8, wrec), (0x80 * 8, gib + 0x1600), (0x88 * 8, gib + 0x1700),
    (0x90 * 8, gib + 0x1800), (0xA8 * 8, 1000000), (0xB0 * 8, tiny), (0xB8 * 8, tiny), (0xC0 * 8, tiny), (0xC8 * 8, lam0),
    (0xD0 * 8, lamMax), (0xD8 * 8, fp2), (0xE0 * 8, fpHalf), (0xE8 * 8, tiny), (0xF0 * 8, tiny), (0xF8 * 8, gen)]
def bigL : Nat := 0x4202A05F20000000
def mLin : Nat := md 0 0 0 2 0 0 bigL 0
def mLm (lam0 lamMax : Nat) : Nat := md 0 2 0 2 0 lam0 lamMax 0
def mGn : Nat := md 0 1 0 2 0 0 bigL 0
def mAdj (gen : Nat) : Nat := md 1 0 0 2 0 0 bigL gen
def mqd : QDesc := ⟨1, gib, 2, true, none, none⟩
/-- The descriptor waits at Mortar 1 behind another station's. -/
def mtrAt (d : Nat) (owned : Bool) : State :=
  let t := (sets base [(Reg.mtr_FSTN 1, 1), (Reg.mtr_GEN 1, 5)])
  { ((t.putBytes gib (leBytes d 256)).putBytes (gib + 0x1000) (l8 [fp1, fp2])).putBytes (gib + 0x1300)
      (l8 [fp1, fp2, 0x4008000000000000, fp1, fpHalf, fp1]) |>.putBytes (gib + 0x1400) (l8 [fp1, fp2, fp1]) with
    mortars := [(1, ⟨[⟨2, gib, 1, true, none, none⟩, mqd], 2, none, none, false, owned, 0⟩)] }
/-- Mortar 1 takes the descriptor, in words that evaluate. -/
def takes (s : State) (q : QDesc) : Bool :=
  !s.safe && (s.mortar 1).run.isNone && decide (0x29 ∉ s.engResets) && decide ((s.mortar 1).last < 8) &&
    decide (q ∈ (s.mortar 1).queue) && (s.mortar 1).queue.all (fun x => decide (x.stn < 8 ∧
      (q.stn + 7 - (s.mortar 1).last) % 8 ≤ (x.stn + 7 - (s.mortar 1).last) % 8)) &&
    decide ((s.mortar 1).queue.find? (fun x => decide (x.stn = q.stn)) = some q)

theorem takes_meets (s : State) (q : QDesc) (h : takes s q = true) : MtrTakes s 1 q := by
  simp only [takes, Bool.and_eq_true, Bool.not_eq_true', Option.isNone_iff_eq_none, decide_eq_true_eq, List.all_eq_true] at h
  obtain ⟨⟨⟨⟨⟨⟨h1, h2⟩, h3⟩, h4⟩, h5⟩, h6⟩, h7⟩ := h
  exact ⟨h1, h2, h3, h4, h5, h6, h7⟩

/-- No range begins in a Mortar's window, in words that evaluate. -/
def noMortar (rs : List (Nat × Nat)) : Bool :=
  rs.all (fun r => match regionOf (gLocal r.1) with
    | .mortar _ => false
    | _ => true)

theorem noMortar_meets (rs : List (Nat × Nat)) (h : noMortar rs = true) : NotInMortar rs := by
  intro r hr e he
  have := List.all_eq_true.mp h r hr
  rw [he] at this
  exact Bool.false_ne_true this

theorem test_mortar_start_clauses : (takes (mtrAt mLin true) mqd = true ∧ (mtrAt mLin true).check (some 1) gib 256 false = .ok ∧
      (mtrAt mLin true).memHeld 1 gib 256 = false ∧ takes (flushing (mtrAt mLin true)) mqd = true ∧
      (flushing (mtrAt mLin true)).memHeld 1 gib 256 = true ∧
      (mtrAt mLin true).fld (Reg.mtr_FSTN 1) = 1) ∧
    (let q : QDesc := { mqd with addr := 9 * 2 ^ 30 }
     let s : State := { mtrAt mLin true with mortars := [(1, ⟨[q], 0, none, none, false, true, 0⟩)] }
     takes s q = true ∧ s.check (some 1) q.addr 256 false ≠ .ok ∧ s.memHeld 1 q.addr 256 = false) ∧
    (∀ n, n < 8 → (mtrAt mLin true).ctrBase n + (mtrAt mLin true).ctrNum n ≤ 4096) ∧
    (∀ d ∈ [mLin, mGn, mLm fpHalf bigL, md 0 0 0 0 0 0 bigL 0], (mtrAt d true).word gib 256 = d) ∧
    (mtrF (md 0 0 0 0 0 0 bigL 0)).n = 0 ∧ (mtrF (md 0 0 0 0 0 0 bigL 0)).kind = 0 := by decide +kernel

theorem test_mortar_first_phase_clauses :
    (let s := mtrAt mLin true
     let f := mtrF mLin
     f.kind = 0 ∧ f.alg = 0 ∧ f.method < 3 ∧ s.mtrCheck 1 s.nextId f = 0 ∧ AllHere s (s.startRanges s.nextId f) ∧ Unheld s 1 ∧
     noMortar (f.reads ++ s.colRanges s.nextId f ++ s.jRanges s.nextId f) = true ∧ (s.words s.nextId f.x0 f.n).any Prod.snd = false ∧ (s.readEval s.nextId f).2 = false ∧ s.now < f.deadline) ∧
    (∀ d ∈ [mGn, mLm fpHalf bigL],
     let s := mtrAt d true
     let f := mtrF d
     f.kind = 0 ∧ f.alg ≠ 0 ∧ f.warm = false ∧ f.method < 3 ∧ s.mtrCheck 1 s.nextId f = 0 ∧
     AllHere s (s.startRanges s.nextId f) ∧ Unheld s 1 ∧
     noMortar (f.reads ++ s.colRanges s.nextId f ++ s.jRanges s.nextId f) = true ∧ gNode f.xt = s.nodeId ∧
     (s.words s.nextId f.x0 f.n).any Prod.snd = false ∧ s.now < f.deadline ∧ s.acked s.nextId = true ∧
     (s.freeWatch 1).isSome = true ∧ NoTags (gLocal f.xt) (8 * f.n)) := by
  unfold AllHere Unheld NoTags; decide +kernel

theorem test_mortar_start_calm : ∀ d ∈ [mLin, mGn, mLm fpHalf bigL], Calm (mtrAt d true) := by
  intro d hd
  simp only [List.mem_cons, List.not_mem_nil, or_false] at hd
  rcases hd with rfl | rfl | rfl <;> exact calm_of _ (by decide +kernel)

theorem test_clearing_clauses : let x := { mqd with stn := 2 }
    takes (mtrAt mLin true) mqd = true ∧ (mtrAt mLin false).fld (Reg.mtr_FSTN 1) = 1 ∧ ((mtrAt mLin false).mortar 1).owned = false ∧
    x.stn < 8 ∧ (mtrF mLin).method ≠ 4 ∧ (mtrF mLin).kind = 0 := by decide +kernel

/-- A solve of two unknowns in a phase, with J of three rows. -/
def solveIn (d : Nat) (p : MPhase) (code : Nat) (sing : Bool) : Solve :=
  { q := mqd, id := 9, d := d, phase := p, x := [fp1, fp2], lam := (mtrF d).lambda0, best := none, trial := [], dx := []
    half := 0, pred := 0, it := 0, evals := 1, base := 0, reeval := false
    ev := if sing then [fp1, fp1, fp1, fp1, fp1, fp1, fp1, fp1, fp1] else
      [fp1, fp2, 0x4008000000000000, fp1, fpHalf, fp1, fp1, fp2, fp1]
    evalAt := [fp1, fp2], sig := 77, warmRej := false, nv := false, dxnorm := 0, cgit := 0, cg := none, z := [], w := []
    code := code, wcode := 0, adjWhy := 0, written := false }
def solving (now : Nat) (x : Solve) : State :=
  { mtrAt x.d true with regs := (sets base [(Reg.mtr_FSTN 1, 1), (Reg.mtr_GEN 1, 5), (Reg.time_NOW, now)]).regs
                        mortars := [(1, ⟨[], 1, some x, none, true, true, 0⟩)] }
def linStep (s : State) (x : Solve) : Option (List Nat) := (s.linSolve x.id x.f x.ev x.lam (s.rhs x)).1

theorem test_linear_phase_clauses :
    (∀ e ∈ [(mLin, false), (mGn, false), (mLm fpHalf bigL, false), (mLin, true), (mLm 0 bigL, true), (mLm 0 0, true)],
      let x := solveIn e.1 .linear 0 e.2
      (solving 0 x).safe = false ∧ ((solving 0 x).mortar 1).run = some x ∧ x.f.kind = 0 ∧ x.f.method ≠ 4 ∧ x.cg = none ∧
      (linStep (solving 0 x) x).map List.length = if e.2 then none else some 2) ∧
    (solveIn mLin .linear 0 false).f.alg = 0 ∧ (solveIn mGn .linear 0 false).f.alg = 1 ∧
    (let x := solveIn (mLm fp1 fp1) .linear 0 false
     x.f.alg = 2 ∧ Fmt.fp64.lt x.f.lambdaMax (fmul x.lam x.f.lmUp) = true) ∧
    (let x := solveIn (mLm 0 bigL) .linear 0 true
     x.f.alg = 2 ∧ Fmt.fp64.lt x.f.lambdaMax (fmul x.lam x.f.lmUp) = false ∧ (solving 0 x).now < x.f.deadline) ∧
    (let x := solveIn mGn .linear 0 false
     x.f.deadline ≤ (solving 1000000 x).now ∧ (solving 0 x).now < x.f.deadline ∧ (solving 0 x).acked x.id = true ∧
     gNode x.f.xt = (solving 0 x).nodeId ∧ CountersFit (solving 0 x) ∧ x.f.evReq < (solving 0 x).ctrNum 1 ∧
     ((solving 0 x).freeWatch 1).isSome = true ∧ NoTags (gLocal x.f.xt) (8 * x.x.length)) := by
  unfold CountersFit NoTags; decide +kernel

theorem test_deadline_clauses : ∀ p ∈ [MPhase.evalWait, .trial, .linear, .keep, .idle, .clearing, .writing], ∀ now ∈ [999999, 1000000],
    let x := solveIn mGn p 0 false
    ((solving now x).mortar 1).run = some x ∧ (solving now x).now = now ∧ x.f.deadline = 1000000 ∧ x.f.kind = 0 ∧
    (mtrF (mAdj 5)).kind = 1 := by decide +kernel

theorem test_solve_end_clauses : ∀ k ∈ [1, 6, 7, 15], ∀ flags ∈ [0, 4], ∀ wrec ∈ [0, gib + 0x1900],
    let x : Solve := { solveIn (md 0 0 flags 2 wrec 0 bigL 0) .writing k false with best := if k = 1 then some ([fp2, fpHalf], fp1) else none }
    let s := solving 0 x
    let f := x.f
    s.safe = false ∧ (s.mortar 1).run = some x ∧ f.kind = 0 ∧ s.acked x.id = true ∧ gNode f.xout = s.nodeId ∧ gNode f.res = s.nodeId ∧
    x.written = false ∧ x.code < 16 ∧ x.code ≠ 11 ∧ x.q.stn < 8 ∧
    s.gOk 1 f.res 64 true = true ∧ s.anyHeld 1 (nonempty f.writes) = false ∧ (flushing s).anyHeld 1 (nonempty f.writes) = true ∧ 2 < s.ctrNum 1 ∧ NoTags (gLocal f.res) 64 ∧ NoTags (gLocal f.xout) 16 ∧
    Apart (gLocal f.xout) 16 (gLocal f.res) 64 ∧ f.keep = decide (flags = 4) ∧ s.now < f.deadline ∧ f.wrec = wrec ∧
    (f.wrec ≠ 0 → gNode f.wrec = s.nodeId ∧ gLocal f.wrec + 64 + 16 ≤ 2 ^ 44 ∧ NoTags (gLocal f.wrec) (64 + 16) ∧
      Apart (gLocal f.wrec) (64 + 16) (gLocal f.res) 64 ∧ Apart (gLocal f.wrec) (64 + 16) (gLocal f.xout) 16) := by
  unfold NoTags Apart; decide +kernel

theorem test_keep_clauses : ∀ sing ∈ [false, true],
    let x := solveIn (md 0 0 4 2 0 0 bigL 0) .keep 1 sing
    let s := solving 0 x
    (s.mortar 1).run = some x ∧ s.safe = false ∧ x.f.method ≠ 4 ∧ x.f.kind = 0 ∧ x.f.keep = true ∧ gNode x.f.res = s.nodeId ∧
    NoTags (gLocal x.f.res) 64 ∧
    1 ≤ x.code ∧ x.code ≤ 6 ∧
    (s.factorise x.id x.f x.ev (if x.f.adj0 = true ∨ x.f.alg = 1 then 0 else x.lam)).1.isSome = !sing := by
  unfold NoTags; decide +kernel

def keptF : Kept := ⟨mLin, fpHalf, ⟨[0, 1], [(0, 0), (1, 0), (1, 1)], [[fp1], [fpHalf, fp1]], [], []⟩, [fp1, fp2]⟩

theorem test_adjoint_clauses : ∀ gen ∈ [5, 6],
    let t := mtrAt (mAdj gen) true
    let s : State := { t.setFlag (Reg.mtr_FVALID 1) true with mortars := [(1, ⟨[mqd], 0, none, some keptF, false, true, 0⟩)] }
    let f := mtrF (mAdj gen)
    s.word gib 256 = mAdj gen ∧ takes s mqd = true ∧ s.memHeld 1 gib 256 = false ∧ (flushing s).memHeld 1 gib 256 = true ∧
    takes (flushing s) mqd = true ∧  s.check (some 1) gib 256 false = .ok ∧ f.kind = 1 ∧ s.mtrCheck 1 s.nextId f = 0 ∧ (s.mortar 1).kept = some keptF ∧
    f.gen = gen ∧ s.fld (Reg.mtr_GEN 1) = 5 ∧ s.fld (Reg.mtr_FSTN 1) = 1 ∧ f.n = (mtrF keptF.d).n ∧
    s.flag (Reg.mtr_FVALID 1) = true ∧ f.jz = false ∧ s.now < f.deadline := by decide +kernel

/-! The Tumbler -/

/-- Whether port p takes flit f, and whether it arrives, in words that evaluate. -/
def taken (s : State) (p : Port) (f : Flit) : Bool := @decide (LinkTakes s p f) (by delta LinkTakes; infer_instance)
theorem taken_meets (s : State) (p : Port) (f : Flit) (h : taken s p f = true) : LinkTakes s p f := by
  exact @of_decide_eq_true _ (_) h
def arrived (s : State) (p : Port) (f : Flit) (op : Nat) : Bool :=
  !s.safe && decide (s.fld (Reg.kp_LSTATE p) = 5) && decide (f.op = op) && taken s p f &&
    (decide (f.dst % 65536 = 0xFFFF) || (s.flag Reg.krt_VALID && decide (s.routeOf f.src f.dst f.flow = .here)))
theorem arrived_meets (s : State) (p : Port) (f : Flit) (op : Nat) (h : arrived s p f op = true) : Arrives s p f op := by
  simp only [arrived, Bool.and_eq_true, Bool.or_eq_true, Bool.not_eq_true', decide_eq_true_eq] at h
  exact ⟨h.1.1.1.1, h.1.1.1.2, h.1.1.2, taken_meets s p f h.1.2, h.2⟩

def cadd (c v n : Nat) : Flit := { flit 0x07 7 (c + n <<< 12) 0 (leBytes v 4 ++ List.replicate 28 0) with sstn := n }

theorem test_counter_clauses : CountersFit cnt ∧ HostUp cnt ∧ cnt.injFires 3 0 = false ∧ cnt.ctrValue 130 = 10 ∧ cnt.ctrLimit 130 = 20 ∧
    arrived cnt 3 (cadd 63 50 1) 0x07 = true ∧ (cadd 63 50 1).addr % 4096 = 63 ∧ cnt.ctrNum 1 = 64 ∧ cnt.flag (Reg.sys_EN 1) = true ∧
    cnt.inReset 1 = false ∧ arrived cnt 3 (cadd 64 1 1) 0x07 = true ∧ (cadd 64 1 1).addr % 4096 = 64 ∧
    arrived cnt 3 (cadd 1 1 3) 0x07 = true ∧ cnt.flag (Reg.sys_EN 3) = false := by
  unfold CountersFit HostUp; decide +kernel

/-- The comparison registers of station 1, at least v. -/
def wat (v : Nat) : State := sets cnt [(Reg.tmb_CTR 1, 2), (Reg.tmb_CMP 1, 0), (Reg.tmb_VAL 1, v)]
/-- GO for core c with a cookie and TMO 5. -/
def vGo (c : Nat) : Word := BitVec.ofNat 64 (2 ^ 63 + 9 + c <<< 32 + 5 <<< 36)
/-- A watch of core 1, and a ring whose head and tail differ by d. -/
def ring (h t : Nat) (x : Watch) : State := { sets cnt [(Reg.tmb_HEAD 1, h), (Reg.tmb_TAIL 1, t)] with watches := [(16, some x)] }

theorem test_watch_clauses : (∀ v ∈ [9, 19], HostUp (wat v) ∧ (vGo 1).toNat.testBit 63 = true ∧ (wat v).coreStn 1 = some 1 ∧
      (wat v).coreStn 15 ≠ some 1 ∧ (wat v).fld (Reg.tmb_CTR 1) < (wat v).ctrNum 1 ∧ (wat v).freeWatch 1 = some 16 ∧
      holdsCmp ((wat v).fld (Reg.tmb_CMP 1)) ((wat v).ctrValue 130) ((wat v).fld (Reg.tmb_VAL 1)) = decide (v = 9)) ∧
    ({ wat 9 with watches := noWatches } : State).freeWatch 1 = none ∧
    (∀ h ∈ [0, 30, 31], let x : Watch := ⟨1, 140, 0, 99, .core 1 1 5, 4⟩
     (ring h 31 x).watch 16 = some x ∧ x.target = .core 1 1 5 ∧ x.tmo ≠ 0 ∧
     ((((ring h 31 x).fld (Reg.tmb_HEAD 1) + 1) % 32 = (ring h 31 x).fld (Reg.tmb_TAIL 1)) ↔ h = 30)) ∧
    (let s : State := { run cnt 3 (fun _ => 0) with notes := [⟨.seq 1 0 16, 1⟩, ⟨.core 1 15 77, 3⟩], holds := [(4, some (.watch 16))] }
     s.notes = [⟨.seq 1 0 16, 1⟩, ⟨.core 1 15 77, 3⟩] ∧ s.hold 1 0 = some (.watch 16)) := by unfold HostUp; decide +kernel

def bar5 (en arr adv nl : Nat) (more : List (Fld × Nat)) : State :=
  net (sets (bar en arr adv nl) ([(Reg.tmb_BTAG 5, 76), (Reg.tmb_BTAG 6, 80), (Reg.tmb_BTMO 5, 9)] ++ more))
def msg (kind sense btag : Nat) : Flit := { flit 0x08 7 (kind + sense <<< 2 + btag <<< 3 + 0x12 <<< 19) 0 [] with vc := 2 }

theorem test_barrier_entry_clauses :
    (∀ e ∈ [(2, 3), (1, 7)], HostUp (bar5 1 e.1 0 e.2 []) ∧ (bar5 1 e.1 0 e.2 []).flag (Reg.tmb_EN 5) = true ∧
      (bar5 1 e.1 0 e.2 []).fld (Reg.tmb_NLOCAL 5) = e.2 ∧ (bar5 1 e.1 0 e.2 []).fld (Reg.tmb_ARR 5) = e.1) ∧
    (∀ adv ∈ [0, 3], (bar5 1 4 adv 4 []).fld (Reg.tmb_ADV 5) = adv ∧
      ¬ ((bar5 1 4 adv 4 []).fld (Reg.tmb_KIDS 5) = 1 ∧ (bar5 1 4 adv 4 []).fld (Reg.tmb_UP 5) = 0)) ∧
    ((grp 2 0 (bar5 1 4 0 4 [])).group ((grp 2 0 (bar5 1 4 0 4 [])).barGroup 5)).p = 2 ∧
    (kids 2 0).length = 1 ∧ (kids 1 0).length = 0 ∧
    (∀ e ∈ [(0, 1), (3, 4)], let s := grp 1 0 (bar5 1 e.1 0 e.2 [])
     (s.group (s.barGroup 5)).rank = 0 ∧ (kids (s.group (s.barGroup 5)).p (s.group (s.barGroup 5)).rank).length = 0 ∧
     s.fld (Reg.tmb_KIDS 5) = 0 ∧ s.fld (Reg.tmb_UP 5) = 0) ∧
    ((bar5 1 4 4 4 []).fld (Reg.tmb_ADV 5) = 4 ∧ (bar5 0 0 0 4 []).flag (Reg.tmb_EN 5) = false) := by
  unfold HostUp; decide +kernel

theorem test_barrier_control_clauses :
    (let s := grp 2 0 (bar5 0 0 0 1 [(Reg.tmb_EN 6, 1)])
     HostUp s ∧ s.flag (Reg.tmb_EN 5) = false ∧ s.barStn 5 = some 1 ∧ s.fld (Reg.krt_GNUM 1) = 4 ∧
     s.mapOk (s.group (s.fld (Reg.krt_GBASE 1) + 0)) = true ∧ s.flag (Reg.tmb_EN 6) = true ∧ s.fld (Reg.tmb_BTAG 6) = 80 ∧
     s.fld (Reg.tmb_ARR 5) = 0 ∧ s.fld (Reg.tmb_ADV 5) = 0 ∧ s.fld (Reg.tmb_KIDS 5) = 0) ∧
    (let s := grp 2 0 (bar5 1 1 0 4 [])
     arrived s 3 (msg 0 0 76) 0x08 = true ∧ (msg 0 0 76).addr % 4 = 0 ∧ s.barTarget (msg 0 0 76) 0 = some 5 ∧
     s.fld (Reg.tmb_KIDS 5) < 16 ∧ s.fld (Reg.tmb_ARR 5) ≠ s.fld (Reg.tmb_NLOCAL 5) ∧
     s.barTarget (msg 0 0 99) 0 = none ∧ (msg 0 0 99).addr % 4 = 0 ∧ arrived s 3 (msg 0 0 99) 0x08 = true) ∧
    (let s := grp 2 1 (bar5 1 4 3 4 [(Reg.tmb_UP 5, 1)])
     arrived s 3 (msg 1 0 76) 0x08 = true ∧ (msg 1 0 76).addr % 4 = 1 ∧ s.barTarget (msg 1 0 76) 1 = some 5 ∧
     s.fld (Reg.tmb_ADV 5) < s.fld (Reg.tmb_NLOCAL 5) ∧ s.barTarget (msg 1 0 99) 1 = none) ∧
    (let s := bar5 1 1 0 4 []
     s.flag (Reg.tmb_EN 5) = true ∧ s.fld (Reg.tmb_BTMO 5) ≠ 0 ∧ s.fld (Reg.tmb_ARR 5) ≠ 0) := by
  unfold HostUp; decide +kernel

/-! Keyring -/

def fA : Flit := { flit 2 0x51 0x1000 0 [] with vc := 0 }
def fB : Flit := { flit 1 0x51 0x1000 1 (List.replicate 64 7) with vc := 1 }
def lnk (m : Nat) (l : Link) : State := { sets (net base) [(Reg.kp_METRO 3, m), (Reg.kp_MSLOT 3, m), (Reg.kp_KLOADED 3, 3 * m)] with links := [(3, l)] }
def sentW : List Sent := [⟨10, fA, 2, 0, none, 0⟩, ⟨11, fB, 18, 0, none, 7⟩]

theorem test_link_transmission_clauses : (∀ m ∈ [0, 1], (lnk m Link.idle).safe = false ∧ (lnk m Link.idle).fld (Reg.kp_LSTATE 3) = 5 ∧
      (lnk m Link.idle).flag (Reg.kp_METRO 3) = decide (m = 1)) ∧
    Link.idle.switchPend = false ∧ Link.idle.keyUse.getD 0 0 < 2 ^ 31 ∧ Link.idle.resend = [] ∧ Link.idle.owed = [] ∧
    Link.idle.resv.length = 4 ∧ Link.idle.shared.length = 4 ∧
    (let l : Link := { Link.idle with owed := [(1, 18), (2, 2), (1, 2)] }
     (lnk 0 l).link 3 = l ∧ l.txq = []) ∧
    (let l : Link := { Link.idle with txq := [fB], resv := [60, 46, 0, 0] }
     (lnk 0 l).link 3 = l ∧ l.resv.getD fB.vc 0 + 18 = 64) ∧
    (let l : Link := { Link.idle with txq := [fB], resv := [60, 47, 0, 0], shared := [0, 262144 - 256 - 18, 0, 0] }
     (lnk 0 l).link 3 = l ∧ 64 < l.resv.getD fB.vc 0 + 18 ∧ l.shared.sum + 18 = 262144 - 256) ∧
    (let l : Link := { Link.idle with txq := [fB], resv := [60, 47, 0, 0], shared := [0, 262144 - 256 - 17, 0, 0] }
     (lnk 0 l).link 3 = l ∧ 262144 - 256 < l.shared.sum + 18) ∧
    (let l : Link := { Link.idle with window := sentW, resend := [10, 11], resv := [10, 20, 0, 0], shared := [5, 30, 0, 0] }
     (lnk 0 l).link 3 = l ∧ l.resv.getD 1 0 + l.shared.getD 1 0 = 50 ∧ l.resv.sum + l.shared.sum = 65 ∧ (∀ x ∈ l.window, x.replays < 8)) ∧
    (let l : Link := { Link.idle with window := sentW.map (fun (x : Sent) => { x with replays := x.replays + 1 }) }
     (lnk 0 l).link 3 = l ∧ ∃ x ∈ l.window, 8 ≤ x.replays) ∧
    Link.idle.authTimes.length < 15 ∧ Link.idle.discard = false ∧ 5 ∉ Link.idle.nakFor := by decide +kernel

/-- A flit forwarded from port 5, or from the port it leaves by. -/
theorem test_forwarded_send_clauses : ∀ q ∈ [3, 5],
    let f : Flit := { fA with inp := some (q, 2) }
    let l : Link := { Link.idle with txq := [f] }
    ((lnk 1 l).link 3).txq = [f] ∧ (lnk 1 l).flag (Reg.kp_METRO 3) = true ∧ ((lnk 1 l).link 3).resv.getD f.vc 0 + 3 ≤ 64 := by
  decide +kernel

def fBad : Flit := { flit 0x00 7 0 0 [] with lh := { LinkHdr.zero with enc := true } }

theorem test_bad_op_clauses : ∀ m ∈ [0, 1], taken (lnk m Link.idle) 3 fBad = true ∧ (lnk m Link.idle).fld (Reg.kp_LSTATE 3) = 5 ∧
    taken (lnk m Link.idle) 3 { fBad with op := 0x1F, addr := 5 } = true := by
  decide +kernel

def hpay (w m sz : Nat) : List Byte := leBytes 77 8 ++ leBytes (5 + 7 * 2 ^ 32 + w * 2 ^ 38 + m * 2 ^ 40) 8 ++ leBytes sz 8 ++ List.replicate 232 0
def hel (w m sz : Nat) : Flit := ⟨0x18, 3, 0xFFFFF, 0xFFFFF, 0, 1, 0, 0, 0, 7, 0, hpay w m sz, LinkHdr.zero, none⟩
def kx : Flit := ⟨0x1F, 3, 0xFFFFF, 0xFFFFF, 0, 1, 0, 0, 0, 7, 4, List.replicate 64 0, LinkHdr.zero, none⟩
/-- Port 3 in a link state, at a reach. -/
def lst (st m en : Nat) : State := sets (lnk m Link.idle) [(Reg.kp_LSTATE 3, st), (Reg.kp_EN 3, en)]

theorem test_link_state_clauses : (∀ st ∈ [0, 1, 2, 3, 4, 5, 6], (lst st 0 1).fld (Reg.kp_LSTATE 3) = st ∧ (lst st 0 1).safe = false) ∧
    (HostUp (lst 0 1 0) ∧ (lst 0 1 0).fld (Reg.kp_METRO 3) = 1 ∧ (lst 0 1 0).fld (Reg.kp_MSLOT 3) = 1 ∧
      bitsOf (0x19 : Word).toNat 3 3 = 1 ∧ bitsOf (0x19 : Word).toNat 7 4 = 1 ∧ (0x19 : Word).toNat.testBit 0 = true ∧
      (lst 0 1 0).flag (Reg.kp_EN 3) = false ∧ (lst 5 1 1).flag (Reg.kp_EN 3) = true ∧ (lst 5 1 1).colls = [] ∧ (lst 5 1 1).reqs = []) ∧
    ((lst 3 0 1).link 3).peerHello = false ∧
    (∀ m ∈ [0, 1], let f := hel ((lst 3 m 1).fld (Reg.kp_WIDTH 3)) m (if m = 1 then 8388608 else 262144)
     HelloAgrees (lst 3 m 1) 3 f ∧ ¬ HelloAgrees (lst 3 (1 - m) 1) 3 f ∧ f.op = 0x18 ∧ f.dst % 65536 = 0xFFFF ∧
     taken (lst 3 m 1) 3 f = true) ∧
    (kx.op = 0x1F ∧ kx.addr % 8 = 4 ∧ kx.dst % 65536 = 0xFFFF ∧ (lst 4 1 1).flag (Reg.kp_METRO 3) = true ∧ taken (lst 4 1 1) 3 kx = true) ∧
    (let s := lnk 1 { Link.idle with switchPend := true, window := sentW, resend := [10] }
     s.flag (Reg.kp_METRO 3) = true ∧ (s.link 3).switchPend = true ∧ (s.link 3).resend ≠ [] ∧
     (s.fld (Reg.kp_KLOADED 3)).testBit (1 - s.fld (Reg.kp_KACT 3)) = true) := by
  unfold HelloAgrees HostUp; decide +kernel

/-- This many ports after port 9 are at metro reach. -/
def metros (n : Nat) : State := sets (net base) ((List.range n).map (fun k => (Reg.kp_METRO (k + 10), 1)) ++ [(Reg.kp_MSLOT 10, 2)])
def othersOf (s : State) : List Nat := (List.range 64).filter (fun x => decide (x ≠ 3) && s.flag (Reg.kp_METRO x))

theorem test_metro_clauses : (metros 0).flag Reg.sys_PORT = false ∧ (metros 0).flag (Reg.kp_METRO 3) = false ∧
    bitsOf (0x28 : Word).toNat 0 0 = (metros 0).fld (Reg.kp_EN 3) ∧ (0x28 : Word).toNat.testBit 3 = true ∧ bitsOf (0x28 : Word).toNat 7 4 = 2 ∧
    othersOf (metros 0) = [] ∧ (othersOf (metros 15)).length = 15 ∧ (othersOf (metros 16)).length = 16 ∧
    (∃ x ∈ othersOf (metros 1), (metros 1).fld (Reg.kp_MSLOT x) = 2) ∧
    (sets (metros 0) [(Reg.kp_LSTATE 3, 0)]).fld (Reg.kp_LSTATE 3) = 0 ∧ (metros 0).fld (Reg.kp_LSTATE 3) ≠ 0 ∧
    (metros 0).alive = true ∧ (metros 0).pins.modRstN = true := by decide +kernel

def b64 : List Byte := (List.range 64).map (BitVec.ofNat 8)
def rq (tag : Nat) (w : Bool) (x : Option (Nat × Nat)) : Req := ⟨tag, 3, 1, 0x50, w, 0x10, 0x1234, x, 256⟩
def krs : State := { net base with reqs := [rq 33 false (some (99, 256)), rq 34 true none] }

theorem test_keyring_calm : Calm krs := calm_of _ (by decide +kernel)

theorem test_keyring_target_clauses :
    (let f := flit 1 7 (gib + 64) 1 b64
     arrived krs 3 f 0x01 = true ∧ krs.reqHeld f = false ∧ arrived (flushing krs) 3 f 0x01 = true ∧ (flushing krs).reqHeld f = true ∧ krs.servedBy f.addr 64 = .stn 1 ∧ (f.payload.take (32 * (f.len + 1))).length = 64 ∧ NoTags f.addr 64) ∧
    (let f := flit 2 7 (gib + 32) 1 []
     arrived krs 3 f 0x02 = true ∧ krs.servedBy f.addr 64 = .stn 1 ∧ krs.reqHeld f = false) ∧
    (let f := flit 2 7 (9 * 2 ^ 30 + 2 ^ 30) 1 []
     arrived krs 3 f 0x02 = true ∧ krs.servedBy f.addr 64 = .err 3 ∧ krs.servedBy 0xF00_0000_0000 64 = .err 2) ∧
    (let f := flit 1 7 0x700_0000_0000 1 b64
     arrived krs 3 f 0x01 = true ∧ regionOf f.addr = .hole ∧ krs.servedBy f.addr 64 = .reserved 0) ∧
    regionOf (20 * 2 ^ 30) = .hbm 20 ∧ inTagArea (20 * 2 ^ 30) = false ∧ krs.gibStn 20 = none ∧
    (let f := flit 6 7 (gib + 4096) 0 (List.replicate 8 3 ++ List.replicate 8 0 ++ List.replicate 16 9)
     arrived krs 3 f 0x06 = true ∧ ∀ k, k < 4 → isHbm (gib + 4096 + 4096 * k) = true ∧ krs.servedBy (gib + 4096 + 4096 * k) 4096 = .stn 1) := by
  unfold NoTags; decide +kernel

theorem test_keyring_requester_clauses : Quiet krs ∧
    (let f := { flit 3 7 0 7 (List.replicate 256 5) with tag := 33 }
     arrived krs 3 f 0x03 = true ∧ krs.reqOf f false = some (rq 33 false (some (99, 256))) ∧ krs.xfer? 99 = none) ∧
    (let f := { flit 4 7 0 0 [] with tag := 34 }
     arrived krs 3 f 0x04 = true ∧ krs.reqOf f true = some (rq 34 true none)) ∧
    (let f := { flit 5 7 0 0 [] with tag := 34 }
     arrived krs 3 f 0x05 = true ∧ krs.errOf 3 f = some (rq 34 true none) ∧ f.tag ≠ 4095 ∧ krs.relays = [] ∧
     krs.reqs.find? (fun x => decide (x.tag = 34 ∧ x.node = 0x50)) = some (rq 34 true none)) ∧
    (krs.fld (Reg.kp_LSTATE 3) = 5 ∧ krs.flag Reg.krt_VALID = true ∧ taken krs 3 (flit 2 0x51 gib 0 []) = true ∧ taken krs 3 (flit 2 0x77 gib 0 []) = true ∧
      krs.routeOf krs.srcId 0x50 9 = .port 3 ∧
      krs.routeOf 0x50 0x51 9 = .port 5 ∧ krs.routeOf 0x50 0x77 9 = .noRoute) ∧
    (∀ i ∈ [none, some (5, 18)], let g : Flit := { flit 2 0x77 gib 0 [] with inp := i }
     let s : State := { net base with links := [(3, { Link.idle with txq := [g, flit 1 7 9 0 []] })] }
     (s.link 3).txq = [g, flit 1 7 9 0 []]) := by
  unfold Quiet; decide +kernel

theorem test_piece (b : Bool) : IsPiece krs (rq 34 b none) := by intro i off h; cases h

def mgr (ok : Bool) : State := sets (net base) [(Reg.krt_VALID_108 1, 1), (Reg.krt_MGR 1, if ok then 0x50 else 0x77)]
def wRelay : List Byte := leBytes (0x19 + 0x840000 * 2 ^ 78) 16 ++ List.replicate 16 0

theorem test_management_read_clauses : let f := flit 0x19 7 Reg.krt_NODEID.off 0 []
    let u := flit 0x19 7 (Reg.time_NOW.off + 7) 0 []
    arrived (net base) 3 f 0x19 = true ∧ f.addr / 0x1_0000 = 0x84 ∧ f.addr % 8 = 0 ∧ arrived (net base) 3 u 0x19 = true ∧
    u.addr / 0x1_0000 = 0x85 ∧ u.addr % 8 = 7 ∧
    (∀ a ∈ [0x43_FFF8, 0x86_0000], arrived (net base) 3 (flit 0x19 7 a 0 []) 0x19 = true ∧ (a / 0x1_0000 < 0x44 ∨ 0x85 < a / 0x1_0000)) ∧
    HostUp (net base) := by
  unfold HostUp; decide +kernel

def fNode : Flit := flit 0x1A 7 Reg.krt_NODEID.off 0 (leBytes (2 ^ 63 + 12) 32)

theorem test_management_write_clauses : ∀ b ∈ [false, true], arrived (mgr b) 3 fNode 0x1A = true ∧ (mgr b).alive = true ∧
    (mgr b).pins.modRstN = true ∧ fNode.addr = Reg.krt_NODEID.off ∧ (mgr b).flag Reg.sys_NODE = false ∧
    (List.range 4).any (fun k => (mgr b).flag (Reg.krt_VALID_108 k) && decide ((mgr b).fld (Reg.krt_MGR k) = fNode.src)) = b ∧
    (mgr b).flag (Reg.krt_VALID_108 1) = true := by decide +kernel

theorem test_management_relay_clauses :
    (∀ q ∈ [5, 9], arrived (net base) 3 (flit 0x1C 7 q 0 wRelay) 0x1C = true ∧ bitsOf (leNat (wRelay.take 16)) 4 0 = 0x19 ∧
      decide ((net base).fld (Reg.kp_LSTATE q) = 5) = decide (q = 5)) ∧ (net base).relays.length = 0 ∧
    (let f := { flit 0x1B 7 0x840000 0 (leBytes 99 32) with tag := 44 }
     let s : State := { net base with relays := [⟨3, 44, 5, flit 0x1C 7 5 0 wRelay⟩] }
     arrived s 3 f 0x1B = true ∧ (s.relays.find? (fun x => decide (x.port = 3 ∧ x.tag = f.tag))).isSome = true ∧
     (s.relays.find? (fun x => decide (x.port = 3 ∧ x.tag = 45))).isNone = true) := by
  decide +kernel

/-! Collectives -/

/-- Station 1's first group has P members, of which this module has a rank. -/
def netGrp (p rank : Nat) : State :=
  grp p rank (sets (net base) [(Reg.ldl_NORM 0 1 3, fp1), (Reg.ldl_NORM 1 1 3, fp2), (Reg.ldl_NORM 2 1 3, fp1)])
def own : Nat := 7 * 2 ^ 44
def cd (kind efmt seg count group : Nat) : Nat :=
  word [(0, kind), (3, group), (15, efmt), (18, 1), (19, seg), (25, 3), (64, count), (128, own + gib + 0x1000), (192, own + gib + 0x2000),
    (0x28 * 8, own + gib + 0x5000), (0x30 * 8, own + gib + 0x8000), (0x38 * 8, own + gib + 0x4000), (0x40 * 8, 8192)]
def cq : QDesc := ⟨1, gib + 0x800, 2, true, none, none⟩
def coll0 : Coll :=
  { q := cq, id := 5, started := false, d := 0, p := 0, rank := 0, nodes := [], cseq := 0, got := [], moves := [], val := 0, jstate := 0, round := 0
    staged := 0, arr := 0, code := 0, flags := .none, psn := false, done := 0 }
def queuedColl (d p rank : Nat) : State :=
  { (netGrp p rank).putBytes (gib + 0x800) (leBytes d 128) with colls := [coll0, { coll0 with id := 6 }], nextId := 20 }
/-- The collective with its descriptor and group read. -/
def collRead (d p rank : Nat) : Coll :=
  { coll0 with d := d, p := p, rank := rank, nodes := (List.range p).map (fun r => if r = rank then 7 else 0x50) }

/-- Nothing keeps the collective from its start, in words that evaluate. -/
def collFree (s : State) (x : Coll) : Bool :=
  decide (s.collCode x = 0 ∧ x.rank < x.p) && (nonempty x.ranges.1).all (fun r => decide (gNode r.1 = s.nodeId)) &&
    noMortar (nonempty x.ranges.1) && !s.anyHeld 1 (nonempty (x.ranges.1 ++ x.ranges.2)) &&
    (decide (x.f.kind ≠ 4) || s.normFree 1 x.f.nreg)
theorem collFree_meets (s : State) (x : Coll) (h : collFree s x = true) : CollFree s 1 x := by
  simp only [collFree, Bool.and_eq_true, Bool.or_eq_true, Bool.not_eq_true', decide_eq_true_eq, List.all_eq_true] at h
  obtain ⟨⟨⟨⟨⟨a, b⟩, c⟩, d⟩, e⟩, g⟩ := h
  exact ⟨a, b, c, noMortar_meets _ d, e, fun k => g.resolve_left (by omega)⟩

theorem test_collective_begin_clauses : ∀ e ∈ [(1, 0), (3, 1)],
    let s := queuedColl (cd 0 1 2 8 0) e.1 e.2
    let g := s.group (s.fld (Reg.krt_GBASE 1) + 0)
    s.safe = false ∧ s.inReset 1 = false ∧ s.colls.filter (fun y => decide (y.q.stn = 1)) = [coll0, { coll0 with id := 6 }] ∧
    (s.colls.map (fun y => y.id)).Nodup ∧ coll0.started = false ∧ s.memHeld 1 coll0.q.addr 128 = false ∧
    s.check (some 1) (gib + 0x800) 128 false = .ok ∧ seenWord s (gib + 0x800) 128 = cd 0 1 2 8 0 ∧
    bitsOf (cd 0 1 2 8 0) 14 3 = 0 ∧ collRead (cd 0 1 2 8 0) e.1 e.2 = { coll0 with
      d := cd 0 1 2 8 0, p := g.p, rank := g.rank, nodes := (List.range g.p).map (s.rankNode g), code := 0 } := by decide +kernel

theorem test_collective_out_of_range : let s : State := { queuedColl 0 1 0 with colls := [{ coll0 with q := { cq with addr := 9 * 2 ^ 30 } }] }
    s.check (some 1) (9 * 2 ^ 30) 128 false ≠ .ok ∧ s.memHeld 1 (9 * 2 ^ 30) 128 = false := by decide +kernel

theorem test_collective_check_clauses :
    (∀ k ∈ [0, 1, 2, 3, 4, 5], ∀ p ∈ [1, 3],
      let d := cd k 1 2 (if k = 5 then 0 else 8) 0
      collFree (queuedColl d p (p / 2)) (collRead d p (p / 2)) = true ∧ (collRead d p (p / 2)).d % 8 = k) ∧
    (∀ d ∈ [cd 0 1 0 8 0, cd 0 1 33 8 0, cd 0 5 2 8 0, cd 0 1 2 8 4], (queuedColl d 1 0).collCode (collRead d 1 0) = 2) ∧
    (let f := (collRead (cd 0 1 2 8 0) 1 0).f
     gNode f.dst = (netGrp 1 0).nodeId ∧ gNode f.jrnl = (netGrp 1 0).nodeId ∧
     NoTags (gLocal f.dst) (f.eb * f.count) ∧ NoTags (gLocal f.jrnl) 32 ∧
     ({ netGrp 1 0 with norms := [⟨9, false, 0, 1, 0, 1, f.nreg, 0, 0, true⟩] } : State).normFree 1 f.nreg = false) ∧
    (let x := collRead (cd 3 1 2 8 0) 3 1
     gNode (x.f.dst + x.f.eb * (x.chunk 1).1) = (netGrp 3 1).nodeId ∧
     NoTags (gLocal (x.f.dst + x.f.eb * (x.chunk 1).1)) (x.f.eb * ((x.chunk 1).2 - (x.chunk 1).1))) := by
  unfold NoTags; decide +kernel

/-- A table of one move of node 0x50's block to this member, and one whose owner is no member. -/
def permStart (owner : Nat) : State :=
  (queuedColl (cd 5 1 2 1 0) 3 1).putBytes (gib + 0x5000) (l8 [0x50 * 2 ^ 44 + gib, owner, own + gib + 0x10000])

theorem test_permute_start_clauses : let x := collRead (cd 5 1 2 1 0) 3 1
    (∀ o ∈ [1, 3], collFree (permStart o) x = true ∧
      (permStart o).readMoves x = [⟨0x50 * 2 ^ 44 + gib, o, own + gib + 0x10000⟩] ∧
      (permStart o).permCode { x with moves := [⟨0x50 * 2 ^ 44 + gib, o, own + gib + 0x10000⟩] } = if o = 1 then 0 else 2) ∧
    x.rank = 1 ∧ x.p = 3 ∧ x.round = 0 ∧ gNode (0x50 * 2 ^ 44 + gib) ≠ (permStart 1).nodeId ∧ (collRead (cd 5 1 2 0 0) 3 1).f.count = 0 := by
  decide +kernel

/-- A collective of three members has begun, and this many flits have come on its first stream. -/
def begun (kind rank got : Nat) : Coll :=
  { collRead (cd kind 1 1 8 0) 3 rank with started := true, got := if got = 0 then [] else [(0, got)] }
def begunAt (c : Coll) : State := { netGrp 3 c.rank with colls := [c] }
def cdata (ph : Nat) : Flit :=
  ⟨0x10, 2, 0x50, 7, 1, 9, 0, 0, 0, 7, ph <<< 39, l8 [fp1, fp2, fp1, fp2, fp1, fp1, fp2, fp2] ++ List.replicate 192 0, LinkHdr.zero, none⟩

/-- Flit f brings elements of flit x of a chunk, in words that evaluate. -/
def brings (s : State) (c : Coll) (f : Flit) (ph chunk x : Nat) : Bool :=
  let k := min (256 / c.f.eb) ((c.segOf chunk f.flow).2 - (c.segOf chunk f.flow).1 - 256 / c.f.eb * x)
  decide (s.collOf f = some c) && decide (c.f.kind ≠ 5) && decide (bitsOf f.addr 39 39 = ph) &&
    decide ((s.colls.map (fun y => y.id)).Nodup) && decide (s.anyHeld c.q.stn (nonempty c.ranges.2) = false) && decide (0 < k) &&
    decide (c.place f.flow (c.units ph) (c.got.get (fun _ => 0) (64 * ph + f.flow)) = some (chunk, x, false))

theorem brings_meets (s : State) (c : Coll) (f : Flit) (ph chunk x : Nat) (h : brings s c f ph chunk x = true) :
    CollBrings s c f ph chunk ((c.segOf chunk f.flow).1 + 256 / c.f.eb * x)
      (min (256 / c.f.eb) ((c.segOf chunk f.flow).2 - (c.segOf chunk f.flow).1 - 256 / c.f.eb * x)) := by
  simp only [brings, Bool.and_eq_true, decide_eq_true_eq] at h
  obtain ⟨⟨⟨⟨⟨⟨a, b⟩, d⟩, e⟩, g⟩, i⟩, j⟩ := h
  exact ⟨a, b, d, e, g, i, x, j, rfl, rfl⟩

/-- By kind, rank, flits before, chunk: whether the chunk's way ends here. -/
theorem test_collective_data_clauses :
    (∀ e ∈ [(1, 2, 0, 0, true), (1, 1, 0, 0, false), (0, 2, 0, 0, false), (0, 2, 1, 2, true), (2, 2, 0, 0, false), (2, 2, 1, 2, true)],
      let c := begun e.1 e.2.1 e.2.2.1
      arrived (begunAt c) 3 (cdata 0) 0x10 = true ∧ brings (begunAt c) c (cdata 0) 0 e.2.2.2.1 0 = true ∧ c.f.kind < 3 ∧ c.f.efmt < 4 ∧
      (if c.f.chain then decide (c.rank + 1 = c.p) else decide (e.2.2.2.1 = c.rank)) = e.2.2.2.2 ∧
      noMortar [(c.f.src, 64), (c.f.src + 64, 1)] = true ∧
      gNode c.f.dst = (begunAt c).nodeId ∧ gNode c.f.src = (begunAt c).nodeId ∧ gNode (c.f.src + 64) = (begunAt c).nodeId) ∧
    (∀ e ∈ [(0, 1), (3, 1), (1, 0)], let c := begun e.1 (if e.1 = 1 then 0 else 2) 0
      brings (begunAt c) c (cdata 1) 1 e.2 0 = true ∧ c.f.kind ≠ 2 ∧ c.f.shdw = 0 ∧ c.f.eb * 8 ≤ (cdata 1).payload.length ∧
      gNode c.f.dst = (begunAt c).nodeId) ∧
    NoTags (gLocal (begun 0 2 1).f.dst) 64 ∧
    (let s := netGrp 3 1
     arrived s 3 (cdata 0) 0x10 = true ∧ s.collOf (cdata 0) = none ∧ s.collPast (cdata 0) = false) := by
  unfold NoTags; decide +kernel

def moves2 (rank : Nat) : List Move :=
  [⟨0x50 * 2 ^ 44 + gib, rank, own + gib + 0x10000⟩, ⟨0x50 * 2 ^ 44 + gib + 4096, rank, own + gib + 0x11000⟩]
def permC (rank : Nat) : Coll :=
  { collRead (cd 5 1 2 2 0) 2 rank with started := true, nodes := [0x50, 7], jstate := 2, staged := 34, moves := moves2 rank }
def permAt (rank : Nat) : State := { netGrp 2 rank with colls := [permC rank] }
def cctl (kind : Nat) : Flit := ⟨0x11, 2, 0x50, 7, 1, 9, 0, 0, 0, 0, kind <<< 39, [], LinkHdr.zero, none⟩

/-- A range that ends below its GiB's tag area has no tag. -/
theorem noTags_below (a n : Nat) (h : a % 2 ^ 30 + n ≤ 0x3FE0_0000) : NoTags a n := by
  intro i hi
  have : (a + i) % 2 ^ 30 < 0x3FE0_0000 := by omega
  simp only [inTagArea, Bool.and_eq_false_iff, decide_eq_false_iff_not]
  exact .inr (by omega)

theorem test_permute_clauses : (∀ r ∈ [0, 1], arrived (permAt r) 3 (cctl r) 0x11 = true ∧ (permAt r).collOf (cctl r) = some (permC r) ∧
      (permC r).f.kind = 5 ∧ (permAt r).anyHeld 1 (nonempty (permC r).ranges.2) = false ∧ bitsOf (cctl r).addr 39 39 = r ∧
      (permC r).round + 1 = (permC r).rounds.length ∧ (permC r).rank = r ∧ (permC r).arr + 1 < (permC r).p ∧
      (permC r).roundIn r = moves2 r) ∧
    (let f := (permC 1).f
     gNode f.jrnl = (permAt 1).nodeId ∧ NoTags (gLocal f.jrnl) 32 ∧ gLocal f.stage % 2 ^ 30 + 8192 ≤ 0x3FE0_0000 ∧
     ∀ d ∈ [gib + 0x10000, gib + 0x11000], d % 2 ^ 30 + 4096 ≤ 0x3FE0_0000 ∧ Apart d 4096 (gLocal f.jrnl) 32 ∧
       Apart d 4096 (gLocal f.stage) 8192) ∧ Apart (gib + 0x10000) 4096 (gib + 0x11000) 4096 := by
  unfold NoTags Apart; decide +kernel

theorem test_collective_end_clauses : (∀ k ∈ [0, 1, 3, 9], let c : Coll := { begun 0 0 0 with code := k }
    (begunAt c).safe = false ∧ (begunAt c).colls.find? (fun y => decide (y.q.stn = 1) && y.started) = some c ∧ (begunAt c).acked c.id = true ∧
    (begunAt c).memHeld 1 c.q.addr 128 = false ∧
    CountersFit (begunAt c) ∧ c.q.ctr < (begunAt c).ctrNum 1 ∧ (begunAt c).check (some 1) c.q.addr 128 true = .ok) ∧
    NoTags (cq.addr + 0x48) 8 := by
  unfold CountersFit NoTags; decide +kernel

theorem test_collective_end_calm : Calm (begunAt { begun 0 0 0 with code := 3 }) := calm_of _ (by decide +kernel)

def dig (busy : Nat) : State :=
  (sets base [(Reg.krt_BASE 1, gib / 4096), (Reg.krt_NBLK 1, 3), (Reg.krt_CHK 1, 1), (Reg.krt_BUSY 1, busy)]).setTag (gib + 4096) 0x1234567800000001

theorem test_digest_clauses : HostUp (dig 0) ∧ (dig 0).flag (Reg.krt_BUSY 1) = false ∧ (dig 1).flag (Reg.krt_BUSY 1) = true ∧
    (dig 0).fld (Reg.krt_BASE 1) * 4096 = gib ∧ (dig 1).safe = false ∧
    (0x8000_0001_0000_0002 : Word).toNat.testBit 63 = true ∧ (dig 1).memHeld 1 gib (4096 * 3) = false ∧ (dig 0).inHbmRange 1 gib (4096 * 2) = true ∧
    (dig 0).inHbmRange 1 gib (4096 * (2 ^ 32 - 1)) = false := by unfold HostUp; decide +kernel

/-! Memory controllers and the Crock -/

theorem test_controller_clauses : isHbm (gib + 70) = true ∧ (gib + 70) / 64 * 64 = gib + 64 ∧ base.injFires (0x30 + (base.place (gib + 64)).1) 0 = false ∧
    (gib + 64) / 2 ^ 30 / 20 ∉ base.zeroing ∧ (gib + 70) % 64 + 58 = 64 ∧
    (sets base [(Reg.mc_EN (base.place (gib + 64)).1, 1)]).flag (Reg.mc_EN (base.place (gib + 64)).1) = true := by decide +kernel

theorem test_geometry_clauses : CoreUp base ∧ ({ base with zeroing := [3, 5] } : State).zeroing = [3, 5] ∧ base.groupHeld 0 = true ∧ base.groupHeld 1 = false ∧ base.groupHeld 126 = false ∧
    (base.fld (Reg.mc_LOCAL_LO 0)).testBit 0 = false ∧ (base.fld (Reg.mc_LOCAL_HI 0)).testBit 62 = false ∧
    base.sliceStn 4 = some 1 ∧ base.sliceStn 47 = none ∧ base.sliceCache 4 = true ∧ base.flushes = [] ∧ HostUp base ∧
    (({ base with flushes := [⟨1, [], [], []⟩] } : State).flushes.any (fun f => decide (f.stn = 1))) = true ∧
    (∀ f ∈ [⟨1, [(4, true)], [], []⟩, (⟨1, [], [], [5]⟩ : Flush)], ({ base with flushes := [f] } : State).flushes.find? (fun x => decide (x.stn = 1)) = some f ∧
      f.waiting = [] ∧ (∀ w ∈ f.modes, w.1 < 48) ∧ f.modes.length ≤ 1) := by unfold CoreUp HostUp; decide +kernel

/-! Stations, engines and cores -/

def offs (l : List (Fld × Nat)) : State := sets base ((Reg.sys_EN 1, 0) :: l)

theorem test_station_enable_clauses : CoreUp (offs []) ∧ (offs []).inReset 1 = false ∧ (offs []).flag (Reg.sys_EN 1) = false ∧
    (offs []).flag (Reg.sys_VALID 1 0) = true ∧
    (∀ k, k < 4 → (offs [(Reg.sys_VALID 1 0, 0)]).flag (Reg.sys_VALID 1 k) = false) ∧
    (∀ k ∈ [2, 0, 7], ((offs []).setFld (Reg.sys_CORE_MASK 1) 6).grantsMeet 1 k = false) ∧
    ((offs [(Reg.sys_BASE_GIB 1 0, 9), (Reg.sys_LAST_GIB 1 0, 9)]).setFld (Reg.sys_CORE_MASK 1) 6).grantsMeet 1 2 = true ∧ (offs []).flag (Reg.sys_EN 2) = true ∧
    (offs [(Reg.sys_LOCK 1, 1)]).flag (Reg.sys_LOCK 1) = true ∧ base.flag (Reg.sys_EN 1) = true ∧ HostUp base ∧
    base.fld (Reg.sys_BASE 1) = 0 ∧ base.fld (Reg.sys_LEN 1) = 0 := by unfold CoreUp HostUp; decide +kernel

def inRst (release : Bool) : State :=
  { sets base [(Reg.sys_STN_RBUSY, 2), (Reg.sys_LOCK 1, 1), (Reg.ldl_NORM 0 1 3, 7), (Reg.tmb_VALUE 130, 10)] with resets := [⟨1, release, []⟩] }

theorem test_station_reset_clauses : CoreUp base ∧ HostUp base ∧ base.flag (Reg.sys_EN 1) = true ∧ base.inReset 1 = false ∧
    (offs []).flag (Reg.sys_EN 1) = false ∧ CountersFit (inRst true) ∧
    (∀ b ∈ [false, true], (inRst b).inReset 1 = true ∧ (inRst b).resets.find? (fun x => decide (x.stn = 1)) = some ⟨1, b, []⟩ ∧
      (inRst b).reqs = [] ∧ (inRst b).outq = [] ∧ (inRst b).tongs = [] ∧ (inRst b).holds = [] ∧ (inRst b).fld (Reg.sys_LEN 1) = 0 ∧ (inRst b).flushes = [] ∧ (inRst b).cache = []) ∧
    (let s : State := { inRst true with reqs := [⟨5, 3, 1, 0x50, true, 0x10, 0x1234, none, 256⟩] }
     ∃ q ∈ s.reqs, q.write = true ∧ q.stn = 1) ∧
    (let s : State := { inRst true with outq := [⟨9, 1, 0x10, gib, [], 0, false⟩] }
     ∃ w ∈ s.outq, w.stn = 1) := by unfold CoreUp HostUp CountersFit; decide +kernel

theorem test_station_reset_quiet : NothingRuns (inRst true) 1 ∧ (∀ b, (inRst true).heldAt b = []) := by
  have hw : (inRst true).whisks = [] := by decide +kernel
  have ht : (inRst true).tongs = [] := by decide +kernel
  have hm : (inRst true).mortars = [] := by decide +kernel
  have hh : (inRst true).holds = [] := by decide +kernel
  refine ⟨⟨by decide +kernel, by decide +kernel, by decide +kernel, by decide +kernel, by decide +kernel, by decide +kernel,
    fun w => ?_, fun d => ?_⟩, fun b => by simp [State.heldAt, hh]⟩
  · simp [State.whisk, hw, SMap.get, Whisk.idle]
  · simp [State.tong, ht, State.mortar, hm, SMap.get, Tongs.idle, Mortar.idle]

theorem test_engine_reset_clauses : (∀ p ∈ [0x10, 0x23, 0x24, 0x27, 0x28, 0x2B, 0x0C, 0x0F, 0x04, 0x08, 0x44, 0x83], isEngine p = true) ∧
    isEngine 0 = false ∧ isEngine 0x87 = false ∧ isEngine 0x9A = false ∧ HostUp base ∧
    (let s : State := { base with engResets := [0x10, 0x24] }
     0x10 ∈ s.engResets ∧ 0x28 ∉ s.engResets) := by unfold HostUp; decide +kernel

theorem test_core_reset_clauses : CoreUp base ∧ base.inReset 1 = false ∧ (inRst false).coreStn 1 = some 1 ∧ (inRst false).inReset 1 = true ∧
    CoreUp (inRst false) ∧ base.coreStn 3 = none ∧ base.coreStn 1 = some 1 ∧
    (sets base [(Reg.cc_RUN 1, 1)]).flag (Reg.cc_RUN 1) = true ∧ (sets base [(Reg.cc_HALTED 1, 1), (Reg.cc_HALT 1, 1)]).flag (Reg.cc_HALTED 1) = true ∧
    (sets base [(Reg.cc_HALTED 1, 1), (Reg.cc_HALT 1, 1)]).flag (Reg.cc_HALT 1) = true ∧ base.flag (Reg.cc_HALT 1) = false := by
  unfold CoreUp; decide +kernel

/-! Power, temperature and pins -/

/-- Warning and trip thresholds: dies 90 and 105, stacks 85 and 95. -/
def warm (l : List (Fld × Nat)) : State :=
  sets base ([(Reg.pwr_WARN_C, 90), (Reg.pwr_TRIP_C, 105), (Reg.pwr_HBM_WARN_C, 85), (Reg.pwr_HBM_TRIP_C, 95)] ++ l)

theorem test_power_sample_clauses : (warm []).injFires 1 0 = false ∧ (warm []).injFires 1 1 = false ∧ (warm []).power.thermAbove = false ∧
    (warm []).flag Reg.sys_BUSY_510 = false ∧ (warm [(Reg.sys_BUSY_510, 1)]).flag Reg.sys_BUSY_510 = true ∧ (warm []).events = [] ∧
    (warm []).fld Reg.pwr_WARN_C ≤ ([20, 90, 20, 20].take 4).foldl max 0 ∧ ¬ (warm []).fld Reg.pwr_WARN_C ≤ ([20, 89, 20, 20].take 4).foldl max 0 ∧
    (warm []).fld Reg.pwr_HBM_TRIP_C ≤ (((95 :: List.replicate 19 30)).take 20).foldl max 0 ∧
    ([20, 85, 20, 20].take 4).foldl max 0 + 5 ≤ (warm []).fld Reg.pwr_WARN_C ∧
    ((List.replicate 20 80).take 20).foldl max 0 + 5 ≤ (warm []).fld Reg.pwr_HBM_WARN_C ∧
    (∀ p ∈ [0, 1, 2], ({ base with power := { base.power with phase := p } } : State).power.phase = p) := by decide +kernel

/-- Nothing is enabled, the coolant is cool and input power has been good since time 5; compute power is off. -/
def cold (now : Nat) : State :=
  { (sets State.reset [(Reg.time_NOW, now)]) with power := { Power.off with vinSince := some 5 }, pins := { base.pins with coolOk := true } }
def limits (th pw req : Nat) (l : List (Fld × Nat)) : State :=
  sets { base with power := { base.power with thermLim := th, powerLim := pw, phase := 1 } } ([(Reg.pwr_ARRAY_REQ, req), (Reg.pwr_COMPUTE_GOOD, 1)] ++ l)

theorem test_clock_clauses : (∀ s ∈ [limits 900 1340 1350 [], limits 1350 1350 1350 []], HostUp s ∧ CoreUp s ∧ s.arrayIdle = true ∧
      s.flag Reg.sys_BUSY_510 = false ∧ LimitsSteady s ∧ s.flag Reg.pwr_COMPUTE_GOOD = true ∧ s.power.phase = 1 ∧ s.fld Reg.pwr_THROT = 0) ∧
    (limits 900 900 1350 [(Reg.sys_BUSY_510, 1)]).flag Reg.sys_BUSY_510 = true ∧ (limits 900 900 1350 [(Reg.pwr_THROT, 3)]).fld Reg.pwr_THROT ≠ 0 ∧
    ({ limits 900 900 1350 [] with gops := [{ gop0 with granted := true }] } : State).arrayIdle = false ∧
    (∀ e ∈ [(100_000_005, true), (100_000_004, false)], CoreUp (cold e.1) ∧ (cold e.1).power.phase = 0 ∧ (cold e.1).safe = false ∧
      (cold e.1).pins.coolOk = true ∧ (cold e.1).power.vinSince.any (fun x => decide (x + 100_000_000 ≤ (cold e.1).now)) = e.2) ∧
    (let s := sets base [(Reg.pwr_COMPUTE_ON, 1)]
     CoreUp s ∧ s.flag Reg.pwr_COMPUTE_ON = true ∧ s.flag (Reg.sys_EN 1) = true) ∧
    (let s := (cold 0).setFlag Reg.pwr_COMPUTE_ON true
     CoreUp s ∧ s.flag Reg.pwr_COMPUTE_ON = true ∧ ∀ n, n < 8 → s.flag (Reg.sys_EN n) = false) := by
  unfold HostUp CoreUp LimitsSteady; decide +kernel

/-- Held in reset, with the boot not yet begun. -/
def heldLow : State := { State.reset with regs := [], pins := { State.reset.pins with modRstN := false }, alive := true }

theorem test_reset_clauses : HostUp base ∧ CoreUp (base.setFlag Reg.hst_DBG_EN true) ∧ (base.setFlag Reg.hst_DBG_EN true).flag Reg.hst_DBG_EN = true ∧
    base.flag Reg.hst_DBG_EN = false ∧ base.alive = true ∧ heldLow.alive = true ∧ heldLow.pins.modRstN = false ∧ heldLow.svcRun = none ∧
    ({ base with alive := false } : State).pins.modRstN = true ∧ base.pins.perstN = true := by unfold HostUp CoreUp; decide +kernel

theorem test_held_registers : ∀ off, heldLow.reg off = (resetWord off).toNat := fun _ => rfl

/-! The Bolt -/

def ev (page code : Nat) (n : Option Nat) (time : Nat) : Event := ⟨page, code, n, false, false, 0x20, 3, 5, 0x1234, time⟩
/-- Source p reacts by these masks, and these events wait. -/
def bolt (p normal severe : Nat) (l : List (Fld × Nat)) (es : List Event) : State :=
  { sets base ([(Reg.bolt_REACT_N p, normal), (Reg.bolt_REACT_S p, severe)] ++ l) with events := es }

theorem test_event_is_next : TakenNext (bolt 0x10 1 0 [] [ev 0x47 0x14 none 900, ev 0x10 0x06 (some 1) 900, ev 4 1 (some 1) 1000]) (ev 0x10 0x06 (some 1) 900) :=
  ⟨[ev 0x47 0x14 none 900], [ev 4 1 (some 1) 1000], by decide +kernel, by decide +kernel, by decide +kernel, by decide +kernel, by decide +kernel⟩

theorem test_event_clauses :
    (∀ b, b < 8 → let e := ev 0x10 0x06 (some 1) 900
      let s := bolt 0x10 (2 ^ b) 0 [] [e]
      becomesSevere s e = false ∧ (actions s e false).testBit b = decide (b ≠ 3 ∧ b < 5 ∨ classOf e.code = EvClass.u) ∧ s.injFires 2 0 = false ∧
      s.flag (Reg.sys_EN 1) = true) ∧
    (∀ b ∈ [3, 5, 6, 7], let e := ev 0x47 0x14 none 900
      (actions (bolt 0x47 (2 ^ b) 0 [] [e]) e false).testBit b = true ∧ (ev 0x47 0x14 none 900).page = 0x44 + 3) ∧
    (let e := ev 0x10 0x06 (some 1) 900
     let s : State := { bolt 0x10 1 8 [(Reg.bolt_N 0x10, 2), (Reg.bolt_WIN 0x10, 1)] [e] with hist := [(0x10, [500])] }
     becomesSevere s e = true) ∧
    (bolt 4 1 1 [(Reg.bolt_HEAD, 63)] []).fld Reg.bolt_HEAD = 63 ∧ (63 + 1) % 64 = (bolt 4 1 1 [(Reg.bolt_HEAD, 63)] []).fld Reg.bolt_TAIL ∧
    (62 + 1) % 64 ≠ (bolt 4 1 1 [(Reg.bolt_HEAD, 62)] []).fld Reg.bolt_TAIL ∧
    (bolt 1 1 1 [(Reg.hdr_ARMED 2, 1)] [ev 1 0x22 none 900]).injFires 2 0 = true ∧ (ev 1 0x24 none 900).code = 0x24 := by decide +kernel

def alrt (low clear high : Bool) (pend pin : Nat) : State := { sets base [(Reg.bolt_PEND, pend), (Reg.bolt_PIN, pin)] with alert := ⟨low, clear, high⟩ }

theorem test_alert_clauses : HostUp (alrt true true false 1 1) ∧ (alrt true true false 1 1).alert.lowMin = true ∧
    (alrt true true false 1 1).flag Reg.bolt_PIN = true ∧ (alrt false false true 1 0).alert.highMin = true ∧
    (alrt false false true 1 0).flag Reg.bolt_PEND = true ∧ (alrt false false true 0 0).flag Reg.bolt_PEND = false ∧
    (alrt false false true 0 0).flag Reg.bolt_PIN = false ∧ (alrt false false false 1 1).alert.lowMin = false ∧
    (match blkOf 0x30 with
      | some (b, _) => injKinds b
      | none => 0) ≠ 0 ∧
    (match blkOf 0x86 with
      | some (b, _) => injKinds b
      | none => 0) = 0 ∧
    (2 ^ 63 + 0x21 : Nat).testBit 63 = true := by unfold HostUp; decide +kernel

/-! Time, snapshots, steps and self-test -/

def tim (src : Nat) (l : List (Fld × Nat)) : State := net (sets base ([(Reg.time_SRC, src), (Reg.time_SPORT, 3), (Reg.time_NOW, 1000)] ++ l))
/-- A 1588 message of a type, domain and sequence number. -/
def pay (kind dom seq : Nat) : List Byte := leBytes kind 4 ++ leBytes dom 1 ++ List.replicate 25 0 ++ beBytes seq 2 ++ List.replicate 32 0
def pflit (pl : List Byte) : Flit := ⟨0x1E, 3, 0xFFFFF, 0xFFFFF, 0, 1, 0, 0, 0, 7, 0, pl, LinkHdr.zero, none⟩
/-- The Pdelay_Req of sequence number 9 left port 3 at time 400. -/
def asked (s : State) : State := { s with links := [(3, { Link.idle with pdReq := some (9, 400) })] }

theorem test_time_clauses :
    (∀ k ∈ [0, 1, 2, 3], ∀ d ∈ [0, 1], let f := pflit (pay k d 9)
      let s := asked (tim 1 [])
      arrived s 3 f 0x1E = true ∧ f.payload.length = 64 ∧ ptpType f.payload = k ∧ (ptpDomain f.payload = s.fld Reg.time_DOMAIN ↔ d = 0) ∧
      ptpSeqId f.payload = 9 ∧ s.fld Reg.time_SRC = 1 ∧ s.flag Reg.time_GM = false ∧ s.fld Reg.time_SPORT = 3 ∧
      (s.link 3).pdReq = some (9, 400)) ∧
    (tim 1 [(Reg.time_GM, 1)]).flag Reg.time_GM = true ∧ arrived (tim 1 []) 5 (pflit (pay 0 0 9)) 0x1E = true ∧
    (tim 2 [(Reg.time_NEXT_PPS, 5_000_000_000)]).fld Reg.time_SRC = 2 ∧
    (tim 2 [(Reg.time_NEXT_PPS, 5_000_000_000)]).fld Reg.time_NEXT_PPS = 5_000_000_000 ∧ (tim 0 []).fld Reg.time_SRC = 0 := by decide +kernel

/-- A latch at this time, a snapshot due at 1000, now 1000 plus d. -/
def snp (d : Nat) (last : Option Nat) (l : List (Fld × Nat)) : State :=
  { sets base ([(Reg.time_SNAP_AT, 1000), (Reg.time_NOW, 1000 + d)] ++ l) with lastLatch := last }

theorem test_snapshot_clauses : HostUp (snp 0 none []) ∧ ((3 : Word).toNat % 16 / 4 = 0 ∧ (3 : Word).toNat.testBit 0 = true) ∧
    (snp 0 none []).now = 1000 ∧ (snp 1 none []).fld Reg.time_SNAP_AT < (snp 1 none []).now ∧
    (sets base [(Reg.time_SNAP_AT, 1)]).now < (sets base [(Reg.time_SNAP_AT, 1)]).fld Reg.time_SNAP_AT ∧
    (∀ e ∈ [(0, true), (1, false)], (snp 0 (some e.1) []).lastLatch = some e.1 ∧ decide (e.1 + 1000 ≤ (snp 0 (some e.1) []).now) = e.2) ∧
    (snp 0 (some 1000) []).lastLatch = some (snp 0 (some 1000) []).now ∧
    ((snp 0 none [(Reg.time_ARM, 1)]).flag Reg.time_ARM = true ∧ (snp 0 none [(Reg.time_PIN_EN, 1)]).flag Reg.time_PIN_EN = true) ∧
    ((snp 0 none []).flag Reg.time_ARM = false ∧ (snp 0 none []).flag Reg.time_PIN_EN = false) := by unfold HostUp; decide +kernel

def stp (open_ : List Nat) (l : List (Fld × Nat)) : State := { sets base l with steps := [(1, ⟨open_, none, false, false, true⟩)] }

theorem test_step_clauses : HostUp (stp [] []) ∧ ((stp [] []).stepOf 1).open_ = [] ∧ ((stp [] []).stepOf 1).pend = none ∧
    ((stp [3] []).stepOf 1).open_ ≠ [] ∧ (stp [] []).safe = false ∧ (stp [] []).flag Reg.sys_EN_500 = true ∧
    (stp [] [(Reg.sys_EN_500, 0)]).flag Reg.sys_EN_500 = false ∧ (stp [] [(Reg.sys_BUSY_510, 1)]).flag Reg.sys_BUSY_510 = true ∧
    (stp [] []).flag Reg.sys_BUSY_510 = false ∧ (2 ^ 63 + 1 : Nat).testBit 63 = true ∧
    (((2 ^ 63 + 1 : Nat).testBit 0 = true ∧ (stp [] []).holdsDie 1 0 = true) ∧ (run base 3 (fun _ => 0)).holdsDie 1 0 = true ∧
      (run base 3 (fun _ => 0)).drainedStn 1 = false) ∧ (stp [] []).drainedStn 1 = true ∧
    (∀ n ∈ [0, 3, 7], (stp [] []).holdsDie n 0 = false) := by unfold HostUp; decide +kernel

theorem test_idle_units : IdleUnit (stp [] []) 0x07 3 ∧ IdleUnit (stp [] []) 0x23 3 ∧ IdleUnit (stp [] []) 0x28 0 ∧ IdleUnit (stp [] []) 0x2F 3 :=
  ⟨.inl ⟨3, by decide +kernel, by decide +kernel, by decide +kernel⟩, .inr (.inl ⟨19, by decide +kernel, by decide +kernel, by decide +kernel, by decide +kernel⟩),
    .inr (.inr (.inl ⟨0, by decide +kernel, by decide +kernel, by decide +kernel, by decide +kernel⟩)),
    .inr (.inr (.inr ⟨3, by decide +kernel, ⟨11, by decide +kernel, by decide +kernel⟩, by decide +kernel⟩))⟩

theorem test_no_idle_unit : ∀ d, ¬ IdleUnit (stp [] []) 0x84 d := by
  rintro d (⟨q, h, -⟩ | ⟨w, h, -⟩ | ⟨k, h, -⟩ | ⟨k, h, -⟩) <;> omega

/-! Registers, the host, SMBus and JTAG -/

theorem test_register_clauses : base.reaches .host = true ∧ base.reaches (.core 16) = true ∧
    ({ base with alive := false } : State).reaches .host = false ∧ HostUp base ∧ CoreUp base ∧
    (0x9B_0000 / 8 * 8) / 0x1_0000 = 155 ∧ (0x9A_FFF8 / 8 * 8) / 0x1_0000 < 155 ∧
    (rowsAt 0x6_0000).all (fun e => decide (e.1.acc = .ro)) = true ∧ (rowsAt 0x1_0128).any (fun e => decide (e.1.acc ≠ .ro)) = true ∧
    (rowsAt 0x100).any (fun e => decide (e.1.acc ≠ .ro)) = true ∧
    (rowsAt 0x100).all (fun e => decide (e.1.acc = .ro) || !base.mayWrite .host 0x100 e) = true ∧
    base.flag Reg.sys_PLAT = false ∧ (base.setFlag Reg.sys_PLAT true).flag Reg.sys_PLAT = true := by
  unfold HostUp CoreUp; decide +kernel

def window (g : Nat) : State := sets base [(Reg.hst_WIN_EN, 1), (Reg.hst_WIN_BASE, g), (Reg.hst_WIN_STN, 1)]

theorem test_window_clauses : HostUp (window 5) ∧ (window 5).flag Reg.hst_WIN_EN = true ∧ base.flag Reg.hst_WIN_EN = false ∧
    (window 5).fld Reg.hst_WIN_BASE * 2 ^ 30 + 0 = gib ∧ isHbm gib = true ∧ (window 5).fld Reg.hst_WIN_STN = 1 ∧
    (window 5).memHeld 1 gib 4096 = false ∧ (flushing (window 5)).memHeld 1 gib 4096 = true ∧
    (∀ w ∈ [false, true], (window 5).check (some 1) gib 4096 w = .ok ∧ (window 9).check (some 1) (9 * 2 ^ 30) 64 w = .owner ((window 9).memPage (9 * 2 ^ 30)) ∧
      (window 5).check (some 1) (0x800_0000_0000 + 4 * 0x200_0000) 64 w = .reserved 0x2C) ∧
    (window 9).memHeld 1 (9 * 2 ^ 30) 64 = false ∧ (window 0).memHeld 1 (0x800_0000_0000 + 4 * 0x200_0000) 64 = false := by
  unfold HostUp; decide +kernel

/-- R203, R226: a core's store may stand in its cache alone until another write takes its bytes. -/
theorem test_core_store_cached :
    (base.coreCached 1 1 gib [5, 6]).coreBytes.map CoreByte.addr = [gib, gib + 1] ∧
    ((base.coreCached 1 1 gib [5, 6]).putBytes gib [7]).coreBytes.map CoreByte.addr = [gib + 1] ∧
    ((base.coreCached 1 1 gib [5, 6]).coreLose 2).coreBytes = (base.coreCached 1 1 gib [5, 6]).coreBytes := by decide +kernel

theorem test_window_calm : Calm (window 5) := calm_of _ (by decide +kernel)

def smb (off : BitVec 32) : State := { base.setFlag Reg.fw_SVC_NONE false with svcRun := some false, smbOff := off }

theorem test_smbus_up : SmbusUp (smb 0x10128#32) := ⟨by unfold CoreUp; decide +kernel, rfl, by decide +kernel, ⟨false, rfl⟩⟩

theorem test_smbus_clauses : ((smb 0x10128#32).smbOff.toNat / 0x1_0000 = 1 ∧ 0x100 ≤ (smb 0x10128#32).smbOff.toNat % 0x1_0000 ∧
      (smb 0x10128#32).smbOff.toNat % 8 = 0 ∧ rowsAt (smb 0x10128#32).smbOff.toNat ≠ []) ∧
    (smb 0x10123#32).smbOff.toNat % 8 ≠ 0 ∧
    (0x84_0100#32 : BitVec 32).toNat % 8 = 0 ∧ (0x84_0100#32 : BitVec 32).toNat / 0x1_0000 < 155 ∧
    (rowsAt 0x84_0100).any (fun e => decide (e.1.acc ≠ .ro)) = true ∧ (base.setFlag Reg.fw_SVC_NONE true).flag Reg.fw_SVC_NONE = true := by decide +kernel

theorem test_jtag_clauses : base.alive = true ∧ ({ base with power := { base.power with phase := 2 } } : State).power.phase ≠ 0 ∧
    ({ base with power := { base.power with phase := 2 } } : State).safe = false ∧
    ({ base with power := { base.power with phase := 0 } } : State).power.phase = 0 ∧ base.flag Reg.hst_DBG_EN = false ∧
    (sets base [(Reg.hst_DBG_EN, 1), (Reg.cc_RUN 1, 1)]).flag (Reg.cc_RUN 1) = true ∧
    (sets base [(Reg.hst_DBG_EN, 1), (Reg.cc_HALTED 1, 1)]).flag (Reg.cc_HALTED 1) = true ∧
    (sets base [(Reg.hst_DBG_EN, 1), (Reg.cc_HALTED 1, 1)]).flag (Reg.cc_HALT 1) = false := by decide +kernel

/-! Firmware -/

/-- Firmware runs from copies A, with this request in the host's mailbox. -/
def fw (req : List Nat) (l : List (Fld × Nat)) : State :=
  { sets base ([(Reg.fw_STAGE, 3), (Reg.fw_SVC_NONE, 0)] ++ req.zipIdx.map (fun e => (Reg.fw_REQ 0 e.2, e.1)) ++ l) with svcRun := some false }

theorem test_mailbox_clauses : HostUp (fw [] []) ∧ MailboxesFree (fw [] []) ∧ (List.replicate 96 (7 : Byte)).length = 96 ∧
    (∀ i ∈ [2, 3, 7, 8], (fw [i] []).fld (Reg.fw_REQ 0 0) = i) ∧ (fw [] [(Reg.fw_T_STATE, 2)]).fld Reg.fw_T_STATE = 2 ∧
    (fw [] []).fld Reg.fw_T_STATE ≠ 2 ∧ (fw [] []).flag Reg.fw_T_FALLBACK = false ∧ (fw [] []).flag Reg.fw_S_FALLBACK = false ∧
    (fw [] [(Reg.fw_S_FALLBACK, 1)]).flag Reg.fw_S_FALLBACK = true ∧
    (let w := (fw [2 * 2 ^ 32 + 0x1FF_FFF0] []).fld (Reg.fw_REQ 0 0)
     bitsOf w 24 3 * 8 + 8 * bitsOf w 36 32 = 0x200_0000) ∧
    ((fw [0] [(Reg.fw_STAGE, 7)]).fld Reg.fw_STAGE = 7 ∧ (fw [0] [(Reg.fw_STAGE, 7)]).hoOpen = false ∧
      (∀ b, b < 9 → (fw [0] [(Reg.fw_STAGE, 7)]).flag (Reg.fw_BUSY b) = false) ∧
      bitsOf ((fw [0] [(Reg.fw_STAGE, 7)]).fld (Reg.fw_REQ 0 0)) 36 32 = 0) ∧
    ((fw [] [(Reg.fw_BUSY 0, 1), (Reg.fw_CMD 0, 3)]).fld (Reg.fw_CMD 0) ≠ 1 ∧
      (fw [] [(Reg.fw_BUSY 0, 1), (Reg.fw_CMD 0, 3)]).flag (Reg.fw_BUSY 0) = true) ∧
    (({ fw [] [] with hoOpen := true } : State).hoOpen = true ∧ ({ fw [] [] with hoOpen := true } : State).flag (Reg.fw_BUSY 0) = false) := by
  unfold HostUp MailboxesFree; decide +kernel

def ses (kind : Nat) (succs got : List Nat) (own : Nat) (origin : Bool) : Session :=
  ⟨kind, 5, 0x50, 3, succs, 512, 5#384, got, 0, 1, own, origin⟩

/-- A handover is open at its stage. -/
def ho (stat : Nat) : State := { fw [] [(Reg.fw_HO_STAT, stat)] with hoOpen := true, hoCopy := true }

theorem test_handover_clauses : HostUp (fw [] []) ∧ (fw [] []).fld Reg.fw_STAGE = 3 ∧ (fw [] []).flag (Reg.fw_BUSY 0) = false ∧
    (∀ b, b < 9 → (fw [] []).flag (Reg.fw_BUSY b) = false) ∧ (fw [] []).hoOpen = false ∧ (ho 1).hoOpen = true ∧
    (∀ k ∈ [1, 3, 5], (ho k).fld Reg.fw_HO_STAT = k) ∧
    (let s : State := { fw [] [(Reg.fw_S_STATE, 2)] with stagedS := true }
     s.fld Reg.fw_S_STATE = 2 ∧ s.svcRun ≠ some s.stagedS) ∧ (fw [] []).fld Reg.fw_S_STATE ≠ 2 ∧ (fw [] []).session = none ∧
    (fw [] []).svcRun = some false ∧ ({ fw [] [] with svcRun := none } : State).svcRun = none ∧
    ({ fw [] [] with session := some (ses 2 [] [] 0 false) } : State).session = some (ses 2 [] [] 0 false) ∧
    (fw [] []).copyOk false true = false := by unfold HostUp; decide +kernel

/-- The module of node 7 with one successor, and a session. -/
def upd (x : Option Session) : State := { net (fw [] [(Reg.fw_VALID 1, 1), (Reg.fw_SUCC 1, 0x51)]) with session := x }
def ffl (kind ses ix src : Nat) (pl : List Byte) : Flit := ⟨0x1F, 3, src, 7, 0, 5, 0, 9, 0, 7, kind + ses <<< 3 + ix <<< 19, pl, LinkHdr.zero, none⟩
def manBytes (kind : Nat) : List Byte := leBytes kind 8 ++ leBytes 9 8 ++ leBytes 4 8 ++ leBytes 512 8 ++ List.replicate 224 1

theorem test_manifest_clauses : (∀ k ∈ [1, 2, 3], let f := ffl 0 5 0 0x50 (manBytes k)
      arrived (upd none) 3 f 0x1F = true ∧ (upd none).flag Reg.krt_VALID = true ∧ f.payload.length = 256 ∧ f.addr % 8 = 0 ∧
      (manifestOf f.payload).kind = k) ∧
    (∀ t, (upd none).manifestOk t (manifestOf (manBytes 1)) false = false) ∧ (upd none).session = none ∧ (upd none).hoOpen = false ∧
    (manifestOf (manBytes 1)).kind = 1 := by decide +kernel

theorem test_session_flit_clauses :
    (∀ e ∈ [(1, 0, 0x50), (1, 1, 0x50), (3, 0, 0x51), (2, 0, 0x51)], ∀ ss ∈ [5, 6],
      let f := ffl e.1 ss e.2.1 e.2.2 (List.replicate 256 6)
      arrived (upd (some (ses 1 [0x51] [1] 0 false))) 3 f 0x1F = true ∧ f.payload.length = 256 ∧ f.addr % 8 = e.1 ∧
      bitsOf f.addr 18 3 = ss ∧ bitsOf f.addr 43 19 = e.2.1) ∧
    (∀ own ∈ [0, 1, 6], (ses 1 [0x51] [1] own false).own ≤ 6 ∧ (ses 1 [0x51] [1] own false).worst < 16) ∧
    (let x := ses 1 [0x51] [1] 0 false
     x.origin = false ∧ x.own = 0 ∧ x.pred = 0x50 ∧ 1 < x.size / 256 ∧ 0 ∉ x.got ∧ 1 ∈ x.got ∧ 0x51 ∈ x.succs ∧
     x.succs.filter (fun n => decide (n ≠ 0x51)) = [] ∧ (∀ j, j < 0 → j ∈ x.got) ∧ 0 ≤ x.got.length) ∧
    (let x := ses 2 [] [1, 0] 0 false
     x.size / 256 ≤ x.got.length ∧ x.own = 0) := by decide +kernel

theorem test_start_chain_clauses : let s := upd none
    HostUp s ∧ MailboxesFree s ∧ (manifestOf (s.bytes stagingBase 256)).kind = 0 ∧ (upd (some (ses 1 [] [] 0 false))).session ≠ none := by
  unfold HostUp MailboxesFree; decide +kernel

end Sys2Proof.Tests
end

/-! What the record of a refused access leaves in a page's header (R8, R323 to R325), and the accesses that do nothing else. -/

namespace Sys2Proof.Machine

open Sys2Proof.Spec

/-! ## Counters -/

theorem State.reg_bump_other (m : State) (f : Fld) (k : Nat) {o : Nat} (h : o ≠ f.off) : (m.bump f k).reg o = m.reg o :=
  State.reg_setReg_other m _ h

/-- A counter narrower than its register saturates (R410). -/
theorem State.fld_bump_same (m : State) (f : Fld) (k : Nat) (h : f.lo ≤ f.hi) (hh : f.hi < 64) (hw : f.hi + 1 - f.lo ≠ 64) :
    (m.bump f k).fld f = min (m.fld f + k) (2 ^ (f.hi + 1 - f.lo) - 1) := by
  have hpos : 0 < 2 ^ (f.hi + 1 - f.lo) := by positivity
  rw [State.bump, State.fld_setFld_same m f _ h hh, if_neg hw, satAdd]
  exact Nat.mod_eq_of_lt (by omega)

theorem State.fld_bump_other (m : State) (f g : Fld) (k : Nat) (h : f.lo ≤ f.hi) (hh : f.hi < 64)
    (d : g.off ≠ f.off ∨ f.hi < g.lo ∨ g.hi < f.lo) : (m.bump f k).fld g = m.fld g :=
  State.fld_setFld_other m f g _ h hh d

/-! ## The first-error capture (R324) -/

/-- A capture changes no register outside its page's offsets 0x28 to 0x40. -/
theorem State.reg_capture_other (m : State) (e : Ev) {o : Nat} (h : o < 0x10000 * e.page + 0x28 ∨ 0x10000 * e.page + 0x40 < o) :
    (m.capture e).reg o = m.reg o := by
  unfold State.capture
  dsimp only
  split
  · rfl
  · rw [State.reg_setReg_other _ _ (by omega), State.reg_setReg_other _ _ (by omega), State.reg_setReg_other _ _ (by omega),
      State.reg_setReg_other _ _ (by omega)]

section Empty

variable {m : State} {e : Ev} (h : m.flag (Reg.hdr_VALID_38 e.page) = false)
include h

/-- An empty capture takes the event. -/
theorem State.capture_of_empty : m.capture e =
    (((m.setReg (0x10000 * e.page + 0x28) e.addr).setReg (0x10000 * e.page + 0x30)
      (e.master + (e.stn.getD 0) <<< 8 + b2n e.stn.isSome <<< 11)).setReg (0x10000 * e.page + 0x38)
      (e.acc + e.code <<< 8 + b2n e.inj <<< 16 + 1 <<< 63)).setReg (0x10000 * e.page + 0x40) m.now := by
  simp [State.capture, h]

theorem State.reg_capture_addr : (m.capture e).reg (0x10000 * e.page + 0x28) = e.addr % 2 ^ 64 := by
  rw [State.capture_of_empty h]
  simp [State.reg_setReg]

theorem State.reg_capture_master : (m.capture e).reg (0x10000 * e.page + 0x30) =
    (e.master + (e.stn.getD 0) <<< 8 + b2n e.stn.isSome <<< 11) % 2 ^ 64 := by
  rw [State.capture_of_empty h]
  simp [State.reg_setReg]

theorem State.reg_capture_kind : (m.capture e).reg (0x10000 * e.page + 0x38) =
    (e.acc + e.code <<< 8 + b2n e.inj <<< 16 + 1 <<< 63) % 2 ^ 64 := by
  rw [State.capture_of_empty h]
  simp [State.reg_setReg]

end Empty

/-! ## The events that wait (R323) -/

/-- An event that waits, or is lost, changes its page's count of the undelivered at most. -/
theorem State.reg_enqueue_other (m : State) (e : Ev) {o : Nat} (h : o ≠ 0x10000 * e.page + 0x48) : (m.enqueue e).reg o = m.reg o := by
  unfold State.enqueue
  dsimp only
  split
  · exact State.reg_bump_other m (Reg.hdr_UNDELIVERED e.page) 1 h
  · rfl

/-- Delivery leaves the page's count of events. -/
theorem State.fld_enqueue_EVENTS (m : State) (e : Ev) :
    (m.enqueue e).fld (Reg.hdr_EVENTS e.page) = m.fld (Reg.hdr_EVENTS e.page) := by
  unfold State.enqueue
  dsimp only
  split
  · exact State.fld_bump_other m (Reg.hdr_UNDELIVERED e.page) (Reg.hdr_EVENTS e.page) 1
      (by simp [Reg.hdr_UNDELIVERED]) (by simp [Reg.hdr_UNDELIVERED]) (by simp [Reg.hdr_UNDELIVERED, Reg.hdr_EVENTS])
  · rfl

/-- A page with fewer than four events waiting has room for one more. -/
theorem State.enqueue_events_of_room (m : State) (e : Ev) (h : (m.events.filter (fun x => decide (x.page = e.page))).length < 4) :
    (m.enqueue e).events = m.events ++
      [⟨e.page, e.code, e.stn, e.inj, decide (e.page ∈ m.lossPages), e.master, e.acc, e.detail, e.addr, m.now⟩] := by
  simp [State.enqueue, Nat.not_le.mpr h]

/-! ## A report -/

@[simp] theorem State.capture_events (m : State) (e : Ev) : (m.capture e).events = m.events := by rw [State.capture_frame]

@[simp] theorem State.report_cores (m : State) (e : Ev) : (m.report e).cores = m.cores := by rw [State.report_frame]

/-- Beside its page's count, a report changes the capture's registers alone. -/
theorem State.reg_report_eq_capture (m : State) (e : Ev) {o : Nat} (h : o ≠ 0x10000 * e.page + 0x48) :
    (m.report e).reg o = (m.capture e).reg o := by
  rw [State.report, State.reg_enqueue_other _ _ h]
  exact State.reg_bump_other _ (Reg.hdr_EVENTS e.page) 1 h

/-- A report changes no register outside its page's offsets 0x28 to 0x48. -/
theorem State.reg_report_other (m : State) (e : Ev) {o : Nat} (h : o < 0x10000 * e.page + 0x28 ∨ 0x10000 * e.page + 0x48 < o) :
    (m.report e).reg o = m.reg o := by
  rw [State.reg_report_eq_capture m e (by omega), State.reg_capture_other m e (by omega)]

/-- A report counts one event on its page. -/
theorem State.fld_report_EVENTS (m : State) (e : Ev) :
    (m.report e).fld (Reg.hdr_EVENTS e.page) = min (m.fld (Reg.hdr_EVENTS e.page) + 1) (2 ^ 32 - 1) := by
  have hcap : (m.capture e).fld (Reg.hdr_EVENTS e.page) = m.fld (Reg.hdr_EVENTS e.page) :=
    congrArg (bitsOf · 31 0) (State.reg_capture_other m e (by simp [Reg.hdr_EVENTS]))
  rw [State.report, State.fld_enqueue_EVENTS,
    State.fld_bump_same _ (Reg.hdr_EVENTS e.page) 1 (by simp [Reg.hdr_EVENTS]) (by simp [Reg.hdr_EVENTS])
      (by simp [Reg.hdr_EVENTS]), hcap]
  rfl

/-- A report of an event that no injection made reaches the Bolt's queue where its page has room. -/
theorem State.reported_report (m : State) (e : Ev) (hi : e.inj = false) : Reported m (m.report e) e.page e.code := by
  intro hroom
  have hevents := State.enqueue_events_of_room ((m.capture e).bump (Reg.hdr_EVENTS e.page) 1) e (by simpa using hroom)
  rw [State.bump_events, State.capture_events] at hevents
  exact ⟨_, hevents, rfl, rfl, hi⟩

/-- A report touches no byte and no mark of poison. -/
theorem State.sameMemory_report (m : State) (e : Ev) : SameMemory m (m.report e) := by
  rw [State.report_frame]
  exact fun _ => ⟨rfl, rfl⟩

/-! ## The record of an access -/

theorem mid_lt (m : Master) : mid m < 256 := by
  cases m <;> simp only [mid] <;> omega

/-- A captured event shows its master, whatever station stands beside it. -/
theorem bitsOf_capture_master (a s v : Nat) (ha : a < 256) : bitsOf ((a + s <<< 8 + v <<< 11) % 2 ^ 64) 7 0 = a := by
  simp only [bitsOf, Nat.shiftLeft_eq, Nat.shiftRight_zero]
  omega

/-- A captured event holds VALID, CODE and ACC. -/
theorem bitsOf_capture_kind (a c : Nat) (ha : a < 8) (hc : c < 256) :
    let w := (a + c <<< 8 + 0 <<< 16 + 1 <<< 63) % 2 ^ 64
    bitsOf w 63 63 = 1 ∧ bitsOf w 15 8 = c ∧ bitsOf w 2 0 = a := by
  simp only [bitsOf, Nat.shiftLeft_eq, Nat.shiftRight_eq_div_pow]
  omega

/-- A report finds its page's first-error capture empty and fills it. -/
theorem State.report_fills_capture {m : State} {e : Ev} (h : m.flag (Reg.hdr_VALID_38 e.page) = false) (hi : e.inj = false)
    (hm : e.master < 256) (ha : e.acc < 8) (hc : e.code < 256) :
    (m.report e).flag (Reg.hdr_VALID_38 e.page) = true ∧ (m.report e).reg (0x10000 * e.page + 0x28) = e.addr % 2 ^ 64 ∧
      (m.report e).fld (Reg.hdr_MASTER e.page) = e.master ∧ (m.report e).fld (Reg.hdr_CODE e.page) = e.code ∧
      (m.report e).fld (Reg.hdr_ACC e.page) = e.acc := by
  have haddr := (m.reg_report_eq_capture e (by omega)).trans (State.reg_capture_addr h)
  have hmaster := (m.reg_report_eq_capture e (by omega)).trans (State.reg_capture_master h)
  have hkind := (m.reg_report_eq_capture e (by omega)).trans (State.reg_capture_kind h)
  rw [hi] at hkind
  obtain ⟨hvalid, hcode, hacc⟩ := bitsOf_capture_kind e.acc e.code ha hc
  refine ⟨?_, haddr, ?_, ?_, ?_⟩
  · have : (m.report e).fld (Reg.hdr_VALID_38 e.page) = 1 := (congrArg (bitsOf · 63 63) hkind).trans hvalid
    simp [State.flag, this]
  · exact (congrArg (bitsOf · 7 0) hmaster).trans (bitsOf_capture_master _ _ _ hm)
  · exact (congrArg (bitsOf · 15 8) hkind).trans hcode
  · exact (congrArg (bitsOf · 2 0) hkind).trans hacc

/-- An access that the register pages record has done nothing else. -/
theorem State.recorded_access (s : State) (page : Nat) (who : Master) (stn : Option Nat) (acc off : Nat) (ha : acc < 8) :
    Recorded s (s.access page (mid who) stn acc (regAddr off)) page (mid who) acc off := by
  unfold State.access
  generalize he : Ev.mk page Code.access stn (mid who) acc (regAddr off) 0 false = e
  obtain rfl : e.page = page := by rw [← he]
  have hcode : e.code = 0x07 := by rw [← he]; rfl
  have hinj : e.inj = false := by rw [← he]
  have hmaster : e.master = mid who := by rw [← he]
  have hacc : e.acc = acc := by rw [← he]
  have haddr : e.addr = regAddr off := by rw [← he]
  refine ⟨hcode ▸ s.reported_report e hinj, s.sameMemory_report e, s.report_cores e, fun o ho => ?_, s.fld_report_EVENTS e,
    fun hempty => ?_⟩
  · exact s.reg_report_other e (by omega)
  · have hfill := State.report_fills_capture hempty hinj (hmaster ▸ mid_lt who) (hacc ▸ ha) (by omega)
    rwa [hcode, hmaster, hacc, haddr] at hfill

/-! ## Narrow and unaligned accesses (R8) -/

theorem exec_narrowAccess (m : Master) (off size : Nat) (w : Bool) (s : State) :
    exec (.narrowAccess m off size w) s = .next (s.narrow m off size w) := rfl

/-- A narrow access that reaches the pages is recorded, and a read of it answers zeros. -/
theorem State.narrow_of_reaches {s : State} {m : Master} (h : s.reaches m = true) (off size : Nat) (w : Bool) :
    s.narrow m off size w =
      let t := s.access (min 0x9A (off / 0x1_0000)) (mid m) (s.masterStn m) (b2n w) (regAddr off)
      if w then t else { t with busOut := ⟨List.replicate size 0, false, true⟩ } := by
  simp [State.narrow, h]

/-- An access that reaches the pages in a form no register takes is recorded, does nothing else, and reads zeros. -/
theorem State.narrow_recorded {s : State} {m : Master} (h : s.reaches m = true) (off size : Nat) (w : Bool) :
    Recorded s (s.narrow m off size w) (min 0x9A (off / 0x1_0000)) (mid m) (if w then 1 else 0) off ∧
      (w = false → (s.narrow m off size w).busOut = ⟨List.replicate size 0, false, true⟩) := by
  have hrec (acc : Nat) (ha : acc < 8) := s.recorded_access (min 0x9A (off / 0x1_0000)) m (s.masterStn m) acc off ha
  rw [State.narrow_of_reaches h]
  cases w with
  | true => exact ⟨hrec 1 (by decide), nofun⟩
  | false => exact ⟨hrec 0 (by decide), fun _ => rfl⟩

/-- Settles O54: the page's record of the access is all that it changes. -/
theorem narrowAccessesDoNothing : Obligations.NarrowAccessesDoNothing := by
  intro s m off size w hreach _
  exact ⟨_, exec_narrowAccess m off size w s, State.narrow_recorded hreach off size w⟩

end Sys2Proof.Machine

/-! What a write of a register records and counts before its page takes it (R33, R381, R382, R406 to R408), and what the registers
of the power caps and of the configuration locks take. -/

namespace Sys2Proof.Machine

open Sys2Proof.Spec

/-! ## Registers left alone -/

theorem State.fld_eq_of_reg {s t : State} {f : Fld} (h : t.reg f.off = s.reg f.off) : t.fld f = s.fld f := by
  rw [State.fld, State.fld, h]

theorem State.flag_eq_of_reg {s t : State} {f : Fld} (h : t.reg f.off = s.reg f.off) : t.flag f = s.flag f := by
  rw [State.flag, State.flag, State.fld_eq_of_reg h]

/-- A field does not reach beyond its register's 64 bits. -/
theorem bitsOf_mod_word (w hi lo : Nat) (h : hi < 64) : bitsOf (w % 2 ^ 64) hi lo = bitsOf w hi lo := by
  refine Nat.eq_of_testBit_eq fun k => ?_
  rw [testBit_bitsOf, testBit_bitsOf, Nat.testBit_mod_two_pow]
  by_cases hk : k < hi + 1 - lo
  · simp [show lo + k < 64 by omega]
  · simp [hk]

/-- A field of a register that has been written. -/
theorem State.fld_setReg_same (m : State) (f : Fld) (w : Nat) (h : f.hi < 64) : (m.setReg f.off w).fld f = bitsOf w f.hi f.lo := by
  rw [State.fld, State.reg_setReg_same, bitsOf_mod_word _ _ _ h]

theorem State.fld_setReg_other (m : State) {off : Nat} {f : Fld} (w : Nat) (h : f.off ≠ off) : (m.setReg off w).fld f = m.fld f :=
  State.fld_eq_of_reg (State.reg_setReg_other m w h)

theorem State.flag_setReg_other (m : State) {off : Nat} {f : Fld} (w : Nat) (h : f.off ≠ off) : (m.setReg off w).flag f = m.flag f :=
  State.flag_eq_of_reg (State.reg_setReg_other m w h)

theorem State.fld_lt (m : State) (f : Fld) : m.fld f < 2 ^ (f.hi + 1 - f.lo) := Nat.mod_lt _ (by positivity)

/-! ## Memory left alone -/

theorem sameMemory_trans {s t u : State} (h : SameMemory s t) (k : SameMemory t u) : SameMemory s u :=
  fun a => ⟨(k a).1.trans (h a).1, (k a).2.trans (h a).2⟩

/-! ## The record of an access -/

/-- The record of an access changes no register outside its page's offsets 0x28 to 0x48. -/
theorem State.reg_access_other (m : State) (page master : Nat) (stn : Option Nat) (acc addr : Nat) {o : Nat}
    (h : o < 0x10000 * page + 0x28 ∨ 0x10000 * page + 0x48 < o) : (m.access page master stn acc addr).reg o = m.reg o :=
  State.reg_report_other m _ h

theorem State.reported_access (m : State) (page master : Nat) (stn : Option Nat) (acc addr : Nat) :
    Reported m (m.access page master stn acc addr) page 0x07 := State.reported_report m _ rfl

theorem State.sameMemory_access (m : State) (page master : Nat) (stn : Option Nat) (acc addr : Nat) :
    SameMemory m (m.access page master stn acc addr) := State.sameMemory_report m _

/-! ## Counted clamps (R382) -/

section Clamp

variable (m : State) (off : Nat)

/-- A counted clamp changes its page's BLK_CLAMP alone. -/
theorem State.reg_clampAt_other {o : Nat} (h : o ≠ 0x10000 * (off / 0x10000) + 0x20) : (m.clampAt off).reg o = m.reg o := by
  unfold State.clampAt
  dsimp only
  rw [State.reg_bump_other _ _ _ h]
  split
  · rfl
  · rw [State.setFlag, State.setFld, State.reg_setReg_other (off := (Reg.hdr_VALID _).off) _ _ h, State.setFld,
      State.reg_setReg_other (off := (Reg.hdr_OFFSET _).off) _ _ h]

/-- BLK_CLAMP before the count: VALID stands, and OFFSET is the first clamp's. -/
theorem State.clampAt_eq_bump : ∃ m1 : State, m.clampAt off = m1.bump (Reg.hdr_COUNT (off / 0x10000)) 1 ∧
    m1.flag (Reg.hdr_VALID (off / 0x10000)) = true ∧
    m1.fld (Reg.hdr_COUNT (off / 0x10000)) = m.fld (Reg.hdr_COUNT (off / 0x10000)) ∧
    (m.flag (Reg.hdr_VALID (off / 0x10000)) = false → m1.fld (Reg.hdr_OFFSET (off / 0x10000)) = off % 0x10000) := by
  refine ⟨_, rfl, ?_⟩
  split
  · next h => exact ⟨h, rfl, fun h' => absurd (h.symm.trans h') (by decide)⟩
  · refine ⟨State.flag_setFlag_same _ _ _ (Nat.le_refl 63) (Nat.lt_succ_self 63), ?_, fun _ => ?_⟩
    · rw [State.setFlag, State.fld_setFld_other _ _ _ _ (Nat.le_refl 63) (Nat.lt_succ_self 63) (by simp [Reg.hdr_VALID, Reg.hdr_COUNT]),
        State.fld_setFld_other _ _ _ _ (Nat.zero_le _) (by simp [Reg.hdr_OFFSET]) (by simp [Reg.hdr_OFFSET, Reg.hdr_COUNT])]
    · rw [State.setFlag, State.fld_setFld_other _ _ _ _ (Nat.le_refl 63) (Nat.lt_succ_self 63) (by simp [Reg.hdr_VALID, Reg.hdr_OFFSET]),
        State.fld_setFld_same _ _ _ (Nat.zero_le _) (by simp [Reg.hdr_OFFSET])]
      simp [Reg.hdr_OFFSET]

theorem State.flag_clampAt_VALID : (m.clampAt off).flag (Reg.hdr_VALID (off / 0x10000)) = true := by
  obtain ⟨m1, he, hv, -⟩ := m.clampAt_eq_bump off
  rw [he, State.flag, State.fld_bump_other _ _ _ _ (by simp [Reg.hdr_COUNT]) (by simp [Reg.hdr_COUNT]) (by simp [Reg.hdr_VALID, Reg.hdr_COUNT])]
  exact hv

theorem State.fld_clampAt_COUNT :
    (m.clampAt off).fld (Reg.hdr_COUNT (off / 0x10000)) = min (m.fld (Reg.hdr_COUNT (off / 0x10000)) + 1) 65535 := by
  obtain ⟨m1, he, -, hc, -⟩ := m.clampAt_eq_bump off
  rw [he, State.fld_bump_same _ _ _ (by simp [Reg.hdr_COUNT]) (by simp [Reg.hdr_COUNT]) (by simp [Reg.hdr_COUNT]), hc]
  simp [Reg.hdr_COUNT]

theorem State.fld_clampAt_OFFSET (h : m.flag (Reg.hdr_VALID (off / 0x10000)) = false) :
    (m.clampAt off).fld (Reg.hdr_OFFSET (off / 0x10000)) = off % 0x10000 := by
  obtain ⟨m1, he, -, -, ho⟩ := m.clampAt_eq_bump off
  rw [he, State.fld_bump_other _ _ _ _ (by simp [Reg.hdr_COUNT]) (by simp [Reg.hdr_COUNT]) (by simp [Reg.hdr_OFFSET, Reg.hdr_COUNT])]
  exact ho h

@[simp] theorem State.clampAt_events : (m.clampAt off).events = m.events := by rw [State.clampAt_frame]

end Clamp

/-! ## What a write counts -/

/-- m once the draft of a write has been counted: a refused value is recorded (R408), then a clamped one counted (R382). -/
def State.counted (m : State) (who : Master) (off : Nat) (d : Draft) : State :=
  let m1 := if d.refused then m.access (off / 0x1_0000) (mid who) (m.masterStn who) 1 (regAddr off) else m
  if d.clamped then m1.clampAt off else m1

section Counted

variable (m : State) (who : Master) (off : Nat) (d : Draft)

/-- Counting changes registers and the events. -/
theorem State.counted_frame : m.counted who off d =
    { m with regs := (m.counted who off d).regs, events := (m.counted who off d).events, lossPages := (m.counted who off d).lossPages } := by
  unfold State.counted
  dsimp only
  split <;> split
  · rw [State.clampAt_frame, State.access_frame]
  · rw [State.clampAt_frame]
  · rw [State.access_frame]
  · rfl

/-- Counting changes no register beyond the header of the written page. -/
theorem State.reg_counted_other {o : Nat} (h : o / 0x1_0000 ≠ off / 0x1_0000 ∨ 0x68 ≤ o % 0x1_0000) :
    (m.counted who off d).reg o = m.reg o := by
  unfold State.counted
  dsimp only
  split <;> split <;>
    simp only [State.reg_clampAt_other _ off (o := o) (by omega), State.reg_access_other _ (off / 0x1_0000) _ _ _ _ (o := o) (by omega)]

theorem State.sameMemory_counted : SameMemory m (m.counted who off d) := by
  rw [State.counted_frame]
  exact fun _ => ⟨rfl, rfl⟩

variable {d}

theorem State.reported_counted (h : d.refused = true) : Reported m (m.counted who off d) (off / 0x1_0000) 0x07 := by
  have hev : (m.counted who off d).events = (m.access (off / 0x1_0000) (mid who) (m.masterStn who) 1 (regAddr off)).events := by
    unfold State.counted
    rw [if_pos h]
    dsimp only
    split
    · exact State.clampAt_events _ _
    · rfl
  intro hroom
  rw [hev]
  exact State.reported_access _ _ _ _ _ _ hroom

/-- A write that is not refused reports nothing. -/
theorem State.counted_of_not_refused (h : d.refused = false) :
    m.counted who off d = if d.clamped then m.clampAt off else m := by
  simp [State.counted, h]

theorem State.counted_events_of_not_refused (h : d.refused = false) : (m.counted who off d).events = m.events := by
  rw [State.counted_of_not_refused m who off h]
  split
  · exact State.clampAt_events _ _
  · rfl

theorem State.counted_frame_of_not_refused (h : d.refused = false) :
    m.counted who off d = { m with regs := (m.counted who off d).regs } := by
  rw [State.counted_of_not_refused m who off h]
  split
  · rw [State.clampAt_frame]
  · rfl

/-- BLK_CLAMP counts a clamped write, and no other. -/
theorem State.counted_clamps : let page := off / 0x1_0000
    (d.clamped = true → (m.counted who off d).flag (Reg.hdr_VALID page) = true ∧
      (m.counted who off d).fld (Reg.hdr_COUNT page) = min (m.fld (Reg.hdr_COUNT page) + 1) 65535 ∧
      (m.flag (Reg.hdr_VALID page) = false → (m.counted who off d).fld (Reg.hdr_OFFSET page) = off % 0x1_0000)) ∧
    (d.clamped = false → (m.counted who off d).fld (Reg.hdr_COUNT page) = m.fld (Reg.hdr_COUNT page) ∧
      (m.counted who off d).flag (Reg.hdr_VALID page) = m.flag (Reg.hdr_VALID page)) := by
  have h20 : (if d.refused then m.access (off / 0x1_0000) (mid who) (m.masterStn who) 1 (regAddr off) else m).reg
      (0x10000 * (off / 0x1_0000) + 0x20) = m.reg (0x10000 * (off / 0x1_0000) + 0x20) := by
    split
    · exact State.reg_access_other _ _ _ _ _ _ (by omega)
    · rfl
  unfold State.counted
  refine ⟨fun h => ?_, fun h => ?_⟩
  · rw [if_pos h]
    refine ⟨State.flag_clampAt_VALID _ _, ?_, fun hv => ?_⟩
    · rw [State.fld_clampAt_COUNT, State.fld_eq_of_reg (f := Reg.hdr_COUNT _) h20]
    · exact State.fld_clampAt_OFFSET _ _ ((State.flag_eq_of_reg (f := Reg.hdr_VALID _) h20).trans hv)
  · rw [if_neg (by simp [h])]
    exact ⟨State.fld_eq_of_reg (f := Reg.hdr_COUNT _) h20, State.flag_eq_of_reg (f := Reg.hdr_VALID _) h20⟩

end Counted

/-! ## The ways of a write -/

/-- The fields of a register that some master writes. -/
def writableRows (off : Nat) : List (FieldRow × List Nat) := (rowsAt off).filter (fun e => decide (e.1.acc ≠ .ro))

theorem mem_writableRows {off : Nat} {e : FieldRow × List Nat} : e ∈ writableRows off ↔ e ∈ rowsAt off ∧ e.1.acc ≠ .ro := by
  simp [writableRows]

section BusWrite

variable {s : State} {who : Master} {off : Nat}

theorem State.busWrite_eq (v : Nat) : s.busWrite who off v =
    if !s.reaches who then s
    else if 155 ≤ off / 0x1_0000 then s.access 0x9A (mid who) (s.masterStn who) 1 (regAddr off)
    else if (writableRows off).isEmpty then s
    else if !(writableRows off).any (s.mayWrite who off) then s.access (off / 0x1_0000) (mid who) (s.masterStn who) 1 (regAddr off)
    else if s.enDropped off v then s.access (off / 0x1_0000) (mid who) (s.masterStn who) 1 (regAddr off)
    else (s.counted who off (s.draft who off v)).regEffect who off v (s.draft who off v) := rfl

theorem State.busWrite_unreached (h : s.reaches who = false) (v : Nat) : s.busWrite who off v = s := by
  simp [State.busWrite_eq, h]

/-- Beyond the last page a write is recorded by HST (R33). -/
theorem State.busWrite_reservedPage (h : s.reaches who = true) (hp : 155 ≤ off / 0x1_0000) (v : Nat) :
    s.busWrite who off v = s.access 0x9A (mid who) (s.masterStn who) 1 (regAddr off) := by
  simp [State.busWrite_eq, h, hp]

/-- A register with no writable field ignores a write (R406). -/
theorem State.busWrite_readOnly (hp : off / 0x1_0000 < 155) (hr : ∀ e ∈ rowsAt off, e.1.acc = .ro) (v : Nat) :
    s.busWrite who off v = s := by
  have hrows : writableRows off = [] := List.eq_nil_iff_forall_not_mem.mpr fun e he =>
    (mem_writableRows.mp he).2 (hr e (mem_writableRows.mp he).1)
  simp [State.busWrite_eq, Nat.not_le.mpr hp, hrows]

/-- A master that may write none of a register's fields is refused (R408). -/
theorem State.busWrite_refused (h : s.reaches who = true) (hp : off / 0x1_0000 < 155) (hw : ∃ e ∈ rowsAt off, e.1.acc ≠ .ro)
    (hn : ∀ e ∈ rowsAt off, e.1.acc ≠ .ro → s.mayWrite who off e = false) (v : Nat) :
    s.busWrite who off v = s.access (off / 0x1_0000) (mid who) (s.masterStn who) 1 (regAddr off) := by
  obtain ⟨e, he, hacc⟩ := hw
  have hrows : writableRows off ≠ [] := List.ne_nil_of_mem (mem_writableRows.mpr ⟨he, hacc⟩)
  have hany : (writableRows off).any (s.mayWrite who off) = false := by
    rw [List.any_eq_false]
    exact fun x hx => by simp [hn x (mem_writableRows.mp hx).1 (mem_writableRows.mp hx).2]
  simp [State.busWrite_eq, h, Nat.not_le.mpr hp, hrows, hany]

/-- A master that may write some field of a register has its draft counted, and the page takes it (R406 to R408). -/
theorem State.busWrite_taken (h : s.reaches who = true) (hp : off / 0x1_0000 < 155)
    (hw : ∃ e ∈ rowsAt off, e.1.acc ≠ .ro ∧ s.mayWrite who off e = true) {v : Nat} (hd : s.enDropped off v = false) :
    s.busWrite who off v = (s.counted who off (s.draft who off v)).regEffect who off v (s.draft who off v) := by
  obtain ⟨e, he, hacc, hmay⟩ := hw
  have hmem : e ∈ writableRows off := mem_writableRows.mpr ⟨he, hacc⟩
  have hany : (writableRows off).any (s.mayWrite who off) = true := List.any_eq_true.mpr ⟨e, hmem, hmay⟩
  simp [State.busWrite_eq, h, Nat.not_le.mpr hp, List.ne_nil_of_mem hmem, hany, hd]

end BusWrite

/-! ## Reserved pages (R33) -/

/-- What a bus read answers is no part of a record. -/
theorem recorded_withBusOut {s t : State} {page master acc off : Nat} (h : Recorded s t page master acc off) (b : BusOut) :
    Recorded s { t with busOut := b } page master acc off := h

theorem State.reservedPage_recorded {s : State} {m : Master} (h : s.reaches m = true) {off : Nat} (hoff : 0x9B_0000 ≤ off) (w : Bool) :
    Recorded s (s.reservedPage m off w) 0x9A (mid m) (if w then 1 else 0) off ∧
      (w = false → (s.reservedPage m off w).busOut = ⟨List.replicate 8 0, false, true⟩) := by
  have hpage : 155 ≤ off / 0x1_0000 := by omega
  have hin : ¬ (off < 0x9B_0000 ∨ (!s.reaches m) = true) := by simp [h]; omega
  have hrec (acc : Nat) (ha : acc < 8) :
      Recorded s (s.access 0x9A (mid m) (s.masterStn m) acc (regAddr off)) 0x9A (mid m) acc off :=
    s.recorded_access 0x9A m (s.masterStn m) acc off ha
  unfold State.reservedPage
  rw [if_neg hin]
  cases w with
  | true =>
    rw [if_pos rfl, State.busWrite_reservedPage h hpage]
    exact ⟨hrec 1 (by decide), nofun⟩
  | false =>
    have hread : s.regRead m off = (0, s.access 0x9A (mid m) (s.masterStn m) 0 (regAddr off)) := by simp [State.regRead, hpage]
    rw [if_neg (by decide), hread]
    exact ⟨recorded_withBusOut (hrec 0 (by decide)) _, fun _ => rfl⟩

/-! ## The fields of a write (R406 to R408) -/

section Draft

variable {m : State} {who : Master} {off v : Nat} {d : Draft} {e : FieldRow × List Nat}

theorem State.draftField_readOnly (ha : e.1.acc = .ro) : m.draftField who off v d e = d := by
  simp [State.draftField, ha]

/-- A field its master may write, and no lock holds, takes the value its range and step leave of the written one. -/
theorem State.draftField_taken (ha : e.1.acc = .rw ∨ e.1.acc = .rwl) (hw : m.mayWrite who off e = true) (hl : m.lockedAt off e = false) :
    let x := bitsOf v e.1.hi e.1.lo
    let y := m.clampOf off e.1 x
    m.draftField who off v d e =
      { d with word := insertBits d.word e.1.hi e.1.lo (roundOf off y), clamped := d.clamped || decide (y ≠ x) } := by
  rcases ha with ha | ha <;> simp [State.draftField, ha, hw, hl]

/-- A field that another master writes, or that a lock holds, keeps its value, and a different one is refused. -/
theorem State.draftField_kept (ha : e.1.acc = .rw ∨ e.1.acc = .rwl)
    (h : m.mayWrite who off e = false ∨ m.lockedAt off e = true ∧ m.tableLocked off = false) :
    m.draftField who off v d e =
      if bitsOf v e.1.hi e.1.lo = bitsOf d.word e.1.hi e.1.lo then d else { d with refused := true } := by
  rcases ha with ha | ha <;> rcases h with hw | ⟨hl, ht⟩ <;> simp [State.draftField, *]

/-- A command bit that its master may set acts, and stays out of the word. -/
theorem State.draftField_set (ha : e.1.acc = .w1s) (hw : m.mayWrite who off e = true) :
    m.draftField who off v d e = { d with act := d.act + bitsOf v e.1.hi e.1.lo <<< e.1.lo } := by
  by_cases hx : bitsOf v e.1.hi e.1.lo = 0 <;> simp [State.draftField, ha, hw, hx]

end Draft

/-! ## The power caps (R400) -/

/-- The rows of PCAP_REQ and of PCAP_MAX. -/
def pcapReqRow : FieldRow := ⟨0x128, [], 12, 0, .rw, 4400, .request, some (2000, 4400), false, false, .none⟩
def pcapMaxRow : FieldRow := ⟨0x128, [], 28, 16, .rwl, 4400, .tc, some (2000, 4400), false, false, .none⟩

theorem rowsAt_pcap : rowsAt 0x1_0128 =
    [(pcapReqRow, []), (pcapMaxRow, []), (⟨0x128, [], 35, 32, .ro, 0, .none, none, false, false, .none⟩, [])] := by decide +kernel

/-- A power cap as its fields take it. -/
def powerCap (x : Nat) : Nat := max 2000 (min 4400 x)

theorem powerCap_ne_iff (x : Nat) : powerCap x ≠ x ↔ x < 2000 ∨ 4400 < x := by
  unfold powerCap
  omega

section Pcap

variable (s : State) (v : Nat)

theorem State.draftField_pcapReq {who : Master} (hw : s.mayWrite who 0x1_0128 (pcapReqRow, []) = true) :
    s.draftField who 0x1_0128 v ⟨s.reg 0x1_0128, 0, false, false⟩ (pcapReqRow, []) =
      ⟨insertBits (s.reg 0x1_0128) 12 0 (powerCap (bitsOf v 12 0)), 0, decide (powerCap (bitsOf v 12 0) ≠ bitsOf v 12 0), false⟩ :=
  State.draftField_taken (.inl rfl) hw rfl

theorem State.draftField_pcapMax (d : Draft) (hplat : s.flag Reg.sys_PLAT = false) :
    s.draftField (.core 16) 0x1_0128 v d (pcapMaxRow, []) =
      { d with word := insertBits d.word 28 16 (powerCap (bitsOf v 28 16)),
               clamped := d.clamped || decide (powerCap (bitsOf v 28 16) ≠ bitsOf v 28 16) } :=
  State.draftField_taken (.inr rfl) rfl hplat

/-- PCAP_MAX is as it was beside a new PCAP_REQ. -/
theorem State.bitsOf_pcapMax (x : Nat) : bitsOf (insertBits (s.reg 0x1_0128) 12 0 x) 28 16 = s.fld Reg.pwr_PCAP_MAX :=
  bitsOf_insertBits_apart _ _ _ _ _ _ (by decide) (by decide)

/-- A write of the caps by a master whose PCAP_MAX is refused where it differs: it is not the trusted core, or the platform is
locked (R407). -/
theorem State.draft_pcap_kept {who : Master} (hw : s.mayWrite who 0x1_0128 (pcapReqRow, []) = true)
    (h : s.mayWrite who 0x1_0128 (pcapMaxRow, []) = false ∨ s.flag Reg.sys_PLAT = true) :
    s.draft who 0x1_0128 v = ⟨insertBits (s.reg 0x1_0128) 12 0 (powerCap (bitsOf v 12 0)), 0,
      decide (powerCap (bitsOf v 12 0) ≠ bitsOf v 12 0), decide (bitsOf v 28 16 ≠ s.fld Reg.pwr_PCAP_MAX)⟩ := by
  have hkept (d : Draft) := State.draftField_kept (m := s) (who := who) (off := 0x1_0128) (v := v) (d := d) (e := (pcapMaxRow, []))
    (.inr rfl) (h.imp_right fun hl => ⟨hl, rfl⟩)
  rw [State.draft, rowsAt_pcap, List.foldl_cons, s.draftField_pcapReq v hw, List.foldl_cons, hkept, List.foldl_cons,
    State.draftField_readOnly rfl, List.foldl_nil]
  by_cases hcap : bitsOf v 28 16 = s.fld Reg.pwr_PCAP_MAX <;> simp [pcapMaxRow, fitWord, s.bitsOf_pcapMax, hcap]

/-- The trusted core's write of the caps, with the platform not locked. -/
theorem State.draft_pcap_taken (hplat : s.flag Reg.sys_PLAT = false) : s.draft (.core 16) 0x1_0128 v =
    ⟨insertBits (insertBits (s.reg 0x1_0128) 12 0 (powerCap (bitsOf v 12 0))) 28 16 (powerCap (bitsOf v 28 16)), 0,
      decide (powerCap (bitsOf v 12 0) ≠ bitsOf v 12 0) || decide (powerCap (bitsOf v 28 16) ≠ bitsOf v 28 16), false⟩ := by
  rw [State.draft, rowsAt_pcap, List.foldl_cons, s.draftField_pcapReq v rfl, List.foldl_cons, s.draftField_pcapMax v _ hplat,
    List.foldl_cons, State.draftField_readOnly rfl, List.foldl_nil]
  simp [fitWord]

/-- What a write of the caps leaves, once counted. -/
theorem State.busWrite_pcap {who : Master} (h : s.reaches who = true) (hw : s.mayWrite who 0x1_0128 (pcapReqRow, []) = true) :
    s.busWrite who 0x1_0128 v =
      (s.counted who 0x1_0128 (s.draft who 0x1_0128 v)).setReg 0x1_0128 (s.draft who 0x1_0128 v).word :=
  State.busWrite_taken h (by decide) ⟨_, by rw [rowsAt_pcap]; exact List.mem_cons_self, by decide, hw⟩ rfl

end Pcap

/-- What a write of the caps leaves where its word holds PCAP_REQ clamped, and the clamp of PCAP_REQ is the only one. -/
theorem State.pcapTakes_of_draft (s : State) (who : Master) {d : Draft} {x : Nat}
    (hword : bitsOf d.word 12 0 = powerCap x) (hclamp : d.clamped = decide (powerCap x ≠ x)) :
    PcapTakes s ((s.counted who 0x1_0128 d).setReg 0x1_0128 d.word) x := by
  obtain ⟨hcount, hstay⟩ := s.counted_clamps who 0x1_0128 (d := d)
  have hflag (f : Fld) (h : f.off ≠ 0x1_0128) := State.flag_setReg_other (s.counted who 0x1_0128 d) (f := f) d.word h
  have hfld (f : Fld) (h : f.off ≠ 0x1_0128) := State.fld_setReg_other (s.counted who 0x1_0128 d) (f := f) d.word h
  refine ⟨?_, s.sameMemory_counted who 0x1_0128 d, fun hx => ?_, fun hx => ?_⟩
  · exact (State.fld_setReg_same _ Reg.pwr_PCAP_REQ _ (by decide)).trans hword
  · obtain ⟨hvalid, hone, hfirst⟩ := hcount (hclamp.trans (decide_eq_true ((powerCap_ne_iff x).mpr hx)))
    rw [hflag _ (by decide), hfld (Reg.hdr_COUNT 1) (by decide), hfld (Reg.hdr_OFFSET 1) (by decide)]
    exact ⟨hvalid, hone, hfirst⟩
  · rw [hflag _ (by decide), hfld (Reg.hdr_COUNT 1) (by decide)]
    exact hstay (hclamp.trans (decide_eq_false (mt (powerCap_ne_iff x).mp hx)))

section PcapWrites

variable {s : State} (v : Nat)

/-- PCAP_MAX after a write of the caps. -/
theorem State.fld_pcapMax_written (m : State) (w : Nat) : (m.setReg 0x1_0128 w).fld Reg.pwr_PCAP_MAX = bitsOf w 28 16 :=
  State.fld_setReg_same m Reg.pwr_PCAP_MAX w (by decide)

theorem State.fld_pcapReq_written (m : State) (w : Nat) : (m.setReg 0x1_0128 w).fld Reg.pwr_PCAP_REQ = bitsOf w 12 0 :=
  State.fld_setReg_same m Reg.pwr_PCAP_REQ w (by decide)

theorem powerCap_lt (x : Nat) : powerCap x < 2 ^ 13 := by
  unfold powerCap
  omega

theorem bitsOf_pcapReq (w x : Nat) : bitsOf (insertBits w 12 0 (powerCap x)) 12 0 = powerCap x := by
  rw [bitsOf_insertBits_same _ _ _ _ (by decide), Nat.mod_eq_of_lt (powerCap_lt x)]

/-- A write of the caps that keeps PCAP_MAX: PCAP_REQ takes its value, and PCAP_MAX is refused where it differs. -/
theorem State.busWrite_pcap_kept {who : Master} (h : s.reaches who = true) (hw : s.mayWrite who 0x1_0128 (pcapReqRow, []) = true)
    (hk : s.mayWrite who 0x1_0128 (pcapMaxRow, []) = false ∨ s.flag Reg.sys_PLAT = true) :
    let t := s.busWrite who 0x1_0128 v
    PcapTakes s t (bitsOf v 12 0) ∧ t.fld Reg.pwr_PCAP_MAX = s.fld Reg.pwr_PCAP_MAX ∧
      (bitsOf v 28 16 = s.fld Reg.pwr_PCAP_MAX → t.events = s.events) ∧
      (bitsOf v 28 16 ≠ s.fld Reg.pwr_PCAP_MAX → Reported s t 1 0x07) := by
  rw [s.busWrite_pcap v h hw, s.draft_pcap_kept v hw hk]
  refine ⟨State.pcapTakes_of_draft s who (bitsOf_pcapReq _ _) rfl, ?_, fun hcap => ?_, fun hcap => ?_⟩
  · rw [State.fld_pcapMax_written, s.bitsOf_pcapMax]
  · exact State.counted_events_of_not_refused s who _ (by simpa using hcap)
  · exact State.reported_counted s who 0x1_0128 (by simpa using hcap)

/-- The trusted core's write of the caps, with the platform not locked, sets both and reports nothing. -/
theorem State.busWrite_pcap_taken (h : s.reaches (.core 16) = true) (hplat : s.flag Reg.sys_PLAT = false) :
    let t := s.busWrite (.core 16) 0x1_0128 v
    t.fld Reg.pwr_PCAP_REQ = powerCap (bitsOf v 12 0) ∧ t.fld Reg.pwr_PCAP_MAX = powerCap (bitsOf v 28 16) ∧ SameMemory s t ∧
      t.events = s.events := by
  rw [s.busWrite_pcap v h rfl, s.draft_pcap_taken v hplat]
  refine ⟨?_, ?_, s.sameMemory_counted _ _ _, State.counted_events_of_not_refused s _ _ rfl⟩
  · rw [State.fld_pcapReq_written, bitsOf_insertBits_apart _ _ _ _ _ _ (by decide) (by decide), bitsOf_pcapReq]
  · rw [State.fld_pcapMax_written, bitsOf_insertBits_same _ _ _ _ (by decide), Nat.mod_eq_of_lt (powerCap_lt _)]

end PcapWrites

/-! ## The configuration locks (R407) -/

theorem rowsAt_cfgLock : rowsAt 0x600 =
    (List.range 4).map (fun k => (⟨0x600, [], k, k, .w1s, 0, .tc, none, false, false, .none⟩, [])) := by decide +kernel

theorem exec_cfgLock (k : Fin 4) (m : Master) (s : State) : exec (cfgLock k m) s = .next (s.busWrite m 0x600 (2 ^ k.val)) := by
  fin_cases k <;> rfl

/-- The trusted core's write of bit k of SYS_CFGLOCK sets it in the word that stands there. -/
theorem State.draft_cfgLock (s : State) (k : Fin 4) :
    s.draft (.core 16) 0x600 (2 ^ k.val) = ⟨s.reg 0x600, 2 ^ k.val, false, false⟩ := by
  have hset (j : Nat) (d : Draft) := State.draftField_set (m := s) (who := .core 16) (off := 0x600) (v := 2 ^ k.val) (d := d)
    (e := (⟨0x600, [], j, j, .w1s, 0, .tc, none, false, false, .none⟩, [])) rfl rfl
  have hact : ∀ k : Fin 4, ((bitsOf (2 ^ k.val) 0 0 <<< 0 + bitsOf (2 ^ k.val) 1 1 <<< 1) + bitsOf (2 ^ k.val) 2 2 <<< 2) +
      bitsOf (2 ^ k.val) 3 3 <<< 3 = 2 ^ k.val := by decide
  simp only [State.draft, rowsAt_cfgLock, List.range, List.range.loop, List.map_cons, List.map_nil, List.foldl_cons, List.foldl_nil,
    hset, Nat.zero_add, hact]
  simp [fitWord]

theorem testBit_cfgLock (w : Nat) (k : Fin 4) (j : Nat) :
    ((w ||| 2 ^ k.val) % 2 ^ 64).testBit j = if j = k.val then true else (decide (j < 64) && w.testBit j) := by
  rw [Nat.testBit_mod_two_pow, Nat.testBit_or, Nat.testBit_two_pow]
  by_cases h : k.val = j
  · simp [← h, show k.val < 64 by omega]
  · simp [h, Ne.symm h]

/-- The trusted core sets a lock, and changes nothing else. -/
theorem State.cfgLock_sets {s : State} (h : s.reaches (.core 16) = true) (k : Fin 4) :
    s.busWrite (.core 16) 0x600 (2 ^ k.val) = s.setReg 0x600 (s.reg 0x600 ||| 2 ^ k.val) := by
  rw [State.busWrite_taken h (by decide) ⟨_, by rw [rowsAt_cfgLock]; exact List.mem_cons_self, by decide, rfl⟩ rfl, s.draft_cfgLock k,
    State.counted_of_not_refused _ _ _ rfl]
  rfl

/-- The host sets none. -/
theorem State.cfgLock_refuses_host {s : State} (h : s.reaches .host = true) (v : Nat) :
    s.busWrite .host 0x600 v = s.access 0 (mid .host) (s.masterStn .host) 1 (regAddr 0x600) := by
  refine State.busWrite_refused h (by decide) ⟨_, by rw [rowsAt_cfgLock]; exact List.mem_cons_self, by decide⟩ (fun e he _ => ?_) v
  rw [rowsAt_cfgLock] at he
  obtain ⟨k, -, rfl⟩ := List.mem_map.mp he
  rfl

theorem bitsBut_cfgLock (s : State) (k : Fin 4) : BitsBut s (s.setReg 0x600 (s.reg 0x600 ||| 2 ^ k.val)) [cfgBit k] := by
  intro o j hj
  by_cases ho : o = 0x600
  · subst ho
    have hne : j ≠ k.val := by
      have := hj _ List.mem_cons_self rfl
      simp only [cfgBit] at this
      omega
    rw [State.reg_setReg_same, testBit_cfgLock, if_neg hne]
    by_cases hlt : j < 64
    · simp [hlt]
    · simp [hlt, Nat.testBit_lt_two_pow (lt_of_lt_of_le (s.reg_lt 0x600) (Nat.pow_le_pow_right (by decide) (not_lt.mp hlt)))]
  · rw [State.reg_setReg_other _ _ ho]

theorem flag_cfgLock (s : State) (k : Fin 4) : (s.setReg 0x600 (s.reg 0x600 ||| 2 ^ k.val)).flag (cfgBit k) = true := by
  have hbit : (bitsOf (s.reg 0x600 ||| 2 ^ k.val) k.val k.val).testBit 0 = true := by
    rw [testBit_bitsOf]
    simp [Nat.testBit_or]
  have hne : bitsOf (s.reg 0x600 ||| 2 ^ k.val) k.val k.val ≠ 0 := fun h => by simp [h] at hbit
  have hfld := State.fld_setReg_same s (cfgBit k) (s.reg 0x600 ||| 2 ^ k.val) (by simp only [cfgBit]; omega)
  exact decide_eq_true (hfld.trans_ne hne)

/-! ## The obligation -/

theorem reaches_of_hostUp {s : State} (h : HostUp s) : s.reaches .host = true := by
  obtain ⟨halive, hrst, hperst⟩ := h
  simp [State.reaches, halive, hrst, hperst]

theorem reaches_of_coreUp {s : State} (h : CoreUp s) : s.reaches (.core 16) = true := by
  obtain ⟨halive, hrst⟩ := h
  simp [State.reaches, halive, hrst]

theorem exec_registerWrite (m : Master) (off : Nat) (v : Word) (s : State) :
    exec (.registerWrite m off v) s = .next (s.busWrite m (off / 8 * 8) v.toNat) := rfl

theorem exec_reservedPageAccess (m : Master) (off : Nat) (w : Bool) (s : State) :
    exec (.reservedPageAccess m off w) s = .next (s.reservedPage m off w) := rfl

/-- Settles O55: each way of a write has its equation, and the fields of one their draft. -/
theorem registerWrites : Obligations.RegisterWrites := by
  intro s
  refine ⟨fun m off hreach hoff _ w => ⟨_, exec_reservedPageAccess m off w s, State.reservedPage_recorded hreach hoff w⟩,
    fun m off v => ?_, fun v => ⟨fun hup => ?_, fun hup => ?_⟩, fun m off size w hreach _ _ => ?_, fun k => ⟨fun hup => ?_, fun hup => ?_⟩⟩
  · rw [exec_registerWrite]
    refine ⟨fun h => ?_, fun h hp => ?_, fun hp hro => ?_, fun h hp hw hn => ?_⟩
    · rw [State.busWrite_unreached h]
    · rw [State.busWrite_reservedPage h hp]
      exact ⟨_, rfl, s.recorded_access 0x9A m _ 1 _ (by decide)⟩
    · rw [State.busWrite_readOnly hp hro]
    · rw [State.busWrite_refused h hp hw hn]
      exact ⟨_, rfl, s.recorded_access _ m _ 1 _ (by decide)⟩
  · obtain ⟨htakes, hmax, hsame, hdiff⟩ := State.busWrite_pcap_kept v.toNat (reaches_of_hostUp hup) rfl (.inl rfl)
    exact ⟨_, exec_registerWrite .host 0x1_0128 v s, htakes, hmax, hsame, hdiff⟩
  · refine ⟨_, exec_registerWrite (.core 16) 0x1_0128 v s, ?_⟩
    cases hplat : s.flag Reg.sys_PLAT with
    | false =>
      obtain ⟨hreq, hmax, hmem, hev⟩ := State.busWrite_pcap_taken v.toNat (reaches_of_coreUp hup) hplat
      exact ⟨hreq, hmem, fun _ => ⟨hmax, hev⟩, nofun⟩
    | true =>
      obtain ⟨⟨hreq, hmem, -⟩, hmax, hsame, hdiff⟩ := State.busWrite_pcap_kept v.toNat (reaches_of_coreUp hup) rfl (.inr hplat)
      exact ⟨hreq, hmem, nofun, fun _ => ⟨hmax, hsame, hdiff⟩⟩
  · exact ⟨_, exec_narrowAccess m off size w s, State.narrow_recorded hreach off size w⟩
  · rw [exec_cfgLock, State.cfgLock_sets (reaches_of_coreUp hup)]
    exact ⟨_, rfl, rfl, bitsBut_cfgLock s k, flag_cfgLock s k⟩
  · rw [exec_cfgLock, State.cfgLock_refuses_host (reaches_of_hostUp hup)]
    exact ⟨_, rfl, s.recorded_access 0 .host _ 1 0x600 (by decide)⟩

end Sys2Proof.Machine

/-! The array clock's change, and compute power (R17, R386, R390, R392, R393, R400). -/

namespace Sys2Proof.Machine

open Sys2Proof.Spec

/-! ## The array clock (R17, R386) -/

section Clock

variable (m : State)

/-- With no limit waiting to fall, none falls. -/
theorem State.dropLimits_of_steady (h : LimitsSteady m) : m.dropLimits = m := by
  obtain ⟨htherm, hdrop⟩ := h
  simp [State.dropLimits, htherm, hdrop]

theorem State.dropLimits_phase : m.dropLimits.power.phase = m.power.phase := by
  unfold State.dropLimits
  dsimp only
  split <;> split <;> rfl

theorem State.setClock_frame : m.setClock = { m with regs := m.setClock.regs } := by
  unfold State.setClock
  dsimp only
  split <;> rfl

/-- The clock's change shows in its own register alone. -/
theorem State.reg_setClock_other {o : Nat} (h : o ≠ 0x1_0120) : m.setClock.reg o = m.reg o := by
  unfold State.setClock
  dsimp only
  split <;> simp only [State.setFld, State.reg_setReg_other _ (off := Reg.pwr_ARRAY_LIM.off) _ h,
    State.reg_setReg_other _ (off := Reg.pwr_ARRAY_CUR.off) _ h, State.reg_setReg_other _ (off := Reg.pwr_LIM_WHY.off) _ h]

/-- The clock follows the lowest of request and limits where compute power is good and no margin test runs. -/
theorem State.setClock_of_applies (hgood : m.flag Reg.pwr_COMPUTE_GOOD = true) (hbusy : m.flag Reg.sys_BUSY_510 = false) :
    let lim := min m.power.powerLim m.power.thermLim
    ∃ why, m.setClock = (((m.setFld Reg.pwr_ARRAY_LIM lim).setFld Reg.pwr_ARRAY_CUR (min (m.fld Reg.pwr_ARRAY_REQ) lim)).setFld
      Reg.pwr_LIM_WHY why) := by
  refine ⟨_, if_pos ⟨?_, ?_⟩⟩
  · exact (State.flag_setReg_other _ (f := Reg.pwr_COMPUTE_GOOD) _ (by decide)).trans hgood
  · exact (congrArg (!·) ((State.flag_setReg_other _ (f := Reg.sys_BUSY_510) _ (by decide)).trans hbusy)).trans rfl

/-- Elsewhere only the limit shows. -/
theorem State.setClock_of_held (h : m.flag Reg.sys_BUSY_510 = true ∨ m.flag Reg.pwr_COMPUTE_GOOD = false) :
    m.setClock = m.setFld Reg.pwr_ARRAY_LIM (min m.power.powerLim m.power.thermLim) := by
  refine if_neg fun ⟨hgood, hbusy⟩ => ?_
  have hg := (State.flag_setReg_other _ (f := Reg.pwr_COMPUTE_GOOD) _ (by decide)).symm.trans hgood
  have hb := (congrArg (!·) (State.flag_setReg_other _ (f := Reg.sys_BUSY_510) _ (by decide))).symm.trans hbusy
  rcases h with h | h <;> simp [h] at hg hb

theorem State.fld_setClock_REQ : m.setClock.fld Reg.pwr_ARRAY_REQ = m.fld Reg.pwr_ARRAY_REQ := by
  unfold State.setClock
  dsimp only
  split <;> simp (disch := decide) only [State.fld_setFld_other]

theorem State.fld_setClock_CUR (hgood : m.flag Reg.pwr_COMPUTE_GOOD = true) (hbusy : m.flag Reg.sys_BUSY_510 = false) :
    m.setClock.fld Reg.pwr_ARRAY_CUR = min (m.fld Reg.pwr_ARRAY_REQ) (min m.power.powerLim m.power.thermLim) % 2048 := by
  obtain ⟨why, h⟩ := m.setClock_of_applies hgood hbusy
  rw [h, State.fld_setFld_other _ _ _ _ (by decide) (by decide) (by decide), State.fld_setFld_same _ _ _ (by decide) (by decide)]
  rfl

theorem State.fld_setClock_CUR_held (h : m.flag Reg.sys_BUSY_510 = true ∨ m.flag Reg.pwr_COMPUTE_GOOD = false) :
    m.setClock.fld Reg.pwr_ARRAY_CUR = m.fld Reg.pwr_ARRAY_CUR := by
  rw [m.setClock_of_held h, State.fld_setFld_other _ _ _ _ (by decide) (by decide) (by decide)]

/-! ## A change of the clock -/

theorem State.dvfs_of_running (h : m.arrayIdle = false) : m.dvfs = m := by simp [State.dvfs, h]

theorem State.dvfs_of_idle (h : m.arrayIdle = true) : m.dvfs = m.dropLimits.setClock := by simp [State.dvfs, h]

/-- A change of the clock changes registers, and what the PWR block keeps of power. -/
theorem State.dvfs_frame : m.dvfs = { m with regs := m.dvfs.regs, power := m.dvfs.power } := by
  unfold State.dvfs
  split
  · rw [State.setClock_frame]
    rfl
  · rfl

theorem State.reg_dvfs_other {o : Nat} (h : o ≠ 0x1_0120) : m.dvfs.reg o = m.reg o := by
  unfold State.dvfs
  split
  · exact State.reg_setClock_other _ h
  · rfl

theorem State.dvfs_power (h : m.arrayIdle = false ∨ LimitsSteady m) : m.dvfs.power = m.power := by
  cases hi : m.arrayIdle with
  | false => rw [m.dvfs_of_running hi]
  | true =>
    have hs : LimitsSteady m := h.resolve_left (by simp [hi])
    rw [m.dvfs_of_idle hi, m.dropLimits_of_steady hs, State.setClock_frame]

theorem State.dvfs_phase : m.dvfs.power.phase = m.power.phase := by
  unfold State.dvfs
  split
  · rw [State.setClock_frame]
    exact m.dropLimits_phase
  · rfl

theorem State.fld_dvfs_REQ : m.dvfs.fld Reg.pwr_ARRAY_REQ = m.fld Reg.pwr_ARRAY_REQ := by
  unfold State.dvfs
  split
  · exact State.fld_setClock_REQ _
  · rfl

/-- The clock where it changes: the array is idle, no limit waits, compute power is good and no margin test runs. -/
theorem State.fld_dvfs_CUR (hi : m.arrayIdle = true) (hs : LimitsSteady m) (hgood : m.flag Reg.pwr_COMPUTE_GOOD = true)
    (hbusy : m.flag Reg.sys_BUSY_510 = false) :
    m.dvfs.fld Reg.pwr_ARRAY_CUR = min (m.fld Reg.pwr_ARRAY_REQ) (min m.power.powerLim m.power.thermLim) % 2048 := by
  rw [m.dvfs_of_idle hi, m.dropLimits_of_steady hs, m.fld_setClock_CUR hgood hbusy]

/-- The clock where it stands. -/
theorem State.fld_dvfs_CUR_held (h : m.arrayIdle = false ∨ m.flag Reg.sys_BUSY_510 = true ∨ m.flag Reg.pwr_COMPUTE_GOOD = false) :
    m.dvfs.fld Reg.pwr_ARRAY_CUR = m.fld Reg.pwr_ARRAY_CUR := by
  cases hi : m.arrayIdle with
  | false => rw [m.dvfs_of_running hi]
  | true =>
    rw [m.dvfs_of_idle hi]
    exact State.fld_setClock_CUR_held _ (h.resolve_left (by simp [hi]))

theorem State.sameMemory_dvfs : SameMemory m m.dvfs := by
  rw [State.dvfs_frame]
  exact fun _ => ⟨rfl, rfl⟩

@[simp] theorem State.dvfs_events : m.dvfs.events = m.events := by rw [State.dvfs_frame]

end Clock

/-! ## ARRAY_REQ (R400) -/

/-- The row of ARRAY_REQ. -/
def arrayReqRow : FieldRow := ⟨0x120, [], 10, 0, .rw, 1200, .request, some (800, 1350), false, false, .none⟩

theorem rowsAt_arrayReq : rowsAt 0x1_0120 =
    [(arrayReqRow, []), (⟨0x120, [], 26, 16, .ro, 0, .none, none, false, false, .none⟩, []),
     (⟨0x120, [], 42, 32, .ro, 1350, .none, none, false, false, .none⟩, []),
     (⟨0x120, [], 45, 43, .ro, 0, .none, none, false, false, .none⟩, [])] := by decide +kernel

/-- A clock request within its range, and rounded down to its step. -/
def clockRange (x : Nat) : Nat := max 800 (min 1350 x)
def clockStep (x : Nat) : Nat := clockRange x / 25 * 25

theorem clockStep_lt (x : Nat) : clockStep x < 2 ^ 11 := by
  unfold clockStep clockRange
  omega

section ArrayReq

variable {s : State} {who : Master} (v : Nat)

theorem State.draft_arrayReq (hw : s.mayWrite who 0x1_0120 (arrayReqRow, []) = true) : s.draft who 0x1_0120 v =
    ⟨insertBits (s.reg 0x1_0120) 10 0 (clockStep (bitsOf v 10 0)), 0, decide (clockRange (bitsOf v 10 0) ≠ bitsOf v 10 0), false⟩ := by
  have htaken : s.draftField who 0x1_0120 v ⟨s.reg 0x1_0120, 0, false, false⟩ (arrayReqRow, []) =
      ⟨insertBits (s.reg 0x1_0120) 10 0 (clockStep (bitsOf v 10 0)), 0, decide (clockRange (bitsOf v 10 0) ≠ bitsOf v 10 0), false⟩ :=
    State.draftField_taken (.inl rfl) hw rfl
  rw [State.draft, rowsAt_arrayReq, List.foldl_cons, htaken, List.foldl_cons, State.draftField_readOnly rfl, List.foldl_cons,
    State.draftField_readOnly rfl, List.foldl_cons, State.draftField_readOnly rfl, List.foldl_nil]
  simp [fitWord]

/-- A write of ARRAY_REQ by a master that may: the request stands in its register, and the clock follows where it can (R17). -/
theorem State.busWrite_arrayReq (h : s.reaches who = true) (hw : s.mayWrite who 0x1_0120 (arrayReqRow, []) = true) :
    ∃ m : State, s.busWrite who 0x1_0120 v = m.dvfs ∧ m = { s with regs := m.regs } ∧
      (∀ o, 0x68 ≤ o % 0x1_0000 → o ≠ 0x1_0120 → m.reg o = s.reg o) ∧ m.fld Reg.pwr_ARRAY_REQ = clockStep (bitsOf v 10 0) ∧
      m.fld Reg.pwr_ARRAY_CUR = s.fld Reg.pwr_ARRAY_CUR := by
  have heq := State.busWrite_taken h (by decide) ⟨_, by rw [rowsAt_arrayReq]; exact List.mem_cons_self, by decide, hw⟩
    (v := v) rfl
  rw [State.draft_arrayReq v hw] at heq
  refine ⟨_, heq, ?_, fun o ho hne => ?_, ?_, ?_⟩
  · rw [State.counted_frame_of_not_refused s who _ rfl]
    rfl
  · rw [State.reg_setReg_other _ _ hne, State.reg_counted_other _ _ _ _ (.inr ho)]
  · refine (State.fld_setReg_same _ Reg.pwr_ARRAY_REQ _ (by decide)).trans ?_
    rw [show Reg.pwr_ARRAY_REQ.hi = 10 from rfl, show Reg.pwr_ARRAY_REQ.lo = 0 from rfl, bitsOf_insertBits_same _ _ _ _ (by decide),
      Nat.mod_eq_of_lt (clockStep_lt _)]
  · exact (State.fld_setReg_same _ Reg.pwr_ARRAY_CUR _ (by decide)).trans (bitsOf_insertBits_apart _ _ _ _ _ _ (by decide) (by decide))

end ArrayReq

theorem exec_arrayReq (m : Master) (v : Word) (s : State) : exec (.arrayReq m v) s = .next (s.busWrite m 0x1_0120 v.toNat) := rfl

/-- The host's request for a clock (R400), and the clock that follows it (R17). -/
theorem State.arrayReq_host {s : State} (hup : HostUp s) (v : Nat) :
    let t := s.busWrite .host 0x1_0120 v
    let req := clockStep (v % 2048)
    SameMemory s t ∧ t.events = s.events ∧ t.fld Reg.pwr_ARRAY_REQ = req ∧
      (s.arrayIdle = true → s.flag Reg.sys_BUSY_510 = false → LimitsSteady s → s.flag Reg.pwr_COMPUTE_GOOD = true →
        t.fld Reg.pwr_ARRAY_CUR = min req (min s.power.powerLim s.power.thermLim) % 2048) ∧
      (s.arrayIdle = false ∨ s.flag Reg.sys_BUSY_510 = true ∨ s.flag Reg.pwr_COMPUTE_GOOD = false →
        t.fld Reg.pwr_ARRAY_CUR = s.fld Reg.pwr_ARRAY_CUR) := by
  obtain ⟨m, heq, hframe, hreg, hreq, hcur⟩ := State.busWrite_arrayReq v (reaches_of_hostUp hup) rfl
  rw [show bitsOf v 10 0 = v % 2048 from rfl] at hreq
  have hidle : m.arrayIdle = s.arrayIdle := by rw [hframe]; rfl
  have hpower : m.power = s.power := by rw [hframe]
  have hgood : m.flag Reg.pwr_COMPUTE_GOOD = s.flag Reg.pwr_COMPUTE_GOOD := State.flag_eq_of_reg (hreg _ (by decide) (by decide))
  have hbusy : m.flag Reg.sys_BUSY_510 = s.flag Reg.sys_BUSY_510 := State.flag_eq_of_reg (hreg _ (by decide) (by decide))
  rw [heq]
  refine ⟨?_, ?_, ?_, fun hi hb hs hg => ?_, fun h => ?_⟩
  · rw [State.dvfs_frame, hframe]
    exact fun _ => ⟨rfl, rfl⟩
  · rw [State.dvfs_events, hframe]
  · rw [State.fld_dvfs_REQ, hreq]
  · rw [m.fld_dvfs_CUR (hidle.trans hi) (by rwa [LimitsSteady, hpower]) (hgood.trans hg) (hbusy.trans hb), hreq, hpower]
  · rw [m.fld_dvfs_CUR_held (by rwa [hidle, hbusy, hgood]), hcur]

/-! ## Limits that rise (R386, R390) -/

/-- A limit after 100 ms: it rises by 25 MHz where it is below the request and nothing holds it. -/
def raised (req l : Nat) (hold : Bool) : Nat := if hold ∨ req ≤ l then l else min 1350 (l + 25)

theorem raised_held {req l : Nat} {hold : Bool} (h : hold = true ∨ req ≤ l) : raised req l hold = l := if_pos h

theorem raised_below {req l : Nat} {hold : Bool} (hh : ¬ hold = true) (hl : l < req) : raised req l hold = min 1350 (l + 25) :=
  if_neg (by simp [hh, hl])

theorem exec_clockLimitRaise (s : State) : exec .clockLimitRaise s = .next s.limitRaise := rfl

/-- The limits replaced. -/
def State.withLimits (m : State) (therm power : Nat) : State :=
  { m with power := { m.power with thermLim := therm, powerLim := power } }

/-- Both limits rise as `raised` says, and the clock follows. -/
theorem State.limitRaise_eq (s : State) : s.limitRaise = (s.withLimits (raised (s.fld Reg.pwr_ARRAY_REQ) s.power.thermLim s.power.thermActive)
    (raised (s.fld Reg.pwr_ARRAY_REQ) s.power.powerLim (decide (s.fld Reg.pwr_THROT ≠ 0)))).dvfs := rfl

theorem State.limitRaise_power (s : State) (h : s.arrayIdle = false ∨ LimitsSteady s) :
    s.limitRaise.power.thermLim = raised (s.fld Reg.pwr_ARRAY_REQ) s.power.thermLim s.power.thermActive ∧
    s.limitRaise.power.powerLim = raised (s.fld Reg.pwr_ARRAY_REQ) s.power.powerLim (decide (s.fld Reg.pwr_THROT ≠ 0)) := by
  have hpower (therm power : Nat) : (s.withLimits therm power).dvfs.power = (s.withLimits therm power).power := State.dvfs_power _ h
  rw [State.limitRaise_eq, hpower]
  exact ⟨rfl, rfl⟩

theorem State.sameMemory_limitRaise (s : State) : SameMemory s s.limitRaise := by
  have hlimits (therm power : Nat) : SameMemory s (s.withLimits therm power) := fun _ => ⟨rfl, rfl⟩
  rw [State.limitRaise_eq]
  exact sameMemory_trans (hlimits _ _) (State.sameMemory_dvfs _)

/-! ## COMPUTE_ON (R392, R393) -/

theorem rowsAt_computeOn : rowsAt 0x1_0110 = [(⟨0x110, [], 0, 0, .rw, 0, .tc, none, false, false, .none⟩, [])] := by decide +kernel

theorem State.draft_computeOn (s : State) (v : Nat) :
    s.draft (.core 16) 0x1_0110 v = ⟨insertBits (s.reg 0x1_0110) 0 0 (bitsOf v 0 0), 0, false, false⟩ := by
  have htaken := State.draftField_taken (m := s) (who := .core 16) (off := 0x1_0110) (v := v) (d := ⟨s.reg 0x1_0110, 0, false, false⟩)
    (e := (⟨0x110, [], 0, 0, .rw, 0, .tc, none, false, false, .none⟩, [])) (.inl rfl) rfl rfl
  rw [State.draft, rowsAt_computeOn, List.foldl_cons, htaken, List.foldl_nil]
  simp [State.clampOf, blkOf, roundOf, fitWord]

theorem State.regEffect_computeOn (s : State) (who : Master) (v : Nat) (d : Draft) :
    s.regEffect who 0x1_0110 v d = s.computeWrite (mid who) d.word := by
  simp [State.regEffect, blkOf, State.pwrWrite]

/-- The trusted core's write of COMPUTE_ON acts by its lowest bit, and stores nothing by itself. -/
theorem State.busWrite_computeOn {s : State} (hup : CoreUp s) (v : Nat) :
    ∃ w, s.busWrite (.core 16) 0x1_0110 v = s.computeWrite (mid (.core 16)) w ∧ w % 2 = v % 2 := by
  refine ⟨insertBits (s.reg 0x1_0110) 0 0 (bitsOf v 0 0), ?_, ?_⟩
  · rw [State.busWrite_taken (reaches_of_coreUp hup) (by decide)
      ⟨_, by rw [rowsAt_computeOn]; exact List.mem_cons_self, by decide, rfl⟩ rfl, State.draft_computeOn,
      State.counted_of_not_refused _ _ _ rfl]
    exact State.regEffect_computeOn s _ _ _
  · have hbit := bitsOf_insertBits_same (s.reg 0x1_0110) 0 0 (bitsOf v 0 0) (by decide)
    simpa [bitsOf] using hbit

/-- What compute power needs before it comes on (R392). -/
def ComputeReady (s : State) : Prop :=
  s.pins.coolOk = true ∧ (∃ x, s.power.vinSince = some x ∧ x + 100_000_000 ≤ s.now) ∧ s.safe = false

section ComputeWrite

variable {s : State} (who : Nat) {w : Nat}

theorem State.computeReady_iff : (s.pins.coolOk && (match s.power.vinSince with
    | some t => decide (t + 100_000_000 ≤ s.now)
    | none => false) && !s.safe) = true ↔ ComputeReady s := by
  cases h : s.power.vinSince <;> simp [ComputeReady, h, and_assoc]

theorem State.computeWrite_on (hw : w % 2 = 1) (hp : s.power.phase = 0) (hr : ComputeReady s) : s.computeWrite who w =
    { s.setFlag Reg.pwr_COMPUTE_ON true with power := { s.power with phase := 1, failed := [] } } := by
  simp only [State.computeWrite, hw, hp, if_true, ne_eq, not_true_eq_false, if_false]
  exact if_pos (State.computeReady_iff.mpr hr)

theorem State.computeWrite_unready (hw : w % 2 = 1) (hp : s.power.phase = 0) (hr : ¬ ComputeReady s) : s.computeWrite who w =
    s.access 1 who none 1 (0xF00_0000_0000 + Reg.pwr_COMPUTE_ON.off) := by
  simp only [State.computeWrite, hw, hp, if_true, ne_eq, not_true_eq_false, if_false]
  exact if_neg (mt State.computeReady_iff.mp hr)

variable (hw : w % 2 ≠ 1) (hon : s.flag Reg.pwr_COMPUTE_ON = true)
include hw hon

theorem State.computeWrite_enabled (he : ∃ n, n < 8 ∧ s.flag (Reg.sys_EN n) = true) : s.computeWrite who w =
    s.access 1 who none 1 (0xF00_0000_0000 + Reg.pwr_COMPUTE_ON.off) := by
  obtain ⟨n, hn, hflag⟩ := he
  have hany : (List.range 8).any s.stnOn = true := List.any_eq_true.mpr ⟨n, List.mem_range.mpr hn, hflag⟩
  simp [State.computeWrite, hw, hon, hany]

theorem State.computeWrite_off (he : ∀ n, n < 8 → s.flag (Reg.sys_EN n) = false) :
    s.computeWrite who w = (s.setFlag Reg.pwr_COMPUTE_ON false).losePower := by
  have hany : (List.range 8).any s.stnOn = false :=
    List.any_eq_false.mpr fun n hn => by simpa [State.stnOn] using he n (List.mem_range.mp hn)
  simp [State.computeWrite, hw, hon, hany]

end ComputeWrite

/-- Without compute power the array stands, the stacks' bytes are gone and every other byte is kept (R393). -/
theorem State.powerLost_losePower (m : State) : PowerLost m m.losePower := by
  refine ⟨rfl, ?_, ?_, fun a => ?_⟩
  · exact (State.flag_setReg_other _ _ (by decide)).trans (State.flag_setFlag_same _ _ _ (by decide) (by decide))
  · exact State.fld_setFld_same _ _ _ (by decide) (by decide)
  · change SMap.get memZero (m.mem.filter fun e => decide (0xE00_0000_0000 ≤ e.1)) a = _
    split
    · exact SMap.get_filter_out memZero m.mem (fun a => decide (0xE00_0000_0000 ≤ a)) a (by simpa)
    · exact SMap.get_filter_in memZero m.mem (fun a => decide (0xE00_0000_0000 ≤ a)) a (by simpa using by omega)

/-! ## COMPUTE_GOOD (R392) -/

theorem exec_computeGood (failed : List Stack) (s : State) :
    exec (.computeGood failed) s = .next (s.computeGood (failed.map (fun x => x.val))) := rfl
theorem exec_computeOn (m : Master) (v : Word) (s : State) : exec (.computeOn m v) s = .next (s.busWrite m 0x1_0110 v.toNat) := rfl
theorem exec_computeOff (m : Master) (v : Word) (s : State) : exec (.computeOff m v) s = .next (s.busWrite m 0x1_0110 v.toNat) := rfl

/-- A record, once made, stands. -/
theorem State.flag_capture_VALID (m : State) (e : Ev) (h : e.acc + e.code <<< 8 + b2n e.inj <<< 16 < 2 ^ 63) :
    (m.capture e).flag (Reg.hdr_VALID_38 e.page) = true := by
  cases hv : m.flag (Reg.hdr_VALID_38 e.page) with
  | true =>
    unfold State.capture
    dsimp only
    split
    · exact hv
    · simp [State.flag, State.fld, Reg.hdr_VALID_38, State.reg_setReg, bitsOf, Nat.shiftRight_eq_div_pow]
      omega
  | false =>
    rw [State.flag, State.fld, show (Reg.hdr_VALID_38 e.page).off = 0x10000 * e.page + 0x38 from rfl, State.reg_capture_kind hv]
    simp [Reg.hdr_VALID_38, bitsOf, Nat.shiftRight_eq_div_pow]
    omega

/-- s once every stack has trained, before the clock follows. -/
def State.trained (s : State) : State :=
  State.setFlag { s with power := { s.power with phase := 2 } } Reg.pwr_COMPUTE_GOOD true

theorem State.trained_good (s : State) : s.trained.flag Reg.pwr_COMPUTE_GOOD = true :=
  State.flag_setFlag_same _ _ _ (by decide) (by decide)

theorem State.reg_trained_other (s : State) {o : Nat} (h : o ≠ 0x1_0118) : s.trained.reg o = s.reg o :=
  State.reg_setReg_other _ (off := Reg.pwr_COMPUTE_GOOD.off) _ h

theorem State.computeGood_trained {s : State} (hp : s.power.phase = 1) : s.computeGood [] = s.trained.dvfs := by
  simp [State.computeGood, hp, State.trained]

/-- The clock follows the power that has come (R17, R392). -/
theorem State.fld_trained_CUR {s : State} (hi : s.arrayIdle = true) (hb : s.flag Reg.sys_BUSY_510 = false) (hs : LimitsSteady s) :
    s.trained.dvfs.fld Reg.pwr_ARRAY_CUR =
      min (s.fld Reg.pwr_ARRAY_REQ) (min s.power.powerLim s.power.thermLim) % 2048 := by
  have hbusy : s.trained.flag Reg.sys_BUSY_510 = false := (State.flag_eq_of_reg (s.reg_trained_other (by decide))).trans hb
  have hreq : s.trained.fld Reg.pwr_ARRAY_REQ = s.fld Reg.pwr_ARRAY_REQ := State.fld_eq_of_reg (s.reg_trained_other (by decide))
  have hidle : s.trained.arrayIdle = s.arrayIdle := rfl
  have hsteady : LimitsSteady s.trained := hs
  rw [s.trained.fld_dvfs_CUR (hidle.trans hi) hsteady s.trained_good hbusy, hreq]
  rfl

/-- A stack that fails is recorded at its controller, and the clock is 800 MHz (R392). -/
theorem State.computeGood_failed {s : State} (k : Nat) (hp : s.power.phase = 1) :
    let t := s.computeGood [k]
    t.flag Reg.pwr_COMPUTE_GOOD = s.flag Reg.pwr_COMPUTE_GOOD ∧ t.power.phase = 1 ∧ t.fld Reg.pwr_ARRAY_CUR = 800 ∧
      t.flag (Reg.hdr_VALID_38 (0x30 + k)) = true ∧ SameMemory s t := by
  have heq : s.computeGood [k] =
      let m := (State.setFld { s with power := { s.power with failed := [k] } } Reg.pwr_ARRAY_CUR 800).drawWord
      m.2.capture { page := 0x30 + k, code := m.1.toNat % 256 } := by simp [State.computeGood, hp]
  dsimp only at heq ⊢
  rw [heq]
  refine ⟨?_, ?_, ?_, State.flag_capture_VALID _ _ ?_, ?_⟩
  · exact (State.flag_eq_of_reg (State.reg_capture_other _ _ (.inl (by simp [Reg.pwr_COMPUTE_GOOD]; omega)))).trans
      (State.flag_setReg_other _ _ (by decide))
  · rw [State.capture_frame]
    exact hp
  · exact (State.fld_eq_of_reg (State.reg_capture_other _ _ (.inl (by simp [Reg.pwr_ARRAY_CUR]; omega)))).trans
      (State.fld_setFld_same _ _ _ (by decide) (by decide))
  · simp [b2n, Nat.shiftLeft_eq]
    omega
  · rw [State.capture_frame]
    exact fun _ => ⟨rfl, rfl⟩

/-- A limit's rise as the statement puts it: held where what lowered it still holds, and by 25 MHz else. -/
theorem raised_spec (req l : Nat) (hold : Bool) :
    (hold = true ∨ req ≤ l → raised req l hold = l) ∧ (¬ hold = true → l < req → raised req l hold = min 1350 (l + 25)) :=
  ⟨raised_held, raised_below⟩

/-- Settles O48: the clock's request, its limits, and compute power coming on, good and off. -/
theorem clockAndComputePower : Obligations.ClockAndComputePower := by
  unfold Obligations.ClockAndComputePower
  refine fun s => ⟨fun v hup => ?_, fun h => ?_, fun hup => ?_, fun hp => ⟨?_, fun k => ?_⟩⟩
  · obtain ⟨hmem, hev, hreq, hcur, hheld⟩ := State.arrayReq_host hup v.toNat
    exact ⟨_, exec_arrayReq _ _ _, hmem, hev, hreq, fun ⟨hi, hb, hs⟩ => hcur hi hb hs, hheld⟩
  · obtain ⟨htherm, hpower⟩ := s.limitRaise_power h
    refine ⟨_, exec_clockLimitRaise s, s.sameMemory_limitRaise, ?_, ?_⟩
    · rw [htherm]
      exact raised_spec _ _ _
    · rw [hpower]
      simpa using raised_spec (s.fld Reg.pwr_ARRAY_REQ) s.power.powerLim (decide (s.fld Reg.pwr_THROT ≠ 0))
  · have hbit (v : Word) {w : Nat} (hw : w % 2 = v.toNat % 2) : v.toNat.testBit 0 = true ↔ w % 2 = 1 := by simp [Nat.testBit_zero, hw]
    refine ⟨fun v hv hp hr => ?_, fun v hv hp hr => ?_, fun v hv hon he => ?_, fun v hv hon he => ?_⟩ <;>
      obtain ⟨w, hw, hmod⟩ := State.busWrite_computeOn hup v.toNat
    · rw [exec_computeOn, hw, State.computeWrite_on _ ((hbit v hmod).mp hv) hp hr]
      exact ⟨_, rfl, State.flag_setFlag_same _ _ _ (by decide) (by decide), rfl, State.flag_setReg_other _ _ (by decide),
        fun _ => ⟨rfl, rfl⟩, rfl⟩
    · rw [exec_computeOn, hw, State.computeWrite_unready _ ((hbit v hmod).mp hv) hp hr]
      exact ⟨_, rfl, State.flag_eq_of_reg (State.reg_access_other _ _ _ _ _ _ (.inr (by decide))), by rw [State.access_frame],
        State.sameMemory_access _ _ _ _ _ _, State.reported_access _ _ _ _ _ _⟩
    · rw [exec_computeOff, hw, State.computeWrite_enabled _ (mt (hbit v hmod).mpr hv) hon he]
      exact ⟨_, rfl, (State.flag_eq_of_reg (State.reg_access_other _ _ _ _ _ _ (.inr (by decide)))).trans hon,
        by rw [State.access_frame], State.sameMemory_access _ _ _ _ _ _, State.reported_access _ _ _ _ _ _⟩
    · rw [exec_computeOff, hw, State.computeWrite_off _ (mt (hbit v hmod).mpr hv) hon he]
      refine ⟨_, rfl, ?_, ?_, rfl⟩
      · exact (State.flag_setReg_other _ _ (by decide)).trans ((State.flag_setReg_other _ _ (by decide)).trans
          (State.flag_setFlag_same _ _ _ (by decide) (by decide)))
      · exact State.powerLost_losePower _
  · rw [exec_computeGood, show ([] : List Stack).map (fun x => x.val) = [] from rfl, State.computeGood_trained hp]
    exact ⟨_, rfl, (State.flag_eq_of_reg (State.reg_dvfs_other _ (by decide))).trans s.trained_good, State.dvfs_phase _,
      sameMemory_trans (fun _ => ⟨rfl, rfl⟩) s.trained.sameMemory_dvfs, fun ⟨hi, hb, hs⟩ => State.fld_trained_CUR hi hb hs⟩
  · obtain ⟨hgood, hphase, hcur, hvalid, hmem⟩ := State.computeGood_failed k.val hp
    exact ⟨_, exec_computeGood [k] s, hgood, hphase, hcur, hvalid, hmem⟩

end Sys2Proof.Machine

/-! Enabling and locking a station (R21 to R23, R203, R362), and its ledger's configuration (R370). -/

namespace Sys2Proof.Machine

open Sys2Proof.Spec

/-! ## Registers that a field's write leaves alone -/

theorem State.reg_setFld_other (m : State) (f : Fld) (v : Nat) {o : Nat} (h : o ≠ f.off) : (m.setFld f v).reg o = m.reg o :=
  State.reg_setReg_other m _ h

theorem State.reg_setFlag_other (m : State) (f : Fld) (b : Bool) {o : Nat} (h : o ≠ f.off) : (m.setFlag f b).reg o = m.reg o :=
  State.reg_setReg_other m _ h

/-! ## Cores that leave reset (R203) -/

section StartCores

variable (m : State)

/-- Which station holds a core is told by the stations' own registers. -/
theorem State.coreStn_eq_of_reg {s t : State} (h : ∀ n, n < 8 → t.reg (Reg.sys_EN n).off = s.reg (Reg.sys_EN n).off) (c : Nat) :
    t.coreStn c = s.coreStn c := by
  unfold State.coreStn
  split
  · rfl
  · refine List.find?_congr fun n hn => ?_
    have hreg := h n (List.mem_range.mp hn)
    rw [State.stnOn, State.stnOn, State.flag_eq_of_reg (f := Reg.sys_EN n) hreg, State.fld_eq_of_reg (f := Reg.sys_CORE_MASK n) hreg]

theorem State.coreStart_frame (c : Nat) : m.coreStart c = { m with regs := (m.coreStart c).regs, cores := (m.coreStart c).cores } := by
  unfold State.coreStart
  dsimp only
  split <;> rfl

/-- A core that leaves reset changes its own state register alone. -/
theorem State.reg_coreStart_other (c : Nat) {o : Nat} (h : o ≠ (Reg.cc_RUN c).off) : (m.coreStart c).reg o = m.reg o := by
  unfold State.coreStart
  dsimp only
  split
  · rfl
  · rw [State.reg_setFlag_other _ (Reg.cc_HALTED c) _ h, State.reg_setFlag_other _ _ _ h]
    rfl

theorem State.core_coreStart_other {c d : Nat} (h : d ≠ c) : (m.coreStart c).core d = m.core d := by
  unfold State.coreStart
  dsimp only
  split
  · rfl
  · exact SMap.get_set_other _ _ _ h

/-- The station of a core that leaves reset is not itself in reset (R366). -/
def CoreFree (m : State) (c : Nat) : Prop := (m.coreStn c).any m.inReset = false

theorem State.coreStarts_coreStart {c : Nat} (h : CoreFree m c) : CoreStarts m (m.coreStart c) c := by
  have heq : m.coreStart c = ((m.setCore c { CoreSt.reset with pc := 4 * m.fld (Reg.cc_RVEC c) }).setFlag (Reg.cc_RUN c)
      (!m.flag (Reg.cc_HALT c))).setFlag (Reg.cc_HALTED c) (m.flag (Reg.cc_HALT c)) := by
    have hfree : (m.coreStn c).any m.inReset = false := h
    exact if_neg (by simp [hfree])
  rw [heq]
  refine ⟨SMap.get_set_same _ _ _ _, ?_, ?_⟩
  · rw [State.flag_setFlag_other _ _ _ _ (Nat.le_refl 2) (by simp [Reg.cc_HALTED]) (by simp [Reg.cc_HALTED, Reg.cc_RUN]),
      State.flag_setFlag_same _ _ _ (Nat.le_refl 0) (by simp [Reg.cc_RUN])]
  · exact State.flag_setFlag_same _ _ _ (Nat.le_refl 2) (by simp [Reg.cc_HALTED])

/-- What a core's start reads and writes, where nothing else has touched it. -/
theorem coreStarts_of_eq {s s' t t' : State} {c : Nat} (h : CoreStarts s t c) (hv : s'.reg (Reg.cc_RVEC c).off = s.reg (Reg.cc_RVEC c).off)
    (hh : s'.reg (Reg.cc_HALT c).off = s.reg (Reg.cc_HALT c).off) (hc : t'.core c = t.core c)
    (hr : t'.reg (Reg.cc_RUN c).off = t.reg (Reg.cc_RUN c).off) : CoreStarts s' t' c := by
  obtain ⟨hcore, hrun, hhalted⟩ := h
  refine ⟨?_, ?_, ?_⟩
  · rw [hc, hcore, State.fld_eq_of_reg hv]
  · rw [State.flag_eq_of_reg hr, hrun, State.flag_eq_of_reg hh]
  · rw [State.flag_eq_of_reg (f := Reg.cc_HALTED c) hr, hhalted, State.flag_eq_of_reg hh]

variable (l : List Nat)

theorem State.startCores_frame : l.foldl State.coreStart m =
    { m with regs := (l.foldl State.coreStart m).regs, cores := (l.foldl State.coreStart m).cores } := by
  induction l generalizing m with
  | nil => rfl
  | cons c l ih =>
    rw [List.foldl_cons, ih, State.coreStart_frame]

theorem State.reg_startCores_other {o : Nat} (h : ∀ c ∈ l, o ≠ (Reg.cc_RUN c).off) : (l.foldl State.coreStart m).reg o = m.reg o := by
  induction l generalizing m with
  | nil => rfl
  | cons c l ih =>
    rw [List.foldl_cons, ih _ (fun d hd => h d (List.mem_cons_of_mem _ hd)), m.reg_coreStart_other c (h c List.mem_cons_self)]

/-- No start of a core touches the pages below the cores' own. -/
theorem State.reg_startCores_low {o : Nat} (h : o < 0x870000) : (l.foldl State.coreStart m).reg o = m.reg o :=
  m.reg_startCores_other l fun c _ => by simp [Reg.cc_RUN]; omega

theorem State.core_startCores_other {d : Nat} (h : d ∉ l) : (l.foldl State.coreStart m).core d = m.core d := by
  induction l generalizing m with
  | nil => rfl
  | cons c l ih =>
    rw [List.mem_cons, not_or] at h
    rw [List.foldl_cons, ih _ h.2, m.core_coreStart_other h.1]

variable {l}

theorem cc_RUN_off_ne {c d : Nat} (h : c ≠ d) : (Reg.cc_RUN c).off ≠ (Reg.cc_RUN d).off := by
  simp [Reg.cc_RUN]
  omega

/-- Each core of a list starts, where its station is not in reset. -/
theorem State.coreStarts_startCores {c : Nat} (hl : l.Nodup) (hc : c ∈ l) (h : CoreFree m c) :
    CoreStarts m (l.foldl State.coreStart m) c := by
  induction l generalizing m with
  | nil => exact absurd hc List.not_mem_nil
  | cons d l ih =>
    obtain ⟨hd, hl⟩ := List.nodup_cons.mp hl
    rw [List.foldl_cons]
    rcases List.mem_cons.mp hc with rfl | hc
    · exact coreStarts_of_eq (m.coreStarts_coreStart h) rfl rfl ((m.coreStart c).core_startCores_other l hd)
        ((m.coreStart c).reg_startCores_other l fun d hd' => cc_RUN_off_ne fun e => hd (e ▸ hd'))
    · have hcd : c ≠ d := fun e => hd (e ▸ hc)
      have hfree : CoreFree (m.coreStart d) c := by
        rw [CoreFree, State.coreStn_eq_of_reg (fun n hn => m.reg_coreStart_other d (by simp [Reg.sys_EN, Reg.cc_RUN]; omega)),
          State.coreStart_frame]
        exact h
      exact coreStarts_of_eq (ih _ hl hc hfree) (m.reg_coreStart_other d (by simp [Reg.cc_RVEC, Reg.cc_RUN]; omega)).symm
        (m.reg_coreStart_other d (by simp [Reg.cc_HALT, Reg.cc_RUN]; omega)).symm rfl rfl

end StartCores

theorem mem_coresOf {mask c : Nat} : c ∈ coresOf mask ↔ c < 16 ∧ mask.testBit c = true := by simp [coresOf]

theorem coresOf_nodup (mask : Nat) : (coresOf mask).Nodup := List.nodup_range.filter _

/-! ## The Ladle slots of a station (R119) -/

section ReloadSlots

variable (m : State) (n : Nat)

/-- The slots of a station at quadrant q hold the pass-through program, and nothing else. -/
def State.reloadQuad (m : State) (n q : Nat) : State :=
  let i := 128 * q + 16 * n
  { m with lslots := (m.lslots.clear i 16).set (fun _ => none) i (some (passThrough q (m.trayWin n q).1)) }

theorem State.reloadSlots_eq : m.reloadSlots n = (List.range 4).foldl (fun m q => m.reloadQuad n q) m := rfl

theorem State.get_reloadQuad (q j : Nat) : (m.reloadQuad n q).lslots.get (fun _ => none) j =
    if j = 128 * q + 16 * n then some (passThrough q (m.trayWin n q).1)
    else if 128 * q + 16 * n ≤ j ∧ j < 128 * q + 16 * n + 16 then none else m.lslots.get (fun _ => none) j := by
  rw [State.reloadQuad, SMap.get_set, SMap.clear, SMap.get_splice]
  rfl

theorem State.reloadSlots_frame : m.reloadSlots n = { m with lslots := (m.reloadSlots n).lslots } := rfl

variable {n}

theorem State.get_reloadSlots (q : Quad) (i : Fin 16) :
    (m.reloadSlots n).lslots.get (fun _ => none) (128 * q.val + 16 * n + i.val) =
      if i.val = 0 then some (passThrough q (m.trayWin n q).1) else none := by
  have hi := i.isLt
  have hfold : ∀ l : List Nat, ∀ m : State, (l.foldl (fun m q => m.reloadQuad n q) m).lslots.get (fun _ => none) (128 * q.val + 16 * n + i.val) =
      if q.val ∈ l then (if i.val = 0 then some (passThrough q (m.trayWin n q).1) else none)
      else m.lslots.get (fun _ => none) (128 * q.val + 16 * n + i.val) := by
    intro l
    induction l with
    | nil => exact fun m => rfl
    | cons p l ih =>
      intro m
      have hwin : (m.reloadQuad n p).trayWin n q = m.trayWin n q := rfl
      rw [List.foldl_cons, ih, hwin, State.get_reloadQuad]
      by_cases hp : q.val = p
      · subst hp
        by_cases hi0 : i.val = 0 <;> simp [hi0, hi]
      · have hkey : ¬ 128 * q.val + 16 * n + i.val = 128 * p + 16 * n := by omega
        have hrange : ¬ (128 * p + 16 * n ≤ 128 * q.val + 16 * n + i.val ∧ 128 * q.val + 16 * n + i.val < 128 * p + 16 * n + 16) := by omega
        simp only [List.mem_cons, hp, false_or, hkey, hrange, if_false]
  rw [State.reloadSlots_eq, hfold, if_pos (List.mem_range.mpr q.isLt)]

end ReloadSlots

/-! ## Extending a measurement (R362) -/

section SetFlds

variable (f : Nat → Fld) (v : Nat → Nat) (l : List Nat) (m : State)

/-- Fields written in turn. -/
def State.setFlds (m : State) : State := l.foldl (fun m w => m.setFld (f w) (v w)) m

theorem State.setFlds_frame : m.setFlds f v l = { m with regs := (m.setFlds f v l).regs } := by
  unfold State.setFlds
  induction l generalizing m with
  | nil => rfl
  | cons w l ih =>
    rw [List.foldl_cons, ih]
    rfl

theorem State.reg_setFlds_other {o : Nat} (h : ∀ w ∈ l, o ≠ (f w).off) : (m.setFlds f v l).reg o = m.reg o := by
  unfold State.setFlds
  induction l generalizing m with
  | nil => rfl
  | cons w l ih =>
    rw [List.foldl_cons, ih _ (fun x hx => h x (List.mem_cons_of_mem _ hx)), m.reg_setFld_other _ _ (h w List.mem_cons_self)]

variable {f l}

/-- Each of several whole-register fields reads back what was written to it. -/
theorem State.fld_setFlds_same (hf : ∀ w, (f w).lo ≤ (f w).hi ∧ (f w).hi < 64) (hne : ∀ w x, (f w).off = (f x).off → w = x) (hl : l.Nodup)
    {w : Nat} (hw : w ∈ l) : (m.setFlds f v l).fld (f w) = v w % 2 ^ ((f w).hi + 1 - (f w).lo) := by
  unfold State.setFlds
  induction l generalizing m with
  | nil => exact absurd hw List.not_mem_nil
  | cons x l ih =>
    obtain ⟨hx, hl⟩ := List.nodup_cons.mp hl
    rw [List.foldl_cons]
    rcases List.mem_cons.mp hw with rfl | hw
    · have hlast := State.reg_setFlds_other f v l (m.setFld (f w) (v w)) (o := (f w).off) fun y hy e => hx (hne w y e ▸ hy)
      exact (State.fld_eq_of_reg hlast).trans (State.fld_setFld_same _ _ _ (hf w).1 (hf w).2)
    · exact ih _ hl hw

end SetFlds

section ExtendSlot

variable (m : State) (i : Nat) (data : List Byte)

/-- The hash that a measurement takes. -/
def State.extendHash (m : State) (i : Nat) (data : List Byte) : Nat :=
  (Config.sha384 ((List.range 6).flatMap (fun w => leBytes (m.fld (Reg.fw_MS i w)) 8) ++ data)).toNat

/-- The words of a measurement take the hash, lowest first. -/
theorem State.extendSlot_eq : m.extendSlot i data =
    m.setFlds (Reg.fw_MS i) (fun w => bitsOf (m.extendHash i data) (64 * w + 63) (64 * w)) (List.range 6) := rfl

theorem State.extendSlot_frame : m.extendSlot i data = { m with regs := (m.extendSlot i data).regs } := by
  rw [State.extendSlot_eq, State.setFlds_frame]

theorem State.reg_extendSlot_other {o : Nat} (h : o < 0x860800 ∨ 0x870000 ≤ o) (hi : i < 16) : (m.extendSlot i data).reg o = m.reg o := by
  rw [State.extendSlot_eq, State.reg_setFlds_other]
  intro w hw
  have hw := List.mem_range.mp hw
  simp [Reg.fw_MS]
  omega

theorem State.fld_extendSlot {w : Nat} (hw : w < 6) :
    (m.extendSlot i data).fld (Reg.fw_MS i w) = bitsOf (m.extendHash i data) (64 * w + 63) (64 * w) := by
  rw [State.extendSlot_eq, State.fld_setFlds_same _ _ (fun w => ⟨Nat.zero_le 63, Nat.lt_succ_self 63⟩) (fun w x h => by simp [Reg.fw_MS] at h; omega)
    List.nodup_range (List.mem_range.mpr hw)]
  refine Nat.mod_eq_of_lt ?_
  rw [bitsOf, show 64 * w + 63 + 1 - 64 * w = 64 by omega]
  exact Nat.mod_lt _ (by decide)

end ExtendSlot

/-! ## Slices that read zero (R225) -/

/-- Bytes and their poison are what memory and poison hold. -/
theorem memory_of_eq {s t : State} (hm : t.mem = s.mem) (hp : t.poison = s.poison) : SameMemory s t := fun a => by
  rw [State.byte, hm, poisoned, State.psnStored, hp]
  exact ⟨rfl, rfl⟩

section ZeroSlices

variable (m : State)

/-- What a filter keeps of a splice, where it keeps no key of the replaced range. -/
theorem SMap.filter_splice {α : Type} (m c : SMap α) (a n : Nat) (p : Nat → Bool) (hp : ∀ j, a ≤ j → j < a + n → p j = false) :
    (m.splice a n c).filter (fun e => p e.1) = (m.below a ++ m.above (a + n)).filter (fun e => p e.1) := by
  have hmid : ((c.filter (fun e => decide (e.1 < n))).map (fun e => (e.1 + a, e.2))).filter (fun e => p e.1) = [] := by
    refine List.filter_eq_nil_iff.mpr fun e he => ?_
    obtain ⟨x, hx, rfl⟩ := List.mem_map.mp he
    have hlt : x.1 < n := by simpa using (List.mem_filter.mp hx).2
    simp [hp (x.1 + a) (by omega) (by omega)]
  rw [SMap.splice, List.filter_append, List.filter_append, List.filter_append, hmid, List.append_nil]

/-- A slice apart from what a splice replaces is as it was. -/
theorem SMap.slice_splice_apart {α : Type} (m c : SMap α) (a n b k : Nat) (h : b + k ≤ a ∨ a + n ≤ b) :
    (m.splice a n c).slice b k = m.slice b k := by
  have hkeep : (m.below a ++ m.above (a + n)).filter (fun e => decide (b ≤ e.1 ∧ e.1 < b + k)) =
      m.filter (fun e => decide (b ≤ e.1 ∧ e.1 < b + k)) := by
    rw [List.filter_append, SMap.below, SMap.above, List.filter_filter, List.filter_filter]
    rcases h with h | h
    · rw [List.filter_congr (q := fun e => decide (b ≤ e.1 ∧ e.1 < b + k)) fun e _ => by simp; omega,
        (List.filter_eq_nil_iff (p := fun e : Nat × α => decide (b ≤ e.1 ∧ e.1 < b + k) && decide (a + n ≤ e.1))).mpr fun e _ => by simp; omega,
        List.append_nil]
    · rw [(List.filter_eq_nil_iff (p := fun e : Nat × α => decide (b ≤ e.1 ∧ e.1 < b + k) && decide (e.1 < a))).mpr fun e _ => by simp; omega,
        List.filter_congr (q := fun e => decide (b ≤ e.1 ∧ e.1 < b + k)) fun e _ => by simp; omega, List.nil_append]
  rw [SMap.slice, SMap.slice, SMap.filter_splice m c a n (fun j => decide (b ≤ j ∧ j < b + k)) fun j _ _ => by simp; omega, hkeep]

/-- A slice within what is cleared is empty. -/
theorem SMap.slice_clear_within {α : Type} (m : SMap α) (a n b k : Nat) (h : a ≤ b) (hk : b + k ≤ a + n) :
    (m.clear a n).slice b k = [] := by
  rw [SMap.slice, SMap.clear, SMap.splice, List.map_eq_nil_iff, List.filter_eq_nil_iff]
  intro e he
  simp [SMap.below, SMap.above] at he ⊢
  omega

variable (k : Nat)

theorem State.byte_zeroSlice (a : Nat) :
    (m.zeroSlice k).byte a = if sliceAddr k ≤ a ∧ a < sliceAddr (k + 1) then 0 else m.byte a := by
  have hend : sliceAddr (k + 1) = sliceAddr k + 0x200_0000 := by simp [sliceAddr]; omega
  rw [State.byte, State.zeroSlice, State.zero, SMap.clear, SMap.get_splice, hend]
  rfl

theorem State.poisoned_zeroSlice (a : Nat) :
    poisoned (m.zeroSlice k) a = if sliceAddr k ≤ a ∧ a < sliceAddr (k + 1) then false else poisoned m a := by
  have hone : (a + 1 - 1) / 32 + 1 - a / 32 = 1 := by omega
  simp only [poisoned, State.psnStored, State.zeroSlice, State.zero, hone]
  split
  · next h =>
    rw [SMap.slice_clear_within _ _ _ _ _ (by simp [sliceAddr] at h ⊢; omega) (by simp [sliceAddr] at h ⊢; omega)]
    rfl
  · next h => rw [SMap.clear, SMap.slice_splice_apart _ _ _ _ _ _ (by simp [sliceAddr] at h ⊢; omega)]

theorem State.zeroSlice_frame : m.zeroSlice k =
    { m with mem := (m.zeroSlice k).mem, poison := (m.zeroSlice k).poison,
             coreBytes := (m.zeroSlice k).coreBytes, trayTags := (m.zeroSlice k).trayTags } := rfl

variable (l : List Nat)

theorem State.zeroSlices_frame : l.foldl State.zeroSlice m =
    { m with mem := (l.foldl State.zeroSlice m).mem, poison := (l.foldl State.zeroSlice m).poison,
             coreBytes := (l.foldl State.zeroSlice m).coreBytes, trayTags := (l.foldl State.zeroSlice m).trayTags } := by
  induction l generalizing m with
  | nil => rfl
  | cons k l ih => rw [List.foldl_cons, ih, State.zeroSlice_frame]

/-- Bytes of the slices zeroed read zero without poison, and every other byte is as it was. -/
theorem State.zeroSlices_memory (a : Nat) : let t := l.foldl State.zeroSlice m
    let new := ∃ k ∈ l, sliceAddr k ≤ a ∧ a < sliceAddr (k + 1)
    (new → t.byte a = 0 ∧ poisoned t a = false) ∧ (¬ new → t.byte a = m.byte a ∧ poisoned t a = poisoned m a) := by
  induction l generalizing m with
  | nil => simp
  | cons k l ih =>
    obtain ⟨hin, hout⟩ := ih (m.zeroSlice k)
    simp only [List.foldl_cons, List.exists_mem_cons_iff] at hin hout ⊢
    by_cases hl : ∃ k ∈ l, sliceAddr k ≤ a ∧ a < sliceAddr (k + 1)
    · exact ⟨fun _ => hin hl, fun h => absurd (.inr hl) h⟩
    · rw [(hout hl).1, (hout hl).2, State.byte_zeroSlice, State.poisoned_zeroSlice]
      by_cases hk : sliceAddr k ≤ a ∧ a < sliceAddr (k + 1) <;> simp [hk, hl]

end ZeroSlices

/-! ## Grants that meet (R22) -/

section GrantsMeet

theorem anyRange_congr {p q : Nat → Bool} {n : Nat} (h : ∀ i, i < n → p i = q i) : (List.range n).any p = (List.range n).any q := by
  induction n with
  | zero => rfl
  | succ n ih =>
    rw [List.range_succ, List.any_append, List.any_append, ih fun i hi => h i (by omega)]
    simp [h n (by omega)]

variable {s t : State}

/-- Two states agree on the ranges and windows that station n is granted (R21). -/
def GrantsAgree (s t : State) (n : Nat) : Prop :=
  (∀ k, k < 4 → t.flag (Reg.sys_VALID n k) = s.flag (Reg.sys_VALID n k) ∧ t.fld (Reg.sys_BASE_GIB n k) = s.fld (Reg.sys_BASE_GIB n k) ∧
    t.fld (Reg.sys_LAST_GIB n k) = s.fld (Reg.sys_LAST_GIB n k)) ∧
  (t.fld (Reg.sys_CRK_MASK n) = s.fld (Reg.sys_CRK_MASK n) ∧ t.ctrBase n = s.ctrBase n ∧ t.ctrNum n = s.ctrNum n ∧
    t.wchBase n = s.wchBase n ∧ t.wchNum n = s.wchNum n ∧ t.barBase n = s.barBase n ∧ t.barNum n = s.barNum n) ∧
  ∀ q, q < 4 → t.rcpWin n q = s.rcpWin n q ∧ t.trayWin n q = s.trayWin n q ∧ t.potWin n q = s.potWin n q

/-- A station's ranges and windows stand beside the first of its registers. -/
theorem grantsAgree_of_reg (hreg : ∀ o, 0x100 ≤ o % 0x1_0000 → (o < 0x300 → o % 0x40 ≠ 0) → t.reg o = s.reg o) {n : Nat} (hn : n < 8) :
    GrantsAgree s t n := by
  have hfld (f : Fld) (h : 0x100 ≤ f.off % 0x1_0000 ∧ (f.off < 0x300 → f.off % 0x40 ≠ 0)) : t.fld f = s.fld f :=
    State.fld_eq_of_reg (hreg _ h.1 h.2)
  have hflag (f : Fld) (h : 0x100 ≤ f.off % 0x1_0000 ∧ (f.off < 0x300 → f.off % 0x40 ≠ 0)) : t.flag f = s.flag f :=
    State.flag_eq_of_reg (hreg _ h.1 h.2)
  refine ⟨fun k hk => ⟨hflag _ ?_, hfld _ ?_, hfld _ ?_⟩, ⟨hfld _ ?_, ?_⟩, fun q hq => ?_⟩
  · simp only [Reg.sys_VALID]; omega
  · simp only [Reg.sys_BASE_GIB]; omega
  · simp only [Reg.sys_LAST_GIB]; omega
  · simp only [Reg.sys_CRK_MASK]; omega
  · have h118 : 0x100 ≤ (Reg.sys_CNT_BASE n).off % 0x1_0000 ∧ ((Reg.sys_CNT_BASE n).off < 0x300 → (Reg.sys_CNT_BASE n).off % 0x40 ≠ 0) := by
      simp only [Reg.sys_CNT_BASE]; omega
    simp only [State.ctrBase, State.ctrNum, State.wchBase, State.wchNum, State.barBase, State.barNum, hfld (Reg.sys_CNT_BASE n) h118,
      hfld (Reg.sys_CNT_NUM n) h118, hfld (Reg.sys_WCH_BASE n) h118, hfld (Reg.sys_WCH_NUM n) h118, hfld (Reg.sys_BAR_BASE n) h118,
      hfld (Reg.sys_BAR_NUM n) h118, and_self]
  · refine ⟨?_, ?_, ?_⟩
    · unfold State.rcpWin
      rw [hfld (Reg.seq_RBASE q n) (by simp only [Reg.seq_RBASE]; omega),
        hfld (Reg.seq_RLEN q n) (by simp only [Reg.seq_RLEN]; omega)]
    · unfold State.trayWin
      rw [hfld (Reg.seq_TBASE q n) (by simp only [Reg.seq_TBASE]; omega),
        hfld (Reg.seq_TLEN q n) (by simp only [Reg.seq_TLEN]; omega)]
    · unfold State.potWin
      rw [hfld (Reg.seq_SBASE q n) (by simp only [Reg.seq_SBASE]; omega),
        hfld (Reg.seq_SLEN q n) (by simp only [Reg.seq_SLEN]; omega)]

/-- Whether the grants of two stations meet is told by their ranges, their windows and their cores. -/
theorem State.grantsMeet_congr {n k : Nat} (hn : GrantsAgree s t n) (hk : GrantsAgree s t k)
    (hnm : t.fld (Reg.sys_CORE_MASK n) = s.fld (Reg.sys_CORE_MASK n)) (hkm : t.fld (Reg.sys_CORE_MASK k) = s.fld (Reg.sys_CORE_MASK k)) :
    t.grantsMeet n k = s.grantsMeet n k := by
  obtain ⟨hnr, ⟨h1, h2, h3, h4, h5, h6, h7⟩, hnw⟩ := hn
  obtain ⟨hkr, ⟨k1, k2, k3, k4, k5, k6, k7⟩, hkw⟩ := hk
  have hranges (i : Nat) (hi : i < 4) (j : Nat) (hj : j < 4) : (t.flag (Reg.sys_VALID n i) && t.flag (Reg.sys_VALID k j) &&
        decide (t.fld (Reg.sys_BASE_GIB n i) ≤ t.fld (Reg.sys_LAST_GIB k j) ∧ t.fld (Reg.sys_BASE_GIB k j) ≤ t.fld (Reg.sys_LAST_GIB n i))) =
      (s.flag (Reg.sys_VALID n i) && s.flag (Reg.sys_VALID k j) &&
        decide (s.fld (Reg.sys_BASE_GIB n i) ≤ s.fld (Reg.sys_LAST_GIB k j) ∧ s.fld (Reg.sys_BASE_GIB k j) ≤ s.fld (Reg.sys_LAST_GIB n i))) := by
    obtain ⟨hv, hb, hl⟩ := hnr i hi
    obtain ⟨kv, kb, kl⟩ := hkr j hj
    rw [hv, hb, hl, kv, kb, kl]
  unfold State.grantsMeet
  dsimp only
  rw [h1, h2, h3, h4, h5, h6, h7, k1, k2, k3, k4, k5, k6, k7, hnm, hkm]
  congr 1
  · simp only [Bool.or_assoc]
    congr 1
    exact anyRange_congr fun i hi => anyRange_congr fun j hj => hranges i hi j hj
  · refine anyRange_congr fun q hq => ?_
    obtain ⟨hr, ht, hp⟩ := hnw q hq
    obtain ⟨kr, kt, kp⟩ := hkw q hq
    rw [hr, ht, hp, kr, kt, kp]

/-- Two stations that hold one core in common meet. -/
theorem State.grantsMeet_of_core {m : State} {n k c : Nat} (hn : (m.fld (Reg.sys_CORE_MASK n)).testBit c = true)
    (hk : (m.fld (Reg.sys_CORE_MASK k)).testBit c = true) : m.grantsMeet n k = true := by
  have hand : m.fld (Reg.sys_CORE_MASK n) &&& m.fld (Reg.sys_CORE_MASK k) ≠ 0 := fun h => by
    have hbit := congrArg (fun x => x.testBit c) h
    simp [Nat.testBit_and, hn, hk] at hbit
  simp [State.grantsMeet, hand]

end GrantsMeet

/-! ## Trying to enable a station (R22, R23) -/

section EnableTry

variable (m : State) {n : Nat}

/-- Station n has neither cores nor ranges. -/
def NoGrants (m : State) (n : Nat) : Prop := m.fld (Reg.sys_CORE_MASK n) = 0 ∧ ∀ k, k < 4 → m.flag (Reg.sys_VALID n k) = false

/-- The grants of station n meet those of an enabled one. -/
def GrantsTaken (m : State) (n : Nat) : Prop := ∃ k, k < 8 ∧ k ≠ n ∧ m.flag (Reg.sys_EN k) = true ∧ m.grantsMeet n k = true

theorem State.enableTry_cond : (decide (m.fld (Reg.sys_CORE_MASK n) = 0) && (List.range 4).all (fun k => !m.flag (Reg.sys_VALID n k)) ||
    (List.range 8).any (fun k => decide (k ≠ n) && m.stnOn k && m.grantsMeet n k)) = true ↔ NoGrants m n ∨ GrantsTaken m n := by
  simp [NoGrants, GrantsTaken, State.stnOn, and_assoc]

theorem State.enableTry_refused (h : NoGrants m n ∨ GrantsTaken m n) : m.enableTry n = m.setFlag (Reg.sys_OVL n) true :=
  if_pos (m.enableTry_cond.mpr h)

/-- Station n enabled, before its memories are cleared and its cores start. -/
def State.opened (m : State) (n : Nat) : State := (m.setFlag (Reg.sys_EN n) true).setFlag (Reg.sys_OVL n) false

/-- The Crock slices of station n. -/
def State.slicesOf (m : State) (n : Nat) : List Nat := (List.range 48).filter (fun k => (m.fld (Reg.sys_CRK_MASK n)).testBit k)

/-- Station n enabled and cleared, its cores still in reset. -/
def State.cleared (m : State) (n : Nat) : State :=
  (((m.slicesOf n).foldl State.zeroSlice (m.opened n)).reloadSlots n).extendSlot 2 ((m.opened n).stnMeasure n)

theorem State.enableTry_taken (h : ¬ (NoGrants m n ∨ GrantsTaken m n)) :
    m.enableTry n = (coresOf (m.fld (Reg.sys_CORE_MASK n))).foldl State.coreStart (m.cleared n) :=
  if_neg (mt m.enableTry_cond.mp h)

theorem State.reg_opened_other {o : Nat} (h : o ≠ (Reg.sys_EN n).off) : (m.opened n).reg o = m.reg o := by
  rw [State.opened, State.reg_setFlag_other _ (Reg.sys_OVL n) _ h, State.reg_setFlag_other _ _ _ h]

theorem State.flag_opened_EN : (m.opened n).flag (Reg.sys_EN n) = true := by
  rw [State.opened, State.flag_setFlag_other _ _ _ _ (Nat.le_refl 2) (by simp [Reg.sys_OVL]) (by simp [Reg.sys_OVL, Reg.sys_EN]),
    State.flag_setFlag_same _ _ _ (Nat.le_refl 0) (by simp [Reg.sys_EN])]

theorem State.flag_opened_OVL : (m.opened n).flag (Reg.sys_OVL n) = false :=
  State.flag_setFlag_same _ _ _ (Nat.le_refl 2) (by simp [Reg.sys_OVL])

theorem State.fld_opened_CORE_MASK : (m.opened n).fld (Reg.sys_CORE_MASK n) = m.fld (Reg.sys_CORE_MASK n) := by
  rw [State.opened, State.setFlag, State.fld_setFld_other _ _ _ _ (Nat.le_refl 2) (by simp [Reg.sys_OVL])
    (by simp [Reg.sys_OVL, Reg.sys_CORE_MASK]), State.setFlag, State.fld_setFld_other _ _ _ _ (Nat.le_refl 0) (by simp [Reg.sys_EN])
    (by simp [Reg.sys_EN, Reg.sys_CORE_MASK])]

theorem State.reg_cleared {o : Nat} (h : o < 0x860800 ∨ 0x870000 ≤ o) : (m.cleared n).reg o = (m.opened n).reg o := by
  rw [State.cleared, State.reg_extendSlot_other _ _ _ h (by decide), State.reloadSlots_frame, State.zeroSlices_frame]
  rfl

theorem State.cleared_resets : (m.cleared n).resets = m.resets := by
  rw [State.cleared, State.extendSlot_frame, State.reloadSlots_frame, State.zeroSlices_frame]
  rfl

theorem State.cleared_cores : (m.cleared n).cores = m.cores := by
  rw [State.cleared, State.extendSlot_frame, State.reloadSlots_frame, State.zeroSlices_frame]
  rfl

theorem State.cleared_memory (a : Nat) :
    (m.cleared n).byte a = ((m.slicesOf n).foldl State.zeroSlice (m.opened n)).byte a ∧
      poisoned (m.cleared n) a = poisoned ((m.slicesOf n).foldl State.zeroSlice (m.opened n)) a :=
  memory_of_eq (by rw [State.cleared, State.extendSlot_frame, State.reloadSlots_frame])
    (by rw [State.cleared, State.extendSlot_frame, State.reloadSlots_frame]) a

/-- Clearing a station's slices changes no window. -/
theorem State.trayWin_zeroSlices (q : Nat) (hq : q < 4) (l : List Nat) (hn : n < 8) :
    (l.foldl State.zeroSlice (m.opened n)).trayWin n q = m.trayWin n q := by
  rw [State.zeroSlices_frame]
  obtain ⟨-, -, hwin⟩ := grantsAgree_of_reg (s := m) (t := m.opened n) (n := n)
    (fun o ho h40 => m.reg_opened_other fun e => h40 (by rw [e]; simp only [Reg.sys_EN]; omega) (by rw [e]; simp only [Reg.sys_EN]; omega)) hn
  exact (hwin q hq).2.1

theorem State.get_cleared_lslots (hn : n < 8) (q : Quad) (i : Fin 16) :
    (m.cleared n).lslots.get (fun _ => none) (128 * q.val + 16 * n + i.val) =
      if i.val = 0 then some (passThrough q (m.trayWin n q).1) else none := by
  rw [← m.trayWin_zeroSlices q.val q.isLt (m.slicesOf n) hn, State.cleared, State.extendSlot_frame]
  generalize (m.slicesOf n).foldl State.zeroSlice (m.opened n) = z
  exact State.get_reloadSlots z (n := n) q i

/-- The measurement takes the hash of what it held and of the station's registers (R362). -/
theorem State.fld_cleared_MS {w : Nat} (hn : n < 8) (hw : w < 6) : (m.cleared n).fld (Reg.fw_MS 2 w) =
    bitsOf (m.extendHash 2 ((m.opened n).stnMeasure n)) (64 * w + 63) (64 * w) := by
  have hfld (j : Nat) : (((m.slicesOf n).foldl State.zeroSlice (m.opened n)).reloadSlots n).fld (Reg.fw_MS 2 j) = m.fld (Reg.fw_MS 2 j) := by
    rw [State.reloadSlots_frame, State.zeroSlices_frame]
    exact State.fld_eq_of_reg (m.reg_opened_other (by simp only [Reg.fw_MS, Reg.sys_EN]; omega))
  rw [State.cleared, State.fld_extendSlot _ _ _ hw]
  simp only [State.extendHash, hfld]

/-- A core of a station that is enabled meets no station in reset, if its own is not. -/
theorem State.coreFree_cleared {c : Nat} (hr : m.inReset n = false) (hg : ¬ GrantsTaken m n)
    (hc : (m.fld (Reg.sys_CORE_MASK n)).testBit c = true) : CoreFree (m.cleared n) c := by
  have hreset (k : Nat) : (m.cleared n).inReset k = m.inReset k := by rw [State.inReset, m.cleared_resets, State.inReset]
  unfold CoreFree
  cases hstn : (m.cleared n).coreStn c with
  | none => rfl
  | some k =>
    have hk : k = n := by
      by_contra hne
      rw [State.coreStn_eq_of_reg (s := m.opened n) fun j hj => m.reg_cleared (.inl (by simp [Reg.sys_EN]; omega)), State.coreStn] at hstn
      split at hstn
      · cases hstn
      · have hfound := List.find?_some hstn
        have hk8 : k < 8 := List.mem_range.mp (List.mem_of_find?_eq_some hstn)
        have hreg : (m.opened n).reg (Reg.sys_EN k).off = m.reg (Reg.sys_EN k).off := m.reg_opened_other (by simp [Reg.sys_EN]; omega)
        rw [Bool.and_eq_true, State.stnOn, State.flag_eq_of_reg hreg, State.fld_eq_of_reg (f := Reg.sys_CORE_MASK k) hreg] at hfound
        exact hg ⟨k, hk8, hne, hfound.1, State.grantsMeet_of_core hc hfound.2⟩
    rw [Option.any_some, hreset, hk, hr]

end EnableTry

end Sys2Proof.Machine

/-! A write of a station's first register, from its fields to its cores, and a write of its ledger's place (R21 to R23, R370). -/

namespace Sys2Proof.Machine

open Sys2Proof.Spec

/-! ## The first register of a station (R21 to R23) -/

/-- The rows of a station's first register: EN, LOCK, OVL, INTEG and CORE_MASK. -/
def stnEnRow : FieldRow := ⟨0x100, [(0x40, 8)], 0, 0, .rw, 0, .tc, none, false, false, .stn⟩
def stnLockRow : FieldRow := ⟨0x100, [(0x40, 8)], 1, 1, .w1s, 0, .tc, none, false, false, .stn⟩
def stnOvlRow : FieldRow := ⟨0x100, [(0x40, 8)], 2, 2, .ro, 0, .none, none, false, false, .stn⟩
def stnIntegRow : FieldRow := ⟨0x100, [(0x40, 8)], 5, 4, .rwl, 0, .tc, some (0, 2), false, false, .stn⟩
def stnMaskRow : FieldRow := ⟨0x100, [(0x40, 8)], 31, 16, .rwl, 0, .tc, none, false, false, .stn⟩

def stnRows (n : Nat) : List (FieldRow × List Nat) :=
  [(stnEnRow, [n]), (stnLockRow, [n]), (stnOvlRow, [n]), (stnIntegRow, [n]), (stnMaskRow, [n])]

theorem rowsAt_station : ∀ n : Stn, rowsAt (Reg.sys_EN n).off = stnRows n := by decide +kernel

theorem stationOff_page (n : Stn) : (Reg.sys_EN n).off / 0x1_0000 = 0 := by
  simp only [Reg.sys_EN]
  omega

section StationDraft

variable (s : State) (n : Stn) (v : Nat)

theorem State.lockedAt_station (r : FieldRow) :
    s.lockedAt (Reg.sys_EN n).off (r, [n.val]) = (decide (r.acc = .rwl) && s.flag (Reg.sys_LOCK n)) := by
  rw [State.lockedAt, stationOff_page]
  rfl

theorem State.tableLocked_station : s.tableLocked (Reg.sys_EN n).off = false := by
  rw [State.tableLocked, stationOff_page]
  rfl

theorem State.clampOf_station {r : FieldRow} (hr : r.base = 0x100) (hn : r.rng = none) (x : Nat) :
    s.clampOf (Reg.sys_EN n).off r x = x := by
  rw [State.clampOf, stationOff_page]
  simp [blkOf, hr, hn]

theorem State.clampOf_station_range {r : FieldRow} (hr : r.base = 0x100) {lo hi : Nat} (hn : r.rng = some (lo, hi)) (x : Nat) :
    s.clampOf (Reg.sys_EN n).off r x = max lo (min hi x) := by
  rw [State.clampOf, stationOff_page]
  simp [blkOf, hr, hn]

theorem roundOf_station (x : Nat) : roundOf (Reg.sys_EN n).off x = x := by
  have hoff : (Reg.sys_EN n).off < 0x300 := by simp only [Reg.sys_EN]; omega
  rw [roundOf, if_neg (by omega), if_neg (by omega)]

theorem fitWord_station (w : Nat) : fitWord (Reg.sys_EN n).off w = w := by
  have hk : ((Reg.sys_EN n).off - 0x100) % 0x40 / 8 = 0 := by simp only [Reg.sys_EN]; omega
  simp [fitWord, hk, stationOff_page]

/-- The word of a write, before the fields that LOCK freezes. -/
def State.stnWord (s : State) (n v : Nat) : Nat := insertBits (s.reg (Reg.sys_EN n).off) 0 0 (bitsOf v 0 0)

/-- EN and LOCK first, then the fields that LOCK freezes. -/
theorem State.draft_station : s.draft (.core 16) (Reg.sys_EN n).off v =
    s.draftField (.core 16) (Reg.sys_EN n).off v (s.draftField (.core 16) (Reg.sys_EN n).off v
      ⟨s.stnWord n v, bitsOf v 1 1 <<< 1, false, false⟩ (stnIntegRow, [n.val])) (stnMaskRow, [n.val]) := by
  have hen : s.draftField (.core 16) (Reg.sys_EN n).off v ⟨s.reg (Reg.sys_EN n).off, 0, false, false⟩ (stnEnRow, [n.val]) =
      ⟨s.stnWord n v, 0, false, false⟩ := by
    rw [State.draftField_taken (.inl rfl) rfl (by rw [State.lockedAt_station]; rfl), State.clampOf_station _ _ rfl rfl, roundOf_station]
    simp [State.stnWord, stnEnRow]
  have hlock : s.draftField (.core 16) (Reg.sys_EN n).off v ⟨s.stnWord n v, 0, false, false⟩ (stnLockRow, [n.val]) =
      ⟨s.stnWord n v, bitsOf v 1 1 <<< 1, false, false⟩ := by
    rw [State.draftField_set rfl rfl]
    simp [stnLockRow]
  rw [State.draft, rowsAt_station, stnRows]
  simp only [List.foldl_cons, List.foldl_nil, hen, hlock, State.draftField_readOnly (e := (stnOvlRow, [n.val])) rfl, fitWord_station]
  simp

/-- Without LOCK every field takes its value. -/
theorem State.draft_station_open (hl : s.flag (Reg.sys_LOCK n) = false) : s.draft (.core 16) (Reg.sys_EN n).off v =
    ⟨insertBits (insertBits (s.stnWord n v) 5 4 (max 0 (min 2 (bitsOf v 5 4)))) 31 16 (bitsOf v 31 16), bitsOf v 1 1 <<< 1,
      decide (max 0 (min 2 (bitsOf v 5 4)) ≠ bitsOf v 5 4), false⟩ := by
  rw [State.draft_station, State.draftField_taken (.inr rfl) rfl (by rw [State.lockedAt_station, hl, Bool.and_false]),
    State.draftField_taken (.inr rfl) rfl (by rw [State.lockedAt_station, hl, Bool.and_false]),
    State.clampOf_station_range _ _ rfl (r := stnIntegRow) rfl, State.clampOf_station _ _ rfl rfl, roundOf_station, roundOf_station]
  simp [stnIntegRow, stnMaskRow]

/-- LOCK freezes INTEG and CORE_MASK: another value is refused. -/
theorem State.draft_station_locked (hl : s.flag (Reg.sys_LOCK n) = true) : s.draft (.core 16) (Reg.sys_EN n).off v =
    ⟨s.stnWord n v, bitsOf v 1 1 <<< 1, false,
      decide (bitsOf v 5 4 ≠ s.fld (Reg.sys_INTEG n) ∨ bitsOf v 31 16 ≠ s.fld (Reg.sys_CORE_MASK n))⟩ := by
  have hkept (r : FieldRow) (ha : r.acc = .rwl) : s.lockedAt (Reg.sys_EN n).off (r, [n.val]) = true ∧
      s.tableLocked (Reg.sys_EN n).off = false := ⟨by rw [State.lockedAt_station, hl, ha]; rfl, s.tableLocked_station n⟩
  have hinteg : bitsOf (s.stnWord n v) 5 4 = s.fld (Reg.sys_INTEG n) := bitsOf_insertBits_apart _ _ _ _ _ _ (by decide) (by decide)
  have hmask : bitsOf (s.stnWord n v) 31 16 = s.fld (Reg.sys_CORE_MASK n) := bitsOf_insertBits_apart _ _ _ _ _ _ (by decide) (by decide)
  rw [State.draft_station, State.draftField_kept (.inr rfl) (.inr (hkept stnIntegRow rfl)),
    State.draftField_kept (.inr rfl) (.inr (hkept stnMaskRow rfl))]
  simp only [stnIntegRow, stnMaskRow, hinteg]
  by_cases hi : bitsOf v 5 4 = s.fld (Reg.sys_INTEG n) <;> by_cases hm : bitsOf v 31 16 = s.fld (Reg.sys_CORE_MASK n) <;>
    simp [hi, hm, hmask]

end StationDraft

/-- What a write of a station's first register asks for (R22, R23). -/
theorem State.draft_station_fields (s : State) (n : Stn) (v : Nat) :
    let d := s.draft (.core 16) (Reg.sys_EN n).off v
    d.word.testBit 0 = v.testBit 0 ∧ d.act.testBit 1 = v.testBit 1 ∧
      bitsOf d.word 31 16 = (if s.flag (Reg.sys_LOCK n) then s.fld (Reg.sys_CORE_MASK n) else bitsOf v 31 16) ∧
      (s.flag (Reg.sys_LOCK n) = true → bitsOf d.word 5 4 = s.fld (Reg.sys_INTEG n) ∧
        d.refused = decide (bitsOf v 5 4 ≠ s.fld (Reg.sys_INTEG n) ∨ bitsOf v 31 16 ≠ s.fld (Reg.sys_CORE_MASK n))) := by
  have hact : (bitsOf v 1 1 <<< 1).testBit 1 = v.testBit 1 := by
    rw [Nat.testBit_shiftLeft, testBit_bitsOf]
    simp
  have hword : (s.stnWord n v).testBit 0 = v.testBit 0 := by
    rw [State.stnWord, testBit_insertBits _ _ _ _ _ (Nat.le_refl 0), if_pos (by decide), testBit_bitsOf]
    simp
  cases hl : s.flag (Reg.sys_LOCK n) with
  | true =>
    rw [State.draft_station_locked s n v hl]
    exact ⟨hword, hact, bitsOf_insertBits_apart _ _ _ _ _ _ (by decide) (by decide),
      fun _ => ⟨bitsOf_insertBits_apart _ _ _ _ _ _ (by decide) (by decide), rfl⟩⟩
  | false =>
    rw [State.draft_station_open s n v hl]
    refine ⟨?_, hact, ?_, nofun⟩
    · rw [testBit_insertBits _ _ _ _ _ (by decide), testBit_insertBits _ _ _ _ _ (by decide)]
      exact hword
    · rw [bitsOf_insertBits_same _ _ _ _ (by decide)]
      exact Nat.mod_eq_of_lt (Nat.mod_lt _ (by decide))

/-! ## What a station's first register does (R22, R23, R203) -/

section StationWrite

variable (m : State)

/-- What a field's write leaves in a register depends on the register it is in alone. -/
theorem State.reg_setFld_congr {s t : State} {f : Fld} {v o : Nat} (hf : t.reg f.off = s.reg f.off) (ho : t.reg o = s.reg o) :
    (t.setFld f v).reg o = (s.setFld f v).reg o := by
  rw [State.setFld, State.setFld, State.reg_setReg, State.reg_setReg, hf, ho]

/-- A core held in reset changes its own state register alone. -/
theorem State.reg_coreHold_other (c : Nat) {o : Nat} (h : o ≠ (Reg.cc_RUN c).off) : (m.coreHold c).reg o = m.reg o := by
  unfold State.coreHold
  rw [State.coreLose_frame]
  exact (State.reg_setFlag_other _ (Reg.cc_WFI c) _ h).trans ((State.reg_setFlag_other _ (Reg.cc_HALTED c) _ h).trans
    (State.reg_setFlag_other _ (Reg.cc_RUN c) _ h))

theorem State.reg_holdCores_low (l : List Nat) {o : Nat} (h : o < 0x870000) : (l.foldl State.coreHold m).reg o = m.reg o := by
  induction l generalizing m with
  | nil => rfl
  | cons c l ih => rw [List.foldl_cons, ih, m.reg_coreHold_other c (by simp [Reg.cc_RUN]; omega)]

variable (n : Nat)

/-- A change of a station's cores changes its mask, and below the cores' own pages nothing else. -/
theorem State.reg_recore (new : Nat) {o : Nat} (h : o < 0x870000) :
    (m.recore n new).reg o = (m.setFld (Reg.sys_CORE_MASK n) new).reg o := by
  unfold State.recore
  dsimp only
  split
  · rfl
  · rw [State.reg_startCores_low _ _ h, State.reg_holdCores_low _ _ h]

theorem State.recore_of_off (new : Nat) (h : m.flag (Reg.sys_EN n) = false) :
    m.recore n new = m.setFld (Reg.sys_CORE_MASK n) new := if_pos (by rw [State.stnOn, h]; rfl)

/-- A station that keeps its cores has none held and none started. -/
theorem State.recore_same : m.recore n (m.fld (Reg.sys_CORE_MASK n)) = m.setFld (Reg.sys_CORE_MASK n) (m.fld (Reg.sys_CORE_MASK n)) := by
  have hnone (mask : Nat) : (coresOf mask).filter (fun c => !mask.testBit c) = [] :=
    List.filter_eq_nil_iff.mpr fun c hc => by simp [(mem_coresOf.mp hc).2]
  unfold State.recore
  dsimp only
  rw [hnone]
  split <;> rfl

variable (d : Draft)

/-- m once INTEG, CORE_MASK and LOCK are as a write asks. -/
def State.stnBits : State :=
  let m1 := (m.setFld (Reg.sys_INTEG n) (bitsOf d.word 5 4)).setFld (Reg.sys_CORE_MASK n) (bitsOf d.word 31 16)
  if d.act.testBit 1 then m1.setFlag (Reg.sys_LOCK n) true else m1

/-- And once the cores that this adds and removes have followed. -/
def State.stnFields : State :=
  let m1 := (m.setFld (Reg.sys_INTEG n) (bitsOf d.word 5 4)).recore n (bitsOf d.word 31 16)
  if d.act.testBit 1 then m1.setFlag (Reg.sys_LOCK n) true else m1

theorem State.stnWrite_eq : m.stnWrite n 0 d =
    if d.word.testBit 0 ∧ !(m.stnFields n d).stnOn n then (m.stnFields n d).enableTry n
    else if !d.word.testBit 0 ∧ (m.stnFields n d).stnOn n then (m.stnFields n d).resetBegin n true
    else m.stnFields n d := rfl

theorem State.stnBits_frame : m.stnBits n d = { m with regs := (m.stnBits n d).regs } := by
  unfold State.stnBits
  dsimp only
  split <;> rfl

theorem State.reg_stnBits_other {o : Nat} (h : o ≠ (Reg.sys_EN n).off) : (m.stnBits n d).reg o = m.reg o := by
  unfold State.stnBits
  dsimp only
  split
  · rw [State.reg_setFlag_other _ (Reg.sys_LOCK n) _ h, State.reg_setFld_other _ (Reg.sys_CORE_MASK n) _ h,
      State.reg_setFld_other _ (Reg.sys_INTEG n) _ h]
  · rw [State.reg_setFld_other _ (Reg.sys_CORE_MASK n) _ h, State.reg_setFld_other _ (Reg.sys_INTEG n) _ h]

/-- The fields beside INTEG, CORE_MASK and LOCK keep their values. -/
theorem State.fld_stnBits_apart {f : Fld} (h1 : 5 < f.lo ∨ f.hi < 4) (h2 : 31 < f.lo ∨ f.hi < 16) (h3 : 1 < f.lo ∨ f.hi < 1) :
    (m.stnBits n d).fld f = m.fld f := by
  unfold State.stnBits
  dsimp only
  split
  · rw [State.setFlag, State.fld_setFld_other _ (Reg.sys_LOCK n) _ _ (Nat.le_refl 1) (by simp [Reg.sys_LOCK]) (.inr h3),
      State.fld_setFld_other _ (Reg.sys_CORE_MASK n) _ _ (by simp [Reg.sys_CORE_MASK]) (by simp [Reg.sys_CORE_MASK]) (.inr h2),
      State.fld_setFld_other _ (Reg.sys_INTEG n) _ _ (by simp [Reg.sys_INTEG]) (by simp [Reg.sys_INTEG]) (.inr h1)]
  · rw [State.fld_setFld_other _ (Reg.sys_CORE_MASK n) _ _ (by simp [Reg.sys_CORE_MASK]) (by simp [Reg.sys_CORE_MASK]) (.inr h2),
      State.fld_setFld_other _ (Reg.sys_INTEG n) _ _ (by simp [Reg.sys_INTEG]) (by simp [Reg.sys_INTEG]) (.inr h1)]

theorem State.flag_stnBits_EN : (m.stnBits n d).flag (Reg.sys_EN n) = m.flag (Reg.sys_EN n) := by
  rw [State.flag, m.fld_stnBits_apart n d (by simp [Reg.sys_EN]) (by simp [Reg.sys_EN]) (by simp [Reg.sys_EN]), State.flag]

theorem State.fld_stnBits_CORE_MASK : (m.stnBits n d).fld (Reg.sys_CORE_MASK n) = bitsOf d.word 31 16 := by
  have hlt : bitsOf d.word 31 16 % 2 ^ 16 = bitsOf d.word 31 16 := Nat.mod_eq_of_lt (Nat.mod_lt _ (by decide))
  have hset : ((m.setFld (Reg.sys_INTEG n) (bitsOf d.word 5 4)).setFld (Reg.sys_CORE_MASK n) (bitsOf d.word 31 16)).fld
      (Reg.sys_CORE_MASK n) = bitsOf d.word 31 16 :=
    (State.fld_setFld_same _ _ _ (by simp [Reg.sys_CORE_MASK]) (by simp [Reg.sys_CORE_MASK])).trans hlt
  unfold State.stnBits
  dsimp only
  split
  · rw [State.setFlag, State.fld_setFld_other _ _ _ _ (Nat.le_refl 1) (by simp [Reg.sys_LOCK]) (by simp [Reg.sys_LOCK, Reg.sys_CORE_MASK]),
      hset]
  · exact hset

theorem State.fld_stnBits_INTEG : (m.stnBits n d).fld (Reg.sys_INTEG n) = bitsOf d.word 5 4 := by
  have hlt : bitsOf d.word 5 4 % 2 ^ 2 = bitsOf d.word 5 4 := Nat.mod_eq_of_lt (Nat.mod_lt _ (by decide))
  have hset : ((m.setFld (Reg.sys_INTEG n) (bitsOf d.word 5 4)).setFld (Reg.sys_CORE_MASK n) (bitsOf d.word 31 16)).fld
      (Reg.sys_INTEG n) = bitsOf d.word 5 4 := by
    rw [State.fld_setFld_other _ _ _ _ (by simp [Reg.sys_CORE_MASK]) (by simp [Reg.sys_CORE_MASK]) (by simp [Reg.sys_CORE_MASK, Reg.sys_INTEG])]
    exact (State.fld_setFld_same _ _ _ (by simp [Reg.sys_INTEG]) (by simp [Reg.sys_INTEG])).trans hlt
  unfold State.stnBits
  dsimp only
  split
  · rw [State.setFlag, State.fld_setFld_other _ _ _ _ (Nat.le_refl 1) (by simp [Reg.sys_LOCK]) (by simp [Reg.sys_LOCK, Reg.sys_INTEG]),
      hset]
  · exact hset

theorem State.flag_stnBits_LOCK (h : d.act.testBit 1 = true ∨ m.flag (Reg.sys_LOCK n) = true) :
    (m.stnBits n d).flag (Reg.sys_LOCK n) = true := by
  unfold State.stnBits
  dsimp only
  split
  · exact State.flag_setFlag_same _ _ _ (Nat.le_refl 1) (by simp [Reg.sys_LOCK])
  · next ha =>
    rw [State.flag, State.fld_setFld_other _ _ _ _ (by simp [Reg.sys_CORE_MASK]) (by simp [Reg.sys_CORE_MASK]) (by simp [Reg.sys_CORE_MASK, Reg.sys_LOCK]),
      State.fld_setFld_other _ _ _ _ (by simp [Reg.sys_INTEG]) (by simp [Reg.sys_INTEG]) (by simp [Reg.sys_INTEG, Reg.sys_LOCK])]
    exact h.resolve_left ha

/-- The fields and the cores: below the cores' own pages the registers are the fields' alone. -/
theorem State.reg_stnFields (hn : n < 8) {o : Nat} (h : o < 0x870000) : (m.stnFields n d).reg o = (m.stnBits n d).reg o := by
  have hreg {o : Nat} (h : o < 0x870000) := State.reg_recore (m.setFld (Reg.sys_INTEG n) (bitsOf d.word 5 4)) n (bitsOf d.word 31 16) h
  unfold State.stnFields State.stnBits
  dsimp only
  split
  · exact State.reg_setFld_congr (hreg (by simp only [Reg.sys_LOCK]; omega)) (hreg h)
  · exact hreg h

/-- A station that is off, or that keeps its cores, has its fields written and no core touched. -/
theorem State.stnFields_eq_stnBits (h : m.flag (Reg.sys_EN n) = false ∨ bitsOf d.word 31 16 = m.fld (Reg.sys_CORE_MASK n)) :
    m.stnFields n d = m.stnBits n d := by
  have hrecore : (m.setFld (Reg.sys_INTEG n) (bitsOf d.word 5 4)).recore n (bitsOf d.word 31 16) =
      (m.setFld (Reg.sys_INTEG n) (bitsOf d.word 5 4)).setFld (Reg.sys_CORE_MASK n) (bitsOf d.word 31 16) := by
    rcases h with h | h
    · refine State.recore_of_off _ _ _ ?_
      rw [State.flag, State.fld_setFld_other _ _ _ _ (by simp [Reg.sys_INTEG]) (by simp [Reg.sys_INTEG]) (by simp [Reg.sys_INTEG, Reg.sys_EN])]
      exact h
    · have hkeep : (m.setFld (Reg.sys_INTEG n) (bitsOf d.word 5 4)).fld (Reg.sys_CORE_MASK n) = bitsOf d.word 31 16 := by
        rw [State.fld_setFld_other _ _ _ _ (by simp [Reg.sys_INTEG]) (by simp [Reg.sys_INTEG]) (by simp [Reg.sys_INTEG, Reg.sys_CORE_MASK]), h]
      rw [← hkeep, State.recore_same]
  rw [State.stnFields, hrecore, State.stnBits]

theorem State.flag_stnFields_EN (hn : n < 8) : (m.stnFields n d).flag (Reg.sys_EN n) = m.flag (Reg.sys_EN n) :=
  (State.flag_eq_of_reg (m.reg_stnFields n d hn (by simp only [Reg.sys_EN]; omega))).trans (m.flag_stnBits_EN n d)

variable {m n d}

/-- A write that leaves EN as it is writes the fields. -/
theorem State.stnWrite_of_same (hn : n < 8) (h : d.word.testBit 0 = m.flag (Reg.sys_EN n)) : m.stnWrite n 0 d = m.stnFields n d := by
  have hen : (m.stnFields n d).stnOn n = d.word.testBit 0 := (m.flag_stnFields_EN n d hn).trans h.symm
  rw [State.stnWrite_eq, hen]
  cases d.word.testBit 0 <;> rfl

/-- A write that sets EN of a station that is off tries to enable it. -/
theorem State.stnWrite_of_enable (h : m.flag (Reg.sys_EN n) = false) (hw : d.word.testBit 0 = true) :
    m.stnWrite n 0 d = (m.stnBits n d).enableTry n := by
  have hen : (m.stnBits n d).stnOn n = false := (m.flag_stnBits_EN n d).trans h
  rw [State.stnWrite_eq, m.stnFields_eq_stnBits n d (.inl h), if_pos]
  rw [hw, hen]
  exact ⟨rfl, rfl⟩

end StationWrite

section StationBus

variable {s : State} (n : Stn) (v : Nat)

theorem State.regEffect_station (m : State) (who : Master) (d : Draft) :
    m.regEffect who (Reg.sys_EN n).off v d = m.stnWrite n 0 d := by
  have hmod : (Reg.sys_EN n).off % 0x1_0000 = (Reg.sys_EN n).off := Nat.mod_eq_of_lt (by simp only [Reg.sys_EN]; omega)
  have hlow : ¬ (Reg.sys_EN n).off < 0x100 := by simp only [Reg.sys_EN]; omega
  have hsys : m.sysWrite who (Reg.sys_EN n).off d = m.stnWrite (((Reg.sys_EN n).off - 0x100) / 0x40) (((Reg.sys_EN n).off - 0x100) % 0x40 / 8) d :=
    if_pos ⟨by omega, by simp only [Reg.sys_EN]; omega⟩
  have hstn : ((Reg.sys_EN n).off - 0x100) / 0x40 = n := by simp only [Reg.sys_EN]; omega
  have hk : ((Reg.sys_EN n).off - 0x100) % 0x40 / 8 = 0 := by simp only [Reg.sys_EN]; omega
  rw [hstn, hk] at hsys
  rw [State.regEffect, stationOff_page, hmod, if_neg hlow]
  exact hsys

/-- A write of EN is dropped only while the station is in reset (R366). -/
theorem State.enDropped_station (hr : s.inReset n = false) : s.enDropped (Reg.sys_EN n).off v = false := by
  have hstn : ((Reg.sys_EN n).off - 0x100) / 0x40 = n := by simp only [Reg.sys_EN]; omega
  rw [State.enDropped, hstn, hr, Bool.and_false]

/-- The trusted core's write of a station's first register. -/
theorem State.busWrite_station (hup : CoreUp s) (hr : s.inReset n = false) : s.busWrite (.core 16) (Reg.sys_EN n).off v =
    (s.counted (.core 16) (Reg.sys_EN n).off (s.draft (.core 16) (Reg.sys_EN n).off v)).stnWrite n 0
      (s.draft (.core 16) (Reg.sys_EN n).off v) := by
  rw [State.busWrite_taken (reaches_of_coreUp hup) (by rw [stationOff_page]; decide)
    ⟨_, by rw [rowsAt_station]; exact List.mem_cons_self, by simp [stnEnRow], rfl⟩ (State.enDropped_station n v hr), State.regEffect_station]

/-- Another master's is refused (R408). -/
theorem State.busWrite_station_host (hup : HostUp s) : s.busWrite .host (Reg.sys_EN n).off v =
    s.access 0 (mid .host) (s.masterStn .host) 1 (regAddr (Reg.sys_EN n).off) := by
  rw [State.busWrite_refused (reaches_of_hostUp hup) (by rw [stationOff_page]; decide)
    ⟨_, by rw [rowsAt_station]; exact List.mem_cons_self, by simp [stnEnRow]⟩ (fun e he _ => ?_), stationOff_page]
  rw [rowsAt_station] at he
  simp only [stnRows, List.mem_cons, List.not_mem_nil, or_false] at he
  rcases he with rfl | rfl | rfl | rfl | rfl <;> rfl

end StationBus

/-! ## A station as a write of its first register leaves it -/

section StationTaken

variable {s : State} {n : Stn} {v : Nat}

/-- The cores that a write asks for, or that LOCK keeps. -/
def State.askedCores (s : State) (n v : Nat) : Nat := if s.flag (Reg.sys_LOCK n) then s.fld (Reg.sys_CORE_MASK n) else bitsOf v 31 16

theorem State.askedCores_lt (s : State) (n v : Nat) : s.askedCores n v < 2 ^ 16 := by
  unfold State.askedCores
  split
  · exact s.fld_lt (Reg.sys_CORE_MASK n)
  · exact Nat.mod_lt _ (by decide)

/-- s with the fields of station n as a write asks. -/
def State.asked (s : State) (n : Stn) (v : Nat) : State :=
  (s.counted (.core 16) (Reg.sys_EN n).off (s.draft (.core 16) (Reg.sys_EN n).off v)).stnBits n (s.draft (.core 16) (Reg.sys_EN n).off v)

theorem State.asked_frame (s : State) (n : Stn) (v : Nat) : s.asked n v =
    { s with regs := (s.asked n v).regs, events := (s.asked n v).events, lossPages := (s.asked n v).lossPages } := by
  unfold State.asked
  rw [State.stnBits_frame, State.counted_frame]

/-- Beyond the headers and the station's first register nothing has changed. -/
theorem State.reg_asked {o : Nat} (h : 0x68 ≤ o % 0x1_0000) (hne : o ≠ (Reg.sys_EN n).off) : (s.asked n v).reg o = s.reg o := by
  rw [State.asked, State.reg_stnBits_other _ _ _ hne, State.reg_counted_other _ _ _ _ (.inr h)]

theorem State.flag_asked_EN (k : Nat) (hk : k < 8) : (s.asked n v).flag (Reg.sys_EN k) = s.flag (Reg.sys_EN k) := by
  have hoff : 0x68 ≤ (Reg.sys_EN k).off % 0x1_0000 := by simp only [Reg.sys_EN]; omega
  by_cases hkn : k = n
  · subst hkn
    rw [State.asked, State.flag_stnBits_EN]
    exact State.flag_eq_of_reg (State.reg_counted_other _ _ _ _ (.inr hoff))
  · exact State.flag_eq_of_reg (State.reg_asked hoff (by simp only [Reg.sys_EN]; omega))

theorem State.fld_asked_CORE_MASK : (s.asked n v).fld (Reg.sys_CORE_MASK n) = s.askedCores n v := by
  obtain ⟨-, -, hmask, -⟩ := s.draft_station_fields n v
  rw [State.asked, State.fld_stnBits_CORE_MASK, hmask, State.askedCores]

theorem noGrants_asked : NoGrants (s.asked n v) n ↔ s.askedCores n v = 0 ∧ ∀ k, k < 4 → s.flag (Reg.sys_VALID n k) = false := by
  have hvalid (k : Nat) (hk : k < 4) : (s.asked n v).flag (Reg.sys_VALID n k) = s.flag (Reg.sys_VALID n k) :=
    State.flag_eq_of_reg (State.reg_asked (by simp only [Reg.sys_VALID]; omega) (by simp only [Reg.sys_VALID, Reg.sys_EN]; omega))
  rw [NoGrants, State.fld_asked_CORE_MASK]
  exact and_congr_right fun _ => forall_congr' fun k => forall_congr' fun hk => by rw [hvalid k hk]

theorem grantsTaken_asked : GrantsTaken (s.asked n v) n ↔ ∃ k, k < 8 ∧ k ≠ n.val ∧ s.flag (Reg.sys_EN k) = true ∧
    (s.setFld (Reg.sys_CORE_MASK n) (s.askedCores n v)).grantsMeet n k = true := by
  have hset : (s.setFld (Reg.sys_CORE_MASK n) (s.askedCores n v)).fld (Reg.sys_CORE_MASK n) = s.askedCores n v :=
    (State.fld_setFld_same _ _ _ (by simp [Reg.sys_CORE_MASK]) (by simp [Reg.sys_CORE_MASK])).trans
      (Nat.mod_eq_of_lt (s.askedCores_lt n v))
  have hreg (o : Nat) (h : 0x68 ≤ o % 0x1_0000) (hne : o ≠ (Reg.sys_EN n).off) :
      (s.asked n v).reg o = (s.setFld (Reg.sys_CORE_MASK n) (s.askedCores n v)).reg o :=
    (State.reg_asked h hne).trans (State.reg_setFld_other _ (Reg.sys_CORE_MASK n) _ hne).symm
  have hagree (k : Nat) (hk : k < 8) : GrantsAgree (s.setFld (Reg.sys_CORE_MASK n) (s.askedCores n v)) (s.asked n v) k :=
    grantsAgree_of_reg (fun o ho h40 => hreg o (by omega) fun e =>
      h40 (by rw [e]; simp only [Reg.sys_EN]; omega) (by rw [e]; simp only [Reg.sys_EN]; omega)) hk
  unfold GrantsTaken
  refine exists_congr fun k => and_congr_right fun hk => and_congr_right fun hne => ?_
  rw [State.flag_asked_EN k hk, State.grantsMeet_congr (hagree n n.isLt) (hagree k hk) (State.fld_asked_CORE_MASK.trans hset.symm)
    (State.fld_eq_of_reg (hreg _ (by simp only [Reg.sys_CORE_MASK]; omega) (by simp only [Reg.sys_CORE_MASK, Reg.sys_EN]; omega)))]

section Enable

variable (hup : CoreUp s) (hr : s.inReset n = false) (hen : s.flag (Reg.sys_EN n) = false) (hv : v.testBit 0 = true)
include hup hr hen hv

theorem State.busWrite_enable : s.busWrite (.core 16) (Reg.sys_EN n).off v = (s.asked n v).enableTry n := by
  obtain ⟨hbit, -, -, -⟩ := s.draft_station_fields n v
  rw [State.busWrite_station n v hup hr]
  exact State.stnWrite_of_enable ((State.flag_eq_of_reg (State.reg_counted_other _ _ _ _ (.inr (by simp only [Reg.sys_EN]; omega)))).trans hen)
    (hbit.trans hv)

end Enable

/-- A station that cannot be enabled stays off, OVL is set and nothing else happens (R22). -/
theorem State.asked_refused (hen : s.flag (Reg.sys_EN n) = false) :
    let t := (s.asked n v).setFlag (Reg.sys_OVL n) true
    t.flag (Reg.sys_EN n) = false ∧ t.flag (Reg.sys_OVL n) = true ∧ SameMemory s t ∧ t.cores = s.cores := by
  refine ⟨?_, State.flag_setFlag_same _ _ _ (Nat.le_refl 2) (by simp [Reg.sys_OVL]), ?_, ?_⟩
  · rw [State.flag_setFlag_other _ _ _ _ (Nat.le_refl 2) (by simp [Reg.sys_OVL]) (by simp [Reg.sys_OVL, Reg.sys_EN]),
      State.flag_asked_EN _ n.isLt, hen]
  · rw [State.asked_frame]
    exact memory_of_eq rfl rfl
  · rw [State.asked_frame]
    rfl

/-- The station's cores start, and no other core changes (R203). -/
theorem State.asked_starts (hr : s.inReset n = false) (hg : ¬ GrantsTaken (s.asked n v) n) (c : Nat) (hc : c < 16) :
    let t := (coresOf (s.askedCores n v)).foldl State.coreStart ((s.asked n v).cleared n)
    ((s.askedCores n v).testBit c = true → CoreStarts s t c) ∧ ((s.askedCores n v).testBit c = false → t.core c = s.core c) := by
  have hreg {o : Nat} (h : 0x870000 ≤ o) (h68 : 0x68 ≤ o % 0x1_0000) : ((s.asked n v).cleared n).reg o = s.reg o := by
    have hne : o ≠ (Reg.sys_EN n).off := by simp only [Reg.sys_EN]; omega
    rw [State.reg_cleared _ (.inr h), State.reg_opened_other _ hne, State.reg_asked h68 hne]
  have hreset : (s.asked n v).inReset n = false := by
    rw [State.asked_frame]
    exact hr
  refine ⟨fun h => ?_, fun h => ?_⟩
  · exact coreStarts_of_eq (State.coreStarts_startCores _ (coresOf_nodup _) (mem_coresOf.mpr ⟨hc, h⟩)
      (State.coreFree_cleared _ hreset hg (State.fld_asked_CORE_MASK ▸ h)))
      (hreg (by simp only [Reg.cc_RVEC]; omega) (by simp only [Reg.cc_RVEC]; omega)).symm
      (hreg (by simp only [Reg.cc_HALT]; omega) (by simp only [Reg.cc_HALT]; omega)).symm rfl rfl
  · rw [State.core_startCores_other _ _ (fun hm => by simp [(mem_coresOf.mp hm).2] at h), State.core, State.cleared_cores, State.asked_frame]
    rfl

/-- The bytes of the station's slices read zero, and every other byte is as it was (R225). -/
theorem State.asked_memory (a : Nat) :
    let t := (coresOf (s.askedCores n v)).foldl State.coreStart ((s.asked n v).cleared n)
    let new := ∃ k, k < 48 ∧ (s.fld (Reg.sys_CRK_MASK n)).testBit k = true ∧ sliceAddr k ≤ a ∧ a < sliceAddr (k + 1)
    (new → t.byte a = 0 ∧ poisoned t a = false) ∧ (¬ new → t.byte a = s.byte a ∧ poisoned t a = poisoned s a) := by
  have hcrk : (s.asked n v).fld (Reg.sys_CRK_MASK n) = s.fld (Reg.sys_CRK_MASK n) :=
    State.fld_eq_of_reg (State.reg_asked (by simp only [Reg.sys_CRK_MASK]; omega) (by simp only [Reg.sys_CRK_MASK, Reg.sys_EN]; omega))
  have hopen : SameMemory s ((s.asked n v).opened n) := by
    rw [State.asked_frame]
    exact memory_of_eq rfl rfl
  have hcores (l : List Nat) (m : State) : SameMemory m (l.foldl State.coreStart m) := by
    rw [State.startCores_frame]
    exact memory_of_eq rfl rfl
  have hnew : (∃ k ∈ (s.asked n v).slicesOf n, sliceAddr k ≤ a ∧ a < sliceAddr (k + 1)) ↔
      ∃ k, k < 48 ∧ (s.fld (Reg.sys_CRK_MASK n)).testBit k = true ∧ sliceAddr k ≤ a ∧ a < sliceAddr (k + 1) := by
    simp [State.slicesOf, hcrk, and_assoc]
  obtain ⟨hin, hout⟩ := State.zeroSlices_memory ((s.asked n v).opened n) ((s.asked n v).slicesOf n) a
  dsimp only
  rw [(hcores _ _ a).1, (hcores _ _ a).2, (State.cleared_memory _ a).1, (State.cleared_memory _ a).2, ← hnew, ← (hopen a).1, ← (hopen a).2]
  exact ⟨hin, hout⟩

/-- What a station's measurement reads (R362). -/
theorem State.stnMeasure_congr {s t : State} {n : Nat} (h : ∀ o, o < 0x860000 → t.reg o = s.reg o) (hn : n < 8) :
    t.stnMeasure n = s.stnMeasure n := by
  unfold State.stnMeasure
  congr 1
  · exact List.flatMap_congr fun k hk => by rw [h _ (by have := List.mem_range.mp hk; omega)]
  · refine List.flatMap_congr fun q hq => List.flatMap_congr fun k hk => ?_
    rw [h _ (by have := List.mem_range.mp hk; have := List.mem_range.mp hq; omega)]

/-- MS2 is extended with the station's registers (R362). -/
theorem State.asked_measure {w : Nat} (hw : w < 6) :
    let t := (coresOf (s.askedCores n v)).foldl State.coreStart ((s.asked n v).cleared n)
    t.fld (Reg.fw_MS 2 w) = bitsOf (Config.sha384 ((List.range 6).flatMap (fun j => leBytes (s.fld (Reg.fw_MS 2 j)) 8) ++
      t.stnMeasure n)).toNat (64 * w + 63) (64 * w) := by
  have hms (j : Nat) (hj : j < 6) : (s.asked n v).fld (Reg.fw_MS 2 j) = s.fld (Reg.fw_MS 2 j) :=
    State.fld_eq_of_reg (State.reg_asked (by simp only [Reg.fw_MS]; omega) (by simp only [Reg.fw_MS, Reg.sys_EN]; omega))
  have hmeasure (l : List Nat) : (l.foldl State.coreStart ((s.asked n v).cleared n)).stnMeasure n = ((s.asked n v).opened n).stnMeasure n :=
    State.stnMeasure_congr (fun o ho => (State.reg_startCores_low _ _ (by omega)).trans (State.reg_cleared _ (.inl (by omega)))) n.isLt
  have hold : (List.range 6).flatMap (fun j => leBytes ((s.asked n v).fld (Reg.fw_MS 2 j)) 8) =
      (List.range 6).flatMap (fun j => leBytes (s.fld (Reg.fw_MS 2 j)) 8) :=
    List.flatMap_congr fun j hj => by rw [hms j (List.mem_range.mp hj)]
  dsimp only
  rw [hmeasure, State.fld_eq_of_reg (State.reg_startCores_low _ _ (by simp only [Reg.fw_MS]; omega)), State.fld_cleared_MS _ n.isLt hw,
    State.extendHash, hold]

/-- Station n enabled: its switches, its cores and its Ladle slots (R21 to R23, R119). -/
theorem State.asked_enabled :
    let t := (coresOf (s.askedCores n v)).foldl State.coreStart ((s.asked n v).cleared n)
    t.flag (Reg.sys_EN n) = true ∧ t.flag (Reg.sys_OVL n) = false ∧ t.fld (Reg.sys_CORE_MASK n) = s.askedCores n v ∧
      ∀ (q : Quad) (i : Fin 16), t.lslots.get (fun _ => none) (128 * q.val + 16 * n.val + i.val) =
        if i.val = 0 then some (passThrough q (s.trayWin n q).1) else none := by
  have hreg (l : List Nat) : (l.foldl State.coreStart ((s.asked n v).cleared n)).reg (Reg.sys_EN n).off =
      ((s.asked n v).opened n).reg (Reg.sys_EN n).off :=
    (State.reg_startCores_low _ _ (by simp only [Reg.sys_EN]; omega)).trans (State.reg_cleared _ (.inl (by simp only [Reg.sys_EN]; omega)))
  have hslots (l : List Nat) (m : State) : (l.foldl State.coreStart m).lslots = m.lslots := by rw [State.startCores_frame]
  have hwin (q : Quad) : (s.asked n v).trayWin n q = s.trayWin n q := by
    obtain ⟨-, -, hwin⟩ := grantsAgree_of_reg (s := s) (t := s.asked n v) (n := n) (fun o ho h40 => State.reg_asked (by omega) fun e =>
      h40 (by rw [e]; simp only [Reg.sys_EN]; omega) (by rw [e]; simp only [Reg.sys_EN]; omega)) n.isLt
    exact (hwin q q.isLt).2.1
  refine ⟨(State.flag_eq_of_reg (hreg _)).trans (State.flag_opened_EN _), ?_, ?_, fun q i => ?_⟩
  · exact (State.flag_eq_of_reg (f := Reg.sys_OVL n) (hreg _)).trans (State.flag_opened_OVL _)
  · exact (State.fld_eq_of_reg (f := Reg.sys_CORE_MASK n) (hreg _)).trans ((State.fld_opened_CORE_MASK _).trans State.fld_asked_CORE_MASK)
  · rw [hslots, State.get_cleared_lslots _ n.isLt q i, hwin]

end StationTaken

/-! ## LOCK (R23) -/

section StationLock

variable {s : State} {n : Stn} {v : Nat} (hup : CoreUp s) (hr : s.inReset n = false) (hsame : v.testBit 0 = s.flag (Reg.sys_EN n))
include hup hr hsame

/-- A write that leaves EN as it is writes the fields, and the cores follow. -/
theorem State.busWrite_stationSame : s.busWrite (.core 16) (Reg.sys_EN n).off v =
    (s.counted (.core 16) (Reg.sys_EN n).off (s.draft (.core 16) (Reg.sys_EN n).off v)).stnFields n
      (s.draft (.core 16) (Reg.sys_EN n).off v) := by
  obtain ⟨hbit, -, -, -⟩ := s.draft_station_fields n v
  rw [State.busWrite_station n v hup hr]
  refine State.stnWrite_of_same n.isLt (hbit.trans (hsame.trans ?_))
  exact (State.flag_eq_of_reg (State.reg_counted_other _ _ _ _ (.inr (by simp only [Reg.sys_EN]; omega)))).symm

/-- The station's first register after such a write is as the fields leave it. -/
theorem State.reg_stationSame : (s.busWrite (.core 16) (Reg.sys_EN n).off v).reg (Reg.sys_EN n).off = (s.asked n v).reg (Reg.sys_EN n).off := by
  rw [State.busWrite_stationSame hup hr hsame, State.reg_stnFields _ _ _ n.isLt (by simp only [Reg.sys_EN]; omega), State.asked]

theorem State.stationLock_set (h : v.testBit 1 = true ∨ s.flag (Reg.sys_LOCK n) = true) :
    (s.busWrite (.core 16) (Reg.sys_EN n).off v).flag (Reg.sys_LOCK n) = true := by
  obtain ⟨-, hact, -, -⟩ := s.draft_station_fields n v
  rw [State.flag_eq_of_reg (f := Reg.sys_LOCK n) (State.reg_stationSame hup hr hsame), State.asked]
  refine State.flag_stnBits_LOCK _ _ _ (h.imp (hact.trans ·) fun h => ?_)
  exact (State.flag_eq_of_reg (State.reg_counted_other _ _ _ _ (.inr (by simp only [Reg.sys_LOCK]; omega)))).trans h

theorem State.stationLock_EN : (s.busWrite (.core 16) (Reg.sys_EN n).off v).flag (Reg.sys_EN n) = s.flag (Reg.sys_EN n) := by
  rw [State.flag_eq_of_reg (f := Reg.sys_EN n) (State.reg_stationSame hup hr hsame), State.flag_asked_EN _ n.isLt]

/-- A locked station keeps INTEG and CORE_MASK, and refuses other values. -/
theorem State.stationLock_frozen (hl : s.flag (Reg.sys_LOCK n) = true) : let t := s.busWrite (.core 16) (Reg.sys_EN n).off v
    t.fld (Reg.sys_INTEG n) = s.fld (Reg.sys_INTEG n) ∧ t.fld (Reg.sys_CORE_MASK n) = s.fld (Reg.sys_CORE_MASK n) ∧
      (bitsOf v 5 4 ≠ s.fld (Reg.sys_INTEG n) ∨ bitsOf v 31 16 ≠ s.fld (Reg.sys_CORE_MASK n) → Reported s t 0 0x07) := by
  obtain ⟨-, -, hmask, hfrozen⟩ := s.draft_station_fields n v
  obtain ⟨hinteg, hrefused⟩ := hfrozen hl
  rw [hl, if_pos rfl] at hmask
  have hreg := State.reg_stationSame hup hr hsame
  refine ⟨?_, ?_, fun hne => ?_⟩
  · rw [State.fld_eq_of_reg (f := Reg.sys_INTEG n) hreg, State.asked, State.fld_stnBits_INTEG, hinteg]
  · rw [State.fld_eq_of_reg (f := Reg.sys_CORE_MASK n) hreg, State.fld_asked_CORE_MASK, State.askedCores, hl, if_pos rfl]
  · have hkeep : (s.counted (.core 16) (Reg.sys_EN n).off (s.draft (.core 16) (Reg.sys_EN n).off v)).fld (Reg.sys_CORE_MASK n) =
        s.fld (Reg.sys_CORE_MASK n) :=
      State.fld_eq_of_reg (State.reg_counted_other _ _ _ _ (.inr (by simp only [Reg.sys_CORE_MASK]; omega)))
    have hrep := State.reported_counted s (.core 16) (Reg.sys_EN n).off (hrefused.trans (decide_eq_true hne))
    rw [stationOff_page] at hrep
    rw [State.busWrite_stationSame hup hr hsame, State.stnFields_eq_stnBits _ _ _ (.inr (hmask.trans hkeep.symm)), State.stnBits_frame]
    exact hrep

end StationLock

/-! ## The ledger (R370) -/

section Ledger

variable {s : State} (n : Stn) (v : Nat)

/-- The rows of a ledger's place: BASE and LEN. -/
def ledgerBaseRow : FieldRow := ⟨0x410, [(0x10, 8)], 43, 12, .rw, 0, .stn, none, false, false, .stn⟩
def ledgerLenRow : FieldRow := ⟨0x410, [(0x10, 8)], 55, 48, .rw, 0, .stn, none, false, false, .stn⟩

theorem rowsAt_ledger : ∀ n : Stn, rowsAt (Reg.sys_BASE n).off = [(ledgerBaseRow, [n.val]), (ledgerLenRow, [n.val])] := by decide +kernel

theorem ledgerOff_page : (Reg.sys_BASE n).off / 0x1_0000 = 0 := by
  simp only [Reg.sys_BASE]
  omega

/-- The word that a write of a ledger's place stores. -/
def State.ledgerWord (s : State) (n v : Nat) : Nat :=
  insertBits (insertBits (s.reg (Reg.sys_BASE n).off) 43 12 (bitsOf v 43 12)) 55 48 (bitsOf v 55 48)

theorem State.draft_ledger : s.draft .host (Reg.sys_BASE n).off v = ⟨s.ledgerWord n v, 0, false, false⟩ := by
  have hround (x : Nat) : roundOf (Reg.sys_BASE n).off x = x := by
    have hoff : (Reg.sys_BASE n).off < 0x500 := by simp only [Reg.sys_BASE]; omega
    rw [roundOf, if_neg (by omega), if_neg (by omega)]
  have hclamp (r : FieldRow) (hb : r.base = 0x410) (hr : r.rng = none) (x : Nat) : s.clampOf (Reg.sys_BASE n).off r x = x := by
    rw [State.clampOf, ledgerOff_page]
    simp [blkOf, hb, hr]
  have htaken (r : FieldRow) (ha : r.acc = .rw) (hmay : s.mayWrite .host (Reg.sys_BASE n).off (r, [n.val]) = true)
      (hb : r.base = 0x410) (hr : r.rng = none) (w : Nat) :
      s.draftField .host (Reg.sys_BASE n).off v ⟨w, 0, false, false⟩ (r, [n.val]) =
        ⟨insertBits w r.hi r.lo (bitsOf v r.hi r.lo), 0, false, false⟩ := by
    have hlock : s.lockedAt (Reg.sys_BASE n).off (r, [n.val]) = false := by
      rw [State.lockedAt, ledgerOff_page]
      simp [blkOf, ha]
    rw [State.draftField_taken (.inl ha) hmay hlock, hclamp r hb hr, hround]
    simp
  have hfit (w : Nat) : fitWord (Reg.sys_BASE n).off w = w := by
    have hoff : 0x300 ≤ (Reg.sys_BASE n).off := by simp only [Reg.sys_BASE]; omega
    simp only [fitWord, ledgerOff_page]
    rw [if_neg (by omega), if_neg (by omega)]
  rw [State.draft, rowsAt_ledger]
  simp only [List.foldl_cons, List.foldl_nil, htaken ledgerBaseRow rfl rfl rfl rfl, htaken ledgerLenRow rfl rfl rfl rfl, hfit]
  simp [State.ledgerWord, ledgerBaseRow, ledgerLenRow]

theorem State.regEffect_ledger (m : State) (who : Master) (d : Draft) : m.regEffect who (Reg.sys_BASE n).off v d =
    if d.word = m.reg (Reg.sys_BASE n).off then m else (m.setReg (Reg.sys_BASE n).off d.word).setFld (Reg.sys_HEAD n) 0 := by
  have hmod : (Reg.sys_BASE n).off % 0x1_0000 = (Reg.sys_BASE n).off := Nat.mod_eq_of_lt (by simp only [Reg.sys_BASE]; omega)
  have hlow : ¬ (Reg.sys_BASE n).off < 0x100 := by simp only [Reg.sys_BASE]; omega
  have hstn : ((Reg.sys_BASE n).off - 0x410) / 0x10 = n := by simp only [Reg.sys_BASE]; omega
  have hsys : m.sysWrite who (Reg.sys_BASE n).off d =
      if d.word = m.reg (Reg.sys_BASE n).off then m
      else (m.setReg (Reg.sys_BASE n).off d.word).setFld (Reg.sys_HEAD (((Reg.sys_BASE n).off - 0x410) / 0x10)) 0 := by
    have hrange : 0x410 ≤ (Reg.sys_BASE n).off ∧ (Reg.sys_BASE n).off < 0x490 := by simp only [Reg.sys_BASE]; omega
    rw [State.sysWrite, if_neg (by omega), if_neg (by omega), if_neg (by omega), if_pos hrange]
  rw [hstn] at hsys
  rw [State.regEffect, ledgerOff_page, hmod, if_neg hlow]
  exact hsys

theorem State.busWrite_ledger (hup : HostUp s) : s.busWrite .host (Reg.sys_BASE n).off v =
    if s.ledgerWord n v = s.reg (Reg.sys_BASE n).off then s
    else (s.setReg (Reg.sys_BASE n).off (s.ledgerWord n v)).setFld (Reg.sys_HEAD n) 0 := by
  have hdrop : s.enDropped (Reg.sys_BASE n).off v = false := by
    rw [State.enDropped, decide_eq_false (by simp only [Reg.sys_BASE]; omega), Bool.false_and, Bool.false_and]
  rw [State.busWrite_taken (reaches_of_hostUp hup) (by rw [ledgerOff_page]; decide)
    ⟨_, by rw [rowsAt_ledger]; exact List.mem_cons_self, by simp [ledgerBaseRow], rfl⟩ hdrop, State.draft_ledger,
    State.counted_of_not_refused _ _ _ rfl, if_neg Bool.false_ne_true, State.regEffect_ledger]

theorem insertBits_self (w hi lo : Nat) (h : lo ≤ hi) : insertBits w hi lo (bitsOf w hi lo) = w := by
  refine Nat.eq_of_testBit_eq fun k => ?_
  rw [testBit_insertBits _ _ _ _ _ h, testBit_bitsOf]
  split
  · next hk => simp [show k - lo < hi + 1 - lo by omega, show lo + (k - lo) = k by omega]
  · rfl

theorem fld_ledgerWord_BASE : bitsOf (s.ledgerWord n v) 43 12 = bitsOf v 43 12 := by
  rw [State.ledgerWord, bitsOf_insertBits_apart _ _ _ _ _ _ (by decide) (by decide), bitsOf_insertBits_same _ _ _ _ (by decide)]
  exact Nat.mod_eq_of_lt (Nat.mod_lt _ (by decide))

theorem fld_ledgerWord_LEN : bitsOf (s.ledgerWord n v) 55 48 = bitsOf v 55 48 := by
  rw [State.ledgerWord, bitsOf_insertBits_same _ _ _ _ (by decide)]
  exact Nat.mod_eq_of_lt (Nat.mod_lt _ (by decide))

/-- The register keeps its value exactly where BASE and LEN keep theirs. -/
theorem State.ledgerWord_eq_iff : s.ledgerWord n v = s.reg (Reg.sys_BASE n).off ↔
    bitsOf v 43 12 = s.fld (Reg.sys_BASE n) ∧ bitsOf v 55 48 = s.fld (Reg.sys_LEN n) := by
  have hfld (hi lo : Nat) (h : s.ledgerWord n v = s.reg (Reg.sys_BASE n).off) :
      bitsOf (s.reg (Reg.sys_BASE n).off) hi lo = bitsOf (s.ledgerWord n v) hi lo := by rw [h]
  refine ⟨fun h => ⟨?_, ?_⟩, fun ⟨hb, hl⟩ => ?_⟩
  · exact (fld_ledgerWord_BASE n v).symm.trans (hfld 43 12 h).symm
  · exact (fld_ledgerWord_LEN n v).symm.trans (hfld 55 48 h).symm
  · rw [State.ledgerWord, hb, hl]
    exact (congrArg (insertBits · 55 48 _) (insertBits_self _ _ _ (by decide))).trans (insertBits_self _ _ _ (by decide))

/-- A ledger whose place changes restarts (R370). -/
theorem State.ledger_changed : let t := (s.setReg (Reg.sys_BASE n).off (s.ledgerWord n v)).setFld (Reg.sys_HEAD n) 0
    t.fld (Reg.sys_BASE n) = bitsOf v 43 12 ∧ t.fld (Reg.sys_LEN n) = bitsOf v 55 48 ∧ t.fld (Reg.sys_HEAD n) = 0 ∧
      t = { s with regs := t.regs } := by
  have hplace : ((s.setReg (Reg.sys_BASE n).off (s.ledgerWord n v)).setFld (Reg.sys_HEAD n) 0).reg (Reg.sys_BASE n).off =
      (s.setReg (Reg.sys_BASE n).off (s.ledgerWord n v)).reg (Reg.sys_BASE n).off :=
    State.reg_setFld_other _ (Reg.sys_HEAD n) _ (by simp only [Reg.sys_BASE, Reg.sys_HEAD]; omega)
  refine ⟨?_, ?_, State.fld_setFld_same _ _ _ (by simp [Reg.sys_HEAD]) (by simp [Reg.sys_HEAD]), rfl⟩
  · exact (State.fld_eq_of_reg hplace).trans ((State.fld_setReg_same _ (Reg.sys_BASE n) _ (by simp [Reg.sys_BASE])).trans
      (fld_ledgerWord_BASE n v))
  · exact (State.fld_eq_of_reg (f := Reg.sys_LEN n) hplace).trans ((State.fld_setReg_same _ (Reg.sys_LEN n) _ (by simp [Reg.sys_LEN])).trans
      (fld_ledgerWord_LEN n v))

end Ledger

theorem exec_stationEnable (m : Master) (n : Stn) (v : Word) (s : State) :
    exec (.stationEnable m n v) s = .next (s.busWrite m (Reg.sys_EN n).off v.toNat) := rfl
theorem exec_stationLock (m : Master) (n : Stn) (v : Word) (s : State) :
    exec (.stationLock m n v) s = .next (s.busWrite m (Reg.sys_EN n).off v.toNat) := rfl
theorem exec_ledgerConfig (m : Master) (n : Stn) (v : Word) (s : State) :
    exec (.ledgerConfig m n v) s = .next (s.busWrite m (Reg.sys_BASE n).off v.toNat) := rfl

/-- Settles O44: a station's first register enables and locks it, by the trusted core alone, and its ledger's place restarts the ledger. -/
theorem stationsAreEnabled : Obligations.StationsAreEnabled := by
  unfold Obligations.StationsAreEnabled
  intro s n v hr
  refine ⟨fun hup hen hv => ⟨fun h => ?_, fun hne hnm => ?_⟩, fun hup hsame => ⟨fun hlock => ?_, fun hl => ?_⟩, fun hup => ⟨?_, ?_, ?_⟩⟩
  · have hcond : NoGrants (s.asked n v.toNat) n ∨ GrantsTaken (s.asked n v.toNat) n := h.imp noGrants_asked.mpr grantsTaken_asked.mpr
    rw [exec_stationEnable, State.busWrite_enable hup hr hen hv, State.enableTry_refused _ hcond]
    exact ⟨_, rfl, State.asked_refused hen⟩
  · have hg : ¬ GrantsTaken (s.asked n v.toNat) n := mt grantsTaken_asked.mp hnm
    have hcond : ¬ (NoGrants (s.asked n v.toNat) n ∨ GrantsTaken (s.asked n v.toNat) n) := not_or.mpr ⟨mt noGrants_asked.mp hne, hg⟩
    obtain ⟨hen', hovl, hmask, hslots⟩ := State.asked_enabled (s := s) (n := n) (v := v.toNat)
    rw [exec_stationEnable, State.busWrite_enable hup hr hen hv, State.enableTry_taken _ hcond, State.fld_asked_CORE_MASK]
    exact ⟨_, rfl, hen', hovl, hmask, State.asked_starts hr hg, hslots, fun w hw => State.asked_measure hw, State.asked_memory⟩
  · exact ⟨_, exec_stationLock _ n v s, State.stationLock_set hup hr hsame (.inl hlock), State.stationLock_EN hup hr hsame⟩
  · obtain ⟨hinteg, hmask, hrep⟩ := State.stationLock_frozen hup hr hsame hl
    exact ⟨_, exec_stationLock _ n v s, State.stationLock_set hup hr hsame (.inr hl), hinteg, hmask, hrep⟩
  · have hreg : (s.access 0 (mid .host) (s.masterStn .host) 1 (regAddr (Reg.sys_EN n).off)).reg (Reg.sys_EN n).off =
        s.reg (Reg.sys_EN n).off := State.reg_access_other _ _ _ _ _ _ (.inr (by simp only [Reg.sys_EN]; omega))
    rw [exec_stationEnable, State.busWrite_station_host n _ hup]
    exact ⟨_, rfl, State.flag_eq_of_reg hreg, State.fld_eq_of_reg (f := Reg.sys_CORE_MASK n) hreg, State.reported_access _ _ _ _ _ _⟩
  · intro hb hl
    rw [exec_ledgerConfig, State.busWrite_ledger n _ hup, if_pos ((State.ledgerWord_eq_iff n _).mpr ⟨hb, hl⟩)]
  · intro hne
    rw [exec_ledgerConfig, State.busWrite_ledger n _ hup,
      if_neg (fun h => not_and_or.mpr hne ((State.ledgerWord_eq_iff n _).mp h))]
    exact ⟨_, rfl, State.ledger_changed n _⟩

end Sys2Proof.Machine

/-! A flit at a link that takes it, and the answer it gets (R241, R255, R258 to R261). -/

namespace Sys2Proof.Machine

open Sys2Proof.Spec

/-! ## Links -/

section Links

variable (m : State)

@[simp] theorem State.link_setLink_same (p : Nat) (l : Link) : (m.setLink p l).link p = l := SMap.get_set_same _ _ _ _

theorem State.link_setLink_other {p q : Nat} (l : Link) (h : q ≠ p) : (m.setLink p l).link q = m.link q := SMap.get_set_other _ _ _ h

theorem State.link_setLink (p q : Nat) (l : Link) : (m.setLink p l).link q = if q = p then l else m.link q := SMap.get_set _ _ _ _ _

/-- A 64-bit counter wraps. -/
theorem State.fld_bump_wide (f : Fld) (k : Nat) (hlo : f.lo = 0) (hhi : f.hi = 63) : (m.bump f k).fld f = (m.fld f + k) % 2 ^ 64 := by
  rw [State.bump, State.fld_setFld_same m f _ (by omega) (by omega), hlo, hhi]
  rfl

/-- A flit queued at a port is the last of its queue. -/
theorem State.txq_queue (p : Nat) (f : Flit) (x : Nat) :
    ((m.txq p f).link x).txq = if x = p then (m.link p).txq ++ [f] else (m.link x).txq := by
  rw [State.txq, State.link_setLink]
  split <;> rfl

/-- What queueing a flit leaves of a link. -/
theorem State.txq_link (p : Nat) (f : Flit) (x : Nat) : (m.txq p f).link x = { m.link x with txq := ((m.txq p f).link x).txq } := by
  rw [State.txq, State.link_setLink]
  split
  · next h =>
    subst h
    rfl
  · rfl

end Links

/-! ## A flit that the link takes (R241, R244) -/

/-- t is s once the link at p has taken flit f, its cells owed or not: links and RX_FLITS alone have changed, and of the links
nothing that waits to be sent. -/
def LinkTook (s t : State) (p : Port) (f : Flit) (owe : Bool) : Prop :=
  t = { s with links := t.links, regs := t.regs } ∧
  (∀ o, o ≠ (Reg.kp_RX_FLITS p).off → t.reg o = s.reg o) ∧
  (∀ x, (t.link x).txq = (s.link x).txq ∧ (t.link x).pdelay = (s.link x).pdelay) ∧
  (t.link p).rxNext = ((s.link p).rxNext + 1) % 2 ^ 32 ∧
  (t.link p).owed = (if owe then (s.link p).owed ++ [(f.vc, cellsOf s p f)] else (s.link p).owed) ∧
  t.fld (Reg.kp_RX_FLITS p) = (s.fld (Reg.kp_RX_FLITS p) + 1) % 2 ^ 64

section Arrive

variable {s : State} {p : Port} {f : Flit}

/-- Credit that is out comes back without a report, and without a change of what is received or waits. -/
theorem State.credit_of_out (ack crd vc : Nat) (hup : s.fld (Reg.kp_LSTATE p) = 5)
    (hcrd : crd ≤ (s.link p).resv.sum + (s.link p).shared.sum) :
    ∃ l, s.credit p ack crd vc = s.setLink p l ∧ l.txq = (s.link p).txq ∧ l.pdelay = (s.link p).pdelay ∧
      l.rxNext = (s.link p).rxNext ∧ l.owed = (s.link p).owed := by
  have hstate : ¬ (s.fld (Reg.kp_LSTATE p) < 3 ∨ LState.failed ≤ s.fld (Reg.kp_LSTATE p)) := by rw [hup]; decide
  unfold State.credit
  rw [if_neg hstate]
  dsimp only
  rw [if_neg (by omega)]
  exact ⟨_, rfl, rfl, rfl, rfl, rfl⟩

theorem flitCells_eq (s : State) (p : Port) (f : Flit) : flitCells f (s.isMetro p) = cellsOf s p f := by
  rw [flitCells, cellsOf, State.isMetro]
  cases s.flag (Reg.kp_METRO p) <;> simp [b2n, List.isEmpty_iff]

/-- A link once it has taken flit f of some cells. -/
def Link.taken (l : Link) (f : Flit) (owe : Bool) (cells : Nat) : Link :=
  { l with
    rxNext := (l.rxNext + 1) % 2 ^ 32
    discard := false
    nakFor := l.nakFor.filter (fun s => decide (s ≠ l.rxNext))
    held := l.held.filter (fun g => decide (g.lh.seq ≠ l.rxNext))
    owed := if owe then l.owed ++ [(f.vc, cells)] else l.owed }

theorem State.rxCount_eq (m : State) (p : Nat) (f : Flit) (owe : Bool) : m.rxCount p f owe =
    (m.setLink p ((m.link p).taken f owe (flitCells f (m.isMetro p && m.linkUp p)))).bump (Reg.kp_RX_FLITS p) 1 := rfl

/-- The flit is counted, and expected no more. -/
theorem State.linkTook_rxCount {m : State} {l : Link} (owe : Bool) (hm : m = s.setLink p l) (hup : s.fld (Reg.kp_LSTATE p) = 5)
    (htxq : l.txq = (s.link p).txq) (hpd : l.pdelay = (s.link p).pdelay) (hrx : l.rxNext = (s.link p).rxNext)
    (howed : l.owed = (s.link p).owed) : LinkTook s (m.rxCount p f owe) p f owe := by
  subst hm
  have hcells : flitCells f ((s.setLink p l).isMetro p && (s.setLink p l).linkUp p) = cellsOf s p f := by
    have hlink : (s.setLink p l).linkUp p = true := decide_eq_true hup
    rw [hlink, Bool.and_true]
    exact flitCells_eq s p f
  have hlink (x : Nat) : ((s.setLink p l).rxCount p f owe).link x = if x = p.val then l.taken f owe (cellsOf s p f) else s.link x := by
    rw [State.rxCount_eq, hcells, State.link_setLink_same]
    refine (State.link_setLink _ _ _ _).trans ?_
    split
    · rfl
    · next h => exact State.link_setLink_other _ _ h
  refine ⟨rfl, fun o ho => State.reg_bump_other _ _ _ ho, fun x => ?_, ?_, ?_, State.fld_bump_wide _ _ _ rfl rfl⟩
  · rw [hlink]
    split
    · next h => exact h ▸ ⟨htxq, hpd⟩
    · exact ⟨rfl, rfl⟩
  · rw [hlink, if_pos rfl, ← hrx]
    rfl
  · rw [hlink, if_pos rfl, ← howed]
    rfl

/-- Port p takes the flit that arrives (R241). -/
theorem State.arrive_takes (owe : Bool) (hup : s.fld (Reg.kp_LSTATE p) = 5) (h : LinkTakes s p f) :
    ∃ t, s.arrive p f owe = (t, true) ∧ LinkTook s t p f owe := by
  obtain ⟨hloop, hinj0, hinj1, htyp, hseq, hcrd, hkey⟩ := h
  obtain ⟨l, hcredit, htxq, hpd, hrx, howed⟩ := State.credit_of_out (s := s) (p := p) f.lh.ack f.lh.crd f.lh.crdVc hup hcrd
  have hinject : s.rxInject p = none := by
    rw [State.rxInject, kpPage, hinj0, hinj1]
    simp
  have hkeyed : ¬ (s.isMetro p ∧ s.linkUp p ∧ !(f.lh.enc && s.slotLoaded p f.lh.key)) := by
    rintro ⟨hmetro, -, hno⟩
    obtain ⟨henc, hload⟩ := hkey hmetro hup
    simp [henc, State.slotLoaded, hload] at hno
  refine ⟨_, ?_, State.linkTook_rxCount owe hcredit hup htxq hpd hrx howed⟩
  unfold State.arrive
  rw [hinject, if_neg (by simp [hloop])]
  dsimp only
  rw [if_neg (by omega), if_neg hkeyed, hcredit, State.link_setLink_same, if_pos (hseq.trans hrx.symm)]

end Arrive

/-! ## Routes, and the way back (R258 to R260) -/

/-- s and t choose the same routes, and the same flits wait at their ports. -/
def NetSame (s t : State) : Prop :=
  t.routes = s.routes ∧ t.reg Reg.krt_NODEID.off = s.reg Reg.krt_NODEID.off ∧
  (∀ x, t.reg (Reg.kp_LSTATE x).off = s.reg (Reg.kp_LSTATE x).off) ∧ ∀ x, (t.link x).txq = (s.link x).txq

section NetSame

variable {s t u : State}

theorem netSame_trans (h : NetSame s t) (k : NetSame t u) : NetSame s u := by
  obtain ⟨hroutes, hnode, hstate, htxq⟩ := h
  obtain ⟨kroutes, knode, kstate, ktxq⟩ := k
  exact ⟨kroutes.trans hroutes, knode.trans hnode, fun x => (kstate x).trans (hstate x), fun x => (ktxq x).trans (htxq x)⟩

/-- Registers beside NODEID's and the links' states choose no route. -/
theorem netSame_of_reg (hroutes : t.routes = s.routes) (hlinks : t.links = s.links)
    (hreg : ∀ o, 0x44_0000 ≤ o → (o = 0x84_0100 ∨ o % 0x1_0000 = 0x108) → t.reg o = s.reg o) : NetSame s t := by
  refine ⟨hroutes, hreg _ (by decide) (.inl rfl), fun x => hreg _ ?_ (.inr ?_), fun x => ?_⟩
  · simp only [Reg.kp_LSTATE]
    omega
  · simp only [Reg.kp_LSTATE]
    omega
  · rw [State.link, hlinks, State.link]

variable (h : NetSame s t)
include h

theorem NetSame.valid : t.flag Reg.krt_VALID = s.flag Reg.krt_VALID := State.flag_eq_of_reg h.2.1

theorem NetSame.srcId : t.srcId = s.srcId := by
  obtain ⟨-, hnode, -, -⟩ := h
  rw [State.srcId, State.srcId, State.nodeId, State.nodeId, State.flag_eq_of_reg (f := Reg.krt_VALID) hnode,
    State.fld_eq_of_reg (f := Reg.krt_NODEID) hnode]

theorem NetSame.routeOf (src dst flow : Nat) : t.routeOf src dst flow = s.routeOf src dst flow := by
  obtain ⟨hroutes, hnode, hstate, -⟩ := h
  have hid : t.nodeId = s.nodeId := State.fld_eq_of_reg (f := Reg.krt_NODEID) hnode
  have hentry : t.routeEntry dst = s.routeEntry dst := by rw [State.routeEntry, State.routeEntry, hid, hroutes]
  have hup : t.linkUp = s.linkUp := funext fun x => by
    rw [State.linkUp, State.linkUp, State.fld_eq_of_reg (f := Reg.kp_LSTATE x) (hstate x)]
  rw [State.routeOf, State.routeOf, hid, hentry, hup]

end NetSame

theorem LinkTook.netSame {s t : State} {p : Port} {f : Flit} {owe : Bool} (h : LinkTook s t p f owe) : NetSame s t := by
  obtain ⟨heq, hreg, htxq, -, -, -⟩ := h
  refine ⟨by rw [heq], hreg _ ?_, fun x => hreg _ ?_, fun x => (htxq x).1⟩ <;>
    simp only [Reg.kp_RX_FLITS, Reg.krt_NODEID, Reg.kp_LSTATE] <;> omega

theorem LinkTook.received {s t : State} {p : Port} {f : Flit} (h : LinkTook s t p f true) : Received s t p f := by
  obtain ⟨-, -, -, hrx, howed, hcount⟩ := h
  exact ⟨hrx, howed, hcount⟩

/-! ## Answers -/

/-- An opcode that names no request: a flit of it that a DELIVER entry returns is served by nothing here. -/
def AnswerOp (op : Nat) : Prop := op ≠ Op.wr ∧ op ≠ Op.rd ∧ op ≠ Op.cntAdd ∧ op ≠ Op.tagw

section Respond

variable (m : State) (p : Nat) (req : Flit) {r : Flit}

theorem State.loopFlit_of_answer (h : AnswerOp r.op) : (m.loopFlit r).1 = m := by
  obtain ⟨hwr, hrd, hcnt, htag⟩ := h
  rw [State.loopFlit, if_neg hwr, if_neg hrd, if_neg hcnt, if_neg htag]

/-- An answer waits at a port, or is gone: links and the count of unrouted flits alone change, and of the links what waits. -/
def Queued (m t : State) : Prop :=
  t = { m with links := t.links, regs := t.regs } ∧ (∀ o, o ≠ Reg.krt_NOROUTE.off → t.reg o = m.reg o) ∧
  ∀ x, t.link x = { m.link x with txq := (t.link x).txq }

theorem queued_refl : Queued m m := ⟨rfl, fun _ _ => rfl, fun _ => rfl⟩

theorem queued_txq (f : Flit) : Queued m (m.txq p f) := ⟨rfl, fun _ _ => rfl, m.txq_link p f⟩

theorem queued_noRoute : Queued m (m.bump Reg.krt_NOROUTE 1) := ⟨rfl, fun _ h => State.reg_bump_other _ _ _ h, fun _ => rfl⟩

theorem State.queued_sendFlit (h : AnswerOp r.op) : Queued m (m.sendFlit r).1 := by
  rw [State.sendFlit]
  split
  · exact queued_refl m
  · split
    · exact queued_txq m _ _
    · rw [m.loopFlit_of_answer h]
      exact queued_refl m
    · exact queued_noRoute m

theorem State.queued_respond (h : AnswerOp r.op) : Queued m (m.respond p req r) := by
  rw [State.respond]
  split
  · exact queued_txq m _ _
  · exact m.queued_sendFlit h

end Respond

theorem NetSame.mkReply {s t : State} (h : NetSame s t) (f : Flit) (op len addr psn : Nat) (payload : List Byte) :
    t.mkReply f op len addr psn payload = s.mkReply f op len addr psn payload := by
  rw [State.mkReply, State.mkReply, h.srcId]

/-- The answer to a flit waits where its way back leaves (R255, R260). -/
theorem NetSame.replies {s m t : State} {p : Port} {f : Flit} (h : NetSame s m) (op len addr psn : Nat) (payload : List Byte)
    (ht : t.links = (m.respond p f (s.mkReply f op len addr psn payload)).links) : Replies s t p f op len addr psn payload := by
  have hlink (x : Nat) : t.link x = (m.respond p f (s.mkReply f op len addr psn payload)).link x := by rw [State.link, ht, State.link]
  obtain ⟨-, -, -, htxq⟩ := id h
  refine ⟨_, rfl, fun hlocal => ?_, fun x hglobal hvalid hroute => ?_⟩
  · rw [hlink, State.respond, if_pos hlocal, State.txq_queue, if_pos rfl, htxq]
    rfl
  · have hport : m.routeOf (s.mkReply f op len addr psn payload).src (s.mkReply f op len addr psn payload).dst
        (s.mkReply f op len addr psn payload).flow = .port x := by
      rw [h.routeOf]
      exact hroute
    have hready : m.flag Reg.krt_VALID = true := h.valid.trans hvalid
    have hsent : (m.sendFlit (s.mkReply f op len addr psn payload)).1 = m.txq x (s.mkReply f op len addr psn payload) := by
      rw [State.sendFlit, hready, hport]
      rfl
    rw [hlink, State.respond, if_neg hglobal, hsent, State.txq_queue, if_pos rfl, htxq]
    rfl

/-- What keeps the links keeps what they have received. -/
theorem received_of_links {s m t : State} {p : Port} {f : Flit} (h : Received s m p f)
    (hlink : (t.link p).rxNext = (m.link p).rxNext ∧ (t.link p).owed = (m.link p).owed)
    (hreg : t.reg (Reg.kp_RX_FLITS p).off = m.reg (Reg.kp_RX_FLITS p).off) : Received s t p f := by
  obtain ⟨hrx, howed, hcount⟩ := h
  exact ⟨hlink.1.trans hrx, hlink.2.trans howed, (State.fld_eq_of_reg hreg).trans hcount⟩

/-- A flit that has been taken, served and answered: it is received, its answer waits, and memory and the events are as serving
left them. -/
theorem LinkTook.answered {s m u : State} {p : Port} {f : Flit} (h : LinkTook s m p f true) (hlinks : u.links = m.links)
    (hroutes : u.routes = m.routes)
    (hreg : ∀ o, 0x44_0000 ≤ o → 0x100 ≤ o % 0x1_0000 → o ≠ Reg.krt_NOROUTE.off → u.reg o = m.reg o) {op : Nat} (hop : AnswerOp op)
    (len addr psn : Nat) (payload : List Byte) :
    let t := u.respond p f (s.mkReply f op len addr psn payload)
    Received s t p f ∧ Replies s t p f op len addr psn payload ∧ t.mem = u.mem ∧ t.poison = u.poison ∧ t.events = u.events := by
  obtain ⟨heq, hqreg, hqlink⟩ := u.queued_respond p f (r := s.mkReply f op len addr psn payload) hop
  have hnet : NetSame s u := netSame_trans h.netSame (netSame_of_reg hroutes hlinks fun o ho ho' =>
    hreg o ho (by omega) (by simp only [Reg.krt_NOROUTE]; omega))
  have hlink : u.link p = m.link p := by rw [State.link, hlinks, State.link]
  have hrx : 0x44_0000 ≤ (Reg.kp_RX_FLITS p).off ∧ 0x100 ≤ (Reg.kp_RX_FLITS p).off % 0x1_0000 ∧ (Reg.kp_RX_FLITS p).off ≠ Reg.krt_NOROUTE.off := by
    simp only [Reg.kp_RX_FLITS, Reg.krt_NOROUTE]
    omega
  refine ⟨received_of_links h.received ?_ ((hqreg _ hrx.2.2).trans (hreg _ hrx.1 hrx.2.1 hrx.2.2)), hnet.replies _ _ _ _ _ rfl, ?_, ?_, ?_⟩
  · rw [← hlink]
    rw [hqlink]
    exact ⟨rfl, rfl⟩
  · rw [heq]
  · rw [heq]
  · rw [heq]

/-! ## A flit for this module (R255, R259) -/

/-- What serves the flit comes after the link has taken it. -/
theorem State.onFlit_arrives {s : State} {p : Port} {f : Flit} {op : Nat} (h : Arrives s p f op) (k : State → State) :
    ∃ m, s.onFlit p f op k = k m ∧ LinkTook s m p f true := by
  obtain ⟨hsafe, hup, hop, htakes, hhere⟩ := h
  obtain ⟨m, harrive, htook⟩ := State.arrive_takes true hup htakes
  have hready : s.notReady f = false := by
    rcases hhere with hlocal | ⟨hvalid, -⟩
    · simp [State.notReady, hlocal]
    · simp [State.notReady, hvalid]
  have hme : s.forMe f = true := by
    rcases hhere with hlocal | ⟨-, hroute⟩
    · simp [State.forMe, State.routeOf, hlocal]
    · exact decide_eq_true hroute
  refine ⟨m, ?_, htook⟩
  rw [State.onFlit, if_neg (by simp [hsafe, State.linkUp, hup, LState.up, hop]), if_neg (by simp [hme]), harrive]
  dsimp only
  rw [if_neg (by simp), if_neg (by simp [hready])]

theorem State.forMe_of_arrives {s : State} {p : Port} {f : Flit} {op : Nat} (h : Arrives s p f op) : s.forMe f = true := by
  obtain ⟨-, -, -, -, hlocal | ⟨-, hroute⟩⟩ := h
  · simp [State.forMe, State.routeOf, hlocal]
  · exact decide_eq_true hroute

/-! ## Who serves an address (R24, R26) -/

section Served

variable {s t : State} (hreg : ∀ o, o < 0x44_0000 → 0x100 ≤ o % 0x1_0000 → t.reg o = s.reg o)

/-- There are 48 Crock slices. -/
theorem crock_lt {a k : Nat} (h : regionOf a = .crock k) : k < 48 := by
  simp only [regionOf, ite_eq_iff, reduceCtorEq, and_false, false_or, or_false, Region.crock.injEq] at h
  omega

theorem findRange_congr {n : Nat} {p q : Nat → Bool} (h : ∀ i, i < n → p i = q i) : (List.range n).find? p = (List.range n).find? q :=
  List.find?_congr fun i hi => h i (List.mem_range.mp hi)

include hreg

theorem State.stnOn_congr {n : Nat} (hn : n < 8) : t.stnOn n = s.stnOn n :=
  State.flag_eq_of_reg (hreg _ (by simp only [Reg.sys_EN]; omega) (by simp only [Reg.sys_EN]; omega))

theorem State.gibStn_congr (g : Nat) : t.gibStn g = s.gibStn g := by
  refine findRange_congr fun n hn => ?_
  rw [State.stnOn_congr hreg hn]
  congr 1
  refine anyRange_congr fun k hk => ?_
  have hrange : t.reg (Reg.sys_VALID n k).off = s.reg (Reg.sys_VALID n k).off :=
    hreg _ (by simp only [Reg.sys_VALID]; omega) (by simp only [Reg.sys_VALID]; omega)
  rw [State.rangeHas, State.rangeHas, State.flag_eq_of_reg hrange, State.fld_eq_of_reg (f := Reg.sys_BASE_GIB n k) hrange,
    State.fld_eq_of_reg (f := Reg.sys_LAST_GIB n k) hrange]

theorem State.sliceStn_congr (k : Nat) : t.sliceStn k = s.sliceStn k := by
  refine findRange_congr fun n hn => ?_
  rw [State.stnOn_congr hreg hn,
    State.fld_eq_of_reg (f := Reg.sys_CRK_MASK n) (hreg _ (by simp only [Reg.sys_CRK_MASK]; omega) (by simp only [Reg.sys_CRK_MASK]; omega))]

theorem State.sliceCache_congr {k : Nat} (hk : k < 48) : t.sliceCache k = s.sliceCache k :=
  State.flag_eq_of_reg (hreg _ (by simp only [Reg.crk_MODE]; omega) (by simp only [Reg.crk_MODE]; omega))

/-- Who serves an address is told by the stations' grants and the slices' modes. -/
theorem State.servedAt_congr (a : Nat) : t.servedAt a = s.servedAt a := by
  unfold State.servedAt
  cases hr : regionOf a with
  | hbm g => simp only [State.gibStn_congr hreg]
  | crock k => simp only [State.sliceStn_congr hreg, State.sliceCache_congr hreg (crock_lt hr)]
  | _ => rfl

theorem State.servedBy_congr (a len : Nat) : t.servedBy a len = s.servedBy a len := by
  rw [State.servedBy, State.servedBy, State.servedAt_congr hreg, State.servedAt_congr hreg]

omit hreg

theorem State.servedAt_lt {a n : Nat} (h : s.servedAt a = .stn n) : n < 8 := by
  have hfind {q : Nat → Bool} {k : Nat} (hk : (List.range 8).find? q = some k) : k < 8 :=
    List.mem_range.mp (List.mem_of_find?_eq_some hk)
  unfold State.servedAt at h
  cases hr : regionOf a <;> simp only [hr] at h
  case hbm g =>
    split at h
    · cases h
    · split at h
      · next k hk =>
        cases h
        exact hfind hk
      · cases h
  case crock k =>
    split at h
    · cases h
    · split at h
      · next k hk =>
        cases h
        exact hfind hk
      · cases h
  all_goals cases h

/-- A range that a station serves begins at an address that it serves. -/
theorem State.servedAt_of_servedBy {a len n : Nat} (h : s.servedBy a len = .stn n) : s.servedAt a = .stn n := by
  unfold State.servedBy at h
  cases h1 : s.servedAt a <;> cases h2 : s.servedAt (a + len - 1) <;> simp only [h1, h2, reduceCtorEq] at h
  split at h
  · next e => rw [← h, e]
  · cases h

/-- A station that serves a range is one of the eight. -/
theorem State.servedBy_lt {a len n : Nat} (h : s.servedBy a len = .stn n) : n < 8 := State.servedAt_lt (State.servedAt_of_servedBy h)

end Served

end Sys2Proof.Machine

/-! What an access of memory leaves as it was: no injection armed, and no line kept (R217 to R223, R230 to R232). -/

namespace Sys2Proof.Machine

open Sys2Proof.Spec

/-! ## What an access does beside its bytes -/

/-- Pages of the Crock and of the memory controllers, beyond their headers: the registers an access may count in. -/
def MemReg (o : Nat) : Prop := 0x2C ≤ o / 0x1_0000 ∧ o / 0x1_0000 < 0x44 ∧ 0x100 ≤ o % 0x1_0000

/-- t is s but for what an access of memory counts, charges and caches: no byte, no mark of poison and no injection differs. -/
def AccessOnly (s t : State) : Prop :=
  s.MemOnly t ∧ t.mem = s.mem ∧ t.poison = s.poison ∧ t.flight = s.flight ∧ ∀ o, ¬ MemReg o → t.reg o = s.reg o

section AccessOnly

variable {s t u : State}

theorem accessOnly_refl (s : State) : AccessOnly s s := ⟨.refl s, rfl, rfl, rfl, fun _ _ => rfl⟩

theorem accessOnly_trans (h : AccessOnly s t) (k : AccessOnly t u) : AccessOnly s u := by
  obtain ⟨hm, hb, hp, hf, hr⟩ := h
  obtain ⟨km, kb, kp, kf, kr⟩ := k
  exact ⟨hm.trans km, kb.trans hb, kp.trans hp, kf.trans hf, fun o ho => (kr o ho).trans (hr o ho)⟩

/-- No access arms an injection. -/
theorem calm_of_accessOnly (h : AccessOnly s t) (hc : Calm s) : Calm t := fun page => by
  obtain ⟨-, -, -, -, hr⟩ := h
  exact (State.flag_eq_of_reg (hr _ fun ⟨_, _, hlow⟩ => by simp only [Reg.hdr_ARMED] at hlow; omega)).trans (hc page)

/-- Steps that are each an access are one together. -/
theorem accessOnly_foldl {β : Type} {f : State → β → State} (l : List β) (hf : ∀ m b, b ∈ l → Calm m → AccessOnly m (f m b)) (hc : Calm s) :
    AccessOnly s (l.foldl f s) := by
  induction l generalizing s with
  | nil => exact accessOnly_refl s
  | cons b l ih =>
    have hstep := hf s b List.mem_cons_self hc
    exact accessOnly_trans hstep (ih (fun m x hx => hf m x (List.mem_cons_of_mem _ hx)) (calm_of_accessOnly hstep hc))

theorem accessOnly_bump (m : State) (f : Fld) (k : Nat) (h : MemReg f.off) : AccessOnly m (m.bump f k) :=
  ⟨.bump m f k, rfl, rfl, rfl, fun _ ho => State.reg_bump_other _ _ _ fun e => ho (e ▸ h)⟩

/-- Bookkeeping that touches none of memory, poison, flight and the registers. -/
theorem accessOnly_of_eq (hm : s.MemOnly t) (hb : t.mem = s.mem) (hp : t.poison = s.poison) (hf : t.flight = s.flight)
    (hr : t.regs = s.regs) : AccessOnly s t := ⟨hm, hb, hp, hf, fun o _ => by rw [State.reg, hr, State.reg]⟩

end AccessOnly

/-! ## The steps of an access -/

section Access

variable (m : State)

/-- A stack is one of twenty (R217). -/
theorem State.place_lt (a : Nat) : (m.place a).1 < 20 := by
  simp only [State.place, placeOf]
  split <;> exact Nat.mod_lt _ (by decide)

theorem accessOnly_chargeBeats {n : Nat} (hn : n < 8) (a len : Nat) (hc : Calm m) : AccessOnly m (m.chargeBeats (some n) a len) := by
  unfold State.chargeBeats
  split
  · exact accessOnly_refl m
  · refine accessOnly_foldl _ (fun m i _ _ => ?_) hc
    have hplace := m.place_lt ((a / 256 + i) * 256)
    refine accessOnly_trans (accessOnly_bump m (Reg.mc_STN_BEATS (m.place ((a / 256 + i) * 256)).1 n) _ ⟨?_, ?_, ?_⟩)
      (accessOnly_of_eq rfl rfl rfl rfl rfl) <;> simp only [Reg.mc_STN_BEATS] <;> omega

/-- Without an armed injection none fires. -/
theorem State.injected_of_calm (hc : Calm m) (page k b n : Nat) (e : Ev) : m.injected page k b n e = m :=
  if_neg (by simp [State.injFires, hc page])

theorem accessOnly_senseLine (n b acc : Nat) (hc : Calm m) : AccessOnly m (m.senseLine n b acc) := by
  have hplace := m.place_lt b
  have hfires : m.injFires (0x30 + (m.place b).1) 0 = false := by simp [State.injFires, hc _]
  unfold State.senseLine
  dsimp only
  rw [hfires, if_neg Bool.false_ne_true]
  split
  · exact accessOnly_bump m _ _ (by refine ⟨?_, ?_, ?_⟩ <;> simp only [Reg.mc_PSN_RD] <;> omega)
  · exact accessOnly_refl m

theorem accessOnly_sense (n a len acc : Nat) (hc : Calm m) : AccessOnly m (m.sense n a len acc) :=
  accessOnly_foldl _ (fun m _ _ h => accessOnly_senseLine m n _ acc h) hc

theorem State.senseCrock_of_calm (hc : Calm m) (n k a : Nat) : m.senseCrock n k a = m := by
  unfold State.senseCrock
  split
  · rfl
  · exact m.injected_of_calm hc _ _ _ _ _

theorem State.senseSram_of_calm (hc : Calm m) (n page k a : Nat) : m.senseSram n page k a = m := m.injected_of_calm hc _ _ _ _ _

/-- One read-modify-write of 64 bytes (R230). -/
def State.rmwOne (m : State) (n b : Nat) : State :=
  ((m.bump (Reg.mc_RMW_CNT (m.place b).1) 1).chargeBeats (some n) b 64).sense n b 64 2

theorem accessOnly_rmwOne {n : Nat} (hn : n < 8) (b : Nat) (hc : Calm m) : AccessOnly m (m.rmwOne n b) := by
  have hplace := m.place_lt b
  have hbump := accessOnly_bump m (Reg.mc_RMW_CNT (m.place b).1) 1 (by refine ⟨?_, ?_, ?_⟩ <;> simp only [Reg.mc_RMW_CNT] <;> omega)
  have hcharge := accessOnly_chargeBeats _ hn b 64 (calm_of_accessOnly hbump hc)
  have hboth := accessOnly_trans hbump hcharge
  exact accessOnly_trans hboth (accessOnly_sense _ n b 64 2 (calm_of_accessOnly hboth hc))

theorem State.countRmw_eq (n a len : Nat) : m.countRmw n a len =
    if len = 0 then m
    else
      let m1 := if decide (a % 64 ≠ 0 ∨ len < 64) then m.rmwOne n (a / 64 * 64) else m
      if decide ((a + len) % 64 ≠ 0) && decide (a / 64 ≠ (a + len - 1) / 64) then m1.rmwOne n ((a + len - 1) / 64 * 64) else m1 := rfl

theorem accessOnly_countRmw {n : Nat} (hn : n < 8) (a len : Nat) (hc : Calm m) : AccessOnly m (m.countRmw n a len) := by
  have hfirst : AccessOnly m (if decide (a % 64 ≠ 0 ∨ len < 64) then m.rmwOne n (a / 64 * 64) else m) := by
    split
    · exact accessOnly_rmwOne m hn _ hc
    · exact accessOnly_refl m
  rw [State.countRmw_eq]
  split
  · exact accessOnly_refl m
  · dsimp only
    split
    · exact accessOnly_trans hfirst (accessOnly_rmwOne _ hn _ (calm_of_accessOnly hfirst hc))
    · exact hfirst

theorem accessOnly_direct {n : Nat} (hn : n < 8) (a len : Nat) (w : Bool) (hc : Calm m) : AccessOnly m (m.direct n a len w) := by
  have hcharge := accessOnly_chargeBeats m hn a len hc
  unfold State.direct
  dsimp only
  split
  · exact accessOnly_trans hcharge (accessOnly_countRmw _ hn a len (calm_of_accessOnly hcharge hc))
  · exact accessOnly_trans hcharge (accessOnly_sense _ n a len 0 (calm_of_accessOnly hcharge hc))

/-- A station's cache slices are of the 48. -/
theorem cacheHome_lt {m : State} (n l : Nat) : (cacheHome (m.cacheSlices n) l).1 < 48 := by
  have hall : ∀ k ∈ m.cacheSlices n, k < 48 := fun k hk => List.mem_range.mp (List.mem_filter.mp hk).1
  rw [cacheHome]
  generalize ((l ^^^ (l >>> 16)) % 65536) % (m.cacheSlices n).length = i
  rw [List.getD_eq_getElem?_getD]
  cases h : (m.cacheSlices n)[i]? with
  | none => exact Nat.zero_lt_succ 47
  | some k => exact hall k (List.mem_of_getElem? h)

/-- An access that allocates no line evicts none (R223). -/
theorem accessOnly_cacheLine {n : Nat} (hn : n < 8) (lo len : Nat) (w : Bool) (hc : Calm m) : AccessOnly m (m.cacheLine n lo len w 1) := by
  have hhome := cacheHome_lt (m := m) n (lo / 256)
  have hhit : AccessOnly m (m.bump (Reg.crk_HITS ((cacheHome (m.cacheSlices n) (lo / 256)).1 / 12)
      ((cacheHome (m.cacheSlices n) (lo / 256)).1 % 12)) 1) :=
    accessOnly_bump m _ _ (by refine ⟨?_, ?_, ?_⟩ <;> simp only [Reg.crk_HITS] <;> omega)
  have hmiss : AccessOnly m (m.bump (Reg.crk_MISSES ((cacheHome (m.cacheSlices n) (lo / 256)).1 / 12)
      ((cacheHome (m.cacheSlices n) (lo / 256)).1 % 12)) 1) :=
    accessOnly_bump m _ _ (by refine ⟨?_, ?_, ?_⟩ <;> simp only [Reg.crk_MISSES] <;> omega)
  unfold State.cacheLine
  dsimp only
  split
  · exact accessOnly_direct m hn lo len w hc
  · split
    · next c _ =>
      generalize (m.bump (Reg.crk_HITS _ _) 1) = m0 at hhit ⊢
      have hsense : m0.senseCrock n (cacheHome (m.cacheSlices n) (lo / 256)).1 lo = m0 :=
        m0.senseCrock_of_calm (calm_of_accessOnly hhit hc) _ _ _
      have haside : AccessOnly m (if (w && !c.dirty) = true then
          (if w = true then m0 else m0.senseCrock n (cacheHome (m.cacheSlices n) (lo / 256)).1 lo).setAside (lo / 256)
          else if w = true then m0 else m0.senseCrock n (cacheHome (m.cacheSlices n) (lo / 256)).1 lo) := by
        rw [hsense, ite_self]
        split
        · exact accessOnly_trans hhit (accessOnly_of_eq (.setAside _ _) rfl rfl rfl rfl)
        · exact hhit
      rw [if_neg (by simp)]
      exact accessOnly_trans haside (accessOnly_of_eq rfl rfl rfl rfl rfl)
    · rw [if_pos rfl]
      exact accessOnly_trans hmiss (accessOnly_direct _ hn lo len w (calm_of_accessOnly hmiss hc))

theorem accessOnly_touch {n : Nat} (hn : n < 8) (a len : Nat) (w : Bool) (hc : Calm m) : AccessOnly m (m.touch n a len w 1) := by
  unfold State.touch
  split
  · exact accessOnly_refl m
  · split
    · split
      · exact accessOnly_refl m
      · split
        · rw [m.senseCrock_of_calm hc]
          exact accessOnly_refl m
        · rw [m.senseSram_of_calm hc]
          exact accessOnly_refl m
        · rw [m.senseSram_of_calm hc]
          exact accessOnly_refl m
        · rw [m.senseSram_of_calm hc]
          exact accessOnly_refl m
        · exact accessOnly_refl m
    · split
      · exact accessOnly_direct m hn a len w hc
      · exact accessOnly_foldl _ (fun m i _ h => accessOnly_cacheLine m hn _ _ w h) hc

end Access

end Sys2Proof.Machine

/-! Stores, reads and tags as their bytes show them (R230 to R233, R301, R303). -/

namespace Sys2Proof.Machine

open Sys2Proof.Spec

/-! ## Lists of bytes -/

/-- The entries of a list of bytes read back in their places. -/
theorem SMap.get_ofList (l : List Byte) (k : Nat) : SMap.get memZero (SMap.ofList 0 l) k = l.getD k 0 := by
  have hfrom : ∀ (l : List Byte) (n k : Nat), SMap.get memZero (((l.zipIdx n).map (fun e => (e.2, e.1))).filter (fun e => decide (e.2 ≠ 0))) k =
      if n ≤ k then l.getD (k - n) 0 else 0 := by
    intro l
    induction l with
    | nil => intro n k; split <;> rfl
    | cons b l ih =>
      intro n k
      have hrest := ih (n + 1) k
      have hnext (h : n < k) : (b :: l).getD (k - n) 0 = l.getD (k - (n + 1)) 0 := by
        rw [show k - n = (k - (n + 1)) + 1 by omega, List.getD_cons_succ]
      have hkey : SMap.get memZero ((((b :: l).zipIdx n).map (fun e => (e.2, e.1))).filter (fun e => decide (e.2 ≠ 0))) k =
          if n = k then b else if n + 1 ≤ k then l.getD (k - (n + 1)) 0 else 0 := by
        rw [List.zipIdx_cons, List.map_cons]
        by_cases hb : b = 0
        · rw [List.filter_cons_of_neg (by simp [hb]), hrest]
          by_cases hk : n = k
          · rw [if_pos hk, if_neg (by omega), hb]
          · rw [if_neg hk]
        · rw [List.filter_cons_of_pos (by simpa using hb), ← hrest]
          rfl
      rw [hkey]
      rcases Nat.lt_trichotomy k n with h | rfl | h
      · rw [if_neg (by omega), if_neg (by omega), if_neg (by omega)]
      · rw [if_pos rfl, if_pos (Nat.le_refl k), Nat.sub_self, List.getD_cons_zero]
      · rw [if_neg (by omega), if_pos (by omega), if_pos (by omega), hnext h]
  exact (hfrom l 0 k).trans (if_pos (Nat.zero_le k))

/-- What a range reads is what its addresses hold. -/
theorem SMap.get_slice {α : Type} (d : Nat → α) (m : SMap α) (a n k : Nat) (hk : k < n) :
    (m.slice a n).get (fun _ => d (a + k)) k = m.get d (a + k) := by
  rw [SMap.slice]
  induction m with
  | nil => rfl
  | cons e m ih =>
    obtain ⟨j, v⟩ := e
    rw [List.filter_cons]
    by_cases hj : j = a + k
    · subst hj
      rw [if_pos (by simp; omega), List.map_cons, SMap.get, if_pos (by simp), SMap.get, if_pos rfl]
    · rw [SMap.get, if_neg hj, ← ih]
      split
      · next hin =>
        have hin : a ≤ j ∧ j < a + n := by simpa using hin
        rw [List.map_cons, SMap.get, if_neg (by simp; omega)]
      · rfl

theorem State.bytes_eq (m : State) (a n : Nat) : m.bytes a n = (List.range n).map (fun i => m.byte (a + i)) := by
  rw [State.bytes, SMap.read]
  refine List.map_congr_left fun i hi => ?_
  rw [Nat.zero_add]
  exact SMap.get_slice memZero m.mem a n i (List.mem_range.mp hi)

theorem leNat_lt (l : List Byte) : leNat l < 2 ^ (8 * l.length) := by
  induction l with
  | nil => decide
  | cons b l ih =>
    have hb := b.isLt
    rw [leNat, List.length_cons, show 8 * (l.length + 1) = 8 * l.length + 8 by ring, Nat.pow_add]
    omega

/-- Little-endian bytes hold the number they are of. -/
theorem leNat_leBytes (v n : Nat) : leNat (leBytes v n) = v % 2 ^ (8 * n) := by
  induction n generalizing v with
  | zero => simp [leBytes, leNat, Nat.mod_one]
  | succ n ih =>
    have hcons : leBytes v (n + 1) = BitVec.ofNat 8 v :: leBytes (v >>> 8) n := by
      rw [leBytes, leBytes, List.range_succ_eq_map, List.map_cons, List.map_map]
      refine congrArg₂ List.cons (by simp) (List.map_congr_left fun i _ => ?_)
      rw [Function.comp_apply, ← Nat.shiftRight_add, Nat.succ_eq_add_one, show 8 * (i + 1) = 8 + 8 * i by ring]
    rw [hcons, leNat, ih, BitVec.toNat_ofNat, Nat.shiftRight_eq_div_pow, show 8 * (n + 1) = 8 + 8 * n by ring, Nat.pow_add,
      Nat.mod_mul]

/-! ## What tags and marks leave alone -/

section Marks

variable (m : State)

theorem State.putPsn_frame (a n : Nat) (p : Nat → Nat → Bool) : m.putPsn a n p = { m with poison := (m.putPsn a n p).poison } := by
  unfold State.putPsn
  split
  · rfl
  · extract_lets g
    generalize List.range _ = l
    induction l generalizing m with
    | nil => rfl
    | cons i l ih => exact (ih _).trans rfl

/-- A block's tag lies in the tag area (R301). -/
theorem tagAddr_bounds {a : Nat} (h : isHbm a = true) (i : Nat) (hi : i < 8) : inTagArea (tagAddr a + i) = true := by
  rw [isHbm, decide_eq_true_eq] at h
  rw [inTagArea, isHbm, tagAddr, Bool.and_eq_true, decide_eq_true_eq, decide_eq_true_eq]
  omega

theorem State.setTag_frame (a t : Nat) :
    m.setTag a t = { m with mem := (m.setTag a t).mem, coreBytes := (m.setTag a t).coreBytes, trayTags := (m.setTag a t).trayTags } := by
  unfold State.setTag
  split
  · split <;> rfl
  · split <;> rfl

theorem State.byte_setTag (a t : Nat) {x : Nat} (hx : inTagArea x = false) : (m.setTag a t).byte x = m.byte x := by
  unfold State.setTag
  split
  · next h =>
    split
    · rfl
    · rw [State.byte_putBytes, if_neg]
      rintro ⟨hlo, hhi⟩
      rw [leBytes, List.length_map, List.length_range] at hhi
      have hin := tagAddr_bounds h (x - tagAddr a) (by omega)
      rw [show tagAddr a + (x - tagAddr a) = x by omega, hx] at hin
      cases hin
  · split <;> rfl

/-- Steps that each set a tag. -/
theorem State.untag_frame (a len : Nat) :
    m.untag a len = { m with mem := (m.untag a len).mem, coreBytes := (m.untag a len).coreBytes, trayTags := (m.untag a len).trayTags } := by
  unfold State.untag
  split
  · rfl
  · generalize List.range _ = l
    induction l generalizing m with
    | nil => rfl
    | cons i l ih => rw [List.foldl_cons, ih, State.setTag_frame]

theorem State.byte_untag (a len : Nat) {x : Nat} (hx : inTagArea x = false) : (m.untag a len).byte x = m.byte x := by
  unfold State.untag
  split
  · rfl
  · generalize List.range _ = l
    induction l generalizing m with
    | nil => rfl
    | cons i l ih => rw [List.foldl_cons, ih, m.byte_setTag _ _ hx]

end Marks

/-! ## Stores and reads -/

section Store

variable {m : State} {n : Nat} (hn : n < 8) (hc : Calm m) (a : Nat)
include hn hc

/-- A store of data whose place is no tag's (R230, R301). -/
theorem State.wrote_store (bs : List Byte) (p : Nat → Nat → Bool) (ht : NoTags a bs.length) : Wrote m (m.store n a bs p 1) a bs := by
  have hmem : (m.touch n a bs.length true 1).mem = m.mem := (accessOnly_touch m hn a bs.length true hc).2.1
  have hbyte (x : Nat) (hx : inTagArea x = false) : (m.store n a bs p 1).byte x =
      if a ≤ x ∧ x < a + bs.length then SMap.get memZero (SMap.ofList 0 bs) (x - a) else m.byte x := by
    have hput := State.byte_putBytes (m.touch n a bs.length true 1) a bs x
    have htouch : (m.touch n a bs.length true 1).byte x = m.byte x := by rw [State.byte, hmem, State.byte]
    rw [htouch] at hput
    rw [State.store, State.byte_untag _ _ _ hx, State.byte, State.putPsn_mem]
    exact hput
  refine ⟨fun i hi => ?_, fun x hx hout => ?_⟩
  · rw [hbyte _ (ht i hi), if_pos (by omega), SMap.get_ofList, Nat.add_sub_cancel_left]
  · rw [hbyte x hx, if_neg (by omega)]

theorem State.reg_store_other (bs : List Byte) (p : Nat → Nat → Bool) {o : Nat} (ho : ¬ MemReg o) : (m.store n a bs p 1).reg o = m.reg o := by
  obtain ⟨-, -, -, -, hreg⟩ := accessOnly_touch m hn a bs.length true hc
  rw [State.store, State.untag_frame, State.putPsn_frame]
  exact hreg o ho

end Store

end Sys2Proof.Machine

/-! Requests at their target, and their answers (R24, R26, R261, R303). -/

namespace Sys2Proof.Machine

open Sys2Proof.Spec

/-! ## After the link has taken a flit -/

section Took

variable {s m : State} {p : Port} {f : Flit} {owe : Bool} (h : LinkTook s m p f owe)
include h

/-- Registers beyond the port's own count are as they were. -/
theorem LinkTook.reg {o : Nat} (ho : o ≠ (Reg.kp_RX_FLITS p).off) : m.reg o = s.reg o := h.2.1 o ho

theorem LinkTook.reg_low {o : Nat} (ho : o < 0x44_0000) : m.reg o = s.reg o :=
  LinkTook.reg h (by simp only [Reg.kp_RX_FLITS]; omega)

theorem LinkTook.sameMemory : SameMemory s m := by
  obtain ⟨heq, -⟩ := h
  rw [heq]
  exact memory_of_eq rfl rfl

theorem LinkTook.servedBy (a len : Nat) : m.servedBy a len = s.servedBy a len :=
  State.servedBy_congr (fun _ ho _ => LinkTook.reg_low h ho) a len

theorem LinkTook.calm (hc : Calm s) : Calm m := fun page =>
  (State.flag_eq_of_reg (LinkTook.reg h (by simp only [Reg.hdr_ARMED, Reg.kp_RX_FLITS]; omega))).trans (hc page)

theorem LinkTook.memPage (a : Nat) : m.memPage a = s.memPage a := by
  have hlocal (j : Nat) : m.groupLocal j = s.groupLocal j := by
    rw [State.groupLocal, State.groupLocal, State.fld_eq_of_reg (f := Reg.mc_LOCAL_LO 0) (LinkTook.reg_low h (by decide)),
      State.fld_eq_of_reg (f := Reg.mc_LOCAL_HI 0) (LinkTook.reg_low h (by decide))]
  rw [State.memPage, State.memPage, State.place, State.place, hlocal]

end Took

/-! ## WR and RD (R261) -/

section Request

variable {s : State} {p : Port} {f : Flit}

theorem exec_wr (p : Port) (f : Flit) (s : State) : exec (.wr p f) s = .next (s.wrFlit p f).landed := rfl
theorem exec_rd (p : Port) (f : Flit) (s : State) : exec (.rd p f) s = .next (s.rdFlit p f).landed := rfl

/-- A request whose access holds waits (R221, R224). -/
theorem State.wrFlit_held {op : Nat} (h : Arrives s p f op) (hheld : s.reqHeld f = true) : s.wrFlit p f = s :=
  if_pos ⟨State.forMe_of_arrives h, hheld⟩

theorem State.rdFlit_held {op : Nat} (h : Arrives s p f op) (hheld : s.reqHeld f = true) : s.rdFlit p f = s :=
  if_pos ⟨State.forMe_of_arrives h, hheld⟩

/-- A write that does not hold is served after the link has taken it. -/
theorem State.wrFlit_taken (h : Arrives s p f 0x01) (hheld : s.reqHeld f = false) :
    ∃ m, s.wrFlit p f = (m.serveWr (0x80 + p) f).1.respond p f (m.serveWr (0x80 + p) f).2 ∧ LinkTook s m p f true := by
  obtain ⟨m, heq, htook⟩ := State.onFlit_arrives h (fun m => (m.serveWr (0x80 + p) f).1.respond p f (m.serveWr (0x80 + p) f).2)
  exact ⟨m, (if_neg (by simp [hheld])).trans heq, htook⟩

theorem State.rdFlit_taken (h : Arrives s p f 0x02) (hheld : s.reqHeld f = false) :
    ∃ m, s.rdFlit p f = (m.serveRd (0x80 + p) f).1.respond p f (m.serveRd (0x80 + p) f).2 ∧ LinkTook s m p f true := by
  obtain ⟨m, heq, htook⟩ := State.onFlit_arrives h (fun m => (m.serveRd (0x80 + p) f).1.respond p f (m.serveRd (0x80 + p) f).2)
  exact ⟨m, (if_neg (by simp [hheld])).trans heq, htook⟩

/-- Poison of a written flit, by its 64-byte parts. -/
def flitPoison (f : Flit) (i k : Nat) : Bool := (List.range ((i + k - 1) / 64 + 1 - i / 64)).any (fun j => f.psn.testBit (i / 64 + j))

theorem State.serveWr_stn (m : State) (master : Nat) {n : Nat} (h : m.servedBy f.addr (reqBytes f) = .stn n) :
    m.serveWr master f = (m.store n f.addr (f.payload.take (reqBytes f)) (flitPoison f) 1, m.mkReply f Op.wrAck 0 f.addr 0 []) := by
  rw [State.serveWr, h]
  rfl

theorem State.serveRd_stn (m : State) (master : Nat) {n : Nat} (h : m.servedBy f.addr (reqBytes f) = .stn n) :
    let u := m.touch n f.addr (reqBytes f) false 1
    m.serveRd master f = (u, u.mkReply f Op.rdRsp f.len f.addr (u.psnBits f.addr (reqBytes f)) (u.bytes f.addr (reqBytes f))) := by
  rw [State.serveRd, h]

/-- WR stores its bytes and is acknowledged. -/
theorem State.wrFlit_served {n : Nat} (h : Arrives s p f 0x01) (hc : Calm s) (hs : s.servedBy f.addr (reqBytes f) = .stn n)
    (hheld : s.reqHeld f = false) (ht : NoTags f.addr (f.payload.take (reqBytes f)).length) :
    let t := (s.wrFlit p f).landed
    Received s t p f ∧ Wrote s t f.addr (f.payload.take (reqBytes f)) ∧ Replies s t p f 0x04 0 f.addr 0 [] := by
  obtain ⟨m, heq, htook⟩ := State.wrFlit_taken h hheld
  have hn := State.servedBy_lt hs
  have hcm := htook.calm hc
  rw [heq, State.serveWr_stn m _ ((htook.servedBy _ _).trans hs), htook.netSame.mkReply]
  generalize hu : m.store n f.addr (f.payload.take (reqBytes f)) (flitPoison f) 1 = u
  have hmem : m.MemOnly u := hu ▸ .store _ _ _ _ _ _
  have hreg (o : Nat) (ho : 0x44_0000 ≤ o) (_ : 0x100 ≤ o % 0x1_0000) (_ : o ≠ Reg.krt_NOROUTE.off) : u.reg o = m.reg o :=
    hu ▸ State.reg_store_other hn hcm _ _ _ fun ⟨_, hlt, _⟩ => by omega
  obtain ⟨hrec, hrep, hbytes, -, -⟩ := htook.answered (u := u) (by rw [hmem]; rfl) (by rw [hmem]; rfl) hreg (op := Op.wrAck)
    (by unfold AnswerOp; decide) 0 f.addr 0 []
  obtain ⟨hin, hout⟩ := State.wrote_store hn hcm f.addr (f.payload.take (reqBytes f)) (flitPoison f) ht
  rw [hu] at hin hout
  have hbyte (x : Nat) : (u.respond p f (s.mkReply f Op.wrAck 0 f.addr 0 [])).byte x = u.byte x := by rw [State.byte, hbytes, State.byte]
  exact ⟨hrec, ⟨fun i hi => (hbyte _).trans (hin i hi), fun x hx hx' =>
    (hbyte x).trans ((hout x hx hx').trans (htook.sameMemory x).1)⟩, hrep⟩

theorem State.psnBits_congr {m t : State} (hp : t.poison = m.poison) (hf : t.flight = m.flight) (a n : Nat) :
    t.psnBits a n = m.psnBits a n := by
  simp only [State.psnBits, State.psnIn, State.psnStored, hp, hf]

/-- RD is answered with the bytes and their poison. -/
theorem State.rdFlit_served {n : Nat} (h : Arrives s p f 0x02) (hc : Calm s) (hs : s.servedBy f.addr (reqBytes f) = .stn n)
    (hheld : s.reqHeld f = false) :
    let t := (s.rdFlit p f).landed
    Received s t p f ∧ SameMemory s t ∧
      Replies s t p f 0x03 f.len f.addr (s.psnBits f.addr (reqBytes f)) (s.bytes f.addr (reqBytes f)) := by
  obtain ⟨m, heq, htook⟩ := State.rdFlit_taken h hheld
  obtain ⟨hmem, hbyte, hpsn, hflight, hregs⟩ := accessOnly_touch m (State.servedBy_lt hs) f.addr (reqBytes f) false (htook.calm hc)
  have hfull : m.mem = s.mem ∧ m.poison = s.poison ∧ m.flight = s.flight := by
    obtain ⟨hm, -⟩ := htook
    rw [hm]
    exact ⟨rfl, rfl, rfl⟩
  obtain ⟨hmm, hmp, hmf⟩ := hfull
  rw [heq, State.serveRd_stn m _ ((htook.servedBy _ _).trans hs)]
  dsimp only
  generalize m.touch n f.addr (reqBytes f) false 1 = u at hmem hbyte hpsn hflight hregs ⊢
  have hreg (o : Nat) (ho : 0x44_0000 ≤ o) (_ : 0x100 ≤ o % 0x1_0000) (_ : o ≠ Reg.krt_NOROUTE.off) : u.reg o = m.reg o :=
    hregs o fun ⟨_, hlt, _⟩ => by omega
  have hlinks : u.links = m.links := by rw [hmem]; rfl
  have hroutes : u.routes = m.routes := by rw [hmem]; rfl
  have hnet : NetSame s u := netSame_trans htook.netSame (netSame_of_reg hroutes hlinks fun o ho ho' =>
    hreg o ho (by omega) (by simp only [Reg.krt_NOROUTE]; omega))
  have hbytes : u.bytes f.addr (reqBytes f) = s.bytes f.addr (reqBytes f) := by rw [State.bytes, State.bytes, hbyte, hmm]
  rw [hnet.mkReply, State.psnBits_congr (hpsn.trans hmp) (hflight.trans hmf), hbytes]
  obtain ⟨hrec, hrep, htm, htp, -⟩ := htook.answered hlinks hroutes hreg (op := Op.rdRsp) (by unfold AnswerOp; decide) f.len f.addr
    (s.psnBits f.addr (reqBytes f)) (s.bytes f.addr (reqBytes f))
  exact ⟨hrec, memory_of_eq (htm.trans (hbyte.trans hmm)) (htp.trans (hpsn.trans hmp)), hrep⟩

/-! ## Refusals (R24, R26) -/

/-- WR of kind 0, RD of kind 1. -/
def requestOf (k : Fin 2) (p : Port) (f : Flit) : Instr := if k = 0 then .wr p f else .rd p f

/-- A range that no one station serves holds nothing. -/
theorem State.reqHeld_of_unserved (h : ∀ n, s.servedBy f.addr (reqBytes f) ≠ .stn n) : s.reqHeld f = false := by
  unfold State.reqHeld
  split
  · next n hn => exact absurd hn (h n)
  · rfl

/-- A request that no one station serves is refused after the link has taken it. -/
theorem exec_request_refused {k : Fin 2} (h : Arrives s p f (k.val + 1)) (hn : ∀ n, s.servedBy f.addr (reqBytes f) ≠ .stn n) :
    ∃ m acc, exec (requestOf k p f) s = .next ((m.refuseReq (0x80 + p) f acc (s.servedBy f.addr (reqBytes f))).1.respond p f
      (m.refuseReq (0x80 + p) f acc (s.servedBy f.addr (reqBytes f))).2).landed ∧ LinkTook s m p f true := by
  have hheld := State.reqHeld_of_unserved hn
  match k with
  | 0 =>
    obtain ⟨m, heq, htook⟩ := State.wrFlit_taken h hheld
    have hserve : m.serveWr (0x80 + p) f = m.refuseReq (0x80 + p) f 1 (s.servedBy f.addr (reqBytes f)) := by
      rw [State.serveWr, htook.servedBy]
      cases hx : s.servedBy f.addr (reqBytes f) with
      | stn n => exact absurd hx (hn n)
      | _ => rfl
    exact ⟨m, 1, by rw [requestOf, if_pos rfl, exec_wr, heq, hserve], htook⟩
  | 1 =>
    obtain ⟨m, heq, htook⟩ := State.rdFlit_taken h hheld
    have hserve : m.serveRd (0x80 + p) f = m.refuseReq (0x80 + p) f 0 (s.servedBy f.addr (reqBytes f)) := by
      rw [State.serveRd, htook.servedBy]
      cases hx : s.servedBy f.addr (reqBytes f) with
      | stn n => exact absurd hx (hn n)
      | _ => rfl
    exact ⟨m, 0, by rw [requestOf, if_neg (by decide), exec_rd, heq, hserve], htook⟩

/-- A refusal, recorded or not: the answer carries its ECODE, and memory is as it was. -/
theorem LinkTook.refused {m u : State} (h : LinkTook s m p f true) (hu : u = m ∨ ∃ page who acc addr, u = m.access page who none acc addr)
    (e : Nat) : let t := (u.respond p f (m.errReply f e)).landed
    Received s t p f ∧ SameMemory s t ∧ Replies s t p f 0x05 0 e 0 [] ∧ t.events = u.events := by
  have hframe : u = { m with regs := u.regs, events := u.events, lossPages := u.lossPages } := by
    rcases hu with rfl | ⟨page, who, acc, addr, rfl⟩
    · rfl
    · rw [State.access_frame]
  have hreg (o : Nat) (_ : 0x44_0000 ≤ o) (ho : 0x100 ≤ o % 0x1_0000) (_ : o ≠ Reg.krt_NOROUTE.off) : u.reg o = m.reg o := by
    rcases hu with rfl | ⟨page, who, acc, addr, rfl⟩
    · rfl
    · exact State.reg_access_other _ _ _ _ _ _ (by omega)
  obtain ⟨hrec, hrep, htm, htp, hte⟩ := h.answered (u := u) (by rw [hframe]) (by rw [hframe]) hreg (op := Op.errRsp)
    (by unfold AnswerOp; decide) 0 e 0 []
  have hsame : SameMemory m u := by
    rw [hframe]
    exact memory_of_eq rfl rfl
  rw [State.errReply, h.netSame.mkReply]
  exact ⟨hrec, sameMemory_trans h.sameMemory (sameMemory_trans hsame (memory_of_eq htm htp)), hrep, hte⟩

/-- An access recorded after the link has taken a flit is reported. -/
theorem LinkTook.reported {m t : State} (h : LinkTook s m p f true) {page who acc addr : Nat}
    (ht : t.events = (m.access page who none acc addr).events) : Reported s t page 0x07 := by
  have hev : m.events = s.events := by
    obtain ⟨hm, -⟩ := h
    rw [hm]
  have hrep := State.reported_access m page who none acc addr
  unfold Reported at hrep ⊢
  rw [ht, ← hev]
  exact hrep

theorem exec_request_err {k : Fin 2} {e : Nat} (h : Arrives s p f (k.val + 1)) (hs : s.servedBy f.addr (reqBytes f) = .err e) :
    ∃ t, exec (requestOf k p f) s = .next t ∧ Received s t p f ∧ SameMemory s t ∧ Replies s t p f 0x05 0 e 0 [] ∧
      (e = 3 → Reported s t (s.memPage f.addr) 0x07) := by
  obtain ⟨m, acc, hexec, htook⟩ := exec_request_refused h (by simp [hs])
  rw [hs] at hexec
  have hu : (if e = 3 then m.access (m.memPage f.addr) (0x80 + p) none acc f.addr else m) = m ∨ ∃ page who acc' addr,
      (if e = 3 then m.access (m.memPage f.addr) (0x80 + p) none acc f.addr else m) = m.access page who none acc' addr := by
    split
    · exact .inr ⟨_, _, _, _, rfl⟩
    · exact .inl rfl
  obtain ⟨hrec, hsame, hrep, hev⟩ := htook.refused hu e
  refine ⟨_, hexec, hrec, hsame, hrep, fun h3 => htook.reported (who := 0x80 + p) (acc := acc) (addr := f.addr) ?_⟩
  rw [← htook.memPage]
  exact hev.trans (congrArg State.events (if_pos h3))

theorem exec_request_reserved {k : Fin 2} {page : Nat} (h : Arrives s p f (k.val + 1))
    (hs : s.servedBy f.addr (reqBytes f) = .reserved page) :
    ∃ t, exec (requestOf k p f) s = .next t ∧ Received s t p f ∧ SameMemory s t ∧ Replies s t p f 0x05 0 2 0 [] ∧
      Reported s t page 0x07 := by
  obtain ⟨m, acc, hexec, htook⟩ := exec_request_refused h (by simp [hs])
  rw [hs] at hexec
  obtain ⟨hrec, hsame, hrep, hev⟩ := htook.refused (.inr ⟨page, 0x80 + p, acc, f.addr, rfl⟩) 2
  exact ⟨_, hexec, hrec, hsame, hrep, htook.reported hev⟩

/-- Memory that no station holds is its owner's, and a hole is reserved. -/
theorem State.servedBy_unowned {a len g : Nat} (hr : regionOf a = .hbm g) (ht : inTagArea a = false) (hg : s.gibStn g = none) :
    s.servedBy a len = .err 3 := by
  have hat : s.servedAt a = .err 3 := by
    rw [State.servedAt, hr]
    simp [ht, hg]
  rw [State.servedBy, hat]

theorem State.servedBy_hole {a len : Nat} (hr : regionOf a = .hole) : s.servedBy a len = .reserved 0 := by
  have hat : s.servedAt a = .reserved 0 := by rw [State.servedAt, hr]
  rw [State.servedBy, hat]

end Request

end Sys2Proof.Machine

/-! TAGW, the answers at the requester, and flits on their way through (R244, R259 to R263, R303). -/

namespace Sys2Proof.Machine

open Sys2Proof.Spec

/-! ## TAGW (R303) -/

section Tags

variable (m : State)

/-- Two blocks' tags stand in one place, or apart by eight bytes at least. -/
theorem tagAddr_apart (a b : Nat) (h : tagAddr b ≠ tagAddr a) : tagAddr b + 8 ≤ tagAddr a ∨ tagAddr a + 8 ≤ tagAddr b := by
  unfold tagAddr at h ⊢
  omega

theorem leBytes_length (v n : Nat) : (leBytes v n).length = n := by simp [leBytes]

theorem State.bytes_putBytes_same (a : Nat) (bs : List Byte) : (m.putBytes a bs).bytes a bs.length = bs := by
  rw [State.bytes_eq]
  refine List.ext_getElem (by simp) fun i hi _ => ?_
  have hi : i < bs.length := by simpa using hi
  rw [List.getElem_map, List.getElem_range, State.byte_putBytes, if_pos (by omega), SMap.get_ofList, Nat.add_sub_cancel_left,
    List.getD_eq_getElem _ _ hi]

theorem State.bytes_putBytes_apart {a b n : Nat} {bs : List Byte} (h : b + n ≤ a ∨ a + bs.length ≤ b) :
    (m.putBytes a bs).bytes b n = m.bytes b n := by
  rw [State.bytes_eq, State.bytes_eq]
  refine List.map_congr_left fun i hi => ?_
  have hi := List.mem_range.mp hi
  rw [State.byte_putBytes, if_neg (by omega)]

/-- A tag set reads back, and every other block's is as it was. -/
theorem State.tag_setTag {a b t : Nat} (ha : isHbm a = true) (hb : isHbm b = true) (ht : t < 2 ^ 64) :
    (m.setTag a t).tag b = if tagAddr b = tagAddr a then t else m.tag b := by
  rw [State.setTag, if_pos ha, State.tag, if_pos hb, State.tag, if_pos hb]
  split
  · next hsame =>
    split
    · next h => rw [h, hsame]
    · rfl
  · split
    · next h =>
      have hbytes := m.bytes_putBytes_same (tagAddr a) (leBytes t 8)
      rw [leBytes_length] at hbytes
      rw [h, State.word, hbytes, leNat_leBytes]
      exact Nat.mod_eq_of_lt ht
    · next h =>
      have hapart := tagAddr_apart a b h
      rw [State.word, State.word, m.bytes_putBytes_apart (by rw [leBytes_length]; omega)]

/-- t is s but for tags, poison, and what a tag's check counts and reports. -/
def TagsOnly (s t : State) : Prop :=
  t.links = s.links ∧ (∀ o, o < 0x44_0000 ∨ o < 0x99_0000 ∧ 0x68 ≤ o % 0x1_0000 → t.reg o = s.reg o) ∧
    ∀ x, inTagArea x = false → t.byte x = s.byte x

theorem tagsOnly_trans {s t u : State} (h : TagsOnly s t) (k : TagsOnly t u) : TagsOnly s u := by
  obtain ⟨hl, hr, hb⟩ := h
  obtain ⟨kl, kr, kb⟩ := k
  exact ⟨kl.trans hl, fun o ho => (kr o ho).trans (hr o ho), fun x hx => (kb x hx).trans (hb x hx)⟩

/-- A tag's check counts and reports. -/
def ChecksOnly (p : Nat) (s t : State) : Prop :=
  t = { s with regs := t.regs, events := t.events, lossPages := t.lossPages } ∧
    ∀ o, o < 0x99_0000 → (o < 0x1_0000 * (0x44 + p) ∨ 0x68 ≤ o % 0x1_0000) → t.reg o = s.reg o

section Checks

variable {p : Nat}

theorem checksOnly_refl : ChecksOnly p m m := ⟨rfl, fun _ _ _ => rfl⟩

theorem checksOnly_trans {s t u : State} (h : ChecksOnly p s t) (k : ChecksOnly p t u) : ChecksOnly p s u := by
  obtain ⟨hf, hr⟩ := h
  obtain ⟨kf, kr⟩ := k
  refine ⟨?_, fun o ho ho' => (kr o ho ho').trans (hr o ho ho')⟩
  rw [kf, hf]

theorem checksOnly_tagBad (n master addr : Nat) (inj : Bool) : ChecksOnly p m (m.tagBad n (kpPage p) master addr inj) := by
  unfold State.tagBad
  refine ⟨by rw [State.report_frame]; rfl, fun o ho ho' => ?_⟩
  rw [State.reg_report_other _ _ (by simp only [kpPage]; omega), State.reg_bump_other _ _ _ (by simp only [Reg.sve_CRC_CNT]; omega),
    State.reg_bump_other _ _ _ (by simp only [Reg.sve_CRC]; omega)]

theorem checksOnly_disarm : ChecksOnly p m (m.disarm (kpPage p)) :=
  ⟨rfl, fun o ho ho' => State.reg_setFlag_other _ _ _ (by simp only [Reg.hdr_ARMED, kpPage]; omega)⟩

theorem checksOnly_tagCheck (n kind master addr tag : Nat) (bytes : List Byte) (code : Option Nat) :
    ChecksOnly p m (m.tagCheck n (kpPage p) kind master addr tag bytes code false).2 := by
  unfold State.tagCheck
  split
  · exact checksOnly_refl m
  · extract_lets sumOk bad m1
    have hm1 : ChecksOnly p m m1 := by
      simp only [m1]
      split
      · exact checksOnly_tagBad m _ _ _ _
      · exact checksOnly_refl m
    split
    · exact checksOnly_trans hm1 (checksOnly_trans (checksOnly_disarm m1) (checksOnly_tagBad _ _ _ _ _))
    · exact hm1

end Checks

/-- A block of TAGW sets its tag, and nothing but tags, poison, counts and events. -/
theorem State.tagwBlock_tags (p : Port) (n a t : Nat) (ha : isHbm a = true) (ht : t < 2 ^ 64) :
    let u := m.tagwBlock p n a t false
    TagsOnly m u ∧ ∀ b, isHbm b = true → u.tag b = if tagAddr b = tagAddr a then t else m.tag b := by
  have hcheck := checksOnly_tagCheck m (p := p) n 2 (0x80 + p) a t (m.bytes a 4096) none
  generalize hr : m.tagCheck n (kpPage p) 2 (0x80 + p) a t (m.bytes a 4096) none false = r at hcheck
  obtain ⟨hframe, hreg⟩ := hcheck
  have hblock : m.tagwBlock p n a t false = if r.1 then (r.2.setTag a t).putPsn a 4096 (fun _ _ => true) else r.2.setTag a t := by
    rw [← hr]
    rfl
  have hmem : (m.tagwBlock p n a t false).mem = (r.2.setTag a t).mem := by
    rw [hblock]
    split
    · rw [State.putPsn_frame]
    · rfl
  have hrest : (m.tagwBlock p n a t false).links = m.links ∧ (m.tagwBlock p n a t false).regs = r.2.regs := by
    rw [hblock]
    split
    · rw [State.putPsn_frame, State.setTag_frame, hframe]
      exact ⟨rfl, rfl⟩
    · rw [State.setTag_frame, hframe]
      exact ⟨rfl, rfl⟩
  have hr2 : r.2.mem = m.mem := by rw [hframe]
  refine ⟨⟨hrest.1, fun o ho => ?_, fun x hx => ?_⟩, fun b hb => ?_⟩
  · rw [State.reg, hrest.2]
    exact hreg o (by omega) (by omega)
  · rw [State.byte, hmem]
    exact (r.2.byte_setTag a t hx).trans (by rw [State.byte, hr2, State.byte])
  · have htag {u v : State} (huv : u.mem = v.mem) : u.tag b = v.tag b := by
      rw [State.tag, State.tag, if_pos hb, if_pos hb, State.word, State.word, State.bytes, State.bytes, huv]
    rw [htag hmem, r.2.tag_setTag ha hb ht, htag hr2]

/-- One block of TAGW, by the station that serves it. -/
def State.tagwStep (m : State) (p : Nat) (f : Flit) (k : Nat) : State :=
  match m.servedBy (f.addr / 4096 * 4096 + 4096 * k) 4096 with
  | .stn n => m.tagwBlock p n (f.addr / 4096 * 4096 + 4096 * k) (tagwTag f k) false
  | _ => m

theorem tagwTag_lt (f : Flit) (k : Nat) : tagwTag f k < 2 ^ 64 := by
  refine lt_of_lt_of_le (leNat_lt _) (Nat.pow_le_pow_right (by decide) ?_)
  rw [List.length_take]
  omega

/-- The blocks of one TAGW have tags of their own. -/
theorem tagAddr_block_inj {c k j : Nat} (h : tagAddr (c / 4096 * 4096 + 4096 * k) = tagAddr (c / 4096 * 4096 + 4096 * j)) : k = j := by
  unfold tagAddr at h
  omega

/-- Blocks of HBM, each served by a station, take their tags in turn. -/
theorem State.tagw_blocks (p : Port) (f : Flit) (l : List Nat)
    (hl : ∀ k ∈ l, isHbm (f.addr / 4096 * 4096 + 4096 * k) = true ∧ ∃ n, m.servedBy (f.addr / 4096 * 4096 + 4096 * k) 4096 = .stn n) :
    let u := l.foldl (fun m k => m.tagwStep p f k) m
    TagsOnly m u ∧ ∀ k, isHbm (f.addr / 4096 * 4096 + 4096 * k) = true →
      u.tag (f.addr / 4096 * 4096 + 4096 * k) = if k ∈ l then tagwTag f k else m.tag (f.addr / 4096 * 4096 + 4096 * k) := by
  induction l generalizing m with
  | nil => exact ⟨⟨rfl, fun _ _ => rfl, fun _ _ => rfl⟩, fun k _ => rfl⟩
  | cons j l ih =>
    obtain ⟨hj, n, hn⟩ := hl j List.mem_cons_self
    have hstep : m.tagwStep p f j = m.tagwBlock p n (f.addr / 4096 * 4096 + 4096 * j) (tagwTag f j) false := by rw [State.tagwStep, hn]
    obtain ⟨hone, htag⟩ := m.tagwBlock_tags p n _ (tagwTag f j) hj (tagwTag_lt f j)
    rw [← hstep] at hone htag
    obtain ⟨-, hreg, -⟩ := id hone
    obtain ⟨hrest, htags⟩ := ih (m.tagwStep p f j) fun k hk => by
      rw [State.servedBy_congr fun o ho _ => hreg o (.inl ho)]
      exact hl k (List.mem_cons_of_mem _ hk)
    refine ⟨tagsOnly_trans hone hrest, fun k hk => ?_⟩
    rw [List.foldl_cons, htags k hk, htag _ hk]
    by_cases hkj : k = j
    · subst hkj
      simp
    · rw [if_neg fun e => hkj (tagAddr_block_inj e)]
      simp [hkj]

end Tags

section Tagw

variable {s : State} {p : Port} {f : Flit}

theorem exec_tagw (p : Port) (f : Flit) (s : State) : exec (.tagw p f false) s = .next (s.tagwFlit p f false).landed := rfl

/-- The blocks of a TAGW whose tag is not zero. -/
def taggedBlocks (f : Flit) : List Nat := (List.range (4 * (f.len + 1))).filter (fun k => decide (tagwTag f k ≠ 0))

theorem mem_taggedBlocks {k : Nat} : k ∈ taggedBlocks f ↔ k < 4 * (f.len + 1) ∧ tagwTag f k ≠ 0 := by simp [taggedBlocks]

/-- Why a block of a TAGW is refused, if it is. -/
def State.unserved (m : State) (f : Flit) (k : Nat) : Option Served :=
  match m.servedBy (f.addr / 4096 * 4096 + 4096 * k) 4096 with
  | .stn _ => none
  | x => some x

/-- What a TAGW does once the link has taken it. -/
def State.tagwServe (m : State) (p : Nat) (f : Flit) : State :=
  match (taggedBlocks f).findSome? (m.unserved f) with
  | some x => (m.refuseReq (0x80 + p) f 1 x).1.respond p f (m.refuseReq (0x80 + p) f 1 x).2
  | none => (taggedBlocks f).foldl (fun m k => m.tagwStep p f k) m

theorem State.tagwFlit_taken (h : Arrives s p f 0x06) : ∃ m, s.tagwFlit p f false = m.tagwServe p f ∧ LinkTook s m p f true :=
  State.onFlit_arrives h (fun m => m.tagwServe p f)

/-- TAGW stores each tag that is not zero, where a station serves every block tagged. -/
theorem State.tagwFlit_served (h : Arrives s p f 0x06)
    (hs : ∀ k, k < 4 * (f.len + 1) → isHbm (f.addr / 4096 * 4096 + 4096 * k) = true ∧
      (tagwTag f k ≠ 0 → ∃ n, s.servedBy (f.addr / 4096 * 4096 + 4096 * k) 4096 = .stn n)) :
    let t := (s.tagwFlit p f false).landed
    Received s t p f ∧ (∀ x, inTagArea x = false → t.byte x = s.byte x) ∧
      ∀ k, k < 4 * (f.len + 1) → t.tag (f.addr / 4096 * 4096 + 4096 * k) =
        if tagwTag f k = 0 then s.tag (f.addr / 4096 * 4096 + 4096 * k) else tagwTag f k := by
  obtain ⟨m, heq, htook⟩ := State.tagwFlit_taken h
  have hserved : ∀ k ∈ taggedBlocks f, isHbm (f.addr / 4096 * 4096 + 4096 * k) = true ∧
      ∃ n, m.servedBy (f.addr / 4096 * 4096 + 4096 * k) 4096 = .stn n := fun k hk => by
    obtain ⟨hlt, htag⟩ := mem_taggedBlocks.mp hk
    rw [htook.servedBy]
    exact ⟨(hs k hlt).1, (hs k hlt).2 htag⟩
  have hnone : m.tagwServe p f = (taggedBlocks f).foldl (fun m k => m.tagwStep p f k) m := by
    have hfind : (taggedBlocks f).findSome? (m.unserved f) = none := List.findSome?_eq_none_iff.mpr fun k hk => by
      obtain ⟨-, n, hn⟩ := hserved k hk
      rw [State.unserved, hn]
    rw [State.tagwServe, hfind]
  obtain ⟨⟨hlinks, hreg, hbyte⟩, htags⟩ := m.tagw_blocks p f (taggedBlocks f) hserved
  rw [heq, hnone]
  generalize (taggedBlocks f).foldl (fun m k => m.tagwStep p f k) m = u at hlinks hreg hbyte htags ⊢
  have hlink : u.link p = m.link p := by rw [State.link, hlinks, State.link]
  have hmem : m.mem = s.mem := by
    obtain ⟨hm, -⟩ := htook
    rw [hm]
  have hp := p.isLt
  refine ⟨received_of_links (t := u) htook.received (by rw [hlink]; exact ⟨rfl, rfl⟩) (hreg _ (.inr (by simp only [Reg.kp_RX_FLITS]; omega))),
    fun x hx => (hbyte x hx).trans (htook.sameMemory x).1, fun k hk => ?_⟩
  have hhbm := (hs k hk).1
  have hsame : m.tag (f.addr / 4096 * 4096 + 4096 * k) = s.tag (f.addr / 4096 * 4096 + 4096 * k) := by
    rw [State.tag, State.tag, if_pos hhbm, if_pos hhbm, State.word, State.word, State.bytes, State.bytes, hmem]
  refine (htags k hhbm).trans ?_
  rw [hsame]
  by_cases hzero : tagwTag f k = 0
  · rw [if_neg fun hm => (mem_taggedBlocks.mp hm).2 hzero, if_pos hzero]
  · rw [if_pos (mem_taggedBlocks.mpr ⟨hk, hzero⟩), if_neg hzero]

end Tagw

end Sys2Proof.Machine

/-! Answers at the requester, and flits on their way through (R244, R259 to R263). -/

namespace Sys2Proof.Machine

open Sys2Proof.Spec

/-! ## The end of a request that sets nothing else going -/

section Freed

variable {m : State}

/-- Where no write waits for a tag, none is sent. -/
theorem State.pumpOut_of_empty (h : m.outq = []) : m.pumpOut = m := by
  have hfold : m.pumpOut = { m with outq := [] } := by
    rw [State.pumpOut, h]
    rfl
  exact hfold.trans (congrArg (fun q => { m with outq := q }) h.symm)

/-- A transfer that is gone sends no piece. -/
theorem State.pump_of_gone {i : Nat} (h : m.xfer? i = none) (k : Nat) : State.pump k i m = m := by
  cases k with
  | zero => rfl
  | succ k => rw [State.pump, h]

theorem State.mortarAcked_of_idle {d : Nat} (h : (m.mortar d).run = none) : m.mortarAcked d = m := by
  rw [State.mortarAcked, h]

theorem State.reqFreed_of_quiet (hq : Quiet m) (i : Option Nat) (hi : ∀ j, i = some j → m.xfer? j = none) : m.reqFreed i = m := by
  obtain ⟨hout, hmtr⟩ := hq
  have hmortars : (List.range 4).foldl State.mortarAcked m = m := by
    rw [show List.range 4 = [0, 1, 2, 3] from rfl]
    simp only [List.foldl_cons, List.foldl_nil, State.mortarAcked_of_idle (hmtr 0 (by decide)), State.mortarAcked_of_idle (hmtr 1 (by decide)),
      State.mortarAcked_of_idle (hmtr 2 (by decide)), State.mortarAcked_of_idle (hmtr 3 (by decide))]
  unfold State.reqFreed
  rw [State.pumpOut_of_empty hout]
  dsimp only
  cases i with
  | none => exact hmortars
  | some j =>
    dsimp only
    rw [State.pump_of_gone (hi j rfl) 4096]
    exact hmortars

end Freed

/-! ## RD_RSP and WR_ACK (R261) -/

section Answers

variable {s : State} {p : Port} {f : Flit}

theorem exec_rdRsp (p : Port) (f : Flit) (s : State) : exec (.rdRsp p f) s = .next (s.rdRspFlit p f).landed := rfl
theorem exec_wrAck (p : Port) (f : Flit) (s : State) : exec (.wrAck p f) s = .next (s.wrAckFlit p f).landed := rfl

/-- What the link takes leaves requests, transfers, engines and waiting writes alone. -/
theorem LinkTook.frame {m : State} {owe : Bool} (h : LinkTook s m p f owe) : m = { s with links := m.links, regs := m.regs } := h.1

/-- What an answer to a read brings, once the link has taken it. -/
def State.rdRspServe (m : State) (f : Flit) : State :=
  match m.reqOf f false with
  | none => m
  | some r =>
    match r.xfer with
    | none => (m.dropReq r).reqFreed none
    | some (i, off) => match (m.dropReq r).xfer? i with
      | none => ((m.dropReq r).pieceIn i (off / 256) (f.payload.take 256) f.psn).reqFreed none
      | some x => ((m.dropReq r).xferData x r f.payload f.psn).reqFreed (some i)

theorem State.rdRspServe_piece {m : State} (hq : Quiet m) {r : Req} {i off : Nat} (hr : m.reqOf f false = some r) (hx : r.xfer = some (i, off))
    (hgone : m.xfer? i = none) : m.rdRspServe f = (m.dropReq r).pieceIn i (off / 256) (f.payload.take 256) f.psn := by
  have hdrop : (m.dropReq r).xfer? i = none := hgone
  rw [State.rdRspServe, hr]
  dsimp only
  rw [hx]
  dsimp only
  rw [hdrop]
  exact State.reqFreed_of_quiet (m := (m.dropReq r).pieceIn i (off / 256) (f.payload.take 256) f.psn) hq none nofun

/-- A piece that arrives is at hand. -/
theorem State.rbuf_pieceIn (m : State) (i k : Nat) (bs : List Byte) (psn : Nat) : k ∈ ((m.pieceIn i k bs psn).rbuf i).got ∧
    ∀ j, j < 256 → ((m.pieceIn i k bs psn).rbuf i).data.get memZero (256 * k + j) = bs.getD j 0 := by
  have hbuf : ∃ l a b, (m.pieceIn i k bs psn).rbuf i =
      { data := (m.rbuf i).data.splice (256 * k) 256 (SMap.ofList 0 bs), psn := a, ask := b, got := k :: l } :=
    ⟨_, _, _, SMap.get_set_same _ _ _ _⟩
  obtain ⟨l, a, b, hbuf⟩ := hbuf
  rw [hbuf]
  refine ⟨List.mem_cons_self, fun j hj => ?_⟩
  rw [SMap.get_splice, if_pos (by omega), Nat.add_sub_cancel_left]
  exact SMap.get_ofList bs j

theorem quiet_of_frame {m : State} {owe : Bool} (h : LinkTook s m p f owe) (hq : Quiet s) : Quiet m := by
  rw [h.frame]
  exact hq

/-- RD_RSP ends its request, with the piece at hand. -/
theorem State.rdRspFlit_piece (h : Arrives s p f 0x03) (hq : Quiet s) {r : Req} {i off : Nat} (hr : s.reqOf f false = some r)
    (hx : r.xfer = some (i, off)) (hgone : s.xfer? i = none) :
    let t := (s.rdRspFlit p f).landed
    Received s t p f ∧ t.reqs = s.reqs.erase r ∧ off / 256 ∈ (t.rbuf i).got ∧ SameMemory s t ∧
      ∀ k, k < 256 → (t.rbuf i).data.get memZero (256 * (off / 256) + k) = f.payload.getD k 0 := by
  obtain ⟨m, heq, htook⟩ := State.onFlit_arrives h (fun m => m.rdRspServe f)
  have hreqs : m.reqs = s.reqs := by rw [htook.frame]
  have hreq : m.reqOf f false = some r := by rw [State.reqOf, hreqs]; exact hr
  have hxfer : m.xfer? i = none := by rw [htook.frame]; exact hgone
  rw [State.rdRspServe_piece (quiet_of_frame htook hq) hreq hx hxfer] at heq
  have hflit : s.rdRspFlit p f = (m.dropReq r).pieceIn i (off / 256) (f.payload.take 256) f.psn := heq
  obtain ⟨hgot, hdata⟩ := (m.dropReq r).rbuf_pieceIn i (off / 256) (f.payload.take 256) f.psn
  rw [hflit]
  refine ⟨received_of_links (t := (m.dropReq r).pieceIn i (off / 256) (f.payload.take 256) f.psn) htook.received ⟨rfl, rfl⟩ rfl,
    congrArg (List.erase · r) hreqs, hgot, sameMemory_trans htook.sameMemory (memory_of_eq rfl rfl), fun k hk => (hdata k hk).trans ?_⟩
  rw [List.getD_eq_getElem?_getD, List.getElem?_take, if_pos hk, ← List.getD_eq_getElem?_getD]

/-- What an answer to a write brings, once the link has taken it. -/
def State.wrAckServe (m : State) (f : Flit) : State :=
  match m.reqOf f true with
  | none => m
  | some r => (m.dropReq r).ackXfer r

theorem State.ackXfer_piece {m : State} (hq : Quiet m) {r : Req} (hp : IsPiece m r) : m.ackXfer r = m := by
  unfold State.ackXfer
  cases hx : r.xfer with
  | none => exact State.reqFreed_of_quiet hq none nofun
  | some io =>
    obtain ⟨i, off⟩ := io
    dsimp only
    rw [hp i off hx]
    exact State.reqFreed_of_quiet hq none nofun

/-- WR_ACK ends its request. -/
theorem State.wrAckFlit_piece (h : Arrives s p f 0x04) (hq : Quiet s) {r : Req} (hr : s.reqOf f true = some r) (hp : IsPiece s r) :
    let t := (s.wrAckFlit p f).landed
    Received s t p f ∧ t.reqs = s.reqs.erase r ∧ SameMemory s t := by
  obtain ⟨m, heq, htook⟩ := State.onFlit_arrives h (fun m => m.wrAckServe f)
  have hreqs : m.reqs = s.reqs := by rw [htook.frame]
  have hreq : m.reqOf f true = some r := by rw [State.reqOf, hreqs]; exact hr
  have hpm : IsPiece m r := by rw [htook.frame]; exact hp
  have hserve : m.wrAckServe f = m.dropReq r := by
    rw [State.wrAckServe, hreq]
    have hqm : Quiet m := quiet_of_frame htook hq
    exact State.ackXfer_piece (m := m.dropReq r) hqm hpm
  have hflit : s.wrAckFlit p f = m.dropReq r := heq.trans hserve
  rw [hflit]
  exact ⟨received_of_links (t := m.dropReq r) htook.received ⟨rfl, rfl⟩ rfl, congrArg (List.erase · r) hreqs,
    sameMemory_trans htook.sameMemory (memory_of_eq rfl rfl)⟩

/-! ## ERR_RSP and the time-out (R261, R263) -/

theorem exec_errRsp (p : Port) (f : Flit) (s : State) : exec (.errRsp p f) s = .next (s.errRspFlit p f).landed := rfl
theorem exec_reqTmo (k : ReqKey) (s : State) : exec (.reqTmo k) s = .next (s.reqTimeout k.node k.tag).landed := rfl

/-- The event of a request's error. -/
def reqEvent (r : Req) : Ev :=
  { page := r.page, code := Code.access, stn := some r.stn, master := 0xFF, acc := b2n r.write, addr := r.addr, detail := 0 }

/-- m with request r gone and its error recorded. -/
def State.expired (m : State) (r : Req) : State :=
  State.report { m with reqs := m.reqs.filter (fun x => !decide (x.tag = r.tag ∧ x.node = r.node)) } (reqEvent r)

theorem State.expired_frame (m : State) (r : Req) : m.expired r = { m with
    reqs := m.reqs.filter (fun x => !decide (x.tag = r.tag ∧ x.node = r.node)), regs := (m.expired r).regs,
    events := (m.expired r).events, lossPages := (m.expired r).lossPages } := by
  unfold State.expired
  rw [State.report_frame]

/-- What a transfer or an engine has of a request that failed: a read's data is zeros, poisoned. -/
def State.dataLost (m : State) (r : Req) : State :=
  match r.xfer with
  | none => m
  | some (i, off) =>
    match m.xfer? i with
    | none => if r.write then m else m.pieceIn i (off / 256) (List.replicate 256 0) 15
    | some x =>
      m.setXfer { x with
        tags := x.tags.filter (fun t => decide (t ≠ r.tag))
        bad := x.bad || !r.write
        psn := if r.write then x.psn else x.psn.splice (off / 32) (r.len / 32) (SMap.ofList 0 (List.replicate (r.len / 32) 1)) }

theorem State.reqError_eq (m : State) (r : Req) (e : Nat) : m.reqError r e = (m.expired r).dataLost r := rfl

/-- A piece that fails touches no more than what is at hand. -/
theorem State.dataLost_piece {m : State} {r : Req} (hp : IsPiece m r) : ∃ b, m.dataLost r = { m with rbufs := b } := by
  unfold State.dataLost
  cases hx : r.xfer with
  | none => exact ⟨m.rbufs, rfl⟩
  | some io =>
    obtain ⟨i, off⟩ := io
    dsimp only
    rw [hp i off hx]
    dsimp only
    split
    · exact ⟨m.rbufs, rfl⟩
    · exact ⟨_, rfl⟩

/-- The error of a piece's request is recorded, and sets nothing else going. -/
theorem State.reqEnds_piece {m : State} (hq : Quiet m) {r : Req} (hp : IsPiece m r) (e : Nat) :
    ∃ b, m.reqEnds r e = { m.expired r with rbufs := b } := by
  have hqe : Quiet (m.expired r) := by rw [State.expired_frame]; exact hq
  have hpe : IsPiece (m.expired r) r := by rw [State.expired_frame]; exact hp
  rw [State.reqEnds, State.reqError_eq]
  generalize m.expired r = u at hqe hpe ⊢
  obtain ⟨b, hb⟩ := State.dataLost_piece hpe
  rw [hb]
  refine ⟨b, State.reqFreed_of_quiet (m := { u with rbufs := b }) hqe _ fun j hj => ?_⟩
  obtain ⟨⟨i, off⟩, hx, rfl⟩ := Option.map_eq_some_iff.mp hj
  exact hpe i off hx

/-- A request that ends with an error is recorded where it came from. -/
theorem State.expired_spec (m : State) (r : Req) (b : SMap RBuf) : let t : State := { m.expired r with rbufs := b }
    t.reqs = m.reqs.filter (fun x => !decide (x.tag = r.tag ∧ x.node = r.node)) ∧ Reported m t r.page 0x07 ∧ SameMemory m t := by
  refine ⟨?_, ?_, ?_⟩
  · rw [State.expired_frame]
  · exact State.reported_report { m with reqs := m.reqs.filter (fun x => !decide (x.tag = r.tag ∧ x.node = r.node)) } (reqEvent r) rfl
  · rw [State.expired_frame]
    exact memory_of_eq rfl rfl

/-- What an error answer brings, once the link has taken it. -/
def State.errRspServe (m : State) (p : Nat) (f : Flit) : State :=
  match m.relays.find? (fun (r : Relay) => decide (r.port = p ∧ r.tag = f.tag ∧ f.dst % 65536 = 0xFFFF)) with
  | some r => State.respond { m with relays := m.relays.erase r } r.from_ r.flit (m.errReply r.flit (bitsOf f.addr 7 0))
  | none =>
    if f.tag = plainTag then m.report { page := 0x84, code := Code.access, stn := some f.sstn, acc := 1 }
    else match m.errOf p f with
      | none => m
      | some r => m.reqEnds r (bitsOf f.addr 7 0)

theorem State.errRspFlit_piece (h : Arrives s p f 0x05) (hq : Quiet s) {r : Req} (hr : s.errOf p f = some r) (hp : IsPiece s r)
    (htag : f.tag ≠ 4095) (hrel : ∀ y ∈ s.relays, ¬ (y.port = p.val ∧ y.tag = f.tag ∧ f.dst % 65536 = 0xFFFF)) :
    let t := (s.errRspFlit p f).landed
    t.reqs = s.reqs.filter (fun x => !decide (x.tag = r.tag ∧ x.node = r.node)) ∧ Reported s t r.page 0x07 ∧ SameMemory s t := by
  obtain ⟨m, heq, htook⟩ := State.onFlit_arrives h (fun m => m.errRspServe p f)
  have hframe : m.reqs = s.reqs ∧ m.relays = s.relays ∧ m.events = s.events := by
    rw [htook.frame]
    exact ⟨rfl, rfl, rfl⟩
  obtain ⟨hreqs, hrelays, hevents⟩ := hframe
  have hfind : m.relays.find? (fun (r : Relay) => decide (r.port = p ∧ r.tag = f.tag ∧ f.dst % 65536 = 0xFFFF)) = none := by
    rw [hrelays]
    exact List.find?_eq_none.mpr fun y hy => by simpa using hrel y hy
  have hreq : m.errOf p f = some r := by rw [State.errOf, hreqs]; exact hr
  have hpm : IsPiece m r := by rw [htook.frame]; exact hp
  have hserve : m.errRspServe p f = m.reqEnds r (bitsOf f.addr 7 0) := by
    rw [State.errRspServe, hfind]
    dsimp only
    have hplain : f.tag ≠ plainTag := htag
    rw [if_neg hplain, hreq]
  obtain ⟨b, hb⟩ := State.reqEnds_piece (quiet_of_frame htook hq) hpm (bitsOf f.addr 7 0)
  have hflit : s.errRspFlit p f = { m.expired r with rbufs := b } := (heq.trans hserve).trans hb
  obtain ⟨hgone, hrep, hsame⟩ := m.expired_spec r b
  rw [hflit]
  refine ⟨hgone.trans (by rw [hreqs]), ?_, sameMemory_trans htook.sameMemory hsame⟩
  unfold Reported at hrep ⊢
  rw [← hevents]
  exact hrep

theorem State.reqTimeout_piece (hq : Quiet s) {r : Req} (hp : IsPiece s r)
    (hr : s.reqs.find? (fun x => decide (x.tag = r.tag ∧ x.node = r.node)) = some r) :
    let t := (s.reqTimeout r.node r.tag).landed
    t.reqs = s.reqs.filter (fun x => !decide (x.tag = r.tag ∧ x.node = r.node)) ∧ Reported s t r.page 0x07 ∧ SameMemory s t := by
  obtain ⟨b, hb⟩ := State.reqEnds_piece hq hp 6
  have htmo : s.reqTimeout r.node r.tag = { s.expired r with rbufs := b } := by
    rw [State.reqTimeout, hr]
    exact hb
  rw [htmo]
  exact s.expired_spec r b

end Answers

end Sys2Proof.Machine

/-! Flits on their way through (R244, R259, R260). -/

namespace Sys2Proof.Machine

open Sys2Proof.Spec

section Forward

variable {s : State} {p : Port} {f : Flit}

theorem exec_forward (p : Port) (f : Flit) (s : State) : exec (.forward p f) s = .next (s.forward p f) := rfl
theorem exec_fwdTmo (p : Port) (s : State) : exec (.fwdTmo p) s = .next (s.fwdTimeout p) := rfl

/-- Cells owed after the link has taken a flit are the flit's. -/
theorem LinkTook.owed {m : State} (h : LinkTook s m p f false) : LinkTook s (m.owe p f.vc (cellsOf s p f)) p f true := by
  obtain ⟨hframe, hreg, hlinks, hrx, howed, hcount⟩ := h
  have hlink (x : Nat) : (m.owe p f.vc (cellsOf s p f)).link x =
      if x = p.val then { m.link p with owed := (m.link p).owed ++ [(f.vc, cellsOf s p f)] } else m.link x := State.link_setLink _ _ _ _
  refine ⟨?_, hreg, fun x => ?_, ?_, ?_, hcount⟩
  · rw [hframe]
    rfl
  · rw [hlink]
    split
    · next hx => exact hx ▸ hlinks p
    · exact hlinks x
  · rw [hlink, if_pos rfl]
    exact hrx
  · rw [hlink, if_pos rfl, if_pos rfl]
    exact congrArg (· ++ _) howed

/-- Where a flit goes that the link has taken: it stays where it stands until a port has sent it, and is dropped without one. -/
def State.passOn (m : State) (p : Nat) (f : Flit) (c : Nat) : Hop → State
  | .here => m.owe p f.vc c
  | .noRoute => ((m.owe p f.vc c).bump Reg.krt_NOROUTE 1).dropFlit f 1
  | .port x =>
    if f.hops ≤ 1 then (m.owe p f.vc c).dropFlit f 4
    else (m.txq x { m.transit p f with hops := f.hops - 1, lh := LinkHdr.zero, inp := some (p, c) }).bump Reg.krt_FWD_FLITS 1

section Taken

variable (hsafe : s.safe = false) (hup : s.fld (Reg.kp_LSTATE p) = 5) (hvalid : s.flag Reg.krt_VALID = true) (htakes : LinkTakes s p f)
include hsafe hup hvalid htakes

/-- A flit that the link takes and that is not for this module goes where its route leads. -/
theorem State.forward_taken (hroute : s.routeOf f.src f.dst f.flow ≠ .here) : ∃ m, LinkTook s m p f false ∧
    s.forward p f = m.passOn p f (cellsOf s p f) (s.routeOf f.src f.dst f.flow) := by
  obtain ⟨m, harrive, htook⟩ := State.arrive_takes false hup htakes
  have hready : s.notReady f = false := by simp [State.notReady, hvalid]
  refine ⟨m, htook, ?_⟩
  rw [State.forward, if_neg (by simp [hsafe, State.linkUp, hup, LState.up, State.forMe, hroute]), harrive]
  dsimp only
  rw [if_neg (by simp), if_neg (by rw [hready]; exact Bool.false_ne_true), htook.netSame.routeOf, flitCells_eq]
  cases s.routeOf f.src f.dst f.flow <;> rfl

end Taken

/-- The requests whose sender is told that its flit was dropped (R260). -/
def Told (f : Flit) : Prop := f.op ∈ [0x01, 0x02, 0x06, 0x07, 0x19, 0x1A, 0x1C]

theorem told_iff : Told f ↔ f.op ∈ [Op.wr, Op.rd, Op.cntAdd, Op.tagw, Op.mgmtRd, Op.mgmtWr, Op.mgmtRelay] := by
  simp only [Told, Op.wr, Op.rd, Op.cntAdd, Op.tagw, Op.mgmtRd, Op.mgmtWr, Op.mgmtRelay, List.mem_cons, List.not_mem_nil, or_false]
  omega

theorem State.dropFlit_untold (m : State) (e : Nat) (h : ¬ Told f) : m.dropFlit f e = m := if_neg (mt told_iff.mpr h)

theorem State.dropFlit_told (m : State) (e : Nat) (h : Told f) (hd : f.dst % 65536 ≠ 0xFFFF) :
    m.dropFlit f e = m.respond p f (m.errReply f e) := by
  rw [State.dropFlit, if_pos (told_iff.mp h), State.respond, if_neg hd]

/-- A flit for this module by its node, or link-local, has no way on. -/
theorem global_of_route (h : s.routeOf f.src f.dst f.flow ≠ .here) : f.dst % 65536 ≠ 0xFFFF := fun hd => h (by simp [State.routeOf, hd])

/-- A dropped flit has been received, and its sender told where it is a request. -/
theorem LinkTook.dropped {m u : State} (h : LinkTook s m p f true) (hu : u = m ∨ u = m.bump Reg.krt_NOROUTE 1) (hd : f.dst % 65536 ≠ 0xFFFF)
    (e : Nat) : Received s (u.dropFlit f e) p f ∧ SameMemory s (u.dropFlit f e) ∧ (Told f → Replies s (u.dropFlit f e) p f 0x05 0 e 0 []) ∧
      (¬ Told f → ∀ y, ((u.dropFlit f e).link y).txq = (s.link y).txq) := by
  have hlinks : u.links = m.links := by rcases hu with rfl | rfl <;> rfl
  have hroutes : u.routes = m.routes := by rcases hu with rfl | rfl <;> rfl
  have hmem : SameMemory m u := by rcases hu with rfl | rfl <;> exact memory_of_eq rfl rfl
  have hreg (o : Nat) (_ : 0x44_0000 ≤ o) (_ : 0x100 ≤ o % 0x1_0000) (ho : o ≠ Reg.krt_NOROUTE.off) : u.reg o = m.reg o := by
    rcases hu with rfl | rfl
    · rfl
    · exact State.reg_bump_other _ _ _ ho
  have hnet : NetSame s u := netSame_trans h.netSame (netSame_of_reg hroutes hlinks fun o ho ho' =>
    hreg o ho (by omega) (by simp only [Reg.krt_NOROUTE]; omega))
  by_cases ht : Told f
  · obtain ⟨hrec, hrep, htm, htp, -⟩ := h.answered hlinks hroutes hreg (op := Op.errRsp) (by unfold AnswerOp; decide) 0 e 0 []
    rw [State.dropFlit_told (p := p) u e ht hd, State.errReply, hnet.mkReply]
    exact ⟨hrec, sameMemory_trans h.sameMemory (sameMemory_trans hmem (memory_of_eq htm htp)), fun _ => hrep, fun hn => absurd ht hn⟩
  · rw [State.dropFlit_untold u e ht]
    have hlink (x : Nat) : u.link x = m.link x := by rw [State.link, hlinks, State.link]
    refine ⟨received_of_links h.received (by rw [hlink]; exact ⟨rfl, rfl⟩) (hreg _ ?_ ?_ ?_), sameMemory_trans h.sameMemory hmem,
      fun hy => absurd hy ht, fun _ y => hnet.2.2.2 y⟩ <;> simp only [Reg.kp_RX_FLITS, Reg.krt_NOROUTE] <;> omega

section Ways

variable (hsafe : s.safe = false) (hup : s.fld (Reg.kp_LSTATE p) = 5) (hvalid : s.flag Reg.krt_VALID = true) (htakes : LinkTakes s p f)
include hsafe hup hvalid htakes

/-- A flit on its way waits at the port its route names, one hop poorer, and stands in the receive buffer still (R244, R260). -/
theorem State.forward_port {x : Nat} (hroute : s.routeOf f.src f.dst f.flow = .port x) (hhops : 2 ≤ f.hops) :
    let t := s.forward p f
    TakenIn s t p ∧ (t.link x).txq = (s.link x).txq ++
        [{ s.transit p f with hops := f.hops - 1, lh := LinkHdr.zero, inp := some (p.val, cellsOf s p f) }] ∧
      SameMemory s t ∧ t.fld Reg.krt_FWD_FLITS = (s.fld Reg.krt_FWD_FLITS + 1) % 2 ^ 64 := by
  obtain ⟨m, htook, heq⟩ := State.forward_taken hsafe hup hvalid htakes (by rw [hroute]; exact nofun)
  obtain ⟨-, hreg, hlinks, hrx, howed, hcount⟩ := id htook
  have htransit : m.transit p f = s.transit p f := by
    rw [State.transit, State.transit, (hlinks p).2, State.now, State.now, State.fld_eq_of_reg (f := Reg.time_NOW) (hreg _ (by
      simp only [Reg.time_NOW, Reg.kp_RX_FLITS]; omega))]
  have hpass : s.forward p f = (m.txq x { s.transit p f with
      hops := f.hops - 1, lh := LinkHdr.zero, inp := some (p.val, cellsOf s p f) }).bump Reg.krt_FWD_FLITS 1 := by
    rw [heq, hroute, State.passOn, if_neg (by omega), htransit]
  rw [hpass]
  generalize ({ s.transit p f with hops := f.hops - 1, lh := LinkHdr.zero, inp := some (p.val, cellsOf s p f) } : Flit) = g
  have hlink := m.txq_link x g p
  refine ⟨⟨?_, ?_, ?_⟩, ?_, ?_, ?_⟩
  · exact (congrArg Link.rxNext hlink).trans hrx
  · exact (congrArg Link.owed hlink).trans howed
  · exact (State.fld_eq_of_reg (State.reg_bump_other _ _ _ (by simp only [Reg.kp_RX_FLITS, Reg.krt_FWD_FLITS]; omega))).trans hcount
  · exact (m.txq_queue x g x).trans (by rw [if_pos rfl, (hlinks x).1])
  · exact sameMemory_trans htook.sameMemory (memory_of_eq rfl rfl)
  · rw [State.fld_bump_wide _ _ _ rfl rfl]
    have hcnt : (m.txq x g).fld Reg.krt_FWD_FLITS = s.fld Reg.krt_FWD_FLITS :=
      State.fld_eq_of_reg (hreg _ (by simp only [Reg.kp_RX_FLITS, Reg.krt_FWD_FLITS]; omega))
    rw [hcnt]

/-- A flit with no hop left is dropped. -/
theorem State.forward_hopless {x : Nat} (hroute : s.routeOf f.src f.dst f.flow = .port x) (hhops : f.hops ≤ 1) :
    ∃ m, LinkTook s m p f true ∧ s.forward p f = m.dropFlit f 4 := by
  obtain ⟨m, htook, heq⟩ := State.forward_taken hsafe hup hvalid htakes (by rw [hroute]; exact nofun)
  exact ⟨_, htook.owed, by rw [heq, hroute, State.passOn, if_pos hhops]⟩

/-- A flit with no route is dropped, and counted. -/
theorem State.forward_noRoute (hroute : s.routeOf f.src f.dst f.flow = .noRoute) :
    ∃ m, LinkTook s m p f true ∧ s.forward p f = (m.bump Reg.krt_NOROUTE 1).dropFlit f 1 := by
  obtain ⟨m, htook, heq⟩ := State.forward_taken hsafe hup hvalid htakes (by rw [hroute]; exact nofun)
  exact ⟨_, htook.owed, by rw [heq, hroute, State.passOn]⟩

end Ways

/-- The sender of an unrouted flit is told by a way that has a route, so one flit is counted. -/
theorem LinkTook.noRoute_counted {m : State} (h : LinkTook s m p f true) (hvalid : s.flag Reg.krt_VALID = true)
    (hback : (∃ x, s.routeOf s.srcId f.src f.flow = .port x) ∨ ¬ Told f) :
    ((m.bump Reg.krt_NOROUTE 1).dropFlit f 1).fld Reg.krt_NOROUTE = min (s.fld Reg.krt_NOROUTE + 1) (2 ^ 32 - 1) := by
  have hcount : (m.bump Reg.krt_NOROUTE 1).fld Reg.krt_NOROUTE = min (s.fld Reg.krt_NOROUTE + 1) (2 ^ 32 - 1) := by
    rw [State.fld_bump_same _ _ _ (by decide) (by decide) (by decide),
      State.fld_eq_of_reg (f := Reg.krt_NOROUTE) (h.reg (by simp only [Reg.krt_NOROUTE, Reg.kp_RX_FLITS]; omega))]
    rfl
  have hnet : NetSame s (m.bump Reg.krt_NOROUTE 1) := netSame_trans h.netSame (netSame_of_reg rfl rfl fun o _ ho =>
    State.reg_bump_other _ _ _ (by simp only [Reg.krt_NOROUTE]; omega))
  by_cases ht : Told f
  · obtain ⟨x, hx⟩ := hback.resolve_right (fun hn => hn ht)
    have hport : (m.bump Reg.krt_NOROUTE 1).routeOf (s.mkReply f Op.errRsp 0 1 0 []).src (s.mkReply f Op.errRsp 0 1 0 []).dst
        (s.mkReply f Op.errRsp 0 1 0 []).flow = .port x := by
      rw [hnet.routeOf]
      exact hx
    rw [State.dropFlit, if_pos (told_iff.mp ht), State.errReply, hnet.mkReply, State.sendFlit, hnet.valid, hvalid, hport]
    exact hcount
  · rw [State.dropFlit_untold _ _ ht]
    exact hcount

/-! ## A flit held too long at an output (R244) -/

/-- The head of a port's queue is dropped and counted, and its receive buffer owed if it stands in one. -/
theorem State.fwdTimeout_head {rest : List Flit} (h : (s.link p).txq = f :: rest) :
    s.fwdTimeout p = ((s.setLink p { s.link p with txq := rest }).oweFor f).bump Reg.krt_FWD_DROP 1 := by
  rw [State.fwdTimeout]
  dsimp only
  rw [h]

/-- A queue's head gone, and cells owed at a port, the same or another. -/
theorem State.owe_sent (s : State) (p q : Nat) (rest : List Flit) (vc c : Nat) :
    let t := (s.setLink p { s.link p with txq := rest }).owe q vc c
    (t.link p).txq = rest ∧ (t.link q).owed = (s.link q).owed ++ [(vc, c)] := by
  have hlink (x : Nat) : (s.setLink p { s.link p with txq := rest }).link x =
      { s.link x with txq := if x = p then rest else (s.link x).txq } := by
    rw [State.link_setLink]
    split
    · next h => rw [h]
    · rfl
  have howe (x : Nat) := (s.setLink p { s.link p with txq := rest }).link_setLink q x
    { (s.setLink p { s.link p with txq := rest }).link q with
      owed := ((s.setLink p { s.link p with txq := rest }).link q).owed ++ [(vc, c)] }
  refine ⟨(congrArg Link.txq (howe p)).trans ?_, (congrArg Link.owed (howe q)).trans ?_⟩
  · split
    · next h => simp [h]
    · simp [hlink]
  · simp [hlink]

theorem State.fld_fwdTimeout {m : State} (hreg : m.regs = s.regs) :
    (m.bump Reg.krt_FWD_DROP 1).fld Reg.krt_FWD_DROP = min (s.fld Reg.krt_FWD_DROP + 1) (2 ^ 32 - 1) := by
  rw [State.fld_bump_same _ _ _ (by decide) (by decide) (by decide), State.fld, State.reg, hreg, State.fld, State.reg]
  rfl

end Forward

/-- Settles O39: requests at their target, answers at the requester, and flits on their way through. -/
theorem keyringTransactions : Obligations.KeyringTransactions := by
  unfold Obligations.KeyringTransactions
  intro s p f
  refine ⟨fun n h hc hs hheld ht => ?_, fun n h hc hs hheld => ?_, fun k h hheld => ?_, fun k e h hs => exec_request_err h hs,
    fun k page h hs => exec_request_reserved h hs, fun g hr ht hg => State.servedBy_unowned hr ht hg, fun hr => State.servedBy_hole hr,
    fun h hs => ?_, fun r i off h hq hr hx hgone => ?_, fun r h hq hr hp => ?_, fun r k hq hp h0 h1 => ?_,
    fun hsafe hup hvalid htakes => ⟨fun x hroute hhops => ?_, fun x hroute hhops => ?_, fun hroute hback => ?_⟩,
    fun rest h hin => ?_, fun rest q c h hin => ?_⟩
  · exact ⟨_, exec_wr p f s, State.wrFlit_served h hc hs hheld ht⟩
  · exact ⟨_, exec_rd p f s, State.rdFlit_served h hc hs hheld⟩
  · match k with
    | 0 => rw [if_pos rfl, exec_wr, State.wrFlit_held h hheld]; rfl
    | 1 => rw [if_neg (by decide), exec_rd, State.rdFlit_held h hheld]; rfl
  · exact ⟨_, exec_tagw p f s, State.tagwFlit_served h hs⟩
  · exact ⟨_, exec_rdRsp p f s, State.rdRspFlit_piece h hq hr hx hgone⟩
  · exact ⟨_, exec_wrAck p f s, State.wrAckFlit_piece h hq hr hp⟩
  · match k with
    | 0 =>
      obtain ⟨h, hr, htag, hrel⟩ := h0 rfl
      exact ⟨_, exec_errRsp p f s, State.errRspFlit_piece h hq hr hp htag hrel⟩
    | 1 => exact ⟨_, exec_reqTmo ⟨r.node, r.tag⟩ s, State.reqTimeout_piece hq hp (h1 rfl)⟩
  · exact ⟨_, exec_forward p f s, State.forward_port hsafe hup hvalid htakes hroute hhops⟩
  · obtain ⟨m, htook, heq⟩ := State.forward_hopless hsafe hup hvalid htakes hroute hhops
    obtain ⟨hrec, hmem, htold, hkept⟩ := htook.dropped (.inl rfl) (global_of_route (s := s) (by rw [hroute]; exact nofun)) 4
    exact ⟨_, exec_forward p f s, heq ▸ hrec, heq ▸ hmem, heq ▸ htold, heq ▸ hkept⟩
  · obtain ⟨m, htook, heq⟩ := State.forward_noRoute hsafe hup hvalid htakes hroute
    obtain ⟨hrec, hmem, htold, hkept⟩ := htook.dropped (.inr rfl) (global_of_route (s := s) (by rw [hroute]; exact nofun)) 1
    exact ⟨_, exec_forward p f s, heq ▸ hrec, heq ▸ hmem, heq ▸ htook.noRoute_counted hvalid hback, heq ▸ htold, heq ▸ hkept⟩
  · refine ⟨_, exec_fwdTmo p s, ?_⟩
    rw [State.fwdTimeout_head h, State.oweFor, hin]
    exact ⟨congrArg Link.txq (s.link_setLink_same p _), State.fld_fwdTimeout rfl, memory_of_eq rfl rfl⟩
  · refine ⟨_, exec_fwdTmo p s, ?_⟩
    rw [State.fwdTimeout_head h, State.oweFor, hin]
    obtain ⟨htxq, howed⟩ := s.owe_sent p q rest f.vc c
    exact ⟨htxq, howed, State.fld_fwdTimeout rfl⟩

end Sys2Proof.Machine

/-! A GOP that issues from the last place a program counter shows (R84, R102): the state in which its sequencer does not move on. -/

namespace Sys2Proof.Machine

open Sys2Proof.Spec

/-- A sequencer that moves on keeps the low 13 bits of its next place, and that it lies past word 8,191. -/
theorem State.pc_advance (m : State) (n q : Nat) : (m.advance n q false).pc n q =
    (m.pc n q + 1) % 8192 + (if 8192 ≤ m.pc n q + 1 then 8192 else 0) := by
  have hlow : (m.advance n q false).fld (Reg.seq_PC q n) = (m.pc n q + 1) % 8192 :=
    m.fld_setFld_same (Reg.seq_PC q n) (m.pc n q + 1) (by simp [Reg.seq_PC]) (by simp [Reg.seq_PC])
  have hpast : 4 * n + q ∈ (m.advance n q false).pcOver ↔ 8192 ≤ m.pc n q + 1 := by
    change 4 * n + q ∈ (if 8192 ≤ m.pc n q + 1 then _ else _) ↔ _
    split <;> simp_all
  rw [State.pc, hlow]
  simp only [hpast]

/-- A GOP of two rows and two waves of FP16 on quadrant 0. -/
def lastPcWord : Nat :=
  0x10 + 2 <<< 67 + 2 <<< 71 + 2 <<< 95 + (0x1_0000 + 2 <<< 28 + 1 <<< 32 + 1 <<< 48) <<< 128 +
    (0x2_0000 + 2 <<< 28 + 2 <<< 32 + 1 <<< 48) <<< 192

/-- Station 1's launch, with that word found alike on its one sequencer. -/
def lastPcLaunch : Launch := ⟨5, 1, some (BitVec.ofNat 256 lastPcWord), false, false, 0⟩

/-- A drain program that keeps nothing. -/
def lastPcDrain : BitVec 192 := BitVec.ofNat 192 (0x4_0000 + 1 <<< 128 + 4 <<< 132 + 64 <<< 184)

/-- Generators of the operand that streams and of the held one. -/
def lastPcGenA : GenSlot := [⟨2, 32⟩, ⟨1, 0⟩, ⟨1, 0⟩, ⟨1, 0⟩, ⟨1, 0⟩, ⟨1, 0⟩]
def lastPcGenB : GenSlot := [⟨16, 32⟩, ⟨1, 0⟩, ⟨1, 0⟩, ⟨1, 0⟩, ⟨1, 0⟩, ⟨1, 0⟩]

/-- Station 1 with a weight, a Tray window and a program slot, whose sequencer on quadrant 0 shows PC 8,191 and stands past the
window's last word: its place is 16,383. -/
def lastPcState : State :=
  { State.reset with
    regs := [(0x150, 0x4#64), (0xC0128, 0x40000#64), (0xC0138, 0x1FFF00#64)], pcOver := [4]
    gens := [(65, lastPcGenA), (66, lastPcGenB)], lslots := [(18, some lastPcDrain)], launches := [(1, some lastPcLaunch)] }

/-- The operation as it issues there. -/
def lastPcGop : Gop :=
  { id := 0, stn := 1, pc := 16383, qmask := 1, word := BitVec.ofNat 256 lastPcWord, agA := lastPcGenA, agB := lastPcGenB
    drains := [⟨0, lastPcDrain, lastPcState.gen 0 1 0⟩], fenced := false, granted := false, chained := false, injected := 0
    inflight := [], held := [], shadow := none, col := 0, done := 0, parts := [], rows := [], blocks := [], psnBlocks := []
    runs := [], staged := [], released := 0, reissue := false, checks := [], taps := [], mxbuf := [], wbuf := []
    slip := none, poison := false }

/-- Refutes O20: nothing in it bounds where a sequencer stands. At place 16,383, the largest that PC and its overflow mark can
hold, a GOP that every check accepts issues, and its sequencer goes on at 8,192. No window of R88 has a word there, so no recipe
comes to this state; a bound of the place, for each quadrant of QMASK, would mend the clause. -/
theorem not_gopIssuesAndGrants : ¬ Obligations.GopIssuesAndGrants := by
  unfold Obligations.GopIssuesAndGrants
  rintro ⟨hissue, -⟩
  have hword : lastPcState.gangWord 1 0x10 = some (lastPcLaunch, lastPcWord) := by decide +kernel
  obtain ⟨-, haccept⟩ := hissue lastPcState 1 lastPcLaunch lastPcWord hword
  have hprograms : lastPcState.programs 1 (gopF lastPcWord) = some lastPcGop.drains := by decide +kernel
  have hnone : lastPcState.gops = [] := rfl
  obtain ⟨-, hgo⟩ := haccept lastPcGop.drains hprograms (by decide +kernel) (by decide +kernel) (by simp [hnone])
    (by simp [hnone]) lastPcGop (by decide +kernel)
  obtain ⟨t, ht, -, -, -, -, hpc, -⟩ := hgo (by decide +kernel)
  have hplace : lastPcState.pc 1 0 = 16383 := by decide +kernel
  have hmoved : (lastPcState.issueGop 1).pc 1 0 = (lastPcState.advance 1 0 false).pc 1 0 := by decide +kernel
  have hend : t.pc 1 0 = 8192 := by
    obtain rfl : lastPcState.issueGop 1 = t := Host.Outcome.next.inj ht
    rw [hmoved, State.pc_advance, hplace]
    rfl
  have hclaim : t.pc 1 0 = lastPcState.pc 1 0 + 1 := hpc 0 (by decide)
  omega

end Sys2Proof.Machine

/-! How waves enter the array and column results leave it: the operands that the cells hold, the preload behind a last tile, the
products counted, the first slip, and the parts of stage 1 (R40, R61, R62, R74, R75, R77, R81, R112). -/

namespace Sys2Proof.Machine

open Sys2Proof.Spec

/-! ## What a wave changes -/

/-- t differs from s at most in what an operation's waves change: registers, the operations and the events. -/
def State.ArrayOnly (s t : State) : Prop := t = { s with regs := t.regs, gops := t.gops, events := t.events, lossPages := t.lossPages }

section ArrayOnly

variable {s t u : State}

theorem State.ArrayOnly.trans (h : s.ArrayOnly t) (k : t.ArrayOnly u) : s.ArrayOnly u := by
  rw [State.ArrayOnly] at h k ⊢
  rw [k, h]

theorem State.ArrayOnly.setFld (m : State) (f : Fld) (v : Nat) : m.ArrayOnly (m.setFld f v) := rfl

theorem State.ArrayOnly.report (m : State) (e : Ev) : m.ArrayOnly (m.report e) := by
  rw [State.report_frame]
  rfl

theorem State.ArrayOnly.sameMemory (h : s.ArrayOnly t) : SameMemory s t := memory_of_eq (by rw [h]) (by rw [h])

/-- Operands read the same bytes and the same poison. -/
theorem State.ArrayOnly.heldElems (h : s.ArrayOnly t) (g : Gop) (k : Nat) : t.heldElems g k = s.heldElems g k := by
  rw [h]
  rfl

theorem State.ArrayOnly.preloaded (h : s.ArrayOnly t) (p : Gop) (l : List Gop) : Spec.preloaded t p l = Spec.preloaded s p l := by
  simp only [Spec.preloaded, h.heldElems]

end ArrayOnly

/-! ## The preload behind a last tile (R61) -/

section Preload

variable {m : State} {p y : Gop}

theorem State.loadFirst_of_ws (hflow : y.f.flow = 0) : m.loadFirst y =
    { y with shadow := if y.shadow = none ∧ y.held = [] then some (0, m.heldElems y 0) else y.shadow } := by
  unfold State.loadFirst
  by_cases hfree : y.shadow = none ∧ y.held = []
  · rw [if_pos hfree, if_neg (by simp [hflow, hfree])]
  · rw [if_neg hfree, if_pos (by simpa [hflow, Option.isSome_iff_ne_none, ← imp_iff_not_or] using hfree)]

@[simp] theorem State.loadFirst_id : (m.loadFirst y).id = y.id := by
  unfold State.loadFirst
  split <;> rfl

/-- p streams its last held tile and lets the first tile of y, behind it, load. -/
def Gop.LetsLoad (p y : Gop) : Prop :=
  p.granted = true ∧ p.holds (p.nTiles - 1) = true ∧ p.shadow = none ∧ p.f.pre = true ∧ p.f.flow = 0 ∧ p.f.bothRegs = false ∧
    y.f.flow = 0 ∧ y.f.bothRegs = false

theorem Gop.LetsLoad.ws (h : p.LetsLoad y) : y.f.flow = 0 := by
  obtain ⟨-, -, -, -, -, -, hflow, -⟩ := h
  exact hflow

variable {l : List Gop}

theorem preloaded_alone (hnext : l.find? (fun x => decide (x.stn = p.stn ∧ p.id < x.id)) = none) : Spec.preloaded m p l = l := by
  rw [Spec.preloaded, hnext]

theorem preloaded_loads (hnext : l.find? (fun x => decide (x.stn = p.stn ∧ p.id < x.id)) = some y) (h : p.LetsLoad y) :
    Spec.preloaded m p l = l.map (fun x => if x.id = y.id then m.loadFirst y else x) := by
  rw [Spec.preloaded, hnext, State.loadFirst_of_ws h.ws]
  exact if_pos h

theorem preloaded_refuses (hnext : l.find? (fun x => decide (x.stn = p.stn ∧ p.id < x.id)) = some y) (h : ¬ p.LetsLoad y) :
    Spec.preloaded m p l = l := by
  rw [Spec.preloaded, hnext]
  exact if_neg h

variable (m p)

/-- The preload changes the operations alone. -/
theorem State.preloadNext_eq : m.preloadNext p = { m with gops := Spec.preloaded m p m.gops } := by
  unfold State.preloadNext
  cases hnext : m.gops.find? (fun x => decide (x.stn = p.stn ∧ p.id < x.id)) with
  | none =>
    rw [preloaded_alone hnext]
    exact ite_self m
  | some y =>
    by_cases h : p.LetsLoad y
    · rw [preloaded_loads hnext h]
      obtain ⟨hgranted, hlast, hshadow, hpre, hflow, hregs, hflow', hregs'⟩ := h
      simp [Gop.inLastTile, State.setGop, hgranted, hlast, hshadow, hpre, hflow, hregs, hflow', hregs']
    · rw [preloaded_refuses hnext h]
      split
      · rfl
      · next hp =>
        refine if_pos (by_contra fun hy => h ?_)
        simp only [Gop.inLastTile, Bool.or_eq_true, Bool.not_eq_true', Bool.and_eq_false_iff, decide_eq_true_eq, not_or,
          Bool.not_eq_true, Bool.not_eq_false, Option.isNone_iff_eq_none, ne_eq, not_not] at hp hy
        obtain ⟨⟨⟨⟨hgranted, hlast, hshadow⟩, hpre⟩, hflow⟩, hregs⟩ := hp
        exact ⟨hgranted, hlast, hshadow, hpre, hflow, hregs, hy.1, hy.2⟩

end Preload

/-! ## A wave's products (R81) -/

section Products

variable (m : State) (f : GopF)

theorem State.countProd_frame : m.countProd f = { m with regs := (m.countProd f).regs } := by
  unfold State.countProd
  generalize f.region = l
  induction l generalizing m with
  | nil => rfl
  | cons q l ih =>
    rw [List.foldl_cons, ih]
    rfl

/-- Counters of other registers keep their values while quadrants count. -/
theorem State.reg_foldl_bump_PROD_other {v : Nat → Nat} {l : List Nat} {o : Nat} (h : ∀ q ∈ l, o ≠ (Reg.grd_PROD q).off) :
    (l.foldl (fun m q => m.bump (Reg.grd_PROD q) (v q)) m).reg o = m.reg o := by
  induction l generalizing m with
  | nil => rfl
  | cons q l ih =>
    rw [List.foldl_cons, ih _ (fun x hx => h x (List.mem_cons_of_mem _ hx)), m.reg_bump_other _ _ (h q List.mem_cons_self)]

theorem State.reg_countProd_other {o : Nat} (h : ∀ q ∈ f.region, o ≠ (Reg.grd_PROD q).off) : (m.countProd f).reg o = m.reg o :=
  m.reg_foldl_bump_PROD_other h

theorem GopF.region_nodup : f.region.Nodup := List.nodup_range.filter _

theorem grd_PROD_off_inj {q x : Nat} (h : (Reg.grd_PROD q).off = (Reg.grd_PROD x).off) : q = x := by
  simp only [Reg.grd_PROD] at h
  omega

/-- Every quadrant of the region counts its own products. -/
theorem State.fld_countProd {q : Nat} (hq : q ∈ f.region) : (m.countProd f).fld (Reg.grd_PROD q) =
    (m.fld (Reg.grd_PROD q) + f.hOf q * f.wOf q * f.lanes) % 2 ^ 64 := by
  have hnodup := f.region_nodup
  unfold State.countProd
  generalize f.region = l at hq hnodup ⊢
  induction l generalizing m with
  | nil => exact absurd hq List.not_mem_nil
  | cons x l ih =>
    obtain ⟨hx, hnodup⟩ := List.nodup_cons.mp hnodup
    rw [List.foldl_cons]
    rcases List.mem_cons.mp hq with rfl | hql
    · have hlater := (m.bump (Reg.grd_PROD q) (f.hOf q * f.wOf q * f.lanes)).reg_foldl_bump_PROD_other
        (v := fun x => f.hOf x * f.wOf x * f.lanes) (l := l) fun y hy e => hx (grd_PROD_off_inj (q := q) (x := y) e ▸ hy)
      exact (State.fld_eq_of_reg hlater).trans (m.fld_bump_wide _ _ rfl rfl)
    · have hqx : q ≠ x := fun e => hx (e ▸ hql)
      rw [ih _ hql hnodup, State.fld_eq_of_reg (m.reg_bump_other _ _ fun e => hqx (grd_PROD_off_inj e))]

/-- No other bit of a register changes. -/
theorem State.bitsBut_countProd : BitsBut m (m.countProd f) (f.region.map Reg.grd_PROD) := by
  intro o k hk
  by_cases ho : ∃ q ∈ f.region, o = (Reg.grd_PROD q).off
  · obtain ⟨q, hq, rfl⟩ := ho
    have h64 : 64 ≤ k := by
      have := hk (Reg.grd_PROD q) (List.mem_map_of_mem hq) rfl
      simp only [Reg.grd_PROD] at this
      omega
    have hclear (n : State) : (n.reg (Reg.grd_PROD q).off).testBit k = false :=
      Nat.testBit_lt_two_pow (lt_of_lt_of_le (n.reg_lt _) (Nat.pow_le_pow_right (by norm_num) h64))
    rw [hclear, hclear]
  · rw [m.reg_countProd_other f (fun q hq e => ho ⟨q, hq, e⟩)]

end Products

/-! ## The first slip (R77, R81) -/

section FirstSlip

variable {g : Gop} (m : State) (x : Slip) (inj : Bool)

/-- Operation g has met its first slip. -/
def Gop.slipped (g : Gop) (x : Slip) : Gop := { g with slip := some x }

/-- The event of a slip. -/
def slipEvent (g : Gop) (x : Slip) (inj : Bool) : Ev :=
  { page := 0x04 + x.quad, code := Code.schedSlip, stn := some g.stn, master := 0x18 + x.quad, acc := 6, inj := inj }

/-- The Griddle's capture of a slip: an empty one takes it. -/
def State.slipCaptured (m : State) (g : Gop) (x : Slip) : State :=
  if m.flag (Reg.grd_VALID x.quad) then m
  else (((((m.setFld (Reg.grd_WAVE_EXP x.quad) x.exp).setFld (Reg.grd_WAVE_GOT x.quad) x.got).setFld (Reg.grd_ISLAND x.quad) x.loc).setFld
    (Reg.grd_KIND x.quad) x.kind).setFld (Reg.grd_SLIP_STN x.quad) g.stn).setFlag (Reg.grd_VALID x.quad) true

/-- The capture and the count of a slip. -/
def State.slipCounted (m : State) (g : Gop) (x : Slip) : State := (m.slipCaptured g x).bump (Reg.grd_SLIP_CNT x.quad) 1

theorem State.ArrayOnly.slipCounted (g : Gop) : m.ArrayOnly (m.slipCounted g x) := by
  refine .trans (t := m.slipCaptured g x) ?_ rfl
  unfold State.slipCaptured
  split
  · rfl
  · exact (((((State.ArrayOnly.setFld m _ _).trans (.setFld _ _ _)).trans (.setFld _ _ _)).trans (.setFld _ _ _)).trans
      (.setFld _ _ _)).trans (.setFld _ _ _)

theorem State.slipCounted_gops (g : Gop) : (m.slipCounted g x).gops = m.gops := by
  rw [State.slipCounted, State.bump_gops, State.slipCaptured]
  split <;> simp

theorem State.slipCounted_events (g : Gop) : (m.slipCounted g x).events = m.events := by
  rw [State.slipCounted, State.bump_events, State.slipCaptured]
  split <;> simp

/-- The capture is one register. -/
theorem State.reg_slipCaptured_other (g : Gop) {o : Nat} (h : o ≠ 0x40000 + 0x10000 * x.quad + 0x108) :
    (m.slipCaptured g x).reg o = m.reg o := by
  unfold State.slipCaptured
  split
  · rfl
  · rw [State.reg_setFlag_other _ _ _ h, State.reg_setFld_other _ _ _ h, State.reg_setFld_other _ _ _ h, State.reg_setFld_other _ _ _ h,
      State.reg_setFld_other _ _ _ h, State.reg_setFld_other _ _ _ h]

theorem State.fld_slipCounted (g : Gop) :
    (m.slipCounted g x).fld (Reg.grd_SLIP_CNT x.quad) = min (m.fld (Reg.grd_SLIP_CNT x.quad) + 1) (2 ^ 32 - 1) := by
  have hcapture : (m.slipCaptured g x).fld (Reg.grd_SLIP_CNT x.quad) = m.fld (Reg.grd_SLIP_CNT x.quad) :=
    State.fld_eq_of_reg (m.reg_slipCaptured_other x g (by simp [Reg.grd_SLIP_CNT]))
  rw [State.slipCounted, State.fld_bump_same _ _ _ (by simp [Reg.grd_SLIP_CNT]) (by simp [Reg.grd_SLIP_CNT]) (by simp [Reg.grd_SLIP_CNT]),
    hcapture]
  rfl

/-- The state once operation g has taken its first slip: captured, counted and reported. -/
def State.slipTaken (m : State) (g : Gop) (x : Slip) (inj : Bool) : State := (m.slipCounted g x).report (slipEvent g x inj)

/-- An operation without a slip takes it. -/
theorem State.slip_first (h : g.slip = none) : m.slip g x inj = (m.slipTaken g x inj, g.slipped x) := by
  rw [State.slip, h]
  rfl

theorem State.ArrayOnly.slipTaken (g : Gop) : m.ArrayOnly (m.slipTaken g x inj) :=
  (State.ArrayOnly.slipCounted m x g).trans (.report _ _)

theorem State.slipTaken_gops (g : Gop) : (m.slipTaken g x inj).gops = m.gops := by
  rw [State.slipTaken, State.report_frame]
  exact m.slipCounted_gops x g

/-- A slip that no injection made raises SCHED_SLIP (R77). -/
theorem State.reported_slipTaken (g : Gop) : Reported m (m.slipTaken g x false) (4 + x.quad) 0x01 := by
  have h := (m.slipCounted g x).reported_report (slipEvent g x false) rfl
  rwa [Reported, State.slipCounted_events] at h

theorem State.fld_slipTaken (g : Gop) :
    (m.slipTaken g x inj).fld (Reg.grd_SLIP_CNT x.quad) = min (m.fld (Reg.grd_SLIP_CNT x.quad) + 1) (2 ^ 32 - 1) :=
  (State.fld_eq_of_reg (State.reg_report_other _ _ (by simp only [slipEvent, Reg.grd_SLIP_CNT]; omega))).trans (m.fld_slipCounted x g)

end FirstSlip

section FirstMis

/-- One detection against the one taken so far. -/
def lowerMis (b : Option Mis) (x : Mis) : Option Mis :=
  match b with
  | none => some x
  | some y => if x.island.val < y.island.val then some x else some y

theorem firstMis_eq (l : List Mis) : firstMis l = l.foldl lowerMis none := rfl

variable {x : Mis}

/-- The lowest detection wins from where it is met on: it is the one taken, or it is still to come and lies below the one taken. -/
theorem foldl_lowerMis {l : List Mis} (hmin : ∀ y ∈ l, y = x ∨ x.island < y.island) {b : Option Mis}
    (h : b = some x ∨ x ∈ l ∧ ∀ y ∈ b, x.island < y.island) : l.foldl lowerMis b = some x := by
  induction l generalizing b with
  | nil => exact h.resolve_right (fun hx => List.not_mem_nil hx.1)
  | cons y l ih =>
    obtain ⟨hy, hmin⟩ := List.forall_mem_cons.mp hmin
    refine ih hmin ?_
    rcases h with rfl | ⟨hx, hb⟩
    · left
      rcases hy with rfl | hy
      · exact if_neg (lt_irrefl _)
      · exact if_neg (lt_asymm (Fin.lt_def.mp hy))
    · rcases hy with rfl | hy
      · left
        cases b with
        | none => rfl
        | some z => exact if_pos (hb z rfl)
      · right
        have hne : x ≠ y := fun e => lt_irrefl _ (e ▸ hy)
        refine ⟨(List.mem_cons.mp hx).resolve_left hne, ?_⟩
        cases b with
        | none => simpa [lowerMis] using hy
        | some z =>
          have hz := hb z rfl
          dsimp only [lowerMis]
          split <;> simpa

/-- The detection at the lowest island is taken (R77). -/
theorem firstMis_of_lowest {l : List Mis} (hx : x ∈ l) (hmin : ∀ y ∈ l, y = x ∨ x.island < y.island) : firstMis l = some x :=
  (firstMis_eq l).trans (foldl_lowerMis hmin (.inr ⟨hx, nofun⟩))

end FirstMis

/-! ## Waves (R74) -/

/-- A read that meets no double error, with no injection armed for it, changes nothing (R232). -/
theorem State.sramRead_calm (m : State) {page k n master addr : Nat} (h : m.injFires page k = false) :
    m.sramRead page k n master addr false = (false, m) := by
  rw [State.sramRead, if_neg Bool.false_ne_true, h]
  rfl

section Entry

variable (f : GopF) {q : Nat}

theorem GopF.entryA_lt (hq : q ∈ f.entryA) : q < 4 := List.mem_range.mp (List.mem_of_mem_filter hq)

theorem GopF.entryB_lt (hq : q ∈ f.entryB) : q < 4 := List.mem_range.mp (List.mem_of_mem_filter hq)

theorem GopF.entryA_head_lt : f.entryA.headD 0 < 4 := by
  cases he : f.entryA with
  | nil => exact Nat.succ_pos 3
  | cons q l => exact f.entryA_lt (q := q) (by rw [he]; exact List.mem_cons_self)

end Entry

section Wave

variable {s : State} {g : Gop}

/-- Operation g has taken a wave. -/
def Gop.took (g : Gop) (w : Wave) : Gop := { g with injected := w.num + 1, inflight := g.inflight ++ [w] }

/-- The next wave of an operation, with a sound tag. -/
def State.nextWave (s : State) (g : Gop) : Wave :=
  let k := g.injected
  let at_ := g.waveAt k
  ⟨k, at_.1, at_.2.1, at_.2.2, k % 4, if g.f.flow = 2 then s.rsElems g k none else s.rowElems g k none,
    if g.f.flow = 1 then s.osElemsB g k none else []⟩

/-- The slip that a detection is. -/
def slipOf (x : Mis) : Slip := ⟨if x.entry then 1 else 0, x.island.val, x.exp, x.got, islandQuad x.island.val⟩

/-- What cells and islands see of a wave. -/
def State.firstSlip (s : State) (g : Gop) (mis : List Mis) : State × Gop :=
  match firstMis mis with
  | some x => s.slip g (slipOf x) false
  | none => (s, g)

section Activate

variable (s g) (t : Nat)

theorem State.activateTile_id : (s.activateTile g t).id = g.id := by
  unfold State.activateTile
  split <;> rfl

theorem State.activateTile_inflight : (s.activateTile g t).inflight = g.inflight := by
  unfold State.activateTile
  split <;> rfl

theorem State.activateTile_slip : (s.activateTile g t).slip = g.slip := by
  unfold State.activateTile
  split <;> rfl

end Activate

/-- A wave w of operation g enters. -/
def State.enters (m : State) (f : GopF) (g : Gop) (w : Wave) : State := ((m.countProd f).setGop (g.took w)).preloadNext (g.took w)

theorem State.enters_eq (m : State) (f : GopF) (g : Gop) (w : Wave) {i : Nat} (hid : g.id = i) : m.enters f g w =
    { m with
      regs := (m.countProd f).regs
      gops := Spec.preloaded m (g.took w) (m.gops.map (fun x => if x.id = i then g.took w else x)) } := by
  subst hid
  have honly : m.ArrayOnly ((m.countProd f).setGop (g.took w)) := by
    rw [State.countProd_frame]
    rfl
  rw [State.enters, State.preloadNext_eq, honly.preloaded, State.setGop, State.countProd_frame]
  rfl

theorem State.ArrayOnly.enters (m : State) (f : GopF) (g : Gop) (w : Wave) : m.ArrayOnly (m.enters f g w) := by
  rw [m.enters_eq f g w rfl]
  rfl

/-- A wave that enters counts no slip. -/
theorem State.fld_enters_SLIP_CNT (m : State) (f : GopF) (g : Gop) (w : Wave) (q : Nat) :
    (m.enters f g w).fld (Reg.grd_SLIP_CNT q) = m.fld (Reg.grd_SLIP_CNT q) := by
  rw [m.enters_eq f g w rfl]
  exact State.fld_eq_of_reg (m.reg_countProd_other f fun x _ => by simp only [Reg.grd_SLIP_CNT, Reg.grd_PROD]; omega)

theorem State.enters_events (m : State) (f : GopF) (g : Gop) (w : Wave) : (m.enters f g w).events = m.events := by
  rw [m.enters_eq f g w rfl]

theorem State.enters_gops (m : State) (f : GopF) (g : Gop) (w : Wave) {i : Nat} (hid : g.id = i) :
    (m.enters f g w).gops = Spec.preloaded m (g.took w) (m.gops.map (fun x => if x.id = i then g.took w else x)) := by
  rw [m.enters_eq f g w hid]

section Calm

variable (hfind : s.gops.find? (fun x => x.granted && !x.allIn) = some g)
  (hroom : g.canInject (decide (∀ x ∈ s.gops, x.granted = true → x.id = g.id ∨ g.id < x.id)) = true) (hsafe : s.safe = false)
  (hcalm : ∀ q, q < 4 → s.injFires (0x0C + q) 1 = false ∧ s.injFires (4 + q) 0 = false)
include hfind hroom hsafe hcalm

/-- With no injection armed, a wave with a sound tag enters, and what is seen of it is its operation's first slip. -/
theorem State.injectWave_calm (mis : List Mis) :
    s.injectWave mis false =
      (s.firstSlip (s.activateTile g (g.waveAt g.injected).1) mis).1.enters g.f
        (s.firstSlip (s.activateTile g (g.waveAt g.injected).1) mis).2 (s.nextWave g) := by
  have halone : s.gops.all (fun x => !x.granted || decide (x.id = g.id ∨ g.id < x.id)) =
      decide (∀ x ∈ s.gops, x.granted = true → x.id = g.id ∨ g.id < x.id) := by
    rw [Bool.eq_iff_iff]
    simp [or_iff_not_imp_left]
  have hread (a : Nat) : s.sramRead (0x0C + g.f.entryA.headD 0) 1 g.stn (0x10 + g.f.entryA.headD 0) a false = (false, s) :=
    s.sramRead_calm (hcalm _ g.f.entryA_head_lt).1
  have hscan : g.f.entryA.find? (fun q => s.injFires (0x0C + q) 1) = none :=
    List.find?_eq_none.mpr fun q hq => by simp [(hcalm q (g.f.entryA_lt hq)).1]
  have htag : (g.f.entryA ++ (if g.f.flow = 1 then g.f.entryB else [])).find? (fun q => s.injFires (0x04 + q) 0) = none :=
    List.find?_eq_none.mpr fun q hq => by
      have hq4 : q < 4 := by
        rcases List.mem_append.mp hq with hq | hq
        · exact g.f.entryA_lt hq
        · split at hq
          · exact g.f.entryB_lt hq
          · exact absurd hq List.not_mem_nil
      simp [(hcalm q hq4).2]
  simp only [State.injectWave, hfind, halone, hroom, hsafe, hscan, Option.getD_none, hread, htag, Option.bind_none]
  rw [if_neg (by decide)]
  rfl

theorem State.injectWave_sound :
    s.injectWave [] false = s.enters g.f (s.activateTile g (g.waveAt g.injected).1) (s.nextWave g) :=
  State.injectWave_calm hfind hroom hsafe hcalm []

theorem State.injectWave_slips {x : Mis} {xs : List Mis} (hx : x ∈ xs) (hmin : ∀ y ∈ xs, y = x ∨ x.island < y.island)
    (hnone : g.slip = none) :
    let g1 := s.activateTile g (g.waveAt g.injected).1
    s.injectWave xs false = (s.slipTaken g1 (slipOf x) false).enters g.f (g1.slipped (slipOf x)) (s.nextWave g) := by
  intro g1
  have hseen : s.firstSlip g1 xs = (s.slipTaken g1 (slipOf x) false, g1.slipped (slipOf x)) := by
    rw [State.firstSlip, firstMis_of_lowest hx hmin]
    exact s.slip_first (slipOf x) false ((s.activateTile_slip g _).trans hnone)
  rw [State.injectWave_calm hfind hroom hsafe hcalm, hseen]

end Calm

end Wave

/-! ## Column results (R112) -/

/-- A result of an element that more columns add to enters the element's part and goes nowhere. -/
theorem State.columnResult_notLast {s : State} {g : Gop} {c : Cell} (hdue : s.gops.find? (fun x => x.due) = some g)
    (hcell : g.cell = some c) (hlast : c.last = false) (hextra : g.extra c = false) (hsafe : s.safe = false)
    (hinteg : s.integ g.stn = 0) (hcalm : s.injFires (8 + c.quad) 0 = false) (hcol : g.col ≠ g.lastCol)
    (htag : ∀ w, g.inflight.head? = some w → g.f.flow = 1 ∨ w.tag = g.done % 4) :
    s.columnResult false false = s.setGop { g with
      col := g.col + 1
      parts := g.parts.set (fun _ => .empty) (g.partKey c)
        (g.f.addResult c (g.parts.part (g.partKey c)) g.reissue (g.slip.isSome || g.poison)).1 } := by
  have hsound : s.checkTag g c = (s, g) := by
    unfold State.checkTag
    cases hw : g.inflight with
    | nil => rfl
    | cons w l => exact if_neg fun h => (htag w (by rw [hw]; rfl)).elim h.1 h.2
  have hread : s.sramRead (0x08 + c.quad) 0 g.stn (0x14 + c.quad) 0 false = (false, s) :=
    s.sramRead_calm hcalm
  unfold State.columnResult
  rw [hdue]
  simp only [hcell, hlast, hextra, hsafe, hinteg, hsound, hread, ite_self, Bool.false_eq_true, if_false, if_true,
    and_false, Bool.false_and, Bool.not_false, List.isEmpty_nil, Bool.not_true, Bool.false_or]
  exact if_neg hcol

/-! ## The commands -/

theorem exec_waveInject (mis : List Mis) (upset : Bool) (s : State) :
    exec (.waveInject mis upset) s = .next (s.injectWave mis upset) := rfl

theorem exec_columnResult (upset laneDiff : Bool) (s : State) :
    exec (.columnResult upset laneDiff) s = .next (s.columnResult upset laneDiff).landed := rfl

/-- Settles O21: a wave that enters unseen, one that slips first, and a result that is not its element's last. -/
theorem wavesAndColumnResults : Obligations.WavesAndColumnResults := by
  unfold Obligations.WavesAndColumnResults
  refine ⟨fun s g hfind hroom hsafe hcalm => ?_, fun s g c hdue hcell hlast hextra hsafe hinteg hcalm hcol htag => ?_⟩
  · intro k at_ g1 wave prods g2
    have hg1 : s.activateTile g at_.1 = g1 := by
      unfold State.activateTile g1
      split
      · rfl
      · simp only [Bool.not_eq_true'] <;> rfl
    have hid : g1.id = g.id := by rw [← hg1, State.activateTile_id]
    have hinflight : g1.inflight = g.inflight := by rw [← hg1, State.activateTile_inflight]
    have hg2 : g1.took wave = g2 := congrArg (fun l => ({ g1 with injected := k + 1, inflight := l ++ [wave] } : Gop)) hinflight
    refine ⟨⟨s.enters g.f g1 wave, ?_, ?_⟩, fun x xs hx hmin hnone => ?_⟩
    · rw [exec_waveInject, State.injectWave_sound hfind hroom hsafe hcalm, ← hg1]
      rfl
    · rw [s.enters_eq g.f g1 wave hid, hg2]
      exact ⟨rfl, s.bitsBut_countProd g.f, fun q hq => s.fld_countProd g.f hq, rfl⟩
    · refine ⟨(s.slipTaken g1 (slipOf x) false).enters g.f (g1.slipped (slipOf x)) wave, ?_, ?_⟩
      · rw [exec_waveInject, State.injectWave_slips hfind hroom hsafe hcalm hx hmin hnone, ← hg1]
        rfl
      · have honly := (State.ArrayOnly.slipTaken s (slipOf x) false g1).trans
          (.enters _ g.f (g1.slipped (slipOf x)) wave)
        refine ⟨?_, honly.sameMemory, ?_, ?_⟩
        · rw [Reported, State.enters_events]
          exact s.reported_slipTaken (slipOf x) g1
        · exact (State.fld_enters_SLIP_CNT _ _ _ _ _).trans (s.fld_slipTaken (slipOf x) false g1)
        · rw [State.enters_gops _ _ (g1.slipped (slipOf x)) wave hid, (State.ArrayOnly.slipTaken s (slipOf x) false g1).preloaded,
            State.slipTaken_gops, ← hg2]
          rfl
  · rw [exec_columnResult, State.columnResult_notLast hdue hcell hlast hextra hsafe hinteg hcalm hcol htag]
    rfl

end Sys2Proof.Machine

/-! The registers of the sequencers, and what a command that issues, a recipe that stops and one that starts leave of them (R82 to
R94). -/

namespace Sys2Proof.Machine

open Sys2Proof.Spec

-- One proof at a time: side by side, their threads take more memory than the check has.
set_option Elab.async false

/-! ## Steps in a row -/

section Folds

variable {α β γ : Type} {f : α → β → α} {v : α → γ} {l : List β}

/-- What no step changes stands at their end. -/
theorem foldl_keeps (h : ∀ m, ∀ b ∈ l, v (f m b) = v m) (m : α) : v (l.foldl f m) = v m := by
  induction l generalizing m with
  | nil => rfl
  | cons b l ih =>
    rw [List.foldl_cons, ih (fun m c hc => h m c (List.mem_cons_of_mem _ hc)), h m b List.mem_cons_self]

/-- What one step alone changes has been changed once. -/
theorem foldl_once {g : γ → γ} {b : β} (hl : l.Nodup) (hb : b ∈ l) (own : ∀ m, v (f m b) = g (v m))
    (other : ∀ m, ∀ c ∈ l, c ≠ b → v (f m c) = v m) (m : α) : v (l.foldl f m) = g (v m) := by
  induction l generalizing m with
  | nil => exact absurd hb List.not_mem_nil
  | cons c l ih =>
    obtain ⟨hc, hl⟩ := List.nodup_cons.mp hl
    rw [List.foldl_cons]
    rcases List.mem_cons.mp hb with rfl | hbl
    · rw [foldl_keeps fun m x hx => other m x (List.mem_cons_of_mem _ hx) (fun e => hc (e ▸ hx)), own]
    · rw [ih hl hbl (fun m x hx => other m x (List.mem_cons_of_mem _ hx)), other m c List.mem_cons_self (fun e => hc (e ▸ hbl))]

/-- A relation that each step keeps holds of all. -/
theorem foldl_rel {r : α → α → Prop} (hrefl : ∀ m, r m m) (htrans : ∀ {m k j}, r m k → r k j → r m j)
    (h : ∀ m, ∀ b ∈ l, r m (f m b)) (m : α) : r m (l.foldl f m) := by
  induction l generalizing m with
  | nil => exact hrefl m
  | cons b l ih => exact htrans (h m b List.mem_cons_self) (ih (fun m c hc => h m c (List.mem_cons_of_mem _ hc)) _)

end Folds

/-! ## Fields of one register and of another -/

/-- A field of a 64-bit register. -/
def Fld.ok (f : Fld) : Bool := Nat.ble f.lo f.hi && Nat.blt f.hi 64

/-- Two fields that share no bit where they share a register. -/
def Fld.beside (f g : Fld) : Bool := Nat.blt f.hi g.lo || Nat.blt g.hi f.lo

theorem Fld.ok_bounds {f : Fld} (h : f.ok = true) : f.lo ≤ f.hi ∧ f.hi < 64 := by simpa [Fld.ok] using h

section Fields

variable (m : State) (f g : Fld) (v : Nat)

theorem State.fld_setFld (hf : f.ok = true := by rfl) : (m.setFld f v).fld f = v % 2 ^ (f.hi + 1 - f.lo) :=
  m.fld_setFld_same f v (Fld.ok_bounds hf).1 (Fld.ok_bounds hf).2

theorem State.flag_setFlag (b : Bool) (hf : f.ok = true := by rfl) : (m.setFlag f b).flag f = b :=
  m.flag_setFlag_same f b (Fld.ok_bounds hf).1 (Fld.ok_bounds hf).2

theorem State.fld_setFld_beside (h : f.beside g = true := by rfl) (hf : f.ok = true := by rfl) : (m.setFld f v).fld g = m.fld g :=
  m.fld_setFld_other f g v (Fld.ok_bounds hf).1 (Fld.ok_bounds hf).2 (.inr (by simpa [Fld.beside] using h))

theorem State.flag_setFld_beside (h : f.beside g = true := by rfl) (hf : f.ok = true := by rfl) : (m.setFld f v).flag g = m.flag g := by
  rw [State.flag, m.fld_setFld_beside f g v h hf, State.flag]

end Fields

/-! ## Registers left alone but for listed fields -/

section BitsBut

variable {s t u : State} {fs gs : List Fld} {f g : Fld}

theorem bitsBut_of_regs (h : t.regs = s.regs) : BitsBut s t fs := fun o k _ => by rw [State.reg, h, State.reg]

theorem bitsBut_refl (s : State) : BitsBut s s fs := bitsBut_of_regs rfl

theorem bitsBut_trans (h : BitsBut s t fs) (k : BitsBut t u fs) : BitsBut s u fs :=
  fun o j hj => (k o j hj).trans (h o j hj)

theorem bitsBut_mono (h : BitsBut s t fs) (hsub : ∀ f ∈ fs, f ∈ gs) : BitsBut s t gs :=
  fun o k hk => h o k fun f hf => hk f (hsub f hf)

theorem bitsBut_setFld (m : State) (v : Nat) (hf : f ∈ fs) (hok : f.ok = true := by rfl) : BitsBut m (m.setFld f v) fs := by
  intro o k hk
  obtain ⟨hlo, hhi⟩ := Fld.ok_bounds hok
  rw [State.reg_setFld _ _ _ _ hlo hhi]
  split
  · next ho =>
    have hout := hk f hf ho.symm
    rw [ho, testBit_insertBits _ _ _ _ _ hlo, if_neg (by omega)]
  · rfl

theorem bitsBut_foldl {β : Type} {step : State → β → State} {l : List β} (h : ∀ m, ∀ b ∈ l, BitsBut m (step m b) fs) (m : State) :
    BitsBut m (l.foldl step m) fs := 
    foldl_rel (r := fun s t => BitsBut s t fs) (fun s => bitsBut_refl s) (fun h k => bitsBut_trans h k) h m

theorem reg_of_bitsBut (h : BitsBut s t fs) {o : Nat} (ho : ∀ f ∈ fs, f.off ≠ o) : t.reg o = s.reg o :=
  Nat.eq_of_testBit_eq fun k => h o k fun f hf e => absurd e (ho f hf)

end BitsBut

/-! ## Program counters -/

section Pc

variable (m : State) {n q : Nat}

/-- The place that a sequencer shows and its mark make of v. -/
def placeShown (v : Nat) : Nat := v % 8192 + if 8192 ≤ v then 8192 else 0

theorem placeShown_of_lt {v : Nat} (h : v < 16384) : placeShown v = v := by
  unfold placeShown
  split <;> omega

theorem State.pc_setPc_same (n q v : Nat) : (m.setPc n q v).pc n q = placeShown v := by
  have hlow : (m.setPc n q v).fld (Reg.seq_PC q n) = v % 8192 := m.fld_setFld (Reg.seq_PC q n) v
  have hpast : 4 * n + q ∈ (m.setPc n q v).pcOver ↔ 8192 ≤ v := by
    unfold State.setPc
    split <;> simp_all
  rw [State.pc, hlow, placeShown]
  simp only [hpast]

theorem State.pc_congr {s t : State} (hfld : t.fld (Reg.seq_PC q n) = s.fld (Reg.seq_PC q n)) (hover : t.pcOver = s.pcOver) :
    t.pc n q = s.pc n q := by
  rw [State.pc, State.pc, hfld, hover]

/-- Sequencers of one state register are one sequencer. -/
theorem seq_off_inj {n q j p : Nat} (hn : n < 8) (hj : j < 8) (h : (Reg.seq_PC p j).off = (Reg.seq_PC q n).off) : j = n ∧ p = q := by
  simp only [Reg.seq_PC] at h
  omega

theorem State.pc_setPc_other (v : Nat) {j p : Nat} (hn : n < 8) (hj : j < 8) (hq : q < 4) (hp : p < 4) (h : ¬ (j = n ∧ p = q)) :
    (m.setPc n q v).pc j p = m.pc j p := by
  have hlow : (m.setPc n q v).fld (Reg.seq_PC p j) = m.fld (Reg.seq_PC p j) :=
    State.fld_eq_of_reg (m.reg_setFld_other (Reg.seq_PC q n) v fun e => h (seq_off_inj hn hj e))
  have hkey : 4 * j + p ≠ 4 * n + q := by omega
  have hpast : 4 * j + p ∈ (m.setPc n q v).pcOver ↔ 4 * j + p ∈ m.pcOver := by
    unfold State.setPc
    split <;> simp [hkey]
  rw [State.pc, State.pc, hlow]
  simp only [hpast]

end Pc

/-! ## A sequencer that moves on -/

section Advance

variable (m : State) (n q : Nat) (d : Bool)

theorem State.pc_advance_same : (m.advance n q d).pc n q = placeShown (m.pc n q + 1) := by
  rw [← m.pc_setPc_same n q (m.pc n q + 1), State.advance]
  cases d with
  | false => rfl
  | true => exact State.pc_congr (State.fld_setFld_beside _ (Reg.seq_CMD_DONE q n) (Reg.seq_PC q n) _) rfl

theorem State.fld_advance_DONE : (m.advance n q d).fld (Reg.seq_CMD_DONE q n) =
    if d then min (m.fld (Reg.seq_CMD_DONE q n) + 1) (2 ^ 32 - 1) else m.fld (Reg.seq_CMD_DONE q n) := by
  have hpc : (m.setPc n q (m.pc n q + 1)).fld (Reg.seq_CMD_DONE q n) = m.fld (Reg.seq_CMD_DONE q n) :=
    m.fld_setFld_beside (Reg.seq_PC q n) (Reg.seq_CMD_DONE q n) _
  rw [State.advance]
  cases d with
  | false => exact hpc
  | true =>
    rw [← hpc]
    exact State.fld_bump_same _ (Reg.seq_CMD_DONE q n) 1 (Nat.le_of_ble_eq_true rfl) (Nat.le_of_ble_eq_true rfl) (by simp [Reg.seq_CMD_DONE])

theorem State.bitsBut_advance : BitsBut m (m.advance n q d) [Reg.seq_PC q n, Reg.seq_CMD_DONE q n] := by
  have hpc : BitsBut m (m.setPc n q (m.pc n q + 1)) [Reg.seq_PC q n, Reg.seq_CMD_DONE q n] :=
    bitsBut_setFld (f := Reg.seq_PC q n) m _ (by simp)
  rw [State.advance]
  cases d with
  | false => exact hpc
  | true => exact bitsBut_trans hpc (bitsBut_setFld (f := Reg.seq_CMD_DONE q n) _ _ (by simp))

/-- No register but the sequencer's own. -/
theorem State.reg_advance_other {o : Nat} (h : o ≠ (Reg.seq_PC q n).off) : (m.advance n q d).reg o = m.reg o :=
  reg_of_bitsBut (m.bitsBut_advance n q d) (by simpa [Reg.seq_PC, Reg.seq_CMD_DONE] using h.symm)

variable {n q}

theorem State.pc_advance_other {j p : Nat} (hn : n < 8) (hj : j < 8) (hq : q < 4) (hp : p < 4) (h : ¬ (j = n ∧ p = q)) :
    (m.advance n q d).pc j p = m.pc j p := by
  rw [← m.pc_setPc_other (m.pc n q + 1) hn hj hq hp h, State.advance]
  cases d with
  | false => rfl
  | true =>
    exact State.pc_congr (State.fld_eq_of_reg (State.reg_bump_other _ (Reg.seq_CMD_DONE q n) 1 fun e =>
      h (seq_off_inj hn hj (by simpa [Reg.seq_PC, Reg.seq_CMD_DONE] using e)))) rfl

theorem State.pcsBut_advance (hn : n < 8) (hq : q < 4) : PcsBut m (m.advance n q d) n [q] :=
  fun _ _ hj hp h => m.pc_advance_other d hn hj hq hp (by simpa using h)

variable {m}

/-- A place inside its window, which holds 16,383 words at most, is followed by a place that its sequencer shows (R88). -/
theorem placeShown_of_inBounds (h : m.inBounds n q = true) : placeShown (m.pc n q + 1) = m.pc n q + 1 := by
  have hlen := m.fld_lt (Reg.seq_RLEN q n)
  have hpc : m.pc n q < m.fld (Reg.seq_RLEN q n) := of_decide_eq_true h
  simp only [Reg.seq_RLEN] at hlen hpc
  exact placeShown_of_lt (by omega)

theorem State.advanced_advance (h : m.inBounds n q = true) : Advanced m (m.advance n q true) n q :=
  ⟨(m.pc_advance_same n q true).trans (placeShown_of_inBounds h), m.fld_advance_DONE n q true⟩

/-- What else a command does leaves the sequencer where its move put it. -/
theorem advanced_congr {s t u : State} (h : Advanced s t n q) (hreg : u.reg (Reg.seq_PC q n).off = t.reg (Reg.seq_PC q n).off)
    (hover : u.pcOver = t.pcOver) : Advanced s u n q :=
  ⟨(State.pc_congr (State.fld_eq_of_reg hreg) hover).trans h.1, (State.fld_eq_of_reg (f := Reg.seq_CMD_DONE q n) hreg).trans h.2⟩

end Advance

/-! ## Launches and holds -/

section Launch

variable (m : State)

theorem mem_quads {mask q : Nat} : q ∈ quads mask ↔ q < 4 ∧ mask.testBit q = true := by simp [quads]

theorem quads_nodup (mask : Nat) : (quads mask).Nodup := List.nodup_range.filter _

theorem State.launch_setLaunch (n k : Nat) (l : Option Launch) : (m.setLaunch n l).launch k = if k = n then l else m.launch k :=
  SMap.get_set _ _ _ _ _

theorem State.hold_setHold (n q : Nat) (h : Option Hold) (j p : Nat) :
    (m.setHold n q h).hold j p = if 4 * j + p = 4 * n + q then h else m.hold j p := SMap.get_set _ _ _ _ _

theorem State.launch_congr {s t : State} (h : t.launches = s.launches) (n : Nat) : t.launch n = s.launch n := by
  rw [State.launch, State.launch, h]

theorem State.hold_congr {s t : State} (h : t.holds = s.holds) (n q : Nat) : t.hold n q = s.hold n q := by
  rw [State.hold, State.hold, h]

end Launch

/-! ## A gang command that has issued (R84) -/

section GangDone

variable (m : State) (n : Nat) (l : Launch) (d : Bool)

theorem State.gangDone_frame : m.gangDone n l d =
    { m with regs := (m.gangDone n l d).regs, launches := (m.setLaunch n (some { l with gang := none })).launches,
             pcOver := (m.gangDone n l d).pcOver } := by
  unfold State.gangDone
  generalize hs : m.setLaunch n (some { l with gang := none }) = s
  have hfold : (quads l.qmask).foldl (fun m q => m.advance n q d) s =
      { s with regs := ((quads l.qmask).foldl (fun m q => m.advance n q d) s).regs,
               pcOver := ((quads l.qmask).foldl (fun m q => m.advance n q d) s).pcOver } :=
    foldl_rel (r := fun s t : State => t = { s with regs := t.regs, pcOver := t.pcOver }) (fun _ => rfl)
      (fun h k => by rw [k, h]) (fun m q _ => m.advance_frame n q d) s
  rw [hfold, ← hs]
  rfl

theorem State.launches_gangDone : (m.gangDone n l d).launches = (m.setLaunch n (some { l with gang := none })).launches := by
  rw [State.gangDone_frame]

/-- What a gang command changes beside its own effect. -/
theorem State.gangDone_only : m.gangDone n l d =
    { m with regs := (m.gangDone n l d).regs, launches := (m.gangDone n l d).launches, pcOver := (m.gangDone n l d).pcOver } := by
  rw [State.launches_gangDone]
  exact m.gangDone_frame n l d

theorem State.launch_gangDone (k : Nat) : (m.gangDone n l d).launch k = if k = n then some { l with gang := none } else m.launch k := by
  rw [← m.launch_setLaunch n k, State.gangDone_frame]
  rfl

theorem State.bitsBut_gangDone : BitsBut m (m.gangDone n l d) ((quads l.qmask).flatMap (fun q => [Reg.seq_PC q n, Reg.seq_CMD_DONE q n])) :=
  bitsBut_trans (bitsBut_of_regs (t := m.setLaunch n (some { l with gang := none })) rfl) (bitsBut_foldl (fun m q hq => bitsBut_mono (m.bitsBut_advance n q d)
    fun _ hf => List.mem_flatMap.mpr ⟨q, hq, hf⟩) _)

variable {n l}

theorem State.pcsBut_gangDone (hn : n < 8) : PcsBut m (m.gangDone n l d) n (quads l.qmask) := by
  intro j p hj hp h
  refine (foldl_keeps (v := fun m : State => m.pc j p) (fun m q hq => ?_) _).trans ?_
  · exact m.pc_advance_other d hn hj (mem_quads.mp hq).1 hp fun ⟨e, e'⟩ => h ⟨e, e' ▸ hq⟩
  · exact State.pc_congr rfl rfl

/-- Every sequencer of the launch moves on once. -/
theorem State.gangDone_at (hn : n < 8) {q : Nat} (hq : q ∈ quads l.qmask) :
    (m.gangDone n l d).pc n q = placeShown (m.pc n q + 1) ∧ (m.gangDone n l d).fld (Reg.seq_CMD_DONE q n) =
      if d then min (m.fld (Reg.seq_CMD_DONE q n) + 1) (2 ^ 32 - 1) else m.fld (Reg.seq_CMD_DONE q n) := by
  have hview := foldl_once (f := fun (m : State) q => m.advance n q d) (v := fun m : State => (m.pc n q, m.fld (Reg.seq_CMD_DONE q n)))
    (g := fun x => (placeShown (x.1 + 1), if d then min (x.2 + 1) (2 ^ 32 - 1) else x.2)) (quads_nodup l.qmask) hq
    (fun m => Prod.ext (m.pc_advance_same n q d) (m.fld_advance_DONE n q d))
    (fun m p hp hne => Prod.ext (m.pc_advance_other d hn hn (mem_quads.mp hp).1 (mem_quads.mp hq).1 fun e => hne e.2.symm)
      (State.fld_eq_of_reg (m.reg_advance_other n p d fun e => hne (seq_off_inj hn hn
        (by simpa [Reg.seq_PC, Reg.seq_CMD_DONE] using e)).2.symm)))
    (m.setLaunch n (some { l with gang := none }))
  exact Prod.ext_iff.mp hview

theorem State.advanced_gangDone (hn : n < 8) {q : Nat} (hq : q ∈ quads l.qmask) (hb : m.inBounds n q = true) :
    Advanced m (m.gangDone n l true) n q := by
  obtain ⟨hpc, hdone⟩ := m.gangDone_at true hn hq
  exact ⟨hpc.trans (placeShown_of_inBounds hb), hdone⟩

end GangDone

end Sys2Proof.Machine

/-! What an access of memory leaves of the registers and of memory, whatever injection waits and whatever the cache holds (R217 to
R225, R230 to R232). -/

namespace Sys2Proof.Machine

open Sys2Proof.Spec

-- One proof at a time: side by side, their threads take more memory than the check has.
set_option Elab.async false

/-! ## Accesses of every class -/

/-- A register past its page's header, on a page below those of the Crock and the memory controllers: no access counts there. -/
def LowReg (o : Nat) : Prop := o < 0x2C_0000 ∧ 0x100 ≤ o % 0x1_0000

/-- t is s but for what an access counts, reports, caches and has in flight. -/
def Accessed (s t : State) : Prop := s.MemOnly t ∧ t.mem = s.mem ∧ t.poison = s.poison ∧ ∀ o, LowReg o → t.reg o = s.reg o

section Accessed

variable {s t u : State}

theorem accessed_refl (s : State) : Accessed s s := ⟨.refl s, rfl, rfl, fun _ _ => rfl⟩

theorem accessed_trans (h : Accessed s t) (k : Accessed t u) : Accessed s u := by
  obtain ⟨hm, hb, hp, hr⟩ := h
  obtain ⟨km, kb, kp, kr⟩ := k
  exact ⟨hm.trans km, kb.trans hb, kp.trans hp, fun o ho => (kr o ho).trans (hr o ho)⟩

theorem accessed_foldl {β : Type} {f : State → β → State} (l : List β) (hf : ∀ m b, Accessed m (f m b)) (s : State) :
    Accessed s (l.foldl f s) :=
  foldl_rel accessed_refl (fun h k => accessed_trans h k) (fun m b _ => hf m b) s

/-- Bookkeeping that touches none of memory, poison and the registers. -/
theorem accessed_of_eq (hm : s.MemOnly t) (hb : t.mem = s.mem) (hp : t.poison = s.poison) (hr : t.regs = s.regs) : Accessed s t :=
  ⟨hm, hb, hp, fun o _ => by rw [State.reg, hr, State.reg]⟩

theorem Accessed.sameMemory (h : Accessed s t) : SameMemory s t := memory_of_eq h.2.1 h.2.2.1

theorem Accessed.reg (h : Accessed s t) {o : Nat} (ho : LowReg o) : t.reg o = s.reg o := h.2.2.2 o ho

end Accessed

section Steps

variable (m : State)

theorem accessed_setFld (f : Fld) (v : Nat) (h : ¬ LowReg f.off) : Accessed m (m.setFld f v) :=
  ⟨.setFld m f v, rfl, rfl, fun _ ho => m.reg_setFld_other f v fun e => h (e ▸ ho)⟩

theorem accessed_bump (f : Fld) (k : Nat) (h : 0x2C_0000 ≤ f.off) : Accessed m (m.bump f k) :=
  accessed_setFld m f _ fun ⟨hlo, _⟩ => absurd hlo (Nat.not_lt.mpr h)

theorem accessed_report (e : Ev) : Accessed m (m.report e) := by
  refine ⟨.report m e, by rw [State.report_frame], by rw [State.report_frame], fun o ⟨_, ho⟩ => m.reg_report_other e ?_⟩
  omega

theorem accessed_access (page master : Nat) (stn : Option Nat) (acc addr : Nat) : Accessed m (m.access page master stn acc addr) :=
  accessed_report m _

theorem accessed_disarm (page : Nat) : Accessed m (m.disarm page) :=
  accessed_setFld m _ _ fun ⟨_, h⟩ => by simp only [Reg.hdr_ARMED] at h; omega

theorem accessed_injected (page k b n : Nat) (e : Ev) : Accessed m (m.injected page k b n e) := by
  unfold State.injected
  split
  · exact accessed_trans (accessed_trans (accessed_disarm m page) (accessed_report _ _)) (accessed_of_eq rfl rfl rfl rfl)
  · exact accessed_refl m

theorem accessed_sramRead (page k n master addr : Nat) (up : Bool) : Accessed m (m.sramRead page k n master addr up).2 := by
  unfold State.sramRead
  extract_lets e m1
  have h : Accessed m m1 := by
    unfold m1
    split
    · exact accessed_report m e
    · exact accessed_refl m
  split
  · exact accessed_trans h (accessed_trans (accessed_disarm _ _) (accessed_report _ _))
  · exact h

theorem accessed_chargeBeats (n : Option Nat) (a len : Nat) : Accessed m (m.chargeBeats n a len) := by
  unfold State.chargeBeats
  split
  · exact accessed_refl m
  · refine accessed_foldl _ (fun m i => ?_) m
    dsimp only
    split
    · exact accessed_trans (accessed_bump m (Reg.mc_STN_BEATS _ _) _ (by simp only [Reg.mc_STN_BEATS]; omega))
        (accessed_of_eq rfl rfl rfl rfl)
    · exact accessed_trans (accessed_bump m (Reg.mc_RSV_BEATS _) _ (by simp only [Reg.mc_RSV_BEATS]; omega))
        (accessed_of_eq rfl rfl rfl rfl)

theorem accessed_senseLine (n b acc : Nat) : Accessed m (m.senseLine n b acc) := by
  unfold State.senseLine
  dsimp only
  split
  · exact accessed_trans (accessed_bump m _ _ (by simp only [Reg.mc_UE_CNT]; omega)) (accessed_injected _ _ _ _ _ _)
  · split
    · exact accessed_bump m _ _ (by simp only [Reg.mc_PSN_RD]; omega)
    · exact accessed_refl m

theorem accessed_sense (n a len acc : Nat) : Accessed m (m.sense n a len acc) :=
  accessed_foldl _ (fun _ _ => accessed_senseLine _ _ _ _) m

theorem accessed_senseCrock (n k a : Nat) : Accessed m (m.senseCrock n k a) := by
  unfold State.senseCrock
  split
  · exact accessed_refl m
  · exact accessed_injected m _ _ _ _ _

theorem accessed_rmwOne (n b : Nat) : Accessed m (m.rmwOne n b) :=
  accessed_trans (accessed_trans (accessed_bump m _ _ (by simp only [Reg.mc_RMW_CNT]; omega)) (accessed_chargeBeats _ _ _ _))
    (accessed_sense _ _ _ _ _)

theorem accessed_countRmw (n a len : Nat) : Accessed m (m.countRmw n a len) := by
  have hone (b : Bool) (m : State) (x : Nat) : Accessed m (if b then m.rmwOne n x else m) := by
    split
    · exact accessed_rmwOne m n x
    · exact accessed_refl m
  rw [State.countRmw_eq]
  split
  · exact accessed_refl m
  · exact accessed_trans (hone _ m _) (hone _ _ _)

theorem accessed_direct (n a len : Nat) (w : Bool) : Accessed m (m.direct n a len w) := by
  unfold State.direct
  dsimp only
  split
  · exact accessed_trans (accessed_chargeBeats m _ _ _) (accessed_countRmw _ _ _ _)
  · exact accessed_trans (accessed_chargeBeats m _ _ _) (accessed_sense _ _ _ _ _)

theorem accessed_writeBack (c : CLine) : Accessed m (m.writeBack c) := by
  unfold State.writeBack
  exact accessed_trans (accessed_of_eq (t := { m with
      stale := m.stale.clear (256 * c.line) 256
      stalePsn := m.stalePsn.clear (8 * c.line) 8
      cache := m.cache.map (fun (x : CLine) => if x.is c.stn c.line then { x with dirty := false } else x) }) rfl rfl rfl rfl)
    (accessed_trans (accessed_bump _ _ _ (by simp only [Reg.crk_WB_LINES]; omega)) (accessed_chargeBeats _ _ _ _))

theorem accessed_evict (c : CLine) : Accessed m (m.evict c) := by
  unfold State.evict
  dsimp only
  split
  · exact accessed_trans (accessed_writeBack m c) (accessed_of_eq rfl rfl rfl rfl)
  · exact accessed_of_eq rfl rfl rfl rfl

theorem accessed_evictLast (l : List CLine) : Accessed m (match l.getLast? with | some c => m.evict c | none => m) := by
  split
  · exact accessed_evict m _
  · exact accessed_refl m

theorem accessed_allocate (n slice set l : Nat) (keep : Bool) : Accessed m (m.allocate n slice set l keep) := by
  unfold State.allocate
  dsimp only
  refine accessed_trans (t := if keep = true ∧ _ then _ else _) ?_ (accessed_of_eq rfl rfl rfl rfl)
  split
  · exact accessed_evictLast m _
  · split
    · exact accessed_evictLast m _
    · exact accessed_refl m

theorem accessed_setAside (l : Nat) : Accessed m (m.setAside l) := accessed_of_eq rfl rfl rfl rfl

/-- One access to a line, whatever the cache makes of it. -/
theorem accessed_cacheLine (n lo len : Nat) (w : Bool) (cls : Nat) : Accessed m (m.cacheLine n lo len w cls) := by
  unfold State.cacheLine
  extract_lets l sl h page i m0 m1 n1 n2 n3
  split
  · exact accessed_direct m _ _ _ _
  · split
    · extract_lets m2 keeps m3
      have h0 : Accessed m m0 := accessed_bump m _ 1 (by simp only [Reg.crk_HITS]; omega)
      have h1 : Accessed m0 m1 := by
        unfold m1
        split
        · exact accessed_refl _
        · exact accessed_senseCrock _ _ _ _
      have h2 : Accessed m1 m2 := by
        unfold m2
        split
        · exact accessed_setAside _ _
        · exact accessed_refl _
      have h3 : Accessed m2 m3 := by
        unfold m3
        split
        · exact accessed_evictLast _ _
        · exact accessed_refl _
      exact accessed_trans (accessed_trans (accessed_trans (accessed_trans h0 h1) h2) h3) (accessed_of_eq rfl rfl rfl rfl)
    · have h1 : Accessed m n1 := accessed_bump m _ 1 (by simp only [Reg.crk_MISSES]; omega)
      have h2 : Accessed m n2 := accessed_trans (accessed_trans h1 (accessed_allocate _ _ _ _ _ _)) (accessed_direct _ _ _ _ _)
      split
      · exact accessed_trans h1 (accessed_direct _ _ _ _ _)
      · split
        · exact accessed_trans h2 (accessed_trans (accessed_setAside _ l) (accessed_of_eq rfl rfl rfl rfl))
        · exact h2

theorem accessed_touch (n a len : Nat) (w : Bool) (cls : Nat) : Accessed m (m.touch n a len w cls) := by
  unfold State.touch
  split
  · exact accessed_refl m
  · split
    · split
      · exact accessed_refl m
      · split
        · exact accessed_senseCrock m _ _ _
        · exact accessed_injected m _ _ _ _ _
        · exact accessed_injected m _ _ _ _ _
        · exact accessed_injected m _ _ _ _ _
        · exact accessed_refl m
    · split
      · exact accessed_direct m _ _ _ _
      · exact accessed_foldl _ (fun _ _ => accessed_cacheLine _ _ _ _ _ _) m

theorem accessed_tagBad (n page master addr : Nat) (inj : Bool) : Accessed m (m.tagBad n page master addr inj) :=
  accessed_trans (accessed_trans (accessed_bump m _ _ (by simp only [Reg.sve_CRC]; omega)) (accessed_bump _ _ _ (by simp only [Reg.sve_CRC_CNT]; omega)))
    (accessed_report _ _)

theorem accessed_tagCheck (n page kind master addr tag : Nat) (bytes : List Byte) (code : Option Nat) (glitch : Bool) :
    Accessed m (m.tagCheck n page kind master addr tag bytes code glitch).2 := by
  unfold State.tagCheck
  split
  · exact accessed_refl m
  · extract_lets sumOk bad m1
    have h : Accessed m m1 := by
      unfold m1
      split
      · exact accessed_tagBad m _ _ _ _ _
      · split
        · exact accessed_bump m _ _ (by simp only [Reg.sve_TRANSIENT_CNT]; omega)
        · exact accessed_refl m
    split
    · exact accessed_trans h (accessed_trans (accessed_disarm _ _) (accessed_tagBad _ _ _ _ _ _))
    · exact h

end Steps

/-! ## Stores of every class -/

section Store

variable (m : State) (n a : Nat) (bs : List Byte) (p : Nat → Nat → Bool) (cls : Nat)

theorem State.reg_store_low {o : Nat} (ho : LowReg o) : (m.store n a bs p cls).reg o = m.reg o := by
  rw [State.store, State.untag_frame, State.putPsn_frame]
  exact (accessed_touch m n a bs.length true cls).reg ho

/-- A store puts its bytes at their places; but for tags it changes no other (R230, R301). -/
theorem State.byte_store {x : Nat} (hx : inTagArea x = false) : (m.store n a bs p cls).byte x =
    if a ≤ x ∧ x < a + bs.length then bs.getD (x - a) 0 else m.byte x := by
  have hput := State.byte_putBytes (m.touch n a bs.length true cls) a bs x
  have htouch : (m.touch n a bs.length true cls).byte x = m.byte x := ((accessed_touch m n a bs.length true cls).sameMemory x).1
  rw [htouch, SMap.get_ofList] at hput
  rw [State.store, State.byte_untag _ _ _ hx, State.byte, State.putPsn_mem]
  exact hput

end Store

end Sys2Proof.Machine

/-! How a recipe stops (R87), and what a local command comes to once its word is read (R84, R92, R93, R232). -/

namespace Sys2Proof.Machine

open Sys2Proof.Spec

-- One proof at a time: side by side, their threads take more memory than the check has.
set_option Elab.async false

/-! ## The ledger (R370) -/

/-- t differs from s at most in what a memory operation may change, and in the free values drawn. -/
def RecordOnly (s t : State) : Prop := t = { s.withMemOf t with free := t.free }

section Ledger

variable (m : State) (n : Nat) (e : LedgerEntry)

theorem recordOnly_of_memOnly {s t : State} (f : Nat) (h : State.MemOnly { s with free := f } t) : RecordOnly s t := by
  have hfree : t.free = f := by rw [h]; rfl
  rw [RecordOnly, hfree]
  exact h

theorem recordOnly_refl (s : State) : RecordOnly s s := recordOnly_of_memOnly s.free (.refl s)

theorem recordOnly_trans {s t u : State} (h : RecordOnly s t) (k : RecordOnly t u) : RecordOnly s u := by
  have e : t.withMemOf u = { s.withMemOf u with free := t.free } := by
    rw [RecordOnly] at h
    rw [h]
    rfl
  rw [RecordOnly, e] at k
  exact k

theorem recordOnly_ledger : RecordOnly m (m.ledger n e) := by
  unfold State.ledger
  extract_lets base len head a total ws m1
  split
  · exact recordOnly_of_memOnly m.free (.refl m)
  · split
    · exact recordOnly_of_memOnly _ (((State.MemOnly.storeP m1 n a _ _ _).trans (.landed _)).trans (.setFld _ _ _))
    · exact recordOnly_of_memOnly m.free (.access m _ _ _ _ _)

/-- An entry moves its station's HEAD, and no other register below the Crock's but of a header. -/
theorem State.reg_ledger_low {o : Nat} (ho : LowReg o) (hhead : o ≠ (Reg.sys_HEAD n).off) : (m.ledger n e).reg o = m.reg o := by
  unfold State.ledger
  extract_lets base len head a total ws m1
  split
  · rfl
  · split
    · rw [State.reg_setFld_other _ _ _ hhead, State.landed]
      exact m1.reg_store_low n a _ _ 0 ho
    · exact (accessed_access m _ _ _ _ _).reg ho

end Ledger

/-! ## A recipe that stops (R87) -/

/-- A sequencer that stops for a reason. -/
def State.stopSeq (m : State) (n why q : Nat) : State :=
  (((m.setFlag (Reg.seq_STOP q n) true).setFld (Reg.seq_STOP_WHY q n) why).setFlag (Reg.seq_RUN q n) false).setHold n q none

/-- The ledger entry of a sequencer that has stopped. -/
def State.stopEntry (m : State) (n why q : Nat) : State :=
  m.ledger n { kind := 1, master := 0x10 + q, reason := 3, ident := q + m.pc n q <<< 8, done := m.fld (Reg.seq_CMD_DONE q n),
               total := none, aux1 := why, aux2 := m.pc n q }

/-- The sequencers of a launch stop, and the launch and the queued one are gone. -/
def State.stopSeqs (m : State) (n why : Nat) (l : Launch) : State :=
  let m1 := (((quads l.qmask).foldl (fun m q => m.stopSeq n why q) m).setLaunch n none).setFlag (Reg.seq_QUEUED 0 n) false
  { m1 with queued := m1.queued.set (fun _ => none) n none, entrants := m1.entrants }

/-- A stop that no reset asks for: the sequencers stop, the stop is reported and recorded, and swaps that wait apply. -/
theorem State.stopRecipe_eq (m : State) {n why : Nat} (det : Nat) {l : Launch} (hl : m.launch n = some l) (hw : why ≠ 7) :
    m.stopRecipe n why det =
      ((((quads l.qmask).foldl (fun m q => m.stopEntry n why q) ((m.stopSeqs n why l).report
        { page := 0x0C + det, code := Code.rcpStop, stn := some n, master := 0x10 + det, acc := 4, detail := why })).applySwaps
          n l.qmask).epochSwaps n) := by
  rw [State.stopRecipe, hl]
  simp only [if_neg hw]
  rfl

section Swaps

variable (m : State) (n : Nat)

/-- A bank swap touches its own register alone. -/
theorem State.reg_applySwaps_other (mask : Nat) {o : Nat} (ho : ∀ q, o ≠ (Reg.seq_ACTIVE q n).off) : (m.applySwaps n mask).reg o = m.reg o := by
  refine foldl_keeps (v := fun m : State => m.reg o) (fun m q _ => ?_) m
  split
  · rw [State.swapBank, State.reg_setFlag_other _ (Reg.seq_SWAP_PEND q n) _ (ho q), State.reg_setFld_other _ _ _ (ho q)]
  · rfl

theorem State.applySwaps_frame (mask : Nat) : m.applySwaps n mask = { m with regs := (m.applySwaps n mask).regs } :=
  foldl_rel (r := fun s t : State => t = { s with regs := t.regs }) (fun _ => rfl) (fun h k => by rw [k, h])
    (fun m q _ => by split <;> rfl) m

/-- A table swap touches registers of the Tongs' page alone. -/
theorem State.reg_epochSwaps_other {o : Nat} (ho : o < 0x24_0000) : (m.epochSwaps n).reg o = m.reg o := by
  refine foldl_keeps (v := fun m : State => m.reg o) (fun m k _ => ?_) m
  rw [State.epochSwap]
  split
  · rw [State.reg_setFlag_other, State.reg_setFld_other, State.reg_setFld_other, State.reg_setFld_other] <;>
      simp only [Reg.tng_CUR, Reg.tng_EPOCH, Reg.tng_STATE, Reg.tng_SWAP_PEND] <;> omega
  · rfl

theorem State.epochSwaps_frame : m.epochSwaps n = { m with regs := (m.epochSwaps n).regs } :=
  foldl_rel (r := fun s t : State => t = { s with regs := t.regs }) (fun _ => rfl) (fun h k => by rw [k, h])
    (fun m k _ => by rw [State.epochSwap]; split <;> rfl) m

end Swaps

section Stop

variable (m : State) {n : Nat} (why : Nat) {l : Launch}

theorem State.stopSeq_frame (n q : Nat) : m.stopSeq n why q = { m with regs := (m.stopSeq n why q).regs, holds := (m.stopSeq n why q).holds } := rfl

/-- A stopping sequencer touches its own state register alone. -/
theorem State.reg_stopSeq_other (n q : Nat) {o : Nat} (h : o ≠ (Reg.seq_PC q n).off) : (m.stopSeq n why q).reg o = m.reg o := by
  have hreg : (m.stopSeq n why q).reg o =
      (((m.setFlag (Reg.seq_STOP q n) true).setFld (Reg.seq_STOP_WHY q n) why).setFlag (Reg.seq_RUN q n) false).reg o := rfl
  rw [hreg, State.reg_setFlag_other _ (Reg.seq_RUN q n) _ h, State.reg_setFld_other _ (Reg.seq_STOP_WHY q n) _ h,
    State.reg_setFlag_other _ (Reg.seq_STOP q n) _ h]

/-- What a sequencer shows when it has stopped: its place and its count stand. -/
theorem State.stopSeq_shows (n q : Nat) : (m.stopSeq n why q).flag (Reg.seq_STOP q n) = true ∧
    (m.stopSeq n why q).fld (Reg.seq_STOP_WHY q n) = why % 16 ∧ (m.stopSeq n why q).flag (Reg.seq_RUN q n) = false ∧
    (m.stopSeq n why q).fld (Reg.seq_PC q n) = m.fld (Reg.seq_PC q n) ∧
    (m.stopSeq n why q).fld (Reg.seq_CMD_DONE q n) = m.fld (Reg.seq_CMD_DONE q n) := by
  have hfld (f : Fld) : (m.stopSeq n why q).fld f =
      (((m.setFlag (Reg.seq_STOP q n) true).setFld (Reg.seq_STOP_WHY q n) why).setFlag (Reg.seq_RUN q n) false).fld f := rfl
  have hapart (f : Fld) (h1 : (Reg.seq_STOP q n).beside f = true) (h2 : (Reg.seq_STOP_WHY q n).beside f = true)
      (h3 : (Reg.seq_RUN q n).beside f = true) : (m.stopSeq n why q).fld f = m.fld f := by
    rw [hfld, State.setFlag, State.fld_setFld_beside _ (Reg.seq_RUN q n) f _ h3, State.fld_setFld_beside _ (Reg.seq_STOP_WHY q n) f _ h2,
      State.setFlag, State.fld_setFld_beside _ (Reg.seq_STOP q n) f _ h1]
  refine ⟨?_, ?_, State.flag_setFlag _ (Reg.seq_RUN q n) false, hapart _ rfl rfl rfl, hapart _ rfl rfl rfl⟩
  · rw [State.flag, hfld, ← State.flag, State.setFlag, State.flag_setFld_beside _ (Reg.seq_RUN q n) (Reg.seq_STOP q n) _,
      State.flag_setFld_beside _ (Reg.seq_STOP_WHY q n) (Reg.seq_STOP q n) _, m.flag_setFlag (Reg.seq_STOP q n)]
  · rw [hfld, State.setFlag, State.fld_setFld_beside _ (Reg.seq_RUN q n) (Reg.seq_STOP_WHY q n) _, State.fld_setFld _ (Reg.seq_STOP_WHY q n)]
    rfl

theorem State.stopSeqs_frame : m.stopSeqs n why l = { m with
    regs := (m.stopSeqs n why l).regs, holds := (m.stopSeqs n why l).holds, launches := m.launches.set (fun _ => none) n none,
    queued := m.queued.set (fun _ => none) n none } := by
  have hfold := foldl_rel (f := fun m q => State.stopSeq m n why q) (l := quads l.qmask)
    (r := fun s t : State => t = { s with regs := t.regs, holds := t.holds }) (fun _ => rfl) (fun h k => by rw [k, h]) (fun _ _ _ => rfl) m
  rw [State.stopSeqs]
  dsimp only
  rw [hfold]
  rfl

/-- A sequencer of the launch once all have stopped. -/
theorem State.stopSeqs_shows (hn : n < 8) (hw : why < 16) {q : Nat} (hq : q ∈ quads l.qmask) :
    let t := m.stopSeqs n why l
    t.flag (Reg.seq_STOP q n) = true ∧ t.fld (Reg.seq_STOP_WHY q n) = why ∧ t.flag (Reg.seq_RUN q n) = false ∧ t.hold n q = none ∧
      t.fld (Reg.seq_PC q n) = m.fld (Reg.seq_PC q n) ∧ t.fld (Reg.seq_CMD_DONE q n) = m.fld (Reg.seq_CMD_DONE q n) := by
  have hview := foldl_once (f := fun (m : State) q => m.stopSeq n why q)
    (v := fun m : State => (m.flag (Reg.seq_STOP q n), m.fld (Reg.seq_STOP_WHY q n), m.flag (Reg.seq_RUN q n), m.hold n q,
      m.fld (Reg.seq_PC q n), m.fld (Reg.seq_CMD_DONE q n)))
    (g := fun x => (true, why, false, none, x.2.2.2.2)) (quads_nodup l.qmask) hq
    (fun m => by
      obtain ⟨hstop, hwhy, hrun, hpc, hdone⟩ := m.stopSeq_shows why n q
      have hhold : (m.stopSeq n why q).hold n q = none := (State.hold_setHold _ n q none n q).trans (if_pos rfl)
      rw [hstop, hwhy, hrun, hpc, hdone, hhold, Nat.mod_eq_of_lt hw])
    (fun m p hp hne => by
      have hoff : (Reg.seq_PC q n).off ≠ (Reg.seq_PC p n).off := fun e => hne (seq_off_inj hn hn e).2.symm
      have hreg : (m.stopSeq n why p).reg (Reg.seq_PC q n).off = m.reg (Reg.seq_PC q n).off := m.reg_stopSeq_other why n p hoff
      have hhold : (m.stopSeq n why p).hold n q = m.hold n q :=
        (State.hold_setHold _ n p none n q).trans (if_neg fun e => hne (by omega))
      rw [hhold]
      simp only [State.flag_eq_of_reg (f := Reg.seq_STOP q n) hreg, State.fld_eq_of_reg (f := Reg.seq_STOP_WHY q n) hreg,
        State.flag_eq_of_reg (f := Reg.seq_RUN q n) hreg, State.fld_eq_of_reg (f := Reg.seq_PC q n) hreg,
        State.fld_eq_of_reg (f := Reg.seq_CMD_DONE q n) hreg]) m
  have hqueued (o : Nat) (ho : o ≠ (Reg.seq_QUEUED 0 n).off) :
      (m.stopSeqs n why l).reg o = ((quads l.qmask).foldl (fun m q => m.stopSeq n why q) m).reg o :=
    State.reg_setFlag_other _ (Reg.seq_QUEUED 0 n) false ho
  have hreg := hqueued (Reg.seq_PC q n).off (by simp only [Reg.seq_PC, Reg.seq_QUEUED]; omega)
  simp only [Prod.mk.injEq] at hview
  obtain ⟨hstop, hwhy, hrun, hhold, hpc, hdone⟩ := hview
  exact ⟨(State.flag_eq_of_reg (f := Reg.seq_STOP q n) hreg).trans hstop, (State.fld_eq_of_reg (f := Reg.seq_STOP_WHY q n) hreg).trans hwhy,
    (State.flag_eq_of_reg (f := Reg.seq_RUN q n) hreg).trans hrun, hhold, (State.fld_eq_of_reg (f := Reg.seq_PC q n) hreg).trans hpc,
    (State.fld_eq_of_reg (f := Reg.seq_CMD_DONE q n) hreg).trans hdone⟩

/-- Registers that no record and no swap of a stop touches. -/
def StopsPast (n o : Nat) : Prop := LowReg o ∧ o < 0x24_0000 ∧ o ≠ (Reg.sys_HEAD n).off ∧ ∀ q, o ≠ (Reg.seq_ACTIVE q n).off

/-- After its sequencers have stopped, a stop only records and swaps. -/
theorem State.stopRecipe_past (det : Nat) (hl : m.launch n = some l) (hw : why ≠ 7) :
    RecordOnly (m.stopSeqs n why l) (m.stopRecipe n why det) ∧
      ∀ o, StopsPast n o → (m.stopRecipe n why det).reg o = (m.stopSeqs n why l).reg o := by
  rw [m.stopRecipe_eq det hl hw]
  generalize m.stopSeqs n why l = u
  generalize hr : u.report _ = r
  have hreport : RecordOnly u r := recordOnly_of_memOnly u.free (hr ▸ .report u _)
  have hrec : RecordOnly r ((quads l.qmask).foldl (fun m q => m.stopEntry n why q) r) :=
    foldl_rel (r := RecordOnly) recordOnly_refl recordOnly_trans (fun m q _ => recordOnly_ledger m n _) r
  refine ⟨?_, fun o ⟨hlow, htng, hhead, hact⟩ => ?_⟩
  · refine recordOnly_trans (recordOnly_trans hreport hrec) ?_
    rw [State.epochSwaps_frame, State.applySwaps_frame]
    rfl
  · rw [State.reg_epochSwaps_other _ n htng, State.reg_applySwaps_other _ n _ hact]
    refine (foldl_keeps (v := fun m : State => m.reg o) (fun m q _ => m.reg_ledger_low n _ hlow hhead) r).trans ?_
    rw [← hr]
    exact (accessed_report u _).reg hlow

/-- A recipe that stops has stopped. -/
theorem State.stopped_stopRecipe (det : Nat) (hl : m.launch n = some l) (hn : n < 8) (hw : why < 7) :
    Spec.Stopped m (m.stopRecipe n why det) n l why := by
  obtain ⟨hframe, hreg⟩ := m.stopRecipe_past why det hl (by omega)
  have hstate (q : Nat) (hq : q < 4) : (m.stopRecipe n why det).reg (Reg.seq_PC q n).off = (m.stopSeqs n why l).reg (Reg.seq_PC q n).off := by
    refine hreg _ ⟨⟨?_, ?_⟩, ?_, ?_, fun p => ?_⟩ <;> simp only [Reg.seq_PC, Reg.sys_HEAD, Reg.seq_ACTIVE] <;> omega
  have hqueued : (m.stopRecipe n why det).reg (Reg.seq_QUEUED 0 n).off = (m.stopSeqs n why l).reg (Reg.seq_QUEUED 0 n).off := by
    refine hreg _ ⟨⟨?_, ?_⟩, ?_, ?_, fun p => ?_⟩ <;> simp only [Reg.seq_QUEUED, Reg.sys_HEAD, Reg.seq_ACTIVE] <;> omega
  refine ⟨?_, (State.flag_eq_of_reg hqueued).trans (State.flag_setFlag _ (Reg.seq_QUEUED 0 n) false), fun q hq => ?_⟩
  · rw [State.launch_congr (s := m.stopSeqs n why l) (by rw [hframe]; rfl), State.launch, State.stopSeqs_frame, SMap.get_set_same]
  · obtain ⟨hstop, hwhy, hrun, hhold, hpc, hdone⟩ := m.stopSeqs_shows why hn (by omega) hq
    have hq4 := hstate q (mem_quads.mp hq).1
    exact ⟨(State.flag_eq_of_reg (f := Reg.seq_STOP q n) hq4).trans hstop, (State.fld_eq_of_reg (f := Reg.seq_STOP_WHY q n) hq4).trans hwhy,
      (State.flag_eq_of_reg (f := Reg.seq_RUN q n) hq4).trans hrun,
      (State.hold_congr (by rw [hframe]; rfl) n q).trans hhold,
      State.pc_congr ((State.fld_eq_of_reg (f := Reg.seq_PC q n) hq4).trans hpc) (by rw [hframe, State.stopSeqs_frame]; rfl),
      (State.fld_eq_of_reg (f := Reg.seq_CMD_DONE q n) hq4).trans hdone⟩

/-- A stop frees no watch. -/
theorem State.watches_stopRecipe (det : Nat) (hl : m.launch n = some l) (hw : why ≠ 7) : (m.stopRecipe n why det).watches = m.watches := by
  rw [(m.stopRecipe_past why det hl hw).1, State.stopSeqs_frame]
  rfl

end Stop

end Sys2Proof.Machine

/-! Commands of one sequencer once their word is read, and the gang commands SETP and END (R84, R92, R93, R108, R109). -/

namespace Sys2Proof.Machine

open Sys2Proof.Spec

-- One proof at a time: side by side, their threads take more memory than the check has.
set_option Elab.async false

/-! ## A word that issues -/

section Issue

variable {s : State} {n q opc w : Nat}

/-- Where a sequencer can issue, a launch runs there, nothing holds it, and the module is not in the safe state. -/
theorem State.launch_of_canIssue (h : s.canIssue n q = true) :
    ∃ l, s.launch n = some l ∧ l.has q = true ∧ l.ended = false ∧ s.hold n q = none := by
  rw [State.canIssue] at h
  cases hl : s.launch n with
  | none => simp [hl] at h
  | some l => simp_all

theorem bitsOf_lt (w hi lo : Nat) : bitsOf w hi lo < 2 ^ (hi + 1 - lo) := Nat.mod_lt _ (Nat.two_pow_pos _)

end Issue

/-- What the sequencer of a command comes to: the command waits, is refused, or issues. -/
def Issue.outcome (s : State) (n q : Nat) : Issue → State
  | .wait => s
  | .refuse => s.stopRecipe n 1 q
  | .go m => m

/-- A word that is read without error and becomes w does what its command says of w (R84, R92, R93, R232). -/
theorem State.issueLocal_eq {s : State} {n : Stn} {q : Quad} {opc w : Nat} (h : Issuable s n q opc w) (f : State → Nat → Issue) :
    s.issueLocal n q opc false f = (f s w).outcome s n q := by
  obtain ⟨hcan, hin, hopc, hpsn, hinj, hsub⟩ := h
  rw [State.issueLocal]
  simp only [hcan, hin, Bool.not_true, Bool.false_eq_true, if_false, hopc, ne_eq, not_true_eq_false, s.sramRead_calm hinj, hpsn, or_self,
    hsub]
  cases f s w <;> rfl

section Gang

variable {s : State} {n opc : Nat} {l : Launch} {w : Nat}

theorem State.launch_of_gangWord (h : s.gangWord n opc = some (l, w)) : s.launch n = some l := by
  rw [State.gangWord] at h
  split at h
  · cases h
  · split at h
    · next l' hl =>
      split at h
      · split at h
        · rw [hl]
          simp_all
        · cases h
      · cases h
    · cases h

end Gang

/-! ## SETP and END (R108, R109) -/

theorem exec_setp (n : Stn) (s : State) : exec (.setp n) s = .next (s.issueSetp n) := rfl
theorem exec_endR (n : Stn) (s : State) : exec (.endR n) s = .next (s.issueEnd n) := rfl
theorem exec_gangIssue (n : Stn) (upset : Bool) (s : State) : exec (.gangIssue n upset) s = .next (s.gangIssue n upset) := rfl

section Setp

variable {s : State} {n : Stn} {l : Launch} {w : Nat}

/-- The value that SETP gives its register (R108). -/
def State.setpValue (s : State) (n w : Nat) : Nat :=
  match bitsOf w 41 40 with
  | 0 => bitsOf w 127 64
  | 1 => s.param n (bitsOf w 39 32) + bitsOf w 127 64
  | _ => s.param n (bitsOf w 23 16) + bitsOf w 127 64

theorem State.setpValue_mod (s : State) (n w : Nat) : s.setpValue n w % 2 ^ 64 = match bitsOf w 41 40 with
    | 0 => bitsOf w 127 64
    | 1 => (s.param n (bitsOf w 39 32) + bitsOf w 127 64) % 2 ^ 64
    | _ => (s.param n (bitsOf w 23 16) + bitsOf w 127 64) % 2 ^ 64 := by
  unfold State.setpValue
  split
  · exact Nat.mod_eq_of_lt (bitsOf_lt w 127 64)
  · rfl
  · rfl

theorem State.issueSetp_eq (h : s.gangWord n 0x60 = some (l, w)) (hop : bitsOf w 41 40 < 3) :
    s.issueSetp n = (s.setFld (Reg.seq_P 0 n (bitsOf w 39 32)) (s.setpValue n w)).gangDone n l true := by
  rw [State.issueSetp, h, State.setpValue]
  dsimp only
  generalize bitsOf w 41 40 = op at hop
  interval_cases op <;> rfl

theorem State.issueSetp_refused (h : s.gangWord n 0x60 = some (l, w)) (hop : bitsOf w 41 40 = 3) :
    s.issueSetp n = s.stopRecipe n 1 ((quads l.qmask).headD 0) := by
  simp only [State.issueSetp, h, hop]

/-- A parameter register is no sequencer's state register. -/
theorem seq_P_off_ne {n i q j : Nat} (hn : n < 8) (hi : i < 256) (hj : j < 8) : (Reg.seq_P 0 n i).off ≠ (Reg.seq_PC q j).off := by
  simp only [Reg.seq_P, Reg.seq_PC]
  omega

theorem State.launch_gangDone_other (m : State) {n k : Nat} (l : Launch) (d : Bool) (h : k ≠ n) : (m.gangDone n l d).launch k = m.launch k :=
  (m.launch_gangDone n l d k).trans (if_neg h)

theorem State.launch_gangDone_same (m : State) (n : Nat) (l : Launch) (d : Bool) : (m.gangDone n l d).launch n = some { l with gang := none } :=
  (m.launch_gangDone n l d n).trans (if_pos rfl)

/-- SETP changes its register, and every sequencer of the launch moves past it (R108). -/
theorem setp_sets (hb : ∀ q ∈ quads l.qmask, s.inBounds n q = true) {i : Nat} (hi : i < 256) (v : Nat) :
    let t := (s.setFld (Reg.seq_P 0 n i) v).gangDone n l true
    t = { s with regs := t.regs, launches := t.launches, pcOver := t.pcOver } ∧ PcsBut s t n (quads l.qmask) ∧
      t.param n i = v % 2 ^ 64 ∧ (∀ q ∈ quads l.qmask, Advanced s t n q) ∧
      BitsBut s t (Reg.seq_P 0 n i :: (quads l.qmask).flatMap (fun q => [Reg.seq_PC q n, Reg.seq_CMD_DONE q n])) := by
  intro t
  have hn := n.isLt
  have hreg (q j : Nat) (hj : j < 8) : (s.setFld (Reg.seq_P 0 n i) v).reg (Reg.seq_PC q j).off = s.reg (Reg.seq_PC q j).off :=
    s.reg_setFld_other _ _ (seq_P_off_ne hn hi hj).symm
  have hpc (q j : Nat) (hj : j < 8) : (s.setFld (Reg.seq_P 0 n i) v).pc j q = s.pc j q :=
    State.pc_congr (State.fld_eq_of_reg (hreg q j hj)) rfl
  have hwin (q : Nat) (hq : q < 4) : (s.setFld (Reg.seq_P 0 n i) v).fld (Reg.seq_RLEN q n) = s.fld (Reg.seq_RLEN q n) :=
    State.fld_eq_of_reg (s.reg_setFld_other _ _ (by simp only [Reg.seq_P, Reg.seq_RLEN]; omega))
  refine ⟨State.gangDone_only _ n l true, fun j q hj hq hne => ?_, ?_, fun q hq => ?_, ?_⟩
  · exact (State.pcsBut_gangDone _ true hn j q hj hq hne).trans (hpc q j hj)
  · have hstays : t.fld (Reg.seq_P 0 n i) = (s.setFld (Reg.seq_P 0 n i) v).fld (Reg.seq_P 0 n i) := by
      refine State.fld_eq_of_reg (reg_of_bitsBut (State.bitsBut_gangDone _ n l true) fun f hf => ?_)
      obtain ⟨q, hq, hf⟩ := List.mem_flatMap.mp hf
      have hne := seq_P_off_ne (q := q) hn hi hn
      rcases List.mem_pair.mp hf with rfl | rfl
      · exact hne.symm
      · exact hne.symm
    exact hstays.trans (s.fld_setFld (Reg.seq_P 0 n i) v)
  · have hq4 := (mem_quads.mp hq).1
    have hbound : (s.setFld (Reg.seq_P 0 n i) v).inBounds n q = true := by
      have h : s.pc n q < s.fld (Reg.seq_RLEN q n) := of_decide_eq_true (hb q hq)
      exact decide_eq_true (by rwa [State.rcpWin, hpc q n hn, hwin q hq4])
    obtain ⟨hat, hdone⟩ := State.advanced_gangDone _ hn hq hbound
    refine ⟨hat.trans (by rw [hpc q n hn]), ?_⟩
    rw [Counted] at hdone ⊢
    rw [hdone, State.fld_eq_of_reg (f := Reg.seq_CMD_DONE q n) (hreg q n hn)]
  · exact bitsBut_trans (bitsBut_setFld s v List.mem_cons_self)
      (bitsBut_mono (State.bitsBut_gangDone _ n l true) fun f hf => List.mem_cons_of_mem _ hf)

/-- A SETP word has no field that a substitution could change (R93, R108). -/
theorem substitute_setp (s : State) (n : Nat) {u : Nat} (hop : u % 256 = 0x60) (h : bitOf u 8 = true ∨ bitOf u 9 = true) :
    s.substitute n u = none := by
  have hf : fieldsOf (u % 256) = (none, none) := by rw [hop]; rfl
  rw [State.substitute, hf]
  by_cases h8 : bitOf u 8 = true
  · simp [h8, substField]
  · have h9 := h.resolve_left h8
    simp [h8, h9, substField]

theorem State.issueEnd_eq (h : s.gangWord n 0x7F = some (l, w)) : s.issueEnd n = s.gangDone n { l with ended := true } true := by
  rw [State.issueEnd, h]

end Setp

/-! ## Gang words compared (R84) -/

section GangIssue

variable {s : State} {n : Stn} {l : Launch} {ws : Nat → Nat}

/-- Every sequencer of a launch has reached a gang command, which is read without error and becomes ws. -/
def GangReady (s : State) (n : Stn) (l : Launch) (ws : Nat → Nat) : Prop :=
  ∀ q ∈ quads l.qmask, s.canIssue n q = true ∧ s.inBounds n q = true ∧ gangOpc (s.cmdWord n q % 256) = true ∧
    s.psnIn (s.cmdAddr n q) 32 = false ∧ s.injFires (0x0C + q) 0 = false ∧ s.substitute n (s.cmdWord n q) = some (ws q)

/-- Words are compared with the first one. -/
theorem State.gangIssue_eq (hl : s.launch n = some l) {q0 : Nat} {qs : List Nat} (hq : quads l.qmask = q0 :: qs) (h : GangReady s n l ws) :
    s.gangIssue n false = match (quads l.qmask).find? (fun q => decide (ws q ≠ ws q0)) with
      | some q => s.stopRecipe n 3 q
      | none => s.setLaunch n (some { l with gang := some (BitVec.ofNat 256 (ws q0)) }) := by
  have hcan : (quads l.qmask).all (fun q => s.canIssue n q) = true := List.all_eq_true.mpr fun q hq => (h q hq).1
  have hbounds : (quads l.qmask).find? (fun q => !s.inBounds n q) = none :=
    List.find?_eq_none.mpr fun q hq => by simp [(h q hq).2.1]
  have hgang : (quads l.qmask).all (fun q => gangOpc (s.cmdWord n q % 256)) = true := List.all_eq_true.mpr fun q hq => (h q hq).2.2.1
  have hread : (quads l.qmask).foldl (fun (r : State × List Nat) q =>
      let e := r.1.sramRead (0x0C + q) 0 n (0x10 + q) (r.1.cmdAddr n q) (false && decide (q = (quads l.qmask).headD 0))
      (e.2, if e.1 ∨ r.1.psnIn (r.1.cmdAddr n q) 32 then r.2 ++ [q] else r.2)) (s, []) = (s, []) := by
    refine List.foldlRecOn (motive := fun r : State × List Nat => r = (s, [])) _ _ rfl fun r hr q hq => ?_
    obtain ⟨-, -, -, hpsn, hinj, -⟩ := h q hq
    rw [hr]
    simp only [Bool.false_and, s.sramRead_calm hinj, hpsn, Bool.false_eq_true, or_self, if_false]
  have hws : (quads l.qmask).map (fun q => (q, s.substitute n (s.cmdWord n q))) = (quads l.qmask).map (fun q => (q, some (ws q))) :=
    List.map_congr_left fun q hq => by rw [(h q hq).2.2.2.2.2]
  have hall : ((quads l.qmask).map (fun q => (q, some (ws q)))).find? (fun e => e.2.isNone) = none :=
    List.find?_eq_none.mpr fun e he => by
      obtain ⟨q, -, rfl⟩ := List.mem_map.mp he
      simp
  have hfirst : ((((quads l.qmask).map (fun q => (q, some (ws q)))).map (fun e => e.2.getD 0)).headD 0) = ws q0 := by
    rw [hq]
    rfl
  have hfind : ((quads l.qmask).map (fun q => (q, some (ws q)))).find? (fun e => decide (e.2 ≠ some (ws q0))) =
      ((quads l.qmask).find? (fun q => decide (ws q ≠ ws q0))).map (fun q => (q, some (ws q))) := by
    rw [List.find?_map]
    refine congrArg (fun p => ((quads l.qmask).find? p).map _) (funext fun q => ?_)
    simp
  rw [State.gangIssue, hl]
  simp only [hcan, hbounds, hgang, hread, hws, hall, hfirst, hfind, Bool.not_true, Bool.false_eq_true, if_false]
  cases (quads l.qmask).find? (fun q => decide (ws q ≠ ws q0)) <;> rfl

end GangIssue

/-- Settles O12: SETP and END move every sequencer of the launch past them, and gang words are compared with the first. -/
theorem gangCommands : Obligations.GangCommands := by
  unfold Obligations.GangCommands
  refine ⟨fun s n l w hb => ⟨fun h hop => ?_, fun h hop => ?_, fun u hu hbit => substitute_setp s n hu hbit, fun h => ?_⟩,
    fun s n l ws hl hne h => ?_⟩
  · rw [exec_setp, State.issueSetp_eq h hop]
    obtain ⟨hframe, hpcs, hval, hadv, hbits⟩ := setp_sets hb (bitsOf_lt w 39 32) (s.setpValue n w)
    refine ⟨_, rfl, hframe, hpcs, hval.trans (s.setpValue_mod n w), hadv, hbits, State.launch_gangDone_same _ n l true,
      fun k hk => State.launch_gangDone_other _ l true hk⟩
  · rw [exec_setp, State.issueSetp_refused h hop]
    exact ⟨_, rfl, State.stopped_stopRecipe s 1 _ (State.launch_of_gangWord h) n.isLt (by decide)⟩
  · rw [exec_endR, State.issueEnd_eq h]
    refine ⟨_, rfl, ?_, State.pcsBut_gangDone (l := { l with ended := true }) s true n.isLt,
      fun q hq => State.advanced_gangDone (l := { l with ended := true }) s n.isLt hq (hb q hq),
      State.bitsBut_gangDone s n { l with ended := true } true, State.launch_gangDone_same s n _ true,
      fun k hk => State.launch_gangDone_other s _ true hk⟩
    exact s.gangDone_only n _ true
  · obtain ⟨q0, qs, hq⟩ := List.exists_cons_of_ne_nil hne
    have hq0 : q0 ∈ quads l.qmask := hq ▸ List.mem_cons_self
    rw [exec_gangIssue, State.gangIssue_eq hl hq h]
    refine ⟨fun halike => ?_, fun ⟨q, hqm, r, hrm, hdiff⟩ => ?_⟩
    · have hnone : (quads l.qmask).find? (fun q => decide (ws q ≠ ws q0)) = none :=
        List.find?_eq_none.mpr fun q hqm => by simp [halike q hqm q0 hq0]
      rw [hnone]
      exact ⟨_, rfl, rfl, fun k hk => (s.launch_setLaunch n k _).trans (if_neg hk), q0, hq0, (s.launch_setLaunch n n _).trans (if_pos rfl)⟩
    · cases hfind : (quads l.qmask).find? (fun q => decide (ws q ≠ ws q0)) with
      | none =>
        have hsame (p : Nat) (hp : p ∈ quads l.qmask) : ws p = ws q0 := by simpa using List.find?_eq_none.mp hfind p hp
        exact absurd ((hsame q hqm).trans (hsame r hrm).symm) hdiff
      | some p => exact ⟨_, rfl, State.stopped_stopRecipe s 3 p hl n.isLt (by decide)⟩

end Sys2Proof.Machine

/-! Launches that start (R82, R83, R90, R94): staged parameters, bank swaps, and the sequencers at ENTRY. -/

namespace Sys2Proof.Machine

open Sys2Proof.Spec

-- One proof at a time: side by side, their threads take more memory than the check has.
set_option Elab.async false

/-! ## Registers alone -/

/-- t differs from s in registers alone. -/
def RegsOnly (s t : State) : Prop := t = { s with regs := t.regs }

theorem regsOnly_refl (s : State) : RegsOnly s s := rfl

theorem regsOnly_trans {s t u : State} (h : RegsOnly s t) (k : RegsOnly t u) : RegsOnly s u := by
  rw [RegsOnly] at h k ⊢
  rw [k, h]

theorem regsOnly_setFld (m : State) (f : Fld) (v : Nat) : RegsOnly m (m.setFld f v) := rfl

theorem regsOnly_foldl {β : Type} {f : State → β → State} (l : List β) (h : ∀ m b, RegsOnly m (f m b)) (m : State) : RegsOnly m (l.foldl f m) :=
  foldl_rel (r := RegsOnly) regsOnly_refl regsOnly_trans (fun m b _ => h m b) m

/-! ## Staged parameters (R94) -/

section Params

variable (m : State) (n i : Nat)

theorem seq_P_off_inj {n i j : Nat} (h : (Reg.seq_P 0 n j).off = (Reg.seq_P 0 n i).off) : j = i := by
  simp only [Reg.seq_P] at h
  omega

theorem seq_P_off_ne_PEND {n i j : Nat} (hn : n < 8) (hj : j < 4) : (Reg.seq_P 0 n i).off ≠ (Reg.seq_PEND 0 n j).off := by
  simp only [Reg.seq_P, Reg.seq_PEND]
  omega

/-- The staged writes of station n. -/
def State.stagedParams (m : State) (n : Nat) : SMap Word := m.pstage.filter (fun e => decide (e.1 / 256 = n))

/-- The staged values become live. -/
def State.takeStaged (m : State) (n : Nat) : State := (m.stagedParams n).foldl (fun m e => m.setFld (Reg.seq_P 0 n (e.1 % 256)) e.2.toNat) m

/-- A pending parameter that no write is staged for becomes 0. -/
def State.zeroPending (m : State) (n : Nat) (mine : SMap Word) : State :=
  (List.range 256).foldl (fun m i =>
    if (m.fld (Reg.seq_PEND 0 n (i / 64))).testBit (i % 64) ∧ !(mine.any (fun e => decide (e.1 % 256 = i)))
    then m.setFld (Reg.seq_P 0 n i) 0 else m) m

/-- No parameter is pending any more. -/
def State.clearPend (m : State) (n : Nat) : State := (List.range 4).foldl (fun m j => m.setFld (Reg.seq_PEND 0 n j) 0) m

/-- The parameters once all are live. -/
def State.liveParams (m : State) (n : Nat) : State := ((m.takeStaged n).zeroPending n (m.stagedParams n)).clearPend n

theorem State.applyParams_eq : m.applyParams n =
    { m.liveParams n with pstage := (m.liveParams n).pstage.filter (fun e => decide (e.1 / 256 ≠ n)) } := rfl

theorem State.regsOnly_takeStaged : RegsOnly m (m.takeStaged n) := regsOnly_foldl _ (fun _ _ => regsOnly_setFld _ _ _) m

theorem State.regsOnly_zeroPending (mine : SMap Word) : RegsOnly m (m.zeroPending n mine) := by
  refine regsOnly_foldl _ (fun m i => ?_) m
  split
  · exact regsOnly_setFld _ _ _
  · exact regsOnly_refl _

theorem State.regsOnly_clearPend : RegsOnly m (m.clearPend n) := regsOnly_foldl _ (fun _ _ => regsOnly_setFld _ _ _) m

theorem State.fld_applyParams (f : Fld) : (m.applyParams n).fld f = (m.liveParams n).fld f := by
  rw [State.applyParams_eq, State.fld, State.reg, State.fld, State.reg]

theorem State.regsOnly_liveParams : RegsOnly m (m.liveParams n) :=
  regsOnly_trans (regsOnly_trans (m.regsOnly_takeStaged n) (State.regsOnly_zeroPending _ n (m.stagedParams n))) (State.regsOnly_clearPend _ n)

theorem State.applyParams_frame : m.applyParams n = { m with regs := (m.applyParams n).regs, pstage := (m.applyParams n).pstage } := by
  have h := m.regsOnly_liveParams n
  rw [State.applyParams_eq]
  generalize m.liveParams n = t at h ⊢
  rw [h]

/-- No register changes but the station's parameters and their PEND bits. -/
theorem State.reg_applyParams_other {o : Nat} (hp : ∀ i, i < 256 → o ≠ (Reg.seq_P 0 n i).off)
    (hpend : ∀ j, j < 4 → o ≠ (Reg.seq_PEND 0 n j).off) : (m.applyParams n).reg o = m.reg o := by
  have hlive : (m.applyParams n).reg o = (m.liveParams n).reg o := by
    rw [State.applyParams_eq, State.reg, State.reg]
  rw [hlive, State.liveParams, State.clearPend,
    foldl_keeps (v := fun m : State => m.reg o) (fun m j hj => m.reg_setFld_other _ 0 (hpend j (List.mem_range.mp hj))), State.zeroPending,
    foldl_keeps (v := fun m : State => m.reg o), State.takeStaged,
    foldl_keeps (v := fun m : State => m.reg o) (fun m e _ => m.reg_setFld_other _ _ (hp (e.1 % 256) (Nat.mod_lt _ (by decide))))]
  intro m i hi
  split
  · exact m.reg_setFld_other _ 0 (hp i (List.mem_range.mp hi))
  · rfl

theorem State.pend_takeStaged (hn : n < 8) {j : Nat} (hj : j < 4) : (m.takeStaged n).fld (Reg.seq_PEND 0 n j) = m.fld (Reg.seq_PEND 0 n j) :=
  foldl_keeps (v := fun m : State => m.fld (Reg.seq_PEND 0 n j))
    (fun m e _ => State.fld_eq_of_reg (m.reg_setFld_other (Reg.seq_P 0 n (e.1 % 256)) _ (seq_P_off_ne_PEND hn hj).symm)) m

/-- The last staged write of a parameter counts. -/
theorem State.param_foldl_staged (l : SMap Word) :
    (l.foldl (fun m e => m.setFld (Reg.seq_P 0 n (e.1 % 256)) e.2.toNat) m).param n i =
      match ((l.filter (fun e => decide (e.1 % 256 = i))).getLast?).map (fun e => e.2.toNat) with
      | some x => x
      | none => m.param n i := by
  induction l using List.reverseRecOn with
  | nil => rfl
  | append_singleton l e ih =>
    rw [List.foldl_append, List.foldl_cons, List.foldl_nil, List.filter_append]
    by_cases h : e.1 % 256 = i
    · rw [List.filter_cons_of_pos (by simpa using h), List.filter_nil, List.getLast?_concat, State.param, ← h,
        State.fld_setFld _ (Reg.seq_P 0 n (e.1 % 256))]
      exact Nat.mod_eq_of_lt e.2.isLt
    · rw [List.filter_cons_of_neg (by simpa using h), List.filter_nil, List.append_nil, ← ih]
      exact State.fld_eq_of_reg (State.reg_setFld_other _ _ _ fun he => h (seq_P_off_inj he).symm)

theorem State.param_takeStaged (hi : i < 256) :
    (m.takeStaged n).param n i = match stagedParam m n i with
      | some x => x
      | none => m.param n i := by
  have hfilter : (m.stagedParams n).filter (fun e => decide (e.1 % 256 = i)) = m.pstage.filter (fun e => decide (e.1 = 256 * n + i)) := by
    rw [State.stagedParams, List.filter_filter]
    refine List.filter_congr fun e _ => ?_
    rw [← Bool.decide_and]
    exact decide_eq_decide.mpr (by omega)
  rw [State.takeStaged, State.param_foldl_staged, hfilter]
  rfl

theorem stagedParam_none_iff (hi : i < 256) : stagedParam m n i = none ↔ (m.stagedParams n).any (fun e => decide (e.1 % 256 = i)) = false := by
  simp only [stagedParam, State.stagedParams, Option.map_eq_none_iff, List.getLast?_eq_none_iff, List.filter_eq_nil_iff, List.any_eq_false,
    List.mem_filter, decide_eq_true_eq]
  exact ⟨fun h e he => fun hei => h e he.1 (by omega), fun h e he hei => h e ⟨he, by omega⟩ (by omega)⟩

theorem State.param_zeroPending (mine : SMap Word) (hn : n < 8) (hi : i < 256) :
    (m.zeroPending n mine).param n i =
      if (m.fld (Reg.seq_PEND 0 n (i / 64))).testBit (i % 64) ∧ !(mine.any (fun e => decide (e.1 % 256 = i))) then 0 else m.param n i := by
  have hpend (m : State) (j v : Nat) : (m.setFld (Reg.seq_P 0 n j) v).fld (Reg.seq_PEND 0 n (i / 64)) = m.fld (Reg.seq_PEND 0 n (i / 64)) :=
    State.fld_eq_of_reg (m.reg_setFld_other _ _ (seq_P_off_ne_PEND hn (by omega)).symm)
  have hview := foldl_once (v := fun m : State => (m.param n i, m.fld (Reg.seq_PEND 0 n (i / 64))))
    (f := fun (m : State) i => if (m.fld (Reg.seq_PEND 0 n (i / 64))).testBit (i % 64) ∧ !(mine.any (fun e => decide (e.1 % 256 = i)))
      then m.setFld (Reg.seq_P 0 n i) 0 else m)
    (g := fun x => (if x.2.testBit (i % 64) ∧ !(mine.any (fun e => decide (e.1 % 256 = i))) then 0 else x.1, x.2))
    (List.nodup_range (n := 256)) (List.mem_range.mpr hi)
    (fun m => by
      split
      · rw [hpend, State.param, State.fld_setFld _ (Reg.seq_P 0 n i)]
        simp_all
      · rfl)
    (fun m j _ hj => by
      split
      · rw [hpend, State.param, State.fld_eq_of_reg (m.reg_setFld_other (Reg.seq_P 0 n j) 0 fun e => hj (seq_P_off_inj e).symm), ← State.param]
      · rfl) m
  exact congrArg Prod.fst hview

theorem State.param_clearPend (hn : n < 8) : (m.clearPend n).param n i = m.param n i :=
  foldl_keeps (v := fun m : State => m.param n i)
    (fun m _ hj => State.fld_eq_of_reg (m.reg_setFld_other _ 0 (seq_P_off_ne_PEND hn (List.mem_range.mp hj)))) m

theorem State.pend_clearPend {j : Nat} (hj : j < 4) : (m.clearPend n).fld (Reg.seq_PEND 0 n j) = 0 :=
  foldl_once (v := fun m : State => m.fld (Reg.seq_PEND 0 n j)) (g := fun _ => 0) (List.nodup_range (n := 4)) (List.mem_range.mpr hj)
    (fun m => m.fld_setFld (Reg.seq_PEND 0 n j) 0)
    (fun m k _ hk => State.fld_eq_of_reg (m.reg_setFld_other _ 0 fun e => hk (by simp only [Reg.seq_PEND] at e; omega))) m

/-- Each parameter takes its staged value, and one that is pending without a staged write becomes 0. -/
theorem State.param_applyParams (hn : n < 8) (hi : i < 256) : (m.applyParams n).param n i = match stagedParam m n i with
    | some x => x
    | none => if (m.fld (Reg.seq_PEND 0 n (i / 64))).testBit (i % 64) then 0 else m.param n i := by
  rw [State.param, State.fld_applyParams, ← State.param, State.liveParams, State.param_clearPend _ n i hn, State.param_zeroPending _ n i _ hn hi, m.pend_takeStaged n hn (by omega), m.param_takeStaged n i hi]
  cases hs : stagedParam m n i with
  | none => simp [(stagedParam_none_iff m n i hi).mp hs]
  | some x =>
    have hany : (m.stagedParams n).any (fun e => decide (e.1 % 256 = i)) = true := by
      rw [← Bool.not_eq_false]
      exact fun h => absurd ((stagedParam_none_iff m n i hi).mpr h) (by simp [hs])
    simp [hany]

theorem State.pend_applyParams {j : Nat} (hj : j < 4) : (m.applyParams n).fld (Reg.seq_PEND 0 n j) = 0 :=
  (m.fld_applyParams n _).trans <| State.pend_clearPend ((m.takeStaged n).zeroPending n (m.stagedParams n)) n hj

end Params

/-! ## Bank swaps (R90) -/

section Swap

variable (m : State) (n : Nat)

theorem State.reg_swapBank_other (q : Nat) {o : Nat} (h : o ≠ (Reg.seq_ACTIVE q n).off) : (m.swapBank n q).reg o = m.reg o := by
  rw [State.swapBank, State.reg_setFlag_other _ (Reg.seq_SWAP_PEND q n) _ h, State.reg_setFld_other _ _ _ h]

theorem State.fld_lt_two (f : Fld) (h : f.hi = f.lo) : m.fld f < 2 := by
  have hlt := m.fld_lt f
  rwa [h, Nat.add_sub_cancel_left] at hlt

theorem State.swapBank_shows (q : Nat) : (m.swapBank n q).fld (Reg.seq_ACTIVE q n) = 1 - m.fld (Reg.seq_ACTIVE q n) ∧
    (m.swapBank n q).flag (Reg.seq_SWAP_PEND q n) = false := by
  refine ⟨?_, State.flag_setFlag _ (Reg.seq_SWAP_PEND q n) false⟩
  rw [State.swapBank, State.setFlag, State.fld_setFld_beside _ (Reg.seq_SWAP_PEND q n) (Reg.seq_ACTIVE q n) _, State.fld_setFld _ (Reg.seq_ACTIVE q n)]
  exact Nat.mod_eq_of_lt (lt_of_le_of_lt (Nat.sub_le 1 _) (by simp [Reg.seq_ACTIVE]))

/-- Bank registers of one station are of one quadrant each. -/
theorem seq_ACTIVE_off_inj {n p q : Nat} (h : (Reg.seq_ACTIVE p n).off = (Reg.seq_ACTIVE q n).off) : p = q := by
  simp only [Reg.seq_ACTIVE] at h
  omega

/-- A swap that waits on a quadrant of the mask applies. -/
theorem State.applySwaps_shows {mask q : Nat} (hq : q ∈ quads mask) :
    (m.applySwaps n mask).flag (Reg.seq_SWAP_PEND q n) = false ∧ (m.applySwaps n mask).fld (Reg.seq_ACTIVE q n) =
      if m.flag (Reg.seq_SWAP_PEND q n) then 1 - m.fld (Reg.seq_ACTIVE q n) else m.fld (Reg.seq_ACTIVE q n) := by
  have hview := foldl_once (v := fun m : State => (m.flag (Reg.seq_SWAP_PEND q n), m.fld (Reg.seq_ACTIVE q n)))
    (f := fun m q => if m.flag (Reg.seq_SWAP_PEND q n) then m.swapBank n q else m)
    (g := fun x => (false, if x.1 then 1 - x.2 else x.2)) (quads_nodup mask) hq
    (fun m => by
      split
      · next h =>
        rw [(m.swapBank_shows n q).1, (m.swapBank_shows n q).2]
      · next h =>
        rw [Bool.eq_false_iff.mpr h])
    (fun m p _ hp => by
      split
      · have hreg := m.reg_swapBank_other n p (o := (Reg.seq_ACTIVE q n).off) fun e => hp (seq_ACTIVE_off_inj e.symm)
        rw [State.flag_eq_of_reg (f := Reg.seq_SWAP_PEND q n) hreg, State.fld_eq_of_reg (f := Reg.seq_ACTIVE q n) hreg]
      · rfl) m
  exact Prod.ext_iff.mp hview

end Swap

/-! ## Sequencers that start (R83) -/

/-- A sequencer that runs from entry. -/
def State.startSeq (m : State) (n entry q : Nat) : State :=
  (((((m.setFlag (Reg.seq_RUN q n) true).setFlag (Reg.seq_STOP q n) false).setFld (Reg.seq_STOP_WHY q n) 0).setPc n q entry).setFld
    (Reg.seq_CMD_DONE q n) 0).setHold n q none

/-- The banks of a starting launch. -/
def State.startBanks (m : State) (n mask : Nat) (swap : Bool) : State :=
  (quads mask).foldl (fun m q => if swap then m.swapBank n q else m) (m.applyParams n)

theorem State.startLaunch_eq (m : State) (n entry mask : Nat) (swap : Bool) : m.startLaunch n entry mask swap =
    let t := (quads mask).foldl (fun m q => m.startSeq n entry q) (m.startBanks n mask swap)
    { t.setLaunch n (some ⟨entry, mask, none, false, false, t.nextId⟩) with lastFirst := t.lastFirst.set (fun _ => 0) n t.nextId } := rfl

section Start

variable (m : State) (n entry mask : Nat) (swap : Bool)

theorem State.startSeq_frame (q : Nat) : m.startSeq n entry q =
    { m with regs := (m.startSeq n entry q).regs, pcOver := (m.startSeq n entry q).pcOver, holds := (m.startSeq n entry q).holds } := by
  have hstate : RegsOnly m (((m.setFlag (Reg.seq_RUN q n) true).setFlag (Reg.seq_STOP q n) false).setFld (Reg.seq_STOP_WHY q n) 0) :=
    regsOnly_trans (regsOnly_setFld m _ _) (regsOnly_trans (regsOnly_setFld _ _ _) (regsOnly_setFld _ _ _))
  rw [State.startSeq]
  generalize ((m.setFlag (Reg.seq_RUN q n) true).setFlag (Reg.seq_STOP q n) false).setFld (Reg.seq_STOP_WHY q n) 0 = t at hstate ⊢
  rw [hstate]
  rfl

theorem State.reg_startSeq_other (q : Nat) {o : Nat} (h : o ≠ (Reg.seq_PC q n).off) : (m.startSeq n entry q).reg o = m.reg o := by
  have hreg : (m.startSeq n entry q).reg o =
      (((((m.setFlag (Reg.seq_RUN q n) true).setFlag (Reg.seq_STOP q n) false).setFld (Reg.seq_STOP_WHY q n) 0).setFld (Reg.seq_PC q n)
        entry).setFld (Reg.seq_CMD_DONE q n) 0).reg o := rfl
  rw [hreg, State.reg_setFld_other _ (Reg.seq_CMD_DONE q n) _ h, State.reg_setFld_other _ (Reg.seq_PC q n) _ h,
    State.reg_setFld_other _ (Reg.seq_STOP_WHY q n) _ h, State.reg_setFlag_other _ (Reg.seq_STOP q n) _ h,
    State.reg_setFlag_other _ (Reg.seq_RUN q n) _ h]

theorem State.startSeq_shows (q : Nat) : (m.startSeq n entry q).pc n q = placeShown entry ∧
    (m.startSeq n entry q).flag (Reg.seq_RUN q n) = true ∧ (m.startSeq n entry q).flag (Reg.seq_STOP q n) = false ∧
    (m.startSeq n entry q).fld (Reg.seq_STOP_WHY q n) = 0 ∧ (m.startSeq n entry q).fld (Reg.seq_CMD_DONE q n) = 0 ∧
    (m.startSeq n entry q).hold n q = none := by
  have hfld (f : Fld) : (m.startSeq n entry q).fld f = ((((((m.setFlag (Reg.seq_RUN q n) true).setFlag (Reg.seq_STOP q n) false).setFld
      (Reg.seq_STOP_WHY q n) 0).setFld (Reg.seq_PC q n) entry).setFld (Reg.seq_CMD_DONE q n) 0)).fld f := rfl
  have hearly (f : Fld) (hd : (Reg.seq_CMD_DONE q n).beside f = true) (hp : (Reg.seq_PC q n).beside f = true)
      (hw : (Reg.seq_STOP_WHY q n).beside f = true) :
      (m.startSeq n entry q).flag f = ((m.setFlag (Reg.seq_RUN q n) true).setFlag (Reg.seq_STOP q n) false).flag f := by
    rw [State.flag, hfld, State.fld_setFld_beside _ (Reg.seq_CMD_DONE q n) f _ hd, State.fld_setFld_beside _ (Reg.seq_PC q n) f _ hp,
      State.fld_setFld_beside _ (Reg.seq_STOP_WHY q n) f _ hw, State.flag]
  have hpc : (m.startSeq n entry q).fld (Reg.seq_PC q n) = entry % 8192 := by
    rw [hfld, State.fld_setFld_beside _ (Reg.seq_CMD_DONE q n) (Reg.seq_PC q n), State.fld_setFld _ (Reg.seq_PC q n)]
    rfl
  refine ⟨?_, ?_, ?_, ?_, (hfld _).trans (State.fld_setFld _ (Reg.seq_CMD_DONE q n) 0), (State.hold_setHold _ n q none n q).trans (if_pos rfl)⟩
  · rw [← m.pc_setPc_same n q entry]
    exact State.pc_congr (hpc.trans (m.fld_setFld (Reg.seq_PC q n) entry).symm) rfl
  · rw [hearly _ rfl rfl rfl, State.setFlag, State.flag_setFld_beside _ (Reg.seq_STOP q n) (Reg.seq_RUN q n), m.flag_setFlag (Reg.seq_RUN q n)]
  · rw [hearly _ rfl rfl rfl, State.flag_setFlag _ (Reg.seq_STOP q n)]
  · rw [hfld, State.fld_setFld_beside _ (Reg.seq_CMD_DONE q n) (Reg.seq_STOP_WHY q n), State.fld_setFld_beside _ (Reg.seq_PC q n) (Reg.seq_STOP_WHY q n),
      State.fld_setFld _ (Reg.seq_STOP_WHY q n)]
    rfl

theorem State.startBanks_frame : m.startBanks n mask swap =
    { m with regs := (m.startBanks n mask swap).regs, pstage := (m.startBanks n mask swap).pstage } := by
  have h : RegsOnly (m.applyParams n) (m.startBanks n mask swap) := regsOnly_foldl _ (fun m q => by split <;> rfl) _
  have hap := m.applyParams_frame n
  generalize m.startBanks n mask swap = t at h ⊢
  rw [h, hap]

/-- What a starting launch changes. -/
theorem State.startLaunch_frame : m.startLaunch n entry mask swap =
    { m with regs := (m.startLaunch n entry mask swap).regs, pstage := (m.startLaunch n entry mask swap).pstage,
             pcOver := (m.startLaunch n entry mask swap).pcOver, holds := (m.startLaunch n entry mask swap).holds,
             launches := m.launches.set (fun _ => none) n (some ⟨entry, mask, none, false, false, m.nextId⟩),
             lastFirst := m.lastFirst.set (fun _ => 0) n m.nextId } := by
  have hseq := foldl_rel (f := fun m q => State.startSeq m n entry q) (l := quads mask)
    (r := fun s t : State => t = { s with regs := t.regs, pcOver := t.pcOver, holds := t.holds }) (fun _ => rfl) (fun h k => by rw [k, h])
    (fun m q _ => m.startSeq_frame n entry q) (m.startBanks n mask swap)
  rw [State.startLaunch_eq]
  dsimp only
  generalize (quads mask).foldl (fun m q => State.startSeq m n entry q) (m.startBanks n mask swap) = t at hseq ⊢
  have hbanks := m.startBanks_frame n mask swap
  generalize m.startBanks n mask swap = u at hseq hbanks
  rw [hseq, hbanks]
  rfl

theorem State.launch_startLaunch : (m.startLaunch n entry mask swap).launch n = some ⟨entry, mask, none, false, false, m.nextId⟩ := by
  rw [State.launch, State.startLaunch_frame]
  exact SMap.get_set_same _ _ _ _

/-- A register that is no sequencer's state or bank is as the parameters have left it. -/
theorem State.reg_startLaunch_params {o : Nat} (hpc : ∀ q, o ≠ (Reg.seq_PC q n).off) (hact : ∀ q, o ≠ (Reg.seq_ACTIVE q n).off) :
    (m.startLaunch n entry mask swap).reg o = (m.applyParams n).reg o := by
  refine (foldl_keeps (v := fun m : State => m.reg o) (fun m q _ => m.reg_startSeq_other n entry q (hpc q)) _).trans
    (foldl_keeps (v := fun m : State => m.reg o) (fun m q _ => ?_) _)
  split
  · exact m.reg_swapBank_other n q (hact q)
  · rfl

/-- A sequencer of a launch that has started. -/
theorem State.startLaunch_shows (hn : n < 8) {q : Nat} (hq : q ∈ quads mask) :
    let t := m.startLaunch n entry mask swap
    t.pc n q = placeShown entry ∧ t.flag (Reg.seq_RUN q n) = true ∧ t.flag (Reg.seq_STOP q n) = false ∧
      t.fld (Reg.seq_STOP_WHY q n) = 0 ∧ t.fld (Reg.seq_CMD_DONE q n) = 0 ∧ t.hold n q = none := by
  have hview := foldl_once (f := fun (m : State) q => m.startSeq n entry q)
    (v := fun m : State => (m.pc n q, m.flag (Reg.seq_RUN q n), m.flag (Reg.seq_STOP q n), m.fld (Reg.seq_STOP_WHY q n),
      m.fld (Reg.seq_CMD_DONE q n), m.hold n q))
    (g := fun _ => (placeShown entry, true, false, 0, 0, none)) (quads_nodup mask) hq
    (fun m => by
      obtain ⟨hpc, hrun, hstop, hwhy, hdone, hhold⟩ := m.startSeq_shows n entry q
      rw [hpc, hrun, hstop, hwhy, hdone, hhold])
    (fun m p hp hne => by
      have hoff : (Reg.seq_PC q n).off ≠ (Reg.seq_PC p n).off := fun e => hne (seq_off_inj hn hn e).2.symm
      have hreg := m.reg_startSeq_other n entry p hoff
      have hhold : (m.startSeq n entry p).hold n q = m.hold n q := (State.hold_setHold _ n p none n q).trans (if_neg fun e => hne (by omega))
      have hpc : (m.startSeq n entry p).pc n q = m.pc n q :=
        (State.pc_congr (s := m.setPc n p entry) ((State.fld_eq_of_reg (f := Reg.seq_PC q n) hreg).trans
          (State.fld_eq_of_reg (f := Reg.seq_PC q n) (m.reg_setFld_other (Reg.seq_PC p n) entry hoff)).symm) rfl).trans
          (m.pc_setPc_other entry hn hn (mem_quads.mp hp).1 (mem_quads.mp hq).1 fun e => hne e.2.symm)
      rw [hhold, hpc, State.flag_eq_of_reg (f := Reg.seq_RUN q n) hreg, State.flag_eq_of_reg (f := Reg.seq_STOP q n) hreg,
        State.fld_eq_of_reg (f := Reg.seq_STOP_WHY q n) hreg, State.fld_eq_of_reg (f := Reg.seq_CMD_DONE q n) hreg])
    (m.startBanks n mask swap)
  simp only [Prod.mk.injEq] at hview
  exact hview

/-- A starting launch swaps its banks where it is asked to. -/
theorem State.active_startLaunch {q : Nat} (hn : n < 8) (hq : q ∈ quads mask) : (m.startLaunch n entry mask swap).fld (Reg.seq_ACTIVE q n) =
    if swap then 1 - m.fld (Reg.seq_ACTIVE q n) else m.fld (Reg.seq_ACTIVE q n) := by
  have hq4 := (mem_quads.mp hq).1
  have hparams : (m.applyParams n).fld (Reg.seq_ACTIVE q n) = m.fld (Reg.seq_ACTIVE q n) :=
    State.fld_eq_of_reg (m.reg_applyParams_other n (fun i _ => by simp only [Reg.seq_ACTIVE, Reg.seq_P]; omega)
      (fun j _ => by simp only [Reg.seq_ACTIVE, Reg.seq_PEND]; omega))
  have hseqs := foldl_keeps (f := fun m q => State.startSeq m n entry q) (l := quads mask) (v := fun m : State => m.fld (Reg.seq_ACTIVE q n))
    (fun m p _ => State.fld_eq_of_reg (m.reg_startSeq_other n entry p (by simp only [Reg.seq_ACTIVE, Reg.seq_PC]; omega)))
    (m.startBanks n mask swap)
  refine hseqs.trans ?_
  rw [← hparams]
  exact foldl_once (v := fun m : State => m.fld (Reg.seq_ACTIVE q n)) (g := fun x => if swap then 1 - x else x) (quads_nodup mask) hq
    (fun m => by
      split
      · exact (m.swapBank_shows n q).1
      · rfl)
    (fun m p _ hp => by
      split
      · exact State.fld_eq_of_reg (m.reg_swapBank_other n p fun e => hp (seq_ACTIVE_off_inj e.symm))
      · rfl) _

end Start

end Sys2Proof.Machine

/-! Recipes that stop, and the recipe boundary (R87, R92, R105, R109). -/

namespace Sys2Proof.Machine

open Sys2Proof.Spec

-- One proof at a time: side by side, their threads take more memory than the check has.
set_option Elab.async false

/-! ## What stops a recipe -/

section Stops

variable {s : State} {n : Stn} {q : Quad} {l : Launch}

theorem exec_unassignedOpcode (n : Stn) (q : Quad) (s : State) : exec (.unassignedOpcode n q) s = .next (s.unassigned n q) := rfl
theorem exec_nop (n : Stn) (q : Quad) (s : State) :
    exec (.nop n q) s = .next (s.issueLocal n q 0x00 false (fun m _ => .go (m.advance n q true))) := rfl
theorem exec_twtTmo (n : Stn) (q : Quad) (s : State) : exec (.twtTmo n q) s = .next (s.twtTimeout n q) := rfl
theorem exec_recipeBoundary (n : Stn) (s : State) : exec (.recipeBoundary n) s = .next (s.recipeBoundary n) := rfl

theorem State.unassigned_stops (hcan : s.canIssue n q = true) (hin : s.inBounds n q = true) (hpsn : s.psnIn (s.cmdAddr n q) 32 = false)
    (hopc : assignedOpc (s.cmdWord n q % 256) = false) : s.unassigned n q = s.stopRecipe n 6 q := by
  simp only [State.unassigned, hcan, hin, hpsn, hopc, Bool.not_true, Bool.not_false, Bool.false_eq_true, if_false, if_true]

theorem State.issueLocal_beyond (hcan : s.canIssue n q = true) (hin : s.inBounds n q = false) (opc : Nat) (up : Bool)
    (f : State → Nat → Issue) : s.issueLocal n q opc up f = s.stopRecipe n 5 q := by
  simp only [State.issueLocal, hcan, hin, Bool.not_true, Bool.not_false, Bool.false_eq_true, if_false, if_true]

/-- A poisoned word stops the recipe, after its read has met what it meets. -/
theorem State.issueLocal_poisoned {opc : Nat} (hcan : s.canIssue n q = true) (hin : s.inBounds n q = true) (hopc : s.cmdWord n q % 256 = opc)
    (hpsn : s.psnIn (s.cmdAddr n q) 32 = true) (up : Bool) (f : State → Nat → Issue) :
    s.issueLocal n q opc up f = (s.sramRead (0x0C + q) 0 n (0x10 + q) (s.cmdAddr n q) up).2.stopRecipe n 1 q := by
  simp only [State.issueLocal, hcan, hin, hopc, hpsn, Bool.not_true, Bool.false_eq_true, if_false, ne_eq, not_true_eq_false, or_true, if_true]

/-- What a read counts and reports is nothing that a stop speaks of. -/
theorem stopped_of_accessed {m t : State} {why : Nat} (h : Accessed s m) (hk : Spec.Stopped m t n l why) : Spec.Stopped s t n l why := by
  obtain ⟨hl, hqueued, hseqs⟩ := hk
  have hn := n.isLt
  refine ⟨hl, hqueued, fun q hq => ?_⟩
  obtain ⟨hstop, hwhy, hrun, hhold, hpc, hdone⟩ := hseqs q hq
  have hq4 := (mem_quads.mp hq).1
  have hreg : m.reg (Reg.seq_PC q n).off = s.reg (Reg.seq_PC q n).off :=
    h.reg (by constructor <;> simp only [Reg.seq_PC] <;> omega)
  have hover : m.pcOver = s.pcOver := by rw [h.1]; rfl
  exact ⟨hstop, hwhy, hrun, hhold, hpc.trans (State.pc_congr (State.fld_eq_of_reg (f := Reg.seq_PC q n) hreg) hover),
    hdone.trans (State.fld_eq_of_reg (f := Reg.seq_CMD_DONE q n) hreg)⟩

theorem State.twtTimeout_watch {k : Nat} {x : Watch} (hh : s.hold n q = some (.watch k)) (hx : s.watch k = some x)
    (ht : x.target = .seq n q k) (hm : x.tmo ≠ 0) : s.twtTimeout n q = (s.setWatch k none).stopRecipe n 4 q := by
  have hown : (s.watch k).any (fun x => decide (x.target = .seq n q k ∧ x.tmo ≠ 0)) = true := by
    rw [hx]
    exact decide_eq_true ⟨ht, hm⟩
  simp only [State.twtTimeout, hh, hown, if_true]

theorem State.twtTimeout_noWatch {w : BitVec 256} (hh : s.hold n q = some (.noWatch w)) (hm : bitsOf w.toNat 95 80 ≠ 0) :
    s.twtTimeout n q = s.stopRecipe n 4 q := by
  simp only [State.twtTimeout, hh, if_pos hm]

end Stops

/-! ## The recipe boundary (R109) -/

section Boundary

variable {s : State} {n : Stn} {l : Launch}

/-- The launch of station n has ended: its sequencers run no more, no launch is left, and swaps that wait have applied. -/
def State.ended (s : State) (n : Nat) (l : Launch) : State :=
  ((((quads l.qmask).foldl (fun m q => m.setFlag (Reg.seq_RUN q n) false) s).setLaunch n none).applySwaps n l.qmask).epochSwaps n

/-- With END issued and no command of the launch outstanding, the launch ends, and a queued one may start. -/
theorem State.recipeBoundary_eq (hl : s.launch n = some l) (hend : l.ended = true)
    (hx : ∀ x ∈ s.xfers, ¬ (x.stn = n.val ∧ l.first ≤ x.id)) (hk : ∀ x ∈ s.spks, ¬ (x.stn = n.val ∧ l.first ≤ x.id))
    (hg : ∀ x ∈ s.gops, ¬ (x.stn = n.val ∧ l.first ≤ x.id)) : s.recipeBoundary n = (s.ended n l).startQueued n := by
  have hxs : s.xfers.any (fun x => decide (x.stn = n.val ∧ l.first ≤ x.id)) = false := List.any_eq_false.mpr fun x h => by simpa using hx x h
  have hks : s.spks.any (fun x => decide (x.stn = n.val ∧ l.first ≤ x.id)) = false := List.any_eq_false.mpr fun x h => by simpa using hk x h
  have hgs : s.gops.any (fun x => decide (x.stn = n.val ∧ l.first ≤ x.id)) = false := List.any_eq_false.mpr fun x h => by simpa using hg x h
  rw [State.recipeBoundary, hl]
  simp only [hend, hxs, hks, hgs, Bool.not_false, Bool.and_self, if_true]
  rfl

variable (s n l)

theorem State.ended_frame : s.ended n l =
    { s with regs := (s.ended n l).regs, launches := s.launches.set (fun _ => none) n none } := by
  have hrun : RegsOnly s ((quads l.qmask).foldl (fun m q => m.setFlag (Reg.seq_RUN q n) false) s) :=
    regsOnly_foldl _ (fun m q => regsOnly_setFld m _ _) s
  rw [State.ended, State.epochSwaps_frame, State.applySwaps_frame]
  generalize (quads l.qmask).foldl (fun m q => m.setFlag (Reg.seq_RUN q n) false) s = t at hrun ⊢
  rw [hrun]
  rfl

theorem State.launch_ended : (s.ended n l).launch n = none := by
  rw [State.launch, State.ended_frame]
  exact SMap.get_set_same _ _ _ _

/-- Registers below the Tongs' are as they were, but for the sequencers' state and banks. -/
theorem State.reg_ended_other {o : Nat} (ho : o < 0x24_0000) (hpc : ∀ q, o ≠ (Reg.seq_PC q n).off)
    (hact : ∀ q, o ≠ (Reg.seq_ACTIVE q n).off) : (s.ended n l).reg o = s.reg o := by
  rw [State.ended, State.reg_epochSwaps_other _ n ho, State.reg_applySwaps_other _ n _ hact]
  exact foldl_keeps (v := fun m : State => m.reg o) (fun m q _ => m.reg_setFlag_other (Reg.seq_RUN q n) false (hpc q)) s

/-- A sequencer of a launch that has ended. -/
theorem State.ended_shows {q : Nat} (hq : q ∈ quads l.qmask) :
    (s.ended n l).flag (Reg.seq_RUN q n) = false ∧ (s.ended n l).flag (Reg.seq_SWAP_PEND q n) = false ∧
      (s.ended n l).fld (Reg.seq_ACTIVE q n) =
        if s.flag (Reg.seq_SWAP_PEND q n) then 1 - s.fld (Reg.seq_ACTIVE q n) else s.fld (Reg.seq_ACTIVE q n) := by
  have hn := n.isLt
  have hq4 := (mem_quads.mp hq).1
  generalize hu : ((quads l.qmask).foldl (fun m q => m.setFlag (Reg.seq_RUN q n) false) s).setLaunch n none = u
  have hbank : u.reg (Reg.seq_ACTIVE q n).off = s.reg (Reg.seq_ACTIVE q n).off := by
    rw [← hu]
    exact foldl_keeps (v := fun m : State => m.reg (Reg.seq_ACTIVE q n).off) (fun m p hp => m.reg_setFlag_other (Reg.seq_RUN p n) false
      (by have := (mem_quads.mp hp).1; simp only [Reg.seq_ACTIVE, Reg.seq_RUN]; omega)) s
  have hran : u.flag (Reg.seq_RUN q n) = false := by
    rw [← hu]
    exact foldl_once (f := fun (m : State) p => m.setFlag (Reg.seq_RUN p n) false) (v := fun m : State => m.flag (Reg.seq_RUN q n))
      (g := fun _ => false) (quads_nodup l.qmask) hq
      (fun m => m.flag_setFlag (Reg.seq_RUN q n) false)
      (fun m p _ hp => State.flag_eq_of_reg (m.reg_setFlag_other (Reg.seq_RUN p n) false fun e =>
        hp (seq_off_inj hn hn (by simpa [Reg.seq_PC, Reg.seq_RUN] using e)).2.symm)) s
  have hend (f : Fld) (hf : f.off < 0x24_0000) : (s.ended n l).reg f.off = (u.applySwaps n l.qmask).reg f.off := by
    rw [State.ended, hu, State.reg_epochSwaps_other _ n hf]
  have hact : (Reg.seq_ACTIVE q n).off < 0x24_0000 := by simp only [Reg.seq_ACTIVE]; omega
  have hrun : (Reg.seq_RUN q n).off < 0x24_0000 := by simp only [Reg.seq_RUN]; omega
  obtain ⟨hpend, hactive⟩ := u.applySwaps_shows n hq
  refine ⟨(State.flag_eq_of_reg (hend (Reg.seq_RUN q n) hrun)).trans ?_,
    (State.flag_eq_of_reg (f := Reg.seq_SWAP_PEND q n) (hend (Reg.seq_SWAP_PEND q n) hact)).trans hpend,
    (State.fld_eq_of_reg (hend (Reg.seq_ACTIVE q n) hact)).trans (hactive.trans ?_)⟩
  · rw [State.flag_eq_of_reg (u.reg_applySwaps_other n _ fun p => by simp only [Reg.seq_RUN, Reg.seq_ACTIVE]; omega), hran]
  · rw [State.flag_eq_of_reg (f := Reg.seq_SWAP_PEND q n) hbank, State.fld_eq_of_reg (f := Reg.seq_ACTIVE q n) hbank]

theorem State.startQueued_none (m : State) {n : Nat} (h : m.queued.get (fun _ => none) n = none) : m.startQueued n = m := by
  rw [State.startQueued, h]

/-- A queued launch starts where no recipe and no margin test holds it. -/
theorem State.startQueued_some (m : State) {n entry mask : Nat} {swap : Bool} (h : m.queued.get (fun _ => none) n = some (entry, mask, swap))
    (hl : m.launch n = none) (hb : m.flag Reg.sys_BUSY_510 = false) : m.startQueued n =
      (({ m with queued := m.queued.set (fun _ => none) n none }).setFlag (Reg.seq_QUEUED 0 n) false).startLaunch n entry mask swap := by
  have hmargin : m.marginOnDies mask = false := by rw [State.marginOnDies, hb, Bool.false_and]
  simp only [State.startQueued, h, hl, hmargin, Option.isNone_none, Bool.not_false, and_self, if_true]

end Boundary

/-- Settles O13: each cause stops the recipe, and at its boundary a launch ends and a queued one starts. -/
theorem recipesStopAndEnd : Obligations.RecipesStopAndEnd := by
  unfold Obligations.RecipesStopAndEnd
  refine ⟨fun s n q l hl => ⟨fun hcan hin hpsn hopc => ?_, fun hcan hin => ?_, fun hcan hin hopc hpsn => ?_, fun k x hh hx ht hm => ?_,
    fun w hh hm => ?_⟩, fun s n l hl hend hx hk hg => ⟨fun hq => ?_, fun entry mask swap hq he hb => ?_⟩⟩
  · rw [exec_unassignedOpcode, State.unassigned_stops hcan hin hpsn hopc]
    exact ⟨_, rfl, s.stopped_stopRecipe 6 q hl n.isLt (by decide)⟩
  · rw [exec_nop, State.issueLocal_beyond hcan hin]
    exact ⟨_, rfl, s.stopped_stopRecipe 5 q hl n.isLt (by decide)⟩
  · rw [exec_nop, State.issueLocal_poisoned hcan hin hopc hpsn]
    have hread := accessed_sramRead s (0x0C + q) 0 n (0x10 + q) (s.cmdAddr n q) false
    generalize (s.sramRead (0x0C + q) 0 n (0x10 + q) (s.cmdAddr n q) false).2 = m at hread ⊢
    exact ⟨_, rfl, stopped_of_accessed hread
      (m.stopped_stopRecipe 1 q ((State.launch_congr (by rw [hread.1]; rfl) n).trans hl) n.isLt (by decide))⟩
  · rw [exec_twtTmo, State.twtTimeout_watch hh hx ht hm]
    refine ⟨_, rfl, (s.setWatch k none).stopped_stopRecipe 4 q hl n.isLt (by decide), ?_⟩
    rw [State.watch, (s.setWatch k none).watches_stopRecipe 4 q hl (by decide)]
    exact SMap.get_set_same _ _ _ _
  · rw [exec_twtTmo, State.twtTimeout_noWatch hh hm]
    exact ⟨_, rfl, s.stopped_stopRecipe 4 q hl n.isLt (by decide)⟩
  · have hqueued : (s.ended n l).queued.get (fun _ => none) n = none := by rw [State.ended_frame]; exact hq
    rw [exec_recipeBoundary, State.recipeBoundary_eq hl hend hx hk hg, State.startQueued_none _ hqueued]
    exact ⟨_, rfl, s.launch_ended n l, memory_of_eq (by rw [State.ended_frame]) (by rw [State.ended_frame]),
      fun q hq => s.ended_shows n l hq⟩
  · have hqueued : (s.ended n l).queued.get (fun _ => none) n = some (entry, mask, swap) := by rw [State.ended_frame]; exact hq
    have hbusy : (s.ended n l).flag Reg.sys_BUSY_510 = false := by
      rw [← hb]
      exact State.flag_eq_of_reg (s.reg_ended_other n l (by decide) (fun q => by simp only [Reg.sys_BUSY_510, Reg.seq_PC]; omega)
        (fun q => by simp only [Reg.sys_BUSY_510, Reg.seq_ACTIVE]; omega))
    have hnext : (s.ended n l).nextId = s.nextId := by rw [State.ended_frame]
    rw [exec_recipeBoundary, State.recipeBoundary_eq hl hend hx hk hg, State.startQueued_some _ hqueued (s.launch_ended n l) hbusy]
    generalize hu : ({ s.ended n l with queued := (s.ended n l).queued.set (fun _ => none) n none }).setFlag (Reg.seq_QUEUED 0 n) false = u
    have hunext : u.nextId = s.nextId := by rw [← hu, ← hnext]; rfl
    refine ⟨_, rfl, ?_, ?_, fun q hq => ?_⟩
    · rw [State.startLaunch_frame, ← hu]
      exact SMap.get_set_same _ _ _ _
    · rw [State.launch_startLaunch, hunext]
    · obtain ⟨hpc, hrun, -⟩ := u.startLaunch_shows n entry mask swap n.isLt hq
      exact ⟨hrun, hpc.trans (placeShown_of_lt (by omega))⟩

end Sys2Proof.Machine

/-! Host writes of the sequencers' registers and of recipe memory (R82, R89, R90, R94). -/

namespace Sys2Proof.Machine

open Sys2Proof.Spec

-- One proof at a time: side by side, their threads take more memory than the check has.
set_option Elab.async false

/-! ## A host's write of a register of SEQ (R406 to R408) -/

section SeqDraft

variable {m : State} {off v q : Nat} {d : Draft} {e : FieldRow × List Nat}

theorem blkOf_seq (hq : q < 4) : blkOf (0xC + q) = some (.seq, q) := by
  interval_cases q <;> rfl

theorem mayWrite_host (hwr : e.1.wr = .any) : m.mayWrite .host off e = true := by
  obtain ⟨⟨base, dims, hi, lo, acc, rst, wr, rng, ctr, only0, own⟩, ix⟩ := e
  cases (show wr = .any from hwr)
  rfl

/-- The host's value of a field without a stated range, which any master writes. -/
theorem State.draftField_seq (hq : q < 4) (hoff : off / 0x1_0000 = 0xC + q) (hacc : e.1.acc = .rw) (hwr : e.1.wr = .any) (hrng : e.1.rng = none)
    (hbase : e.1.base ≠ 0x60) :
    m.draftField .host off v d e = { d with word := insertBits d.word e.1.hi e.1.lo (bitsOf v e.1.hi e.1.lo) } := by
  have hmay : m.mayWrite .host off e = true := mayWrite_host hwr
  have hlock : m.lockedAt off e = false := by simp [State.lockedAt, hoff, blkOf_seq hq, hacc]
  have hclamp : m.clampOf off e.1 (bitsOf v e.1.hi e.1.lo) = bitsOf v e.1.hi e.1.lo := by
    simp only [State.clampOf, hoff, blkOf_seq hq, hrng, hbase, false_and, if_false]
  have hround : roundOf off (bitsOf v e.1.hi e.1.lo) = bitsOf v e.1.hi e.1.lo := by
    rw [roundOf, if_neg (by omega), if_neg (by omega)]
  rw [State.draftField_taken (.inl hacc) hmay hlock, hclamp, hround]
  simp

/-- A bit that a 1 clears: with a 1 written, its place reads 0, and the write acts there. -/
theorem State.draftField_w1c {k : Nat} (hacc : e.1.acc = .w1c) (hwr : e.1.wr = .any) (hhi : e.1.hi = k) (hlo : e.1.lo = k) :
    m.draftField .host off v d e =
      if bitsOf v k k = 0 then d else { d with word := insertBits d.word k k 0, act := d.act + bitsOf v k k <<< k } := by
  have hmay : m.mayWrite .host off e = true := mayWrite_host hwr
  have hv := bitsOf_lt v k k
  have hw := bitsOf_lt d.word k k
  rw [Nat.add_sub_cancel_left] at hv hw
  simp only [State.draftField, hacc, hhi, hlo, hmay, if_true]
  split
  · rfl
  · next h =>
    have hone : bitsOf v k k = 1 := by omega
    have hand : bitsOf d.word k k &&& bitsOf v k k = bitsOf d.word k k := by rw [hone, Nat.and_one_is_mod]; omega
    rw [hand]
    simp [insertBits]

/-- Registers of SEQ beyond the windows are no window's word. -/
theorem fitWord_seq (hq : q < 4) (hoff : off / 0x1_0000 = 0xC + q) (h : 0x200 ≤ off % 0x1_0000 ∨ off % 0x20 ≠ 0) (w : Nat) : fitWord off w = w := by
  rw [fitWord, if_neg (by omega), if_neg (by omega)]

/-- The draft of a write whose fields are all taken acts at once. -/
theorem State.busWrite_seq {s : State} (hup : HostUp s) (hq : q < 4) (hoff : off / 0x1_0000 = 0xC + q)
    (hw : ∃ e ∈ rowsAt off, e.1.acc ≠ .ro ∧ e.1.wr = .any) (hpo : 0x100 ≤ off % 0x1_0000) {w act : Nat}
    (hd : s.draft .host off v = ⟨w, act, false, false⟩) : s.busWrite .host off v = s.seqWrite .host q off ⟨w, act, false, false⟩ := by
  obtain ⟨e, he, hacc, hwr⟩ := hw
  have hmay : s.mayWrite .host off e = true := mayWrite_host hwr
  have hdrop : s.enDropped off v = false := by
    rw [State.enDropped, decide_eq_false (by omega), Bool.false_and, Bool.false_and]
  rw [State.busWrite_taken (reaches_of_hostUp hup) (by omega) ⟨e, he, hacc, hmay⟩ hdrop, hd, State.counted_of_not_refused _ _ _ rfl]
  simp only [State.regEffect, hoff, blkOf_seq hq, Bool.false_eq_true, if_false, if_neg (Nat.not_lt.mpr hpo)]

end SeqDraft

/-! ## SEQ_LAUNCH (R82, R83) -/

/-- A field of SEQ_LAUNCH, of station n. -/
def launchRow (n hi lo : Nat) (acc : Acc) (wr : Writer) : FieldRow × List Nat :=
  (⟨0x200, [(16, 8)], hi, lo, acc, 0, wr, none, false, true, .stn⟩, [n])

theorem rowsAt_launch : ∀ n : Stn, rowsAt (Reg.seq_GO 0 n).off = [launchRow n 12 0 .rw .any, launchRow n 19 16 .rw .any,
    launchRow n 20 20 .rw .any, launchRow n 21 21 .ro .none, launchRow n 22 22 .w1c .any, launchRow n 63 63 .w1s .any] := by decide +kernel

section Launch

variable {s : State} {n : Stn} {v : Nat}

/-- The word of SEQ_LAUNCH that a write of v leaves. -/
def launchWord (old v : Nat) : Nat :=
  let w := insertBits (insertBits (insertBits old 12 0 (bitsOf v 12 0)) 19 16 (bitsOf v 19 16)) 20 20 (bitsOf v 20 20)
  if bitsOf v 22 22 = 0 then w else insertBits w 22 22 0

theorem bitsOf_launchWord (old v hi lo : Nat) (h : hi < 22) : bitsOf (launchWord old v) hi lo =
    bitsOf (insertBits (insertBits (insertBits old 12 0 (bitsOf v 12 0)) 19 16 (bitsOf v 19 16)) 20 20 (bitsOf v 20 20)) hi lo := by
  rw [launchWord]
  split
  · rfl
  · exact bitsOf_insertBits_apart _ _ _ _ _ _ (by decide) (.inr h)

theorem launchWord_entry (old v : Nat) : bitsOf (launchWord old v) 12 0 = bitsOf v 12 0 := by
  rw [bitsOf_launchWord _ _ _ _ (by decide), bitsOf_insertBits_apart _ _ _ _ _ _ (by decide) (by decide),
    bitsOf_insertBits_apart _ _ _ _ _ _ (by decide) (by decide), bitsOf_insertBits_same _ _ _ _ (by decide), Nat.mod_eq_of_lt (bitsOf_lt v 12 0)]

theorem launchWord_mask (old v : Nat) : bitsOf (launchWord old v) 19 16 = bitsOf v 19 16 := by
  rw [bitsOf_launchWord _ _ _ _ (by decide), bitsOf_insertBits_apart _ _ _ _ _ _ (by decide) (by decide),
    bitsOf_insertBits_same _ _ _ _ (by decide), Nat.mod_eq_of_lt (bitsOf_lt v 19 16)]

theorem launchWord_swap (old v : Nat) : bitsOf (launchWord old v) 20 20 = bitsOf v 20 20 := by
  rw [bitsOf_launchWord _ _ _ _ (by decide), bitsOf_insertBits_same _ _ _ _ (by decide), Nat.mod_eq_of_lt (bitsOf_lt v 20 20)]

theorem launchWord_queued (old v : Nat) : bitsOf (launchWord old v) 21 21 = bitsOf old 21 21 := by
  rw [bitsOf_launchWord _ _ _ _ (by decide), bitsOf_insertBits_apart _ _ _ _ _ _ (by decide) (by decide),
    bitsOf_insertBits_apart _ _ _ _ _ _ (by decide) (by decide), bitsOf_insertBits_apart _ _ _ _ _ _ (by decide) (by decide)]

theorem seq_GO_page (n : Stn) : (Reg.seq_GO 0 n).off / 0x1_0000 = 0xC + 0 := by
  have := n.isLt
  simp only [Reg.seq_GO]
  omega

theorem seq_GO_offset (n : Stn) : (Reg.seq_GO 0 n).off % 0x1_0000 = 0x200 + 0x10 * n := by
  have := n.isLt
  simp only [Reg.seq_GO]
  omega

theorem bitsOf_one (v k : Nat) : bitsOf v k k = b2n (v.testBit k) := by
  have hlt := bitsOf_lt v k k
  have htest := testBit_bitsOf v k k 0
  rw [Nat.add_sub_cancel_left] at hlt htest
  have hval : bitsOf v k k = 0 ∨ bitsOf v k k = 1 := by omega
  cases hb : v.testBit k <;> rcases hval with h | h <;> simp_all [b2n]

/-- A write of SEQ_LAUNCH with GO acts (R82). -/
theorem State.draft_launch (hgo : v.testBit 63 = true) :
    ∃ act, s.draft .host (Reg.seq_GO 0 n).off v = ⟨launchWord (s.reg (Reg.seq_GO 0 n).off) v, act, false, false⟩ ∧ act.testBit 63 = true := by
  have hrw (hi lo : Nat) (d : Draft) := State.draftField_seq (m := s) (v := v) (d := d) (e := launchRow n hi lo .rw .any) (q := 0) (by decide)
    (seq_GO_page n) rfl rfl rfl (by simp [launchRow])
  have hro (d : Draft) := State.draftField_readOnly (m := s) (who := .host) (off := (Reg.seq_GO 0 n).off) (v := v) (d := d)
    (e := launchRow n 21 21 .ro .none) rfl
  have hlovr (d : Draft) := State.draftField_w1c (m := s) (off := (Reg.seq_GO 0 n).off) (v := v) (d := d) (e := launchRow n 22 22 .w1c .any)
    rfl rfl rfl rfl
  have hset (d : Draft) := State.draftField_set (m := s) (who := .host) (off := (Reg.seq_GO 0 n).off) (v := v) (d := d)
    (e := launchRow n 63 63 .w1s .any) rfl rfl
  have hbit : bitsOf v 63 63 = 1 := by rw [bitsOf_one, hgo]; rfl
  have hfit (w : Nat) : fitWord (Reg.seq_GO 0 n).off w = w := fitWord_seq (q := 0) (by decide) (seq_GO_page n) (.inl (by rw [seq_GO_offset]; omega)) w
  rw [State.draft, rowsAt_launch n]
  simp only [List.foldl_cons, List.foldl_nil, hrw, hro, hlovr, hset, hfit, ne_eq, not_true_eq_false, decide_false, Bool.or_false]
  simp only [launchRow, launchWord, hbit, Nat.zero_add]
  have hover : bitsOf v 22 22 = 0 ∨ bitsOf v 22 22 = 1 := by rw [bitsOf_one]; cases v.testBit 22 <;> decide
  rcases hover with h | h
  · rw [h, if_pos rfl, if_pos rfl]
    exact ⟨0 + 1 <<< 63, rfl, by decide⟩
  · rw [h, if_neg one_ne_zero, if_neg one_ne_zero]
    exact ⟨1 <<< 22 + 1 <<< 63, rfl, by decide⟩

theorem State.busWrite_launch (hup : HostUp s) (hgo : v.testBit 63 = true) : s.busWrite .host (Reg.seq_GO 0 n).off v =
    (s.setReg (Reg.seq_GO 0 n).off (launchWord (s.reg (Reg.seq_GO 0 n).off) v)).launchGo 0 n := by
  have hn := n.isLt
  obtain ⟨act, hd, hact⟩ := State.draft_launch (s := s) (n := n) hgo
  have hpo := seq_GO_offset n
  have hidx : (0x200 + 0x10 * n.val - 0x200) / 0x10 = n.val := by omega
  rw [State.busWrite_seq hup (q := 0) (by decide) (seq_GO_page n)
    ⟨_, by rw [rowsAt_launch n]; exact List.mem_cons_self, by simp [launchRow], rfl⟩ (by omega) hd]
  simp only [State.seqWrite, hpo, hact, if_neg (show ¬ 0x200 + 0x10 * n.val < 0x200 by omega), if_pos (show 0x200 + 0x10 * n.val < 0x1000 by omega),
    if_true, hidx]
  rfl

end Launch

/-! ## A launch that is accepted (R82, R83) -/

section Accepted

variable {s : State} {n : Stn} {v : Nat}

/-- A launch reads windows, stations and resets, which a write of SEQ_LAUNCH leaves. -/
theorem State.launchOk_congr {s t : State} {n entry mask : Nat} (hon : t.flag (Reg.sys_EN n) = s.flag (Reg.sys_EN n))
    (hwin : ∀ q, t.fld (Reg.seq_RLEN q n) = s.fld (Reg.seq_RLEN q n)) : t.launchOk n entry mask = s.launchOk n entry mask := by
  have hlen : (fun q => decide (0 < (t.rcpWin n q).2 ∧ entry < (t.rcpWin n q).2)) =
      fun q => decide (0 < (s.rcpWin n q).2 ∧ entry < (s.rcpWin n q).2) :=
    funext fun q => decide_eq_decide.mpr (by rw [State.rcpWin, State.rcpWin, hwin q])
  rw [State.launchOk, State.launchOk, State.stnOn, State.stnOn, hon, hlen]

/-- The state in which a launch is judged: its fields stand in SEQ_LAUNCH. -/
def State.launchWritten (s : State) (n v : Nat) : State := s.setReg (Reg.seq_GO 0 n).off (launchWord (s.reg (Reg.seq_GO 0 n).off) v)

theorem State.reg_launchWritten_other (s : State) (n v : Nat) {o : Nat} (h : o ≠ (Reg.seq_GO 0 n).off) : (s.launchWritten n v).reg o = s.reg o :=
  State.reg_setReg_other _ _ h

theorem State.fld_launchWritten (s : State) (n v : Nat) (f : Fld) (hoff : f.off = (Reg.seq_GO 0 n).off) (hh : f.hi < 64) :
    (s.launchWritten n v).fld f = bitsOf (launchWord (s.reg (Reg.seq_GO 0 n).off) v) f.hi f.lo := by
  rw [State.fld, hoff, State.launchWritten, State.reg_setReg_same, bitsOf_mod_word _ _ _ hh]

/-- A launch that waits for the station's recipe to end. -/
def State.queueLaunch (m : State) (n : Nat) (l : Nat × Nat × Bool) : State :=
  ({ m with queued := m.queued.set (fun _ => none) n (some l) }).setFlag (Reg.seq_QUEUED 0 n) true

/-- What a launch that passes its checks comes to (R83). -/
theorem State.launchGo_accepted (hreset : s.inReset n = false) (hsafe : s.safe = false)
    (hok : s.launchOk n (bitsOf v 12 0) (bitsOf v 19 16) = true) (hq : s.flag (Reg.seq_QUEUED 0 n) = false) :
    (s.launchWritten n v).launchGo 0 n =
      if (s.launch n).isSome ∨ s.marginOnDies (bitsOf v 19 16) then
        (s.launchWritten n v).queueLaunch n (bitsOf v 12 0, bitsOf v 19 16, v.testBit 20)
      else (s.launchWritten n v).startLaunch n (bitsOf v 12 0) (bitsOf v 19 16) (v.testBit 20) := by
  have hn := n.isLt
  have hentry : (s.launchWritten n v).fld (Reg.seq_ENTRY 0 n) = bitsOf v 12 0 :=
    (s.fld_launchWritten n v (Reg.seq_ENTRY 0 n) rfl (Nat.le_of_ble_eq_true rfl)).trans (launchWord_entry _ _)
  have hmask : (s.launchWritten n v).fld (Reg.seq_QMASK 0 n) = bitsOf v 19 16 :=
    (s.fld_launchWritten n v (Reg.seq_QMASK 0 n) rfl (Nat.le_of_ble_eq_true rfl)).trans (launchWord_mask _ _)
  have hswap : (s.launchWritten n v).flag (Reg.seq_SWAP_200 0 n) = v.testBit 20 := by
    have hfld : (s.launchWritten n v).fld (Reg.seq_SWAP_200 0 n) = bitsOf v 20 20 :=
      (s.fld_launchWritten n v (Reg.seq_SWAP_200 0 n) rfl (Nat.le_of_ble_eq_true rfl)).trans (launchWord_swap _ _)
    rw [State.flag, hfld, bitsOf_one]
    cases v.testBit 20 <;> rfl
  have hqueued : (s.launchWritten n v).flag (Reg.seq_QUEUED 0 n) = false := by
    rw [← hq, State.flag, s.fld_launchWritten n v (Reg.seq_QUEUED 0 n) rfl (Nat.le_of_ble_eq_true rfl)]
    exact congrArg (fun x => decide (x ≠ 0)) (launchWord_queued _ _)
  have hfld (f : Fld) (h : f.off ≠ (Reg.seq_GO 0 n).off) : (s.launchWritten n v).fld f = s.fld f :=
    State.fld_eq_of_reg (s.reg_launchWritten_other n v h)
  have hflag (f : Fld) (h : f.off ≠ (Reg.seq_GO 0 n).off) : (s.launchWritten n v).flag f = s.flag f :=
    State.flag_eq_of_reg (s.reg_launchWritten_other n v h)
  have hsafe' : (s.launchWritten n v).safe = false := by
    rw [← hsafe, State.safe, hfld _ (by simp only [Reg.bolt_SAFE_WHY, Reg.seq_GO]; omega), State.safe]
  have hreset' : (s.launchWritten n v).inReset n = false := hreset
  have hok' : (s.launchWritten n v).launchOk n (bitsOf v 12 0) (bitsOf v 19 16) = true := by
    rw [← hok]
    exact State.launchOk_congr (hflag _ (by simp only [Reg.sys_EN, Reg.seq_GO]; omega))
      (fun q => hfld _ (by simp only [Reg.seq_RLEN, Reg.seq_GO]; omega))
  have hlaunch : (s.launchWritten n v).launch n = s.launch n := rfl
  have hmargin : (s.launchWritten n v).marginOnDies (bitsOf v 19 16) = s.marginOnDies (bitsOf v 19 16) := by
    rw [State.marginOnDies, hflag _ (by simp only [Reg.sys_BUSY_510, Reg.seq_GO]; omega), hfld _ (by simp only [Reg.sys_DIE, Reg.seq_GO]; omega),
      State.marginOnDies]
  simp only [State.launchGo, hentry, hmask, hswap, hqueued, hsafe', hreset', hok', hlaunch, hmargin, Bool.false_eq_true, or_self, if_false,
    Bool.not_true]
  rfl

end Accepted

theorem seq_P_off_ne_ACTIVE {n i q j : Nat} (hn : n < 8) (hi : i < 256) (hj : j < 8) :
    (Reg.seq_P 0 n i).off ≠ (Reg.seq_ACTIVE q j).off := by
  simp only [Reg.seq_P, Reg.seq_ACTIVE]
  omega

theorem exec_seqLaunch (n : Stn) (v : Word) (s : State) :
    exec (.seqLaunch .host n v) s = .next (s.busWrite .host (Reg.seq_GO 0 n).off v.toNat) := rfl

/-- Settles O14: the write leaves the launch's fields, and the launch starts or is queued. -/
theorem launchStartsOrQueues : Obligations.LaunchStartsOrQueues := by
  unfold Obligations.LaunchStartsOrQueues
  intro s n v hup hgo hreset hsafe entry mask hok hqueued
  have hn := n.isLt
  have hwrite := State.launchGo_accepted hreset hsafe hok hqueued
  rw [exec_seqLaunch, State.busWrite_launch hup hgo, ← State.launchWritten, hwrite]
  have hmem : SameMemory s (s.launchWritten n v.toNat) := memory_of_eq rfl rfl
  have hreg {o : Nat} (h : o ≠ (Reg.seq_GO 0 n).off) := s.reg_launchWritten_other n v.toNat h
  refine ⟨fun hidle hbusy => ?_, fun l hl => ?_⟩
  · have hmargin : s.marginOnDies (bitsOf v.toNat 19 16) = false := by rw [State.marginOnDies, hbusy, Bool.false_and]
    rw [if_neg (by simp [hidle, hmargin])]
    have hshows (q : Nat) (hq : q ∈ quads mask) := (s.launchWritten n v.toNat).startLaunch_shows n entry mask (v.toNat.testBit 20) hn hq
    have hentry : entry < 8192 := bitsOf_lt v.toNat 12 0
    refine ⟨_, rfl, sameMemory_trans hmem (memory_of_eq (by rw [State.startLaunch_frame]) (by rw [State.startLaunch_frame])),
      State.launch_startLaunch _ _ _ _ _, fun q hq => ?_, fun j hj => ?_, fun i hi => ?_⟩
    · obtain ⟨hpc, hrun, hstop, hwhy, hdone, hhold⟩ := hshows q hq
      refine ⟨hpc.trans (placeShown_of_lt (by omega)), hrun, hstop, hwhy, hdone, hhold, ?_⟩
      rw [State.active_startLaunch _ n entry mask _ hn hq, State.fld_eq_of_reg (f := Reg.seq_ACTIVE q n)
        (hreg (by have := (mem_quads.mp hq).1; simp only [Reg.seq_ACTIVE, Reg.seq_GO]; omega))]
    · rw [State.fld_eq_of_reg (State.reg_startLaunch_params _ n entry mask _ (fun q => by simp only [Reg.seq_PEND, Reg.seq_PC]; omega)
        (fun q => by simp only [Reg.seq_PEND, Reg.seq_ACTIVE]; omega))]
      exact State.pend_applyParams _ n hj
    · have hparam : (s.launchWritten n v.toNat).param n i = s.param n i :=
        State.fld_eq_of_reg (hreg (by simp only [Reg.seq_P, Reg.seq_GO]; omega))
      have hpend : (s.launchWritten n v.toNat).fld (Reg.seq_PEND 0 n (i / 64)) = s.fld (Reg.seq_PEND 0 n (i / 64)) :=
        State.fld_eq_of_reg (hreg (by simp only [Reg.seq_PEND, Reg.seq_GO]; omega))
      have hstaged : stagedParam (s.launchWritten n v.toNat) n i = stagedParam s n i := rfl
      have hlive : ((s.launchWritten n v.toNat).startLaunch n entry mask (v.toNat.testBit 20)).param n i =
          ((s.launchWritten n v.toNat).applyParams n).param n i :=
        State.fld_eq_of_reg (State.reg_startLaunch_params _ n entry mask _ (fun q => seq_P_off_ne hn hi hn)
          (fun q => seq_P_off_ne_ACTIVE hn hi hn))
      rw [hlive, State.param_applyParams _ n i hn hi, hparam, hpend, hstaged] <;> rfl
  · rw [if_pos (.inl (by rw [hl]; rfl))]
    refine ⟨_, rfl, hl, State.flag_setFlag _ (Reg.seq_QUEUED 0 n) true, SMap.get_set_same _ _ _ _, rfl, rfl⟩

end Sys2Proof.Machine

/-! Staged parameters, bank swaps and recipe memory as the host writes them (R89, R90, R94). -/

namespace Sys2Proof.Machine

open Sys2Proof.Spec

-- One proof at a time: side by side, their threads take more memory than the check has.
set_option Elab.async false

/-! ## Parameters (R94) -/

section Param

variable {s : State} {n : Stn} {i : Fin 256} {v : Nat}

/-- The field of parameter register i of station n. -/
def paramRow (n i : Nat) : FieldRow × List Nat := (⟨0x1000, [(2048, 8), (8, 256)], 63, 0, .rw, 0, .any, none, false, true, .stn⟩, [n, i])

/-- The row's registers end below offset b of their page. -/
def endsBelow (b : Nat) (r : FieldRow) : Bool :=
  match r.dims with
  | [] => false
  | (s, c) :: _ => Nat.blt 0 s && Nat.ble (r.base + c * s) b

theorem rowIndex_of_endsBelow {b po : Nat} {r : FieldRow} (h : endsBelow b r = true) (hpo : b ≤ po) : rowIndex r.dims (po - r.base) = none := by
  rw [endsBelow] at h
  split at h
  · cases h
  · next s c t hdims =>
    obtain ⟨hs, hend⟩ : 0 < s ∧ r.base + c * s ≤ b := by simpa using h
    have hfar : c ≤ (po - r.base) / s := (Nat.le_div_iff_mul_le hs).mpr (by omega)
    rw [hdims, rowIndex, if_neg (Nat.not_lt.mpr hfar)]

theorem seq_P_page (n : Stn) (i : Fin 256) : (Reg.seq_P 0 n i).off / 0x1_0000 = 0xC + 0 := by
  have := n.isLt
  have := i.isLt
  simp only [Reg.seq_P]
  omega

theorem seq_P_offset (n : Stn) (i : Fin 256) : (Reg.seq_P 0 n i).off % 0x1_0000 = 0x1000 + 0x800 * n + 8 * i := by
  have := n.isLt
  have := i.isLt
  simp only [Reg.seq_P]
  omega

/-- Every other register of SEQ lies below the parameters. -/
theorem rowsAt_param (n : Stn) (i : Fin 256) : rowsAt (Reg.seq_P 0 n i).off = [paramRow n i] := by
  have hn := n.isLt
  have hi := i.isLt
  have hrows : seqRows = seqRows.take 22 ++ [(paramRow n i).1] := rfl
  have hbelow : ∀ r ∈ seqRows.take 22, endsBelow 0x1000 r = true := by decide
  have hindex : rowIndex [(2048, 8), (8, 256)] (0x1000 + 0x800 * n.val + 8 * i.val - 0x1000) = some [n.val, i.val] := by
    have hstn : (0x1000 + 0x800 * n.val + 8 * i.val - 0x1000) / 2048 = n.val := by omega
    have hreg : (0x1000 + 0x800 * n.val + 8 * i.val - 0x1000 - n.val * 2048) / 8 = i.val := by omega
    have hend : 0x1000 + 0x800 * n.val + 8 * i.val - 0x1000 - n.val * 2048 - i.val * 8 = 0 := by omega
    simp only [rowIndex, hstn, hreg, hend, if_pos hn, if_pos hi, if_true, Option.map_some]
  rw [rowsAt, seq_P_page, seq_P_offset, blkOf_seq (by decide)]
  simp only [blkRows, if_neg (show ¬ 0x1000 + 0x800 * n.val + 8 * i.val < 0x100 by omega)]
  rw [hrows, List.filterMap_append, List.filterMap_eq_nil_iff.mpr fun r hr => by
    rw [rowIndex_of_endsBelow (hbelow r hr) (by omega), Option.map_none, ite_self], List.nil_append]
  refine List.filterMap_cons_some ?_
  simp only [paramRow, hindex, Option.map_some]
  exact if_neg (by omega)

theorem insertBits_word {old v : Nat} (ho : old < 2 ^ 64) (hv : v < 2 ^ 64) : insertBits old 63 0 (bitsOf v 63 0) = v := by
  simp only [insertBits, bitsOf, Nat.shiftRight_zero, Nat.shiftLeft_zero]
  omega

theorem State.draft_param (hv : v < 2 ^ 64) : s.draft .host (Reg.seq_P 0 n i).off v = ⟨v, 0, false, false⟩ := by
  have hrw (d : Draft) := State.draftField_seq (m := s) (v := v) (d := d) (e := paramRow n i) (q := 0) (by decide)
    (seq_P_page n i) rfl rfl rfl (by simp [paramRow])
  have hfit (w : Nat) : fitWord (Reg.seq_P 0 n i).off w = w :=
    fitWord_seq (q := 0) (by decide) (seq_P_page n i) (.inl (by rw [seq_P_offset]; omega)) w
  rw [State.draft, rowsAt_param n i, List.foldl_cons, List.foldl_nil, hrw]
  simp only [paramRow, hfit, insertBits_word (s.reg_lt _) hv, ne_eq, not_true_eq_false, decide_false, Bool.or_false]

theorem State.busWrite_param (hup : HostUp s) (hv : v < 2 ^ 64) : s.busWrite .host (Reg.seq_P 0 n i).off v = s.stageParam n i v := by
  have hn := n.isLt
  have hi := i.isLt
  have hpo := seq_P_offset n i
  have hstn : (0x1000 + 0x800 * n.val + 8 * i.val - 0x1000) / 0x800 = n.val := by omega
  have hidx : (0x1000 + 0x800 * n.val + 8 * i.val - 0x1000) % 0x800 / 8 = i.val := by omega
  rw [State.busWrite_seq hup (q := 0) (by decide) (seq_P_page n i)
    ⟨_, by rw [rowsAt_param n i]; exact List.mem_cons_self, by simp [paramRow], rfl⟩ (by omega) (State.draft_param hv)]
  simp only [State.seqWrite, hpo, if_neg (show ¬ 0x1000 + 0x800 * n.val + 8 * i.val < 0x200 by omega),
    if_neg (show ¬ 0x1000 + 0x800 * n.val + 8 * i.val < 0x1000 by omega), hstn, hidx]

end Param

/-! ## Banks (R90) -/

section Bank

variable {s : State} {n : Stn} {q : Quad} {v : Nat}

/-- A field of a bank register, of station n. -/
def bankRow (n k : Nat) (acc : Acc) (wr : Writer) : FieldRow × List Nat := (⟨0x110, [(32, 8)], k, k, acc, 0, wr, none, false, false, .stn⟩, [n])

theorem rowsAt_bank : ∀ (n : Stn) (q : Quad), rowsAt (Reg.seq_SWAP q n).off =
    [bankRow n 0 .ro .none, bankRow n 1 .w1s .any, bankRow n 2 .ro .none, bankRow n 3 .w1c .any] := by decide +kernel

theorem seq_SWAP_page (n : Stn) (q : Quad) : (Reg.seq_SWAP q n).off / 0x1_0000 = 0xC + q := by
  have := n.isLt
  simp only [Reg.seq_SWAP]
  omega

theorem seq_SWAP_offset (n : Stn) (q : Quad) : (Reg.seq_SWAP q n).off % 0x1_0000 = 0x110 + 0x20 * n := by
  have := n.isLt
  simp only [Reg.seq_SWAP]
  omega

/-- The bank register once a write of v has cleared what it clears. -/
def bankWord (old v : Nat) : Nat := if bitsOf v 3 3 = 0 then old else insertBits old 3 3 0

theorem State.draft_bank (hswap : v.testBit 1 = true) : ∃ act,
    s.draft .host (Reg.seq_SWAP q n).off v = ⟨bankWord (s.reg (Reg.seq_SWAP q n).off) v, act, false, false⟩ ∧ act.testBit 1 = true := by
  have hro (k : Nat) (d : Draft) := State.draftField_readOnly (m := s) (who := .host) (off := (Reg.seq_SWAP q n).off) (v := v) (d := d)
    (e := bankRow n k .ro .none) rfl
  have hset (d : Draft) := State.draftField_set (m := s) (who := .host) (off := (Reg.seq_SWAP q n).off) (v := v) (d := d)
    (e := bankRow n 1 .w1s .any) rfl rfl
  have hwref (d : Draft) := State.draftField_w1c (m := s) (off := (Reg.seq_SWAP q n).off) (v := v) (d := d) (e := bankRow n 3 .w1c .any)
    rfl rfl rfl rfl
  have hbit : bitsOf v 1 1 = 1 := by rw [bitsOf_one, hswap]; rfl
  have hn := n.isLt
  have hfit (w : Nat) : fitWord (Reg.seq_SWAP q n).off w = w :=
    fitWord_seq q.isLt (seq_SWAP_page n q) (.inr (by simp only [Reg.seq_SWAP]; omega)) w
  rw [State.draft, rowsAt_bank n q]
  simp only [List.foldl_cons, List.foldl_nil, hro, hset, hwref, hfit, ne_eq, not_true_eq_false, decide_false, Bool.or_false]
  simp only [bankRow, bankWord, hbit, Nat.zero_add]
  have hclear : bitsOf v 3 3 = 0 ∨ bitsOf v 3 3 = 1 := by rw [bitsOf_one]; cases v.testBit 3 <;> decide
  rcases hclear with h | h
  · rw [h, if_pos rfl, if_pos rfl]
    exact ⟨1 <<< 1, rfl, by decide⟩
  · rw [h, if_neg one_ne_zero, if_neg one_ne_zero]
    exact ⟨1 <<< 1 + 1 <<< 3, rfl, by decide⟩

/-- The state in which a swap is asked for. -/
def State.bankWritten (s : State) (n q v : Nat) : State := s.setReg (Reg.seq_SWAP q n).off (bankWord (s.reg (Reg.seq_SWAP q n).off) v)

theorem State.busWrite_bank (hup : HostUp s) (hswap : v.testBit 1 = true) :
    s.busWrite .host (Reg.seq_SWAP q n).off v = (s.bankWritten n q v).swapAsk n q := by
  have hn := n.isLt
  obtain ⟨act, hd, hact⟩ := State.draft_bank (s := s) (n := n) (q := q) hswap
  have hpo := seq_SWAP_offset n q
  have hkind : (0x110 + 0x20 * n.val - 0x100) % 0x20 = 0x10 := by omega
  have hidx : (0x110 + 0x20 * n.val - 0x100) / 0x20 = n.val := by omega
  rw [State.busWrite_seq hup q.isLt (seq_SWAP_page n q)
    ⟨bankRow n 1 .w1s .any, by rw [rowsAt_bank n q]; simp, by simp [bankRow], rfl⟩ (by omega) hd]
  simp only [State.seqWrite, hpo, hact, if_pos (show 0x110 + 0x20 * n.val < 0x200 by omega), hkind, hidx, and_self, if_true]
  rfl

theorem testBit_bankWord (old v : Nat) {k : Nat} (h : k ≠ 3) : (bankWord old v).testBit k = old.testBit k := by
  rw [bankWord]
  split
  · rfl
  · rw [testBit_insertBits _ _ _ _ _ (by decide), if_neg (by omega)]

theorem bankWord_lt {old : Nat} (v : Nat) (h : old < 2 ^ 64) : bankWord old v < 2 ^ 64 := by
  rw [bankWord]
  split
  · exact h
  · exact insertBits_lt _ _ _ _ (by decide) (by decide) h

theorem bitsBut_bankWritten (s : State) (n q v : Nat) : BitsBut s (s.bankWritten n q v) [Reg.seq_WREF q n] := by
  intro o k hk
  rw [State.bankWritten, State.reg_setReg]
  split
  · next ho =>
    have h3 : k ≠ 3 := by
      have := hk _ List.mem_cons_self ho.symm
      simp only [Reg.seq_WREF] at this
      omega
    rw [Nat.mod_eq_of_lt (bankWord_lt v (s.reg_lt _)), testBit_bankWord _ _ h3, ho]
  · rfl

/-- Fields of the bank register but WREF are as they were. -/
theorem State.fld_bankWritten (s : State) (n q v : Nat) (f : Fld) (h : f.off = (Reg.seq_SWAP q n).off → f.hi < 3) :
    (s.bankWritten n q v).fld f = s.fld f := by
  refine Nat.eq_of_testBit_eq fun k => ?_
  rw [State.fld, State.fld, testBit_bitsOf, testBit_bitsOf]
  by_cases hk : k < f.hi + 1 - f.lo
  · rw [bitsBut_bankWritten s n q v f.off (f.lo + k) fun g hg hoff => ?_]
    rw [List.mem_singleton.mp hg] at hoff ⊢
    have := h hoff.symm
    simp only [Reg.seq_WREF]
    omega
  · rw [decide_eq_false hk, Bool.false_and, Bool.false_and]

theorem quads_single {q : Nat} (hq : q < 4) : quads (2 ^ q) = [q] := by interval_cases q <;> decide

/-- A swap that is asked for applies at once, or waits where a recipe of the station runs (R90). -/
theorem State.swapAsk_shows (m : State) (n : Nat) (hq : q.val < 4) : RegsOnly m (m.swapAsk n q) ∧
    BitsBut m (m.swapAsk n q) [Reg.seq_ACTIVE q n, Reg.seq_SWAP_PEND q n] ∧
    (if (m.launch n).any (fun l => l.has q) then
      (m.swapAsk n q).flag (Reg.seq_SWAP_PEND q n) = true ∧ (m.swapAsk n q).fld (Reg.seq_ACTIVE q n) = m.fld (Reg.seq_ACTIVE q n)
    else (m.swapAsk n q).flag (Reg.seq_SWAP_PEND q n) = false ∧ (m.swapAsk n q).fld (Reg.seq_ACTIVE q n) = 1 - m.fld (Reg.seq_ACTIVE q n)) := by
  have hpend : (m.setFlag (Reg.seq_SWAP_PEND q n) true).flag (Reg.seq_SWAP_PEND q n) = true := m.flag_setFlag (Reg.seq_SWAP_PEND q n) true
  have hact : (m.setFlag (Reg.seq_SWAP_PEND q n) true).fld (Reg.seq_ACTIVE q n) = m.fld (Reg.seq_ACTIVE q n) :=
    m.fld_setFld_beside (Reg.seq_SWAP_PEND q n) (Reg.seq_ACTIVE q n) 1
  have hbits : BitsBut m (m.setFlag (Reg.seq_SWAP_PEND q n) true) [Reg.seq_ACTIVE q n, Reg.seq_SWAP_PEND q n] :=
    bitsBut_setFld (f := Reg.seq_SWAP_PEND q n) m _ (by simp)
  rw [State.swapAsk]
  split
  · exact ⟨rfl, hbits, hpend, hact⟩
  · have hone : q.val ∈ quads (2 ^ q.val) := by rw [quads_single hq]; exact List.mem_cons_self
    obtain ⟨hdone, hswapped⟩ := (m.setFlag (Reg.seq_SWAP_PEND q n) true).applySwaps_shows n hone
    refine ⟨(State.applySwaps_frame _ n _).trans rfl, ?_, hdone, ?_⟩
    · refine bitsBut_trans hbits (bitsBut_foldl (fun m p hp => ?_) _)
      rw [quads_single hq, List.mem_singleton] at hp
      subst hp
      split
      · exact bitsBut_trans (bitsBut_setFld (f := Reg.seq_ACTIVE q n) m _ (by simp)) (bitsBut_setFld (f := Reg.seq_SWAP_PEND q n) _ _ (by simp))
      · exact bitsBut_refl m
    · rw [hswapped, hpend, if_pos rfl, hact]

end Bank

/-! ## Recipe memory (R89) -/

section RecipeMemory

variable {s : State} {addr : Nat} {v : Word} {q b : Nat}

/-- What a recipe address says of its quadrant, its bank and its word. -/
theorem recipe_bounds (h : regionOf addr = .recipe q b) : 0x830_0000_0000 ≤ addr ∧ addr < 0x830_0020_0000 ∧
    (addr - 0x830_0000_0000) / 0x8_0000 = q ∧ (addr - 0x830_0000_0000) / 0x4_0000 % 2 = b := by
  have hif (c : Prop) [Decidable c] (x y : Region) (hx : ∀ q b, x ≠ .recipe q b) : (if c then x else y) = .recipe q b ↔ ¬ c ∧ y = .recipe q b := by
    by_cases hc : c <;> simp [hc, hx]
  simp only [regionOf] at h
  rw [hif _ _ _ (by simp), hif _ _ _ (by simp), hif _ _ _ (by simp), hif _ _ _ (by simp), hif _ _ _ (by simp), hif _ _ _ (by simp),
    hif _ _ _ (by simp), hif _ _ _ (by simp), hif _ _ _ (by simp)] at h
  obtain ⟨-, -, -, -, -, -, -, -, hlo, h⟩ := h
  by_cases hhi : addr < 0x830_0020_0000
  · rw [if_pos hhi] at h
    cases h
    exact ⟨by omega, hhi, rfl, rfl⟩
  · rw [if_neg hhi, hif _ _ _ (by simp), hif _ _ _ (by simp), hif _ _ _ (by simp), hif _ _ _ (by simp), hif _ _ _ (by simp),
      hif _ _ _ (by simp)] at h
    simp at h

/-- A write of the host's eight bytes at their word. -/
theorem exec_recipeMemoryWrite (h : regionOf addr = .recipe q b) : exec (.recipeMemoryWrite .host addr v) s =
    .next (s.recipeWrite 0 none (addr / 8 * 8) (leBytes v.toNat 8) false) := by
  have hexec : exec (.recipeMemoryWrite .host addr v) s = .next (match regionOf addr with
    | .recipe _ _ => s.recipeWrite (mid .host) (s.masterStn .host) (addr / 8 * 8) (leBytes v.toNat 8) false
    | _ => s) := rfl
  rw [hexec, h]
  rfl

/-- The event of a dropped write of recipe memory. -/
def rcpDrop (q a : Nat) (n : Option Nat) : Ev :=
  { page := 0x0C + q, code := Code.rcpActiveWr, stn := n, master := 0, acc := 1, addr := a }

variable (h : regionOf addr = .recipe q b) (bs : List Byte)
include h

theorem State.recipeWrite_eq : s.recipeWrite 0 none (addr / 8 * 8) bs false =
    match s.recipeStn q ((addr - 0x830_0000_0000) % 0x4_0000 / 32) with
    | none => s.report (rcpDrop q (addr / 8 * 8) none)
    | some n =>
      if s.fld (Reg.seq_ACTIVE q n) = b then (s.setFlag (Reg.seq_WREF q n) true).report (rcpDrop q (addr / 8 * 8) (some n))
      else (s.putBytes (addr / 8 * 8) bs).putPsn (addr / 8 * 8) bs.length (fun _ _ => false) := by
  obtain ⟨hlo, hhi, hq, hb⟩ := recipe_bounds h
  obtain ⟨o, rfl⟩ := Nat.exists_eq_add_of_le hlo
  have haddr : (0x830_0000_0000 + o) / 8 * 8 = 0x830_0000_0000 + o / 8 * 8 := by omega
  rw [Nat.add_sub_cancel_left] at hq hb ⊢
  have hq' : o / 8 * 8 / 0x8_0000 = q := by omega
  have hb' : o / 8 * 8 / 0x4_0000 % 2 = b := by omega
  have hw : o / 8 * 8 % 0x4_0000 / 32 = o % 0x4_0000 / 32 := by omega
  rw [haddr]
  simp only [State.recipeWrite, Nat.add_sub_cancel_left, hq', hb', hw]
  cases s.recipeStn q (o % 0x4_0000 / 32) <;> simp [rcpDrop]

end RecipeMemory

theorem leBytes_getD (v : Word) {i : Nat} (hi : i < 8) : (leBytes v.toNat 8).getD i 0 = v.extractLsb' (8 * i) 8 := by
  have hlen : i < (leBytes v.toNat 8).length := by simpa [leBytes] using hi
  rw [List.getD_eq_getElem _ _ hlen]
  simp only [leBytes, List.getElem_map, List.getElem_range]
  rfl

theorem leBytes_length_word (v n : Nat) : (leBytes v n).length = n := by simp [leBytes]

theorem exec_paramWrite (n : Stn) (i : Fin 256) (v : Word) (s : State) :
    exec (.paramWrite .host n i v) s = .next (s.busWrite .host (Reg.seq_P 0 n i).off v.toNat) := rfl
theorem exec_bankSwap (n : Stn) (q : Quad) (v : Word) (s : State) :
    exec (.bankSwap .host n q v) s = .next (s.busWrite .host (Reg.seq_SWAP q n).off v.toNat) := rfl

/-- Settles O15: a parameter is staged, a swap applies or waits, and a word of an inactive bank alone is written. -/
theorem stagedWritesAndRecipeMemory : Obligations.StagedWritesAndRecipeMemory := by
  unfold Obligations.StagedWritesAndRecipeMemory
  refine ⟨fun s n i v hup => ?_, fun s n q v hup hswap => ?_, fun s addr v q b h => ⟨fun n hn hact => ?_, fun n hn hact => ?_, fun hn => ?_⟩⟩
  · have hn := n.isLt
    have hi := i.isLt
    rw [exec_paramWrite, State.busWrite_param hup v.isLt]
    refine ⟨_, rfl, rfl, fun k => ?_, ?_, bitsBut_setFld (f := Reg.seq_PEND 0 n (i / 64)) { s with pstage := _ } _ (by simp), fun j hj => ?_⟩
    · have hv : BitVec.ofNat 64 v.toNat = v := by simp
      refine (SMap.get_set _ _ _ _ _).trans ?_
      rw [hv]
    · refine (State.fld_setFld _ (Reg.seq_PEND 0 n (i / 64)) _).trans (Nat.mod_eq_of_lt ?_)
      exact Nat.or_lt_two_pow (s.fld_lt _) (Nat.pow_lt_pow_right (by decide) (by simp only [Reg.seq_PEND]; omega))
    · exact State.fld_eq_of_reg (State.reg_setFld_other _ _ _ (seq_P_off_ne_PEND hn (by omega)))
  · rw [exec_bankSwap, State.busWrite_bank hup hswap]
    obtain ⟨hframe, hbits, hshows⟩ := (s.bankWritten n q v.toNat).swapAsk_shows n q.isLt
    have hactive : (s.bankWritten n q v.toNat).fld (Reg.seq_ACTIVE q n) = s.fld (Reg.seq_ACTIVE q n) :=
      s.fld_bankWritten n q v.toNat (Reg.seq_ACTIVE q n) fun _ => Nat.le_of_ble_eq_true rfl
    rw [hactive] at hshows
    refine ⟨_, rfl, regsOnly_trans (t := s.bankWritten n q v.toNat) rfl hframe, ?_, hshows⟩
    exact bitsBut_trans (bitsBut_mono (bitsBut_bankWritten s n q v.toNat) (by simp)) (bitsBut_mono hbits (by simp))
  · rw [exec_recipeMemoryWrite h, State.recipeWrite_eq h, hn]
    dsimp only
    rw [if_neg hact]
    have hbyte (x : Nat) : ((s.putBytes (addr / 8 * 8) (leBytes v.toNat 8)).putPsn (addr / 8 * 8) (leBytes v.toNat 8).length
        (fun _ _ => false)).byte x = if addr / 8 * 8 ≤ x ∧ x < addr / 8 * 8 + 8 then (leBytes v.toNat 8).getD (x - addr / 8 * 8) 0 else s.byte x := by
      rw [State.byte, State.putPsn_mem, ← State.byte, State.byte_putBytes, SMap.get_ofList, leBytes_length_word]
    refine ⟨_, rfl, by rw [State.putPsn_frame]; rfl, fun i hi => ?_, fun x hx => ?_⟩
    · rw [hbyte, if_pos (by omega), Nat.add_sub_cancel_left, leBytes_getD v hi]
    · rw [hbyte, if_neg (by omega)]
  · rw [exec_recipeMemoryWrite h, State.recipeWrite_eq h, hn]
    dsimp only
    rw [if_pos hact]
    have hq : q < 4 := by
      obtain ⟨hlo, hhi, hq, -⟩ := recipe_bounds h
      omega
    have hn8 : n < 8 := List.mem_range.mp (List.mem_of_find?_eq_some hn)
    refine ⟨_, rfl, (accessed_report (s.setFlag (Reg.seq_WREF q n) true) (rcpDrop q (addr / 8 * 8) (some n))).sameMemory, ?_,
      State.reported_report (s.setFlag (Reg.seq_WREF q n) true) (rcpDrop q (addr / 8 * 8) (some n)) rfl⟩
    rw [State.flag_eq_of_reg ((accessed_report _ _).reg (o := (Reg.seq_WREF q n).off)
      (by constructor <;> simp only [Reg.seq_WREF] <;> omega))]
    exact State.flag_setFlag _ (Reg.seq_WREF q n) true
  · rw [exec_recipeMemoryWrite h, State.recipeWrite_eq h, hn]
    exact ⟨_, rfl, (accessed_report s _).sameMemory, State.reported_report s (rcpDrop q (addr / 8 * 8) none) rfl⟩

end Sys2Proof.Machine

/-! Tumbler counters, watches and barriers as a recipe's commands drive them (R105, R278, R280, R284). -/

namespace Sys2Proof.Machine

open Sys2Proof.Spec

-- One proof at a time: side by side, their threads take more memory than the check has.
set_option Elab.async false

/-! ## Watches that are evaluated (R280) -/

section Watches

variable (m : State)

/-- t differs from s in watches and notifications, their count, and what a counter's operation touches. -/
def CounterOnly (s t : State) : Prop :=
  t = { s with regs := t.regs, events := t.events, lossPages := t.lossPages, watches := t.watches, notes := t.notes }

theorem counterOnly_refl (s : State) : CounterOnly s s := rfl

theorem counterOnly_trans {s t u : State} (h : CounterOnly s t) (k : CounterOnly t u) : CounterOnly s u := by
  rw [CounterOnly] at h k ⊢
  rw [k, h]

theorem CounterOnly.pcOver {s t : State} (h : CounterOnly s t) : t.pcOver = s.pcOver := by
  rw [CounterOnly] at h
  rw [h]

theorem counterOnly_setFld (f : Fld) (v : Nat) : CounterOnly m (m.setFld f v) := rfl

theorem counterOnly_report (e : Ev) : CounterOnly m (m.report e) := by
  have h := m.report_frame e
  rw [CounterOnly]
  generalize m.report e = t at h ⊢
  rw [h]

theorem State.reg_notify_other (t : Target) (k : Nat) {o : Nat} (h : o ≠ Reg.tmb_NOTIFY.off) : (m.notify t k).reg o = m.reg o :=
  m.reg_bump_other Reg.tmb_NOTIFY 1 h

theorem counterOnly_evalWatch (w : Nat) : CounterOnly m (m.evalWatch w) := by
  unfold State.evalWatch
  split
  · rfl
  · split <;> rfl

theorem State.reg_evalWatch_other (w : Nat) {o : Nat} (h : o ≠ Reg.tmb_NOTIFY.off) : (m.evalWatch w).reg o = m.reg o := by
  unfold State.evalWatch
  split
  · rfl
  · split
    · exact State.reg_notify_other _ _ _ h
    · rfl

theorem counterOnly_evalWatches (i : Nat) : CounterOnly m (m.evalWatches i) :=
  foldl_rel (r := CounterOnly) counterOnly_refl counterOnly_trans (fun m w _ => counterOnly_evalWatch m w) m

theorem State.reg_evalWatches_other (i : Nat) {o : Nat} (h : o ≠ Reg.tmb_NOTIFY.off) : (m.evalWatches i).reg o = m.reg o :=
  foldl_keeps (v := fun m : State => m.reg o) (fun m w _ => m.reg_evalWatch_other w h) m

end Watches

/-! ## One operation on a counter (R278) -/

section CtrOp

variable (m : State) (i : Nat) (r : Int) (master : Nat)

/-- The event of a counter that saturates. -/
def State.ctrEv (m : State) (i master : Nat) : Ev := { page := 3, code := Code.tmbOverflow, stn := m.ctrStn i, master := master, acc := 2 }

/-- An armed parity injection is detected, and the operation is counted. -/
def State.ctrCounted (m : State) (i master : Nat) : State :=
  (if m.injFires 3 0 then (m.disarm 3).report { m.ctrEv i master with detail := 1, inj := true } else m).bump Reg.tmb_OPS 1

/-- The counter takes its result, or its bound with the flag that says so. -/
def State.ctrTake (m : State) (i lim : Nat) (r : Int) (e : Ev) : State :=
  if (lim : Int) < r then
    ((m.setFld (Reg.tmb_VALUE i) lim).setFld (Reg.tmb_OVF (i / 64)) (m.fld (Reg.tmb_OVF (i / 64)) ||| 2 ^ (i % 64))).report e
  else if r < 0 then
    ((m.setFld (Reg.tmb_VALUE i) 0).setFld (Reg.tmb_UNF (i / 64)) (m.fld (Reg.tmb_UNF (i / 64)) ||| 2 ^ (i % 64))).report
      { e with code := Code.tmbUnderflow }
  else m.setFld (Reg.tmb_VALUE i) r.toNat

theorem State.ctrOp_eq : m.ctrOp i r master = ((m.ctrCounted i master).ctrTake i (m.ctrLimit i) r (m.ctrEv i master)).evalWatches i := rfl

theorem counterOnly_ctrCounted : CounterOnly m (m.ctrCounted i master) := by
  unfold State.ctrCounted
  split
  · exact counterOnly_trans (counterOnly_trans (t := m.disarm 3) rfl (counterOnly_report _ _)) rfl
  · rfl

theorem counterOnly_ctrTake (lim : Nat) (e : Ev) : CounterOnly m (m.ctrTake i lim r e) := by
  unfold State.ctrTake
  split
  · exact counterOnly_trans (counterOnly_trans (counterOnly_setFld m _ _) (counterOnly_setFld _ _ _)) (counterOnly_report _ _)
  · split
    · exact counterOnly_trans (counterOnly_trans (counterOnly_setFld m _ _) (counterOnly_setFld _ _ _)) (counterOnly_report _ _)
    · rfl

theorem counterOnly_ctrOp : CounterOnly m (m.ctrOp i r master) := by
  rw [State.ctrOp_eq]
  exact counterOnly_trans (counterOnly_trans (counterOnly_ctrCounted m i master) (counterOnly_ctrTake _ _ _ _ _)) (counterOnly_evalWatches _ _)

theorem State.reg_ctrCounted_other {o : Nat} (ho : LowReg o) (hops : o ≠ Reg.tmb_OPS.off) : (m.ctrCounted i master).reg o = m.reg o := by
  rw [State.ctrCounted, State.reg_bump_other _ _ _ hops]
  split
  · exact (accessed_trans (accessed_disarm m 3) (accessed_report _ _)).reg ho
  · rfl

theorem State.reg_ctrTake_other (lim : Nat) (e : Ev) {o : Nat} (ho : LowReg o) (hv : o ≠ (Reg.tmb_VALUE i).off)
    (hovf : o ≠ (Reg.tmb_OVF (i / 64)).off) (hunf : o ≠ (Reg.tmb_UNF (i / 64)).off) : (m.ctrTake i lim r e).reg o = m.reg o := by
  unfold State.ctrTake
  split
  · rw [(accessed_report _ e).reg ho, State.reg_setFld_other _ _ _ hovf, State.reg_setFld_other _ _ _ hv]
  · split
    · rw [(accessed_report _ _).reg ho, State.reg_setFld_other _ _ _ hunf, State.reg_setFld_other _ _ _ hv]
    · exact m.reg_setFld_other _ _ hv

/-- Registers that no operation on counter i touches. -/
theorem State.reg_ctrOp_other {o : Nat} (ho : LowReg o) (hcount : o ≠ Reg.tmb_OPS.off ∧ o ≠ Reg.tmb_NOTIFY.off) (hv : o ≠ (Reg.tmb_VALUE i).off)
    (hovf : o ≠ (Reg.tmb_OVF (i / 64)).off) (hunf : o ≠ (Reg.tmb_UNF (i / 64)).off) : (m.ctrOp i r master).reg o = m.reg o := by
  rw [State.ctrOp_eq, State.reg_evalWatches_other _ _ hcount.2, State.reg_ctrTake_other _ _ _ _ _ ho hv hovf hunf,
    State.reg_ctrCounted_other _ _ _ ho hcount.1]

/-- What counter i holds after its operation, and the flag of a bound that it has met. -/
theorem State.ctrTake_shows (lim : Nat) (e : Ev) (hi : i < 4096) (hlim : lim < 2 ^ 32) :
    ((m.ctrTake i lim r e).fld (Reg.tmb_VALUE i) : Int) = max 0 (min (lim : Int) r) ∧
      (m.ctrTake i lim r e).fld (Reg.tmb_LIMIT i) = m.fld (Reg.tmb_LIMIT i) ∧
      ((lim : Int) < r → ((m.ctrTake i lim r e).fld (Reg.tmb_OVF (i / 64))).testBit (i % 64) = true) ∧
      (r < 0 → ((m.ctrTake i lim r e).fld (Reg.tmb_UNF (i / 64))).testBit (i % 64) = true) := by
  have hlow : LowReg (Reg.tmb_VALUE i).off ∧ LowReg (Reg.tmb_OVF (i / 64)).off ∧ LowReg (Reg.tmb_UNF (i / 64)).off := by
    refine ⟨⟨?_, ?_⟩, ⟨?_, ?_⟩, ⟨?_, ?_⟩⟩ <;> simp only [Reg.tmb_VALUE, Reg.tmb_OVF, Reg.tmb_UNF] <;> omega
  obtain ⟨hvalue, hovf, hunf⟩ := hlow
  have hapart : (Reg.tmb_VALUE i).off ≠ (Reg.tmb_OVF (i / 64)).off ∧ (Reg.tmb_VALUE i).off ≠ (Reg.tmb_UNF (i / 64)).off := by
    constructor <;> simp only [Reg.tmb_VALUE, Reg.tmb_OVF, Reg.tmb_UNF] <;> omega
  have hset (m : State) (v : Nat) : (m.setFld (Reg.tmb_VALUE i) v).fld (Reg.tmb_VALUE i) = v % 2 ^ 32 := m.fld_setFld (Reg.tmb_VALUE i) v
  have hkeep (m : State) (v : Nat) : (m.setFld (Reg.tmb_VALUE i) v).fld (Reg.tmb_LIMIT i) = m.fld (Reg.tmb_LIMIT i) :=
    m.fld_setFld_beside (Reg.tmb_VALUE i) (Reg.tmb_LIMIT i) v
  have hflag (m : State) (j w : Nat) : ((m.setFld (⟨j, 63, 0⟩ : Fld) (w ||| 2 ^ (i % 64))).fld ⟨j, 63, 0⟩).testBit (i % 64) = true := by
    rw [m.fld_setFld (⟨j, 63, 0⟩ : Fld) (w ||| 2 ^ (i % 64)), Nat.testBit_mod_two_pow, Nat.testBit_or, Nat.testBit_two_pow_self, Bool.or_true,
      Bool.and_true, decide_eq_true_eq]
    exact Nat.mod_lt i (by decide)
  unfold State.ctrTake
  split
  · next hover =>
    have hreg : (((m.setFld (Reg.tmb_VALUE i) lim).setFld (Reg.tmb_OVF (i / 64)) (m.fld (Reg.tmb_OVF (i / 64)) ||| 2 ^ (i % 64))).report
        e).reg (Reg.tmb_VALUE i).off = (m.setFld (Reg.tmb_VALUE i) lim).reg (Reg.tmb_VALUE i).off :=
      ((accessed_report _ e).reg hvalue).trans (State.reg_setFld_other _ _ _ hapart.1)
    refine ⟨?_, (State.fld_eq_of_reg (f := Reg.tmb_LIMIT i) hreg).trans (hkeep m lim), fun _ => ?_, fun hneg => absurd hneg (by omega)⟩
    · rw [State.fld_eq_of_reg (f := Reg.tmb_VALUE i) hreg, hset]
      omega
    · rw [State.fld_eq_of_reg ((accessed_report _ e).reg hovf)]
      exact hflag _ _ _
  · next hover =>
    split
    · next hneg =>
      have hreg : (((m.setFld (Reg.tmb_VALUE i) 0).setFld (Reg.tmb_UNF (i / 64)) (m.fld (Reg.tmb_UNF (i / 64)) ||| 2 ^ (i % 64))).report
          { e with code := Code.tmbUnderflow }).reg (Reg.tmb_VALUE i).off = (m.setFld (Reg.tmb_VALUE i) 0).reg (Reg.tmb_VALUE i).off :=
        ((accessed_report _ _).reg hvalue).trans (State.reg_setFld_other _ _ _ hapart.2)
      refine ⟨?_, (State.fld_eq_of_reg (f := Reg.tmb_LIMIT i) hreg).trans (hkeep m 0), fun h => absurd h hover, fun _ => ?_⟩
      · rw [State.fld_eq_of_reg (f := Reg.tmb_VALUE i) hreg, hset]
        omega
      · rw [State.fld_eq_of_reg ((accessed_report _ _).reg hunf)]
        exact hflag _ _ _
    · next hneg =>
      refine ⟨?_, hkeep m _, fun h => absurd h hover, fun h => absurd h hneg⟩
      rw [hset]
      omega

/-- An operation on a counter takes its exact result (R278). -/
theorem counterTakes_ctrOp (hi : i < 4096) : CounterTakes m (m.ctrOp i r master) i r := by
  have hlim : m.ctrLimit i < 2 ^ 32 := m.fld_lt (Reg.tmb_LIMIT i)
  obtain ⟨hvalue, hlimit, hovf, hunf⟩ := (m.ctrCounted i master).ctrTake_shows i r (m.ctrLimit i) (m.ctrEv i master) hi hlim
  have hend (f : Fld) (h : f.off ≠ Reg.tmb_NOTIFY.off) : (m.ctrOp i r master).fld f =
      ((m.ctrCounted i master).ctrTake i (m.ctrLimit i) r (m.ctrEv i master)).fld f := by
    rw [State.ctrOp_eq]
    exact State.fld_eq_of_reg (State.reg_evalWatches_other _ i h)
  have hother (j : Nat) (hj : j < 4096) (hne : j ≠ i) : (m.ctrOp i r master).reg (Reg.tmb_VALUE j).off = m.reg (Reg.tmb_VALUE j).off := by
    refine m.reg_ctrOp_other i r master ⟨?_, ?_⟩ ⟨?_, ?_⟩ ?_ ?_ ?_ <;>
      simp only [Reg.tmb_VALUE, Reg.tmb_OPS, Reg.tmb_NOTIFY, Reg.tmb_OVF, Reg.tmb_UNF] <;> omega
  have hcounted : (m.ctrCounted i master).fld (Reg.tmb_LIMIT i) = m.fld (Reg.tmb_LIMIT i) := by
    refine State.fld_eq_of_reg (m.reg_ctrCounted_other i master ⟨?_, ?_⟩ ?_) <;> simp only [Reg.tmb_LIMIT, Reg.tmb_OPS] <;> omega
  refine ⟨?_, fun j hj hne => State.fld_eq_of_reg (f := Reg.tmb_VALUE j) (hother j hj hne), fun j hj => ?_, fun h => ?_, fun h => ?_⟩
  · rw [State.ctrValue, hend _ (by simp only [Reg.tmb_VALUE, Reg.tmb_NOTIFY]; omega)]
    exact hvalue
  · by_cases hne : j = i
    · rw [hne, State.ctrLimit, hend _ (by simp only [Reg.tmb_LIMIT, Reg.tmb_NOTIFY]; omega), hlimit, hcounted, State.ctrLimit]
    · exact State.fld_eq_of_reg (f := Reg.tmb_LIMIT j) (hother j hj hne)
  · rw [hend _ (by simp only [Reg.tmb_OVF, Reg.tmb_NOTIFY]; omega)]
    exact hovf h
  · rw [hend _ (by simp only [Reg.tmb_UNF, Reg.tmb_NOTIFY]; omega)]
    exact hunf h

/-- Where counters are as they were, an operation's effect is one on the earlier state. -/
theorem counterTakes_of_regs {s m t : State} {i : Nat} {r : Int} (hi : i < 4096)
    (hreg : ∀ j, j < 4096 → m.reg (Reg.tmb_VALUE j).off = s.reg (Reg.tmb_VALUE j).off) (h : CounterTakes m t i r) : CounterTakes s t i r := by
  have hval (j : Nat) (hj : j < 4096) : m.ctrValue j = s.ctrValue j := State.fld_eq_of_reg (f := Reg.tmb_VALUE j) (hreg j hj)
  have hlim (j : Nat) (hj : j < 4096) : m.ctrLimit j = s.ctrLimit j := State.fld_eq_of_reg (f := Reg.tmb_LIMIT j) (hreg j hj)
  obtain ⟨hvalue, hvals, hlims, hovf, hunf⟩ := h
  rw [hlim i hi] at hvalue hovf
  exact ⟨hvalue, fun j hj hne => (hvals j hj hne).trans (hval j hj), fun j hj => (hlims j hj).trans (hlim j hj), hovf, hunf⟩

theorem sameMemory_ctrOp : SameMemory m (m.ctrOp i r master) := by
  have h := counterOnly_ctrOp m i r master
  exact memory_of_eq (by rw [h]) (by rw [h])

end CtrOp

/-! ## TSG (R105, R278) -/

section Tsg

variable {s : State} {n : Stn} {q : Quad} {w : Nat}

theorem exec_tsg (n : Stn) (q : Quad) (s : State) : exec (.tsg n q) s = .next (s.issueLocal n q 0x30 false (fun m w => m.issueTsg n q w)) := rfl

theorem State.issueTsg_local (hop : bitsOf w 45 44 < 2) (hctr : bitsOf w 43 32 < s.ctrNum n) (hrmt : bitOf w 100 = false)
    (hrel : bitOf w 101 = true → s.allDone n q = true) : s.issueTsg n q w =
      .go ((s.advance n q true).ctrOp (s.ctrBase n + bitsOf w 43 32) (if bitsOf w 45 44 = 0
        then (s.ctrValue (s.ctrBase n + bitsOf w 43 32) : Int) + signedOf (bitsOf w 79 48) 32 else (bitsOf w 79 48 : Nat)) (0x10 + q)) := by
  have hwait : ¬ (bitOf w 101 = true ∧ (!s.allDone n q) = true) := fun ⟨h, h'⟩ => by simp [hrel h] at h'
  rw [State.issueTsg]
  simp only [hrmt, Bool.false_eq_true, false_and, false_or, Bool.not_false, true_and, if_neg (show ¬ (2 ≤ bitsOf w 45 44 ∨ s.ctrNum n ≤ bitsOf w 43 32) by omega),
    if_neg hwait, if_false]

/-- The CNT_ADD that a TSG sends (R243). -/
def State.tsgFlit (s : State) (n w : Nat) : Flit := s.cntAddFlit n (bitsOf w 99 80) (bitsOf w 43 32) (bitsOf w 79 48)

/-- A sequencer that moves on leaves the Keyring's registers. -/
theorem netSame_advance (s : State) (n : Stn) (q : Quad) (d : Bool) : NetSame s (s.advance n q d) := by
  have hn := n.isLt
  have hq := q.isLt
  have h := s.advance_frame n q d
  refine netSame_of_reg (by rw [h]) (by rw [h]) fun o ho _ => s.reg_advance_other n q d ?_
  simp only [Reg.seq_PC]
  omega

theorem State.issueTsg_remote {p : Nat} (hop : bitsOf w 45 44 = 0) (hrmt : bitOf w 100 = true)
    (hrel : bitOf w 101 = true → s.allDone n q = true) (hvalid : s.flag Reg.krt_VALID = true) (hnode : bitsOf w 99 80 ≠ s.nodeId)
    (hroute : s.routeOf s.nodeId (bitsOf w 99 80) 0 = .port p) :
    s.issueTsg n q w = .go ((s.advance n q true).txq p (s.tsgFlit n w)) := by
  have hnet := netSame_advance s n q true
  have hsrc : s.srcId = s.nodeId := by rw [State.srcId, hvalid, if_pos rfl]
  have hflit : (s.advance n q true).cntAddFlit n (bitsOf w 99 80) (bitsOf w 43 32) (bitsOf w 79 48) = s.tsgFlit n w := by
    simp only [State.tsgFlit, State.cntAddFlit, State.mkFlit, hnet.srcId]
  have hport : (s.advance n q true).routeOf (s.tsgFlit n w).src (s.tsgFlit n w).dst (s.tsgFlit n w).flow = .port p := by
    rw [hnet.routeOf]
    refine Eq.trans ?_ hroute
    rw [← hsrc]
    rfl
  have hsent : (s.advance n q true).sendFlit (s.tsgFlit n w) = ((s.advance n q true).txq p (s.tsgFlit n w), .port p) := by
    rw [State.sendFlit, hnet.valid, hvalid, hport]
    rfl
  have hwait : ¬ (bitOf w 101 = true ∧ (!s.allDone n q) = true) := fun ⟨h, h'⟩ => by simp [hrel h] at h'
  rw [State.issueTsg]
  simp only [hop, hrmt, if_neg hwait, if_neg hnode, hflit, hsent]
  simp

end Tsg

/-! ## TWT (R105, R280) -/

section Twt

variable {s : State} {n : Stn} {q : Quad} {w : Nat}

theorem exec_twt (n : Stn) (q : Quad) (s : State) : exec (.twt n q) s = .next (s.retryTwt n q) := rfl

/-- The watch that a TWT registers. -/
def State.twtWatch (s : State) (n q w k : Nat) : Watch :=
  ⟨n, s.ctrBase n + bitsOf w 43 32, bitsOf w 46 44, bitsOf w 79 48, .seq n q k, bitsOf w 95 80⟩

/-- A TWT that issues takes the first free watch, or waits for one. -/
theorem State.retryTwt_eq (h : Issuable s n q 0x31 w) (hctr : bitsOf w 43 32 < s.ctrNum n) (hcmp : bitsOf w 46 44 < 3) :
    s.retryTwt n q = match s.freeWatch n with
      | none => s.setHold n q (some (.noWatch (BitVec.ofNat 256 w)))
      | some k => (s.setHold n q (some (.watch k))).addWatch k (s.twtWatch n q w k) := by
  obtain ⟨l, -, -, -, hhold⟩ := State.launch_of_canIssue h.1
  have hretry : s.retryTwt n q = s.issueLocal n q 0x31 false (fun m w => m.issueTwt n q w) := by rw [State.retryTwt, hhold]
  rw [hretry, State.issueLocal_eq h, State.issueTwt]
  simp only [if_neg (show ¬ (s.ctrNum n ≤ bitsOf w 43 32 ∨ 3 ≤ bitsOf w 46 44) by omega)]
  cases s.freeWatch n <;> rfl

/-- A watch that does not hold yet stays. -/
theorem State.addWatch_waits (m : State) {k : Nat} {x : Watch} (h : holdsCmp x.cmp (m.ctrValue x.ctr) x.val = false) :
    m.addWatch k x = m.setWatch k (some x) := by
  have hval : (m.setWatch k (some x)).ctrValue x.ctr = m.ctrValue x.ctr := rfl
  have hget : (m.setWatch k (some x)).watch k = some x := SMap.get_set_same _ _ _ _
  simp only [State.addWatch, State.evalWatch, hget, hval, h, Bool.false_eq_true, if_false]

/-- A watch that holds is told of at once, and is free again. -/
theorem State.addWatch_fires (m : State) {k : Nat} {x : Watch} (h : holdsCmp x.cmp (m.ctrValue x.ctr) x.val = true) :
    m.addWatch k x = ((m.setWatch k (some x)).setWatch k none).notify x.target 1 := by
  have hval : (m.setWatch k (some x)).ctrValue x.ctr = m.ctrValue x.ctr := rfl
  have hget : (m.setWatch k (some x)).watch k = some x := SMap.get_set_same _ _ _ _
  simp only [State.addWatch, State.evalWatch, hget, hval, h, if_true]

end Twt

/-! ## TBA (R105, R284) -/

section Tba

variable {s : State} {n : Stn} {l : Launch} {w b : Nat}

theorem exec_tba (n : Stn) (s : State) : exec (.tba n) s = .next (s.issueTba n) := rfl

/-- Every sequencer of the launch holds at barrier b. -/
def State.holdAll (m : State) (n b : Nat) (l : Launch) (next nowait : Bool) : State :=
  (quads l.qmask).foldl (fun m q => m.setHold n q (some (.barrier b next nowait))) (m.setLaunch n (some { l with gang := none }))

theorem State.holdAll_frame (m : State) (n b : Nat) (l : Launch) (next nowait : Bool) : m.holdAll n b l next nowait =
    { m with holds := (m.holdAll n b l next nowait).holds, launches := (m.holdAll n b l next nowait).launches } :=
  foldl_rel (f := fun m q => State.setHold m n q (some (.barrier b next nowait))) (l := quads l.qmask)
    (r := fun s t : State => t = { s with holds := t.holds, launches := t.launches }) (fun _ => rfl) (fun h k => by rw [k, h])
    (fun _ _ _ => rfl) (m.setLaunch n (some { l with gang := none })) |>.trans rfl

theorem State.hold_holdAll (m : State) (n b : Nat) (l : Launch) (next nowait : Bool) {q : Nat} (hq : q ∈ quads l.qmask) :
    (m.holdAll n b l next nowait).hold n q = some (.barrier b next nowait) :=
  foldl_once (f := fun (m : State) q => m.setHold n q (some (.barrier b next nowait))) (v := fun m : State => m.hold n q)
    (g := fun _ => some (.barrier b next nowait)) (quads_nodup l.qmask) hq
    (fun m => (m.hold_setHold n q _ n q).trans (if_pos rfl)) (fun m p _ hp => (m.hold_setHold n p _ n q).trans (if_neg (by omega))) _

theorem State.issueTba_disabled (h : s.gangWord n 0x32 = some (l, w)) (hb : bitsOf w 39 32 < s.barNum n)
    (he : s.flag (Reg.tmb_EN (s.barBase n + bitsOf w 39 32)) = false) : s.issueTba n = s.stopRecipe n 1 ((quads l.qmask).headD 0) := by
  have hentry : s.entryAt (s.barBase n + bitsOf w 39 32) = .disabled := by simp only [State.entryAt, he, Bool.not_false, if_true]
  simp only [State.issueTba, h, if_neg (Nat.not_le.mpr hb), hentry]

theorem State.issueTba_current (h : s.gangWord n 0x32 = some (l, w)) (hb : bitsOf w 39 32 < s.barNum n)
    (he : s.entryAt (s.barBase n + bitsOf w 39 32) = .current) : s.issueTba n =
      State.barStep 64 (s.barBase n + bitsOf w 39 32)
        (if bitOf w 40 then (s.countEntry (s.barBase n + bitsOf w 39 32) .current).gangDone n l true
          else (s.countEntry (s.barBase n + bitsOf w 39 32) .current).holdAll n (s.barBase n + bitsOf w 39 32) l false (bitOf w 40)) := by
  simp only [State.issueTba, h, if_neg (Nat.not_le.mpr hb), he]
  rfl

theorem State.issueTba_next (h : s.gangWord n 0x32 = some (l, w)) (hb : bitsOf w 39 32 < s.barNum n)
    (he : s.entryAt (s.barBase n + bitsOf w 39 32) = .next) : s.issueTba n =
      State.barStep 64 (s.barBase n + bitsOf w 39 32)
        ((s.countEntry (s.barBase n + bitsOf w 39 32) .next).holdAll n (s.barBase n + bitsOf w 39 32) l true (bitOf w 40)) := by
  simp only [State.issueTba, h, if_neg (Nat.not_le.mpr hb), he]
  rfl

/-- A phase that is not complete waits. -/
theorem State.barStep_waits (m : State) (k : Nat) (h : ¬ (m.fld (Reg.tmb_ARR b) = m.fld (Reg.tmb_NLOCAL b) ∧
    m.fld (Reg.tmb_KIDS b) = (kids (m.group (m.barGroup b)).p (m.group (m.barGroup b)).rank).length ∧ m.fld (Reg.tmb_UP b) = 0)) :
    State.barStep k b m = m := by
  cases k with
  | zero => rfl
  | succ k => rw [State.barStep, if_neg h]

/-- Which group a barrier has depends on no barrier's own counts. -/
theorem State.barGroup_congr {m t : State} (hreg : ∀ o, o ≠ (Reg.tmb_ARR b).off → t.reg o = m.reg o) (hb : b < 256) :
    t.barGroup b = m.barGroup b := by
  have hoff : (Reg.tmb_ARR b).off = 0x33008 + 0x10 * b := rfl
  have hstn : t.barStn b = m.barStn b := by
    refine findRange_congr fun n hn => ?_
    have hon : t.stnOn n = m.stnOn n := State.flag_eq_of_reg (hreg _ (by rw [hoff]; simp only [Reg.sys_EN]; omega))
    have hbase : t.barBase n = m.barBase n := by
      rw [State.barBase, State.fld_eq_of_reg (hreg _ (by rw [hoff]; simp only [Reg.sys_BAR_BASE]; omega)), State.barBase]
    have hnum : t.barNum n = m.barNum n := by
      rw [State.barNum, State.fld_eq_of_reg (hreg _ (by rw [hoff]; simp only [Reg.sys_BAR_NUM]; omega)), State.barNum]
    rw [hon, hbase, hnum]
  rw [State.barGroup, State.barGroup, hstn, State.fld_eq_of_reg (f := Reg.krt_GBASE _) (hreg _ (by rw [hoff]; simp only [Reg.krt_GBASE]; omega)),
    State.fld_eq_of_reg (f := Reg.tmb_GROUP b) (hreg _ (by rw [hoff]; simp only [Reg.tmb_GROUP]; omega))]

theorem State.group_congr {m t : State} (h : t.groups = m.groups) (e : Nat) : t.group e = m.group e := by
  simp only [State.group, State.groupWord, h]

/-- An entry that leaves the open phase incomplete, with every sequencer moved on or held. -/
theorem tba_current (h : s.gangWord n 0x32 = some (l, w)) (hb : bitsOf w 39 32 < s.barNum n)
    (hin : ∀ q ∈ quads l.qmask, s.inBounds n q = true) (hlt : s.barBase n + bitsOf w 39 32 < 256) :
    let b := s.barBase n + bitsOf w 39 32
    s.flag (Reg.tmb_EN b) = true → s.fld (Reg.tmb_ARR b) + 1 < s.fld (Reg.tmb_NLOCAL b) → ∃ t, exec (.tba n) s = .next t ∧
      t.fld (Reg.tmb_ARR b) = s.fld (Reg.tmb_ARR b) + 1 ∧ t.fld (Reg.tmb_ADV b) = s.fld (Reg.tmb_ADV b) ∧ SameMemory s t ∧
      ∀ q ∈ quads l.qmask, if bitOf w 40 then Advanced s t n q else t.hold n q = some (.barrier b false false) ∧ t.pc n q = s.pc n q := by
  intro b hen harr
  have hn := n.isLt
  have hnl : s.fld (Reg.tmb_NLOCAL b) < 64 := s.fld_lt (Reg.tmb_NLOCAL b)
  have hentry : s.entryAt b = .current := by
    simp only [State.entryAt, hen, Bool.not_true, Bool.false_eq_true, if_false, if_pos (show s.fld (Reg.tmb_ARR b) < s.fld (Reg.tmb_NLOCAL b) by omega)]
  rw [exec_tba, State.issueTba_current h hb hentry]
  generalize hu : s.countEntry b .current = u
  have hcount : u = s.setFld (Reg.tmb_ARR b) (s.fld (Reg.tmb_ARR b) + 1) := hu.symm
  have hreg {o : Nat} (ho : o ≠ (Reg.tmb_ARR b).off) : u.reg o = s.reg o := hcount ▸ s.reg_setFld_other _ _ ho
  have hnew : u.fld (Reg.tmb_ARR b) = s.fld (Reg.tmb_ARR b) + 1 := by
    rw [hcount, s.fld_setFld (Reg.tmb_ARR b)]
    exact Nat.mod_eq_of_lt (show _ < 2 ^ 6 by omega)
  have hadv : u.fld (Reg.tmb_ADV b) = s.fld (Reg.tmb_ADV b) := hcount ▸ s.fld_setFld_beside (Reg.tmb_ARR b) (Reg.tmb_ADV b) _
  have hlocal : u.fld (Reg.tmb_NLOCAL b) = s.fld (Reg.tmb_NLOCAL b) :=
    State.fld_eq_of_reg (hreg (by simp only [Reg.tmb_NLOCAL, Reg.tmb_ARR]; omega))
  have hmem : SameMemory s u := hcount ▸ memory_of_eq rfl rfl
  have hseq (q : Nat) : u.reg (Reg.seq_PC q n).off = s.reg (Reg.seq_PC q n).off :=
    hreg (by simp only [Reg.seq_PC, Reg.tmb_ARR]; omega)
  have hpc (q : Nat) : u.pc n q = s.pc n q := State.pc_congr (State.fld_eq_of_reg (f := Reg.seq_PC q n) (hseq q)) (hcount ▸ rfl)
  have hwaits (t : State) (ht : ∀ f : Fld, 0x33000 ≤ f.off → f.off < 0x35000 → t.fld f = u.fld f) : State.barStep 64 b t = t := by
    refine State.barStep_waits t 64 fun hc => ?_
    rw [ht (Reg.tmb_ARR b) (by simp only [Reg.tmb_ARR]; omega) (by simp only [Reg.tmb_ARR]; omega),
      ht (Reg.tmb_NLOCAL b) (by simp only [Reg.tmb_NLOCAL]; omega) (by simp only [Reg.tmb_NLOCAL]; omega), hnew, hlocal] at hc
    omega
  cases hw : bitOf w 40 with
  | true =>
    have hbar (f : Fld) (hlo : 0x33000 ≤ f.off) (hhi : f.off < 0x35000) : (u.gangDone n l true).fld f = u.fld f :=
      State.fld_eq_of_reg (reg_of_bitsBut (u.bitsBut_gangDone n l true) fun g hg => by
        obtain ⟨q, -, hg⟩ := List.mem_flatMap.mp hg
        rcases List.mem_pair.mp hg with rfl | rfl <;> simp only [Reg.seq_PC, Reg.seq_CMD_DONE] <;> omega)
    have hframe := u.gangDone_only n l true
    simp only [if_true]
    rw [hwaits _ hbar]
    refine ⟨_, rfl, (hbar _ (by simp only [Reg.tmb_ARR]; omega) (by simp only [Reg.tmb_ARR]; omega)).trans hnew,
      (hbar _ (by simp only [Reg.tmb_ADV]; omega) (by simp only [Reg.tmb_ADV]; omega)).trans hadv,
      sameMemory_trans hmem (memory_of_eq (by rw [hframe]) (by rw [hframe])), fun q hq => ?_⟩
    have hbound : u.inBounds n q = true := by
      have hlen : s.pc n q < s.fld (Reg.seq_RLEN q n) := of_decide_eq_true (hin q hq)
      have hwin : u.fld (Reg.seq_RLEN q n) = s.fld (Reg.seq_RLEN q n) :=
        State.fld_eq_of_reg (hreg (by simp only [Reg.seq_RLEN, Reg.tmb_ARR]; omega))
      exact decide_eq_true (by rwa [State.rcpWin, hpc, hwin])
    obtain ⟨hat, hdone⟩ := u.advanced_gangDone hn hq hbound
    refine ⟨hat.trans (by rw [hpc]), ?_⟩
    rw [Counted] at hdone ⊢
    rw [hdone, State.fld_eq_of_reg (f := Reg.seq_CMD_DONE q n) (hseq q)]
  | false =>
    have hframe := u.holdAll_frame n b l false false
    have hbar (f : Fld) : (u.holdAll n b l false false).fld f = u.fld f := State.fld_eq_of_reg (by rw [hframe]; rfl)
    simp only [Bool.false_eq_true, if_false]
    rw [hwaits _ fun f _ _ => hbar f]
    exact ⟨_, rfl, (hbar _).trans hnew, (hbar _).trans hadv, sameMemory_trans hmem (memory_of_eq (by rw [hframe]) (by rw [hframe])),
      fun q hq => ⟨u.hold_holdAll n b l false false hq, (State.pc_congr (hbar _) (by rw [hframe])).trans (hpc q)⟩⟩

/-- An entry in the next phase while the open one is full: every sequencer holds. -/
theorem tba_next (h : s.gangWord n 0x32 = some (l, w)) (hb : bitsOf w 39 32 < s.barNum n) (hlt : s.barBase n + bitsOf w 39 32 < 256) :
    let b := s.barBase n + bitsOf w 39 32
    s.flag (Reg.tmb_EN b) = true → s.fld (Reg.tmb_ARR b) = s.fld (Reg.tmb_NLOCAL b) → s.fld (Reg.tmb_ADV b) < s.fld (Reg.tmb_NLOCAL b) →
      ¬ (s.fld (Reg.tmb_KIDS b) = (kids (s.group (s.barGroup b)).p (s.group (s.barGroup b)).rank).length ∧ s.fld (Reg.tmb_UP b) = 0) →
      ∃ t, exec (.tba n) s = .next t ∧ t.fld (Reg.tmb_ADV b) = s.fld (Reg.tmb_ADV b) + 1 ∧ t.fld (Reg.tmb_ARR b) = s.fld (Reg.tmb_ARR b) ∧
        SameMemory s t ∧ ∀ q ∈ quads l.qmask, t.hold n q = some (.barrier b true (bitOf w 40)) ∧ t.pc n q = s.pc n q := by
  intro b hen harr hlow hup
  have hn := n.isLt
  have hnl : s.fld (Reg.tmb_NLOCAL b) < 64 := s.fld_lt (Reg.tmb_NLOCAL b)
  have hentry : s.entryAt b = .next := by
    simp only [State.entryAt, hen, Bool.not_true, Bool.false_eq_true, if_false, if_neg (show ¬ s.fld (Reg.tmb_ARR b) < s.fld (Reg.tmb_NLOCAL b) by omega),
      if_pos hlow]
  rw [exec_tba, State.issueTba_next h hb hentry]
  generalize hu : s.countEntry b .next = u
  have hcount : u = s.setFld (Reg.tmb_ADV b) (s.fld (Reg.tmb_ADV b) + 1) := hu.symm
  have hreg {o : Nat} (ho : o ≠ (Reg.tmb_ARR b).off) : u.reg o = s.reg o := hcount ▸ s.reg_setFld_other (Reg.tmb_ADV b) _ ho
  have hnew : u.fld (Reg.tmb_ADV b) = s.fld (Reg.tmb_ADV b) + 1 := by
    rw [hcount, s.fld_setFld (Reg.tmb_ADV b)]
    exact Nat.mod_eq_of_lt (show _ < 2 ^ 6 by omega)
  have hstays (g : Fld) (hg : (Reg.tmb_ADV b).beside g = true) : u.fld g = s.fld g := hcount ▸ s.fld_setFld_beside (Reg.tmb_ADV b) g _ hg
  have hframe := u.holdAll_frame n b l true (bitOf w 40)
  have hreg' (o : Nat) : (u.holdAll n b l true (bitOf w 40)).reg o = u.reg o := by rw [hframe]; rfl
  have hbar (f : Fld) : (u.holdAll n b l true (bitOf w 40)).fld f = u.fld f := State.fld_eq_of_reg (hreg' _)
  have hgroups : (u.holdAll n b l true (bitOf w 40)).groups = s.groups := by rw [hframe, hcount]; rfl
  have hbg : (u.holdAll n b l true (bitOf w 40)).barGroup b = s.barGroup b :=
    State.barGroup_congr (fun o ho => (hreg' o).trans (hreg ho)) hlt
  have hwaits : State.barStep 64 b (u.holdAll n b l true (bitOf w 40)) = u.holdAll n b l true (bitOf w 40) := by
    refine State.barStep_waits _ 64 fun ⟨_, hc⟩ => hup ?_
    rwa [hbar, hbar, hbg, State.group_congr hgroups, hstays (Reg.tmb_KIDS b) rfl, hstays (Reg.tmb_UP b) rfl] at hc
  rw [hwaits]
  refine ⟨_, rfl, (hbar _).trans hnew, (hbar _).trans (hstays (Reg.tmb_ARR b) rfl), ?_, fun q hq => ⟨u.hold_holdAll n b l true _ hq, ?_⟩⟩
  · exact memory_of_eq (by rw [hframe, hcount]; rfl) (by rw [hframe, hcount]; rfl)
  · refine State.pc_congr ((hbar _).trans (State.fld_eq_of_reg (hreg ?_))) (by rw [hframe, hcount]; rfl)
    simp only [Reg.seq_PC, Reg.tmb_ARR]
    omega

end Tba

/-- Settles O16: TSG's counter or flit, TWT's watch, and TBA's entry by the barrier's phase. -/
theorem tumblerAndBarrierCommands : Obligations.TumblerAndBarrierCommands := by
  unfold Obligations.TumblerAndBarrierCommands
  refine ⟨fun s n q w hfit => ⟨fun h hop hctr hrmt hrel => ?_, fun p h hop hrmt hrel hvalid hnode hroute => ?_,
    fun h hctr hcmp => ⟨fun k hk hno => ?_, fun k hk hyes => ?_, fun hnone => ?_⟩⟩, ?_⟩
  · have hn := n.isLt
    have hi : s.ctrBase n + bitsOf w 43 32 < 4096 := by
      have := hfit n hn
      omega
    rw [exec_tsg, State.issueLocal_eq h, State.issueTsg_local hop hctr hrmt hrel]
    generalize (if bitsOf w 45 44 = 0 then (s.ctrValue (s.ctrBase n + bitsOf w 43 32) : Int) + signedOf (bitsOf w 79 48) 32
      else (bitsOf w 79 48 : Nat)) = r
    have hadv := s.advance_frame n q true
    have hreg (o : Nat) (ho : o < 0xC_0000) : (s.advance n q true).reg o = s.reg o :=
      s.reg_advance_other n q true (by simp only [Reg.seq_PC]; omega)
    have hctrs (j : Nat) (hj : j < 4096) : (s.advance n q true).reg (Reg.tmb_VALUE j).off = s.reg (Reg.tmb_VALUE j).off :=
      hreg _ (by simp only [Reg.tmb_VALUE]; omega)
    have htakes := counterTakes_ctrOp (s.advance n q true) (s.ctrBase n + bitsOf w 43 32) r (0x10 + q) hi
    have hseq : ((s.advance n q true).ctrOp (s.ctrBase n + bitsOf w 43 32) r (0x10 + q)).reg (Reg.seq_PC q n).off =
        (s.advance n q true).reg (Reg.seq_PC q n).off := by
      refine State.reg_ctrOp_other _ _ _ _ ⟨?_, ?_⟩ ⟨?_, ?_⟩ ?_ ?_ ?_ <;>
        simp only [Reg.seq_PC, Reg.tmb_VALUE, Reg.tmb_OPS, Reg.tmb_NOTIFY, Reg.tmb_OVF, Reg.tmb_UNF] <;> omega
    refine ⟨_, rfl, advanced_congr (s.advanced_advance h.2.1) hseq (counterOnly_ctrOp _ _ _ _).pcOver,
      sameMemory_trans (memory_of_eq (by rw [hadv]) (by rw [hadv])) (sameMemory_ctrOp _ _ _ _), counterTakes_of_regs hi hctrs htakes⟩
  · have hn := n.isLt
    have hadv := s.advance_frame n q true
    have hlink : (s.advance n q true).link p = s.link p := by rw [State.link, hadv, State.link]
    rw [exec_tsg, State.issueLocal_eq h, State.issueTsg_remote hop hrmt hrel hvalid hnode hroute]
    refine ⟨_, s.tsgFlit n w, rfl, advanced_congr (s.advanced_advance h.2.1) rfl rfl, ?_, rfl, rfl, rfl, ?_, ?_⟩
    · rw [Issue.outcome, State.txq_queue, if_pos rfl, hlink]
    · have htake : (s.tsgFlit n w).payload.take 4 = leBytes (bitsOf w 79 48) 4 := by
        have hpay : (s.tsgFlit n w).payload = leBytes (bitsOf w 79 48) 4 ++ List.replicate 28 0 := rfl
        rw [hpay, List.take_append_of_le_length (by rw [leBytes_length_word]), List.take_of_length_le (by rw [leBytes_length_word])]
      rw [htake, leNat_leBytes]
      exact Nat.mod_eq_of_lt (bitsOf_lt w 79 48)
    · have hframe : (s.advance n q true).txq p (s.tsgFlit n w) =
          { s.advance n q true with links := ((s.advance n q true).txq p (s.tsgFlit n w)).links } := rfl
      rw [Issue.outcome, hframe, hadv]
  · rw [exec_twt, State.retryTwt_eq h hctr hcmp, hk]
    refine ⟨_, congrArg _ ((s.setHold n q (some (.watch k))).addWatch_waits (x := s.twtWatch n q w k) hno), ?_, rfl, SMap.get_set_same _ _ _ _, rfl⟩
    exact SMap.get_set_same _ _ _ _
  · rw [exec_twt, State.retryTwt_eq h hctr hcmp, hk]
    refine ⟨_, congrArg _ ((s.setHold n q (some (.watch k))).addWatch_fires (x := s.twtWatch n q w k) hyes), ?_, ?_, SMap.get_set_same _ _ _ _, rfl⟩
    · exact SMap.get_set_same _ _ _ _
    · refine State.pc_congr (State.fld_eq_of_reg (State.reg_notify_other _ _ _ ?_)) rfl
      simp only [Reg.seq_PC, Reg.tmb_NOTIFY]
      omega
  · rw [exec_twt, State.retryTwt_eq h hctr hcmp, hnone]
    exact ⟨_, rfl, SMap.get_set_same _ _ _ _, rfl⟩
  · intro s n l w h hb hin b arr adv nl hlt
    refine ⟨tba_current h hb hin hlt, tba_next h hb hlt, fun hen => ?_⟩
    rw [exec_tba, State.issueTba_disabled h hb hen]
    exact ⟨_, rfl, s.stopped_stopRecipe 1 _ (State.launch_of_gangWord h) n.isLt (by decide)⟩

end Sys2Proof.Machine

/-! Descriptors that join an engine's queue: dispatches of a recipe and doorbells (R106, R180, R181, R200, R265). -/

namespace Sys2Proof.Machine

open Sys2Proof.Spec

-- One proof at a time: side by side, their threads take more memory than the check has.
set_option Elab.async false

/-! ## Queues of the engines -/

/-- A descriptor joins the queue of engine e of kind k. -/
def State.push (k : Fin 3) (m : State) (e : Nat) (d : QDesc) : State :=
  match k with
  | 0 => m.whiskPush e d
  | 1 => m.tongPush e d
  | 2 => m.mortarPush e d

/-- Whether engine e of kind k takes another descriptor of station n at issue. -/
def State.engRoom (m : State) (k : Fin 3) (n e : Nat) : Bool :=
  match k with
  | 0 => m.whiskRoom n e
  | 1 => m.tongRoom e
  | 2 => m.mortarRoom n e

section Queue

variable (m : State) (e : Nat)

theorem State.engRoom_iff (k : Fin 3) (n : Nat) : m.engRoom k n e = true ↔ EngRoom m k n e :=
  match k with
  | 0 => decide_eq_true_iff
  | 1 => decide_eq_true_iff
  | 2 => decide_eq_true_iff

/-- The queue depths that follow a change of an engine's table. -/
theorem regsOnly_depths (f : Nat → Fld) (v : Nat → Nat) : RegsOnly m ((List.range 8).foldl (fun m n => m.setFld (f n) (v n)) m) :=
  regsOnly_foldl _ (fun _ _ => regsOnly_setFld _ _ _) m

theorem State.reg_depths_other (f : Nat → Fld) (v : Nat → Nat) {o : Nat} (h : ∀ n, o ≠ (f n).off) :
    ((List.range 8).foldl (fun m n => m.setFld (f n) (v n)) m).reg o = m.reg o :=
  foldl_keeps (v := fun m => m.reg o) (fun _ n _ => State.reg_setFld_other _ _ _ (h n)) m

theorem State.setWhisk_frame (x : Whisk) :
    m.setWhisk e x = { m with whisks := m.whisks.set (fun _ => .idle) e x, regs := (m.setWhisk e x).regs } := by
  have h : RegsOnly { m with whisks := m.whisks.set (fun _ => .idle) e x } (m.setWhisk e x) := by
    have hdepth := regsOnly_depths { m with whisks := m.whisks.set (fun _ => .idle) e x } (Reg.wsk_QDEPTH e) (fun n => min 8 (qdepth x.queue n))
    rw [State.setWhisk]
    cases x.run with
    | none => exact regsOnly_trans hdepth (regsOnly_trans (regsOnly_setFld _ _ _) (regsOnly_setFld _ _ _))
    | some c => exact regsOnly_trans hdepth (regsOnly_trans (regsOnly_setFld _ _ _) (regsOnly_trans (regsOnly_setFld _ _ _) (regsOnly_setFld _ _ _)))
  exact h

theorem State.setMortar_frame (x : Mortar) :
    m.setMortar e x = { m with mortars := m.mortars.set (fun _ => .idle) e x, regs := (m.setMortar e x).regs } := by
  have h : RegsOnly { m with mortars := m.mortars.set (fun _ => .idle) e x } (m.setMortar e x) := by
    have hdepth := regsOnly_depths { m with mortars := m.mortars.set (fun _ => .idle) e x } (Reg.mtr_QDEPTH e)
      (fun n => min 4 (qdepth x.queue n))
    rw [State.setMortar]
    cases x.run with
    | none => exact regsOnly_trans hdepth (regsOnly_trans (regsOnly_setFld _ _ _) (regsOnly_trans (regsOnly_setFld _ _ _) (regsOnly_setFld _ _ _)))
    | some c =>
      exact regsOnly_trans hdepth (regsOnly_trans (regsOnly_setFld _ _ _) (regsOnly_trans (regsOnly_setFld _ _ _)
        (regsOnly_trans (regsOnly_setFld _ _ _) (regsOnly_setFld _ _ _))))
  exact h

theorem State.setTong_frame (x : Tongs) :
    m.setTong e x = { m with tongs := m.tongs.set (fun _ => .idle) e x, regs := (m.setTong e x).regs } := rfl

/-- An engine's registers lie behind those of the stations and the sequencers. -/
theorem State.reg_setWhisk_low (x : Whisk) {o : Nat} (h : o < 0x10_0000) : (m.setWhisk e x).reg o = m.reg o := by
  have hdepth := State.reg_depths_other { m with whisks := m.whisks.set (fun _ => .idle) e x } (Reg.wsk_QDEPTH e)
    (fun n => min 8 (qdepth x.queue n)) (o := o) (fun n => by simp only [Reg.wsk_QDEPTH]; omega)
  rw [State.setWhisk]
  cases x.run with
  | none =>
    rw [State.reg_setFld_other _ _ _ (by simp only [Reg.wsk_LINKS]; omega), State.setFlag,
      State.reg_setFld_other _ _ _ (by simp only [Reg.wsk_BUSY]; omega)]
    exact hdepth
  | some c =>
    rw [State.reg_setFld_other _ _ _ (by simp only [Reg.wsk_LINKS]; omega), State.reg_setFld_other _ _ _ (by simp only [Reg.wsk_STN]; omega),
      State.setFlag, State.reg_setFld_other _ _ _ (by simp only [Reg.wsk_BUSY]; omega)]
    exact hdepth

theorem State.reg_setMortar_low (x : Mortar) {o : Nat} (h : o < 0x10_0000) : (m.setMortar e x).reg o = m.reg o := by
  have hdepth := State.reg_depths_other { m with mortars := m.mortars.set (fun _ => .idle) e x } (Reg.mtr_QDEPTH e)
    (fun n => min 4 (qdepth x.queue n)) (o := o) (fun n => by simp only [Reg.mtr_QDEPTH]; omega)
  have hphase : o ≠ (Reg.mtr_PHASE e).off ∧ o ≠ (Reg.mtr_ITER e).off ∧ o ≠ (Reg.mtr_BUSY e).off ∧ o ≠ (Reg.mtr_STN e).off := by
    simp only [Reg.mtr_PHASE, Reg.mtr_ITER, Reg.mtr_BUSY, Reg.mtr_STN]
    omega
  obtain ⟨hphase, hiter, hbusy, hstn⟩ := hphase
  rw [State.setMortar]
  cases x.run with
  | none =>
    rw [State.reg_setFld_other _ _ _ hiter, State.reg_setFld_other _ _ _ hphase, State.setFlag, State.reg_setFld_other _ _ _ hbusy]
    exact hdepth
  | some c =>
    rw [State.reg_setFld_other _ _ _ hiter, State.reg_setFld_other _ _ _ hphase, State.reg_setFld_other _ _ _ hstn, State.setFlag,
      State.reg_setFld_other _ _ _ hbusy]
    exact hdepth

theorem State.reg_setTong_low (x : Tongs) {o : Nat} (h : o < 0x10_0000) : (m.setTong e x).reg o = m.reg o := by
  rw [State.setTong, State.reg_setFld_other _ _ _ (by simp only [Reg.tng_PARKED]; omega),
    State.reg_setFld_other _ _ _ (by simp only [Reg.tng_STREAMS]; omega)]
  rfl

variable (k : Fin 3) (d : QDesc)

theorem State.reg_push_low {o : Nat} (h : o < 0x10_0000) : (m.push k e d).reg o = m.reg o :=
  match k with
  | 0 => m.reg_setWhisk_low e _ h
  | 1 => m.reg_setTong_low e _ h
  | 2 => m.reg_setMortar_low e _ h

/-- A push changes the engine's own table and registers. -/
theorem State.push_frame : m.push k e d =
    { m with whisks := (m.push k e d).whisks, tongs := (m.push k e d).tongs, mortars := (m.push k e d).mortars, regs := (m.push k e d).regs } := by
  match k with
  | 0 =>
    have h : m.push 0 e d = _ := m.setWhisk_frame e _
    rw [h]
  | 1 => rfl
  | 2 =>
    have h : m.push 2 e d = _ := m.setMortar_frame e _
    rw [h]

theorem State.push_leaves : (m.push k e d).pcOver = m.pcOver ∧ (m.push k e d).dispatches = m.dispatches ∧ (m.push k e d).colls = m.colls ∧
    (m.push k e d).mem = m.mem ∧ (m.push k e d).poison = m.poison := by
  rw [m.push_frame]
  exact ⟨rfl, rfl, rfl, rfl, rfl⟩

/-- The engines' tables after a push. -/
theorem State.tables_push : (m.push k e d).whisks = (if k = 0 then m.whisks.set (fun _ => .idle) e { m.whisk e with queue := (m.whisk e).queue ++ [d] } else m.whisks) ∧
    (m.push k e d).tongs = (if k = 1 then m.tongs.set (fun _ => .idle) e { m.tong e with queue := (m.tong e).queue ++ [d] } else m.tongs) ∧
    (m.push k e d).mortars = (if k = 2 then m.mortars.set (fun _ => .idle) e { m.mortar e with queue := (m.mortar e).queue ++ [d] } else m.mortars) := by
  match k with
  | 0 =>
    have h : m.push 0 e d = _ := m.setWhisk_frame e _
    rw [h]
    exact ⟨rfl, rfl, rfl⟩
  | 1 => exact ⟨rfl, rfl, rfl⟩
  | 2 =>
    have h : m.push 2 e d = _ := m.setMortar_frame e _
    rw [h]
    exact ⟨rfl, rfl, rfl⟩

theorem engQueue_congr {s t : State} (hw : t.whisks = s.whisks) (ht : t.tongs = s.tongs) (hm : t.mortars = s.mortars) (j : Fin 3) (x : Nat) :
    engQueue t j x = engQueue s j x := by
  match j with
  | 0 => simp only [engQueue, State.whisk, hw]
  | 1 => simp only [engQueue, State.tong, ht]
  | 2 => simp only [engQueue, State.mortar, hm]

theorem engQueue_push (j : Fin 3) (x : Nat) :
    engQueue (m.push k e d) j x = if (j, x) = (k, e) then engQueue m k e ++ [d] else engQueue m j x := by
  obtain ⟨hw, ht, hm⟩ := m.tables_push e k d
  match j with
  | 0 =>
    rw [engQueue, State.whisk, hw]
    by_cases hk : k = 0
    · subst hk
      rw [if_pos rfl, SMap.get_set]
      by_cases hx : x = e
      · simp [hx, engQueue]
      · simp [hx, engQueue, State.whisk]
    · simp [hk, Ne.symm hk, engQueue, State.whisk]
  | 1 =>
    rw [engQueue, State.tong, ht]
    by_cases hk : k = 1
    · subst hk
      rw [if_pos rfl, SMap.get_set]
      by_cases hx : x = e
      · simp [hx, engQueue]
      · simp [hx, engQueue, State.tong]
    · simp [hk, Ne.symm hk, engQueue, State.tong]
  | 2 =>
    rw [engQueue, State.mortar, hm]
    by_cases hk : k = 2
    · subst hk
      rw [if_pos rfl, SMap.get_set]
      by_cases hx : x = e
      · simp [hx, engQueue]
      · simp [hx, engQueue, State.mortar]
    · simp [hk, Ne.symm hk, engQueue, State.mortar]

/-- What the record of an access leaves. -/
theorem Accessed.queues {s t : State} (h : Accessed s t) : (∀ j x, engQueue t j x = engQueue s j x) ∧ t.colls = s.colls := by
  have honly : t = _ := h.1
  rw [honly]
  exact ⟨engQueue_congr rfl rfl rfl, rfl⟩

/-- A descriptor has joined where a push put it and nothing else moved a queue or memory. -/
theorem joins_push {s t : State} (hw : t.whisks = (m.push k e d).whisks) (ht : t.tongs = (m.push k e d).tongs)
    (hm : t.mortars = (m.push k e d).mortars) (hq : ∀ j x, engQueue m j x = engQueue s j x) (hmem : t.mem = s.mem) (hpsn : t.poison = s.poison) :
    Joins s t k e d := by
  refine ⟨memory_of_eq hmem hpsn, ?_, fun j x h => ?_⟩
  · rw [engQueue_congr hw ht hm, engQueue_push, if_pos rfl, hq]
  · rw [engQueue_congr hw ht hm, engQueue_push, if_neg h, hq]

end Queue

/-! ## DWK, DTG and DMT (R106) -/

/-- The command of a dispatch to an engine of kind k. -/
def dispatchOf (k : Fin 3) (n : Stn) (q : Quad) : Instr :=
  match k with
  | 0 => .dwk n q
  | 1 => .dtg n q
  | 2 => .dmt n q

theorem exec_dispatchOf (k : Fin 3) (n : Stn) (q : Quad) (s : State) : exec (dispatchOf k n q) s =
    .next (s.issueLocal n q (0x40 + k.val) false
      (fun m w => m.issueDispatch n q (if k = 0 then 20 else 4) w (fun e => m.engRoom k n e) (State.push k))) :=
  match k with
  | 0 => rfl
  | 1 => rfl
  | 2 => rfl

section Dispatch

variable {s : State} {n q lim w : Nat} {room : Nat → Bool} {push : State → Nat → QDesc → State}

theorem State.issueDispatch_refused (h : ¬ (bitsOf w 84 80 < lim ∧ bitsOf w 96 85 < s.ctrNum n)) :
    s.issueDispatch n q lim w room push = .refuse := by
  rw [State.issueDispatch]
  exact if_pos (by simp only [dispF]; omega)

theorem State.issueDispatch_waits (h : bitsOf w 84 80 < lim ∧ bitsOf w 96 85 < s.ctrNum n)
    (hfree : ¬ ((bitOf w 98 = true → s.allDone n q = true) ∧ room (bitsOf w 84 80) = true)) :
    s.issueDispatch n q lim w room push = .wait := by
  rw [State.issueDispatch]
  refine (if_neg (by simp only [dispF]; omega)).trans (if_pos ?_)
  simp only [dispF, Bool.not_eq_true']
  by_cases hroom : room (bitsOf w 84 80) = true
  · have hrel := mt (fun hrel => And.intro hrel hroom) hfree
    exact .inl (by simpa using hrel)
  · exact .inr (Bool.eq_false_of_not_eq_true hroom)

/-- The descriptor of a dispatch's word. -/
def State.dispatchDesc (s : State) (n w : Nat) : QDesc := ⟨n, bitsOf w 75 32, bitsOf w 96 85, bitOf w 97, none, some s.nextId⟩

/-- The dispatch once it is counted and its descriptor has joined, before the sequencer moves on. -/
def State.dispatchMade (s : State) (n q w : Nat) (push : State → Nat → QDesc → State) : State :=
  let m := push s.freshId.2 (bitsOf w 84 80) (s.dispatchDesc n w)
  { m with dispatches := m.dispatches ++ [(4 * n + q, s.dispatchDesc n w)] }.stepDispatch n

theorem State.issueDispatch_goes (h : bitsOf w 84 80 < lim ∧ bitsOf w 96 85 < s.ctrNum n) (hrel : bitOf w 98 = true → s.allDone n q = true)
    (hroom : room (bitsOf w 84 80) = true) :
    s.issueDispatch n q lim w room push = .go ((s.dispatchMade n q w push).advance n q true) := by
  rw [State.issueDispatch, if_neg (by simp only [dispF]; omega), if_neg]
  · rfl
  · rintro (⟨hr, hdone⟩ | hfull)
    · rw [hrel hr] at hdone
      cases hdone
    · rw [show (dispF n w).eng = bitsOf w 84 80 from rfl, hroom] at hfull
      cases hfull

end Dispatch

theorem dispatch_goes {s : State} {n : Stn} {q : Quad} {w : Nat} (k : Fin 3) (hb : s.inBounds n q = true) :
    let t := (s.dispatchMade n q w (State.push k)).advance n q true
    Advanced s t n q ∧ Joins s t k (bitsOf w 84 80) (s.dispatchDesc n w) ∧ t.dispatches = s.dispatches ++ [(4 * n.val + q.val, s.dispatchDesc n w)] := by
  intro t
  have hn := n.isLt
  have hq := q.isLt
  have hframe : t = _ := State.advance_frame (s.dispatchMade n q w (State.push k)) n q true
  obtain ⟨hover, hdisp, -, hmem, hpsn⟩ := s.freshId.2.push_leaves (bitsOf w 84 80) k (s.dispatchDesc n w)
  have hreg (o : Nat) (ho : o < 0x10_0000) : (s.dispatchMade n q w (State.push k)).reg o = s.reg o :=
    s.freshId.2.reg_push_low (bitsOf w 84 80) k (s.dispatchDesc n w) ho
  have hfld (f : Fld) (hf : f.off < 0x10_0000) := State.fld_eq_of_reg (f := f) (hreg f.off hf)
  have hpc := State.pc_congr (n := n) (q := q) (hfld (Reg.seq_PC q n) (by simp only [Reg.seq_PC]; omega)) hover
  have hin : (s.dispatchMade n q w (State.push k)).inBounds n q = true := by
    rw [State.inBounds, hpc, State.rcpWin, hfld (Reg.seq_RLEN q n) (by simp only [Reg.seq_RLEN]; omega)]
    exact hb
  have hadv : Advanced (s.dispatchMade n q w (State.push k)) t n q := State.advanced_advance hin
  refine ⟨⟨hadv.1.trans (by rw [hpc]), hadv.2.trans (by rw [hfld (Reg.seq_CMD_DONE q n) (by simp only [Reg.seq_CMD_DONE]; omega)])⟩, ?_, ?_⟩
  · rw [hframe]
    exact joins_push s.freshId.2 (bitsOf w 84 80) k (s.dispatchDesc n w) rfl rfl rfl (engQueue_congr rfl rfl rfl) hmem hpsn
  · rw [hframe]
    exact congrArg (· ++ [(4 * n.val + q.val, s.dispatchDesc n w)]) hdisp

/-- DWK, DTG and DMT by what stands in their way (R106). -/
theorem dispatch_cases (s : State) (n : Stn) (q : Quad) (w : Nat) (k : Fin 3) (h : Issuable s n q (0x40 + k.val) w) :
    let valid := bitsOf w 84 80 < (if k = 0 then 20 else 4) ∧ bitsOf w 96 85 < s.ctrNum n
    let free := (bitOf w 98 = true → s.allDone n q = true) ∧ EngRoom s k n (bitsOf w 84 80)
    (∀ l, s.launch n = some l → ¬ valid → ∃ t, exec (dispatchOf k n q) s = .next t ∧ Spec.Stopped s t n l 1) ∧
    (valid → ¬ free → exec (dispatchOf k n q) s = .next s) ∧
    (valid → free → ∃ t, exec (dispatchOf k n q) s = .next t ∧ Advanced s t n q ∧ Joins s t k (bitsOf w 84 80) (s.dispatchDesc n w) ∧
      t.dispatches = s.dispatches ++ [(4 * n.val + q.val, s.dispatchDesc n w)]) := by
  intro valid free
  rw [exec_dispatchOf, State.issueLocal_eq h]
  refine ⟨fun l hl hbad => ?_, fun hv hf => ?_, fun hv ⟨hrel, hroom⟩ => ?_⟩
  · rw [State.issueDispatch_refused hbad]
    exact ⟨_, rfl, s.stopped_stopRecipe 1 _ hl n.isLt (by decide)⟩
  · rw [State.issueDispatch_waits hv (by rwa [s.engRoom_iff])]
    rfl
  · rw [State.issueDispatch_goes hv hrel ((s.engRoom_iff _ k n).mpr hroom)]
    exact ⟨_, rfl, dispatch_goes k h.2.1⟩

/-! ## Doorbells (R180, R181, R200, R265) -/

/-- The fields of a doorbell of station n. -/
def bellRows (n : Nat) : List (FieldRow × List Nat) :=
  let row (hi lo : Nat) (acc : Acc) : FieldRow × List Nat := (⟨0x180, [(8, 8)], hi, lo, acc, 0, .stn, none, false, false, .stn⟩, [n])
  [row 43 0 .wo, row 55 44 .wo, row 56 56 .wo, row 63 63 .w1s]

/-- Offset off is the doorbell of station n on the page of a Whisk, a Tongs, a Mortar or the collectives. -/
structure IsBell (off page n : Nat) : Prop where
  rows : rowsAt off = bellRows n
  place : off = 0x1_0000 * page + 0x180 + 8 * n
  station : n < 8
  engine : ∃ u, blkOf page = some (.wsk, u) ∨ blkOf page = some (.tng, u) ∨ blkOf page = some (.mtr, u) ∨ blkOf page = some (.krt, u)
  beyond : 0x10 ≤ page ∧ page < 155

theorem isBell_wsk : ∀ (w : Stack) (n : Stn), IsBell (Reg.wsk_GO w n).off (0x10 + w) n := by
  have hrows : ∀ (w : Stack) (n : Stn), rowsAt (Reg.wsk_GO w n).off = bellRows n := by decide +kernel
  have hblk : ∀ w : Stack, blkOf (0x10 + w) = some (.wsk, w.val) := by decide
  exact fun w n => ⟨hrows w n, by simp only [Reg.wsk_GO]; omega, n.isLt, ⟨_, .inl (hblk w)⟩, by omega⟩

theorem isBell_tng : ∀ (d : Die) (n : Stn), IsBell (Reg.tng_DB_GO d n).off (0x24 + d) n := by
  have hrows : ∀ (d : Die) (n : Stn), rowsAt (Reg.tng_DB_GO d n).off = bellRows n := by decide +kernel
  have hblk : ∀ d : Die, blkOf (0x24 + d) = some (.tng, d.val) := by decide
  exact fun d n => ⟨hrows d n, by simp only [Reg.tng_DB_GO]; omega, n.isLt, ⟨_, .inr (.inl (hblk d))⟩, by omega⟩

theorem isBell_mtr : ∀ (d : Die) (n : Stn), IsBell (Reg.mtr_DB_GO d n).off (0x28 + d) n := by
  have hrows : ∀ (d : Die) (n : Stn), rowsAt (Reg.mtr_DB_GO d n).off = bellRows n := by decide +kernel
  have hblk : ∀ d : Die, blkOf (0x28 + d) = some (.mtr, d.val) := by decide
  exact fun d n => ⟨hrows d n, by simp only [Reg.mtr_DB_GO]; omega, n.isLt, ⟨_, .inr (.inr (.inl (hblk d)))⟩, by omega⟩

theorem isBell_krt : ∀ n : Stn, IsBell (Reg.krt_DB_GO n).off 0x84 n := by
  have hrows : ∀ n : Stn, rowsAt (Reg.krt_DB_GO n).off = bellRows n := by decide +kernel
  exact fun n => ⟨hrows n, by simp only [Reg.krt_DB_GO], n.isLt, ⟨0, .inr (.inr (.inr rfl))⟩, by omega⟩

section Bell

variable {s : State} {off page n v : Nat}

/-- The host may write what a station may. -/
theorem State.mayWrite_host_stn {e : FieldRow × List Nat} (hwr : e.1.wr = .stn) : s.mayWrite .host off e = true := by
  obtain ⟨⟨base, dims, hi, lo, acc, rst, wr, rng, ctr, only0, own⟩, ix⟩ := e
  cases (show wr = .stn from hwr)
  rfl

/-- A field of a doorbell takes the host's value as it is written. -/
theorem State.draftField_bell (h : IsBell off page n) {e : FieldRow × List Nat} (he : e ∈ bellRows n) (d : Draft) :
    (s.draftField .host off v d e).clamped = d.clamped ∧ (s.draftField .host off v d e).refused = d.refused := by
  obtain ⟨-, hplace, hn, ⟨u, hblk⟩, hpage⟩ := h
  have hoff : off / 0x1_0000 = page := by omega
  have hfields : e.1.wr = .stn ∧ e.1.base = 0x180 ∧ e.1.rng = none ∧ (e.1.acc = .wo ∨ e.1.acc = .w1s) := by
    simp only [bellRows, List.mem_cons, List.not_mem_nil, or_false] at he
    obtain rfl | rfl | rfl | rfl := he <;> simp
  obtain ⟨hwr, hbase, hrng, hacc⟩ := hfields
  have hmay : s.mayWrite .host off e = true := State.mayWrite_host_stn hwr
  rcases hacc with hacc | hacc
  · have hlock : s.lockedAt off e = false := by
      rcases hblk with hb | hb | hb | hb <;> simp [State.lockedAt, hoff, hb, hacc, hbase]
    have hclamp : s.clampOf off e.1 (bitsOf v e.1.hi e.1.lo) = bitsOf v e.1.hi e.1.lo := by
      rcases hblk with hb | hb | hb | hb <;> simp [State.clampOf, hoff, hb, hbase, hrng]
    rw [State.draftField]
    simp [hacc, hmay, hlock, hclamp]
  · rw [State.draftField]
    simp only [hacc, hmay, if_true]
    split <;> exact ⟨rfl, rfl⟩

theorem State.draft_bell (h : IsBell off page n) :
    (s.draft .host off v).clamped = false ∧ (s.draft .host off v).refused = false := by
  have hfit (w : Nat) : fitWord off w = w := by
    obtain ⟨-, hplace, hn, -, hpage⟩ := h
    rw [fitWord, if_neg (by omega), if_neg (by omega)]
  have hclamped := foldl_keeps (f := s.draftField .host off v) (v := Draft.clamped) (l := bellRows n)
    (fun d e he => (State.draftField_bell h he d).1) ⟨s.reg off, 0, false, false⟩
  have hrefused := foldl_keeps (f := s.draftField .host off v) (v := Draft.refused) (l := bellRows n)
    (fun d e he => (State.draftField_bell h he d).2) ⟨s.reg off, 0, false, false⟩
  rw [State.draft, h.rows]
  simp only [hfit, hclamped, hrefused]
  simp

/-- A host's write of a doorbell rings it. -/
theorem State.busWrite_bell (hup : HostUp s) (h : IsBell off page n) : s.busWrite .host off v = s.ring 0 page n v := by
  obtain ⟨hclamped, hrefused⟩ := State.draft_bell (s := s) (v := v) h
  obtain ⟨hrows, hplace, hn, ⟨u, hblk⟩, hpage⟩ := h
  have hmem : ∃ e ∈ rowsAt off, e.1.acc ≠ .ro ∧ s.mayWrite .host off e = true :=
    ⟨_, by rw [hrows]; exact List.mem_cons_self, by simp, State.mayWrite_host_stn rfl⟩
  have hdrop : s.enDropped off v = false := by
    rw [State.enDropped, decide_eq_false (by omega), Bool.false_and, Bool.false_and]
  have hoff : off / 0x1_0000 = page := by omega
  have hlow : ¬ off % 0x1_0000 < 0x100 := by omega
  have hin : 0x180 ≤ off % 0x1_0000 ∧ off % 0x1_0000 < 0x1C0 := by omega
  have hidx : (off % 0x1_0000 - 0x180) / 8 = n := by omega
  rw [State.busWrite_taken (reaches_of_hostUp hup) (by omega) hmem hdrop, State.counted_of_not_refused _ _ _ hrefused, hclamped,
    if_neg Bool.false_ne_true, State.regEffect]
  rcases hblk with hb | hb | hb | hb <;> simp only [hoff, hb, if_neg hlow, if_pos hin, hidx] <;> rfl
/-- With GO written and no margin test, a doorbell acts at once. -/
theorem State.ring_go (hgo : v.testBit 63 = true) (hquiet : s.flag Reg.sys_BUSY_510 = false) : s.ring 0 page n v = s.ringNow 0 page n v := by
  have hmargin : s.marginOnDies (2 ^ bellDie page) = false := by rw [State.marginOnDies, hquiet, Bool.false_and]
  rw [State.ring, hgo, hmargin]
  rfl

theorem State.doorbellOk_iff (hreset : s.inReset n = false) (hsafe : s.safe = false) :
    s.doorbellOk (doorbell n v) = decide (bitsOf v 55 44 < s.ctrNum n) := by
  rw [State.doorbellOk, show (doorbell n v).stn = n from rfl, hreset, hsafe, Bool.not_false, Bool.true_and, Bool.and_true]
  rfl

/-- The block of the engines of kind k. -/
def engBlk (k : Fin 3) : Blk :=
  match k with
  | 0 => .wsk
  | 1 => .tng
  | 2 => .mtr

theorem State.ringNow_taken {k : Fin 3} {e : Nat} (hblk : blkOf page = some (engBlk k, e)) (hok : s.doorbellOk (doorbell n v) = true) :
    s.ringNow 0 page n v = (s.stepDispatch n).push k e (doorbell n v) := by
  match k with
  | 0 => simp only [State.ringNow, hblk, engBlk, hok]; rfl
  | 1 => simp only [State.ringNow, hblk, engBlk, hok]; rfl
  | 2 => simp only [State.ringNow, hblk, engBlk, hok]; rfl

theorem State.ringNow_refused {k : Fin 3} {e : Nat} (hblk : blkOf page = some (engBlk k, e)) (hok : s.doorbellOk (doorbell n v) = false) :
    s.ringNow 0 page n v = s.access page 0 (some n) 1 (0xF00_0000_0000 + 0x1_0000 * page + 0x180 + 8 * n) := by
  match k with
  | 0 => simp only [State.ringNow, hblk, engBlk, hok]; rfl
  | 1 => simp only [State.ringNow, hblk, engBlk, hok]; rfl
  | 2 => simp only [State.ringNow, hblk, engBlk, hok]; rfl

theorem State.ringNow_coll (s : State) (n v : Nat) : s.ringNow 0 0x84 n v = s.collDoorbell 0 n v := rfl

end Bell

/-- The doorbell of an engine of kind k: its command and its page. -/
def bellOf (k : Fin 3) (w : Stack) (d : Die) (n : Stn) (v : Word) : Instr :=
  match k with
  | 0 => .wskDoorbell .host w n v
  | 1 => .tngDoorbell .host d n v
  | 2 => .mtrDoorbell .host d n v

def bellPage (k : Fin 3) : Nat := if k = 0 then 0x10 else if k = 1 then 0x24 else 0x28

def bellEngine (k : Fin 3) (w : Stack) (d : Die) : Nat := if k = 0 then w.val else d.val

theorem blkOf_bellPage (k : Fin 3) (w : Stack) (d : Die) : blkOf (bellPage k + bellEngine k w d) = some (engBlk k, bellEngine k w d) := by
  have hw : ∀ w : Stack, blkOf (0x10 + w) = some (.wsk, w.val) := by decide
  have ht : ∀ d : Die, blkOf (0x24 + d) = some (.tng, d.val) := by decide
  have hm : ∀ d : Die, blkOf (0x28 + d) = some (.mtr, d.val) := by decide
  match k with
  | 0 => exact hw w
  | 1 => exact ht d
  | 2 => exact hm d

section Ring

variable {s : State} {n : Stn} {v : Word}

theorem exec_bellOf (k : Fin 3) (w : Stack) (d : Die) (hup : HostUp s) :
    exec (bellOf k w d n v) s = .next (s.ring 0 (bellPage k + bellEngine k w d) n v.toNat) :=
  match k with
  | 0 => congrArg _ (State.busWrite_bell hup (isBell_wsk w n))
  | 1 => congrArg _ (State.busWrite_bell hup (isBell_tng d n))
  | 2 => congrArg _ (State.busWrite_bell hup (isBell_mtr d n))

theorem exec_collDoorbell (hup : HostUp s) : exec (.collDoorbell .host n v) s = .next (s.ring 0 0x84 n v.toNat) :=
  congrArg _ (State.busWrite_bell hup (isBell_krt n))

/-- A doorbell written with GO, by whether its counter is granted (R180, R200, R265). -/
theorem bell_cases (w : Stack) (d : Die) (k : Fin 3) (hup : HostUp s) (hgo : v.toNat.testBit 63 = true) (hquiet : s.flag Reg.sys_BUSY_510 = false)
    (hreset : s.inReset n = false) (hsafe : s.safe = false) :
    let x := doorbell n v.toNat
    let e := bellEngine k w d
    (x.ctr < s.ctrNum n → ∃ t, exec (bellOf k w d n v) s = .next t ∧ Joins s t k e x ∧ t.colls = s.colls) ∧
    (s.ctrNum n ≤ x.ctr → ∃ t, exec (bellOf k w d n v) s = .next t ∧ (∀ j y, engQueue t j y = engQueue s j y) ∧ SameMemory s t ∧
      Reported s t (bellPage k + e) 0x07) := by
  intro x e
  have hok := State.doorbellOk_iff (v := v.toNat) hreset hsafe
  rw [exec_bellOf k w d hup, State.ring_go hgo hquiet]
  refine ⟨fun hctr => ?_, fun hctr => ?_⟩
  · rw [State.ringNow_taken (blkOf_bellPage k w d) (hok.trans (decide_eq_true hctr))]
    obtain ⟨-, -, hcolls, hmem, hpsn⟩ := (s.stepDispatch n).push_leaves e k x
    exact ⟨_, rfl, joins_push (s.stepDispatch n) e k x rfl rfl rfl (engQueue_congr rfl rfl rfl) hmem hpsn, hcolls⟩
  · rw [State.ringNow_refused (blkOf_bellPage k w d) (hok.trans (decide_eq_false (Nat.not_lt.mpr hctr)))]
    have hrec := accessed_access s (bellPage k + e) 0 (some n) 1 (0xF00_0000_0000 + 0x1_0000 * (bellPage k + e) + 0x180 + 8 * n)
    exact ⟨_, rfl, hrec.queues.1, hrec.sameMemory,
      State.reported_access _ _ _ _ _ _⟩

/-- The doorbell of a station's collectives, by whether its counter is granted (R265). -/
theorem collBell_cases (hup : HostUp s) (hgo : v.toNat.testBit 63 = true) (hquiet : s.flag Reg.sys_BUSY_510 = false)
    (hreset : s.inReset n = false) (hsafe : s.safe = false) :
    let x := doorbell n v.toNat
    (x.ctr < s.ctrNum n → ∃ t c, exec (.collDoorbell .host n v) s = .next t ∧ t.colls = s.colls ++ [c] ∧ c.q = x ∧
      c.code = 0 ∧ t = { s with colls := t.colls, nextId := s.nextId + 1 }) ∧
    (s.ctrNum n ≤ x.ctr → ∃ t, exec (.collDoorbell .host n v) s = .next t ∧ t.colls = s.colls ∧ Reported s t 0x84 0x07) := by
  intro x
  have hok := State.doorbellOk_iff (v := v.toNat) hreset hsafe
  rw [exec_collDoorbell hup, State.ring_go hgo hquiet, State.ringNow_coll, State.collDoorbell, hok]
  refine ⟨fun hctr => ?_, fun hctr => ?_⟩
  · rw [decide_eq_true (show bitsOf v.toNat 55 44 < s.ctrNum n from hctr)]
    exact ⟨_, _, rfl, rfl, rfl, rfl, rfl⟩
  · rw [decide_eq_false (show ¬ bitsOf v.toNat 55 44 < s.ctrNum n from Nat.not_lt.mpr hctr)]
    exact ⟨_, rfl, (accessed_access s _ _ _ _ _).queues.2, State.reported_access _ _ _ _ _ _⟩

end Ring

/-- Settles O25: a dispatch and a doorbell come to one push, which changes the table of its engine alone. -/
theorem engineQueues : Obligations.EngineQueues := by
  unfold Obligations.EngineQueues
  refine ⟨fun s n q w k => ?_, fun s w d n v k hup hgo hquiet hreset hsafe => ?_⟩
  · have h := dispatch_cases s n q w k
    match k with
    | 0 => exact h
    | 1 => exact h
    | 2 => exact h
  · obtain ⟨htaken, hrefused⟩ := bell_cases w d k hup hgo hquiet hreset hsafe
    obtain ⟨hcoll, hcollRefused⟩ := collBell_cases hup hgo hquiet hreset hsafe
    match k with
    | 0 => exact ⟨htaken, hrefused, hcoll, hcollRefused⟩
    | 1 => exact ⟨htaken, hrefused, hcoll, hcollRefused⟩
    | 2 => exact ⟨htaken, hrefused, hcoll, hcollRefused⟩

end Sys2Proof.Machine

/-! A DISCARD that cancels a COMMIT of no station (R131, R132): the state in which a block's state byte changes at issue. -/

namespace Sys2Proof.Machine

open Sys2Proof.Spec

-- One proof at a time: side by side, their threads take more memory than the check has.
set_option Elab.async false

/-- SPK DISCARD of block 0. -/
def strayWord : Nat := 0x21 + 2 <<< 32 + 1 <<< 48

/-- A COMMIT of block 0 that waits at its gate, for counter 0 to reach 1, and names station 4,044. -/
def strayCommit : Spk :=
  { id := 0, stn := 4044, q := 0, pc := 0, op := 1, blk := 0, nblk := 1, desc := 1 <<< 140 + 1 <<< 160, ctr := 0, cen := false
    phase := 0, sent := 0 }

/-- Station 0 with 64 counters, a recipe window of one word and a Stockpot window of 1 MiB on quadrant 0, and the DISCARD as its
recipe's first word. -/
def strayState : State :=
  { State.reset with
    regs := [(0x118, 0x100#64), (0xC0100, 0x10000#64), (0xC0108, 0x1000000000000#64)]
    mem := [(rcpAddr 0 0 0, 0x21#8), (rcpAddr 0 0 0 + 4, 2#8), (rcpAddr 0 0 0 + 6, 1#8)]
    launches := [(0, some ⟨0, 1, none, false, false, 0⟩)], spks := [strayCommit], nextId := 1 }

theorem issuable_stray : Issuable strayState 0 0 0x21 strayWord := by
  have hcan : strayState.canIssue 0 0 = true := by decide +kernel
  have hin : strayState.inBounds 0 0 = true := by decide +kernel
  have hword : strayState.cmdWord 0 0 = strayWord := by decide +kernel
  have hpsn : strayState.psnIn (strayState.cmdAddr 0 0) 32 = false := by decide +kernel
  have hinj : strayState.injFires 0x0C 0 = false := by decide +kernel
  have hsub : strayState.substitute 0 strayWord = some strayWord := by decide +kernel
  exact ⟨hcan, hin, (congrArg (· % 256) hword).trans (by decide), hpsn, hinj, (congrArg (strayState.substitute 0) hword).trans hsub⟩

theorem spkPasses_stray : SpkPasses strayState 0 0 strayWord 2 := by
  have hctr : bitsOf strayWord 139 128 < strayState.ctrNum 0 := by decide +kernel
  have hpot : strayState.potOk 0 0 (bitsOf strayWord 47 34) (bitsOf strayWord 62 48) = true := by decide +kernel
  have hfree : strayState.potBusy 0 (bitsOf strayWord 47 34) (bitsOf strayWord 62 48)
      (fun x => decide (2 = 2) && strayState.gated x) = false := by decide +kernel
  exact ⟨issuable_stray, by decide, hctr, hpot, hfree⟩

/-- STATUS of station 4,044 would lie where the state byte of block 0 does. -/
theorem stray_aliases : (Reg.ldl_STATUS strayCommit.q strayCommit.stn).off = (spByte 0 0).off := by decide

/-- The cancelled COMMIT's status, 5, reads as the state of block 0, which was closed. -/
theorem stray_changes : strayState.fld (spByte 0 0) = 0 ∧
    (strayState.issueLocal 0 0 0x21 false (fun m w => m.issueSpk 0 0 2 w)).fld (spByte 0 0) = 5 := by decide +kernel

/-- Refutes O18: its clause on DISCARD bounds the station of no COMMIT that waits. One of station 4,044, which no SPK makes, is
cancelled by a DISCARD of its block, and the status register of that station would be the word of the state bytes of blocks 0 to
7: block 0 changes at issue. Stations below 8 in the outstanding COMMITs, as the second part asks, would mend the clause. -/
theorem not_stockpotCommands : ¬ Obligations.StockpotCommands := by
  unfold Obligations.StockpotCommands
  rintro ⟨hissue, -⟩
  obtain ⟨-, -, hdiscard⟩ := hissue strayState 0 0 strayWord
  obtain ⟨t, ht, -, -, -, hkept⟩ := hdiscard spkPasses_stray (by decide)
  obtain rfl : strayState.issueLocal 0 0 0x21 false (fun m w => m.issueSpk 0 0 2 w) = t := Host.Outcome.next.inj ht
  obtain ⟨hclosed, hchanged⟩ := stray_changes
  have hsame := hkept 0 (by decide)
  have hfalse : (5 : Nat) = 0 := hchanged.symm.trans (hsame.trans hclosed)
  exact absurd hfalse (by decide)

end Sys2Proof.Machine

/-! Transfers at issue: the requests a remote one sends, and what they leave alone (R85, R86, R98, R259, R261). -/

namespace Sys2Proof.Machine

open Sys2Proof.Spec

-- One proof at a time: side by side, their threads take more memory than the check has.
set_option Elab.async false

/-! ## What sending a request leaves -/

/-- What requests that leave this module do not touch: bytes, poison, routes and the node's own identity. -/
def Outward (s t : State) : Prop := t.mem = s.mem ∧ t.poison = s.poison ∧ t.routes = s.routes ∧ t.nodeId = s.nodeId

/-- What sending a request leaves, and under H, when none of them comes back to this module, what else. -/
structure Posted (H : Prop) (s t : State) : Prop where
  reg : ∀ o, LowReg o → t.reg o = s.reg o
  place : t.pcOver = s.pcOver
  next : t.nextId = s.nextId
  gens : t.gens = s.gens
  xfers : t.xfers = s.xfers
  outward : H → Outward s t

section Posted

variable {H : Prop} {m s t u : State}

theorem outward_trans (h : Outward s t) (k : Outward t u) : Outward s u := by
  obtain ⟨hm, hp, hr, hn⟩ := h
  obtain ⟨km, kp, kr, kn⟩ := k
  exact ⟨km.trans hm, kp.trans hp, kr.trans hr, kn.trans hn⟩

theorem posted_refl (s : State) : Posted H s s := ⟨fun _ _ => rfl, rfl, rfl, rfl, rfl, fun _ => ⟨rfl, rfl, rfl, rfl⟩⟩

theorem posted_trans (h : Posted H s t) (k : Posted H t u) : Posted H s u :=
  ⟨fun o ho => (k.reg o ho).trans (h.reg o ho), k.place.trans h.place, k.next.trans h.next, k.gens.trans h.gens, k.xfers.trans h.xfers,
    fun hH => outward_trans (h.outward hH) (k.outward hH)⟩

/-- A memory operation leaves the rest of what sending leaves. -/
theorem posted_of_memOnly (hm : s.MemOnly t) (hreg : ∀ o, LowReg o → t.reg o = s.reg o) (hout : H → Outward s t) : Posted H s t := by
  have e : t = _ := hm
  exact ⟨hreg, by rw [e]; rfl, by rw [e]; rfl, by rw [e]; rfl, by rw [e]; rfl, hout⟩

theorem posted_of_accessed (h : Accessed s t) (hnode : H → t.reg Reg.krt_NODEID.off = s.reg Reg.krt_NODEID.off) : Posted H s t := by
  obtain ⟨hm, hmem, hpsn, hreg⟩ := h
  have e : t = _ := hm
  exact posted_of_memOnly hm hreg fun hH => ⟨hmem, hpsn, by rw [e]; rfl, State.fld_eq_of_reg (hnode hH)⟩

/-- The blocks that report here lie below the Keyring's page. -/
theorem posted_report (e : Ev) (h : e.page < 0x84) : Posted H m (m.report e) :=
  posted_of_accessed (accessed_report m e) fun _ => State.reg_report_other m e (.inr (by simp only [Reg.krt_NODEID]; omega))

theorem posted_bump_noRoute : Posted H m (m.bump Reg.krt_NOROUTE 1) :=
  posted_of_accessed (accessed_bump m _ _ (by simp [Reg.krt_NOROUTE]))
    fun _ => State.reg_bump_other _ Reg.krt_NOROUTE 1 (o := Reg.krt_NODEID.off) (by decide)

theorem posted_digestAdd (n off tag : Nat) : Posted H m (m.digestAdd n off tag) :=
  posted_of_accessed (accessed_setFld m _ _ fun h => by have := h.1; simp only [Reg.sve_DIGEST] at this; omega)
    fun _ => State.reg_setFld_other _ _ _ (by simp only [Reg.krt_NODEID, Reg.sve_DIGEST]; omega)

/-! ## Requests that come back to this module (R258, R259) -/

/-- Sends that H excludes. -/
theorem posted_memory (h : ¬ H) (hm : s.MemOnly t) (hreg : ∀ o, LowReg o → t.reg o = s.reg o) : Posted H s t :=
  posted_of_memOnly hm hreg fun hH => absurd hH h

theorem accessed_refuseReq (m : State) (master : Nat) (f : Flit) (acc : Nat) (x : Served) :
    Accessed m (m.refuseReq master f acc x).1 := by
  cases x with
  | stn n => exact accessed_refl m
  | reserved pg => exact accessed_access m _ _ _ _ _
  | err e =>
    simp only [State.refuseReq]
    split
    · exact accessed_access m _ _ _ _ _
    · exact accessed_refl m

/-- What a served request leaves. -/
theorem posted_loopFlit (h : ¬ H) {f : Flit} (hop : f.op = Op.rd ∨ f.op = Op.wr ∨ f.op = Op.tagw) : Posted H m (m.loopFlit f).1 := by
  have hacc {t : State} (ht : Accessed m t) : Posted H m t := posted_memory h ht.1 ht.2.2.2
  rcases hop with hop | hop | hop
  · have hserve : Posted H m (m.serveRd 0xFF f).1 := by
      unfold State.serveRd
      split
      · dsimp only
        exact hacc (accessed_touch m _ _ _ _ _)
      · exact hacc (accessed_refuseReq m _ _ _ _)
    have hloop : (m.loopFlit f).1 = (m.serveRd 0xFF f).1.landed := by simp [State.loopFlit, hop, Op.rd, Op.wr]
    rw [hloop]
    exact posted_trans hserve (posted_memory h (.landed _) fun _ _ => rfl)
  · have hloop : (m.loopFlit f).1 = (m.serveWr 0xFF f).1 := by simp [State.loopFlit, hop, Op.wr]
    rw [hloop]
    unfold State.serveWr
    split
    · exact posted_memory h (.store m _ _ _ _ _) fun o ho => m.reg_store_low _ _ _ _ _ ho
    · exact hacc (accessed_refuseReq m _ _ _ _)
  · have hne : ¬ f.op = Op.wr ∧ ¬ f.op = Op.rd ∧ ¬ f.op = Op.cntAdd := by rw [hop]; decide
    obtain ⟨hwr, hrd, hcnt⟩ := hne
    rw [State.loopFlit, if_neg hwr, if_neg hrd, if_neg hcnt, if_pos hop]
    split
    · exact posted_memory h (.setTag m _ _) fun o _ => by rw [State.setTag_frame]; rfl
    · exact hacc (accessed_refuseReq m _ _ _ _)

/-- A request of this module goes to a port, fails, or is served here; under H it is not served here. -/
theorem posted_sendFlit {f : Flit} (hop : f.op = Op.rd ∨ f.op = Op.wr ∨ f.op = Op.tagw) (hroute : H → m.routeOf f.src f.dst f.flow ≠ .here) :
    Posted H m (m.sendFlit f).1 := by
  rw [State.sendFlit]
  split
  · exact posted_refl m
  · split
    · exact ⟨fun _ _ => rfl, rfl, rfl, rfl, rfl, fun _ => ⟨rfl, rfl, rfl, rfl⟩⟩
    · next hhere => exact posted_loopFlit (fun hH => hroute hH hhere) hop
    · exact posted_bump_noRoute

/-- Whether a destination is this module depends on its routes and identity alone. -/
theorem State.routeOf_here_iff (m : State) (src dst flow : Nat) : m.routeOf src dst flow = .here ↔
    (dst % 65536 = 0xFFFF ∨ dst = m.nodeId) ∨ (bitOf (m.routeEntry dst) 26 = true ∧ bitOf (m.routeEntry dst) 27 = true) := by
  unfold State.routeOf
  by_cases hown : dst % 65536 = 0xFFFF ∨ dst = m.nodeId
  · rw [if_pos hown]
    exact iff_of_true rfl (.inl hown)
  · rw [if_neg hown]
    dsimp only
    cases hvalid : bitOf (m.routeEntry dst) 26
    · simp [hown]
    · cases hdeliver : bitOf (m.routeEntry dst) 27
      · simp only [hown, Bool.not_true, Bool.false_eq_true, if_false, and_false, or_false, iff_false]
        split
        · exact fun h => Hop.noConfusion h
        · exact fun h => Hop.noConfusion h
      · simp

theorem Outward.routeOf_here (h : Outward s t) (src dst flow : Nat) : t.routeOf src dst flow = .here ↔ s.routeOf src dst flow = .here := by
  obtain ⟨-, -, hroutes, hnode⟩ := h
  have hentry : t.routeEntry dst = s.routeEntry dst := by rw [State.routeEntry, State.routeEntry, hroutes, hnode]
  rw [t.routeOf_here_iff, s.routeOf_here_iff, hentry, hnode]

end Posted

/-! ## One outstanding transfer as its requests are sent (R261) -/

/-- y is x but for what its requests have come to. -/
def SameXfer (x y : Xfer) : Prop := y = { x with sent := y.sent, tags := y.tags, bad := y.bad, data := y.data, psn := y.psn }

/-- H of a transfer: no request to its node comes back to this module. -/
def Leaves (s : State) (x : Xfer) : Prop := ∀ a flow, s.routeOf a x.node flow ≠ .here

/-- m is s with transfer x outstanding behind those of l, after some of its requests. -/
structure Sending (s : State) (l : List Xfer) (x : Xfer) (m : State) : Prop where
  posted : Posted (Leaves s x) s { m with xfers := s.xfers }
  last : ∃ y, m.xfers = l ++ [y] ∧ SameXfer x y

section Sending

variable {s m t : State} {l : List Xfer} {x y : Xfer}

theorem sameXfer_refl (x : Xfer) : SameXfer x x := rfl

theorem SameXfer.id_eq (h : SameXfer x y) : y.id = x.id := by rw [h]

theorem SameXfer.node_eq (h : SameXfer x y) : y.node = x.node := by rw [h]; rfl

theorem SameXfer.q_eq (h : SameXfer x y) : y.q = x.q := by rw [h]

theorem Sending.then (h : Sending s l x m) (k : Posted (Leaves s x) m t) : Sending s l x t := by
  obtain ⟨y, hy, hsame⟩ := h.last
  refine ⟨posted_trans h.posted ⟨k.reg, k.place, k.next, k.gens, rfl, k.outward⟩, y, k.xfers.trans hy, hsame⟩

/-- Nothing but the list of requests has changed. -/
theorem posted_reqs {H : Prop} (rs : List Req) : Posted H m { m with reqs := rs } :=
  ⟨fun _ _ => rfl, rfl, rfl, rfl, rfl, fun _ => ⟨rfl, rfl, rfl, rfl⟩⟩

variable (hl : ∀ z ∈ l, z.id ≠ x.id)
include hl

theorem Sending.setXfer (h : Sending s l x m) (hy : SameXfer x y) : Sending s l x (m.setXfer y) := by
  obtain ⟨z, hz, hsame⟩ := h.last
  refine ⟨h.posted, y, ?_, hy⟩
  have hkeep : l.map (fun w => if w.id = y.id then y else w) = l :=
    (List.map_congr_left fun w hw => if_neg (hy.id_eq ▸ hl w hw)).trans (List.map_id l)
  rw [State.setXfer, hz, List.map_append, hkeep, List.map_singleton, if_pos (hsame.id_eq.trans hy.id_eq.symm)]

omit hl in
/-- The last transfer is found where none before it has its identity. -/
theorem State.xfer_last (h : m.xfers = l ++ [y]) (hy : y.id = x.id) (hl : ∀ z ∈ l, z.id ≠ x.id) : m.xfer? x.id = some y := by
  have hnone : l.find? (fun z => decide (z.id = x.id)) = none := List.find?_eq_none.mpr fun z hz => by simpa using hl z hz
  rw [State.xfer?, h, List.find?_append, hnone]
  simp [hy]

theorem Sending.xfer_eq (h : Sending s l x m) : ∃ y, m.xfer? x.id = some y ∧ SameXfer x y := by
  obtain ⟨y, hy, hsame⟩ := h.last
  exact ⟨y, State.xfer_last hy hsame.id_eq hl, hsame⟩

/-- A request that fails is recorded at its sequencer (R263). -/
theorem Sending.reqError (h : Sending s l x m) {r : Req} {off : Nat} (hr : r.xfer = some (x.id, off)) (hp : r.page < 0x84) (e : Nat) :
    Sending s l x (m.reqError r e) := by
  unfold State.reqError
  extract_lets m1 m2 _
  rw [hr]
  have h2 : Sending s l x m2 := (h.then (posted_reqs _)).then (posted_report _ hp)
  obtain ⟨y, hy, hsame⟩ := h2.xfer_eq hl
  simp only [hy]
  exact h2.setXfer hl (by rw [SameXfer, hsame])

theorem Sending.xferData (h : Sending s l x m) (hy : SameXfer x y) (r : Req) (bs : List Byte) (psn : Nat) :
    Sending s l x (m.xferData y r bs psn) :=
  h.setXfer hl (by rw [SameXfer, hy])

omit hl in
theorem Sending.sendFlit (h : Sending s l x m) {f : Flit} (hop : f.op = Op.rd ∨ f.op = Op.wr ∨ f.op = Op.tagw) (hdst : f.dst = x.node) :
    Sending s l x (m.sendFlit f).1 := by
  refine h.then (posted_sendFlit hop fun hH => ?_)
  have hout : Outward s m := h.posted.outward hH
  rw [ne_eq, hout.routeOf_here, hdst]
  exact hH _ _

omit hl in
theorem Sending.sendTag (h : Sending s l x m) (hy : SameXfer x y) (k : Nat) : Sending s l x (m.sendTag y k) := by
  unfold State.sendTag
  extract_lets a blk t
  split
  · exact (h.sendFlit (f := m.mkFlit Op.tagw 0 y.node y.stn 0 plainTag 0 blk (leBytes t 8 ++ List.replicate 24 0)) (.inr (.inr rfl))
      hy.node_eq).then (posted_digestAdd _ _ _)
  · exact h

theorem Sending.sendPiece (h : Sending s l x m) (hy : SameXfer x y) (hq : x.q < 4) : Sending s l x (m.sendPiece y) := by
  unfold State.sendPiece
  extract_lets k n page
  split
  · exact h
  · next t _ =>
    extract_lets write f r x1 rq m0 m1 tagged m2
    have hop : f.op = Op.rd ∨ f.op = Op.wr ∨ f.op = Op.tagw := by
      unfold f
      cases y.load
      · exact .inr (.inl rfl)
      · exact .inl rfl
    have hdst : f.dst = x.node := by
      rw [← hy.node_eq]
      unfold f
      cases y.load <;> rfl
    have hx1 : SameXfer x x1 := by
      unfold x1
      rw [SameXfer, hy]
    have hrq : rq.xfer = some (x.id, k) := by rw [← hy.id_eq]
    have hpage : rq.page < 0x84 := by
      have hpage : rq.page = 0x0C + y.q := rfl
      rw [hpage, hy.q_eq]
      omega
    have h1 : Sending s l x m1 := ((h.sendFlit hop hdst).setXfer hl hx1).then (posted_reqs _)
    have htagged {u : State} (hu : Sending s l x u) : Sending s l x (tagged u) := by
      unfold tagged
      split
      · exact hu
      · exact hu.sendTag hx1 _
    split
    · exact htagged h1
    · next z _ =>
      split
      · exact h1.reqError hl hrq hpage _
      · have h2 : Sending s l x m2 := h1.then (posted_reqs _)
        split
        · exact h2.xferData hl hx1 _ _ _
        · exact htagged (h2.setXfer hl (by rw [SameXfer, hx1]))
    · exact h1.reqError hl hrq hpage _
    · exact h1.reqError hl hrq hpage _

/-- Requests are sent while tags are free. -/
theorem Sending.pump (hq : x.q < 4) (fuel : Nat) (h : Sending s l x m) : Sending s l x (State.pump fuel x.id m) := by
  induction fuel generalizing m with
  | zero => exact h
  | succ fuel ih =>
    obtain ⟨y, hy, hsame⟩ := h.xfer_eq hl
    simp only [State.pump, hy]
    split
    · exact ih (h.sendPiece hl hsame hq)
    · exact h

omit hl in
/-- A transfer within this module sends no request. -/
theorem State.pump_local (h : m.xfer? x.id = some x) (hnode : x.node = m.nodeId) (fuel : Nat) : State.pump fuel x.id m = m := by
  cases fuel with
  | zero => rfl
  | succ fuel => simp only [State.pump, h, hnode, ne_eq, not_true_eq_false, false_and, if_false]

end Sending

/-! ## LDT and STT at issue (R85, R86, R98) -/

section Issue

variable {s : State} {n : Stn} {q : Quad} {w : Nat} {load : Bool}

/-- The transfer of a word, as it becomes outstanding. -/
def State.xferOf (s : State) (n q : Nat) (load : Bool) (w : Nat) : Xfer :=
  let f := xferF load w
  ⟨s.nextId, n, q, s.pc n q, load, f.src, f.dst, s.gen q n f.sag, s.gen q n f.dag, f.run, f.ch, f.ctr, f.cen, 0, [], false, [], []⟩

/-- What holds a transfer back at issue (R85, R86). -/
def State.xferWaits (s : State) (x : Xfer) : Prop :=
  16 ≤ (s.xfersAt x.q).length ∨ (∃ y ∈ s.xfers, y.ivl.meets x.ivl = true) ∨
    (∃ g ∈ s.gops, ∃ j ∈ g.trayIvls s.nodeId, j.meets x.ivl = true)

/-- The state in which a transfer is outstanding and its sequencer has moved on. -/
def State.xferIssued (s : State) (n q : Nat) (x : Xfer) : State :=
  State.advance { s.freshId.2 with xfers := s.xfers ++ [x] } n q false

theorem exec_transfer (n : Stn) (q : Quad) (load : Bool) (s : State) : exec (if load then .ldt n q false else .stt n q false) s =
    .next (s.issueLocal n q (if load then 0x01 else 0x02) false (fun m w => m.issueXfer n q load w)) := by
  cases load <;> rfl

theorem State.issueXfer_waits
    (hok : s.xferOk n load (xferF load w) (s.gen q n (xferF load w).sag) (s.gen q n (xferF load w).dag) = true)
    (h : s.xferWaits (s.xferOf n q load w)) : s.issueXfer n q load w = .wait := by
  rw [State.issueXfer]
  simp only [hok, Bool.not_true, Bool.false_eq_true, if_false]
  refine if_pos ?_
  simp only [List.any_eq_true]
  exact h

theorem State.issueXfer_goes
    (hok : s.xferOk n load (xferF load w) (s.gen q n (xferF load w).sag) (s.gen q n (xferF load w).dag) = true)
    (h : ¬ s.xferWaits (s.xferOf n q load w)) :
    s.issueXfer n q load w = .go (State.pump 4096 s.nextId (s.xferIssued n q (s.xferOf n q load w))) := by
  rw [State.issueXfer]
  simp only [hok, Bool.not_true, Bool.false_eq_true, if_false]
  refine if_neg ?_
  simp only [List.any_eq_true]
  exact h

theorem xferIssued_frame (s : State) (n q : Nat) (x : Xfer) : s.xferIssued n q x =
    { s with nextId := s.nextId + 1, xfers := s.xfers ++ [x], regs := (s.xferIssued n q x).regs, pcOver := (s.xferIssued n q x).pcOver } :=
  State.advance_frame { s.freshId.2 with xfers := s.xfers ++ [x] } n q false

theorem xfers_xferIssued (s : State) (n q : Nat) (x : Xfer) : (s.xferIssued n q x).xfers = s.xfers ++ [x] := by rw [xferIssued_frame]

theorem xferIssued_sending (s : State) (n q : Nat) (x : Xfer) : Sending (s.xferIssued n q x) s.xfers x (s.xferIssued n q x) :=
  ⟨posted_refl _, x, xfers_xferIssued s n q x, sameXfer_refl x⟩

/-- Neither memory nor the routes nor the node's identity is the sequencer's. -/
theorem xferIssued_outward (x : Xfer) : Outward s (s.xferIssued n q x) := by
  have hframe := xferIssued_frame s n q x
  refine ⟨by rw [hframe], by rw [hframe], by rw [hframe], State.fld_eq_of_reg ?_⟩
  refine State.reg_advance_other { s.freshId.2 with xfers := s.xfers ++ [x] } n q false ?_
  simp only [Reg.krt_NODEID, Reg.seq_PC]
  omega

/-- The sequencer has moved on, and has counted nothing. -/
theorem pc_xferIssued (hb : s.inBounds n q = true) (x : Xfer) : (s.xferIssued n q x).pc n q = s.pc n q + 1 ∧
    (s.xferIssued n q x).fld (Reg.seq_CMD_DONE q n) = s.fld (Reg.seq_CMD_DONE q n) :=
  ⟨(State.pc_advance_same { s.freshId.2 with xfers := s.xfers ++ [x] } n q false).trans (placeShown_of_inBounds hb),
    State.fld_advance_DONE { s.freshId.2 with xfers := s.xfers ++ [x] } n q false⟩

/-- What stands once a transfer has issued, its requests under way. -/
theorem transfer_issues (hb : s.inBounds n q = true) {x : Xfer} (hid : x.id = s.nextId) (hq : x.q < 4) (hold : ∀ y ∈ s.xfers, y.id < s.nextId) :
    ∃ t y, State.pump 4096 s.nextId (s.xferIssued n q x) = t ∧ t.xfers = s.xfers ++ [y] ∧ SameXfer x y ∧ (x.node = s.nodeId → y = x) ∧
      t.nextId = s.nextId + 1 ∧ t.pc n q = s.pc n q + 1 ∧ t.fld (Reg.seq_CMD_DONE q n) = s.fld (Reg.seq_CMD_DONE q n) ∧ t.gens = s.gens ∧
      ((x.node = s.nodeId ∨ ∀ a flow, s.routeOf a x.node flow ≠ .here) → SameMemory s t) := by
  have hn := n.isLt
  have hq' := q.isLt
  have hl : ∀ z ∈ s.xfers, z.id ≠ x.id := fun z hz => by have := hold z hz; omega
  have hframe := xferIssued_frame s n q x
  have hout : Outward s (s.xferIssued n q x) := xferIssued_outward x
  obtain ⟨hpc, hdone⟩ := pc_xferIssued hb x
  by_cases hnode : x.node = s.nodeId
  · refine ⟨_, x, hid ▸ State.pump_local (State.xfer_last (xfers_xferIssued s n q x) rfl hl) (hnode.trans hout.2.2.2.symm) 4096,
      xfers_xferIssued s n q x, rfl, fun _ => rfl, by rw [hframe], hpc, hdone, by rw [hframe], fun _ => memory_of_eq hout.1 hout.2.1⟩
  · obtain ⟨hposted, y, hy, hsame⟩ := (xferIssued_sending s n q x).pump hl hq 4096
    rw [hid] at hposted hy
    have hlow : LowReg (Reg.seq_PC q n).off := by
      simp only [LowReg, Reg.seq_PC]
      omega
    have hreg := hposted.reg (Reg.seq_PC q n).off hlow
    refine ⟨_, y, rfl, hy, hsame, fun h => absurd h hnode, hposted.next.trans (by rw [hframe]),
      (State.pc_congr (State.fld_eq_of_reg hreg) hposted.place).trans hpc, (State.fld_eq_of_reg (f := Reg.seq_CMD_DONE q n) hreg).trans hdone,
      hposted.gens.trans (by rw [hframe]), fun h => ?_⟩
    obtain ⟨hmem, hpsn, -⟩ := hposted.outward fun a flow hhere => h.elim hnode fun hroute => hroute a flow ((hout.routeOf_here a x.node flow).mp hhere)
    exact memory_of_eq (hmem.trans hout.1) (hpsn.trans hout.2.1)

end Issue

end Sys2Proof.Machine

/-! Transfers within the module as they complete: their moves, the bytes they carry, and the count (R98, R278, R302). -/

namespace Sys2Proof.Machine

open Sys2Proof.Spec

-- One proof at a time: side by side, their threads take more memory than the check has.
set_option Elab.async false

/-! ## The moves of a transfer -/

/-- One piece of a transfer: where it comes from and goes to, its length, and whether its first read is corrupt. -/
structure Carry where
  src : Nat
  dst : Nat
  len : Nat
  glitch : Bool

def State.move (m : State) (x : Xfer) (p : Carry) : State := m.movePiece x p.src p.dst p.len p.glitch

/-- Byte a is one of those that a move writes. -/
def Carry.writes (p : Carry) (a : Nat) : Prop := p.dst ≤ a ∧ a < p.dst + p.len

/-- The moves of run k. -/
def runMoves (x : Xfer) (glitch : Bool) (k : Nat) : List Carry :=
  (runPieces (dstOf x k 0) x.run).map fun pc => ⟨srcOf x k pc.1, dstOf x k pc.1, pc.2, glitch && decide (k = 0 ∧ pc.1 = 0)⟩

def xferMoves (x : Xfer) (glitch : Bool) : List Carry := (List.range x.sgen.yield).flatMap (runMoves x glitch)

theorem State.moveAll_eq (m : State) (x : Xfer) (glitch : Bool) : m.moveAll x glitch = (xferMoves x glitch).foldl (fun m p => m.move x p) m := by
  have hrun (m : State) (k : Nat) : (runMoves x glitch k).foldl (fun m p => m.move x p) m =
      (runPieces (dstOf x k 0) x.run).foldl (fun m pc => m.movePiece x (srcOf x k pc.1) (dstOf x k pc.1) pc.2
        (glitch && decide (k = 0 ∧ pc.1 = 0))) m := by
    rw [runMoves, List.foldl_map]
    rfl
  rw [xferMoves, List.foldl_flatMap, State.moveAll]
  refine List.foldl_ext _ _ _ fun m k _ => ?_
  rw [hrun]
  cases hload : x.load <;> simp [srcOf, dstOf, hload]

section Runs

variable {d n : Nat}

/-- A piece lies in its run. -/
theorem runPieces_within {pc : Nat × Nat} (h : pc ∈ runPieces d n) {i : Nat} (hi : i < pc.2) : pc.1 + i < n := by
  rw [runPieces, List.mem_map] at h
  obtain ⟨j, -, rfl⟩ := h
  simp only at hi ⊢
  omega

/-- Every byte of a run lies in one of its pieces. -/
theorem runPieces_cover {i : Nat} (hi : i < n) : ∃ pc ∈ runPieces d n, pc.1 ≤ i ∧ i < pc.1 + pc.2 := by
  refine ⟨_, List.mem_map_of_mem (a := (d + i) / 4096 - d / 4096) (List.mem_range.mpr (by omega)), ?_, ?_⟩
  · simp only
    omega
  · simp only
    omega

end Runs

section Moves

variable {x : Xfer} {glitch : Bool} {p : Carry}

/-- A move copies bytes of one run. -/
theorem mem_xferMoves (h : p ∈ xferMoves x glitch) : ∃ k o, k < x.sgen.yield ∧ p.src = srcOf x k o ∧ p.dst = dstOf x k o ∧
    ∀ i, i < p.len → o + i < x.run := by
  obtain ⟨k, hk, hp⟩ := List.mem_flatMap.mp h
  obtain ⟨pc, hpc, rfl⟩ := List.mem_map.mp hp
  exact ⟨k, pc.1, List.mem_range.mp hk, rfl, rfl, fun i hi => runPieces_within hpc hi⟩

/-- Every byte of every run is moved. -/
theorem xferMoves_cover (x : Xfer) (glitch : Bool) {k i : Nat} (hk : k < x.sgen.yield) (hi : i < x.run) :
    ∃ p ∈ xferMoves x glitch, ∃ j, j < p.len ∧ dstOf x k i = p.dst + j ∧ srcOf x k i = p.src + j := by
  obtain ⟨pc, hpc, hlo, hhi⟩ := runPieces_cover (d := dstOf x k 0) hi
  refine ⟨_, List.mem_flatMap.mpr ⟨k, List.mem_range.mpr hk, List.mem_map_of_mem hpc⟩, i - pc.1, by simp only; omega, ?_, ?_⟩
  · simp only [dstOf]
    omega
  · simp only [srcOf]
    omega

end Moves

/-! ## What a move leaves, and the bytes it carries -/

section Move

variable (m : State) (x : Xfer) (p : Carry)

theorem State.move_cases : ∃ u t : State, ∃ psn : Nat → Nat → Bool, ∃ tag : Nat, Accessed m u ∧
    t = u.store x.stn p.dst (m.bytes p.src p.len) psn x.ch ∧ (m.move x p = t ∨ m.move x p = t.setTag p.dst tag) := by
  unfold State.move State.movePiece
  extract_lets u bs whole tag c psn t
  have hu : Accessed m u := accessed_touch m _ _ _ _ _
  have hc : Accessed m c.2 := by
    unfold c
    split
    · exact accessed_trans hu (accessed_tagCheck _ _ _ _ _ _ _ _ _ _)
    · exact hu
  have hbs : bs = m.bytes p.src p.len := by
    have hmem : u.mem = m.mem := hu.2.1
    unfold bs
    rw [State.bytes, State.bytes, hmem]
  refine ⟨c.2, t, psn, tag, hc, by rw [← hbs], ?_⟩
  cases whole with
  | false => exact .inl rfl
  | true => exact .inr rfl

/-- A move puts the bytes it reads at their places; but for tags it changes no other (R98, R301). -/
theorem State.byte_move {a : Nat} (ha : inTagArea a = false) :
    ((m.move x p).byte a = m.byte (p.src + (a - p.dst)) ∧ p.writes a) ∨ ((m.move x p).byte a = m.byte a ∧ ¬ p.writes a) := by
  obtain ⟨u, t, psn, tag, hu, ht, hmove⟩ := m.move_cases x p
  have hbyte : (m.move x p).byte a = t.byte a := by
    rcases hmove with h | h
    · rw [h]
    · rw [h, State.byte_setTag _ _ _ ha]
  have hlen : (m.bytes p.src p.len).length = p.len := by rw [State.bytes_eq, List.length_map, List.length_range]
  rw [hbyte, ht, State.byte_store _ _ _ _ _ _ ha, hlen]
  by_cases hw : p.writes a
  · refine .inl ⟨?_, hw⟩
    obtain ⟨hlo, hhi⟩ := hw
    rw [if_pos ⟨hlo, hhi⟩, State.bytes_eq]
    simp [List.getD_eq_getElem?_getD, show a - p.dst < p.len by omega]
  · exact .inr ⟨(if_neg hw).trans (hu.sameMemory a).1, hw⟩

/-- Registers of stations, sequencers and counters, and all that is neither memory nor its record, stand. -/
theorem State.move_leaves : m.MemOnly (m.move x p) ∧ ∀ o, LowReg o → (m.move x p).reg o = m.reg o := by
  obtain ⟨u, t, psn, tag, hu, ht, hmove⟩ := m.move_cases x p
  have honly : m.MemOnly t := ht ▸ hu.1.trans (.store u _ _ _ _ _)
  have hreg (o : Nat) (ho : LowReg o) : t.reg o = m.reg o := by rw [ht, State.reg_store_low _ _ _ _ _ _ ho, hu.reg ho]
  rcases hmove with h | h
  · rw [h]
    exact ⟨honly, hreg⟩
  · rw [h]
    refine ⟨honly.trans (.setTag t _ _), fun o ho => ?_⟩
    rw [State.setTag_frame]
    exact hreg o ho

end Move

/-! ## Moves in a row -/

section Copies

variable {x : Xfer} {l : List Carry}

/-- No move reads what one of them writes, none touches a tag, and what two write alike comes from one place. -/
structure Separate (l : List Carry) : Prop where
  reads : ∀ p ∈ l, ∀ r ∈ l, ∀ i, i < p.len → ¬ r.writes (p.src + i)
  tags : ∀ p ∈ l, ∀ i, i < p.len → inTagArea (p.src + i) = false ∧ inTagArea (p.dst + i) = false
  agree : ∀ p ∈ l, ∀ r ∈ l, ∀ i j, i < p.len → j < r.len → p.dst + i = r.dst + j → p.src + i = r.src + j

theorem Separate.tail {p : Carry} (h : Separate (p :: l)) : Separate l where
  reads r hr o ho := h.reads r (.tail _ hr) o (.tail _ ho)
  tags r hr := h.tags r (.tail _ hr)
  agree r hr o ho := h.agree r (.tail _ hr) o (.tail _ ho)

/-- What no move writes stands, but for tags. -/
theorem byte_moves_other (m : State) {a : Nat} (ha : inTagArea a = false) (h : ∀ p ∈ l, ¬ p.writes a) :
    (l.foldl (fun m p => m.move x p) m).byte a = m.byte a := by
  refine foldl_keeps (v := fun m => m.byte a) (fun m p hp => ?_) m
  rcases m.byte_move x p ha with ⟨-, hw⟩ | ⟨hbyte, -⟩
  · exact absurd hw (h p hp)
  · exact hbyte

/-- What the moves carry stands at its places. -/
theorem byte_moves (m : State) (h : Separate l) : ∀ p ∈ l, ∀ i, i < p.len → (l.foldl (fun m p => m.move x p) m).byte (p.dst + i) = m.byte (p.src + i) := by
  induction l generalizing m with
  | nil => exact fun p hp => absurd hp List.not_mem_nil
  | cons r l ih =>
    have hread (p : Carry) (hp : p ∈ r :: l) (i : Nat) (hi : i < p.len) : (m.move x r).byte (p.src + i) = m.byte (p.src + i) := by
      rcases m.byte_move x r (h.tags p hp i hi).1 with ⟨-, hw⟩ | ⟨hbyte, -⟩
      · exact absurd hw (h.reads p hp r List.mem_cons_self i hi)
      · exact hbyte
    intro p hp i hi
    rw [List.foldl_cons]
    by_cases hlater : ∃ o ∈ l, o.writes (p.dst + i)
    · obtain ⟨o, ho, hlo, hhi⟩ := hlater
      have hplace : o.dst + (p.dst + i - o.dst) = p.dst + i := by omega
      have hlt : p.dst + i - o.dst < o.len := by omega
      have hsrc := h.agree p hp o (.tail _ ho) i _ hi hlt hplace.symm
      have hcopy := ih (m.move x r) h.tail o ho _ hlt
      rw [hplace] at hcopy
      rw [hcopy, hread o (.tail _ ho) _ hlt, ← hsrc]
    · have hnone : ∀ o ∈ l, ¬ o.writes (p.dst + i) := fun o ho hw => hlater ⟨o, ho, hw⟩
      obtain rfl : p = r := (List.mem_cons.mp hp).resolve_right fun hpl => hnone p hpl ⟨by omega, by omega⟩
      rw [byte_moves_other _ (h.tags p hp i hi).2 hnone]
      rcases m.byte_move x p (h.tags p hp i hi).2 with ⟨hbyte, -⟩ | ⟨-, hw⟩
      · rw [hbyte, Nat.add_sub_cancel_left]
      · exact absurd ⟨by omega, by omega⟩ hw

/-- A transfer whose copy is clean has such moves. -/
theorem separate_xferMoves (h : CleanCopy x) (glitch : Bool) : Separate (xferMoves x glitch) := by
  obtain ⟨hreads, honce, htags⟩ := h
  refine ⟨fun p hp r hr i hi => ?_, fun p hp i hi => ?_, fun p hp r hr i j hi hj he => ?_⟩
  · obtain ⟨k, o, hk, hsrc, -, hin⟩ := mem_xferMoves hp
    obtain ⟨k', o', hk', -, hdst, hin'⟩ := mem_xferMoves hr
    rintro ⟨hlo, hhi⟩
    refine hreads k (o + i) k' (o' + (p.src + i - r.dst)) hk (hin i hi) hk' (hin' _ (by omega)) ?_
    simp only [srcOf, dstOf] at hsrc hdst ⊢
    omega
  · obtain ⟨k, o, hk, hsrc, hdst, hin⟩ := mem_xferMoves hp
    have hfree := htags k (o + i) hk (hin i hi)
    rw [hsrc, hdst]
    simp only [srcOf, dstOf, Nat.add_assoc] at hfree ⊢
    exact hfree
  · obtain ⟨k, o, hk, hsrc, hdst, hin⟩ := mem_xferMoves hp
    obtain ⟨k', o', hk', hsrc', hdst', hin'⟩ := mem_xferMoves hr
    obtain ⟨rfl, hoff⟩ := honce k (o + i) k' (o' + j) hk (hin i hi) hk' (hin' j hj) (by simp only [dstOf] at hdst hdst' ⊢; omega)
    simp only [srcOf] at hsrc hsrc'
    omega

/-- Every byte of every run of a clean copy is at its destination once all is moved. -/
theorem byte_moveAll (m : State) (h : CleanCopy x) (glitch : Bool) {k i : Nat} (hk : k < x.sgen.yield) (hi : i < x.run) :
    (m.moveAll x glitch).byte (dstOf x k i) = m.byte (srcOf x k i) := by
  obtain ⟨p, hp, j, hj, hdst, hsrc⟩ := xferMoves_cover x glitch hk hi
  rw [m.moveAll_eq, hdst, hsrc]
  exact byte_moves m (separate_xferMoves h glitch) p hp j hj

theorem byte_moveAll_other (m : State) (glitch : Bool) {a : Nat} (ha : inTagArea a = false)
    (h : ∀ k i, k < x.sgen.yield → i < x.run → a ≠ dstOf x k i) : (m.moveAll x glitch).byte a = m.byte a := by
  rw [m.moveAll_eq]
  refine byte_moves_other m ha fun p hp ⟨hlo, hhi⟩ => ?_
  obtain ⟨k, o, hk, -, hdst, hin⟩ := mem_xferMoves hp
  refine h k (o + (a - p.dst)) hk (hin _ (by omega)) ?_
  simp only [dstOf] at hdst ⊢
  omega

theorem moveAll_leaves (m : State) (x : Xfer) (glitch : Bool) :
    m.MemOnly (m.moveAll x glitch) ∧ ∀ o, LowReg o → (m.moveAll x glitch).reg o = m.reg o := by
  rw [m.moveAll_eq]
  exact ⟨State.MemOnly.foldl (fun m p => (m.move_leaves x p).1) _ m,
    fun o ho => foldl_keeps (v := fun m => m.reg o) (fun m p _ => (m.move_leaves x p).2 o ho) m⟩

end Copies

/-! ## LDT_COMPLETE and STT_COMPLETE (R98) -/

section Complete

variable {s : State} {x : Xfer}

/-- What a completed transfer leaves of m: it is no longer outstanding, its counter and its sequencer count it. -/
def State.xferEnd (m : State) (x : Xfer) : State :=
  (({ m with xfers := m.xfers.filter (fun y => decide (y.id ≠ x.id)) }).ctrDone x.stn x.ctr x.cen (0x10 + x.q)).cmdDone x.stn x.q x.id

theorem exec_complete (s : State) (x : Xfer) : exec (if x.load then .ldtComplete x.id false else .sttComplete x.id) s =
    .next (s.xferDone x.id x.load false).landed := by
  cases x.load <;> rfl

theorem State.xferDone_local (hsafe : s.safe = false) (hx : s.xfer? x.id = some x) (hnode : x.node = s.nodeId) :
    s.xferDone x.id x.load false = if s.xferHeld x then s else (s.moveAll x false).xferEnd x := by
  rw [State.xferDone, hx]
  simp only [hsafe, hnode, ne_eq, not_true_eq_false, Bool.false_eq_true, or_self, if_false, if_true]
  rfl

/-- CMD_DONE lies behind the counters. -/
theorem State.reg_cmdDone_low (m : State) (n q id : Nat) {o : Nat} (ho : o < 0xC_0000) : (m.cmdDone n q id).reg o = m.reg o := by
  unfold State.cmdDone
  split
  · exact State.reg_bump_other _ (Reg.seq_CMD_DONE q n) _ (by simp only [Reg.seq_CMD_DONE]; omega)
  · rfl

theorem regsOnly_cmdDone (m : State) (n q id : Nat) : RegsOnly m (m.cmdDone n q id) := by
  unfold State.cmdDone
  split
  · exact regsOnly_setFld _ _ _
  · rfl

/-- A counter's taking stands where the registers below the sequencers' do. -/
theorem counterTakes_then {s t u : State} {i : Nat} {r : Int} (hi : i < 4096) (h : CounterTakes s t i r) (hreg : ∀ o, o < 0xC_0000 → u.reg o = t.reg o) :
    CounterTakes s u i r := by
  obtain ⟨hvalue, hothers, hlimits, hover, hunder⟩ := h
  have hv (j : Nat) (hj : j < 4096) : u.reg (Reg.tmb_VALUE j).off = t.reg (Reg.tmb_VALUE j).off :=
    hreg _ (by simp only [Reg.tmb_VALUE]; omega)
  have hval (j : Nat) (hj : j < 4096) : u.ctrValue j = t.ctrValue j := State.fld_eq_of_reg (hv j hj)
  have hlim (j : Nat) (hj : j < 4096) : u.ctrLimit j = t.ctrLimit j := State.fld_eq_of_reg (f := Reg.tmb_LIMIT j) (hv j hj)
  refine ⟨by rw [hval i hi]; exact hvalue, fun j hj hne => (hval j hj).trans (hothers j hj hne), fun j hj => (hlim j hj).trans (hlimits j hj),
    fun h => ?_, fun h => ?_⟩
  · rw [State.fld_eq_of_reg (hreg _ (by simp only [Reg.tmb_OVF]; omega))]
    exact hover h
  · rw [State.fld_eq_of_reg (hreg _ (by simp only [Reg.tmb_UNF]; omega))]
    exact hunder h

theorem State.ctrDone_frame (m : State) (n ctr : Nat) (cen : Bool) (master : Nat) : CounterOnly m (m.ctrDone n ctr cen master) := by
  unfold State.ctrDone
  split
  · exact counterOnly_ctrOp _ _ _ _
  · rfl

/-- The end of a transfer changes its list, its counter and CMD_DONE. -/
theorem State.xferEnd_leaves (m : State) (x : Xfer) : (m.xferEnd x).mem = m.mem ∧ (m.xferEnd x).xfers = m.xfers.filter (fun y => decide (y.id ≠ x.id)) := by
  have hctr : _ = _ := State.ctrDone_frame { m with xfers := m.xfers.filter (fun y => decide (y.id ≠ x.id)) } x.stn x.ctr x.cen (0x10 + x.q)
  have hcmd : m.xferEnd x = _ := regsOnly_cmdDone _ x.stn x.q x.id
  rw [hcmd, hctr]
  exact ⟨rfl, rfl⟩

/-- A completion under CEN counts one more (R278). -/
theorem counterTakes_ctrDone {m : State} {n c : Nat} (master : Nat) (hreg : ∀ o, LowReg o → m.reg o = s.reg o) (hfit : CountersFit s) (hn : n < 8)
    (hc : c < s.ctrNum n) : CounterTakes s (m.ctrDone n c true master) (s.ctrBase n + c) ((s.ctrValue (s.ctrBase n + c) : Int) + 1) := by
  have hi : s.ctrBase n + c < 4096 := by
    have := hfit n hn
    omega
  have hbase : m.ctrBase n = s.ctrBase n :=
    congrArg (64 * ·) (State.fld_eq_of_reg (f := Reg.sys_CNT_BASE n) (hreg _ (by simp only [LowReg, Reg.sys_CNT_BASE]; omega)))
  have hvalues (j : Nat) (hj : j < 4096) : m.reg (Reg.tmb_VALUE j).off = s.reg (Reg.tmb_VALUE j).off :=
    hreg _ (by simp only [LowReg, Reg.tmb_VALUE]; omega)
  have hvalue : m.ctrValue (s.ctrBase n + c) = s.ctrValue (s.ctrBase n + c) := State.fld_eq_of_reg (f := Reg.tmb_VALUE _) (hvalues _ hi)
  rw [State.ctrDone, if_pos rfl]
  simp only [hbase, hvalue]
  exact counterTakes_of_regs hi hvalues (counterTakes_ctrOp m _ _ master hi)

/-- The end of a transfer counts it under CEN, and touches no counter without (R98, R278). -/
theorem xferEnd_counts {m : State} (hreg : ∀ o, LowReg o → m.reg o = s.reg o) (hfit : CountersFit s) (hn : x.stn < 8) (hc : x.ctr < s.ctrNum x.stn) :
    (x.cen = true → CounterTakes s (m.xferEnd x) (s.ctrBase x.stn + x.ctr) ((s.ctrValue (s.ctrBase x.stn + x.ctr) : Int) + 1)) ∧
    (x.cen = false → ∀ j, j < 4096 → (m.xferEnd x).ctrValue j = s.ctrValue j) := by
  have hi : s.ctrBase x.stn + x.ctr < 4096 := by
    have := hfit x.stn hn
    omega
  generalize hu : { m with xfers := m.xfers.filter (fun y => decide (y.id ≠ x.id)) } = u
  have hend : m.xferEnd x = (u.ctrDone x.stn x.ctr x.cen (0x10 + x.q)).cmdDone x.stn x.q x.id := by rw [State.xferEnd, hu]
  have hureg (o : Nat) (ho : LowReg o) : u.reg o = s.reg o := hu ▸ hreg o ho
  have hlast (t : State) (o : Nat) (ho : o < 0xC_0000) : (t.cmdDone x.stn x.q x.id).reg o = t.reg o := t.reg_cmdDone_low _ _ _ ho
  rw [hend]
  refine ⟨fun hcen => ?_, fun hcen j hj => ?_⟩
  · rw [hcen]
    exact counterTakes_then hi (counterTakes_ctrDone _ hureg hfit hn hc) (hlast _)
  · have hoff : (Reg.tmb_VALUE j).off < 0xC_0000 ∧ LowReg (Reg.tmb_VALUE j).off := by
      simp only [LowReg, Reg.tmb_VALUE]
      omega
    rw [hcen]
    exact State.fld_eq_of_reg (f := Reg.tmb_VALUE j) ((hlast _ _ hoff.1).trans (hureg _ hoff.2))

end Complete

/-- Settles O17: at issue by induction over the requests that a remote transfer sends; at its end by induction over the moves,
of which none reads what another writes. -/
theorem transfers : Obligations.Transfers := by
  unfold Obligations.Transfers
  constructor
  · intro s n q w load h f sg dg x waits hok hold
    rw [exec_transfer, State.issueLocal_eq h]
    refine ⟨fun hw => ?_, fun hw => ?_⟩
    · rw [State.issueXfer_waits hok hw]
      rfl
    · obtain ⟨t, y, ht, hxfers, hsame, hlocal, hrest⟩ := transfer_issues h.2.1 (x := s.xferOf n q load w) rfl q.isLt hold
      rw [State.issueXfer_goes hok hw]
      exact ⟨t, y, congrArg _ ht, hxfers, hsame, hlocal, hrest⟩
  · intro s x hsafe hx hnode hclean hfit hn hc
    rw [exec_complete, State.xferDone_local hsafe hx hnode]
    refine ⟨fun hheld => by rw [if_pos hheld]; rfl, fun hheld => ?_⟩
    rw [if_neg (by rw [hheld]; exact Bool.false_ne_true)]
    obtain ⟨honly, hreg⟩ := moveAll_leaves s x false
    obtain ⟨hmem, hxfers⟩ := (s.moveAll x false).xferEnd_leaves x
    have hbyte (a : Nat) : ((s.moveAll x false).xferEnd x).landed.byte a = (s.moveAll x false).byte a :=
      congrArg (fun mem => SMap.get memZero mem a) hmem
    obtain ⟨hcounted, hkept⟩ := xferEnd_counts hreg hfit hn hc
    have hlist : (s.moveAll x false).xfers = s.xfers := by
      have e : s.moveAll x false = _ := honly
      rw [e]
      rfl
    refine ⟨_, rfl, fun k i hk hi => (hbyte _).trans (byte_moveAll s hclean false hk hi),
      fun a ha hno => (hbyte a).trans (byte_moveAll_other s false ha hno), hxfers.trans (by rw [hlist]), hcounted, hkept⟩

end Sys2Proof.Machine

/-! Commands of one sequencer that touch its own state alone: NOP, AGL, AGH, LPG and FEN (R95, R103, R107, R137). -/

namespace Sys2Proof.Machine

open Sys2Proof.Spec

-- One proof at a time: side by side, their threads take more memory than the check has.
set_option Elab.async false

/-! ## A sequencer that moves on beside another change -/

section Beside

variable {s m : State} {n q : Nat}

theorem State.pc_eq_of_regs (hreg : m.regs = s.regs) (hover : m.pcOver = s.pcOver) (j p : Nat) : m.pc j p = s.pc j p :=
  State.pc_congr (by rw [State.fld, State.fld, State.reg, State.reg, hreg]) hover

/-- A move from a state with the sequencers of s moves the sequencer of s on, and changes nothing else of the sequencers. -/
theorem moved_beside (hn : n < 8) (hq : q < 4) (hb : s.inBounds n q = true) (hreg : m.regs = s.regs) (hover : m.pcOver = s.pcOver) :
    Advanced s (m.advance n q true) n q ∧ PcsBut s (m.advance n q true) n [q] ∧
      BitsBut s (m.advance n q true) [Reg.seq_PC q n, Reg.seq_CMD_DONE q n] := by
  have hfld (f : Fld) : m.fld f = s.fld f := by rw [State.fld, State.fld, State.reg, State.reg, hreg]
  have hpc := State.pc_eq_of_regs hreg hover
  have hin : m.inBounds n q = true := by
    rw [State.inBounds, State.rcpWin] at hb ⊢
    rwa [hpc, hfld (Reg.seq_RLEN q n)]
  obtain ⟨hat, hdone⟩ := State.advanced_advance hin
  refine ⟨⟨hat.trans (by rw [hpc]), ?_⟩, fun j p hj hp h => ?_, bitsBut_trans (bitsBut_of_regs hreg) (m.bitsBut_advance n q true)⟩
  · rwa [Counted, hfld] at hdone
  · exact (m.pcsBut_advance true hn hq j p hj hp h).trans (hpc j p)

end Beside

/-! ## The generators (R95) -/

theorem exec_ag (hi : Bool) (n : Stn) (q : Quad) (s : State) : exec (if hi then .agh n q else .agl n q) s =
    .next (s.issueLocal n q (if hi then 0x09 else 0x08) false (fun m w => m.issueAg n q (if hi then 3 else 0) w)) := by
  cases hi <;> rfl

theorem exec_lpg (n : Stn) (q : Quad) (s : State) :
    exec (.lpg n q) s = .next (s.issueLocal n q 0x20 false (fun m w => m.issueLpg n q w)) := rfl

theorem exec_fen (n : Stn) (q : Quad) (s : State) :
    exec (.fen n q) s = .next (s.issueLocal n q 0x50 false (fun m w => m.issueFen n q w)) := rfl

/-- s with generator slot g of a station on quadrant q holding v. -/
def State.setGen (s : State) (q n g : Nat) (v : GenSlot) : State :=
  { s with gens := s.gens.set (fun _ => .reset) (512 * q + 64 * n + g) v }

/-- A word whose counts are all above 0 writes its levels (R95). -/
theorem State.issueAg_goes (s : State) (n q j : Nat) {w : Nat} (h : ∀ l ∈ levelsOf w, l.count ≠ 0) : s.issueAg n q j w =
    .go ((s.setGen q n (bitsOf w 37 32) ((s.gen q n (bitsOf w 37 32)).setLevels j (levelsOf w))).advance n q true) := by
  have hcounts : ¬ (agLevels w).any (fun l => decide (l.count = 0)) = true := by
    rw [List.any_eq_true]
    rintro ⟨l, hl, h0⟩
    exact h l hl (of_decide_eq_true h0)
  rw [State.issueAg]
  exact if_neg hcounts

/-- The slot whose levels a word writes, and the others (R95). -/
theorem State.gens_setGen (s : State) (q n g : Nat) (v : GenSlot) : (s.setGen q n g v).gen q n g = v ∧
    ∀ k, k ≠ 512 * q + 64 * n + g → (s.setGen q n g v).gens.get (fun _ => .reset) k = s.gens.get (fun _ => .reset) k :=
  ⟨SMap.get_set_same _ _ _ _, fun _ hk => SMap.get_set_other _ _ _ hk⟩

/-- AGL and AGH at issue (R95). -/
theorem ag_writes {s : State} {n : Stn} {q : Quad} (hb : s.inBounds n q = true) (g : Nat) (v : GenSlot) :
    let t := (s.setGen q n g v).advance n q true
    Advanced s t n q ∧ PcsBut s t n [q] ∧ BitsBut s t [Reg.seq_PC q n, Reg.seq_CMD_DONE q n] ∧
      t = { s with regs := t.regs, gens := t.gens, pcOver := t.pcOver } ∧ t.gen q n g = v ∧
      ∀ k, k ≠ 512 * q.val + 64 * n.val + g → t.gens.get (fun _ => .reset) k = s.gens.get (fun _ => .reset) k := by
  intro t
  obtain ⟨hadv, hpcs, hbits⟩ := moved_beside (m := s.setGen q n g v) n.isLt q.isLt hb rfl rfl
  obtain ⟨hslot, hothers⟩ := s.gens_setGen q n g v
  have hframe : t = _ := State.advance_frame _ n q true
  have hgens : t.gens = (s.setGen q n g v).gens := by rw [hframe]
  refine ⟨hadv, hpcs, hbits, ?_, ?_, fun k hk => ?_⟩
  · rw [hgens]
    exact hframe
  · rw [State.gen, hgens]
    exact hslot
  · rw [hgens]
    exact hothers k hk

/-! ## LPG (R103) -/

section Lpg

variable {s : State} {n : Stn} {q : Quad} {w : Nat}

/-- s with the word's program in its slot of the station's set on quadrant q. -/
def State.setProgram (s : State) (n q w : Nat) : State :=
  { s with lslots := s.lslots.set (fun _ => none) (128 * q + 16 * n + bitsOf w 35 32) (some (BitVec.ofNat 192 (w >>> 64))) }

/-- A slot that no granted GOP of the station uses is filled. -/
theorem State.issueLpg_goes
    (h : ∀ g ∈ s.gops, g.stn = n.val → g.granted = true → ¬ (q.val ∈ g.f.ladles ∧ g.f.lslot = bitsOf w 35 32)) :
    s.issueLpg n q w = .go ((s.setProgram n q w).advance n q true) := by
  have hfree : ¬ s.gops.any (fun g => decide (g.stn = n) && g.granted && decide (q.val ∈ g.f.ladles ∧ g.f.lslot = bitsOf w 35 32)) = true := by
    rw [List.any_eq_true]
    rintro ⟨g, hg, huse⟩
    rw [Bool.and_eq_true, Bool.and_eq_true, decide_eq_true_eq, decide_eq_true_eq] at huse
    exact h g hg huse.1.1 huse.1.2 huse.2
  rw [State.issueLpg]
  exact if_neg hfree

theorem lpg_fills (hb : s.inBounds n q = true) (w : Nat) :
    let t := (s.setProgram n q w).advance n q true
    Advanced s t n q ∧ PcsBut s t n [q] ∧ BitsBut s t [Reg.seq_PC q n, Reg.seq_CMD_DONE q n] ∧
      t = { s with regs := t.regs, lslots := t.lslots, pcOver := t.pcOver } ∧
      ∀ k, t.lslots.get (fun _ => none) k = if k = 128 * q.val + 16 * n.val + bitsOf w 35 32
        then some (BitVec.ofNat 192 (w >>> 64)) else s.lslots.get (fun _ => none) k := by
  intro t
  obtain ⟨hadv, hpcs, hbits⟩ := moved_beside (m := s.setProgram n q w) n.isLt q.isLt hb rfl rfl
  have hframe : t = _ := State.advance_frame _ n q true
  have hslots : t.lslots = (s.setProgram n q w).lslots := by rw [hframe]
  refine ⟨hadv, hpcs, hbits, ?_, fun k => ?_⟩
  · rw [hslots]
    exact hframe
  · rw [hslots]
    exact SMap.get_set _ _ _ _ _

end Lpg

/-! ## FEN (R107) -/

section Fen

variable {s : State} {n : Stn} {q : Quad} {w : Nat}

/-- A fence that opens moves its sequencer on, and marks the launch where one of its bits is set. -/
theorem State.issueFen_goes {l : Launch} (hl : s.launch n = some l) (h : s.fenceOpen n q w = true) : s.issueFen n q w =
    .go (if bitsOf w 37 32 ≠ 0 then (s.advance n q true).setLaunch n (some { l with fenced := true }) else s.advance n q true) := by
  have hlaunch : (s.advance n q true).launch n = some l := (State.launch_congr (by rw [s.advance_frame n q true]) n).trans hl
  rw [State.issueFen, h, Bool.not_true, if_neg Bool.false_ne_true]
  dsimp only
  rw [hlaunch]

theorem fen_moves {l : Launch} (hl : s.launch n = some l) (hb : s.inBounds n q = true) (w : Nat) :
    let t := if bitsOf w 37 32 ≠ 0 then (s.advance n q true).setLaunch n (some { l with fenced := true }) else s.advance n q true
    Advanced s t n q ∧ PcsBut s t n [q] ∧ BitsBut s t [Reg.seq_PC q n, Reg.seq_CMD_DONE q n] ∧
      t = { s with regs := t.regs, launches := t.launches, pcOver := t.pcOver } ∧ (∀ k, k ≠ n.val → t.launch k = s.launch k) ∧
      t.launch n = some { l with fenced := l.fenced || decide (bitsOf w 37 32 ≠ 0) } := by
  intro t
  obtain ⟨hadv, hpcs, hbits⟩ := moved_beside (m := s) n.isLt q.isLt hb rfl rfl
  have hframe := s.advance_frame n q true
  have hkept (k : Nat) : (s.advance n q true).launch k = s.launch k := State.launch_congr (by rw [hframe]) k
  by_cases hany : bitsOf w 37 32 = 0
  · have ht : t = s.advance n q true := if_neg (not_not.mpr hany)
    have hmark : (l.fenced || decide (bitsOf w 37 32 ≠ 0)) = l.fenced := by simp [hany]
    rw [ht, hmark]
    exact ⟨hadv, hpcs, hbits, hframe, fun k _ => hkept k, (hkept n).trans hl⟩
  · have ht : t = (s.advance n q true).setLaunch n (some { l with fenced := true }) := if_pos hany
    have hmark : (l.fenced || decide (bitsOf w 37 32 ≠ 0)) = true := by simp [hany]
    have hlaunch := (s.advance n q true).launch_setLaunch n
    rw [ht, hmark]
    refine ⟨advanced_congr hadv rfl rfl, fun j p hj hp h => ?_, bitsBut_trans hbits (bitsBut_of_regs rfl), ?_, fun k hk => ?_, ?_⟩
    · exact (State.pc_eq_of_regs rfl rfl j p).trans (hpcs j p hj hp h)
    · exact congrArg (fun m => m.setLaunch n (some { l with fenced := true })) hframe
    · rw [hlaunch, if_neg hk, hkept]
    · rw [hlaunch, if_pos rfl]

end Fen

/-- Settles O11: each command is a move of its sequencer beside one write of its own, to a generator slot, a program slot or the
launch's fence mark. -/
theorem localCommands : Obligations.LocalCommands := by
  unfold Obligations.LocalCommands
  refine ⟨fun s n q w => ⟨fun h => ?_, fun hi h hcounts => ?_, fun h hfree => ?_⟩, fun s n q w h => ⟨fun hshut => ?_, fun hopen => ?_⟩⟩
  · obtain ⟨hadv, hpcs, hbits⟩ := moved_beside (m := s) n.isLt q.isLt h.2.1 rfl rfl
    rw [exec_nop, State.issueLocal_eq h]
    exact ⟨_, rfl, hadv, hpcs, hbits, s.advance_frame n q true⟩
  · have hb := h.2.1
    rw [exec_ag, State.issueLocal_eq h, s.issueAg_goes n q _ hcounts]
    obtain ⟨hadv, hpcs, hbits, hframe, hslot, hothers⟩ := ag_writes hb (bitsOf w 37 32)
      ((s.gen q n (bitsOf w 37 32)).setLevels (if hi then 3 else 0) (levelsOf w))
    refine ⟨_, rfl, hadv, hpcs, hbits, hframe, hslot.trans ?_, hothers⟩
    cases hi <;> rfl
  · have hb := h.2.1
    rw [exec_lpg, State.issueLocal_eq h, State.issueLpg_goes hfree]
    exact ⟨_, rfl, lpg_fills hb w⟩
  · rw [exec_fen, State.issueLocal_eq h, State.issueFen, hshut]
    rfl
  · obtain ⟨l, hl, -⟩ := State.launch_of_canIssue h.1
    obtain ⟨hadv, hpcs, hbits, hframe, hothers, hmark⟩ := fen_moves (q := q) hl h.2.1 w
    rw [exec_fen, State.issueLocal_eq h, State.issueFen_goes hl hopen]
    refine ⟨_, rfl, hadv, hpcs, hbits, hframe, hothers, fun l' hl' => ?_⟩
    obtain rfl : l = l' := Option.some.inj (hl.symm.trans hl')
    exact hmark

end Sys2Proof.Machine

/-! Accesses of the class that allocates (R222, R223), and the check of a range in HBM (R24). -/

namespace Sys2Proof.Machine

open Sys2Proof.Spec

-- One proof at a time: side by side, their threads take more memory than the check has.
set_option Elab.async false

/-! ## Accesses that allocate -/

section Allocating

variable (m : State)

theorem accessOnly_writeBack {c : CLine} (hn : c.stn < 8) (hs : c.slice < 48) (hc : Calm m) : AccessOnly m (m.writeBack c) := by
  have hclean : AccessOnly m { m with
      stale := m.stale.clear (256 * c.line) 256
      stalePsn := m.stalePsn.clear (8 * c.line) 8
      cache := m.cache.map (fun (x : CLine) => if x.is c.stn c.line then { x with dirty := false } else x) } :=
    accessOnly_of_eq rfl rfl rfl rfl rfl
  have hcount := accessOnly_trans hclean (accessOnly_bump _ (Reg.crk_WB_LINES (c.slice / 12) (c.slice % 12)) 1
    (by refine ⟨?_, ?_, ?_⟩ <;> simp only [Reg.crk_WB_LINES] <;> omega))
  exact accessOnly_trans hcount (accessOnly_chargeBeats _ hn _ _ (calm_of_accessOnly hcount hc))

theorem accessOnly_evict {c : CLine} (hn : c.stn < 8) (hs : c.slice < 48) (hc : Calm m) : AccessOnly m (m.evict c) := by
  unfold State.evict
  dsimp only
  split
  · exact accessOnly_trans (accessOnly_writeBack m hn hs hc) (accessOnly_of_eq rfl rfl rfl rfl rfl)
  · exact accessOnly_of_eq rfl rfl rfl rfl rfl

/-- Room for a line is made among the lines of its own station and slice. -/
theorem accessOnly_allocate {n slice : Nat} (hn : n < 8) (hs : slice < 48) (set l : Nat) (hc : Calm m) :
    AccessOnly m (m.allocate n slice set l false) := by
  unfold State.allocate
  dsimp only
  refine accessOnly_trans (t := if _ ∧ _ then _ else _) ?_ (accessOnly_of_eq rfl rfl rfl rfl rfl)
  rw [if_neg (fun h => Bool.false_ne_true h.1)]
  split
  · split
    · next c hlast =>
      have hhere := (List.mem_filter.mp (List.mem_of_getLast? hlast)).1
      obtain ⟨rfl, rfl, -⟩ := of_decide_eq_true (List.mem_filter.mp hhere).2
      exact accessOnly_evict m hn hs hc
    · exact accessOnly_refl m
  · exact accessOnly_refl m

theorem accessOnly_cacheLine_allocating {n : Nat} (hn : n < 8) (lo len : Nat) (w : Bool) (hc : Calm m) :
    AccessOnly m (m.cacheLine n lo len w 0) := by
  unfold State.cacheLine
  extract_lets l sl h page i m0 m1 n1 n2 n3
  have hhome : h.1 < 48 := cacheHome_lt n l
  split
  · exact accessOnly_direct m hn lo len w hc
  · split
    · extract_lets m2 keeps m3
      have h0 : AccessOnly m m0 := accessOnly_bump m _ 1 (by refine ⟨?_, ?_, ?_⟩ <;> simp only [Reg.crk_HITS] <;> omega)
      have h1 : m1 = m0 := by
        unfold m1
        rw [m0.senseCrock_of_calm (calm_of_accessOnly h0 hc), ite_self]
      have h2 : AccessOnly m1 m2 := by
        unfold m2
        split
        · exact accessOnly_of_eq (.setAside _ _) rfl rfl rfl rfl
        · exact accessOnly_refl _
      have h3 : m3 = m2 := if_neg fun h => absurd h.1 (by decide)
      rw [h3]
      exact accessOnly_trans (accessOnly_trans h0 (h1 ▸ h2)) (accessOnly_of_eq rfl rfl rfl rfl rfl)
    · have h1 : AccessOnly m n1 := accessOnly_bump m _ 1 (by refine ⟨?_, ?_, ?_⟩ <;> simp only [Reg.crk_MISSES] <;> omega)
      have halloc := accessOnly_trans h1 (accessOnly_allocate n1 hn hhome h.2 l (calm_of_accessOnly h1 hc))
      have h2 : AccessOnly m n2 := accessOnly_trans halloc (accessOnly_direct _ hn _ _ _ (calm_of_accessOnly halloc hc))
      rw [if_neg (by decide)]
      split
      · exact accessOnly_trans h2 (accessOnly_trans (accessOnly_of_eq (t := n3) (.setAside _ l) rfl rfl rfl rfl)
          (accessOnly_of_eq rfl rfl rfl rfl rfl))
      · exact h2

/-- Memory on the die changes by no access, and with no injection armed none of its reads is met. -/
theorem State.touch_of_onDie (hc : Calm m) (n : Nat) {a : Nat} (ha : isHbm a = false) (len : Nat) (w : Bool) (cls : Nat) :
    m.touch n a len w cls = m := by
  unfold State.touch
  rw [ha]
  simp only [m.senseCrock_of_calm hc, m.senseSram_of_calm hc, Bool.not_false, if_true]
  repeat' split
  all_goals rfl

theorem accessOnly_touch_allocating {n : Nat} (hn : n < 8) (a len : Nat) (w : Bool) (hc : Calm m) :
    AccessOnly m (m.touch n a len w 0) := by
  cases ha : isHbm a with
  | false =>
    rw [m.touch_of_onDie hc n ha]
    exact accessOnly_refl m
  | true =>
    unfold State.touch
    rw [ha]
    split
    · exact accessOnly_refl m
    · rw [Bool.not_true, if_neg Bool.false_ne_true]
      split
      · exact accessOnly_direct m hn a len w hc
      · exact accessOnly_foldl _ (fun m i _ h => accessOnly_cacheLine_allocating m hn _ _ w h) hc

end Allocating

/-! ## Ranges of HBM (R24) -/

section HbmRange

variable {s t : State}

/-- [a, a + len) begins and ends in HBM that station n holds, outside the tag areas. -/
def HbmHeld (s : State) (n a len : Nat) : Prop :=
  ∃ g h, regionOf a = .hbm g ∧ regionOf (a + len - 1) = .hbm h ∧ inTagArea a = false ∧ inTagArea (a + len - 1) = false ∧
    s.gibStn g = some n ∧ s.gibStn h = some n

theorem regionOf_of_isHbm {a : Nat} (h : isHbm a = true) : regionOf a = .hbm (a / 2 ^ 30) ∨ regionOf a = .reserve := by
  have ha : a < 0x280_0000_0000 := of_decide_eq_true h
  by_cases hlow : a < 0x27F_0000_0000
  · exact .inl (if_pos hlow)
  · exact .inr ((if_neg hlow).trans (if_pos ha))

theorem lt_of_regionOf_hbm {a g : Nat} (h : regionOf a = .hbm g) : a < 0x27F_0000_0000 := by
  simp only [regionOf, ite_eq_iff, reduceCtorEq, and_false, or_false] at h
  omega

/-- An access that begins in HBM is served where a station holds both its ends. -/
theorem State.check_hbm_iff {n a len : Nat} (h : isHbm a = true) (hl : a + len ≤ 2 ^ 44) (w : Bool) :
    s.check (some n) a len w = .ok ↔ HbmHeld s n a len := by
  have hend : unitEnd a = 2 ^ 44 := by rcases regionOf_of_isHbm h with hr | hr <;> simp only [unitEnd, hr]
  rw [State.check, hend, if_pos hl, State.checkUnit, HbmHeld]
  rcases regionOf_of_isHbm h with hr | hr
  · rw [hr]
    cases regionOf (a + len - 1) with
    | hbm k => simp [ite_eq_iff, and_assoc]
    | _ => simp
  · rw [hr]
    cases regionOf (a + len - 1) <;> simp

/-- Who holds HBM is told by the stations' grants. -/
theorem State.gibStn_of_grants (hreg : ∀ o, o < 0x1_0000 → 0x100 ≤ o → t.reg o = s.reg o) (g : Nat) : t.gibStn g = s.gibStn g := by
  refine findRange_congr fun n hn => congrArg₂ (· && ·) ?_ (anyRange_congr fun k hk => ?_)
  · exact State.flag_eq_of_reg (hreg _ (by simp only [Reg.sys_EN]; omega) (by simp only [Reg.sys_EN]; omega))
  · have hrange : t.reg (Reg.sys_VALID n k).off = s.reg (Reg.sys_VALID n k).off :=
      hreg _ (by simp only [Reg.sys_VALID]; omega) (by simp only [Reg.sys_VALID]; omega)
    rw [State.rangeHas, State.rangeHas, State.flag_eq_of_reg hrange, State.fld_eq_of_reg (f := Reg.sys_BASE_GIB n k) hrange,
      State.fld_eq_of_reg (f := Reg.sys_LAST_GIB n k) hrange]

theorem hbmHeld_of_grants (hreg : ∀ o, o < 0x1_0000 → 0x100 ≤ o → t.reg o = s.reg o) {n a len : Nat} :
    HbmHeld t n a len ↔ HbmHeld s n a len := by
  simp only [HbmHeld, State.gibStn_of_grants hreg]

/-- A tag area is longer than the range: none lies between two ends outside. -/
theorem HbmHeld.noTags {n a len : Nat} (h : HbmHeld s n a len) (hl : len ≤ 0x20_0000) : NoTags a len := by
  obtain ⟨g, k, hg, hk, hfirst, hlast, -⟩ := h
  have ha := lt_of_regionOf_hbm hg
  have hb := lt_of_regionOf_hbm hk
  intro i hi
  simp only [inTagArea, isHbm, Bool.and_eq_false_iff, decide_eq_false_iff_not] at hfirst hlast ⊢
  omega

/-- A range that ends in HBM lies in HBM. -/
theorem HbmHeld.end_le {n a len : Nat} (h : HbmHeld s n a len) : a + len ≤ 0x27F_0000_0000 := by
  obtain ⟨g, k, -, hk, -⟩ := h
  have := lt_of_regionOf_hbm hk
  omega

end HbmRange

end Sys2Proof.Machine

/-! What the end of a COMMIT shows and counts, and the blocks that it closes (R126, R131). -/

namespace Sys2Proof.Machine

open Sys2Proof.Spec

-- One proof at a time: side by side, their threads take more memory than the check has.
set_option Elab.async false

/-! ## State bytes of Stockpot blocks (R126) -/

section BlockStates

variable {q : Nat}

theorem spByte_bounds (q b : Nat) : (spByte q b).lo ≤ (spByte q b).hi ∧ (spByte q b).hi < 64 ∧
    (spByte q b).hi + 1 - (spByte q b).lo = 8 := by
  simp only [spByte]
  omega

/-- State bytes of two blocks share no bit. -/
theorem spByte_apart {b c : Nat} (h : c ≠ b) : (spByte q c).off ≠ (spByte q b).off ∨ (spByte q b).hi < (spByte q c).lo ∨
    (spByte q c).hi < (spByte q b).lo := by
  simp only [spByte, Reg.ldl_SP_BLK]
  omega

theorem State.fld_spByte_lt (m : State) (q b : Nat) : m.fld (spByte q b) < 256 := by
  have h := m.fld_lt (spByte q b)
  rwa [(spByte_bounds q b).2.2] at h

theorem State.fld_setFld_spByte (m : State) (b : Nat) {v : Nat} (hv : v < 256) : (m.setFld (spByte q b) v).fld (spByte q b) = v := by
  obtain ⟨hlo, hhi, hwidth⟩ := spByte_bounds q b
  rw [m.fld_setFld_same _ v hlo hhi, hwidth]
  exact Nat.mod_eq_of_lt hv

theorem State.fld_setFld_spByte_other (m : State) {b c : Nat} (v : Nat) (h : c ≠ b) :
    (m.setFld (spByte q b) v).fld (spByte q c) = m.fld (spByte q c) := by
  obtain ⟨hlo, hhi, -⟩ := spByte_bounds q b
  exact m.fld_setFld_other _ _ v hlo hhi (spByte_apart h)

/-- m with the state bytes of the n blocks from a on changed by g. -/
def State.mapBlocks (m : State) (q a n : Nat) (g : Nat → Nat) : State :=
  (List.range n).foldl (fun m k => m.setFld (spByte q (a + k)) (g (m.fld (spByte q (a + k))))) m

theorem State.fld_mapBlocks (m : State) (a n : Nat) {g : Nat → Nat} (hg : ∀ v, v < 256 → g v < 256) (b : Nat) :
    (m.mapBlocks q a n g).fld (spByte q b) = if a ≤ b ∧ b < a + n then g (m.fld (spByte q b)) else m.fld (spByte q b) := by
  split
  · next hin =>
    have hplace : a + (b - a) = b := by omega
    refine foldl_once (v := fun m : State => m.fld (spByte q b)) (b := b - a) List.nodup_range (List.mem_range.mpr (by omega))
      (fun m => ?_) (fun m c _ hc => ?_) m
    · rw [hplace]
      exact m.fld_setFld_spByte b (hg _ (m.fld_spByte_lt q b))
    · exact m.fld_setFld_spByte_other _ (by omega)
  · next hout =>
    refine foldl_keeps (v := fun m : State => m.fld (spByte q b)) (fun m c hc => ?_) m
    have hlt := List.mem_range.mp hc
    exact m.fld_setFld_spByte_other _ (by omega)

theorem State.regsOnly_mapBlocks (m : State) (a n : Nat) (g : Nat → Nat) : RegsOnly m (m.mapBlocks q a n g) :=
  regsOnly_foldl _ (fun _ _ => regsOnly_setFld _ _ _) m

/-- The state bytes of a quadrant's 16,384 blocks lie on its Ladle page, from offset 0x8000 on. -/
theorem spByte_off {b : Nat} (hb : b < 16384) : 0x8_8000 + 0x1_0000 * q ≤ (spByte q b).off ∧ (spByte q b).off < 0x8_C000 + 0x1_0000 * q := by
  simp only [spByte, Reg.ldl_SP_BLK]
  omega

theorem State.reg_mapBlocks_other (m : State) {a n : Nat} (h : a + n ≤ 16384) (g : Nat → Nat) {o : Nat}
    (ho : o < 0x8_8000 + 0x1_0000 * q ∨ 0x8_C000 + 0x1_0000 * q ≤ o) : (m.mapBlocks q a n g).reg o = m.reg o := by
  refine foldl_keeps (v := fun m : State => m.reg o) (fun m k hk => m.reg_setFld_other _ _ ?_) m
  have hlt := List.mem_range.mp hk
  have := spByte_off (q := q) (b := a + k) (by omega)
  omega

end BlockStates

/-! ## The end of a COMMIT (R131) -/

/-- A register of a Ladle page past its header. -/
def LadleReg (o : Nat) : Prop := 0x8_0000 ≤ o ∧ o < 0xC_0000 ∧ 0x100 ≤ o % 0x1_0000

theorem LadleReg.low {o : Nat} (h : LadleReg o) : LowReg o := ⟨by have := h.2.1; omega, h.2.2⟩

section CommitEnd

variable (m : State) (x : Spk) (status step : Nat)

/-- A COMMIT that ends is no longer outstanding, and its status register shows how it ended. -/
def State.commitShown (m : State) (x : Spk) (status step : Nat) : State :=
  let m1 := ({ m with spks := m.spks.filter (fun y => decide (y.id ≠ x.id)) }).dropBuf x.id
  let busy := m1.spks.any (fun y => decide (y.op = 1 ∧ y.stn = x.stn ∧ y.q = x.q))
  ((m1.setFld (Reg.ldl_STATUS x.q x.stn) status).setFlag (Reg.ldl_CBUSY x.q x.stn) busy).setFld (Reg.ldl_STEP x.q x.stn) step

/-- A status other than OK and RESET is reported (R131). -/
def State.commitReported (m : State) (x : Spk) (status step : Nat) : State :=
  if status = 1 ∨ status = 8 then m.commitShown x status step
  else (m.commitShown x status step).report
    { page := 0x08 + x.q, code := Code.spCommitFail, stn := some x.stn, master := 0x14 + x.q, acc := 4 }

theorem State.commitEnd_eq : m.commitEnd x status step = ((m.commitReported x status step).ctrDone x.stn x.ctr
    (x.cen && decide (status = 1)) (0x14 + x.q)).cmdDone x.stn x.q x.id := rfl

theorem State.commitShown_frame : (m.commitShown x status step).mem = m.mem ∧ (m.commitShown x status step).poison = m.poison ∧
    (m.commitShown x status step).spks = m.spks.filter (fun y => decide (y.id ≠ x.id)) := ⟨rfl, rfl, rfl⟩

theorem State.reg_commitShown_other {o : Nat} (ho : o ≠ (Reg.ldl_STATUS x.q x.stn).off) : (m.commitShown x status step).reg o = m.reg o := by
  rw [State.commitShown]
  rw [State.reg_setFld_other _ (Reg.ldl_STEP x.q x.stn) _ ho, State.setFlag, State.reg_setFld_other _ (Reg.ldl_CBUSY x.q x.stn) _ ho,
    State.reg_setFld_other _ _ _ ho]
  rfl

theorem State.fld_commitShown : (m.commitShown x status step).fld (Reg.ldl_STATUS x.q x.stn) = status % 16 ∧
    (m.commitShown x status step).fld (Reg.ldl_STEP x.q x.stn) = step % 2 ^ 32 := by
  refine ⟨?_, State.fld_setFld _ (Reg.ldl_STEP x.q x.stn) step⟩
  rw [State.commitShown]
  rw [State.fld_setFld_beside _ (Reg.ldl_STEP x.q x.stn) (Reg.ldl_STATUS x.q x.stn), State.setFlag,
    State.fld_setFld_beside _ (Reg.ldl_CBUSY x.q x.stn) (Reg.ldl_STATUS x.q x.stn)]
  exact State.fld_setFld _ (Reg.ldl_STATUS x.q x.stn) status

theorem State.accessed_commitReported : Accessed (m.commitShown x status step) (m.commitReported x status step) := by
  unfold State.commitReported
  split
  · exact accessed_refl _
  · exact accessed_report _ _

/-- A completion on a counter of the module touches no register of a Ladle. -/
theorem State.reg_ctrDone_ladle (n c : Nat) (cen : Bool) (master : Nat) (h : cen = true → m.ctrBase n + c < 4096) {o : Nat} (ho : LadleReg o) :
    (m.ctrDone n c cen master).reg o = m.reg o := by
  have hlow := ho.low
  obtain ⟨hlo, -, -⟩ := ho
  unfold State.ctrDone
  split
  · next hcen =>
    have hi := h hcen
    refine m.reg_ctrOp_other _ _ _ hlow ⟨?_, ?_⟩ ?_ ?_ ?_ <;>
      simp only [Reg.tmb_OPS, Reg.tmb_NOTIFY, Reg.tmb_VALUE, Reg.tmb_OVF, Reg.tmb_UNF] <;> omega
  · rfl

/-- Grants lie on page 0, of which the end of a COMMIT changes nothing. -/
theorem State.ctrBase_commitReported {n : Nat} (hn : n < 8) : (m.commitReported x status step).ctrBase n = m.ctrBase n := by
  refine congrArg (64 * ·) (State.fld_eq_of_reg (f := Reg.sys_CNT_BASE n) ?_)
  rw [(m.accessed_commitReported x status step).reg (by simp only [LowReg, Reg.sys_CNT_BASE]; omega)]
  exact m.reg_commitShown_other x status step (by simp only [Reg.sys_CNT_BASE, Reg.ldl_STATUS]; omega)

variable {m x status}

/-- What the end of a COMMIT leaves: its place and its status alone differ at the Stockpot, and no byte. -/
theorem commitEnd_shows (hq : x.q < 4) (hn : x.stn < 8) (hst : status < 16)
    (hctr : (x.cen && decide (status = 1)) = true → m.ctrBase x.stn + x.ctr < 4096) (step : Nat) :
    let t := m.commitEnd x status step
    t.spks = m.spks.filter (fun y => decide (y.id ≠ x.id)) ∧ t.fld (Reg.ldl_STATUS x.q x.stn) = status ∧
      t.fld (Reg.ldl_STEP x.q x.stn) = step % 2 ^ 32 ∧ SameMemory m t ∧
      ∀ b, b < 16384 → t.fld (spByte x.q b) = m.fld (spByte x.q b) := by
  intro t
  obtain ⟨hmem, hpsn, hspks⟩ := m.commitShown_frame x status step
  obtain ⟨hstatus, hstep⟩ := m.fld_commitShown x status step
  have hreported := m.accessed_commitReported x status step
  have hbase := m.ctrBase_commitReported x status step hn
  have hother (o : Nat) (ho : o ≠ (Reg.ldl_STATUS x.q x.stn).off) := m.reg_commitShown_other x status step ho
  have ht : t = _ := m.commitEnd_eq x status step
  generalize m.commitReported x status step = r at hreported hbase ht
  generalize m.commitShown x status step = v at hmem hpsn hspks hstatus hstep hreported hother
  have hctrFrame : _ = _ := r.ctrDone_frame x.stn x.ctr (x.cen && decide (status = 1)) (0x14 + x.q)
  have hcmdFrame : t = _ := ht ▸ regsOnly_cmdDone _ x.stn x.q x.id
  have hrest : t.mem = r.mem ∧ t.poison = r.poison ∧ t.spks = r.spks := by
    rw [hcmdFrame, hctrFrame]
    exact ⟨rfl, rfl, rfl⟩
  have hreg (o : Nat) (ho : LadleReg o) : t.reg o = v.reg o := by
    rw [ht, State.reg_cmdDone_low _ _ _ _ ho.2.1, r.reg_ctrDone_ladle _ _ _ _ (fun h => hbase ▸ hctr h) ho, hreported.reg ho.low]
  have hshown : LadleReg (Reg.ldl_STATUS x.q x.stn).off := by
    simp only [LadleReg, Reg.ldl_STATUS]
    omega
  obtain ⟨htmem, htpsn, htspks⟩ := hrest
  obtain ⟨honly, hrmem, hrpsn, -⟩ := hreported
  have hrspks : r.spks = v.spks := by
    have e : r = _ := honly
    rw [e]
    rfl
  refine ⟨htspks.trans (hrspks.trans hspks), ?_, ?_, memory_of_eq (htmem.trans (hrmem.trans hmem)) (htpsn.trans (hrpsn.trans hpsn)),
    fun b hb => State.fld_eq_of_reg ?_⟩
  · rw [State.fld_eq_of_reg (f := Reg.ldl_STATUS x.q x.stn) (hreg _ hshown), hstatus, Nat.mod_eq_of_lt hst]
  · rw [State.fld_eq_of_reg (f := Reg.ldl_STEP x.q x.stn) (hreg _ hshown), hstep]
  · have hoff := spByte_off (q := x.q) hb
    rw [hreg _ (by simp only [LadleReg]; omega), hother _ (by simp only [Reg.ldl_STATUS]; omega)]

/-- A COMMIT that ends OK counts one more under CEN, and touches no counter without (R131, R278). -/
theorem commitEnd_counts {s : State} (hreg : ∀ o, o < 0x8_0000 → m.reg o = s.reg o) (hfit : CountersFit s) (hn : x.stn < 8)
    (hc : x.ctr < s.ctrNum x.stn) (step : Nat) :
    (x.cen = true → CounterTakes s (m.commitEnd x 1 step) (s.ctrBase x.stn + x.ctr) ((s.ctrValue (s.ctrBase x.stn + x.ctr) : Int) + 1)) ∧
    (x.cen = false → ∀ j, j < 4096 → (m.commitEnd x 1 step).ctrValue j = s.ctrValue j) := by
  have hi : s.ctrBase x.stn + x.ctr < 4096 := by
    have := hfit x.stn hn
    omega
  have hend : m.commitEnd x 1 step = ((m.commitShown x 1 step).ctrDone x.stn x.ctr x.cen (0x14 + x.q)).cmdDone x.stn x.q x.id := by
    rw [State.commitEnd_eq, decide_eq_true rfl, Bool.and_true]
    rfl
  have hshown (o : Nat) (ho : o < 0x8_0000) : (m.commitShown x 1 step).reg o = s.reg o :=
    (m.reg_commitShown_other x 1 step (by simp only [Reg.ldl_STATUS]; omega)).trans (hreg o ho)
  generalize m.commitShown x 1 step = v at hend hshown
  have hbase (n : Nat) (hn : n < 8) : v.ctrBase n = s.ctrBase n :=
    congrArg (64 * ·) (State.fld_eq_of_reg (f := Reg.sys_CNT_BASE n) (hshown _ (by simp only [Reg.sys_CNT_BASE]; omega)))
  have hnum (n : Nat) (hn : n < 8) : v.ctrNum n = s.ctrNum n :=
    congrArg (64 * ·) (State.fld_eq_of_reg (f := Reg.sys_CNT_NUM n) (hshown _ (by simp only [Reg.sys_CNT_NUM]; omega)))
  have hvalues (j : Nat) (hj : j < 4096) : v.reg (Reg.tmb_VALUE j).off = s.reg (Reg.tmb_VALUE j).off :=
    hshown _ (by simp only [Reg.tmb_VALUE]; omega)
  rw [hend]
  refine ⟨fun hcen => ?_, fun hcen j hj => ?_⟩
  · have hvfit : CountersFit v := fun n hn => by rw [hbase n hn, hnum n hn]; exact hfit n hn
    have htakes := counterTakes_ctrDone (m := v) (0x14 + x.q) (fun _ _ => rfl) hvfit hn (hnum x.stn hn ▸ hc)
    have hvalue : v.ctrValue (s.ctrBase x.stn + x.ctr) = s.ctrValue (s.ctrBase x.stn + x.ctr) :=
      State.fld_eq_of_reg (f := Reg.tmb_VALUE _) (hvalues _ hi)
    rw [hbase x.stn hn, hvalue] at htakes
    rw [hcen]
    exact counterTakes_then hi (counterTakes_of_regs hi hvalues htakes) fun o ho => State.reg_cmdDone_low _ _ _ _ ho
  · rw [hcen]
    refine State.fld_eq_of_reg (f := Reg.tmb_VALUE j) ?_
    rw [State.reg_cmdDone_low _ _ _ _ (by simp only [Reg.tmb_VALUE]; omega)]
    exact hvalues j hj

end CommitEnd

/-! ## COMMIT_DONE (R131) -/

section CommitDone

variable {s : State} {x : Spk}

theorem exec_commitDone (i : Nat) (s : State) : exec (.commitDone i) s = .next (s.commitDone i).landed := rfl

/-- m with station n's flags of spilled values clear on every quadrant. -/
def State.clearSpill (m : State) (n : Nat) : State :=
  (List.range 4).foldl (fun m q => (m.setFlag (Reg.ldl_SP_NV q n) false).setFlag (Reg.ldl_SP_OF q n) false) m

theorem State.commitDone_eq (hsafe : s.safe = false) (hx : s.spks.find? (fun y => decide (y.id = x.id ∧ y.op = 1 ∧ y.phase = 1)) = some x)
    (hacked : s.acked x.id = true) :
    s.commitDone x.id = ((s.mapBlocks x.q x.blk x.nblk (fun _ => 0)).clearSpill x.stn).commitEnd x 1 (cdStep x.desc) := by
  rw [State.commitDone, hx]
  simp only [hsafe, hacked, Bool.not_true, Bool.false_eq_true, or_self, if_false]
  rfl

theorem State.regsOnly_clearSpill (m : State) (n : Nat) : RegsOnly m (m.clearSpill n) :=
  regsOnly_foldl _ (fun _ _ => regsOnly_trans (regsOnly_setFld _ _ _) (regsOnly_setFld _ _ _)) m

theorem State.reg_clearSpill_other (m : State) {n o : Nat} (hn : n < 8) (ho : o < 0x8_0000 ∨ 0x8000 ≤ o % 0x1_0000) :
    (m.clearSpill n).reg o = m.reg o := by
  refine foldl_keeps (v := fun m : State => m.reg o) (fun m q hq => ?_) m
  have hlt := List.mem_range.mp hq
  have hnv : o ≠ (Reg.ldl_SP_NV q n).off := by simp only [Reg.ldl_SP_NV]; omega
  exact (State.reg_setFld_other _ (Reg.ldl_SP_OF q n) _ hnv).trans (m.reg_setFld_other _ _ hnv)

/-- What closing its blocks leaves of s, before a COMMIT ends. -/
theorem closed_leaves (hn : x.stn < 8) (hb : x.blk + x.nblk ≤ 16384) :
    let u := (s.mapBlocks x.q x.blk x.nblk (fun _ => 0)).clearSpill x.stn
    RegsOnly s u ∧ (∀ o, o < 0x8_0000 → u.reg o = s.reg o) ∧
      ∀ b, b < 16384 → u.fld (spByte x.q b) = if x.blk ≤ b ∧ b < x.blk + x.nblk then 0 else s.fld (spByte x.q b) := by
  intro u
  refine ⟨regsOnly_trans (s.regsOnly_mapBlocks _ _ _) (State.regsOnly_clearSpill _ _), fun o ho => ?_, fun b hb => ?_⟩
  · rw [State.reg_clearSpill_other _ hn (.inl ho), s.reg_mapBlocks_other hb _ (.inl (by omega))]
  · have hoff := spByte_off (q := x.q) hb
    rw [← s.fld_mapBlocks (q := x.q) x.blk x.nblk (g := fun _ => 0) (fun _ _ => by decide) b]
    exact State.fld_eq_of_reg (State.reg_clearSpill_other _ hn (.inr (by omega)))

theorem commitDone_closes (hsafe : s.safe = false) (hx : s.spks.find? (fun y => decide (y.id = x.id ∧ y.op = 1 ∧ y.phase = 1)) = some x)
    (hq : x.q < 4) (hn : x.stn < 8) (hb : x.blk + x.nblk ≤ 16384) (hfit : CountersFit s) (hc : x.ctr < s.ctrNum x.stn)
    (hacked : s.acked x.id = true) :
    let t := (s.commitDone x.id).landed
    t.spks = s.spks.filter (fun y => decide (y.id ≠ x.id)) ∧
      t.fld (Reg.ldl_STATUS x.q x.stn) = 1 ∧ t.fld (Reg.ldl_STEP x.q x.stn) = cdStep x.desc ∧ SameMemory s t ∧
      (∀ b, b < 16384 → t.fld (spByte x.q b) = if x.blk ≤ b ∧ b < x.blk + x.nblk then 0 else s.fld (spByte x.q b)) ∧
      (x.cen = true → CounterTakes s t (s.ctrBase x.stn + x.ctr) ((s.ctrValue (s.ctrBase x.stn + x.ctr) : Int) + 1)) ∧
      (x.cen = false → ∀ j, j < 4096 → t.ctrValue j = s.ctrValue j) := by
  intro t
  have ht : t = (s.commitDone x.id).landed := rfl
  rw [State.commitDone_eq hsafe hx hacked] at ht
  obtain ⟨honly, hlow, hstates⟩ := closed_leaves (s := s) hn hb
  generalize (s.mapBlocks x.q x.blk x.nblk (fun _ => 0)).clearSpill x.stn = u at honly hlow hstates ht
  have hbase : u.ctrBase x.stn = s.ctrBase x.stn :=
    congrArg (64 * ·) (State.fld_eq_of_reg (f := Reg.sys_CNT_BASE x.stn) (hlow _ (by simp only [Reg.sys_CNT_BASE]; omega)))
  have hi : u.ctrBase x.stn + x.ctr < 4096 := by
    have := hfit x.stn hn
    omega
  obtain ⟨hspks, hstatus, hstep, hmem, hkept⟩ := commitEnd_shows (m := u) hq hn (by decide : 1 < 16) (fun _ => hi) (cdStep x.desc)
  obtain ⟨hcounted, huncounted⟩ := commitEnd_counts hlow hfit hn hc (cdStep x.desc)
  have hsame : SameMemory s u := by
    have e : u = _ := honly
    exact memory_of_eq (by rw [e]) (by rw [e])
  have husp : u.spks = s.spks := by
    have e : u = _ := honly
    rw [e]
  rw [ht]
  exact ⟨hspks.trans (by rw [husp]), hstatus, hstep.trans (Nat.mod_eq_of_lt (Nat.mod_lt _ (by decide))), sameMemory_trans hsame hmem,
    fun b hb => (hkept b hb).trans (hstates b hb), hcounted, huncounted⟩

end CommitDone

end Sys2Proof.Machine

/-! A COMMIT at its gate (R131): what it reads, how its checks end it, and the blocks that it writes. -/

namespace Sys2Proof.Machine

open Sys2Proof.Spec

-- One proof at a time: side by side, their threads take more memory than the check has.
set_option Elab.async false

/-! ## The fields of a commit descriptor (R130) -/

/-- DST, OFMT and SCALE_ADDR, and whether the COMMIT scales. -/
def Spk.dst (x : Spk) : Nat := x.desc % 2 ^ 64
def Spk.ofmt (x : Spk) : Nat := bitsOf x.desc (8 * 8 + 3) (8 * 8)
def Spk.scaled (x : Spk) : Bool := bitOf x.desc (8 * 8 + 9)
def Spk.scaleAt (x : Spk) : Nat := bitsOf x.desc (0x18 * 8 + 43) (0x18 * 8)

/-- The COMMIT has no spill blocks. -/
def Spk.NoSpill (x : Spk) : Prop := bitsOf x.desc (0x20 * 8 + 63) (0x20 * 8) = 0

/-! ## The checks (R131) -/

section CommitCheck

variable {s t : State} {x : Spk}

/-- What a verdict of the checks says: an end has a status from 2 to 7, a COMMIT that goes on has an output format of codes 0 to 3,
and the scale is read only where the station may. -/
def CommitCheck.Sound (s : State) (x : Spk) : CommitCheck → Prop
  | .fail st _ bad => 1 < st ∧ st < 8 ∧ (st = 4 → bad = none → s.check (some x.stn) x.scaleAt 8 false = .ok)
  | .go _ _ => x.ofmt ≤ 3 ∧ (x.scaled = true → s.check (some x.stn) x.scaleAt 8 false = .ok)

theorem State.commitCheck_sound (s : State) (x : Spk) : (s.commitCheck x).Sound s x := by
  have hends (st : Nat) (c : Bool) (bad : Option Nat) (h : 1 < st ∧ st < 8 ∧ st ≠ 4) : (CommitCheck.fail st c bad).Sound s x :=
    ⟨h.1, h.2.1, fun e => absurd e h.2.2⟩
  unfold State.commitCheck
  extract_lets d ofmt rnd fchk scaled sp64 sa src spn sts fmts denied nv of fp64 v
  split
  · exact hends 7 _ _ (by decide)
  · split
    · exact hends 6 _ _ (by decide)
    · next hfmt =>
      have hofmt : x.ofmt ≤ 3 := Nat.not_lt.mp fun h => hfmt (.inr (.inl h))
      split
      · exact hends 2 _ _ (by decide)
      · split
        · exact hends 2 _ _ (by decide)
        · split
          · exact hends 3 _ _ (by decide)
          · split
            · next hplain => exact ⟨hofmt, fun h => absurd hplain (by rw [show scaled = true from h]; decide)⟩
            · split
              · exact ⟨by decide, by decide, fun _ => nofun⟩
              · next hdenied =>
                have hok : s.check (some x.stn) x.scaleAt 8 false = .ok := by
                  unfold denied at hdenied
                  split at hdenied
                  · next h => exact h
                  · exact absurd rfl hdenied
                split
                · exact ⟨by decide, by decide, fun _ _ => hok⟩
                · clear_value v
                  cases v with
                  | fin neg mm e =>
                    dsimp only
                    split
                    · exact ⟨by decide, by decide, fun _ _ => hok⟩
                    · exact ⟨hofmt, fun _ => hok⟩
                  | _ => exact ⟨by decide, by decide, fun _ _ => hok⟩

/-- The answers of an access check that refuse the access. -/
def Grant.denies : Grant → Bool
  | .ok => false
  | _ => true

theorem Grant.denies_eq_false_iff (g : Grant) : g.denies = false ↔ g = .ok := by
  cases g <;> simp [Grant.denies]

/-- Checks that serve alike refuse alike. -/
theorem Grant.denies_congr {g h : Grant} (hok : g = .ok ↔ h = .ok) : g.denies = h.denies := by
  cases hd : h.denies with
  | false => rw [Grant.denies_eq_false_iff] at hd ⊢; exact hok.mpr hd
  | true =>
    refine Bool.eq_true_of_not_eq_false fun hg => ?_
    rw [Grant.denies_eq_false_iff, hok, ← Grant.denies_eq_false_iff, hd] at hg
    exact Bool.noConfusion hg

/-- The checks of a COMMIT without spill blocks turn on its blocks' states, on poison, on the scale, and on whether the station
may read the scale. -/
theorem State.commitCheck_congr (hsrc : x.NoSpill) (hfld : ∀ k, k < x.nblk → t.fld (spByte x.q (x.blk + k)) = s.fld (spByte x.q (x.blk + k)))
    (hmem : t.mem = s.mem) (hpsn : ∀ a n, t.psnIn a n = s.psnIn a n)
    (hscale : t.check (some x.stn) x.scaleAt 8 false = .ok ↔ s.check (some x.stn) x.scaleAt 8 false = .ok) :
    t.commitCheck x = s.commitCheck x := by
  have hbuf (m : State) : (m.gbytes x.id 0 0).2 = false := by
    rw [State.gbytes]
    split <;> simp [State.psnIn, State.psnStored]
  unfold State.commitCheck
  extract_lets d ofmt rnd fchk scaled sp64 sa src spn sts fmts denied nv of fp64 v sts' fmts' denied' nv' of' fp64' v'
  have hsts : sts = sts' := List.map_congr_left fun k hk => hfld k (List.mem_range.mp hk)
  have hfmts : fmts = fmts' := by simp only [fmts, fmts', hsts]
  have hfp64 : fp64 = fp64' := by simp only [fp64, fp64', hfmts]
  have hv : v = v' := by simp only [v, v', State.word, State.bytes, hmem]
  have hplain : decide (src ≠ 0) = false := decide_eq_false (not_not.mpr hsrc)
  have hnv : nv = nv' := by simp only [nv, nv', hplain, Bool.false_and, hsts]
  have hof : of = of' := by simp only [of, of', hplain, Bool.false_and, hsts]
  have hspn : spn = 0 := if_pos hsrc
  have hspill (m : State) (f : Nat → Nat → Bool) : ¬ (gNode src = m.nodeId ∧ spn ≠ 0 ∧ f (gLocal src) (4096 * spn) = true) :=
    fun h => h.2.1 hspn
  have hbytes (m : State) : (m.gbytes x.id src (4096 * spn)).2 = false := by rw [hspn, show src = 0 from hsrc]; exact hbuf m
  have hdenied : denied sa 8 = denied' sa 8 := Grant.denies_congr hscale
  rw [hsts, hfmts, hfp64, hv, hnv, hof, hdenied, if_neg (hspill t denied), if_neg (hspill s denied'), hbytes t, hbytes s, hpsn, hpsn]

end CommitCheck

/-! ## What a COMMIT reads (R131, R232) -/

section CommitRead

variable {s : State} {x : Spk}

/-- The checks come to reading the scale: all pass, or the scale that was read fails them. -/
def CommitCheck.readsScale : CommitCheck → Bool
  | .go _ _ => true
  | .fail st _ bad => decide (st = 4) && bad.isNone

/-- s once a COMMIT has read its scale, where it reads one. -/
def State.commitRead (s : State) (x : Spk) : State :=
  if x.scaled && (s.commitCheck x).readsScale then s.touch x.stn x.scaleAt 8 false 0 else s

/-- A COMMIT reads its scale only where its station may. -/
theorem State.check_of_readsScale (hscaled : x.scaled = true) (h : (s.commitCheck x).readsScale = true) :
    s.check (some x.stn) x.scaleAt 8 false = .ok := by
  have hsound := s.commitCheck_sound x
  generalize s.commitCheck x = r at h hsound
  cases r with
  | go fp64 v => exact hsound.2 hscaled
  | fail st c bad =>
    obtain ⟨hst, hbad⟩ := Bool.and_eq_true_iff.mp h
    exact hsound.2.2 (of_decide_eq_true hst) (Option.isNone_iff_eq_none.mp hbad)

theorem accessOnly_commitRead (hn : x.stn < 8) (hc : Calm s) : AccessOnly s (s.commitRead x) := by
  unfold State.commitRead
  split
  · exact accessOnly_touch_allocating s hn _ _ _ hc
  · exact accessOnly_refl s

/-- Registers of stations, sequencers, Ladles and counters are none of an access's. -/
theorem AccessOnly.reg {t : State} (h : AccessOnly s t) {o : Nat} (ho : o < 0x2C_0000 ∨ 0x44_0000 ≤ o) : t.reg o = s.reg o := by
  obtain ⟨-, -, -, -, hr⟩ := h
  exact hr o fun ⟨hlo, hhi, _⟩ => by omega

theorem AccessOnly.psnIn {t : State} (h : AccessOnly s t) (a n : Nat) : t.psnIn a n = s.psnIn a n := by
  obtain ⟨-, -, hp, hf, -⟩ := h
  rw [State.psnIn, State.psnIn, State.psnStored, State.psnStored, hp, hf]

/-- What a COMMIT has read does not change what its checks say. -/
theorem commitCheck_commitRead (hn : x.stn < 8) (hb : x.blk + x.nblk ≤ 16384) (hq : x.q < 4) (hsrc : x.NoSpill) (hc : Calm s) :
    (s.commitRead x).commitCheck x = s.commitCheck x := by
  have haccess := accessOnly_commitRead hn hc (x := x)
  unfold State.commitRead at haccess ⊢
  split at haccess
  · next h =>
    rw [if_pos h]
    obtain ⟨hscaled, hreads⟩ := Bool.and_eq_true_iff.mp h
    cases hhbm : isHbm x.scaleAt with
    | false => rw [s.touch_of_onDie hc _ hhbm]
    | true =>
      have hlow : x.scaleAt + 8 ≤ 2 ^ 44 := by
        have : x.scaleAt < 0x280_0000_0000 := of_decide_eq_true hhbm
        omega
      refine State.commitCheck_congr hsrc (fun k hk => State.fld_eq_of_reg (haccess.reg ?_)) haccess.2.1 haccess.psnIn ?_
      · have := spByte_off (q := x.q) (b := x.blk + k) (by omega)
        omega
      · rw [State.check_hbm_iff hhbm hlow, State.check_hbm_iff hhbm hlow]
        exact hbmHeld_of_grants fun o ho _ => haccess.reg (by omega)
  · next h => rw [if_neg h]

end CommitRead

/-! ## COMMIT_GATE (R131) -/

section CommitGate

variable {s : State} {x : Spk}

theorem exec_commitGate (i : Nat) (s : State) : exec (.commitGate i) s = .next (s.commitGate i).landed := rfl

/-- An access of a COMMIT without spill blocks holds, at DST or at its scale (R221, R224). -/
def State.gateHeld (s : State) (x : Spk) : Bool :=
  (decide (gNode x.dst = s.nodeId) && s.memHeld x.stn (gLocal x.dst) 1) || (x.scaled && s.memHeld x.stn x.scaleAt 8)

/-- What a verdict of its checks makes of a COMMIT. -/
def State.commitActs (m : State) (x : Spk) : CommitCheck → State
  | .fail st c bad =>
    let m1 := match bad with
      | some a => (m.load (0x14 + x.q) x.stn a 8 0).2.2
      | none => m
    (if c then m1.potConsumed x.q x.stn else m1).commitEnd x st (cdStep x.desc)
  | .go fp64 v =>
    let m1 := m.mapBlocks x.q x.blk x.nblk (fun w => w ||| 64)
    let m3 := ((List.range x.blocks).foldl (fun m k => m.commitWrite x fp64 v k) m1).commitTags x fp64
    { m3 with spks := m3.spks.map (fun y => if y.id = x.id then { x with phase := 1, sent := x.blocks } else y) }

theorem State.memHeld_none (m : State) (n a : Nat) : m.memHeld n a 0 = false := by simp [State.memHeld]

/-- A COMMIT whose gate is closed, or whose accesses hold, waits. -/
theorem State.commitGate_waits (hx : s.spks.find? (fun y => decide (y.id = x.id) && y.unwritten) = some x) (hsrc : x.NoSpill)
    (h : s.gated x = true ∨ s.gateHeld x = true) : s.commitGate x.id = s := by
  rw [State.commitGate, hx]
  dsimp -zeta -zetaHave only
  extract_lets d src spn dst scaled sa held
  have hspn : spn = 0 := if_pos hsrc
  have hheld : held = s.gateHeld x := by
    simp only [held, hspn, Nat.mul_zero, s.memHeld_none, Bool.and_false, Bool.false_or]
    rfl
  refine if_pos ?_
  rw [hheld]
  tauto

/-- A COMMIT without spill blocks that passes its gate (R131): it is outstanding and has not begun to write, its gate is open, none of
its accesses holds, and no injection is armed. -/
structure AtGate (s : State) (x : Spk) : Prop where
  safe : s.safe = false
  calm : Calm s
  q : x.q < 4
  stn : x.stn < 8
  blocks : x.blk + x.nblk ≤ 16384
  waits : s.spks.find? (fun y => decide (y.id = x.id) && y.unwritten) = some x
  noSpill : x.NoSpill
  isOpen : s.gated x = false
  free : s.gateHeld x = false

/-- One whose gate is open, and whose accesses hold nowhere, does what its checks say of what it has read. -/
theorem AtGate.commitGate_eq (h : AtGate s x) :
    s.commitGate x.id = (s.commitRead x).commitActs x ((s.commitRead x).commitCheck x) := by
  obtain ⟨hsafe, hc, -, -, -, hx, hsrc, hopen, hfree⟩ := h
  rw [State.commitGate, hx]
  dsimp -zeta -zetaHave only
  extract_lets d src spn dst scaled sa held reads m1 m2 scales m3
  have hspn : spn = 0 := if_pos hsrc
  have hheld : held = s.gateHeld x := by
    simp only [held, hspn, Nat.mul_zero, s.memHeld_none, Bool.and_false, Bool.false_or]
    rfl
  have hpot : isHbm (potAddr x.q (4096 * x.blk)) = false := decide_eq_false (by simp only [potAddr]; omega)
  have hm1 : m1 = s := by
    unfold m1
    rw [s.touch_of_onDie hc _ hpot, ite_self]
  have hm2 : m2 = s := by
    have hnone : m1.touch x.stn (gLocal src) (4096 * spn) false 0 = m1 := if_pos (by rw [hspn])
    unfold m2
    rw [hnone, ite_self, hm1]
  have hscales : scales = (x.scaled && (s.commitCheck x).readsScale) := by
    unfold scales
    rw [hm2]
    cases s.commitCheck x <;> rfl
  have hm3 : m3 = s.commitRead x := by
    unfold m3
    rw [hscales, hm2]
    rfl
  have hgo : ¬ (s.gated x = true ∨ s.safe = true ∨ held = true) := by simp [hopen, hsafe, hheld, hfree]
  have hhand : ¬ (!s.atHand x.id src (4096 * spn)) = true := by simp [State.atHand, hspn, piecesOf]
  rw [if_neg hgo, if_neg hhand]
  clear_value m3
  subst hm3
  cases (s.commitRead x).commitCheck x <;> rfl

/-- The gate of a COMMIT that has not begun to write, as its descriptor gives it (R131). -/
theorem State.gated_iff (hx : s.spks.find? (fun y => decide (y.id = x.id) && y.unwritten) = some x) : s.gated x = true ↔
    bitOf x.desc (0x10 * 8 + 12) = true ∧ s.ctrValue (s.ctrBase x.stn + bitsOf x.desc (0x10 * 8 + 11) (0x10 * 8)) <
      bitsOf x.desc (0x10 * 8 + 63) (0x10 * 8 + 32) := by
  have hun := (Bool.and_eq_true_iff.mp (List.find?_some (p := fun y : Spk => decide (y.id = x.id) && y.unwritten) hx)).2
  rw [State.gated, hun, Bool.true_and, Bool.and_eq_true, decide_eq_true_eq]

theorem State.gateHeld_iff : s.gateHeld x = true ↔ (gNode (x.desc % 2 ^ 64) = s.nodeId ∧ s.memHeld x.stn (gLocal (x.desc % 2 ^ 64)) 1 = true) ∨
    (bitOf x.desc (8 * 8 + 9) = true ∧ s.memHeld x.stn (bitsOf x.desc (0x18 * 8 + 43) (0x18 * 8)) 8 = true) := by
  rw [State.gateHeld, Bool.or_eq_true, Bool.and_eq_true, Bool.and_eq_true, decide_eq_true_eq]
  rfl

/-! ## A COMMIT that a check fails -/

/-- What a failed COMMIT reads and reports before it ends is an access. -/
theorem State.commitActs_fail (m : State) (x : Spk) (st : Nat) (c : Bool) (bad : Option Nat) :
    ∃ u, Accessed m u ∧ m.commitActs x (.fail st c bad) = u.commitEnd x st (cdStep x.desc) := by
  have hload (a : Nat) : Accessed m (m.load (0x14 + x.q) x.stn a 8 0).2.2 := by
    unfold State.load
    split
    · dsimp only
      exact accessed_touch m _ _ _ _ _
    · exact accessed_access m _ _ _ _ _
    · exact accessed_access m _ _ _ _ _
  have hbad : Accessed m (match bad with | some a => (m.load (0x14 + x.q) x.stn a 8 0).2.2 | none => m) := by
    cases bad with
    | none => exact accessed_refl m
    | some a => exact hload a
  refine ⟨_, ?_, rfl⟩
  split
  · exact accessed_trans hbad (accessed_report _ _)
  · exact hbad

theorem accessed_of_accessOnly {t : State} (h : AccessOnly s t) : Accessed s t := by
  obtain ⟨honly, hmem, hpsn, -, hreg⟩ := h
  exact ⟨honly, hmem, hpsn, fun o ho => hreg o fun ⟨hlo, _, _⟩ => by have := ho.1; omega⟩

/-- A COMMIT that a check fails shows its status; its blocks and all bytes stand (R131). -/
theorem AtGate.fails (h : AtGate s x) {st : Nat} {c : Bool} {bad : Option Nat} (hcheck : s.commitCheck x = .fail st c bad) :
    let t := (s.commitGate x.id).landed
    t.spks = s.spks.filter (fun y => decide (y.id ≠ x.id)) ∧ t.fld (Reg.ldl_STATUS x.q x.stn) = st ∧
      t.fld (Reg.ldl_STEP x.q x.stn) = cdStep x.desc ∧ SameMemory s t ∧
      ∀ b, b < 16384 → t.fld (spByte x.q b) = s.fld (spByte x.q b) := by
  intro t
  have hgate := h.commitGate_eq
  obtain ⟨-, hc, hq, hn, hb, -, hsrc, -, -⟩ := h
  rw [commitCheck_commitRead hn hb hq hsrc hc, hcheck] at hgate
  have hsound := s.commitCheck_sound x
  rw [hcheck] at hsound
  obtain ⟨hlo, hhi, -⟩ := hsound
  obtain ⟨u, hu, hacts⟩ := (s.commitRead x).commitActs_fail x st c bad
  have haccess : Accessed s u := accessed_trans (accessed_of_accessOnly (accessOnly_commitRead hn hc)) hu
  have ht : t = (u.commitEnd x st (cdStep x.desc)).landed := by rw [← hacts, ← hgate]
  have huncounted : ¬ (x.cen && decide (st = 1)) = true := by simp; omega
  obtain ⟨hspks, hstatus, hstep, hmem, hkept⟩ :=
    commitEnd_shows (m := u) (status := st) hq hn (by omega) (fun h => absurd h huncounted) (cdStep x.desc)
  have huspks : u.spks = s.spks := by
    have e : u = _ := haccess.1
    rw [e]
    rfl
  rw [ht]
  refine ⟨hspks.trans (by rw [huspks]), hstatus, hstep.trans (Nat.mod_eq_of_lt (Nat.mod_lt _ (by decide))),
    sameMemory_trans haccess.sameMemory hmem, fun b hb => (hkept b hb).trans (State.fld_eq_of_reg (haccess.reg ?_))⟩
  have hoff := spByte_off (q := x.q) hb
  exact ⟨by omega, by omega⟩

end CommitGate

end Sys2Proof.Machine

/-! The blocks that a COMMIT writes (R131, R302): each is scaled, converted and stored behind the one before. -/

namespace Sys2Proof.Machine

open Sys2Proof.Spec

-- One proof at a time: side by side, their threads take more memory than the check has.
set_option Elab.async false

/-! ## The bytes of a committed block -/

/-- A converted element takes as many bytes as its format's code says (R34). -/
theorem width_of_ofmt {ofmt : Nat} (h : ofmt ≤ 3) : 8 * (((fmtOfCode ofmt).getD .fp32).width / 8) = bitsOfCode ofmt := by
  interval_cases ofmt <;> rfl

theorem bitsOfCode_le {ofmt : Nat} (h : ofmt ≤ 3) : bitsOfCode ofmt ≤ 64 := by
  interval_cases ofmt <;> decide

/-- A block of 4,096 bytes becomes one of outLen. -/
theorem length_commitBytes {x : Spk} (h : x.ofmt ≤ 3) (rnd : Nat) (fp64 : Bool) (v : Num) {bs : List Byte} (hb : bs.length = 4096) :
    (commitBytes x.ofmt rnd fp64 v bs).length = x.outLen fp64 := by
  have hwidth := width_of_ofmt h
  have hlen : x.outLen fp64 = 4096 * bitsOfCode x.ofmt / (if fp64 then 64 else 32) := rfl
  have hel (u k : Nat) : (leBytes u k).length = k := by rw [leBytes, List.length_map, List.length_range]
  simp only [commitBytes, List.length_flatMap, hel, List.map_const', List.sum_replicate, List.length_range, hb, smul_eq_mul]
  rw [hlen, ← hwidth]
  cases fp64
  · simp only [Bool.false_eq_true, if_false]
    omega
  · simp only [if_true]
    omega

theorem outLen_le {x : Spk} (h : x.ofmt ≤ 3) (fp64 : Bool) : x.outLen fp64 ≤ 8192 := by
  have hbits := bitsOfCode_le h
  have hlen : x.outLen fp64 = 4096 * bitsOfCode x.ofmt / (if fp64 then 64 else 32) := rfl
  rw [hlen]
  cases fp64
  · simp only [Bool.false_eq_true, if_false]
    omega
  · simp only [if_true]
    omega

theorem State.length_bytes (m : State) (a n : Nat) : (m.bytes a n).length = n := by rw [m.bytes_eq, List.length_map, List.length_range]

/-! ## One block written -/

/-- Where block i of a COMMIT goes at this module. -/
def Spk.place (x : Spk) (fp64 : Bool) (i : Nat) : Nat := gLocal x.dst + i * x.outLen fp64

/-- What block i of a COMMIT becomes, of the bytes that m holds. -/
def State.committed (m : State) (x : Spk) (fp64 : Bool) (v : Num) (i : Nat) : List Byte :=
  commitBytes x.ofmt (bitsOf x.desc (8 * 8 + 6) (8 * 8 + 4)) fp64 v (m.bytes (potAddr x.q (4096 * (x.blk + i))) 4096)

/-- What the writes of a COMMIT need of the state that they begin in: no injection armed, DST at this module, and an output whose
every block lies in HBM of the station. -/
structure Fits (u : State) (x : Spk) (fp64 : Bool) : Prop where
  calm : Calm u
  stn : x.stn < 8
  ofmt : x.ofmt ≤ 3
  node : gNode x.dst = u.nodeId
  hbm : ∀ i, i < x.nblk → isHbm (x.place fp64 i) = true
  held : ∀ i, i < x.nblk → HbmHeld u x.stn (x.place fp64 i) (x.outLen fp64)

/-- m is u but for the first k blocks of a COMMIT, which stand at their places, and what writing them counts and tags. -/
structure BlocksWritten (u : State) (x : Spk) (fp64 : Bool) (v : Num) (k : Nat) (m : State) : Prop where
  only : u.MemOnly m
  reg : ∀ o, ¬ MemReg o → m.reg o = u.reg o
  blocks : ∀ i j, i < k → j < x.outLen fp64 → m.byte (x.place fp64 i + j) = (u.committed x fp64 v i).getD j 0
  onDie : ∀ a, isHbm a = false → m.byte a = u.byte a

section Write

variable {u m : State} {x : Spk} {fp64 : Bool} {v : Num}

/-- Bytes on the die are those of the Stockpot's blocks. -/
theorem State.committed_congr (h : ∀ a, isHbm a = false → m.byte a = u.byte a) (i : Nat) :
    m.committed x fp64 v i = u.committed x fp64 v i := by
  have hbytes : m.bytes (potAddr x.q (4096 * (x.blk + i))) 4096 = u.bytes (potAddr x.q (4096 * (x.blk + i))) 4096 := by
    rw [m.bytes_eq, u.bytes_eq]
    exact List.map_congr_left fun j _ => h _ (decide_eq_false (by simp only [potAddr]; omega))
  rw [State.committed, State.committed, hbytes]

theorem Fits.length_committed (h : Fits u x fp64) (m : State) (i : Nat) : (m.committed x fp64 v i).length = x.outLen fp64 :=
  length_commitBytes h.ofmt _ _ _ (m.length_bytes _ _)

/-- DST's blocks lie at its node, behind one another. -/
theorem Fits.place_eq (h : Fits u x fp64) {i : Nat} (hi : i < x.nblk) :
    gNode (x.dst + i * x.outLen fp64) = gNode x.dst ∧ gLocal (x.dst + i * x.outLen fp64) = x.place fp64 i := by
  have hlow : x.place fp64 i < 0x280_0000_0000 := of_decide_eq_true (h.hbm i hi)
  simp only [Spk.place, gNode, gLocal] at hlow ⊢
  omega

/-- A block of a COMMIT is stored where its station may write. -/
theorem Fits.commitWrite_eq (h : Fits u x fp64) (hreg : ∀ o, ¬ MemReg o → m.reg o = u.reg o) {i : Nat} (hi : i < x.nblk) :
    m.commitWrite x fp64 v i = m.store x.stn (x.place fp64 i) (m.committed x fp64 v i) (fun _ _ => false) 0 := by
  obtain ⟨hnode, hlocal⟩ := h.place_eq hi
  have hid : m.nodeId = u.nodeId :=
    State.fld_eq_of_reg (f := Reg.krt_NODEID) (hreg _ fun ⟨_, hhi, _⟩ => by simp only [Reg.krt_NODEID] at hhi; omega)
  have hout : m.commitOut x fp64 v i = m.committed x fp64 v i := by
    rw [State.commitOut, State.commitSrc, if_pos hi]
    rfl
  have hlow : x.place fp64 i < 0x280_0000_0000 := of_decide_eq_true (h.hbm i hi)
  have hlen := outLen_le h.ofmt fp64
  have hok : m.check (some x.stn) (x.place fp64 i) (m.committed x fp64 v i).length true = .ok := by
    rw [h.length_committed, State.check_hbm_iff (h.hbm i hi) (by omega)]
    exact (hbmHeld_of_grants fun o ho _ => hreg o fun ⟨hlo, _, _⟩ => by omega).mpr (h.held i hi)
  have hhere : gNode (x.dst + i * x.outLen fp64) = m.nodeId := by rw [hnode, hid, h.node]
  have hwrite : m.commitWrite x fp64 v i =
      m.write (0x14 + x.q) x.stn (gLocal (x.dst + i * x.outLen fp64)) (m.commitOut x fp64 v i) false 0 := if_pos hhere
  rw [hwrite, hlocal, hout, State.write, hok]
  rfl

/-- Registers that an access does not count in stand over a store. -/
theorem State.reg_store_allocating (m : State) {n : Nat} (hn : n < 8) (hc : Calm m) (a : Nat) (bs : List Byte) (p : Nat → Nat → Bool)
    {o : Nat} (ho : ¬ MemReg o) : (m.store n a bs p 0).reg o = m.reg o := by
  obtain ⟨-, -, -, -, hreg⟩ := accessOnly_touch_allocating m hn a bs.length true hc
  rw [State.store, State.untag_frame, State.putPsn_frame]
  exact hreg o ho

theorem Fits.noTags (h : Fits u x fp64) {i : Nat} (hi : i < x.nblk) : NoTags (x.place fp64 i) (x.outLen fp64) :=
  (h.held i hi).noTags ((outLen_le h.ofmt fp64).trans (by decide))

/-- One block more stands at its place, and those before it still do. -/
theorem BlocksWritten.next (h : Fits u x fp64) {k : Nat} (hk : k < x.nblk) (hm : BlocksWritten u x fp64 v k m) :
    BlocksWritten u x fp64 v (k + 1) (m.commitWrite x fp64 v k) := by
  have hcalm : Calm m := fun page =>
    (State.flag_eq_of_reg (hm.reg _ fun ⟨_, _, hlow⟩ => by simp only [Reg.hdr_ARMED] at hlow; omega)).trans (h.calm page)
  have hend := (h.held k hk).end_le
  rw [h.commitWrite_eq hm.reg hk, State.committed_congr hm.onDie]
  have hbyte {a : Nat} (ha : inTagArea a = false) := m.byte_store x.stn (x.place fp64 k) (u.committed x fp64 v k) (fun _ _ => false) 0 ha
  rw [h.length_committed] at hbyte
  refine ⟨hm.only.trans (.store m _ _ _ _ _), fun o ho => (m.reg_store_allocating h.stn hcalm _ _ _ ho).trans (hm.reg o ho),
    fun i j hi hj => ?_, fun a ha => ?_⟩
  · rw [hbyte (h.noTags (by omega) j hj)]
    rcases Nat.lt_succ_iff_lt_or_eq.mp hi with hlt | rfl
    · have hbefore : x.place fp64 i + x.outLen fp64 ≤ x.place fp64 k := by
        have hmul : (i + 1) * x.outLen fp64 ≤ k * x.outLen fp64 := Nat.mul_le_mul_right _ hlt
        rw [Nat.add_mul, Nat.one_mul] at hmul
        simp only [Spk.place]
        omega
      rw [if_neg (by omega)]
      exact hm.blocks i j hlt hj
    · rw [if_pos (by omega), Nat.add_sub_cancel_left]
  · have hhigh : 0x280_0000_0000 ≤ a := Nat.not_lt.mp (of_decide_eq_false ha)
    rw [hbyte (by rw [inTagArea, ha, Bool.false_and]), if_neg (by omega)]
    exact hm.onDie a ha

/-- All the blocks of a COMMIT, by induction over them. -/
theorem Fits.blocksWritten (h : Fits u x fp64) (v : Num) : ∀ k, k ≤ x.nblk →
    BlocksWritten u x fp64 v k ((List.range k).foldl (fun m i => m.commitWrite x fp64 v i) u)
  | 0, _ => ⟨.refl u, fun _ _ => rfl, fun _ _ hi => absurd hi (Nat.not_lt_zero _), fun _ _ => rfl⟩
  | k + 1, hk => by
    rw [List.range_succ, List.foldl_append]
    exact (h.blocksWritten v k (by omega)).next h hk

end Write

/-! ## Tags of the output (R302) -/

/-- The tags of a COMMIT's output change memory's tags alone. -/
theorem State.commitTags_leaves (m : State) (x : Spk) (fp64 : Bool) : m.MemOnly (m.commitTags x fp64) ∧
    (∀ o, (m.commitTags x fp64).reg o = m.reg o) ∧ ∀ a, inTagArea a = false → (m.commitTags x fp64).byte a = m.byte a := by
  unfold State.commitTags
  extract_lets ofmt len a
  split
  · exact ⟨.refl m, fun _ => rfl, fun _ _ => rfl⟩
  · refine foldl_rel (r := fun s t : State => s.MemOnly t ∧ (∀ o, t.reg o = s.reg o) ∧ ∀ a, inTagArea a = false → t.byte a = s.byte a)
      (fun m => ⟨.refl m, fun _ => rfl, fun _ _ => rfl⟩) (fun ⟨hm, hr, hb⟩ ⟨km, kr, kb⟩ => ⟨hm.trans km, fun o => (kr o).trans (hr o),
        fun a ha => (kb a ha).trans (hb a ha)⟩) (fun m k _ => ?_) m
    dsimp only
    split
    · exact ⟨.setTag m _ _, fun o => by rw [State.setTag_frame]; rfl, fun a ha => m.byte_setTag _ _ ha⟩
    · exact ⟨.refl m, fun _ => rfl, fun _ _ => rfl⟩

/-! ## A COMMIT that passes its checks -/

section Passes

variable {s : State} {x : Spk} {fp64 : Bool} {v : Num}

/-- s with the blocks of a COMMIT marked as committing, once it has read its scale. -/
def State.committing (s : State) (x : Spk) : State := (s.commitRead x).mapBlocks x.q x.blk x.nblk (fun w => w ||| 64)

theorem or_64_lt (w : Nat) (h : w < 256) : w ||| 64 < 256 := Nat.or_lt_two_pow (n := 8) h (by decide)

/-- Marking its blocks, a COMMIT changes their state bytes alone. -/
theorem AtGate.committing_leaves (h : AtGate s x) : s.MemOnly (s.committing x) ∧ (s.committing x).mem = s.mem ∧
    ∀ o, o < 0x8_0000 ∨ 0x44_0000 ≤ o ∨ o % 0x1_0000 < 0x100 → (s.committing x).reg o = s.reg o := by
  obtain ⟨honly, hmem, -, -, hreg⟩ := accessOnly_commitRead h.stn h.calm (x := x)
  have hmarks : s.committing x = _ := (s.commitRead x).regsOnly_mapBlocks _ _ _
  have hq := h.q
  refine ⟨honly.trans ?_, ?_, fun o ho => ?_⟩
  · rw [hmarks]
    rfl
  · rw [hmarks]
    exact hmem
  · have hpage : o < 0x8_8000 + 0x1_0000 * x.q ∨ 0x8_C000 + 0x1_0000 * x.q ≤ o := by omega
    exact ((s.commitRead x).reg_mapBlocks_other h.blocks _ hpage).trans (hreg o fun hin => by
      obtain ⟨hlo, hhi, hlow⟩ := hin
      omega)

theorem AtGate.fld_committing (h : AtGate s x) {b : Nat} (hlo : x.blk ≤ b) (hhi : b < x.blk + x.nblk) :
    (s.committing x).fld (spByte x.q b) = s.fld (spByte x.q b) ||| 64 := by
  have hread := accessOnly_commitRead h.stn h.calm (x := x)
  have hoff := spByte_off (q := x.q) (b := b) (by have := h.blocks; omega)
  have hq := h.q
  rw [State.committing, State.fld_mapBlocks _ _ _ or_64_lt, if_pos ⟨hlo, hhi⟩,
    State.fld_eq_of_reg (f := spByte x.q b) (hread.reg (by omega))]

/-- A COMMIT that its checks pass can write where its station may. -/
theorem AtGate.fits (h : AtGate s x) (hcheck : s.commitCheck x = .go fp64 v) (hnode : gNode x.dst = s.nodeId)
    (hout : ∀ i, i < x.nblk → isHbm (x.place fp64 i) = true ∧ s.check (some x.stn) (x.place fp64 i) (x.outLen fp64) true = .ok) :
    Fits (s.committing x) x fp64 := by
  obtain ⟨-, -, hreg⟩ := h.committing_leaves
  have hsound := s.commitCheck_sound x
  rw [hcheck] at hsound
  refine ⟨fun page => ?_, h.stn, hsound.1, ?_, fun i hi => (hout i hi).1, fun i hi => ?_⟩
  · exact (State.flag_eq_of_reg (hreg _ (by simp only [Reg.hdr_ARMED]; omega))).trans (h.calm page)
  · exact hnode.trans (State.fld_eq_of_reg (f := Reg.krt_NODEID) (hreg _ (by simp only [Reg.krt_NODEID]; omega))).symm
  · obtain ⟨hhbm, hok⟩ := hout i hi
    have hlow : x.place fp64 i < 0x280_0000_0000 := of_decide_eq_true hhbm
    have hlen := outLen_le hsound.1 fp64
    rw [State.check_hbm_iff hhbm (by omega)] at hok
    exact (hbmHeld_of_grants fun o ho _ => hreg o (by omega)).mpr hok

/-- A COMMIT that passes its checks marks its blocks, and has written them all (R131). -/
theorem AtGate.writes (h : AtGate s x) (hcheck : s.commitCheck x = .go fp64 v) (hnode : gNode x.dst = s.nodeId)
    (hout : ∀ i, i < x.nblk → isHbm (x.place fp64 i) = true ∧ s.check (some x.stn) (x.place fp64 i) (x.outLen fp64) true = .ok) :
    let t := (s.commitGate x.id).landed
    (∃ y ∈ t.spks, y = { x with phase := 1, sent := x.nblk }) ∧
    (∀ b, x.blk ≤ b → b < x.blk + x.nblk → t.fld (spByte x.q b) = s.fld (spByte x.q b) ||| 64) ∧
    ∀ i j, i < x.nblk → j < x.outLen fp64 → t.byte (x.place fp64 i + j) = (s.committed x fp64 v i).getD j 0 := by
  intro t
  have hfits := h.fits hcheck hnode hout
  have hwritten := hfits.blocksWritten v x.nblk (Nat.le_refl _)
  obtain ⟨honly, hmem, -⟩ := h.committing_leaves
  have hblocks : x.blocks = x.nblk := by
    have hsrc := h.noSpill
    rw [Spk.NoSpill] at hsrc
    rw [Spk.blocks, if_pos hsrc, Nat.add_zero]
  generalize hm : (List.range x.nblk).foldl (fun m i => m.commitWrite x fp64 v i) (s.committing x) = m at hwritten
  obtain ⟨htagOnly, htagReg, htagByte⟩ := m.commitTags_leaves x fp64
  have ht : t = { m.commitTags x fp64 with
      spks := (m.commitTags x fp64).spks.map (fun y => if y.id = x.id then { x with phase := 1, sent := x.nblk } else y), flight := [] } := by
    have hgate := h.commitGate_eq
    rw [commitCheck_commitRead h.stn h.blocks h.q h.noSpill h.calm, hcheck, State.commitActs, hblocks] at hgate
    rw [← hm]
    exact congrArg State.landed hgate
  have hspks : (m.commitTags x fp64).spks = s.spks := by
    have e : m.commitTags x fp64 = _ := (honly.trans hwritten.only).trans htagOnly
    rw [e]
    rfl
  have hfirst := List.find?_some (p := fun y : Spk => decide (y.id = x.id) && y.unwritten) h.waits
  refine ⟨⟨_, ?_, rfl⟩, fun b hlo hhi => ?_, fun i j hi hj => ?_⟩
  · rw [ht, hspks]
    exact List.mem_map.mpr ⟨x, List.mem_of_find?_eq_some h.waits, if_pos rfl⟩
  · have hoff := spByte_off (q := x.q) (b := b) (by have := h.blocks; omega)
    have hq := h.q
    have hreg : t.reg (spByte x.q b).off = (s.committing x).reg (spByte x.q b).off := by
      rw [ht]
      exact (htagReg _).trans (hwritten.reg _ fun ⟨hlow, _, _⟩ => by omega)
    rw [State.fld_eq_of_reg (f := spByte x.q b) hreg, h.fld_committing hlo hhi]
  · have hbyte : t.byte (x.place fp64 i + j) = (m.commitTags x fp64).byte (x.place fp64 i + j) := by
      rw [ht]
      rfl
    rw [hbyte, htagByte _ (hfits.noTags hi j hj), hwritten.blocks i j hi hj]
    exact congrArg (·.getD j 0) (State.committed_congr (fun a _ => congrArg (fun mem => SMap.get memZero mem a) hmem) i)

end Passes

/-- Settles O19: at its gate by what its checks say, and where they pass by induction over the blocks that it writes; at its end by
the blocks that it closes and the counter that it counts. -/
theorem commits : Obligations.Commits := by
  unfold Obligations.Commits
  constructor
  · intro s x hsafe hx hq hn hb hsrc closed held
    have hgate (hc : Calm s) (hopen : ¬ closed) (hfree : ¬ held) : AtGate s x :=
      ⟨hsafe, hc, hq, hn, hb, hx, hsrc, Bool.eq_false_iff.mpr fun g => hopen ((State.gated_iff hx).mp g),
        Bool.eq_false_iff.mpr fun g => hfree (State.gateHeld_iff.mp g)⟩
    refine ⟨fun hwait => ?_, fun hopen hfree hc st c bad hcheck => ?_, fun hopen hfree hc fp64 v hcheck hnode => ?_⟩
    · rw [exec_commitGate, State.commitGate_waits hx hsrc (hwait.imp (State.gated_iff hx).mpr State.gateHeld_iff.mpr)]
      rfl
    · exact ⟨_, exec_commitGate x.id s, (hgate hc hopen hfree).fails hcheck⟩
    · intro out at_ hout _
      have hsound := s.commitCheck_sound x
      rw [hcheck] at hsound
      have hlen (i : Nat) : (out i).length = x.outLen fp64 := length_commitBytes hsound.1 _ _ _ (s.length_bytes _ _)
      have hplace (i : Nat) : at_ i = x.place fp64 i := by
        simp only [at_, hlen]
        rfl
      simp only [hlen, hplace] at hout ⊢
      exact ⟨_, exec_commitGate x.id s, (hgate hc hopen hfree).writes hcheck hnode hout⟩
  · intro s x hsafe hx hq hn hb hfit hctr _ hacked
    exact ⟨_, exec_commitDone x.id s, commitDone_closes hsafe hx hq hn hb hfit hctr hacked⟩

end Sys2Proof.Machine

/-! An operation whose transposed results go to the Stockpot past its last block (R116, R117, R128): the state in which the rows
that did not arrive change what a sequencer has counted. -/

namespace Sys2Proof.Machine

open Sys2Proof.Spec

-- One proof at a time: side by side, their threads take more memory than the check has.
set_option Elab.async false

/-- A GOP of 31 rows and 31 waves on the Pan of quadrant 0. -/
def strayTrnWord : BitVec 256 := BitVec.ofNat 256 (0x10 + 31 <<< 71 + 31 <<< 95)

/-- A drain program with TRN and DKIND 2, DST at byte 0 of the Stockpot, its addresses from generator slot 0. -/
def strayTrnDrain : BitVec 192 := BitVec.ofNat 192 (2 <<< 132 + 1 <<< 191)

/-- The operation of station 1 at its end: 31 runs have come of a TRN group of 32, whose columns are to lie 0x3813_C000 bytes apart. -/
def strayTrnGop : Gop :=
  { id := 0, stn := 1, pc := 5, qmask := 1, word := strayTrnWord, agA := [⟨31, 32⟩], agB := [⟨16, 32⟩]
    drains := [⟨0, strayTrnDrain, [⟨16, 0x3813_C000⟩]⟩], fenced := false, granted := true, chained := false, injected := 31
    inflight := [], held := [], shadow := none, col := 0, done := 31, parts := [], rows := [], blocks := [], psnBlocks := []
    runs := [(0, 31)], staged := [], released := 0, reissue := false, checks := [], taps := [], mxbuf := [], wbuf := []
    slip := none, poison := false }

/-- Its launch, still running. -/
def strayTrnLaunch : Launch := ⟨5, 1, none, false, false, 0⟩

/-- The sequencer of quadrant 0 runs for station 1, with one command counted. -/
def strayTrnState : State :=
  { State.reset with
    regs := [(0xC0138, 0x1_0000_0001#64)], launches := [(1, some strayTrnLaunch)], gops := [strayTrnGop], nextId := 1 }

/-- The state byte of block 0x3_813C, which no Stockpot has, would be the low byte of CMD_DONE. -/
theorem strayTrn_aliases : (spByte 0 0x3_813C).off = (Reg.seq_CMD_DONE 0 1).off ∧
    (spByte 0 0x3_813C).lo = (Reg.seq_CMD_DONE 0 1).lo := by decide

/-- The rows filled in with +0 take the count 1 for an open block, and mark it FP32 and poisoned: 0x13. -/
theorem strayTrn_fill_changes : (strayTrnState.fillTrn strayTrnGop).1.fld (Reg.seq_CMD_DONE 0 1) = 0x13 := by decide +kernel

/-- At the boundary the operation is counted on top of that. -/
theorem strayTrn_boundary_counts : (strayTrnState.boundary 40 [40]).landed.fld (Reg.seq_CMD_DONE 0 1) = 0x14 := by decide +kernel

/-- Refutes O22: its last part bounds nothing of a drain program. One with TRN and DKIND 2, which no GOP issues with (R116), adds the
rows that did not arrive to Stockpot elements at its generator's addresses, and one of these lies where the block's state byte would be
CMD_DONE of the operation's own sequencer: 1 becomes 0x14 and not 2. Drain programs that pass the checks of issue would mend the
clause. -/
theorem not_tilesAndBoundaries : ¬ Obligations.TilesAndBoundaries := by
  unfold Obligations.TilesAndBoundaries
  rintro ⟨-, hboundary⟩
  have hgranted : strayTrnState.gops.find? (fun x => x.granted) = some strayTrnGop := rfl
  have hend : strayTrnGop.atEnd = true := by decide +kernel
  have hsafe : strayTrnState.safe = false := by decide +kernel
  have hone : (strayTrnState.gops.map (fun x => x.id)).Nodup := List.nodup_singleton 0
  have hwaves : strayTrnGop.f.waves = 31 := by decide +kernel
  have hlocal : ((strayTrnState.fillTrn strayTrnGop).1.flushMx (strayTrnState.fillTrn strayTrnGop).2).2.remoteBlocks strayTrnState.nodeId = [] := by
    decide +kernel
  obtain ⟨t, ht, -, -, -, -, -, -, hcount⟩ := hboundary strayTrnState strayTrnGop ⟨40, [40]⟩ strayTrnLaunch hgranted hend hsafe hone
    hwaves.symm hwaves.symm rfl rfl (by decide) rfl hlocal
  obtain rfl : (strayTrnState.boundary 40 [40]).landed = t := Host.Outcome.next.inj ht
  have hcounted : Counted strayTrnState (strayTrnState.boundary 40 [40]).landed (Reg.seq_CMD_DONE 0 1) := hcount 0 (by decide)
  have hbefore : strayTrnState.fld (Reg.seq_CMD_DONE 0 1) = 1 := by decide +kernel
  rw [Counted, strayTrn_boundary_counts, hbefore] at hcounted
  exact absurd hcounted (by decide)

end Sys2Proof.Machine

/-! Jobs over the norm accumulators: GO of RFLUSH and of SCAN (R147 to R149). -/

namespace Sys2Proof.Machine

open Sys2Proof.Spec

-- One proof at a time: side by side, their threads take more memory than the check has.
set_option Elab.async false

/-! ## A host's write of a register of LDL (R406 to R408) -/

section LdlDraft

variable {s : State} {off v q : Nat} {e : FieldRow × List Nat}

theorem blkOf_ldl (hq : q < 4) : blkOf (8 + q) = some (.ldl, q) := by
  interval_cases q <;> rfl

/-- A value held within its field's stated range. -/
def FieldRow.held (r : FieldRow) (x : Nat) : Nat :=
  match r.rng with
  | some (lo, hi) => max lo (min hi x)
  | none => x

/-- A field of LDL that any master writes takes the host's value, held within its range. -/
theorem State.draftField_ldl (d : Draft) (hq : q < 4) (hoff : off / 0x1_0000 = 8 + q) (hacc : e.1.acc = .rw ∨ e.1.acc = .wo)
    (hwr : e.1.wr = .any) (hbase : e.1.base ≠ 0x60) :
    s.draftField .host off v d e =
      { d with
        word := insertBits d.word e.1.hi e.1.lo (e.1.held (bitsOf v e.1.hi e.1.lo))
        clamped := d.clamped || decide (e.1.held (bitsOf v e.1.hi e.1.lo) ≠ bitsOf v e.1.hi e.1.lo) } := by
  have hmay : s.mayWrite .host off e = true := mayWrite_host hwr
  have hlock : s.lockedAt off e = false := by simp [State.lockedAt, hoff, blkOf_ldl hq]
  have hclamp (x : Nat) : s.clampOf off e.1 x = e.1.held x := by
    simp only [State.clampOf, hoff, blkOf_ldl hq, hbase, false_and, if_false]
    rfl
  have hround (x : Nat) : roundOf off x = x := by rw [roundOf, if_neg (by omega), if_neg (by omega)]
  rcases hacc with h | h <;> simp [State.draftField, h, hmay, hlock, hclamp, hround]

/-- No register of LDL holds a count that must fit a resource. -/
theorem fitWord_ldl (hq : q < 4) (hoff : off / 0x1_0000 = 8 + q) (w : Nat) : fitWord off w = w := by
  rw [fitWord, if_neg (by omega), if_neg (by omega)]

/-- A write acts once its clamps are counted. -/
theorem State.busWrite_ldl (hup : HostUp s) (hq : q < 4) (hoff : off / 0x1_0000 = 8 + q)
    (hw : ∃ e ∈ rowsAt off, e.1.acc ≠ .ro ∧ e.1.wr = .any) (hpo : 0x100 ≤ off % 0x1_0000) :
    s.busWrite .host off v = (s.counted .host off (s.draft .host off v)).ldlWrite .host q off (s.draft .host off v) := by
  obtain ⟨e, he, hacc, hwr⟩ := hw
  have hdrop : s.enDropped off v = false := by
    rw [State.enDropped, decide_eq_false (by omega), Bool.false_and, Bool.false_and]
  rw [State.busWrite_taken (reaches_of_hostUp hup) (by omega) ⟨e, he, hacc, mayWrite_host hwr⟩ hdrop]
  simp only [State.regEffect, hoff, blkOf_ldl hq, if_neg (Nat.not_lt.mpr hpo)]

/-- A counted clamp leaves the written register. -/
theorem State.reg_counted_self {d : Draft} (href : d.refused = false) (hoff : off % 0x1_0000 ≠ 0x20) :
    (s.counted .host off d).reg off = s.reg off := by
  rw [State.counted_of_not_refused _ _ _ href]
  split
  · exact State.reg_clampAt_other _ _ (by omega)
  · rfl

theorem regsOnly_counted {d : Draft} (href : d.refused = false) : RegsOnly s (s.counted .host off d) :=
  s.counted_frame_of_not_refused .host off href

end LdlDraft

/-! ## The two registers with GO -/

/-- A field of RFLUSH, of station n. -/
def rflushRow (n hi lo : Nat) (acc : Acc) (wr : Writer) : FieldRow × List Nat :=
  (⟨0x1018, [(0x40, 8)], hi, lo, acc, 0, wr, none, false, true, .stn⟩, [n])

theorem rowsAt_rflush : ∀ n : Stn, rowsAt (Reg.ldl_GO 0 n).off =
    [rflushRow n 15 0 .wo .any, rflushRow n 18 16 .wo .any, rflushRow n 62 62 .ro .none, rflushRow n 63 63 .w1s .any] := by decide +kernel

/-- A field of SCAN, of station n. -/
def scanRow (n hi lo : Nat) (acc : Acc) (wr : Writer) (rng : Option (Nat × Nat)) : FieldRow × List Nat :=
  (⟨0x1020, [(0x40, 8)], hi, lo, acc, 0, wr, rng, false, false, .stn⟩, [n])

theorem rowsAt_scan : ∀ (q : Quad) (n : Stn), rowsAt (Reg.ldl_GO_1020 q n).off =
    [scanRow n 13 0 .rw .any none, scanRow n 28 14 .rw .any (some (0, 16384)), scanRow n 32 29 .rw .any none, scanRow n 62 62 .ro .none none,
      scanRow n 63 63 .w1s .any none] := by decide +kernel

/-- The word of RFLUSH that a write of v leaves. -/
def rflushWord (old v : Nat) : Nat := insertBits (insertBits old 15 0 (bitsOf v 15 0)) 18 16 (bitsOf v 18 16)

/-- The word of SCAN that a write of v leaves. -/
def scanWord (old v : Nat) : Nat :=
  insertBits (insertBits (insertBits old 13 0 (bitsOf v 13 0)) 28 14 (min 16384 (bitsOf v 28 14))) 32 29 (bitsOf v 32 29)

section Words

variable (old v : Nat)

theorem rflushWord_layer : bitsOf (rflushWord old v) 15 0 = bitsOf v 15 0 := by
  rw [rflushWord, bitsOf_insertBits_apart _ _ _ _ _ _ (by decide) (by decide), bitsOf_insertBits_same _ _ _ _ (by decide),
    Nat.mod_eq_of_lt (bitsOf_lt v 15 0)]

theorem rflushWord_pair : bitsOf (rflushWord old v) 18 16 = bitsOf v 18 16 := by
  rw [rflushWord, bitsOf_insertBits_same _ _ _ _ (by decide), Nat.mod_eq_of_lt (bitsOf_lt v 18 16)]

theorem rflushWord_busy : bitsOf (rflushWord old v) 62 62 = bitsOf old 62 62 := by
  rw [rflushWord, bitsOf_insertBits_apart _ _ _ _ _ _ (by decide) (by decide), bitsOf_insertBits_apart _ _ _ _ _ _ (by decide) (by decide)]

theorem scanWord_block : bitsOf (scanWord old v) 13 0 = bitsOf v 13 0 := by
  rw [scanWord, bitsOf_insertBits_apart _ _ _ _ _ _ (by decide) (by decide), bitsOf_insertBits_apart _ _ _ _ _ _ (by decide) (by decide),
    bitsOf_insertBits_same _ _ _ _ (by decide), Nat.mod_eq_of_lt (bitsOf_lt v 13 0)]

theorem scanWord_count : bitsOf (scanWord old v) 28 14 = min 16384 (bitsOf v 28 14) := by
  rw [scanWord, bitsOf_insertBits_apart _ _ _ _ _ _ (by decide) (by decide), bitsOf_insertBits_same _ _ _ _ (by decide),
    Nat.mod_eq_of_lt (lt_of_le_of_lt (Nat.min_le_right _ _) (bitsOf_lt v 28 14))]

theorem scanWord_accumulator : bitsOf (scanWord old v) 32 29 = bitsOf v 32 29 := by
  rw [scanWord, bitsOf_insertBits_same _ _ _ _ (by decide), Nat.mod_eq_of_lt (bitsOf_lt v 32 29)]

theorem scanWord_busy : bitsOf (scanWord old v) 62 62 = bitsOf old 62 62 := by
  rw [scanWord, bitsOf_insertBits_apart _ _ _ _ _ _ (by decide) (by decide), bitsOf_insertBits_apart _ _ _ _ _ _ (by decide) (by decide),
    bitsOf_insertBits_apart _ _ _ _ _ _ (by decide) (by decide)]

end Words

section Go

variable {s : State} {v : Nat} (q : Quad) (n : Stn)

theorem ldl_GO_place : (Reg.ldl_GO 0 n).off / 0x1_0000 = 8 + 0 ∧ (Reg.ldl_GO 0 n).off % 0x1_0000 = 0x1018 + 0x40 * n := by
  have := n.isLt
  simp only [Reg.ldl_GO]
  omega

theorem ldl_GO_1020_place : (Reg.ldl_GO_1020 q n).off / 0x1_0000 = 8 + q ∧ (Reg.ldl_GO_1020 q n).off % 0x1_0000 = 0x1020 + 0x40 * n := by
  have := n.isLt
  simp only [Reg.ldl_GO_1020]
  omega

theorem bitsOf_go (hgo : v.testBit 63 = true) : bitsOf v 63 63 = 1 := by rw [bitsOf_one, hgo]; rfl

/-- A write of RFLUSH with GO: every field takes its value, and GO acts. -/
theorem State.draft_rflush (hgo : v.testBit 63 = true) :
    s.draft .host (Reg.ldl_GO 0 n).off v = ⟨rflushWord (s.reg (Reg.ldl_GO 0 n).off) v, 1 <<< 63, false, false⟩ := by
  obtain ⟨hpage, -⟩ := ldl_GO_place n
  have hwo (hi lo : Nat) (d : Draft) := s.draftField_ldl (v := v) (e := rflushRow n hi lo .wo .any) d (by decide) hpage (.inr rfl) rfl
    (by simp [rflushRow])
  have hro (d : Draft) := State.draftField_readOnly (m := s) (who := .host) (off := (Reg.ldl_GO 0 n).off) (v := v) (d := d)
    (e := rflushRow n 62 62 .ro .none) rfl
  have hset (d : Draft) := State.draftField_set (m := s) (who := .host) (off := (Reg.ldl_GO 0 n).off) (v := v) (d := d)
    (e := rflushRow n 63 63 .w1s .any) rfl rfl
  rw [State.draft, rowsAt_rflush n]
  simp only [List.foldl_cons, List.foldl_nil, hwo, hro, hset, fitWord_ldl (by decide) hpage]
  simp [rflushRow, FieldRow.held, rflushWord, bitsOf_go hgo]

/-- A write of SCAN with GO: a count above 16384 is clamped to it, and GO acts. -/
theorem State.draft_scan (hgo : v.testBit 63 = true) : s.draft .host (Reg.ldl_GO_1020 q n).off v =
    ⟨scanWord (s.reg (Reg.ldl_GO_1020 q n).off) v, 1 <<< 63, decide (16384 < bitsOf v 28 14), false⟩ := by
  obtain ⟨hpage, -⟩ := ldl_GO_1020_place q n
  have hrw (hi lo : Nat) (rng : Option (Nat × Nat)) (d : Draft) := s.draftField_ldl (v := v) (e := scanRow n hi lo .rw .any rng) d q.isLt hpage
    (.inl rfl) rfl (by simp [scanRow])
  have hro (d : Draft) := State.draftField_readOnly (m := s) (who := .host) (off := (Reg.ldl_GO_1020 q n).off) (v := v) (d := d)
    (e := scanRow n 62 62 .ro .none none) rfl
  have hset (d : Draft) := State.draftField_set (m := s) (who := .host) (off := (Reg.ldl_GO_1020 q n).off) (v := v) (d := d)
    (e := scanRow n 63 63 .w1s .any none) rfl rfl
  rw [State.draft, rowsAt_scan q n]
  simp only [List.foldl_cons, List.foldl_nil, hrw, hro, hset, fitWord_ldl q.isLt hpage]
  simp [scanRow, FieldRow.held, scanWord, bitsOf_go hgo]

/-- GO of RFLUSH writes its word and takes a job. -/
theorem State.busWrite_rflush (hup : HostUp s) (hgo : v.testBit 63 = true) : s.busWrite .host (Reg.ldl_GO 0 n).off v =
    (s.setReg (Reg.ldl_GO 0 n).off (rflushWord (s.reg (Reg.ldl_GO 0 n).off) v)).rflushGo 0 n := by
  have hn := n.isLt
  obtain ⟨hpage, hplace⟩ := ldl_GO_place n
  have hd := s.draft_rflush n hgo
  have hgroup : ¬ (0xA00 ≤ 0x1018 + 0x40 * n.val ∧ 0x1018 + 0x40 * n.val < 0xA40) := by omega
  have hflush : 0x1000 ≤ 0x1018 + 0x40 * n.val ∧ 0x1018 + 0x40 * n.val < 0x1200 ∧ (0x1018 + 0x40 * n.val - 0x1000) % 0x40 = 0x18 ∧
      (1 <<< 63).testBit 63 = true := ⟨by omega, by omega, by omega, by decide⟩
  have hidx : (0x1018 + 0x40 * n.val - 0x1000) / 0x40 = n.val := by omega
  rw [State.busWrite_ldl hup (by decide) hpage ⟨_, by rw [rowsAt_rflush n]; exact List.mem_cons_self, by simp [rflushRow], rfl⟩ (by omega),
    hd, State.counted_of_not_refused _ _ _ rfl, State.ldlWrite]
  simp only [hplace, if_neg hgroup, if_pos hflush, hidx]
  rfl

/-- GO of SCAN writes its word and takes a job; a clamped count is counted first. -/
theorem State.busWrite_scan (hup : HostUp s) (hgo : v.testBit 63 = true) : ∃ u, RegsOnly s u ∧
    u.reg (Reg.ldl_GO_1020 q n).off = s.reg (Reg.ldl_GO_1020 q n).off ∧ s.busWrite .host (Reg.ldl_GO_1020 q n).off v =
      (u.setReg (Reg.ldl_GO_1020 q n).off (scanWord (s.reg (Reg.ldl_GO_1020 q n).off) v)).scanGo 0 q n := by
  have hn := n.isLt
  obtain ⟨hpage, hplace⟩ := ldl_GO_1020_place q n
  have hd := s.draft_scan q n hgo
  have hgroup : ¬ (0xA00 ≤ 0x1020 + 0x40 * n.val ∧ 0x1020 + 0x40 * n.val < 0xA40) := by omega
  have hflush : ¬ (0x1000 ≤ 0x1020 + 0x40 * n.val ∧ 0x1020 + 0x40 * n.val < 0x1200 ∧ (0x1020 + 0x40 * n.val - 0x1000) % 0x40 = 0x18 ∧
      (1 <<< 63).testBit 63 = true) := by omega
  have hscan : 0x1000 ≤ 0x1020 + 0x40 * n.val ∧ 0x1020 + 0x40 * n.val < 0x1200 ∧ (0x1020 + 0x40 * n.val - 0x1000) % 0x40 = 0x20 ∧
      (1 <<< 63).testBit 63 = true := ⟨by omega, by omega, by omega, by decide⟩
  have hidx : (0x1020 + 0x40 * n.val - 0x1000) / 0x40 = n.val := by omega
  refine ⟨_, regsOnly_counted (d := ⟨scanWord (s.reg (Reg.ldl_GO_1020 q n).off) v, 1 <<< 63, decide (16384 < bitsOf v 28 14), false⟩) rfl,
    State.reg_counted_self rfl (by omega), ?_⟩
  rw [State.busWrite_ldl hup q.isLt hpage ⟨_, by rw [rowsAt_scan q n]; exact List.mem_cons_self, by simp [scanRow], rfl⟩ (by omega),
    hd, State.ldlWrite]
  simp only [hplace, if_neg hgroup, if_neg hflush, if_pos hscan, hidx]
  rfl

end Go

/-! ## Taking a job (R149) -/

section Take

variable {m : State} {master q n : Nat}

/-- t is m with one more job, and BUSY set. -/
structure TookJob (m t : State) (busy : Fld) (j : NormJob) : Prop where
  norms : t.norms = m.norms ++ [j]
  busy : t.flag busy = true
  frame : t = { m with regs := t.regs, norms := t.norms, nextId := m.nextId + 1 }

theorem State.rflushGo_takes (h : m.flag (Reg.ldl_BUSY_1018 0 n) = false) : TookJob m (m.rflushGo master n) (Reg.ldl_BUSY_1018 0 n)
    ⟨m.nextId, true, 0, n, m.fld (Reg.ldl_LAYER 0 n), m.fld (Reg.ldl_PAIR 0 n), 0, 0, 0, false⟩ := by
  rw [State.rflushGo, if_neg (by simp [h])]
  exact ⟨rfl, State.flag_setFlag _ _ true, rfl⟩

theorem State.rflushGo_busy (h : m.flag (Reg.ldl_BUSY_1018 0 n) = true) :
    (m.rflushGo master n).norms = m.norms ∧ Reported m (m.rflushGo master n) 0x08 0x07 := by
  rw [State.rflushGo, if_pos h]
  exact ⟨by rw [State.access_frame], State.reported_access _ _ _ _ _ _⟩

theorem State.scanGo_takes (h : m.flag (Reg.ldl_BUSY_1020 q n) = false) : TookJob m (m.scanGo master q n) (Reg.ldl_BUSY_1020 q n)
    ⟨m.nextId, false, q, n, m.fld (Reg.ldl_SPBLK q n), m.fld (Reg.ldl_NBLK q n), m.fld (Reg.ldl_NREG q n), m.fld (Reg.ldl_SCAN_SRC q n),
      if m.fld (Reg.ldl_SCAN_SRC q n) = 0 then 0 else m.fld (Reg.ldl_SCAN_SPN q n), m.flag (Reg.ldl_SP_FP64 q n)⟩ := by
  rw [State.scanGo, if_neg (by simp [h])]
  exact ⟨rfl, State.flag_setFlag _ _ true, rfl⟩

theorem State.scanGo_busy (h : m.flag (Reg.ldl_BUSY_1020 q n) = true) :
    (m.scanGo master q n).norms = m.norms ∧ Reported m (m.scanGo master q n) (0x08 + q) 0x07 := by
  rw [State.scanGo, if_pos h]
  exact ⟨by rw [State.access_frame], State.reported_access _ _ _ _ _ _⟩

/-- A job taken once registers changed is a job taken. -/
theorem TookJob.of_regsOnly {s t : State} {busy : Fld} {j : NormJob} (hu : RegsOnly s m) (h : TookJob m t busy j) : TookJob s t busy j := by
  obtain ⟨hnorms, hbusy, hframe⟩ := h
  rw [RegsOnly] at hu
  rw [hu] at hnorms hframe
  exact ⟨hnorms, hbusy, hframe⟩

/-- What is reported once registers changed is reported. -/
theorem reported_of_regsOnly {s t : State} {page code : Nat} (hu : RegsOnly s m) (h : Reported m t page code) : Reported s t page code := by
  rw [RegsOnly] at hu
  rw [hu] at h
  exact h

theorem regsOnly_setReg (m : State) (off w : Nat) : RegsOnly m (m.setReg off w) := rfl

end Take

/-- A field of the register just written. -/
theorem State.fld_setReg_off (m : State) {off : Nat} (w : Nat) (f : Fld) (hoff : f.off = off := by rfl) (hf : f.ok = true := by rfl) :
    (m.setReg off w).fld f = bitsOf w f.hi f.lo := by
  rw [← hoff, m.fld_setReg_same f w (Fld.ok_bounds hf).2]

/-- BUSY stands in a write of RFLUSH. -/
theorem State.flag_rflushWord (s m : State) (n v : Nat) :
    (m.setReg (Reg.ldl_GO 0 n).off (rflushWord (s.reg (Reg.ldl_GO 0 n).off) v)).flag (Reg.ldl_BUSY_1018 0 n) = s.flag (Reg.ldl_BUSY_1018 0 n) := by
  rw [State.flag, State.flag, m.fld_setReg_off _ (Reg.ldl_BUSY_1018 0 n)]
  exact congrArg (fun x => decide (x ≠ 0)) (rflushWord_busy _ v)

/-- BUSY stands in a write of SCAN. -/
theorem State.flag_scanWord (s m : State) (q n v : Nat) :
    (m.setReg (Reg.ldl_GO_1020 q n).off (scanWord (s.reg (Reg.ldl_GO_1020 q n).off) v)).flag (Reg.ldl_BUSY_1020 q n) =
      s.flag (Reg.ldl_BUSY_1020 q n) := by
  rw [State.flag, State.flag, m.fld_setReg_off _ (Reg.ldl_BUSY_1020 q n)]
  exact congrArg (fun x => decide (x ≠ 0)) (scanWord_busy _ v)

section GoJobs

variable {s : State} {q : Quad} {n : Stn} {v : Nat} (hup : HostUp s) (hgo : v.testBit 63 = true)

include hup hgo

/-- GO of RFLUSH takes a job with the layer and the pair that were written (R147). -/
theorem State.busWrite_rflush_takes (hbusy : s.flag (Reg.ldl_BUSY_1018 0 n) = false) : ∃ j,
    TookJob s (s.busWrite .host (Reg.ldl_GO 0 n).off v) (Reg.ldl_BUSY_1018 0 n) j ∧ j.flush = true ∧ j.stn = n.val ∧ j.a = bitsOf v 15 0 ∧
      j.b = bitsOf v 18 16 := by
  let w := rflushWord (s.reg (Reg.ldl_GO 0 n).off) v
  have hfree : (s.setReg (Reg.ldl_GO 0 n).off w).flag (Reg.ldl_BUSY_1018 0 n) = false :=
    (State.flag_rflushWord s s n v).trans hbusy
  rw [State.busWrite_rflush n hup hgo]
  refine ⟨_, (State.rflushGo_takes hfree).of_regsOnly (regsOnly_setReg s _ w), rfl, rfl, ?_, ?_⟩
  · exact (s.fld_setReg_off w (Reg.ldl_LAYER 0 n)).trans (rflushWord_layer _ v)
  · exact (s.fld_setReg_off w (Reg.ldl_PAIR 0 n)).trans (rflushWord_pair _ v)

/-- While a flush runs, another GO takes no job and is recorded. -/
theorem State.busWrite_rflush_busy (hbusy : s.flag (Reg.ldl_BUSY_1018 0 n) = true) :
    (s.busWrite .host (Reg.ldl_GO 0 n).off v).norms = s.norms ∧ Reported s (s.busWrite .host (Reg.ldl_GO 0 n).off v) 0x08 0x07 := by
  let w := rflushWord (s.reg (Reg.ldl_GO 0 n).off) v
  have hheld : (s.setReg (Reg.ldl_GO 0 n).off w).flag (Reg.ldl_BUSY_1018 0 n) = true :=
    (State.flag_rflushWord s s n v).trans hbusy
  rw [State.busWrite_rflush n hup hgo]
  exact State.rflushGo_busy hheld

/-- GO of SCAN takes a job with the blocks and the accumulator that were written (R148). -/
theorem State.busWrite_scan_takes (hbusy : s.flag (Reg.ldl_BUSY_1020 q n) = false) : ∃ j,
    TookJob s (s.busWrite .host (Reg.ldl_GO_1020 q n).off v) (Reg.ldl_BUSY_1020 q n) j ∧ j.flush = false ∧ j.q = q.val ∧ j.stn = n.val ∧
      j.a = bitsOf v 13 0 ∧ j.b = min 16384 (bitsOf v 28 14) ∧ j.c = bitsOf v 32 29 := by
  obtain ⟨u, hu, -, hwrite⟩ := State.busWrite_scan q n hup hgo
  let w := scanWord (s.reg (Reg.ldl_GO_1020 q n).off) v
  have hfree : (u.setReg (Reg.ldl_GO_1020 q n).off w).flag (Reg.ldl_BUSY_1020 q n) = false :=
    (State.flag_scanWord s u q n v).trans hbusy
  rw [hwrite]
  refine ⟨_, (State.scanGo_takes hfree).of_regsOnly (regsOnly_trans hu (regsOnly_setReg u _ w)), rfl, rfl, rfl, ?_, ?_, ?_⟩
  · exact (u.fld_setReg_off w (Reg.ldl_SPBLK q n)).trans (scanWord_block _ v)
  · exact (u.fld_setReg_off w (Reg.ldl_NBLK q n)).trans (scanWord_count _ v)
  · exact (u.fld_setReg_off w (Reg.ldl_NREG q n)).trans (scanWord_accumulator _ v)

/-- While a scan runs, another GO takes no job and is recorded. -/
theorem State.busWrite_scan_busy (hbusy : s.flag (Reg.ldl_BUSY_1020 q n) = true) :
    (s.busWrite .host (Reg.ldl_GO_1020 q n).off v).norms = s.norms ∧ Reported s (s.busWrite .host (Reg.ldl_GO_1020 q n).off v) (8 + q) 0x07 := by
  obtain ⟨u, hu, -, hwrite⟩ := State.busWrite_scan q n hup hgo
  let w := scanWord (s.reg (Reg.ldl_GO_1020 q n).off) v
  have hheld : (u.setReg (Reg.ldl_GO_1020 q n).off w).flag (Reg.ldl_BUSY_1020 q n) = true :=
    (State.flag_scanWord s u q n v).trans hbusy
  have hregs : RegsOnly s (u.setReg (Reg.ldl_GO_1020 q n).off w) := regsOnly_trans hu (regsOnly_setReg u _ w)
  rw [hwrite]
  obtain ⟨hnorms, hreport⟩ := State.scanGo_busy (master := 0) hheld
  refine ⟨?_, reported_of_regsOnly hregs hreport⟩
  rw [RegsOnly] at hregs
  rw [hnorms, hregs]

end GoJobs

end Sys2Proof.Machine

/-! The ratio flush (R147). -/

namespace Sys2Proof.Machine

open Sys2Proof.Spec

-- One proof at a time: side by side, their threads take more memory than the check has.
set_option Elab.async false

/-! ## Accumulators cleared -/

section ClearAcc

variable {m : State} {n r k : Nat}

/-- m with an accumulator of station n, its NV and its PSN cleared. -/
def State.clearAcc (m : State) (n : Nat) (a : Nat × Nat) : State :=
  ((m.setFld (Reg.ldl_NORM a.1 n a.2) 0).setFlag (Reg.ldl_NORM_NV a.1 n a.2) false).setFlag (Reg.ldl_NORM_PSN a.1 n a.2) false

/-- An accumulator with its NV and its PSN. -/
def State.acc (m : State) (n r k : Nat) : Nat × Bool × Bool :=
  (m.fld (Reg.ldl_NORM r n k), m.flag (Reg.ldl_NORM_NV r n k), m.flag (Reg.ldl_NORM_PSN r n k))

theorem State.acc_clearAcc_same : (m.clearAcc n (r, k)).acc n r k = (0, false, false) := by
  have hapart : (Reg.ldl_NORM r n k).off ≠ (Reg.ldl_NORM_NV r n k).off := by
    simp only [Reg.ldl_NORM, Reg.ldl_NORM_NV]
    omega
  have hpsn : (Reg.ldl_NORM r n k).off ≠ (Reg.ldl_NORM_PSN r n k).off := hapart
  let m1 := m.setFld (Reg.ldl_NORM r n k) 0
  let m2 := m1.setFlag (Reg.ldl_NORM_NV r n k) false
  have hval : (m.clearAcc n (r, k)).fld (Reg.ldl_NORM r n k) = 0 := calc
    _ = m2.fld (Reg.ldl_NORM r n k) := State.fld_setReg_other m2 _ hpsn
    _ = m1.fld (Reg.ldl_NORM r n k) := State.fld_setReg_other m1 _ hapart
    _ = 0 := m.fld_setFld _ 0
  have hnv : (m.clearAcc n (r, k)).flag (Reg.ldl_NORM_NV r n k) = false :=
    (m2.flag_setFld_beside (Reg.ldl_NORM_PSN r n k) (Reg.ldl_NORM_NV r n k) _).trans (m1.flag_setFlag _ false)
  have hbad : (m.clearAcc n (r, k)).flag (Reg.ldl_NORM_PSN r n k) = false := m2.flag_setFlag _ false
  rw [State.acc, hval, hnv, hbad]

/-- Clearing an accumulator changes registers of its Ladle between 0x200 and 0xA00. -/
theorem State.reg_clearAcc_other {a : Nat × Nat} {o : Nat} (h : o ≠ (Reg.ldl_NORM a.1 n a.2).off) (hflags : o ≠ (Reg.ldl_NORM_NV a.1 n a.2).off) :
    (m.clearAcc n a).reg o = m.reg o := by
  have hpsn : o ≠ (Reg.ldl_NORM_PSN a.1 n a.2).off := hflags
  rw [State.clearAcc, State.reg_setFlag_other _ _ _ hpsn, State.reg_setFlag_other _ _ _ hflags, State.reg_setFld_other _ _ _ h]

theorem State.acc_eq_of_reg {t : State} (hval : t.reg (Reg.ldl_NORM r n k).off = m.reg (Reg.ldl_NORM r n k).off)
    (hflags : t.reg (Reg.ldl_NORM_NV r n k).off = m.reg (Reg.ldl_NORM_NV r n k).off) : t.acc n r k = m.acc n r k := by
  rw [State.acc, State.acc, State.fld_eq_of_reg hval, State.flag_eq_of_reg hflags]
  exact congrArg (fun b => (_, _, b)) (State.flag_eq_of_reg (f := Reg.ldl_NORM_PSN r n k) hflags)

theorem State.acc_clearAcc_other {a : Nat × Nat} (ha : a.1 < 4 ∧ a.2 < 16) (hrk : r < 4 ∧ k < 16) (hne : a ≠ (r, k)) :
    (m.clearAcc n a).acc n r k = m.acc n r k := by
  obtain ⟨b, l⟩ := a
  have hne : b ≠ r ∨ l ≠ k := by
    by_contra h
    exact hne (by obtain ⟨rfl, rfl⟩ := not_or.mp h |>.imp not_not.mp not_not.mp; rfl)
  obtain ⟨hb, hl⟩ := ha
  refine State.acc_eq_of_reg (State.reg_clearAcc_other ?_ ?_) (State.reg_clearAcc_other ?_ ?_) <;>
    · simp only [Reg.ldl_NORM, Reg.ldl_NORM_NV]
      omega

end ClearAcc

/-! ## The end of a flush -/

section EndFlush

variable {m : State} {n : Nat} {j : NormJob}

/-- m once a flush has cleared its accumulators: BUSY falls, and the job is gone. -/
def State.endFlush (m : State) (n : Nat) (j : NormJob) : State :=
  let m2 := j.regs.foldl (fun m a => m.clearAcc n a) m
  { m2.setFlag (Reg.ldl_BUSY_1018 0 n) false with norms := m2.norms.filter (fun k => decide (k.id ≠ j.id)) }

theorem mem_regs_flush (h : j.flush = true) {a : Nat × Nat} : a ∈ j.regs ↔ a.1 < 4 ∧ (a.2 = 2 * j.b ∨ a.2 = 2 * j.b + 1) := by
  obtain ⟨r, k⟩ := a
  simp only [NormJob.regs, h, if_true, List.mem_flatMap, List.mem_range, List.mem_cons, List.not_mem_nil, or_false, Prod.mk.injEq]
  constructor
  · rintro ⟨q, hq, ⟨rfl, hk⟩ | ⟨rfl, hk⟩⟩
    · exact ⟨hq, .inl hk⟩
    · exact ⟨hq, .inr hk⟩
  · rintro ⟨hr, hk | hk⟩
    · exact ⟨r, hr, .inl ⟨rfl, hk⟩⟩
    · exact ⟨r, hr, .inr ⟨rfl, hk⟩⟩

theorem nodup_regs_flush (h : j.flush = true) : j.regs.Nodup := by
  simp [NormJob.regs, h, List.range_succ]

theorem regsOnly_clearAccs (l : List (Nat × Nat)) : RegsOnly m (l.foldl (fun m a => m.clearAcc n a) m) :=
  regsOnly_foldl (f := fun m a => m.clearAcc n a) l (fun _ _ => rfl) m

/-- The end of a flush changes registers, and the jobs. -/
theorem State.endFlush_frame :
    m.endFlush n j = { m with regs := (m.endFlush n j).regs, norms := m.norms.filter (fun k => decide (k.id ≠ j.id)) } := by
  have h := regsOnly_clearAccs (m := m) (n := n) j.regs
  rw [RegsOnly] at h
  rw [State.endFlush, h]
  rfl

theorem State.flag_endFlush_busy : (m.endFlush n j).flag (Reg.ldl_BUSY_1018 0 n) = false := State.flag_setFlag _ _ false

/-- A register of LDL's station blocks, but for RFLUSH, stands. -/
theorem State.reg_endFlush_other {o : Nat} (hn : n < 8) (h : j.flush = true) (hb : j.b < 8) (ho : 0x1000 ≤ o % 0x1_0000)
    (hne : o ≠ (Reg.ldl_BUSY_1018 0 n).off) : (m.endFlush n j).reg o = m.reg o := by
  refine (State.reg_setFlag_other _ _ false hne).trans (foldl_keeps (v := fun m : State => m.reg o) (fun m a ha => ?_) m)
  obtain ⟨har, hak⟩ := (mem_regs_flush h).mp ha
  refine State.reg_clearAcc_other ?_ ?_ <;>
    · simp only [Reg.ldl_NORM, Reg.ldl_NORM_NV]
      omega

/-- Both accumulators of the pair are cleared in all four Ladles (R147). -/
theorem State.acc_endFlush (hn : n < 8) (h : j.flush = true) (hb : j.b < 8) {r k : Nat} (hr : r < 4) (hk : k = 2 * j.b ∨ k = 2 * j.b + 1) :
    (m.endFlush n j).acc n r k = (0, false, false) := by
  have hbusy : ((j.regs.foldl (fun m a => m.clearAcc n a) m).setFlag (Reg.ldl_BUSY_1018 0 n) false).acc n r k =
      (j.regs.foldl (fun m a => m.clearAcc n a) m).acc n r k := by
    refine State.acc_eq_of_reg (State.reg_setFlag_other _ _ _ ?_) (State.reg_setFlag_other _ _ _ ?_) <;>
      · simp only [Reg.ldl_NORM, Reg.ldl_NORM_NV, Reg.ldl_BUSY_1018]
        omega
  refine hbusy.trans (foldl_once (v := fun m : State => m.acc n r k) (g := fun _ => (0, false, false)) (nodup_regs_flush h)
    ((mem_regs_flush h).mpr ⟨hr, hk⟩) (fun m => State.acc_clearAcc_same) (fun m a ha hne => ?_) m)
  obtain ⟨har, hak⟩ := (mem_regs_flush h).mp ha
  exact State.acc_clearAcc_other ⟨har, by omega⟩ ⟨hr, by omega⟩ hne

end EndFlush

/-! ## The record of a flush -/

section Record

variable {s : State} {n : Nat} {j : NormJob}

/-- The record of a flush written, or its drop recorded (R147). -/
def State.flushRecord (m : State) (n : Nat) (j : NormJob) : State :=
  let base := m.fld (Reg.ldl_RLOG_BASE 0 n) * 4096
  let len := m.fld (Reg.ldl_RLOG_LEN 0 n)
  let head := m.fld (Reg.ldl_RLOG_HEAD 0 n)
  if len = 0 ∨ !m.inHbmRange n base (4096 * len) then m.access 0x08 0x14 (some n) 1 base
  else (m.storeP n (base + head % (128 * len) * 32) (m.ratioRecord n j.a j.b) false 0).landed.setFld (Reg.ldl_RLOG_HEAD 0 n) (head + 1)

/-- The only job, with its accumulators free, is flushed. -/
theorem State.rflushDone_eq (hsafe : s.safe = false) (hj : s.norms = [j]) (hflush : j.flush = true) (hstn : j.stn = n)
    (hfree : s.normBusy j = false) : s.rflushDone n = (s.flushRecord n j).endFlush n j := by
  have hfind : s.norms.find? (fun j => j.flush && decide (j.stn = n)) = some j := by simp [hj, hflush, hstn]
  have hfirst : s.norms.takeWhile (fun k => decide (k.id ≠ j.id)) = [] := by simp [hj]
  rw [State.rflushDone, hfind]
  simp only [hsafe, hfree, hfirst, List.any_nil, Bool.false_eq_true, or_self, if_false]
  rfl

theorem State.ratioRecord_length (layer b : Nat) : (s.ratioRecord n layer b).length = 32 := by
  simp only [State.ratioRecord, List.length_append, leBytes_length]

theorem State.flushRecord_norms : (s.flushRecord n j).norms = s.norms := by
  unfold State.flushRecord
  extract_lets base len head
  split
  · rw [State.access_frame]
  · have h := ((State.MemOnly.storeP s n (base + head % (128 * len) * 32) (s.ratioRecord n j.a j.b) false 0).trans (.landed _)).trans
      (.setFld _ (Reg.ldl_RLOG_HEAD 0 n) (head + 1))
    rw [State.MemOnly] at h
    rw [h]
    rfl

/-- Without an RLOG the flush is recorded as a refused access, and no record is written. -/
theorem State.flushRecord_none (hlen : s.fld (Reg.ldl_RLOG_LEN 0 n) = 0) :
    s.flushRecord n j = s.access 0x08 0x14 (some n) 1 (s.fld (Reg.ldl_RLOG_BASE 0 n) * 4096) := if_pos (.inl hlen)

/-- An aligned record that begins outside the tag area lies outside it. -/
theorem inTagArea_within {a x : Nat} (ha : inTagArea a = false) (halign : a % 32 = 0) (hx : a ≤ x ∧ x < a + 32) : inTagArea x = false := by
  simp only [inTagArea, isHbm, Bool.and_eq_false_iff, decide_eq_false_iff_not] at ha ⊢
  omega

/-- With an RLOG the record is written at RLOG_HEAD's place, and counted. -/
theorem State.flushRecord_written {base len a : Nat} (hbase : s.fld (Reg.ldl_RLOG_BASE 0 n) * 4096 = base) (hlen : s.fld (Reg.ldl_RLOG_LEN 0 n) = len)
    (ha : base + s.fld (Reg.ldl_RLOG_HEAD 0 n) % (128 * len) * 32 = a) (hsome : len ≠ 0) (hrange : s.inHbmRange n base (4096 * len) = true)
    (htag : inTagArea a = false) : (s.flushRecord n j).bytes a 32 = s.ratioRecord n j.a j.b ∧
      (s.flushRecord n j).fld (Reg.ldl_RLOG_HEAD 0 n) = (s.fld (Reg.ldl_RLOG_HEAD 0 n) + 1) % 2 ^ 32 := by
  have hrecord : s.flushRecord n j = (s.storeP n a (s.ratioRecord n j.a j.b) false 0).landed.setFld (Reg.ldl_RLOG_HEAD 0 n)
      (s.fld (Reg.ldl_RLOG_HEAD 0 n) + 1) := by
    unfold State.flushRecord
    extract_lets base' len' head
    rw [if_neg (by simp [base', len', hbase, hlen, hsome, hrange])]
    simp only [base', len', head, hbase, hlen, ha]
  have hlength := s.ratioRecord_length (n := n) j.a j.b
  have halign : a % 32 = 0 := by omega
  rw [hrecord]
  constructor
  · refine List.ext_getElem (by rw [State.length_bytes, hlength]) fun i hi hi' => ?_
    rw [State.length_bytes] at hi
    simp only [State.bytes_eq, List.getElem_map, List.getElem_range]
    refine (State.byte_store s n a _ (fun _ _ => false) 0 (inTagArea_within htag halign (x := a + i) (by omega))).trans ?_
    rw [if_pos (by omega), Nat.add_sub_cancel_left, List.getD_eq_getElem _ _ hi']
  · exact State.fld_setFld _ _ _

end Record

section Flush

variable {n : Stn} {j : NormJob}

/-- A flush comes to its end: the job is gone, and the pair is cleared (R147). -/
theorem State.endFlush_landed (m : State) (hj : m.norms = [j]) (hflush : j.flush = true) (hb : j.b < 8) :
    (m.endFlush n j).landed.norms = [] ∧ (m.endFlush n j).landed.flag (Reg.ldl_BUSY_1018 0 n) = false ∧
      ∀ r, r < 4 → ∀ k, k = 2 * j.b ∨ k = 2 * j.b + 1 → (m.endFlush n j).landed.acc n r k = (0, false, false) := by
  refine ⟨?_, State.flag_endFlush_busy, fun r hr k hk => State.acc_endFlush n.isLt hflush hb hr hk⟩
  rw [State.landed_norms, State.endFlush_frame, hj]
  simp

theorem State.fld_endFlush_HEAD (m : State) (hflush : j.flush = true) (hb : j.b < 8) :
    (m.endFlush n j).landed.fld (Reg.ldl_RLOG_HEAD 0 n) = m.fld (Reg.ldl_RLOG_HEAD 0 n) := by
  have hn := n.isLt
  refine State.fld_eq_of_reg (State.reg_endFlush_other hn hflush hb ?_ ?_) <;>
    · simp only [Reg.ldl_RLOG_HEAD, Reg.ldl_BUSY_1018]
      omega

theorem State.endFlush_kept (m : State) : SameMemory m (m.endFlush n j).landed ∧ (m.endFlush n j).landed.events = m.events := by
  have h := State.endFlush_frame (m := m) (n := n) (j := j)
  have hmem : (m.endFlush n j).mem = m.mem := by rw [h]
  have hpoison : (m.endFlush n j).poison = m.poison := by rw [h]
  have hevents : (m.endFlush n j).events = m.events := by rw [h]
  exact ⟨memory_of_eq hmem hpoison, hevents⟩

theorem State.bytes_endFlush (m : State) (a len : Nat) : (m.endFlush n j).landed.bytes a len = m.bytes a len := by
  rw [State.endFlush_frame]
  rfl

theorem lowReg_RLOG_HEAD (n : Stn) : LowReg (Reg.ldl_RLOG_HEAD 0 n).off := by
  have := n.isLt
  simp only [LowReg, Reg.ldl_RLOG_HEAD]
  omega

end Flush

end Sys2Proof.Machine

/-! The norm scan of one open FP64 block (R148). -/

namespace Sys2Proof.Machine

open Sys2Proof.Spec

-- One proof at a time: side by side, their threads take more memory than the check has.
set_option Elab.async false

/-! ## Elements in memory (R36), and poison within a block -/

theorem leNat_drop (l : List Byte) (k : Nat) : leNat (l.drop k) = leNat l / 2 ^ (8 * k) := by
  induction l generalizing k with
  | nil => simp [leNat]
  | cons b l ih =>
    cases k with
    | zero => simp
    | succ k =>
      have hb := b.isLt
      rw [List.drop_succ_cons, ih, leNat, show 8 * (k + 1) = 8 + 8 * k by ring, Nat.pow_add, ← Nat.div_div_eq_div_mul]
      congr 1
      omega

theorem leNat_take (l : List Byte) (k : Nat) : leNat (l.take k) = leNat l % 2 ^ (8 * k) := by
  induction l generalizing k with
  | nil => simp [leNat]
  | cons b l ih =>
    cases k with
    | zero => simp [leNat, Nat.mod_one]
    | succ k =>
      have hb := b.isLt
      rw [List.take_succ_cons, leNat, ih, leNat, show 8 * (k + 1) = 8 + 8 * k by ring, Nat.pow_add, Nat.mod_mul,
        show (b.toNat + 256 * leNat l) / 2 ^ 8 = leNat l by omega]
      omega

section Elements

variable (m : State)

theorem State.bytes_drop_take {a n k len : Nat} (h : k + len ≤ n) : ((m.bytes a n).drop k).take len = m.bytes (a + k) len := by
  refine List.ext_getElem (by rw [List.length_take, List.length_drop, State.length_bytes, State.length_bytes]; omega) fun i _ _ => ?_
  simp only [State.bytes_eq, List.getElem_take, List.getElem_drop, List.getElem_map, List.getElem_range, Nat.add_assoc]

/-- Element i of 64-bit elements is the word in its place. -/
theorem State.elemAt_bytes {a n i : Nat} (h : 8 * i + 8 ≤ n) : elemAt (leNat (m.bytes a n)) 64 i = m.word (a + 8 * i) 8 := by
  rw [elemAt, State.word, ← m.bytes_drop_take h, leNat_take, leNat_drop, Nat.shiftRight_eq_div_pow, show 64 * i = 8 * (8 * i) by ring]

theorem SMap.isEmpty_slice {α : Type} (m : SMap α) (a n : Nat) : (m.slice a n).isEmpty = true ↔ ∀ e ∈ m, ¬ (a ≤ e.1 ∧ e.1 < a + n) := by
  simp [SMap.slice, List.filter_eq_nil_iff]

/-- What carries no poison carries none within. -/
theorem State.psnIn_within {a n b k : Nat} (h : m.psnIn a n = false) (hab : a ≤ b) (hbk : b + k ≤ a + n) : m.psnIn b k = false := by
  by_cases hk : k = 0
  · simp [State.psnIn, State.psnStored, hk]
  have hn : 0 < n := by omega
  have hlo : a / 32 ≤ b / 32 := Nat.div_le_div_right hab
  have hhi : (b + k - 1) / 32 ≤ (a + n - 1) / 32 := Nat.div_le_div_right (by omega)
  simp only [State.psnIn, State.psnStored, hn, decide_true, Bool.and_true, Bool.true_and, Bool.or_eq_false_iff, Bool.not_eq_false',
    SMap.isEmpty_slice, List.any_eq_false, decide_eq_true_eq] at h
  obtain ⟨hstored, hflight⟩ := h
  simp only [State.psnIn, State.psnStored, Nat.pos_of_ne_zero hk, decide_true, Bool.and_true, Bool.true_and, Bool.or_eq_false_iff,
    Bool.not_eq_false', SMap.isEmpty_slice, List.any_eq_false, decide_eq_true_eq]
  exact ⟨fun e he hin => hstored e he (by omega), fun g hg hin => hflight g hg (by omega)⟩

end Elements

/-! ## Squares added to an accumulator -/

/-- What each step does to a view, all do to it in a row. -/
theorem foldl_view {α β γ : Type} {f : α → β → α} {g : γ → β → γ} {v : α → γ} {l : List β} (h : ∀ m, ∀ b ∈ l, v (f m b) = g (v m) b) (m : α) :
    v (l.foldl f m) = l.foldl g (v m) := by
  induction l generalizing m with
  | nil => rfl
  | cons b l ih => rw [List.foldl_cons, List.foldl_cons, ih (fun m c hc => h m c (List.mem_cons_of_mem _ hc)), h m b List.mem_cons_self]

section Squares

variable {m : State} {q n c : Nat}

theorem regsOnly_normAdd (x : Num) : RegsOnly m (m.normAdd q n c x false) := by
  cases x <;> rfl

/-- The square of a finite value is added with one rounding (R148). -/
theorem State.fld_normAdd {x : Num} (hx : ∃ sg k e, x = .fin sg k e) : (m.normAdd q n c x false).fld (Reg.ldl_NORM q n c) =
    (Arith.f64.addNum (Fmt.fp64.decode (m.fld (Reg.ldl_NORM q n c))) (square x)).1 % 2 ^ 64 := by
  obtain ⟨sg, k, e, rfl⟩ := hx
  have hapart : (Reg.ldl_NORM q n c).off ≠ (Reg.ldl_NORM_NV q n c).off := by
    simp only [Reg.ldl_NORM, Reg.ldl_NORM_NV]
    omega
  let r := Arith.f64.addNum (Fmt.fp64.decode (m.fld (Reg.ldl_NORM q n c))) (.fin false (k * k) (2 * e))
  exact (State.fld_setReg_other (m.setFld (Reg.ldl_NORM q n c) r.1) _ hapart).trans (m.fld_setFld _ r.1)

theorem State.reg_normAdd_other (x : Num) {o : Nat} (hval : o ≠ (Reg.ldl_NORM q n c).off) (hflags : o ≠ (Reg.ldl_NORM_NV q n c).off) :
    (m.normAdd q n c x false).reg o = m.reg o := by
  cases x <;> exact (State.reg_setFlag_other _ _ _ hflags).trans (m.reg_setFld_other _ _ hval)

/-- m with the squares of a block's 512 elements added in order. -/
def State.addSquares (m : State) (q n c : Nat) (x : Nat → Num) : State :=
  (List.range 512).foldl (fun m i => m.normAdd q n c (x i) false) m

theorem regsOnly_addSquares (x : Nat → Num) : RegsOnly m (m.addSquares q n c x) :=
  regsOnly_foldl (f := fun m i => m.normAdd q n c (x i) false) _ (fun _ i => regsOnly_normAdd (x i)) m

theorem State.reg_addSquares_other (x : Nat → Num) {o : Nat} (hval : o ≠ (Reg.ldl_NORM q n c).off) (hflags : o ≠ (Reg.ldl_NORM_NV q n c).off) :
    (m.addSquares q n c x).reg o = m.reg o :=
  foldl_keeps (v := fun m : State => m.reg o) (fun _ i _ => State.reg_normAdd_other (x i) hval hflags) m

theorem State.fld_addSquares {x : Nat → Num} (hx : ∀ i, i < 512 → ∃ sg k e, x i = .fin sg k e) : (m.addSquares q n c x).fld (Reg.ldl_NORM q n c) =
    (List.range 512).foldl (fun acc i => (Arith.f64.addNum (Fmt.fp64.decode acc) (square (x i))).1 % 2 ^ 64) (m.fld (Reg.ldl_NORM q n c)) :=
  foldl_view (v := fun m : State => m.fld (Reg.ldl_NORM q n c)) (fun _ i hi => State.fld_normAdd (hx i (List.mem_range.mp hi))) m

/-- The elements of a clean FP64 block are added, each with its square. -/
theorem State.scanElems_clean (m s : State) (j : NormJob) {a : Nat} {psn : Nat → Nat → Bool} (hpsn : ∀ i, i < 512 → psn (8 * i) 8 = false) :
    m.scanElems j true (s.bytes a 4096) psn = m.addSquares j.q j.stn j.c (fun i => Fmt.fp64.decode (s.word (a + 8 * i) 8)) := by
  rw [State.scanElems, State.length_bytes]
  refine List.foldl_ext _ _ _ fun m i hi => ?_
  have hi : i < 512 := List.mem_range.mp hi
  have hplace : i * 64 / 8 = 8 * i := by omega
  simp only [if_true, hplace, hpsn i hi, Bool.false_eq_true, if_false, s.elemAt_bytes (show 8 * i + 8 ≤ 4096 by omega)]

end Squares

/-! ## One clean block, and the end of its scan -/

section Block

variable {s : State} {j : NormJob}

/-- An open FP64 block with no flag, no poison and no double error: its squares are added, and its tag enters the digest. -/
theorem State.scanBlock_clean {q n : Nat} (hq : j.q = q) (hstn : j.stn = n) (hblk : j.a < 16384)
    (hwin : inWin (s.potWin n q) (4096 * j.a) 4096 = true) (hstate : bitsOf (s.fld (spByte q j.a)) 5 0 = 0x21)
    (hpsn : s.psnIn (potAddr q (4096 * j.a)) 4096 = false) (hcalm : s.injFires (8 + q) 1 = false) : ∃ off tag, s.scanBlock j j.a =
      (s.addSquares q n j.c (fun i => Fmt.fp64.decode (s.word (potAddr q (4096 * j.a) + 8 * i) 8))).digestAdd n off tag := by
  subst hq hstn
  generalize hst : s.fld (spByte j.q j.a) = st at hstate
  have hbit (k : Nat) (hk : k < 6) : bitOf st k = Nat.testBit 0x21 k := by
    have h := testBit_bitsOf st 5 0 k
    rw [hstate] at h
    simpa [bitOf, show k < 5 + 1 - 0 by omega] using h.symm
  have hopen : bitOf st 0 = true := hbit 0 (by decide)
  have hclean : bitOf st 1 = false := hbit 1 (by decide)
  have hvalid : bitOf st 2 = false := hbit 2 (by decide)
  have hfmt : bitsOf st 5 4 = 2 := by
    refine Nat.eq_of_testBit_eq fun k => ?_
    rw [testBit_bitsOf]
    by_cases hk : k < 5 + 1 - 4
    · rw [show st.testBit (4 + k) = Nat.testBit 0x21 (4 + k) from hbit (4 + k) (by omega)]
      interval_cases k <;> rfl
    · have : 2 < 2 ^ k := lt_of_lt_of_le (by decide : 2 < 2 ^ 2) (Nat.pow_le_pow_right (by decide) (by omega))
      simp [hk, Nat.testBit_lt_two_pow this]
  have hin : ¬ (j.a ≥ 16384 ∨ (!inWin (s.potWin j.stn j.q) (4096 * j.a) 4096) = true ∨ (!bitOf st 0) = true) := by
    simp [hwin, hopen]
    omega
  have helems := State.scanElems_clean s s j (a := potAddr j.q (4096 * j.a)) (psn := fun i k => s.psnIn (potAddr j.q (4096 * j.a) + i) k)
    (fun i hi => s.psnIn_within hpsn (Nat.le_add_right _ _) (by omega))
  refine ⟨2 ^ 63 + j.q * 2 ^ 30 + j.a * 4096, tagOf (some 0) (s.bytes (potAddr j.q (4096 * j.a)) 4096), ?_⟩
  rw [State.scanBlock]
  simp only [hst, if_neg hin, s.sramRead_calm (show s.injFires (0x08 + j.q) 1 = false from hcalm), hclean, hpsn, hvalid, hfmt, Bool.false_or, Bool.false_and,
    Bool.false_eq_true, if_false, decide_true, if_true, show ¬ (2 = 0) by decide]
  rw [helems]

/-- m once a scan has ended: BUSY falls, the job is gone, and what had come for it is dropped. -/
def State.endScan (m : State) (q n : Nat) (j : NormJob) : State :=
  ({ m.setFlag (Reg.ldl_BUSY_1020 q n) false with norms := m.norms.filter (fun k => decide (k.id ≠ j.id)) } : State).dropBuf j.id

/-- The only job, a scan of one block that nothing holds. -/
theorem State.scanDone_eq {q n : Nat} (hsafe : s.safe = false) (hj : s.norms = [j]) (hscan : j.flush = false) (hq : j.q = q) (hstn : j.stn = n)
    (hfree : s.normBusy j = false) (hspn : j.spn = 0) (hone : j.b = 1)
    (hspks : ∀ x ∈ s.spks, x.id < j.id → blocksMeet (x.q, x.blk, x.nblk) (q, j.a, 1) = false)
    (hgops : ∀ g ∈ s.gops, g.id < j.id → ∀ b ∈ g.potIvls s.nodeId, blocksMeet b (q, j.a, 1) = false) : 
    s.scanDone q n = (s.scanBlock j j.a).endScan q n j := by
  have hfind : s.norms.find? (fun j => !j.flush && decide (j.q = q ∧ j.stn = n)) = some j := by simp [hj, hscan, hq, hstn]
  have hfirst : s.norms.takeWhile (fun k => decide (k.id ≠ j.id)) = [] := by simp [hj]
  have hspk : s.spks.any (fun x => decide (x.id < j.id) && blocksMeet (x.q, x.blk, x.nblk) (q, j.a, j.b)) = false := by
    rw [List.any_eq_false, hone]
    intro x hx
    by_cases h : x.id < j.id <;> simp [h, hspks x hx]
  have hgop : s.gops.any (fun g => decide (g.id < j.id) && (g.potIvls s.nodeId).any (fun i => blocksMeet i (q, j.a, j.b))) = false := by
    rw [List.any_eq_false, hone]
    intro g hg
    by_cases h : g.id < j.id
    · have : (g.potIvls s.nodeId).any (fun i => blocksMeet i (q, j.a, 1)) = false :=
        List.any_eq_false.mpr fun b hb => by simp [hgops g hg h b hb]
      simp [h, this]
    · simp [h]
  have hheld : s.memHeld n (gLocal j.src) (4096 * j.spn) = false := by rw [hspn]; exact s.memHeld_none _ _
  have hhand : s.atHand j.id j.src (4096 * j.spn) = true := by simp [State.atHand, piecesOf, hspn]
  rw [State.scanDone, hfind]
  dsimp only
  simp only [hsafe, hfree, hfirst, List.any_nil, hspk, hgop, Bool.or_self, hheld, and_false, Bool.false_eq_true, or_self, if_false, hhand, Bool.not_true]
  rw [hone, hspn]
  rfl

end Block

/-! ## What a scan of one block leaves -/

theorem RegsOnly.kept {s u : State} (h : RegsOnly s u) : u.norms = s.norms ∧ u.mem = s.mem ∧ u.poison = s.poison ∧ u.events = s.events := by
  rw [RegsOnly] at h
  rw [h]
  exact ⟨rfl, rfl, rfl, rfl⟩

section ScanEnd

variable {m : State} {q n : Nat} {j : NormJob} {off tag : Nat}

/-- m once the tag of a block has entered the digest, and the scan has ended. -/
def State.scanEnd (m : State) (q n : Nat) (j : NormJob) (off tag : Nat) : State := ((m.digestAdd n off tag).endScan q n j).landed

theorem State.scanEnd_norms : (m.scanEnd q n j off tag).norms = m.norms.filter (fun k => decide (k.id ≠ j.id)) := rfl

theorem State.flag_scanEnd_BUSY : (m.scanEnd q n j off tag).flag (Reg.ldl_BUSY_1020 q n) = false :=
  (m.digestAdd n off tag).flag_setFlag _ false

theorem State.sameMemory_scanEnd : SameMemory m (m.scanEnd q n j off tag) := memory_of_eq rfl rfl

/-- The end of a scan changes BUSY and the digest. -/
theorem State.reg_scanEnd_other {o : Nat} (hbusy : o ≠ (Reg.ldl_BUSY_1020 q n).off) (hdigest : o ≠ (Reg.sve_DIGEST n).off) :
    (m.scanEnd q n j off tag).reg o = m.reg o :=
  (State.reg_setFlag_other _ _ false hbusy).trans (State.reg_setFld_other _ _ _ hdigest)

theorem State.fld_scanEnd_NORM {c : Nat} (hq : q < 4) (hn : n < 8) (hc : c < 16) :
    (m.scanEnd q n j off tag).fld (Reg.ldl_NORM q n c) = m.fld (Reg.ldl_NORM q n c) := by
  refine State.fld_eq_of_reg (State.reg_scanEnd_other ?_ ?_) <;>
    · simp only [Reg.ldl_NORM, Reg.ldl_BUSY_1020, Reg.sve_DIGEST]
      omega

theorem State.fld_scanEnd_spByte {b : Nat} (hn : n < 8) (hb : b < 16384) :
    (m.scanEnd q n j off tag).fld (spByte q b) = m.fld (spByte q b) := by
  refine State.fld_eq_of_reg (State.reg_scanEnd_other ?_ ?_) <;>
    · simp only [spByte, Reg.ldl_SP_BLK, Reg.ldl_BUSY_1020, Reg.sve_DIGEST]
      omega

/-- Squares added leave the state bytes of every Stockpot block. -/
theorem State.fld_addSquares_spByte {c b : Nat} (x : Nat → Num) (hn : n < 8) (hc : c < 16) (hb : b < 16384) :
    (m.addSquares q n c x).fld (spByte q b) = m.fld (spByte q b) := by
  refine State.fld_eq_of_reg (State.reg_addSquares_other x ?_ ?_) <;>
    · simp only [spByte, Reg.ldl_SP_BLK, Reg.ldl_NORM, Reg.ldl_NORM_NV]
      omega

end ScanEnd

end Sys2Proof.Machine

/-! What GO, a flush and a scan come to (R147 to R149). -/

namespace Sys2Proof.Machine

open Sys2Proof.Spec

-- One proof at a time: side by side, their threads take more memory than the check has.
set_option Elab.async false

section Ends

variable {s : State} {n : Stn} {q : Quad} {j : NormJob}

theorem exec_rflush (v : Word) : exec (.rflush .host n v) s = .next (s.busWrite .host (Reg.ldl_GO 0 n).off v.toNat) := rfl
theorem exec_stockpotScan (v : Word) : exec (.stockpotScan .host q n v) s = .next (s.busWrite .host (Reg.ldl_GO_1020 q n).off v.toNat) := rfl
theorem exec_rflushDone : exec (.rflushDone n) s = .next (s.rflushDone n).landed := rfl
theorem exec_stockpotScanDone : exec (.stockpotScanDone q n) s = .next (s.scanDone q n).landed := rfl

/-- Without an RLOG a flush is recorded, and leaves memory and RLOG_HEAD (R147). -/
theorem State.endFlush_without_rlog (hflush : j.flush = true) (hb : j.b < 8) (hlen : s.fld (Reg.ldl_RLOG_LEN 0 n) = 0) :
    let t := ((s.flushRecord n j).endFlush n j).landed
    SameMemory s t ∧ t.fld (Reg.ldl_RLOG_HEAD 0 n) = s.fld (Reg.ldl_RLOG_HEAD 0 n) ∧ Reported s t 0x08 0x07 := by
  intro t
  let m := s.access 0x08 0x14 (some n) 1 (s.fld (Reg.ldl_RLOG_BASE 0 n) * 4096)
  have ht : t = (m.endFlush n j).landed := congrArg (fun u => (State.endFlush u n j).landed) (State.flushRecord_none hlen)
  obtain ⟨hmem, hevents⟩ := m.endFlush_kept (n := n) (j := j)
  refine ⟨?_, ?_, ?_⟩
  · rw [ht]
    exact sameMemory_trans (s.sameMemory_access _ _ _ _ _) hmem
  · rw [ht, m.fld_endFlush_HEAD hflush hb]
    exact State.fld_eq_of_reg ((accessed_access s _ _ _ _ _).reg (lowReg_RLOG_HEAD n))
  · rw [ht, Reported, hevents]
    exact s.reported_access _ _ _ _ _

/-- A scan of one clean block whose elements are finite (R148). -/
theorem State.scanEnd_of_finite {x : Nat → Num} (off tag : Nat) (hj : s.norms = [j]) (hc : j.c < 16)
    (hx : ∀ i, i < 512 → ∃ sg k e, x i = .fin sg k e) :
    let t := (s.addSquares q n j.c x).scanEnd q n j off tag
    t.norms = [] ∧ t.flag (Reg.ldl_BUSY_1020 q n) = false ∧ SameMemory s t ∧ (∀ b, b < 16384 → t.fld (spByte q b) = s.fld (spByte q b)) ∧
      t.fld (Reg.ldl_NORM q n j.c) = (List.range 512).foldl (fun acc i =>
        (Arith.f64.addNum (Fmt.fp64.decode acc) (square (x i))).1 % 2 ^ 64) (s.fld (Reg.ldl_NORM q n j.c)) := by
  intro t
  obtain ⟨hnorms, hmem, hpoison, -⟩ := (regsOnly_addSquares (m := s) (q := q) (n := n) (c := j.c) x).kept
  refine ⟨?_, State.flag_scanEnd_BUSY, sameMemory_trans (memory_of_eq hmem hpoison) State.sameMemory_scanEnd, fun b hb => ?_, ?_⟩
  · rw [State.scanEnd_norms, hnorms, hj]
    simp
  · rw [State.fld_scanEnd_spByte n.isLt hb, State.fld_addSquares_spByte x n.isLt hc hb]
  · rw [State.fld_scanEnd_NORM q.isLt n.isLt hc, State.fld_addSquares hx]

end Ends

/-- Settles O24: a GO takes a job unless one runs, a flush writes its record and clears its pair, and a scan adds its squares. -/
theorem normJobs : Obligations.NormJobs := by
  unfold Obligations.NormJobs
  refine ⟨fun s n q v hup hgo => ⟨fun hbusy => ?_, fun hbusy => ?_, fun hbusy => ?_, fun hbusy => ?_⟩,
    fun s n q j hsafe hj hstn hfree => ⟨fun hflush hb => ?_, fun hscan hq hspn hone hblk hc hspks hgops hwin hstate hpsn hcalm => ?_⟩⟩
  · obtain ⟨j, ⟨hnorms, hset, hframe⟩, hj⟩ := State.busWrite_rflush_takes hup hgo hbusy
    obtain ⟨hflush, hstn, hlayer, hpair⟩ := hj
    exact ⟨_, j, exec_rflush v, hnorms, hflush, hstn, hlayer, hpair, hset, hframe⟩
  · exact ⟨_, exec_rflush v, State.busWrite_rflush_busy hup hgo hbusy⟩
  · obtain ⟨j, ⟨hnorms, hset, hframe⟩, hj⟩ := State.busWrite_scan_takes hup hgo hbusy
    obtain ⟨hflush, hq, hstn, hblk, hcount, hacc⟩ := hj
    exact ⟨_, j, exec_stockpotScan v, hnorms, hflush, hq, hstn, hblk, hcount, hacc, hset, hframe⟩
  · exact ⟨_, exec_stockpotScan v, State.busWrite_scan_busy hup hgo hbusy⟩
  · intro base len a
    have hdone : exec (.rflushDone n) s = .next ((s.flushRecord n j).endFlush n j).landed := by
      rw [exec_rflushDone, State.rflushDone_eq hsafe hj hflush hstn hfree]
    obtain ⟨hnorms, hbusy, hclear⟩ := (s.flushRecord n j).endFlush_landed (State.flushRecord_norms.trans hj) hflush hb
    refine ⟨_, hdone, hnorms, hbusy, fun r hr k hk => ?_, fun hlen hrange htag => ?_, State.endFlush_without_rlog hflush hb⟩
    · have hacc := hclear r hr k hk
      simp only [State.acc, Prod.mk.injEq] at hacc
      exact hacc
    · rw [State.bytes_endFlush, State.fld_endFlush_HEAD _ hflush hb]
      exact State.flushRecord_written rfl rfl rfl hlen hrange htag
  · intro elem hfinite
    obtain ⟨off, tag, hclean⟩ : ∃ off tag, s.scanBlock j j.a = (s.addSquares q n j.c elem).digestAdd n off tag :=
      State.scanBlock_clean hq hstn hblk hwin hstate hpsn hcalm
    have hdone : exec (.stockpotScanDone q n) s = .next ((s.addSquares q n j.c elem).scanEnd q n j off tag) := by
      rw [exec_stockpotScanDone, State.scanDone_eq hsafe hj hscan hq hstn hfree hspn hone hspks hgops, hclean, State.scanEnd]
    exact ⟨_, hdone, State.scanEnd_of_finite off tag hj hc hfinite⟩

end Sys2Proof.Machine

/-! Chains of a Whisk and descriptors of a Tongs that fail while an injection waits (R168, R230, R332): the states in which ENG_FAULT
is not the only event. -/

namespace Sys2Proof.Machine

open Sys2Proof.Spec

-- One proof at a time: side by side, their threads take more memory than the check has.
set_option Elab.async false

/-- Two events where none waited are not one report. -/
theorem not_reported_of_two {s t : State} {page code : Nat} (hs : s.events = []) (ht : t.events.length = 2) : ¬ Reported s t page code := by
  intro h
  obtain ⟨e, he, -⟩ := h (by simp [hs])
  simp [he, hs] at ht

/-- Station 0 has GiB 0 of HBM and 64 counters; an injected error waits for the next read of stack 0 (R332). -/
def armedStation : State :=
  { State.reset with regs := [(0x100, 1#64), (0x118, 0x100#64), (0x120, 0x8000000000000000#64), (0x300060, 0x4000000000000000#64)] }

theorem countersFit_armedStation : CountersFit armedStation := by
  unfold CountersFit
  decide +kernel

/-- A doorbell of station 0 for the descriptor at address 0. -/
def zeroDesc : QDesc := { stn := 0, addr := 0, ctr := 0, cen := true, mortar := none, disp := none }

/-- The chain of a descriptor of zeros: it has no rows, and so has ended with BADDESC (R162). -/
def badChain : Chain :=
  { q := zeroDesc, cur := 0, links := 0, code := 2, buf := [], bufValid := false, id := 0, status := statusWord 2 .none false 0
    writes := true, d := 0 }

/-- That chain on Whisk 0, at its end. -/
def badChainState : State := { armedStation with whisks := [(0, ⟨[], some badChain, 0⟩)], nextId := 1 }

/-- STATUS takes part of a line, whose read reports MEM_UE ahead of ENG_FAULT. -/
theorem badChain_events : (badChainState.chainEnd 0).landed.events.map (fun e => (e.page, e.code)) = [(0x30, 0x0A), (0x10, 0x06)] := by
  decide +kernel

/-- Refutes O26: its clause on a chain that fails does not say that no injection waits. STATUS is written over part of a line, the
controller reads that line first (R230), and an armed injection is then reported as MEM_UE (R332): two events join the queue where
the clause has ENG_FAULT alone. A Calm state would mend it. -/
theorem not_whiskChains : ¬ Obligations.WhiskChains := by
  unfold Obligations.WhiskChains
  intro h
  have hsafe : badChainState.safe = false := by decide +kernel
  have hacked : badChainState.acked badChain.id = true := by decide +kernel
  have hctr : badChain.q.ctr < badChainState.ctrNum badChain.q.stn := by decide +kernel
  obtain ⟨-, -, hend⟩ := h badChainState 0 hsafe
  obtain ⟨t, ht, -, -, -, -, -, -, -, hfault⟩ := hend badChain rfl (by decide) hacked rfl countersFit_armedStation (by decide) hctr
  obtain rfl : (badChainState.chainEnd 0).landed = t := Host.Outcome.next.inj ht
  obtain ⟨-, hreported, -⟩ := hfault (by decide)
  exact not_reported_of_two rfl (by simpa using congrArg List.length badChain_events) hreported

/-- A TRANSPOSE whose element size is 0, accepted with BADDESC (R172). -/
def badTranspose : TDesc :=
  { q := zeroDesc, kind := 4, bg := false, slot := 0, epoch := 0, bound := none, code := 2, flags := .none, psn := false, done := 0
    seq := 0, d := 4 }

/-- That descriptor in Tongs 0, at its end. -/
def badTransposeState : State :=
  { armedStation with mem := [(0, 4#8)], tongs := [(0, ⟨[], [badTranspose], []⟩)], nextId := 1 }

theorem badTranspose_events :
    (badTransposeState.tongsDone 0 0).landed.events.map (fun e => (e.page, e.code)) = [(0x30, 0x0A), (0x24, 0x06)] := by
  decide +kernel

/-- Refutes O30: as at a Whisk, an injection armed at the controller of STATUS is reported as MEM_UE ahead of ENG_FAULT, and two
events join the queue where the clause on a code other than 1 has one. A Calm state would mend it. -/
theorem not_tongsEndsAndTables : ¬ Obligations.TongsEndsAndTables := by
  unfold Obligations.TongsEndsAndTables
  rintro ⟨hends, -⟩
  have hsafe : badTransposeState.safe = false := by decide +kernel
  have hacked : badTransposeState.acked badTranspose.seq = true := by decide +kernel
  have hctr : badTranspose.q.ctr < badTransposeState.ctrNum badTranspose.q.stn := by decide +kernel
  obtain ⟨hdone, -⟩ := hends badTransposeState 0 0 badTranspose hsafe countersFit_armedStation
  obtain ⟨t, ht, -, -, -, -, -, hfault, -⟩ := hdone rfl (.inl rfl) (by decide) hacked (List.nodup_singleton 0) (by decide) hctr
  obtain rfl : (badTransposeState.tongsDone 0 0).landed = t := Host.Outcome.next.inj ht
  obtain ⟨hreported, -⟩ := hfault (by decide)
  exact not_reported_of_two rfl (by simpa using congrArg List.length badTranspose_events) hreported

end Sys2Proof.Machine

/-! ADAMW with AFMT 0 (R162, R165): the chain that takes its update for an FP64 number. -/

namespace Sys2Proof.Machine

open Sys2Proof.Spec

-- One proof at a time: side by side, their threads take more memory than the check has.
set_option Elab.async false

/-- ADAMW of one row with AFMT and OFMT FP64; X, Y and the auxiliary vectors lie 4 KiB apart, and α, B1, BC1 and EPS are 1. -/
def wideAdamWord : Nat :=
  4 + 1 <<< 64 + 0x1000 <<< 256 + 0x2000 <<< 320 + 0x3FF0000000000000 <<< 384 + 0x3000 <<< 512 + 0x4000 <<< 576 + 0x5000 <<< 640 +
    0x3F800000 <<< 704 + 0x3F800000 <<< 832 + 0x3F800000 <<< 896

/-- A chain at that descriptor, with no code. -/
def wideAdam : Chain :=
  { q := zeroDesc, cur := 0, links := 0, code := 0, buf := [], bufValid := false, id := 0, status := 0, writes := true, d := wideAdamWord }

/-- Whisk 0 runs it; m is 1, and g, v and w are 0. -/
def wideAdamState : State :=
  { State.reset with mem := [(0x3002, 0x80#8), (0x3003, 0x3F#8)], whisks := [(0, ⟨[], some wideAdam, 0⟩)], nextId := 1 }

theorem wskRuns_wideAdam : WskRuns wideAdamState 0 wideAdam (wskF wideAdamWord) 4 := by
  have hsafe : wideAdamState.safe = false := by decide +kernel
  have hfields : (wskF wideAdamWord).kind = 4 ∧ (wskF wideAdamWord).afmt < 4 ∧ (wskF wideAdamWord).ofmt < 4 ∧
      (wskF wideAdamWord).xbuf = false := by decide +kernel
  have hranges : (∀ r ∈ (wskF wideAdamWord).vectors ++ (wskF wideAdamWord).outputs ++ [], gNode r.1 = wideAdamState.nodeId) ∧
      wideAdamState.anyHeld 0 ((wskF wideAdamWord).vectors ++ (wskF wideAdamWord).outputs ++ []) = false := by decide +kernel
  obtain ⟨hkind, hafmt, hofmt, hxbuf⟩ := hfields
  exact ⟨hsafe, rfl, rfl, rfl, hkind, hafmt, hofmt, fun h => absurd (hxbuf.symm.trans h) (by decide), hranges⟩

/-- What it writes is no tag's, and apart. -/
theorem wideAdam_places : let f := wskF wideAdamWord
    let o := f.fo.width / 8
    NoTags (gLocal f.aux1) (4 * f.rows) ∧ NoTags (gLocal f.aux2) (4 * f.rows) ∧ NoTags (gLocal f.y) (o * f.rows) ∧
      Apart (gLocal f.aux1) (4 * f.rows) (gLocal f.aux2) (4 * f.rows) ∧ Apart (gLocal f.aux1) (4 * f.rows) (gLocal f.y) (o * f.rows) ∧
      Apart (gLocal f.aux2) (4 * f.rows) (gLocal f.y) (o * f.rows) := by
  unfold NoTags Apart
  decide +kernel

/-- The update is 1.0 in FP32, whose bits stand at Y as an FP64 number. -/
theorem wideAdam_stores : (wideAdamState.adamw 0).landed.word 0x2000 8 = 0x3F800000 := by decide +kernel

/-- Refutes O27: its part on ADAMW does not ask for AFMT 1, as R162 does. Under AFMT 0 the model converts u to OFMT from the
accumulator's format, FP64, where the part converts it from FP32: u = 1.0 goes to Y as the FP64 number of its FP32 bits. No chain
that the model starts comes to this, since BADDESC catches it first; `f.afmt = 1` among the hypotheses would mend the part. -/
theorem not_whiskKinds : ¬ Obligations.WhiskKinds := by
  unfold Obligations.WhiskKinds
  rintro ⟨-, hadam⟩
  have hlink : (wskF wideAdamWord).link = false := by decide +kernel
  have hy : (wskF wideAdamWord).y ≠ 0 := by decide +kernel
  obtain ⟨htags1, htags2, htagsY, hapart, hapart1, hapart2⟩ := wideAdam_places
  obtain ⟨t, ht, -, hrows, -⟩ := hadam wideAdamState 0 wideAdam (wskF wideAdamWord) wskRuns_wideAdam hlink hy htags1 htags2 htagsY
    hapart hapart1 hapart2
  obtain rfl : (wideAdamState.adamw 0).landed = t := Host.Outcome.next.inj ht
  obtain ⟨-, -, hupdate⟩ := hrows 0 (by decide +kernel)
  obtain ⟨hplace, hwidth⟩ : gLocal (wskF wideAdamWord).y = 0x2000 ∧ (wskF wideAdamWord).fo.width / 8 = 8 := by decide +kernel
  rw [hplace, hwidth, wideAdam_stores] at hupdate
  -- The part has the conversion of 1.0 from FP32 there.
  revert hupdate
  decide +kernel

end Sys2Proof.Machine

/-! A scatter of no station (R88, R173), and a gather of no rows (R172, R261): the states in which a Tongs does what its statements do
not say. -/

namespace Sys2Proof.Machine

open Sys2Proof.Spec

-- One proof at a time: side by side, their threads take more memory than the check has.
set_option Elab.async false

/-! ## A station that is none of the eight -/

/-- The code with which the only descriptor of a Tongs ends. -/
theorem codes_of_tngOutcome {s t : State} {d : Die} {x : TDesc} {code lookups : Nat} (h : TngOutcome s t d x code lookups)
    (hrun : (s.tong d).run = [x]) : (t.tong d).run.map (fun y => y.code) = [code] := by
  obtain ⟨-, -, -, y, hy, ht⟩ := h
  rw [ht, hrun, hy]
  simp

/-- SCATTER of one FP32 value; IDX is the start of the Tray of quadrant 1, and VAL lies 4 KiB behind it. -/
def strayScatterWord : Nat := 1 + 1 <<< 64 + 0x810_0400_0000 <<< 128 + 0x810_0400_1000 <<< 192

/-- That descriptor, accepted for a station 2042. -/
def strayScatter : TDesc :=
  { q := { zeroDesc with stn := 2042 }, kind := 1, bg := false, slot := 0, epoch := 0, bound := some false, code := 0, flags := .none
    psn := false, done := 0, seq := 0, d := strayScatterWord }

/-- Tongs 0 runs it. The windows of station 2042 on the Trays of quadrants 0 and 1 would be registers that hold the event counts of
pages 0x0D and 0x0E, which read here as one MiB each; its table is one row of four bytes in the first, and an injected error waits
for the next read of the second. -/
def strayScatterState : State :=
  { State.reset with
    regs := [((Reg.hdr_EVENTS 0x0D).off, 0x10000#64), ((Reg.hdr_ARMED 0x0D).off, 0x4000000000000001#64),
      ((Reg.hdr_EVENTS 0x0E).off, 0x10000#64), ((Reg.tng_BASE_A 0 2042 0).off, 0x81000000000#64),
      ((Reg.tng_NROWS 0 2042 0).off, 0x400000000001#64)]
    tongs := [(0, ⟨[], [strayScatter], []⟩)], nextId := 1 }

theorem tngRuns_strayScatter : TngRuns strayScatterState 0 strayScatter (tngF strayScatterWord) 1 := by
  have hsafe : strayScatterState.safe = false := by decide +kernel
  exact ⟨hsafe, List.not_mem_nil, rfl, List.nodup_singleton 0, rfl, rfl⟩

/-- Before the scatter its operands and its row are that station's own, and apart. -/
theorem strayScatter_fits : OwnRanges strayScatterState 2042 false [(0x810_0400_0000, 4), (0x810_0400_1000, 4)] ∧
    RowsFit strayScatterState strayScatter (tngF strayScatterWord) true ∧
    TableApart strayScatterState strayScatter (tngF strayScatterWord) 0x810_0400_1000 4 := by
  unfold OwnRanges RowsFit TableApart Apart NoTags
  decide +kernel

/-- The event that the read of the index reports moves the first window by one MiB, and the row lies outside: RANGE. -/
theorem strayScatter_ends : ((strayScatterState.scatter 0).landed.tong 0).run.map (fun y => y.code) = [3] := by decide +kernel

/-- Refutes O28: its part on SCATTER does not bound the station of the descriptor. A window of station 2042, which no doorbell and no
dispatch names, would be the event count of a page; the scatter reads its operands, an injection that waits there is reported, the
count moves the window off the table's row, and the scatter ends with RANGE and not with OK. `n < 8` would mend the part. -/
theorem not_tongsAdditions : ¬ Obligations.TongsAdditions := by
  unfold Obligations.TongsAdditions
  intro h
  obtain ⟨hown, hrows, hapart⟩ := strayScatter_fits
  obtain ⟨hscatter, -⟩ := h strayScatterState 0 strayScatter (tngF strayScatterWord) (by decide +kernel) (by decide +kernel)
  obtain ⟨t, ht, -, houtcome, -⟩ := hscatter tngRuns_strayScatter hown hrows hapart (fun _ _ _ _ _ => rfl)
  obtain rfl : (strayScatterState.scatter 0).landed = t := Host.Outcome.next.inj ht
  have hcode := (codes_of_tngOutcome houtcome rfl).symm.trans strayScatter_ends
  split at hcode <;> exact absurd hcode (by decide)

/-! ## A gather of no rows to another node -/

/-- GATHER with N 0, and VAL at node 1. -/
def emptyGatherWord : Nat := 2 ^ 44 <<< 192

/-- That descriptor, accepted for station 0 and bound to buffer A. -/
def emptyGather : TDesc :=
  { q := zeroDesc, kind := 0, bg := false, slot := 0, epoch := 0, bound := some false, code := 0, flags := .none, psn := false, done := 0
    seq := 0, d := emptyGatherWord }

/-- A write of Whisk 0 to node 1 that waits to be sent (R261). -/
def waitingWrite : WReq :=
  { item := 1, stn := 0, page := 0x10, addr := 2 ^ 44 + 0x1000, bytes := List.replicate 32 0xFF, psn := 0, tagw := false }

/-- Station 0 has GiB 0 and a table of one row of 32 bytes there; this module is node 0, and its entry for node 1 delivers here
(R258). -/
def emptyGatherState : State :=
  { State.reset with
    regs := [(0x100, 1#64), (0x120, 0x8000000000000000#64), ((Reg.tng_BASE_A 0 0 0).off, 0x8000000000002000#64),
      ((Reg.tng_NROWS 0 0 0).off, 0x200000000001#64), (Reg.krt_VALID.off, 0x8000000000000000#64)]
    tongs := [(0, ⟨[], [emptyGather], []⟩)], outq := [waitingWrite], routes := [(1, 0xC000000#64)], nextId := 2 }

theorem tngRuns_emptyGather : TngRuns emptyGatherState 0 emptyGather (tngF emptyGatherWord) 0 := by
  have hsafe : emptyGatherState.safe = false := by decide +kernel
  exact ⟨hsafe, List.not_mem_nil, rfl, List.nodup_singleton 0, rfl, rfl⟩

theorem emptyGather_fits : OwnRanges emptyGatherState 0 false [(0, 0)] ∧ OwnRanges emptyGatherState 0 true [(2 ^ 44, 0)] ∧
    RowsFit emptyGatherState emptyGather (tngF emptyGatherWord) false := by
  unfold OwnRanges RowsFit
  decide +kernel

/-- Sending no bytes lets the waiting write go, and that comes back to byte 0x1000 of this module. -/
theorem emptyGather_stores : (emptyGatherState.gather 0).landed.byte 0x1000 = 0xFF ∧ emptyGatherState.byte 0x1000 = 0 := by decide +kernel

/-- Refutes O29: a range without bytes is not asked to lie in this module, and so VAL of a GATHER of no rows may lie at another node.
The Tongs then sends nothing there, behind the writes that wait to be sent; one of them goes now, a DELIVER entry brings it back, and
it stores bytes where the part has none changed. VAL in this module for N = 0 as well would mend the part. -/
theorem not_tongsReads : ¬ Obligations.TongsReads := by
  unfold Obligations.TongsReads
  rintro ⟨hreads, -⟩
  obtain ⟨hidx, hval, hrows⟩ := emptyGather_fits
  obtain ⟨hgather, -⟩ := hreads emptyGatherState 0 emptyGather (tngF emptyGatherWord)
  obtain ⟨t, ht, -, ⟨-, hother⟩, -⟩ := hgather tngRuns_emptyGather hidx hval hrows (fun i hi => absurd hi (Nat.not_lt_zero i))
  obtain rfl : (emptyGatherState.gather 0).landed = t := Host.Outcome.next.inj ht
  obtain ⟨hstored, hzero⟩ := emptyGather_stores
  have hsame := hother 0x1000 (by decide) (.inr (by decide +kernel))
  exact absurd (hstored.symm.trans (hsame.trans hzero)) (by decide)

end Sys2Proof.Machine

/-! Solves that no SOLVE starts or that meet an injection (R183, R188, R192, R198, R220, R332): the states in which a Mortar does what
its statements do not say. -/

namespace Sys2Proof.Machine

open Sys2Proof.Spec

-- One proof at a time: side by side, their threads take more memory than the check has.
set_option Elab.async false

/-! ## A clear before an adjoint (R183, R196) -/

/-- ADJOINT with ALG 1, N 1 and DEADLINE 1; X0 is 0x2000, and XT, which no check of an adjoint reads, the start of Mortar 0's window. -/
def adjointWord : Nat := 1 + 1 <<< 2 + 1 <<< 96 + 0x2000 <<< 384 + 0x840_0000_0000 <<< 512 + 1 <<< 1344

/-- That descriptor, with local memory about to be cleared for it. -/
def clearedAdjoint : Solve := { Solve.new zeroDesc 0 adjointWord with phase := .clearing }

/-- Station 0 has GiB 0, where the first byte of X0 is 1, and Mortar 0 runs the adjoint. -/
def clearedAdjointState : State :=
  { State.reset with
    regs := [(0x100, 1#64), (0x120, 0x8000000000000000#64)], mem := [(0x2000, 1#8)]
    mortars := [(0, ⟨[], 0, some clearedAdjoint, none, false, false, 0⟩)], nextId := 1 }

/-- The start point goes to XT behind the clear. -/
theorem clearedAdjoint_stores : (clearedAdjointState.localClear 0).landed.byte (mtrAddr 0 0) = 1 := by decide +kernel

/-- Refutes O31: its part on the end of a clear does not ask for KIND 0. The ranges that R186 has checked of an adjoint are G, Z and RES
alone, yet a solve that begins writes its start point to XT; with XT in the Mortar's own window a byte of the cleared memory is not 0.
SOLVE takes no adjoint, so no run of the module comes to this; `x.f.kind = 0` beside `x.f.method ≠ 4` would mend the part. -/
theorem not_mortarStarts : ¬ Obligations.MortarStarts := by
  unfold Obligations.MortarStarts
  intro h
  have hruns : MtrRuns clearedAdjointState 0 clearedAdjoint .clearing := ⟨by decide +kernel, rfl, rfl⟩
  have hmethod : clearedAdjoint.f.method ≠ 4 := by decide +kernel
  obtain ⟨-, -, -, hclear⟩ := h clearedAdjointState 0 zeroDesc
  obtain ⟨t, ht, -, -, -, -, hzero⟩ := hclear clearedAdjoint hruns (by decide)
  obtain rfl : (clearedAdjointState.localClear 0).landed = t := Host.Outcome.next.inj ht
  obtain ⟨hbyte, -⟩ := hzero hmethod 0 (by decide)
  exact absurd (clearedAdjoint_stores.symm.trans hbyte) (by decide)

/-! ## A linear phase of no station (R188, R220) -/

/-- LM by SCHUR with one kept and one eliminated parameter, one residual, LM_UP 2 and LM_DOWN 1/2, and DEADLINE 1; ROWPTR is 0x1000,
COLIDX 0x2000 and J 0. -/
def straySolveWord : Nat :=
  2 <<< 2 + 2 <<< 4 + 1 <<< 32 + 1 <<< 64 + 2 <<< 96 + 1 <<< 128 + 1 <<< 152 + 1 <<< 157 + 1 <<< 160 + 1 <<< 192 + 1 <<< 224 +
    0x1000 <<< 768 + 0x2000 <<< 832 + 1 <<< 1344 + 0x4000000000000000 <<< 1728 + 0x3FE0000000000000 <<< 1792

/-- That solve in its linear phase with J and r zero and λ 0, for a station 696304, whose beats at stack 0 would be counted where the
global time stands. -/
def straySolve : Solve :=
  { Solve.new { zeroDesc with stn := 696304 } 0 straySolveWord with phase := .linear, x := [0, 0], ev := [0, 0], it := 1 }

/-- Mortar 0 runs it at time 0; the residual touches the eliminated parameter alone. -/
def straySolveState : State :=
  { State.reset with
    mem := [(0x1004, 1#8), (0x2000, 1#8)], mortars := [(0, ⟨[], 0, some straySolve, none, true, true, 0⟩)], nextId := 1 }

/-- The eliminated block is zero, and the linear phase breaks down. -/
theorem straySolve_breaks :
    (straySolveState.linSolve straySolve.id straySolve.f straySolve.ev straySolve.lam (straySolveState.rhs straySolve)).1 = none := by
  decide +kernel

/-- Its J is read again for the next λ: one beat, and the solve stops with DEADLINE. -/
theorem straySolve_stops : ((straySolveState.linearPhaseEnd 0).landed.mortar 0).run.map (fun y => (y.phase, y.code)) = some (.writing, 3) := by
  decide +kernel

/-- Refutes O32: its clause on a λ that rises does not bound the station. The beats of a station 696304, which no doorbell and no
dispatch names, would be the global time; the linear phase reads J again, the time comes to the deadline, and the solve stops with
DEADLINE where the clause has its next linear phase. `x.q.stn < 8`, as the clause on the trial point asks, would mend it. -/
theorem not_mortarLinearPhase : ¬ Obligations.MortarLinearPhase := by
  unfold Obligations.MortarLinearPhase
  rintro ⟨hphase, -⟩
  have hruns : MtrRuns straySolveState 0 straySolve .linear := ⟨by decide +kernel, rfl, rfl⟩
  have hfields : straySolve.f.kind = 0 ∧ straySolve.f.method ≠ 4 ∧ straySolve.f.alg = 2 := by decide +kernel
  have hlam : Fmt.fp64.lt straySolve.f.lambdaMax (fmul straySolve.lam straySolve.f.lmUp) = false := by decide +kernel
  have hnow : straySolveState.now < straySolve.f.deadline := by decide +kernel
  obtain ⟨hkind, hmethod, halg⟩ := hfields
  obtain ⟨-, -, hrises, -⟩ := hphase straySolveState 0 straySolve hruns hkind hmethod rfl
  obtain ⟨t, y, ht, hy, hlinear, -⟩ := hrises straySolve_breaks halg hlam hnow
  obtain rfl : (straySolveState.linearPhaseEnd 0).landed = t := Host.Outcome.next.inj ht
  have hstops := Option.some.inj ((congrArg (Option.map (fun y => (y.phase, y.code))) hy).symm.trans straySolve_stops)
  exact absurd (hlinear.symm.trans (congrArg Prod.fst hstops)) (by decide)

/-! ## A result over part of a line (R198, R230) -/

/-- A descriptor of zeros but for RES, which is 8: it has no parameters, and so has ended with BADDESC (R186). -/
def badSolve : Solve := { Solve.new zeroDesc 0 (8 <<< 1024) with phase := .writing, code := 7 }

/-- Mortar 0 is to write its result, and an injected error waits at the controller of stack 0. -/
def badSolveState : State := { armedStation with mortars := [(0, ⟨[], 0, some badSolve, none, false, true, 0⟩)], nextId := 1 }

/-- RES takes part of a line, whose read reports MEM_UE ahead of ENG_FAULT. -/
theorem badSolve_events : (badSolveState.solveEnd 0).landed.events.map (fun e => (e.page, e.code)) = [(0x30, 0x0A), (0x28, 0x06)] := by
  decide +kernel

/-- Refutes O33: its clause on a code that is no result does not say that no injection waits. RES, which R185 does not align, is written
over parts of two lines, the controller reads them first (R230), and an armed injection is then reported as MEM_UE (R332): two events
join the queue where the clause has ENG_FAULT alone. A Calm state would mend it. -/
theorem not_mortarResultsAndFactorisations : ¬ Obligations.MortarResultsAndFactorisations := by
  unfold Obligations.MortarResultsAndFactorisations
  rintro ⟨hend, -⟩
  have hruns : MtrRuns badSolveState 0 badSolve .writing := ⟨by decide +kernel, rfl, rfl⟩
  have hkind : badSolve.f.kind = 0 := by decide +kernel
  have hacked : badSolveState.acked badSolve.id = true := by decide +kernel
  have hnodes : gNode badSolve.f.xout = badSolveState.nodeId ∧ gNode badSolve.f.res = badSolveState.nodeId := by decide +kernel
  have hres : badSolveState.gOk badSolve.q.stn badSolve.f.res 64 true = true := by decide +kernel
  have hctr : badSolve.q.ctr < badSolveState.ctrNum badSolve.q.stn := by decide +kernel
  have hplaces : NoTags (gLocal badSolve.f.res) 64 ∧ NoTags (gLocal badSolve.f.xout) 0 ∧
      Apart (gLocal badSolve.f.xout) 0 (gLocal badSolve.f.res) 64 := by
    unfold NoTags Apart
    decide +kernel
  have hwrec : badSolve.f.wrec = 0 := by decide +kernel
  have hheld : badSolveState.anyHeld badSolve.q.stn (nonempty badSolve.f.writes) = false := by decide +kernel
  obtain ⟨hxout, hnode⟩ := hnodes
  obtain ⟨htags, htagsX, hapart⟩ := hplaces
  obtain ⟨-, -, hfault⟩ := hend badSolveState 0 badSolve hruns rfl hkind (by decide) hacked hxout hnode hres countersFit_armedStation
    (by decide) hctr htags htagsX hapart (fun hne => absurd hwrec hne)
  obtain ⟨t, ht, -, -, -, -, hreported, -⟩ := hfault (by decide) (by decide) hheld
  obtain rfl : (badSolveState.solveEnd 0).landed = t := Host.Outcome.next.inj ht
  exact not_reported_of_two rfl (by simpa using congrArg List.length badSolve_events) hreported

end Sys2Proof.Machine

/-! A port that is reset while a Mortar's conjugate gradients wait (R188, R220, R248, R368): the state in which the port does not end
DOWN. -/

namespace Sys2Proof.Machine

open Sys2Proof.Spec

-- One proof at a time: side by side, their threads take more memory than the check has.
set_option Elab.async false

/-- A descriptor with one parameter, whose only part is on Whisk 0; SCR is 0, and PCG ends after its first iteration. -/
def strayCgWord : Nat := 1 <<< 96 + 1 <<< 288

/-- Conjugate gradients whose chains have all ended. -/
def endedChains : Cg :=
  { b := [], fac := ⟨[], [], [], [], []⟩, diag := [], r := [], p := [], sol := [], rz := 0, k := 0, todo := [], left := 0
    ended := false, met := false, broke := false }

/-- A solve in that linear phase, for a station 163825, whose beats at stack 0 would be counted where LSTATE of port 0 stands. -/
def strayCg : Solve :=
  { Solve.new { zeroDesc with stn := 163825 } 0 strayCgWord with phase := .linear, cg := some endedChains }

/-- Mortar 0 runs it, and a request of station 0 is out through port 0. -/
def strayCgState : State :=
  { State.reset with
    reqs := [⟨0, 0, 0, 1, false, 0x10, 0, none, 256⟩], mortars := [(0, ⟨[], 0, some strayCg, none, true, true, 0⟩)], nextId := 1 }

/-- GO of an engine reset of port 0's page (R368). -/
def resetPort : Word := 0x8000000000000044

/-- The request's end lets the solve read its chains' results: one beat, and the port shows LSTATE 1. -/
theorem strayCg_trains : (strayCgState.busWrite .host Reg.sys_GO.off resetPort.toNat).fld (Reg.kp_LSTATE 0) = 1 := by decide +kernel

/-- Refutes O46: its clause on a port bounds the station of no solve. The beats of a station 163825, which no doorbell and no dispatch
names, would be counted where LSTATE of port 0 stands; as that port goes DOWN a request through it ends, the Mortars go on, conjugate
gradients of that station read memory, and the port, whose EN is 0, shows LSTATE 1 where the clause has 0. A bound on the stations of
the solves that run would mend the clause. -/
theorem not_engineAndCoreResets : ¬ Obligations.EngineAndCoreResets := by
  unfold Obligations.EngineAndCoreResets
  intro h
  have hword : resetPort.toNat.testBit 63 = true ∧ isEngine (resetPort.toNat % 256) = true := by decide +kernel
  have hdisabled : strayCgState.flag (Reg.kp_EN 0) = false := by decide +kernel
  obtain ⟨hgo, hengine⟩ := hword
  obtain ⟨hresets, -⟩ := h strayCgState
  obtain ⟨-, hstops⟩ := hresets resetPort ⟨rfl, rfl, rfl⟩ hgo
  obtain ⟨t, ht, -, -, -, -, -, -, -, -, hport⟩ := hstops hengine
  obtain rfl : strayCgState.busWrite .host Reg.sys_GO.off resetPort.toNat = t := Host.Outcome.next.inj ht
  have hstate := (hport 0 rfl).symm.trans strayCg_trains
  rw [if_neg fun hen => Bool.false_ne_true (hdisabled.symm.trans hen.1)] at hstate
  exact absurd hstate (by decide)

end Sys2Proof.Machine

/-! KV register instructions at a core: which encodings the tables permit, what their retirement leaves, and the lanes of a k register
(R205, R207, R208, R211). -/

namespace Sys2Proof.Machine

open Sys2Proof.Spec

-- One proof at a time: side by side, their threads take more memory than the check has.
set_option Elab.async false

/-! ## Encodings (R207, R208) -/

section Encodings

variable {f7 b a w d : Nat}

/-- The register instructions that the tables permit, by function, upper source and width code. -/
def kvRegLegal (f7 b w : Nat) : Bool :=
  if f7 < 0x03 ∨ (0x06 ≤ f7 ∧ f7 ≤ 0x09) then decide (w < 4)
  else if f7 ≤ 0x05 then decide (w = 0)
  else if f7 ≤ 0x0B then decide (w < 4 ∧ b < 8 <<< w)
  else if 0x10 ≤ f7 ∧ f7 ≤ 0x13 then decide (w < 3)
  else if 0x14 ≤ f7 ∧ f7 ≤ 0x1A then decide (w < 2)
  else if f7 = 0x20 then decide ((w = 2 ∨ w = 3) ∧ b = 0)
  else if f7 = 0x30 then decide (w < 4 ∧ b = 0)
  else if f7 = 0x31 ∨ f7 = 0x32 then decide (w < 4 ∧ b < 16 >>> w)
  else false

theorem kvR_eq (f7 b a w d : Nat) : kvR f7 b a w d = 0x2B + d * 2 ^ 7 + w * 2 ^ 12 + a * 2 ^ 15 + b * 2 ^ 20 + f7 * 2 ^ 25 := by
  delta kvR
  simp only [Nat.shiftLeft_eq]

/-- The fields of a register instruction read back. -/
theorem kvR_fields (h7 : f7 < 128) (hb : b < 32) (ha : a < 32) (hw : w < 8) (hd : d < 32) :
    bitsOf (kvR f7 b a w d) 6 0 = 0x2B ∧ bitsOf (kvR f7 b a w d) 31 25 = f7 ∧ bitsOf (kvR f7 b a w d) 24 20 = b ∧
      bitsOf (kvR f7 b a w d) 14 12 = w := by
  simp only [kvR_eq, bitsOf, Nat.shiftRight_eq_div_pow]
  omega

theorem kvLegal_kvR (h7 : f7 < 128) (hb : b < 32) (ha : a < 32) (hw : w < 8) (hd : d < 32) :
    kvLegal (kvR f7 b a w d) = kvRegLegal f7 b w := by
  obtain ⟨hmajor, hf7, hb', hw'⟩ := kvR_fields h7 hb ha hw hd
  simp [kvLegal, kvRegLegal, hmajor, hf7, hb', hw']

end Encodings

/-! ## Retirement (R204, R211, R214) -/

section Retire

variable {s : State} {c : Core}

theorem State.coreRuns_of (h : CoreRuns s c) : s.coreRuns c = true := by
  obtain ⟨hrun, hwfi⟩ := h
  rw [State.coreRuns, hrun, Bool.true_and]
  cases h : s.flag (Reg.cc_WFI c) with
  | false => rfl
  | true => simpa using hwfi h

/-- A KV instruction that is enabled and permitted executes. -/
theorem State.kv_of_ready {bits : Nat} (h : KvReady s c) (hl : kvLegal bits = true) (k : State → CoreSt → State) :
    s.kv c bits k = k s (s.core c) := by
  obtain ⟨hruns, hon⟩ := h
  simp [State.kv, State.coreRuns_of hruns, hon, hl]

variable (m : State) (c : Core) (x : CoreSt)

theorem State.core_setCore (c d : Nat) : (m.setCore c x).core d = if d = c then x else m.core d := SMap.get_set _ _ _ _ _

theorem State.core_baseRetire (c d : Nat) :
    (m.baseRetire c x).core d = if d = c then { x with pc := (x.pc + 4) % 2 ^ 64 } else m.core d :=
  m.core_setCore { x with pc := (x.pc + 4) % 2 ^ 64 } c d

theorem State.core_coreRetire (c d : Nat) :
    (m.coreRetire c x).core d = if d = c then { x with pc := (x.pc + 4) % 2 ^ 64 } else m.core d :=
  m.core_baseRetire x c d

theorem State.baseRetire_frame : m.baseRetire c x = { m with regs := (m.baseRetire c x).regs, cores := (m.baseRetire c x).cores } := rfl

theorem State.coreRetire_frame : m.coreRetire c x = { m with regs := (m.coreRetire c x).regs, cores := (m.coreRetire c x).cores } := rfl

/-- An instruction of the base ISA counts itself and ends a WFI. -/
theorem State.bitsBut_baseRetire : BitsBut m (m.baseRetire c x) [Reg.cc_INSTRET c, Reg.cc_WFI c] := by
  have hcore : BitsBut m (m.setCore c { x with pc := (x.pc + 4) % 2 ^ 64 }) [Reg.cc_INSTRET c, Reg.cc_WFI c] := bitsBut_of_regs rfl
  exact bitsBut_trans (bitsBut_trans hcore (bitsBut_setFld (f := Reg.cc_INSTRET c) _ _ (by simp)))
    (bitsBut_setFld (f := Reg.cc_WFI c) _ _ (by simp))

theorem State.flag_baseRetire_WFI : (m.baseRetire c x).flag (Reg.cc_WFI c) = false := State.flag_setFlag _ (Reg.cc_WFI c) false

theorem State.fld_baseRetire_INSTRET : (m.baseRetire c x).fld (Reg.cc_INSTRET c) = (m.fld (Reg.cc_INSTRET c) + 1) % 2 ^ 64 := by
  have hwfi (u : State) : (u.setFlag (Reg.cc_WFI c) false).fld (Reg.cc_INSTRET c) = u.fld (Reg.cc_INSTRET c) :=
    u.fld_setFld_other _ _ _ (by simp [Reg.cc_WFI]) (by simp [Reg.cc_WFI]) (.inl (by simp [Reg.cc_WFI, Reg.cc_INSTRET]))
  exact (hwfi _).trans (State.fld_bump_wide _ (Reg.cc_INSTRET c) 1 rfl rfl)

/-- A KV instruction counts itself once more. -/
theorem State.bitsBut_coreRetire : BitsBut m (m.coreRetire c x) [Reg.cc_INSTRET c, Reg.cc_KV_RET c, Reg.cc_WFI c] :=
  bitsBut_trans (bitsBut_mono (m.bitsBut_baseRetire c x) (by simp)) (bitsBut_setFld (f := Reg.cc_KV_RET c) _ _ (by simp))

theorem State.fld_coreRetire (f : Fld) (h : f.off ≠ (Reg.cc_KV_RET c).off) : (m.coreRetire c x).fld f = (m.baseRetire c x).fld f :=
  State.fld_eq_of_reg (State.reg_bump_other _ (Reg.cc_KV_RET c) 1 h)

theorem State.flag_coreRetire_WFI : (m.coreRetire c x).flag (Reg.cc_WFI c) = false := by
  rw [State.flag, m.fld_coreRetire c x _ (by simp [Reg.cc_WFI, Reg.cc_KV_RET]), ← State.flag, m.flag_baseRetire_WFI]

theorem State.fld_coreRetire_INSTRET : (m.coreRetire c x).fld (Reg.cc_INSTRET c) = (m.fld (Reg.cc_INSTRET c) + 1) % 2 ^ 64 := by
  rw [m.fld_coreRetire c x _ (by simp [Reg.cc_INSTRET, Reg.cc_KV_RET]), m.fld_baseRetire_INSTRET]

theorem State.fld_coreRetire_KV_RET : (m.coreRetire c x).fld (Reg.cc_KV_RET c) = (m.fld (Reg.cc_KV_RET c) + 1) % 2 ^ 64 := by
  have hbase : (m.baseRetire c x).fld (Reg.cc_KV_RET c) = m.fld (Reg.cc_KV_RET c) :=
    State.fld_eq_of_reg (reg_of_bitsBut (m.bitsBut_baseRetire c x) (by simp [Reg.cc_INSTRET, Reg.cc_WFI, Reg.cc_KV_RET]))
  rw [← hbase]
  exact State.fld_bump_wide _ (Reg.cc_KV_RET c) 1 rfl rfl

/-- A core whose k and x registers and kvstat alone have changed has retired a KV register instruction. -/
theorem kvRetired_coreRetire (hx : x = { m.core c with k := x.k, x := x.x, sat := x.sat, dirty := x.dirty }) :
    KvRetired m (m.coreRetire c x) c := by
  refine ⟨m.coreRetire_frame c x, m.bitsBut_coreRetire c x, m.flag_coreRetire_WFI c x, m.fld_coreRetire_INSTRET c x,
    m.fld_coreRetire_KV_RET c x, fun d hd => ?_, ?_⟩
  · rw [State.core_coreRetire, if_neg hd]
  · rw [State.core_coreRetire, if_pos rfl, hx]

theorem CoreSt.kr_setK (kd j : Nat) (v : BitVec 128) : (x.setK kd v).kr j = if j = kd then v else x.kr j := SMap.get_set _ _ _ _ _

/-- A register instruction whose destination is kd. -/
theorem kvWrites_coreRetire (kd : Fin 32) (v : BitVec 128) : KvWrites m (m.coreRetire c ((m.core c).setK kd v)) c kd v := by
  have hcore := m.core_coreRetire ((m.core c).setK kd v) c c
  rw [if_pos rfl] at hcore
  refine ⟨kvRetired_coreRetire m c _ rfl, ?_, ?_, ?_, ?_, fun j hj => ?_⟩
  · rw [hcore]
    exact ((m.core c).kr_setK kd kd v).trans (if_pos rfl)
  · rw [hcore]
    rfl
  · rw [hcore]
    rfl
  · rw [hcore]
    rfl
  · rw [hcore]
    exact ((m.core c).kr_setK kd j v).trans (if_neg hj)

end Retire

section Instructions

variable {s : State} {c : Core} (h : KvReady s c)
include h

/-- A permitted register instruction retires with its effect on the core. -/
theorem State.kvReg_of_ready {bits : Nat} (hl : kvLegal bits = true) (f : CoreSt → CoreSt) :
    s.kvReg c bits f = s.coreRetire c (f (s.core c)) := State.kv_of_ready h hl _

variable {f7 : Nat} {kd ks1 ks2 : Fin 32} {w : KvW}

/-- One that writes kd. -/
theorem kvWrites_kvReg (hl : kvRegLegal f7 ks2 w.toNat = true) (v : CoreSt → BitVec 128) (h7 : f7 < 128 := by decide) :
    KvWrites s (s.kvReg c (kvR f7 ks2 ks1 w.toNat kd) (fun x => x.setK kd (v x))) c kd (v (s.core c)) := by
  have hlegal := (kvLegal_kvR h7 ks2.isLt ks1.isLt w.isLt kd.isLt).trans hl
  rw [State.kvReg_of_ready h hlegal]
  exact kvWrites_coreRetire s c kd _

end Instructions

/-! ## Lanes (R208) -/

section Lanes

variable {b : Nat}

theorem toNat_lane (v : BitVec 128) (w i : Nat) : (lane v w i).toNat = (v.toNat >>> (w * i)) % 2 ^ w := BitVec.extractLsb'_toNat _ _ _

theorem laneBits_eq (w : Nat) : laneBits w = 8 * 2 ^ w := Nat.shiftLeft_eq 8 w

theorem length_vecLanes (v : BitVec 128) (b : Nat) : (vecLanes v b).length = 128 / b := by simp [vecLanes]

theorem getElem_vecLanes (v : BitVec 128) {i : Nat} (hi : i < (vecLanes v b).length) : (vecLanes v b)[i] = (lane v b i).toNat := by
  simp [vecLanes, toNat_lane]

theorem getD_vecLanes (v : BitVec 128) {i : Nat} (hi : i < 128 / b) : (vecLanes v b).getD i 0 = (lane v b i).toNat := by
  have hlen : i < (vecLanes v b).length := (length_vecLanes v b).symm ▸ hi
  rw [← List.getElem_eq_getD (h := hlen), getElem_vecLanes]

/-- Lanes side by side are the digits of a number to base 2^b. -/
theorem sum_lanes (l : List Nat) (n : Nat) : ((l.zipIdx n).map (fun e => (e.1 % 2 ^ b) <<< (b * e.2))).sum =
    Nat.ofDigits (2 ^ b) (l.map (· % 2 ^ b)) * 2 ^ (b * n) := by
  induction l generalizing n with
  | nil => simp
  | cons x l ih =>
    rw [List.zipIdx_cons, List.map_cons, List.sum_cons, ih, List.map_cons, Nat.ofDigits_cons, Nat.shiftLeft_eq, Nat.mul_add, Nat.pow_add]
    ring

/-- A register made of lanes shows each in its place. -/
theorem lane_ofLanes (l : List Nat) {i : Nat} (hi : b * (i + 1) ≤ 128) : lane (ofLanes b l) b i = BitVec.ofNat b (l.getD i 0) := by
  have hdrop : Nat.ofDigits (2 ^ b) (l.map (· % 2 ^ b)) / 2 ^ (b * i) % 2 ^ b = l.getD i 0 % 2 ^ b := by
    rw [Nat.pow_mul, Nat.ofDigits_div_pow_eq_ofDigits_drop i (by positivity) _ (by simp [Nat.mod_lt]), ← List.map_drop,
      List.getD_eq_getElem?_getD, ← List.head?_drop]
    cases l.drop i with
    | nil => simp
    | cons x l => simp [Nat.ofDigits_cons]
  apply BitVec.eq_of_toNat_eq
  rw [toNat_lane, ofLanes, sum_lanes, Nat.mul_zero, Nat.pow_zero, Nat.mul_one, BitVec.toNat_ofNat, BitVec.toNat_ofNat, ← hdrop,
    Nat.shiftRight_eq_div_pow]
  have h128 : 128 = b * i + (128 - b * i) := by rw [Nat.mul_add, Nat.mul_one] at hi; omega
  have hb : b ≤ 128 - b * i := by rw [Nat.mul_add, Nat.mul_one] at hi; omega
  rw [h128, Nat.pow_add, Nat.mod_mul_right_div_self, Nat.mod_mod_of_dvd _ (Nat.pow_dvd_pow 2 hb)]

/-- A place among the lanes lies within the register. -/
theorem lane_fits {i : Nat} (hi : i < 128 / b) : b * (i + 1) ≤ 128 :=
  (Nat.mul_le_mul_left b hi).trans (Nat.mul_div_le 128 b)

/-- The two's complement reading of a lane. -/
theorem signedOf_toNat (x : BitVec b) : signedOf x.toNat b = x.toInt := by
  rw [signedOf, Nat.mod_eq_of_lt x.isLt, BitVec.toInt_eq_toNat_cond]
  by_cases h : 2 * x.toNat < 2 ^ b
  · rw [if_pos h, if_neg (Nat.not_le.mpr h)]
  · rw [if_neg h, if_pos (Nat.not_lt.mp h), Nat.cast_pow, Nat.cast_ofNat]

theorem ofNat_wrapTo (x : Int) : BitVec.ofNat b (wrapTo b x) = BitVec.ofInt b x := by
  apply BitVec.eq_of_toNat_eq
  rw [BitVec.toNat_ofNat, BitVec.toNat_ofInt, wrapTo]
  have hpos : (0 : Int) < 2 ^ b := by positivity
  have hlt := Int.emod_lt_of_pos x hpos
  have hnn := Int.emod_nonneg x hpos.ne'
  rw [Nat.mod_eq_of_lt (by zify; omega)]
  simp

variable (x y : BitVec 128) {i : Nat} (hi : i < 128 / b)
include hi

/-- A function of one register, lane by lane. -/
theorem lane_map (g : Nat → Nat) : lane (ofLanes b ((vecLanes x b).map g)) b i = BitVec.ofNat b (g (lane x b i).toNat) := by
  have hx : i < (vecLanes x b).length := (length_vecLanes x b).symm ▸ hi
  rw [lane_ofLanes _ (lane_fits hi), ← List.getElem_eq_getD (h := by simpa using hx), List.getElem_map, getElem_vecLanes]

/-- A function of two registers, lane by lane. -/
theorem getD_zipWith {α : Type} (z : α) (g : Nat → Nat → α) :
    ((vecLanes x b).zipWith g (vecLanes y b)).getD i z = g (lane x b i).toNat (lane y b i).toNat := by
  have hx : i < (vecLanes x b).length := (length_vecLanes x b).symm ▸ hi
  have hy : i < (vecLanes y b).length := (length_vecLanes y b).symm ▸ hi
  rw [← List.getElem_eq_getD (h := by simpa using ⟨hx, hy⟩), List.getElem_zipWith, getElem_vecLanes, getElem_vecLanes]

theorem lane_map2 (g : Nat → Nat → Nat) : lane (map2 b g x y) b i = BitVec.ofNat b (g (lane x b i).toNat (lane y b i).toNat) := by
  rw [map2, lane_ofLanes _ (lane_fits hi), getD_zipWith x y hi]

theorem lane_smap2 (g : Int → Int → Int) : lane (smap2 b g x y) b i = BitVec.ofInt b (g (lane x b i).toInt (lane y b i).toInt) := by
  rw [smap2, lane_map2 x y hi, ofNat_wrapTo, signedOf_toNat, signedOf_toNat]

theorem lane_kadd : lane (map2 b (· + ·) x y) b i = lane x b i + lane y b i := by
  rw [lane_map2 x y hi, BitVec.ofNat_add, BitVec.ofNat_toNat, BitVec.ofNat_toNat, BitVec.setWidth_eq, BitVec.setWidth_eq]

theorem lane_ksub : lane (smap2 b (· - ·) x y) b i = lane x b i - lane y b i := by
  rw [lane_smap2 x y hi]
  apply BitVec.eq_of_toInt_eq
  rw [BitVec.toInt_ofInt, BitVec.toInt_sub]

theorem lane_kmul : lane (map2 b (· * ·) x y) b i = lane x b i * lane y b i := by
  rw [lane_map2 x y hi, BitVec.ofNat_mul, BitVec.ofNat_toNat, BitVec.ofNat_toNat, BitVec.setWidth_eq, BitVec.setWidth_eq]

theorem lane_kmin : lane (smap2 b min x y) b i = if (lane x b i).slt (lane y b i) then lane x b i else lane y b i := by
  rw [lane_smap2 x y hi]
  by_cases h : (lane x b i).toInt < (lane y b i).toInt
  · rw [if_pos (BitVec.slt_iff_toInt_lt.mpr h), Int.min_eq_left h.le, BitVec.ofInt_toInt]
  · rw [if_neg (fun hs => h (BitVec.slt_iff_toInt_lt.mp hs)), Int.min_eq_right (Int.not_lt.mp h), BitVec.ofInt_toInt]

theorem lane_kmax : lane (smap2 b max x y) b i = if (lane x b i).slt (lane y b i) then lane y b i else lane x b i := by
  rw [lane_smap2 x y hi]
  by_cases h : (lane x b i).toInt < (lane y b i).toInt
  · rw [if_pos (BitVec.slt_iff_toInt_lt.mpr h), Int.max_eq_right h.le, BitVec.ofInt_toInt]
  · rw [if_neg (fun hs => h (BitVec.slt_iff_toInt_lt.mp hs)), Int.max_eq_left (Int.not_lt.mp h), BitVec.ofInt_toInt]

end Lanes

/-! ## KADD, KSUB, KMUL, KMIN, KMAX, KAND, KOR and KXOR (R208) -/

section Kv2

variable {s : State} {c : Core} (h : KvReady s c) {f7 : Nat} {kd ks1 ks2 : Fin 32} {w : KvW}
include h

/-- An instruction on two k registers writes kd. -/
theorem kvWrites_kv2 (hl : kvRegLegal f7 ks2 w.toNat = true) (f : Nat → BitVec 128 → BitVec 128 → BitVec 128) (h7 : f7 < 128 := by decide) :
    KvWrites s (s.kv2 c f7 kd ks1 ks2 w.toNat f) c kd (f (8 * 2 ^ w.toNat) ((s.core c).kr ks1) ((s.core c).kr ks2)) := by
  rw [← laneBits_eq]
  exact kvWrites_kvReg h hl (fun x => f (laneBits w.toNat) (x.kr ks1) (x.kr ks2)) h7

end Kv2

/-- Settles O6: each instruction writes kd, and its result is told lane by lane. -/
theorem kvLaneArithmeticAndLogic : Obligations.KvLaneArithmeticAndLogic := by
  unfold Obligations.KvLaneArithmeticAndLogic
  refine ⟨fun s c kd ks1 ks2 w h hw op => ?_, fun s c kd ks1 ks2 h => ⟨?_, ?_, ?_⟩⟩
  · have hlow : kvRegLegal 0x00 ks2 w.toNat = true := decide_eq_true hw
    fin_cases op
    · exact ⟨_, _, rfl, kvWrites_kv2 h hlow _, fun i hi => lane_kadd _ _ hi⟩
    · exact ⟨_, _, rfl, kvWrites_kv2 (f7 := 0x01) h hlow _, fun i hi => lane_ksub _ _ hi⟩
    · exact ⟨_, _, rfl, kvWrites_kv2 (f7 := 0x02) h hlow _, fun i hi => lane_kmul _ _ hi⟩
    · exact ⟨_, _, rfl, kvWrites_kv2 (f7 := 0x06) h hlow _, fun i hi => lane_kmin _ _ hi⟩
    · exact ⟨_, _, rfl, kvWrites_kv2 (f7 := 0x07) h hlow _, fun i hi => lane_kmax _ _ hi⟩
  · exact ⟨_, rfl, kvWrites_kv2 h rfl _⟩
  · exact ⟨_, rfl, kvWrites_kv2 h rfl _⟩
  · exact ⟨_, rfl, kvWrites_kv2 h rfl _⟩

end Sys2Proof.Machine

/-! KV instructions that saturate, shift and move (R205, R208). -/

namespace Sys2Proof.Machine

open Sys2Proof.Spec

-- One proof at a time: side by side, their threads take more memory than the check has.
set_option Elab.async false

/-! ## KADDS and KSUBS (R208) -/

section Saturating

variable {b : Nat} (f : Int → Int → Int) (x y : BitVec 128)

theorem clipTo_eq (b : Nat) (z : Int) : clipTo b z = (wrapTo b (clipped b z), decide (clipped b z ≠ z)) := rfl

/-- What is held within a lane is the lane's own reading. -/
theorem toInt_ofInt_clipped (hb : 0 < b) (z : Int) : (BitVec.ofInt b (clipped b z)).toInt = clipped b z := by
  have hpos : (0 : Int) < 2 ^ (b - 1) := by positivity
  refine BitVec.toInt_ofInt_eq_self hb ?_ ?_ <;> unfold clipped <;> omega

theorem toInt_lane_sat2 (hb : 0 < b) {i : Nat} (hi : i < 128 / b) :
    (lane (sat2 b f x y).1 b i).toInt = clipped b (f (lane x b i).toInt (lane y b i).toInt) := by
  have hmap : (sat2 b f x y).1 = map2 b (fun u v => wrapTo b (clipped b (f (signedOf u b) (signedOf v b)))) x y := by
    simp only [sat2, map2, clipTo_eq, List.map_zipWith]
  rw [hmap, lane_map2 x y hi, ofNat_wrapTo, signedOf_toNat, signedOf_toNat, toInt_ofInt_clipped hb]

theorem sat2_clips : (sat2 b f x y).2 = true ↔ ∃ i, i < 128 / b ∧
    clipped b (f (lane x b i).toInt (lane y b i).toInt) ≠ f (lane x b i).toInt (lane y b i).toInt := by
  have hlane {i : Nat} (hx : i < (vecLanes x b).length) (hy : i < (vecLanes y b).length) :
      (clipTo b (f (signedOf (vecLanes x b)[i] b) (signedOf (vecLanes y b)[i] b))).2 =
        decide (clipped b (f (lane x b i).toInt (lane y b i).toInt) ≠ f (lane x b i).toInt (lane y b i).toInt) := by
    rw [getElem_vecLanes, getElem_vecLanes, signedOf_toNat, signedOf_toNat, clipTo_eq]
  simp only [sat2, List.any_eq_true, List.mem_iff_getElem]
  constructor
  · rintro ⟨_, ⟨i, hi, rfl⟩, hclip⟩
    rw [List.getElem_zipWith, hlane] at hclip
    exact ⟨i, by simpa [length_vecLanes] using hi, of_decide_eq_true hclip⟩
  · rintro ⟨i, hi, hclip⟩
    have hlen : i < (vecLanes x b).length ∧ i < (vecLanes y b).length := by simpa [length_vecLanes] using hi
    refine ⟨_, ⟨i, by simpa using hlen, rfl⟩, ?_⟩
    rw [List.getElem_zipWith, hlane hlen.1 hlen.2]
    exact decide_eq_true hclip

/-- kd takes the lanes of r, and SAT its mark. -/
def CoreSt.setSat (x : CoreSt) (kd : Nat) (r : BitVec 128 × Bool) : CoreSt := { x.setK kd r.1 with sat := x.sat || r.2 }

variable {s : State} {c : Core} (h : KvReady s c) {f7 : Nat} {kd ks1 ks2 : Fin 32} {w : KvW}
include h

/-- A saturating instruction: kd takes the held results, and SAT tells whether a lane was clipped now or before. -/
theorem kvSat_retired (hl : kvRegLegal f7 ks2 w.toNat = true) (h7 : f7 < 128 := by decide) :
    let t := s.kvSat c f7 kd ks1 ks2 w.toNat f
    let r := sat2 (laneBits w.toNat) f ((s.core c).kr ks1) ((s.core c).kr ks2)
    KvRetired s t c ∧ (t.core c).dirty = true ∧ (t.core c).x = (s.core c).x ∧
      (∀ j, (t.core c).kr j = if j = kd.val then r.1 else (s.core c).kr j) ∧ (t.core c).sat = ((s.core c).sat || r.2) := by
  intro t r
  have ht : t = s.coreRetire c ((s.core c).setSat kd r) :=
    State.kvReg_of_ready h ((kvLegal_kvR h7 ks2.isLt ks1.isLt w.isLt kd.isLt).trans hl) _
  have hcore := s.core_coreRetire ((s.core c).setSat kd r) c c
  rw [if_pos rfl, ← ht] at hcore
  refine ⟨ht ▸ kvRetired_coreRetire s c _ rfl, ?_, ?_, fun j => ?_, ?_⟩
  · rw [hcore]
    rfl
  · rw [hcore]
    rfl
  · rw [hcore]
    exact (s.core c).kr_setK kd j r.1
  · rw [hcore]
    rfl

end Saturating

/-! ## KSRA and KSLL (R208) -/

section Shifts

variable {b : Nat} (x : BitVec 128) {i : Nat} (hi : i < 128 / b) (k : Nat)
include hi

theorem lane_ksra : lane (ofLanes b ((vecLanes x b).map (fun v => wrapTo b (signedOf v b / 2 ^ k)))) b i =
    (lane x b i).sshiftRight k := by
  rw [lane_map x hi, ofNat_wrapTo, signedOf_toNat, BitVec.sshiftRight, Int.shiftRight_eq_div_pow]
  simp

theorem lane_ksll : lane (ofLanes b ((vecLanes x b).map (fun v => v <<< k))) b i = lane x b i <<< k := by
  rw [lane_map x hi]
  rfl

end Shifts

/-! ## KSPLAT, KMVXK, KMVKX and KRSUM (R208) -/

section Moves

variable {b : Nat} (x : BitVec 128) {i : Nat} (hi : i < 128 / b)
include hi

omit x in
theorem lane_ksplat (v : Word) : lane (ofLanes b (List.replicate (128 / b) v.toNat)) b i = v.setWidth b := by
  rw [lane_ofLanes _ (lane_fits hi), ← List.getElem_eq_getD (h := by simpa using hi), List.getElem_replicate, BitVec.ofNat_toNat]

theorem lane_kmvxk (v : Word) (k : Nat) :
    lane (ofLanes b ((vecLanes x b).set k v.toNat)) b i = if i = k then v.setWidth b else lane x b i := by
  have hx : i < (vecLanes x b).length := (length_vecLanes x b).symm ▸ hi
  rw [lane_ofLanes _ (lane_fits hi), ← List.getElem_eq_getD (h := by simpa using hx), List.getElem_set, getElem_vecLanes]
  by_cases hk : i = k
  · rw [if_pos hk.symm, if_pos hk, BitVec.ofNat_toNat]
  · rw [if_neg (Ne.symm hk), if_neg hk, BitVec.ofNat_toNat, BitVec.setWidth_eq]

/-- The sum of all lanes modulo 2^b, in lane 0. -/
theorem lane_krsum : lane (ofLanes b [(vecLanes x b).sum]) b i = if i = 0 then ((List.range (128 / b)).map (fun j => lane x b j)).sum else 0 := by
  have hsum (l : List Nat) : BitVec.ofNat b ((l.map (fun j => (lane x b j).toNat)).sum) = (l.map (fun j => lane x b j)).sum := by
    induction l with
    | nil => rfl
    | cons j l ih =>
      rw [List.map_cons, List.sum_cons, BitVec.ofNat_add, ih, BitVec.ofNat_toNat, BitVec.setWidth_eq, List.map_cons, List.sum_cons]
  have hlanes : vecLanes x b = (List.range (128 / b)).map (fun j => (lane x b j).toNat) := by simp [vecLanes, toNat_lane]
  rw [lane_ofLanes _ (lane_fits hi), hlanes]
  cases i with
  | zero => exact hsum _
  | succ i => rfl

end Moves

section Instructions

theorem CoreSt.xr_setX (x : CoreSt) (rd j : Nat) (v : Word) : (x.setX rd v).xr j = if j = rd ∧ j ≠ 0 then v else x.xr j := by
  by_cases hd : rd = 0
  · have hno : ¬(j = 0 ∧ j ≠ 0) := fun e => e.2 e.1
    rw [CoreSt.setX, if_pos hd, hd, if_neg hno]
  · rw [CoreSt.setX, if_neg hd, CoreSt.xr, CoreSt.xr]
    by_cases hj : j = 0
    · rw [if_pos hj, if_pos hj, if_neg (fun e => e.2 hj)]
    · simp [hj, SMap.get_set]

theorem CoreSt.setX_frame (x : CoreSt) (rd : Nat) (v : Word) : x.setX rd v = { x with x := (x.setX rd v).x } := by
  unfold CoreSt.setX
  split <;> rfl

/-- A lane number that the tables permit. -/
theorem lane_permitted {w : Nat} {ln : Nat} (hl : ln < 128 / laneBits w) : ln < 16 >>> w := by
  rwa [Nat.shiftRight_eq_div_pow, ← Nat.mul_div_mul_left 16 (2 ^ w) (show 0 < 8 by decide), ← laneBits_eq]

variable {s : State} {c : Core} (h : KvReady s c) {rd ks1 ln : Fin 32} {w : KvW}
include h

/-- KMVKX moves one lane, sign-extended, to an x register. -/
theorem kmvkx_retired (hw : w.toNat < 4) (hl : ln.val < 128 / laneBits w.toNat) :
    ∃ t, exec (.kmvkx c rd ks1 ln w) s = .next t ∧ KvRetired s t c ∧ (∀ j, (t.core c).kr j = (s.core c).kr j) ∧
      (t.core c).dirty = (s.core c).dirty ∧ (t.core c).sat = (s.core c).sat ∧
      ∀ j, (t.core c).xr j = if j = rd.val ∧ j ≠ 0 then (lane ((s.core c).kr ks1) (laneBits w.toNat) ln.val).signExtend 64
        else (s.core c).xr j := by
  generalize hv : (lane ((s.core c).kr ks1) (laneBits w.toNat) ln.val).signExtend 64 = v
  have ht : exec (.kmvkx c rd ks1 ln w) s = .next (s.coreRetire c ((s.core c).setX rd v)) := by
    have hlegal := (kvLegal_kvR (f7 := 0x32) (by decide) ln.isLt ks1.isLt w.isLt rd.isLt).trans (decide_eq_true ⟨hw, lane_permitted hl⟩)
    refine congrArg Host.Outcome.next ((State.kvReg_of_ready h hlegal _).trans ?_)
    dsimp only
    rw [getD_vecLanes _ hl, signedOf_toNat, ← hv]
    rfl
  have hx := (s.core c).setX_frame rd v
  have hcore := s.core_coreRetire ((s.core c).setX rd v) c c
  rw [if_pos rfl] at hcore
  refine ⟨_, ht, kvRetired_coreRetire s c _ (by rw [hx]), fun j => ?_, ?_, ?_, fun j => ?_⟩
  · rw [hcore, hx]
    rfl
  · rw [hcore, hx]
  · rw [hcore, hx]
  · rw [hcore]
    exact (s.core c).xr_setX rd j v

end Instructions

theorem laneBits_pos (w : Nat) : 0 < laneBits w := by
  rw [laneBits_eq]
  positivity

/-- Settles O7: results are told lane by lane, and SAT by whether a lane was clipped. -/
theorem kvSaturatingShiftsAndMoves : Obligations.KvSaturatingShiftsAndMoves := by
  unfold Obligations.KvSaturatingShiftsAndMoves
  refine ⟨fun s c kd ks1 ks2 w sub h hw => ?_, fun s c kd ks1 imm w h hw himm => ?_, fun s c kd ks1 rs1 rd ln w h hw => ?_⟩
  · have hl : kvRegLegal 0x08 ks2 w.toNat = true := decide_eq_true hw
    rw [← laneBits_eq]
    cases sub with
    | false =>
      obtain ⟨hret, hdirty, hxs, hk, hsat⟩ := kvSat_retired (f7 := 0x08) (kd := kd) (ks1 := ks1) (· + ·) h hl
      refine ⟨_, rfl, hret, hdirty, hxs, fun j hj => (hk j).trans (if_neg hj), fun i hi => ?_, ?_⟩
      · rw [hk, if_pos rfl]
        exact toInt_lane_sat2 _ _ _ (laneBits_pos _) hi
      · rw [hsat, Bool.or_eq_true, sat2_clips]
        rfl
    | true =>
      obtain ⟨hret, hdirty, hxs, hk, hsat⟩ := kvSat_retired (f7 := 0x09) (kd := kd) (ks1 := ks1) (· - ·) h hl
      refine ⟨_, rfl, hret, hdirty, hxs, fun j hj => (hk j).trans (if_neg hj), fun i hi => ?_, ?_⟩
      · rw [hk, if_pos rfl]
        exact toInt_lane_sat2 _ _ _ (laneBits_pos _) hi
      · rw [hsat, Bool.or_eq_true, sat2_clips]
        rfl
  · rw [← laneBits_eq] at himm ⊢
    have hlow := decide_eq_true (And.intro hw himm)
    exact ⟨⟨_, _, rfl, kvWrites_kvReg (f7 := 0x0A) h hlow _, fun i hi => lane_ksra _ hi _⟩,
      ⟨_, _, rfl, kvWrites_kvReg (f7 := 0x0B) h hlow _, fun i hi => lane_ksll _ hi _⟩⟩
  · rw [← laneBits_eq]
    refine ⟨?_, fun hln => ?_, kmvkx_retired h hw, fun hw2 => ?_⟩
    · exact ⟨_, _, rfl, kvWrites_kvReg (f7 := 0x30) (ks2 := 0) h (decide_eq_true ⟨hw, rfl⟩) _, fun i hi => lane_ksplat hi _⟩
    · exact ⟨_, _, rfl, kvWrites_kvReg (f7 := 0x31) h (decide_eq_true ⟨hw, lane_permitted hln⟩) _, fun i hi => lane_kmvxk _ hi _ _⟩
    · have hcode : (w.toNat = 2 ∨ w.toNat = 3) ∧ (0 : Fin 32).val = 0 := ⟨by omega, rfl⟩
      exact ⟨_, _, rfl, kvWrites_kvReg (f7 := 0x20) (ks2 := 0) h (decide_eq_true hcode) _, fun i hi => lane_krsum _ hi⟩

end Sys2Proof.Machine

/-! KV products (R209, R210): the widening products and the dot products. -/

namespace Sys2Proof.Machine

open Sys2Proof.Spec

-- One proof at a time: side by side, their threads take more memory than the check has.
set_option Elab.async false

/-! ## KWMUL, KWMULU and KWMUL4 (R209) -/

section Widening

variable {b k first out i : Nat} (hout : 128 / k = out) (hi : i < k) (hsrc : first + i < 128 / b) (x y : BitVec 128)
include hout hi hsrc

/-- Result lane i is the product of source lane i from the first on, modulo the result's width. -/
theorem lane_widen (sg : Bool) : lane (widen b k first sg x y) out i =
    BitVec.ofInt out (laneInt sg b (lane x b (first + i)).toNat * laneInt sg b (lane y b (first + i)).toNat) := by
  have hfits : out * (i + 1) ≤ 128 := by
    rw [← hout]
    exact (Nat.mul_le_mul_left _ hi).trans (Nat.div_mul_le_self 128 k)
  rw [widen, hout, lane_ofLanes _ hfits, List.getD_eq_getElem?_getD, List.getElem?_take_of_lt hi, List.getElem?_drop,
    ← List.getD_eq_getElem?_getD, getD_zipWith x y hsrc, ofNat_wrapTo]

variable (hb : 0 < b) (hwide : 2 * b ≤ out)
include hb hwide

/-- No signed product wraps. -/
theorem toInt_lane_widen : (lane (widen b k first true x y) out i).toInt = (lane x b (first + i)).toInt * (lane y b (first + i)).toInt := by
  have hlo := BitVec.le_toInt_mul_toInt (x := lane x b (first + i)) (y := lane y b (first + i))
  have hhi := BitVec.toInt_mul_toInt_le (x := lane x b (first + i)) (y := lane y b (first + i))
  have hpow : (2 : Int) ^ (b * 2 - 2) < 2 ^ (out - 1) := pow_lt_pow_right₀ (by decide) (by omega)
  rw [lane_widen hout hi hsrc, laneInt, if_pos rfl, laneInt, if_pos rfl, signedOf_toNat, signedOf_toNat]
  exact BitVec.toInt_ofInt_eq_self (by omega) (by omega) (by omega)

omit hb in
/-- No unsigned product wraps. -/
theorem toNat_lane_widen : (lane (widen b k first false x y) out i).toNat = (lane x b (first + i)).toNat * (lane y b (first + i)).toNat := by
  have hlt := BitVec.toNat_mul_toNat_lt (x := lane x b (first + i)) (y := lane y b (first + i))
  have hpow : 2 ^ (b * 2) ≤ 2 ^ out := Nat.pow_le_pow_right (by decide) (by omega)
  rw [lane_widen hout hi hsrc, laneInt, if_neg Bool.false_ne_true, laneInt, if_neg Bool.false_ne_true, ← Nat.cast_mul, BitVec.ofInt_natCast,
    BitVec.toNat_ofNat, Nat.mod_eq_of_lt (hlt.trans_le hpow)]

end Widening

/-! ## KDOT, KDOTU and KDOTUS (R210) -/

section Dot

/-- Four neighbours of a list, added. -/
theorem sum_take_four (l : List Int) {n : Nat} (h : n + 3 < l.length) :
    ((l.drop n).take 4).sum = l.getD n 0 + l.getD (n + 1) 0 + l.getD (n + 2) 0 + l.getD (n + 3) 0 := by
  rw [List.drop_eq_getElem_cons (by omega), List.drop_eq_getElem_cons (by omega), List.drop_eq_getElem_cons (by omega),
    List.drop_eq_getElem_cons (by omega), ← List.getElem_eq_getD (h := by omega), ← List.getElem_eq_getD (h := by omega),
    ← List.getElem_eq_getD (h := by omega), ← List.getElem_eq_getD (h := h)]
  simp only [List.take_succ_cons, List.take_zero, List.sum_cons, List.sum_nil]
  ring

variable {b i : Nat} (hi : i < 128 / (4 * b)) (hsrc : 4 * i + 3 < 128 / b) (sa sb : Bool) (d x y : BitVec 128)
include hi hsrc

/-- A lane of a dot product adds four products to the destination's lane. -/
theorem lane_dot4 :
    let p (j : Nat) : Int := laneInt sa b (lane x b j).toNat * laneInt sb b (lane y b j).toNat
    lane (dot4 b sa sb d x y) (4 * b) i =
      lane d (4 * b) i + BitVec.ofInt (4 * b) (p (4 * i) + p (4 * i + 1) + p (4 * i + 2) + p (4 * i + 3)) := by
  intro p
  have hlen : i < (vecLanes d (4 * b)).length := (length_vecLanes d (4 * b)).symm ▸ hi
  have hprods : 4 * i + 3 < ((vecLanes x b).zipWith (fun u v => laneInt sa b u * laneInt sb b v) (vecLanes y b)).length := by
    rwa [List.length_zipWith, length_vecLanes, length_vecLanes, Nat.min_self]
  rw [dot4, lane_ofLanes _ (lane_fits hi), ← List.getElem_eq_getD (h := by simpa using hlen), List.getElem_map, List.getElem_zipIdx,
    getElem_vecLanes, Nat.zero_add, ofNat_wrapTo, BitVec.ofInt_add, BitVec.ofInt_natCast, BitVec.ofNat_toNat, BitVec.setWidth_eq,
    sum_take_four _ hprods, getD_zipWith x y (by omega), getD_zipWith x y (by omega), getD_zipWith x y (by omega),
    getD_zipWith x y hsrc]

end Dot

section Instructions

variable {s : State} {c : Core} (h : KvReady s c) {f7 : Nat} {kd ks1 ks2 : Fin 32} {w : KvW}
include h

/-- A dot product retires and writes kd. -/
theorem kvWrites_kvDot (hl : kvRegLegal f7 ks2 w.toNat = true) (sa sb : Bool) (h7 : f7 < 128 := by decide) :
    KvWrites s (s.kvDot c f7 kd ks1 ks2 w.toNat sa sb) c kd
      (dot4 (8 * 2 ^ w.toNat) sa sb ((s.core c).kr kd) ((s.core c).kr ks1) ((s.core c).kr ks2)) := by
  rw [← laneBits_eq]
  exact kvWrites_kvReg h hl (fun x => dot4 (laneBits w.toNat) sa sb (x.kr kd) (x.kr ks1) (x.kr ks2)) h7

end Instructions

/-- Lanes of twice the width, and the halves of the source. -/
theorem lanes_of_halves {w : Nat} (hw : w < 3) :
    128 / (64 / (8 * 2 ^ w)) = 2 * (8 * 2 ^ w) ∧ 128 / (8 * 2 ^ w) = 64 / (8 * 2 ^ w) + 64 / (8 * 2 ^ w) := by
  interval_cases w <;> decide

/-- Lanes of four times the width, and the quarters of the source. -/
theorem lanes_of_quarters {w : Nat} (hw : w < 2) : 128 / (32 / (8 * 2 ^ w)) = 4 * (8 * 2 ^ w) ∧
    128 / (8 * 2 ^ w) = 4 * (32 / (8 * 2 ^ w)) ∧ 128 / (4 * (8 * 2 ^ w)) = 32 / (8 * 2 ^ w) := by
  interval_cases w <;> decide

/-- No product of a quarter wraps. -/
theorem toInt_lane_quarter {w i first : Nat} (hw : w < 2) (q : Fin 4) (hi : i < 32 / (8 * 2 ^ w)) (hq : first = q * (32 / (8 * 2 ^ w)))
    (x y : BitVec 128) : (lane (widen (8 * 2 ^ w) (32 / (8 * 2 ^ w)) first true x y) (4 * (8 * 2 ^ w)) i).toInt =
      (lane x (8 * 2 ^ w) (q * (32 / (8 * 2 ^ w)) + i)).toInt * (lane y (8 * 2 ^ w) (q * (32 / (8 * 2 ^ w)) + i)).toInt := by
  obtain ⟨hout, hquarters, -⟩ := lanes_of_quarters hw
  have hq4 := q.isLt
  rw [← hq]
  exact toInt_lane_widen hout hi (by rw [hquarters, hq]; nlinarith) x y (by positivity) (by omega)

/-- Settles O8: a result lane is a product of source lanes, and it is wide enough. -/
theorem kvProductsAreExact : Obligations.KvProductsAreExact := by
  unfold Obligations.KvProductsAreExact
  refine ⟨fun s c kd ks1 ks2 w h => ⟨fun hw hi => ?_, fun hw j => ?_⟩, fun s c kd ks1 ks2 w h hw op => ?_⟩
  · obtain ⟨hout, hhalves⟩ := lanes_of_halves hw
    have hpos : 0 < 8 * 2 ^ w.toNat := by positivity
    have hl : kvRegLegal 0x10 ks2 w.toNat = true := decide_eq_true hw
    cases hi with
    | false =>
      have hsrc {i : Nat} (hi : i < 64 / (8 * 2 ^ w.toNat)) : 0 + i < 128 / (8 * 2 ^ w.toNat) := by omega
      refine ⟨⟨_, _, rfl, kvWrites_kv2 (f7 := 0x10) h hl _, fun i hi => ?_⟩, ⟨_, _, rfl, kvWrites_kv2 (f7 := 0x12) h hl _, fun i hi => ?_⟩⟩
      · have hlane := toInt_lane_widen hout hi (hsrc hi) ((s.core c).kr ks1) ((s.core c).kr ks2) hpos le_rfl
        rwa [Nat.zero_add] at hlane
      · have hlane := toNat_lane_widen hout hi (hsrc hi) ((s.core c).kr ks1) ((s.core c).kr ks2) le_rfl
        rwa [Nat.zero_add] at hlane
    | true =>
      have hsrc {i : Nat} (hi : i < 64 / (8 * 2 ^ w.toNat)) : 64 / (8 * 2 ^ w.toNat) + i < 128 / (8 * 2 ^ w.toNat) := by omega
      exact ⟨⟨_, _, rfl, kvWrites_kv2 (f7 := 0x11) h hl _, fun i hi => toInt_lane_widen hout hi (hsrc hi) _ _ hpos le_rfl⟩,
        ⟨_, _, rfl, kvWrites_kv2 (f7 := 0x13) h hl _, fun i hi => toNat_lane_widen hout hi (hsrc hi) _ _ le_rfl⟩⟩
  · have hl : kvRegLegal 0x14 ks2 w.toNat = true := decide_eq_true hw
    fin_cases j
    · exact ⟨_, _, rfl, kvWrites_kv2 (f7 := 0x14) h hl _, fun i hi => toInt_lane_quarter hw 0 hi (Nat.zero_mul _).symm _ _⟩
    · exact ⟨_, _, rfl, kvWrites_kv2 (f7 := 0x15) h hl _, fun i hi => toInt_lane_quarter hw 1 hi (Nat.one_mul _).symm _ _⟩
    · exact ⟨_, _, rfl, kvWrites_kv2 (f7 := 0x16) h hl _, fun i hi => toInt_lane_quarter hw 2 hi rfl _ _⟩
    · exact ⟨_, _, rfl, kvWrites_kv2 (f7 := 0x17) h hl _, fun i hi => toInt_lane_quarter hw 3 hi rfl _ _⟩
  · obtain ⟨-, hquarters, hout⟩ := lanes_of_quarters hw
    have hl : kvRegLegal 0x18 ks2 w.toNat = true := decide_eq_true hw
    have hlane (sa sb : Bool) (i : Nat) (hi : i < 32 / (8 * 2 ^ w.toNat)) := lane_dot4 (b := 8 * 2 ^ w.toNat) (hout ▸ hi) (by omega) sa sb
      ((s.core c).kr kd) ((s.core c).kr ks1) ((s.core c).kr ks2)
    simp only [laneInt, signedOf_toNat] at hlane
    fin_cases op
    · exact ⟨_, _, rfl, kvWrites_kvDot (f7 := 0x18) h hl true true, hlane true true⟩
    · exact ⟨_, _, rfl, kvWrites_kvDot (f7 := 0x19) h hl false false, hlane false false⟩
    · exact ⟨_, _, rfl, kvWrites_kvDot (f7 := 0x1A) h hl false true, hlane false true⟩

end Sys2Proof.Machine

/-! What a core's access of memory counts, and no more (R220 to R226, R232): no event is reported where no injection waits. -/

namespace Sys2Proof.Machine

open Sys2Proof.Spec

-- One proof at a time: side by side, their threads take more memory than the check has.
set_option Elab.async false

/-! ## Accesses report nothing while no injection waits -/

/-- The events that wait, the pages that have lost one, and the bytes the reserve has moved. -/
def State.records (m : State) : List Event × List Nat × SMap Nat := (m.events, m.lossPages, m.rsvBytes)

section Records

variable (m : State)

theorem records_foldl {β : Type} {f : State → β → State} (l : List β)
    (hf : ∀ m b, b ∈ l → Calm m → AccessOnly m (f m b) ∧ (f m b).records = m.records) (hc : Calm m) : (l.foldl f m).records = m.records := by
  induction l generalizing m with
  | nil => rfl
  | cons b l ih =>
    obtain ⟨haccess, hrec⟩ := hf m b List.mem_cons_self hc
    exact (ih _ (fun m x hx => hf m x (List.mem_cons_of_mem _ hx)) (calm_of_accessOnly haccess hc)).trans hrec

/-- Beats charged to a station are in its bucket. -/
theorem State.records_chargeBeats (n a len : Nat) : (m.chargeBeats (some n) a len).records = m.records := by
  unfold State.chargeBeats
  split
  · rfl
  · refine foldl_keeps (v := State.records) (fun m i _ => ?_) m
    rfl

theorem State.records_senseLine (n b acc : Nat) (hc : Calm m) : (m.senseLine n b acc).records = m.records := by
  have hfires : m.injFires (0x30 + (m.place b).1) 0 = false := by simp [State.injFires, hc _]
  unfold State.senseLine
  dsimp only
  rw [hfires, if_neg Bool.false_ne_true]
  split <;> rfl

theorem State.records_sense (n a len acc : Nat) (hc : Calm m) : (m.sense n a len acc).records = m.records :=
  records_foldl m _ (fun m _ _ h => ⟨accessOnly_senseLine m n _ acc h, m.records_senseLine n _ acc h⟩) hc

theorem State.records_rmwOne {n : Nat} (hn : n < 8) (b : Nat) (hc : Calm m) : (m.rmwOne n b).records = m.records := by
  have hplace := m.place_lt b
  have hbump := accessOnly_bump m (Reg.mc_RMW_CNT (m.place b).1) 1 (by refine ⟨?_, ?_, ?_⟩ <;> simp only [Reg.mc_RMW_CNT] <;> omega)
  have hcharge := accessOnly_trans hbump (accessOnly_chargeBeats _ hn b 64 (calm_of_accessOnly hbump hc))
  exact (State.records_sense _ n b 64 2 (calm_of_accessOnly hcharge hc)).trans (State.records_chargeBeats _ n b 64)

theorem State.records_countRmw {n : Nat} (hn : n < 8) (a len : Nat) (hc : Calm m) : (m.countRmw n a len).records = m.records := by
  have hfirst : AccessOnly m (if decide (a % 64 ≠ 0 ∨ len < 64) then m.rmwOne n (a / 64 * 64) else m) ∧
      (if decide (a % 64 ≠ 0 ∨ len < 64) then m.rmwOne n (a / 64 * 64) else m).records = m.records := by
    split
    · exact ⟨accessOnly_rmwOne m hn _ hc, m.records_rmwOne hn _ hc⟩
    · exact ⟨accessOnly_refl m, rfl⟩
  obtain ⟨haccess, hrec⟩ := hfirst
  rw [State.countRmw_eq]
  split
  · rfl
  · dsimp only
    split
    · exact (State.records_rmwOne _ hn _ (calm_of_accessOnly haccess hc)).trans hrec
    · exact hrec

theorem State.records_direct {n : Nat} (hn : n < 8) (a len : Nat) (w : Bool) (hc : Calm m) : (m.direct n a len w).records = m.records := by
  have hcalm := calm_of_accessOnly (accessOnly_chargeBeats m hn a len hc) hc
  unfold State.direct
  dsimp only
  split
  · exact (State.records_countRmw _ hn a len hcalm).trans (m.records_chargeBeats n a len)
  · exact (State.records_sense _ n a len 0 hcalm).trans (m.records_chargeBeats n a len)

theorem State.records_evict (c : CLine) : (m.evict c).records = m.records := by
  unfold State.evict
  dsimp only
  split
  · exact State.records_chargeBeats _ _ _ _
  · rfl

theorem State.records_allocate (n slice set l : Nat) (keep : Bool) : (m.allocate n slice set l keep).records = m.records := by
  unfold State.allocate
  dsimp only
  change State.records (if _ ∧ _ then _ else _) = _
  repeat' split
  · exact m.records_evict _
  · rfl
  · exact m.records_evict _
  · rfl
  · rfl

theorem State.records_cacheLine {n : Nat} (hn : n < 8) (lo len : Nat) (w : Bool) (hc : Calm m) :
    (m.cacheLine n lo len w 0).records = m.records := by
  unfold State.cacheLine
  extract_lets l sl h page i m0 m1 n1 n2 n3
  have hhome : h.1 < 48 := cacheHome_lt n l
  split
  · exact m.records_direct hn lo len w hc
  · split
    · extract_lets m2 keeps m3
      have h0 : AccessOnly m m0 := accessOnly_bump m _ 1 (by refine ⟨?_, ?_, ?_⟩ <;> simp only [Reg.crk_HITS] <;> omega)
      have h1 : m1 = m0 := by
        unfold m1
        rw [m0.senseCrock_of_calm (calm_of_accessOnly h0 hc), ite_self]
      have h2 : m2.records = m1.records := by
        unfold m2
        split <;> rfl
      have h3 : m3 = m2 := if_neg fun h => absurd h.1 (by decide)
      rw [h3]
      have h0m : m0.records = m.records := rfl
      exact h2.trans ((congrArg State.records h1).trans h0m)
    · have h1 : AccessOnly m n1 := accessOnly_bump m _ 1 (by refine ⟨?_, ?_, ?_⟩ <;> simp only [Reg.crk_MISSES] <;> omega)
      have halloc := accessOnly_trans h1 (accessOnly_allocate n1 hn hhome h.2 l (calm_of_accessOnly h1 hc))
      have h2 : n2.records = m.records :=
        (State.records_direct _ hn _ _ _ (calm_of_accessOnly halloc hc)).trans (n1.records_allocate _ _ _ _ _)
      rw [if_neg (by decide)]
      split
      · exact h2
      · exact h2

theorem State.records_touch {n : Nat} (hn : n < 8) (a len : Nat) (w : Bool) (hc : Calm m) : (m.touch n a len w 0).records = m.records := by
  cases ha : isHbm a with
  | false => rw [m.touch_of_onDie hc n ha]
  | true =>
    unfold State.touch
    rw [ha]
    split
    · rfl
    · rw [Bool.not_true, if_neg Bool.false_ne_true]
      split
      · exact m.records_direct hn a len w hc
      · exact records_foldl m _ (fun m i _ h => ⟨accessOnly_cacheLine_allocating m hn _ _ w h, m.records_cacheLine hn _ _ w h⟩) hc

end Records

/-! ## What a core's access may change -/

/-- m is s but for memory, the cache, and what the Crock and the memory controllers count. -/
def CoreTouched (s m : State) : Prop := s.MemOnly m ∧ m.records = s.records ∧ ∀ o, ¬ MemReg o → m.reg o = s.reg o

section CoreTouched

variable {s m : State} {c : Core}

theorem coreTouched_refl (s : State) : CoreTouched s s := ⟨.refl s, rfl, fun _ _ => rfl⟩

theorem coreTouched_touch {n : Nat} (hn : n < 8) (a len : Nat) (w : Bool) (hc : Calm s) : CoreTouched s (s.touch n a len w 0) := by
  obtain ⟨hm, -, -, -, hr⟩ := accessOnly_touch_allocating s hn a len w hc
  exact ⟨hm, s.records_touch hn a len w hc, hr⟩

theorem coreTouched_storeP {n : Nat} (hn : n < 8) (a : Nat) (bs : List Byte) (psn : Bool) (hc : Calm s) :
    CoreTouched s (s.storeP n a bs psn 0) := by
  refine ⟨.storeP s n a bs psn 0, ?_, fun o ho => s.reg_store_allocating hn hc a bs _ ho⟩
  rw [State.storeP, State.store, State.untag_frame, State.putPsn_frame]
  exact s.records_touch hn a bs.length true hc

theorem State.core_landed (m : State) (d : Nat) : m.landed.core d = m.core d := rfl

theorem State.reg_landed (m : State) (o : Nat) : m.landed.reg o = m.reg o := rfl

theorem State.fld_landed (m : State) (f : Fld) : m.landed.fld f = m.fld f := rfl

theorem State.flag_landed (m : State) (f : Fld) : m.landed.flag f = m.flag f := rfl

/-- A core that retires goes on running. -/
theorem State.flag_coreRetire_RUN (m : State) (c : Core) (x : CoreSt) : (m.coreRetire c x).flag (Reg.cc_RUN c) = m.flag (Reg.cc_RUN c) := by
  have hwfi (u : State) : (u.setFlag (Reg.cc_WFI c) false).flag (Reg.cc_RUN c) = u.flag (Reg.cc_RUN c) :=
    u.flag_setFld_beside (Reg.cc_WFI c) (Reg.cc_RUN c) _
  rw [State.flag, m.fld_coreRetire c x _ (by simp [Reg.cc_RUN, Reg.cc_KV_RET])]
  refine (hwfi _).trans (State.flag_eq_of_reg ?_)
  exact State.reg_bump_other _ (Reg.cc_INSTRET c) 1 (by simp [Reg.cc_RUN, Reg.cc_INSTRET])

/-- A core that retires after its access has accessed memory. -/
theorem kvAccessed_coreRetire (h : CoreTouched s m) (x : CoreSt) : KvAccessed s (m.coreRetire c x).landed c := by
  obtain ⟨hmem, hrec, hreg⟩ := h
  have hbits := m.bitsBut_coreRetire c x
  have hpage (o : Nat) (ho : 0x44_0000 ≤ o) : m.reg o = s.reg o := hreg o fun ⟨_, hhi, _⟩ => by omega
  have hframe : m = { s with
      regs := m.regs, mem := m.mem, poison := m.poison, trayTags := m.trayTags, coreBytes := m.coreBytes, stale := m.stale
      stalePsn := m.stalePsn, cache := m.cache, buckets := m.buckets, flight := m.flight } := by
    simp only [State.records, Prod.mk.injEq] at hrec
    obtain ⟨hev, hloss, hrsv⟩ := hrec
    refine Eq.trans hmem ?_
    rw [State.withMemOf, hev, hloss, hrsv]
  refine ⟨⟨?_, fun o ho hnot => ?_⟩, ?_, ?_, ?_, ?_⟩
  · rw [m.coreRetire_frame c x, hframe]
    rfl
  · have hother : ∀ f ∈ [Reg.cc_INSTRET c, Reg.cc_KV_RET c, Reg.cc_WFI c], f.off ≠ o := fun f hf e =>
      hnot (e ▸ List.mem_map_of_mem (f := Fld.off) hf)
    rw [State.reg_landed, reg_of_bitsBut hbits hother]
    exact hreg o fun ⟨hlo, hhi, _⟩ => by omega
  · rw [State.fld_landed, State.fld_coreRetire_INSTRET, State.fld_eq_of_reg (hpage _ (by simp only [Reg.cc_INSTRET]; omega))]
  · rw [State.fld_landed, State.fld_coreRetire_KV_RET, State.fld_eq_of_reg (hpage _ (by simp only [Reg.cc_KV_RET]; omega))]
  · rw [State.flag_landed, m.flag_coreRetire_RUN, State.flag_eq_of_reg (hpage _ (by simp only [Reg.cc_RUN]; omega))]
  · rw [State.flag_landed, m.flag_coreRetire_WFI]

end CoreTouched

end Sys2Proof.Machine

/-! KV loads and stores (R207, R211): their encodings, their address and bytes, and what each leaves. -/

namespace Sys2Proof.Machine

open Sys2Proof.Spec

-- One proof at a time: side by side, their threads take more memory than the check has.
set_option Elab.async false

/-! ## Encodings and addresses (R207) -/

section Encodings

variable {f3 a b imm : Nat}

/-- A word of the major for loads and stores is permitted with the width codes 0 to 3. -/
theorem kvLegal_of_major {bits : Nat} (hmajor : bitsOf bits 6 0 = 0x0B) (hw : bitsOf bits 14 12 < 4) : kvLegal bits = true := by
  simp [kvLegal, hmajor, hw]

theorem kvLegal_kvLd (hf : f3 < 4) (hb : b < 32) : kvLegal (kvLd f3 a b imm) = true := by
  have himm : imm % 4096 < 4096 := Nat.mod_lt _ (by decide)
  refine kvLegal_of_major ?_ ?_ <;>
  · delta kvLd
    simp only [Nat.shiftLeft_eq, bitsOf, Nat.shiftRight_eq_div_pow]
    omega

theorem kvLegal_kvSt (hf : f3 < 4) : kvLegal (kvSt f3 a b imm) = true := by
  refine kvLegal_of_major ?_ ?_ <;>
  · delta kvSt
    simp only [Nat.shiftLeft_eq, bitsOf, Nat.shiftRight_eq_div_pow]
    omega

/-- The address as the model adds it. -/
theorem kvAddr_eq (s : State) (c : Core) (rs1 : Fin 32) (imm : BitVec 12) :
    (((s.core c).xr rs1).toNat + (signedOf imm.toNat 12 % 2 ^ 64).toNat) % 2 ^ 64 = kvAddr s c rs1 imm := by
  rw [kvAddr, BitVec.toNat_add, signedOf_toNat, BitVec.signExtend, BitVec.toNat_ofInt]
  rfl

end Encodings

/-! ## Bytes of a k register -/

section Bytes

/-- A byte of a little-endian number is the one in its place. -/
theorem leNat_div_mod (l : List Byte) (i : Nat) : leNat l / 2 ^ (8 * i) % 2 ^ 8 = (l.getD i 0).toNat := by
  induction l generalizing i with
  | nil => simp [leNat]
  | cons b l ih =>
    have hb := b.isLt
    cases i with
    | zero =>
      rw [leNat, List.getD_cons_zero]
      omega
    | succ i =>
      rw [leNat, List.getD_cons_succ, ← ih, show 8 * (i + 1) = 8 + 8 * i by ring, Nat.pow_add, ← Nat.div_div_eq_div_mul,
        show (b.toNat + 256 * leNat l) / 2 ^ 8 = leNat l by omega]

/-- Bytes that a register has taken, each in its lane. -/
theorem lane_ofNat_leNat (l : List Byte) (hl : l.length ≤ 16) (i : Nat) : lane (BitVec.ofNat 128 (leNat l)) 8 i = l.getD i 0 := by
  have hlt : leNat l < 2 ^ 128 := (leNat_lt l).trans_le (Nat.pow_le_pow_right (by decide) (by omega))
  apply BitVec.eq_of_toNat_eq
  rw [toNat_lane, BitVec.toNat_ofNat, Nat.mod_eq_of_lt hlt, Nat.shiftRight_eq_div_pow, leNat_div_mod]

/-- Bytes that a register gives. -/
theorem getD_leBytes (v : BitVec 128) {n i : Nat} (hi : i < n) : (leBytes v.toNat n).getD i 0 = lane v 8 i := by
  rw [List.getD_eq_getElem _ _ (by simpa [leBytes] using hi)]
  simp only [leBytes, List.getElem_map, List.getElem_range]
  rfl

theorem State.length_seen (m : State) (a n : Nat) : (m.seen a n).length = n := by
  have hbytes : (m.bytes a n).length = n := by simp [State.bytes_eq]
  unfold State.seen
  split
  · split
    · simp
    · exact hbytes
  · exact hbytes

theorem State.seen_of_not_mortar (m : State) {a : Nat} (h : ∀ d, regionOf a ≠ .mortar d) (n : Nat) : m.seen a n = m.bytes a n := by
  unfold State.seen
  split
  · next d hd => exact absurd hd (h d)
  · rfl

end Bytes

/-! ## Loads -/

section Load

variable {s : State} {c : Core}

theorem State.coreStn_lt {k : Nat} (h : s.coreStn c = some k) : k < 8 := by
  unfold State.coreStn at h
  split at h
  · cases h
  · exact List.mem_range.mp (List.mem_of_find?_eq_some h)

/-- What a core's read of [a, a + n) leaves: a core of a station accesses memory as its station does. -/
def State.coreRead (s : State) (c a n : Nat) : State :=
  match s.coreStn c with
  | some k => s.touch k a n false 0
  | none => s

theorem coreRead_accessOnly (c : Core) (a n : Nat) (hc : Calm s) : AccessOnly s (s.coreRead c a n) := by
  unfold State.coreRead
  split
  · next k hk => exact accessOnly_touch_allocating s (State.coreStn_lt hk) a n false hc
  · exact accessOnly_refl s

theorem coreTouched_coreRead (c : Core) (a n : Nat) (hc : Calm s) : CoreTouched s (s.coreRead c a n) := by
  unfold State.coreRead
  split
  · next k hk => exact coreTouched_touch (State.coreStn_lt hk) a n false hc
  · exact coreTouched_refl s

variable (h : KvReady s c) {bits : Nat} (hl : kvLegal bits = true) {rs1 : Fin 32} {imm : BitVec 12} {n : Nat}
  {f : CoreSt → List Byte → CoreSt}
include h hl

/-- A load that its checks permit and nothing holds. -/
theorem State.kvLoad_of_ok (hok : s.coreAccess c (kvAddr s c rs1 imm) n false = .ok) (hheld : s.coreHeld c (kvAddr s c rs1 imm) n = false) :
    let a := kvAddr s c rs1 imm
    let m := s.coreRead c a n
    let e : Ev := { page := 0x87 + c, code := Code.corePoison, stn := s.coreStn c, master := 0x40 + c, acc := 0, addr := a }
    s.kvLoad c bits rs1 imm.toNat n f =
      if m.psnIn a n then ((m.report e).report { e with code := Code.poisonConsumed }).trap c 24 a
      else m.coreRetire c (f (s.core c) (m.seen a n)) := by
  intro a m e
  refine (State.kv_of_ready h hl _).trans ?_
  dsimp only
  rw [kvAddr_eq, hok]
  dsimp only
  rw [hheld, if_neg Bool.false_ne_true]
  rfl

theorem State.kvLoad_of_held (hok : s.coreAccess c (kvAddr s c rs1 imm) n false = .ok)
    (hheld : s.coreHeld c (kvAddr s c rs1 imm) n = true) : s.kvLoad c bits rs1 imm.toNat n f = s := by
  refine (State.kv_of_ready h hl _).trans ?_
  dsimp only
  rw [kvAddr_eq, hok]
  exact if_pos hheld

/-- A store that its checks permit and nothing holds. -/
theorem State.kvStore_of_ok {ks2 : Fin 32} (hok : s.coreAccess c (kvAddr s c rs1 imm) n true = .ok)
    (hheld : s.coreHeld c (kvAddr s c rs1 imm) n = false) : s.kvStore c bits rs1 ks2 imm.toNat n =
      (s.coreStore c (kvAddr s c rs1 imm) (leBytes ((s.core c).kr ks2).toNat n)).coreRetire c (s.core c) := by
  refine (State.kv_of_ready h hl _).trans ?_
  dsimp only
  rw [kvAddr_eq, hok]
  exact if_neg (by rw [hheld]; exact Bool.false_ne_true)

theorem State.kvStore_of_held {ks2 : Fin 32} (hok : s.coreAccess c (kvAddr s c rs1 imm) n true = .ok)
    (hheld : s.coreHeld c (kvAddr s c rs1 imm) n = true) : s.kvStore c bits rs1 ks2 imm.toNat n = s := by
  refine (State.kv_of_ready h hl _).trans ?_
  dsimp only
  rw [kvAddr_eq, hok]
  exact if_pos hheld

end Load

/-- The bytes that a load or store moves. -/
def kvBytes (half : Bool) : Nat := if half then 8 else 16

theorem kvBytes_le (half : Bool) : kvBytes half ≤ 16 := by cases half <;> decide

/-- The word of a load. -/
def kvLoadWord (half : Bool) (rs1 kd : Fin 32) (imm : BitVec 12) : Nat := kvLd (if half then 2 else 0) rs1 kd imm.toNat

/-- The word of a store. -/
def kvStoreWord (half : Bool) (rs1 ks2 : Fin 32) (imm : BitVec 12) : Nat := kvSt (if half then 3 else 1) rs1 ks2 imm.toNat

/-- What a load does to the core. -/
def CoreSt.loaded (kd : Fin 32) (x : CoreSt) (bs : List Byte) : CoreSt := x.setK kd (BitVec.ofNat 128 (leNat bs))

section Exec

variable (s : State) (c : Core) (k rs1 : Fin 32) (imm : BitVec 12) (half : Bool)

theorem exec_kvLoad : exec (if half then .kldh c k rs1 imm else .kld c k rs1 imm) s =
    .next (s.kvLoad c (kvLoadWord half rs1 k imm) rs1 imm.toNat (kvBytes half) (CoreSt.loaded k)).landed := by
  cases half <;> rfl

theorem exec_kvStore : exec (if half then .ksth c k rs1 imm else .kst c k rs1 imm) s =
    .next (s.kvStore c (kvStoreWord half rs1 k imm) rs1 k imm.toNat (kvBytes half)).landed := by
  cases half <;> rfl

theorem kvLegal_kvLoadWord : kvLegal (kvLoadWord half rs1 k imm) = true :=
  kvLegal_kvLd (by cases half <;> decide) k.isLt

theorem kvLegal_kvStoreWord : kvLegal (kvStoreWord half rs1 k imm) = true :=
  kvLegal_kvSt (by cases half <;> decide)

end Exec

end Sys2Proof.Machine

/-! Where a core's store goes (R89, R204, R226), and what loads and stores leave (R207). -/

namespace Sys2Proof.Machine

open Sys2Proof.Spec

-- One proof at a time: side by side, their threads take more memory than the check has.
set_option Elab.async false

/-! ## What the checks of an access say of its place -/

section Access

variable {s : State} {c : Core} {a n : Nat} {w : Bool}

/-- A core's access that is served lies in firmware memory or passes its station's check. -/
theorem State.coreAccess_ok (h : s.coreAccess c a n w = .ok) : regionOf a = .firmware ∨ s.check (s.coreStn c) a n w = .ok := by
  unfold State.coreAccess at h
  split at h
  · cases h
  · split at h
    · cases h
    · split at h
      · next hr _ => exact .inl hr
      · split at h
        · next hok => exact .inr hok
        · cases h
        · cases h

/-- HBM serves no master without a station. -/
theorem State.check_hbm_none (ha : isHbm a = true) (hl : a + n ≤ 2 ^ 44) : s.check none a n w ≠ .ok := by
  have hend : unitEnd a = 2 ^ 44 := by rcases regionOf_of_isHbm ha with hr | hr <;> simp only [unitEnd, hr]
  rw [State.check, hend, if_pos hl, State.checkUnit]
  rcases regionOf_of_isHbm ha with hr | hr
  · rw [hr]
    cases regionOf (a + n - 1) with
    | hbm k => simp [ite_eq_iff]
    | _ => simp
  · rw [hr]
    cases regionOf (a + n - 1) <;> simp

/-- Bytes that a core may access are no tags (R301). -/
theorem noTags_of_coreAccess (h : s.coreAccess c a n w = .ok) (hn : n ≤ 16) : NoTags a n := by
  cases ha : isHbm a with
  | false =>
    intro i _
    have hhigh : 0x280_0000_0000 ≤ a := Nat.not_lt.mp (of_decide_eq_false ha)
    rw [inTagArea, isHbm, decide_eq_false (by omega), Bool.false_and]
  | true =>
    have hlow : a < 0x280_0000_0000 := of_decide_eq_true ha
    have hl : a + n ≤ 2 ^ 44 := by omega
    rcases State.coreAccess_ok h with hfw | hok
    · rcases regionOf_of_isHbm ha with hr | hr <;> rw [hr] at hfw <;> cases hfw
    · cases hk : s.coreStn c with
      | none => exact absurd (hk ▸ hok) (State.check_hbm_none ha hl)
      | some k =>
        rw [hk, State.check_hbm_iff ha hl] at hok
        exact hok.noTags (by omega)

end Access

/-! ## Recipe memory as cores write it (R24, R89) -/

section Recipe

variable (m : State) (master : Nat) (stn : Option Nat) (addr : Nat) (bs : List Byte) (psn : Bool)

theorem State.MemOnly.recipeWrite : m.MemOnly (m.recipeWrite master stn addr bs psn) := by
  unfold State.recipeWrite
  dsimp only
  split
  · exact .report _ _
  · split
    · exact (State.MemOnly.setFlag m _ true).trans (.report _ _)
    · split
      · exact .access _ _ _ _ _ _
      · exact (State.MemOnly.putBytes m _ _).trans (.putPsn _ _ _ _)

theorem State.byte_recipeWrite {x : Nat} (hx : x < addr ∨ addr + bs.length ≤ x) :
    (m.recipeWrite master stn addr bs psn).byte x = m.byte x := by
  unfold State.recipeWrite
  dsimp only
  split
  · exact (State.sameMemory_report m _ x).1
  · split
    · exact (State.sameMemory_report _ _ x).1
    · split
      · exact (State.sameMemory_access m _ _ _ _ _ x).1
      · rw [State.byte, State.putPsn_mem, ← State.byte, State.byte_putBytes, if_neg (by omega)]

variable {q b k : Nat}

/-- The quadrant and the bank that a recipe address lies in. -/
def RecipePlace (addr q b : Nat) : Prop := (addr - 0x830_0000_0000) / 0x8_0000 = q ∧ (addr - 0x830_0000_0000) / 0x4_0000 % 2 = b

/-- The active bank of a station takes nothing from its core, and stays its active bank. -/
theorem State.recipeWrite_active (hplace : RecipePlace addr q b) (hact : m.fld (Reg.seq_ACTIVE q k) = b) :
    SameMemory m (m.recipeWrite master (some k) addr bs psn) ∧
      (m.recipeWrite master (some k) addr bs psn).fld (Reg.seq_ACTIVE q k) = b := by
  obtain ⟨hq, hb⟩ := hplace
  have hpage (e : Ev) (he : e.page = 0x0C + q) (u : State) : (u.report e).fld (Reg.seq_ACTIVE q k) = u.fld (Reg.seq_ACTIVE q k) :=
    State.fld_eq_of_reg (State.reg_report_other u e (.inr (by simp only [he, Reg.seq_ACTIVE]; omega)))
  unfold State.recipeWrite
  simp only [hq, hb]
  split
  · exact ⟨State.sameMemory_report m _, (hpage _ rfl m).trans hact⟩
  · next n _ =>
    have hflag : (m.setFlag (Reg.seq_WREF q n) true).fld (Reg.seq_ACTIVE q k) = m.fld (Reg.seq_ACTIVE q k) :=
      m.fld_setFld_beside (Reg.seq_WREF q n) (Reg.seq_ACTIVE q k) _
    split
    · exact ⟨State.sameMemory_report (m.setFlag _ true) _, (hpage _ rfl _).trans (hflag.trans hact)⟩
    · next hother =>
      have hne : (some k).isSome = true ∧ some k ≠ some n := ⟨rfl, fun e => hother (Option.some.inj e ▸ hact)⟩
      rw [if_pos hne]
      exact ⟨State.sameMemory_access m _ _ _ _ _, (hpage _ rfl m).trans hact⟩

/-- Offsets between two of one bank are of that bank. -/
theorem bank_between {u v w : Nat} (hu : u / 0x8_0000 = q ∧ u / 0x4_0000 % 2 = b) (hw : w / 0x8_0000 = q ∧ w / 0x4_0000 % 2 = b)
    (hlo : u ≤ v) (hhi : v ≤ w) : v / 0x8_0000 = q ∧ v / 0x4_0000 % 2 = b := by
  omega

theorem recipePlace_between {a x z : Nat} (ha : regionOf a = .recipe q b) (hz : regionOf z = .recipe q b) (hlo : a ≤ x) (hhi : x ≤ z) :
    RecipePlace x q b := by
  obtain ⟨-, -, hfirst⟩ := recipe_bounds ha
  obtain ⟨-, -, hlast⟩ := recipe_bounds hz
  exact bank_between hfirst hlast (Nat.sub_le_sub_right hlo _) (Nat.sub_le_sub_right hhi _)

end Recipe

/-! ## Where a store goes -/

section Store

variable (s : State) (c : Core) {a : Nat} (bs : List Byte)

theorem State.coreStore_of_pot {q : Nat} (hr : regionOf a = .pot q) :
    s.coreStore c a bs = s.access (0x08 + q) (0x40 + c) (s.coreStn c) 1 a := by
  simp only [State.coreStore, hr]

theorem State.coreStore_of_recipe {q b : Nat} (hr : regionOf a = .recipe q b) :
    s.coreStore c a bs =
      let head := min bs.length (32 - a % 32)
      let m1 := s.recipeWrite (0x40 + c) (s.coreStn c) a (bs.take head) false
      if head < bs.length then m1.recipeWrite (0x40 + c) (s.coreStn c) (a + head) (bs.drop head) false else m1 := by
  simp only [State.coreStore, hr]

variable (hp : ∀ q, regionOf a ≠ .pot q) (hq : ∀ q b, regionOf a ≠ .recipe q b)
include hp hq

theorem State.coreStore_of_memory : s.coreStore c a bs =
    match s.coreStn c with
    | some k => s.coreCached c k a bs
    | none => (s.putBytes a bs).putPsn a bs.length (fun _ _ => false) := by
  unfold State.coreStore
  cases hr : regionOf a with
  | pot q => exact absurd hr (hp q)
  | recipe q b => exact absurd hr (hq q b)
  | _ => cases s.coreStn c <;> rfl

/-- Other memory takes the bytes of a store. -/
theorem State.coreStore_shows (hc : Calm s) : CoreTouched s (s.coreStore c a bs) ∧ ∀ x, inTagArea x = false →
    (s.coreStore c a bs).byte x = if a ≤ x ∧ x < a + bs.length then bs.getD (x - a) 0 else s.byte x := by
  rw [s.coreStore_of_memory c bs hp hq]
  cases hk : s.coreStn c with
  | some k =>
    obtain ⟨-, hrec, hreg⟩ := coreTouched_storeP (State.coreStn_lt hk) a bs false hc
    exact ⟨⟨.coreCached s c k a bs, hrec, hreg⟩, fun x hx => s.byte_store k a bs _ 0 hx⟩
  | none =>
    refine ⟨⟨(State.MemOnly.putBytes s a bs).trans (.putPsn _ _ _ _), ?_, fun o _ => ?_⟩, fun x _ => ?_⟩
    · dsimp only
      rw [State.putPsn_frame]
      rfl
    · dsimp only
      rw [State.putPsn_frame]
      rfl
    · dsimp only
      rw [State.byte, State.putPsn_mem, ← State.byte, State.byte_putBytes, SMap.get_ofList]

end Store

end Sys2Proof.Machine

/-! KV loads and stores as a whole (R207). -/

namespace Sys2Proof.Machine

open Sys2Proof.Spec

-- One proof at a time: side by side, their threads take more memory than the check has.
set_option Elab.async false

/-- A core's store of bytes at a, and what follows it. -/
def State.coreStored (s : State) (c : Core) (a : Nat) (bs : List Byte) : State :=
  ((s.coreStore c a bs).coreRetire c (s.core c)).landed

section Memory

variable {s : State} {c : Core} {k rs1 : Fin 32} {imm : BitVec 12} {half : Bool}

theorem State.MemOnly.core {t : State} (h : s.MemOnly t) (d : Nat) : t.core d = s.core d := by
  rw [State.MemOnly] at h
  rw [h]
  rfl

variable (h : KvReady s c) (hc : Calm s)
include h hc

/-- A load of clean bytes writes its register. -/
theorem kvLoad_shows (hok : s.coreAccess c (kvAddr s c rs1 imm) (kvBytes half) false = .ok)
    (hpsn : s.psnIn (kvAddr s c rs1 imm) (kvBytes half) = false) (hheld : s.coreHeld c (kvAddr s c rs1 imm) (kvBytes half) = false) :
    let a := kvAddr s c rs1 imm
    let r := BitVec.ofNat 128 (leNat ((s.coreRead c a (kvBytes half)).seen a (kvBytes half)))
    let t := ((s.coreRead c a (kvBytes half)).coreRetire c ((s.core c).setK k r)).landed
    exec (if half then .kldh c k rs1 imm else .kld c k rs1 imm) s = .next t ∧ KvAccessed s t c ∧ SameMemory s t ∧
      (∀ d, d ≠ c.val → t.core d = s.core d) ∧
      t.core c = { (s.core c).setK k r with pc := ((s.core c).pc + 4) % 2 ^ 64 } := by
  intro a r t
  have haccess := coreRead_accessOnly c a (kvBytes half) hc
  have hmpsn : (s.coreRead c a (kvBytes half)).psnIn a (kvBytes half) = false := (haccess.psnIn _ _).trans hpsn
  obtain ⟨hmem, hbytes, hmarks, -, -⟩ := haccess
  have hcore (d : Nat) : t.core d = if d = c then { (s.core c).setK k r with pc := ((s.core c).pc + 4) % 2 ^ 64 } else s.core d := by
    rw [State.core_landed, State.core_coreRetire, hmem.core]
    rfl
  refine ⟨?_, kvAccessed_coreRetire (coreTouched_coreRead c a _ hc) _, memory_of_eq hbytes hmarks, fun d hd => ?_, ?_⟩
  · rw [exec_kvLoad]
    refine congrArg (fun u : State => Host.Outcome.next u.landed) ?_
    exact (State.kvLoad_of_ok h (kvLegal_kvLoadWord k rs1 imm half) hok hheld).trans (if_neg (ne_true_of_eq_false hmpsn))
  · rw [hcore, if_neg hd]
  · rw [hcore, if_pos rfl]

omit h in
/-- A load's register shows the bytes in their lanes, and zero above them. -/
theorem lane_kvLoad (a : Nat) (half : Bool) :
    let r := BitVec.ofNat 128 (leNat ((s.coreRead c a (kvBytes half)).seen a (kvBytes half)))
    (∀ i, kvBytes half ≤ i → lane r 8 i = 0) ∧
      ((∀ d, regionOf a ≠ .mortar d) → ∀ i, i < kvBytes half → lane r 8 i = s.byte (a + i)) := by
  intro r
  have hlane (i : Nat) := lane_ofNat_leNat ((s.coreRead c a (kvBytes half)).seen a (kvBytes half))
    ((State.length_seen _ _ _).trans_le (kvBytes_le half)) i
  refine ⟨fun i hi => ?_, fun hr i hi => ?_⟩
  · rw [hlane, List.getD_eq_default _ _ (by rw [State.length_seen]; exact hi)]
  · obtain ⟨-, hbytes, -, -, -⟩ := coreRead_accessOnly c a (kvBytes half) hc
    rw [hlane, State.seen_of_not_mortar _ hr, State.bytes_eq, List.getD_eq_getElem _ _ (by simpa using hi), List.getElem_map,
      List.getElem_range, State.byte, hbytes]
    rfl

omit hc in
/-- A store that is served is done, and then the core retires. -/
theorem exec_kvStore_of_ok (hok : s.coreAccess c (kvAddr s c rs1 imm) (kvBytes half) true = .ok)
    (hheld : s.coreHeld c (kvAddr s c rs1 imm) (kvBytes half) = false) : exec (if half then .ksth c k rs1 imm else .kst c k rs1 imm) s =
      .next (s.coreStored c (kvAddr s c rs1 imm) (leBytes ((s.core c).kr k).toNat (kvBytes half))) := by
  rw [exec_kvStore]
  exact congrArg (fun u : State => Host.Outcome.next u.landed) (State.kvStore_of_ok h (kvLegal_kvStoreWord k rs1 imm half) hok hheld)

omit hc in
theorem exec_kvLoad_of_held (hok : s.coreAccess c (kvAddr s c rs1 imm) (kvBytes half) false = .ok)
    (hheld : s.coreHeld c (kvAddr s c rs1 imm) (kvBytes half) = true) :
    exec (if half then .kldh c k rs1 imm else .kld c k rs1 imm) s = .next s.landed := by
  rw [exec_kvLoad]
  exact congrArg (fun u : State => Host.Outcome.next u.landed) (State.kvLoad_of_held h (kvLegal_kvLoadWord k rs1 imm half) hok hheld)

omit hc in
theorem exec_kvStore_of_held (hok : s.coreAccess c (kvAddr s c rs1 imm) (kvBytes half) true = .ok)
    (hheld : s.coreHeld c (kvAddr s c rs1 imm) (kvBytes half) = true) :
    exec (if half then .ksth c k rs1 imm else .kst c k rs1 imm) s = .next s.landed := by
  rw [exec_kvStore]
  exact congrArg (fun u : State => Host.Outcome.next u.landed) (State.kvStore_of_held h (kvLegal_kvStoreWord k rs1 imm half) hok hheld)

end Memory

section Store

variable (s : State) (c : Core) (a : Nat) (bs : List Byte)

theorem State.MemOnly.coreStore : s.MemOnly (s.coreStore c a bs) := by
  unfold State.coreStore
  split
  · exact .access _ _ _ _ _ _
  · dsimp only
    split
    · exact (State.MemOnly.recipeWrite _ _ _ _ _ _).trans (.recipeWrite _ _ _ _ _ _)
    · exact .recipeWrite _ _ _ _ _ _
  · exact .coreCached _ _ _ _ _
  · exact (State.MemOnly.putBytes s _ _).trans (.putPsn _ _ _ _)

/-- A store changes no byte but its own, and tags. -/
theorem State.byte_coreStore (hc : Calm s) {x : Nat} (hx : x < a ∨ a + bs.length ≤ x) (ht : inTagArea x = false) :
    (s.coreStore c a bs).byte x = s.byte x := by
  by_cases hp : ∃ q, regionOf a = .pot q
  · obtain ⟨q, hq⟩ := hp
    rw [s.coreStore_of_pot c bs hq]
    exact (s.sameMemory_access _ _ _ _ _ x).1
  · by_cases hr : ∃ q b, regionOf a = .recipe q b
    · obtain ⟨q, b, hr⟩ := hr
      rw [s.coreStore_of_recipe c bs hr]
      extract_lets head m1
      have hhead : head ≤ bs.length := Nat.min_le_left _ _
      have h1 : m1.byte x = s.byte x := s.byte_recipeWrite _ _ _ _ _ (by rw [List.length_take]; omega)
      split
      · exact (m1.byte_recipeWrite _ _ _ _ _ (by rw [List.length_drop]; omega)).trans h1
      · exact h1
    · obtain ⟨-, hbyte⟩ := s.coreStore_shows c bs (fun q hq => hp ⟨q, hq⟩) (fun q b hq => hr ⟨q, b, hq⟩) hc
      rw [hbyte x ht, if_neg (by omega)]

/-- A store into its station's active bank changes no byte (R89). -/
theorem State.coreStore_active {q b k : Nat} (hr : regionOf a = .recipe q b) (hlast : regionOf (a + bs.length - 1) = .recipe q b)
    (hk : s.coreStn c = some k) (hact : s.fld (Reg.seq_ACTIVE q k) = b) : SameMemory s (s.coreStore c a bs) := by
  rw [s.coreStore_of_recipe c bs hr, hk]
  extract_lets head m1
  have hplace {x : Nat} (hlo : a ≤ x) (hhi : x ≤ a + bs.length - 1) : RecipePlace x q b := recipePlace_between hr hlast hlo hhi
  obtain ⟨hsame, hact1⟩ := s.recipeWrite_active (0x40 + c) a (bs.take head) false (recipePlace_between hr hr le_rfl le_rfl) hact
  split
  · next hmore =>
    obtain ⟨hsame2, -⟩ := m1.recipeWrite_active (0x40 + c) (a + head) (bs.drop head) false (hplace (by omega) (by omega)) hact1
    exact sameMemory_trans hsame hsame2
  · exact hsame

/-- A Stockpot drops the store, and records it (R204). -/
theorem State.coreStore_pot {q : Nat} (hr : regionOf a = .pot q) : SameMemory s (s.coreStore c a bs) ∧
    (s.coreStore c a bs).fld (Reg.hdr_EVENTS (8 + q)) = min (s.fld (Reg.hdr_EVENTS (8 + q)) + 1) (2 ^ 32 - 1) := by
  rw [s.coreStore_of_pot c bs hr]
  exact ⟨s.sameMemory_access _ _ _ _ _, State.fld_report_EVENTS s _⟩

theorem State.core_coreStored (d : Nat) :
    (s.coreStored c a bs).core d = if d = c then { s.core c with pc := ((s.core c).pc + 4) % 2 ^ 64 } else s.core d := by
  rw [State.coreStored, State.core_landed, State.core_coreRetire, (State.MemOnly.coreStore s c a bs).core]

/-- What the record of a store to a Stockpot counts, the core's retirement leaves. -/
theorem State.fld_coreStored_EVENTS (q : Nat) :
    (s.coreStored c a bs).fld (Reg.hdr_EVENTS (8 + q)) = (s.coreStore c a bs).fld (Reg.hdr_EVENTS (8 + q)) := by
  have hbits := (s.coreStore c a bs).bitsBut_coreRetire c (s.core c)
  rw [State.coreStored, State.fld_landed]
  refine State.fld_eq_of_reg (reg_of_bitsBut hbits fun f hf => ?_)
  simp only [List.mem_cons, List.not_mem_nil, or_false] at hf
  rcases hf with rfl | rfl | rfl <;> simp only [Reg.cc_INSTRET, Reg.cc_KV_RET, Reg.cc_WFI, Reg.hdr_EVENTS] <;> omega

end Store

/-- Settles O9: a load and a store by where they go, and an access that holds. -/
theorem kvMemoryAccesses : Obligations.KvMemoryAccesses := by
  unfold Obligations.KvMemoryAccesses
  refine ⟨fun s c kd rs1 imm half h hok hpsn hheld hc => ?_, fun s c ks2 rs1 imm half h hok hheld hc => ?_,
    fun s c k rs1 imm half write h hok hheld => ?_⟩
  · obtain ⟨hexec, hacc, hsame, hothers, hcore⟩ := kvLoad_shows (k := kd) h hc hok hpsn hheld
    obtain ⟨hhigh, hlow⟩ := lane_kvLoad (s := s) (c := c) hc (kvAddr s c rs1 imm) half
    refine ⟨_, _, hexec, hacc, hsame, hothers, ?_, ?_, fun j hj => ?_, fun i hi _ => hhigh i hi, hlow⟩
    · rw [hcore]
      rfl
    · rw [hcore]
      exact ((s.core c).kr_setK kd kd _).trans (if_pos rfl)
    · rw [hcore]
      exact ((s.core c).kr_setK kd j _).trans (if_neg hj)
  · have hlen : (leBytes ((s.core c).kr ks2).toNat (kvBytes half)).length = kvBytes half := leBytes_length _ _
    have hnotag := noTags_of_coreAccess hok (kvBytes_le half)
    have hbytes {i : Nat} (hi : i < kvBytes half) := getD_leBytes ((s.core c).kr ks2) hi
    refine ⟨_, exec_kvStore_of_ok h hok hheld, ?_⟩
    generalize leBytes ((s.core c).kr ks2).toNat (kvBytes half) = bs at hlen hbytes ⊢
    generalize kvAddr s c rs1 imm = a at hnotag ⊢
    refine ⟨fun d hd => ?_, ?_, fun x hx ht => ?_, fun hp hq => ?_, fun q hq => ?_, fun q b k hr hlast hk hact => ?_⟩
    · rw [State.core_coreStored, if_neg hd]
    · rw [State.core_coreStored, if_pos rfl]
    · exact s.byte_coreStore c a bs hc (hlen ▸ hx) ht
    · obtain ⟨htouched, hbyte⟩ := s.coreStore_shows c bs hp hq hc
      refine ⟨kvAccessed_coreRetire htouched _, fun i hi => (hbyte _ (hnotag i hi)).trans ?_⟩
      rw [if_pos (by rw [hlen]; exact ⟨Nat.le_add_right _ _, Nat.add_lt_add_left hi _⟩), Nat.add_sub_cancel_left]
      exact hbytes hi
    · obtain ⟨hsame, hev⟩ := s.coreStore_pot c a bs hq
      exact ⟨hsame, (s.fld_coreStored_EVENTS c a bs q).trans hev⟩
    · exact s.coreStore_active c a bs hr (hlen ▸ hlast) hk hact
  · cases write with
    | false =>
      have hexec := exec_kvLoad_of_held (k := k) (half := half) h hok hheld
      cases half <;> exact hexec
    | true =>
      have hexec := exec_kvStore_of_held (k := k) (half := half) h hok hheld
      cases half <;> exact hexec

end Sys2Proof.Machine

/-! Traps of a core and words that no KV row executes (R202, R204, R205, R211, R214). -/

namespace Sys2Proof.Machine

open Sys2Proof.Spec

-- One proof at a time: side by side, their threads take more memory than the check has.
set_option Elab.async false

/-! ## Traps (R202, R211) -/

/-- A core's own registers once it has taken a trap. -/
def CoreSt.trapped (x : CoreSt) (cause tval : Nat) : CoreSt :=
  { x with
    mepc := x.pc, mcause := cause, mtval := BitVec.ofNat 64 tval, mpie := x.mie, mie := false, mppUser := x.user, user := false
    pc := x.mtvec / 4 * 4 }

/-- A trap of any cause: the core is at its handler, and the trap is counted with its cause. -/
def State.trapNoted (m : State) (c cause tval : Nat) : State :=
  ((m.setCore c ((m.core c).trapped cause tval)).bump (Reg.cc_TRAP_CNT c) 1).setFld (Reg.cc_LAST_CAUSE c) cause

section Trap

variable (m : State) (c : Core) (cause tval : Nat)

theorem State.trap_eq : m.trap c cause tval =
    if cause = 24 then (m.trapNoted c cause tval).bump (Reg.cc_POIS_CNT c) 1 else m.trapNoted c cause tval := rfl

theorem State.trap_of_ne (h : cause ≠ 24) : m.trap c cause tval = m.trapNoted c cause tval := if_neg h

theorem State.trap_poison : m.trap c 24 tval = (m.trapNoted c 24 tval).bump (Reg.cc_POIS_CNT c) 1 :=
  (m.trap_eq c 24 tval).trans (if_pos rfl)

theorem State.trapNoted_frame : m.trapNoted c cause tval =
    { m with regs := (m.trapNoted c cause tval).regs, cores := (m.trapNoted c cause tval).cores } := rfl

theorem State.core_trapNoted (d : Nat) : (m.trapNoted c cause tval).core d = if d = c then (m.core c).trapped cause tval else m.core d :=
  m.core_setCore _ c d

theorem State.bitsBut_trapNoted : BitsBut m (m.trapNoted c cause tval) [Reg.cc_TRAP_CNT c, Reg.cc_LAST_CAUSE c] := by
  have hcore : BitsBut m (m.setCore c ((m.core c).trapped cause tval)) [Reg.cc_TRAP_CNT c, Reg.cc_LAST_CAUSE c] := bitsBut_of_regs rfl
  exact bitsBut_trans (bitsBut_trans hcore (bitsBut_setFld (f := Reg.cc_TRAP_CNT c) _ _ (by simp)))
    (bitsBut_setFld (f := Reg.cc_LAST_CAUSE c) _ _ (by simp))

theorem State.fld_trapNoted_TRAP_CNT :
    (m.trapNoted c cause tval).fld (Reg.cc_TRAP_CNT c) = min (m.fld (Reg.cc_TRAP_CNT c) + 1) (2 ^ 32 - 1) := by
  have hcause (u : State) : (u.setFld (Reg.cc_LAST_CAUSE c) cause).fld (Reg.cc_TRAP_CNT c) = u.fld (Reg.cc_TRAP_CNT c) :=
    State.fld_eq_of_reg (u.reg_setFld_other _ _ (by simp [Reg.cc_TRAP_CNT, Reg.cc_LAST_CAUSE]))
  rw [State.trapNoted, hcause]
  exact State.fld_bump_same _ (Reg.cc_TRAP_CNT c) 1 (by simp [Reg.cc_TRAP_CNT]) (by simp [Reg.cc_TRAP_CNT]) (by simp [Reg.cc_TRAP_CNT])

theorem State.fld_trapNoted_POIS_CNT : (m.trapNoted c cause tval).fld (Reg.cc_POIS_CNT c) = m.fld (Reg.cc_POIS_CNT c) := by
  have hcause (u : State) : (u.setFld (Reg.cc_LAST_CAUSE c) cause).fld (Reg.cc_POIS_CNT c) = u.fld (Reg.cc_POIS_CNT c) :=
    State.fld_eq_of_reg (u.reg_setFld_other _ _ (by simp [Reg.cc_POIS_CNT, Reg.cc_LAST_CAUSE]))
  rw [State.trapNoted, hcause]
  exact State.fld_setFld_beside _ (Reg.cc_TRAP_CNT c) (Reg.cc_POIS_CNT c) _

theorem State.fld_trapNoted_LAST_CAUSE (h : cause < 2 ^ 8) : (m.trapNoted c cause tval).fld (Reg.cc_LAST_CAUSE c) = cause :=
  (State.fld_setFld _ (Reg.cc_LAST_CAUSE c) cause).trans (Nat.mod_eq_of_lt h)

variable {m c cause tval} {s : State}

/-- A trap after steps that have left the cores and the count of traps. -/
theorem trapTaken_trapNoted (hcore : ∀ d, m.core d = s.core d) (hcount : m.fld (Reg.cc_TRAP_CNT c) = s.fld (Reg.cc_TRAP_CNT c))
    (h : cause < 2 ^ 8) : TrapTaken s (m.trapNoted c cause tval) c cause tval := by
  refine ⟨?_, m.fld_trapNoted_LAST_CAUSE c cause tval h, fun d hd => ?_, ?_⟩
  · rw [Counted, State.fld_trapNoted_TRAP_CNT, hcount]
    rfl
  · rw [State.core_trapNoted, if_neg hd, hcore]
  · rw [State.core_trapNoted, if_pos rfl, hcore]
    rfl

theorem trapped_trap (hpoison : cause ≠ 24) (h : cause < 2 ^ 8) : Trapped s (s.trap c cause tval) c cause tval := by
  rw [State.trap_of_ne _ _ _ _ hpoison]
  exact ⟨rfl, s.bitsBut_trapNoted c cause tval, trapTaken_trapNoted (fun _ => rfl) rfl h⟩

/-- The end of the command leaves the trap. -/
theorem trapTaken_landed (h : TrapTaken s m c cause tval) : TrapTaken s m.landed c cause tval := by
  obtain ⟨hcount, hcause, hothers, hcore⟩ := h
  refine ⟨?_, ?_, fun d hd => ?_, ?_⟩
  · rw [Counted, State.fld_landed]
    exact hcount
  · rw [State.fld_landed, hcause]
  · rw [State.core_landed, hothers d hd]
  · rw [State.core_landed, hcore]

theorem trapped_landed (h : Trapped s m c cause tval) : Trapped s m.landed c cause tval := by
  obtain ⟨hframe, hbits, htaken⟩ := h
  refine ⟨?_, fun o k hk => ?_, trapTaken_landed htaken⟩
  · rw [hframe]
    rfl
  · rw [State.reg_landed]
    exact hbits o k hk

end Trap

/-! ## Words that trap (R202, R205, R208) -/

section Illegal

variable {s : State} {c : Core} (h : CoreRuns s c) {bits : Nat}
include h

theorem State.illegal_kv (hkv : bits % 128 = 0x0B ∨ bits % 128 = 0x2B) (hbad : kvLegal bits = false ∨ (s.core c).kvOn = false) :
    s.illegal c bits = s.trap c 2 bits := by
  have hnot : ¬(kvLegal bits = true ∧ (s.core c).kvOn = true) := by
    rcases hbad with hb | hb <;> simp [hb]
  simp only [State.illegal, State.coreRuns_of h, Bool.not_true, Bool.false_eq_true, if_false, if_pos hkv, if_neg hnot]

theorem State.illegal_base (hkv : ¬(bits % 128 = 0x0B ∨ bits % 128 = 0x2B)) (hbad : baseLegal bits = false) :
    s.illegal c bits = s.trap c 2 bits := by
  simp only [State.illegal, State.coreRuns_of h, Bool.not_true, Bool.false_eq_true, if_false, if_neg hkv, hbad, Bool.not_false, if_true]

theorem State.illegal_csr (hmajor : bits % 128 = 0x73) (hbase : baseLegal bits = true) (hf3 : bitsOf bits 14 12 ≠ 0)
    (hcsr : bitsOf bits 31 20 ∈ [0x7C0, 0x8C0, 0xC00, 0xC01]) : s.illegal c bits = s.csrOp c bits (bitsOf bits 31 20) := by
  have hkv : ¬(bits % 128 = 0x0B ∨ bits % 128 = 0x2B) := by omega
  simp only [State.illegal, State.coreRuns_of h, Bool.not_true, Bool.false_eq_true, if_false, if_neg hkv, hbase,
    if_pos (And.intro hmajor (And.intro hf3 hcsr))]

theorem State.illegal_wfi : s.illegal c 0x1050_0073 = (s.baseRetire c (s.core c)).setFlag (Reg.cc_WFI c) true := by
  have hbase : baseLegal 0x1050_0073 = true := by decide
  simp only [State.illegal, State.coreRuns_of h, hbase]
  rfl

end Illegal

/-! ## CSR instructions (R204, R205) -/

section Csr

variable {csr f3 : Nat} (hcsr : csr < 4096) (hf3 : f3 < 8) (rs rd : Fin 32)
include hcsr hf3

theorem toNat_csrWord : (csrWord csr f3 rs rd).toNat = csr * 2 ^ 20 + rs.val * 2 ^ 15 + f3 * 2 ^ 12 + rd.val * 2 ^ 7 + 0x73 := by
  have hrs := rs.isLt
  have hrd := rd.isLt
  rw [csrWord, BitVec.toNat_ofNat, Nat.mod_eq_of_lt (by omega)]

/-- The fields of a CSR instruction read back. -/
theorem csrWord_fields : (csrWord csr f3 rs rd).toNat % 128 = 0x73 ∧ bitsOf (csrWord csr f3 rs rd).toNat 14 12 = f3 ∧
    bitsOf (csrWord csr f3 rs rd).toNat 31 20 = csr ∧ bitsOf (csrWord csr f3 rs rd).toNat 19 15 = rs ∧
    bitsOf (csrWord csr f3 rs rd).toNat 11 7 = rd := by
  have hrs := rs.isLt
  have hrd := rd.isLt
  simp only [toNat_csrWord hcsr hf3, bitsOf, Nat.shiftRight_eq_div_pow]
  omega

theorem baseLegal_csrWord (hne : f3 ≠ 0 ∧ f3 ≠ 4) : baseLegal (csrWord csr f3 rs rd).toNat = true := by
  obtain ⟨hmajor, hfunct, -⟩ := csrWord_fields hcsr hf3 rs rd
  have hlong : (csrWord csr f3 rs rd).toNat % 4 = 3 := by omega
  simp [baseLegal, hmajor, hfunct, hlong, hne]

end Csr

/-- Two flags, as a CSR's bits 0 and 1. -/
theorem testBit_flags (x y : Bool) : (b2n x + b2n y <<< 1).testBit 0 = x ∧ (b2n x + b2n y <<< 1).testBit 1 = y := by
  cases x <;> cases y <;> decide

section CsrOp

variable {s : State} {c : Core} {csr f3 : Nat} {rs rd : Fin 32}

/-- A CSR instruction writes but where it sets or clears with register or immediate 0 (R202). -/
def csrWrites (f3 : Nat) (rs : Fin 32) : Bool := decide (f3 % 4 = 1 ∨ rs ≠ 0)

theorem csrWrites_iff (f3 : Nat) (rs : Fin 32) : csrWrites f3 rs = decide (f3 % 4 = 1 ∨ rs.val ≠ 0) :=
  decide_eq_decide.mpr (or_congr_right (not_congr Fin.ext_iff))

/-- An instruction that does not write leaves the old value. -/
theorem csrNew_of_not_writes (h : csrWrites f3 rs = false) (hf3 : f3 ∈ [1, 2, 3, 5, 6, 7]) (old : Nat) : csrNew s c f3 rs old = old := by
  obtain ⟨hread, hrs⟩ := not_or.mp (of_decide_eq_false h)
  have hzero : rs = 0 := not_not.mp hrs
  subst hzero
  simp only [List.mem_cons, List.not_mem_nil, or_false] at hf3
  rcases hf3 with rfl | rfl | rfl | rfl | rfl | rfl <;> simp_all [csrNew, CoreSt.xr]

theorem csrNew_eq (old : Nat) : csrNew s c f3 rs old =
    let x := if 4 ≤ f3 then rs.val else ((s.core c).xr rs).toNat
    if f3 % 4 = 1 then x else if f3 % 4 = 2 then old ||| x else old - (old &&& x) := by
  unfold csrNew
  dsimp only
  split
  · next h => rw [if_pos h]
  · next h => rw [if_neg (show ¬ f3 % 4 = 1 by omega), if_pos h]
  · next h1 h2 => rw [if_neg h1, if_neg h2]

variable (hcsr : csr < 4096) (hf3 : f3 ∈ [1, 2, 3, 5, 6, 7])
include hcsr hf3

/-- The flags of kvcfg in U-mode, and time to a write, are closed. -/
theorem State.csrOp_traps (hbad : (csr = 0x7C0 ∧ (s.core c).user = true) ∨ (0xC00 ≤ csr ∧ csrWrites f3 rs = true)) :
    s.csrOp c (csrWord csr f3 rs rd).toNat csr = s.trap c 2 (csrWord csr f3 rs rd).toNat := by
  have hlt : f3 < 8 := by simp only [List.mem_cons, List.not_mem_nil, or_false] at hf3; omega
  obtain ⟨-, hfunct, -, hrs, -⟩ := csrWord_fields hcsr hlt rs rd
  rw [csrWrites_iff] at hbad
  unfold State.csrOp
  dsimp only
  rw [hfunct, hrs, if_pos hbad]

/-- Another instruction reads the old value, and writes where it is one that writes. -/
theorem State.csrOp_retires (hgood : ¬((csr = 0x7C0 ∧ (s.core c).user = true) ∨ (0xC00 ≤ csr ∧ csrWrites f3 rs = true))) {old : Nat}
    (hread : s.csrRead (s.core c) csr = (old, s)) : s.csrOp c (csrWord csr f3 rs rd).toNat csr = s.baseRetire c
      ((if csrWrites f3 rs then (s.core c).csrWrite csr (csrNew s c f3 rs old) else s.core c).setX rd (BitVec.ofNat 64 old)) := by
  have hlt : f3 < 8 := by simp only [List.mem_cons, List.not_mem_nil, or_false] at hf3; omega
  obtain ⟨-, hfunct, -, hrs, hrd⟩ := csrWord_fields hcsr hlt rs rd
  rw [csrWrites_iff] at hgood
  unfold State.csrOp
  dsimp only
  rw [hfunct, hrs, hrd, if_neg hgood, hread, csrWrites_iff, csrNew_eq]

/-- The flags that a CSR holds, as its instructions leave them. -/
theorem State.csrOp_flags (hflags : csr = 0x7C0 ∧ (s.core c).user = false ∨ csr = 0x8C0) :
    s.csrOp c (csrWord csr f3 rs rd).toNat csr = s.baseRetire c
      (((s.core c).csrWrite csr (csrNew s c f3 rs (s.csrRead (s.core c) csr).1)).setX rd (BitVec.ofNat 64 (s.csrRead (s.core c) csr).1)) := by
  have hread : s.csrRead (s.core c) csr = ((s.csrRead (s.core c) csr).1, s) := by
    rcases hflags with ⟨rfl, -⟩ | rfl <;> rfl
  have hgood : ¬((csr = 0x7C0 ∧ (s.core c).user = true) ∨ (0xC00 ≤ csr ∧ csrWrites f3 rs = true)) := by
    rcases hflags with ⟨rfl, hu⟩ | rfl <;> simp [*]
  rw [State.csrOp_retires hcsr hf3 hgood hread]
  cases hw : csrWrites f3 rs with
  | true => rfl
  | false =>
    have hkeep : (s.core c).csrWrite csr (s.csrRead (s.core c) csr).1 = s.core c := by
      rcases hflags with ⟨rfl, -⟩ | rfl <;> simp only [State.csrRead, CoreSt.csrWrite, testBit_flags] <;> rfl
    rw [csrNew_of_not_writes hw hf3, hkeep]
    rfl

end CsrOp

/-- An instruction of the base retires with its effect on the core. -/
theorem baseRetired_baseRetire (s : State) (c : Core) {x : CoreSt} {f : CoreSt → CoreSt}
    (hx : { x with pc := (x.pc + 4) % 2 ^ 64 } = { f (s.core c) with pc := ((s.core c).pc + 4) % 2 ^ 64 }) :
    BaseRetired s (s.baseRetire c x) c f := by
  refine ⟨s.baseRetire_frame c x, s.bitsBut_baseRetire c x, s.fld_baseRetire_INSTRET c x, fun d hd => ?_, ?_⟩
  · rw [State.core_baseRetire, if_neg hd]
  · rw [State.core_baseRetire, if_pos rfl, hx]

/-! ## What the words of a core show -/

section Words

variable {s : State} {c : Core} (h : CoreRuns s c)
include h

theorem trapped_illegal {bits : BitVec 32} (hbad : if bits.toNat % 128 = 0x0B ∨ bits.toNat % 128 = 0x2B
      then kvLegal bits.toNat = false ∨ (s.core c).kvOn = false else baseLegal bits.toNat = false) :
    Trapped s (s.illegal c bits.toNat) c 2 bits.toNat := by
  by_cases hkv : bits.toNat % 128 = 0x0B ∨ bits.toNat % 128 = 0x2B
  · rw [if_pos hkv] at hbad
    rw [State.illegal_kv h hkv hbad]
    exact trapped_trap (by decide) (by decide)
  · rw [if_neg hkv] at hbad
    rw [State.illegal_base h hkv hbad]
    exact trapped_trap (by decide) (by decide)

theorem wfi_shows : BaseRetired s (s.illegal c 0x1050_0073) c id ∧ (s.illegal c 0x1050_0073).flag (Reg.cc_WFI c) = true := by
  have hret := baseRetired_baseRetire s c (x := s.core c) (f := id) rfl
  rw [State.illegal_wfi h]
  generalize s.baseRetire c (s.core c) = m at hret ⊢
  obtain ⟨hframe, hbits, hcount, hothers, hcore⟩ := hret
  refine ⟨⟨?_, bitsBut_trans hbits (bitsBut_setFld (f := Reg.cc_WFI c) m _ (by simp)), ?_, hothers, hcore⟩,
    m.flag_setFlag (Reg.cc_WFI c) true⟩
  · rw [hframe]
    rfl
  · rw [← hcount]
    exact State.fld_eq_of_reg (m.reg_setFlag_other (Reg.cc_WFI c) true (by simp [Reg.cc_INSTRET, Reg.cc_WFI]))

variable {f3 : Nat} {rs rd : Fin 32} (hf3 : f3 ∈ [1, 2, 3, 5, 6, 7])
include hf3

/-- A CSR instruction on a CSR that the spec names. -/
theorem State.illegal_csrWord {csr : Nat} (hcsr : csr ∈ [0x7C0, 0x8C0, 0xC00, 0xC01]) :
    s.illegal c (csrWord csr f3 rs rd).toNat = s.csrOp c (csrWord csr f3 rs rd).toNat csr := by
  simp only [List.mem_cons, List.not_mem_nil, or_false] at hf3
  have hlt : csr < 4096 := by
    simp only [List.mem_cons, List.not_mem_nil, or_false] at hcsr
    omega
  obtain ⟨hmajor, hfunct, hfield, -⟩ := csrWord_fields hlt (show f3 < 8 by omega) rs rd
  have hop := State.illegal_csr h hmajor (baseLegal_csrWord hlt (by omega) rs rd (by omega)) (by omega) (hfield.symm ▸ hcsr)
  rwa [hfield] at hop

theorem kvcfg_shows : if (s.core c).user then Trapped s (s.illegal c (csrWord 0x7C0 f3 rs rd).toNat) c 2 (csrWord 0x7C0 f3 rs rd).toNat
    else
      let old := b2n (s.core c).kven + 2 * b2n (s.core c).kvu
      let new := csrNew s c f3 rs old
      BaseRetired s (s.illegal c (csrWord 0x7C0 f3 rs rd).toNat) c
        (fun x => { x.setX rd (BitVec.ofNat 64 old) with kven := new.testBit 0, kvu := new.testBit 1 }) := by
  rw [State.illegal_csrWord h hf3 (by decide)]
  cases hu : (s.core c).user with
  | true =>
    rw [if_pos rfl, State.csrOp_traps (by decide) hf3 (.inl ⟨rfl, hu⟩)]
    exact trapped_trap (by decide) (by decide)
  | false =>
    have hold : (s.csrRead (s.core c) 0x7C0).1 = b2n (s.core c).kven + 2 * b2n (s.core c).kvu := by
      rw [Nat.mul_comm]
      exact congrArg (_ + ·) (Nat.shiftLeft_eq _ 1)
    rw [if_neg Bool.false_ne_true, State.csrOp_flags (by decide) hf3 (.inl ⟨rfl, hu⟩), hold]
    refine baseRetired_baseRetire s c ?_
    unfold CoreSt.setX
    split <;> rfl

theorem kvstat_shows : let old := b2n (s.core c).sat + 2 * b2n (s.core c).dirty
    let new := csrNew s c f3 rs old
    BaseRetired s (s.illegal c (csrWord 0x8C0 f3 rs rd).toNat) c
      (fun x => { x.setX rd (BitVec.ofNat 64 old) with sat := new.testBit 0, dirty := new.testBit 1 }) := by
  have hold : (s.csrRead (s.core c) 0x8C0).1 = b2n (s.core c).sat + 2 * b2n (s.core c).dirty := by
    rw [Nat.mul_comm]
    exact congrArg (_ + ·) (Nat.shiftLeft_eq _ 1)
  rw [State.illegal_csrWord h hf3 (by decide), State.csrOp_flags (by decide) hf3 (.inr rfl), hold]
  refine baseRetired_baseRetire s c ?_
  unfold CoreSt.setX
  split <;> rfl

theorem time_shows : if f3 % 4 = 1 ∨ rs ≠ 0 then Trapped s (s.illegal c (csrWord 0xC01 f3 rs rd).toNat) c 2 (csrWord 0xC01 f3 rs rd).toNat
    else BaseRetired s (s.illegal c (csrWord 0xC01 f3 rs rd).toNat) c (fun x => x.setX rd (BitVec.ofNat 64 s.now)) := by
  rw [State.illegal_csrWord h hf3 (by decide)]
  by_cases hw : f3 % 4 = 1 ∨ rs ≠ 0
  · rw [if_pos hw, State.csrOp_traps (by decide) hf3 (.inr ⟨by decide, decide_eq_true hw⟩)]
    exact trapped_trap (by decide) (by decide)
  · have hno : csrWrites f3 rs = false := decide_eq_false hw
    rw [if_neg hw, State.csrOp_retires (by decide) hf3 (by simp [hno]) (old := s.now) rfl, hno, if_neg Bool.false_ne_true]
    refine baseRetired_baseRetire s c ?_
    unfold CoreSt.setX
    split <;> rfl

end Words

/-! ## Loads and stores that trap (R211, R234) -/

section Fault

variable {s : State} {c : Core} (h : KvReady s c) {k rs1 : Fin 32} {imm : BitVec 12} {half : Bool}
include h

theorem exec_kvLoad_of_fault (hbad : s.coreAccess c (kvAddr s c rs1 imm) (kvBytes half) false = .fault) :
    exec (if half then .kldh c k rs1 imm else .kld c k rs1 imm) s = .next (s.trap c 5 (kvAddr s c rs1 imm)).landed := by
  rw [exec_kvLoad]
  refine congrArg (fun u : State => Host.Outcome.next u.landed) ((State.kv_of_ready h (kvLegal_kvLoadWord k rs1 imm half) _).trans ?_)
  dsimp only
  rw [kvAddr_eq, hbad]

theorem exec_kvStore_of_fault (hbad : s.coreAccess c (kvAddr s c rs1 imm) (kvBytes half) true = .fault) :
    exec (if half then .ksth c k rs1 imm else .kst c k rs1 imm) s = .next (s.trap c 7 (kvAddr s c rs1 imm)).landed := by
  rw [exec_kvStore]
  refine congrArg (fun u : State => Host.Outcome.next u.landed) ((State.kv_of_ready h (kvLegal_kvStoreWord k rs1 imm half) _).trans ?_)
  dsimp only
  rw [kvAddr_eq, hbad]

end Fault

/-- The event that a core reports as it meets poison. -/
def poisonMet (s : State) (c : Core) (code a : Nat) : Ev :=
  { page := 0x87 + c, code := code, stn := s.coreStn c, master := 0x40 + c, acc := 0, addr := a }

/-- A core that meets poison at a: m is what its read has left. -/
def State.metPoison (m s : State) (c : Core) (a : Nat) : State :=
  ((m.report (poisonMet s c Code.corePoison a)).report (poisonMet s c Code.poisonConsumed a)).trap c 24 a

section Poison

variable {m s : State} {c : Core} {k rs1 : Fin 32} {imm : BitVec 12} {half : Bool}

theorem exec_kvLoad_of_poison (h : KvReady s c) (hc : Calm s) (hok : s.coreAccess c (kvAddr s c rs1 imm) (kvBytes half) false = .ok)
    (hpsn : s.psnIn (kvAddr s c rs1 imm) (kvBytes half) = true) (hheld : s.coreHeld c (kvAddr s c rs1 imm) (kvBytes half) = false) :
    exec (if half then .kldh c k rs1 imm else .kld c k rs1 imm) s =
      .next ((s.coreRead c (kvAddr s c rs1 imm) (kvBytes half)).metPoison s c (kvAddr s c rs1 imm)).landed := by
  have hmpsn := ((coreRead_accessOnly c (kvAddr s c rs1 imm) (kvBytes half) hc).psnIn (kvAddr s c rs1 imm) (kvBytes half)).trans hpsn
  rw [exec_kvLoad]
  exact congrArg (fun u : State => Host.Outcome.next u.landed)
    ((State.kvLoad_of_ok h (kvLegal_kvLoadWord k rs1 imm half) hok hheld).trans (if_pos hmpsn))

/-- An event that its page has room for waits. -/
theorem State.report_events_of_room (m : State) (e : Ev) (h : (m.events.filter (fun x => decide (x.page = e.page))).length < 4) :
    ∃ lost time, (m.report e).events = m.events ++ [⟨e.page, e.code, e.stn, e.inj, lost, e.master, e.acc, e.detail, e.addr, time⟩] := by
  have hevents := State.enqueue_events_of_room ((m.capture e).bump (Reg.hdr_EVENTS e.page) 1) e (by simpa using h)
  rw [State.bump_events, State.capture_events] at hevents
  exact ⟨_, _, hevents⟩

variable (m s c) (a : Nat)

/-- Two events wait where the page has room for them. -/
theorem State.events_metPoison (hroom : (m.events.filter (fun e => decide (e.page = 0x87 + c.val))).length < 3) :
    ∃ e f : Event, (m.metPoison s c a).events = m.events ++ [e, f] ∧ e.code = 0x09 ∧ f.code = 0x08 ∧
      ∀ x ∈ [e, f], x.master = 0x40 + c.val ∧ x.addr = a ∧ x.stn = s.coreStn c := by
  obtain ⟨_, _, hfirst⟩ := m.report_events_of_room (poisonMet s c Code.corePoison a) (Nat.lt_succ_of_lt hroom)
  have hroom2 : ((m.report (poisonMet s c Code.corePoison a)).events.filter
      (fun x => decide (x.page = (poisonMet s c Code.poisonConsumed a).page))).length < 4 := by
    rw [hfirst, List.filter_append, List.length_append]
    exact Nat.add_lt_add_of_lt_of_le hroom (List.length_filter_le _ _)
  obtain ⟨_, _, hsecond⟩ := (m.report (poisonMet s c Code.corePoison a)).report_events_of_room (poisonMet s c Code.poisonConsumed a) hroom2
  rw [hfirst, List.append_assoc] at hsecond
  rw [State.metPoison, State.trap_poison, State.bump_events, State.trapNoted_frame]
  refine ⟨_, _, hsecond, rfl, rfl, fun x hx => ?_⟩
  rcases List.mem_pair.mp hx with rfl | rfl <;> exact ⟨rfl, rfl, rfl⟩

/-- Registers off the core's page stand. -/
theorem State.reg_metPoison_other {o : Nat} (ho : o / 0x1_0000 ≠ 0x87 + c.val) : (m.metPoison s c a).reg o = m.reg o := by
  have hreport (u : State) (code : Nat) : (u.report (poisonMet s c code a)).reg o = u.reg o :=
    u.reg_report_other _ (by simp only [poisonMet]; omega)
  rw [State.metPoison, State.trap_poison, State.reg_bump_other _ _ _ (by simp only [Reg.cc_POIS_CNT]; omega),
    reg_of_bitsBut (State.bitsBut_trapNoted _ c 24 a), hreport, hreport]
  simp only [List.mem_cons, List.not_mem_nil, or_false]
  rintro f (rfl | rfl) <;> simp only [Reg.cc_TRAP_CNT, Reg.cc_LAST_CAUSE] <;> omega

theorem State.sameMemory_metPoison (h : SameMemory s m) : SameMemory s (m.metPoison s c a) := by
  have hreports : SameMemory s ((m.report (poisonMet s c Code.corePoison a)).report (poisonMet s c Code.poisonConsumed a)) :=
    sameMemory_trans (sameMemory_trans h (m.sameMemory_report _)) (State.sameMemory_report _ _)
  rw [State.metPoison, State.trap_poison]
  generalize (m.report _).report _ = u at hreports ⊢
  exact sameMemory_trans hreports (memory_of_eq rfl rfl)

/-- A poison count beside a trap's own registers. -/
theorem trapTaken_bump_POIS_CNT {cause tval : Nat} (h : TrapTaken s m c cause tval) : TrapTaken s (m.bump (Reg.cc_POIS_CNT c) 1) c cause tval := by
  obtain ⟨hcount, hcause, hcores⟩ := h
  refine ⟨?_, ?_, hcores⟩
  · rw [Counted]
    exact (State.fld_setFld_beside _ (Reg.cc_POIS_CNT c) (Reg.cc_TRAP_CNT c) _).trans hcount
  · rw [State.fld_eq_of_reg (State.reg_bump_other m (Reg.cc_POIS_CNT c) 1 (by simp [Reg.cc_POIS_CNT, Reg.cc_LAST_CAUSE])), hcause]

/-- The registers of a core that meets poison, and what it counts. -/
theorem metPoison_shows (hcore : ∀ d, m.core d = s.core d) (hpage : ∀ o, 0x87_0000 ≤ o → m.reg o = s.reg o) :
    TrapTaken s (m.metPoison s c a) c 24 a ∧ Counted s (m.metPoison s c a) (Reg.cc_POIS_CNT c) ∧
      (m.metPoison s c a).fld (Reg.hdr_EVENTS (0x87 + c)) = min (s.fld (Reg.hdr_EVENTS (0x87 + c)) + 2) (2 ^ 32 - 1) := by
  have hreport (u : State) (code : Nat) {f : Fld} (hf : 0x10000 * (0x87 + c.val) + 0x48 < f.off) :
      (u.report (poisonMet s c code a)).fld f = u.fld f := State.fld_eq_of_reg (u.reg_report_other _ (.inr hf))
  have hevents (u : State) (code : Nat) : (u.report (poisonMet s c code a)).fld (Reg.hdr_EVENTS (0x87 + c)) =
      min (u.fld (Reg.hdr_EVENTS (0x87 + c)) + 1) (2 ^ 32 - 1) := u.fld_report_EVENTS (poisonMet s c code a)
  rw [State.metPoison, State.trap_poison]
  generalize hu : (m.report (poisonMet s c Code.corePoison a)).report (poisonMet s c Code.poisonConsumed a) = u
  have hcores (d : Nat) : u.core d = s.core d := by
    rw [← hu, State.core, State.report_cores, State.report_cores]
    exact hcore d
  have hfld {f : Fld} (hf : 0x10000 * (0x87 + c.val) + 0x48 < f.off) : u.fld f = s.fld f := by
    rw [← hu, hreport _ _ hf, hreport _ _ hf]
    exact State.fld_eq_of_reg (hpage _ (by omega))
  refine ⟨trapTaken_bump_POIS_CNT _ _ c (trapTaken_trapNoted hcores (hfld ?_) (by decide)), ?_, ?_⟩
  · simp only [Reg.cc_TRAP_CNT]
    omega
  · rw [Counted, State.fld_bump_same _ (Reg.cc_POIS_CNT c) 1 (by simp [Reg.cc_POIS_CNT]) (by simp [Reg.cc_POIS_CNT])
      (by simp [Reg.cc_POIS_CNT]), State.fld_trapNoted_POIS_CNT, hfld (by simp only [Reg.cc_POIS_CNT]; omega)]
  · have hnoted : ((u.trapNoted c 24 a).bump (Reg.cc_POIS_CNT c) 1).fld (Reg.hdr_EVENTS (0x87 + c)) = u.fld (Reg.hdr_EVENTS (0x87 + c)) := by
      rw [State.fld_eq_of_reg (State.reg_bump_other _ (Reg.cc_POIS_CNT c) 1 (by simp only [Reg.cc_POIS_CNT, Reg.hdr_EVENTS]; omega))]
      refine State.fld_eq_of_reg (reg_of_bitsBut (u.bitsBut_trapNoted c 24 a) ?_)
      simp only [List.mem_cons, List.not_mem_nil, or_false]
      rintro f (rfl | rfl) <;> simp only [Reg.cc_TRAP_CNT, Reg.cc_LAST_CAUSE, Reg.hdr_EVENTS] <;> omega
    rw [hnoted, ← hu, hevents, hevents, State.fld_eq_of_reg (hpage (Reg.hdr_EVENTS (0x87 + c)).off (by simp only [Reg.hdr_EVENTS]; omega))]
    omega

/-- A load of poison traps, is counted, and is reported twice (R211, R234). -/
theorem poisonLoad_shows (n : Nat) (hc : Calm s) : let t := ((s.coreRead c a n).metPoison s c a).landed
    TrapTaken s t c 24 a ∧
      (∀ off, off / 0x1_0000 < 0x2C ∨ (0x43 < off / 0x1_0000 ∧ off / 0x1_0000 ≠ 0x87 + c.val) → t.reg off = s.reg off) ∧
      SameMemory s t ∧ Counted s t (Reg.cc_POIS_CNT c) ∧
      t.fld (Reg.hdr_EVENTS (0x87 + c.val)) = min (s.fld (Reg.hdr_EVENTS (0x87 + c.val)) + 2) (2 ^ 32 - 1) ∧
      ((s.events.filter (fun e => decide (e.page = 0x87 + c.val))).length < 3 →
        ∃ e f : Event, t.events = s.events ++ [e, f] ∧ e.code = 0x09 ∧ f.code = 0x08 ∧
          ∀ x ∈ [e, f], x.master = 0x40 + c.val ∧ x.addr = a ∧ x.stn = s.coreStn c) := by
  obtain ⟨hmem, hrec, hreg⟩ := coreTouched_coreRead c a n hc
  obtain ⟨-, hbytes, hmarks, -, -⟩ := coreRead_accessOnly c a n hc
  generalize s.coreRead c a n = m at hmem hrec hreg hbytes hmarks ⊢
  obtain ⟨htaken, hcount, hevents⟩ := metPoison_shows m s c a hmem.core fun o ho => hreg o fun ⟨_, hhi, _⟩ => by omega
  have hsame := m.sameMemory_metPoison s c a (memory_of_eq hbytes hmarks)
  have hwait : m.events = s.events := congrArg Prod.fst hrec
  have hqueue := m.events_metPoison s c a
  rw [hwait] at hqueue
  have hpages {o : Nat} (ho : o / 0x1_0000 < 0x2C ∨ (0x43 < o / 0x1_0000 ∧ o / 0x1_0000 ≠ 0x87 + c.val)) :
      (m.metPoison s c a).reg o = s.reg o :=
    (m.reg_metPoison_other s c a (by omega)).trans (hreg o fun ⟨hlo, hhi, _⟩ => by omega)
  generalize m.metPoison s c a = t at htaken hcount hevents hsame hqueue hpages ⊢
  refine ⟨trapTaken_landed htaken, fun off ho => ?_, sameMemory_trans hsame (memory_of_eq rfl rfl), ?_, ?_, ?_⟩
  · rw [State.reg_landed, hpages ho]
  · rw [Counted, State.fld_landed, hcount]
  · rw [State.fld_landed, hevents]
  · rw [State.landed_events]
    exact hqueue

end Poison

/-- Settles O10: words that trap, CSR instructions and WFI by their fields, and loads and stores by what their checks meet. -/
theorem kvExceptions : Obligations.KvExceptions := by
  unfold Obligations.KvExceptions
  refine ⟨fun s c bits h hbad => ?_, fun s c f3 rs rd h hf3 => ?_, fun s c h => ?_, fun s c k rs1 imm half h => ?_⟩
  · exact ⟨_, rfl, trapped_illegal h hbad⟩
  · exact ⟨⟨_, rfl, kvcfg_shows h hf3⟩, ⟨_, rfl, kvstat_shows h hf3⟩, ⟨_, rfl, time_shows h hf3⟩⟩
  · exact ⟨_, rfl, wfi_shows h⟩
  · refine ⟨fun hbad => ?_, fun hbad => ?_, fun hok hpsn hheld hc => ?_⟩
    · exact ⟨_, exec_kvLoad_of_fault h hbad, trapped_landed (trapped_trap (by decide) (by decide))⟩
    · exact ⟨_, exec_kvStore_of_fault h hbad, trapped_landed (trapped_trap (by decide) (by decide))⟩
    · exact ⟨_, exec_kvLoad_of_poison h hc hok hpsn hheld, poisonLoad_shows s c _ _ hc⟩

end Sys2Proof.Machine
